-- ==== Sys2Proof/Word.lean ====
section
/-! DEFINITION. The word types of the device and their plainest readings (R9): a byte, a half-word of 16 bits, a word of
32 bits and a double-word of 64 bits, all little-endian in memory. -/

namespace Sys2Proof

/-- A byte. -/
abbrev Byte := BitVec 8
/-- A half-word: 16 bits (R9). -/
abbrev HWord := BitVec 16
/-- A word: 32 bits (R9). -/
abbrev Word := BitVec 32
/-- A double-word: 64 bits (R9). -/
abbrev DWord := BitVec 64
/-- A descriptor of a td or md register: 256 bits (R56). -/
abbrev Desc := BitVec 256
/-- A digest of 32 bytes. -/
abbrev Digest := BitVec 256

end Sys2Proof
end

