-- ==== Sys2Proof/Operand.lean ====
section
/-! DEFINITION. The operand types of the commands: who reaches the register map, where a thread is, which unit of the module
an event concerns, and what a frame of a flue carries. -/

namespace Sys2Proof

/-- A partition of the module, 0 to 3 (R400). -/
abbrev PartId := Fin 4
/-- A logical ember identity, 0 to 25,599 (R11). -/
abbrev EmberId := Fin 25600
/-- A thread of an ember, 0 to 7 (R56). -/
abbrev ThreadId := Fin 8
/-- A flue of the module, 0 to 31 (R13). -/
abbrev FlueId := Fin 32
/-- A PCIe function: PF0, and PF1 to PF4 for the partitions (R400). -/
abbrev FnId := Fin 5
/-- A mover of an ember, 0 or 1 (R74). -/
abbrev MoverId := Fin 2

/-- The masters of the register map (Table 19.1). -/
inductive Master where
  /-- PF0 (privileged) and PF1 to PF4 (one partition each). -/
  | pf (fn : FnId)
  /-- The I3C management target (privileged). -/
  | i3c
  /-- The serial debug port (privileged, while its rights are effective). -/
  | sdp
  deriving DecidableEq, Repr

/-- The site of a thread: its ember and its number there. -/
structure Site where
  e : EmberId
  t : ThreadId
  deriving DecidableEq, Repr

/-- The work class of a context or thread (R57). -/
inductive WorkClass where
  /-- latency-critical -/
  | lc
  /-- best-effort -/
  | be
  deriving DecidableEq, Repr

/-- The units of Table 2.4 that have an idle state of their own; a flue's idle state is its FLUE_STATE. -/
inductive UnitId where
  | grate (g : Fin 400)
  | shelfBank (b : Fin 64)
  | hbmStack (h : Fin 16)
  deriving DecidableEq, Repr

/-- A module position of the torus (R12): t0 to t3 and the member, 0 to 7 active and 8 the standby. -/
structure Pos where
  t0 : Nat
  t1 : Nat
  t2 : Nat
  t3 : Nat
  member : Nat
  deriving DecidableEq, Repr

/-- One failing ember of compute-die self-test: its grate and its physical index there (R35). -/
structure FailedEmber where
  grate : Fin 400
  phys : Fin 72
  deriving DecidableEq, Repr

/-- A ring of a function: its admin ring, or queue `q` of the context with index `c` (R406). -/
inductive RingId where
  | admin
  | queue (c : Fin 1024) (q : Fin 16)
  deriving DecidableEq, Repr

/-- A host command as the device executes it: the ring whose front command it is, the 64 bytes of the entry (little-endian,
used where the entry has not been fetched yet), and the bytes read from host memory at the addresses the command names. -/
structure HostCmd where
  fn : FnId
  ring : RingId
  entry : BitVec 512
  data : List Byte
  deriving DecidableEq, Repr

/-- A request frame of the serial debug port (Table 17.5): LEN is the length of the payload. -/
structure SdpFrame where
  op : Byte
  part : Byte
  arg0 : DWord
  arg1 : Word
  payload : List Byte
  crcOk : Bool
  deriving DecidableEq, Repr

/-- A private write to the I3C target (R425): the address on the bus, CMD, the zero byte and the payload of LEN bytes. -/
structure I3cWrite where
  addr : BitVec 7
  cmd : Byte
  zero : Byte
  payload : List Byte
  deriving DecidableEq, Repr

end Sys2Proof
end

