-- ==== Sys2Proof/Frame.lean ====
section
/-! DEFINITION. The frames of the fabric (R257, Tables 11.5 to 11.7, 12.4, 12.5, 13.4, 14.4, 21.3): the header fields that every
frame carries and the bodies of the frame types. A record that the device splits over several frames is one frame here; what it
is on the link stands in Machine/Wire.lean. -/

namespace Sys2Proof

/-- The virtual channels (Table 11.3). -/
inductive Vc where
  | lc | be | ctrl | relight
  deriving DecidableEq, Repr

/-- A REQ entry (Table 8.5). -/
structure ReqEntry where
  tries : Nat
  slot : Nat
  step : Nat
  deriving DecidableEq, Repr

/-- A step record (Table 8.4): the dropped slots and the inputs offered for the next step. -/
structure StepRec where
  step : DWord
  epoch : Word
  lineage : Word
  nmb : Nat
  ncontrib : Nat
  replay : Bool
  dropped : List Nat
  req : List ReqEntry
  deriving DecidableEq, Repr

/-- The fields of a COLL frame's TSPEC (Table 12.4) but for the element index. -/
structure CollHdr where
  grp : Nat
  kind : Nat
  op : Nat
  scope : Nat
  level : Nat
  round : Nat
  results : Bool
  empty : Bool
  len : Nat
  cseq : Nat
  deriving DecidableEq, Repr

/-- The fields of a RING frame's TSPEC (Table 12.5) that every kind carries. -/
structure RingHdr where
  ring : Nat
  step : Nat
  l : Nat
  len : Nat
  ember : Nat
  thread : Nat
  origin : Nat
  deriving DecidableEq, Repr

/-- The roles that RL_ROLE gives (Table 13.9). -/
inductive Role where
  | none | active | standby | adopted
  deriving DecidableEq, Repr

/-- The job fingerprint of an OPEN frame (Table 11.9). -/
structure OpenBody where
  draught : Nat
  jobId : BitVec 128
  lineage : Word
  epoch : Word
  step : DWord
  pos : Pos
  role : Role
  deriving DecidableEq, Repr

/-- A shard record (Table 14.5): a partition's part of a checkpoint generation, with its signature. -/
structure ShardRec where
  pos : Pos
  gen : Nat
  step : DWord
  bytes : List Byte
  sign : List Byte
  deriving DecidableEq, Repr

/-- One generation that a position can offer for a restore (R342). -/
structure AvailEntry where
  step : DWord
  gen : Nat
  committed : Bool
  manifest : Bool
  deriving DecidableEq, Repr

/-- The part of a frame after its header, by frame type. -/
inductive FrameBody where
  /-- FTYPE 0x01: destination ember, thread, window and offset; the extent, on the first frame of a transfer; sending ember,
  mover and thread; the bytes; LAST. -/
  | data (dEmber dThread win off : Nat) (ext : Option (Nat × Nat)) (sEmber sMover sThread : Nat) (bytes : List Byte) (last : Bool)
  /-- FTYPE 0x02: the transfer of that ember, mover and thread is complete, or was turned away at the window (R139). -/
  | dack (sEmber sMover sThread : Nat) (refusedByWindow : Bool)
  /-- FTYPE 0x03 (Table 12.4); `nth` is the frame's number within its exchange, which chooses its flue (R280). -/
  | coll (h : CollHdr) (elemFirst nth : Nat) (words : List Word)
  /-- FTYPE 0x04, KIND 0. -/
  | ringReady (h : RingHdr)
  /-- FTYPE 0x04, KIND 1. -/
  | ringData (h : RingHdr) (elemFirst : Nat) (words : List Word)
  /-- FTYPE 0x04, KIND 2. -/
  | ringAck (h : RingHdr)
  /-- FTYPE 0x10: count and health word (R270). -/
  | heartbeat (count : DWord) (health : Word)
  /-- FTYPE 0x11. -/
  | steprec (r : StepRec)
  /-- FTYPE 0x12: the contribution of a carrier to its slot (R189). -/
  | contrib (slot : Nat) (origin : Pos)
  /-- FTYPE 0x13. -/
  | dropmark
  /-- FTYPE 0x14. -/
  | openF (b : OpenBody)
  /-- FTYPE 0x15. -/
  | refuse (cause : Nat)
  /-- a quarantine report on its way to the stokers (R262). -/
  | quarReport (flue cause : Nat)
  /-- FTYPE 0x16: a FREEZE broadcast, with its cause ROUTE_LOST or a quarantine's (R262, R318), or the release of a Relight freeze, with the epoch to take. -/
  | freeze (routeLost : Bool)
  | freezeRelease (epoch : Word)
  /-- FTYPE 0x17: a new job stoker (R271, R319). -/
  | stoker
  /-- the answer of a hearth stoker to STOKER: its newest group-sealed boundary and lost members. -/
  | stokerAnswer (sealed : Option DWord) (lost : List Nat)
  /-- FTYPE 0x18: announce, manifest and restore choice (Table 14.4), with the positions to rebuild and the manifest; GEN 0 says
  that the restore is refused, with the report's entries. -/
  | ckptAnnounce (gen : Nat) (step : DWord) (reasons : Nat)
  | ckptManifest (gen : Nat) (step : DWord) (bytes : List Byte) (sign : List Byte)
  | ckptRestore (gen : Nat) (step : DWord) (lost : List Pos) (bytes : List Byte)
  /-- FTYPE 0x19: a request, a shard record, a COMMITTED report and an availability list (Table 14.4). -/
  | ckrepRequest (reasons : Nat)
  | ckrepShard (r : ShardRec)
  | ckrepCommitted (gen : Nat)
  | ckrepAvail (gens : List AvailEntry)
  /-- FTYPE 0x1A: an ABORT request (byte 33 zero) or broadcast (byte 33 one), with its cause, the epoch it names, the
  step and the originating position (R463, R464). -/
  | abort (bcast : Bool) (cause : Nat) (epoch : Word) (step : DWord) (origin : Pos)
  /-- FTYPE 0x20: group of the sender, lost member, newest group-sealed boundary. -/
  | loss (member : Nat) (sealed : Option DWord)
  /-- FTYPE 0x21: new epoch, target boundary, adopted positions. -/
  | rfreeze (epoch : Word) (target : DWord) (adopted : List Pos)
  /-- FTYPE 0x22: position, target boundary, new epoch. -/
  | adopt (pos : Pos) (target : Option DWord) (epoch : Word)
  /-- FTYPE 0x23 (Table 13.5). -/
  | wpunit (unit role off : Nat) (bstep : DWord) (bytes : List Byte)
  /-- a holder's report that all its stripes are complete (R301), with the launch fields that the hearth stoker compares (R294). -/
  | holderReport (boundary : DWord) (fields : List Nat)
  /-- FTYPE 0x24. -/
  | sealF (job : Bool) (boundary : DWord)
  /-- FTYPE 0x25: a mirrored input write, and its acknowledgement. -/
  | mirror (slot off : Nat) (bytes : List Byte)
  | mirrorAck (slot off : Nat)
  /-- FTYPE 0x26. -/
  | resume
  /-- FTYPE 0x27. -/
  | withdraw (reason : Nat)
  deriving DecidableEq, Repr

/-- A frame: job epoch, lineage and step of its header, the logical positions it goes between (a broadcast goes to every
position of the job), its channel and its body. -/
structure Frame where
  epoch : Word
  lineage : Word
  step : DWord
  src : Pos
  dst : Option Pos
  vc : Vc
  body : FrameBody
  /-- the torus direction that the sender's route or ring names, where both directions reach the same neighbour (R199, R264, R266): not a field on
  the link. -/
  via : Option Nat := none
  deriving DecidableEq, Repr

/-- The link fingerprint (Table 11.9). -/
structure FpxBody where
  stepping : HWord
  capDigest : Digest
  member : Nat
  t : BitVec 20
  flue : Nat
  salt : BitVec 128
  deriving DecidableEq, Repr

/-- Link management frames (R250): LANE with the failed logical lane and its reply, which names the codeword from which the spare carries that
lane (R247), WIDTH, FPX. -/
inductive LinkFrame where
  | lane (lane : Nat)
  | laneReply (lane codeword : Nat)
  | width (w : Nat)
  | fpx (b : FpxBody)
  deriving DecidableEq, Repr

/-- What waits to be sent on a flue: a frame of a partition, or a link management frame. -/
inductive GroupLoad where
  | frame (f : Frame)
  | link (l : LinkFrame)
  deriving DecidableEq, Repr

/-- A flit group as it is on the link (R250, Table 11.3): the header's fields, its zero bits (`zeros`: bit 4 that of DW0, bits 3:0 those of DW1)
and its GCRC; NFLIT flits, of cipher text but for link management (KEYID 0); and the tag of 96 bits. -/
structure FlitGroup where
  fseq : Word
  ackSeq : BitVec 24
  nflit : Nat
  nak : Bool
  sof : Bool
  eof : Bool
  vc : Vc
  part : PartId
  keyId : Byte
  crPool : BitVec 4
  crCnt : BitVec 12
  zeros : BitVec 5
  gcrc : Word
  data : List Byte
  tag : BitVec 96
  deriving DecidableEq, Repr

/-- How the stored bytes of an HBM line can be wrong (Table 10.3). -/
inductive LineBad where
  | crc | tag | counter
  deriving DecidableEq, Repr

/-- A line of HBM as it is stored (R221, Table 10.2): 128 bytes of cipher text and the side-band's TAG, CRC and LCNT. -/
structure StoredLine where
  ct : BitVec 1024
  tag : DWord
  crc : HWord
  lcnt : BitVec 48
  deriving DecidableEq, Repr

/-- An outside change to a line of a partition's HBM (R240): its index λ and what it then holds. -/
structure LineFlip where
  line : Nat
  stored : StoredLine
  deriving DecidableEq, Repr

/-- An outside change to a kindling sector (R240): its physical address, the 4 KiB of cipher text and the spare area's tag and write
sequence that it then holds (R239). -/
structure SectorFlip where
  sector : Nat
  ct : List Byte
  tag : BitVec 128
  seq : DWord
  deriving DecidableEq, Repr

end Sys2Proof
end

