-- ==== Sys2Proof/Syntax.lean ====
section
/-! DEFINITION. The commands the device takes: one constructor per row of spec/opcode_table.json, with the row's operands.
An Ilmin instruction carries the site of the thread that issues it (ember and thread) and the fields of its word below the
opcode (R84); an event of the environment carries what the environment decides (a sample, an arriving frame, a result). -/

namespace Sys2Proof

/-- A command of the device. -/
inductive Instr where
  /-- POWER_GOOD (R34): The 48 V input has stayed within 46.0 V to 52.0 V for 10 ms, so the input monitor asserts power-good and a new lighting sequence begins. -/
  | powerGood
  /-- AO_UP_DONE (R34): Lighting state AO_UP completes and the sequence enters OTP_READ. -/
  | aoUpDone
  /-- OTP_READ_DONE (R34): OTP is read and the life-cycle state decoded; INVALID or SCRAP end lighting, otherwise the sequence enters REPAIR. -/
  | otpReadDone
  /-- REPAIR_DONE (R34): Repair maps, trims and the retirements held in the soot record are applied, and the sequence enters SELFTEST. -/
  | repairDone
  /-- HS_BIST_DONE (R37): Memory BIST of HS passes and the PCIe endpoint is enabled. -/
  | hsBistDone (pass : Bool)
  /-- SELFTEST_DONE (R34): Memory BIST of the MD dies and the shelf completes and the sequence enters HBM_TRAIN. -/
  | selftestDone (pass : Bool)
  /-- COMPUTE_BIST_DONE (R35): Compute-die BIST completes; each failing ember is retired to a spare, and a grate left short of good embers ends lighting with cause SPARES. -/
  | computeBistDone (failing : List FailedEmber)
  /-- HBM_TRAIN_DONE (R34): Every stack has trained at both rates, or one has failed three attempts, which ends lighting with cause HBM. -/
  | hbmTrainDone (ok : BitVec 16)
  /-- READY_ENTRY (R36): HBM training and compute-die BIST are both complete, so the device enters READY in BANKED draught and the critical fields change to voting. -/
  | readyEntry
  /-- LIGHT_TIMEOUT (R40): READY has not been reached 4 s after power-good, so lighting ends with cause TIMEOUT. -/
  | lightTimeout
  /-- CONFIG_PARITY_CHECK (R39): The periodic 1 ms parity check of configuration registers runs, and a mismatch ends lighting with cause PARITY. -/
  | configParityCheck (bad : Option (BitVec 26)) (part : Option PartId)
  /-- PERST_N_ASSERT (R38): PERST_N is asserted; during lighting it holds the endpoint in reset, and in READY it resets the endpoint and removes every tenant. -/
  | perstNAssert
  /-- PERST_N_RELEASE (R37): PERST_N is released, the endpoint leaves reset, and any staged layout is applied. -/
  | perstNRelease
  /-- HOT_RESET (R401): A hot reset received in READY removes every tenant and every reservation and applies any staged layout. -/
  | hotReset
  /-- FUNCTION_LEVEL_RESET (R401): A Function Level Reset of a partition function removes the tenant of that partition. -/
  | functionLevelReset (f : FnId)
  /-- PCIE_CONFIG_REQUEST (R37): The endpoint answers a configuration request, with Request Retry Status until HS BIST has passed. -/
  | pcieConfigRequest (f : FnId)
  /-- THERM_SAMPLE (R51): The thermal controller samples the 468 junction sensors every 10 µs and updates THERM_MAX and THERM_PEAK. -/
  | thermSample (temps : List Byte)
  /-- THERM_TRIP_FLASH_OFF (R52): After the trip's soot record entry, at most 50 ms later, power is removed from the kindling controller and flash. -/
  | thermTripFlashOff
  /-- INPUT_SAMPLE (R53): The input monitor samples the 48 V input every 1 µs and acts on the thresholds of Table 2.7. -/
  | inputSample (vin : BitVec 12)
  /-- HOLDUP_SAMPLE (R21): The hold-up monitor measures the bank every 1 µs and supplies the stored energy in ms to the life-cycle controller. -/
  | holdupSample (millivolts : HWord)
  /-- POWER_AVERAGE (R46): At the end of each 1 ms averaging period the power controller reduces or restores tile-engine issue against the mode's cap. -/
  | powerAverage (watts : BitVec 12)
  /-- DRAUGHT_QUIESCENT (R47): The quiescent point of a pending draught image is reached, with every partition idle or held at its step boundary. -/
  | draughtQuiescent
  /-- DRAUGHT_CHANGE_DONE (R48): Clocks, flue lanes and the HBM rate have changed, DRAUGHT_MODE is updated, and clocks and partitions are released. -/
  | draughtChangeDone
  /-- UNIT_IDLE (R43): A grate, shelf bank or HBM stack has gone without work or access for its idle period and enters its idle state. -/
  | unitIdle (u : UnitId)
  /-- UNIT_WAKE (R43): An idle unit has woken within its wake bound, and the stalled accesses and threads proceed. -/
  | unitWake (u : UnitId)
  /-- FETCH_LINE_FILL (R88): A thread's request for a new fetch line is granted as a row access, and the instruction is ready 4 cycles later. -/
  | fetchLineFill (site : Site) (strike : List Nat)
  /-- BE_TILE_SUSPEND (R59): A BE tile instruction reaches its next promotion boundary, or a BE TQNT its next output-brick boundary, and is suspended. -/
  | beTileSuspend (ember : EmberId)
  /-- BE_MOVER_PAUSE (R104): A BE mover descriptor reaches its next 4 KiB boundary and is paused, stepping aside in its queue. -/
  | beMoverPause (ember : EmberId) (mv : MoverId) (k : Nat) (flips : List LineFlip)
  /-- TILE_DISPATCH (R69): The free tile engine takes the next instruction: the oldest LC, then the suspended BE instruction, then the oldest BE. -/
  | tileDispatch (ember : EmberId) (upset : List (Fin 256 × Word))
  /-- TILE_COMPLETE (R123): A tile instruction completes, writing its output, flags, row statistics and absolute-maximum fold, and increments its tally. -/
  | tileComplete (ember : EmberId) (strike : List Nat)
  /-- TQNT_COMPLETE (R127): A TQNT has written its last brick and strip byte, sets its flags and increments its tally. -/
  | tqntComplete (ember : EmberId) (strike : List Nat)
  /-- SENTINEL_VERDICT (R181): The vector unit finishes the reference for a sampled chain and applies the miss test. -/
  | sentinelVerdict (ember : EmberId)
  /-- MOVER_DISPATCH (R74): A mover takes the next descriptor: the oldest LC, or, with no LC work, a paused or queued BE descriptor. -/
  | moverDispatch (ember : EmberId) (mv : MoverId)
  /-- MOVER_COMPLETE (R75): A mover writes the last byte of a descriptor at its destination and increments the named tally. -/
  | moverComplete (ember : EmberId) (mv : MoverId) (strike : List Nat) (flips : List LineFlip)
  /-- REM_WRITE_DONE (R105): A destination ember writes the last byte of a REM descriptor and increments its remote tally. -/
  | remWriteDone (ember : EmberId) (mv : MoverId) (strike : List Nat) (flips : List LineFlip)
  /-- REM_ACK (R105): The destination's acknowledgement reaches the source mover, which increments TALLY. -/
  | remAck (ember : EmberId) (mv : MoverId)
  /-- SPARE_COPY_DONE (R81): The copy to the spare completes, EMB_PHYS changes and the held step may proceed. -/
  | spareCopyDone (ember : EmberId)
  /-- EMB_RETIRE_REQ (R80): A privileged write of 1 to EMB_RETIRE_REQ requests the ember's retirement. -/
  | embRetireReq (ember : EmberId)
  /-- NOP (R93): The instruction does nothing. -/
  | nop (site : Site) (op : BitVec 12) (f : BitVec 52)
  /-- END (R93): The thread moves to IDLE while its tile and mover work completes. -/
  | endThread (site : Site) (f : BitVec 52)
  /-- BRK (R93): The thread halts when a debug session holds the halt right, and otherwise acts as NOP. -/
  | brk (site : Site) (f : BitVec 52)
  /-- TID (R93): Writes the logical identity, thread, class and partition to RD. -/
  | tid (site : Site) (f : BitVec 52)
  /-- STEPB (R101): The LC thread declares that it has reached the boundary after step RA and waits. -/
  | stepb (site : Site) (f : BitVec 52)
  /-- ADD (R91): ADD or ADDI writes RA plus RB or IMM, modulo 2^64. -/
  | add (site : Site) (imm : Bool) (f : BitVec 52)
  /-- SUB (R91): SUB or SUBI writes RA minus RB or IMM. -/
  | sub (site : Site) (imm : Bool) (f : BitVec 52)
  /-- AND (R91): AND or ANDI writes the bitwise AND. -/
  | andOp (site : Site) (imm : Bool) (f : BitVec 52)
  /-- OR (R91): OR or ORI writes the bitwise OR. -/
  | orOp (site : Site) (imm : Bool) (f : BitVec 52)
  /-- XOR (R91): XOR or XORI writes the bitwise XOR. -/
  | xorOp (site : Site) (imm : Bool) (f : BitVec 52)
  /-- ANDN (R91): ANDN or ANDNI writes RA AND NOT the operand. -/
  | andn (site : Site) (imm : Bool) (f : BitVec 52)
  /-- SHL (R91): SHL or SHLI shifts left by the operand modulo 64. -/
  | shl (site : Site) (imm : Bool) (f : BitVec 52)
  /-- SHR (R91): SHR or SHRI shifts right logically. -/
  | shr (site : Site) (imm : Bool) (f : BitVec 52)
  /-- SRA (R91): SRA or SRAI shifts right, copying the sign. -/
  | sra (site : Site) (imm : Bool) (f : BitVec 52)
  /-- MIN (R91): MIN or MINI writes the signed minimum. -/
  | minOp (site : Site) (imm : Bool) (f : BitVec 52)
  /-- MAX (R91): MAX or MAXI writes the signed maximum. -/
  | maxOp (site : Site) (imm : Bool) (f : BitVec 52)
  /-- MINU (R91): MINU or MINUI writes the unsigned minimum. -/
  | minu (site : Site) (imm : Bool) (f : BitVec 52)
  /-- MAXU (R91): MAXU or MAXUI writes the unsigned maximum. -/
  | maxu (site : Site) (imm : Bool) (f : BitVec 52)
  /-- POPC (R91): Writes the number of set bits of RA. -/
  | popc (site : Site) (f : BitVec 52)
  /-- CLZ (R91): Writes the number of leading zeros of RA. -/
  | clz (site : Site) (f : BitVec 52)
  /-- MOVHI (R91): Writes IMM into the upper 32 bits of RD and keeps the lower. -/
  | movhi (site : Site) (f : BitVec 52)
  /-- MOVI (R91): Writes the sign-extended IMM to RD. -/
  | movi (site : Site) (f : BitVec 52)
  /-- MUL (R91): Writes the low 64 bits of the product. -/
  | mul (site : Site) (f : BitVec 52)
  /-- MULH (R91): Writes the high 64 bits of the signed product. -/
  | mulh (site : Site) (f : BitVec 52)
  /-- MULHU (R91): Writes the high 64 bits of the unsigned product. -/
  | mulhu (site : Site) (f : BitVec 52)
  /-- DIV (R92): Writes the signed quotient, rounded towards zero, with the defined results for zero and overflow. -/
  | div (site : Site) (f : BitVec 52)
  /-- DIVU (R92): Writes the unsigned quotient. -/
  | divu (site : Site) (f : BitVec 52)
  /-- REM (R92): Writes the signed remainder, which has the sign of RA. -/
  | remOp (site : Site) (f : BitVec 52)
  /-- REMU (R92): Writes the unsigned remainder. -/
  | remu (site : Site) (f : BitVec 52)
  /-- CMP (R91): Compares RA with RB under the relation selected by MINOR and writes the result to a predicate. -/
  | cmp (site : Site) (rel : Fin 6) (f : BitVec 52)
  /-- CMPI (R91): Compares RA with IMM under the selected relation and writes the result to a predicate. -/
  | cmpi (site : Site) (rel : Fin 6) (f : BitVec 52)
  /-- PAND (R91): Writes the AND of two predicates. -/
  | pand (site : Site) (f : BitVec 52)
  /-- POR (R91): Writes the OR of two predicates. -/
  | por (site : Site) (f : BitVec 52)
  /-- PXOR (R91): Writes the XOR of two predicates. -/
  | pxor (site : Site) (f : BitVec 52)
  /-- PANDN (R91): Writes p[RA] AND NOT p[RB]. -/
  | pandn (site : Site) (f : BitVec 52)
  /-- PNZ (R91): Sets a predicate when RA is non-zero. -/
  | pnz (site : Site) (f : BitVec 52)
  /-- PGET (R91): Writes p7 to p0 as bits 7:0 of RD. -/
  | pget (site : Site) (f : BitVec 52)
  /-- BR (R93): Sets PC to PC plus OFF. -/
  | br (site : Site) (f : BitVec 52)
  /-- BRL (R93): Writes PC + 1 to s31 and branches as BR does. -/
  | brl (site : Site) (f : BitVec 52)
  /-- JR (R93): Jumps to RA[15:0], or raises FETCH_BOUNDS when RA[63:16] is not zero. -/
  | jr (site : Site) (f : BitVec 52)
  /-- JRL (R93): Writes PC + 1 to RD and jumps as JR does. -/
  | jrl (site : Site) (f : BitVec 52)
  /-- LDS (R94): Loads a sized, sign- or zero-extended value from scratch. -/
  | lds (site : Site) (minor : Fin 8) (f : BitVec 52) (strike : List Nat)
  /-- STS (R94): Stores the low bytes of RD to scratch. -/
  | sts (site : Site) (minor : Fin 4) (f : BitVec 52) (strike : List Nat)
  /-- ATOM (R95): Performs the atomic read-modify-write on a scratch double-word selected by MINOR and returns the old value. -/
  | atom (site : Site) (minor : Fin 8) (f : BitVec 52) (strike : List Nat)
  /-- LDV (R97): Issues a load from the partition's device-virtual space. -/
  | ldv (site : Site) (minor : Fin 8) (f : BitVec 52) (flips : List LineFlip)
  /-- LDV_ANSWER (R97): The memory-side die's answer to an LDV returns and writes RD. -/
  | ldvAnswer (site : Site) (ix : Fin 8)
  /-- STV (R97): Issues a store to the partition's device-virtual space. -/
  | stv (site : Site) (minor : Fin 4) (f : BitVec 52) (flips : List LineFlip)
  /-- STV_ACCEPT (R97): The memory-side die accepts an STV, which releases a waiting FENCE.V. -/
  | stvAccept (site : Site)
  /-- FENCE_V (R97): FENCE.V becomes ready once every earlier STV of the thread has been accepted. -/
  | fenceV (site : Site) (f : BitVec 52)
  /-- TSET (R98): Writes RA[31:0] to a tally. -/
  | tset (site : Site) (f : BitVec 52)
  /-- TSETI (R98): Writes IMM to a tally. -/
  | tseti (site : Site) (f : BitVec 52)
  /-- TADD (R98): Adds to a tally, saturating. -/
  | tadd (site : Site) (f : BitVec 52)
  /-- TRD (R98): Reads a tally into RD. -/
  | trd (site : Site) (f : BitVec 52)
  /-- TWAIT (R98): Waits until a tally reaches RA. -/
  | twait (site : Site) (f : BitVec 52)
  /-- TWAITI (R98): Waits until a tally reaches IMM. -/
  | twaiti (site : Site) (f : BitVec 52)
  /-- BARE (R99): Arrives at an ember barrier, which releases one cycle after the final arrival. -/
  | bare (site : Site) (f : BitVec 52)
  /-- BARP (R99): Arrives at a partition barrier. -/
  | barp (site : Site) (f : BitVec 52)
  /-- BARP_RELEASE (R99): A partition barrier whose arrivals have reached its count releases every arrived thread. -/
  | barpRelease (n : PartId) (be : Bool) (ix : Fin 64)
  /-- SEMSIG (R100): Adds to a semaphore, saturating, and serves waiters in arrival order. -/
  | semsig (site : Site) (f : BitVec 52)
  /-- SEMWAIT (R100): Waits until the semaphore holds at least RA, then subtracts RA indivisibly. -/
  | semwait (site : Site) (f : BitVec 52)
  /-- SEMRD (R100): Returns the semaphore word in RD. -/
  | semrd (site : Site) (f : BitVec 52)
  /-- DLD (R102): Loads a descriptor from scratch. -/
  | dld (site : Site) (f : BitVec 52) (strike : List Nat)
  /-- DST (R102): Stores a descriptor to scratch. -/
  | dst (site : Site) (f : BitVec 52)
  /-- DSETW (R102): Writes one double-word of a descriptor. -/
  | dsetw (site : Site) (f : BitVec 52)
  /-- DGETW (R102): Reads one double-word of a descriptor. -/
  | dgetw (site : Site) (f : BitVec 52)
  /-- MOVE (R103): Checks a mover descriptor and queues it on the selected mover. -/
  | moveDesc (site : Site) (mv : MoverId) (f : BitVec 52)
  /-- MVQ (R103): Returns the number of free entries in a mover queue. -/
  | mvq (site : Site) (f : BitVec 52)
  /-- ALLOC_H (R107): Requests a block from the HBM heap. -/
  | allocH (site : Site) (f : BitVec 52)
  /-- ALLOC_S (R107): Requests a block from the shelf heap. -/
  | allocS (site : Site) (f : BitVec 52)
  /-- FREE (R216): Returns a block to its heap, which makes the block pending. -/
  | freeBlock (site : Site) (f : BitVec 52)
  /-- HEAP_ANSWER (R215): The heap controller serves an ALLOC or FREE and its answer returns to the thread. -/
  | heapAnswer (n : PartId)
  /-- CAPRD (R108): Reads an entry of the capability and topology table. -/
  | caprd (site : Site) (f : BitVec 52)
  /-- STEP_BOUNDARY (R101): Every LC thread has issued STEPB with no work in flight and the step record has arrived, so retirements, damper images, holds, scale-table update, FREE returns and the boundary image are applied and the threads are released. -/
  | stepBoundary (n : PartId)
  /-- TMMA_START (R118): Clears the accumulator set, opens a chain and queues its k-steps. -/
  | tmmaStart (site : Site) (tb ta : Bool) (f : BitVec 52)
  /-- TMMA_CONTINUE (R118): Extends the open chain by KLEN. -/
  | tmmaContinue (site : Site) (tb ta : Bool) (f : BitVec 52)
  /-- TMMA_FINISH (R118): Extends the chain by KLEN, produces the output and closes the chain. -/
  | tmmaFinish (site : Site) (tb ta : Bool) (f : BitVec 52)
  /-- TMMA_SINGLE (R118): Performs START and FINISH in one instruction. -/
  | tmmaSingle (site : Site) (tb ta : Bool) (f : BitVec 52)
  /-- TQNT (R126): Quantises bricks by the selected recipe and rotation. -/
  | tqnt (site : Site) (rot : Fin 4) (recipe : Fin 8) (f : BitVec 52)
  /-- TSTAT_MAX (R128): Writes the row maxima to a vector register. -/
  | tstatMax (site : Site) (f : BitVec 52)
  /-- TSTAT_SEXP (R128): Writes the row sums of exponentials. -/
  | tstatSexp (site : Site) (f : BitVec 52)
  /-- TSTAT_SSQ (R128): Writes the row sums of squares. -/
  | tstatSsq (site : Site) (f : BitVec 52)
  /-- TSTAT_SUM (R128): Writes the row sums. -/
  | tstatSum (site : Site) (f : BitVec 52)
  /-- TSTAT_MEAN (R128): Writes the row means. -/
  | tstatMean (site : Site) (f : BitVec 52)
  /-- TSTAT_CNT (R128): Writes the row counts. -/
  | tstatCnt (site : Site) (f : BitVec 52)
  /-- TSTAT_S (R128): Writes the tile status word. -/
  | tstatS (site : Site) (f : BitVec 52)
  /-- TSTAT_CLR (R128): Returns the row statistics to their cleared state. -/
  | tstatClr (site : Site) (f : BitVec 52)
  /-- TSTAT_CLRS (R128): Clears the sticky bits of the status word. -/
  | tstatClrs (site : Site) (f : BitVec 52)
  /-- SCTRD (R129): Reads a double-word of a scale-table entry as fixed at the last boundary. -/
  | sctrd (site : Site) (f : BitVec 52)
  /-- VADD (R130): Adds two vectors lane by lane. -/
  | vadd (site : Site) (f : BitVec 52)
  /-- VSUB (R130): Subtracts two vectors lane by lane. -/
  | vsub (site : Site) (f : BitVec 52)
  /-- VMUL (R130): Multiplies two vectors lane by lane. -/
  | vmul (site : Site) (f : BitVec 52)
  /-- VFMA (R130): Performs a fused multiply-add with one rounding. -/
  | vfma (site : Site) (f : BitVec 52)
  /-- VFMS (R130): Performs a fused multiply-subtract with one rounding. -/
  | vfms (site : Site) (f : BitVec 52)
  /-- VMAX (R130): Writes the lane maximum. -/
  | vmax (site : Site) (f : BitVec 52)
  /-- VMIN (R130): Writes the lane minimum. -/
  | vmin (site : Site) (f : BitVec 52)
  /-- VABS (R130): Writes the absolute value of each lane. -/
  | vabs (site : Site) (f : BitVec 52)
  /-- VMOV (R130): Copies a vector register. -/
  | vmov (site : Site) (f : BitVec 52)
  /-- VEXP (R132): Writes the correctly rounded e^x of each lane. -/
  | vexp (site : Site) (f : BitVec 52)
  /-- VRSQ (R132): Writes the correctly rounded 1/sqrt(x) of each lane. -/
  | vrsq (site : Site) (f : BitVec 52)
  /-- VRCP (R132): Writes the correctly rounded 1/x of each lane. -/
  | vrcp (site : Site) (f : BitVec 52)
  /-- VLD_ROW (R133): Loads one scratch row into a vector register. -/
  | vldRow (site : Site) (f : BitVec 52) (strike : List Nat)
  /-- VLD_PAIR (R133): Loads a row pair into a vector register. -/
  | vldPair (site : Site) (f : BitVec 52) (strike : List Nat)
  /-- VLD_SLAB (R133): Loads a column slab into a vector register. -/
  | vldSlab (site : Site) (f : BitVec 52) (strike : List Nat)
  /-- VST_ROW (R133): Stores a vector register as one row. -/
  | vstRow (site : Site) (f : BitVec 52)
  /-- VST_PAIR (R133): Stores a vector register as a row pair. -/
  | vstPair (site : Site) (f : BitVec 52)
  /-- VST_SLAB (R133): Stores a vector register as a column slab. -/
  | vstSlab (site : Site) (f : BitVec 52)
  /-- VBC (R134): Broadcasts RA[31:0] to every lane. -/
  | vbc (site : Site) (f : BitVec 52)
  /-- VGET (R134): Reads one lane into a scalar register. -/
  | vget (site : Site) (f : BitVec 52)
  /-- VRSUM (R134): Reduces the 32 lanes by sum in the fixed pairwise tree. -/
  | vrsum (site : Site) (f : BitVec 52)
  /-- VRMAX (R134): Reduces the 32 lanes by maximum in the fixed pairwise tree. -/
  | vrmax (site : Site) (f : BitVec 52)
  /-- SNTCFG (R135): Sets the thread's sampling exponent and drift enable. -/
  | sntcfg (site : Site) (f : BitVec 52)
  /-- SNTRD (R136): Reads a sentinel configuration or statistic. -/
  | sntrd (site : Site) (f : BitVec 52)
  /-- SNTSHD (R137): Names the BF16 shadow operands for the thread's next chain. -/
  | sntshd (site : Site) (f : BitVec 52)
  /-- FSEND (R139): Launches a transfer of a descriptor to a peer module's receive window. -/
  | fsend (site : Site) (mv : MoverId) (f : BitVec 52)
  /-- FWIN (R138): Opens, changes or closes a receive window. -/
  | fwin (site : Site) (f : BitVec 52)
  /-- DTRED_ALL (R142): Starts an all-reduce on the draught tree. -/
  | dtredAll (site : Site) (f : BitVec 52)
  /-- DTRED_RS (R142): Starts a reduce-scatter on the draught tree. -/
  | dtredRs (site : Site) (f : BitVec 52)
  /-- DTBC (R286): Starts a broadcast from the rank ROOT. -/
  | dtbc (site : Site) (f : BitVec 52)
  /-- DTBAR (R286): Starts a barrier on the draught tree. -/
  | dtbar (site : Site) (f : BitVec 52)
  /-- RINGSTEP (R144): Starts exchange step s on a ring. -/
  | ringstep (site : Site) (f : BitVec 52)
  /-- COLLECTIVE_COMPLETE (R142): A collective's result is written at a participant, which increments TALLY. -/
  | collectiveComplete (site : Site) (grp : Fin 64) (strike : List Nat) (flips : List LineFlip)
  /-- BE_SCALE_FIX (R165): While no LC context is in RUN, the BE scale table is fixed every 1 ms. -/
  | beScaleFix (n : PartId)
  /-- CONTRIB (R189): A contribution report reaches the job stoker, and the slot contributes once every one of its carriers has reported. -/
  | contribReport (n : PartId)
  /-- STEP_DEADLINE (R190): DEADLINE_US expires, so the step record is issued or, below MIN_CONTRIB, the step is declared void. -/
  | stepDeadline (n : PartId)
  /-- STEPREC (R191): A step record arrives and is written to the step page, and STEP_SEM_REC is signalled. -/
  | steprecFrame (n : PartId) (us : Word)
  /-- DROPMARK (R194): A co-carrier's drop marker arrives and ends the discarding of its frames. -/
  | dropmarkFrame (n : PartId)
  /-- BANK_OUT_DONE (R209): A page's sectors have been copied to a slot, and the entry is written as banked. -/
  | bankOutDone (n : PartId) (page : BitVec 27)
  /-- UNBANK_START (R211): A waiting unbank takes a frame from the pool and a place among the 64 concurrent unbanks. -/
  | unbankStart (n : PartId)
  /-- UNBANK_DONE (R210): The sectors are verified and written to the frame, the entry is written, and parked threads and stalled movers resume. -/
  | unbankDone (n : PartId) (page : BitVec 27) (ns : Word) (flips : List SectorFlip)
  /-- TAG_VERDICT (R232): The tag and counter verdict of a released line reaches the reader's partition. -/
  | tagVerdict (n : PartId)
  /-- OUTBOUND_HOLD_RELEASE (R233): The 96-cycle hold of outbound data ends, so the data leaves the trust boundary. -/
  | outboundHoldRelease
  /-- RWC_THRESHOLD (R227): A die's RWC for a region reaches 2^48 - 2^32, so an EPOCH pass is requested, or RETIRED is set at the last epoch. -/
  | rwcThreshold (n : PartId) (frame : BitVec 19) (die : Fin 4)
  /-- SWEEP_EPOCH_REQUEST (R234): A write of SWP_GO with SWP_KIND EPOCH requests an EPOCH pass over a range of frames. -/
  | sweepEpochRequest (n : PartId) (first last : BitVec 19)
  /-- SWEEP_KEY_REQUEST (R234): A write of SWP_GO with SWP_KIND KEY requests a KEY pass over the partition. -/
  | sweepKeyRequest (n : PartId)
  /-- SWEEP_QUEUED_START (R234): A queued automatic EPOCH request takes a pass slot that has become free. -/
  | sweepQueuedStart
  /-- SWEEP_WINDOW_STEP (R236): A memory-side die locks, re-encrypts and releases one 16-line window, and completes a region or pass at its end. -/
  | sweepWindowStep (slot : Fin 16) (die : Fin 4) (flips : List LineFlip) (ns : Word)
  /-- SWEEP_RESUME (R238): A pass stopped by a CRC failure resumes at Bm after the partition's release. -/
  | sweepResume (slot : Fin 16) (die : Fin 4)
  /-- FLUE_EN_SET (R249): Writing 1 to FLUE_EN starts the flue's bring-up. -/
  | flueEnSet (flue : FlueId)
  /-- FLUE_EN_CLEAR (R249): Writing 0 to FLUE_EN returns the flue to IDLE. -/
  | flueEnClear (flue : FlueId)
  /-- FLUE_DETECT_DONE (R249): The far-end receiver is detected and the flue enters TRAIN. -/
  | flueDetectDone (flue : FlueId)
  /-- FLUE_TRAIN_DONE (R249): Equalisation completes and the flue enters ALIGN. -/
  | flueTrainDone (flue : FlueId)
  /-- FLUE_ALIGN_DONE (R249): Lanes are deskewed and locked, and the flue enters INIT. -/
  | flueAlignDone (flue : FlueId)
  /-- FLUE_INIT_DONE (R249): Sequences and credits are set to 0 and the flue enters FPX. -/
  | flueInitDone (flue : FlueId)
  /-- FPX (R261): A link fingerprint frame arrives and is compared; a match puts the flue in RUN, a mismatch in QUAR. -/
  | fpxFrame (flue : FlueId)
  /-- FLUE_BRINGUP_TIMEOUT (R249): RUN is not reached within 30 ms, so bring-up restarts from TRAIN, or after three attempts the flue goes DOWN. -/
  | flueBringupTimeout (flue : FlueId)
  /-- LANE_LOCK_LOSS (R247): A receiver loses symbol lock on a lane and declares it failed. -/
  | laneLockLoss (flue : FlueId) (lane : Fin 9)
  /-- LANE_ERROR_INTERVAL (R247): At the end of a 1 ms interval, a lane that had more than 4,096 corrected symbols is declared failed. -/
  | laneErrorInterval (flue : FlueId) (symbols : List Nat) (corr uncorr : Nat)
  /-- LANE (R247): A LANE link frame arrives, and the transmitter moves the named logical lane onto the spare. -/
  | laneFrame (flue : FlueId)
  /-- WIDTH (R48): A WIDTH link frame arrives, and the lane set in use on the flue changes. -/
  | widthFrame (flue : FlueId)
  /-- FLUE_RETRAIN_DONE (R248): After a second lane failure the flue retrains at width 4 and returns to RUN. -/
  | flueRetrainDone (flue : FlueId)
  /-- FLIT_GROUP_RECEIVE (R252): A flit group arrives and is accepted or discarded with a NAK, and its acknowledgement and credits are applied. -/
  | flitGroupReceive (flue : FlueId) (g : FlitGroup)
  /-- NAK_REPEAT (R252): The NAK is repeated every 1 µs until the expected group arrives. -/
  | nakRepeat (flue : FlueId)
  /-- IDLE_ACK_SEND (R252): With no data flowing, a header-only group is sent at least every 0.25 µs. -/
  | idleAckSend (flue : FlueId)
  /-- GROUP_TRANSMIT (R254): The transmitter chooses and sends the next group by CTRL priority, weighted round-robin and channel order. -/
  | groupTransmit (flue : FlueId)
  /-- DATA (R258): A DATA frame arrives, its window is checked on the first frame, and its bytes are written. -/
  | dataFrame (n : PartId)
  /-- DACK (R258): A DACK arrives after the LAST frame and the sender increments TALLY. -/
  | dackFrame (n : PartId)
  /-- COLL (R283): A COLL frame arrives and is checked, combined, kept as early, or refused. -/
  | collFrame (n : PartId)
  /-- RING_READY (R287): A RING READY frame arrives, allowing the sender to send its block. -/
  | ringReadyFrame (n : PartId)
  /-- RING_DATA (R287): A RING DATA block arrives, is checked and written, and increments TALLY. -/
  | ringDataFrame (n : PartId)
  /-- RING_ACK (R287): A RING ACK arrives and the sender increments STALLY. -/
  | ringAckFrame (n : PartId)
  /-- HEARTBEAT_SEND (R270): Every 2 µs a loaded partition sends HEARTBEAT to its hearth peers. -/
  | heartbeatSend (n : PartId)
  /-- HEARTBEAT (R270): A HEARTBEAT frame arrives from a hearth peer. -/
  | heartbeatFrame (n : PartId)
  /-- HEARTBEAT_TIMEOUT (R308): No heartbeat has come from a peer for 40 µs, so the loss is declared, or the partition withdraws when every peer is silent. -/
  | heartbeatTimeout (n : PartId) (member : Fin 9)
  /-- OPEN (R261): An OPEN frame arrives, the job fingerprint is compared and the sub-channel opens under a new link key. -/
  | openFrame (n : PartId)
  /-- REFUSE (R262): A REFUSE frame arrives from the peer. -/
  | refuseFrame (n : PartId)
  /-- FREEZE (R262): A FREEZE broadcast arrives, and the partition sets FAB_FROZEN and holds at its next step boundary. -/
  | freezeFrame (n : PartId)
  /-- STOKER (R271): A STOKER broadcast announces a new job stoker, and hearth stokers answer with their boundaries and losses. -/
  | stokerFrame (n : PartId)
  /-- FLUE_UNQUAR (R262): A write of FLUE_UNQUAR lifts the selected quarantines and OPEN is exchanged again. -/
  | flueUnquar (flue : FlueId) (sel : BitVec 4)
  /-- HELD_FRAME_DELIVER (R259): The partition reaches the epoch or step that held frames carry, and they are delivered in arrival order. -/
  | heldFrameDeliver (n : PartId)
  /-- ROUTE_UPDATE (R269): A forwarding module completes its route change for an adopted position. -/
  | routeUpdate (n : PartId)
  /-- WPUNIT (R300): A WPUNIT frame arrives and is XORed into parity, combined by the assembler, or written as a rebuilt unit. -/
  | wpunitFrame (n : PartId)
  /-- SEAL (R301): A SEAL frame arrives; a group seal goes on to the job stoker, and a job seal releases old parity and data frames to the pool. -/
  | sealFrame (n : PartId)
  /-- COW_COPY_DONE (R298): The first write after a job seal finishes copying the kept frame to a pool frame, remaps the unit and completes. -/
  | cowCopyDone (n : PartId) (flips : List LineFlip)
  /-- MIRROR (R304): A MIRROR frame arrives, the input write is copied to the mirror area and acknowledged. -/
  | mirrorFrame (n : PartId)
  /-- LOSS (R310): A LOSS frame reaches the job stoker, which chooses the target, advances the epoch and broadcasts RFREEZE. -/
  | lossFrame (n : PartId)
  /-- RFREEZE (R311): An RFREEZE arrives, and the partition reverts to the target boundary, takes the new epoch and holds. -/
  | rfreezeFrame (n : PartId)
  /-- ADOPT (R312): An ADOPT arrives; the standby pre-empts its best-effort tenant, scrubs and stages the draught mode, while a lost holder withdraws. -/
  | adoptFrame (n : PartId)
  /-- ADOPT_CONTEXT_READY (R312): The standby's job context exists and its sub-channels are open, so the rebuild starts. -/
  | adoptContextReady (n : PartId)
  /-- REBUILD_DONE (R314): The standby's units are written, and it applies the image, page records and input slots, then sends RESUME. `flips`: outside
  changes to its HBM before it reads the image. -/
  | rebuildDone (n : PartId) (flips : List LineFlip)
  /-- RESUME (R314): RESUME reaches the job stoker, which releases the freeze once every group with a loss is ready and routing is complete. -/
  | resumeFrame (n : PartId)
  /-- WITHDRAW (R308): A WITHDRAW frame from a peer makes the hearth stoker declare the peer lost. -/
  | withdrawFrame (n : PartId)
  /-- RL_HANDBACK (R317): A write of RL_HANDBACK requests handback of an adopted position to a replacement. -/
  | rlHandback (n : PartId)
  /-- PWR_WARN (R335): PWR_WARN counts as asserted after 1 µs, so POWER checkpoint requests are raised. `samples`: how many samples of the
  50 MHz clock in a row have read it high (R27). -/
  | pwrWarn (samples : HWord := 50)
  /-- CK_REQ (R334): A privileged write of CK_REQ requests a checkpoint with reason HOST. -/
  | ckReq (n : PartId)
  /-- CKPT_ANNOUNCE (R340): CKPT ANNOUNCE arrives, and the partition releases generation g - 1 and opens g + 1. -/
  | ckptAnnounce (n : PartId)
  /-- SHARD_COPY_DONE (R338): The Sweep has copied every unit of a snapshot, so the shard record is signed, journalled LOCAL and sent. -/
  | shardCopyDone (n : PartId) (stripe : BitVec 24)
  /-- CKREP_SHARD (R339): A shard record reaches the job stoker, which builds and broadcasts the manifest once it holds every position. -/
  | ckrepShard (n : PartId)
  /-- CKPT_MANIFEST (R340): The manifest fragments arrive and are verified, and the generation is journalled COMMITTED. -/
  | ckptManifest (n : PartId) (stripes : List (BitVec 24))
  /-- CKREP_COMMITTED (R336): A COMMITTED report reaches the job stoker. -/
  | ckrepCommitted (n : PartId)
  /-- CKREP_AVAIL (R342): An availability list reaches the job stoker, which chooses the restore step. -/
  | ckrepAvail (n : PartId)
  /-- CKPT_RESTORE (R343): The restore choice arrives, and the partition writes its units from the slots and applies the image, or rebuilds a missing shard. -/
  | ckptRestore (n : PartId)
  /-- KS_LOAD_DONE (R329): After READY the roots, base image and journal are loaded, and KS_READY is set or KS_META_FAULT. -/
  | ksLoadDone (free : BitVec 24)
  /-- JOURNAL_SECTOR_PROGRAMMED (R327): A journal sector is fully programmed and its records take effect. -/
  | journalSectorProgrammed
  /-- SLOT_WRITE_DONE (R324): A slot's stripe is fully programmed and its MAP can follow. -/
  | slotWriteDone (slot stripe : BitVec 24)
  /-- STRIPE_PROGRAM_FAIL (R325): A NAND block fails to program or erase, so the stripe is retired and the slot is rewritten on a spare stripe. -/
  | stripeProgramFail (stripe : BitVec 24) (channel : Fin 32) (slot : Option (BitVec 24))
  /-- KS_COMPACT (R330): The journal half in use reaches 75 % full and compaction starts. -/
  | ksCompact
  /-- KS_COMPACT_DONE (R330): A new root naming the new base and half is written and compaction ends. -/
  | ksCompactDone
  /-- KS_FORMAT (R329): A privileged write of KS_FORMAT writes new roots and an empty base. -/
  | ksFormat
  /-- EXPORT_DONE (R360): An export container's units are read, encrypted and written, and its signature completes the container. -/
  | exportDone (n : PartId) (flips : List SectorFlip := [])
  /-- ENTROPY_SAMPLE (R366): The health tests run on a raw entropy sample, and a failure latches KEY_RNG_FAIL. -/
  | entropySample (ok : Bool)
  /-- MASK_REFRESH (R369): Every 10 ms the masks of every key-store slot and key-cache entry are refreshed. -/
  | maskRefresh
  /-- MK_GO (R375): A write of MK_GO derives and loads the next memory-key generation of a partition. -/
  | mkGo (m : Master) (part : BitVec 2)
  /-- KEY_ID_READY (R379): The identity and KEM key pairs are regenerated after READY and MODULE_ID is computed. -/
  | keyIdReady
  /-- REPORT_SIGNED (R381): The Falcon-1024 engine completes a report signature and the report is returned. -/
  | reportSigned
  /-- LC_GO (R385): A write of LC_GO submits a life-cycle transition, which is checked and, when it passes, starts its burns. -/
  | lcGo (m : Master) (target : BitVec 4)
  /-- OTP_BURN_DONE (R386): One OTP word is burnt and verified, and the next burn starts, or the transition completes and LC_PENDING is set. -/
  | otpBurnDone
  /-- RETURN_ERASE_DONE (R389): The RETURN overwrite of the kindling store completes and a soot record entry is written. -/
  | returnEraseDone
  /-- SDP_SEL_RISE (R391): SDP_SEL_N rises before the request CRC is complete, so the frame is discarded. -/
  | sdpSelRise
  /-- SDP_INFO (R391): Debug port INFO returns the life-cycle state, MODULE_ID and session rights. -/
  | sdpInfo (q : SdpFrame)
  /-- SDP_NONCE (R394): Debug port NONCE ends any session and returns a fresh nonce. -/
  | sdpNonce (q : SdpFrame)
  /-- SDP_OPEN (R394): Debug port OPEN checks a certificate and starts a session. -/
  | sdpOpen (q : SdpFrame)
  /-- SDP_CLOSE (R395): Debug port CLOSE ends the session. -/
  | sdpClose (q : SdpFrame)
  /-- SDP_HALT (R397): Debug port HALT halts the named threads. -/
  | sdpHalt (q : SdpFrame)
  /-- SDP_RESUME (R397): Debug port RESUME resumes the halted threads. -/
  | sdpResume (q : SdpFrame)
  /-- SDP_STEP (R397): Debug port STEP issues one instruction of a halted thread. -/
  | sdpStep (q : SdpFrame)
  /-- SDP_BKPT (R397): Debug port BKPT sets or clears a breakpoint. -/
  | sdpBkpt (q : SdpFrame)
  /-- SDP_RREG (R397): Debug port RREG reads a register of a halted thread. -/
  | sdpRreg (q : SdpFrame)
  /-- SDP_WREG (R397): Debug port WREG writes a register of a halted thread. -/
  | sdpWreg (q : SdpFrame)
  /-- SDP_RMEM (R398): Debug port RMEM reads scratch, shelf or device-virtual memory. -/
  | sdpRmem (q : SdpFrame)
  /-- SDP_WMEM (R398): Debug port WMEM writes scratch, shelf or device-virtual memory. -/
  | sdpWmem (q : SdpFrame)
  /-- SDP_RCSR (R391): Debug port RCSR reads one register. -/
  | sdpRcsr (q : SdpFrame)
  /-- SDP_WCSR (R391): Debug port WCSR writes one register as a privileged master. -/
  | sdpWcsr (q : SdpFrame)
  /-- SDP_RSOOT (R453): Debug port RSOOT returns soot record entries. -/
  | sdpRsoot (q : SdpFrame)
  /-- DEBUG_SESSION_EXPIRE (R395): The operating minutes exceed NOT_AFTER, so the session ends and the halted threads resume. -/
  | debugSessionExpire
  /-- DOORBELL (R406): A doorbell write sets a ring's tail, and the device fetches the new commands. -/
  | doorbell (f : FnId) (off : BitVec 23) (size : Nat) (v : Word) (entries : List (BitVec 512))
  /-- CHARTER (R352): The CHARTER command submits a charter for verification. -/
  | charterCmd (c : HostCmd)
  /-- CAPSULE (R352): The CAPSULE command submits a party capsule. -/
  | capsuleCmd (c : HostCmd)
  /-- CREATE_CTX (R410): The CREATE_CTX command reads and checks a launch record and creates a context. -/
  | createCtx (c : HostCmd)
  /-- DESTROY_CTX (R420): The DESTROY_CTX command destroys a context. -/
  | destroyCtx (c : HostCmd)
  /-- CREATE_Q (R406): The CREATE_Q command creates a queue. -/
  | createQ (c : HostCmd)
  /-- DESTROY_Q (R412): The DESTROY_Q command destroys a queue and aborts its fetched commands. -/
  | destroyQ (c : HostCmd)
  /-- CREATE_MOBJ (R411): The CREATE_MOBJ command creates a memory object. -/
  | createMobj (c : HostCmd)
  /-- FREE_MOBJ (R415): The FREE_MOBJ command moves a memory object to FREEING. -/
  | freeMobj (c : HostCmd)
  /-- MOBJ_RELEASE (R415): The last reference to a FREEING object retires, so its pages are unmapped and its frames and slots returned. -/
  | mobjRelease (n : PartId) (ix : BitVec 20)
  /-- MAP (R416): The MAP command maps pages onto frames after initialising them. -/
  | mapPages (c : HostCmd)
  /-- UNMAP (R206): The UNMAP command drains and removes page entries. -/
  | unmapPages (c : HostCmd)
  /-- BANK_OUT (R209): The BANK_OUT command starts bank-outs of pages. -/
  | bankOut (c : HostCmd)
  /-- POOL (R416): The POOL command moves frames into or out of the unbank pool. -/
  | poolCmd (c : HostCmd)
  /-- CREATE_EVT (R414): The CREATE_EVT command creates an event. -/
  | createEvt (c : HostCmd)
  /-- DESTROY_EVT (R412): The DESTROY_EVT command destroys an event and aborts its waiters. -/
  | destroyEvt (c : HostCmd)
  /-- KILL_OWNER (R421): The KILL_OWNER command destroys an owner's contexts, marks its events and frees its objects. -/
  | killOwner (c : HostCmd)
  /-- IMPORT (R359): The IMPORT command checks, decrypts and writes an import container into the input region. -/
  | importCmd (c : HostCmd)
  /-- EXPORT (R361): The EXPORT command checks an export request and starts the export. -/
  | exportCmd (c : HostCmd)
  /-- QUERY_CTX (R423): The QUERY_CTX command writes the utilisation and memory records. -/
  | queryCtx (c : HostCmd)
  /-- QUERY_CAP (R424): The QUERY_CAP command writes capability-table entries. -/
  | queryCap (c : HostCmd)
  /-- REPORT (R381): The REPORT command requests a full attestation report. -/
  | reportCmd (c : HostCmd)
  /-- QUICK (R380): The QUICK command answers a quick challenge. -/
  | quickCmd (c : HostCmd)
  /-- IDE_SETUP (R404): The IDE_SETUP command derives and installs the function's IDE keys. -/
  | ideSetup (c : HostCmd)
  /-- REMOVE (R422): The REMOVE command starts tenant removal of a partition. -/
  | removeTenant (c : HostCmd)
  /-- TENANT_REMOVAL_DONE (R422): The scrub completes and the partition becomes EMPTY; later the function's PCIe transactions end and TENANT_REMOVED is written. -/
  | tenantRemovalDone (n : PartId)
  /-- START (R417): The queue command START asks for its context to run. -/
  | startCtx (c : HostCmd)
  /-- START_GRANT (R417): No context of the class is in RUN any more, so the START is granted, the image is copied and the threads are loaded. -/
  | startGrant (n : PartId) (c : Fin 1024) (q : Fin 16)
  /-- SIGNAL (R414): The SIGNAL command adds to an event's value and releases waits and notification. -/
  | signalEvent (c : HostCmd)
  /-- WAIT (R414): The WAIT command waits until an event's value reaches its argument. -/
  | waitEvent (c : HostCmd)
  /-- QUEUE_SEMSIG (R100): The queue command SEMSIG signals a semaphore of the context's class. -/
  | queueSemsig (c : HostCmd)
  /-- QUEUE_SEMWAIT (R100): The queue command SEMWAIT waits on a semaphore and subtracts from it. -/
  | queueSemwait (c : HostCmd)
  /-- WRITE (R408): The queue command WRITE copies host data into a plain input region as an outside-master write. -/
  | queueWrite (c : HostCmd)
  /-- BAR4_READ (R403): A host read through BAR4 is checked, and it completes, is refused, or waits for an unbank. -/
  | bar4Read (n : PartId) (a : BitVec 36) (len : BitVec 13)
  /-- BAR4_WRITE (R403): A host write through BAR4 is checked, and it is performed, refused, or held for an unbank. -/
  | bar4Write (n : PartId) (a : BitVec 36) (bytes : List Byte)
  /-- HOST_REC_HEAD (R409): A write of HOST_REC_HEAD reports the records consumed and frees room in the record ring. -/
  | hostRecHead (m : Master) (f : FnId) (v : HWord)
  /-- I3C_REPORT (R425): The I3C command REPORT requests an attestation report. -/
  | i3cReport (w : I3cWrite)
  /-- I3C_QUICK (R425): The I3C command QUICK answers a quick challenge. -/
  | i3cQuick (w : I3cWrite)
  /-- I3C_QUERY_CAP (R425): The I3C command QUERY_CAP returns capability-table entries. -/
  | i3cQueryCap (w : I3cWrite)
  /-- I3C_RCSR (R425): The I3C command RCSR reads one register. -/
  | i3cRcsr (w : I3cWrite)
  /-- I3C_WCSR (R425): The I3C command WCSR writes one register as a privileged master. -/
  | i3cWcsr (w : I3cWrite)
  /-- REGISTER_WRITE (R429): A write to a register with no row of its own acts on each field by its access type and the configuration rule. -/
  | registerWrite (m : Master) (a : BitVec 26) (v : Word) (whole : Bool)
  /-- DMP_DATA (R434): A write of DMP_DATA appends an entry to a damper image. -/
  | dmpData (m : Master) (v : Word)
  /-- DMP_COMMIT (R435): A write of DMP_COMMIT checks and arms a damper image. -/
  | dmpCommit (m : Master) (ix : BitVec 3)
  /-- DMP_ABORT (R435): A write of DMP_ABORT discards a damper image and releases the partitions held for it. -/
  | dmpAbort (m : Master) (ix : BitVec 3)
  /-- DAMPER_APPLY (R437): An armed image reaches its quiescent point and every entry is applied at once. -/
  | damperApply (ix : Fin 5)
  /-- DAMPER_TIMEOUT (R437): DMP_TIMEOUT_MS expires before the quiescent point, so the image is discarded and the held partitions are released. -/
  | damperTimeout (ix : Fin 5)
  /-- MBX_SEL (R442): A write of MBX_SEL selects a wide value, which is captured into the mailbox. -/
  | mbxSel (m : Master) (v : HWord)
  /-- REVOTE (R439): Every 1 ms every critical field is re-voted and disagreeing copies are rewritten. -/
  | revote (k : Word)
  /-- SOOT_ENTRY_WRITE (R448): The entry at the head of the soot queue becomes durable and the chain advances. -/
  | sootEntryWrite (torn : Bool)
  /-- SOOT_MINUTE (R451): Another operating minute passes and SOOT_MINUTES advances. -/
  | sootMinute
  /-- METER_WRITE (R451): Every 16 minutes the current minute and power-cycle counts are written to the meter area. -/
  | meterWrite
  /-- CV_CTRL (R456): A write of CV_CTRL sets the model and loads Init or a saved running value after earlier feeds. -/
  | cvCtrl (m : Master) (u : Fin 8) (v : Word)
  /-- CV_FEED8 (R455): A write of CV_FEED8 feeds one byte into a check-value unit. -/
  | cvFeed8 (m : Master) (u : Fin 8) (v : Word)
  /-- CV_FEED16 (R455): A write of CV_FEED16 feeds two bytes into a check-value unit. -/
  | cvFeed16 (m : Master) (u : Fin 8) (v : Word)
  /-- CV_FEED32 (R455): A write of CV_FEED32 feeds four bytes into a check-value unit. -/
  | cvFeed32 (m : Master) (u : Fin 8) (v : Word)
  /-- HEALTH_WINDOW (R457): An HLT_WINDOW_S window ends and the window counts restart under the current thresholds. -/
  | healthWindow
  /-- SLOWDOWN_INTERVAL (R458): A slowdown interval ends, at a step boundary or each 1 ms with no LC context, and the index is computed. -/
  | slowdownInterval (n : PartId) (e w : DWord)
  /-- ABORT_REQUEST_RETRY (R463): No ABORT broadcast arrives within 1 ms, so the request is sent again. -/
  | abortRequestRetry (n : PartId)
  /-- ABORT_REQUEST (R464): An ABORT request reaches the job stoker, which advances the epoch and broadcasts ABORT, or discards a stale request. -/
  | abortRequest (n : PartId)
  /-- ABORT (R465): An ABORT broadcast arrives, and the partition reverts to B_k, takes the new epoch and releases itself into the replay. -/
  | abortFrame (n : PartId)
  /-- PWR_WARN_DEASSERT (R27): PWR_WARN falls low, KS_PWR_WARN clears, and a later assertion can again raise POWER requests. -/
  | pwrWarnDeassert
  /-- FLUE_PRESENCE_CHANGE (R23): FLf_PRES_N changes as a cable is plugged or unplugged, which updates FLUE_PRES and decides whether the flue stays in ABSENT or may train. -/
  | fluePresenceChange (flue : FlueId) (high : Bool)
  /-- I3C_DYNAMIC_ADDRESS (R425): The I3C target takes its dynamic address by ENTDAA or SETDASA. -/
  | i3cDynamicAddress (addr : BitVec 7)
  /-- I3C_PRIVATE_READ (R425): A private read returns STATUS and the answer, which ends the outstanding answer so that the target again accepts a private write. -/
  | i3cPrivateRead (addr : BitVec 7)
  /-- ALWAYS_ON_RAIL_DROP_OUT (R388): The hold-up bank falls to the 6 V drop-out, so the always-on domain stops, and an OTP burn in progress stops at its last completed word. -/
  | alwaysOnRailDropOut
  /-- CHECKPOINT_REQUEST (R334): A checkpoint request (HOST, POWER or a warning) reaches the job stoker through the hearth stoker and is merged into the pending checkpoint. -/
  | checkpointRequest (n : PartId)
  /-- QUARANTINE_REPORT (R262): A quarantine report reaches the hearth stoker and then the job stoker, which broadcasts FREEZE. -/
  | quarantineReport (n : PartId)
  /-- PARITY_HOLDER_REPORT (R301): A holder's report that every stripe it holds is complete reaches the hearth stoker, which group-seals once all eight members have reported. -/
  | parityHolderReport (n : PartId)
  /-- FREEZE_RELEASE (R314): The job stoker's release of a Relight freeze reaches a partition, which leaves FROZEN and replays from the target. -/
  | freezeRelease (n : PartId) (us : Word)
  /-- STRIPE_ERASE_DONE (R324): A stripe whose slots are all unmapped finishes erasing and joins the erased stripes counted by KS_FREE_STRIPES. -/
  | stripeEraseDone (stripe : BitVec 24)
  /-- RESTORE_UNITS_WRITTEN (R343): A partition finishes writing and digest-checking its units from the slots during a restore, applies the image, and its partitions are released. -/
  | restoreUnitsWritten (n : PartId) (flips : List SectorFlip := [])
  deriving DecidableEq, Repr

end Sys2Proof
end

