-- ==== Sys2Proof/Config.lean ====
section
/-! DEFINITION. What the spec takes from outside standards or leaves open, as constants without a body: the cryptographic
functions it names, the entropy source, and the free values. Nothing in Lean can evaluate one, so a statement holds whatever
they are. -/

namespace Sys2Proof.Config

/-- SHAKE256 of a message: the number its first `n` output bytes spell, little-endian (R374, R449). -/
opaque shake256 : List Byte → Nat → Nat
/-- KMAC256 with a key, a message, an output length in bits and a customisation text (R380, R221). -/
opaque kmac256 : List Byte → List Byte → Nat → List Byte → Nat
/-- Falcon-1024: the 1,793-byte public key of a seed (R379). -/
opaque falconPublicKey : Digest → List Byte
/-- Falcon-1024: the 1,280-byte padded signature of a message under a seed, with a fresh random draw (R379). -/
opaque falconSign : Digest → List Byte → Digest → List Byte
/-- Falcon-1024: a signature verifies over a message under a public key (R379). -/
opaque falconVerify : List Byte → List Byte → List Byte → Bool
/-- The Falcon-1024 public key of the module with a MODULE_ID, as a verifier of its records has it (R339). -/
opaque publicKeyOf : Digest → List Byte
/-- ML-KEM-1024: the 1,568-byte encapsulation key of the seeds d and z (R379). -/
opaque mlkemPublicKey : Digest → Digest → List Byte
/-- ML-KEM-1024: the shared secret of a ciphertext under the seeds d and z (R351, R404). -/
opaque mlkemDecaps : Digest → Digest → List Byte → Digest
/-- AES-256-GCM: the `i`-th byte that a key and a nonce give to add to the plain text (NIST SP 800-38D). -/
opaque gcmPad : Digest → List Byte → Nat → Byte
/-- AES-256-GCM: the 128-bit tag of a key, a nonce, additional data and a cipher text (NIST SP 800-38D). -/
opaque gcmTag : Digest → List Byte → List Byte → List Byte → BitVec 128
/-- AES-256-XTS of IEEE Std 1619 on a data unit of eight blocks: key 1, key 2 and the tweak give a permutation, which encrypts, and whose
inverse decrypts (R222). -/
opaque xts : Digest → Digest → BitVec 128 → Equiv.Perm (BitVec 1024)
/-- AES-256 key wrap of RFC 3394 with an alternative initial value: 40 bytes (R370). -/
opaque keyWrap : Digest → DWord → Digest → List Byte
/-- AES-256 key unwrap: none where the check fails (R370). -/
opaque keyUnwrap : Digest → DWord → List Byte → Option Digest

/-- The factory repair and spare map that the OTP words 1,024 to 2,047 hold for a grate: which of its 64 logical embers are carried by which
spare row (R34, R383). -/
opaque repairMap : List Word → Nat → List (Fin 64 × Fin 8)

/-- The `k`-th draw of the entropy source (R366). -/
opaque entropy : Nat → Digest
/-- The `k`-th free value, for a value the spec does not state: any number (each use narrows it to its width). -/
opaque freeValue : Nat → Nat

end Sys2Proof.Config
end

