-- ==== Sys2Proof/Machine/Bits.lean ====
section
/-! DEFINITION. Bit fields, byte order, saturating counts and cyclic redundancy checks: the small arithmetic that the
meanings share (R9, R443, R454). -/

namespace Sys2Proof.Machine

/-- The bits `hi` to `lo` of a value, as a number. -/
def field {w : Nat} (x : BitVec w) (hi lo : Nat) : Nat := (x.toNat / 2 ^ lo) % 2 ^ (hi + 1 - lo)

/-- Bit `i` of a value. -/
def bitAt {w : Nat} (x : BitVec w) (i : Nat) : Bool := x.getLsbD i

/-- A value with bit `i` set to `b`. -/
def withBit {w : Nat} (x : BitVec w) (i : Nat) (b : Bool) : BitVec w :=
  if b then x ||| BitVec.ofNat w (2 ^ i) else x &&& ~~~(BitVec.ofNat w (2 ^ i))

/-- A value whose bits `hi` to `lo` are replaced by the low bits of `v`. -/
def withField {w : Nat} (x : BitVec w) (hi lo : Nat) (v : Nat) : BitVec w :=
  let m := BitVec.ofNat w ((2 ^ (hi + 1 - lo) - 1) * 2 ^ lo)
  (x &&& ~~~m) ||| (BitVec.ofNat w ((v % 2 ^ (hi + 1 - lo)) * 2 ^ lo) &&& m)

/-- One bit as a number. -/
def b2n (b : Bool) : Nat := if b then 1 else 0

/-- A value placed at bit `lo` of a word. -/
def at32 (v lo : Nat) : Word := BitVec.ofNat 32 (v * 2 ^ lo)

/-- The little-endian bytes of a number, `n` of them (R9). -/
def leBytes : Nat → Nat → List Byte
  | 0, _ => []
  | n + 1, v => BitVec.ofNat 8 v :: leBytes n (v / 256)

/-- The number that bytes spell, little-endian (R9). -/
def leNat : List Byte → Nat
  | [] => 0
  | b :: bs => b.toNat + 256 * leNat bs

/-- The number in bytes `off` to `off + n - 1` of a list, little-endian; bytes past the end read zero. -/
def leAt (bs : List Byte) (off n : Nat) : Nat := leNat ((bs.drop off).take n)

/-- The number that bytes spell, the most significant first. -/
def beNat (bs : List Byte) : Nat := leNat bs.reverse

/-- A saturating sum in `w` bits (R443). -/
def satAdd {w : Nat} (x : BitVec w) (n : Nat) : BitVec w :=
  if x.toNat + n < 2 ^ w then BitVec.ofNat w (x.toNat + n) else BitVec.allOnes w

/-- A saturating sum reaches the maximum in place of the exact sum (R443). -/
def satOvf {w : Nat} (x : BitVec w) (n : Nat) : Bool := decide (2 ^ w ≤ x.toNat + n)

/-- The number of set bits. -/
def popCount {w : Nat} (x : BitVec w) : Nat := ((List.range w).filter fun i => x.getLsbD i).length

/-- The number of leading zeros of a double-word. -/
def leadingZeros (x : DWord) : Nat := if x.toNat = 0 then 64 else 63 - Nat.log2 x.toNat

/-- One step of a reflected cyclic redundancy check. -/
def crcBitR {w : Nat} (poly r : BitVec w) : BitVec w :=
  if r.getLsbD 0 then (r >>> 1) ^^^ poly else r >>> 1

/-- One step of a cyclic redundancy check that is not reflected. -/
def crcBitN {w : Nat} (poly r : BitVec w) : BitVec w :=
  if r.getLsbD (w - 1) then (r <<< 1) ^^^ poly else r <<< 1

/-- Feed one byte into a reflected check; `poly` is the reversed polynomial. -/
def crcByteR {w : Nat} (poly r : BitVec w) (b : Byte) : BitVec w :=
  (List.range 8).foldl (fun a _ => crcBitR poly a) (r ^^^ b.setWidth w)

/-- Feed one byte into a check that is not reflected. -/
def crcByteN {w : Nat} (poly r : BitVec w) (b : Byte) : BitVec w :=
  (List.range 8).foldl (fun a _ => crcBitN poly a) (r ^^^ (b.setWidth w <<< (w - 8)))

/-- CRC-32 (IEEE 802.3), Table 20.3. -/
def crc32 (bs : List Byte) : Word := (bs.foldl (crcByteR 0xEDB88320#32) 0xFFFFFFFF#32) ^^^ 0xFFFFFFFF#32
/-- CRC-32C, Table 20.3. -/
def crc32c (bs : List Byte) : Word := (bs.foldl (crcByteR 0x82F63B78#32) 0xFFFFFFFF#32) ^^^ 0xFFFFFFFF#32
/-- CRC-16/CCITT, Table 20.3. -/
def crc16 (bs : List Byte) : HWord := bs.foldl (crcByteN 0x1021#16) 0xFFFF#16
/-- CRC-64/ECMA-182, Table 20.3. -/
def crc64 (bs : List Byte) : DWord := bs.foldl (crcByteN 0x42F0E1EBA9EA3693#64) 0#64

/-- The bytes of a text of one-byte characters. -/
def ascii (s : String) : List Byte := s.toList.map fun c => BitVec.ofNat 8 c.toNat

end Sys2Proof.Machine
end

