-- ==== Sys2Proof/Machine/Table.lean ====
section
/-! DEFINITION. Tables of like things by number: every register file, bank of blocks and store of the device is held as one
default and the list of the entries that differ from it, in one canonical form (numbers strictly rising, no entry equal to
the default), so that equal tables are equal data. -/

namespace Sys2Proof.Machine

/-- A table of like things numbered from 0: `dflt` stands for every number that `items` does not list. -/
structure Tab (α : Type) where
  dflt : α
  items : List (Nat × α)
  deriving DecidableEq, Repr

variable {α β : Type}

/-- The entry of `k` in a list of entries. -/
def assocFind : List (Nat × α) → Nat → Option α
  | [], _ => none
  | (j, v) :: t, k => if j = k then some v else assocFind t k

/-- Put `v` at `k`, keeping the numbers rising. -/
def assocInsert : List (Nat × α) → Nat → α → List (Nat × α)
  | [], k, v => [(k, v)]
  | (j, w) :: t, k, v =>
    if k < j then (k, v) :: (j, w) :: t
    else if k = j then (k, v) :: t
    else (j, w) :: assocInsert t k v

/-- Remove the entry of `k`. -/
def assocErase (l : List (Nat × α)) (k : Nat) : List (Nat × α) := l.filter fun e => decide (e.1 ≠ k)

/-- The numbers of a list of entries rise strictly, and all lie above `lo` where `lo` is given. -/
def assocSorted : Option Nat → List (Nat × α) → Bool
  | _, [] => true
  | none, (j, _) :: t => assocSorted (some j) t
  | some lo, (j, _) :: t => decide (lo < j) && assocSorted (some j) t

/-- A table in which every entry is `v`. -/
def Tab.const (v : α) : Tab α := { dflt := v, items := [] }

/-- The entry of `k`. -/
def Tab.get (t : Tab α) (k : Nat) : α := (assocFind t.items k).getD t.dflt

/-- Write `v` at `k`: writing the default removes the entry, so that the form stays canonical. -/
def Tab.set [DecidableEq α] (t : Tab α) (k : Nat) (v : α) : Tab α :=
  { t with items := if v = t.dflt then assocErase t.items k else assocInsert t.items k v }

/-- Change the entry of `k` by `f`. -/
def Tab.upd [DecidableEq α] (t : Tab α) (k : Nat) (f : α → α) : Tab α := t.set k (f (t.get k))

/-- Change every entry, the unlisted ones too: the listed ones are set from the last to the first. -/
def Tab.map [DecidableEq β] (f : α → β) (t : Tab α) : Tab β :=
  t.items.foldr (fun e (r : Tab β) => r.set e.1 (f e.2)) (Tab.const (f t.dflt))

/-- Write a list of values from number `k` up. -/
def Tab.setMany [DecidableEq α] (t : Tab α) (k : Nat) : List α → Tab α
  | [] => t
  | v :: vs => (t.set k v).setMany (k + 1) vs

/-- The entries of `n` numbers from `k` up. -/
def Tab.getMany (t : Tab α) (k n : Nat) : List α := (List.range n).map fun i => t.get (k + i)

/-- Return the numbers from `lo` to `hi - 1` to the default. -/
def Tab.clearRange (t : Tab α) (lo hi : Nat) : Tab α :=
  { t with items := t.items.filter fun e => decide (e.1 < lo ∨ hi ≤ e.1) }

/-- The canonical form. -/
def Tab.wf [DecidableEq α] (t : Tab α) : Bool :=
  assocSorted none t.items && t.items.all fun e => decide (e.2 ≠ t.dflt)

/-- Some listed entry meets `p`, or the default does. -/
def Tab.anyEntry (p : α → Bool) (t : Tab α) : Bool := p t.dflt || t.items.any fun e => p e.2

/-- Every entry, the unlisted ones too, meets `p`. -/
def Tab.allEntry (p : α → Bool) (t : Tab α) : Bool := p t.dflt && t.items.all fun e => p e.2

/-- The listed numbers whose entries meet `p`, in rising order. -/
def Tab.keysWhere (p : α → Bool) (t : Tab α) : List Nat := (t.items.filter fun e => p e.2).map (·.1)

end Sys2Proof.Machine
end

