-- ==== Sys2Proof/Machine/StFab.lean ====
section
/-! DEFINITION. The state of the flues and the fabric (chapter 11) and of the Sweep controller (chapter 10). -/

namespace Sys2Proof.Machine

/-- The flue states (Table 11.2). -/
inductive FlueState where
  | idle | absent | detect | train | align | init | fpx | run | retrain | quar | down
  deriving DecidableEq, Repr

/-- One direction of a flue's lanes (R245 to R248). -/
structure FlueDir where
  /-- the lane width: 8, or 4 after a second lane failure. -/
  laneWidth : Nat
  /-- the logical lane carried on physical lane 8. -/
  spare : Option Nat
  /-- failed physical lanes. -/
  failed : List Nat
  /-- a takeover is under way: the logical lane that moves to the spare (R247). -/
  takeover : Option Nat
  /-- the codeword from which the spare carries its lane, as the reply named it (R247). -/
  spareFrom : Nat
  deriving DecidableEq, Repr

/-- One partition's sub-channel on a flue (R255, R261, R262). -/
structure SubChan where
  /-- OPEN_SEQ of the last OPEN sent and of the last one accepted since the bring-up (R376). -/
  openTx : Nat
  openRx : Nat
  /-- an OPEN for this job has been sent since the bring-up (R261). -/
  told : Bool
  /-- both have been exchanged for this job, with no quarantine since: the sub-channel carries traffic. -/
  opened : Bool
  /-- the link keys in use: of the last OPEN sent, and of the last one accepted (R255, R376). -/
  keyTx : Digest
  keyRx : Digest
  /-- the role the peer's OPEN named. -/
  peerRole : Role
  /-- groups encrypted under the key, and groups accepted under the peer's. -/
  gcntTx : DWord
  gcntRx : DWord
  deriving DecidableEq, Repr

/-- A frame that waits to be sent on a flue: link management, or a frame of a partition. -/
structure TxItem where
  vc : Vc
  part : PartId
  load : GroupLoad
  /-- flits still to send, and whether a group of it has gone. -/
  flits : Nat
  started : Bool
  deriving DecidableEq, Repr

/-- A flue (Table 11.12). -/
structure Flue where
  en : Bool
  weights : HWord
  state : FlueState
  /-- bring-up attempts made since FLUE_EN was written as 1. -/
  attempts : Nat
  tx : FlueDir
  rx : FlueDir
  /-- the width that the last WIDTH frame or draught change put in use. -/
  modeWidth : Nat
  /-- the lanes that the peer enables, as its last WIDTH frame of this bring-up says (R48). -/
  peerWidth : Nat
  quarCause : BitVec 4
  quarPart : BitVec 4
  trainFail : Bool
  cfgIgnored : Bool
  peer : Option (BitVec 4 × BitVec 20 × BitVec 5)
  retryCnt : Word
  fecCorr : Word
  fecUncorr : Word
  refuseCnt : Word
  deadKeyCnt : Word
  staleCnt : Word
  ovf : BitVec 6
  /-- FLUE_TX_SEQ and FLUE_RX_SEQ. -/
  txSeq : DWord
  rxSeq : DWord
  /-- a NAK has been sent and the expected group has not arrived (R252). -/
  nakking : Bool
  /-- flits that the peer has acknowledged, and the groups sent and not acknowledged, oldest first, each with the sequence of its first flit and,
  on the last group of a frame, the frame (R252, R267). -/
  acked : DWord
  retry : List (DWord × FlitGroup × Option Frame)
  /-- the flue is back from a retrain and takes the sequence of the first good group as the one expected (R248, R251). -/
  resync : Bool
  /-- credits by pool 4·vc + part (R253): slots used by flits sent, slots the peer has freed, slots freed here. -/
  used : Tab Nat
  granted : Tab Nat
  freed : Tab Nat
  /-- the pool the next header names. -/
  nextPool : Nat
  subs : Tab SubChan
  /-- by pool, the bytes of the frame in progress, none while a frame is being discarded (R255), and the type-specific fields and payload of the
  record whose earlier frames have arrived (R257). -/
  rxData : Tab (Option (List Byte))
  rxRec : Tab (Option ((DWord × DWord) × List Byte))
  /-- LINK_SALT of this bring-up, own and the peer's (R376). -/
  salt : BitVec 128
  peerSalt : BitVec 128
  /-- link management frames accepted, oldest first. -/
  rxLink : List LinkFrame
  /-- what waits to be sent, oldest first. -/
  txQ : List TxItem
  /-- the partition served last by the round-robins (R254). -/
  rrCtrl : Nat
  rrData : Nat
  /-- flits that each partition may still send of its turns (R254). -/
  rrDef : Tab Nat
  deriving DecidableEq, Repr

/-- The kinds of rewriting pass (Table 10.4); PASS_DONE reports them as 2, 0 and 1. -/
inductive PassKind where
  | epoch | key | init
  deriving DecidableEq, Repr

/-- A pass in a slot of the Sweep controller (R234 to R238). -/
structure Pass where
  part : PartId
  kind : PassKind
  first : Nat
  last : Nat
  /-- the boundary Bm of each memory-side die of the partition. -/
  bm : Tab Nat
  /-- the dies whose window step stopped at a CRC failure (R238). -/
  stopped : List Nat
  /-- regions of the range that an EPOCH pass leaves as they are, for their EPOCH is the last one (R228). -/
  skip : List Nat
  deriving DecidableEq, Repr

/-- The Sweep controller (Table 10.7). -/
structure Sweep where
  reqPart : BitVec 2
  reqKind : BitVec 2
  first : BitVec 19
  last : BitVec 19
  result : BitVec 4
  /-- the 16 pass slots. -/
  slots : Tab (Option Pass)
  /-- automatic EPOCH requests that wait: partition and frame. -/
  queued : List (Nat × Nat)
  doneCnt : Word
  autoCnt : Word
  windowMax : Word
  /-- the slot whose pass each memory-side die stepped last (R237). -/
  turn : Tab Nat
  deriving DecidableEq, Repr

end Sys2Proof.Machine
end

