-- ==== Sys2Proof/Machine/StModule.lean ====
section
/-! DEFINITION. The state of the module as a whole: power, lighting and draught (chapter 2), OTP, life cycle and debug
(chapter 17), keys and attestation (chapter 16), the common registers, damper images and mailboxes (chapter 19), the soot
record, check-value units and health monitor (chapter 20). -/

namespace Sys2Proof.Machine

/-- The lighting states (Table 2.1). -/
inductive LightState where
  | aoUp | otpRead | repair | selfTest | hbmTrain | ready | lightFail
  deriving DecidableEq, Repr

/-- The lighting failure causes (Table 2.2). -/
inductive LightCause where
  | none | invalid | scrap | parity | spares | mbist | hbm | timeout
  deriving DecidableEq, Repr

/-- The draught modes (Table 2.5). -/
inductive Draught where
  | full | forge | flue | banked
  deriving DecidableEq, Repr

/-- The module-level conditions that hold FAULT_N low until their clearing action (Table 21.2, last column "yes"). -/
inductive FaultCond where
  /-- lighting failure; cleared by removal of the 48 V input -/
  | lighting
  /-- thermal trip; cleared by removal of the 48 V input -/
  | thermal
  /-- over-voltage; cleared by the input below 40.0 V -/
  | overVoltage
  /-- second HBM CRC at a listed line, on a partition; cleared by tenant removal -/
  | hbmPersist (n : PartId)
  /-- own position adopted, or every peer silent, on a partition; cleared by tenant removal -/
  | withdrawn (n : PartId)
  /-- retirement with no free spare; cleared by the next lighting -/
  | noSpare
  /-- configuration parity during recovery; cleared by the next lighting -/
  | regParity
  /-- entropy health failure; cleared by the next lighting -/
  | entropy
  /-- no root of the kindling store verifies; cleared by KS_FORMAT -/
  | metaFault
  deriving DecidableEq, Repr

/-- The pins of the host and management connectors that a rule reads or drives (R23 to R28). -/
structure Pins where
  /-- PERST_N: false while asserted (R25: pull-down, so asserted at power-up). -/
  perstN : Bool
  /-- PWR_WARN as counted: high for 50 samples (R27). -/
  pwrWarn : Bool
  /-- READY (R26). -/
  ready : Bool
  /-- THERM_TRIP_N, low while the trip is latched (R28). -/
  thermTripN : Bool
  /-- FLf_PRES_N of each flue: true where it reads high, no cable (R23). -/
  presN : Tab Bool
  /-- The conditions that hold FAULT_N low and are not cleared (R461). -/
  faults : List FaultCond
  deriving DecidableEq, Repr

/-- Power, lighting, draught and temperature (chapter 2). -/
structure Power where
  /-- power-good is asserted (R34). -/
  powerGood : Bool
  /-- the always-on rail is above its drop-out (R20). -/
  aoOn : Bool
  /-- every rail but the always-on and OTP rails is on (R53). -/
  rails : Bool
  /-- the kindling controller and flash are powered (R52). -/
  flashOn : Bool
  /-- 1 µs input samples in 46.0 V to 52.0 V in a row, at most 10,000 (R34). -/
  inRange : Nat
  /-- input samples below 44.0 V in a row, at most 5 (Table 2.7). -/
  lowRun : Nat
  /-- input samples above 55.0 V in a row, at most 5 (Table 2.7). -/
  highRun : Nat
  light : LightState
  cause : LightCause
  /-- LIGHT_HBM_OK. -/
  hbmOk : BitVec 16
  /-- HS BIST has passed (R37). -/
  hsBist : Bool
  /-- compute-die BIST is complete (R35). -/
  cdBist : Bool
  /-- every stack has trained at both rates (R34). -/
  hbmTrained : Bool
  /-- lighting has passed REPAIR (R40). -/
  pastRepair : Bool
  /-- DRAUGHT_MODE_STAGE. -/
  stageMode : BitVec 2
  /-- DRAUGHT_FORGE_MASK as staged. -/
  stageMask : Word
  /-- DRAUGHT_STAGE_ERR. -/
  stageErr : Bool
  /-- DRAUGHT_MODE. -/
  mode : Draught
  /-- the FORGE mask in force. -/
  maskCur : Word
  /-- DRAUGHT_PENDING with the snapshot of the commit (R435): mode and mask. -/
  pendingMode : Option (Draught × Word)
  /-- the change under way from the quiescent point (R48): mode and mask. -/
  changing : Option (Draught × Word)
  /-- the Relight controller's stage for an adoption (R50): mode and mask. -/
  relightStage : Option (Draught × Word)
  /-- THERM_TRIPPED. -/
  tripped : Bool
  /-- sensors at or above 105 °C on the last sample (R51). -/
  hotLast : List Nat
  /-- THERM_MAX was within the margin on the last sample (R457). -/
  marginLast : Bool
  /-- THERM_HOT_DIE. -/
  hotDie : BitVec 6
  /-- THERM_MAX. -/
  thermMax : BitVec 8
  /-- THERM_PEAK. -/
  thermPeak : BitVec 8
  /-- PWRMON_OV. -/
  ov : Bool
  /-- PWR_THROTTLE. -/
  throttle : Bool
  /-- PWR_THROTTLE_OVF. -/
  throttleOvf : Bool
  /-- PWRMON_POWER, W. -/
  powerW : BitVec 12
  /-- PWRMON_VIN, 20 mV units. -/
  vin : BitVec 12
  /-- PWR_THROTTLE_TIME, µs. -/
  throttleTime : Word
  /-- tile-engine issue in sixteenths, 4 to 16 (R46). -/
  issue : Nat
  /-- the PLL, SerDes and HBM trims as applied to the dies: words 1,024 to 2,047 of OTP (R34). -/
  trims : Tab Word
  /-- spares of each grate that are no longer free, by physical index (R80, R81). -/
  usedSpares : Tab (List Nat)
  /-- grates by number, shelf banks and HBM stacks in their idle state (R43). -/
  idleGrate : Tab Bool
  idleShelf : Tab Bool
  idleHbm : Tab Bool
  deriving DecidableEq, Repr

/-- The life-cycle states (Table 17.2). -/
inductive LcState where
  | raw | test | provisioned | field | returned | scrap | invalid
  deriving DecidableEq, Repr

/-- One burn of OTP: the word and the bits to set (R383). -/
structure Burn where
  word : Nat
  bits : Word
  deriving DecidableEq, Repr

/-- OTP and the life-cycle controller (R383 to R389). -/
structure LifeCycle where
  /-- the 2,048 words of OTP. -/
  otp : Tab Word
  /-- LC_STATE, as decoded in OTP_READ. -/
  lcState : LcState
  /-- LC_PENDING. -/
  lcPending : Bool
  /-- the burns still to come of the request in progress (LC_BUSY while some), with the states from and to. -/
  burns : List Burn
  /-- the states the request in progress goes from and to. -/
  fromTo : Option (LcState × LcState)
  /-- LC_STATUS. -/
  status : BitVec 4
  /-- LC_TARGET. -/
  target : BitVec 4
  /-- LC_TOKEN0-7. -/
  token : Tab Word
  /-- LC_DATA0-15. -/
  data : Tab Word
  /-- LC_TOKEN_FAIL. -/
  tokenFail : BitVec 8
  /-- LC_TOKEN_OVF. -/
  tokenOvf : Bool
  /-- LC_HOLDUP_MS. -/
  holdupMs : BitVec 16
  /-- LC_ERASE_PCT. -/
  erasePct : BitVec 7
  /-- the RETURN overwrite of the kindling store is running (R389). -/
  erasing : Bool
  deriving DecidableEq, Repr

/-- A debug session of the serial debug port (R392 to R395). -/
structure DebugSession where
  /-- opened without a certificate (Table 17.8). -/
  noCert : Bool
  /-- the certificate's partition rights words, 0 to 3. -/
  part : Tab HWord
  /-- the certificate's module rights word. -/
  modRights : HWord
  /-- NOT_AFTER, operating minutes. -/
  notAfter : Word
  deriving DecidableEq, Repr

/-- The serial debug port. -/
structure Debug where
  session : Option DebugSession
  /-- the unused nonce of the last NONCE (R394). -/
  nonce : Option Digest
  /-- the one entry per lighting of a session without certificate has been written (R393). -/
  noCertLogged : Bool
  deriving DecidableEq, Repr

/-- One slot of the key store or one entry of the key cache: two shares whose XOR is the key (R368). -/
structure Shares where
  a : Digest
  b : Digest
  deriving DecidableEq, Repr

/-- A key-cache entry: which wrapped blob it unwraps (its 64 bytes) and the key in two shares (R371). -/
structure CacheEntry where
  blob : BitVec 512
  key : Shares
  /-- derived for which partition, for destruction (R373). -/
  part : PartId
  deriving DecidableEq, Repr

/-- A request for a full report that waits for the signature (R381). -/
structure ReportReq where
  /-- the function whose admin ring holds the command, or none for the I3C target. -/
  fn : Option FnId
  /-- the host address of the report. -/
  dest : DWord
  /-- the snapshot, bytes 0 to 3,975 (Table 16.5). -/
  bytes : List Byte
  deriving DecidableEq, Repr

/-- Keys and attestation (chapter 16). -/
structure Keys where
  /-- KEY_RNG_FAIL. -/
  rngFail : Bool
  /-- KEY_ID_READY. -/
  idReady : Bool
  /-- MODULE_ID; zero before KEY_ID_READY. -/
  moduleId : Digest
  /-- the 64 key-store slots by index (R367). -/
  slots : Tab Shares
  /-- the address permutation's and the data permutation's draw (R368). -/
  addrPerm : Nat
  dataPerm : Nat
  /-- the key cache, most recently used first, at most 32 (R371). -/
  cache : List CacheEntry
  /-- KEY_CACHE_MISS and its overflow. -/
  miss : Word
  missOvf : Bool
  /-- KEY_UNWRAP_FAIL and its overflow. -/
  unwrapFail : HWord
  unwrapOvf : Bool
  /-- ATT_REPORTS and ATT_OVF. -/
  reports : Word
  attOvf : Bool
  /-- the report requests that wait, oldest first, at most 8 (R381). -/
  queue : List ReportReq
  /-- MK_PART and MK_RESULT. -/
  mkPart : BitVec 2
  mkResult : BitVec 4
  deriving DecidableEq, Repr

/-- The registers a master holds for itself (R434, R442, R446, R453). -/
structure MasterRegs where
  /-- DMP_ADDR. -/
  dmpAddr : Word
  /-- DMP_CIMAGE. -/
  cimage : BitVec 3
  /-- MBX_SEL. -/
  mbxSel : HWord
  mbxValid : Bool
  mbxResult : BitVec 2
  /-- MBX_DATA0-7. -/
  mbxData : Tab Word
  /-- SOOT_SEL. -/
  sootSel : BitVec 14
  deriving DecidableEq, Repr

/-- An entry of a damper image (R433). -/
structure DamperEntry where
  addr : Nat
  bcast : Bool
  value : Word
  deriving DecidableEq, Repr

/-- A damper image. -/
structure DamperImage where
  entries : List DamperEntry
  overfull : Bool
  armed : Bool
  deriving DecidableEq, Repr

/-- The common block and the damper (chapter 19). -/
structure Common where
  /-- REG_MODE: voting. -/
  voting : Bool
  /-- REG_PARITY_ERR. -/
  parityErr : Bool
  /-- REG_PARITY_ADDR. -/
  parityAddr : Word
  /-- REG_BADACC. -/
  badAcc : Bool
  /-- REG_VOTE_FIX and REG_VOTE_OVF. -/
  voteFix : Word
  voteOvf : Bool
  /-- REG_SWP_DONE_OVF, REG_SWP_AUTO_OVF. -/
  swpDoneOvf : Bool
  swpAutoOvf : Bool
  /-- REG_EPOCH_FULL. -/
  epochFull : BitVec 4
  /-- the registers of each master, by REG_MASTER_ID. -/
  masters : Tab MasterRegs
  /-- the five images, by code. -/
  images : Tab DamperImage
  /-- DMP_TIMEOUT_MS. -/
  timeoutMs : HWord
  /-- DAMPER_TIMEOUT. -/
  dmpTimeout : Bool
  /-- DMP_STAGE_IGN. -/
  stageIgn : Bool
  /-- DMP_RESULT_IMAGE and DMP_RESULT. -/
  resultImage : BitVec 3
  result : BitVec 3
  deriving DecidableEq, Repr

/-- A programmed page of the soot record's entry area (R447, R450). -/
inductive SootPage where
  | entry (e : Digest)
  | torn
  deriving DecidableEq, Repr

/-- An event in the soot queue (R448): stamped when queued. -/
structure SootEvent where
  minutes : Word
  pcycle : BitVec 24
  typ : Byte
  part : Byte
  payload : BitVec 112
  deriving DecidableEq, Repr

/-- A meter record (R451). -/
structure MeterRec where
  minutes : Word
  pcycle : BitVec 24
  deriving DecidableEq, Repr

/-- The soot record (R447 to R453). -/
structure Soot where
  /-- the pages programmed so far, index 0 first. -/
  pages : List SootPage
  /-- the queue, the head first, at most 64. -/
  queue : List SootEvent
  /-- the chain value. -/
  chain : Digest
  /-- the meter records written, newest first. -/
  meter : List MeterRec
  /-- SOOT_MINUTES, SOOT_PCYCLE, SOOT_PCYC_OVF. -/
  minutes : Word
  pcycle : BitVec 24
  pcycOvf : Bool
  /-- SOOT_CHAIN_BAD and SOOT_BAD_INDEX. -/
  chainBad : Bool
  badIndex : BitVec 14
  /-- SOOT_METER_FULL. -/
  meterFull : Bool
  /-- SOOT_LOST and SOOT_LOST_OVF. -/
  lost : HWord
  lostOvf : Bool
  deriving DecidableEq, Repr

/-- A feed or control write in a check-value unit's FIFO (R455, R456). -/
structure CvUnit where
  /-- CV_POLY. -/
  poly : BitVec 2
  /-- the running value, in the low bits of the model's width. -/
  run : DWord
  /-- CV_LOAD_LO and CV_LOAD_HI. -/
  loadLo : Word
  loadHi : Word
  deriving DecidableEq, Repr

/-- The health monitor (R457, R459). -/
structure Health where
  /-- HLT_THERM_MARGIN, HLT_SPARE_EMB, HLT_SNT_THR, HLT_HBM_THR. -/
  thermMargin : Byte
  spareEmb : Byte
  sntThr : Byte
  hbmThr : Byte
  /-- HLT_WINDOW_S, HLT_FLUE_THR. -/
  windowS : HWord
  flueThr : HWord
  /-- the thresholds in force in this window (a change takes effect at the next). -/
  curSnt : Nat
  curHbm : Nat
  curFlue : Nat
  curMargin : Nat
  curSpare : Nat
  /-- counts of this window: HBM faults by partition, sentinel misses, retry events by flue. -/
  winHbm : Tab Nat
  winSnt : Nat
  winFlue : Tab Nat
  /-- kinds raised in this window: HBM by partition, SENTINEL, FLUE. -/
  raisedHbm : Tab Bool
  raisedSnt : Bool
  raisedFlue : Bool
  /-- the SPARES condition held at its last evaluation. -/
  sparesWas : Bool
  /-- the operating minute of the last THERMAL warning. -/
  thermalAt : Option Word
  /-- HLT_WARNED. -/
  warned : BitVec 5
  deriving DecidableEq, Repr

/-- The module block of the fabric (Table 11.13): the module's own position and the dimensions of its torus. -/
structure Fabric where
  /-- FAB_MEMBER. -/
  member : BitVec 4
  /-- FAB_T: t0 in bits 19:15 down to t3 in bits 4:0. -/
  t : BitVec 20
  /-- FAB_DIMS: each dimension less one, D0 in bits 19:15 down to D3 in bits 4:0. -/
  dims : BitVec 20
  /-- FAB_CFG_IGNORED. -/
  cfgIgnored : Bool
  deriving DecidableEq, Repr

/-- The sentinel block of the module (Table 7.2). -/
structure SentinelBlock where
  /-- SNT_MISS_LIMIT. -/
  missLimit : BitVec 4
  /-- SNT_MISS_OVF, SNT_CFG_IGNORED. -/
  missOvf : Bool
  cfgIgnored : Bool
  /-- SNT_MISS_TOTAL. -/
  missTotal : HWord
  /-- SNT_LAST_VALID, SNT_LAST_THREAD, SNT_LAST_EMBER. -/
  lastValid : Bool
  lastThread : BitVec 3
  lastEmber : BitVec 15
  deriving DecidableEq, Repr

end Sys2Proof.Machine
end

