-- ==== Sys2Proof/Machine/StHost.lean ====
section
/-! DEFINITION. The state of the host interface (chapter 18): functions with their rings and records, contexts, queues, events
and memory objects. -/

namespace Sys2Proof.Machine

/-- An exception record (Table 4.11). -/
structure ExcRec where
  code : Nat
  sub : Nat
  be : Bool
  thread : Nat
  ember : Nat
  pc : HWord
  addr : DWord
  deriving DecidableEq, Repr

/-- A record of a function's record ring (Table 18.6). -/
structure HostRecord where
  kind : Nat
  status : Nat
  detail : Nat
  tag : Word
  arg : DWord
  exc : Option ExcRec
  deriving DecidableEq, Repr

/-- A command in execution that has not completed yet: its header and the arguments that its completion needs (R407). -/
structure Busy where
  opcode : Byte
  flags : Byte
  tag : Word
  event : Word
  a : DWord
  b : DWord
  deriving DecidableEq, Repr

/-- A ring (R406). -/
structure Ring where
  base : DWord
  k : Nat
  headAddr : DWord
  /-- the head index that the device writes back, 8 bytes. -/
  head : Nat
  /-- the tail index of the last doorbell. -/
  tail : Nat
  /-- the entries fetched and not yet begun, oldest first (R418). -/
  fetched : List (BitVec 512)
  busy : Option Busy
  deriving DecidableEq, Repr

/-- The registers and rings of one function (Table 18.14). -/
structure HostFn where
  cfgIgnored : Bool
  adminLo : BitVec 20
  adminHi : Word
  adminEn : Bool
  adminK : BitVec 4
  recLo : BitVec 26
  recHi : Word
  recEn : Bool
  recVec : BitVec 15
  recK : BitVec 5
  recHead : HWord
  recTail : HWord
  /-- records held on die, oldest first (HOST_REC_HELD of them). -/
  held : List HostRecord
  recLost : HWord
  recOvf : Bool
  dbBad : HWord
  dbOvf : Bool
  admin : Ring
  /-- the IDE keys and initial IVs, 128 bytes (R404). -/
  ideKeys : Option (List Byte)
  deriving DecidableEq, Repr

/-- The endpoint and the five functions. -/
structure HostIf where
  /-- the endpoint is held in reset (R38). -/
  inReset : Bool
  /-- HOST_LAYOUT, HOST_LAYOUT_STAGE, HOST_LAYOUT_PEND. -/
  layout : BitVec 2
  layoutStage : BitVec 2
  layoutPend : Bool
  /-- HOST_APER_EN, HOST_APER_ACTIVE. -/
  aperEn : Bool
  aperActive : Bool
  fns : Tab HostFn
  /-- the I3C target: its dynamic address and the answer that is outstanding (R425). -/
  i3cAddr : Option (BitVec 7)
  i3cAnswer : Option (List Byte)
  /-- a REPORT of the I3C target waits for its signature, or, with its nonce, for KEY_ID_READY (R379). -/
  i3cBusy : Bool
  i3cWait : Option (List Byte)
  deriving DecidableEq, Repr

/-- The context states (Table 18.10); a free index holds none. -/
inductive CtxState where
  | loading | ready | run | lost | destroying
  deriving DecidableEq, Repr

/-- A group of the collective group table (R141, R410): its class and its (ember, thread mask) pairs. -/
structure Group where
  be : Bool
  pairs : List (Nat × Byte)
  deriving DecidableEq, Repr

/-- A ring table entry (R199, R410): SHAPE 0 unused, 1 HEARTH, 2 LINE, 3 FOLD. -/
structure RingEntry where
  shape : Nat
  len : Nat
  dim : Nat
  memberA : Nat
  memberB : Nat
  order : List Nat
  deriving DecidableEq, Repr

/-- A launch record as the device keeps it (Table 18.8). -/
structure Launch where
  be : Bool
  restore : Bool
  jobId : BitVec 128
  restoreStep : DWord
  parent : Digest
  startStep : DWord
  codeBrick : Nat
  codeBricks : Nat
  entryPc : List Nat
  dropPc : Nat
  semContrib : Nat
  semRec : Nat
  slot : Nat
  stepPage : DWord
  nmb : Nat
  minContrib : Nat
  deadlineUs : Nat
  requeueDelay : Nat
  requeueMax : Nat
  hbmBase : DWord
  hbmLen : DWord
  hbmMeta : DWord
  shfBase : DWord
  shfLen : DWord
  shfMeta : DWord
  shelfBase : Nat
  shelfLen : Nat
  nsct : Nat
  wpMode : Nat
  wpImg : Nat
  wpShare : Nat
  wpInterval : Nat
  wpFirst : Nat
  wpUnits : Nat
  inFirst : DWord
  inSlotBytes : DWord
  inSlots : Nat
  ckInterval : Nat
  ckHoldoff : Nat
  ckWarn : Nat
  groups : Tab Group
  rings : Tab RingEntry
  pool : List Nat
  /-- the scale entries: KIND, INT8_S and ZP. -/
  scales : List (Nat × Word × Byte)
  deriving DecidableEq, Repr

/-- The utilisation record of a context (Table 18.12). -/
structure UtilRec where
  runUs : DWord
  issueUs : DWord
  tileUs : DWord
  waitUs : DWord
  pausedUs : DWord
  moved : DWord
  flueBytes : DWord
  ovf : BitVec 7
  deriving DecidableEq, Repr

/-- The counts of a context's memory record that no other state gives (Table 9.6). -/
structure MemRec where
  parkNs : DWord
  parks : DWord
  tcMiss : DWord
  allocFail : BitVec 48
  /-- OVF, bits 0 to 7. -/
  ovf : Byte
  deriving DecidableEq, Repr

/-- A context (R410, R412). -/
structure Context where
  st : CtxState
  owner : Word
  launch : Launch
  image : List Byte
  /-- the measurement of the image (R377). -/
  meas : Digest
  /-- the first exception raised in it (R112). -/
  exc : Option ExcRec
  /-- its save-area frames (R412), and after them those of its input mirror area (R304). -/
  saveFrames : List Nat
  queues : Tab (Option Ring)
  util : UtilRec
  mem : MemRec
  deriving DecidableEq, Repr

/-- An event (R414). -/
structure Event where
  value : DWord
  sat : Bool
  be : Bool
  vector : HWord
  owner : Word
  notify : DWord
  /-- NOTIFY has been reached and reported. -/
  notified : Bool
  ownerLost : Bool
  deriving DecidableEq, Repr

/-- A memory object (R415). -/
structure MObj where
  pages : Nat
  owner : Word
  freeing : Bool
  deriving DecidableEq, Repr

/-- An index of an object table: the generation it is in, and the object while it is live (R411). -/
structure Handle (α : Type) where
  gen : Nat
  obj : Option α
  deriving DecidableEq, Repr

end Sys2Proof.Machine
end

