-- ==== Sys2Proof/Machine/StOut.lean ====
section
/-! DEFINITION. What leaves the device: records and writes to host memory, interrupts, answers of the serial debug port and the
I3C target, PCIe completions and frames on flues. -/

namespace Sys2Proof.Machine

/-- One thing that left the device. -/
inductive Output where
  /-- a record written to a function's record ring, at its entry, as the 32 bytes of Table 18.6 (R409). -/
  | record (fn : Nat) (entry : Nat) (r : HostRecord)
  /-- bytes written to host memory by a function. -/
  | hostWrite (fn : Nat) (addr : DWord) (bytes : List Byte)
  /-- an MSI-X vector of a function raised (R405). -/
  | msix (fn : Nat) (vec : Nat)
  /-- the statuses per page of a BANK_OUT command, for the report buffer whose place the spec does not state (R209, log 21). -/
  | bankReport (fn : Nat) (tag : Word) (pages : List (Nat × Nat))
  /-- a flit group sent on a flue (R250). -/
  | group (flue : Nat) (g : FlitGroup)
  /-- an answer of the serial debug port: STATUS and the payload (R391). -/
  | sdp (status : Nat) (payload : List Byte)
  /-- the answer to INFO, whose byte layout the spec does not state (Table 17.7): LC_STATE, LC_PENDING, MODULE_ID, the session's module and
  partition rights, NOT_AFTER. -/
  | sdpInfo (lcState : Nat) (pending : Bool) (moduleId : Digest) (modRights : Nat) (part : List Nat) (notAfter : Nat)
  /-- the answer to RREG of the PC and state, whose byte layout the spec does not state (Table 17.7). -/
  | sdpPc (pc : Nat) (state : Nat)
  /-- the in-band interrupt of the I3C target, with mandatory byte 0xA5 (R425). -/
  | i3cIbi
  /-- the bytes of a private read (R425). -/
  | i3cRead (bytes : List Byte)
  /-- a PCIe completion of a function (R37, R403): 0 success, 1 Unsupported Request, 2 Request Retry Status, 4 Completer Abort. -/
  | completion (fn : Nat) (status : Nat) (bytes : List Byte)
  deriving DecidableEq, Repr

/-- A transfer of partition data towards the host that the PCIe endpoint holds (R233): the partition, what is sent, and the command that
completes with it: its ring and ARG; none for a BAR4 read. -/
structure HeldOut where
  part : Nat
  out : Output
  cmd : Option (RingId × Busy × DWord)
  deriving DecidableEq, Repr

end Sys2Proof.Machine
end

