-- ==== Sys2Proof/Machine/Memory.lean ====
section
/-! DEFINITION. Memory as a list of address and byte pairs in one canonical form: addresses strictly rising, and no entry
equal to what an unlisted address reads as, which is the byte 0. Ember scratch, the shelf window and HBM are each held so. -/

namespace Sys2Proof.Machine

/-- A memory: the listed bytes. -/
abbrev Memory := List Host.Cell

/-- What an unlisted address reads as. DESIGN CHOICE (log 9): before a scrub or an initialisation the spec states none. -/
def unlistedByte : Byte := 0

/-- The byte at an address. -/
def Memory.get : Memory → Nat → Byte
  | [], _ => unlistedByte
  | (b, v) :: m, a => if b = a then v else Memory.get m a

/-- List a byte at an address, keeping the addresses rising. -/
def Memory.list : Memory → Nat → Byte → Memory
  | [], a, v => [(a, v)]
  | (b, w) :: m, a, v =>
    if a < b then (a, v) :: (b, w) :: m
    else if a = b then (a, v) :: m
    else (b, w) :: Memory.list m a v

/-- Write a byte, keeping the canonical form: writing what an unlisted address reads as removes the entry. -/
def Memory.put (m : Memory) (a : Nat) (v : Byte) : Memory :=
  if v = unlistedByte then m.filter fun c => decide (c.1 ≠ a) else m.list a v

/-- Read `n` bytes from an address up. -/
def Memory.read (m : Memory) (a n : Nat) : List Byte := (List.range n).map fun i => m.get (a + i)

/-- Write bytes from an address up. -/
def Memory.write (m : Memory) (a : Nat) : List Byte → Memory
  | [] => m
  | b :: bs => (m.put a b).write (a + 1) bs

/-- Return the bytes from `lo` to `hi - 1` to the unlisted value. -/
def Memory.clear (m : Memory) (lo hi : Nat) : Memory := m.filter fun c => decide (c.1 < lo ∨ hi ≤ c.1)

/-- Read a little-endian number of `n` bytes. -/
def Memory.num (m : Memory) (a n : Nat) : Nat := leNat (m.read a n)

/-- The listed addresses rise, all of them above `lo` where it is given, and no listed byte is the unlisted one. -/
def Memory.wfFrom : Option Nat → Memory → Bool
  | _, [] => true
  | lo, (b, v) :: m =>
    (match lo with | none => true | some l => decide (l < b)) && decide (v ≠ unlistedByte) && Memory.wfFrom (some b) m

/-- The canonical form. -/
def Memory.wf (m : Memory) : Bool := Memory.wfFrom none m

end Sys2Proof.Machine
end

