-- ==== Sys2Proof/Machine/StEmber.lean ====
section
/-! DEFINITION. The state of an ember (chapters 3 to 5 and 7): threads with their register files, scratch, the tile queue and
accumulator sets, the row-statistics unit, the sentinel sampler, the movers, the flue queue, barriers and breakpoints. -/

namespace Sys2Proof.Machine

/-- The thread states (Table 3.3). -/
inductive TState where
  | idle | run | wait | park | paused | halt | lost
  deriving DecidableEq, Repr

/-- What a thread in WAIT waits for. -/
inductive WaitCond where
  /-- TWAIT: tally `q` at or above `k` (R98). -/
  | tally (q k : Nat)
  /-- BARE at ember barrier `b` (R99). -/
  | emberBar (b : Nat)
  /-- BARP at partition barrier `b` (R99). -/
  | partBar (b : Nat)
  /-- SEMWAIT on semaphore `n` for `k` (R100). -/
  | sem (n k : Nat)
  /-- STEPB with operand `ra` (R101). -/
  | step (ra : DWord)
  deriving DecidableEq, Repr

/-- A thread's fetch line: eight instructions, one scratch row (R88). -/
structure FetchLine where
  /-- the index of its first instruction, a multiple of 8. -/
  base : Nat
  words : List DWord
  deriving DecidableEq, Repr

/-- An LDV whose answer is awaited (R97): the value is the one the memory-side die held in the order of arrival. -/
structure PendLoad where
  rd : Nat
  value : DWord
  deriving DecidableEq, Repr

/-- The allocator requests (R107). -/
inductive HeapOp where
  | allocH | allocS | free
  deriving DecidableEq, Repr

/-- An ALLOC or FREE whose answer is awaited (R107). -/
structure HeapReq where
  op : HeapOp
  rd : Nat
  pred : Nat
  arg : DWord
  deriving DecidableEq, Repr

/-- The chain key fixed at START (R118). -/
structure ChainKey where
  ta : Bool
  tb : Bool
  aFmt : Nat
  bFmt : Nat
  aScl : Nat
  bScl : Nat
  kSel : Nat
  aZp : Int
  deriving DecidableEq, Repr

/-- An open chain: its key and its running length (R118). -/
structure Chain where
  key : ChainKey
  len : Nat
  deriving DecidableEq, Repr

/-- A group accumulator (R170): value `g · 2^(w - 18)`. -/
structure GroupAcc where
  empty : Bool
  nan : Bool
  g : Int
  w : Int
  deriving DecidableEq, Repr

/-- One level of a summation stack: the FP32 partial and its residue (R174, R176). -/
structure Level where
  part : Word
  res : Word
  deriving DecidableEq, Repr

/-- One output position of an accumulator set (R68, R170, R174). -/
structure PosAcc where
  grp : GroupAcc
  /-- the occupied levels, 0 to 19. -/
  stack : Tab (Option Level)
  /-- a promotion, stack addition or fold saturated (R179). -/
  sat : Bool
  deriving DecidableEq, Repr

/-- An accumulator set: 256 positions (16·m + n), and the chain elements taken so far. -/
structure AccSet where
  pos : Tab PosAcc
  taken : Nat
  deriving DecidableEq, Repr

/-- The row statistics of one row (R70). -/
structure RowStat where
  mx : Word
  se : Word
  sq : Word
  sum : Word
  cnt : Word
  deriving DecidableEq, Repr

/-- The sampled chain of a thread: the checked position and the reference and magnitude stacks (R180, R181). -/
structure Sample where
  m : Nat
  n : Nat
  ref : Tab (Option Word)
  mag : Tab (Option Word)
  /-- an operation that formed the reference saturated, and one that formed the sum of magnitudes (R181). -/
  sat : Bool
  magSat : Bool
  deriving DecidableEq, Repr

/-- The sentinel state of a thread (R135 to R137, R180 to R184). -/
structure Sentinel where
  /-- the configuration in effect. -/
  n : Nat
  drift : Bool
  /-- a setting of SNTCFG that waits: after the next boundary it is armed, and the next START takes it (R135). -/
  staged : Option (Nat × Bool)
  armed : Option (Nat × Bool)
  /-- draws since the last step boundary. -/
  j : Nat
  /-- chains sampled since the context was created (SNTRD 1). -/
  sampled : DWord
  /-- drift comparisons (SNTRD 3). -/
  driftCnt : DWord
  /-- largest drift relative error (SNTRD 4). -/
  driftMax : Word
  /-- the shadow bricks named by SNTSHD. -/
  shadow : Option (Nat × Nat)
  /-- the sampled chain in progress. -/
  sample : Option Sample
  deriving DecidableEq, Repr

/-- A receive window (R138); length 0 is closed. -/
structure Window where
  base : Nat
  len : Nat
  tally : Nat
  deriving DecidableEq, Repr

/-- A hardware thread (R56, R57). -/
structure Thread where
  s : Tab DWord
  /-- p7 to p0; p0 reads as 1 always (R85). -/
  p : BitVec 8
  v : Tab (BitVec 1024)
  td : Tab Desc
  md : Tab Desc
  q : Tab Word
  /-- the program counter, an instruction index (R87). -/
  pc : HWord
  st : TState
  /-- what the thread waits for while in WAIT, or would while it is paused or halted out of WAIT. -/
  cond : Option WaitCond
  /-- the port halts the thread at the moment it would return to RUN (R397). -/
  haltPend : Bool
  /-- the port's STEP: halt again after one instruction (R397). -/
  stepOne : Bool
  line : Option FetchLine
  /-- the device-virtual page a parked thread waits for (R57). -/
  parkPage : Option Nat
  loads : List PendLoad
  /-- STVs not yet accepted (R97). -/
  stores : Nat
  /-- the thread's STV stalls under R298 and has been counted. -/
  stall : Bool
  heapReqs : List HeapReq
  chain : Option Chain
  acc : AccSet
  rows : Tab RowStat
  /-- the tile status word (Table 5.10). -/
  tsw : DWord
  snt : Sentinel
  win : Tab Window
  /-- per ring, the last step s issued since the step boundary (R144). -/
  ringStep : Tab Nat
  /-- per group, the collective count (R141). -/
  collCount : Tab Nat
  deriving DecidableEq, Repr

/-- A tile instruction: TMMA with its chain code and transpose flags, or TQNT with its recipe and rotation. -/
inductive TileOp where
  | tmma (cc : Nat) (ta tb : Bool)
  | tqnt (recipe rot : Nat)
  deriving DecidableEq, Repr

/-- The states of a queued piece of work: waiting to start, executing, or suspended or paused (R69, R74). -/
inductive WorkState where
  | queued | active | paused
  deriving DecidableEq, Repr

/-- What a tile instruction takes from the scale table at issue, as fixed at the last step boundary (R120, R166): the scale
exponents of A and B, the output format code and scale exponent, and for the INT8 recipes the inverse scale and zero point. -/
structure TileFix where
  aX : Int
  bX : Int
  oFmt : Nat
  oX : Int
  inv : Word
  zp : Int
  deriving DecidableEq, Repr

/-- An entry of the tile queue (R69). -/
structure TileEntry where
  t : Nat
  be : Bool
  op : TileOp
  desc : Desc
  pc : HWord
  st : WorkState
  /-- drawn as sampled at issue (R180): the checked position. -/
  sample : Option (Nat × Nat)
  /-- the shadow bricks taken for the instruction (R137). -/
  shadow : Option (Nat × Nat)
  fix : TileFix
  /-- the running length of the chain with this instruction (R118). -/
  len : Nat
  /-- a hardware fault of the array: totals, by output position, that come out with these bits flipped (R182). -/
  upset : List (Nat × Word)
  /-- the launch number of the work on its partition. -/
  seq : Nat
  /-- the sentinel's verdict on the chain this instruction ends: a miss or none (R181). -/
  verdict : Option Bool
  deriving DecidableEq, Repr

/-- What a mover descriptor is for: MOVE, or FSEND with its route and window (R103, R139). -/
inductive MoverKind where
  | move
  | fsend (route win : Nat)
  deriving DecidableEq, Repr

/-- A descriptor in a mover's queue (R74). -/
structure MoverJob where
  t : Nat
  be : Bool
  desc : Desc
  pc : HWord
  kind : MoverKind
  st : WorkState
  /-- scratch-side bytes moved so far. -/
  done : Nat
  /-- a write of the descriptor stalls under R298 and has been counted. -/
  stall : Bool
  /-- an FSEND whose last byte has been sent and whose acknowledgement is awaited, or a REM transfer in that state. -/
  sent : Bool
  /-- the launch number of the work on its partition. -/
  seq : Nat
  deriving DecidableEq, Repr

/-- The operations of the flue queue (R114). -/
inductive FlueOp where
  | dtredAll | dtredRs | dtbc | dtbar | ringstep
  deriving DecidableEq, Repr

/-- An entry of the ember's flue queue (R114): the operation holds it until it completes. -/
structure FlueJob where
  t : Nat
  be : Bool
  op : FlueOp
  desc : Desc
  pc : HWord
  /-- the collective count the instruction was issued with (R141). -/
  count : Nat
  /-- RINGSTEP: the block sent and its acknowledgement received; the block received. -/
  sent : Bool
  acked : Bool
  got : Bool
  /-- the launch number of the work on its partition. -/
  seq : Nat
  deriving DecidableEq, Repr

/-- An ember barrier of one class (R99). -/
structure Barrier where
  count : Nat
  /-- the threads that have arrived: on this ember by number, for a partition barrier by 8·ember + thread. -/
  arrived : List Nat
  deriving DecidableEq, Repr

/-- A breakpoint (R397): thread mask 0 is clear. -/
structure Breakpoint where
  pc : HWord
  mask : Byte
  deriving DecidableEq, Repr

/-- The causes of an ember's retirement, as the soot record codes them (Table 20.2). -/
inductive RetireCause where
  | bist | parity | sentinel | host
  deriving DecidableEq, Repr

/-- The elements A[m, k] and B[k, n] of one k-step of a sampled position, with the scale codes that apply to them (127 where a strip gives
none), as the array consumes them (R73). -/
structure SentPair where
  a : Nat
  aScale : Nat
  b : Nat
  bScale : Nat
  deriving DecidableEq, Repr

/-- An ember, under its logical identity. -/
structure Ember where
  thr : Tab Thread
  scratch : Memory
  /-- double-words (offset div 8) whose stored parity bit does not match their data (R78). -/
  badParity : List Nat
  /-- the code windows of the LC (0) and BE (1) class: first brick and bricks (R87). -/
  codeWin : Tab (Option (Nat × Nat))
  /-- the serving physical index, where it differs from the factory place 9·row + column (R80). -/
  phys : Option Nat
  /-- the cause of a pending retirement (EMB_RETIRE_PEND). -/
  retire : Option RetireCause
  /-- a copy to a spare is under way: the new physical index (R81). -/
  copying : Option Nat
  /-- EMB_BE_MASK, EMB_BE_BASE, EMB_BE_LEN, EMB_CFG_IGNORED. -/
  beMask : Byte
  beBase : BitVec 9
  beLen : BitVec 9
  cfgIgnored : Bool
  /-- EMB_FLAG_SENT, _LONG, _NAN, _SAT in bits 3 to 0. -/
  flags : BitVec 4
  /-- EMB_PARITY_CNT, _OVF, _LIMIT, _VALID, _BANK, _WORD. -/
  parityCnt : HWord
  parityOvf : Bool
  parityLimit : BitVec 4
  parityValid : Bool
  parityBank : BitVec 4
  parityWord : BitVec 12
  /-- EMB_SENT_MISS, EMB_SENT_OVF. -/
  sentMiss : HWord
  sentOvf : Bool
  /-- EMB_TALLY_OVF. -/
  tallyOvf : Byte
  /-- the tile queue, oldest first (R69). -/
  tileQ : List TileEntry
  /-- the two movers' queues, oldest first (R74). -/
  movers : Tab (List MoverJob)
  /-- the flue queue, oldest first (R114). -/
  flueQ : List FlueJob
  /-- the ember barriers by 4·class + number (R99). -/
  barriers : Tab Barrier
  /-- the thread that issued last (R58). -/
  lastIssued : Nat
  /-- the 1 KiB sentinel buffer (R73): the latest pairs copied, at most 256, oldest first. -/
  sentBuf : List SentPair
  bkpts : Tab Breakpoint
  deriving DecidableEq, Repr

end Sys2Proof.Machine
end

