-- ==== Sys2Proof/Machine/StJob.lean ====
section
/-! DEFINITION. The job-side state of a partition: HBM protection (chapter 10), the step controller and the stokers (chapters 8
and 11), the draught tree (chapter 12) and Relight (chapter 13). -/

namespace Sys2Proof.Machine

/-- A region of HBM, one frame (R223): epoch, key generation, retirement, the write counts of each memory-side die, and those
of the pass under way. -/
structure Region where
  epoch : DWord
  kgen : Bool
  retired : Bool
  rwc : Tab Nat
  rwcNew : Tab Nat
  deriving DecidableEq, Repr

/-- A verdict on a released line that is still to come (R232): the line, what it will be, and the reader. -/
structure Verdict where
  line : Nat
  bad : Option LineBad
  exc : Option ExcRec
  deriving DecidableEq, Repr

/-- The protection block of a partition (Table 10.6) and its HBM side-band state. -/
structure Prot where
  /-- the memory keys are loaded (PROT_EN), and the next generation is (R234). -/
  keys : Bool
  nextKeys : Bool
  kgen : Bool
  /-- MG, the memory generation in force (R374). -/
  mgen : Nat
  halted : Bool
  alarmKind : BitVec 2
  /-- PROT_ALARM_LINE. -/
  alarmLine : DWord
  crcValid : Bool
  crcLine : DWord
  crcCnt : Word
  crcOvf : Bool
  persistCnt : HWord
  persistOvf : Bool
  denyCnt : Word
  denyOvf : Bool
  /-- the last 16 HBM faults of each memory-side die, newest first (R231). -/
  faultLines : Tab (List Nat)
  /-- the lines that something outside the trust boundary has changed since the device stored them last, as they are stored now (R240). -/
  ext : List LineFlip
  /-- LCNT of each line as the device stored it last (R221). -/
  lcnt : Tab Nat
  regions : Tab Region
  /-- the charter ranges of the protected-range table: first and last span unit (R242). -/
  ranges : List (Nat × Nat)
  /-- verdicts still to come, oldest first. -/
  verdicts : List Verdict
  deriving DecidableEq, Repr

/-- The step controller (Table 8.7). -/
structure StepState where
  /-- STEP_COUNT. -/
  count : DWord
  /-- the operand of the first STEPB of the boundary being reached (R101). -/
  first : Option DWord
  /-- the boundary is reached and its release is held (R47, R81, R195, R302). -/
  held : Bool
  /-- the step that the last VOID abort named (R196). -/
  lastVoid : Option DWord
  frozen : Bool
  released : Bool
  nmb : HWord
  ncontrib : HWord
  dropTotal : BitVec 31
  dropOvf : Bool
  selfDrops : BitVec 24
  selfOvf : Bool
  voidCnt : HWord
  voidOvf : Bool
  lastDelay : Word
  dropFrames : BitVec 31
  framesOvf : Bool
  /-- the step record of this step, once it has arrived. -/
  record : Option StepRec
  /-- the partition's contribution report of this step has gone (R189). -/
  contributed : Bool
  /-- positions whose drop marker for this step has arrived, and those it still discards frames of (R194). -/
  marked : List Pos
  /-- collective and ring counts at the step's start are those of this step's participants: by 64·class + group. -/
  collStart : Tab Nat
  /-- entries 19 and 20 of the capability table, which change at step boundaries only (R108): job epoch and hearth stoker. -/
  capEpoch : Word
  capStoker : Nat
  /-- the replay of an abort waits until the copies to spares of its retirements are complete (R81, R183, R465). -/
  replayHold : Bool
  deriving DecidableEq, Repr

/-- The job stoker's part in a step (R189, R190, R196 to R198). -/
structure Stoker where
  /-- the newest job epoch the stoker has ordered (R464). -/
  epoch : Word
  /-- the positions that have reported in this step. -/
  reports : List Pos
  /-- the record issued for this step. -/
  issued : Option StepRec
  /-- the deadline measurement runs. -/
  measuring : Bool
  /-- times in succession that this step has been declared void. -/
  voids : Nat
  /-- the step records kept, oldest first (R197). -/
  records : List StepRec
  /-- inputs to offer again: the step they are due in and the entry (R198). -/
  requeue : List (Nat × ReqEntry)
  /-- a checkpoint request that waits, with its reasons, and generation announced last (R336). -/
  ckReasons : Nat
  ckGen : Nat
  ckStep : DWord
  /-- the reasons of that announcement, and whether some position has not reported COMMITTED. -/
  ckLast : Nat
  ckOpen : Bool
  /-- shard records and COMMITTED reports received for that generation, availability lists of a restore. -/
  shards : List ShardRec
  committed : List Pos
  avail : List (Pos × List AvailEntry)
  /-- groups that have sealed which boundary; losses reported; groups ready to resume (R301, R310, R314). -/
  sealedBy : List (Pos × DWord)
  losses : List (Pos × Option DWord)
  resumed : List Pos
  /-- the newest job-sealed boundary as the stoker knows it. -/
  jobSealed : Option DWord
  /-- the target of the freeze in force. -/
  target : Option DWord
  deriving DecidableEq, Repr

/-- What a hearth stoker and every member hold about a peer of the group (R270, R271, R308). -/
structure PeerSt where
  /-- a heartbeat has come, and none has been missed since; it has not withdrawn. -/
  alive : Bool
  lost : Bool
  count : DWord
  health : Word
  deriving DecidableEq, Repr

/-- The Relight states (Table 13.7). -/
inductive RlState where
  | off | run | banked | frozen | adopting | rebuild | wait | fallback | withdrawn
  deriving DecidableEq, Repr

/-- The Relight block and the span (Table 13.9, R294 to R305). -/
structure Relight where
  state : RlState
  role : Role
  /-- WP_MODE: 0 OFF, 1 P, 2 PQ. -/
  mode : Nat
  first : Nat
  units : Nat
  interval : Nat
  share : Nat
  img : Nat
  forward : Bool
  sealWait : Bool
  poolEmpty : Bool
  inputWait : Bool
  lostPos : Option Pos
  losses : Nat
  count : HWord
  countOvf : Bool
  lastUs : Word
  stallCnt : BitVec 31
  stallOvf : Bool
  /-- WP_SEALED, WP_JSEALED, RL_TARGET. -/
  sealedAt : DWord
  jsealedAt : DWord
  target : DWord
  /-- frames in use for a unit where it has left its own frame: the live version, the kept version and the one before. -/
  live : Tab (Option Nat)
  kept : Tab (Option Nat)
  old : Tab (Option Nat)
  /-- copies of a first write under way: unit, pool frame, and the writer's record where it is a thread or mover (R298). -/
  copying : List (Nat × Nat × Option ExcRec)
  /-- units whose stalled write by the device (false) or by an outside master (true) is counted and not yet made (R298). -/
  stalled : List (Nat × Bool)
  /-- frames free in the copy-on-write pool, in order. -/
  pool : List Nat
  /-- B_k as this partition holds it, and whether it is job-sealed. -/
  boundary : DWord
  jobSealed : Bool
  /-- contributions still missing for each stripe's parity held here: by unit, the members whose bytes have come. -/
  parityGot : Tab (List (Nat × Nat))
  /-- new parity under accumulation: the pool frame of each parity unit held here. -/
  parityNew : Tab (Option Nat)
  /-- holders whose complete-stripes report has reached this hearth stoker. -/
  holders : List Nat
  /-- group-sealed by this hearth stoker. -/
  groupSealed : Bool
  /-- rebuild: units received of the position being rebuilt, and partial combinations held as assembler. -/
  rebuilt : List Nat
  asm : Tab (List (Nat × List Byte))
  /-- stripes of the rebuild that this assembler has combined and sent (R313). -/
  asmDone : List Nat
  /-- the members that a rebuild produces, and the members that it cannot read (R313, R343). -/
  rebuild : Option (List Nat × List Nat)
  /-- pages of live input slots that the host must write again (R316). -/
  inputNeed : List Nat
  /-- the input region and the mirror of the neighbour's (R304): live slots and mirrored writes awaiting acknowledgement. -/
  inFirst : DWord
  inSlotBytes : DWord
  inSlots : Nat
  mirrorWait : List (Nat × Nat)
  /-- copies of the own live input slots that the mirror peer has sent to an adopting position (R314): slot, offset and bytes. -/
  slotCopies : List (Nat × Nat × List Byte)
  mirrorFrames : List Nat
  /-- host commands whose completion waits for the mirror's acknowledgements (R304): ring, command and bytes moved. -/
  mirrorCmds : List (RingId × Busy × DWord)
  /-- the FREEZE in force has the cause ROUTE_LOST: a forwarding standby is lost (R318). -/
  routeLost : Bool
  /-- handback requested here (R317). -/
  handback : Bool
  /-- a handback holds the job at this boundary, and the position handed back (R317). -/
  holdAt : Option DWord
  handPos : Option Pos
  /-- the positions that the freeze in force names. -/
  lostSet : List Pos
  /-- the job's draught mode as peers' OPEN frames give it (Table 11.9, R50). -/
  jobDraught : Nat
  /-- this position waits to be adopted by this replacement or standby (R312): position, target, epoch. -/
  adopting : Option (Pos × Option DWord × Word)
  deriving DecidableEq, Repr

/-- The parts of an instance's exchange that have arrived: level, round, results or contributions, sender, first element, and
the words, or none where the sender's subtree is empty. -/
structure CollPiece where
  level : Nat
  round : Nat
  results : Bool
  src : Pos
  elem : Nat
  words : Option (List Word)
  deriving DecidableEq, Repr

/-- A collective instance in progress on the module (R274 to R286). -/
structure CollInst where
  be : Bool
  hdr : CollHdr
  root : Nat
  /-- participants that have issued: 8·ember + thread. -/
  issued : List Nat
  /-- the module's value once every participant has issued: none while absent (R277). -/
  value : Option (Option (List Word))
  /-- an operation formed on the module saturated (R277). -/
  sat : Bool
  /-- participants whose result is written. -/
  done : List Nat
  pieces : List CollPiece
  /-- exchanges already sent: level, round, results. -/
  sent : List (Nat × Nat × Bool)
  deriving DecidableEq, Repr

/-- The draught-tree block (Table 12.6) and the instances in progress. -/
structure Tree where
  linValid : Bool
  lineage : Word
  digest : Digest
  collCnt : Word
  collOvf : Bool
  mismCnt : HWord
  mismOvf : Bool
  bufPeak : BitVec 23
  bufFull : Bool
  insts : List CollInst
  /-- early frames kept in the reduction buffers, with their flue die (R283). -/
  early : List (Nat × Frame)
  /-- COLL frames that wait at a flue die and still occupy their slots of the credit pool (R253, R283). -/
  inPool : List (Nat × Frame)
  deriving DecidableEq, Repr

end Sys2Proof.Machine
end

