-- ==== Sys2Proof/Machine/StKindling.lean ====
section
/-! DEFINITION. The state of the kindling store (chapter 14): its metadata, journal and slots, and each partition's checkpoint
block. -/

namespace Sys2Proof.Machine

/-- The states of a checkpoint generation (Table 14.2). -/
inductive GenState where
  | opened | local | committed | released
  deriving DecidableEq, Repr

/-- A MAP record in effect (Table 14.2): KIND 0 bank, 1 shard unit, 2 shard record, 3 manifest. The job is that of the
generation, whose GEN record comes before it in the journal; 0 for a bank slot. -/
structure SlotMap where
  part : Nat
  kind : Nat
  stripe : Nat
  seqBase : Nat
  gen : Nat
  unit : Nat
  job : DWord
  deriving DecidableEq, Repr

/-- A GEN record in effect. -/
structure Gen where
  part : Nat
  gen : Nat
  st : GenState
  step : DWord
  /-- bytes 7:0 of the job identity. -/
  job : DWord
  blob : Nat
  deriving DecidableEq, Repr

/-- A journal record (Table 14.2). -/
inductive JRec where
  | map (slot : Nat) (m : SlotMap)
  | unmap (part slot : Nat)
  | seqres (next : Nat)
  | gen (g : Gen)
  | retire (stripe channel : Nat)
  deriving DecidableEq, Repr

/-- The metadata that the records give. -/
structure KsMeta where
  maps : Tab (Option SlotMap)
  gens : List Gen
  retired : List Nat
  nextSeq : Nat
  deriving DecidableEq, Repr

/-- What a slot write takes its 2 MiB from. -/
inductive WriteSrc where
  | frame (f : Nat)
  | bytes (bs : List Byte)
  deriving DecidableEq, Repr

/-- A slot write under way (R324). -/
structure SlotWrite where
  part : Nat
  kind : Nat
  slot : Nat
  gen : Nat
  unit : Nat
  job : DWord
  src : WriteSrc
  deriving DecidableEq, Repr

/-- A wrapped checkpoint key in the reservation area (R331): the blob, and the job and charter it is bound to. -/
structure WrappedKey where
  blob : List Byte
  job : BitVec 128
  charter : Digest
  deriving DecidableEq, Repr

/-- The kindling controller and the flash (Table 14.7). What survives a loss of power is the root, the base image, the
programmed journal sectors, the stripes and the reservation area. -/
structure Kindling where
  ready : Bool
  compacting : Bool
  metaFault : Bool
  pwrWarn : Bool
  /-- the current root: at location B, ROOT_SEQ, and whether a root verifies. -/
  rootB : Bool
  rootSeq : DWord
  rootGood : Bool
  /-- base area and journal half in use, and the first JSEQ of the half. -/
  baseB : Bool
  halfB : Bool
  firstJseq : Nat
  base : KsMeta
  /-- the sectors programmed in the half in use, first to last. -/
  sectors : List (List JRec)
  /-- the sectors of the half at the cut of a compaction that runs. -/
  cut : Option Nat
  /-- the metadata in effect, and the records whose sector is not programmed yet. -/
  inForce : KsMeta
  pend : List JRec
  /-- the next write sequence value (R239). -/
  seq : Nat
  writes : List SlotWrite
  /-- slots that hold or will hold data: mapped, or taken by a write under way. -/
  taken : Tab Bool
  /-- the plain contents of the stripes as the controller wrote them. -/
  data : Tab Memory
  /-- the sectors that something outside the trust boundary has changed since, as they are stored now (R240). -/
  ext : List SectorFlip
  /-- KS_FREE_STRIPES, and the stripes whose slots are all unmapped. -/
  freeStripes : BitVec 24
  erasable : List Nat
  compactCnt : HWord
  compactOvf : Bool
  /-- KS_WRITTEN, sectors. -/
  written : DWord
  /-- the reservation area: wrapped checkpoint keys by blob index. -/
  blobs : Tab (Option WrappedKey)
  /-- LAST[rule] of each job: its identity, the rule and the step (R361). -/
  lastExp : List (BitVec 128 × Nat × DWord)
  deriving DecidableEq, Repr

/-- CK_STATE (Table 14.8). -/
inductive CkState where
  | idle | snap | write | waitManifest | restore | refused
  deriving DecidableEq, Repr

/-- The checkpoint block of a partition (Table 14.8) and its snapshot. -/
structure Ckpt where
  state : CkState
  abandoned : Bool
  nospace : Bool
  lastReasons : BitVec 9
  /-- CK_INTERVAL, CK_HOLDOFF, CK_WARN of the launch record. -/
  interval : Nat
  holdoff : Nat
  warn : Nat
  cnt : BitVec 31
  cntOvf : Bool
  abandonCnt : HWord
  abandonOvf : Bool
  /-- warning reasons that wait for the holdoff to end (R334). -/
  waiting : Nat
  /-- the generation announced, its CK_STEP, and the CK_STEP of the last checkpoint and the step of the last one asked. -/
  gen : Nat
  step : DWord
  lastStep : DWord
  /-- the frames of the snapshot by unit, and the units whose copy is still to be made (R337, R338). -/
  pinned : List (Nat × Nat)
  toCopy : List Nat
  /-- slots reserved for checkpoints (R333). -/
  reserve : Nat
  /-- a restore: the step asked for (0: the newest) and the report address, and the choice taken with its manifest (R342, R345). -/
  ask : Option (DWord × DWord)
  choice : Option (Nat × DWord × List Byte)
  deriving DecidableEq, Repr

end Sys2Proof.Machine
end

