-- ==== Sys2Proof/Machine/StMem.lean ====
section
/-! DEFINITION. The memory and synchronisation state of a partition: translation, frames, HBM and shelf contents and heaps
(chapter 9), semaphores and partition barriers (chapter 4), and the scale tables (chapter 6). -/

namespace Sys2Proof.Machine

/-- Where a mapped page lies (Table 9.3). -/
inductive PageLoc where
  | frame (f : Nat)
  | banked (slot : Nat)
  deriving DecidableEq, Repr

/-- What is under way on a page entry marked busy (R206). -/
inductive PageBusy where
  | idle
  /-- a bank-out copies the frame to the slot (R209). -/
  | bankOut (slot : Nat)
  /-- an unbank has been asked for and waits for a frame or a place (R211). -/
  | unbankWait
  /-- an unbank fills the frame (R210). -/
  | unbank (frame : Nat)
  deriving DecidableEq, Repr

/-- A page entry with V = 1 (Table 9.3). -/
structure Page where
  w : Bool
  pin : Bool
  loc : PageLoc
  mobj : Word
  busy : PageBusy
  deriving DecidableEq, Repr

/-- What a frame of the partition is in use for (R416). -/
inductive FrameUse where
  | free
  /-- mapped by a page. -/
  | mapped
  /-- taken by the device for tables, metadata, save areas or parity. -/
  | device
  /-- in the unbank pool. -/
  | pool
  /-- in the copy-on-write pool of warm parity (R299). -/
  | cow
  deriving DecidableEq, Repr

/-- A block of a buddy heap (R214, R216). -/
inductive BlockSt where
  | free | allocated | pending
  deriving DecidableEq, Repr

/-- A block of a heap, by offset from the heap's base. -/
structure Block where
  off : Nat
  size : Nat
  st : BlockSt
  /-- a pending block: works of the partition launched before its FREE (R216). -/
  after : Nat
  deriving DecidableEq, Repr

/-- A heap (R213): length 0 is absent. -/
structure Heap where
  base : Nat
  len : Nat
  minBlock : Nat
  /-- the blocks, by rising offset; they cover the heap. -/
  blocks : List Block
  /-- the offsets of pending blocks, in the order their FREEs were served. -/
  pendingOrder : List Nat
  /-- the blocks at the step's start (R217). -/
  atStart : List Block
  deriving DecidableEq, Repr

/-- A semaphore (R100): its word and its waiters in order of arrival; a waiter is a thread by 8·ember + thread, or a queue
command by context and queue. -/
inductive SemWaiter where
  | thread (e t : Nat) (k : Nat)
  | queue (c q : Nat) (k : Nat)
  deriving DecidableEq, Repr

structure Sem where
  word : Word
  waiters : List SemWaiter
  deriving DecidableEq, Repr

/-- A scale-table entry (Table 6.3) with its running part (R160). -/
structure ScaleEntry where
  kind : Nat
  int8S : Word
  zp : Byte
  int8Inv : Word
  /-- HIST0 to HIST15, the newest first. -/
  hist : List Byte
  satHist : BitVec 4
  lastAmax : Word
  fmtStep : Nat
  scaleX : Byte
  runMax : Word
  runSat : Bool
  deriving DecidableEq, Repr

/-- A BANK_OUT command under way: its ring, its completion, and its pages with their statuses once known (R209). -/
structure BankJob where
  ring : RingId
  busy : Busy
  pages : List (Nat × Option Nat)
  deriving DecidableEq, Repr

/-- The memory of a partition (chapter 9). -/
structure PartMem where
  /-- MEM_CFG_IGNORED, MEM_PT_DIR. -/
  cfgIgnored : Bool
  ptDir : BitVec 19
  /-- the leaf tables present: by directory index, the frame and slot (Table 9.2). -/
  leaf : Tab (Option (Nat × Nat))
  /-- the page entries with V = 1, by page number. -/
  pages : Tab (Option Page)
  frames : Tab FrameUse
  /-- HBM by partition physical address, and the shelf window by offset. -/
  hbm : Memory
  shelf : Memory
  /-- MEM_PARK_CNT, _OVF, MEM_PARK_MAX, MEM_TC_MISS, _OVF. -/
  parkCnt : Word
  parkOvf : Bool
  parkMax : Word
  tcMiss : Word
  tcMissOvf : Bool
  /-- the unbanks that wait, by page, in arrival order (R211). -/
  unbankQ : List (Nat × Nat)
  bankJobs : List BankJob
  /-- the heaps: 0 LC HBM, 1 LC shelf, 2 BE HBM, 3 BE shelf (R213). -/
  heaps : Tab Heap
  /-- heap requests by thread (8·ember + thread), in order of arrival (R215). -/
  heapQ : List Nat
  deriving DecidableEq, Repr

end Sys2Proof.Machine
end

