-- ==== Sys2Proof/Machine/StPart.lean ====
section
/-! DEFINITION. The state of a partition: its objects, its memory, its step, and the blocks of its partition page
(chapters 8 to 15, 18 to 20). -/

namespace Sys2Proof.Machine

/-- The abort state of a partition (R463 to R467). -/
structure AbortState where
  /-- an ABORT request is outstanding: its cause (Table 21.3) and step. -/
  request : Option (Nat × DWord)
  /-- consecutive aborts this partition originated against one target (R467). -/
  count : Nat
  /-- the ember whose parity or sentinel fault raised the cause. -/
  ember : Nat
  /-- the exception record of a PARITY cause (R466). -/
  exc : Option ExcRec
  deriving DecidableEq, Repr

/-- The admission states (R352). -/
inductive ChrState where
  | empty | chartered | admitted
  deriving DecidableEq, Repr

/-- An admission: a charter held, of the partition or of its reservation (R348 to R354). -/
structure Admission where
  state : ChrState
  /-- DEBUG_ALLOW. -/
  debugAllow : HWord
  /-- JOB_ID. -/
  jobId : BitVec 128
  /-- job_seed (R180). -/
  jobSeed : DWord
  /-- CMAP_MODE, and the carrier table by position word (Tables 15.1, 15.2). -/
  cmap : Nat
  carriers : List (Nat × Nat)
  /-- the charter body, and its digest (R348). -/
  body : List Byte
  digest : Digest
  /-- the capsules held, and each party's key as a wrapped blob (R352, R353, R370). -/
  capsules : Tab (Option (List Byte))
  partyKeys : Tab (List Byte)
  deriving DecidableEq, Repr

/-- The charter block's own fields (Table 15.11). -/
structure CharterRegs where
  lastStatus : BitVec 4
  lastExpStatus : BitVec 4
  expCnt : BitVec 31
  expOvf : Bool
  impCnt : BitVec 31
  impOvf : Bool
  refuseCnt : HWord
  refuseOvf : Bool
  deriving DecidableEq, Repr

/-- An export under way (R360): its command's ring, the rule, EXP_STEP, the generation, and where the container goes. -/
structure ExportJob where
  ring : RingId
  busy : Busy
  rule : Nat
  step : DWord
  gen : Nat
  dest : DWord
  deriving DecidableEq, Repr

/-- The job of a reservation (R306): launch record, program image and its measurement, lineage digest. -/
structure RsvJob where
  launch : Launch
  image : List Byte
  meas : Digest
  lineage : Digest
  deriving DecidableEq, Repr

/-- A partition. -/
structure Part where
  ctxs : Tab (Handle Context)
  evts : Tab (Handle Event)
  mobjs : Tab (Handle MObj)
  /-- the index of the LC and of the BE context that hold the class: loaded into it, and the one of the class that may be in RUN (R410,
  R417). -/
  runLc : Option Nat
  runBe : Option Nat
  /-- the semaphores by 4096·class + number. -/
  sems : Tab Sem
  /-- the partition barriers by 64·class + number. -/
  pbars : Tab Barrier
  /-- the scale tables by 4096·class + entry. -/
  sct : Tab ScaleEntry
  /-- the partition's admission, and that of its reservation (R354). -/
  adm : Admission
  rsv : Admission
  rsvJob : Option RsvJob
  chr : CharterRegs
  /-- a tenant removal whose TENANT_REMOVED has not been written: its DETAIL, and the REMOVE command (R422). -/
  removing : Option (Nat × Option Busy)
  exporting : Option ExportJob
  /-- the frame of the wrapped-key area (R242, R370). -/
  keyArea : Option Nat
  step : StepState
  abort : AbortState
  /-- LC threads are paused for an abort or a revert (R463, R311). -/
  pauseLc : Bool
  /-- BE threads are paused at a boundary hold or for a damper image (R436, R47). -/
  pauseBe : Bool
  /-- the job epoch (R259, R444). -/
  epoch : Word
  /-- the logical position that the partition holds by adoption, where it differs from the module's own (R314). -/
  adoptPos : Option Pos
  /-- FAB_FROZEN (R262). -/
  frozen : Bool
  /-- the job stoker as this partition knows it, and what it knows of its hearth peers (R270, R271). -/
  jobStoker : Pos
  peers : Tab PeerSt
  /-- heartbeats sent (R270). -/
  hbSent : DWord
  /-- frames that have passed the checks of R259 and await delivery, oldest first, with the flue they came by. -/
  inbox : List (Nat × Frame)
  /-- frames held for an epoch or step to come, in arrival order, and whether each has left its credit pool (R259). -/
  holdBuf : List (Nat × Frame × Bool)
  /-- inbound transfers whose first frame has passed its window (R139): source, sending ember, mover and thread, and the tally. -/
  inXfers : List (Pos × Nat × Nat × Nat × Nat)
  /-- adopted positions whose routes have changed here, and adoption notices not acted on yet (R269). -/
  routes : List Pos
  notices : List Pos
  prot : Prot
  stk : Stoker
  rl : Relight
  tree : Tree
  mem : PartMem
  ck : Ckpt
  /-- works launched into tile, mover and flue queues so far: the order that a BE FREE waits for (R216). -/
  launched : Nat
  /-- HLT_PWARN, HLT_SLOWDOWN, HLT_SD_MAX (Table 20.7). -/
  pwarn : BitVec 5
  slowdown : HWord
  sdMax : HWord
  deriving DecidableEq, Repr

end Sys2Proof.Machine
end

