-- ==== Sys2Proof/Machine/Fresh.lean ====
section
/-! DEFINITION. Every block of the state as it is after reset: the values the register tables give, and, where the spec gives
none, the values of the log (3 to 9). -/

namespace Sys2Proof.Machine

def posFresh : Pos := { t0 := 0, t1 := 0, t2 := 0, t3 := 0, member := 0 }

/-! ### Embers -/

def rowFresh : RowStat := { mx := 0xFF7FFFFF#32, se := 0, sq := 0, sum := 0, cnt := 0 }
def accFresh : AccSet :=
  { pos := Tab.const { grp := { empty := true, nan := false, g := 0, w := 0 }, stack := Tab.const none, sat := false }, taken := 0 }

/-- The sentinel of a thread: one position in 2^10, no drift (R135). -/
def sentinelFresh : Sentinel :=
  { n := 10, drift := false, staged := none, armed := none, j := 0, sampled := 0, driftCnt := 0, driftMax := 0
    shadow := none, sample := none }

/-- A thread after reset (DESIGN CHOICE, log 7: the spec gives its registers no value). -/
def threadFresh : Thread :=
  { s := Tab.const 0, p := 1, v := Tab.const 0, td := Tab.const 0, md := Tab.const 0, q := Tab.const 0, pc := 0, st := .idle
    cond := none, haltPend := false, stepOne := false, line := none, parkPage := none, loads := [], stores := 0, stall := false
    heapReqs := [], chain := none, acc := accFresh, rows := Tab.const rowFresh, tsw := 0, snt := sentinelFresh
    win := Tab.const { base := 0, len := 0, tally := 0 }, ringStep := Tab.const 0, collCount := Tab.const 0 }

/-- An ember after reset (Table 3.8). -/
def emberFresh : Ember :=
  { thr := Tab.const threadFresh, scratch := [], badParity := [], codeWin := Tab.const none, phys := none, retire := none
    copying := none, beMask := 0x80, beBase := 0x150, beLen := 0x030, cfgIgnored := false, flags := 0, parityCnt := 0
    parityOvf := false, parityLimit := 3, parityValid := false, parityBank := 0, parityWord := 0, sentMiss := 0
    sentOvf := false, tallyOvf := 0, tileQ := [], movers := Tab.const [], flueQ := []
    barriers := Tab.const { count := 0, arrived := [] }, lastIssued := 7, sentBuf := [], bkpts := Tab.const { pc := 0, mask := 0 } }

/-! ### Partitions -/

def admFresh : Admission :=
  { state := .empty, debugAllow := 0, jobId := 0, jobSeed := 0, cmap := 0, carriers := [], body := [], digest := 0
    capsules := Tab.const none, partyKeys := Tab.const [] }

def chrFresh : CharterRegs :=
  { lastStatus := 0, lastExpStatus := 0, expCnt := 0, expOvf := false, impCnt := 0, impOvf := false, refuseCnt := 0
    refuseOvf := false }

def stepFresh : StepState :=
  { count := 0, first := none, held := false, lastVoid := none, frozen := false, released := false, nmb := 0, ncontrib := 0
    dropTotal := 0, dropOvf := false, selfDrops := 0, selfOvf := false, voidCnt := 0, voidOvf := false, lastDelay := 0
    dropFrames := 0, framesOvf := false, record := none, contributed := false, marked := [], collStart := Tab.const 0
    capEpoch := 0, capStoker := 0, replayHold := false }

def stokerFresh : Stoker :=
  { epoch := 0, reports := [], issued := none, measuring := false, voids := 0, records := [], requeue := [], ckReasons := 0
    ckGen := 0, ckStep := 0, ckLast := 0, ckOpen := false, shards := [], committed := [], avail := [], sealedBy := []
    losses := [], resumed := [], jobSealed := none, target := none }

def relightFresh : Relight :=
  { state := .off, role := .none, mode := 0, first := 0, units := 0, interval := 0, share := 0, img := 0, forward := false
    sealWait := false, poolEmpty := false, inputWait := false, lostPos := none, losses := 0, count := 0, countOvf := false
    lastUs := 0, stallCnt := 0, stallOvf := false, sealedAt := 0, jsealedAt := 0, target := 0, live := Tab.const none
    kept := Tab.const none, old := Tab.const none, copying := [], pool := [], boundary := 0, jobSealed := false
    parityGot := Tab.const [], parityNew := Tab.const none, holders := [], groupSealed := false, rebuilt := []
    asm := Tab.const [], rebuild := none, inputNeed := [], inFirst := 0, inSlotBytes := 0, inSlots := 0, mirrorWait := [], mirrorFrames := [], mirrorCmds := []
    stalled := [], asmDone := [], slotCopies := [], routeLost := false, handback := false, holdAt := none, handPos := none, lostSet := [], jobDraught := 0, adopting := none }

def treeFresh : Tree :=
  { linValid := false, lineage := 0, digest := 0, collCnt := 0, collOvf := false, mismCnt := 0, mismOvf := false, bufPeak := 0
    bufFull := false, insts := [], early := [], inPool := [] }

def heapFresh : Heap := { base := 0, len := 0, minBlock := 8192, blocks := [], pendingOrder := [], atStart := [] }

def memFresh : PartMem :=
  { cfgIgnored := false, ptDir := 0, leaf := Tab.const none, pages := Tab.const none, frames := Tab.const .free, hbm := []
    shelf := [], parkCnt := 0, parkOvf := false, parkMax := 0, tcMiss := 0, tcMissOvf := false, unbankQ := [], bankJobs := []
    heaps := Tab.const heapFresh, heapQ := [] }

def ckFresh : Ckpt :=
  { state := .idle, abandoned := false, nospace := false, lastReasons := 0, interval := 0, holdoff := 0, warn := 0, cnt := 0
    cntOvf := false, abandonCnt := 0, abandonOvf := false, waiting := 0, gen := 0, step := 0, lastStep := 0, pinned := []
    toCopy := [], reserve := 0, ask := none, choice := none }

/-- An HBM region whose keys have been created and nothing written (R223). -/
def regionFresh : Region := { epoch := 0, kgen := false, retired := false, rwc := Tab.const 0, rwcNew := Tab.const 0 }

def protFresh : Prot :=
  { keys := false, nextKeys := false, kgen := false, mgen := 0, halted := false, alarmKind := 0, alarmLine := 0
    crcValid := false, crcLine := 0, crcCnt := 0, crcOvf := false, persistCnt := 0, persistOvf := false, denyCnt := 0
    denyOvf := false, faultLines := Tab.const [], ext := [], lcnt := Tab.const 0
    regions := Tab.const regionFresh, ranges := [], verdicts := [] }

/-- A scale-table entry that no record has set: KIND 0 (R160). -/
def scaleFresh : ScaleEntry :=
  { kind := 0, int8S := 0, zp := 0, int8Inv := 0, hist := List.replicate 16 0, satHist := 0, lastAmax := 0, fmtStep := 0
    scaleX := 0, runMax := 0, runSat := false }

def handleFresh (α : Type) : Handle α := { gen := 0, obj := none }

/-- A partition after reset: EMPTY. -/
def partFresh : Part :=
  { ctxs := Tab.const (handleFresh Context), evts := Tab.const (handleFresh Event), mobjs := Tab.const (handleFresh MObj)
    runLc := none, runBe := none, sems := Tab.const { word := 0, waiters := [] }
    pbars := Tab.const { count := 0, arrived := [] }, sct := Tab.const scaleFresh, adm := admFresh, rsv := admFresh
    rsvJob := none, chr := chrFresh, removing := none, exporting := none, keyArea := none, step := stepFresh
    abort := { request := none, count := 0, ember := 0, exc := none }
    pauseLc := false, pauseBe := false, epoch := 0, adoptPos := none, frozen := false, jobStoker := posFresh
    peers := Tab.const { alive := false, lost := false, count := 0, health := 0 }, hbSent := 0, inbox := [], holdBuf := []
    inXfers := [], routes := [], notices := [], prot := protFresh, stk := stokerFresh, rl := relightFresh, tree := treeFresh
    mem := memFresh, ck := ckFresh, launched := 0, pwarn := 0, slowdown := 0, sdMax := 0 }

/-! ### The module -/

def ringFresh : Ring := { base := 0, k := 4, headAddr := 0, head := 0, tail := 0, fetched := [], busy := none }

/-- A function after reset (Table 18.14). -/
def hostFnFresh : HostFn :=
  { cfgIgnored := false, adminLo := 0, adminHi := 0, adminEn := false, adminK := 4, recLo := 0, recHi := 0, recEn := false
    recVec := 0, recK := 6, recHead := 0, recTail := 0, held := [], recLost := 0, recOvf := false, dbBad := 0, dbOvf := false
    admin := ringFresh, ideKeys := none }

def hostFresh : HostIf :=
  { inReset := true, layout := 0, layoutStage := 0, layoutPend := false, aperEn := false, aperActive := false
    fns := Tab.const hostFnFresh, i3cAddr := none, i3cAnswer := none, i3cBusy := false, i3cWait := none }

def flueDirFresh : FlueDir := { laneWidth := 8, spare := none, failed := [], takeover := none, spareFrom := 0 }

/-- A sub-channel before any OPEN. -/
def subClosed : SubChan :=
  { openTx := 0, openRx := 0, told := false, opened := false, keyTx := 0, keyRx := 0, peerRole := .none, gcntTx := 0, gcntRx := 0 }

/-- A flue after reset (Table 11.12). -/
def flueFresh : Flue :=
  { en := false, weights := 0x1111, state := .idle, attempts := 0, tx := flueDirFresh, rx := flueDirFresh, modeWidth := 0, peerWidth := 0
    quarCause := 0, quarPart := 0, trainFail := false, cfgIgnored := false, peer := none, retryCnt := 0, fecCorr := 0
    fecUncorr := 0, refuseCnt := 0, deadKeyCnt := 0, staleCnt := 0, ovf := 0, txSeq := 0, rxSeq := 0, nakking := false
    acked := 0, retry := [], resync := false, used := Tab.const 0, granted := Tab.const 0, freed := Tab.const 0, nextPool := 0
    subs := Tab.const subClosed, rxData := Tab.const none, rxRec := Tab.const none, salt := 0, peerSalt := 0, rxLink := [], txQ := [], rrCtrl := 0, rrData := 0, rrDef := Tab.const 0 }

def sweepFresh : Sweep :=
  { reqPart := 0, reqKind := 0, first := 0, last := 0, result := 0, slots := Tab.const none, queued := [], doneCnt := 0
    autoCnt := 0, windowMax := 0, turn := Tab.const 15 }

def ksMetaFresh : KsMeta := { maps := Tab.const none, gens := [], retired := [], nextSeq := 0 }

/-- The kindling store as it comes to its first lighting: formatted and empty (DESIGN CHOICE, log 8). -/
def kindlingFresh : Kindling :=
  { ready := false, compacting := false, metaFault := false, pwrWarn := false, rootB := false, rootSeq := 0, rootGood := true
    baseB := false, halfB := false, firstJseq := 0, base := ksMetaFresh, sectors := [], cut := none, inForce := ksMetaFresh
    pend := [], seq := 0, writes := [], taken := Tab.const false, data := Tab.const [], freeStripes := 0, erasable := []
    compactCnt := 0, compactOvf := false, written := 0, ext := [], blobs := Tab.const none, lastExp := [] }

def masterFresh : MasterRegs :=
  { dmpAddr := 0, cimage := 0, mbxSel := 0, mbxValid := false, mbxResult := 0, mbxData := Tab.const 0, sootSel := 0 }

/-- An empty damper image that is not armed. -/
def imageFresh : DamperImage := { entries := [], overfull := false, armed := false }

def commonFresh : Common :=
  { voting := false, parityErr := false, parityAddr := 0, badAcc := false, voteFix := 0, voteOvf := false, swpDoneOvf := false
    swpAutoOvf := false, epochFull := 0, masters := Tab.const masterFresh
    images := Tab.const imageFresh, timeoutMs := 0x07D0, dmpTimeout := false
    stageIgn := false, resultImage := 0, result := 0 }

/-- The soot record and the meter as they come to the first lighting: empty (DESIGN CHOICE, log 8). -/
def sootFresh : Soot :=
  { pages := [], queue := [], chain := 0, meter := [], minutes := 0, pcycle := 0, pcycOvf := false, chainBad := false
    badIndex := 0, meterFull := false, lost := 0, lostOvf := false }

def healthFresh : Health :=
  { thermMargin := 0x0A, spareEmb := 0x02, sntThr := 0x01, hbmThr := 0x04, windowS := 0x003C, flueThr := 0x03E8, curSnt := 1
    curHbm := 4, curFlue := 1000, curMargin := 10, curSpare := 2, winHbm := Tab.const 0, winSnt := 0, winFlue := Tab.const 0
    raisedHbm := Tab.const false, raisedSnt := false, raisedFlue := false, sparesWas := false, thermalAt := none, warned := 0 }

/-- A check-value unit after reset (Table 20.6): CV_RESULT reads 0 under CRC-32, so the running value is all ones (R454). -/
def cvFresh : CvUnit := { poly := 0, run := 0xFFFFFFFF, loadLo := 0, loadHi := 0 }

/-- The module's sentinel block (Table 7.2). -/
def sntFresh : SentinelBlock :=
  { missLimit := 2, missOvf := false, cfgIgnored := false, missTotal := 0, lastValid := false, lastThread := 0, lastEmber := 0 }

/-- The fabric block (Table 11.13). -/
def fabFresh : Fabric := { member := 0, t := 0, dims := 0x08421, cfgIgnored := false }

/-- Pins before power (R23, R25): PERST_N pulled low, presence pulled high. -/
def pinsFresh : Pins :=
  { perstN := false, pwrWarn := false, ready := false, thermTripN := true, presN := Tab.const true, faults := [] }

/-- Power, lighting and draught before power-good (Table 2.8; log 5). -/
def powerFresh : Power :=
  { powerGood := false, aoOn := false, rails := false, flashOn := false, inRange := 0, lowRun := 0, highRun := 0, light := .aoUp
    cause := .none, hbmOk := 0, hsBist := false, cdBist := false, hbmTrained := false, pastRepair := false, stageMode := 3
    stageMask := 0x0000FFFF, stageErr := false, mode := .banked, maskCur := 0x0000FFFF, pendingMode := none, changing := none
    relightStage := none, tripped := false, hotLast := [], marginLast := false, hotDie := 0, thermMax := 0, thermPeak := 0
    ov := false, throttle := false, throttleOvf := false, powerW := 0, vin := 0, throttleTime := 0, issue := 16
    trims := Tab.const 0, usedSpares := Tab.const [], idleGrate := Tab.const false, idleShelf := Tab.const false, idleHbm := Tab.const false }

/-- OTP and the life-cycle controller: every OTP bit unburnt (DESIGN CHOICE, log 6); the life-cycle state is decoded in OTP_READ. -/
def lifeFresh : LifeCycle :=
  { otp := Tab.const 0, lcState := .raw, lcPending := false, burns := [], fromTo := none, status := 0, target := 0
    token := Tab.const 0, data := Tab.const 0, tokenFail := 0, tokenOvf := false, holdupMs := 0, erasePct := 0, erasing := false }

def debugFresh : Debug := { session := none, nonce := none, noCertLogged := false }

def keysFresh : Keys :=
  { rngFail := false, idReady := false, moduleId := 0, slots := Tab.const { a := 0, b := 0 }, addrPerm := 0, dataPerm := 0
    cache := [], miss := 0, missOvf := false, unwrapFail := 0, unwrapOvf := false, reports := 0, attOvf := false, queue := []
    mkPart := 0, mkResult := 0 }

end Sys2Proof.Machine
end

