-- ==== Sys2Proof/Machine/State.lean ====
section
/-! DEFINITION. The state of the device and its value after reset. -/

namespace Sys2Proof.Machine

/-- The reasons a step can stop with a fault: none of the device's own consequences is one (an exception, an abort, a halt or
a refusal is an effect on the state). -/
inductive Fault where
  /-- raised by no meaning of this model; safe. -/
  | never
  deriving DecidableEq, Repr

/-- The reasons a command can be refused by the model. -/
inductive Refusal where
  /-- a command that has no meaning in the model yet; raised by its arm alone; safe. -/
  | notModelled (mnemonic : String)
  deriving DecidableEq, Repr

/-- The state of the device. -/
structure State where
  pins : Pins
  power : Power
  lc : LifeCycle
  dbg : Debug
  keys : Keys
  common : Common
  soot : Soot
  cv : Tab CvUnit
  health : Health
  snt : SentinelBlock
  fab : Fabric
  flues : Tab Flue
  sweep : Sweep
  ks : Kindling
  host : HostIf
  parts : Tab Part
  /-- the embers, by quarter of the module (four compute dies each) and by logical identity within the module. -/
  quarters : Tab (Tab Ember)
  /-- translation caches (R205): by die (0-15 compute, 16-19 memory-side), the pages cached as partition · 2^27 + page. -/
  tcache : Tab (List Nat)
  /-- frames on their way out that the 96-cycle hold still keeps (R233): the partition and the frame, oldest first. -/
  outHold : List (Nat × Frame)
  /-- transfers of partition data towards the host that the hold still keeps (R233), oldest first. -/
  hostHold : List HeldOut
  /-- the commands that wait, first in, first out. -/
  pending : List Instr
  /-- the model's own counter of free values taken. -/
  freeCount : Nat
  /-- what has left the device, newest first. -/
  out : List Output
  deriving DecidableEq, Repr

/-- The device right after reset: before the 48 V input has come, with what it keeps without power as the log says (6, 8). -/
def State.reset : State :=
  { pins := pinsFresh, power := powerFresh, lc := lifeFresh, dbg := debugFresh, keys := keysFresh, common := commonFresh
    soot := sootFresh, cv := Tab.const cvFresh, health := healthFresh, snt := sntFresh, fab := fabFresh
    flues := Tab.const flueFresh, sweep := sweepFresh, ks := kindlingFresh, host := hostFresh, parts := Tab.const partFresh
    quarters := Tab.const (Tab.const emberFresh), tcache := Tab.const [], outHold := [], hostHold := [], pending := [], freeCount := 0, out := [] }

end Sys2Proof.Machine
end

