-- ==== Sys2Proof/Machine/Soot.lean ====
section
/-! DEFINITION. The soot record and the meter (R447 to R453): queueing an event, writing an entry, the minute and the meter
record, and what REPAIR reads back. -/

namespace Sys2Proof.Machine

/-- The chain value before entry 0 (R449). -/
def sootChain0 : Digest := BitVec.ofNat 256 (Config.shake256 (ascii "ZH9 SOOT") 32)

/-- The chain after an entry (R449). -/
def sootChainNext (c e : Digest) : Digest :=
  BitVec.ofNat 256 (Config.shake256 (leBytes 32 c.toNat ++ leBytes 32 e.toNat) 32)

/-- SOOT_ENTRIES counts written and torn pages (R450). -/
def sootEntries (s : State) : Nat := s.soot.pages.length

/-- The record is full: index 16,383 has been used (R450). -/
def sootFull (s : State) : Bool := decide (16384 ≤ s.soot.pages.length)

/-- An event reaches the soot queue; one that finds the queue or the record full is lost and counted (R448). -/
def sootEvent (typ part : Nat) (payload : List Byte) (s : State) : State :=
  if 64 ≤ s.soot.queue.length ∨ sootFull s then
    { s with soot := { s.soot with
        lost := satAdd s.soot.lost 1, lostOvf := s.soot.lostOvf || satOvf s.soot.lost 1 } }
  else
    { s with soot := { s.soot with queue := s.soot.queue ++
        [{ minutes := s.soot.minutes, pcycle := s.soot.pcycle, typ := BitVec.ofNat 8 typ,
           part := BitVec.ofNat 8 part, payload := BitVec.ofNat 112 (leNat payload) }] } }

/-- The 32 bytes of an entry (Table 20.1), as one little-endian number. -/
def sootEntryBits (skipped : Bool) (chain : Digest) (e : SootEvent) : Digest :=
  BitVec.ofNat 256 (leNat (leBytes 4 e.minutes.toNat ++ leBytes 3 e.pcycle.toNat ++ [e.typ] ++ leBytes 1 (b2n skipped)
    ++ [e.part] ++ leBytes 8 (chain.toNat % 2 ^ 64) ++ leBytes 14 e.payload.toNat))

/-- The last page is torn, so that the next entry carries SKIPPED (R450). -/
def sootSkips (ps : List SootPage) : Bool := decide (ps.getLast? = some .torn)

/-- Burn OTP word 90 bit 31 when the record is full and the hold-up input reads at least 1 ms (R450). -/
def sootFullBurn (s : State) : State :=
  if sootFull s && decide (1 ≤ s.lc.holdupMs.toNat) then
    { s with lc := { s.lc with otp := s.lc.otp.upd 90 fun w => w ||| 0x80000000#32 } }
  else s

/-- The kindling controller runs: from REPAIR onward while it is powered (R448). -/
def kindlingRuns (s : State) : Bool := s.power.flashOn && s.power.aoOn && (s.power.pastRepair || decide (s.power.light = .repair))

/-- SOOT_ENTRY_WRITE: the entry at the head of the queue becomes durable and the chain advances (R448, R449); a page that
reads back from neither copy is torn: it uses its index and leaves the chain and the queue (R450). -/
def sootWriteHead (torn : Bool) (s : State) : State :=
  match s.soot.queue with
  | [] => s
  | e :: rest =>
    if !kindlingRuns s || sootFull s then s
    else if torn then
      sootFullBurn { s with soot := { s.soot with pages := s.soot.pages ++ [.torn] } }
    else
      let bits := sootEntryBits (sootSkips s.soot.pages) s.soot.chain e
      sootFullBurn { s with soot := { s.soot with
        pages := s.soot.pages ++ [.entry bits], queue := rest, chain := sootChainNext s.soot.chain bits } }

def execSootEntryWrite (torn : Bool) (s : State) : Host.Outcome State Fault Refusal := .next (sootWriteHead torn s)

/-- SOOT_MINUTE: another operating minute passes (R451). -/
def execSootMinute (s : State) : Host.Outcome State Fault Refusal :=
  .next (if s.power.powerGood then { s with soot := { s.soot with minutes := satAdd s.soot.minutes 1 } } else s)

/-- The meter area holds 2^21 records (R451). -/
def meterCapacity : Nat := 2 ^ 21

/-- Write a meter record; the area full sets SOOT_METER_FULL (R451). -/
def meterAppend (m : Word) (p : BitVec 24) (s : State) : State :=
  if meterCapacity ≤ s.soot.meter.length then { s with soot := { s.soot with meterFull := true } }
  else
    { s with soot := { s.soot with
        meter := { minutes := m, pcycle := p } :: s.soot.meter
        meterFull := s.soot.meterFull || decide (meterCapacity ≤ s.soot.meter.length + 1) } }

/-- METER_WRITE: every 16 minutes the current counts are written (R451). -/
def execMeterWrite (s : State) : Host.Outcome State Fault Refusal :=
  .next (if s.power.powerGood && kindlingRuns s then meterAppend s.soot.minutes s.soot.pcycle s else s)

/-- The record with the greatest minutes (R451). -/
def meterNewest : List MeterRec → MeterRec
  | [] => { minutes := 0, pcycle := 0 }
  | r :: rs => let m := meterNewest rs; if m.minutes.toNat ≤ r.minutes.toNat then r else m

/-- REPAIR reads the meter: full areas read all ones; otherwise the power-cycle count advances and is written (R451). -/
def meterRepair (s : State) : State :=
  if meterCapacity ≤ s.soot.meter.length then
    { s with soot := { s.soot with minutes := 0xFFFFFFFF#32, pcycle := 0xFFFFFF#24, meterFull := true } }
  else
    let m := meterNewest s.soot.meter
    meterAppend m.minutes (satAdd m.pcycle 1)
      { s with soot := { s.soot with
          minutes := m.minutes, pcycle := satAdd m.pcycle 1
          pcycOvf := s.soot.pcycOvf || satOvf m.pcycle 1 } }

/-- Recompute the chain over stored pages from index `i`, noting the first LINK that differs (R452). -/
def sootRecompute : List SootPage → Nat → Digest → Option Nat → Digest × Option Nat
  | [], _, c, bad => (c, bad)
  | .torn :: ps, i, c, bad => sootRecompute ps (i + 1) c bad
  | .entry e :: ps, i, c, bad =>
    let ok := decide (field e 143 80 = c.toNat % 2 ^ 64)
    sootRecompute ps (i + 1) (sootChainNext c e) (if ok then bad else bad.or (some i))

/-- REPAIR reads the entry area, recomputes the chain and finishes a pending full-record burn (R450, R452). -/
def sootRepair (s : State) : State :=
  let (c, bad) := sootRecompute s.soot.pages 0 sootChain0 none
  sootFullBurn { s with soot := { s.soot with
    chain := c, chainBad := bad.isSome, badIndex := BitVec.ofNat 14 (bad.getD 0) } }

/-- A stored entry as RSOOT and mailbox value 0x41 return it: a torn or erased page reads 32 zero bytes (R453). -/
def sootRead (s : State) (i : Nat) : Digest :=
  match s.soot.pages[i]? with
  | some (.entry e) => e
  | _ => 0

end Sys2Proof.Machine
end

