-- ==== Sys2Proof/Machine/Ops.lean ====
section
/-! DEFINITION. The named operations over the state that the meanings share: parts, embers and threads by number, outputs and
records (R409), events and command completion (R407, R414), the conditions behind FAULT_N (R461), losing a context (R109, R112,
R419) and raising an exception (R110, R111). -/

namespace Sys2Proof.Machine

/-- The outcome type of every meaning. -/
abbrev Out := Host.Outcome State Fault Refusal

/-- The codes of Tables 4.10 and 5.13. -/
def excIllegalOpcode : Nat := 0x01
def excReservedField : Nat := 0x02
def excFetchBounds : Nat := 0x03
def excScratchBounds : Nat := 0x04
def excMisaligned : Nat := 0x05
def excCodeWrite : Nat := 0x06
def excTranslation : Nat := 0x07
def excProtection : Nat := 0x08
def excDescInvalid : Nat := 0x09
def excSyncOperand : Nat := 0x0A
def excStepMismatch : Nat := 0x0B
def excOperandLength : Nat := 0x10
def excTileDesc : Nat := 0x11
def excChain : Nat := 0x12
def excSctRange : Nat := 0x13
def excSentConfig : Nat := 0x14
def excFlueDesc : Nat := 0x15
def excFlueRoute : Nat := 0x16
def excCollOrder : Nat := 0x17
def excCollMismatch : Nat := 0x18
def excFlueWindow : Nat := 0x19
def excMoverFault : Nat := 0x20
def excParity : Nat := 0x30
def excBusError : Nat := 0x31

/-! ### Parts, embers and threads -/

/-- Partition `n`. -/
def State.part (s : State) (n : Nat) : Part := s.parts.get n
/-- Change partition `n`. -/
def State.modPart (n : Nat) (f : Part → Part) (s : State) : State := { s with parts := s.parts.upd n f }

/-- The ember with logical identity `l`. -/
def State.ember (s : State) (l : Nat) : Ember := (s.quarters.get (l / 6400)).get l
/-- Change the ember with logical identity `l`. -/
def State.modEmber (l : Nat) (f : Ember → Ember) (s : State) : State :=
  { s with quarters := s.quarters.upd (l / 6400) fun q => q.upd l f }

/-- Thread `t` of ember `l`. -/
def State.thread (s : State) (l t : Nat) : Thread := (s.ember l).thr.get t
/-- Change thread `t` of an ember. -/
def Ember.modThread (t : Nat) (f : Thread → Thread) (m : Ember) : Ember := { m with thr := m.thr.upd t f }
/-- Change thread `t` of ember `l`. -/
def State.modThread (l t : Nat) (f : Thread → Thread) (s : State) : State := s.modEmber l (Ember.modThread t f)

/-- The partitions of the layout (Table 18.1). -/
def State.nParts (s : State) : Nat := match s.host.layout.toNat with | 0 => 1 | 1 => 2 | _ => 4
/-- The partition that quarter `q` of the module belongs to. -/
def State.partOfQuarter (s : State) (q : Nat) : Nat := q * s.nParts / 4
/-- The partition that owns an ember (Table 18.1). -/
def State.partOf (s : State) (l : Nat) : Nat := s.partOfQuarter (l / 6400)
/-- Partition `n` is in the layout. -/
def State.hasPart (s : State) (n : Nat) : Bool := decide (n < s.nParts)
/-- Embers of one partition (Table 18.13, entry 3). -/
def State.embersPerPart (s : State) : Nat := 25600 / s.nParts
/-- The first logical ember of partition `n`. -/
def State.firstEmber (s : State) (n : Nat) : Nat := n * s.embersPerPart
/-- Memory-side dies of one partition. -/
def State.mdPerPart (s : State) : Nat := 4 / s.nParts

/-- Change every ember of partition `n`. -/
def State.mapEmbers (n : Nat) (f : Ember → Ember) (s : State) : State :=
  let qs := (List.range 4).foldl (fun q i => if s.partOfQuarter i = n then q.upd i (Tab.map f) else q) s.quarters
  { s with quarters := qs }

/-- Some ember of partition `n` meets `p` (the unlisted ones included). -/
def State.anyEmber (s : State) (n : Nat) (p : Ember → Bool) : Bool :=
  (List.range 4).any fun i => decide (s.partOfQuarter i = n) && (s.quarters.get i).anyEntry p

/-- The listed embers of partition `n` that meet `p`, in rising order. -/
def State.embersWhere (s : State) (n : Nat) (p : Ember → Bool) : List Nat :=
  (List.range 4).flatMap fun i => if s.partOfQuarter i = n then (s.quarters.get i).keysWhere p else []

/-- Change the threads of an ember one by one. -/
def Ember.mapThreads (f : Nat → Thread → Thread) (m : Ember) : Ember :=
  { m with thr := (List.range 8).foldl (fun h t => h.upd t (f t)) m.thr }

/-- A thread's class: the bit of EMB_BE_MASK (R59). -/
def Ember.isBe (m : Ember) (t : Nat) : Bool := m.beMask.getLsbD t
/-- The class of thread `t` of ember `l`: true for BE. -/
def State.isBe (s : State) (l t : Nat) : Bool := (s.ember l).isBe t

/-- The bytes `off` to `off + n - 1` lie in the scratch range of a class (R63) and below 0x6_0000 (R94). -/
def Ember.inRange (m : Ember) (be : Bool) (off n : Nat) : Bool :=
  let lo := 1024 * m.beBase.toNat
  let hi := 1024 * (m.beBase.toNat + m.beLen.toNat)
  decide (off + n ≤ 0x60000) &&
  (if be then decide (lo ≤ off) && decide (off + n ≤ hi)
   else decide (m.beMask = 0) || decide (m.beLen = 0) || decide (off + n ≤ lo) || decide (hi ≤ off))

/-- The bytes `off` to `off + n - 1` meet a code window of either class (R87). -/
def Ember.hitsCode (m : Ember) (off n : Nat) : Bool :=
  [0, 1].any fun c => match m.codeWin.get c with
    | none => false
    | some (b, k) => decide (off < 1024 * (b + k)) && decide (1024 * b < off + n)

/-- The thread states that hold up nothing (R59): an LC thread in IDLE or LOST. -/
def TState.quiet : TState → Bool
  | .idle => true
  | .lost => true
  | _ => false

/-- Every LC thread of the ember is IDLE or LOST (R59). -/
def Ember.lcQuiet (m : Ember) : Bool := (List.range 8).all fun t => m.isBe t || (m.thr.get t).st.quiet

/-- The context that holds a class of a partition. -/
def Part.running (p : Part) (be : Bool) : Option Nat := if be then p.runBe else p.runLc
/-- The object of a context index. -/
def Part.ctx (p : Part) (c : Nat) : Option Context := (p.ctxs.get c).obj
/-- The context that holds a class, if one does. -/
def Part.runCtx (p : Part) (be : Bool) : Option Context := (p.running be).bind p.ctx
/-- A context of the class is in RUN (R417). -/
def Part.inRun (p : Part) (be : Bool) : Bool := match p.runCtx be with | some c => decide (c.st = .run) | none => false
/-- Change a context that exists. -/
def Part.modCtx (c : Nat) (f : Context → Context) (p : Part) : Part :=
  { p with ctxs := p.ctxs.upd c fun h => { h with obj := h.obj.map f } }

/-! ### Clocks -/

/-- The clock domains (R41, Table 2.3); the PCIe endpoint and the kindling controller are told apart from the rest of the HS core, since
LIGHT_FAIL keeps them (R40). -/
inductive Clock where
  | grate (g : Fin 400)
  | fabric
  | shelfBank (b : Fin 64)
  | hbmPhy (h : Fin 16)
  | flue
  | hsCore
  | pcie
  | kindling
  | onfi
  | alwaysOn
  deriving DecidableEq, Repr

/-- The rate of a domain in a draught mode, in kHz; of the HBM PHY and the flue SerDes in Mb/s per pin or lane, of the ONFI channels in
kT/s (Table 2.3). -/
def Clock.rate (m : Draught) : Clock → Nat
  | .grate _ => match m with | .full => 1900000 | .forge => 2050000 | .flue => 1600000 | .banked => 800000
  | .fabric => if m = .banked then 500000 else 2000000
  | .shelfBank _ => if m = .banked then 500000 else 2000000
  | .hbmPhy _ => if m = .banked then 6400 else 9600
  | .flue => 128000
  | .hsCore => 1000000
  | .pcie => 1000000
  | .kindling => 1000000
  | .onfi => 3600000
  | .alwaysOn => 50000

/-- The clock of a domain runs (R40 to R43, R52): the always-on clock while its domain is powered; every other one while its rails are on.
LIGHT_FAIL stops all but those of the always-on domain, the PCIe endpoint and the kindling controller, a thermal trip leaves the kindling
controller and flash to their last entry, and an idle grate, shelf bank or stack has its clock gated. -/
def Power.clockRuns (p : Power) (c : Clock) : Bool :=
  let lit := p.aoOn && p.rails && !p.tripped && !p.ov
  let free := lit && decide (p.light ≠ .lightFail)
  match c with
  | .alwaysOn => p.aoOn
  | .pcie => lit
  | .kindling => p.aoOn && p.flashOn
  | .onfi => p.aoOn && p.flashOn
  | .grate g => free && !p.idleGrate.get g.val
  | .shelfBank b => free && !p.idleShelf.get b.val
  | .hbmPhy h => free && !p.idleHbm.get h.val
  | .fabric => free
  | .flue => free
  | .hsCore => free

/-- The module is lit, powered and clocked: its partitions run (R36, R40, R52, R53). -/
def State.inService (s : State) : Bool :=
  decide (s.power.light = .ready) && s.power.clockRuns .fabric

/-- Take the next free value of the model: the number and the state with the counter advanced. -/
def State.takeFree (s : State) : Nat × State := (Config.freeValue s.freeCount, { s with freeCount := s.freeCount + 1 })
/-- Draw 256 bits of entropy (R366). -/
def State.draw (s : State) : Digest × State := (Config.entropy s.freeCount, { s with freeCount := s.freeCount + 1 })

/-- Count bytes in the utilisation record of a class's running context (R423): bytes completed by its movers, or sent on flues. -/
def useCount (n : Nat) (be : Bool) (moved flue : Nat) (s : State) : State :=
  s.modPart n fun p => match p.running be with
    | some c => p.modCtx c fun x => { x with util := { x.util with
        moved := satAdd x.util.moved moved, flueBytes := satAdd x.util.flueBytes flue
        ovf := withBit (withBit x.util.ovf 5 (x.util.ovf.getLsbD 5 || satOvf x.util.moved moved)) 6
          (x.util.ovf.getLsbD 6 || satOvf x.util.flueBytes flue) } }
    | none => p

/-! ### Outputs, records and FAULT_N -/

/-- Something leaves the device. -/
def State.emit (o : Output) (s : State) : State := { s with out := o :: s.out }

/-- Change a function's host block. -/
def State.modFn (f : Nat) (g : HostFn → HostFn) (s : State) : State := { s with host := { s.host with fns := s.host.fns.upd f g } }

/-- Records that the ring can still take: it has 2^k entries and keeps one free (R409). -/
def HostFn.room (h : HostFn) : Nat :=
  if h.recEn then
    let k := 2 ^ h.recK.toNat
    k - 1 - (h.recTail.toNat + k - h.recHead.toNat % k) % k
  else 0

/-- Write a record at HOST_REC_TAIL and raise the ring's vector (R405, R409). -/
def putRecord (f : Nat) (r : HostRecord) (s : State) : State :=
  let h := s.host.fns.get f
  (s.modFn f fun h => { h with recTail := BitVec.ofNat 16 ((h.recTail.toNat + 1) % 2 ^ h.recK.toNat) })
    |>.emit (.record f h.recTail.toNat r) |>.emit (.msix f h.recVec.toNat)

/-- A record for a function: written, held, or dropped and counted (R409). -/
def hostRecord (f : Nat) (r : HostRecord) (s : State) : State :=
  let h := s.host.fns.get f
  if h.held.isEmpty && decide (0 < h.room) then putRecord f r s
  else if h.held.length < 256 then s.modFn f fun h => { h with held := h.held ++ [r] }
  else s.modFn f fun h => { h with recLost := satAdd h.recLost 1, recOvf := h.recOvf || satOvf h.recLost 1 }

/-- A record that concerns partition `n` goes to its function and to PF0 (Table 18.7). -/
def partRecord (n : Nat) (r : HostRecord) (s : State) : State := hostRecord 0 r (hostRecord (n + 1) r s)

/-- Write held records while the ring has room (R409). -/
def drainHeld : Nat → Nat → State → State
  | 0, _, s => s
  | k + 1, f, s =>
    let h := s.host.fns.get f
    match h.held with
    | [] => s
    | r :: rs => if 0 < h.room then drainHeld k f (putRecord f r (s.modFn f fun h => { h with held := rs })) else s

/-- A condition that holds FAULT_N low arises (R461). -/
def setFault (c : FaultCond) (s : State) : State :=
  if c ∈ s.pins.faults then s else { s with pins := { s.pins with faults := c :: s.pins.faults } }
/-- A condition is cleared by its clearing action (R461). -/
def clearFault (c : FaultCond) (s : State) : State :=
  { s with pins := { s.pins with faults := s.pins.faults.filter fun d => decide (d ≠ c) } }
/-- FAULT_N is low exactly while a condition is not cleared (R461): true is high. -/
def faultN (s : State) : Bool := s.pins.faults.isEmpty

/-! ### Rings, events and completion -/

/-- The partition a function serves. -/
def fnPart (f : Nat) : Nat := f - 1

/-- A ring of a function (R406). -/
def State.ring (s : State) (f : Nat) : RingId → Option Ring
  | .admin => some (s.host.fns.get f).admin
  | .queue c q => ((s.part (fnPart f)).ctx c).bind fun x => x.queues.get q

/-- Change a ring that exists. -/
def State.modRing (f : Nat) (r : RingId) (g : Ring → Ring) (s : State) : State :=
  match r with
  | .admin => s.modFn f fun h => { h with admin := g h.admin }
  | .queue c q => s.modPart (fnPart f) (Part.modCtx c fun x => { x with queues := x.queues.upd q fun o => o.map g })

/-- The 16 bytes of an exception record (Table 4.11). -/
def ExcRec.bytes (r : ExcRec) : List Byte :=
  leBytes 1 r.code ++ leBytes 1 r.sub ++ leBytes 1 (128 * b2n r.be + r.thread % 8) ++ leBytes 1 0 ++ leBytes 2 (r.ember % 2 ^ 15) ++
    leBytes 2 r.pc.toNat ++ leBytes 8 r.addr.toNat

/-- The 32 bytes of a record as it stands in the record ring (Table 18.6): EXC is the exception record, or zero. -/
def HostRecord.bytes (r : HostRecord) : List Byte :=
  leBytes 1 r.kind ++ leBytes 1 r.status ++ leBytes 1 r.detail ++ leBytes 1 0 ++ leBytes 4 r.tag.toNat ++ leBytes 8 r.arg.toNat ++
    (match r.exc with | some e => e.bytes | none => leBytes 16 0)

/-- A COMPLETION record (Tables 18.6, 18.7). -/
def completionRec (status detail : Nat) (tag : Word) (arg : DWord) : HostRecord :=
  { kind := 1, status := status, detail := detail, tag := tag, arg := arg, exc := none }

/-- Complete the command in execution on a ring, without its event: the head advances and is written back, and a record is
written on failure, or on success where REC is set (R406, R407). -/
def ringDone (f : Nat) (r : RingId) (b : Busy) (status detail : Nat) (arg : DWord) (s : State) : State :=
  match s.ring f r with
  | none => s
  | some g =>
    let head := (g.head + 1) % 2 ^ g.k
    let s := (s.modRing f r fun g => { g with busy := none, head := head }).emit (.hostWrite f g.headAddr (leBytes 8 head))
    if status ≠ 0 ∨ b.flags.getLsbD 0 then hostRecord f (completionRec status detail b.tag arg) s else s

/-- The index of a handle of an event, memory object or context. -/
def evtIndex (h : Nat) : Nat := h % 65536
def mobjIndex (h : Nat) : Nat := h % 1048576
def ctxIndex (h : Nat) : Nat := h % 1024

/-- The event a handle names while it is live (R411). -/
def Part.evt (p : Part) (h : Nat) : Option Event :=
  let e := p.evts.get (evtIndex h)
  if e.gen = h / 65536 then e.obj else none

/-- The memory object a handle names while it is live (R411). -/
def Part.mobj (p : Part) (h : Nat) : Option MObj :=
  let e := p.mobjs.get (mobjIndex h)
  if e.gen = h / 1048576 then e.obj else none

/-- The context a handle names while it is live: index, partition and generation agree (R411). -/
def Part.ctxOf (p : Part) (n h : Nat) : Option Context :=
  let e := p.ctxs.get (ctxIndex h)
  if e.gen = h / 4096 ∧ (h / 1024) % 4 = n then e.obj else none

/-- The handle of a context index (Table 18.9). -/
def ctxHandle (p : Part) (n c : Nat) : Nat := c + 1024 * n + 4096 * (p.ctxs.get c).gen

/-- The queues of a partition whose command in execution has an opcode, by context and queue. -/
def Part.busyQueues (p : Part) (op : Nat) : List (Nat × Nat × Busy) :=
  p.ctxs.items.flatMap fun (c, h) =>
    match h.obj with
    | none => []
    | some x => x.queues.items.flatMap fun (q, o) =>
      match o.bind (·.busy) with
      | some b => if b.opcode.toNat = op then [(c, q, b)] else []
      | none => []

/-- A queue ring by numbers. -/
def queueId (c q : Nat) : RingId := .queue (Fin.ofNat 1024 c) (Fin.ofNat 16 q)

/-- SIGNAL: add to an event's value, saturating; report it when it first reaches NOTIFY; release the WAITs it satisfies, whose
own events are signalled in turn (R407, R414). An event whose owner has died ignores signals (R421). -/
def signalEvent : Nat → Nat → Nat → Nat → State → State
  | 0, _, _, _, s => s
  | fuel + 1, n, h, add, s =>
    match (s.part n).evt h with
    | none => s
    | some e =>
      if e.ownerLost then s
      else
        let v := satAdd e.value add
        let hit := !e.notified && decide (e.notify.toNat ≤ v.toNat) && decide (e.vector ≠ 0xFFFF)
        let e' := { e with value := v, sat := e.sat || satOvf e.value add
                           notified := e.notified || decide (e.notify.toNat ≤ v.toNat) }
        let s := s.modPart n fun p => { p with evts := p.evts.upd (evtIndex h) fun x => { x with obj := some e' } }
        let s := if hit then
            (partRecord n { kind := 2, status := 0, detail := 0, tag := BitVec.ofNat 32 h, arg := v, exc := none } s).emit
              (.msix (n + 1) e.vector.toNat)
          else s
        let ready := ((s.part n).busyQueues 0x42).filter fun (_, _, b) =>
          decide (b.a.toNat = h) && decide (b.b.toNat ≤ v.toNat)
        ready.foldl (fun s (c, q, b) =>
          let s := ringDone (n + 1) (queueId c q) b 0 0 0 s
          if b.flags.getLsbD 1 then signalEvent fuel n b.event.toNat 1 s else s) s

/-- The deepest chain of events that one signal can release: one step for each queue of a partition. -/
def signalFuel : Nat := 16384

/-- Complete a command: its record, its head, and its event on success (R407). -/
def completeCmd (f : Nat) (r : RingId) (b : Busy) (status detail : Nat) (arg : DWord) (s : State) : State :=
  let s := ringDone f r b status detail arg s
  if status = 0 ∧ b.flags.getLsbD 1 then signalEvent signalFuel (fnPart f) b.event.toNat 1 s else s

/-! ### Frames on their way out -/

/-- The module's own position: FAB_T and FAB_MEMBER. -/
def State.ownPos (s : State) : Pos :=
  { t0 := field s.fab.t 19 15, t1 := field s.fab.t 14 10, t2 := field s.fab.t 9 5, t3 := field s.fab.t 4 0
    member := s.fab.member.toNat }

/-- The logical position of a partition: its adopted one, or the module's own. -/
def State.logicalPos (s : State) (n : Nat) : Pos := (s.part n).adoptPos.getD s.ownPos

/-- A partition sends a frame with its epoch, lineage and step (R257): it enters the outbound hold (R233). A withdrawn or
halted partition sends nothing (R309, R230). `via` is the torus direction that a route or ring names (R199, R264, R266). -/
def sendFrameVia (via : Option Nat) (n : Nat) (dst : Option Pos) (vc : Vc) (body : FrameBody) (s : State) : State :=
  let p := s.part n
  if p.rl.state = .withdrawn ∨ p.prot.halted then s
  else { s with outHold := s.outHold ++
    [(n, { epoch := p.epoch, lineage := p.tree.lineage, step := p.step.count, src := s.logicalPos n, dst := dst, vc := vc, body := body, via := via })] }

/-- A frame whose torus direction its sender's route does not choose. -/
def sendFrame (n : Nat) (dst : Option Pos) (vc : Vc) (body : FrameBody) (s : State) : State := sendFrameVia none n dst vc body s

/-! ### Losing a context and raising an exception -/

/-- Release a paused thread: back to WAIT while its condition is unmet, else to RUN or HALT (R59, R212). -/
def Thread.unpause (h : Thread) : Thread :=
  if h.st = .paused then
    match h.cond with
    | some _ => { h with st := .wait }
    | none => if h.haltPend then { h with st := .halt, haltPend := false } else { h with st := .run }
  else h

/-- BE threads leave PAUSED while every LC thread is IDLE or LOST (R59). -/
def Ember.releaseBe (m : Ember) : Ember :=
  if m.lcQuiet then m.mapThreads fun t h => if m.isBe t then h.unpause else h else m

/-- Release the BE threads of a partition where nothing holds them. -/
def releaseBeAll (n : Nat) (s : State) : State :=
  if (s.part n).pauseBe then s else s.mapEmbers n Ember.releaseBe

/-- A thread enters LOST: what it waited for and what it had outstanding is gone (R109, R112). -/
def Thread.lose (h : Thread) : Thread :=
  { h with st := .lost, cond := none, haltPend := false, stepOne := false, parkPage := none
           loads := [], stores := 0, stall := false, heapReqs := [] }

/-- Drop a class's queued and executing work of an ember (R109). -/
def Ember.dropWork (be : Bool) (m : Ember) : Ember :=
  { m with tileQ := m.tileQ.filter fun e => e.be != be
           movers := m.movers.map fun q => q.filter fun j => j.be != be
           flueQ := m.flueQ.filter fun j => j.be != be }

/-- Every thread of a class enters LOST and its work is discarded (R109). -/
def Ember.lose (be : Bool) (m : Ember) : Ember :=
  (m.dropWork be).mapThreads fun t h => if m.isBe t = be then h.lose else h

/-- Count the time that a thread has spent in PARK (R212, R218). -/
def parkTime (n : Nat) (be : Bool) (ns : Word) (s : State) : State :=
  s.modPart n fun p =>
    let us := BitVec.ofNat 32 (ns.toNat / 1000)
    let p := { p with mem := { p.mem with parkMax := if p.mem.parkMax.toNat < us.toNat then us else p.mem.parkMax } }
    match p.running be with
    | some c => p.modCtx c fun x => { x with mem := { x.mem with
        parkNs := satAdd x.mem.parkNs ns.toNat
        ovf := withBit x.mem.ovf 4 (x.mem.ovf.getLsbD 4 || satOvf x.mem.parkNs ns.toNat) } }
    | none => p

/-- Threads that meet `q` leave PARK otherwise than by their page's coming back: the time each spent there, which no command measures, is a free
value (R212, R218). -/
def endParks (n : Nat) (q : Nat → Nat → Bool) (s : State) : State :=
  (s.embersWhere n fun _ => true).foldl (fun s l => (List.range 8).foldl (fun s t =>
    if decide ((s.thread l t).st = .park) && q l t then
      let (v, s) := s.takeFree
      parkTime n (s.isBe l t) (BitVec.ofNat 32 v) s
    else s) s) s

/-- Remove the thread waiters of a class's semaphores. -/
def dropWaiters (be : Bool) (sems : Tab Sem) : Tab Sem :=
  { sems with items := (sems.items.map fun (k, v) =>
      (k, if decide (4096 ≤ k) = be then
            { v with waiters := v.waiters.filter fun w => match w with | .thread _ _ _ => false | .queue _ _ _ => true }
          else v)).filter fun e => decide (e.2 ≠ sems.dflt) }

/-- The queues of a context that meet `p` no longer wait on any semaphore. -/
def dropQueueWaits (n c : Nat) (p : Nat → Bool) (s : State) : State :=
  s.modPart n fun q => { q with sems := { q.sems with items := (q.sems.items.map fun (k, v) =>
    (k, { v with waiters := v.waiters.filter fun w => match w with
      | .thread _ _ _ => true
      | .queue c' q' _ => !(decide (c' = c) && p q') })).filter fun e => decide (e.2 ≠ q.sems.dflt) } }

/-- Complete every command in execution on a context's queues with a status (R419, R420). -/
def failQueues (n c : Nat) (status : Nat) (s : State) : State :=
  (List.range 16).foldl (fun s q =>
    match (s.ring (n + 1) (queueId c q)).bind (·.busy) with
    | some b => completeCmd (n + 1) (queueId c q) b status 0 0 s
    | none => s) (dropQueueWaits n c (fun _ => true) s)

/-- The context that holds a class enters LOST: its first exception is kept, its threads enter LOST everywhere, its work is
discarded and its queued commands fail (R109, R112, R419). One that was never started holds no thread. Threads in LOST hold up no BE work
(R59). -/
def loseClass (n : Nat) (be : Bool) (rec : Option ExcRec) (s : State) : State :=
  match (s.part n).running be, (s.part n).runCtx be with
  | some c, some x =>
    if x.st = .lost then s
    else
      let s := s.modPart n (Part.modCtx c fun x => { x with st := .lost, exc := x.exc.or rec })
      let s := if x.st = .run then (endParks n (fun l t => s.isBe l t == be) s).mapEmbers n (Ember.lose be) else s
      let keep := (s.part n).mem.heapQ.filter fun k => s.isBe (k / 8) (k % 8) != be
      let s := s.modPart n fun p => { p with
        sems := dropWaiters be p.sems
        mem := { p.mem with heapQ := keep }
        tree := { p.tree with
          insts := p.tree.insts.filter fun i => i.be != be
          early := p.tree.early.filter fun f => decide (f.2.vc = .be) != be } }
      failQueues n c 0x08 (if be then s else releaseBeAll n s)
  | _, _ => s

/-- The running context of a class is lost, and one CONTEXT_LOST record says so (R109, R112). -/
def loseContext (n : Nat) (be : Bool) (rec : Option ExcRec) (detail : Nat) (s : State) : State :=
  match (s.part n).running be, (s.part n).runCtx be with
  | some c, some x =>
    if x.st = .lost then s
    else partRecord n { kind := 3, status := 0, detail := detail, tag := BitVec.ofNat 32 (ctxHandle (s.part n) n c)
                        arg := BitVec.ofNat 64 (ctxHandle (s.part n) n c), exc := x.exc.or rec } (loseClass n be rec s)
  | _, _ => s

/-- The exception record of a thread (Table 4.11). -/
def excRec (s : State) (l t code sub : Nat) (pc : HWord) (addr : DWord) : ExcRec :=
  { code := code, sub := sub, be := s.isBe l t, thread := t, ember := l, pc := pc, addr := addr }

/-- A precise exception of a thread: no effect of the instruction, the context is lost (R109, R110). -/
def raise (site : Site) (code : Nat) (addr : DWord) (s : State) : State :=
  let l := site.e.val
  let t := site.t.val
  loseContext (s.partOf l) (s.isBe l t) (some (excRec s l t code 0 (s.thread l t).pc addr)) 0 s

end Sys2Proof.Machine
end

