-- ==== Sys2Proof/Machine/KeyOps.lean ====
section
/-! DEFINITION. The key store (R367, R368), wrapped blobs and the key cache (R370, R371), the hierarchy of Table 16.3, and the
destruction of keys (R373). -/

namespace Sys2Proof.Machine

/-- A digest from the first 32 bytes of SHAKE256 over a message (R374). -/
def shake (m : List Byte) : Digest := BitVec.ofNat 256 (Config.shake256 m 32)
/-- The bytes of a digest or key. -/
def keyBytes (k : Digest) : List Byte := leBytes 32 k.toNat

/-- A derivation: SHAKE256 over a label and inputs (R374). -/
def derive (label : String) (inputs : List Byte) : Digest := shake (ascii label ++ inputs)

/-- The key in a slot: the two shares joined (R368). -/
def slotKey (s : State) (i : Nat) : Digest := let k := s.keys.slots.get i; k.a ^^^ k.b

/-- Write a slot: its first share is drawn (R368). -/
def setSlot (i : Nat) (k : Digest) (s : State) : State :=
  let (a, s) := s.draw
  { s with keys := { s.keys with slots := s.keys.slots.set i { a := a, b := a ^^^ k } } }

/-- Clear a slot: both shares (R373). -/
def clearSlot (i : Nat) (s : State) : State :=
  { s with keys := { s.keys with slots := s.keys.slots.set i { a := 0, b := 0 } } }

/-- Key-store slots of a partition (Table 16.1). -/
def slotPk (n : Nat) : Nat := 8 + n
def slotJob (n : Nat) : Nat := 12 + n
def slotRsv (n : Nat) : Nat := 16 + n

/-- The device wrap key (Table 16.3). -/
def dwk (s : State) : Digest := slotKey s 5
/-- The bank key of a partition (Table 16.3). -/
def bankKey (s : State) (n : Nat) : Digest := derive "ZH9 BANK" (keyBytes (slotKey s (slotPk n)))

/-- The header of a wrapped blob (Table 16.2). -/
def blobHeader (kind part index gen : Nat) (job : BitVec 128) : List Byte :=
  leBytes 1 kind ++ leBytes 1 part ++ leBytes 1 index ++ [0] ++ leBytes 4 gen ++ leBytes 16 job.toNat

/-- The alternative initial value: bytes 7:0 of SHAKE256 over the header (R370). -/
def blobIv (h : List Byte) : DWord := BitVec.ofNat 64 (Config.shake256 h 8)

/-- Wrap a key as a blob of 64 bytes (R370). -/
def wrapBlob (s : State) (kind part index gen : Nat) (job : BitVec 128) (k : Digest) : List Byte :=
  let h := blobHeader kind part index gen job
  h ++ Config.keyWrap (dwk s) (blobIv h) k

/-- The key of a blob, where it unwraps. -/
def openBlob (s : State) (b : List Byte) : Option Digest := Config.keyUnwrap (dwk s) (blobIv (b.take 24)) (b.drop 24)

/-- Use a wrapped key through the key cache (R371): a hit becomes the most recently used; a miss is counted, unwraps and replaces
the least recently used of 32; a blob that does not unwrap is counted. -/
def useBlob (b : List Byte) (part : PartId) (s : State) : State × Option Digest :=
  let key : BitVec 512 := BitVec.ofNat 512 (leNat b)
  let c := s.keys.cache
  match c.find? fun e => decide (e.blob = key) with
  | some e => ({ s with keys := { s.keys with cache := e :: c.filter fun x => decide (x.blob ≠ key) } }, some (e.key.a ^^^ e.key.b))
  | none =>
    let s := { s with keys := { s.keys with miss := satAdd s.keys.miss 1, missOvf := s.keys.missOvf || satOvf s.keys.miss 1 } }
    match openBlob s b with
    | none => ({ s with keys := { s.keys with
        unwrapFail := satAdd s.keys.unwrapFail 1, unwrapOvf := s.keys.unwrapOvf || satOvf s.keys.unwrapFail 1 } }, none)
    | some k =>
      let (a, s) := s.draw
      ({ s with keys := { s.keys with cache := ({ blob := key, key := { a := a, b := a ^^^ k }, part := part } :: c).take 32 } }, some k)

/-- Clear the cache entries of a partition (R373). -/
def dropCache (n : Nat) (s : State) : State :=
  { s with keys := { s.keys with cache := s.keys.cache.filter fun e => decide (e.part.val ≠ n) } }

/-- Destroy the keys of a partition's tenant: PK_n and JOB_KEY, with what was derived from them (R367, R373). -/
def destroyTenantKeys (n : Nat) (s : State) : State :=
  let s := dropCache n (clearSlot (slotJob n) (clearSlot (slotPk n) s))
  s.modPart n fun p => { p with prot := { p.prot with keys := false, nextKeys := false } }

/-- MODULE_ID (Table 14.5). -/
def moduleIdOf (seed : Digest) : Digest := shake (Config.falconPublicKey seed)
/-- The module's Falcon-1024 public key. -/
def ownPublicKey (s : State) : List Byte := Config.falconPublicKey (slotKey s 1)

/-- Sign a message with the identity key: none while the entropy source has failed (R366). -/
def signOwn (m : List Byte) (s : State) : State × Option (List Byte) :=
  if s.keys.rngFail then (s, none)
  else
    let (d, s) := s.draw
    (s, some (Config.falconSign (slotKey s 1) m d))

/-- A fresh key from the entropy source: none after a health failure (R366). -/
def freshKey (s : State) : State × Option Digest :=
  if s.keys.rngFail then (s, none) else let (k, s) := s.draw; (s, some k)

/-- The memory keys of a partition are created at generation 0 (R374): every EPOCH, RWC and RETIRED is 0 and every KGEN the current one
(R223). -/
def Prot.newKeys (p : Prot) : Prot :=
  { p with keys := true, nextKeys := false, kgen := false, mgen := 0, regions := Tab.const regionFresh, lcnt := Tab.const 0, ext := [] }

/-! ### AES-256-GCM -/

/-- The cipher text of a plain text, and the plain text of a cipher text: the key's bytes are added. -/
def gcmText (key : Digest) (nonce bs : List Byte) : List Byte := bs.mapIdx fun i b => b ^^^ Config.gcmPad key nonce i

/-- AES-256-GCM sealing: the cipher text and the 16-byte tag (R239, R255, R331, R358). -/
def gcmSeal (key : Digest) (nonce aad plain : List Byte) : List Byte :=
  let ct := gcmText key nonce plain
  ct ++ leBytes 16 (Config.gcmTag key nonce aad ct).toNat

/-- AES-256-GCM opening of a cipher text and tag: none where the tag fails. -/
def gcmOpen (key : Digest) (nonce aad : List Byte) (boxed : List Byte) : Option (List Byte) :=
  let ct := boxed.take (boxed.length - 16)
  if boxed.drop (boxed.length - 16) = leBytes 16 (Config.gcmTag key nonce aad ct).toNat then some (gcmText key nonce ct) else none

/-- The measurement of a program (R377). -/
def measure (be : Bool) (code : List Byte) : Digest :=
  derive "ZH9 PROG" (leBytes 1 (b2n be) ++ leBytes 4 code.length ++ code)

/-- A reservation is released (R329, R401, R422). -/
def releaseReservation (n : Nat) (s : State) : State :=
  if (s.part n).rsv.state = .empty then s
  else (clearSlot (slotRsv n) s).modPart n fun p => { p with
    rsv := admFresh, rsvJob := none
    rl := { p.rl with role := if p.rl.role = .standby then .none else p.rl.role
                      state := if p.rl.role = .standby then .off else p.rl.state, forward := false } }

end Sys2Proof.Machine
end

