-- ==== Sys2Proof/Machine/Buddy.lean ====
section
/-! DEFINITION. The buddy allocator of a heap, and the return of its pending blocks (R213, R214, R216). -/

namespace Sys2Proof.Machine

/-- The heaps of a partition: 0 LC HBM, 1 LC shelf, 2 BE HBM, 3 BE shelf (R213). -/
def heapIx (be shelf : Bool) : Nat := 2 * b2n be + b2n shelf

/-- A heap that is one free block (R214). -/
def Heap.fresh (base len minBlock : Nat) : Heap :=
  let bs : List Block := if len = 0 then [] else [{ off := 0, size := len, st := .free, after := 0 }]
  { base := base, len := len, minBlock := minBlock, blocks := bs, pendingOrder := [], atStart := bs }

/-- The least power of two not below `k`. -/
def ceilPow2 (k : Nat) : Nat := if k ≤ 1 then 1 else 2 ^ (Nat.log2 (k - 1) + 1)

/-- Split the free block at `off` down to `size`, keeping the lower half each time (R214). -/
def splitBlock : Nat → Nat → Nat → List Block → List Block
  | 0, _, _, bs => bs
  | fuel + 1, off, size, bs =>
    splitBlock fuel off size (bs.flatMap fun b =>
      if b.off = off ∧ size < b.size then
        [{ b with size := b.size / 2 }, { b with off := b.off + b.size / 2, size := b.size / 2 }]
      else [b])

/-- The free block that serves a request: the smallest size that holds it, and of that size the lowest address (R214). -/
def bestBlock (size : Nat) (bs : List Block) : Option Block :=
  bs.foldl (fun best b =>
    if b.st = .free ∧ size ≤ b.size then
      match best with
      | some c => if b.size < c.size then some b else some c
      | none => some b
    else best) none

/-- Serve an ALLOC of `ra` bytes (R214): the heap, and the offset or a status of Table 4.9. -/
def Heap.alloc (ra : Nat) (h : Heap) : Heap × Except Nat Nat :=
  if ra = 0 ∨ h.len < ra then (h, .error 2)
  else
    let size := max h.minBlock (ceilPow2 ra)
    match bestBlock size h.blocks with
    | none => (h, .error 1)
    | some b =>
      let bs := (splitBlock 64 b.off size h.blocks).map fun c => if c.off = b.off then { c with st := .allocated } else c
      ({ h with blocks := bs }, .ok b.off)

/-- Serve a FREE of the address `a`: the block becomes pending, or none where it names no allocated block (R216). -/
def Heap.free (a after : Nat) (h : Heap) : Option Heap :=
  if a < h.base then none
  else match h.blocks.find? fun b => decide (h.base + b.off = a) && decide (b.st = .allocated) with
    | none => none
    | some b => some { h with
        blocks := h.blocks.map fun c => if c.off = b.off then { c with st := .pending, after := after } else c
        pendingOrder := h.pendingOrder ++ [b.off] }

/-- Merge the free block at `off` with its buddy while that is wholly free, up to the heap (R216). -/
def mergeBlock : Nat → Nat → Nat → List Block → List Block
  | 0, _, _, bs => bs
  | fuel + 1, len, off, bs =>
    match bs.find? fun b => b.off = off with
    | none => bs
    | some b =>
      let buddy := if b.off / b.size % 2 = 0 then b.off + b.size else b.off - b.size
      if b.size < len ∧ bs.any (fun c => decide (c.off = buddy) && decide (c.size = b.size) && decide (c.st = .free)) then
        let lo := min b.off buddy
        mergeBlock fuel len lo ((bs.filter fun c => decide (c.off ≠ max b.off buddy)).map fun c =>
          if c.off = lo then { c with size := 2 * b.size } else c)
      else bs

/-- Return one pending block (R216). -/
def Heap.giveBack (off : Nat) (h : Heap) : Heap :=
  let bs := h.blocks.map fun c => if c.off = off then { c with st := .free, after := 0 } else c
  { h with blocks := mergeBlock 64 h.len off bs, pendingOrder := h.pendingOrder.filter fun o => decide (o ≠ off) }

/-- Return the pending blocks that meet `p`, in the order their FREEs were served. -/
def Heap.giveBackWhere (p : Block → Bool) (h : Heap) : Heap :=
  (h.pendingOrder.filter fun o => h.blocks.any fun b => decide (b.off = o) && p b).foldl (fun h o => h.giveBack o) h

/-- The launch number of the oldest BE work of a partition that has not completed. -/
def oldestBe (n : Nat) (s : State) : Option Nat :=
  let seqs := (s.embersWhere n fun _ => true).flatMap fun l =>
    let m := s.ember l
    (m.tileQ.filter (·.be)).map (·.seq) ++ (m.flueQ.filter (·.be)).map (·.seq) ++
      (List.range 2).flatMap fun i => ((m.movers.get i).filter (·.be)).map (·.seq)
  seqs.min?

/-- With no LC job loaded, BE blocks return once every BE work launched before their FREE has completed: looked at wherever a work completes,
a FREE is served, or the LC job goes (R216). -/
def returnBe (n : Nat) (s : State) : State :=
  if (s.part n).runLc.isSome then s
  else
    let ok (b : Block) : Bool := match oldestBe n s with | some k => decide (b.after ≤ k) | none => true
    s.modPart n fun p => { p with mem := { p.mem with
      heaps := (p.mem.heaps.upd 2 (Heap.giveBackWhere ok)).upd 3 (Heap.giveBackWhere ok) } }

end Sys2Proof.Machine
end

