-- ==== Sys2Proof/Machine/Line.lean ====
section
/-! DEFINITION. The HBM line (R221 to R224, R235, R240, R241): the values that apply to it, its cipher text, tag and CRC, the classification
of a stored line, and what the partition reads of it. -/

namespace Sys2Proof.Machine

/-- Bytes of a page, a frame and a stripe (R202, R204, R321). -/
def pageBytes : Nat := 2097152

/-- HBM stacks of a partition (Table 9.4). -/
def State.stacks (s : State) : Nat := 16 / s.nParts

/-- The partition's memory-side die, counted within the partition, that serves a physical address (R204). -/
def State.dieOf (s : State) (pa : Nat) : Nat := pa / 4096 % s.stacks / 4

/-! ### The values that apply (R235) -/

/-- The last epoch of a region (R228). -/
def lastEpoch : DWord := BitVec.allOnes 64

/-- The epoch that a pass gives a region (R236): a region of the last epoch keeps it. -/
def nextEpoch (e : DWord) : DWord := if e = lastEpoch then e else e + 1

/-- The pass that covers a frame of a partition and has not completed it (R234, R235). -/
def State.passOf (s : State) (n f : Nat) : Option Pass :=
  ((List.range 16).filterMap s.sweep.slots.get).find? fun p =>
    decide (p.part.val = n) && decide (p.first ≤ f) && decide (f ≤ p.last) && decide (f ∉ p.skip) &&
    (List.range s.mdPerPart).any fun d => decide (p.bm.get d < (f + 1) * pageBytes)

/-- The pass that has already rewritten a line and not yet completed its region (R235). -/
def State.passNew (s : State) (n pa : Nat) : Option Pass :=
  (s.passOf n (pa / pageBytes)).filter fun p => decide (pa < p.bm.get (s.dieOf pa))

/-- A line is already rewritten by the pass over its frame: the new values apply (R235). -/
def State.lineNew (s : State) (n pa : Nat) : Bool := (s.passNew n pa).isSome

/-- The write count that applies to a line (R235). -/
def State.rwcOf (s : State) (n pa : Nat) : Nat :=
  let r := (s.part n).prot.regions.get (pa / pageBytes)
  if s.lineNew n pa then r.rwcNew.get (s.dieOf pa) else r.rwc.get (s.dieOf pa)

/-- The epoch that applies to a line (R235). -/
def State.epochOf (s : State) (n pa : Nat) : DWord :=
  let r := (s.part n).prot.regions.get (pa / pageBytes)
  if s.lineNew n pa then nextEpoch r.epoch else r.epoch

/-- The memory generation of the key generation that applies to a line (R235, R374). -/
def State.mgOf (s : State) (n pa : Nat) : Nat :=
  let p := (s.part n).prot
  let r := p.regions.get (pa / pageBytes)
  let kgen := match s.passNew n pa with | some q => if q.kind = .key then !p.kgen else r.kgen | none => r.kgen
  if kgen = p.kgen then p.mgen else p.mgen + 1

/-! ### The protections (R222) -/

/-- The 96 bytes of the memory keys of a generation (Table 16.3). -/
def memKeys (s : State) (n mg : Nat) : List Byte :=
  leBytes 96 (Config.shake256 (ascii "ZH9 MEM" ++ keyBytes (slotKey s (slotJob n)) ++ keyBytes (slotKey s (slotPk n)) ++ leBytes 4 mg) 96)

/-- The tweak of a line: λ in bits 63:0 and EPOCH in bits 127:64. -/
def lineTweak (line : Nat) (epoch : DWord) : BitVec 128 := epoch ++ BitVec.ofNat 64 line

/-- The permutation that encrypts a line of a partition under the values that apply to it. -/
def lineCipher (s : State) (n line : Nat) : Equiv.Perm (BitVec 1024) :=
  let k := memKeys s n (s.mgOf n (128 * line))
  Config.xts (BitVec.ofNat 256 (leAt k 0 32)) (BitVec.ofNat 256 (leAt k 32 32)) (lineTweak line (s.epochOf n (128 * line)))

/-- TAG of a line: KMAC256 over the cipher text, λ, EPOCH and LCNT. -/
def lineTag (s : State) (n line : Nat) (ct : BitVec 1024) (lcnt : BitVec 48) : DWord :=
  BitVec.ofNat 64 (Config.kmac256 ((memKeys s n (s.mgOf n (128 * line))).drop 64)
    (leBytes 128 ct.toNat ++ leBytes 8 line ++ leBytes 8 (s.epochOf n (128 * line)).toNat ++ leBytes 6 lcnt.toNat) 64 (ascii "ZH9 HBM LINE"))

/-- CRC of a line: over λ, the cipher text, TAG and LCNT. -/
def lineCrc (line : Nat) (ct : BitVec 1024) (tag : DWord) (lcnt : BitVec 48) : HWord :=
  crc16 (leBytes 8 line ++ leBytes 128 ct.toNat ++ leBytes 8 tag.toNat ++ leBytes 6 lcnt.toNat)

/-- A line as the device stores it: its plain bytes under the values that apply, with a counter. -/
def sealLine (s : State) (n line : Nat) (plain : List Byte) (lcnt : Nat) : StoredLine :=
  let ct := lineCipher s n line (BitVec.ofNat 1024 (leNat plain))
  let c := BitVec.ofNat 48 lcnt
  let tag := lineTag s n line ct c
  { ct := ct, tag := tag, crc := lineCrc line ct tag c, lcnt := c }

/-- The plain bytes of a stored line under the values that apply. -/
def openLine (s : State) (n line : Nat) (st : StoredLine) : List Byte := leBytes 128 ((lineCipher s n line).symm st.ct).toNat

/-- The classification of a stored line (Table 10.3): none is good. -/
def classify (s : State) (n line : Nat) (st : StoredLine) : Option LineBad :=
  if st.crc ≠ lineCrc line st.ct st.tag st.lcnt then some .crc
  else if s.rwcOf n (128 * line) < st.lcnt.toNat then some .counter
  else if st.tag ≠ lineTag s n line st.ct st.lcnt then some .tag
  else none

/-! ### The translation tables in HBM (R202) -/

/-- A directory entry (Table 9.2). -/
def dirWord (f slot : Nat) : DWord := BitVec.ofNat 64 (2 ^ 63 + f % 2 ^ 19 * 2 ^ 32 + slot % 16 * 2 ^ 13)

/-- A page entry with V = 1 (Table 9.3). -/
def pageWord (e : Page) : DWord :=
  let (b, x) : Bool × Nat := match e.loc with | .frame f => (false, f % 2 ^ 19) | .banked k => (true, k % 2 ^ 24)
  BitVec.ofNat 64 (2 ^ 63 + 2 ^ 62 * b2n e.w + 2 ^ 61 * b2n b + 2 ^ 60 * b2n e.pin + x * 2 ^ 32 + e.mobj.toNat)

/-- The leaf table that a directory entry names: none where DV is 0, or a bit marked zero is set (R203). -/
def dirOf (w : DWord) : Option (Nat × Nat) :=
  if bitAt w 63 && decide (field w 62 51 = 0) && decide (field w 31 17 = 0) && decide (field w 12 0 = 0) then
    some (field w 50 32, field w 16 13) else none

/-- The page that an entry maps: none where V is 0, or a bit marked zero is set (R203). -/
def pageOf (w : DWord) : Option Page :=
  if bitAt w 63 && decide (field w 59 56 = 0) && (bitAt w 61 || decide (field w 55 51 = 0)) then
    some { w := bitAt w 62, pin := bitAt w 60, loc := if bitAt w 61 then .banked (field w 55 32) else .frame (field w 50 32)
           mobj := w.setWidth 32, busy := .idle }
  else none

/-- Bytes of the directory and of a leaf table (R202). -/
def dirBytes : Nat := 65536
def leafBytes : Nat := 131072

/-- The partition has its directory: some leaf table is present. -/
def PartMem.hasDir (m : PartMem) : Bool := !m.leaf.items.isEmpty

/-- The physical address of a directory entry: the directory starts at byte 0 of frame MEM_PT_DIR. -/
def PartMem.dirAt (m : PartMem) (i : Nat) : Nat := m.ptDir.toNat * pageBytes + 8 * i

/-- The physical address of a page's entry, where its leaf table is present. -/
def PartMem.leafAt (m : PartMem) (page : Nat) : Option Nat :=
  (m.leaf.get (page / 16384)).map fun (f, slot) => f * pageBytes + slot * leafBytes + 8 * (page % 16384)

/-- The word of the tables at a physical address, where one lies there: the device alone writes them (R203). -/
def PartMem.tableWord (m : PartMem) (pa : Nat) : Option DWord :=
  if m.hasDir && decide (m.dirAt 0 ≤ pa) && decide (pa < m.dirAt 0 + dirBytes) then
    some (match m.leaf.get ((pa - m.dirAt 0) / 8) with | some (f, slot) => dirWord f slot | none => 0)
  else m.leaf.items.findSome? fun e => e.2.bind fun (f, slot) =>
    let base := f * pageBytes + slot * leafBytes
    if base ≤ pa ∧ pa < base + leafBytes then
      some (match m.pages.get (16384 * e.1 + (pa - base) / 8) with | some q => pageWord q | none => 0)
    else none

/-- The plain bytes of a line as the device stored it last: the tables', or the contents. -/
def Part.lineBytes (p : Part) (line : Nat) : List Byte :=
  (List.range 16).flatMap fun i => match p.mem.tableWord (128 * line + 8 * i) with
    | some w => leBytes 8 w.toNat
    | none => p.mem.hbm.read (128 * line + 8 * i) 8

/-! ### What HBM holds -/

/-- What something outside has put in place of a line, if anything (R240). -/
def State.extLine (s : State) (n line : Nat) : Option StoredLine :=
  ((s.part n).prot.ext.find? fun f => decide (f.line = line)).map (·.stored)

/-- The line as HBM holds it: what something outside has put there, else what the device stored last. -/
def State.storedLine (s : State) (n line : Nat) : StoredLine :=
  match s.extLine n line with
  | some st => st
  | none => sealLine s n line ((s.part n).lineBytes line) ((s.part n).prot.lcnt.get line)

/-- The class of a line on a read, none where it is good (Table 10.3). A line that nothing outside has changed is good: its CRC and TAG are
those that the device computed, and its LCNT lies below the write count (R224). -/
def State.badOf (s : State) (n line : Nat) : Option LineBad := (s.extLine n line).bind (classify s n line)

/-- What the partition reads of its HBM: the plain bytes of every line, those that something outside has changed among them. A replay within
one EPOCH and KGEN reads as the earlier contents (R241); a line whose tag or counter fails reads as what it decrypts to (R232). -/
def State.plain (s : State) (n : Nat) : Memory :=
  (s.part n).prot.ext.foldr (fun f m => m.write (128 * f.line) (openLine s n f.line f.stored)) (s.part n).mem.hbm

/-- The lines that bytes `pa` to `pa + len - 1` meet, ascending. -/
def linesOf (pa len : Nat) : List Nat :=
  if len = 0 then [] else (List.range ((pa + len - 1) / 128 - pa / 128 + 1)).map (pa / 128 + ·)

/-- The lines among those of an extent that something outside has changed, ascending. -/
def State.changedIn (s : State) (n pa len : Nat) : List Nat :=
  ((s.part n).prot.ext.map (·.line)).filter (fun l => decide (l ∈ linesOf pa len)) |>.dedup |>.insertionSort (· ≤ ·)

/-- An outside change to lines (R240): it stands until the line is stored whole. -/
def strikeLines (n : Nat) (flips : List LineFlip) (s : State) : State :=
  flips.foldl (fun s f => s.modPart n fun p => { p with prot := { p.prot with
    ext := f :: p.prot.ext.filter fun g => decide (g.line ≠ f.line) } }) s

/-- A good line is taken as it is read, so that a part of it can be merged or it can be written again (R225, R236). -/
def takeLine (n line : Nat) (s : State) : State :=
  match s.extLine n line with
  | none => s
  | some st => s.modPart n fun p => { p with
      mem := { p.mem with hbm := p.mem.hbm.write (128 * line) (openLine s n line st) }
      prot := { p.prot with ext := p.prot.ext.filter fun g => decide (g.line ≠ line) } }

/-- A good line of the tables that something outside has put in place, an earlier one of the same EPOCH and KGEN, is what the tables hold now
(R241). -/
def takeTable (n line : Nat) (s : State) : State :=
  match s.extLine n line with
  | none => s
  | some st =>
    let bs := openLine s n line st
    (List.range 16).foldl (fun s i => s.modPart n fun p =>
      let m := p.mem
      let pa := 128 * line + 8 * i
      let w : DWord := BitVec.ofNat 64 (leAt bs (8 * i) 8)
      if m.hasDir && decide (m.dirAt 0 ≤ pa) && decide (pa < m.dirAt 0 + dirBytes) then
        { p with mem := { m with leaf := m.leaf.set ((pa - m.dirAt 0) / 8) (dirOf w) } }
      else match m.leaf.items.find? fun e => match e.2 with
          | some (f, slot) => decide (f * pageBytes + slot * leafBytes ≤ pa) && decide (pa < f * pageBytes + (slot + 1) * leafBytes)
          | none => false with
        | some (d, some (f, slot)) => { p with mem := { m with pages := m.pages.set (16384 * d + (pa - f * pageBytes - slot * leafBytes) / 8) (pageOf w) } }
        | _ => p) (s.modPart n fun p => { p with prot := { p.prot with ext := p.prot.ext.filter fun g => decide (g.line ≠ line) } })

end Sys2Proof.Machine
end

