-- ==== Sys2Proof/Machine/Threads.lean ====
section
/-! DEFINITION. Thread states: returning to RUN, pausing and releasing (R57, R59, R397), waking a waiter, counting into a tally
(R76), retirement requests (R80), and starting a step abort (R463, R467). -/

namespace Sys2Proof.Machine

/-- The state a thread takes when it would return to RUN: HALT where the port has asked for it, PAUSED where its class is held,
RUN otherwise (R57, R59, R397, R463). -/
def runState (s : State) (l t : Nat) (haltPend : Bool) : TState :=
  let n := s.partOf l
  if haltPend then .halt
  else if s.isBe l t then
    (if (s.ember l).lcQuiet && !(s.part n).pauseBe then .run else .paused)
  else if (s.part n).pauseLc then .paused else .run

/-- A thread returns to RUN, or to HALT or PAUSED in its place. -/
def toRun (l t : Nat) (s : State) : State :=
  let st := runState s l t (s.thread l t).haltPend
  s.modThread l t fun h => { h with st := st, haltPend := h.haltPend && decide (st ≠ .halt) }

/-- A waiter's condition is met: it leaves WAIT; paused or halted, it no longer waits. -/
def wake (l t : Nat) (s : State) : State :=
  let was := (s.thread l t).st
  let s := s.modThread l t fun h => { h with cond := none }
  if was = .wait then toRun l t s else s

/-- Add to tally `q` of a thread, saturating with EMB_TALLY_OVF, and release a thread that waits for its value (R76, R98).
A thread in LOST counts nothing (R109). -/
def tallyAdd (l t q k : Nat) (s : State) : State :=
  let h := s.thread l t
  if h.st = .lost then s
  else
    let old := h.q.get q
    let new := satAdd old k
    let s := s.modThread l t fun h => { h with q := h.q.set q new }
    let s := if satOvf old k then s.modEmber l fun m => { m with tallyOvf := withBit m.tallyOvf t true } else s
    match h.cond with
    | some (.tally q' need) => if q' = q ∧ need ≤ new.toNat then wake l t s else s
    | _ => s

/-- Pause a thread: one that could run, waits or is parked enters PAUSED (R59). -/
def Thread.pause (h : Thread) : Thread :=
  match h.st with
  | .run => { h with st := .paused }
  | .wait => { h with st := .paused }
  | .park => { h with st := .paused, parkPage := none }
  | _ => h

/-- A launch moves an LC thread out of IDLE: the BE threads pause, a BE tile instruction and BE mover descriptors are
suspended at their next boundary by events of their own (R59). -/
def Ember.pauseBe (m : Ember) : Ember := m.mapThreads fun t h => if m.isBe t then h.pause else h

/-- The BE threads of the embers of a partition on which an LC thread holds them up enter PAUSED (R59). -/
def pauseBusy (n : Nat) (s : State) : State :=
  (endParks n (fun l t => s.isBe l t && !(s.ember l).lcQuiet) s).mapEmbers n fun m => if m.lcQuiet then m else m.pauseBe

/-- BE work of an ember may run: every LC thread is IDLE or LOST, and nothing holds the partition's BE threads (R59, R436). -/
def State.beFree (s : State) (l : Nat) : Bool := (s.ember l).lcQuiet && !(s.part (s.partOf l)).pauseBe

/-- Release the BE threads of an ember where nothing holds them. -/
def releaseBe (l : Nat) (s : State) : State :=
  if (s.part (s.partOf l)).pauseBe then s else s.modEmber l Ember.releaseBe

/-- Pause the threads of a class on every ember of a partition. -/
def pauseClass (n : Nat) (be : Bool) (s : State) : State :=
  (endParks n (fun l t => s.isBe l t == be) s).mapEmbers n fun m => m.mapThreads fun t h => if m.isBe t = be then h.pause else h

/-- Release the LC threads of a partition that were paused. -/
def releaseLc (n : Nat) (s : State) : State :=
  (s.modPart n fun p => { p with pauseLc := false }).mapEmbers n fun m =>
    m.mapThreads fun t h => if m.isBe t then h else h.unpause

/-- A retirement raised in service sets EMB_RETIRE_PEND; the first cause stands (R80). -/
def Ember.askRetire (c : RetireCause) (m : Ember) : Ember :=
  if m.retire.isSome then m else { m with retire := some c }

/-- Partition `n` is loaded: it holds a context. -/
def Part.hasCtx (p : Part) : Bool := p.ctxs.items.any fun e => e.2.obj.isSome

/-- The partition is loaded with an LC job: it sends heartbeats (R270, R420). -/
def Part.hasLc (p : Part) : Bool := p.ctxs.items.any fun e => match e.2.obj with
  | some x => !x.launch.be && decide (x.st ≠ .destroying)
  | none => false

/-- A partition starts a step abort: it pauses its LC threads and sends an ABORT request to the job stoker (R463); the fourth
in a row against one target makes the retirement of the ember that raised it pending (R467). -/
def startAbort (n cause l : Nat) (exc : Option ExcRec) (s : State) : State :=
  let p := s.part n
  if p.abort.request.isSome then s
  else
    let k := p.abort.count + 1
    let s := s.modPart n fun p => { p with
      pauseLc := true
      abort := { request := some (cause, p.step.count), count := k, ember := l, exc := exc } }
    let s := pauseClass n false s
    let s := if decide (4 ≤ k) && (decide (cause = 2) || decide (cause = 3)) then
        s.modEmber l (Ember.askRetire (if cause = 2 then .parity else .sentinel)) else s
    sendFrame n (some p.jobStoker) .ctrl (.abort false cause p.epoch p.step.count (s.logicalPos n)) s

/-! ### Scratch and its parity -/

/-- Environment upsets flip the stored parity of double-words: they mismatch from then on, until written whole (R78). -/
def Ember.strike (ds : List Nat) (m : Ember) : Ember :=
  { m with badParity := ds.foldl (fun b d => if d < 49152 ∧ d ∉ b then d :: b else b) m.badParity }

/-- The mismatching double-words met by a read of `n` bytes from `off` (R78), lowest first. -/
def Ember.mismatches (m : Ember) (off n : Nat) : List Nat :=
  if n = 0 then []
  else (List.range ((off + n - 1) / 8 - off / 8 + 1)).filterMap fun i =>
    if off / 8 + i ∈ m.badParity then some (off / 8 + i) else none

/-- Write bytes to scratch: every double-word written has its parity written with it (R78). -/
def Ember.store (off : Nat) (bs : List Byte) (m : Ember) : Ember :=
  { m with
    scratch := m.scratch.write off bs
    badParity := m.badParity.filter fun d => decide (off + bs.length ≤ 8 * d) || decide (8 * d + 8 ≤ off) }

/-- Store bytes to the scratch of an ember. -/
def storeScratch (l off : Nat) (bs : List Byte) (s : State) : State := s.modEmber l (Ember.store off bs)

/-- The bank and the word within it of a double-word (R60). -/
def bankOf (d : Nat) : Nat := (d / 8 % 16 + d % 8) % 16
def wordOf (d : Nat) : Nat := 8 * (d / 128) + d % 8

/-- The mismatches of one read are counted and the lowest is recorded; the limit makes a retirement pending (R78, R80). -/
def Ember.countParity (ds : List Nat) (m : Ember) : Ember :=
  match ds with
  | [] => m
  | d :: _ =>
    let c := satAdd m.parityCnt ds.length
    let m := { m with
      parityCnt := c, parityOvf := m.parityOvf || satOvf m.parityCnt ds.length
      parityValid := true
      parityBank := BitVec.ofNat 4 (bankOf d)
      parityWord := BitVec.ofNat 12 (wordOf d) }
    if m.parityLimit ≠ 0 ∧ m.parityLimit.toNat ≤ c.toNat then m.askRetire .parity else m

/-- A reader meets mismatches: they are counted, the operation is discarded, and an LC reader starts a step abort while a BE
reader's context is lost (R78). -/
def parityFault (l t : Nat) (pc : HWord) (ds : List Nat) (s : State) : State :=
  let n := s.partOf l
  let be := s.isBe l t
  let s := s.modEmber l (Ember.countParity ds)
  let rec_ := excRec s l t excParity 0 pc (BitVec.ofNat 64 (8 * ds.headD 0))
  if be then loseContext n true (some rec_) 0 s
  else
    let s := s.modPart n fun p => match p.runLc with
      | some c => p.modCtx c fun x => { x with exc := x.exc.or (some rec_) }
      | none => p
    startAbort n 2 l (some rec_) s

end Sys2Proof.Machine
end

