-- ==== Sys2Proof/Machine/Warn.lean ====
section
/-! DEFINITION. The stokers of a group (R271), checkpoint requests (R334) and the health monitor's warnings (R457). -/

namespace Sys2Proof.Machine

/-- The partition's member of the group: its logical one. -/
def State.memberOf (s : State) (n : Nat) : Nat := (s.logicalPos n).member

/-- A position of the partition's hearth group by logical member. -/
def State.groupPos (s : State) (n m : Nat) : Pos := { s.logicalPos n with member := m }

/-- The holder of logical member `m` is sending heartbeats and has not withdrawn (R271): the partition itself while it has not,
a peer while it has been heard and is not lost. -/
def memberHealthy (s : State) (n m : Nat) : Bool :=
  let p := s.part n
  if m = s.memberOf n then decide (p.rl.state ≠ .withdrawn)
  else (p.peers.get m).alive && !(p.peers.get m).lost

/-- The hearth stoker: the lowest-numbered healthy logical member (R271). -/
def hearthStoker (s : State) (n : Nat) : Pos :=
  s.groupPos n (((List.range 8).find? fun m => memberHealthy s n m).getD (s.memberOf n))

/-- The partition is its group's hearth stoker. -/
def isHearthStoker (s : State) (n : Nat) : Bool := decide (hearthStoker s n = s.logicalPos n)
/-- The partition is its job's stoker. -/
def isJobStoker (s : State) (n : Nat) : Bool := decide ((s.part n).jobStoker = s.logicalPos n)

/-- The LC context of a partition that is loaded with a job, with or without a span. -/
def lcJob (s : State) (n : Nat) : Option Context :=
  match (s.part n).runCtx false with
  | some c => if c.st = .run then some c else none
  | none => none

/-- The partition's LC context has a span (R294). -/
def hasSpan (s : State) (n : Nat) : Bool := match lcJob s n with | some c => decide (c.launch.wpUnits ≠ 0) | none => false

/-- The reasons of Table 14.3 that a mask of CK_WARN lets through: bits 8 to 3 of the reasons. -/
def warnMask (warn : Nat) : Nat := 7 + 8 * (warn % 64)

/-- Whether the holdoff of the last checkpoint still runs: fewer than CK_HOLDOFF parity boundaries have passed (R334). -/
def holdoffRuns (s : State) (n : Nat) : Bool :=
  let p := s.part n
  decide (p.ck.lastStep ≠ 0) && decide (p.step.count.toNat < p.ck.lastStep.toNat + p.ck.holdoff * max 1 p.rl.interval)

/-- A checkpoint is requested for `reasons` (R334): kinds clear in CK_WARN request nothing, warnings wait for the holdoff,
POWER and HOST do not, and a partition without a span requests nothing. The request goes to the hearth stoker. -/
def ckAsk (n reasons : Nat) (s : State) : State :=
  if !hasSpan s n then s
  else
    let r := Nat.land reasons (warnMask (s.part n).ck.warn)
    let warns := Nat.land r 0xF8
    let wait := if holdoffRuns s n then warns else 0
    let now := r - wait
    let s := if wait = 0 then s else s.modPart n fun p => { p with ck := { p.ck with waiting := Nat.lor p.ck.waiting wait } }
    if now = 0 then s else sendFrame n (some (hearthStoker s n)) .ctrl (.ckrepRequest now) s

/-- The partitions that are loaded with a job. -/
def loadedParts (s : State) : List Nat := (List.range s.nParts).filter fun n => (lcJob s n).isSome

/-- A warning of kind `k` (bit of HLT_WARNED) goes to the named partitions and requests a checkpoint there (R457). -/
def healthWarn (k : Nat) (ns : List Nat) (s : State) : State :=
  let s := { s with health := { s.health with warned := withBit s.health.warned k true } }
  ns.foldl (fun s n =>
    let s := s.modPart n fun p => { p with pwarn := withBit p.pwarn k true }
    ckAsk n (2 ^ (3 + k)) s) s

/-- An HBM fault of a partition enters the window's count (Table 20.4). -/
def healthHbm (n : Nat) (s : State) : State :=
  let c := s.health.winHbm.get n + 1
  let s := { s with health := { s.health with winHbm := s.health.winHbm.set n c } }
  if s.health.curHbm ≤ c ∧ !(s.health.raisedHbm.get n) then
    healthWarn 0 ((loadedParts s).filter fun m => decide (m = n))
      { s with health := { s.health with raisedHbm := s.health.raisedHbm.set n true } }
  else s

/-- A fault-sentinel miss enters the window's count. -/
def healthSentinel (s : State) : State :=
  let c := s.health.winSnt + 1
  let s := { s with health := { s.health with winSnt := c } }
  if s.health.curSnt ≤ c ∧ !s.health.raisedSnt then
    healthWarn 1 (loadedParts s) { s with health := { s.health with raisedSnt := true } }
  else s

/-- A retry event of flue `f` enters the window's count. -/
def healthFlue (f : Nat) (s : State) : State :=
  let c := s.health.winFlue.get f + 1
  let s := { s with health := { s.health with winFlue := s.health.winFlue.set f c } }
  if s.health.curFlue ≤ c ∧ !s.health.raisedFlue then
    healthWarn 2 (loadedParts s) { s with health := { s.health with raisedFlue := true } }
  else s

/-- The free spares of a grate: eight, less those in use or failed (R80, EMB_GRATE_SPARES). -/
def grateSpares (s : State) (g : Nat) : Nat := 8 - (s.power.usedSpares.get g).length

/-- The SPARES condition: a grate's spares at or below the threshold, or a flue direction on its spare lane, at width 4 or
DOWN (Table 20.4). -/
def sparesLow (s : State) : Bool :=
  s.power.usedSpares.anyEntry (fun u => decide (8 - u.length ≤ s.health.curSpare)) ||
  (List.range 32).any fun f =>
    let u := s.flues.get f
    let dirBad (d : FlueDir) : Bool := d.spare.isSome || decide (d.laneWidth = 4)
    decide (u.state = .down) || dirBad u.tx || dirBad u.rx

/-- SPARES is raised on each transition into its condition (R457). -/
def healthSpares (s : State) : State :=
  let low := sparesLow s
  let was := s.health.sparesWas
  let s := { s with health := { s.health with sparesWas := low } }
  if low && !was then healthWarn 3 (loadedParts s) s else s

end Sys2Proof.Machine
end

