-- ==== Sys2Proof/Machine/Operands.lean ====
section
/-! DEFINITION. Operand forms of Ilmin instructions (R84 to R86), the rules of readiness (R89, R114), and the one way an
instruction issues: readiness, the checks that hold whatever the guard, the guard, the effect, and the next program counter. -/

namespace Sys2Proof.Machine

/-- An instruction's word: MAJOR in bits 63:58, MINOR in bits 57:52, the fields below (R84). -/
def insnWord (major minor : Nat) (f : BitVec 52) : DWord :=
  BitVec.ofNat 64 ((major * 64 + minor) * 2 ^ 52 + f.toNat)

/-- GN. -/
def fGn (f : BitVec 52) : Bool := f.getLsbD 51
/-- GP. -/
def fGp (f : BitVec 52) : Nat := field f 50 48
/-- RD. -/
def fRd (f : BitVec 52) : Nat := field f 47 43
/-- RA. -/
def fRa (f : BitVec 52) : Nat := field f 42 38
/-- RB. -/
def fRb (f : BitVec 52) : Nat := field f 37 33
/-- The bits format RR marks zero. -/
def fLow (f : BitVec 52) : Nat := field f 32 0
/-- IMM, sign-extended to 64 bits (R84). -/
def fImm (f : BitVec 52) : DWord := (f.extractLsb' 0 38).signExtend 64
/-- IMM as its 38 bits. -/
def fImmU (f : BitVec 52) : Nat := field f 37 0
/-- OFF, in instructions (R84). -/
def fOff (f : BitVec 52) : Int := (f.extractLsb' 0 48).toInt

/-- The thread at a site. -/
def thrAt (s : State) (x : Site) : Thread := s.thread x.e.val x.t.val
/-- Change the thread at a site. -/
def modAt (x : Site) (g : Thread → Thread) (s : State) : State := s.modThread x.e.val x.t.val g
/-- The partition of a site. -/
def partAt (s : State) (x : Site) : Nat := s.partOf x.e.val
/-- The class of the thread at a site: true for BE. -/
def beAt (s : State) (x : Site) : Bool := s.isBe x.e.val x.t.val

/-- A scalar register. -/
def Thread.sReg (h : Thread) (i : Nat) : DWord := h.s.get i
/-- Write a scalar register. -/
def Thread.setS (i : Nat) (v : DWord) (h : Thread) : Thread := { h with s := h.s.set i v }
/-- A predicate: p0 reads as 1 always (R85). -/
def Thread.pReg (h : Thread) (i : Nat) : Bool := decide (i = 0) || h.p.getLsbD i
/-- Write a predicate: writes to p0 are discarded (R85). -/
def Thread.setP (i : Nat) (b : Bool) (h : Thread) : Thread := if i = 0 then h else { h with p := withBit h.p i b }
/-- A vector register. -/
def Thread.vReg (h : Thread) (i : Nat) : BitVec 1024 := h.v.get i
/-- Write a vector register. -/
def Thread.setV (i : Nat) (v : BitVec 1024) (h : Thread) : Thread := { h with v := h.v.set i v }
/-- A descriptor by its field: 0-15 for td0-td15, 16-23 for md0-md7 (R84). -/
def Thread.desc (h : Thread) (i : Nat) : Desc := if i < 16 then h.td.get i else h.md.get (i - 16)
/-- Write a descriptor. -/
def Thread.setDesc (i : Nat) (d : Desc) (h : Thread) : Thread :=
  if i < 16 then { h with td := h.td.set i d } else { h with md := h.md.set (i - 16) d }
/-- The next instruction. -/
def Thread.next (h : Thread) : Thread := { h with pc := h.pc + 1 }

/-- The scalar registers that await a result of an LDV, ALLOC or FREE (R89). -/
def Thread.busyS (h : Thread) (i : Nat) : Bool := h.loads.any (fun l => l.rd = i) || h.heapReqs.any (fun r => r.rd = i)
/-- The predicates that await a result of an ALLOC or FREE (R89). -/
def Thread.busyP (h : Thread) (i : Nat) : Bool := decide (i ≠ 0) && h.heapReqs.any (fun r => r.pred = i)
/-- The outstanding LDV, STV, ALLOC and FREE requests of a thread (Table 4.3). -/
def Thread.requests (h : Thread) : Nat := h.loads.length + h.stores + h.heapReqs.length

/-- A thread's fetch line holds a word at its program counter (R88). -/
def Thread.holds (h : Thread) (w : DWord) : Bool :=
  match h.line with
  | some l => decide (l.base ≤ h.pc.toNat) && (l.words[h.pc.toNat - l.base]? == some w)
  | none => false

/-- The instruction of a thread is ready to issue (Table 4.3): the module serves, the partition is not halted (R230), the ember's grate is awake (R43), the thread
is in RUN, its fetch line holds the word at its PC, and no register the instruction names awaits a result. -/
def ready (s : State) (x : Site) (w : DWord) (ss ps : List Nat) : Bool :=
  let h := thrAt s x
  s.inService && !(s.part (partAt s x)).prot.halted && !(s.power.idleGrate.get (x.e.val / 64)) && decide (h.st = .run) && h.holds w &&
  ss.all (fun i => !h.busyS i) && ps.all (fun i => !h.busyP i)

/-! ### Room -/

/-- The queue has room for another tile instruction of the class (R69). -/
def tileRoom (x : Site) (s : State) : Bool :=
  let q := (s.ember x.e.val).tileQ
  decide (q.length < 16) && (!beAt s x || decide ((q.filter (·.be)).length < 8))

/-- Every earlier tile instruction of the thread has completed (Table 5.2). -/
def tileOrder (x : Site) (s : State) : Bool := (s.ember x.e.val).tileQ.all fun e => decide (e.t ≠ x.t.val)

/-- A mover's queue has room (R74). -/
def mvRoom (x : Site) (mv : Nat) (s : State) : Bool := decide (((s.ember x.e.val).movers.get mv).length < 16)

/-- The ember's flue queue has room (R114). -/
def flueRoom (x : Site) (s : State) : Bool := decide ((s.ember x.e.val).flueQ.length < 8)

/-- Fewer than eight requests of the thread are outstanding (Table 4.3). -/
def requestRoom (x : Site) (s : State) : Bool := decide ((thrAt s x).requests < 8)

/-- Every earlier STV of the thread has been accepted (R97). -/
def fenceRoom (x : Site) (s : State) : Bool := decide ((thrAt s x).stores = 0)

/-- A partition barrier that is full has not released yet: a further arrival waits in RUN (R99). -/
def barpRoom (x : Site) (f : BitVec 52) (s : State) : Bool :=
  let b := (s.part (partAt s x)).pbars.get (64 * b2n (beAt s x) + fImmU f % 64)
  b.arrived.isEmpty || decide (b.arrived.length < b.count)

/-! ### Which thread issues -/

/-- The scalar registers and predicates that an instruction names, beside its guard (Tables 4.5, 5.1; R89). -/
def wordRegs (major minor : Nat) (f : BitVec 52) : List Nat × List Nat :=
  let (d, a, b) := (fRd f, fRa f, fRb f)
  match major with
  | 0x00 => (if minor = 3 then [a] else if minor = 4 then [d] else [], [])
  | 0x01 => (if minor ≤ 0x0E then [d, a, b] else [], [])
  | 0x02 => (if minor ≤ 0x0C then [d, a] else if minor = 0x10 ∨ minor = 0x11 then [d] else [], [])
  | 0x03 => (if minor ≤ 6 then [d, a, b] else [], [])
  | 0x04 => if minor < 6 then ([a, b], [d]) else if 0x20 ≤ minor ∧ minor < 0x26 then ([a], [d]) else ([], [])
  | 0x05 => if minor < 4 then ([], [d, a, b]) else if minor = 4 then ([a], [d]) else if minor = 5 then ([d], List.range 8) else ([], [])
  | 0x06 => (match minor with | 1 => [31] | 2 => [a] | 3 => [d, a] | _ => [], [])
  | 0x07 => (if minor < 8 then [d, a] else [], [])
  | 0x08 => (if minor < 4 then [d, a] else [], [])
  | 0x09 => (if minor < 8 then [d, a, b] else [], [])
  | 0x0A => (if minor < 12 then [d, a] else [], [])
  | 0x0B => (match minor with | 0 => [a] | 2 => [a] | 3 => [d] | 4 => [a] | _ => [], [])
  | 0x0C => (if minor < 4 then [a] else if minor = 4 then [d] else [], [])
  | 0x0D => (match minor with | 0 => [a] | 1 => [a] | 2 => [a, b] | 3 => [d, b] | _ => [], [])
  | 0x0E => (if minor = 2 then [d, a] else [], [])
  | 0x0F => if minor < 3 then ([d, a], [b % 8]) else (if minor = 3 then [d, a] else [], [])
  | 0x22 => (if minor = 8 then [d] else [], [])
  | 0x23 => (if minor = 0 then [d, a] else [], [])
  | 0x32 => (if minor < 3 ∨ (4 ≤ minor ∧ minor < 7) then [a] else [], [])
  | 0x33 => (if minor = 0 then [a] else if minor = 1 then [d, b] else [], [])
  | 0x36 => (if minor = 1 then [d, a] else if minor = 2 then [a, b] else [], [])
  | 0x38 => (if minor < 3 then [a] else [], [])
  | _ => ([], [])

/-- The further conditions of readiness of an instruction (Tables 4.3, 5.2). -/
def wordRoom (x : Site) (major minor : Nat) (f : BitVec 52) (s : State) : Bool :=
  match major with
  | 0x0A => if minor = 0x10 then fenceRoom x s else if minor < 12 then requestRoom x s else true
  | 0x0C => if minor = 1 then barpRoom x f s else if 2 ≤ minor ∧ minor < 5 then requestRoom x s else true
  | 0x0E => if minor < 2 then mvRoom x minor s else true
  | 0x0F => if minor < 4 then requestRoom x s else true
  | 0x20 => tileRoom x s
  | 0x21 => tileRoom x s
  | 0x22 => tileOrder x s
  | 0x23 => tileOrder x s
  | 0x38 => if minor < 2 then mvRoom x minor s else true
  | 0x39 => flueRoom x s
  | 0x3A => flueRoom x s
  | _ => true

/-- The next instruction of a thread is ready (R58, R89). -/
def wouldIssue (s : State) (x : Site) : Bool :=
  let h := thrAt s x
  match h.line.bind fun l => if l.base ≤ h.pc.toNat then l.words[h.pc.toNat - l.base]? else none with
  | none => false
  | some w =>
    let f : BitVec 52 := w.setWidth 52
    let (major, minor) := (field w 63 58, field w 57 52)
    let (ss, ps) := wordRegs major minor f
    ready s x w ss (fGp f :: ps) && wordRoom x major minor f s

/-- The issue stage chooses this thread (R58): of the threads whose next instruction is ready it is the first in the cyclic order that starts
with the thread after the one that issued last. -/
def inTurn (s : State) (x : Site) : Bool :=
  let last := (s.ember x.e.val).lastIssued
  (List.range ((x.t.val + 15 - last % 8) % 8)).all fun i => !wouldIssue s { x with t := Fin.ofNat 8 (last + 1 + i) }

/-- A breakpoint of the ember names the thread and its PC (R397). -/
def atBreakpoint (s : State) (x : Site) : Bool :=
  let m := s.ember x.e.val
  let h := m.thr.get x.t.val
  !h.stepOne && (List.range 4).any fun i =>
    let b := m.bkpts.get i
    b.mask.getLsbD x.t.val && decide (b.pc = h.pc)

/-- What an instruction's effect comes to. -/
inductive Eff where
  /-- done: the program counter advances. -/
  | ok (s : State)
  /-- done, with the program counter set by the instruction, or kept. -/
  | stay (s : State)
  /-- not issued yet: it has only started what it waits for. -/
  | wait (s : State)
  /-- a precise exception: no effect (R109). -/
  | exc (code : Nat) (addr : DWord)

/-- The thread is the one of its ember that issued last (R58). -/
def markIssued (x : Site) (s : State) : State := s.modEmber x.e.val fun m => { m with lastIssued := x.t.val }

/-- One instruction has issued: the thread is the one that issued last (R58), and a STEP of the debug port halts it again (R397). -/
def afterIssue (x : Site) (s : State) : State :=
  let s := markIssued x s
  let h := thrAt s x
  if h.stepOne then
    modAt x (fun h => if h.st = .run then { h with st := .halt, stepOne := false }
      else { h with stepOne := false, haltPend := decide (h.st = .wait) || decide (h.st = .park) || h.haltPend }) s
  else s

/-- Issue an instruction. `ss` and `ps` are the scalar registers and predicates it reads or writes, `room` its conditions of
Tables 4.3 and 5.2 beyond those of `ready`, `static` the exception raised whatever the guard (R86), `body` its effect. An
instruction that is not ready, or whose thread is not the one that the issue stage chooses, is not issued: the state is unchanged. -/
def issue (x : Site) (w : DWord) (f : BitVec 52) (ss ps : List Nat) (room : State → Bool)
    (static : Option Nat) (body : State → Eff) (s : State) : State :=
  if !(ready s x w ss (fGp f :: ps)) || !(room s) || !(inTurn s x) then s
  else if atBreakpoint s x then modAt x (fun h => { h with st := .halt }) s
  else
    match static with
    | some code => raise x code 0 s
    | none =>
      if (thrAt s x).pReg (fGp f) == fGn f then afterIssue x (modAt x Thread.next s)
      else
        match body s with
        | .ok s => afterIssue x (modAt x Thread.next s)
        | .stay s => afterIssue x s
        | .wait s => s
        | .exc code addr => raise x code addr s

/-- No further readiness condition. -/
def anyRoom (_ : State) : Bool := true

/-- A check of R86: RESERVED_FIELD unless the condition holds. -/
def reserved (ok : Bool) : Option Nat := if ok then none else some excReservedField

/-- A register-form instruction that reads scalar registers RA and RB and writes RD. -/
def issueRR (major minor : Nat) (x : Site) (f : BitVec 52) (ok : Bool) (op : DWord → DWord → DWord) (s : State) : State :=
  issue x (insnWord major minor f) f [fRd f, fRa f, fRb f] [] anyRoom (reserved (ok && decide (fLow f = 0)))
    (fun s => let h := thrAt s x
      .ok (modAt x (Thread.setS (fRd f) (op (h.sReg (fRa f)) (h.sReg (fRb f)))) s)) s

/-- An immediate-form instruction that reads RA and writes RD. -/
def issueRI (major minor : Nat) (x : Site) (f : BitVec 52) (op : DWord → DWord → DWord) (s : State) : State :=
  issue x (insnWord major minor f) f [fRd f, fRa f] [] anyRoom none
    (fun s => let h := thrAt s x
      .ok (modAt x (Thread.setS (fRd f) (op (h.sReg (fRa f)) (fImm f))) s)) s

/-- An operation of MAJOR 0x01 and 0x02 in its register or immediate form (R91). -/
def issueInt (minor : Nat) (x : Site) (imm : Bool) (f : BitVec 52) (op : DWord → DWord → DWord) (s : State) : State :=
  if imm then issueRI 2 minor x f op s else issueRR 1 minor x f true op s

/-- A work of the partition has been launched into a queue. -/
def countLaunch (n : Nat) (s : State) : State := s.modPart n fun p => { p with launched := p.launched + 1 }

/-! ### Branch targets -/

/-- The program counter lies in its class's code window (R87): the instruction's eight bytes do. -/
def inWindow (s : State) (x : Site) (pc : Nat) : Bool :=
  let m := s.ember x.e.val
  match m.codeWin.get (b2n (m.isBe x.t.val)) with
  | none => false
  | some (b, k) => decide (1024 * b ≤ 8 * pc) && decide (8 * pc + 8 ≤ 1024 * (b + k))

/-- Branch to an instruction index: FETCH_BOUNDS is raised by the branch where it leaves the window (R87). Its EXC_ADDR is the fetch address of
the target, 8 times the index, which Table 4.11 does not name (DESIGN CHOICE, log 82). -/
def branchTo (x : Site) (pc : Int) (link : State → State) (s : State) : Eff :=
  if 0 ≤ pc ∧ pc < 65536 ∧ inWindow s x pc.toNat then
    .stay (modAt x (fun h => { h with pc := BitVec.ofInt 16 pc }) (link s))
  else .exc excFetchBounds (BitVec.ofInt 64 (8 * pc))

end Sys2Proof.Machine
end

