-- ==== Sys2Proof/Machine/Hbm.lean ====
section
/-! DEFINITION. HBM as the partitions see it: translation and its caches (R202 to R206), the lines and their checks (R221 to
R233), HBM faults and security alarms, withdrawal (R231, R309), and the versions of span units (R298). -/

namespace Sys2Proof.Machine

/-- Frames of a partition (Table 9.4). -/
def State.frameCount (s : State) : Nat := match s.nParts with | 1 => 366210 | 2 => 183105 | _ => 91552

/-- The stacks that serve `len` bytes from a physical address are awake (R43). -/
def stackAwake (s : State) (n pa len : Nat) : Bool :=
  (List.range (min s.stacks ((pa + len - 1) / 4096 - pa / 4096 + 1))).all fun i =>
    !(s.power.idleHbm.get (n * s.stacks + (pa / 4096 + i) % s.stacks))

/-! ### Withdrawal and alarm -/

/-- The word of a logical position in the layout of DPOS (Table 11.5). -/
def posWord (p : Pos) : Nat :=
  p.member * 2 ^ 25 + p.t0 % 32 * 2 ^ 20 + p.t1 % 32 * 2 ^ 15 + p.t2 % 32 * 2 ^ 10 + p.t3 % 32 * 2 ^ 5

/-- RL_STATE codes (Table 13.7). -/
def RlState.code : RlState → Nat
  | .off => 0 | .run => 1 | .banked => 2 | .frozen => 3 | .adopting => 4 | .rebuild => 5 | .wait => 6 | .fallback => 7
  | .withdrawn => 8

/-- A Relight event of a partition (R315): the record with its RL_STATE. -/
def relightRecord (n : Nat) (s : State) : State :=
  partRecord n { kind := 8, status := 0, detail := 0, tag := 0
                 arg := BitVec.ofNat 64 (s.part n).rl.state.code, exc := none } s

/-- A soot entry of Relight (Table 20.2): the position, a boundary step, and a reason. -/
def relightSoot (typ n : Nat) (pos : Pos) (step : DWord) (reason : Nat) (s : State) : State :=
  sootEvent typ n (leBytes 4 (posWord pos) ++ leBytes 8 step.toNat ++ leBytes 1 reason) s

/-- Nothing more of a partition goes to its job: its frames in the outbound hold, and those on the flues of which no group has gone (R309;
a frame under way goes on to its end, DESIGN CHOICE, log 107). -/
def dropUnsent (n : Nat) (s : State) : State :=
  let own (i : TxItem) : Bool := decide (i.part.val = n) && !i.started && (match i.load with
    | .frame fr => decide (fr.src = s.logicalPos n)
    | .link _ => false)
  { s with outHold := s.outHold.filter fun e => decide (e.1 ≠ n)
           flues := s.flues.map fun (u : Flue) => { u with txQ := u.txQ.filter fun i => !own i } }

/-- A partition withdraws from its job (R309): nothing further goes to the job; under R82 and R231 it tells its hearth peers first (R308). -/
def withdraw (n reason : Nat) (s : State) : State :=
  let p := s.part n
  if p.rl.state = .withdrawn then s
  else
    let s := dropUnsent n s
    let peers := (List.range 9).filter fun m => decide (m ≠ s.memberOf n)
    let s := if 2 ≤ reason then
        peers.foldl (fun s m => sendFrame n (some (s.groupPos n m)) .relight (.withdraw reason) s) s
      else s
    let s := s.modPart n fun p => { p with rl := { p.rl with state := .withdrawn } }
    relightRecord n (relightSoot 0x52 n (s.logicalPos n) p.rl.boundary reason (setFault (.withdrawn (Fin.ofNat 4 n)) s))

/-- The slot range of a partition (R322). -/
def State.slotRange (s : State) (n : Nat) : Nat × Nat := let k := 11444091 / s.nParts; (n * k, (n + 1) * k)

/-- Give a slot back: a write under way for it stops, and a MAP that has been recorded is unmapped (R327, R332). -/
def freeSlot (n slot : Nat) (s : State) : State :=
  let k := s.ks
  let mapped := (k.inForce.maps.get slot).isSome || k.pend.any fun r => match r with | .map x _ => decide (x = slot) | _ => false
  { s with ks := { k with
      writes := k.writes.filter fun w => decide (w.slot ≠ slot)
      taken := k.taken.set slot false
      pend := if mapped then k.pend ++ [.unmap n slot] else k.pend } }

/-- A page's result in the BANK_OUT command that named it. -/
def bankStatus (n page status : Nat) (s : State) : State :=
  s.modPart n fun p => { p with mem := { p.mem with bankJobs := p.mem.bankJobs.map fun j =>
    { j with pages := j.pages.map fun e => if e.1 = page ∧ e.2.isNone then (e.1, some status) else e } } }

/-- Page statuses of a bank-out (R209, R332): done, TOUCHED, refused, NOSPACE. -/
def bankOk : Nat := 0
def bankTouched : Nat := 1
def bankRefused : Nat := 2
def bankNoSpace : Nat := 3

/-- The BANK_OUT commands whose pages all have a status complete (R209): the statuses leave, and ARG holds the bytes moved. -/
def bankFinish (n : Nat) (s : State) : State :=
  let done (j : BankJob) : Bool := j.pages.all fun e => e.2.isSome
  let jobs := (s.part n).mem.bankJobs.filter done
  let s := s.modPart n fun p => { p with mem := { p.mem with bankJobs := p.mem.bankJobs.filter fun j => !done j } }
  jobs.foldl (fun s j =>
    let moved := (j.pages.filter fun e => decide (e.2 = some bankOk)).length
    completeCmd (n + 1) j.ring j.busy 0 0 (BitVec.ofNat 64 (moved * pageBytes))
      (s.emit (.bankReport (n + 1) j.busy.tag (j.pages.map fun e => (e.1, e.2.getD 0))))) s

/-- A bank-out of a partition whose write cannot be made: the page stays, with a status (R209, R332). -/
def bankFail (n slot status : Nat) (s : State) : State :=
  match (s.part n).mem.pages.items.find? fun e => (match e.2 with | some p => decide (p.busy = .bankOut slot) | none => false) with
  | some (k, some e) =>
    let s := s.modPart n fun p => { p with
      mem := { p.mem with pages := p.mem.pages.set k (some { e with busy := .idle }) }
      ck := { p.ck with nospace := p.ck.nospace || decide (status = bankNoSpace) } }
    bankFinish n (bankStatus n k status (freeSlot n slot s))
  | _ => freeSlot n slot s

/-! ### Holds (R233) -/

/-- A transfer of partition data towards the host enters the hold of the PCIe endpoint. -/
def holdOut (n : Nat) (o : Output) (cmd : Option (RingId × Busy × DWord)) (s : State) : State :=
  { s with hostHold := s.hostHold ++ [{ part := n, out := o, cmd := cmd }] }

/-- The oldest held transfer leaves, and its command completes. -/
def releaseHeld (s : State) : State :=
  match s.hostHold with
  | [] => s
  | h :: rest =>
    let s := State.emit h.out { s with hostHold := rest }
    match h.cmd with
    | some (r, b, arg) => completeCmd (h.part + 1) r b 0 0 arg s
    | none => s

/-- The transfers that the hold keeps for a partition are discarded: a command fails as ABORTED, and a BAR4 read has an error completion
(R230). -/
def dropHeld (n : Nat) (s : State) : State :=
  let gone := s.hostHold.filter fun h => decide (h.part = n)
  gone.foldl (fun s h => match h.cmd with
    | some (r, b, _) => completeCmd (n + 1) r b 0x0B 0 0 s
    | none => if s.host.inReset then s else s.emit (.completion (n + 1) 4 []))
    { s with hostHold := s.hostHold.filter fun h => decide (h.part ≠ n) }

/-- The sector writes that the kindling controller still holds for a partition are discarded: a page of a bank-out stays. -/
def dropWrites (n : Nat) (s : State) : State :=
  (s.ks.writes.filter fun w => decide (w.part = n)).foldl (fun s w =>
    if w.kind = 0 then bankFail n w.slot bankRefused s else freeSlot n w.slot s) s

/-- A security alarm halts a partition (R230, R233): it latches, writes a soot entry, ends the partition's passes, discards
what the outbound holds still keep, loses every context, and writes one PART_HALT record (R112, R460). `kind` is
PROT_ALARM_KIND and `line` the λ or sector address. -/
def securityAlarm (n kind line : Nat) (exc : Option ExcRec) (s : State) : State :=
  if (s.part n).prot.halted then s
  else
    let s := s.modPart n fun p => { p with prot := { p.prot with
      halted := true, alarmKind := BitVec.ofNat 2 kind, alarmLine := BitVec.ofNat 64 line, verdicts := [] } }
    let s := sootEvent 0x20 n (leBytes 1 kind ++ [0] ++ leBytes 8 line) s
    let s := { s with
      outHold := s.outHold.filter fun e => decide (e.1 ≠ n)
      sweep := { s.sweep with
        queued := s.sweep.queued.filter fun e => decide (e.1 ≠ n)
        slots := (List.range 16).foldl (fun t i => match t.get i with
          | some p => if p.part.val = n then t.set i none else t
          | none => t) s.sweep.slots } }
    let s := dropWrites n (dropHeld n s)
    let s := loseClass n true exc (loseClass n false exc s)
    let s := s.modPart n fun p => { p with
      ctxs := { p.ctxs with items := p.ctxs.items.map fun (c, h) =>
        (c, { h with obj := h.obj.map fun x => if x.st = .destroying then x else { x with st := .lost } }) } }
    partRecord n { kind := 5, status := 0, detail := 0, tag := 0, arg := BitVec.ofNat 64 line, exc := exc } s

/-- PROT_ALARM_KIND of a line's failure (Table 10.6). -/
def alarmOf : LineBad → Nat
  | .crc => 0 | .tag => 1 | .counter => 2

/-! ### HBM faults -/

/-- Who makes an access to HBM (R229): a thread or mover with its exception record, an outside master or an engine that
answers for itself, or the Sweep. -/
inductive Reader where
  | ilmin (r : ExcRec)
  | outside
  | sweep
  deriving DecidableEq, Repr

/-- The record that an alarm carries: the reader's, as BUS_ERROR (Table 4.10). -/
def Reader.exc : Reader → Option ExcRec
  | .ilmin r => some { r with code := excBusError }
  | _ => none

/-- The HBM_CRC consequence for the class of a reader (R229): an LC step abort, or the BE context lost; the fourth abort in a row
against one target withdraws the partition (R467). -/
def crcConsequence (n : Nat) (be : Bool) (ember : Nat) (s : State) : State :=
  if be then loseContext n true none 1 s
  else
    let fresh := (s.part n).abort.request.isNone
    let s := startAbort n 1 ember none s
    if fresh && decide (4 ≤ (s.part n).abort.count) then withdraw n 3 s else s

/-- An HBM fault on a line (R229, R231): counted and recorded, entered in the die's list, persistent at a second hit, and met
by the consequence for its reader. A withdrawal, and an alarm of the same access, prevail (R112, R460). -/
def hbmFault (n line : Nat) (r : Reader) (absorbed : Bool) (s : State) : State :=
  let p := (s.part n).prot
  let die := s.dieOf (128 * line)
  let list := p.faultLines.get die
  let again := decide (line ∈ list)
  let p' := { p with
    crcCnt := satAdd p.crcCnt 1, crcOvf := p.crcOvf || satOvf p.crcCnt 1
    crcValid := true, crcLine := BitVec.ofNat 64 line
    faultLines := p.faultLines.set die (if again then list else (line :: list).take 16)
    persistCnt := if again then satAdd p.persistCnt 1 else p.persistCnt
    persistOvf := p.persistOvf || (again && satOvf p.persistCnt 1) }
  let s := healthHbm n (s.modPart n fun q => { q with prot := p' })
  if again then
    withdraw n 3 (setFault (.hbmPersist (Fin.ofNat 4 n)) (sootEvent 0x21 n (leBytes 8 line) s))
  else if absorbed then s
  else match r with
    | .ilmin e => crcConsequence n e.be e.ember s
    | .outside => s
    | .sweep => if (s.part n).inRun false then crcConsequence n false 0 s
      else if (s.part n).inRun true then crcConsequence n true 0 s else s

/-! ### Line counters -/

/-- A line is stored whole: LCNT takes the write count, which advances (R224), and what something outside had put there and its entry
in the fault list are gone (R231). -/
def storeMark (n line : Nat) (s : State) : State :=
  let pa := 128 * line
  let d := s.dieOf pa
  let new := s.lineNew n pa
  let c := s.rwcOf n pa
  s.modPart n fun p => { p with prot := { p.prot with
    lcnt := p.prot.lcnt.set line c
    ext := p.prot.ext.filter fun f => decide (f.line ≠ line)
    faultLines := p.prot.faultLines.upd d fun l => l.filter fun x => decide (x ≠ line)
    regions := p.prot.regions.upd (pa / pageBytes) fun r =>
      if new then { r with rwcNew := r.rwcNew.set d (c + 1) } else { r with rwc := r.rwc.set d (c + 1) } } }

/-- A write to bytes `pa` to `pa + len - 1` would take the last counter value of a die: it stalls until a pass has gone past the line (R227).
Every line takes one value of its die's count, after the lines below it of the same region. -/
def State.counterFull (s : State) (n pa len : Nat) : Bool :=
  let ls := linesOf pa len
  let same (l k : Nat) : Bool := decide (l / 16384 = k / 16384) && decide (s.dieOf (128 * l) = s.dieOf (128 * k)) &&
    decide (s.lineNew n (128 * l) = s.lineNew n (128 * k))
  (ls.any fun l => decide (2 ^ 48 - 1 ≤ s.rwcOf n (128 * l) + ls.length)) &&
    ls.any fun l => decide (2 ^ 48 - 1 ≤ s.rwcOf n (128 * l) + (ls.filter fun k => decide (k < l) && same l k).length)

/-- The lines of a frame cannot all be written (R227). -/
def State.frameFull (s : State) (n f : Nat) : Bool := s.counterFull n (f * pageBytes) pageBytes

/-! ### Reading and writing bytes -/

/-- The changed lines of a read up to the first whose CRC fails, with what is wrong with them, and that line (R229). -/
def crcSplit (s : State) (n : Nat) : List Nat → List (Nat × LineBad) × Option Nat
  | [] => ([], none)
  | l :: ls => match s.badOf n l with
    | some .crc => ([], some l)
    | some b => let (a, k) := crcSplit s n ls; ((l, b) :: a, k)
    | none => crcSplit s n ls

/-- Read bytes at a physical address of a partition (R229, R232). A CRC failure ends the access with no data; lines that fail
their tag or counter are released, as what they decrypt to, and their verdicts are still to come. -/
def readHbm (n pa len : Nat) (r : Reader) (s : State) : State × Option (List Byte) :=
  let (read, stop) := crcSplit s n (s.changedIn n pa len)
  let late := read.map fun e => ({ line := e.1, bad := some e.2, exc := r.exc } : Verdict)
  let s := if late.isEmpty then s
    else s.modPart n fun q => { q with prot := { q.prot with verdicts := q.prot.verdicts ++ late } }
  match stop with
  | some l => (hbmFault n l r (!late.isEmpty) s, none)
  | none => (s, some ((s.plain n).read pa len))

/-- The checks of the lines of an extent, whose verdicts are awaited before anything is done with it (R225, R229, R230, R233): false where a line
fails its CRC, or its tag or counter, which halts the partition; the lines after the first CRC failure are not read, and an alarm prevails. -/
def checkLines (n pa len : Nat) (r : Reader) (s : State) : State × Bool :=
  match crcSplit s n (s.changedIn n pa len) with
  | ([], none) => (s, true)
  | ([], some l) => (hbmFault n l r false s, false)
  | ((l, b) :: _, some k) => (securityAlarm n (alarmOf b) l r.exc (hbmFault n k r true s), false)
  | ((l, b) :: _, none) => (securityAlarm n (alarmOf b) l r.exc s, false)

/-- Read bytes whose lines are checked whole first: none where a line fails. -/
def readChecked (n pa len : Nat) (r : Reader) (s : State) : State × Option (List Byte) :=
  match checkLines n pa len r s with
  | (s, true) => (s, some ((s.plain n).read pa len))
  | (s, false) => (s, none)

/-- Write the bytes of one line: a part of a line is read and checked first (R225). False where the line fails its checks. -/
def writeLine (n pa : Nat) (bs : List Byte) (r : Reader) (s : State) : State × Bool :=
  let line := pa / 128
  match if bs.length = 128 then none else s.badOf n line with
  | some .crc => (hbmFault n line r false s, false)
  | some b => (securityAlarm n (alarmOf b) line r.exc s, false)
  | none =>
    let s := (takeLine n line s).modPart n fun p => { p with mem := { p.mem with hbm := p.mem.hbm.write pa bs } }
    (storeMark n line s, true)

/-- Write bytes, line by line in ascending address; a line that fails its checks ends the write (R224, R225). -/
def writeHbm : Nat → Nat → Nat → List Byte → Reader → State → State × Bool
  | 0, _, _, _, _, s => (s, true)
  | fuel + 1, n, pa, bs, r, s =>
    if bs.isEmpty then (s, true)
    else
      let k := 128 - pa % 128
      match writeLine n pa (bs.take k) r s with
      | (s, false) => (s, false)
      | (s, true) => writeHbm fuel n (pa + (bs.take k).length) (bs.drop k) r s

/-- Write bytes at a physical address. -/
def putHbm (n pa : Nat) (bs : List Byte) (r : Reader) (s : State) : State × Bool := writeHbm (bs.length + 1) n pa bs r s

/-- Store a whole frame: zero where no bytes are given (R226, R210, R313). -/
def fillFrame (n f : Nat) (bs : List Byte) (s : State) : State :=
  let lo := f * pageBytes
  let s := s.modPart n fun p => { p with mem := { p.mem with hbm := (p.mem.hbm.clear lo (lo + pageBytes)).write lo bs } }
  (List.range 16384).foldl (fun s i => storeMark n (16384 * f + i) s) s

/-- The lowest free pass slot (R234). -/
def freePassSlot (s : State) : Option Nat := (List.range 16).find? fun i => (s.sweep.slots.get i).isNone

/-- A pass completes: it is counted, and PF0 is told its slot and kind, 0 EPOCH, 1 KEY, 2 INIT (R236, Table 18.7). -/
def passDone (slot kind : Nat) (s : State) : State :=
  let s := { s with
    sweep := { s.sweep with doneCnt := satAdd s.sweep.doneCnt 1 }
    common := { s.common with swpDoneOvf := s.common.swpDoneOvf || satOvf s.sweep.doneCnt 1 } }
  hostRecord 0 { kind := 10, status := 0, detail := 0, tag := 0, arg := BitVec.ofNat 64 (slot + 16 * kind), exc := none } s

/-- A region is given its next epoch for an initialisation (R226): EPOCH advances and every RWC starts afresh. A region of the last epoch
retires, and keeps its epoch and its counts (R228; DESIGN CHOICE, log 92). -/
def Region.init (r : Region) : Region :=
  if r.epoch = lastEpoch then { r with retired := true } else { r with epoch := r.epoch + 1, rwc := Tab.const 0 }

/-- The Sweep initialises a frame before it is mapped (R226): an INIT pass of one step takes the lowest free slot and leaves it, and every
line is zero. -/
def initFrame (n f : Nat) (s : State) : State :=
  let s := passDone ((freePassSlot s).getD 0) 2 s
  fillFrame n f [] (s.modPart n fun p => { p with prot := { p.prot with regions := p.prot.regions.upd f Region.init } })

/-- The frame of a page entry may be initialised now: no pass covers it, and a slot is free (R234). -/
def initReady (s : State) (n f : Nat) : Bool := (s.passOf n f).isNone && (freePassSlot s).isSome

/-! ### Translation -/

/-- The outcome of a translation (R203, R206). -/
inductive Trans where
  | unmapped
  | readOnly
  | banked
  | frame (f : Nat)
  deriving DecidableEq, Repr

/-- The device writes a page's entry (R203, R206): its line in the leaf table is stored. -/
def setPage (n k : Nat) (e : Option Page) (s : State) : State :=
  let s := s.modPart n fun p => { p with mem := { p.mem with pages := p.mem.pages.set k e } }
  match (s.part n).mem.leafAt k with
  | some pa => storeMark n (pa / 128) s
  | none => s

/-- Translate an access of a partition by its tables (R202, R203). -/
def Part.translate (p : Part) (dva : Nat) (write : Bool) : Trans :=
  match p.mem.leaf.get (dva / pageBytes / 16384), p.mem.pages.get (dva / pageBytes) with
  | some _, some e =>
    if write && !e.w then .readOnly
    else match e.loc with
      | .banked _ => .banked
      | .frame f => .frame f
  | _, _ => .unmapped

/-- The bytes of the metadata areas of a context's heaps (R213): 2 bits for each minimum block, from its base on; none for an absent heap. -/
def Context.metaAreas (x : Context) : List (Nat × Nat) :=
  (if x.launch.hbmLen = 0 then [] else [(x.launch.hbmMeta.toNat, x.launch.hbmLen.toNat / 4096 / 4)]) ++
    if x.launch.shfLen = 0 then [] else [(x.launch.shfMeta.toNat, x.launch.shfLen.toNat / 256 / 4)]

/-- A page holds heap metadata of a context that exists: the device owns it (R203, R242). -/
def Part.metaPage (p : Part) (page : Nat) : Bool :=
  p.ctxs.items.any fun e => match e.2.obj with
    | some x => x.metaAreas.any fun a => decide (a.1 / pageBytes ≤ page) && decide (page * pageBytes < a.1 + a.2)
    | none => false

/-- A frame number that a page of heap metadata maps. -/
def Part.metaFrame (p : Part) (f : Nat) : Bool :=
  p.mem.pages.items.any fun e => match e.2 with
    | some q => decide (q.loc = .frame f) && p.metaPage e.1
    | none => false

/-- The frame in use for a frame number: a span unit is redirected to its live version (R298). -/
def Part.liveFrame (p : Part) (f : Nat) : Nat :=
  if p.rl.first ≤ f ∧ f < p.rl.first + p.rl.units then (p.rl.live.get (f - p.rl.first)).getD f else f

/-- The span unit that a frame number names. -/
def Part.unitOf (p : Part) (f : Nat) : Option Nat :=
  if p.rl.first ≤ f ∧ f < p.rl.first + p.rl.units then some (f - p.rl.first) else none

/-- The physical address of a translated access. -/
def Part.pa (p : Part) (f dva : Nat) : Nat := p.liveFrame f * pageBytes + dva % pageBytes

/-- The entries of a translation cache (R205). -/
def cacheSize (die : Nat) : Nat := if die < 16 then 2048 else 512

/-- Count a miss of a translation cache in MEM_TC_MISS and in the record of the context, where one makes the access (R205, R218). -/
def countMiss (n : Nat) (be : Option Bool) (s : State) : State :=
  s.modPart n fun p =>
    let m := p.mem
    let p := { p with mem := { m with tcMiss := satAdd m.tcMiss 1, tcMissOvf := m.tcMissOvf || satOvf m.tcMiss 1 } }
    match be.bind p.running with
    | some c => p.modCtx c fun x => { x with mem := { x.mem with
        tcMiss := satAdd x.mem.tcMiss 1, ovf := withBit x.mem.ovf 6 (x.mem.ovf.getLsbD 6 || satOvf x.mem.tcMiss 1) } }
    | none => p

/-- The walker reads the line of a table entry through its checks (R202, R229): false where it fails. -/
def walkLine (n line : Nat) (r : Reader) (s : State) : State × Bool :=
  match s.badOf n line with
  | some .crc => (hbmFault n line r false s, false)
  | some b => (securityAlarm n (alarmOf b) line r.exc s, false)
  | none => (takeTable n line s, true)

/-- The walker reads the directory entry and the page entry of a page (R202, R205). -/
def walk (n page : Nat) (r : Reader) (s : State) : State × Bool :=
  let m := (s.part n).mem
  if !m.hasDir then (s, true)
  else match walkLine n (m.dirAt (page / 16384) / 128) r s with
    | (s, false) => (s, false)
    | (s, true) => match (s.part n).mem.leafAt page with
      | some pa => walkLine n (pa / 128) r s
      | none => (s, true)

/-- A translation cache takes the entry of a page: in a full cache the entry that it replaces is a free value (R205). -/
def cacheFill (die n page : Nat) (s : State) : State :=
  let key := n * 2 ^ 27 + page
  let c := s.tcache.get die
  if c.length < cacheSize die then { s with tcache := s.tcache.set die (key :: c) }
  else
    let (v, s) := s.takeFree
    { s with tcache := s.tcache.set die (key :: c.eraseIdx (v % cacheSize die)) }

/-- Look a page up in the translation cache of a die (0-15 compute, 16-19 memory-side): a miss is counted and served by the walker, and an entry
with V = 1 is cached (R205). False where the walk fails its checks. -/
def lookup (die n page : Nat) (be : Option Bool) (r : Reader) (s : State) : State × Bool :=
  if n * 2 ^ 27 + page ∈ s.tcache.get die then (s, true)
  else match walk n page r (countMiss n be s) with
    | (s, false) => (s, false)
    | (s, true) => (if ((s.part n).mem.pages.get page).isSome then cacheFill die n page s else s, true)

/-- The translation cache of the memory-side die that serves an address of a page, for an access of a flue die or HS (R205). A page that has no
frame is looked up at the partition's lowest die (DESIGN CHOICE, log 94). -/
def State.mdCache (s : State) (n a : Nat) : Nat :=
  let p := s.part n
  let d := match p.mem.pages.get (a / pageBytes) with
    | some e => (match e.loc with | .frame f => s.dieOf (p.pa f a) | .banked _ => 0)
    | none => 0
  16 + n * s.mdPerPart + d

/-- Invalidate a page in every translation cache of the module (R206). -/
def cacheDrop (n page : Nat) (s : State) : State :=
  { s with tcache := s.tcache.map fun c => c.filter fun k => decide (k ≠ n * 2 ^ 27 + page) }

/-! ### Bank-out touched, banked page touched -/

/-- An access meets a page whose bank-out is copying: the bank-out is abandoned and the page stays (R209). -/
def touchPage (n page : Nat) (s : State) : State :=
  match (s.part n).mem.pages.get page with
  | some e => match e.busy with
    | .bankOut slot =>
      let s := s.modPart n fun p => { p with mem := { p.mem with
        pages := p.mem.pages.set page (some { e with busy := .idle }) } }
      bankFinish n (bankStatus n page bankTouched (freeSlot n slot s))
    | _ => s
  | none => s

/-- Frames of the unbank pool (MEM_POOL_FREE). -/
def PartMem.poolFrames (m : PartMem) : List Nat := m.frames.keysWhere fun u => decide (u = .pool)

/-- MEM_POOL_EMPTY: an unbank waits for a frame (R211). -/
def PartMem.poolEmpty (m : PartMem) : Bool := !m.unbankQ.isEmpty && m.poolFrames.isEmpty

/-- The host is told when an unbank begins to wait on an empty pool (R211). -/
def poolEdge (n : Nat) (was : Bool) (s : State) : State :=
  let m := (s.part n).mem
  if m.poolEmpty && !was then
    partRecord n { kind := 9, status := 0, detail := 0, tag := 0, arg := BitVec.ofNat 64 m.unbankQ.length, exc := none } s
  else s

/-- The ticket of the module's next unbank request: one above every request that waits (R211). -/
def unbankTicket (s : State) : Nat :=
  1 + (List.range 4).foldl (fun k n => (s.part n).mem.unbankQ.foldl (fun k e => max k e.2) k) 0

/-- An access meets a banked page: its unbank is asked for, once, and waits in arrival order (R210, R211). -/
def askUnbank (n page : Nat) (s : State) : State :=
  match (s.part n).mem.pages.get page with
  | some e =>
    if e.busy = .idle then
      let was := (s.part n).mem.poolEmpty
      poolEdge n was (s.modPart n fun p => { p with mem := { p.mem with
        pages := p.mem.pages.set page (some { e with busy := .unbankWait })
        unbankQ := p.mem.unbankQ ++ [(page, unbankTicket s)] } })
    else s
  | none => s

/-! ### First writes of span units -/

/-- A write to a frame may go ahead (R298): the frame is no span unit, or the unit has already moved since B_k. -/
def Part.writable (p : Part) (f : Nat) : Bool :=
  match p.unitOf f with
  | none => true
  | some q => decide (p.rl.live.get q ≠ p.rl.kept.get q)

/-- A write stalls under R298, and is counted once. -/
def countStall (n : Nat) (s : State) : State :=
  s.modPart n fun p => { p with rl := { p.rl with
    stallCnt := satAdd p.rl.stallCnt 1, stallOvf := p.rl.stallOvf || satOvf p.rl.stallCnt 1 } }

/-- WP_POOL_EMPTY is set and the host is told, once (R299). -/
def poolShort (n : Nat) (s : State) : State :=
  if (s.part n).rl.poolEmpty then s
  else partRecord n { kind := 9, status := 0, detail := 0, tag := 0, arg := 1, exc := none }
    (s.modPart n fun p => { p with rl := { p.rl with poolEmpty := true } })

/-- The copy-on-write pool gives a frame, or it is empty (R299). -/
def takePoolFrame (n : Nat) (s : State) : State × Option Nat :=
  match (s.part n).rl.pool with
  | f :: rest => (s.modPart n fun p => { p with rl := { p.rl with pool := rest } }, some f)
  | [] => (poolShort n s, none)

/-- Start the copy of a unit's first write once B_k is job-sealed and a pool frame is free (R298, R299). -/
def startCow (n q : Nat) (exc : Option ExcRec) (s : State) : State :=
  let p := s.part n
  if !p.rl.jobSealed || p.rl.copying.any (fun c => c.1 = q) then s
  else match takePoolFrame n s with
    | (s, some f) => s.modPart n fun p => { p with rl := { p.rl with copying := p.rl.copying ++ [(q, f, exc)] } }
    | (s, none) => s

/-- Frames return to the pool, and WP_POOL_EMPTY clears (R299, R301). -/
def Relight.giveFrames (fs : List Nat) (r : Relight) : Relight :=
  { r with pool := r.pool ++ fs, poolEmpty := r.poolEmpty && fs.isEmpty }

/-- COW_COPY_DONE: the oldest copy of a partition finishes (R298): the kept frame is read through its checks, attributed to the
writer; the unit is remapped to the pool frame, or, where a line fails, the frame returns to the pool. It waits
while the pool frame's counters are used up (R227). -/
def execCowCopyDone (n : PartId) (flips : List LineFlip) (s : State) : Out :=
  let s := strikeLines n.val flips s
  .next (match (s.part n.val).rl.copying with
  | [] => s
  | (q, f, exc) :: rest =>
    if s.frameFull n.val f then s else
    let p := s.part n.val
    let src := (p.rl.kept.get q).getD (p.rl.first + q)
    let s := s.modPart n.val fun p => { p with rl := { p.rl with copying := rest } }
    let r : Reader := match exc with | some e => .ilmin e | none => .outside
    let back (s : State) : State := s.modPart n.val fun p => { p with rl := p.rl.giveFrames [f] }
    match readChecked n.val (src * pageBytes) pageBytes r s with
    | (s, none) => back s
    | (s, some bytes) => (fillFrame n.val f bytes s).modPart n.val fun p => { p with rl := { p.rl with live := p.rl.live.set q (some f) } })

/-- TAG_VERDICT: the oldest verdict on released lines arrives (R232): a failure is a security alarm attributed to the reader; of
one access, PROT_ALARM_LINE holds the lowest line (R229). -/
def execTagVerdict (n : PartId) (s : State) : Out :=
  .next (match (s.part n.val).prot.verdicts with
  | [] => s
  | v :: rest =>
    let s := s.modPart n.val fun p => { p with prot := { p.prot with verdicts := rest } }
    match v.bad with
    | some b => securityAlarm n.val (alarmOf b) v.line v.exc s
    | none => s)

end Sys2Proof.Machine
end

