-- ==== Sys2Proof/Machine/Positions.lean ====
section
/-! DEFINITION. Positions and routes of a job (R12, R264, R266, Table 5.11). -/

namespace Sys2Proof.Machine

/-- The size of torus dimension `d`: FAB_DIMS holds it less one (Table 11.13). -/
def State.dim (s : State) (d : Nat) : Nat := field s.fab.dims (19 - 5 * d) (15 - 5 * d) + 1

/-- Coordinate `d` of a position. -/
def posCoord (p : Pos) (d : Nat) : Nat := match d with | 0 => p.t0 | 1 => p.t1 | 2 => p.t2 | _ => p.t3
/-- A position with coordinate `d` replaced. -/
def posWith (p : Pos) (d v : Nat) : Pos :=
  match d with | 0 => { p with t0 := v } | 1 => { p with t1 := v } | 2 => { p with t2 := v } | _ => { p with t3 := v }

/-- The four coordinates agree: the same hearth group. -/
def sameGroup (p q : Pos) : Bool := decide (p.t0 = q.t0) && decide (p.t1 = q.t1) && decide (p.t2 = q.t2) && decide (p.t3 = q.t3)

/-- A position as one number (R180). -/
def State.posCode (s : State) (p : Pos) : Nat := (((p.t0 * s.dim 1 + p.t1) * s.dim 2 + p.t2) * s.dim 3 + p.t3) * 9 + p.member

/-- A position of the job: an active member of a group of the torus (R12). -/
def State.jobHas (s : State) (p : Pos) : Bool :=
  decide (p.member < 8) && (List.range 4).all fun d => decide (posCoord p d < s.dim d)

/-- Every position of the job, by rising index. -/
def State.jobPositions (s : State) : List Pos :=
  (List.range (s.dim 0)).flatMap fun a => (List.range (s.dim 1)).flatMap fun b => (List.range (s.dim 2)).flatMap fun c =>
    (List.range (s.dim 3)).flatMap fun d => (List.range 8).map fun m => { t0 := a, t1 := b, t2 := c, t3 := d, member := m }

/-- The torus neighbour in a dimension and direction, 0 for + and 1 for - (R264). -/
def State.neighbour (s : State) (p : Pos) (d dir : Nat) : Pos :=
  let n := s.dim d
  posWith p d (if dir = 0 then (posCoord p d + 1) % n else (posCoord p d + n - 1) % n)

/-- The logical position that a route names (Table 5.11). -/
def State.routePos (s : State) (n route : Nat) : Pos :=
  let me := s.logicalPos n
  if route < 8 then { me with member := (me.member + 1 + route) % 9 }
  else s.neighbour me ((route - 8) / 2) ((route - 8) % 2)

end Sys2Proof.Machine
end

