-- ==== Sys2Proof/Machine/Heap.lean ====
section
/-! DEFINITION. The device-side allocator: ALLOC, FREE and their answers (R107, R213 to R217), and CAPRD with the capability and
topology table (R108, R424). -/

namespace Sys2Proof.Machine

/-- Count an ALLOC answered with a failure in the context's record (R214, R218). -/
def countAllocFail (n : Nat) (be : Bool) (s : State) : State :=
  s.modPart n fun p => match p.running be with
    | some c => p.modCtx c fun x => { x with mem := { x.mem with
        allocFail := satAdd x.mem.allocFail 1, ovf := withBit x.mem.ovf 7 (x.mem.ovf.getLsbD 7 || satOvf x.mem.allocFail 1) } }
    | none => p

/-- The answer to an allocator request: RD and the predicate (R107). -/
def Thread.answer (q : HeapReq) (v : DWord) (ok : Bool) (h : Thread) : Thread := (h.setS q.rd v).setP q.pred ok

/-- Serve one request of a class (R214, R216). -/
def serveHeap (n l t : Nat) (be : Bool) (q : HeapReq) (s : State) : State :=
  let heap (i : Nat) : Heap := (s.part n).mem.heaps.get i
  let setHeap (i : Nat) (h : Heap) (s : State) : State :=
    s.modPart n fun p => { p with mem := { p.mem with heaps := p.mem.heaps.set i h } }
  let done (v : Nat) (ok : Bool) (s : State) : State := s.modThread l t (Thread.answer q (BitVec.ofNat 64 v) ok)
  match q.op with
  | .free =>
    let after := (s.part n).launched
    match (heap (heapIx be false)).free q.arg.toNat after, (heap (heapIx be true)).free q.arg.toNat after with
    | some h, _ => returnBe n (done 0 true (setHeap (heapIx be false) h s))
    | none, some h => returnBe n (done 0 true (setHeap (heapIx be true) h s))
    | none, none => done 3 false s
  | op =>
    let i := heapIx be (decide (op = .allocS))
    match (heap i).alloc q.arg.toNat with
    | (h, .ok off) => done (h.base + off) true (setHeap i h s)
    | (_, .error c) => countAllocFail n be (done c false s)

/-- HEAP_ANSWER: the heap controller serves the oldest request and answers its thread (R215). -/
def execHeapAnswer (n : PartId) (s : State) : Out :=
  .next (match (s.part n.val).mem.heapQ with
  | [] => s
  | k :: rest =>
    let l := k / 8
    let t := k % 8
    let s := returnBe n.val (s.modPart n.val fun p => { p with mem := { p.mem with heapQ := rest } })
    match (s.thread l t).heapReqs with
    | [] => s
    | q :: qs => serveHeap n.val l t (s.isBe l t) q (s.modThread l t fun h => { h with heapReqs := qs }))

/-- Issue an allocator request (R107): RB[2:0] the predicate. -/
def issueHeap (minor : Nat) (op : HeapOp) (x : Site) (f : BitVec 52) (s : State) : State :=
  issue x (insnWord 0x0F minor f) f [fRd f, fRa f] [fRb f % 8] (requestRoom x)
    (reserved (decide (fRb f < 8) && decide (fLow f = 0)))
    (fun s =>
      let q : HeapReq := { op := op, rd := fRd f, pred := fRb f % 8, arg := (thrAt s x).sReg (fRa f) }
      .ok ((modAt x (fun h => { h with heapReqs := h.heapReqs ++ [q] }) s).modPart (partAt s x) fun p =>
        { p with mem := { p.mem with heapQ := p.mem.heapQ ++ [8 * x.e.val + x.t.val] } })) s

/-- ALLOC.H. -/
def execAllocH (x : Site) (f : BitVec 52) (s : State) : Out := .next (issueHeap 0 .allocH x f s)
/-- ALLOC.S. -/
def execAllocS (x : Site) (f : BitVec 52) (s : State) : Out := .next (issueHeap 1 .allocS x f s)
/-- FREE. -/
def execFreeBlock (x : Site) (f : BitVec 52) (s : State) : Out := .next (issueHeap 2 .free x f s)

/-! ### The capability and topology table -/

/-- DRAUGHT_MODE codes (Table 2.5). -/
def draughtCode : Draught → Nat
  | .full => 0 | .forge => 1 | .flue => 2 | .banked => 3

/-- STEPPING: OTP word 90 bits 15:0 (Table 17.1). -/
def State.stepping (s : State) : Nat := field (s.lc.otp.get 90) 15 0

/-- Partitions in the layout, 1, 2 or 4. -/
def State.layoutNum (s : State) : Nat := s.nParts

/-- The job-invariant entries 1 to 11 (Table 18.13, R424). -/
def capFixed (s : State) : Nat → Nat
  | 1 => s.stepping
  | 2 => s.nParts
  | 3 => s.embersPerPart
  | 4 => 8
  | 5 => 393216
  | 6 => 805306368 / s.nParts
  | 7 => s.frameCount
  | 8 => leNat ((List.range 4).map fun d => BitVec.ofNat 8 (s.dim d - 1))
  | 9 => 8 * s.dim 0 * s.dim 1 * s.dim 2 * s.dim 3
  | 10 => 32
  | 11 => 2 ^ 24
  | _ => 0

/-- CAP_DIGEST (R424). -/
def capDigest (s : State) : Digest :=
  BitVec.ofNat 256 (Config.shake256 ((List.range 11).flatMap fun i => leBytes 8 (capFixed s (i + 1))) 32)

/-- An entry of the table for a partition and the reading class, or for a module-level reader with no partition (R424). -/
def capEntry (s : State) (n : Option Nat) (be : Bool) (i : Nat) : DWord :=
  let v : Nat := if i = 0 then 26 else if i < 12 then capFixed s i
    else match n with
    | none => 0
    | some n =>
      let p := s.part n
      if !p.hasCtx then 0
      else
        let launch : Option Launch := ((p.runCtx be).or (p.runCtx (!be))).map (·.launch)
        match i with
        | 12 => n
        | 13 => s.firstEmber n
        | 14 => posWord (s.logicalPos n)
        | 15 => posWord s.ownPos
        | 16 => draughtCode s.power.mode
        | 17 => p.step.count.toNat
        | 18 => p.tree.lineage.toNat
        | 19 => p.step.capEpoch.toNat
        | 20 => p.step.capStoker
        | 21 => match launch with | some r => r.nmb + 65536 * r.slot | none => 0
        | 22 => let m := s.ember (s.firstEmber n); m.beBase.toNat + 65536 * m.beLen.toNat
        | 23 => p.rl.mode + 256 * p.rl.interval
        | 24 => match launch with | some r => r.nsct | none => 0
        | 25 => (p.mem.heaps.get (heapIx be false)).len
        | _ => 0
  BitVec.ofNat 64 v

/-- CAPRD: the entry RA + IMM; beyond the table 0 (R108). -/
def execCaprd (x : Site) (f : BitVec 52) (s : State) : Out :=
  .next (issue x (insnWord 0x0F 3 f) f [fRd f, fRa f] [] (requestRoom x) none
    (fun s =>
      let i := (thrAt s x).sReg (fRa f) + fImm f
      .ok (modAt x (Thread.setS (fRd f) (capEntry s (some (partAt s x)) (beAt s x) i.toNat)) s)) s)

end Sys2Proof.Machine
end

