-- ==== Sys2Proof/Machine/Num.lean ====
section
/-! DEFINITION. Exact arithmetic and the number formats (R131, R132, R147 to R154): a finite value is an integer times a
power of two, every operation is made exactly and rounded once, to nearest, ties to even. -/

namespace Sys2Proof.Machine

/-- An exact dyadic value `m · 2^e`. -/
structure Dy where
  m : Int
  e : Int
  deriving DecidableEq, Repr

/-- `m / 2^sh` rounded to an integer, nearest, ties to even. -/
def rneShift (m : Int) (sh : Nat) : Int :=
  let d : Int := 2 ^ sh
  let q := m / d
  let r := m - q * d
  if d < 2 * r then q + 1 else if 2 * r = d ∧ q % 2 = 1 then q + 1 else q

/-- `m · 2^k` as an integer, rounded where `k` is negative. -/
def rneScale (m k : Int) : Int := if 0 ≤ k then m * 2 ^ k.toNat else rneShift m (-k).toNat

/-- The exponent of the leading bit of `|v|`, for a value that is not zero. -/
def Dy.log2 (v : Dy) : Int := (Nat.log2 v.m.natAbs : Int) + v.e

/-- The exact sum. -/
def Dy.add (a b : Dy) : Dy :=
  if a.e ≤ b.e then { m := a.m + b.m * 2 ^ (b.e - a.e).toNat, e := a.e }
  else { m := a.m * 2 ^ (a.e - b.e).toNat + b.m, e := b.e }

/-- The exact product. -/
def Dy.mul (a b : Dy) : Dy := { m := a.m * b.m, e := a.e + b.e }

/-- The negative. -/
def Dy.neg (a : Dy) : Dy := { m := -a.m, e := a.e }

/-- `a ≤ b`. -/
def Dy.le (a b : Dy) : Bool := decide ((a.add b.neg).m ≤ 0)

/-- A binary format (Table 6.1): mantissa bits, exponent bias, code bits and the magnitude code of its largest finite value. -/
structure Fmt where
  mant : Nat
  bias : Nat
  bits : Nat
  maxCode : Nat
  deriving DecidableEq, Repr

/-- FP32. -/
def fmtFp32 : Fmt := { mant := 23, bias := 127, bits := 32, maxCode := 0x7F7FFFFF }
/-- BF16. -/
def fmtBf16 : Fmt := { mant := 7, bias := 127, bits := 16, maxCode := 0x7F7F }
/-- E4M3. -/
def fmtE4M3 : Fmt := { mant := 3, bias := 7, bits := 8, maxCode := 0x7E }
/-- E5M2. -/
def fmtE5M2 : Fmt := { mant := 2, bias := 15, bits := 8, maxCode := 0x7B }
/-- E2M3. -/
def fmtE2M3 : Fmt := { mant := 3, bias := 1, bits := 6, maxCode := 0x1F }
/-- E2M1. -/
def fmtE2M1 : Fmt := { mant := 1, bias := 1, bits := 4, maxCode := 0x7 }

/-- The exponent of a format's smallest subnormal. -/
def Fmt.minExp (f : Fmt) : Int := 1 - (f.bias : Int) - (f.mant : Int)

/-- The magnitude code of `|v|` rounded to the format's significand, nearest, ties to even, with its subnormal spacing and no
upper exponent limit (R153). -/
def Fmt.magCode (f : Fmt) (v : Dy) : Nat :=
  if v.m = 0 then 0
  else
    let q := max (v.log2 - (f.mant : Int)) f.minExp
    let r := rneScale (v.m.natAbs : Int) (v.e - q)
    ((q - f.minExp) * 2 ^ f.mant + r).toNat

/-- The sign bit's place value. -/
def Fmt.signPlace (f : Fmt) : Nat := 2 ^ (f.bits - 1)

/-- The exact value of a finite code (R147). -/
def Fmt.value (f : Fmt) (c : Nat) : Dy :=
  let mag := c % f.signPlace
  let ef := mag / 2 ^ f.mant
  let fr := mag % 2 ^ f.mant
  let neg := decide (f.signPlace ≤ c)
  let m : Int := if ef = 0 then fr else fr + 2 ^ f.mant
  let e : Int := if ef = 0 then f.minExp else f.minExp + ((ef : Int) - 1)
  { m := if neg then -m else m, e := e }

/-- A decoded element: its sign, and a finite value, an infinity or a NaN. -/
inductive Num where
  | nan
  | inf (neg : Bool)
  | fin (neg : Bool) (v : Dy)
  deriving DecidableEq, Repr

/-- Decode an FP32 word. -/
def decF (x : Word) : Num :=
  let neg := x.getLsbD 31
  let mag := x.toNat % 2 ^ 31
  if 0x7F800000 < mag then .nan
  else if mag = 0x7F800000 then .inf neg
  else .fin neg (fmtFp32.value x.toNat)

/-- A result of FP32 arithmetic: the word, whether it saturated, and whether it is a NaN of the operation (R131). -/
structure FpR where
  w : Word
  sat : Bool
  nan : Bool
  deriving DecidableEq, Repr

/-- The quiet NaN (R131). -/
def qNaN : Word := 0x7FC00000#32
/-- The largest finite magnitude with a sign (R131). -/
def maxFin (neg : Bool) : Word := if neg then 0xFF7FFFFF#32 else 0x7F7FFFFF#32

/-- A NaN result. -/
def fpNaN : FpR := { w := qNaN, sat := false, nan := true }
/-- An infinite result, delivered as the largest finite magnitude (R131). -/
def fpInf (neg : Bool) : FpR := { w := maxFin neg, sat := true, nan := false }

/-- Round an exact value to FP32 under R131; `negZ` is the sign of an exact zero. -/
def rne32 (v : Dy) (negZ : Bool) : FpR :=
  if v.m = 0 then { w := if negZ then 0x80000000#32 else 0#32, sat := false, nan := false }
  else
    let neg := decide (v.m < 0)
    let c := fmtFp32.magCode v
    if fmtFp32.maxCode < c then fpInf neg
    else { w := BitVec.ofNat 32 (c + (if neg then 2 ^ 31 else 0)), sat := false, nan := false }

/-- A word as delivered by the unit: NaN quietened, infinity saturated (R131). -/
def fpPass (x : Word) : FpR :=
  match decF x with
  | .nan => fpNaN
  | .inf n => fpInf n
  | .fin _ _ => { w := x, sat := false, nan := false }

/-- The negative of a word. -/
def fpNegW (x : Word) : Word := x ^^^ 0x80000000#32

/-- `a + b` (R131). -/
def fpAdd (a b : Word) : FpR :=
  match decF a, decF b with
  | .nan, _ => fpNaN
  | _, .nan => fpNaN
  | .inf n, .inf m => if n = m then fpInf n else fpNaN
  | .inf n, _ => fpInf n
  | _, .inf n => fpInf n
  | .fin n u, .fin m v => rne32 (u.add v) (n && m)

/-- `a - b`. -/
def fpSub (a b : Word) : FpR := fpAdd a (fpNegW b)

/-- `a · b` (R131). -/
def fpMul (a b : Word) : FpR :=
  match decF a, decF b with
  | .nan, _ => fpNaN
  | _, .nan => fpNaN
  | .inf n, .inf m => fpInf (n != m)
  | .inf n, .fin m v => if v.m = 0 then fpNaN else fpInf (n != m)
  | .fin n u, .inf m => if u.m = 0 then fpNaN else fpInf (n != m)
  | .fin n u, .fin m v => rne32 (u.mul v) (n != m)

/-- `a · b + c` with one rounding (R130, R131). -/
def fpFma (a b c : Word) : FpR :=
  match decF a, decF b, decF c with
  | .nan, _, _ => fpNaN
  | _, .nan, _ => fpNaN
  | .inf n, .fin m v, z => if v.m = 0 then fpNaN else fmaInf (n != m) z
  | .fin n u, .inf m, z => if u.m = 0 then fpNaN else fmaInf (n != m) z
  | .inf n, .inf m, z => fmaInf (n != m) z
  | .fin _ _, .fin _ _, .nan => fpNaN
  | .fin _ _, .fin _ _, .inf k => fpInf k
  | .fin n u, .fin m v, .fin k w => rne32 ((u.mul v).add w) ((n != m) && k)
where
  /-- an infinite product added to `z` -/
  fmaInf (neg : Bool) : Num → FpR
    | .nan => fpNaN
    | .inf k => if k = neg then fpInf neg else fpNaN
    | .fin _ _ => fpInf neg

/-- The place of a word in the order of R130, in which +0 is above -0. -/
def fpKey (x : Word) : Int :=
  if x.getLsbD 31 then -((x.toNat % 2 ^ 31 : Nat) : Int) - 1 else ((x.toNat % 2 ^ 31 : Nat) : Int)

/-- The maximum (R130, R131). -/
def fpMax (a b : Word) : FpR :=
  if (decF a = .nan) ∨ (decF b = .nan) then fpNaN else fpPass (if fpKey a < fpKey b then b else a)

/-- The minimum (R130, R131). -/
def fpMin (a b : Word) : FpR :=
  if (decF a = .nan) ∨ (decF b = .nan) then fpNaN else fpPass (if fpKey a ≤ fpKey b then a else b)

/-- The magnitude (R130). -/
def fpAbs (a : Word) : FpR := fpPass (a &&& 0x7FFFFFFF#32)

/-- Round a quotient `n / d · 2^e` of natural numbers (d not zero) to FP32 with one rounding: a low bit stands for the rest. -/
def rneQuot (neg : Bool) (n d : Nat) (e : Int) : FpR :=
  let num := n * 2 ^ 128
  let q := num / d
  let v : Int := 2 * (q : Int) + (if num % d = 0 then 0 else 1)
  rne32 { m := if neg then -v else v, e := e - 129 } neg

/-- `a / b` (IEEE 754 under R131). -/
def fpDiv (a b : Word) : FpR :=
  match decF a, decF b with
  | .nan, _ => fpNaN
  | _, .nan => fpNaN
  | .inf _, .inf _ => fpNaN
  | .inf n, .fin m _ => fpInf (n != m)
  | .fin n _, .inf m => rne32 { m := 0, e := 0 } (n != m)
  | .fin n u, .fin m v =>
    if v.m = 0 then (if u.m = 0 then fpNaN else fpInf (n != m))
    else if u.m = 0 then rne32 { m := 0, e := 0 } (n != m)
    else rneQuot (n != m) u.m.natAbs v.m.natAbs (u.e - v.e)

/-- The integer square root, one bit of the root at a time from bit `k` down. -/
def isqrtBits : Nat → Nat → Nat → Nat
  | 0, n, r => if (r + 1) * (r + 1) ≤ n then r + 1 else r
  | k + 1, n, r =>
    let c := r + 2 ^ (k + 1)
    isqrtBits k n (if c * c ≤ n then c else r)

/-- 1/√x, correctly rounded (R132). -/
def fpRsqrt (x : Word) : FpR :=
  match decF x with
  | .nan => fpNaN
  | .inf n => if n then fpNaN else { w := 0#32, sat := false, nan := false }
  | .fin n v =>
    if v.m = 0 then fpInf n
    else if n then fpNaN
    else
      let z := 2 ^ (300 - v.e).toNat
      let r := isqrtBits 256 (z / v.m.natAbs) 0
      let exact := decide (r * r * v.m.natAbs = z)
      rne32 { m := 2 * (r : Int) + (if exact then 0 else 1), e := -151 } false

/-- 1/x, correctly rounded (R132). -/
def fpRecip (x : Word) : FpR :=
  match decF x with
  | .nan => fpNaN
  | .inf n => rne32 { m := 0, e := 0 } n
  | .fin n v => if v.m = 0 then fpInf n else rneQuot n 1 v.m.natAbs (-v.e)

/-- The Taylor sum of e^y in units of 2^-320, for `y` in the same units. -/
def expTaylor : Nat → Nat → Int → Int → Int → Int
  | 0, _, _, _, acc => acc
  | fuel + 1, n, y, term, acc =>
    let t := term * y / (2 ^ 320 * ((n : Int) + 1))
    expTaylor fuel (n + 1) y t (acc + t)

/-- Square a floating value `m · 2^e` `k` times, keeping 320 bits. -/
def sqrTimes : Nat → Nat → Int → Nat × Int
  | 0, m, e => (m, e)
  | k + 1, m, e =>
    let p := m * m
    let sh := Nat.log2 p - 320
    sqrTimes k (p / 2 ^ sh) (2 * e + sh)

/-- e^x, correctly rounded (R132): the exact power of a rational other than 0 is never a tie, and 320 bits of the value
decide every FP32 input. -/
def fpExp (x : Word) : FpR :=
  match decF x with
  | .nan => fpNaN
  | .inf n => if n then { w := 0#32, sat := false, nan := false } else fpInf false
  | .fin _ v =>
    if v.m = 0 then { w := 0x3F800000#32, sat := false, nan := false }
    else if 128 ≤ v.m.natAbs * 2 ^ (v.e + 200).toNat / 2 ^ 200 then
      (if v.m < 0 then { w := 0#32, sat := false, nan := false } else fpInf false)
    else
      let y : Int := if 0 ≤ v.e + 304 then v.m * 2 ^ (v.e + 304).toNat else 0
      let t := expTaylor 48 0 y (2 ^ 320) (2 ^ 320)
      let (m, e) := sqrTimes 16 t.toNat (-320)
      rne32 { m := 2 * (m : Int) + 1, e := e - 1 } false

/-- `⌈log₂ n⌉` of a positive number. -/
def clog2 (n : Nat) : Nat := if n ≤ 1 then 0 else Nat.log2 (n - 1) + 1

/-- The absolute maximum of a set of FP32 words (R154): NaNs left out, an infinity as the largest finite magnitude. -/
def absMax (xs : List Word) : Word :=
  xs.foldl (fun a x =>
    match decF x with
    | .nan => a
    | .inf _ => maxFin false
    | .fin _ _ => if a.toNat < (x &&& 0x7FFFFFFF#32).toNat then x &&& 0x7FFFFFFF#32 else a) 0#32

/-- The element formats of Table 5.5, as codes. -/
def fmtOfCode (c : Nat) : Option Fmt :=
  match c with
  | 0 => some fmtE4M3
  | 1 => some fmtE5M2
  | 2 => some fmtE2M1
  | 3 => some fmtBf16
  | 5 => some fmtFp32
  | _ => none

/-- The NaN the device writes for a format code; E2M1 has none (R158 writes +0). -/
def nanCode (c : Nat) : Nat :=
  match c with
  | 0 => 0x7F
  | 1 => 0x7F
  | 3 => 0x7FC0
  | 5 => 0x7FC00000
  | _ => 0

/-- convert(v, f, X) of R153: the code in the target format, and whether it saturated. A NaN gives the format's NaN code. -/
def convertTo (c : Nat) (f : Fmt) (v : Num) (x : Int) : Nat × Bool :=
  match v with
  | .nan => (nanCode c, false)
  | .inf n => (f.maxCode + (if n then f.signPlace else 0), true)
  | .fin n d =>
    let code := f.magCode { d with e := d.e - x }
    let s := if n then f.signPlace else 0
    if f.maxCode < code then (f.maxCode + s, true) else (code + s, false)

/-- Decode an element of a format code as an operand (Table 6.1); an infinity decodes as itself. -/
def decElem (c : Nat) (x : Nat) : Num :=
  match c with
  | 0 => if x % 128 = 0x7F then .nan else .fin (decide (128 ≤ x)) (fmtE4M3.value x)
  | 1 => if 0x7C < x % 128 then .nan else if x % 128 = 0x7C then .inf (decide (128 ≤ x))
         else .fin (decide (128 ≤ x)) (fmtE5M2.value x)
  | 2 => .fin (decide (8 ≤ x)) (fmtE2M1.value x)
  | 3 => if 0x7F80 < x % 32768 then .nan else if x % 32768 = 0x7F80 then .inf (decide (32768 ≤ x))
         else .fin (decide (32768 ≤ x)) (fmtBf16.value x)
  | 4 => let v : Int := if 128 ≤ x then (x : Int) - 256 else x
         .fin (decide (v < 0)) { m := v, e := 0 }
  | _ => decF (BitVec.ofNat 32 x)

/-- The E4M3 code of an E2M3 code: the same value, exactly (R152). -/
def widenCode (v : Nat) : Nat := (convertTo 0 fmtE4M3 (.fin (decide (32 ≤ v)) (fmtE2M3.value v)) 0).1

end Sys2Proof.Machine
end

