-- ==== Sys2Proof/Machine/ScratchMem.lean ====
section
/-! DEFINITION. Scratch loads, stores and atomics (R94, R95) and descriptor transfer (R102). -/

namespace Sys2Proof.Machine

/-- Read `n` bytes of scratch for a thread: the number they spell, or the mismatching double-words met (R78). -/
def loadScratch (s : State) (l off n : Nat) : Except (List Nat) Nat :=
  let m := s.ember l
  match m.mismatches off n with
  | [] => .ok (m.scratch.num off n)
  | bad => .error bad

/-- A thread access to scratch: aligned, in its class's range (R63, R94), and outside the code windows where it writes (R87);
the exception otherwise. Where several apply, MISALIGNED comes before SCRATCH_BOUNDS and that before CODE_WRITE (DESIGN CHOICE, log 83). -/
def scratchCheck (s : State) (x : Site) (a : DWord) (size align : Nat) (write : Bool) : Option (Nat × DWord) :=
  let m := s.ember x.e.val
  if a.toNat % align ≠ 0 then some (excMisaligned, a)
  else if !m.inRange (m.isBe x.t.val) a.toNat size then some (excScratchBounds, a)
  else if write && m.hitsCode a.toNat size then some (excCodeWrite, a)
  else none

/-- An effect that follows the checks of a scratch access. -/
def withScratch (x : Site) (a : DWord) (size align : Nat) (write : Bool) (strike : List Nat) (k : State → Eff) (s : State) : Eff :=
  match scratchCheck s x a size align write with
  | some (c, addr) => .exc c addr
  | none => k (s.modEmber x.e.val (Ember.strike strike))

/-- The parity fault of the thread at a site, as an effect that keeps its program counter. -/
def parityEff (x : Site) (bad : List Nat) (s : State) : Eff :=
  .stay (parityFault x.e.val x.t.val (thrAt s x).pc bad s)

/-- A loaded value of `size` bytes, extended to 64 bits (R94). -/
def extend (size : Nat) (sgn : Bool) (v : Nat) : DWord :=
  if sgn ∧ 2 ^ (8 * size - 1) ≤ v then BitVec.ofInt 64 ((v : Int) - 2 ^ (8 * size)) else BitVec.ofNat 64 v

/-- LDS: MINOR bits 1:0 the size, bit 2 the sign extension (R94). -/
def execLds (x : Site) (minor : Fin 8) (f : BitVec 52) (strike : List Nat) (s : State) : Out :=
  .next (issue x (insnWord 7 minor.val f) f [fRd f, fRa f] [] anyRoom none
    (fun s =>
      let a := (thrAt s x).sReg (fRa f) + fImm f
      let size := 2 ^ (minor.val % 4)
      withScratch x a size size false strike (fun s =>
        match loadScratch s x.e.val a.toNat size with
        | .error bad => parityEff x bad s
        | .ok v => .ok (modAt x (Thread.setS (fRd f) (extend size (decide (4 ≤ minor.val)) v)) s)) s) s)

/-- STS: a store narrower than 64 bits reads and checks its double-word first (R78, R94). -/
def execSts (x : Site) (minor : Fin 4) (f : BitVec 52) (strike : List Nat) (s : State) : Out :=
  .next (issue x (insnWord 8 minor.val f) f [fRd f, fRa f] [] anyRoom none
    (fun s =>
      let h := thrAt s x
      let a := h.sReg (fRa f) + fImm f
      let size := 2 ^ minor.val
      withScratch x a size size true strike (fun s =>
        let bad := if size < 8 then (s.ember x.e.val).mismatches a.toNat size else []
        if bad.isEmpty then .ok (storeScratch x.e.val a.toNat (leBytes size (h.sReg (fRd f)).toNat) s)
        else parityEff x bad s) s) s)

/-- The value ATOM writes: ADD, AND, OR, XOR, MINU, MAXU, XCHG, CAS with its comparand (R95). -/
def atomValue (minor : Nat) (old rb cmp : DWord) : DWord :=
  match minor with
  | 0 => old + rb
  | 1 => old &&& rb
  | 2 => old ||| rb
  | 3 => old ^^^ rb
  | 4 => if rb.toNat < old.toNat then rb else old
  | 5 => if old.toNat < rb.toNat then rb else old
  | 6 => rb
  | _ => if old = cmp then rb else old

/-- ATOM (R95). -/
def execAtom (x : Site) (minor : Fin 8) (f : BitVec 52) (strike : List Nat) (s : State) : Out :=
  .next (issue x (insnWord 9 minor.val f) f [fRd f, fRa f, fRb f] [] anyRoom (reserved (decide (fLow f = 0)))
    (fun s =>
      let h := thrAt s x
      let a := h.sReg (fRa f)
      withScratch x a 8 8 true strike (fun s =>
        match loadScratch s x.e.val a.toNat 8 with
        | .error bad => parityEff x bad s
        | .ok v =>
          let old := BitVec.ofNat 64 v
          let new := atomValue minor.val old (h.sReg (fRb f)) (h.sReg (fRd f))
          .ok (modAt x (Thread.setS (fRd f) old) (storeScratch x.e.val a.toNat (leBytes 8 new.toNat) s))) s) s)

/-! ### Descriptor transfer (R102) -/

/-- DLD: load a descriptor from the 32-byte-aligned scratch offset RA + IMM. -/
def execDld (x : Site) (f : BitVec 52) (strike : List Nat) (s : State) : Out :=
  .next (issue x (insnWord 0x0D 0 f) f [fRa f] [] anyRoom (reserved (decide (fRd f < 24)))
    (fun s =>
      let a := (thrAt s x).sReg (fRa f) + fImm f
      withScratch x a 32 32 false strike (fun s =>
        match loadScratch s x.e.val a.toNat 32 with
        | .error bad => parityEff x bad s
        | .ok v => .ok (modAt x (Thread.setDesc (fRd f) (BitVec.ofNat 256 v)) s)) s) s)

/-- DST: store a descriptor at the 32-byte-aligned scratch offset RA + IMM. -/
def execDst (x : Site) (f : BitVec 52) (s : State) : Out :=
  .next (issue x (insnWord 0x0D 1 f) f [fRa f] [] anyRoom (reserved (decide (fRd f < 24)))
    (fun s =>
      let h := thrAt s x
      let a := h.sReg (fRa f) + fImm f
      withScratch x a 32 32 true [] (fun s =>
        .ok (storeScratch x.e.val a.toNat (leBytes 32 (h.desc (fRd f)).toNat) s)) s) s)

/-- Double-word `i` of a descriptor. -/
def descWord (d : Desc) (i : Nat) : DWord := d.extractLsb' (64 * i) 64
/-- A descriptor with double-word `i` replaced. -/
def setDescWord (d : Desc) (i : Nat) (v : DWord) : Desc := withField d (64 * i + 63) (64 * i) v.toNat

/-- DSETW: write RA to double-word RB[1:0] of descriptor RD. -/
def execDsetw (x : Site) (f : BitVec 52) (s : State) : Out :=
  .next (issue x (insnWord 0x0D 2 f) f [fRa f, fRb f] [] anyRoom
    (reserved (decide (fRd f < 24) && decide (fLow f = 0)))
    (fun s =>
      let h := thrAt s x
      .ok (modAt x (Thread.setDesc (fRd f)
        (setDescWord (h.desc (fRd f)) ((h.sReg (fRb f)).toNat % 4) (h.sReg (fRa f)))) s)) s)

/-- DGETW: read double-word RB[1:0] of descriptor RA into RD. -/
def execDgetw (x : Site) (f : BitVec 52) (s : State) : Out :=
  .next (issue x (insnWord 0x0D 3 f) f [fRd f, fRb f] [] anyRoom
    (reserved (decide (fRa f < 24) && decide (fLow f = 0)))
    (fun s =>
      let h := thrAt s x
      .ok (modAt x (Thread.setS (fRd f) (descWord (h.desc (fRa f)) ((h.sReg (fRb f)).toNat % 4))) s)) s)

end Sys2Proof.Machine
end

