-- ==== Sys2Proof/Machine/Tile.lean ====
section
/-! DEFINITION. The tile engine: the matrix descriptor and its checks (R115 to R118), the elements and their scales (R117,
R120, R156), the group accumulator, promotion and the summation stack (R169 to R177). -/

namespace Sys2Proof.Machine

/-! ### Descriptors -/

/-- Bits of a descriptor's double-word. -/
def dField (d : Desc) (dw hi lo : Nat) : Nat := field (descWord d dw) hi lo

/-- A two's-complement field of `w` bits. -/
def signed (w v : Nat) : Int := if 2 ^ (w - 1) ≤ v then (v : Int) - 2 ^ w else v

/-- One operand of the matrix form (Table 5.4). -/
structure OpndDesc where
  brick : Nat
  stride : Int
  panel : Nat
  fmt : Nat
  scl : Nat
  strip : Nat
  sct : Nat
  deriving DecidableEq, Repr

/-- Operand A (double-word 0) or B (double-word 1). -/
def opndDesc (d : Desc) (dw : Nat) : OpndDesc :=
  { brick := dField d dw 63 55, stride := signed 10 (dField d dw 54 45), panel := dField d dw 44 42
    fmt := dField d dw 41 38, scl := dField d dw 37 36, strip := dField d dw 35 17, sct := dField d dw 16 5 }

/-- The matrix form (Table 5.4). -/
structure MatDesc where
  a : OpndDesc
  b : OpndDesc
  oBrick : Nat
  oPanel : Nat
  oFmt : Nat
  oSct : Nat
  amaxEn : Bool
  kSel : Nat
  tally : Nat
  epi : Nat
  klen : Nat
  escale : Word
  eOpnd : Nat
  aZp : Int
  /-- every bit marked zero is zero. -/
  zeros : Bool
  deriving DecidableEq, Repr

/-- Read the matrix form. -/
def matDesc (d : Desc) : MatDesc :=
  { a := opndDesc d 0, b := opndDesc d 1
    oBrick := dField d 2 63 55, oPanel := dField d 2 54 52, oFmt := dField d 2 51 48, oSct := dField d 2 47 36
    amaxEn := decide (dField d 2 35 35 = 1), kSel := dField d 2 34 32, tally := dField d 2 31 28
    epi := dField d 2 27 24, klen := dField d 2 23 0
    escale := BitVec.ofNat 32 (dField d 3 63 32), eOpnd := dField d 3 31 13, aZp := signed 8 (dField d 3 12 5)
    zeros := decide (dField d 0 4 0 = 0) && decide (dField d 1 4 0 = 0) && decide (dField d 3 4 0 = 0) }

/-- The promotion interval (Table 5.4). -/
def MatDesc.k (d : MatDesc) : Nat := 32 * 2 ^ d.kSel

/-- Elements of a brick row by format code (Table 3.6). -/
def rowElems (fmt : Nat) : Nat :=
  match fmt with
  | 2 => 128
  | 3 => 32
  | 5 => 16
  | _ => 64

/-- Bits of an element by format code. -/
def elemBits (fmt : Nat) : Nat :=
  match fmt with
  | 2 => 4
  | 3 => 16
  | 5 => 32
  | _ => 8

/-- The raw element at a row and column of a brick (R62). -/
def brickElem (m : Memory) (fmt : Nat) (b : Int) (row col : Nat) : Nat :=
  let base := (1024 * b).toNat + 64 * row
  match elemBits fmt with
  | 4 => let v := (m.get (base + col / 2)).toNat
         if col % 2 = 0 then v % 16 else v / 16
  | 16 => m.num (base + 2 * col) 2
  | 32 => m.num (base + 4 * col) 4
  | _ => (m.get (base + col)).toNat

/-- The place of an element: position of its brick in the sequence, row and column (R117). -/
structure ElemPos where
  j : Nat
  row : Nat
  col : Nat

/-- Where element (outer index `o`, `k`) of an operand lies: `rr` is reduction-row layout (R117). -/
def elemPos (d : OpndDesc) (rr : Bool) (e o k : Nat) : ElemPos :=
  if rr then { j := k / 16, row := k % 16, col := 16 * d.panel + o } else { j := k / e, row := o, col := k % e }

/-- The brick at position `j` of an operand's sequence. -/
def OpndDesc.brickAt (d : OpndDesc) (j : Nat) : Int := (d.brick : Int) + (j : Int) * d.stride

/-- The offset of an element's scale byte in the strip (Table 6.2): SCL 1 is ALONG, 2 ACROSS. -/
def stripOffset (rr : Bool) (scl e : Nat) (p : ElemPos) : Nat :=
  if rr = decide (scl = 1) then (if rr then p.j / 2 else p.j) * e + p.col
  else p.j * (e / 2) + e / 32 * p.row + p.col / 32

/-- Number of bricks an operand's run touches. -/
def OpndDesc.bricks (rr : Bool) (e klen : Nat) : Nat :=
  let per := if rr then 16 else e
  (klen + per - 1) / per

/-- The strip extent an operand reads: the largest offset used plus one (R156); 0 where it reads none. -/
def OpndDesc.stripLen (d : OpndDesc) (rr : Bool) (e klen : Nat) : Nat :=
  if d.scl = 1 ∨ d.scl = 2 then
    let nb := OpndDesc.bricks rr e klen
    let last : ElemPos := { j := nb - 1, row := 15, col := if rr then 16 * d.panel + 15 else (klen - 1) % e }
    stripOffset rr d.scl e last + 1
  else 0

/-- An extent of scratch: first byte and length; the first byte may lie outside scratch. -/
structure Extent where
  off : Int
  len : Nat
  deriving DecidableEq, Repr

/-- A whole brick. -/
def brickExt (b : Int) : Extent := { off := 1024 * b, len := 1024 }

/-- The bricks of a strided sequence of `n`: a stride of 0 names one, and a longer sequence than scratch has bricks leaves it. -/
def brickExts (first : Nat) (stride : Int) (n : Nat) : List Extent :=
  if stride = 0 then [brickExt first]
  else (List.range (min n 385)).map fun (j : Nat) => brickExt ((first : Int) + (j : Int) * stride)

/-- The first extent outside the class range, and the first output that meets a code window (R117, checks 3 and 4). -/
def boundsCheck (m : Ember) (be : Bool) (reads writes : List Extent) : Option (Nat × DWord) :=
  match (reads ++ writes).find? (fun x => decide (x.off < 0) || !m.inRange be x.off.toNat x.len) with
  | some x => some (excScratchBounds, BitVec.ofNat 64 x.off.toNat)
  | none => (writes.find? fun x => m.hitsCode x.off.toNat x.len).map fun x => (excCodeWrite, BitVec.ofNat 64 x.off.toNat)

/-- The pairs and scale sources of Table 5.6. -/
def pairOk (fa fb sa sb : Nat) : Bool :=
  if fa ≤ 1 ∧ fb ≤ 1 then decide (1 ≤ sa) && decide (1 ≤ sb)
  else if fa = 2 ∧ fb = 2 then (decide (sa = 1) || decide (sa = 2)) && (decide (sb = 1) || decide (sb = 2))
  else if (fa = 3 ∧ fb = 3) ∨ (fa = 4 ∧ fb = 4) then decide (sa = 0) && decide (sb = 0)
  else false

/-- The highest O_PANEL of an output format (R122); none for a format that is no output. -/
def panelMax (fmt : Nat) : Option Nat :=
  match fmt with
  | 0 => some 3
  | 1 => some 3
  | 3 => some 1
  | 5 => some 0
  | _ => none

/-- Check 2 of R117: zero bits, formats, pair, K_SEL, output fields, panels, alignment and KLEN. -/
def matOk (d : MatDesc) (cc : Nat) (ta tb : Bool) : Bool :=
  let final := decide (2 ≤ cc)
  let e := rowElems d.a.fmt
  let int8 := decide (d.a.fmt = 4)
  let panelOk (p : Nat) (rr : Bool) (e : Nat) : Bool := if rr then decide (p < e / 16) else decide (p = 0)
  let outOk :=
    decide (d.epi ≤ 5) &&
    (decide (d.oFmt = 6) || match panelMax d.oFmt with | some k => decide (d.oPanel ≤ k) | none => false) &&
    (if d.epi < 2 then decide (d.eOpnd = 0) else if d.epi < 4 then decide (d.eOpnd % 64 = 0) else decide (d.eOpnd % 1024 = 0))
  d.zeros && pairOk d.a.fmt d.b.fmt d.a.scl d.b.scl && decide (d.kSel ≤ 2) && (!final || outOk) &&
  panelOk d.a.panel ta e && panelOk d.b.panel (!tb) (rowElems d.b.fmt) &&
  (decide (d.a.stripLen ta e 32 = 0) || decide (d.a.strip % 32 = 0)) &&
  (decide (d.b.stripLen (!tb) e 32 = 0) || decide (d.b.strip % 32 = 0)) &&
  (!int8 || decide (d.b.strip % 64 = 0)) &&
  decide (d.klen ≠ 0) && decide (d.klen % d.k = 0)

/-- What an instruction reads of scratch: operand bricks, strips, column sums and the epilogue operand. -/
def matReads (d : MatDesc) (cc : Nat) (ta tb : Bool) : List Extent :=
  let e := rowElems d.a.fmt
  let strip (o : OpndDesc) (rr : Bool) : List Extent :=
    match o.stripLen rr e d.klen with | 0 => [] | n => [{ off := o.strip, len := n }]
  let final := decide (2 ≤ cc)
  brickExts d.a.brick d.a.stride (OpndDesc.bricks ta e d.klen) ++ strip d.a ta ++
  brickExts d.b.brick d.b.stride (OpndDesc.bricks (!tb) e d.klen) ++ strip d.b (!tb) ++
  (if final && decide (d.a.fmt = 4) && decide (d.aZp ≠ 0) then [{ off := d.b.strip, len := 64 }] else []) ++
  (if !final then [] else if d.epi = 2 ∨ d.epi = 3 then [{ off := d.eOpnd, len := 64 }]
   else if d.epi = 4 ∨ d.epi = 5 then [{ off := d.eOpnd, len := 1024 }] else [])

/-! ### Scale tables -/

/-- The entries of a class's scale table (R160): the count of its context's launch record. -/
def sctCount (p : Part) (be : Bool) : Nat := match p.runCtx be with | some c => c.launch.nsct | none => 0
/-- The key of an entry. -/
def sctKey (be : Bool) (i : Nat) : Nat := 4096 * b2n be + i
/-- An entry of a class's table. -/
def Part.entry (p : Part) (be : Bool) (i : Nat) : ScaleEntry := p.sct.get (sctKey be i)

/-- Fold an absolute maximum into an entry (R162). -/
def foldMax (n : Nat) (be : Bool) (i : Nat) (a : Word) (s : State) : State :=
  s.modPart n fun p => { p with sct := p.sct.upd (sctKey be i) fun e =>
    { e with runMax := if e.runMax.toNat < a.toNat then a else e.runMax } }

/-- Report a saturation to an entry (R162). -/
def foldSat (n : Nat) (be : Bool) (i : Nat) (sat : Bool) (s : State) : State :=
  if sat then s.modPart n fun p => { p with sct := p.sct.upd (sctKey be i) fun e => { e with runSat := true } } else s

/-- The instruction uses entry O_SCT (R117). -/
def MatDesc.usesOut (d : MatDesc) (cc : Nat) : Bool :=
  decide (2 ≤ cc) && (decide (d.oFmt = 0) || decide (d.oFmt = 1) || decide (d.oFmt = 6) || d.amaxEn)

/-- What the instruction takes from the scale table, with checks 5 and 6 of R117. -/
def matFix (p : Part) (be : Bool) (d : MatDesc) (cc : Nat) : Except Nat TileFix :=
  let n := sctCount p be
  let usesA := decide (d.a.scl = 3)
  let usesB := decide (d.b.scl = 3)
  let out := p.entry be d.oSct
  let ea := p.entry be d.a.sct
  let eb := p.entry be d.b.sct
  if (usesA && decide (n ≤ d.a.sct)) || (usesB && decide (n ≤ d.b.sct)) || (d.usesOut cc && decide (n ≤ d.oSct)) then
    .error excSctRange
  else if (usesA && decide (ea.fmtStep ≠ d.a.fmt)) || (usesB && decide (eb.fmtStep ≠ d.b.fmt)) then .error excTileDesc
  else
    let grad := decide (2 ≤ cc) && decide (d.oFmt = 6)
    let oFmt := if grad then out.fmtStep else d.oFmt
    let panelBad := match panelMax oFmt with | some k => decide (k < d.oPanel) | none => true
    if grad && panelBad then .error excTileDesc
    else .ok
      { aX := if usesA then (ea.scaleX.toNat : Int) - 127 else 0
        bX := if usesB then (eb.scaleX.toNat : Int) - 127 else 0
        oFmt := oFmt
        oX := if oFmt ≤ 1 then (out.scaleX.toNat : Int) - 127 else 0
        inv := 0, zp := 0 }

/-! ### The sentinel's draw (R180) -/

/-- One round of the generator (R180). -/
def sntMix (x : DWord) : DWord :=
  let z := x + 0x9E3779B97F4A7C15#64
  let z := (z ^^^ (z >>> 30)) * 0xBF58476D1CE4E5B9#64
  let z := (z ^^^ (z >>> 27)) * 0x94D049BB133111EB#64
  z ^^^ (z >>> 31)

/-- The draw for the `j`-th START or SINGLE of a thread (R180). -/
def sntDraw (s : State) (l t j : Nat) : DWord :=
  let n := s.partOf l
  sntMix (sntMix (sntMix ((s.part n).adm.jobSeed ^^^ BitVec.ofNat 64 (s.posCode (s.logicalPos n))) ^^^ (s.part n).step.count)
    ^^^ (BitVec.ofNat 64 l <<< 49 ||| BitVec.ofNat 64 t <<< 46 ||| BitVec.ofNat 64 j))

/-- The first START after a boundary takes an armed setting (R135). -/
def Sentinel.take (c : Sentinel) : Sentinel :=
  match c.armed with
  | some (n, d) => { c with n := n, drift := d, armed := none }
  | none => c

/-! ### Issue of TMMA -/

/-- A shadow's bricks (R137): the operand's layout and panel with 32 elements a row. In reduction-row layout a panel of 2 or above names columns
beyond the 32 elements of a BF16 brick row: the bytes that follow the row are read, those of the next rows (DESIGN CHOICE, log 89). -/
def shadowOpnd (o : OpndDesc) (rr : Bool) (brick : Nat) : OpndDesc :=
  { o with brick := brick, fmt := 3, scl := 0, stride := if rr then o.stride else o.stride * ((rowElems o.fmt / 32 : Nat) : Int) }

/-- The extents a pair of shadows covers. -/
def shadowExts (d : MatDesc) (ta tb : Bool) (sh : Nat × Nat) : List Extent :=
  let a := shadowOpnd d.a ta sh.1
  let b := shadowOpnd d.b (!tb) sh.2
  brickExts a.brick a.stride (OpndDesc.bricks ta 32 d.klen) ++ brickExts b.brick b.stride (OpndDesc.bricks (!tb) 32 d.klen)

/-- The chain key of an instruction (R118). -/
def chainKey (d : MatDesc) (ta tb : Bool) : ChainKey :=
  { ta := ta, tb := tb, aFmt := d.a.fmt, bFmt := d.b.fmt, aScl := d.a.scl, bScl := d.b.scl, kSel := d.kSel, aZp := d.aZp }

/-- The chain rules (R118, checks 7 and 8): the running length with this instruction, or the exception. -/
def chainLen (c : Option Chain) (key : ChainKey) (cc klen : Nat) : Except Nat Nat :=
  match c with
  | none => if cc = 0 ∨ cc = 3 then (if 2 ^ 24 < klen then .error excOperandLength else .ok klen) else .error excChain
  | some c =>
    if cc = 0 ∨ cc = 3 ∨ c.key ≠ key then .error excChain
    else if 2 ^ 24 < c.len + klen then .error excOperandLength else .ok (c.len + klen)

/-- Queue a TMMA after its checks, with the sentinel's draw of a START or SINGLE (R117, R118, R180). -/
def tmmaBody (x : Site) (cc : Nat) (ta tb : Bool) (raw : Desc) (s : State) : Eff :=
  let d := matDesc raw
  let l := x.e.val
  let h := thrAt s x
  let be := beAt s x
  let p := s.part (partAt s x)
  let dw2 := descWord raw 2
  let opening := decide (cc = 0) || decide (cc = 3)
  let snt := if opening then h.snt.take else h.snt
  let shadow := if opening && snt.drift then h.snt.shadow else none
  if !matOk d cc ta tb then .exc excTileDesc dw2
  else
    let outs := if 2 ≤ cc then [brickExt d.oBrick] else []
    let shadows := (shadow.map (shadowExts d ta tb)).getD []
    match boundsCheck (s.ember l) be (matReads d cc ta tb ++ shadows) outs with
    | some (c, a) => .exc c a
    | none =>
      match matFix p be d cc with
      | .error c => .exc c dw2
      | .ok fix =>
        let key := chainKey d ta tb
        match chainLen h.chain key cc d.klen with
        | .error c => .exc c 0
        | .ok len =>
          let draw := sntDraw s l x.t.val snt.j
          let hit := opening && decide (draw.toNat % 2 ^ snt.n = 0)
          let sample := if hit then some (field draw 35 32, field draw 39 36) else none
          let snt' := if opening then
              { snt with j := snt.j + 1, sampled := if hit then snt.sampled + 1 else snt.sampled, shadow := none }
            else snt
          let entry : TileEntry :=
            { t := x.t.val, be := be, op := .tmma cc ta tb, desc := raw, pc := h.pc, st := .queued
              sample := sample, shadow := shadow, fix := fix, len := len, upset := [], verdict := none
              seq := (s.part (partAt s x)).launched }
          let chain := if 2 ≤ cc then none else some { key := key, len := len }
          .ok (countLaunch (partAt s x) <| (modAt x (fun h => { h with chain := chain, snt := snt' }) s).modEmber l fun m =>
            { m with tileQ := m.tileQ ++ [entry] })

/-- Issue a TMMA: MINOR bits 5:4 the chain code, bit 1 TB, bit 0 TA (R117 to R119). -/
def issueTmma (x : Site) (cc : Nat) (tb ta : Bool) (f : BitVec 52) (s : State) : State :=
  issue x (insnWord 0x20 (16 * cc + 2 * b2n tb + b2n ta) f) f [] [] (tileRoom x)
    (reserved (decide (fRd f < 16) && decide (fRa f = 0) && decide (fRb f = 0) && decide (fLow f = 0)))
    (fun s => tmmaBody x cc ta tb ((thrAt s x).td.get (fRd f)) s) s

/-- TMMA with chain code START. -/
def execTmmaStart (x : Site) (tb ta : Bool) (f : BitVec 52) (s : State) : Out := .next (issueTmma x 0 tb ta f s)
/-- TMMA with chain code CONTINUE. -/
def execTmmaContinue (x : Site) (tb ta : Bool) (f : BitVec 52) (s : State) : Out := .next (issueTmma x 1 tb ta f s)
/-- TMMA with chain code FINISH. -/
def execTmmaFinish (x : Site) (tb ta : Bool) (f : BitVec 52) (s : State) : Out := .next (issueTmma x 2 tb ta f s)
/-- TMMA with chain code SINGLE. -/
def execTmmaSingle (x : Site) (tb ta : Bool) (f : BitVec 52) (s : State) : Out := .next (issueTmma x 3 tb ta f s)

/-! ### Accumulation -/

/-- An element of an operand as the array fetches it: its code, and its scale byte, 127 where no strip gives one (R117, R149). -/
def rawElem (m : Memory) (o : OpndDesc) (rr : Bool) (e outer k : Nat) : Nat × Nat :=
  let p := elemPos o rr e outer k
  (brickElem m o.fmt (o.brickAt p.j) p.row p.col,
    if o.scl = 1 ∨ o.scl = 2 then (m.get (o.strip + stripOffset rr o.scl e p)).toNat else 127)

/-- The value of an element code under its scale byte and table exponent, or none where it is a NaN for the array (R149, R150, R169). -/
def scaleElem (fmt : Nat) (tableX : Int) (x : Nat × Nat) : Option Dy :=
  if x.2 = 255 then none
  else match decElem fmt x.1 with
    | .fin _ d => some { d with e := d.e + ((x.2 : Int) - 127) + tableX }
    | _ => none

/-- A scaled element. -/
def scaledElem (m : Memory) (o : OpndDesc) (rr : Bool) (e : Nat) (tableX : Int) (outer k : Nat) : Option Dy :=
  scaleElem o.fmt tableX (rawElem m o rr e outer k)

/-- A scaled product of the array (R169). -/
def scaledProd (m : Memory) (d : MatDesc) (ta tb : Bool) (fix : TileFix) (i n k : Nat) : Option Dy :=
  match scaledElem m d.a ta (rowElems d.a.fmt) fix.aX i k, scaledElem m d.b (!tb) (rowElems d.b.fmt) fix.bX n k with
  | some a, some b => some (a.mul b)
  | _, _ => none

/-- An empty group. -/
def emptyGroup : GroupAcc := { empty := true, nan := false, g := 0, w := 0 }

/-- group_add of R170; none is a NaN element or scale. -/
def groupAdd (acc : GroupAcc) (p : Option Dy) : GroupAcc :=
  match p with
  | none => { acc with nan := true }
  | some p =>
    if p.m = 0 ∨ acc.nan then acc
    else if acc.empty then
      { acc with empty := false, w := p.log2, g := rneScale p.m (p.e - (p.log2 - 18)) }
    else
      let x := ({ m := acc.g, e := acc.w - 18 } : Dy).add p
      let w := max acc.w (if x.m = 0 then p.log2 else max p.log2 x.log2)
      let g := rneScale x.m (x.e - (w - 18))
      if g.natAbs = 2 ^ 19 then { acc with w := w + 1, g := g / 2 } else { acc with w := w, g := g }

/-- Promotion into FP32 (R173). -/
def promote (acc : GroupAcc) : FpR :=
  if acc.nan then fpNaN else rne32 { m := acc.g, e := acc.w - 18 } false

/-- twosum of R176: the rounded sum and its exact error. -/
def twoSum (a b : Word) : FpR × Word :=
  let t := fpAdd a b
  match decF a, decF b, decF t.w with
  | .fin _ u, .fin _ v, .fin _ r => if t.sat then (t, 0#32) else (t, (rne32 ((u.add v).add r.neg) false).w)
  | _, _, _ => (t, 0#32)

/-- Merge two levels with their residues (R176). -/
def mergeLevel (a b : Level) : Level × Bool :=
  let (t, e) := twoSum a.part b.part
  ({ part := t.w, res := (fpAdd (fpAdd a.res b.res).w e).w }, t.sat)

/-- Renormalise a chunk's pair (R177). Where that saturates, the residue is discarded, and the partial stands as R174 gives it. -/
def renorm (v : Level) : Level × Bool :=
  let (t, e) := twoSum v.part v.res
  if t.sat then ({ v with res := 0 }, true) else ({ part := t.w, res := e }, false)

/-- push of R174 from level `l`; `long`: the chunk is completed in long-sum mode. Once a partial of the position has saturated, its residues are
discarded, and no chunk is renormalised any more (R177). -/
def pushFrom : Nat → Nat → Bool → Level → Tab (Option Level) → Bool → Tab (Option Level) × Bool
  | 0, l, _, v, st, sat => (st.set l (some v), sat)
  | fuel + 1, l, long, v, st, sat =>
    let (v, sat) := if long && decide (l = 8) && !sat then renorm v else (v, sat)
    match st.get l with
    | none => (st.set l (some v), sat)
    | some u =>
      let (v', o) := mergeLevel u v
      pushFrom fuel (l + 1) long v' (st.set l none) (sat || o)

/-- Promote a position's group and push it (R173, R174). -/
def pushGroup (long : Bool) (p : PosAcc) : PosAcc :=
  let g := promote p.grp
  let (st, sat) := pushFrom 20 0 long { part := g.w, res := 0 } p.stack (p.sat || g.sat)
  { grp := { emptyGroup with nan := false }, stack := st, sat := sat }

/-- Promotion number `i` (from 1) of a chain is made in long-sum mode (R177). -/
def longAt (k i : Nat) : Bool := decide (2 ^ 20 / k < i)

/-- Take the run of one instruction into a position (R119). -/
def runPos (m : Memory) (d : MatDesc) (ta tb : Bool) (fix : TileFix) (taken i n : Nat) (p : PosAcc) : PosAcc :=
  (List.range d.klen).foldl (fun p k =>
    let p := { p with grp := groupAdd p.grp (scaledProd m d ta tb fix i n k) }
    let c := taken + k + 1
    if c % d.k = 0 then pushGroup (longAt d.k (c / d.k)) p else p) p

/-- A cleared position and a cleared accumulator set. -/
def posZero : PosAcc := { grp := emptyGroup, stack := Tab.const none, sat := false }
def accZero : AccSet := accFresh

/-- Take the run of one instruction into an accumulator set (R68, R119). -/
def runTile (m : Memory) (d : MatDesc) (ta tb : Bool) (fix : TileFix) (a : AccSet) : AccSet :=
  { pos := (List.range 256).foldl (fun t i => t.upd i (runPos m d ta tb fix a.taken (i / 16) (i % 16))) a.pos
    taken := a.taken + d.klen }

/-- fold of R174 over the partials alone. -/
def foldPart (st : Tab (Option Level)) : FpR :=
  let r := (List.range 20).foldl (fun (r : Option Word × Bool) l =>
    match st.get l, r.1 with
    | none, _ => r
    | some u, none => (some u.part, r.2)
    | some u, some w => let t := fpAdd u.part w; (some t.w, r.2 || t.sat)) (none, false)
  { w := r.1.getD 0, sat := r.2, nan := decide (decF (r.1.getD 0) = .nan) }

/-- The fold of long-sum mode (R177): y = rne32(t + c). -/
def foldLong (st : Tab (Option Level)) : FpR :=
  let r := (List.range 20).foldl (fun (r : Option Level × Bool) l =>
    match st.get l, r.1 with
    | none, _ => r
    | some u, none => (some u, r.2)
    | some u, some w => let (t, o) := mergeLevel u w; (some t, r.2 || o)) (none, false)
  match r.1 with
  | none => { w := 0, sat := false, nan := false }
  | some v => let t := fpAdd v.part v.res; { t with sat := t.sat || r.2 }

/-- The FP32 total of a position (R174, R177): a saturated partial discards the residues. -/
def posTotal (long : Bool) (p : PosAcc) : FpR :=
  let short := foldPart p.stack
  let r := if long && !p.sat then (let y := foldLong p.stack; if y.sat then { short with sat := true } else y) else short
  { r with sat := r.sat || p.sat }

end Sys2Proof.Machine
end

