-- ==== Sys2Proof/Machine/Quant.lean ====
section
/-! DEFINITION. TQNT: the quantise descriptor and its checks (R125 to R127, R159), rotation, block scales and the recipes
(R155 to R158, R166, R167), and the boundary rule of a scale-table entry (R161, R163). -/

namespace Sys2Proof.Machine

/-- The quantise form (Table 5.8). -/
structure QuantDesc where
  iBrick : Nat
  iStride : Int
  iFmt : Nat
  qBrick : Nat
  qStride : Int
  strip : Nat
  nBrick : Nat
  down : Bool
  sct : Nat
  amaxEn : Bool
  tally : Nat
  zeros : Bool
  deriving DecidableEq, Repr

/-- Read the quantise form. -/
def quantDesc (d : Desc) : QuantDesc :=
  { iBrick := dField d 0 63 55, iStride := signed 10 (dField d 0 54 45), iFmt := dField d 0 44 41
    qBrick := dField d 1 63 55, qStride := signed 10 (dField d 1 54 45), strip := dField d 1 44 26
    nBrick := dField d 2 63 55, down := decide (dField d 2 54 54 = 1), sct := dField d 2 53 42
    amaxEn := decide (dField d 2 41 41 = 1), tally := dField d 2 31 28
    zeros := decide (dField d 0 40 0 = 0) && decide (dField d 1 25 0 = 0) && decide (dField d 2 40 32 = 0) &&
      decide (dField d 2 27 0 = 0) && decide (dField d 3 63 0 = 0) }

/-- The length of a rotation run (R126): code 0 is none. -/
def rotRun (rot : Nat) : Nat := match rot with | 1 => 32 | 2 => 64 | 3 => 128 | _ => 1

/-- The output format code of a recipe, given entry SCT's format (Table 5.9). -/
def recipeFmt (recipe fmtStep : Nat) : Nat :=
  match recipe with
  | 2 => fmtStep
  | 3 => 2
  | 4 => 2
  | 6 => 4
  | 7 => 4
  | _ => 0

/-- The recipes that write a scale strip. -/
def recipeStrips (recipe : Nat) : Bool := decide (recipe ≠ 2) && decide (recipe < 6)

/-- The recipe reads entry SCT (R127). -/
def recipeEntry (recipe : Nat) : Bool := decide (recipe = 2) || decide (6 ≤ recipe)

/-- Input elements in a brick row. -/
def QuantDesc.w (d : QuantDesc) : Nat := if d.iFmt = 5 then 16 else 32

/-- Check 2 of R117 for TQNT (R125, R159); `eo` is the number of elements of an output row. -/
def quantOk (d : QuantDesc) (recipe rot eo : Nat) : Bool :=
  d.zeros && (decide (d.iFmt = 5) || decide (d.iFmt = 3)) && decide (1 ≤ d.nBrick) && decide (d.nBrick ≤ 384) &&
  (!d.down || decide (d.nBrick % 2 = 0)) && (!recipeStrips recipe || decide (d.strip % 32 = 0)) &&
  decide ((if d.down then d.nBrick * 16 else d.nBrick * eo) % rotRun rot = 0)

/-- A recipe allows a rotation (Table 5.9). -/
def rotAllowed (recipe rot : Nat) : Bool := decide (rot = 0) || decide (recipe = 1) || decide (recipe = 4)

/-- Queue a TQNT after its checks (R117, R126, R127, R166). A recipe G whose entry lies outside the table, or holds no output format, gives no
number of elements of an output row, so its input bricks are not checked before SCT_RANGE or TILE_DESC is raised (DESIGN CHOICE, log 90). -/
def tqntBody (x : Site) (recipe rot : Nat) (raw : Desc) (s : State) : Eff :=
  let d := quantDesc raw
  let h := thrAt s x
  let be := beAt s x
  let p := s.part (partAt s x)
  let dw2 := descWord raw 2
  let ent := p.entry be d.sct
  let inTable := decide (d.sct < sctCount p be)
  let fmt := recipeFmt recipe (if inTable then ent.fmtStep else 4)
  let eo := rowElems fmt
  if !quantOk d recipe rot eo then .exc excTileDesc dw2
  else
    let known := decide (recipe ≠ 2) || (inTable && (decide (fmt ≤ 1) || decide (fmt = 3)))
    let ins := if known then brickExts d.iBrick d.iStride (d.nBrick * eo / d.w) else []
    let outs := brickExts d.qBrick d.qStride d.nBrick ++
      (if recipeStrips recipe then [{ off := d.strip, len := d.nBrick * (eo / 2) }] else [])
    match boundsCheck (s.ember x.e.val) be ins outs with
    | some (c, a) => .exc c a
    | none =>
      if (recipeEntry recipe || d.amaxEn) && !inTable then .exc excSctRange dw2
      else if !known || (decide (6 ≤ recipe) && decide (ent.kind ≠ 4)) then .exc excTileDesc dw2
      else
        let fix : TileFix := { aX := 0, bX := 0, oFmt := fmt, oX := (ent.scaleX.toNat : Int) - 127
                               inv := ent.int8Inv, zp := ent.zp.toInt }
        let entry : TileEntry :=
          { t := x.t.val, be := be, op := .tqnt recipe rot, desc := raw, pc := h.pc, st := .queued
            sample := none, shadow := none, fix := fix, len := 0, upset := [], verdict := none
            seq := (s.part (partAt s x)).launched }
        .ok (countLaunch (partAt s x) <| s.modEmber x.e.val fun m => { m with tileQ := m.tileQ ++ [entry] })

/-- TQNT (R125 to R127): MINOR bits 2:0 the recipe, bits 4:3 the rotation. A MINOR whose rotation its recipe does not allow raises
ILLEGAL_OPCODE whatever the guard (R86, R126). -/
def execTqnt (x : Site) (rot : Fin 4) (recipe : Fin 8) (f : BitVec 52) (s : State) : Out :=
  .next (issue x (insnWord 0x21 (8 * rot.val + recipe.val) f) f [] [] (tileRoom x)
    (if !rotAllowed recipe.val rot.val then some excIllegalOpcode
      else reserved (decide (fRd f < 16) && decide (fRa f = 0) && decide (fRb f = 0) && decide (fLow f = 0)))
    (fun s => tqntBody x recipe.val rot.val ((thrAt s x).td.get (fRd f)) s) s)

/-! ### Execution -/

/-- A value on its way through TQNT, with the flags it has gathered. -/
structure QRun where
  sat : Bool
  nan : Bool
  vals : List Word
  deriving DecidableEq, Repr

/-- One butterfly pass over a run: pairs at distance `h`, sums and differences (R126). -/
def butterfly (h : Nat) (vs : List Word) : List FpR :=
  (List.range vs.length).map fun i =>
    if i / h % 2 = 0 then fpAdd (vs.getD i 0) (vs.getD (i + h) 0) else fpSub (vs.getD (i - h) 0) (vs.getD i 0)

/-- rotate of R126 from distance `h`, doubling. -/
def rotateFrom : Nat → Nat → QRun → QRun
  | 0, _, r => r
  | fuel + 1, h, r =>
    if r.vals.length ≤ h then r
    else
      let out := butterfly h r.vals
      rotateFrom fuel (2 * h)
        { sat := r.sat || out.any (·.sat), nan := r.nan || out.any (·.nan), vals := out.map (·.w) }

/-- Cut a list into pieces of `n`. -/
def pieces {α : Type} (n : Nat) : Nat → List α → List (List α)
  | 0, _ => []
  | k + 1, xs => xs.take n :: pieces n k (xs.drop n)

/-- Rotate every run of a sequence (R159). -/
def rotateSeq (run : Nat) (vs : List Word) : QRun :=
  if run ≤ 1 then { sat := false, nan := false, vals := vs }
  else
    let rs := (pieces run (vs.length / run) vs).map fun p => rotateFrom 8 1 { sat := false, nan := false, vals := p }
    { sat := rs.any (·.sat), nan := rs.any (·.nan), vals := rs.flatMap (·.vals) }

/-- The block scale exponent (R157) for the largest finite magnitude `a` and target G·2^p as a dyadic value. -/
def blockX (a mf : Dy) : Int :=
  if a.m = 0 then 0
  else
    let e := a.log2
    let p := mf.log2
    let x := e - p
    max (if a.le { mf with e := mf.e + x } then x else x + 1) (-127)

/-- The largest finite magnitude of a block (R157). -/
def blockMax (vs : List Word) : Dy :=
  vs.foldl (fun (a : Dy) x =>
    match decF x with
    | .fin _ v => let u : Dy := { v with m := (v.m.natAbs : Int) }; if a.le u then u else a
    | _ => a) { m := 0, e := 0 }

/-- M_f of a current-scaling recipe (R157). -/
def recipeMax (recipe : Nat) : Dy :=
  match recipe with
  | 3 => { m := 6, e := 0 }
  | 4 => { m := 6, e := 0 }
  | 5 => { m := 15, e := -1 }
  | _ => { m := 448, e := 0 }

/-- Quantised elements: codes in order, the strip byte of each block, flags. -/
structure QOut where
  codes : List Nat
  strips : List Nat
  sat : Bool
  nan : Bool
  deriving DecidableEq, Repr

/-- Convert an element of a W6 block: an E2M3 value, saturating at ±7.5, in an E4M3 brick (Table 5.9, R152, R157; DEDUCED, log 16). -/
def convertW6 (v : Num) (x : Int) : Nat × Bool :=
  match v with
  | .nan => (nanCode 0, false)
  | v => let c := convertTo 6 fmtE2M3 v x
         (widenCode c.1, c.2)

/-- Quantise one 32-block of a current-scaling recipe (R157, R158). -/
def quantBlock (recipe fmt : Nat) (vs : List Word) : QOut :=
  let f := (fmtOfCode fmt).getD fmtE4M3
  let x := blockX (blockMax vs) (recipeMax recipe)
  let nan := vs.any fun v => decide (decF v = .nan)
  let cs := vs.map fun v => if recipe = 5 then convertW6 (decF v) x else convertTo fmt f (decF v) x
  { codes := cs.map (·.1), strips := [if nan then 255 else (x + 127).toNat], sat := cs.any (·.2), nan := nan }

/-- Quantise one element of recipe G (R166). -/
def quantG (fmt : Nat) (x : Int) (v : Word) : Nat × Bool := convertTo fmt ((fmtOfCode fmt).getD fmtE4M3) (decF v) x

/-- Quantise one element of I8W or I8A (R167). -/
def quantI8 (act : Bool) (inv : Word) (zp : Int) (v : Word) : Nat × Bool :=
  let z := if act then zp else 0
  let lo : Int := if act then -128 else -127
  let code (q : Int) : Nat := (q % 256).toNat
  match decF v with
  | .nan => (code z, false)
  | _ =>
    match decF (fpMul v inv).w with
    | .fin _ d =>
      let q := rneScale d.m d.e + z
      if q < lo then (code lo, true) else if 127 < q then (code 127, true) else (code q, false)
    | _ => (code z, false)

/-- Quantise a sequence (R158, R166, R167). -/
def quantSeq (recipe : Nat) (fix : TileFix) (vs : List Word) : QOut :=
  if recipeStrips recipe then
    let bs := (pieces 32 (vs.length / 32) vs).map (quantBlock recipe fix.oFmt)
    { codes := bs.flatMap (·.codes), strips := bs.flatMap (·.strips), sat := bs.any (·.sat), nan := bs.any (·.nan) }
  else
    let cs := vs.map fun v => if recipe = 2 then quantG fix.oFmt fix.oX v
      else quantI8 (decide (recipe = 7)) fix.inv fix.zp v
    { codes := cs.map (·.1), strips := [], sat := cs.any (·.2), nan := vs.any fun v => decide (decF v = .nan) }

/-- Element `i` of the input as an FP32 word (R125). -/
def quantIn (m : Memory) (d : QuantDesc) (eo q i c : Nat) : Word :=
  let b := (d.iBrick : Int) + ((q * (eo / d.w) + c / d.w : Nat) : Int) * d.iStride
  let v := brickElem m d.iFmt b i (c % d.w)
  if d.iFmt = 3 then BitVec.ofNat 32 (v * 65536) else BitVec.ofNat 32 v

/-- The place (output brick, row, column) of element `p` of sequence `k` (R159). -/
def quantPlace (d : QuantDesc) (eo k p : Nat) : Nat × Nat × Nat :=
  if d.down then (p / 16, p % 16, k) else (p / eo, k, p % eo)

/-- The sequences of a TQNT and the length of each. -/
def quantSeqs (d : QuantDesc) (eo : Nat) : Nat × Nat := if d.down then (eo, 16 * d.nBrick) else (16, eo * d.nBrick)

/-- Write an element into a brick (R62). -/
def putElem (m : Memory) (fmt : Nat) (b : Int) (row col v : Nat) : Memory :=
  let base := (1024 * b).toNat + 64 * row
  match elemBits fmt with
  | 4 =>
    let a := base + col / 2
    let old := (m.get a).toNat
    m.put a (BitVec.ofNat 8 (if col % 2 = 0 then old / 16 * 16 + v % 16 else old % 16 + 16 * (v % 16)))
  | 16 => m.write (base + 2 * col) (leBytes 2 v)
  | 32 => m.write (base + 4 * col) (leBytes 4 v)
  | _ => m.put (base + col) (BitVec.ofNat 8 v)

/-- The offset of a block's strip byte (R155). -/
def quantStrip (d : QuantDesc) (eo k blk : Nat) : Nat :=
  if d.down then d.strip + blk * eo + k
  else
    let (q, i, c) := quantPlace d eo k (32 * blk)
    d.strip + q * (eo / 2) + eo / 32 * i + c / 32

/-- What a TQNT writes and folds. -/
structure QResult where
  mem : Memory
  amax : Word
  sat : Bool
  nan : Bool
  deriving DecidableEq, Repr

/-- Run a TQNT over scratch (R125 to R127, R155 to R159): rotation, block maxima, conversion, strips. The input is read
whole before the output is written. -/
def runQuant (m0 : Memory) (d : QuantDesc) (recipe rot : Nat) (fix : TileFix) : QResult :=
  let eo := rowElems fix.oFmt
  let (ns, len) := quantSeqs d eo
  (List.range ns).foldl (fun r k =>
    let ins := (List.range len).map fun p => let (q, i, c) := quantPlace d eo k p; quantIn m0 d eo q i c
    let rt := rotateSeq (rotRun rot) ins
    let out := quantSeq recipe fix rt.vals
    let mem := (out.codes.zipIdx).foldl (fun m (v, p) =>
      let (q, i, c) := quantPlace d eo k p
      putElem m fix.oFmt ((d.qBrick : Int) + (q : Int) * d.qStride) i c v) r.mem
    let mem := (out.strips.zipIdx).foldl (fun m (v, b) => m.put (quantStrip d eo k b) (BitVec.ofNat 8 v)) mem
    let a := absMax rt.vals
    { mem := mem, amax := if r.amax.toNat < a.toNat then a else r.amax, sat := r.sat || rt.sat || out.sat
      nan := r.nan || rt.nan || out.nan || ins.any fun v => decide (decF v = .nan) })
    { mem := m0, amax := 0, sat := false, nan := false }

/-- The double-words of scratch that a TQNT reads and whose parity mismatches. -/
def quantBad (m : Ember) (d : QuantDesc) (eo : Nat) : List Nat :=
  m.badParity.filter fun w => (brickExts d.iBrick d.iStride (d.nBrick * eo / d.w)).any fun x =>
    decide (x.off ≤ 8 * (w : Int)) && decide (8 * (w : Int) < x.off + (x.len : Int))

/-- The double-words that output extents cover have their parity written (R78). -/
def cleanParity (xs : List Extent) (bad : List Nat) : List Nat :=
  bad.filter fun w => !(xs.any fun x => decide (x.off ≤ 8 * (w : Int)) && decide (8 * (w : Int) < x.off + (x.len : Int)))

/-- Rising order. -/
def sortNat (xs : List Nat) : List Nat := xs.foldr (fun x ys => ys.takeWhile (· < x) ++ x :: ys.dropWhile (· < x)) []

/-- OR tile flags (SENT, LONG, NAN, SAT in bits 3:0) into a thread's status word and its ember's flags (R124). -/
def orFlags (l t : Nat) (fl : Nat) (s : State) : State :=
  (s.modThread l t fun h => { h with tsw := h.tsw ||| BitVec.ofNat 64 fl }).modEmber l fun m =>
    { m with flags := m.flags ||| BitVec.ofNat 4 fl }

/-- Remove the executing tile instruction from the queue (R69). -/
def popTile (l : Nat) (s : State) : State :=
  returnBe (s.partOf l) (s.modEmber l fun m => { m with tileQ := m.tileQ.filter fun e => decide (e.st ≠ .active) })

/-- The executing tile instruction of an ember. -/
def Ember.activeTile (m : Ember) : Option TileEntry := m.tileQ.find? fun e => decide (e.st = .active)

/-- TQNT_COMPLETE: the executing TQNT has written its last brick and strip byte, sets its flags and increments its tally
(R127). `strike` flips parity bits of scratch before its reads (R78). -/
def execTqntComplete (l : EmberId) (strike : List Nat) (s : State) : Out :=
  .next (match (s.ember l.val).activeTile with
  | some e =>
    match e.op with
    | .tqnt recipe rot =>
      let d := quantDesc e.desc
      let s := s.modEmber l.val (Ember.strike strike)
      let bad := sortNat (quantBad (s.ember l.val) d (rowElems e.fix.oFmt))
      let s := popTile l.val s
      if !bad.isEmpty then parityFault l.val e.t e.pc bad s
      else
        let r := runQuant (s.ember l.val).scratch d recipe rot e.fix
        let n := s.partOf l.val
        let outs := brickExts d.qBrick d.qStride d.nBrick ++
          (if recipeStrips recipe then [{ off := d.strip, len := d.nBrick * (rowElems e.fix.oFmt / 2) }] else [])
        let s := s.modEmber l.val fun m => { m with scratch := r.mem, badParity := cleanParity outs m.badParity }
        let s := if d.amaxEn then foldMax n e.be d.sct r.amax s else s
        let s := foldSat n e.be d.sct (r.sat && recipeEntry recipe) s
        tallyAdd l.val e.t d.tally 1 (orFlags l.val e.t (b2n r.sat + 2 * b2n r.nan) s)
    | _ => s
  | none => s)

/-! ### The scale table at a boundary (R160 to R165) -/

/-- hist_code of R160: the exponent of the smallest power of two not below an absolute maximum. -/
def histCode (a : Word) : Byte :=
  match decF a with
  | .fin _ v =>
    if v.m = 0 then 0
    else
      let m := v.m.natAbs
      let c := (Nat.log2 m : Int) + v.e + (if 2 ^ Nat.log2 m = m then 0 else 1) + 127
      BitVec.ofInt 8 (max 1 (min c 254))
  | _ => 254

/-- fix of R163. -/
def ScaleEntry.fix (e : ScaleEntry) : ScaleEntry :=
  let h := e.hist.foldl (fun a b => max a b.toNat) 0
  let l := e.hist.foldl (fun a b => if b.toNat = 0 then a else if a = 0 then b.toNat else min a b.toNat) 0
  let x (k : Nat) : Byte := BitVec.ofNat 8 (h - k)
  match e.kind with
  | 1 =>
    if e.satHist ≠ 0 ∨ h = 0 then { e with fmtStep := 3, scaleX := 127 }
    else if h - l ≤ 4 then { e with fmtStep := 0, scaleX := x 7 }
    else { e with fmtStep := 1, scaleX := x 14 }
  | 2 => { e with fmtStep := 0, scaleX := if h = 0 then 127 else x 7 }
  | 3 => { e with fmtStep := 1, scaleX := if h = 0 then 127 else x 14 }
  | 4 => { e with fmtStep := 4, scaleX := 127 }
  | _ => { e with fmtStep := 5, scaleX := 127 }

/-- Clear the running part (R163, R164). -/
def ScaleEntry.clearRun (e : ScaleEntry) : ScaleEntry := { e with runMax := 0, runSat := false }

/-- boundary of R163. -/
def ScaleEntry.boundary (e : ScaleEntry) : ScaleEntry :=
  ({ e with
      hist := (histCode e.runMax :: e.hist).take 16
      satHist := BitVec.ofNat 4 (2 * e.satHist.toNat + b2n e.runSat)
      lastAmax := e.runMax } : ScaleEntry).fix.clearRun

/-- An entry as created from a launch record (R161). -/
def ScaleEntry.create (kind : Nat) (int8S : Word) (zp : Byte) : ScaleEntry :=
  ({ kind := kind
     int8S := if kind = 4 then int8S else 0
     zp := if kind = 4 then zp else 0
     int8Inv := (fpRecip (if kind = 4 then int8S else 0)).w
     hist := List.replicate 16 0, satHist := 0, lastAmax := 0, fmtStep := 5, scaleX := 127
     runMax := 0, runSat := false } : ScaleEntry).fix

/-- Change every entry of a class's scale table. -/
def Part.mapSct (be : Bool) (g : ScaleEntry → ScaleEntry) (p : Part) : Part :=
  { p with sct := (List.range (sctCount p be)).foldl (fun t i => t.upd (sctKey be i) g) p.sct }

/-- The four double-words of an entry's fixed part (Table 6.3). -/
def ScaleEntry.word (e : ScaleEntry) (i : Nat) : DWord :=
  match i with
  | 0 => BitVec.ofNat 64 (e.lastAmax.toNat * 2 ^ 32 + e.zp.toNat * 2 ^ 24 + e.scaleX.toNat * 2 ^ 16 +
      e.satHist.toNat * 2 ^ 12 + e.fmtStep * 2 ^ 8 + e.kind)
  | 1 => BitVec.ofNat 64 (e.int8Inv.toNat * 2 ^ 32 + e.int8S.toNat)
  | 2 => BitVec.ofNat 64 (leNat (e.hist.take 8))
  | _ => BitVec.ofNat 64 (leNat (e.hist.drop 8))

end Sys2Proof.Machine
end

