-- ==== Sys2Proof/Machine/Span.lean ====
section
/-! DEFINITION. The span of warm parity (R294 to R298): data, parity and image units, versions of a unit, the boundary image of
Table 13.2 and the heap metadata areas (R213). -/

namespace Sys2Proof.Machine

/-- The unit of member `j` in stripe `q` holds P (Table 13.1). -/
def isPUnit (q j : Nat) : Bool := decide (q % 8 = j)
/-- The unit of member `j` in stripe `q` holds Q (Table 13.1): WP_MODE PQ alone. -/
def isQUnit (mode q j : Nat) : Bool := decide (mode = 2) && decide ((q + 1) % 8 = j)

/-- Unit `q` is a parity unit of member `j` under a mode (Table 13.1): WP_MODE OFF has none. -/
def holdsParity (mode q j : Nat) : Bool := decide (mode ≠ 0) && (isPUnit q j || isQUnit mode q j)

/-- Unit `q` of partition `n` is a parity unit (R295). -/
def isParityUnit (s : State) (n q : Nat) : Bool := holdsParity (s.part n).rl.mode q (s.memberOf n)

/-- The data units of a partition's member, ascending. -/
def dataUnits (s : State) (n : Nat) : List Nat :=
  let r := (s.part n).rl
  (List.range r.units).filter fun q => !isParityUnit s n q

/-- The image units: the first WP_IMG data units (R297). -/
def imageUnits (s : State) (n : Nat) : List Nat := (dataUnits s n).take (s.part n).rl.img

/-- The parity units that the partition's member holds. -/
def parityUnits (s : State) (n : Nat) : List Nat :=
  let r := (s.part n).rl
  (List.range r.units).filter fun q => isParityUnit s n q

/-- The frame of a unit's kept version, and of its live version (R298). -/
def Relight.keptFrame (r : Relight) (q : Nat) : Nat := (r.kept.get q).getD (r.first + q)
def Relight.liveFrameOf (r : Relight) (q : Nat) : Nat := (r.live.get q).getD (r.first + q)

/-- Bytes of a frame. -/
def frameBytes (s : State) (n f : Nat) : List Byte := (s.plain n).read (f * pageBytes) pageBytes

/-- The device's own write of bytes into a frame: a part of a line is read and checked first, and what it fails is the partition's own, as for the
Sweep (R224, R225, R238). -/
def deviceWrite (n f off : Nat) (bs : List Byte) (s : State) : State := (putHbm n (f * pageBytes + off) bs .sweep s).1

/-- A write to unit `q` by the device, or by an outside master, stalls: it counts once in WP_STALL_CNT (R298). -/
def stallOnce (n q : Nat) (outside : Bool) (s : State) : State :=
  if (q, outside) ∈ (s.part n).rl.stalled then s
  else countStall n (s.modPart n fun p => { p with rl := { p.rl with stalled := p.rl.stalled ++ [(q, outside)] } })

/-- A write to unit `q` stalls no more. -/
def stallEnds (n q : Nat) (outside : Bool) (s : State) : State :=
  s.modPart n fun p => { p with rl := { p.rl with stalled := p.rl.stalled.filter fun e => decide (e ≠ (q, outside)) } }

/-- Make a unit writable (R298): where it has not moved since B_k, its kept frame is read through the checks and copied to a pool frame. False
while B_k is not job-sealed or the pool is empty, which stalls the write, while the frame's counters are used up (R227), or where a line fails. -/
def prepUnit (n q : Nat) (r : Reader) (s : State) : State × Bool :=
  let l := (s.part n).rl
  let out := decide (r = .outside)
  if l.live.get q ≠ l.kept.get q then (if s.frameFull n (l.liveFrameOf q) then (s, false) else (stallEnds n q out s, true))
  else if !l.jobSealed then (stallOnce n q out s, false)
  else match l.pool with
    | [] => (stallOnce n q out (poolShort n s), false)
    | f :: rest =>
      if s.frameFull n f then (s, false)
      else match readChecked n (l.keptFrame q * pageBytes) pageBytes r s with
        | (s, none) => (s, false)
        | (s, some bs) =>
          (fillFrame n f bs ((stallEnds n q out s).modPart n fun p => { p with rl := { p.rl with
            pool := rest, live := p.rl.live.set q (some f) } }), true)

/-- Make several units writable. -/
def prepUnits (n : Nat) : List Nat → State → State × Bool
  | [], s => (s, true)
  | q :: qs, s => match prepUnit n q .sweep s with
    | (s, false) => (s, false)
    | (s, true) => prepUnits n qs s

/-! ### The boundary image -/

/-- The mapped pages, in ascending page number. -/
def mappedPages (p : Part) : List (Nat × Page) := p.mem.pages.items.filterMap fun (k, e) => e.map fun e => (k, e)

/-- The participant of a group that stands for it: the lowest listed thread of the first listed ember. -/
def groupFirst (g : Group) : Option (Nat × Nat) :=
  g.pairs.findSome? fun (e, m) => ((List.range 8).find? fun t => m.getLsbD t).map fun t => (e, t)

/-- The count that a class's group holds on the module (R141). -/
def groupCount (s : State) (n : Nat) (be : Bool) (g : Nat) : Nat :=
  match (s.part n).runCtx be with
  | none => 0
  | some c => match groupFirst (c.launch.groups.get g) with
    | some (e, t) => (s.thread e t).collCount.get g
    | none => 0

/-- Give every participant of a class's group one count (R303). -/
def setGroupCount (n : Nat) (be : Bool) (g count : Nat) (s : State) : State :=
  match (s.part n).runCtx be with
  | none => s
  | some c => (c.launch.groups.get g).pairs.foldl (fun s (e, m) =>
      (List.range 8).foldl (fun s t => if m.getLsbD t then
        s.modThread e t fun h => { h with collCount := h.collCount.set g count } else s) s) s

/-- A page record of the image (Table 13.2): a page on a span unit carries IN_SPAN and its frame. -/
def pageRecord (p : Part) (k : Nat) (e : Page) : List Byte :=
  let f : Option Nat := match e.loc with
    | .frame f => if (p.unitOf f).isSome then some f else none
    | .banked _ => none
  leBytes 4 k ++ leBytes 4 e.mobj.toNat ++ leBytes 4 (b2n e.w + 2 * b2n e.pin + 4 * b2n f.isSome) ++ leBytes 4 (f.getD 0)

/-- Bytes of an image with a number of scale entries and pages (R297). -/
def imageLen (nsct npage : Nat) : Nat := 17440 + 32 * nsct + 16 * npage

/-- The boundary image of a partition (Table 13.2). -/
def boundaryImage (s : State) (n : Nat) : List Byte :=
  let p := s.part n
  let nsct := sctCount p false
  let pages := mappedPages p
  leBytes 8 p.step.count.toNat ++ leBytes 4 p.epoch.toNat ++ leBytes 4 p.tree.lineage.toNat ++ leBytes 4 nsct ++
    leBytes 4 pages.length ++ leBytes 8 0 ++
    ([false, true].flatMap fun be => (List.range 64).flatMap fun g => leBytes 8 (groupCount s n be g)) ++
    ((List.range 4096).flatMap fun k => leBytes 4 (p.sems.get k).word.toNat) ++
    ((List.range nsct).flatMap fun i => (List.range 4).flatMap fun w => leBytes 8 ((p.entry false i).word w).toNat) ++
    pages.flatMap fun (k, e) => pageRecord p k e

/-- The units that the image of a partition fills. -/
def imageFill (s : State) (n : Nat) : List Nat :=
  let p := s.part n
  (imageUnits s n).take ((imageLen (sctCount p false) (mappedPages p).length + pageBytes - 1) / pageBytes)

/-- Write the image into the units, in ascending `q`. -/
def writeImage (n : Nat) : List Nat → List Byte → State → State
  | [], _, s => s
  | q :: qs, bs, s =>
    writeImage n qs (bs.drop pageBytes) (deviceWrite n ((s.part n).rl.liveFrameOf q) 0 (bs.take pageBytes) s)

/-- The bytes of the image that the kept versions hold, up to a length. -/
def keptImage (s : State) (n : Nat) : List Byte :=
  ((imageUnits s n).flatMap fun q => frameBytes s n ((s.part n).rl.keptFrame q))

/-- The lines of the image that the kept versions hold pass their checks (R229). -/
def imageChecked (n : Nat) (s : State) : State × Bool :=
  (imageUnits s n).foldl (fun (acc : State × Bool) q =>
    if acc.2 then checkLines n ((acc.1.part n).rl.keptFrame q * pageBytes) pageBytes .sweep acc.1 else acc) (s, true)

/-- A scale-table entry from its fixed part (Table 6.3), with an empty running part. -/
def ScaleEntry.ofWords (a b c d : Nat) : ScaleEntry :=
  { kind := a % 256, int8S := BitVec.ofNat 32 b, zp := BitVec.ofNat 8 (a / 2 ^ 24), int8Inv := BitVec.ofNat 32 (b / 2 ^ 32)
    hist := leBytes 8 c ++ leBytes 8 d, satHist := BitVec.ofNat 4 (a / 2 ^ 12), lastAmax := BitVec.ofNat 32 (a / 2 ^ 32)
    fmtStep := a / 256 % 16, scaleX := BitVec.ofNat 8 (a / 2 ^ 16), runMax := 0, runSat := false }

/-- Apply an image (R303): step counter, LC collective counts, LC semaphores and scale-table fixed parts. -/
def applyImage (n : Nat) (img : List Byte) (s : State) : State :=
  let nsct := leAt img 16 4
  let s := s.modPart n fun p => { p with
    step := { p.step with count := BitVec.ofNat 64 (leAt img 0 8) }
    sems := (List.range 4096).foldl (fun t k => t.set k { word := BitVec.ofNat 32 (leAt img (1056 + 4 * k) 4), waiters := [] }) p.sems
    sct := (List.range nsct).foldl (fun t i =>
      let w (j : Nat) : Nat := leAt img (17440 + 32 * i + 8 * j) 8
      t.set (sctKey false i) (ScaleEntry.ofWords (w 0) (w 1) (w 2) (w 3))) p.sct }
  (List.range 64).foldl (fun s g => setGroupCount n false g (leAt img (32 + 8 * g) 8) s) s

/-! ### Heap metadata (R213) -/

/-- The 2-bit code of a minimum block in the metadata area: 0 no first block, else the state of the block that begins there.
DESIGN CHOICE (log 20): the spec gives the area 2 bits per minimum block and no code. -/
def BlockSt.code : BlockSt → Nat
  | .free => 1 | .allocated => 2 | .pending => 3

/-- The frame and offset that a device-virtual address of a partition reaches. -/
def Part.place (p : Part) (a : Nat) : Option (Nat × Nat) :=
  match p.translate a false with
  | .frame f => some (f, a % pageBytes)
  | _ => none

/-- The units that the metadata area of a heap lies on. -/
def metaUnits (p : Part) (h : Heap) (base : Nat) : List Nat :=
  if h.len = 0 then []
  else
    let bytes := (h.len / h.minBlock + 3) / 4
    (List.range ((base % pageBytes + bytes + pageBytes - 1) / pageBytes)).filterMap fun i =>
      ((p.place ((base / pageBytes + i) * pageBytes)).bind fun (f, _) => p.unitOf f)

/-- The bytes of the metadata area that are not zero, by offset. -/
def metaBytes (h : Heap) : List (Nat × Nat) :=
  h.blocks.foldl (fun m b =>
    let i := b.off / h.minBlock
    let v := b.st.code * 4 ^ (i % 4)
    match m with
    | (o, w) :: rest => if o = i / 4 then (o, w + v) :: rest else (i / 4, v) :: m
    | [] => [(i / 4, v)]) []

/-- Write a heap's metadata area: every frame it lies on is cleared there first. -/
def writeMeta (n : Nat) (h : Heap) (base : Nat) (s : State) : State :=
  if h.len = 0 then s
  else
    let bytes := (h.len / h.minBlock + 3) / 4
    let s := (List.range ((base % pageBytes + bytes + pageBytes - 1) / pageBytes)).foldl (fun s i =>
      let lo := if i = 0 then base else (base / pageBytes + i) * pageBytes
      let hi := min (base + bytes) ((base / pageBytes + i + 1) * pageBytes)
      match (s.part n).place lo with
      | some (f, o) =>
        let pa := (s.part n).liveFrame f * pageBytes + o
        let s := (s.changedIn n pa (hi - lo)).foldl (fun s l => if (s.badOf n l).isNone then takeLine n l s else s) s
        s.modPart n fun p => { p with mem := { p.mem with hbm := p.mem.hbm.clear pa (pa + (hi - lo)) } }
      | none => s) s
    (metaBytes h).foldl (fun s (o, v) =>
      match (s.part n).place (base + o) with
      | some (f, o) => deviceWrite n ((s.part n).liveFrame f) o [BitVec.ofNat 8 v] s
      | none => s) s

/-- The blocks that a metadata area's codes give, from the first minimum block on. -/
def readBlocks (codes : List (Nat × Nat)) (len minBlock : Nat) : List Block :=
  match codes with
  | [] => []
  | (i, c) :: rest =>
    let stop := match rest with | (j, _) :: _ => j * minBlock | [] => len
    { off := i * minBlock, size := stop - i * minBlock
      st := match c with | 1 => .free | 2 => .allocated | _ => .pending, after := 0 } :: readBlocks rest len minBlock

/-- The heap as its metadata area holds it now: the non-zero codes, in ascending order. -/
def readMeta (s : State) (n : Nat) (h : Heap) (base : Nat) : Heap :=
  if h.len = 0 then h
  else
    let p := s.part n
    let bytes := (h.len / h.minBlock + 3) / 4
    let codes := (List.range ((base % pageBytes + bytes + pageBytes - 1) / pageBytes)).flatMap fun i =>
      let lo := if i = 0 then base else (base / pageBytes + i) * pageBytes
      let hi := min (base + bytes) ((base / pageBytes + i + 1) * pageBytes)
      match p.place lo with
      | some (f, o) =>
        let pa := p.liveFrame f * pageBytes + o
        ((s.plain n).filter fun c => decide (pa ≤ c.1) && decide (c.1 < pa + (hi - lo))).flatMap fun c =>
          (List.range 4).filterMap fun k =>
            let v := c.2.toNat / 4 ^ k % 4
            if v = 0 then none else some (4 * (c.1 - pa + lo - base) + k, v)
      | none => []
    let bs := readBlocks codes h.len h.minBlock
    { h with blocks := bs, pendingOrder := [], atStart := bs }

/-- The LC launch of a partition and its heaps' metadata bases. -/
def lcMeta (p : Part) : Option (Nat × Nat) := (p.runCtx false).map fun c => (c.launch.hbmMeta.toNat, c.launch.shfMeta.toNat)

/-- Store both LC heaps' metadata (R217). -/
def storeHeaps (n : Nat) (s : State) : State :=
  match lcMeta (s.part n) with
  | none => s
  | some (a, b) => writeMeta n ((s.part n).mem.heaps.get 1) b (writeMeta n ((s.part n).mem.heaps.get 0) a s)

/-- The lines of a heap's metadata area pass their checks (R229). -/
def metaChecked (n : Nat) (h : Heap) (base : Nat) (s : State) : State × Bool :=
  let bytes := (h.len / h.minBlock + 3) / 4
  if h.len = 0 then (s, true)
  else (List.range ((base % pageBytes + bytes + pageBytes - 1) / pageBytes)).foldl (fun (acc : State × Bool) i =>
    let lo := if i = 0 then base else (base / pageBytes + i) * pageBytes
    let hi := min (base + bytes) ((base / pageBytes + i + 1) * pageBytes)
    match acc.2, (acc.1.part n).place lo with
    | true, some (f, o) => checkLines n ((acc.1.part n).liveFrame f * pageBytes + o) (hi - lo) .sweep acc.1
    | _, _ => acc) (s, true)

/-- Take both LC heaps back from their metadata (R217, R314), whose lines pass their checks. -/
def loadHeaps (n : Nat) (s : State) : State :=
  match lcMeta (s.part n) with
  | none => s
  | some (a, b) =>
    match metaChecked n ((s.part n).mem.heaps.get 0) a s with
    | (s, false) => s
    | (s, true) => match metaChecked n ((s.part n).mem.heaps.get 1) b s with
      | (s, false) => s
      | (s, true) =>
        let h0 := readMeta s n ((s.part n).mem.heaps.get 0) a
        let h1 := readMeta s n ((s.part n).mem.heaps.get 1) b
        s.modPart n fun p => { p with mem := { p.mem with heaps := (p.mem.heaps.set 0 h0).set 1 h1 } }

end Sys2Proof.Machine
end

