-- ==== Sys2Proof/Machine/Slots.lean ====
section
/-! DEFINITION. The kindling store's slots and journal (R321 to R333), and what a checkpoint generation holds of them (R337,
R341). -/

namespace Sys2Proof.Machine

/-- Change the kindling controller. -/
def State.modKs (f : Kindling → Kindling) (s : State) : State := { s with ks := f s.ks }

/-- Kindling operations run (R329). -/
def ksUp (s : State) : Bool := s.ks.ready && !s.ks.metaFault && s.power.flashOn

/-! ### The journal -/

/-- The effect of a record (Table 14.2). -/
def KsMeta.apply (m : KsMeta) : JRec → KsMeta
  | .map slot x => { m with maps := m.maps.set slot (some x) }
  | .unmap _ slot => { m with maps := m.maps.set slot none }
  | .seqres k => { m with nextSeq := k }
  | .gen g =>
    let rest := m.gens.filter fun h => !(decide (h.part = g.part) && decide (h.gen = g.gen) && decide (h.job = g.job))
    { m with gens := if g.st = .released then rest else rest ++ [g] }
  | .retire t _ => { m with retired := if t ∈ m.retired then m.retired else m.retired ++ [t] }

/-- The metadata with the records that wait for their sector: what the controller itself knows. -/
def ksNow (s : State) : KsMeta := s.ks.pend.foldl KsMeta.apply s.ks.inForce

/-- Queue a record for the next sectors. -/
def journal (r : JRec) (s : State) : State := s.modKs fun k => { k with pend := k.pend ++ [r] }

/-- Destroy wrapped checkpoint keys that no generation uses any more (R331). -/
def dropBlobs (g : Gen) (k : Kindling) : Kindling :=
  if g.st = .released ∧ k.inForce.gens.all fun h => decide (h.blob ≠ g.blob) then { k with blobs := k.blobs.set g.blob none } else k

/-- A record takes effect in the controller: the stripe of an unmapped slot may be erased (R328), and a released generation's key
goes (R331). -/
def takeEffect (r : JRec) (k : Kindling) : Kindling :=
  let m := k.inForce
  let k := { k with inForce := m.apply r }
  match r with
  | .unmap _ slot => match m.maps.get slot with
    | some x => { k with erasable := k.erasable ++ [x.stripe] }
    | none => k
  | .gen g => dropBlobs g k
  | _ => k

/-! ### Slots -/

/-- The lowest number from `pos` on that is not taken. -/
def lowestFrom : Nat → Nat → Tab Bool → Nat
  | 0, pos, _ => pos
  | fuel + 1, pos, t => if t.get pos then lowestFrom fuel (pos + 1) t else pos

/-- The lowest free slot of a partition's range (R322, R332). -/
def lowestSlot (s : State) (n : Nat) : Option Nat :=
  let (lo, hi) := s.slotRange n
  let k := lowestFrom (s.ks.taken.items.length + 1) lo s.ks.taken
  if k < hi then some k else none

/-- A slot lies in a partition's range. -/
def State.slotOwn (s : State) (n slot : Nat) : Bool := let (lo, hi) := s.slotRange n; decide (lo ≤ slot) && decide (slot < hi)

/-- CK_SLOTS_FREE: free slots of a partition. -/
def slotsFree (s : State) (n : Nat) : Nat :=
  let (lo, hi) := s.slotRange n
  (hi - lo) - (s.ks.taken.items.filter fun e => e.2 && s.slotOwn n e.1).length

/-- Slots of a partition's range that hold, or are being written with, something of a kind. -/
def slotsOf (s : State) (n : Nat) (p : Nat → Bool) : Nat :=
  ((ksNow s).maps.items.filter fun e => s.slotOwn n e.1 && (match e.2 with | some m => p m.kind | none => false)).length +
    (s.ks.writes.filter fun w => s.slotOwn n w.slot && p w.kind).length

/-- The slots that a bank-out may take: the free ones less what the checkpoint reserve still needs (R332, R333). -/
def bankRoom (s : State) (n : Nat) : Nat :=
  slotsFree s n - ((s.part n).ck.reserve - slotsOf s n (fun k => decide (1 ≤ k)))

/-- Take a slot and queue its write. -/
def queueWrite (n kind gen unit : Nat) (job : DWord) (src : WriteSrc) (s : State) : Option State :=
  (lowestSlot s n).map fun slot => s.modKs fun k => { k with
    taken := k.taken.set slot true
    writes := k.writes ++ [{ part := n, kind := kind, slot := slot, gen := gen, unit := unit, job := job, src := src }] }

/-- A stripe is erased and in service. -/
def stripeFree (s : State) (t : Nat) : Bool :=
  let m := ksNow s
  decide (t < 15258789) && decide (s.ks.freeStripes ≠ 0) && decide (t ∉ m.retired) && decide (t ∉ s.ks.erasable) &&
    m.maps.items.all (fun e => match e.2 with | some x => decide (x.stripe ≠ t) | none => true) &&
    s.ks.inForce.maps.items.all (fun e => match e.2 with | some x => decide (x.stripe ≠ t) | none => true)

/-- Write sequence values for one slot are reserved (R326, R328). -/
def seqReady (s : State) : Bool := decide (s.ks.seq + 512 ≤ s.ks.inForce.nextSeq)

/-- Reserve the next block of write sequence values (Table 14.2). -/
def askSeq (s : State) : State :=
  if s.ks.pend.any fun r => (match r with | .seqres _ => true | _ => false) then s
  else journal (.seqres ((s.ks.inForce.nextSeq / 2 ^ 20 + 1) * 2 ^ 20)) s

/-- A slot is written whole on a stripe, and its MAP follows (R324, R328). -/
def programSlot (n kind slot gen unit : Nat) (job : DWord) (bs : List Byte) (stripe : Nat) (s : State) : State :=
  let m : SlotMap := { part := n, kind := kind, stripe := stripe, seqBase := s.ks.seq, gen := gen, unit := unit, job := job }
  s.modKs fun k => { k with
    data := k.data.set stripe (Memory.write [] 0 bs)
    ext := k.ext.filter fun x => decide (x.sector / 512 ≠ stripe)
    freeStripes := k.freeStripes - 1
    seq := k.seq + 512
    written := k.written + 512
    taken := k.taken.set slot true
    writes := k.writes.filter fun w => decide (w.slot ≠ slot)
    pend := k.pend ++ [.map slot m] }

/-- Write several pieces of a generation to slots at once, on the stripes named: none where a stripe or a slot is wanting. -/
def programPieces (n kind gen : Nat) (job : DWord) : Nat → List (List Byte) → List Nat → State → Option State
  | _, [], _, s => some s
  | i, bs :: rest, t :: ts, s =>
    match lowestSlot s n with
    | some slot => if stripeFree s t then
        programPieces n kind gen job (i + 1) rest ts (programSlot n kind slot gen i job bs t s) else none
    | none => none
  | _, _ :: _, [], _ => none

/-- Bytes in pieces of one slot each. -/
def slotPieces : Nat → List Byte → List (List Byte)
  | 0, _ => []
  | fuel + 1, bs => if bs.isEmpty then [] else bs.take pageBytes :: slotPieces fuel (bs.drop pageBytes)

/-! ### Generations -/

/-- Bytes 7:0 of a job identity. -/
def jobLow (j : BitVec 128) : DWord := BitVec.ofNat 64 j.toNat

/-- The generations of a partition's job that are held (R340). -/
def gensOf (s : State) (n : Nat) : List Gen :=
  (ksNow s).gens.filter fun g => decide (g.part = n) && decide (g.job = jobLow (s.part n).adm.jobId)

/-! ### Sectors (R239, R324, R331) -/

/-- The key of what a MAP record maps, and the generation byte of its additional data: the bank key of its partition and 0, or the checkpoint
key of its generation and 0x80 with GEN mod 128 (R331, R374). None where the checkpoint key has been destroyed. -/
def sectorKey (s : State) (m : SlotMap) : Option (Digest × Nat) :=
  if m.kind = 0 then some (bankKey s m.part, 0)
  else
    let gen := (ksNow s).gens.find? fun g => decide (g.part = m.part) && decide (g.gen = m.gen) && decide (g.job = m.job)
    let blob := gen.bind fun g => s.ks.blobs.get g.blob
    (blob.bind fun w => openBlob s w.blob).map fun k => (k, 128 + m.gen % 128)

/-- The nonce of a sector: bits 31:0 of its physical address, and the write sequence value (R239). -/
def sectorNonce (sector : Nat) (seq : DWord) : List Byte := leBytes 4 sector ++ leBytes 8 seq.toNat

/-- The plain bytes of a stored sector of a mapped slot: none where its sequence value is not the journal's, or its tag fails (R239,
R324). -/
def openSector (s : State) (m : SlotMap) (x : SectorFlip) : Option (List Byte) :=
  if x.seq ≠ BitVec.ofNat 64 (m.seqBase + x.sector % 512) then none
  else (sectorKey s m).bind fun k =>
    gcmOpen k.1 (sectorNonce x.sector x.seq) (leBytes 1 m.part ++ leBytes 1 k.2) (x.ct ++ leBytes 16 x.tag.toNat)

/-- A sector of a mapped slot as the NAND holds it: what something outside has put there, else what the controller wrote. -/
def storedSector (s : State) (m : SlotMap) (i : Nat) : Option SectorFlip :=
  let sector := 512 * m.stripe + i
  let seq := BitVec.ofNat 64 (m.seqBase + i)
  match s.ks.ext.find? fun x => decide (x.sector = sector) with
  | some x => some x
  | none => (sectorKey s m).map fun k =>
      let aad := leBytes 1 m.part ++ leBytes 1 k.2
      let ct := gcmText k.1 (sectorNonce sector seq) ((s.ks.data.get m.stripe).read (4096 * i) 4096)
      { sector := sector, ct := ct, tag := Config.gcmTag k.1 (sectorNonce sector seq) aad ct, seq := seq }

/-- The changed sectors of a mapped slot. -/
def changedSectors (s : State) (m : SlotMap) : List SectorFlip := s.ks.ext.filter fun x => decide (x.sector / 512 = m.stripe)

/-- The plain contents of a mapped slot, with what its changed sectors decrypt to. -/
def slotData (s : State) (m : SlotMap) : Memory :=
  (changedSectors s m).foldl (fun d x => match openSector s m x with
    | some bs => d.write (4096 * (x.sector % 512)) (bs.take 4096)
    | none => d) (s.ks.data.get m.stripe)

/-- Outside changes to sectors (R240): they stand until the stripe is written again. -/
def strikeSectors (flips : List SectorFlip) (s : State) : State :=
  flips.foldl (fun s x => s.modKs fun k => { k with ext := x :: k.ext.filter fun y => decide (y.sector ≠ x.sector) }) s

/-- The lowest sector that fails its tag or its sequence value, of a partition's mapped slots that a read meets. -/
def badSector (s : State) (n : Nat) (met : SlotMap → Bool) : Option Nat :=
  let maps := (ksNow s).maps.items.filterMap fun e => e.2.filter fun m => decide (m.part = n) && met m
  let bad := maps.flatMap fun m => ((changedSectors s m).filter fun x => (openSector s m x).isNone).map (·.sector)
  bad.foldl (fun b x => match b with | some y => some (min x y) | none => some x) none

/-- Slots of a partition are read: a sector that fails is a security alarm (R239, R324), and nothing is done with the data; else the reading
goes on. -/
def readSlots (n : Nat) (met : SlotMap → Bool) (act : State → State) (s : State) : State :=
  match badSector s n met with
  | some x => securityAlarm n 3 x none s
  | none => act s

/-- The slots of a generation of a partition's job that hold one of some kinds. -/
def genMet (s : State) (n : Nat) (gen : Option Nat) (kinds : List Nat) (m : SlotMap) : Bool :=
  decide (m.kind ∈ kinds) && (match gen with | some g => decide (m.gen = g) | none => true) &&
    decide (m.job = jobLow (s.part n).adm.jobId)

/-- The slots of a generation, with what they map. -/
def genSlots (s : State) (n gen : Nat) (job : DWord) : List (Nat × SlotMap) :=
  (ksNow s).maps.items.filterMap fun e => match e.2 with
    | some m => if m.part = n ∧ 1 ≤ m.kind ∧ m.gen = gen ∧ m.job = job then some (e.1, m) else none
    | none => none

/-- Release a generation (R340, R341): UNMAP for its slots, an end to its writes, and GEN RELEASED. -/
def releaseGen (n gen : Nat) (s : State) : State :=
  let job := jobLow (s.part n).adm.jobId
  let s' := (genSlots s n gen job).foldl (fun s e => freeSlot n e.1 s) s
  let s' := ((s.ks.writes.filter fun w => decide (w.part = n) && decide (w.gen = gen) && decide (1 ≤ w.kind))).foldl
    (fun s w => freeSlot n w.slot s) s'
  match (gensOf s n).find? fun g => decide (g.gen = gen) with
  | some g => journal (.gen { g with st := .released }) s'
  | none => s'

/-- A frame that no version of a unit uses and no snapshot pins may return to the pool. -/
def Relight.uses (r : Relight) (f : Nat) : Bool :=
  (List.range r.units).any fun q => decide (r.liveFrameOf q = f) || decide (r.keptFrame q = f) || decide (r.old.get q = some f)

/-- Unpin the frame of a unit's snapshot (R337): it returns to the pool where nothing else uses it. -/
def unpinUnit (n q : Nat) (s : State) : State :=
  let p := s.part n
  let fs := (p.ck.pinned.filter fun e => decide (e.1 = q)).map (·.2)
  let s := s.modPart n fun p => { p with ck := { p.ck with pinned := p.ck.pinned.filter fun e => decide (e.1 ≠ q) } }
  let p := s.part n
  let back := fs.filter fun f => !p.rl.uses f && !(p.ck.pinned.any fun e => decide (e.2 = f)) && decide (f ∉ p.rl.pool)
  s.modPart n fun p => { p with rl := p.rl.giveFrames back }

/-- A generation is under way and not committed here. -/
def CkState.pending : CkState → Bool
  | .snap => true | .write => true | .waitManifest => true | _ => false

/-- A CHECKPOINT record (Table 18.7). -/
def ckRecord (n detail : Nat) (step : DWord) (s : State) : State :=
  partRecord n { kind := 13, status := 0, detail := detail, tag := 0, arg := step, exc := none } s

/-- The job stoker takes an announcement back, to make it again with the same reasons (R341). -/
def reannounce (n : Nat) (s : State) : State :=
  let k := (s.part n).stk
  if isJobStoker s n && k.ckOpen then
    s.modPart n fun p => { p with stk := { p.stk with
      ckReasons := Nat.lor k.ckReasons k.ckLast, ckGen := k.ckGen - 1, ckOpen := false, shards := [], committed := [] } }
  else s

/-- Abandon the generation under way (R341): slots released, frames unpinned, CK_ABANDONED and its count. -/
def ckAbandon (n : Nat) (nospace : Bool) (s : State) : State :=
  let p := s.part n
  if !p.ck.state.pending then s
  else
    let s := releaseGen n p.ck.gen s
    let s := p.ck.pinned.foldl (fun s e => unpinUnit n e.1 s) s
    let s := s.modPart n fun p => { p with ck := { p.ck with
      state := .idle, abandoned := true, nospace := p.ck.nospace || nospace, pinned := [], toCopy := []
      abandonCnt := satAdd p.ck.abandonCnt 1, abandonOvf := p.ck.abandonOvf || satOvf p.ck.abandonCnt 1 } }
    ckRecord n 1 p.ck.step s

/-- Queue the copies of a snapshot's units to slots (R338); a unit that finds no slot abandons the generation. -/
def ckQueue (n : Nat) : List Nat → State → State
  | [], s => s
  | q :: qs, s =>
    let p := s.part n
    match (p.ck.pinned.find? fun e => decide (e.1 = q)).bind fun e =>
        queueWrite n 1 p.ck.gen q (jobLow p.adm.jobId) (.frame e.2) s with
    | some s => ckQueue n qs s
    | none => ckAbandon n true s

/-- Pin the given units at their kept versions and queue their copies (R337). -/
def ckSnapshot (n : Nat) (qs : List Nat) (s : State) : State :=
  let s := s.modPart n fun p => { p with ck := { p.ck with
    pinned := p.ck.pinned ++ qs.map fun q => (q, p.rl.keptFrame q) } }
  ckQueue n qs s

end Sys2Proof.Machine
end

