-- ==== Sys2Proof/Machine/Retire.lean ====
section
/-! DEFINITION. Retirement of an ember and its spares (R80 to R82), and the frames that wait in a partition's inbox. -/

namespace Sys2Proof.Machine

/-- The factory place of a logical ember in its grate: row by row, columns 0 to 7 (R80). -/
def factoryPlace (l : Nat) : Nat := 9 * (l % 64 / 8) + l % 8
/-- EMB_PHYS of a logical ember. -/
def physOf (s : State) (l : Nat) : Nat := ((s.ember l).phys).getD (factoryPlace l)

/-- The spare that replaces physical ember `p` of grate `g` (R81): the free one of its row, else the free one of lowest index. -/
def pickSpare (s : State) (g p : Nat) : Option Nat :=
  let used := s.power.usedSpares.get g
  let row := 9 * (p / 9) + 8
  if row ∉ used then some row
  else ((List.range 8).map fun r => 9 * r + 8).find? fun x => decide (x ∉ used)

/-- Causes of Table 20.2. -/
def RetireCause.code : RetireCause → Nat
  | .bist => 0 | .parity => 1 | .sentinel => 2 | .host => 3

/-- The EMBER_RETIRE entry (Table 20.2). -/
def retireSoot (s : State) (l old new cause : Nat) : State :=
  sootEvent 0x40 (s.partOf l) (leBytes 2 l ++ leBytes 1 old ++ leBytes 1 new ++ leBytes 1 cause) s

/-- A pending retirement takes place (R80): the copy to a spare starts (R81), or, with no free spare, the module withdraws from
its job (R82). -/
def startRetire (l : Nat) (s : State) : State :=
  let m := s.ember l
  match m.retire, m.copying with
  | some _, none =>
    let old := physOf s l
    match pickSpare s (l / 64) old with
    | some new =>
      let s := { s with power := { s.power with usedSpares := s.power.usedSpares.upd (l / 64) fun u => u ++ [new] } }
      healthSpares (s.modEmber l fun m => { m with copying := some new })
    | none =>
      if .noSpare ∈ s.pins.faults then s
      else
        let s := setFault .noSpare (retireSoot s l old 0xFF 4)
        ((List.range s.nParts).filter fun n => (s.part n).hasCtx || decide ((s.part n).rl.role ≠ .none)).foldl
          (fun s n => withdraw n 2 s) s
  | _, _ => s

/-- An ember of the partition is being copied to a spare (R81). -/
def copies (s : State) (n : Nat) : Bool := s.anyEmber n fun m => m.copying.isSome

/-- Every pending retirement of a partition takes place. -/
def startRetires (n : Nat) (s : State) : State :=
  (s.embersWhere n fun m => m.retire.isSome).foldl (fun s l => startRetire l s) s

/-- A partition that no context holds owns no ember: what is pending there takes place at once (R80; DEDUCED, log 29). -/
def retireUnowned (n : Nat) (s : State) : State := if (s.part n).hasCtx then s else startRetires n s

/-- A retirement is asked for in service (R80): it waits for the next step boundary of the partition that owns the ember, or takes place at
once where none does. -/
def askRetirement (l : Nat) (c : RetireCause) (s : State) : State :=
  retireUnowned (s.partOf l) (s.modEmber l (Ember.askRetire c))

/-- EMB_RETIRE_REQ: a privileged write of 1 (R80). -/
def execEmbRetireReq (l : EmberId) (s : State) : Out := .next (if s.inService then askRetirement l.val .host s else s)

/-- The copy to the spare ends (R81): the physical index changes, EMB_PARITY_CNT and EMB_SENT_MISS restart, an entry is
written. The parity bits are copied with the data, so `badParity` stands. -/
def finishRetire (l : Nat) (s : State) : State :=
  let m := s.ember l
  match m.copying, m.retire with
  | some new, some c =>
    let s := retireSoot s l (physOf s l) new c.code
    s.modEmber l fun m => { m with phys := some new, copying := none, retire := none, parityCnt := 0, sentMiss := 0 }
  | _, _ => s

/-! ### The inbox -/

/-- The LC frames of an inbox that came after a drop marker of their own sender which still waits (R194). -/
def behindMark : List Pos → List (Nat × Frame) → List Frame
  | _, [] => []
  | qs, e :: es =>
    if e.2.body = .dropmark then behindMark (e.2.src :: qs) es
    else if e.2.vc = .lc ∧ e.2.src ∈ qs then e.2 :: behindMark qs es
    else behindMark qs es

/-- Take the oldest delivered frame of a partition that meets `p`: the flue it came by, the frame, and the state without it. A frame behind its
sender's drop marker waits with the marker (R194). -/
def takeFrame (n : Nat) (p : Frame → Bool) (s : State) : Option (Nat × Frame × State) :=
  let late := behindMark [] (s.part n).inbox
  match (s.part n).inbox.find? fun e => p e.2 && decide (e.2 ∉ late) with
  | none => none
  | some (fl, f) =>
    some (fl, f, s.modPart n fun q => { q with inbox := q.inbox.erase (fl, f) })

end Sys2Proof.Machine
end

