-- ==== Sys2Proof/Machine/Wire.lean ====
section
/-! DEFINITION. Frames and flit groups on the link: the group header, its GCRC, nonce and AAD (R250, R255, Table 11.3), the frame header
(R257, Table 11.5), the type-specific fields and payloads of the frame types (Tables 11.7, 12.4, 12.5, 13.5, 14.4), and link management frames.
Where the spec names the fields of a type and not their places, the places are the model's (DESIGN CHOICE, log 98). -/

namespace Sys2Proof

open Machine

/-! ### The group -/

/-- VC codes (Table 11.3). -/
def vcCode : Vc → Nat
  | .lc => 0 | .be => 1 | .ctrl => 2 | .relight => 3

/-- The 16 bytes of a group's header with a GCRC (Table 11.3). -/
def FlitGroup.head (g : FlitGroup) (gcrc : Word) : List Byte :=
  leBytes 8 (g.fseq.toNat * 2 ^ 32 + g.ackSeq.toNat * 2 ^ 8 + g.nflit % 16 * 2 ^ 4 + b2n g.nak * 8 + b2n g.sof * 4 + b2n g.eof * 2 +
      b2n (g.zeros.getLsbD 4)) ++
    leBytes 8 (gcrc.toNat * 2 ^ 32 + vcCode g.vc * 2 ^ 30 + g.part.val * 2 ^ 28 + g.keyId.toNat * 2 ^ 20 + g.crPool.toNat * 2 ^ 16 +
      g.crCnt.toNat * 2 ^ 4 + g.zeros.toNat % 16)

/-- A group carries a tag: it has flits, and a link key (R250). -/
def FlitGroup.tagged (g : FlitGroup) : Bool := decide (g.nflit ≠ 0) && decide (g.keyId ≠ 0)

/-- GCRC: over the header with GCRC zero, the cipher text and the tag (Table 11.3). -/
def FlitGroup.crcOf (g : FlitGroup) : Word :=
  crc32c (g.head 0 ++ g.data ++ if g.tagged then leBytes 12 g.tag.toNat else [])

/-- The AAD of a group: its header with ACKSEQ, NAK, CRPOOL, CRCNT and GCRC zero (R255). -/
def FlitGroup.aad (g : FlitGroup) : List Byte := { g with ackSeq := 0, nak := false, crPool := 0, crCnt := 0 : FlitGroup }.head 0

/-- The nonce of a group: KEYID in bits 95:88, GCNT in bits 63:0 (R255). -/
def groupNonce (keyId : Byte) (gcnt : DWord) : List Byte := leBytes 12 (keyId.toNat * 2 ^ 88 + gcnt.toNat)

/-- The 96-bit tag of a group under a key (R255). -/
def groupTag (key : Digest) (gcnt : DWord) (g : FlitGroup) : BitVec 96 :=
  BitVec.ofNat 96 (leNat ((leBytes 16 (Config.gcmTag key (groupNonce g.keyId gcnt) g.aad g.data).toNat).take 12))

/-- Encrypt a group's plain text and tag it (R255). -/
def sealGroup (key : Digest) (gcnt : DWord) (g : FlitGroup) : FlitGroup :=
  let g := { g with data := gcmText key (groupNonce g.keyId gcnt) g.data }
  { g with tag := groupTag key gcnt g }

/-- The plain text of a group whose tag verifies under a key and a count (R255). -/
def openGroup (key : Digest) (gcnt : DWord) (g : FlitGroup) : Option (List Byte) :=
  if groupTag key gcnt g = g.tag then some (gcmText key (groupNonce g.keyId gcnt) g.data) else none

/-- A link key (Table 16.3): the sender's and the receiver's positions, the sender's flue and salt, the receiver's salt, OPEN_SEQ. -/
def linkKey (job : Digest) (src dst : Pos) (flue : Nat) (saltTx saltRx : BitVec 128) (seq : Nat) : Digest :=
  derive "ZH9 LINK" (keyBytes job ++ leBytes 4 (posWord src) ++ leBytes 4 (posWord dst) ++ leBytes 1 flue ++ leBytes 16 saltTx.toNat ++
    leBytes 16 saltRx.toNat ++ leBytes 4 seq)

/-! ### Frames -/

/-- The position that a word names (Table 11.5). -/
def wordPos (w : Nat) : Pos :=
  { t0 := w / 2 ^ 20 % 32, t1 := w / 2 ^ 15 % 32, t2 := w / 2 ^ 10 % 32, t3 := w / 2 ^ 5 % 32, member := w / 2 ^ 25 % 16 }

/-- The DPOS of a broadcast, which no position has (DESIGN CHOICE, log 98). -/
def broadcastWord : Nat := 0x1FFFFFE0

/-- The bytes of FP32 words, and back. -/
def wordsBytes (ws : List Word) : List Byte := ws.flatMap fun w => leBytes 4 w.toNat

def wordsOf (bs : List Byte) : List Word := (List.range (bs.length / 4)).map fun i => BitVec.ofNat 32 (leAt bs (4 * i) 4)

/-- Cut bytes into pieces of `k`. -/
def piecesOf (k : Nat) (bs : List Byte) : List (List Byte) :=
  (List.range ((bs.length + k - 1) / k)).map fun i => (bs.drop (k * i)).take k

/-- RL_ROLE codes (Table 13.9). -/
def roleCode : Role → Nat
  | .none => 0 | .active => 1 | .standby => 2 | .adopted => 3
def roleOfCode : Nat → Role
  | 1 => .active | 2 => .standby | 3 => .adopted | _ => .none

/-- The bytes of a step record (Table 8.4). -/
def stepRecBytes (r : StepRec) (self : Bool) : List Byte :=
  let drops := !r.dropped.isEmpty
  leBytes 8 r.step.toNat ++ leBytes 4 r.epoch.toNat ++ leBytes 4 r.lineage.toNat ++ leBytes 2 r.nmb ++ leBytes 2 r.ncontrib ++
    leBytes 2 r.req.length ++ leBytes 2 (b2n drops + 2 * b2n r.replay + 4 * b2n self) ++ leBytes 8 0 ++
    ((List.range 4096).map fun b => BitVec.ofNat 8 ((List.range 8).foldl (fun v i =>
      v + (if 8 * b + i ∈ r.dropped then 2 ^ i else 0)) 0)) ++
    r.req.flatMap fun q => leBytes 8 (q.tries * 2 ^ 61 + q.slot * 2 ^ 46 + q.step)

/-- The step record that bytes spell (Tables 8.4 and 8.5). -/
def stepRecOf (bs : List Byte) : StepRec :=
  { step := BitVec.ofNat 64 (leAt bs 0 8), epoch := BitVec.ofNat 32 (leAt bs 8 4), lineage := BitVec.ofNat 32 (leAt bs 12 4)
    nmb := leAt bs 16 2, ncontrib := leAt bs 18 2, replay := decide (leAt bs 22 2 / 2 % 2 = 1)
    dropped := (List.range 4096).flatMap fun b => (List.range 8).filterMap fun i =>
      if leAt bs (32 + b) 1 / 2 ^ i % 2 = 1 then some (8 * b + i) else none
    req := (List.range (leAt bs 20 2)).map fun i =>
      let v := leAt bs (4128 + 8 * i) 8
      { tries := v / 2 ^ 61, slot := v / 2 ^ 46 % 2 ^ 15, step := v % 2 ^ 46 } }

/-- FTYPE (Table 11.6). A report, an answer, an acknowledgement and a freeze release have the type of what they belong to. -/
def FrameBody.ftype : FrameBody → Nat
  | .data .. => 0x01 | .dack .. => 0x02 | .coll .. => 0x03 | .ringReady _ => 0x04 | .ringData .. => 0x04 | .ringAck _ => 0x04
  | .heartbeat .. => 0x10 | .steprec _ => 0x11 | .contrib .. => 0x12 | .dropmark => 0x13 | .openF _ => 0x14 | .refuse _ => 0x15
  | .quarReport .. => 0x15 | .freeze _ => 0x16 | .stoker => 0x17 | .stokerAnswer .. => 0x17 | .ckptAnnounce .. => 0x18
  | .ckptManifest .. => 0x18 | .ckptRestore .. => 0x18 | .ckrepRequest _ => 0x19 | .ckrepShard _ => 0x19 | .ckrepCommitted _ => 0x19
  | .ckrepAvail _ => 0x19 | .abort .. => 0x1A | .loss .. => 0x20 | .rfreeze .. => 0x21 | .adopt .. => 0x22 | .wpunit .. => 0x23
  | .holderReport .. => 0x24 | .sealF .. => 0x24 | .mirror .. => 0x25 | .mirrorAck .. => 0x25 | .resume => 0x26 | .freezeRelease _ => 0x26
  | .withdraw _ => 0x27

/-- A frame that carries a class's own work: an FSEND, a collective or a ring step. -/
def FrameBody.work (b : FrameBody) : Bool := match b with
  | .data .. => true | .coll .. => true | .ringReady _ => true | .ringData .. => true | .ringAck _ => true | _ => false

/-- A frame type and the channel that carries it (Table 11.6). -/
def vcFits (ftype : Nat) (vc : Vc) : Bool :=
  if ftype < 0x10 then decide (vc = .lc) || decide (vc = .be) else if ftype < 0x20 then decide (vc = .ctrl) else decide (vc = .relight)

/-- The fields of a ring frame's TSPEC (Table 12.5), bytes 39:32 and 47:40. -/
def ringSpec (h : RingHdr) (kind elemFirst : Nat) : Nat × Nat :=
  (h.ring + h.step * 2 ^ 4 + h.l * 2 ^ 10 + kind * 2 ^ 17 + h.len * 2 ^ 19,
    elemFirst + h.ember * 2 ^ 24 + h.thread * 2 ^ 39 + h.origin * 2 ^ 42)

/-- TSPEC of the `i`-th frame of a record: bytes 39:32 and 47:40. -/
def FrameBody.tspec (i : Nat) : FrameBody → Nat × Nat
  | .data l t w off ext e mv et _ _ =>
    (l + t * 2 ^ 15 + w * 2 ^ 18 + off * 2 ^ 22,
      (match ext with | some (a, b) => a + b * 2 ^ 19 | none => 0) + e * 2 ^ 38 + mv * 2 ^ 53 + et * 2 ^ 54)
  | .dack e mv et refused => (e + mv * 2 ^ 15 + et * 2 ^ 16 + b2n refused * 2 ^ 19, 0)
  | .coll h lo _ _ =>
    (h.grp + h.kind * 2 ^ 6 + h.op * 2 ^ 8 + h.scope * 2 ^ 10 + h.level * 2 ^ 15 + h.round * 2 ^ 18 + b2n h.results * 2 ^ 21 +
      b2n h.empty * 2 ^ 22 + h.len * 2 ^ 24, lo + h.cseq % 2 ^ 40 * 2 ^ 24)
  | .ringReady h => ringSpec h 0 0
  | .ringData h lo _ => ringSpec h 1 (lo + 1012 * i)
  | .ringAck h => ringSpec h 2 0
  | .heartbeat c h => (c.toNat, h.toNat)
  | .steprec _ => (0, 0)
  | .contrib slot origin => (slot + posWord origin * 2 ^ 32, 0)
  | .dropmark => (0, 0)
  | .openF b => (roleCode b.role, 0)
  | .refuse c => (c, 0)
  | .quarReport f c => (c + f * 2 ^ 8 + 2 ^ 16, 0)
  | .freeze r => (b2n r, 0)
  | .stoker => (0, 0)
  | .stokerAnswer k lost => (1 + b2n k.isSome * 2 + (lost.foldl (fun v m => v + 2 ^ m) 0) * 2 ^ 8, (k.getD 0).toNat)
  | .ckptAnnounce gen step r => (step.toNat, r * 2 ^ 2 + gen * 2 ^ 12)
  | .ckptManifest gen step _ _ => (step.toNat, 1 + gen * 2 ^ 12 + i * 2 ^ 44)
  | .ckptRestore gen step _ _ => (step.toNat, 2 + gen * 2 ^ 12 + i * 2 ^ 44)
  | .ckrepRequest r => (0, 3 + r * 2 ^ 2)
  | .ckrepShard r => (r.step.toNat, r.gen * 2 ^ 12 + i * 2 ^ 44)
  | .ckrepCommitted gen => (0, 1 + gen * 2 ^ 12)
  | .ckrepAvail _ => (0, 2 + i * 2 ^ 44)
  | .abort bcast cause _ step origin => (cause + b2n bcast * 2 ^ 8 + posWord origin * 2 ^ 32, step.toNat)
  | .loss m k => (m + b2n k.isSome * 2 ^ 8, (k.getD 0).toNat)
  | .rfreeze e target _ => (target.toNat, e.toNat)
  | .adopt pos target e => ((target.getD 0).toNat, e.toNat + posWord pos * 2 ^ 32 + b2n target.isSome * 2 ^ 63)
  | .wpunit q role off b _ => (q + role * 2 ^ 19 + (off + 4048 * i) * 2 ^ 21, b.toNat)
  | .holderReport b _ => (2, b.toNat)
  | .sealF job b => (b2n job, b.toNat)
  | .mirror slot off _ => (slot, off + 4048 * i)
  | .mirrorAck slot off => (slot + 2 ^ 63, off)
  | .resume => (0, 0)
  | .freezeRelease e => (1 + e.toNat * 2 ^ 32, 0)
  | .withdraw r => (r, 0)

/-- The bytes after the header of a record, over all its frames. -/
def FrameBody.payload : FrameBody → List Byte
  | .data _ _ _ _ _ _ _ _ bs _ => bs
  | .coll _ _ _ ws => wordsBytes ws
  | .ringData _ _ ws => wordsBytes ws
  | .steprec r => stepRecBytes r false
  | .openF b => leBytes 1 b.draught ++ leBytes 16 b.jobId.toNat ++ leBytes 4 b.lineage.toNat ++ leBytes 4 b.epoch.toNat ++
      leBytes 8 b.step.toNat ++ leBytes 4 (posWord b.pos)
  | .ckptManifest _ _ bs sg => bs ++ sg
  | .ckptRestore _ _ lost bs => leBytes 4 lost.length ++ (lost.flatMap fun p => leBytes 4 (posWord p)) ++ bs
  | .ckrepShard r => r.bytes ++ r.sign
  | .ckrepAvail gs => gs.flatMap fun g => leBytes 8 g.step.toNat ++ leBytes 4 g.gen ++ leBytes 1 (b2n g.committed) ++
      leBytes 1 (b2n g.manifest) ++ leBytes 2 0
  | .abort _ _ e _ _ => leBytes 4 e.toNat
  | .rfreeze _ _ ps => ps.flatMap fun p => leBytes 4 (posWord p)
  | .wpunit _ _ _ _ bs => bs
  | .holderReport _ fs => fs.flatMap fun v => leBytes 8 v
  | .mirror _ _ bs => bs
  | _ => []

/-- The body that a frame's type, LAST, TSPEC and payload spell; none for the reserved types and for kinds that no table has. An extent of 0 to 0 is
that of a transfer of one byte, or of no first frame (Table 11.7). -/
def bodyOf (ftype : Nat) (last : Bool) (t : Nat × Nat) (bs : List Byte) : Option FrameBody :=
  let (a, b) := t
  match ftype with
  | 0x01 =>
    let off := a / 2 ^ 22 % 2 ^ 19
    let first := b % 2 ^ 19
    let lst := b / 2 ^ 19 % 2 ^ 19
    let ext := if first = 0 ∧ lst = 0 ∧ !(last && decide (off = 0) && decide (bs.length = 1)) then none else some (first, lst)
    some (.data (a % 2 ^ 15) (a / 2 ^ 15 % 8) (a / 2 ^ 18 % 16) off ext (b / 2 ^ 38 % 2 ^ 15) (b / 2 ^ 53 % 2) (b / 2 ^ 54 % 8) bs last)
  | 0x02 => some (.dack (a % 2 ^ 15) (a / 2 ^ 15 % 2) (a / 2 ^ 16 % 8) (decide (a / 2 ^ 19 % 2 = 1)))
  | 0x03 =>
    let h : CollHdr :=
      { grp := a % 64, kind := a / 2 ^ 6 % 4, op := a / 2 ^ 8 % 4, scope := a / 2 ^ 10 % 32, level := a / 2 ^ 15 % 8, round := a / 2 ^ 18 % 8
        results := decide (a / 2 ^ 21 % 2 = 1), empty := decide (a / 2 ^ 22 % 2 = 1), len := a / 2 ^ 24 % 2 ^ 24, cseq := b / 2 ^ 24 }
    some (.coll h (b % 2 ^ 24) (b % 2 ^ 24 / 1012) (wordsOf bs))
  | 0x04 =>
    let h : RingHdr :=
      { ring := a % 16, step := a / 2 ^ 4 % 64, l := a / 2 ^ 10 % 128, len := a / 2 ^ 19 % 2 ^ 24
        ember := b / 2 ^ 24 % 2 ^ 15, thread := b / 2 ^ 39 % 8, origin := b / 2 ^ 42 % 64 }
    match a / 2 ^ 17 % 4 with
    | 0 => some (.ringReady h)
    | 1 => some (.ringData h (b % 2 ^ 24) (wordsOf bs))
    | 2 => some (.ringAck h)
    | _ => none
  | 0x10 => some (.heartbeat (BitVec.ofNat 64 a) (BitVec.ofNat 32 b))
  | 0x11 => some (.steprec (stepRecOf bs))
  | 0x12 => some (.contrib (a % 2 ^ 32) (wordPos (a / 2 ^ 32)))
  | 0x13 => some .dropmark
  | 0x14 => some (.openF { draught := leAt bs 0 1, jobId := BitVec.ofNat 128 (leAt bs 1 16), lineage := BitVec.ofNat 32 (leAt bs 17 4)
                           epoch := BitVec.ofNat 32 (leAt bs 21 4), step := BitVec.ofNat 64 (leAt bs 25 8), pos := wordPos (leAt bs 33 4)
                           role := roleOfCode (a % 4) })
  | 0x15 => some (if a / 2 ^ 16 % 2 = 1 then .quarReport (a / 2 ^ 8 % 256) (a % 256) else .refuse (a % 256))
  | 0x16 => some (.freeze (decide (a % 2 = 1)))
  | 0x17 =>
    some (if a % 2 = 1 then
      .stokerAnswer (if a / 2 % 2 = 1 then some (BitVec.ofNat 64 b) else none) ((List.range 9).filter fun m => decide (a / 2 ^ (8 + m) % 2 = 1))
    else .stoker)
  | 0x18 =>
    let gen := b / 2 ^ 12 % 2 ^ 32
    let step := BitVec.ofNat 64 a
    match b % 4 with
    | 0 => some (.ckptAnnounce gen step (b / 4 % 512))
    | 1 => some (.ckptManifest gen step (bs.take (bs.length - 1280)) (bs.drop (bs.length - 1280)))
    | 2 =>
      let k := leAt bs 0 4
      some (.ckptRestore gen step ((List.range k).map fun i => wordPos (leAt bs (4 + 4 * i) 4)) (bs.drop (4 + 4 * k)))
    | _ => none
  | 0x19 =>
    let gen := b / 2 ^ 12 % 2 ^ 32
    match b % 4 with
    | 0 => some (.ckrepShard { pos := wordPos (leAt bs 68 4), gen := gen, step := BitVec.ofNat 64 a, bytes := bs.take (bs.length - 1280)
                               sign := bs.drop (bs.length - 1280) })
    | 1 => some (.ckrepCommitted gen)
    | 2 => some (.ckrepAvail ((List.range (bs.length / 16)).map fun i =>
        { step := BitVec.ofNat 64 (leAt bs (16 * i) 8), gen := leAt bs (16 * i + 8) 4, committed := decide (leAt bs (16 * i + 12) 1 = 1)
          manifest := decide (leAt bs (16 * i + 13) 1 = 1) }))
    | _ => some (.ckrepRequest (b / 4 % 512))
  | 0x1A => some (.abort (decide (a / 2 ^ 8 % 256 = 1)) (a % 256) (BitVec.ofNat 32 (leAt bs 0 4)) (BitVec.ofNat 64 b) (wordPos (a / 2 ^ 32)))
  | 0x20 => some (.loss (a % 256) (if a / 2 ^ 8 % 2 = 1 then some (BitVec.ofNat 64 b) else none))
  | 0x21 => some (.rfreeze (BitVec.ofNat 32 b) (BitVec.ofNat 64 a) ((List.range (bs.length / 4)).map fun i => wordPos (leAt bs (4 * i) 4)))
  | 0x22 => some (.adopt (wordPos (b / 2 ^ 32)) (if b / 2 ^ 63 % 2 = 1 then some (BitVec.ofNat 64 a) else none) (BitVec.ofNat 32 b))
  | 0x23 => some (.wpunit (a % 2 ^ 19) (a / 2 ^ 19 % 4) (a / 2 ^ 21 % 2 ^ 21) (BitVec.ofNat 64 b) bs)
  | 0x24 => some (if a / 2 % 2 = 1 then .holderReport (BitVec.ofNat 64 b) ((List.range (bs.length / 8)).map fun i => leAt bs (8 * i) 8)
      else .sealF (decide (a % 2 = 1)) (BitVec.ofNat 64 b))
  | 0x25 => some (if 2 ^ 63 ≤ a then .mirrorAck (a % 2 ^ 63) b else .mirror a b bs)
  | 0x26 => some (if a % 2 = 1 then .freezeRelease (BitVec.ofNat 32 (a / 2 ^ 32)) else .resume)
  | 0x27 => some (.withdraw a)
  | _ => none

/-- A record of this type may run over several frames, which LAST ends: those of the control and relight channels (R257, Table 11.6). -/
def splits (ftype : Nat) : Bool := decide (0x10 ≤ ftype)

/-- LAST of a frame whose payload is the last of its record (Table 11.5): a DATA frame says whether it ends its transfer. -/
def FrameBody.last : FrameBody → Bool
  | .data _ _ _ _ _ _ _ _ _ last => last
  | _ => true

/-- The payloads of a record's frames: at most 4,048 bytes each, and one frame at least (R257). -/
def FrameBody.parts (b : FrameBody) : List (List Byte) := match piecesOf 4048 b.payload with | [] => [[]] | ps => ps

/-- The bytes of a record on the link, frame by frame: the 48-byte header of Table 11.5 and the payload, filled with zeros to whole flits. -/
def Frame.wire (fr : Frame) : List Byte :=
  let ps := fr.body.parts
  (List.range ps.length).flatMap fun i =>
    let bs := ps.getD i []
    let t := fr.body.tspec i
    let all := leBytes 1 fr.body.ftype ++ leBytes 1 (b2n (decide (i + 1 = ps.length) && fr.body.last)) ++ leBytes 2 bs.length ++
      leBytes 4 fr.epoch.toNat ++ leBytes 4 fr.lineage.toNat ++
      leBytes 4 (match fr.dst with | some d => posWord d | none => broadcastWord) ++ leBytes 4 (posWord fr.src) ++ leBytes 4 0 ++
      leBytes 8 fr.step.toNat ++ leBytes 8 t.1 ++ leBytes 8 t.2 ++ bs
    all ++ List.replicate ((128 - all.length % 128) % 128) 0

/-- Flits of a record, and of its last frame alone (R250). -/
def frameFlits (b : FrameBody) : Nat :=
  let n := b.payload.length
  32 * ((n - 1) / 4048) + (48 + (n - (n - 1) / 4048 * 4048) + 127) / 128
def lastFlits (b : FrameBody) : Nat :=
  let n := b.payload.length
  (48 + (n - (n - 1) / 4048 * 4048) + 127) / 128

/-- A frame of the link, with its body still in bytes. -/
structure RawFrame where
  ftype : Nat
  last : Bool
  tspec : DWord × DWord
  payload : List Byte
  deriving DecidableEq, Repr

/-- The header and payload that the bytes of a frame spell (Table 11.5). -/
def rawFrame (bs : List Byte) : RawFrame :=
  { ftype := leAt bs 0 1, last := decide (leAt bs 1 1 % 2 = 1), tspec := (BitVec.ofNat 64 (leAt bs 32 8), BitVec.ofNat 64 (leAt bs 40 8))
    payload := (bs.drop 48).take (leAt bs 2 2) }

/-- The frame that the header in `bs` and a record's fields and payload spell, on its channel; none where the type is reserved, or another channel's
(R257, R262). -/
def frameOf (vc : Vc) (bs : List Byte) (r : RawFrame) : Option Frame :=
  if vcFits r.ftype vc then (bodyOf r.ftype r.last (r.tspec.1.toNat, r.tspec.2.toNat) r.payload).map fun b =>
    { epoch := BitVec.ofNat 32 (leAt bs 4 4), lineage := BitVec.ofNat 32 (leAt bs 8 4), step := BitVec.ofNat 64 (leAt bs 24 8)
      src := wordPos (leAt bs 16 4), dst := if leAt bs 12 4 = broadcastWord then none else some (wordPos (leAt bs 12 4)), vc := vc, body := b }
  else none

/-! ### Link management frames -/

/-- The flit of a link management frame (R247, R248, R263, Table 11.9). -/
def LinkFrame.bytes (l : LinkFrame) : List Byte :=
  let bs := match l with
    | .lane k => leBytes 1 1 ++ leBytes 1 k
    | .laneReply k cw => leBytes 1 2 ++ leBytes 1 k ++ leBytes 6 cw
    | .width k => leBytes 1 3 ++ leBytes 1 k
    | .fpx b => leBytes 1 4 ++ leBytes 2 b.stepping.toNat ++ keyBytes b.capDigest ++ leBytes 4 (b.member * 2 ^ 25 + b.t.toNat * 2 ^ 5) ++
        leBytes 1 b.flue ++ leBytes 16 b.salt.toNat
  bs ++ List.replicate (128 - bs.length) 0

/-- The link management frame that a flit spells. -/
def linkOf (bs : List Byte) : Option LinkFrame :=
  match leAt bs 0 1 with
  | 1 => some (.lane (leAt bs 1 1))
  | 2 => some (.laneReply (leAt bs 1 1) (leAt bs 2 6))
  | 3 => some (.width (leAt bs 1 1))
  | 4 => some (.fpx { stepping := BitVec.ofNat 16 (leAt bs 1 2), capDigest := BitVec.ofNat 256 (leAt bs 3 32)
                      member := leAt bs 35 4 / 2 ^ 25 % 16, t := BitVec.ofNat 20 (leAt bs 35 4 / 2 ^ 5), flue := leAt bs 39 1
                      salt := BitVec.ofNat 128 (leAt bs 40 16) })
  | _ => none

end Sys2Proof
end

