-- ==== Sys2Proof/Machine/FlueLink.lean ====
section
/-! DEFINITION. The link of a flue: bring-up (R249, R263), lanes and widths (R245 to R248), flit groups out (R250 to R254), the
routes of frames (R266 to R269) and the release of the outbound hold (R233). -/

namespace Sys2Proof.Machine

/-- Change a flue. -/
def State.modFlue (f : Nat) (g : Flue → Flue) (s : State) : State := { s with flues := s.flues.upd f g }

/-- The other flue of a pair (R13). -/
def pairOf (f : Nat) : Nat := if f % 2 = 0 then f + 1 else f - 1

/-- FAB_CFG_ERR (R273): D0·D1·D2·D3 above 16,384, a member above 8, a coordinate outside its dimension. A FAB_DIMS field of 0, a size of 1 that
R12 does not name, is taken as valid (DESIGN CHOICE, log 86). -/
def fabCfgErr (s : State) : Bool :=
  let p := s.ownPos
  decide (16384 < s.dim 0 * s.dim 1 * s.dim 2 * s.dim 3) || decide (8 < p.member) ||
    (List.range 4).any fun d => decide (s.dim d ≤ posCoord p d)

/-- The cabled peer of a flue: its position, and its flue number there (R263, R264). -/
def cabledPeer (s : State) (f : Nat) : Pos × Nat :=
  let me := s.ownPos
  let k := f % 2
  if f < 16 then ({ me with member := (me.member + 1 + f / 2) % 9 }, 2 * (7 - f / 2) + k)
  else
    let d := (f - 16) / 4
    let dir := (f - 16) / 2 % 2
    (s.neighbour me d dir, 16 + 4 * d + 2 * (1 - dir) + k)

/-- t0 to t3 in 20 bits, t0 highest. -/
def tWord (p : Pos) : BitVec 20 := BitVec.ofNat 20 (((p.t0 % 32 * 32 + p.t1 % 32) * 32 + p.t2 % 32) * 32 + p.t3 % 32)

/-- Lanes of the mode width of a flue (Table 11.1, R45). -/
def modeLanes (s : State) (f : Nat) : Nat :=
  match s.power.mode with
  | .full => 8
  | .flue => 8
  | .banked => 2
  | .forge => if s.power.maskCur.getLsbD f then 8 else 1

/-- The active lanes of a direction: the smaller of the mode width in use and the lane width (R245). -/
def Flue.width (u : Flue) (d : FlueDir) : Nat := min u.modeWidth d.laneWidth

/-! ### Sending -/

/-- The key of a credit pool. -/
def poolKey (vc : Vc) (part : Nat) : Nat := 4 * vcCode vc + part

/-- Flit slots of a pool (Table 11.4). -/
def poolSlots (s : State) (vc : Vc) : Nat :=
  match vc with
  | .lc => 1536 / s.nParts | .be => 256 / s.nParts | .ctrl => 128 / s.nParts | .relight => 128 / s.nParts

/-- Flit slots of a pool are free again (R253). -/
def freeSlots (f : Nat) (vc : Vc) (n flits : Nat) (s : State) : State :=
  if 32 ≤ f then s else s.modFlue f fun u => { u with freed := u.freed.set (poolKey vc n) (u.freed.get (poolKey vc n) + flits) }

/-- A frame as an item of the transmit queue. -/
def frameItem (n : Nat) (fr : Frame) : TxItem :=
  { vc := fr.vc, part := Fin.ofNat 4 n, load := .frame fr, flits := frameFlits fr.body, started := false }

/-- The job fingerprint of a partition (Table 11.9). -/
def ownOpen (s : State) (n : Nat) : OpenBody :=
  let p := s.part n
  { draught := draughtCode s.power.mode, jobId := if p.rl.role = .standby then p.rsv.jobId else p.adm.jobId
    lineage := p.tree.lineage, epoch := p.epoch, step := p.step.count, pos := s.logicalPos n, role := p.rl.role }

/-- The link keys of a partition exist: its admission, or a reservation's, holds the job key (R255). -/
def linkKeys (s : State) (n : Nat) : Bool :=
  let p := s.part n
  decide (p.adm.state = .admitted) || decide (p.rsv.state = .admitted)

/-- The job key that a partition's link keys are formed from (Table 16.3). -/
def linkJobKey (s : State) (n : Nat) : Digest := slotKey s (if (s.part n).adm.state = .admitted then slotJob n else slotRsv n)

/-- The own end of a flue's hop (R376): the logical position, but for the standby plane, where a module has its own with member 8. -/
def ownHop (s : State) (n f : Nat) : Pos := if s.ownPos.member = 8 ∧ 16 ≤ f then s.ownPos else s.logicalPos n

/-- The peer's end of a flue's hop, as the own routes have it (R269, R376). -/
def peerHop (s : State) (n f : Nat) : Pos :=
  let p := (cabledPeer s f).1
  if f < 16 ∧ p.member = 8 then (((s.part n).routes.find? fun q => sameGroup q p)).getD p else p

/-- Put items before what waits in a queue, after a frame that is being sent (R250). -/
def putFront (items q : List TxItem) : List TxItem := (q.filter fun i => i.started) ++ items ++ q.filter fun i => !i.started

/-- Send an OPEN on a flue (R261, R376): OPEN_SEQ advances and starts a new key; a full OPEN_SEQ puts the flue in DOWN (R444). A withdrawn or
halted partition sends none (R309, R230). -/
def sendOpen (f n : Nat) (s : State) : State :=
  let u := s.flues.get f
  let c := u.subs.get n
  let p := s.part n
  if p.rl.state = .withdrawn ∨ p.prot.halted then s
  else if 2 ^ 32 - 1 ≤ c.openTx then s.modFlue f fun u => { u with state := .down }
  else
    let fr : Frame := { epoch := p.epoch, lineage := p.tree.lineage, step := p.step.count, src := s.logicalPos n
                        dst := some (cabledPeer s f).1, vc := .ctrl, body := .openF (ownOpen s n) }
    let key := linkKey (linkJobKey s n) (ownHop s n f) (peerHop s n f) f u.salt u.peerSalt (c.openTx + 1)
    s.modFlue f fun u => { u with
      subs := u.subs.set n { c with openTx := c.openTx + 1, told := true, keyTx := key, gcntTx := 0 }
      txQ := putFront [frameItem n fr] u.txQ }

/-- Queue a frame of a partition on a flue; the partition's first traffic on a running flue sends its OPEN first (R261). -/
def enqueueFrame (f n : Nat) (fr : Frame) (s : State) : State :=
  let u := s.flues.get f
  let s := if decide (u.state = .run) && !(u.subs.get n).told && linkKeys s n then sendOpen f n s else s
  s.modFlue f fun u => { u with txQ := u.txQ ++ [frameItem n fr] }

/-- A partition that has a job to expect traffic for sends its OPEN on every running flue (R261). -/
def openFlues (n : Nat) (s : State) : State :=
  (List.range 32).foldl (fun s f =>
    let u := s.flues.get f
    if decide (u.state = .run) && !(u.subs.get n).told && linkKeys s n then sendOpen f n s else s) s

/-- Queue a link management frame. -/
def enqueueLink (f : Nat) (l : LinkFrame) (s : State) : State :=
  s.modFlue f fun u => { u with txQ := u.txQ ++ [{ vc := .ctrl, part := 0, load := .link l, flits := 1, started := false }] }

/-- Which flue of a pair a frame uses (R267, R280). -/
def streamK : FrameBody → Nat
  | .data d _ _ _ _ e _ _ _ _ => (d + e) % 2
  | .coll _ _ k _ => k % 2
  | _ => 0

/-- A flue still holds frames of the streams of flue `k` of its pair: they wait, or are not acknowledged (R267). Heartbeats, which go on both flues,
are no stream. -/
def Flue.carries (u : Flue) (k : Nat) : Bool :=
  let of (fr : Frame) : Bool := decide (streamK fr.body = k) && (match fr.body with | .heartbeat _ _ => false | _ => true)
  (u.txQ.any fun i => match i.load with | .frame fr => of fr | .link _ => false) || u.retry.any fun e => match e.2.2 with
    | some fr => of fr
    | none => false

/-- The flue of a pair that traffic uses (R267): its own while that is in RUN and the partner has nothing of its streams left to be acknowledged,
else its partner while that is in RUN, else its own. -/
def usePair (s : State) (f : Nat) : Nat :=
  let p := pairOf f
  if decide ((s.flues.get f).state = .run) && !(decide ((s.flues.get p).state = .run) && (s.flues.get p).carries (f % 2)) then f
  else if (s.flues.get p).state = .run then p else f

/-- The mesh flue to a member of the own group (Table 5.11). -/
def meshFlue (s : State) (member k : Nat) : Nat := 2 * ((member + 9 - s.ownPos.member - 1) % 9) + k

/-- The torus flue in a dimension and direction. -/
def torusFlue (d dir k : Nat) : Nat := 16 + 4 * d + 2 * dir + k

/-- The next torus hop from one group towards another: the first dimension that differs, the shorter way, + on a tie (R268). -/
def torusStep (s : State) (a b : Pos) : Option (Nat × Nat) :=
  ((List.range 4).find? fun d => decide (posCoord a d ≠ posCoord b d)).map fun d =>
    let n := s.dim d
    let fwd := (posCoord b d + n - posCoord a d) % n
    (d, if fwd ≤ n - fwd then 0 else 1)

/-- Where a frame goes next. -/
inductive Hop where
  | here
  | mesh (member : Nat)
  | torus (d dir : Nat)
  deriving DecidableEq, Repr

/-- The position is held by the standby of its group, as this module routes it (R269). -/
def adoptedAt (s : State) (n : Nat) (p : Pos) : Bool := decide (p ∈ (s.part n).routes)

/-- The direction of a torus hop: the sender's route or ring chooses where both reach the same neighbour (R199, R264, R266). -/
def Hop.by (s : State) (via : Option Nat) : Hop → Hop
  | .torus d dir => if s.dim d = 2 then .torus d (via.getD dir) else .torus d dir
  | h => h

/-- The next hop from this module towards a logical position (R266, R268, R269). -/
def nextHop (s : State) (n : Nat) (dst : Pos) : Hop :=
  let me := s.ownPos
  if dst = s.logicalPos n then .here
  else if sameGroup me dst then
    let target := if adoptedAt s n dst then 8 else dst.member
    if me.member = target then .here else .mesh target
  else match torusStep s me dst with
    | none => .here
    | some (d, dir) =>
      let g := { s.neighbour me d dir with member := dst.member }
      let mine := { me with member := dst.member }
      if me.member = 8 then (if adoptedAt s n g || adoptedAt s n mine || decide (dst.member = 8) then .torus d dir else .mesh dst.member)
      else if me.member ≠ dst.member then .mesh (if adoptedAt s n mine then 8 else dst.member)
      else if adoptedAt s n g then .mesh 8
      else .torus d dir

/-- Put a frame on the flue of a hop. -/
def sendHop (n : Nat) (h : Hop) (fr : Frame) (s : State) : State :=
  let k := streamK fr.body
  match h with
  | .here => s
  | .mesh m => enqueueFrame (usePair s (meshFlue s m k)) n fr s
  | .torus d dir => enqueueFrame (usePair s (torusFlue d dir k)) n fr s

/-- The group before `y` on the dimension-ordered path from a root (R268). -/
def treeParent (s : State) (root y : Pos) : Option Pos :=
  ([3, 2, 1, 0].find? fun d => decide (posCoord root d ≠ posCoord y d)).map fun d =>
    let n := s.dim d
    let fwd := (posCoord y d + n - posCoord root d) % n
    posWith y d (if fwd ≤ n - fwd then (posCoord y d + n - 1) % n else (posCoord y d + 1) % n)

/-- The torus hops on which this module's plane copies a broadcast from a root group (R268). -/
def treeHops (s : State) (root : Pos) : List (Nat × Nat × Pos) :=
  let me := s.ownPos
  ((List.range 4).flatMap fun d => (List.range 2).filterMap fun dir =>
    let y := s.neighbour me d dir
    if y ≠ me ∧ (dir = 0 ∨ s.neighbour me d 0 ≠ y) then
      (treeParent s root y).bind fun p => if sameGroup p me then some (d, dir, y) else none
    else none)

/-- Copy a broadcast onward in the own plane (R268). A position that a standby has adopted gets its copy on the standby plane, and the standby
hands it on to the members whose copies would have come from there (R269; DEDUCED, log 99). -/
def forwardPlane (n member : Nat) (fr : Frame) (s : State) : State :=
  let me := s.ownPos
  (treeHops s fr.src).foldl (fun s (d, dir, y) =>
    if decide (me.member ≠ 8) && (adoptedAt s n { y with member := member } || adoptedAt s n { me with member := member }) then s
    else sendHop n (.torus d dir) fr s) s

/-- Send a frame that has left the hold on its way: to its own inbox, to the next hop, or, for a broadcast, to the own inbox,
the hearth peers and the own plane (R266, R268, R270). -/
def route (n : Nat) (fr : Frame) (s : State) : State :=
  match fr.dst with
  | some dst => match nextHop s n dst with
    | .here => s.modPart n fun p => { p with inbox := p.inbox ++ [(32, fr)] }
    | .mesh m => match fr.body with
      | .heartbeat _ _ =>
        let f := meshFlue s m 0
        enqueueFrame (f + 1) n fr (enqueueFrame f n fr s)
      | _ => sendHop n (.mesh m) fr s
    | h => sendHop n (h.by s fr.via) fr s
  | none =>
    let s := s.modPart n fun p => { p with inbox := p.inbox ++ [(32, fr)] }
    let s := ((List.range 9).filter fun m => decide (m ≠ s.ownPos.member)).foldl (fun s m => sendHop n (.mesh m) fr s) s
    forwardPlane n (s.logicalPos n).member fr s

/-- OUTBOUND_HOLD_RELEASE: the 96-cycle hold of the oldest frame, and that of the oldest transfer towards the host, end (R233). -/
def execOutboundHoldRelease (s : State) : Out :=
  .next (releaseHeld (match s.outHold with
  | [] => s
  | (n, fr) :: rest => route n fr { s with outHold := rest }))

/-! ### Flit groups out -/

/-- KEYID of a partition's link key for an OPEN_SEQ (R376). -/
def keyIdOf (n seq : Nat) : Byte := BitVec.ofNat 8 (64 * n + (if seq = 0 then 0 else (seq - 1) % 63 + 1))

/-- Flits in the retry buffer. -/
def Flue.retryFlits (u : Flue) : Nat := u.retry.foldl (fun c e => c + e.2.1.nflit) 0

/-- Free slots of a pool at the peer. -/
def poolFree (s : State) (u : Flue) (vc : Vc) (part : Nat) : Nat :=
  let k := poolKey vc part
  poolSlots s vc - (u.used.get k - u.granted.get k)

/-- A header's fields that are fresh at every sending: acknowledgement, NAK, credits and GCRC (R252, R253). -/
def freshHeader (u : Flue) (g : FlitGroup) : FlitGroup :=
  let g := { g with
    ackSeq := BitVec.ofNat 24 u.rxSeq.toNat, nak := u.nakking
    crPool := BitVec.ofNat 4 u.nextPool, crCnt := BitVec.ofNat 12 (u.freed.get u.nextPool) }
  { g with gcrc := g.crcOf }

/-- The next pool in turn (R253). -/
def Flue.turn (u : Flue) : Flue := { u with nextPool := (u.nextPool + 1) % 16 }

/-- Send a header-only group: acknowledgement, credits, and NAK where `nakking` (R250, R252). -/
def sendHeader (f : Nat) (s : State) : State :=
  let u := s.flues.get f
  let g : FlitGroup := freshHeader u
    { fseq := BitVec.ofNat 32 u.txSeq.toNat, ackSeq := 0, nflit := 0, nak := false, sof := false, eof := false, vc := .lc
      part := 0, keyId := 0, crPool := 0, crCnt := 0, zeros := 0, gcrc := 0, data := [], tag := 0 }
  (s.modFlue f Flue.turn).emit (.group f g)

/-- The link of a flue is up: it sends and takes groups (Table 11.2). -/
def Flue.up (u : Flue) : Bool := decide (u.state = .run) || decide (u.state = .fpx)

/-- NAK_REPEAT (R252). -/
def execNakRepeat (f : FlueId) (s : State) : Out :=
  .next (let u := s.flues.get f.val; if u.up && u.nakking then sendHeader f.val s else s)

/-- The first item of a pool that waits. -/
def firstItem (u : Flue) (vc : Vc) (part : Nat) (link : Bool) : Option TxItem :=
  u.txQ.find? fun i => decide (i.vc = vc) && decide (i.part.val = part) &&
    (match i.load with | .link _ => link | _ => !link)

/-- Flits of an item's next group. -/
def TxItem.step (i : TxItem) : Nat := min 8 i.flits

/-- The flue carries data: in FORGE a flue outside DRAUGHT_FORGE_MASK carries only the control and relight channels (R45). -/
def carriesData (s : State) (f : Nat) : Bool := decide (s.power.mode ≠ .forge) || s.power.maskCur.getLsbD f

/-- An item may send its next group (R45, R252, R253, R255, R262): the flue carries its channel, the retry buffer and the pool have room, a link
management frame's pool being that of CTRL and partition 0; a frame needs a link key in use, and LC, BE and RELIGHT an open sub-channel that is not quarantined. -/
def itemReady (s : State) (f : Nat) (i : TxItem) : Bool :=
  let u := s.flues.get f
  let c := u.subs.get i.part.val
  decide (u.retryFlits + i.step ≤ 2048) && decide (i.step ≤ poolFree s u i.vc i.part.val) &&
  (match i.load with
   | .link _ => u.up
   | _ => decide (u.state = .run) && (carriesData s f || decide (i.vc = .ctrl) || decide (i.vc = .relight)) && c.told &&
      (decide (i.vc = .ctrl) || (c.opened && !(u.quarPart.getLsbD i.part.val))))

/-- The partitions in turn after `last`. -/
def turnFrom (last : Nat) : List Nat := (List.range 4).map fun i => (last + 1 + i) % 4

/-- A partition's next ready item outside CTRL: RELIGHT before LC, LC before BE (R254). -/
def dataItem (s : State) (f part : Nat) : Option TxItem :=
  [Vc.relight, .lc, .be].findSome? fun vc => match firstItem (s.flues.get f) vc part false with
    | some i => if itemReady s f i then some i else none
    | none => none

/-- A weight of 0 counts as 1 (R254). -/
def flueWeight (u : Flue) (part : Nat) : Nat := max 1 (field u.weights (4 * part + 3) (4 * part))

/-- Visit the partitions in turn (R254): each visit adds a partition's weight to the flits it may send, and one that has no group ready loses what
it had left. The group, its partition, and the flits left to each. -/
def weighted (s : State) (f : Nat) : Nat → Nat → Tab Nat → Option (TxItem × Nat × Tab Nat)
  | 0, _, _ => none
  | fuel + 1, p, d =>
    let next := (p + 1) % 4
    let visit (d : Tab Nat) : Tab Nat := d.set next (d.get next + flueWeight (s.flues.get f) next)
    match dataItem s f p with
    | none => weighted s f fuel next (visit (d.set p 0))
    | some i => if i.step ≤ d.get p then some (i, p, d.set p (d.get p - i.step)) else weighted s f fuel next (visit d)

/-- Rounds of four visits that give every weight the flits of a group. -/
def weightedFuel : Nat := 40

/-- The group the transmitter chooses next (R254), with the round-robins after it; link management goes first. -/
def choose (s : State) (f : Nat) : Option (TxItem × Flue) :=
  let u := s.flues.get f
  match (firstItem u .ctrl 0 true).filter (itemReady s f) with
  | some i => some (i, u)
  | none =>
    match (turnFrom u.rrCtrl).findSome? fun p => (firstItem u .ctrl p false).filter (itemReady s f) with
    | some i => some (i, { u with rrCtrl := i.part.val })
    | none => (weighted s f weightedFuel u.rrData u.rrDef).map fun (i, p, d) => (i, { u with rrData := p, rrDef := d })

/-- IDLE_ACK_SEND: with no data flowing, whether nothing waits or nothing may go, a header-only group goes (R252). -/
def execIdleAckSend (f : FlueId) (s : State) : Out :=
  .next (let u := s.flues.get f.val; if u.up && (choose s f.val).isNone then sendHeader f.val s else s)

/-- Replace or remove the first item equal to `i`. -/
def swapItem (i : TxItem) (j : Option TxItem) : List TxItem → List TxItem
  | [] => []
  | k :: ks => if k = i then (match j with | some j => j :: ks | none => ks) else k :: swapItem i j ks

/-- Flits of an item. -/
def TxItem.total (i : TxItem) : Nat := match i.load with | .frame fr => frameFlits fr.body | .link _ => 1

/-- The next group of an item, before the header's fresh fields: frames of 32 flits at most, SOF on the first group of each and EOF on its last
(R250); a frame's flits are encrypted and tagged under the sub-channel's key (R255). -/
def nextGroup (u : Flue) (i : TxItem) : FlitGroup :=
  let c := u.subs.get i.part.val
  let sent := i.total - i.flits
  let head : FlitGroup :=
    { fseq := BitVec.ofNat 32 u.txSeq.toNat, ackSeq := 0, nflit := i.step, nak := false, sof := decide (sent % 32 = 0)
      eof := decide (i.flits ≤ 8) || decide ((sent + i.step) % 32 = 0), vc := i.vc, part := i.part, keyId := 0
      crPool := 0, crCnt := 0, zeros := 0, gcrc := 0, data := [], tag := 0 }
  match i.load with
  | .link l => { head with data := l.bytes }
  | .frame fr => sealGroup c.keyTx c.gcntTx
      { head with keyId := keyIdOf i.part.val c.openTx, data := (fr.wire.drop (128 * sent)).take (128 * i.step) }

/-- Send the next group of an item on a flue whose round-robins are those of `u` (R250 to R255). -/
def sendItem (f : Nat) (i : TxItem) (u : Flue) (s : State) : State :=
  let g := freshHeader u (nextGroup u i)
  let pool := poolKey i.vc i.part.val
  let last := decide (i.flits ≤ 8)
  let u := { u with
    txSeq := u.txSeq + BitVec.ofNat 64 i.step
    retry := u.retry ++ [(u.txSeq, g, match i.load with | .frame fr => if last then some fr else none | .link _ => none)]
    used := u.used.set pool (u.used.get pool + i.step)
    subs := match i.load with | .frame _ => u.subs.upd i.part.val fun c => { c with gcntTx := c.gcntTx + 1 } | .link _ => u.subs
    txQ := swapItem i (if last then none else some { i with flits := i.flits - i.step, started := true }) u.txQ }
  (s.modFlue f fun _ => u.turn).emit (.group f g)

/-- GROUP_TRANSMIT: the transmitter chooses and sends the next group (R250, R252 to R255). -/
def execGroupTransmit (f : FlueId) (s : State) : Out :=
  .next (match choose s f.val with
  | none => s
  | some (i, u) => sendItem f.val i u s)

/-! ### Leaving RUN -/

/-- An item as it was before any of it was sent. -/
def TxItem.whole (i : TxItem) : TxItem := { i with flits := i.total, started := false }

/-- A flue leaves RUN (R267): what it has not had acknowledged, and what waits on it, goes to the partner before any later group
where the partner is in RUN, and waits here otherwise. Link management frames are dropped; the slots of flits not acknowledged are no longer
counted as used, and frames in progress are given up with theirs. The numbering goes on (R251). -/
def leaveRun (f : Nat) (s : State) : State :=
  let u := s.flues.get f
  let again (e : DWord × FlitGroup × Option Frame) : Option TxItem := e.2.2.map fun fr => frameItem e.2.1.part.val fr
  let items := u.retry.filterMap again ++ (u.txQ.filter fun i => match i.load with | .frame _ => true | .link _ => false).map TxItem.whole
  let p := pairOf f
  let held (k : Nat) : Nat := ((u.rxData.get k).getD []).length / 128
  let s := s.modFlue f fun u => { u with
    retry := [], txQ := [], nakking := false, rxData := Tab.const none, rxRec := Tab.const none
    used := u.retry.foldl (fun t e => let k := poolKey e.2.1.vc e.2.1.part.val; t.set k (t.get k - e.2.1.nflit)) u.used
    freed := (List.range 16).foldl (fun t k => t.set k (t.get k + held k)) u.freed }
  if (s.flues.get p).state = .run then s.modFlue p fun u => { u with txQ := putFront items u.txQ }
  else s.modFlue f fun u => { u with txQ := items }

/-- A flue enters RUN: what waits on its partner, where that is not in RUN, goes with it (R267). -/
def enterRun (f : Nat) (s : State) : State :=
  let s := s.modFlue f fun u => { u with state := .run }
  let p := pairOf f
  if (s.flues.get p).up then s
  else
    let frames (i : TxItem) : Bool := match i.load with | .frame _ => true | .link _ => false
    let items := ((s.flues.get p).txQ.filter frames).map TxItem.whole
    (s.modFlue p fun u => { u with txQ := u.txQ.filter fun i => !frames i }).modFlue f fun u => { u with txQ := u.txQ ++ items }

/-! ### Bring-up -/

/-- Enter bring-up: ABSENT while no cable is seen, IDLE while the fabric's configuration is in error (R23, R249). -/
def flueStart (f : Nat) (s : State) : State :=
  let st : FlueState := if fabCfgErr s then .idle else if s.pins.presN.get f then .absent else .detect
  s.modFlue f fun u => { u with state := st }

/-- FLUE_EN_SET: writing 1 starts the bring-up of a flue that is not enabled (R249). -/
def flueEnable (f : Nat) (s : State) : State :=
  if (s.flues.get f).en then s
  else flueStart f (s.modFlue f fun u => { u with en := true, attempts := 0 })

def execFlueEnSet (f : FlueId) (s : State) : Out := .next (if s.inService then flueEnable f.val s else s)

/-- FLUE_EN_CLEAR: writing 0 returns the flue to IDLE; what is not acknowledged goes to the partner or waits (R249, R267). -/
def flueDisable (f : Nat) (s : State) : State :=
  let s := if (s.flues.get f).up then leaveRun f s else s
  healthSpares (s.modFlue f fun u => { u with en := false, state := .idle, subs := Tab.const subClosed })

def execFlueEnClear (f : FlueId) (s : State) : Out := .next (flueDisable f.val s)

/-- FLUE_PRESENCE_CHANGE: FLf_PRES_N changes; it decides whether an enabled flue waits in ABSENT or may train (R23). -/
def execFluePresenceChange (f : FlueId) (high : Bool) (s : State) : Out :=
  let s := { s with pins := { s.pins with presN := s.pins.presN.set f.val high } }
  let u := s.flues.get f.val
  .next (if high && decide (u.state = .detect) then s.modFlue f.val fun u => { u with state := .absent }
    else if !high && u.en && decide (u.state = .absent) then flueStart f.val s else s)

/-- Move a flue from one bring-up state to the next. -/
def bringUp (f : Nat) (was will : FlueState) (s : State) : State :=
  if (s.flues.get f).en ∧ (s.flues.get f).state = was then s.modFlue f fun u => { u with state := will } else s

/-- FLUE_DETECT_DONE, FLUE_TRAIN_DONE, FLUE_ALIGN_DONE (Table 11.2). -/
def execFlueDetectDone (f : FlueId) (s : State) : Out := .next (bringUp f.val .detect .train s)
def execFlueTrainDone (f : FlueId) (s : State) : Out := .next (bringUp f.val .train .align s)
def execFlueAlignDone (f : FlueId) (s : State) : Out := .next (bringUp f.val .align .init s)

/-- The link fingerprint of this end (Table 11.9, R263). -/
def ownFpx (s : State) (f : Nat) (salt : BitVec 128) : FpxBody :=
  { stepping := BitVec.ofNat 16 s.stepping, capDigest := capDigest s, member := s.ownPos.member, t := s.fab.t, flue := f, salt := salt }

/-- FLUE_INIT_DONE: sequences, retry buffers and credit counts are 0, the sub-channels are closed, and the flue sends its
fingerprint with a fresh LINK_SALT (R249, R376). -/
def execFlueInitDone (f : FlueId) (s : State) : Out :=
  .next (if (s.flues.get f.val).en ∧ (s.flues.get f.val).state = .init then
    let (d, s) := s.draw
    let salt : BitVec 128 := d.setWidth 128
    let s := s.modFlue f.val fun u => { u with
      state := .fpx, txSeq := 0, rxSeq := 0, acked := 0, nakking := false, retry := [], used := Tab.const 0
      granted := Tab.const 0, freed := Tab.const 0, nextPool := 0, subs := Tab.const subClosed, resync := false
      rxData := Tab.const none, rxRec := Tab.const none, rrDef := Tab.const 0
      salt := salt, rxLink := [], modeWidth := modeLanes s f.val, peerWidth := modeLanes s f.val
      txQ := u.txQ.filter fun i => match i.load with
        | .frame fr => (match fr.body with | .openF _ => false | _ => true)
        | .link _ => false }
    enqueueLink f.val (.fpx (ownFpx s f.val salt)) s
  else s)

/-- FLUE_BRINGUP_TIMEOUT: RUN is not reached within 30 ms: again from TRAIN, and after the third attempt DOWN (R249). With the cable gone the
flue trains no more and stays in ABSENT (R23, R249). -/
def execFlueBringupTimeout (f : FlueId) (s : State) : Out :=
  let u := s.flues.get f.val
  .next (if u.en && (decide (u.state = .detect) || decide (u.state = .train) || decide (u.state = .align) ||
      decide (u.state = .init) || decide (u.state = .fpx)) then
    if s.pins.presN.get f.val then s.modFlue f.val fun u => { u with state := .absent }
    else if 3 ≤ u.attempts + 1 then
      healthSpares (s.modFlue f.val fun u => { u with attempts := u.attempts + 1, trainFail := true, state := .down })
    else s.modFlue f.val fun u => { u with attempts := u.attempts + 1, state := .train }
  else s)

/-! ### Lanes -/

/-- A LANE entry (Table 20.2): flue, direction (0 transmit, 1 receive), logical lane, kind (0 spare takeover, 1 width 4, 2 DOWN). -/
def laneSoot (f dir lane kind : Nat) (s : State) : State := sootEvent 0x41 0xFF [BitVec.ofNat 8 f, BitVec.ofNat 8 dir, BitVec.ofNat 8 lane, BitVec.ofNat 8 kind] s

/-- The working lanes of a direction, lowest first. -/
def FlueDir.working (d : FlueDir) : List Nat := (List.range 9).filter fun l => decide (l ∉ d.failed)

/-- The logical lane that a physical lane carries, 8 for none: at lane width 4 the four lowest working lanes carry logical lanes 0 to 3 (R248). -/
def FlueDir.logical (d : FlueDir) (lane : Nat) : Nat :=
  if d.laneWidth = 4 then (((d.working.take 4).findIdx? fun l => decide (l = lane))).getD 8
  else if lane = 8 then d.spare.getD 8 else lane

/-- The physical lane that carries a logical lane (R247, R248). -/
def FlueDir.phys (d : FlueDir) (logical : Nat) : Nat :=
  if d.laneWidth = 4 then (d.working.take 4).getD logical 8 else if d.spare = some logical then 8 else logical

/-- A lane of a direction fails (R247, R248): the first failure of a data lane moves it to the spare; a second sets the lane
width to 4 and retrains; fewer than four working lanes puts the flue in DOWN. The kind is that of the LANE entry, none where
nothing is written. -/
def FlueDir.fail (lane : Nat) (d : FlueDir) : FlueDir × Option Nat :=
  if lane ∈ d.failed then (d, none)
  else
    let failed := d.failed ++ [lane]
    if d.failed.isEmpty then
      if lane = 8 then ({ d with failed := failed }, none) else ({ d with failed := failed, spare := some lane }, some 0)
    else
      let d := { d with failed := failed, laneWidth := 4, takeover := none, spareFrom := 0 }
      let on8 := d.logical 8
      ({ d with spare := if on8 < 4 then some on8 else none }, some (if d.working.length < 4 then 2 else 1))

/-- Change one direction of a flue: 1 receive, 0 transmit. -/
def Flue.setDir (dir : Nat) (d : FlueDir) (u : Flue) : Flue := if dir = 1 then { u with rx := d } else { u with tx := d }

/-- A LANE entry, and what goes with it: at width 4 the flue retrains, and with too few lanes it is DOWN (R248). -/
def laneFailed (f dir logical kind : Nat) (s : State) : State :=
  let s := laneSoot f dir logical kind s
  let s := if kind = 0 then s else (leaveRun f s).modFlue f fun u => { u with state := if kind = 2 then .down else .retrain }
  healthSpares s

/-- The receiver declares a lane failed (R247): it names the logical lane in a LANE frame, and reads that lane from the spare once the
transmitter's reply names the codeword. A second failure goes to width 4 (R248), and its LANE frame goes before the flue leaves RUN. -/
def declareLane (f lane : Nat) (s : State) : State :=
  let u := s.flues.get f
  if u.state ≠ .run ∨ lane ∈ u.rx.failed then s
  else
    let logical := u.rx.logical lane
    match u.rx.fail lane with
    | (d, none) => s.modFlue f fun u => { u with rx := d }
    | (d, some 0) => enqueueLink f (.lane logical) (s.modFlue f fun u => { u with rx := { d with spare := none, takeover := some logical } })
    | (d, some k) =>
      let s := if logical = 8 then s
        else sendItem f { vc := .ctrl, part := 0, load := .link (.lane logical), flits := 1, started := false } u s
      laneFailed f 1 logical k (s.modFlue f fun u => { u with rx := d })

/-- LANE_LOCK_LOSS (R247). -/
def execLaneLockLoss (f : FlueId) (lane : Fin 9) (s : State) : Out := .next (declareLane f.val lane.val s)

/-- LANE_ERROR_INTERVAL: a 1 ms interval ends with `symbols` corrected on each lane, and `corr` and `uncorr` codewords corrected
and not correctable since the last interval (R246, R247). -/
def execLaneErrorInterval (f : FlueId) (symbols : List Nat) (corr uncorr : Nat) (s : State) : Out :=
  let s := s.modFlue f.val fun u => { u with
    fecCorr := satAdd u.fecCorr corr, fecUncorr := satAdd u.fecUncorr uncorr
    ovf := u.ovf ||| BitVec.ofNat 6 (2 * b2n (satOvf u.fecCorr corr) + 4 * b2n (satOvf u.fecUncorr uncorr)) }
  .next ((List.range 9).foldl (fun s l => if 4096 < symbols.getD l 0 then declareLane f.val l s else s) s)

/-- Take the oldest link management frame that meets `p`. -/
def takeLink (f : Nat) (p : LinkFrame → Bool) (s : State) : Option (LinkFrame × State) :=
  ((s.flues.get f).rxLink.find? p).map fun l => (l, s.modFlue f fun u => { u with rxLink := u.rxLink.erase l })

/-- LANE: the transmitter moves the named logical lane to the spare from its next codeword boundary and replies with that codeword, whose number
is a free value; the reply ends the takeover at the receiver, which reads the spare from that codeword on (R247). -/
def execLaneFrame (f : FlueId) (s : State) : Out :=
  .next (match takeLink f.val (fun l => match l with | .lane _ => true | .laneReply _ _ => true | _ => false) s with
  | some (.lane logical, s) =>
    let u := s.flues.get f.val
    match u.tx.fail (u.tx.phys logical) with
    | (d, none) => s.modFlue f.val fun u => { u with tx := d }
    | (d, some k) =>
      let (cw, s) := s.takeFree
      let s := laneFailed f.val 0 logical k (s.modFlue f.val fun u => { u with tx := { d with spareFrom := if k = 0 then cw % 2 ^ 48 else 0 } })
      if k = 0 then enqueueLink f.val (.laneReply logical (cw % 2 ^ 48)) s else s
  | some (.laneReply logical cw, s) =>
    let u := s.flues.get f.val
    if u.rx.takeover = some logical then
      laneFailed f.val 1 logical 0 (s.modFlue f.val fun u => { u with rx := { u.rx with spare := some logical, spareFrom := cw, takeover := none } })
    else s
  | some (_, s) => s
  | none => s)

/-- WIDTH: the lane set in use changes to the lanes common to both ends (R48); it waits for a takeover under way (R247). -/
def execWidthFrame (f : FlueId) (s : State) : Out :=
  .next (if (s.flues.get f.val).rx.takeover.isSome then s
    else match takeLink f.val (fun l => match l with | .width _ => true | _ => false) s with
    | some (.width w, s) => s.modFlue f.val fun u => { u with peerWidth := w, modeWidth := min (modeLanes s f.val) w }
    | some (_, s) => s
    | none => s)

/-- FLUE_RETRAIN_DONE (R248): the flue carries traffic again, and the first good group it gets names the sequence that it expects (R251; DESIGN
CHOICE, log 100). -/
def execFlueRetrainDone (f : FlueId) (s : State) : Out :=
  .next (if (s.flues.get f.val).state = .retrain then enterRun f.val (s.modFlue f.val fun u => { u with resync := true }) else s)

end Sys2Proof.Machine
end

