-- ==== Sys2Proof/Machine/Stats.lean ====
section
/-! DEFINITION. The tile engine's events: dispatch, suspension, the sentinel's verdict and completion with epilogue, row
statistics, output and flags (R59, R69 to R71, R119, R121 to R124, R180 to R184); TSTAT and SCTRD (R128, R129). -/

namespace Sys2Proof.Machine

/-! ### Dispatch and suspension (R59, R69) -/

/-- The entry that the free engine takes: the oldest queued LC; else, while BE work may run, the suspended BE, then the oldest queued
BE (R59, R69). -/
def Ember.nextTile (m : Ember) (free : Bool) : Option TileEntry :=
  (m.tileQ.find? fun e => !e.be && decide (e.st = .queued)).or
    (if free then
      (m.tileQ.find? fun e => e.be && decide (e.st = .paused)).or (m.tileQ.find? fun e => e.be && decide (e.st = .queued))
    else none)

/-- Replace the first entry equal to `e`. -/
def replaceFirst {α : Type} [DecidableEq α] (e e' : α) : List α → List α
  | [] => []
  | x :: xs => if x = e then e' :: xs else x :: replaceFirst e e' xs

/-- TILE_DISPATCH: the free tile engine takes the next instruction (R69). `upset` names totals that the array's hardware will
deliver with bits flipped. -/
def execTileDispatch (l : EmberId) (upset : List (Fin 256 × Word)) (s : State) : Out :=
  let m := s.ember l.val
  .next (if !s.inService || m.activeTile.isSome then s
    else match m.nextTile (s.beFree l.val) with
      | none => s
      | some e =>
        let e' := { e with st := .active, upset := if e.st = .queued then upset.map fun u => (u.1.val, u.2) else e.upset }
        s.modEmber l.val fun m => { m with tileQ := replaceFirst e e' m.tileQ })

/-- BE_TILE_SUSPEND: with an LC thread out of IDLE, or the BE threads held, the executing BE instruction is suspended at its boundary
(R59, R436). -/
def execBeTileSuspend (l : EmberId) (s : State) : Out :=
  let m := s.ember l.val
  .next (match m.activeTile with
    | some e =>
      if e.be && !s.beFree l.val then
        s.modEmber l.val fun m => { m with tileQ := replaceFirst e { e with st := .paused } m.tileQ }
      else s
    | none => s)

/-! ### The sentinel's reference (R181) -/

/-- The lane tree of VRSUM over a list whose length is a power of two (R134), with saturation. -/
def laneTree (op : Word → Word → FpR) : Nat → List Word → Bool → Bool → FpR
  | 0, vs, sat, nan => { w := vs.headD 0, sat := sat, nan := nan }
  | fuel + 1, vs, sat, nan =>
    if vs.length ≤ 1 then { w := vs.headD 0, sat := sat, nan := nan }
    else
      let rs := (List.range (vs.length / 2)).map fun i => op (vs.getD (2 * i) 0) (vs.getD (2 * i + 1) 0)
      laneTree op fuel (rs.map (·.w)) (sat || rs.any (·.sat)) (nan || rs.any (·.nan))

/-- A product as the vector unit forms it (R181). -/
def refProd (p : Option Dy) : FpR := match p with | none => fpNaN | some d => rne32 d false

/-- push of R174 over partials alone. -/
def pushWord : Nat → Nat → Word → Tab (Option Word) → Bool → Tab (Option Word) × Bool
  | 0, l, v, st, sat => (st.set l (some v), sat)
  | fuel + 1, l, v, st, sat =>
    match st.get l with
    | none => (st.set l (some v), sat)
    | some u => let t := fpAdd u v; pushWord fuel (l + 1) t.w (st.set l none) (sat || t.sat)

/-- fold of R174 over partials alone. -/
def foldWord (st : Tab (Option Word)) : Word × Bool :=
  let r := (List.range 20).foldl (fun (r : Option Word × Bool) l =>
    match st.get l, r.1 with
    | none, _ => r
    | some u, none => (some u, r.2)
    | some u, some w => let t := fpAdd u w; (some t.w, r.2 || t.sat)) (none, false)
  (r.1.getD 0, r.2)

/-- An empty reference of a checked position. -/
def sampleZero (m n : Nat) : Sample :=
  { m := m, n := n, ref := Tab.const none, mag := Tab.const none, sat := false, magSat := false }

/-- Take the pairs of the sentinel buffer, in groups of 32, into the reference and magnitude stacks (R181); `prod` is the scaled product of a
pair. -/
def refRun (prod : SentPair → Option Dy) (qs : List SentPair) (r : Sample) : Sample :=
  (pieces 32 (qs.length / 32) qs).foldl (fun r g =>
    let ps := g.map fun q => refProd (prod q)
    let psat := ps.any (·.sat)
    let sum := laneTree fpAdd 5 (ps.map (·.w)) psat false
    let mag := laneTree fpAdd 5 (ps.map fun p => (fpAbs p.w).w) psat false
    let (ref, s1) := pushWord 20 0 sum.w r.ref false
    let (mg, s2) := pushWord 20 0 mag.w r.mag false
    { r with ref := ref, mag := mg, sat := r.sat || sum.sat || s1, magSat := r.magSat || mag.sat || s2 }) r

/-- What the sampler copies of a run for position (`i`, `n`): the elements A[m, k] and B[k, n] of every k-step, as the array consumes them
(R73). -/
def sentPairs (m : Memory) (d : MatDesc) (ta tb : Bool) (i n : Nat) : List SentPair :=
  (List.range d.klen).map fun k =>
    let a := rawElem m d.a ta (rowElems d.a.fmt) i k
    let b := rawElem m d.b (!tb) (rowElems d.b.fmt) n k
    { a := a.1, aScale := a.2, b := b.1, bScale := b.2 }

/-- The scaled product of a pair in the sentinel buffer (R169, R181). -/
def pairProd (d : MatDesc) (fix : TileFix) (q : SentPair) : Option Dy :=
  match scaleElem d.a.fmt fix.aX (q.a, q.aScale), scaleElem d.b.fmt fix.bX (q.b, q.bScale) with
  | some a, some b => some (a.mul b)
  | _, _ => none

/-- The reference after one instruction of the chain. -/
def refTile (m : Memory) (d : MatDesc) (ta tb : Bool) (fix : TileFix) (r : Sample) : Sample :=
  refRun (pairProd d fix) (sentPairs m d ta tb r.m r.n) r

/-- Pairs that the 1 KiB sentinel buffer holds (R73; four bytes a pair: DEDUCED, log 91). -/
def sentRoom : Nat := 256

/-- The sentinel buffer after further pairs have passed through it: the latest stay. -/
def Ember.feedSent (qs : List SentPair) (m : Ember) : Ember :=
  let all := m.sentBuf ++ qs
  { m with sentBuf := all.drop (all.length - sentRoom) }

/-- Copy what a queued tile instruction's run gives the sampler of its thread into the sentinel buffer (R73). -/
def feedEntry (l : Nat) (e : TileEntry) (r : Option Sample) (s : State) : State :=
  match e.op, r with
  | .tmma _ ta tb, some r => s.modEmber l fun m => m.feedSent (sentPairs m.scratch (matDesc e.desc) ta tb r.m r.n)
  | _, _ => s

/-- ε of R175 and R178 plus the reference's allowance (R181), for reduction length `n`. -/
def missFactor (n k : Nat) (long : Bool) : Dy :=
  let eps : Dy := if long then { m := (k : Int) * 2 ^ 5 + 2 ^ 2, e := -24 }
    else { m := (k : Int) * 2 ^ 5 + 8 + (clog2 (n / k) : Int), e := -24 }
  eps.add { m := (clog2 n : Int) + 4, e := -24 }

/-- The miss test of R181; `ySat` and `refSat` are the records of saturation. -/
def missTest (y yref mag : Word) (n k : Nat) (long ySat refSat : Bool) : Bool :=
  match decF y, decF yref, decF mag with
  | .nan, .nan, _ => false
  | .nan, _, _ => true
  | _, .nan, _ => true
  | _, _, .fin _ s =>
    if ySat || refSat then false
    else
      match decF (fpAbs (fpSub y yref).w).w, decF (rne32 ((missFactor n k long).mul s) false).w with
      | .fin _ a, .fin _ b => !(a.le (b.add { m := 1, e := -126 }))
      | _, _ => false
  | _, _, _ => false

/-! ### One instruction's run over its thread -/

/-- The accumulator set after the run of an entry (R118, R119). -/
def entryAcc (s : State) (l : Nat) (e : TileEntry) : AccSet :=
  match e.op with
  | .tmma cc ta tb =>
    let a := if cc = 0 ∨ cc = 3 then accZero else (s.thread l e.t).acc
    runTile (s.ember l).scratch (matDesc e.desc) ta tb e.fix a
  | _ => (s.thread l e.t).acc

/-- The reference after the run of an entry: a START or SINGLE begins it where it was drawn (R135, R181). -/
def entrySample (s : State) (l : Nat) (e : TileEntry) : Option Sample :=
  match e.op with
  | .tmma cc ta tb =>
    let r := if cc = 0 ∨ cc = 3 then e.sample.map fun p => sampleZero p.1 p.2 else (s.thread l e.t).snt.sample
    r.map (refTile (s.ember l).scratch (matDesc e.desc) ta tb e.fix)
  | _ => none

/-- The chain that the entry ends ran in long-sum mode (R177). -/
def TileEntry.long (e : TileEntry) : Bool := decide (2 ^ 20 < e.len)

/-- The totals as the array delivers them: its hardware faults flip bits. -/
def entryTotal (e : TileEntry) (a : AccSet) (i : Nat) : FpR :=
  let r := posTotal e.long (a.pos.get i)
  { r with w := (e.upset.filter fun u => decide (u.1 = i)).foldl (fun w u => w ^^^ u.2) r.w }

/-- The entry produces output: FINISH or SINGLE. -/
def TileEntry.final (e : TileEntry) : Bool := match e.op with | .tmma cc _ _ => decide (2 ≤ cc) | _ => false

/-- SENTINEL_VERDICT: the vector unit finishes the reference for a sampled chain and applies the miss test (R123, R181). -/
def execSentinelVerdict (l : EmberId) (s : State) : Out :=
  .next (match (s.ember l.val).activeTile with
  | some e =>
    match e.final, entrySample s l.val e with
    | true, some r =>
      let d := matDesc e.desc
      let y := entryTotal e (entryAcc s l.val e) (16 * r.m + r.n)
      let (yref, s1) := foldWord r.ref
      let (mag, s2) := foldWord r.mag
      let v := missTest y.w yref mag e.len d.k e.long y.sat (r.sat || r.magSat || s1 || s2)
      s.modEmber l.val fun m => { m with tileQ := replaceFirst e { e with verdict := some v } m.tileQ }
    | _, _ => s
  | none => s)

/-! ### Completion -/

/-- Sum of `x[r, n]` and the like over one row, left to right, starting at `a`. -/
def sumFrom (a : Word) (xs : List Word) : Word := xs.foldl (fun a x => (fpAdd a x).w) a

/-- Update the statistics of one row from the 16 values of a tile's row (R70). -/
def RowStat.update (xs : List Word) (r : RowStat) : RowStat :=
  let t := xs.tail.foldl (fun a x => (fpMax a x).w) (xs.headD 0)
  let s := sumFrom 0 (xs.map fun x => (fpExp (fpSub x t).w).w)
  let m := (fpMax r.mx t).w
  { mx := m
    se := (fpAdd (fpMul r.se (fpExp (fpSub r.mx m).w).w).w (fpMul s (fpExp (fpSub t m).w).w).w).w
    sq := sumFrom r.sq (xs.map fun x => (fpMul x x).w)
    sum := sumFrom r.sum xs
    cnt := satAdd r.cnt 16 }

/-- The cleared statistics of a row (R70). -/
def rowZero : RowStat := rowFresh

/-- The zero-point correction and the epilogue of one position (R121, Table 5.7). -/
def epilogue (m : Memory) (d : MatDesc) (y : FpR) (i n : Nat) : FpR :=
  let w (off k : Nat) : Word := BitVec.ofNat 32 (m.num (off + 4 * k) 4)
  let join (a b : FpR) : FpR := { w := b.w, sat := a.sat || b.sat, nan := a.nan || b.nan }
  let y := if d.a.fmt = 4 ∧ d.aZp ≠ 0 then
      let c := fpMul (rne32 { m := d.aZp, e := 0 } false).w (w d.b.strip n)
      let z := fpSub y.w c.w
      join (join y c) z
    else y
  let es := fpMul y.w d.escale
  let u := join y es
  match d.epi with
  | 1 => u
  | 2 => join u (fpAdd es.w (w d.eOpnd n))
  | 3 => join u (fpMul es.w (w d.eOpnd i))
  | 4 => join u (fpAdd es.w (w d.eOpnd (16 * i + n)))
  | 5 => join u (fpMul es.w (w d.eOpnd (16 * i + n)))
  | _ => y

/-- Write one output element (R122). -/
def putOut (m : Memory) (d : MatDesc) (fmt i n code : Nat) : Memory :=
  let base := 1024 * d.oBrick + 64 * i
  match fmt with
  | 5 => m.write (base + 4 * n) (leBytes 4 code)
  | 3 => m.write (base + 32 * d.oPanel + 2 * n) (leBytes 2 code)
  | _ => m.put (base + 16 * d.oPanel + n) (BitVec.ofNat 8 code)

/-- The bytes an output covers (R122). -/
def outExts (d : MatDesc) (fmt : Nat) : List Extent :=
  (List.range 16).map fun (i : Nat) =>
    let base : Int := 1024 * (d.oBrick : Int) + 64 * (i : Int)
    match fmt with
    | 5 => { off := base, len := 64 }
    | 3 => { off := base + 32 * (d.oPanel : Int), len := 32 }
    | _ => { off := base + 16 * (d.oPanel : Int), len := 16 }

/-- Double-word `w` of scratch holds an element or a scale that an operand uses. -/
def opndTouches (o : OpndDesc) (rr : Bool) (e klen w : Nat) : Bool :=
  (List.range 16).any fun out => (List.range klen).any fun k =>
    let p := elemPos o rr e out k
    let a := (1024 * o.brickAt p.j).toNat + 64 * p.row + p.col * elemBits o.fmt / 8
    decide (a / 8 = w) || ((decide (o.scl = 1) || decide (o.scl = 2)) && decide ((o.strip + stripOffset rr o.scl e p) / 8 = w))

/-- The mismatching double-words among those a TMMA reads (R78), lowest first; `sh` are the shadow bricks that it reads as well (R137). -/
def tileBad (m : Ember) (d : MatDesc) (cc : Nat) (ta tb : Bool) (sh : Option (Nat × Nat)) : List Nat :=
  let e := rowElems d.a.fmt
  let span (off len w : Nat) : Bool := decide (off ≤ 8 * w) && decide (8 * w < off + len)
  sortNat (m.badParity.filter fun w =>
    opndTouches d.a ta e d.klen w || opndTouches d.b (!tb) e d.klen w ||
    (match sh with
      | some sh => opndTouches (shadowOpnd d.a ta sh.1) ta 32 d.klen w || opndTouches (shadowOpnd d.b (!tb) sh.2) (!tb) 32 d.klen w
      | none => false) ||
    (decide (2 ≤ cc) &&
      ((decide (d.a.fmt = 4) && decide (d.aZp ≠ 0) && span d.b.strip 64 w) ||
       ((decide (d.epi = 2) || decide (d.epi = 3)) && span d.eOpnd 64 w) ||
       ((decide (d.epi = 4) || decide (d.epi = 5)) && span d.eOpnd 1024 w))))

/-- A miss of the fault sentinel (R182, R183): the counts, the record of the latest miss, the limit, and for an LC chain the
step abort. -/
def sentinelMiss (l t : Nat) (be : Bool) (s : State) : State :=
  let c := satAdd (s.ember l).sentMiss 1
  let s := s.modEmber l fun m =>
    let m := { m with sentMiss := c, sentOvf := m.sentOvf || satOvf m.sentMiss 1 }
    if s.snt.missLimit.toNat ≤ c.toNat then m.askRetire .sentinel else m
  let b := s.snt
  let b' := { b with missTotal := satAdd b.missTotal 1, missOvf := b.missOvf || satOvf b.missTotal 1
                     lastValid := true, lastThread := BitVec.ofNat 3 t, lastEmber := BitVec.ofNat 15 l }
  let s := healthSentinel { s with snt := b' }
  if be then s else startAbort (s.partOf l) 3 l none s

/-- The drift comparison of a sampled START or SINGLE with shadows (R184). -/
def driftCompare (m : Memory) (d : MatDesc) (ta tb : Bool) (fix : TileFix) (i n : Nat) (sh : Nat × Nat) (c : Sentinel) : Sentinel :=
  let ds := { d with a := shadowOpnd d.a ta sh.1, b := shadowOpnd d.b (!tb) sh.2 }
  let q := refTile m d ta tb fix (sampleZero i n)
  let r := refTile m ds ta tb { fix with aX := 0, bX := 0 } (sampleZero i n)
  let (yq, s1) := foldWord q.ref
  let (ys, s2) := foldWord r.ref
  let (ss, s3) := foldWord r.mag
  let diff := fpSub yq ys
  let e := fpDiv (fpAbs diff.w).w ss
  let isNan (w : Word) : Bool := decide (decF w = .nan)
  if isNan yq || isNan ys || isNan ss || isNan e.w || decide (ss.toNat % 2 ^ 31 = 0) ||
      q.sat || r.sat || r.magSat || s1 || s2 || s3 || diff.sat || e.sat then c
  else { c with driftCnt := c.driftCnt + 1, driftMax := if c.driftMax.toNat < e.w.toNat then e.w else c.driftMax }

/-- The output of a FINISH or SINGLE (R119, R121 to R124, R70, R71). -/
def finishTile (l : Nat) (e : TileEntry) (d : MatDesc) (a : AccSet) (s : State) : State :=
  let n := s.partOf l
  let m := (s.ember l).scratch
  let xs := (List.range 256).map fun i => epilogue m d (entryTotal e a i) (i / 16) (i % 16)
  let amax := absMax (xs.map (·.w))
  let f := (fmtOfCode e.fix.oFmt).getD fmtFp32
  let codes := xs.map fun x => convertTo e.fix.oFmt f (decF x.w) e.fix.oX
  let convSat := codes.any (·.2)
  let sat := convSat || xs.any (·.sat)
  let nan := (List.range 256).any (fun i => decide (decF (entryTotal e a i).w = .nan)) ||
    xs.any (fun x => decide (decF x.w = .nan))
  let fl := 8 * b2n (e.verdict = some true) + 4 * b2n e.long + 2 * b2n nan + b2n sat
  let mem := (codes.zipIdx).foldl (fun m (c, i) => putOut m d e.fix.oFmt (i / 16) (i % 16) c.1) m
  let s := s.modEmber l fun m =>
    { m with scratch := mem, badParity := cleanParity (outExts d e.fix.oFmt) m.badParity }
  let s := s.modThread l e.t fun h => { h with
    rows := (List.range 16).foldl (fun t r =>
      t.upd r (RowStat.update (((xs.drop (16 * r)).take 16).map (·.w)))) h.rows
    tsw := withField (withField h.tsw 63 32 amax.toNat) 11 8 fl }
  let s := orFlags l e.t fl s
  let s := if d.amaxEn then foldMax n e.be d.oSct amax s else s
  let s := foldSat n e.be d.oSct (convSat && (decide (d.oFmt ≤ 1) || decide (d.oFmt = 6))) s
  if e.verdict = some true then sentinelMiss l e.t e.be s else s

/-- TILE_COMPLETE: the executing TMMA completes: it has consumed its operands (START, CONTINUE), or its output, flags, row
statistics and absolute-maximum fold are final and the sentinel's verdict, where its chain was sampled, has come (FINISH,
SINGLE); then its tally counts (R119, R123). `strike` flips parity bits of scratch before its reads (R78). -/
def execTileComplete (l : EmberId) (strike : List Nat) (s : State) : Out :=
  .next (match (s.ember l.val).activeTile with
  | some e =>
    match e.op with
    | .tmma cc ta tb =>
      let d := matDesc e.desc
      let r := entrySample s l.val e
      if e.final && r.isSome && e.verdict.isNone then s
      else
        let s := s.modEmber l.val (Ember.strike strike)
        let bad := tileBad (s.ember l.val) d cc ta tb (if e.sample.isSome then e.shadow else none)
        if !bad.isEmpty then parityFault l.val e.t e.pc bad (popTile l.val s)
        else
          let a := entryAcc s l.val e
          let m := (s.ember l.val).scratch
          let drift (c : Sentinel) : Sentinel := match e.sample, e.shadow with
            | some p, some sh => driftCompare m d ta tb e.fix p.1 p.2 sh c
            | _, _ => c
          let s := (popTile l.val (feedEntry l.val e r s)).modThread l.val e.t fun h =>
            { h with acc := a, snt := { drift h.snt with sample := if e.final then none else r } }
          let s := tallyAdd l.val e.t d.tally 1 s
          if e.final then finishTile l.val e d a s else s
    | _ => s
  | none => s)

/-! ### Reading statistics (R128, R129) -/

/-- A vector of 16 words in lanes 0 to 15. -/
def lanes (ws : List Word) : BitVec 1024 := BitVec.ofNat 1024 (leNat (ws.flatMap fun w => leBytes 4 w.toNat))
/-- Lane `i` of a vector. -/
def lane (v : BitVec 1024) (i : Nat) : Word := v.extractLsb' (32 * i) 32

/-- The value TSTAT reads for a row: MAX, SEXP, SSQ, SUM, MEAN, CNT (R128). -/
def rowValue (minor : Nat) (r : RowStat) : Word :=
  match minor with
  | 0 => r.mx
  | 1 => r.se
  | 2 => r.sq
  | 3 => r.sum
  | 4 => if r.cnt = 0 then qNaN else (fpDiv r.sum (rne32 { m := r.cnt.toNat, e := 0 } false).w).w
  | _ => r.cnt

/-- Issue a TSTAT form (R128): `srd` where RD names a scalar register. -/
def issueStat (minor : Nat) (x : Site) (f : BitVec 52) (srd zrd : Bool) (eff : Thread → Thread) (s : State) : State :=
  issue x (insnWord 0x22 minor f) f (if srd then [fRd f] else []) [] (tileOrder x)
    (reserved (decide (fRa f = 0) && decide (fRb f = 0) && decide (fLow f = 0) && (!zrd || decide (fRd f = 0))))
    (fun s => .ok (modAt x eff s)) s

/-- A row statistic in lanes 0 to 15 of RD, lanes 16 to 31 +0 (R128). -/
def rowsToV (minor rd : Nat) (h : Thread) : Thread :=
  h.setV rd (lanes ((List.range 16).map fun r => rowValue minor (h.rows.get r)))

/-- TSTAT.MAX. -/
def execTstatMax (x : Site) (f : BitVec 52) (s : State) : Out :=
  .next (issueStat 0 x f false false (rowsToV 0 (fRd f)) s)
/-- TSTAT.SEXP. -/
def execTstatSexp (x : Site) (f : BitVec 52) (s : State) : Out :=
  .next (issueStat 1 x f false false (rowsToV 1 (fRd f)) s)
/-- TSTAT.SSQ. -/
def execTstatSsq (x : Site) (f : BitVec 52) (s : State) : Out :=
  .next (issueStat 2 x f false false (rowsToV 2 (fRd f)) s)
/-- TSTAT.SUM. -/
def execTstatSum (x : Site) (f : BitVec 52) (s : State) : Out :=
  .next (issueStat 3 x f false false (rowsToV 3 (fRd f)) s)
/-- TSTAT.MEAN. -/
def execTstatMean (x : Site) (f : BitVec 52) (s : State) : Out :=
  .next (issueStat 4 x f false false (rowsToV 4 (fRd f)) s)
/-- TSTAT.CNT. -/
def execTstatCnt (x : Site) (f : BitVec 52) (s : State) : Out :=
  .next (issueStat 5 x f false false (rowsToV 5 (fRd f)) s)
/-- TSTAT.S: the status word. -/
def execTstatS (x : Site) (f : BitVec 52) (s : State) : Out :=
  .next (issueStat 8 x f true false (fun h => h.setS (fRd f) h.tsw) s)
/-- TSTAT.CLR: the statistics return to their cleared state. -/
def execTstatClr (x : Site) (f : BitVec 52) (s : State) : Out :=
  .next (issueStat 0x10 x f false true (fun h => { h with rows := Tab.const rowZero }) s)
/-- TSTAT.CLRS: the sticky bits of the status word are cleared. -/
def execTstatClrs (x : Site) (f : BitVec 52) (s : State) : Out :=
  .next (issueStat 0x11 x f false true (fun h => { h with tsw := withField h.tsw 7 0 0 }) s)

/-- SCTRD: RD := double-word IMM[1:0] of entry RA[11:0] (R129). -/
def execSctrd (x : Site) (f : BitVec 52) (s : State) : Out :=
  .next (issue x (insnWord 0x23 0 f) f [fRd f, fRa f] [] (tileOrder x) (reserved (decide (fImmU f < 4)))
    (fun s =>
      let a := ((thrAt s x).sReg (fRa f)).toNat
      let p := s.part (partAt s x)
      if 4096 ≤ a then .exc excReservedField 0
      else if sctCount p (beAt s x) ≤ a then .exc excSctRange (BitVec.ofNat 64 a)
      else .ok (modAt x (Thread.setS (fRd f) ((p.entry (beAt s x) a).word (fImmU f))) s)) s)

end Sys2Proof.Machine
end

