-- ==== Sys2Proof/Machine/Sync.lean ====
section
/-! DEFINITION. Tallies (R98), ember and partition barriers (R99), semaphores (R100) and STEPB (R101). -/

namespace Sys2Proof.Machine

/-- An operand lies in 0 to 0xFFFF_FFFF (R98). -/
def is32 (v : DWord) : Bool := decide (v.toNat < 2 ^ 32)

/-- Write a tally of the issuing thread. -/
def Thread.setQ (i : Nat) (v : Word) (h : Thread) : Thread := { h with q := h.q.set i v }

/-- TSET: q[RD] := RA[31:0]. -/
def execTset (x : Site) (f : BitVec 52) (s : State) : Out :=
  .next (issue x (insnWord 0x0B 0 f) f [fRa f] [] anyRoom
    (reserved (decide (fRd f < 16) && decide (fRb f = 0) && decide (fLow f = 0)))
    (fun s =>
      let v := (thrAt s x).sReg (fRa f)
      if is32 v then .ok (modAt x (Thread.setQ (fRd f) (v.setWidth 32)) s) else .exc excSyncOperand 0) s)

/-- TSETI: q[RD] := IMM. -/
def execTseti (x : Site) (f : BitVec 52) (s : State) : Out :=
  .next (issue x (insnWord 0x0B 1 f) f [] [] anyRoom (reserved (decide (fRd f < 16) && decide (fRa f = 0)))
    (fun s => if is32 (fImm f) then .ok (modAt x (Thread.setQ (fRd f) ((fImm f).setWidth 32)) s)
      else .exc excSyncOperand 0) s)

/-- TADD: q[RD] := q[RD] + RA[31:0], saturating as R76 states. -/
def execTadd (x : Site) (f : BitVec 52) (s : State) : Out :=
  .next (issue x (insnWord 0x0B 2 f) f [fRa f] [] anyRoom
    (reserved (decide (fRd f < 16) && decide (fRb f = 0) && decide (fLow f = 0)))
    (fun s =>
      let v := (thrAt s x).sReg (fRa f)
      if is32 v then .ok (tallyAdd x.e.val x.t.val (fRd f) v.toNat s) else .exc excSyncOperand 0) s)

/-- TRD: RD := q[RA]. -/
def execTrd (x : Site) (f : BitVec 52) (s : State) : Out :=
  .next (issue x (insnWord 0x0B 3 f) f [fRd f] [] anyRoom
    (reserved (decide (fRa f < 16) && decide (fRb f = 0) && decide (fLow f = 0)))
    (fun s => .ok (modAt x (Thread.setS (fRd f) (((thrAt s x).q.get (fRa f)).setWidth 64)) s)) s)

/-- Wait until a tally reaches a value: already there, the thread stays in RUN (R98). -/
def tallyWait (x : Site) (q : Nat) (v : DWord) (s : State) : Eff :=
  if !is32 v then .exc excSyncOperand 0
  else if v.toNat ≤ ((thrAt s x).q.get q).toNat then .ok s
  else .ok (modAt x (fun h => { h with st := .wait, cond := some (.tally q v.toNat) }) s)

/-- TWAIT. -/
def execTwait (x : Site) (f : BitVec 52) (s : State) : Out :=
  .next (issue x (insnWord 0x0B 4 f) f [fRa f] [] anyRoom
    (reserved (decide (fRd f < 16) && decide (fRb f = 0) && decide (fLow f = 0)))
    (fun s => tallyWait x (fRd f) ((thrAt s x).sReg (fRa f)) s) s)

/-- TWAITI. -/
def execTwaiti (x : Site) (f : BitVec 52) (s : State) : Out :=
  .next (issue x (insnWord 0x0B 5 f) f [] [] anyRoom (reserved (decide (fRd f < 16) && decide (fRa f = 0)))
    (fun s => tallyWait x (fRd f) (fImm f) s) s)

/-! ### Barriers -/

/-- The highest count a BARP accepts (R99). -/
def maxPartCount : Nat := 204800

/-- A count that the barrier refuses: outside its range, or different from the one the first arrival fixed (R99). -/
def badCount (b : Barrier) (k max : Nat) : Bool :=
  decide (k = 0) || decide (max < k) || (!b.arrived.isEmpty && decide (b.count ≠ k))

/-- BARE: arrive at ember barrier IMM[1:0] with count RA; the final arrival releases every arrived thread (R99). -/
def execBare (x : Site) (f : BitVec 52) (s : State) : Out :=
  .next (issue x (insnWord 0x0C 0 f) f [fRa f] [] anyRoom (reserved (decide (fRd f = 0)))
    (fun s =>
      let k := ((thrAt s x).sReg (fRa f)).toNat
      let i := fImmU f % 4
      let l := x.e.val
      let key := 4 * b2n (beAt s x) + i
      let b := (s.ember l).barriers.get key
      if badCount b k 8 then .exc excSyncOperand 0
      else
        let arrived := b.arrived ++ [x.t.val]
        let s := modAt x (fun h => { h with st := .wait, cond := some (.emberBar i) }) s
        if arrived.length < k then
          .ok (s.modEmber l fun m => { m with barriers := m.barriers.set key { count := k, arrived := arrived } })
        else
          let s := s.modEmber l fun m => { m with barriers := m.barriers.set key { count := 0, arrived := [] } }
          .ok (arrived.foldl (fun s t => wake l t s) s)) s)

/-- BARP: arrive at partition barrier IMM[5:0] with count RA; the barrier releases by an event of its own (R99). An arrival
waits in RUN while a full barrier has not released yet. -/
def execBarp (x : Site) (f : BitVec 52) (s : State) : Out :=
  .next (issue x (insnWord 0x0C 1 f) f [fRa f] []
    (barpRoom x f)
    (reserved (decide (fRd f = 0)))
    (fun s =>
      let k := ((thrAt s x).sReg (fRa f)).toNat
      let i := fImmU f % 64
      let key := 64 * b2n (beAt s x) + i
      let b := (s.part (partAt s x)).pbars.get key
      if badCount b k maxPartCount then .exc excSyncOperand 0
      else
        let s := modAt x (fun h => { h with st := .wait, cond := some (.partBar i) }) s
        let b' : Barrier := { count := k, arrived := b.arrived ++ [8 * x.e.val + x.t.val] }
        .ok (s.modPart (partAt s x) fun p => { p with pbars := p.pbars.set key b' })) s)

/-- BARP_RELEASE: the arrivals have reached the count, so every arrived thread leaves WAIT (R99). -/
def execBarpRelease (n : PartId) (be : Bool) (i : Fin 64) (s : State) : Out :=
  let key := 64 * b2n be + i.val
  let b := (s.part n.val).pbars.get key
  .next (if !b.arrived.isEmpty && decide (b.arrived.length = b.count) then
      let s := s.modPart n.val fun p => { p with pbars := p.pbars.set key { count := 0, arrived := [] } }
      b.arrived.foldl (fun s k => wake (k / 8) (k % 8) s) s
    else s)

/-! ### Semaphores -/

/-- The value of a semaphore word: bits 30:0 (R100). -/
def Sem.value (m : Sem) : Nat := m.word.toNat % 2 ^ 31

/-- Add to a semaphore: it saturates at 0x7FFF_FFFF and sets bit 31 (R100). -/
def Sem.add (k : Nat) (m : Sem) : Sem :=
  let v := m.value + k
  if v < 2 ^ 31 then { m with word := BitVec.ofNat 32 (m.word.toNat / 2 ^ 31 * 2 ^ 31 + v) }
  else { m with word := 0xFFFFFFFF#32 }

/-- Take from a semaphore. -/
def Sem.take (k : Nat) (m : Sem) : Sem := { m with word := BitVec.ofNat 32 (m.word.toNat - k) }

/-- The amount a waiter waits for. -/
def SemWaiter.need : SemWaiter → Nat
  | .thread _ _ k => k
  | .queue _ _ k => k

/-- Serve a semaphore's waiters strictly in their order of arrival while its value suffices (R100). -/
def semServe : Nat → Nat → Nat → State → State
  | 0, _, _, s => s
  | fuel + 1, n, key, s =>
    let m := (s.part n).sems.get key
    match m.waiters with
    | [] => s
    | w :: ws =>
      if w.need ≤ m.value then
        let s := s.modPart n fun p => { p with sems := p.sems.set key { m.take w.need with waiters := ws } }
        let s := match w with
          | .thread e t _ => wake e t s
          | .queue c q _ => match (s.ring (n + 1) (queueId c q)).bind (·.busy) with
            | some b => completeCmd (n + 1) (queueId c q) b 0 0 0 s
            | none => s
        semServe fuel n key s
      else s

/-- A carrier contributes its slot (R189): the first signal of 1 or more to STEP_SEM_CONTRIB in a step sends a report to the job
stoker through the hearth stoker. -/
def contribute (n key k : Nat) (s : State) : State :=
  let p := s.part n
  match lcJob s n with
  | none => s
  | some c =>
    if decide (key = c.launch.semContrib) && decide (0 < k) && decide (c.launch.nmb ≠ 0) && decide (c.launch.slot ≠ 0xFFFF) &&
        !p.step.contributed then
      sendFrame n (some (hearthStoker s n)) .ctrl (.contrib c.launch.slot (s.logicalPos n))
        (s.modPart n fun p => { p with step := { p.step with contributed := true } })
    else s

/-- SEMSIG on semaphore `key` of partition `n` (R100). -/
def semSignal (n key k : Nat) (s : State) : State :=
  let s := contribute n key k (s.modPart n fun p => { p with sems := p.sems.upd key (Sem.add k) })
  semServe ((s.part n).sems.get key).waiters.length n key s

/-- SEMWAIT on semaphore `key`: whether it is taken at once; a waiter is never passed by a later one (R100). -/
def semTakesNow (m : Sem) (k : Nat) : Bool := m.waiters.isEmpty && decide (k ≤ m.value)

/-- The semaphore an instruction names in its class's namespace. -/
def semKey (be : Bool) (f : BitVec 52) : Nat := 4096 * b2n be + fImmU f % 4096

/-- SEMSIG. -/
def execSemsig (x : Site) (f : BitVec 52) (s : State) : Out :=
  .next (issue x (insnWord 0x0C 2 f) f [fRa f] [] (requestRoom x)
    (reserved (decide (fRd f = 0) && decide (fImmU f < 4096)))
    (fun s =>
      let k := ((thrAt s x).sReg (fRa f)).toNat
      if k < 2 ^ 31 then .ok (semSignal (partAt s x) (semKey (beAt s x) f) k s) else .exc excSyncOperand 0) s)

/-- SEMWAIT. -/
def execSemwait (x : Site) (f : BitVec 52) (s : State) : Out :=
  .next (issue x (insnWord 0x0C 3 f) f [fRa f] [] (requestRoom x)
    (reserved (decide (fRd f = 0) && decide (fImmU f < 4096)))
    (fun s =>
      let k := ((thrAt s x).sReg (fRa f)).toNat
      let key := semKey (beAt s x) f
      let n := partAt s x
      let m := (s.part n).sems.get key
      if 2 ^ 31 ≤ k then .exc excSyncOperand 0
      else if semTakesNow m k then .ok (s.modPart n fun p => { p with sems := p.sems.set key (m.take k) })
      else
        let m' := { m with waiters := m.waiters ++ [.thread x.e.val x.t.val k] }
        let s := s.modPart n fun p => { p with sems := p.sems.set key m' }
        .ok (modAt x (fun h => { h with st := .wait, cond := some (.sem (fImmU f % 4096) k) }) s)) s)

/-- SEMRD: its RA field is zero (R100). -/
def execSemrd (x : Site) (f : BitVec 52) (s : State) : Out :=
  .next (issue x (insnWord 0x0C 4 f) f [fRd f] [] (requestRoom x)
    (reserved (decide (fRa f = 0) && decide (fImmU f < 4096)))
    (fun s =>
      let m := (s.part (partAt s x)).sems.get (semKey (beAt s x) f)
      .ok (modAt x (Thread.setS (fRd f) (m.word.setWidth 64)) s)) s)

/-! ### STEPB -/

/-- STEPB: the LC thread declares the boundary after step RA and waits (R101). A BE thread raises ILLEGAL_OPCODE, an open chain
CHAIN (R118), and an operand other than the first STEPB's STEP_MISMATCH; where several apply, in this order (DESIGN CHOICE, log 83). -/
def execStepb (x : Site) (f : BitVec 52) (s : State) : Out :=
  .next (issue x (insnWord 0 3 f) f [fRa f] [] anyRoom
    (reserved (decide (fRd f = 0) && decide (fRb f = 0) && decide (fLow f = 0)))
    (fun s =>
      let h := thrAt s x
      let ra := h.sReg (fRa f)
      let n := partAt s x
      if beAt s x then .exc excIllegalOpcode 0
      else if h.chain.isSome then .exc excChain 0
      else match (s.part n).step.first with
        | some v =>
          if v = ra then .ok (modAt x (fun h => { h with st := .wait, cond := some (.step ra) }) s)
          else .exc excStepMismatch 0
        | none =>
          let s := s.modPart n fun p => { p with step := { p.step with first := some ra } }
          .ok (modAt x (fun h => { h with st := .wait, cond := some (.step ra) }) s)) s)

end Sys2Proof.Machine
end

