-- ==== Sys2Proof/Machine/StepPlan.lean ====
section
/-! DEFINITION. The step plan (R188 to R198): contributions, deadline, step record, drop release, void steps, and the orders of
the job stoker that advance the job epoch (R464, R444). -/

namespace Sys2Proof.Machine

/-- The slot that a position carries (Table 15.1, CMAP_MODE). -/
def slotOf (s : State) (a : Admission) (p : Pos) : Option Nat :=
  let g := ((p.t0 * s.dim 1 + p.t1) * s.dim 2 + p.t2) * s.dim 3 + p.t3
  match a.cmap with
  | 1 => some g
  | 2 => some (8 * g + p.member)
  | 3 => (a.carriers.find? fun e => e.1 = posWord p).map (·.2)
  | _ => none

/-- The carriers of a slot. -/
def carriersOf (s : State) (n slot : Nat) : List Pos :=
  s.jobPositions.filter fun p => decide (slotOf s (s.part n).adm p = some slot)

/-- A position carries the partition's own slot (R194). -/
def isCoCarrier (s : State) (n : Nat) (q : Pos) : Bool :=
  let a := (s.part n).adm
  let mine := slotOf s a (s.logicalPos n)
  mine.isSome && decide (q ≠ s.logicalPos n) && decide (slotOf s a q = mine)

/-- A slot contributes when every one of its carriers has reported (R189). -/
def contributes (s : State) (n slot : Nat) : Bool :=
  (carriersOf s n slot).all fun p => decide (p ∈ (s.part n).stk.reports)

/-- The offers that lead into a step: those of the record of the step before, entry `i` for slot `i` (R198). -/
def offersInto (k : Stoker) (step : DWord) : List ReqEntry :=
  match k.records.find? fun r => r.step + 1 = step with
  | some r => r.req
  | none => []

/-- The order of offers: ascending origin step, then ascending origin slot (R198). -/
def reqLe (a b : Nat × ReqEntry) : Bool :=
  decide (a.2.step < b.2.step) || (decide (a.2.step = b.2.step) && decide (a.2.slot ≤ b.2.slot))

/-- Insert an offer in order. -/
def reqInsert (x : Nat × ReqEntry) : List (Nat × ReqEntry) → List (Nat × ReqEntry)
  | [] => [x]
  | y :: ys => if reqLe x y then x :: y :: ys else y :: reqInsert x ys

/-- The offers after the drops of a step: each dropped input that has been offered fewer than REQUEUE_MAX times is due again
`delay` steps on (R198). -/
def requeueAfter (c : Launch) (k : Stoker) (step : Nat) (dropped : List Nat) : List (Nat × ReqEntry) :=
  if c.requeueDelay = 0 then k.requeue
  else
    let into := offersInto k (BitVec.ofNat 64 step)
    dropped.foldl (fun q j =>
      let was : ReqEntry := (into[j]?).getD { tries := 1, slot := j, step := step % 2 ^ 46 }
      if was.tries < c.requeueMax then reqInsert (step + c.requeueDelay, { was with tries := was.tries + 1 }) q else q) k.requeue

/-- The offers of a step: those made for the next step, and those still to make (R198). -/
def planOffers (c : Launch) (k : Stoker) (step : Nat) (dropped : List Nat) : List ReqEntry × List (Nat × ReqEntry) :=
  let pool := requeueAfter c k step dropped
  let due := pool.filter fun e => decide (e.1 ≤ step + 1)
  let room := min c.nmb 1024
  let late := (due.drop room).map fun e => (step + 2, e.2)
  ((due.take room).map (·.2), (late ++ pool.filter fun e => decide (step + 1 < e.1)).foldl (fun q e => reqInsert e q) [])

/-- The offers still to make, as a new job stoker finds them from the step records (R271, R198). -/
def requeueOf (c : Launch) (k : Stoker) : List (Nat × ReqEntry) :=
  k.records.foldl (fun q r => (planOffers c { k with requeue := q } r.step.toNat r.dropped).2) []

/-- The job stoker issues the step record (R190): slots that have not contributed are dropped, the offers for the next step are
listed, and the record goes to every module of the job. -/
def issueRecord (n : Nat) (s : State) : State :=
  let p := s.part n
  match lcJob s n with
  | none => s
  | some x =>
    let c := x.launch
    let dropped := (List.range c.nmb).filter fun j => !contributes s n j
    let step := p.step.count.toNat
    let (now, rest) := planOffers c p.stk step dropped
    let r : StepRec :=
      { step := p.step.count, epoch := p.epoch, lineage := p.tree.lineage, nmb := c.nmb
        ncontrib := c.nmb - dropped.length, replay := false, dropped := dropped, req := now }
    let s := s.modPart n fun p => { p with stk := { p.stk with
      issued := some r, measuring := false, voids := 0, records := p.stk.records ++ [r]
      requeue := rest } }
    sendFrame n none .ctrl (.steprec r) s

/-! ### Orders of the job stoker -/

/-- An order of the job stoker goes to every position under the epoch it ends (R310, R464). -/
def sendOrder (n : Nat) (epoch : Word) (body : FrameBody) (s : State) : State :=
  let p := s.part n
  if p.rl.state = .withdrawn ∨ p.prot.halted then s
  else { s with outHold := s.outHold ++
    [(n, { epoch := epoch, lineage := p.tree.lineage, step := p.step.count, src := s.logicalPos n, dst := none
           vc := match body with | .rfreeze _ _ _ => .relight | _ => .ctrl
           body := body })] }

/-- The job stoker orders a step abort (R464): it advances the job epoch and broadcasts; an epoch that is full does not advance
and the broadcast, carrying the same epoch, freezes the job (R444). -/
def orderAbort (n cause : Nat) (origin : Pos) (step : DWord) (s : State) : State :=
  let e := (s.part n).stk.epoch
  if e.toNat = 2 ^ 32 - 1 then sendOrder n e (.abort true 5 e step origin) s
  else
    let s := s.modPart n fun p => { p with stk := { p.stk with epoch := e + 1, measuring := false } }
    sendOrder n e (.abort true cause (e + 1) step origin) s

/-- A step with fewer than MIN_CONTRIB contributing slots is void: no record, and a job-wide abort (R196). -/
def voidStep (n : Nat) (s : State) : State :=
  let p := s.part n
  let s := s.modPart n fun p => { p with stk := { p.stk with voids := p.stk.voids + 1, measuring := false } }
  orderAbort n 4 (s.logicalPos n) p.step.count s

/-- The job is frozen as far as a partition knows (R190, R196, R262). -/
def Part.jobFrozen (p : Part) : Bool := p.frozen || p.step.frozen || p.stk.target.isSome

/-- The step that LC frames are checked against: that of the partition's release (Table 11.8). -/
def Part.lcStep (p : Part) : DWord := if p.step.held then p.step.count - 1 else p.step.count

/-- CONTRIB: a contribution report arrives (R189): the hearth stoker passes it on; at the job stoker the carrier counts until
the record is issued, and the last slot to contribute issues it (R190). A report of the step that the stoker's own partition is still to be
released into waits for that. -/
def execContribReport (n : PartId) (s : State) : Out :=
  let p := s.part n.val
  let due (f : Frame) : Bool := match f.body with
    | .contrib _ _ => !isJobStoker s n.val || decide (f.step.toNat ≤ p.lcStep.toNat)
    | _ => false
  .next (match takeFrame n.val due s with
  | some (_, f, s) =>
    match f.body with
    | .contrib slot origin =>
      if !isJobStoker s n.val then sendFrame n.val (some p.jobStoker) .ctrl (.contrib slot origin) s
      else if f.step ≠ p.lcStep ∨ p.step.held ∨ p.stk.issued.isSome ∨ p.jobFrozen then s
      else
        let s := s.modPart n.val fun p => { p with stk := { p.stk with
          reports := if origin ∈ p.stk.reports then p.stk.reports else p.stk.reports ++ [origin] } }
        match lcJob s n.val with
        | some x => if decide (x.launch.nmb ≠ 0) && (List.range x.launch.nmb).all fun j => contributes s n.val j
            then issueRecord n.val s else s
        | none => s
    | _ => s
  | none => s)

/-- STEP_DEADLINE: DEADLINE_US expires on the job stoker's clock (R190): the record is issued, or the step is void (R196). -/
def execStepDeadline (n : PartId) (s : State) : Out :=
  let p := s.part n.val
  .next (match lcJob s n.val with
  | some x =>
    if !isJobStoker s n.val || !p.stk.measuring || p.stk.issued.isSome || p.jobFrozen || decide (x.launch.deadlineUs = 0) then s
    else if ((List.range x.launch.nmb).filter fun j => contributes s n.val j).length < x.launch.minContrib then voidStep n.val s
    else issueRecord n.val s
  | none => s)

/-! ### The drop release -/

/-- Clear the barriers of the LC class (R193). -/
def Ember.resetBarriers (m : Ember) : Ember :=
  { m with barriers := (List.range 4).foldl (fun t i => t.set i { count := 0, arrived := [] }) m.barriers }

/-- What a drop release does to an LC thread (R193): open chains close, accumulators, row statistics and tallies are cleared,
and the thread runs from DROP_PC; a thread in HALT stays there. -/
def Thread.drop (pc : Nat) (paused : Bool) (h : Thread) : Thread :=
  let h' := { h with chain := none, acc := accZero, rows := Tab.const rowZero, q := Tab.const 0
                     snt := { h.snt with sample := none } }
  match h.st with
  | .idle => h'
  | .lost => h'
  | .halt => { h' with pc := BitVec.ofNat 16 pc, cond := none, loads := [], stores := 0, stall := false, heapReqs := [] }
  | _ => { h' with pc := BitVec.ofNat 16 pc, cond := none, parkPage := none, line := none
                   st := if h.haltPend then .halt else if paused then .paused else .run, haltPend := false
                   loads := [], stores := 0, stall := false, heapReqs := [] }

/-- Return each LC heap to its state at the step's start (R217). -/
def heapsToStart (n : Nat) (s : State) : State :=
  let back (h : Heap) : Heap := { h with blocks := h.atStart, pendingOrder := [] }
  s.modPart n fun p => { p with mem := { p.mem with
    heaps := (p.mem.heaps.upd 0 back).upd 1 back } }

/-- A COLL frame. -/
def isColl (f : Frame) : Bool := match f.body with | .coll .. => true | _ => false

/-- The flue die of a flue. -/
def flueDie (f : Nat) : Nat := f / 8

/-- Bytes of a held frame. -/
def heldBytes (f : Frame) : Nat := 48 + f.body.payload.length

/-- A count extended from its low 40 bits: the nearest to the own count (Table 12.4). -/
def extendCount (own low : Nat) : Nat :=
  let base := own / 2 ^ 40 * 2 ^ 40 + low % 2 ^ 40
  if own + 2 ^ 39 < base ∧ 2 ^ 40 ≤ base then base - 2 ^ 40
  else if base + 2 ^ 39 < own then base + 2 ^ 40 else base

/-- The instance of a class's group at a count. -/
def findInst (s : State) (n : Nat) (be : Bool) (g c : Nat) : Option CollInst :=
  (s.part n).tree.insts.find? fun i => (i.be == be) && decide (i.hdr.grp = g) && decide (i.hdr.cseq = c)

/-- A partition's share of a flue die's reduction buffer (R283). -/
def bufShare (s : State) : Nat := 4194304 / s.nParts

/-- Bytes of a partition's early frames on the flue die of a flue. -/
def bufHeld (s : State) (n f : Nat) : Nat :=
  ((s.part n).tree.early.filter fun e => decide (flueDie e.1 = flueDie f)).foldl (fun b e => b + heldBytes e.2) 0

/-- An early frame waits in its credit pool, for its partition's share of the flue die's buffer is full (R283). -/
def bufWaits (s : State) (n : Nat) : Bool := (s.part n).inbox.any fun e => match e.2.body with
  | .coll h _ _ _ =>
    let be := decide (e.2.vc = .be)
    let own := groupCount s n be h.grp
    let c := extendCount own h.cseq
    (findInst s n be h.grp c).isNone && decide (own ≤ c) && decide (bufShare s < bufHeld s n e.1 + heldBytes e.2)
  | _ => false

/-- DT_BUF_FULL follows (Table 12.6). -/
def bufMark (n : Nat) (s : State) : State := let w := bufWaits s n; s.modPart n fun p => { p with tree := { p.tree with bufFull := w } }

/-- Discard frames that have arrived and have not been used: those that wait in the inbox and in the reduction buffers. Slots
that they still occupy are free again. -/
def dropArrived (n : Nat) (p : Frame → Bool) (s : State) : State :=
  let pool := (s.part n).tree.inPool.filter fun e => p e.2
  let s := pool.foldl (fun s e => freeSlots e.1 e.2.vc n (lastFlits e.2.body) s) s
  bufMark n (s.modPart n fun q => { q with
    inbox := q.inbox.filter fun e => !p e.2
    tree := { q.tree with
      early := q.tree.early.filter fun e => !p e.2
      inPool := q.tree.inPool.filter fun e => !p e.2 } })

/-- LC work of the partition's own that is discarded goes out no more: its frames leave the outbound hold, and the flues' queues where no group
of them has gone (R193). -/
def recallLc (n : Nat) (s : State) : State :=
  let mine (fr : Frame) : Bool := decide (fr.vc = .lc) && decide (fr.src = s.logicalPos n) && fr.body.work
  let stays (i : TxItem) : Bool := i.started || decide (i.part.val ≠ n) || match i.load with | .frame fr => !mine fr | .link _ => true
  let s := { s with outHold := s.outHold.filter fun e => !(decide (e.1 = n) && mine e.2) }
  (List.range 32).foldl (fun s f => s.modFlue f fun u => { u with txQ := u.txQ.filter stays }) s

/-- LC work that an abort and a drop release both discard: queued and executing work of every engine, what waits at barriers
and in the allocator, collectives in progress, and frames that have not gone (R193, R465, R288). -/
def discardLc (n : Nat) (s : State) : State :=
  let s := (endParks n (fun l t => !s.isBe l t) (recallLc n s)).mapEmbers n fun m => (m.dropWork false).resetBarriers
  let keep := (s.part n).mem.heapQ.filter fun k => s.isBe (k / 8) (k % 8)
  s.modPart n fun p => { p with
    sems := dropWaiters false p.sems
    pbars := (List.range 64).foldl (fun t i => t.set i { count := 0, arrived := [] }) p.pbars
    mem := { p.mem with heapQ := keep }
    tree := { p.tree with insts := p.tree.insts.filter (·.be) } }

/-- The drop release (R193, R194): LC threads go to DROP_PC, LC work is discarded, counts return to the step's start, and each
module that holds a co-carrier is sent a drop marker. Frames of co-carriers that have arrived for what is discarded go with it, but for those
that came after their module's own marker. -/
def dropRelease (n : Nat) (s : State) : State :=
  match lcJob s n with
  | none => s
  | some x =>
    let paused := (s.part n).pauseLc
    let late := behindMark [] (s.part n).inbox
    let s := dropArrived n (fun f => decide (f.vc = .lc) && isCoCarrier s n f.src && decide (f ∉ late)) (discardLc n s)
    let s := s.mapEmbers n fun m => m.mapThreads fun t h =>
      if m.isBe t then h else { h.drop x.launch.dropPc paused with ringStep := Tab.const 0 }
    let s := (List.range 64).foldl (fun s g => setGroupCount n false g ((s.part n).step.collStart.get g) s) s
    let s := heapsToStart n s
    let s := s.modPart n fun p => { p with step := { p.step with
      first := none, released := true
      selfDrops := satAdd p.step.selfDrops 1, selfOvf := p.step.selfOvf || satOvf p.step.selfDrops 1 } }
    let me := s.logicalPos n
    ((carriersOf s n x.launch.slot).filter fun p => decide (p ≠ me)).foldl
      (fun s p => sendFrame n (some p) .ctrl .dropmark s) s

/-! ### The record's arrival -/

/-- Write bytes to a device-virtual address for the step controller: done, or not yet where the page is banked or its span unit
cannot move, or its frame's counters are used up (R191, R227, R298). An unmapped page takes nothing. -/
def putStepPage (n a : Nat) (bs : List Byte) (s : State) : State × Bool :=
  match (s.part n).translate a false with
  | .banked => (askUnbank n (a / pageBytes) s, false)
  | .frame f =>
    match (s.part n).unitOf f with
    | some q => match prepUnit n q .sweep s with
      | (s, true) => (deviceWrite n ((s.part n).liveFrame f) (a % pageBytes) bs s, true)
      | (s, false) => (s, false)
    | none => if s.frameFull n f then (s, false) else (deviceWrite n f (a % pageBytes) bs s, true)
  | _ => (s, true)

/-- STEPREC: the step record reaches a partition (R191): the step page, then STEP_SEM_REC, the counts of Table 8.7, and the drop
release where the partition's slot is dropped (R193), unless an abort is under way, which absorbs it (R460). `us` is the time
since the partition's release. A standby keeps the records of its job (R306, R271). -/
def execSteprecFrame (n : PartId) (us : Word) (s : State) : Out :=
  let p := s.part n.val
  let due (f : Frame) : Bool := match f.body with
    | .steprec r => decide (p.rl.role = .standby) || (!p.step.held && decide (r.step.toNat ≤ p.step.count.toNat))
    | _ => false
  .next (match takeFrame n.val due s with
  | some (_, f, s') =>
    match f.body, lcJob s n.val with
    | .steprec r, some x =>
      if r.step ≠ p.step.count then s'
      else
        let self := decide (x.launch.slot ∈ r.dropped)
        match putStepPage n.val x.launch.stepPage.toNat (stepRecBytes r self) s' with
        | (_, false) => s
        | (s, true) =>
          let k := r.dropped.length
          let s := s.modPart n.val fun p => { p with
            step := { p.step with
              record := some r, nmb := BitVec.ofNat 16 r.nmb, ncontrib := BitVec.ofNat 16 r.ncontrib
              dropTotal := satAdd p.step.dropTotal k, dropOvf := p.step.dropOvf || satOvf p.step.dropTotal k
              lastDelay := us, lastVoid := none }
            stk := { p.stk with records :=
              if p.stk.records.any (fun q => decide (q.step = r.step)) then p.stk.records else p.stk.records ++ [r] } }
          let s := semSignal n.val x.launch.semRec 1 s
          if self && (s.part n.val).abort.request.isNone then dropRelease n.val s else s
    | .steprec r, none =>
      if p.rl.role = .standby then
        s'.modPart n.val fun p => { p with stk := { p.stk with records :=
          (p.stk.records.filter fun q => decide (q.step ≠ r.step)) ++ [r] } }
      else s'
    | _, _ => s'
  | none => s)

/-- DROPMARK: a co-carrier's marker ends the discarding of its frames (R194). A marker of a step whose drop release this module has not made yet
waits for it, and the frames behind it with it. -/
def execDropmarkFrame (n : PartId) (s : State) : Out :=
  let p := s.part n.val
  let due (f : Frame) : Bool := decide (f.body = .dropmark) &&
    (decide (f.step.toNat < p.lcStep.toNat) || (decide (f.step = p.lcStep) && p.step.released))
  .next (match takeFrame n.val due s with
  | some (_, f, s) => s.modPart n.val fun p => { p with step := { p.step with
      marked := if f.step = p.lcStep then p.step.marked ++ [f.src] else p.step.marked } }
  | none => s)

/-- BE_SCALE_FIX: while no LC context is in RUN, the BE table is fixed every 1 ms (R165). -/
def execBeScaleFix (n : PartId) (s : State) : Out :=
  .next (if (s.part n.val).inRun false || !s.inService then s else s.modPart n.val (Part.mapSct true ScaleEntry.boundary))

end Sys2Proof.Machine
end

