-- ==== Sys2Proof/Machine/Boundary.lean ====
section
/-! DEFINITION. The step boundary (R101): when a partition is at it, what holds it (R47, R81, R195, R262, R302, R436), and its
release with the scale tables (R163, R165), FREE returns (R216), the boundary image (R297), the new parity boundary (R298 to
R300) and the next step. -/

namespace Sys2Proof.Machine

/-- An LC thread that has issued STEPB and waits. -/
def Thread.atStep (h : Thread) : Bool := decide (h.st = .wait) && (match h.cond with | some (.step _) => true | _ => false)

/-- Nothing of the ember keeps its partition from the boundary (R101, R145). -/
def Ember.stepQuiet (m : Ember) : Bool :=
  ((List.range 8).all fun t => m.isBe t || decide ((m.thr.get t).st = .idle) || (m.thr.get t).atStep) &&
  m.tileQ.all (·.be) && m.flueQ.all (·.be) && (List.range 2).all fun i => (m.movers.get i).all (·.be)

/-- Every LC thread that is not IDLE has issued STEPB, and no LC work is in flight (R101). -/
def allAtStep (s : State) (n : Nat) : Bool :=
  (s.part n).inRun false && (s.part n).step.first.isSome && !s.anyEmber n fun m => !m.stepQuiet

/-- STEP_REC_WAIT: the boundary is held for the step record (R195). -/
def stepRecWait (s : State) (n : Nat) : Bool :=
  allAtStep s n && !(s.part n).step.held && (match lcJob s n with
    | some x => decide (x.launch.nmb ≠ 0) && (s.part n).step.record.isNone
    | none => false)

/-- A damper image that waits for this partition's boundary is armed (R436): its own, or the module's. -/
def imageHold (s : State) (n : Nat) : Bool :=
  (s.common.images.get n).armed || (s.common.images.get 4).armed || s.power.pendingMode.isSome || s.power.changing.isSome

/-- DRAUGHT_HOLD: the partition is held at its boundary for a draught image (R47). -/
def draughtHold (s : State) (n : Nat) : Bool :=
  (s.part n).step.held && ((s.common.images.get 4).armed || s.power.pendingMode.isSome || s.power.changing.isSome)

/-- Something holds the partition at its boundary (R47, R81, R196, R262, R311, R317). A freeze with cause ROUTE_LOST lets the job run on to the
boundary of the handback that ends it (R317, R318; DEDUCED, log 108). -/
def boundaryHeld (s : State) (n : Nat) : Bool :=
  let p := s.part n
  imageHold s n || (p.frozen && !(p.rl.routeLost && p.rl.holdAt.isSome)) || p.step.frozen || p.stk.target.isSome ||
    !(decide (p.rl.state = .run) || decide (p.rl.state = .off)) || copies s n

/-- The count is that of a parity boundary (R298). -/
def Relight.parityAt (r : Relight) (count : Nat) : Bool :=
  decide (r.units ≠ 0) && decide (count % max 1 r.interval = 0)

/-- The launch fields that the members of a group must give equal values (R294, R333). -/
def parityFields (s : State) (n : Nat) : List Nat :=
  let r := (s.part n).rl
  let k := (s.part n).ck
  let pool := match (s.part n).runCtx false with | some x => x.launch.pool | none => []
  [r.mode, r.first, r.units, r.interval, r.share, r.img, r.inFirst.toNat, r.inSlotBytes.toNat, r.inSlots, k.interval, k.holdoff,
    k.warn] ++ pool

/-- The parity engine sends every data unit of the kept version to the holders of its stripe (R300); without parity the member
reports its stripes complete at once (R333). -/
def sendParity (n : Nat) (s : State) : State :=
  let r := (s.part n).rl
  if r.mode = 0 then sendFrame n (some (hearthStoker s n)) .relight (.holderReport r.boundary (parityFields s n)) s
  else (dataUnits s n).foldl (fun s q =>
    match readHbm n ((s.part n).rl.keptFrame q * pageBytes) pageBytes .outside s with
    | (s, none) => s
    | (s, some bs) =>
      let s := sendFrame n (some (s.groupPos n (q % 8))) .relight (.wpunit q 0 0 r.boundary bs) s
      if r.mode = 2 then sendFrame n (some (s.groupPos n ((q + 1) % 8))) .relight (.wpunit q 1 0 r.boundary bs) s else s) s

/-- A new parity boundary B_k (R298, R300): the live versions are kept, the versions before are held until the job seal, parity
starts afresh, and a checkpoint announced for this boundary takes its snapshot (R337). -/
def newParityBoundary (n : Nat) (s : State) : State :=
  let p := s.part n
  let r := p.rl
  let old := (List.range r.units).foldl (fun t q =>
    if r.live.get q ≠ r.kept.get q then t.set q (some (r.keptFrame q)) else t) (Tab.const none)
  let s := s.modPart n fun p => { p with rl := { p.rl with
    old := old, kept := p.rl.live, boundary := p.step.count, jobSealed := false, groupSealed := false
    parityGot := Tab.const [], parityNew := Tab.const none, holders := [], sealWait := false } }
  let s := if p.ck.state = .snap ∧ p.ck.step = p.step.count then
      ckSnapshot n (dataUnits s n) (s.modPart n fun p => { p with ck := { p.ck with
        state := .write, pinned := [], toCopy := List.range r.units } })
    else s
  sendParity n s

/-- The checkpoint requests that a parity boundary raises at the job stoker (R334): SCHEDULE and LIMIT, and the warnings whose
holdoff has ended at each partition. -/
def boundaryRequests (n : Nat) (s : State) : State :=
  let p := s.part n
  let since := p.step.count.toNat - p.ck.lastStep.toNat
  let r := (if p.ck.interval ≠ 0 ∧ p.ck.interval ≤ since then 1 else 0) + (if 1024 ≤ since ∧ p.step.nmb ≠ 0 then 4 else 0)
  let s := if isJobStoker s n && decide (r ≠ 0) then ckAsk n r s else s
  if p.ck.waiting ≠ 0 ∧ !holdoffRuns s n then
    ckAsk n p.ck.waiting (s.modPart n fun p => { p with ck := { p.ck with waiting := 0 } })
  else s

/-- The job stoker's part in the release of its own partition into a step (R190, R197): a kept record is sent again with REPLAY,
else the measurement starts. -/
def stokerRelease (n : Nat) (s : State) : State :=
  match lcJob s n with
  | none => s
  | some x =>
    if !isJobStoker s n || decide (x.launch.nmb = 0) then s
    else
      let p := s.part n
      match p.stk.records.find? fun r => r.step = p.step.count with
      | some r =>
        let r := { r with replay := true, epoch := p.epoch }
        sendFrame n none .ctrl (.steprec r) (s.modPart n fun p => { p with stk := { p.stk with
          reports := [], issued := some r, measuring := false } })
      | none => s.modPart n fun p => { p with stk := { p.stk with reports := [], issued := none, measuring := true } }

/-- What starts afresh in a thread with a step: the sentinel's count of draws and its staged setting (R135, R180), and ring steps (R144). A
replay returns to a boundary that the thread has passed: a setting that the aborted step staged is gone, and the replayed program stages it
again. -/
def Thread.newStep (replay : Bool) (h : Thread) : Thread :=
  { h with
    ringStep := Tab.const 0
    snt := { h.snt with j := 0, armed := if replay then h.snt.armed else h.snt.staged.or h.snt.armed, staged := none } }

/-- What starts afresh with a step in a partition: both step semaphores (R191), the record, the marks, the threads' counts, the counts that a
drop returns to (R193), and the capability entries that change at boundaries (R108). At a boundary the threads of both classes pass it
(R135, R144, R180); a START and a replay are a step of the LC threads alone. -/
def startStep (n : Nat) (boundary replay : Bool) (s : State) : State :=
  match lcJob s n with
  | none => s
  | some x =>
    let zero (k : Nat) (t : Tab Sem) : Tab Sem := t.upd k fun m => { m with word := 0 }
    let counts := (List.range 64).foldl (fun t g => t.set g (groupCount s n false g)) (Tab.const 0)
    let s := s.modPart n fun p => { p with
      sems := if x.launch.nmb = 0 then p.sems else zero x.launch.semContrib (zero x.launch.semRec p.sems)
      step := { p.step with record := none, contributed := false, marked := [], first := none, held := false
                            released := false, collStart := counts, capEpoch := p.epoch, capStoker := (hearthStoker s n).member } }
    s.mapEmbers n fun m => m.mapThreads fun t h =>
      if m.isBe t && !boundary then h else h.newStep replay

/-- The threads of the boundary are released (R101). -/
def Thread.leaveStep (paused : Bool) (h : Thread) : Thread :=
  match h.cond with
  | some (.step _) =>
    if h.st = .wait then
      { h with cond := none, st := if h.haltPend then .halt else if paused then .paused else .run, haltPend := false }
    else { h with cond := none }
  | _ => h

/-- Release a partition from its boundary into the next step: the scale tables, the FREE returns, the image, the new parity
boundary, then the threads (R101, R163, R165, R216, R297). At the boundary of a handback the LC threads stay paused (R317). -/
def releaseStep (n : Nat) (s : State) : State :=
  let dropped := match (s.part n).step.record with | some r => !r.dropped.isEmpty | none => false
  let s := s.modPart n (Part.mapSct false (if dropped then ScaleEntry.clearRun else ScaleEntry.boundary))
  let s := s.modPart n (Part.mapSct true ScaleEntry.boundary)
  let give (h : Heap) : Heap := let h := h.giveBackWhere fun _ => true; { h with atStart := h.blocks }
  let s := s.modPart n fun p => { p with mem := { p.mem with
    heaps := (List.range 4).foldl (fun t i => t.upd i give) p.mem.heaps } }
  let span := hasSpan s n
  let s := if span then writeImage n (imageFill s n) (boundaryImage s n) (storeHeaps n s) else s
  let parity := span && (s.part n).rl.parityAt (s.part n).step.count.toNat
  let s := if parity then boundaryRequests n (newParityBoundary n s) else s
  let s := startStep n true false s
  let s := s.modPart n fun p => { p with abort := { p.abort with count := 0 } }
  let hold := parity && decide ((s.part n).rl.holdAt = some (s.part n).step.count)
  let s := if hold then s.modPart n fun p => { p with pauseLc := true } else stokerRelease n s
  let paused := (s.part n).pauseLc
  let s := s.mapEmbers n fun m => m.mapThreads fun t h => if m.isBe t then h else h.leaveStep paused
  releaseBeAll n (s.modPart n fun p => { p with pauseBe := false })

/-- The units that the device writes at the boundary: the image's, and those of the heaps' metadata. -/
def boundaryUnits (s : State) (n : Nat) : List Nat :=
  let p := s.part n
  imageFill s n ++ (match lcMeta p with
    | some (a, b) => metaUnits p (p.mem.heaps.get 0) a ++ metaUnits p (p.mem.heaps.get 1) b
    | none => [])

/-- Release a held partition once nothing holds it; a parity boundary waits for the job seal of the one before (R302), and the
image waits for the seal and for pool frames (R298, R299). -/
def tryRelease (n : Nat) (s : State) : State :=
  let p := s.part n
  if !p.step.held || boundaryHeld s n then s
  else if !hasSpan s n then releaseStep n s
  else
    let wait (s : State) : State := s.modPart n fun p => { p with rl := { p.rl with sealWait := !p.rl.jobSealed } }
    if p.rl.parityAt p.step.count.toNat && !p.rl.jobSealed then wait s
    else match prepUnits n (boundaryUnits s n) s with
      | (s, true) => releaseStep n (s.modPart n fun p => { p with rl := { p.rl with sealWait := false } })
      | (s, false) => wait s

/-- STEP_BOUNDARY: a partition reaches its boundary (R101): the step counter takes RA + 1, pending retirements take place, BE
threads pause for an armed image, and the partition is released as soon as nothing holds it. -/
def execStepBoundary (n : PartId) (s : State) : Out :=
  .next (if !s.inService || !allAtStep s n.val || (s.part n.val).step.held || stepRecWait s n.val then s
    else match (s.part n.val).step.first with
      | none => s
      | some ra =>
        let s := s.modPart n.val fun p => { p with step := { p.step with count := ra + 1, held := true } }
        let s := startRetires n.val s
        let s := if imageHold s n.val then pauseClass n.val true (s.modPart n.val fun p => { p with pauseBe := true }) else s
        tryRelease n.val s)

end Sys2Proof.Machine
end

