-- ==== Sys2Proof/Machine/Banked.lean ====
section
/-! DEFINITION. Banked pages (R209 to R212): the end of a bank-out, and the start and end of an unbank. -/

namespace Sys2Proof.Machine

/-- BANK_OUT_DONE: the slot of a page's bank-out has been written whole and recorded, so the entry is written as banked and the
frame joins the unbank pool (R209). -/
def execBankOutDone (n : PartId) (page : BitVec 27) (s : State) : Out :=
  let k := page.toNat
  .next (match (s.part n.val).mem.pages.get k with
  | some e =>
    match e.busy, e.loc with
    | .bankOut slot, .frame f =>
      if s.ks.writes.any (fun w => decide (w.slot = slot)) || (s.ks.inForce.maps.get slot).isNone then s
      else
        let s := setPage n.val k (some { e with loc := .banked slot, busy := .idle }) (s.modPart n.val fun p => { p with mem := { p.mem with
          frames := p.mem.frames.set f .pool } })
        bankFinish n.val (bankStatus n.val k bankOk (cacheDrop n.val k s))
    | _, _ => s
  | none => s)

/-- Unbanks in progress in a partition, and on the module (R211). -/
def Part.unbanks (p : Part) : Nat :=
  (p.mem.pages.items.filter fun e => match e.2 with
    | some q => (match q.busy with | .unbank _ => true | _ => false)
    | none => false).length
def unbanksOut (s : State) : Nat := (List.range 4).foldl (fun c n => c + (s.part n).unbanks) 0

/-- BSLOT of a fresh page (R314). -/
def freshSlot : Nat := 0xFFFFFF

/-- The ticket of the oldest unbank request of a partition that could start: a frame is in its pool, and where the page lies in flash the
kindling answers (R210, R211). -/
def unbankFront (s : State) (n : Nat) : Option Nat :=
  let m := (s.part n).mem
  match m.unbankQ, m.poolFrames with
  | (page, k) :: _, _ :: _ =>
    let flash := match (m.pages.get page).map (·.loc) with | some (.banked b) => decide (b ≠ freshSlot) | _ => false
    if flash && (!s.ks.ready || s.ks.metaFault) then none else some k
  | _, _ => none

/-- A partition's oldest request is the module's oldest of those that could start (R211). -/
def unbankTurn (s : State) (n : Nat) : Bool := match unbankFront s n with
  | some k => (List.range 4).all fun m => match unbankFront s m with | some k' => decide (k ≤ k') | none => true
  | none => false

/-- UNBANK_START: the oldest waiting unbank takes the lowest frame of its partition's pool and a place among the module's 64 (R210,
R211); the host is told where the pool is left empty with others waiting. -/
def execUnbankStart (n : PartId) (s : State) : Out :=
  let m := (s.part n.val).mem
  .next (match m.unbankQ, m.poolFrames with
  | (page, _) :: rest, f :: _ =>
    match m.pages.get page with
    | some e =>
      if decide (64 ≤ unbanksOut s) || !s.inService || !unbankTurn s n.val then s
      else poolEdge n.val m.poolEmpty (s.modPart n.val fun p => { p with mem := { p.mem with
        unbankQ := rest
        pages := p.mem.pages.set page (some { e with busy := .unbank f })
        frames := p.mem.frames.set f .mapped } })
    | none => s.modPart n.val fun p => { p with mem := { p.mem with unbankQ := rest } }
  | _, _ => s)

/-- Every thread parked on a page returns to RUN and reissues its access (R210). -/
def unpark (n page : Nat) (ns : Word) (s : State) : State :=
  let on (h : Thread) : Bool := decide (h.st = .park) && decide (h.parkPage = some page)
  (s.embersWhere n fun m => (List.range 8).any fun t => on (m.thr.get t)).foldl (fun s l =>
    (List.range 8).foldl (fun s t =>
      if on (s.thread l t) then
        toRun l t (parkTime n (s.isBe l t) ns (s.modThread l t fun h => { h with parkPage := none }))
      else s) s) s

/-- What a slot is mapped to, and its contents. -/
def slotMap (s : State) (slot : Nat) : Option SlotMap := s.ks.inForce.maps.get slot
def slotBytes (s : State) (slot : Nat) : List Byte :=
  match slotMap s slot with
  | some m => (slotData s m).read 0 pageBytes
  | none => []

/-- The frame of an unbank holds the page: the entry is written, threads and movers resume, and the slot is given back (R210, R332). W stays
clear on a retired frame (R228). -/
def unbanked (n k f slot : Nat) (ns : Word) (bs : List Byte) (s : State) : State :=
  let s := fillFrame n f bs s
  let retired := ((s.part n).prot.regions.get f).retired
  let back (e : Page) : Page := { e with loc := .frame f, busy := .idle, w := e.w && !retired }
  let s := setPage n k (((s.part n).mem.pages.get k).map back) s
  unpark n k ns (cacheDrop n k (if slot = freshSlot then s else freeSlot n slot s))

/-- UNBANK_DONE: the sectors are verified and written to the frame, the entry is written, and threads and movers resume (R210).
`flips` are outside changes to sectors before it: a sector that fails its GCM tag or its sequence value is a security alarm (R211, R239, R324).
`ns` is the time its threads spent in PARK. A slot that is no longer mapped cannot be read; the frame's lines are written once their counters
can be taken (R227). -/
def execUnbankDone (n : PartId) (page : BitVec 27) (ns : Word) (flips : List SectorFlip) (s : State) : Out :=
  let k := page.toNat
  let s := strikeSectors flips s
  .next (match (s.part n.val).mem.pages.get k with
  | some e =>
    match e.busy, e.loc with
    | .unbank f, .banked slot =>
      if s.frameFull n.val f then s
      else if slot = freshSlot then unbanked n.val k f slot ns [] s
      else match slotMap s slot with
      | none => s
      | some m => readSlots n.val (fun x => decide (x.stripe = m.stripe)) (unbanked n.val k f slot ns ((slotData s m).read 0 pageBytes)) s
    | _, _ => s
  | none => s)

end Sys2Proof.Machine
end

