-- ==== Sys2Proof/Machine/Store.lean ====
section
/-! DEFINITION. The kindling controller (R324 to R330): slot writes, failed and erased stripes, journal sectors, loading the
metadata, compaction and KS_FORMAT. -/

namespace Sys2Proof.Machine

/-- What a slot write writes, read through the checks of HBM where it comes from a frame: the write is held until their verdicts are known
(R233). -/
def writeBytes (w : SlotWrite) (s : State) : State × Option (List Byte) :=
  match w.src with
  | .bytes bs => (s, some bs)
  | .frame f => readChecked w.part (f * pageBytes) pageBytes (if w.kind = 0 then .outside else .sweep) s

/-- SLOT_WRITE_DONE: the stripe of a slot is programmed whole and its MAP follows (R324, R328). A unit of a snapshot that has been
copied is unpinned (R337). -/
def execSlotWriteDone (slot stripe : BitVec 24) (s : State) : Out :=
  .next (match s.ks.writes.find? fun w => decide (w.slot = slot.toNat) with
  | none => s
  | some w =>
    if !ksUp s || !stripeFree s stripe.toNat then s
    else if !seqReady s then askSeq s
    else match writeBytes w s with
      | (s, none) => if w.kind = 0 then bankFail w.part w.slot bankRefused s else ckAbandon w.part false s
      | (s, some bs) =>
        let s := programSlot w.part w.kind w.slot w.gen w.unit w.job bs stripe.toNat s
        if w.kind = 1 then
          (unpinUnit w.part w.unit s).modPart w.part fun p => { p with ck := { p.ck with
            toCopy := p.ck.toCopy.filter fun q => decide (q ≠ w.unit) } }
        else s)

/-- STRIPE_PROGRAM_FAIL: a NAND block fails to program, or, where no slot is named, to erase (R325): the stripe is retired, its
write sequence values are not used again, and a write with no spare stripe left fails with NOSPACE. -/
def execStripeProgramFail (stripe : BitVec 24) (channel : Fin 32) (slot : Option (BitVec 24)) (s : State) : Out :=
  let t := stripe.toNat
  .next (if !ksUp s then s
    else match slot with
    | none =>
      if t ∈ s.ks.erasable then
        journal (.retire t channel.val) (s.modKs fun k => { k with erasable := k.erasable.filter fun x => decide (x ≠ t) })
      else s
    | some slot =>
      match s.ks.writes.find? fun w => decide (w.slot = slot.toNat) with
      | none => s
      | some w =>
        if !stripeFree s t || !seqReady s then s
        else
          let s := journal (.retire t channel.val) (s.modKs fun k => { k with seq := k.seq + 512, freeStripes := k.freeStripes - 1 })
          if s.ks.freeStripes ≠ 0 then s
          else if w.kind = 0 then bankFail w.part w.slot bankNoSpace s
          else ckAbandon w.part true s)

/-- STRIPE_ERASE_DONE: a stripe whose slots are all unmapped is erased (R324, R328). -/
def execStripeEraseDone (stripe : BitVec 24) (s : State) : Out :=
  let t := stripe.toNat
  .next (if ksUp s && decide (t ∈ s.ks.erasable) then
      s.modKs fun k => { k with
        erasable := k.erasable.filter fun x => decide (x ≠ t)
        data := k.data.set t []
        freeStripes := satAdd k.freeStripes 1 }
    else s)

/-- Sectors of a journal half of 2 GiB (Table 14.1). -/
def journalSectors : Nat := 524288

/-- KS_JFILL: percent of the half in use. -/
def jfill (s : State) : Nat := s.ks.sectors.length * 100 / journalSectors

/-- JOURNAL_SECTOR_PROGRAMMED: the next sector, of at most 127 records, is programmed and its records take effect (R327). While a
compaction runs it is written to both halves (R330); a full half stalls it. -/
def execJournalSectorProgrammed (s : State) : Out :=
  .next (if !ksUp s || s.ks.pend.isEmpty || decide (journalSectors ≤ s.ks.sectors.length) then s
    else
      let recs := s.ks.pend.take 127
      let s := s.modKs fun k => { k with
        pend := k.pend.drop 127, sectors := k.sectors ++ [recs], written := k.written + (if k.compacting then 2 else 1) }
      s.modKs fun k => recs.foldl (fun k r => takeEffect r k) k)

/-- Slots that hold something by the metadata. -/
def takenBy (m : KsMeta) : Tab Bool := m.maps.items.foldl (fun t e => if e.2.isSome then t.set e.1 true else t) (Tab.const false)

/-- KS_LOAD_DONE: the metadata is loaded (R329): the base image and the sectors of the half in use; slots that were never mapped
are free. Where no root verifies, KS_META_FAULT is set and FAULT_N driven. `free` is the count of erased stripes found. -/
def execKsLoadDone (free : BitVec 24) (s : State) : Out :=
  .next (if decide (s.power.light ≠ .ready) || !s.power.flashOn || s.ks.ready || s.ks.metaFault then s
    else if !s.ks.rootGood then
      setFault .metaFault (sootEvent 0x23 0xFF [] (s.modKs fun k => { k with metaFault := true }))
    else
      let m := s.ks.sectors.flatten.foldl KsMeta.apply s.ks.base
      s.modKs fun k => { k with
        ready := true, compacting := false, cut := none, inForce := m, pend := [], writes := [], seq := m.nextSeq
        taken := takenBy m, freeStripes := free })

/-- KS_COMPACT: at 75 percent the controller takes its cut and starts to compact (R330). -/
def execKsCompact (s : State) : Out :=
  .next (if ksUp s && !s.ks.compacting && decide (75 ≤ jfill s) then
      s.modKs fun k => { k with compacting := true, cut := some k.sectors.length }
    else s)

/-- KS_COMPACT_DONE: the new root names the new base and half, and what comes after the cut is the new half (R330). The length of
the base image, which the spec does not state, enters KS_WRITTEN as a free value. -/
def execKsCompactDone (s : State) : Out :=
  .next (match s.ks.cut with
  | none => s
  | some c =>
    if !ksUp s || !s.ks.compacting then s
    else
      let (len, s) := s.takeFree
      s.modKs fun k => { k with
        base := (k.sectors.take c).flatten.foldl KsMeta.apply k.base
        sectors := k.sectors.drop c
        firstJseq := k.firstJseq + c
        rootB := !k.rootB, baseB := !k.baseB, halfB := !k.halfB
        rootSeq := k.rootSeq + 1, rootGood := true
        compacting := false, cut := none
        written := k.written + BitVec.ofNat 64 len + 1
        compactCnt := satAdd k.compactCnt 1, compactOvf := k.compactOvf || satOvf k.compactCnt 1 })

/-- KS_FORMAT: new roots and an empty base; every slot, generation and reservation is lost, and KS_META_FAULT is cleared (R329).
The next write sequence block and the retired stripes are kept. -/
def ksFormat (s : State) : State :=
  if !s.power.flashOn || decide (s.power.light ≠ .ready) then s
  else
    let m := ksNow s
    let mapped := m.maps.items.filterMap fun e => e.2.map (·.stripe)
    let empty : KsMeta := { maps := Tab.const none, gens := [], retired := m.retired, nextSeq := m.nextSeq }
    let s := s.modKs fun k => { k with
      ready := true, metaFault := false, compacting := false, cut := none, rootGood := true
      rootB := !k.rootB, rootSeq := k.rootSeq + 1, firstJseq := k.firstJseq + k.sectors.length
      base := empty, inForce := empty, sectors := [], pend := [], writes := [], taken := Tab.const false
      erasable := k.erasable ++ mapped.filter fun t => decide (t ∉ k.erasable)
      blobs := Tab.const none, lastExp := [], written := k.written + 2 }
    let s := (List.range 4).foldl (fun s n => (releaseReservation n s).modPart n fun p => { p with
      ck := if p.ck.state.pending then { p.ck with state := .idle, pinned := [], toCopy := [] } else p.ck }) s
    clearFault .metaFault s

/-- KS_FORMAT: a privileged write of 1. -/
def execKsFormat (s : State) : Out := .next (ksFormat s)

end Sys2Proof.Machine
end

