-- ==== Sys2Proof/Machine/Checkpoint.lean ====
section
/-! DEFINITION. Checkpoints (R333 to R341): requests, announcement, shard records, manifests and commitment. -/

namespace Sys2Proof.Machine

/-- The next parity boundary after a count (R298). -/
def nextParity (iv b : Nat) : Nat := (b / max 1 iv + 1) * max 1 iv

/-- The job stoker announces a checkpoint that waits (R336): for the first parity boundary for which it has not broadcast the job
SEAL of the boundary before, and once every position has reported COMMITTED for the generation before. GEN does not go past
its width. -/
def ckAnnounce (n : Nat) (s : State) : State :=
  let p := s.part n
  let k := p.stk
  if !isJobStoker s n || decide (k.ckReasons = 0) || k.ckOpen || decide (2 ^ 32 - 1 ≤ k.ckGen) || !hasSpan s n then s
  else
    let b := nextParity p.rl.interval p.rl.boundary.toNat
    let sealedNow := p.rl.jobSealed || decide (k.jobSealed = some p.rl.boundary)
    let step := BitVec.ofNat 64 (if sealedNow then nextParity p.rl.interval b else b)
    let s := s.modPart n fun p => { p with stk := { p.stk with
      ckReasons := 0, ckGen := k.ckGen + 1, ckStep := step, ckLast := k.ckReasons, ckOpen := true, shards := [], committed := [] } }
    sendFrame n none .ctrl (.ckptAnnounce (k.ckGen + 1) step k.ckReasons) s

/-- Samples of the 50 MHz clock in a row after which PWR_WARN counts as asserted: 1 µs (R27). -/
def pwrWarnSamples : Nat := 50

/-- PWR_WARN: high for 50 samples in a row, the input counts as asserted, and a shorter pulse has no effect: a POWER request for every loaded partition (R27, R335). -/
def execPwrWarn (s : State) (samples : HWord := 50) : Out :=
  .next (if decide (samples.toNat < pwrWarnSamples) || s.pins.pwrWarn || !s.power.aoOn then s
    else
      let s := { s with pins := { s.pins with pwrWarn := true }, ks := { s.ks with pwrWarn := true } }
      (loadedParts s).foldl (fun s n => ckAsk n 256 s) s)

/-- PWR_WARN_DEASSERT: the input falls; a later assertion raises requests again (R27). -/
def execPwrWarnDeassert (s : State) : Out :=
  .next { s with pins := { s.pins with pwrWarn := false }, ks := { s.ks with pwrWarn := false } }

/-- CK_REQ: a privileged write of 1 asks for a checkpoint with reason HOST (R334). -/
def execCkReq (n : PartId) (s : State) : Out := .next (ckAsk n.val 2 s)

/-- CHECKPOINT_REQUEST: a request goes through the hearth stoker to the job stoker, which merges it into the checkpoint that waits
to be announced (R334, R336). -/
def execCheckpointRequest (n : PartId) (s : State) : Out :=
  .next (match takeFrame n.val (fun f => match f.body with | .ckrepRequest _ => true | _ => false) s with
  | some (_, f, s) => match f.body with
    | .ckrepRequest r =>
      let p := s.part n.val
      if !isJobStoker s n.val then sendFrame n.val (some p.jobStoker) .ctrl (.ckrepRequest r) s
      else ckAnnounce n.val (s.modPart n.val fun p => { p with stk := { p.stk with ckReasons := Nat.lor p.stk.ckReasons r } })
    | _ => s
  | none => s)

/-- An export of a generation that is being released stops with GENERATION (R363). -/
def stopExport (n status detail : Nat) (s : State) : State :=
  match (s.part n).exporting with
  | none => s
  | some x =>
    let s := s.modPart n fun p => { p with exporting := none, chr := { p.chr with lastExpStatus := BitVec.ofNat 4 detail } }
    completeCmd (n + 1) x.ring x.busy status detail 0 s

/-- The lowest free blob index of the reservation area. -/
def blobIndex (s : State) : Nat :=
  (List.range (s.ks.blobs.items.length + 1)).foldr (fun i r => if (s.ks.blobs.get i).isNone then i else r) s.ks.blobs.items.length

/-- CKPT ANNOUNCE: the partition releases the generation before the last, opens the new one under a fresh checkpoint key, and waits
for its boundary (R336, R340, R374). An entropy failure abandons it (R366). -/
def execCkptAnnounce (n : PartId) (s : State) : Out :=
  .next (match takeFrame n.val (fun f => match f.body with | .ckptAnnounce _ _ _ => true | _ => false) s with
  | some (_, f, s') => match f.body with
    | .ckptAnnounce gen step reasons =>
      if !ksUp s then s
      else
        let s := s'
        let old := (gensOf s n.val).filter fun g => decide (g.gen + 2 ≤ gen) || decide (gen ≤ g.gen)
        let s := match (s.part n.val).exporting with
          | some x => if old.any fun g => decide (g.gen = x.gen) then stopExport n.val 6 11 s else s
          | none => s
        let s := old.foldl (fun s g => releaseGen n.val g.gen s) s
        let p := s.part n.val
        let base : Ckpt := { p.ck with state := .snap, gen := gen, step := step, lastStep := step
                                       lastReasons := BitVec.ofNat 9 reasons, pinned := [], toCopy := [] }
        let s := s.modPart n.val fun p => { p with ck := base }
        match freshKey s with
        | (s, none) => ckAbandon n.val false s
        | (s, some key) =>
          let i := blobIndex s
          let job := p.adm.jobId
          let blob := wrapBlob s 2 n.val 0 gen job key
          let s := s.modKs fun k => { k with blobs := k.blobs.set i (some { blob := blob, job := job, charter := p.adm.digest }) }
          journal (.gen { part := n.val, gen := gen, st := .opened, step := step, job := jobLow job, blob := i }) s
    | _ => s'
  | none => s)

/-! ### Shard records -/

/-- The bytes of the units of a generation held in slots, by unit. -/
def shardUnits (s : State) (n gen units : Nat) : List (List Byte) :=
  let slots := genSlots s n gen (jobLow (s.part n).adm.jobId)
  (List.range units).map fun q => match slots.find? fun e => decide (e.2.kind = 1) && decide (e.2.unit = q) with
    | some (_, m) => (slotData s m).read 0 pageBytes
    | none => []

/-- SHARD_DIGEST of units (R338). -/
def shardDigest (us : List (List Byte)) : Digest := shake (us.flatMap fun b => keyBytes (shake b))

/-- Bytes 0 to 151 of a shard record (Table 14.5). -/
def shardBytes (s : State) (n gen : Nat) (step : DWord) (d : Digest) : List Byte :=
  let p := s.part n
  leBytes 4 0x5253485A ++ leBytes 2 1 ++ leBytes 2 p.rl.mode ++ leBytes 16 p.adm.jobId.toNat ++ keyBytes p.tree.digest ++
    leBytes 8 step.toNat ++ leBytes 4 p.epoch.toNat ++ leBytes 4 (posWord (s.logicalPos n)) ++ leBytes 4 gen ++
    leBytes 4 p.rl.units ++ leBytes 8 0 ++ keyBytes d ++ keyBytes s.keys.moduleId

/-- Every unit of the partition's snapshot is mapped in effect. -/
def shardMapped (s : State) (n : Nat) : Bool :=
  let p := s.part n
  let job := jobLow p.adm.jobId
  p.ck.toCopy.isEmpty && decide ((s.ks.inForce.maps.items.filter fun e => match e.2 with
    | some m => decide (m.part = n) && decide (m.kind = 1) && decide (m.gen = p.ck.gen) && decide (m.job = job)
    | none => false).length = p.rl.units)

/-- A partition's generation takes a state in the journal (Table 14.2). -/
def genState (n gen : Nat) (st : GenState) (s : State) : State :=
  match (gensOf s n).find? fun g => decide (g.gen = gen) with
  | some g => journal (.gen { g with st := st }) s
  | none => s

/-- SHARD_COPY_DONE: every unit is mapped, so the shard record is signed, written to a slot on the named stripe, journalled LOCAL
and sent to the job stoker (R338); a record that cannot be signed abandons the generation (R366). -/
def execShardCopyDone (n : PartId) (stripe : BitVec 24) (s : State) : Out :=
  let p := s.part n.val
  .next (if decide (p.ck.state ≠ .write) || !shardMapped s n.val || !ksUp s then s
    else if !seqReady s then askSeq s
    else if !stripeFree s stripe.toNat then s
    else readSlots n.val (genMet s n.val (some p.ck.gen) [1]) (fun s =>
      let body := shardBytes s n.val p.ck.gen p.ck.step (shardDigest (shardUnits s n.val p.ck.gen p.rl.units))
      match lowestSlot s n.val, signOwn body s with
      | none, _ => ckAbandon n.val true s
      | _, (s, none) => ckAbandon n.val false s
      | some slot, (s, some sig) =>
        let s := programSlot n.val 2 slot p.ck.gen 0 (jobLow p.adm.jobId) (body ++ sig) stripe.toNat s
        let s := genState n.val p.ck.gen .local s
        let s := s.modPart n.val fun p => { p with ck := { p.ck with state := .waitManifest } }
        sendFrame n.val (some p.jobStoker) .ctrl (.ckrepShard
          { pos := s.logicalPos n.val, gen := p.ck.gen, step := p.ck.step, bytes := body, sign := sig }) s) s)

/-- The Falcon-1024 public key by which a record of a module is verified. -/
def publicKey (s : State) (id : Digest) : List Byte :=
  if id = s.keys.moduleId then ownPublicKey s else Config.publicKeyOf id

/-- The digest at an offset of a record. -/
def digestAt (bs : List Byte) (off : Nat) : Digest := BitVec.ofNat 256 (leAt bs off 32)

/-- The job stoker's check of a shard record (R339). -/
def shardGood (s : State) (n : Nat) (r : ShardRec) : Bool :=
  let p := s.part n
  Config.falconVerify (publicKey s (digestAt r.bytes 120)) r.bytes r.sign &&
    decide (leAt r.bytes 8 16 = p.adm.jobId.toNat) && decide (digestAt r.bytes 24 = p.tree.digest) &&
    decide (leAt r.bytes 56 8 = p.stk.ckStep.toNat) && decide (leAt r.bytes 72 4 = p.stk.ckGen) &&
    decide (leAt r.bytes 68 4 = posWord r.pos)

/-! ### Manifests -/

/-- The end of a run of records, each behind its length in 4 bytes. -/
def recsEnd (bs : List Byte) : Nat → Nat → Nat
  | 0, off => off
  | k + 1, off => recsEnd bs k (off + 4 + leAt bs off 4)

/-- Bytes of a manifest before its signature, by its own counts (Table 14.6). -/
def manifestBody (bs : List Byte) : Nat := recsEnd bs (leAt bs 140 4) (184 + 104 * leAt bs 136 4) + 8

/-- The manifest that a generation's slots hold (KIND 3), or nothing. -/
def manifestOf (s : State) (n gen : Nat) : List Byte :=
  let slots := (genSlots s n gen (jobLow (s.part n).adm.jobId)).filter fun e => decide (e.2.kind = 3)
  let bs := (List.range slots.length).flatMap fun i => match slots.find? fun e => decide (e.2.unit = i) with
    | some (_, m) => (slotData s m).read 0 pageBytes
    | none => []
  if bs.isEmpty then [] else bs.take (manifestBody bs + 1280)

/-- The newest committed generation of a partition's job, and CK_NEWEST. -/
def newestGen (s : State) (n : Nat) : Option Gen :=
  (gensOf s n).foldl (fun b g => if g.st = .committed then
    (match b with | some h => if h.gen < g.gen then some g else some h | none => some g) else b) none

/-- The step records of a manifest (R339): from min(previous CK_STEP, CK_STEP - 16) on, the 1,040 newest; and whether some are left
out. -/
def manifestRecs (s : State) (n : Nat) : List StepRec × Bool :=
  let p := s.part n
  let prev := match newestGen s n with | some g => g.step.toNat | none => match lcJob s n with | some x => x.launch.startStep.toNat | none => 0
  let step := p.stk.ckStep.toNat
  let lo := min prev (step - 16)
  let rs := p.stk.records.filter fun r => decide (lo ≤ r.step.toNat) && decide (r.step.toNat < step)
  (rs.drop (rs.length - 1040), decide (1040 < rs.length))

/-- The manifest of the announced generation before its signature (Table 14.6). -/
def manifestBytes (s : State) (n : Nat) : List Byte :=
  let p := s.part n
  let k := p.stk
  let (recs, trunc) := manifestRecs s n
  let poss := s.jobPositions
  let prev := match newestGen s n with | some g => keyBytes (shake (manifestOf s n g.gen)) | none => leBytes 32 0
  let parent := match lcJob s n with | some x => x.launch.parent | none => 0
  leBytes 4 0x464E4D5A ++ leBytes 2 1 ++ leBytes 2 (b2n trunc) ++ leBytes 16 p.adm.jobId.toNat ++ keyBytes p.adm.digest ++
    keyBytes p.tree.digest ++ keyBytes parent ++ leBytes 8 k.ckStep.toNat ++ leBytes 4 k.ckGen ++ leBytes 4 p.epoch.toNat ++
    leBytes 4 poss.length ++ leBytes 4 recs.length ++ prev ++ leBytes 1 p.rl.mode ++ leBytes 1 s.nParts ++ leBytes 6 0 ++
    (poss.flatMap fun q => match k.shards.find? fun r => decide (r.pos = q) with
      | some r => leBytes 4 (posWord q) ++ leBytes 4 0 ++ keyBytes (digestAt r.bytes 120) ++ keyBytes (digestAt r.bytes 88) ++
          keyBytes (shake (r.bytes ++ r.sign))
      | none => leBytes 104 0) ++
    (recs.flatMap fun r => let b := stepRecBytes r false; leBytes 4 b.length ++ b) ++
    leBytes 4 (posWord (s.logicalPos n)) ++ leBytes 4 0

/-- CKREP SHARD: the job stoker verifies a shard record, and with a good one from every position it signs and broadcasts the
manifest (R339). -/
def execCkrepShard (n : PartId) (s : State) : Out :=
  .next (match takeFrame n.val (fun f => match f.body with | .ckrepShard _ => true | _ => false) s with
  | some (_, f, s) => match f.body with
    | .ckrepShard r =>
      let k := (s.part n.val).stk
      if !isJobStoker s n.val || !k.ckOpen || !shardGood s n.val r || k.shards.any fun q => decide (q.pos = r.pos) then s
      else
        let s := s.modPart n.val fun p => { p with stk := { p.stk with shards := p.stk.shards ++ [r] } }
        if s.jobPositions.all fun q => (s.part n.val).stk.shards.any fun r => decide (r.pos = q) then
          readSlots n.val (genMet s n.val ((newestGen s n.val).map (·.gen)) (if (newestGen s n.val).isSome then [3] else [])) (fun s =>
            let body := manifestBytes s n.val
            match signOwn body s with
            | (s, some sig) => sendFrame n.val none .ctrl (.ckptManifest k.ckGen k.ckStep body sig) s
            | (s, none) => s) s
        else s
    | _ => s
  | none => s)

/-- The entry of a position in a manifest: its offset. -/
def manifestEntry (bs : List Byte) (q : Pos) : Option Nat :=
  ((List.range (leAt bs 136 4)).map fun i => 184 + 104 * i).find? fun o => decide (leAt bs o 4 = posWord q)

/-- A manifest's signature is that of its signer, the job stoker's position (R340). -/
def manifestSigned (s : State) (body sig : List Byte) : Bool :=
  let signer := leAt body (body.length - 8) 4
  match ((List.range (leAt body 136 4)).map fun i => 184 + 104 * i).find? fun o => decide (leAt body o 4 = signer) with
  | some o => Config.falconVerify (publicKey s (digestAt body (o + 8))) body sig
  | none => false

/-- A partition's own shard record of a generation. -/
def ownShard (s : State) (n gen : Nat) : List Byte :=
  match (genSlots s n gen (jobLow (s.part n).adm.jobId)).find? fun e => decide (e.2.kind = 2) with
  | some (_, m) => (slotData s m).read 0 1432
  | none => []

/-- A manifest's entry for the partition's own position agrees with its shard record (R340). -/
def entryGood (s : State) (n gen : Nat) (body : List Byte) : Bool :=
  let own := ownShard s n gen
  match manifestEntry body (s.logicalPos n) with
  | some o => decide (digestAt body (o + 8) = digestAt own 120) && decide (digestAt body (o + 40) = digestAt own 88) &&
      decide (digestAt body (o + 72) = shake own)
  | none => false

/-- CKPT MANIFEST: a manifest whose signature and entry verify is written to slots on the named stripes, and the generation is
journalled COMMITTED and reported (R340). -/
def execCkptManifest (n : PartId) (stripes : List (BitVec 24)) (s : State) : Out :=
  .next (match takeFrame n.val (fun f => match f.body with | .ckptManifest _ _ _ _ => true | _ => false) s with
  | some (_, f, s') => match f.body with
    | .ckptManifest gen step body sig =>
      let p := s.part n.val
      if p.ck.state ≠ .waitManifest ∨ gen ≠ p.ck.gen ∨ !manifestSigned s body sig then s'
      else if (badSector s n.val (genMet s n.val (some gen) [2])).isSome then readSlots n.val (genMet s n.val (some gen) [2]) id s'
      else if !entryGood s n.val gen body then s'
      else
        let pieces := slotPieces (body.length + 1281) (body ++ sig)
        if !ksUp s then s
        else if s.ks.inForce.nextSeq < s.ks.seq + 512 * pieces.length then askSeq s
        else match programPieces n.val 3 gen (jobLow p.adm.jobId) 0 pieces (stripes.map (·.toNat)) s' with
          | none => if (lowestSlot s n.val).isNone then ckAbandon n.val true s' else s
          | some s =>
            let s := genState n.val gen .committed s
            let s := s.modPart n.val fun p => { p with ck := { p.ck with
              state := .idle, cnt := satAdd p.ck.cnt 1, cntOvf := p.ck.cntOvf || satOvf p.ck.cnt 1 } }
            sendFrame n.val (some p.jobStoker) .ctrl (.ckrepCommitted gen) (ckRecord n.val 0 step s)
    | _ => s'
  | none => s)

/-- CKREP COMMITTED: the job stoker counts the positions that have committed (R336); a request that has waited is announced. -/
def execCkrepCommitted (n : PartId) (s : State) : Out :=
  .next (match takeFrame n.val (fun f => match f.body with | .ckrepCommitted _ => true | _ => false) s with
  | some (_, f, s) => match f.body with
    | .ckrepCommitted gen =>
      let k := (s.part n.val).stk
      if !isJobStoker s n.val || !k.ckOpen || decide (gen ≠ k.ckGen) || decide (f.src ∈ k.committed) then s
      else
        let got := k.committed ++ [f.src]
        ckAnnounce n.val (s.modPart n.val fun p => { p with stk := { p.stk with
          committed := got, ckOpen := !(s.jobPositions.all fun q => decide (q ∈ got)) } })
    | _ => s
  | none => s)

end Sys2Proof.Machine
end

