-- ==== Sys2Proof/Machine/Abort.lean ====
section
/-! DEFINITION. The step abort (R463 to R467): requests, orders, and the return of a partition to its kept versions and boundary
image (R303), which a Relight freeze makes too (R311). -/

namespace Sys2Proof.Machine

/-- Partial sums, early frames and held ring blocks of the epochs before, of both classes, and the collectives and ring steps in flight, are discarded
when a partition takes a new one; no tally counts for them (R288). The counts of a BE group stay, as the image's are never restored (Table 13.2;
DEDUCED, log 103). -/
def discardTree (n : Nat) (e : Word) (s : State) : State :=
  let tree (f : Frame) : Bool := match f.body with
    | .coll .. => true | .ringReady _ => true | .ringData .. => true | .ringAck _ => true | _ => false
  let s := dropArrived n (fun f => decide (f.epoch ≠ e) && tree f) (s.mapEmbers n fun m => { m with flueQ := [] })
  returnBe n (s.modPart n fun p => { p with tree := { p.tree with insts := [] } })

/-- A partition takes a new job epoch: what its reduction nodes hold of the epoch before is discarded (R288), generations not committed are
abandoned (R341), and the job stoker will announce them again. -/
def takeEpoch (n : Nat) (e : Word) (s : State) : State :=
  let s := reannounce n (ckAbandon n false (discardTree n e s))
  s.modPart n fun p => { p with
    epoch := e
    stk := { p.stk with measuring := false, epoch := if p.stk.epoch.toNat < e.toNat then e else p.stk.epoch } }

/-- Frames of the epoch that ends which a partition discards although they have arrived (R288, R465). -/
def epochBound (f : Frame) : Bool :=
  decide (f.vc = .lc) || (match f.body with
    | .steprec _ => true | .contrib _ _ => true | .dropmark => true | .abort _ _ _ _ _ => true
    | .wpunit _ role _ _ _ => decide (role < 2) | .holderReport _ _ => true | .sealF _ _ => true
    | .ckptAnnounce _ _ _ => true | .ckptManifest _ _ _ _ => true | .ckrepShard _ => true | .ckrepCommitted _ => true
    | _ => false)

/-- Return frames to the pool of a partition, but for those that some version or snapshot still uses. -/
def giveBack (n : Nat) (fs : List Nat) (s : State) : State :=
  s.modPart n fun p =>
    let back := fs.filter fun f => !p.rl.uses f && !(p.ck.pinned.any fun e => decide (e.2 = f)) && decide (f ∉ p.rl.pool)
    { p with rl := p.rl.giveFrames back }

/-- Every unit returns to its kept version, or to the one before it (R303, R310); the frames that held later versions, and those
of copies under way, return to the pool. -/
def revertUnits (n : Nat) (older : Bool) (s : State) : State :=
  let r := (s.part n).rl
  let used := (List.range r.units).flatMap fun q => [r.liveFrameOf q, r.keptFrame q]
  let kept := if older then (List.range r.units).foldl (fun t q => match r.old.get q with
      | some f => t.set q (if f = r.first + q then none else some f)
      | none => t) r.kept else r.kept
  let parity := if older then r.parityNew.items.filterMap (·.2) else []
  let s := s.modPart n fun p => { p with rl := { p.rl with
    kept := kept, live := kept, old := if older then Tab.const none else p.rl.old, copying := []
    parityNew := if older then Tab.const none else p.rl.parityNew
    parityGot := if older then Tab.const [] else p.rl.parityGot } }
  giveBack n (used ++ parity ++ r.copying.map fun c => c.2.1) s

/-- Parity accumulation for a boundary that is not job-sealed starts again (R465): its frames return to the pool. The job stoker keeps the group
seals of groups with a loss: theirs stands, and is rebuilt (R310, R313). -/
def restartParity (n : Nat) (s : State) : State :=
  let r := (s.part n).rl
  if r.jobSealed then s
  else
    let fs := r.parityNew.items.filterMap (·.2)
    let s := s.modPart n fun p => { p with
      rl := { p.rl with parityGot := Tab.const [], parityNew := Tab.const none, holders := [], groupSealed := false }
      stk := { p.stk with
        sealedBy := p.stk.sealedBy.filter fun e => decide (e.2 = r.boundary) && p.stk.losses.any fun l => sameGroup l.1 e.1
        jobSealed := none } }
    sendParity n (giveBack n fs s)

/-- A boundary is job-sealed at a member (R301): new parity takes the place of the old, whose frames return to the pool with those
of the data units' version before; the copies of parity units for a checkpoint start (R338). A standby notes which boundary is sealed. -/
def jobSeal (n : Nat) (b : DWord) (s : State) : State :=
  let r := (s.part n).rl
  if r.role = .standby then s.modPart n fun p => { p with rl := { p.rl with jsealedAt := b } }
  else if r.boundary ≠ b ∨ r.jobSealed then s
  else
    let fresh := r.parityNew.items.filterMap fun e => e.2.map fun f => (e.1, f)
    let was := fresh.map fun e => r.keptFrame e.1
    let olds := r.old.items.filterMap (·.2)
    let put (t : Tab (Option Nat)) : Tab (Option Nat) :=
      fresh.foldl (fun t e => t.set e.1 (if e.2 = r.first + e.1 then none else some e.2)) t
    let s := s.modPart n fun p => { p with rl := { p.rl with
      kept := put r.kept, live := put r.live, old := Tab.const none, parityNew := Tab.const none, parityGot := Tab.const []
      jobSealed := true, sealedAt := b, jsealedAt := b, sealWait := false } }
    let s := giveBack n (was ++ olds) s
    let p := s.part n
    if p.ck.state = .write ∧ p.ck.step = b then ckSnapshot n (parityUnits s n) s else s

/-- A job SEAL that has arrived before an order is acted on before it. -/
def sealFirst (n : Nat) (s : State) : State :=
  let b := (s.part n).rl.boundary
  if (s.part n).inbox.any fun e => decide (e.2.body = .sealF true b) then jobSeal n b s else s

/-- What an abort clears of an LC thread (R465): registers, tallies, accumulators, row statistics, chains; the thread starts at its
ENTRY_PC, or stays halted there. -/
def Thread.restart (pc : Nat) (hold : Bool) (h : Thread) : Thread :=
  let h' := { h with
    s := Tab.const 0, p := 1, v := Tab.const 0, td := Tab.const 0, md := Tab.const 0, q := Tab.const 0
    chain := none, acc := accZero, rows := Tab.const rowZero, line := none
    snt := { h.snt with j := 0, sample := none }
    cond := none, parkPage := none, loads := [], stores := 0, stall := false, heapReqs := [], ringStep := Tab.const 0 }
  if h.st = .lost then h'
  else if pc = 0xFFFF then { h' with st := .idle, haltPend := false }
  else if h.st = .halt ∨ h.haltPend then { h' with pc := BitVec.ofNat 16 pc, st := .halt, haltPend := false }
  else { h' with pc := BitVec.ofNat 16 pc, st := if hold then .paused else .run }

/-- The replay begins (R465, R303): LC work is discarded, units and boundary image return to the target, the epoch is taken,
pending retirements take place (R183), and every LC thread with an ENTRY_PC starts; `hold` keeps them paused (R311), and they wait for copies
to spares (R81); `parity` says that the parity of the boundary starts again. -/
def replayFrom (n : Nat) (e : Word) (older hold parity : Bool) (x : Context) (s : State) : State :=
  let s := sealFirst n s
  let s := dropArrived n (fun f => decide (f.epoch ≠ e) && epochBound f) (discardLc n s)
  let s := takeEpoch n e s
  let s := revertUnits n older s
  let s := s.modPart n fun p => { p with
    inXfers := [], step := { p.step with count := p.rl.boundary }
    sct := (Part.mapSct false ScaleEntry.clearRun p).sct }
  let s := loadHeaps n (applyImage n (keptImage s n) s)
  let s := if older then s.modPart n fun p => { p with rl := { p.rl with boundary := p.step.count, jobSealed := true } }
    else if parity then restartParity n s else s
  let s := s.modPart n fun p => { p with
    abort := { p.abort with request := none }
    rl := { p.rl with sealWait := false } }
  let s := startRetires n (startStep n false true s)
  let wait := hold || copies s n
  let s := s.modPart n fun p => { p with pauseLc := wait, step := { p.step with replayHold := wait && !hold } }
  let pc (t : Nat) : Nat := (x.launch.entryPc[t]?).getD 0xFFFF
  let s := pauseBusy n (s.mapEmbers n fun m => m.mapThreads fun t h => if m.isBe t then h else h.restart (pc t) wait)
  if wait then s else ckAnnounce n (stokerRelease n s)

/-- The LC threads of a partition go on from a boundary to which an abort or a freeze has returned it: at once, or, where an ember is being
copied to a spare, once the copy is complete (R81, R183). -/
def resumeLc (n : Nat) (s : State) : State :=
  if copies s n then s.modPart n fun p => { p with pauseLc := true, step := { p.step with replayHold := true } }
  else ckAnnounce n (stokerRelease n (releaseLc n (s.modPart n fun p => { p with step := { p.step with replayHold := false } })))

/-- SPARE_COPY_DONE: the copy to the spare completes and the held step or replay may proceed (R81, R183). -/
def execSpareCopyDone (l : EmberId) (s : State) : Out :=
  let n := s.partOf l.val
  let s := finishRetire l.val s
  let p := s.part n
  .next (tryRelease n (if p.step.replayHold && p.abort.request.isNone then resumeLc n s else s))

/-- The STEP_ABORT record (Table 18.7, R466). -/
def abortRecord (n cause : Nat) (step : DWord) (exc : Option ExcRec) (s : State) : State :=
  partRecord n { kind := 4, status := 0, detail := cause, tag := 0, arg := step, exc := exc } s

/-- ABORT_REQUEST: the job stoker acts on a request of its current epoch and discards older ones; a freeze in force absorbs it
(R464). -/
def execAbortRequest (n : PartId) (s : State) : Out :=
  .next (match takeFrame n.val (fun f => match f.body with | .abort false _ _ _ _ => true | _ => false) s with
  | some (_, f, s) => match f.body with
    | .abort _ cause epoch step origin =>
      let k := (s.part n.val).stk
      if !isJobStoker s n.val || decide (epoch ≠ k.epoch) || k.target.isSome then s else orderAbort n.val cause origin step s
    | _ => s
  | none => s)

/-- ABORT_REQUEST_RETRY: no broadcast has come within 1 ms, so the request is sent again (R463). -/
def execAbortRequestRetry (n : PartId) (s : State) : Out :=
  let p := s.part n.val
  .next (match p.abort.request with
  | some (cause, step) => sendFrame n.val (some p.jobStoker) .ctrl (.abort false cause p.epoch step (s.logicalPos n.val)) s
  | none => s)

/-- The job freezes (R196, R444): LC threads stay paused, deadline measurement stops. -/
def freezeJob (n : Nat) (f : Part → Part) (s : State) : State :=
  pauseClass n false (s.modPart n fun p => f { p with pauseLc := true, step := { p.step with replayHold := false }, stk := { p.stk with measuring := false } })

/-- ABORT: the broadcast reaches a partition (R465, R466). A full epoch freezes the job (R444); the same step void twice in
succession freezes it too (R196); a context without a span is lost; a partition that is withdrawn or halted takes nothing
(R460). -/
def execAbortFrame (n : PartId) (s : State) : Out :=
  .next (match takeFrame n.val (fun f => match f.body with | .abort true _ _ _ _ => true | _ => false) s with
  | some (_, f, s) => match f.body with
    | .abort _ cause e step origin =>
      let p := s.part n.val
      let exc := if cause = 2 ∧ origin = s.logicalPos n.val then p.abort.exc else none
      if p.rl.state = .withdrawn ∨ p.prot.halted then s
      else if e = p.epoch then
        if e.toNat = 2 ^ 32 - 1 then
          let s := { s with common := { s.common with epochFull := withBit s.common.epochFull n.val true } }
          abortRecord n.val 5 step none (freezeJob n.val (fun p => { p with frozen := true }) s)
        else s
      else match lcJob s n.val with
        | none => takeEpoch n.val e s
        | some x =>
          let twice := decide (cause = 4) && decide (p.step.lastVoid = some step)
          let s := if cause = 4 then s.modPart n.val fun p => { p with step := { p.step with
              lastVoid := some step, voidCnt := satAdd p.step.voidCnt 1, voidOvf := p.step.voidOvf || satOvf p.step.voidCnt 1 } }
            else s
          if x.launch.wpUnits = 0 then
            takeEpoch n.val e (loseContext n.val false none cause (s.modPart n.val fun p => { p with
              abort := { p.abort with request := none }, pauseLc := false, step := { p.step with replayHold := false } }))
          else
            let s := if cause = 5 then s.modPart n.val fun p => { p with frozen := false, rl := { p.rl with routeLost := false } } else s
            let s := abortRecord n.val cause step exc (replayFrom n.val e false twice true x s)
            if twice then
              partRecord n.val { kind := 12, status := 0, detail := 0, tag := 0, arg := step, exc := none }
                (freezeJob n.val (fun p => { p with step := { p.step with frozen := true } }) s)
            else s
    | _ => s
  | none => s)

end Sys2Proof.Machine
end

