-- ==== Sys2Proof/Machine/DeviceVirtual.lean ====
section
/-! DEFINITION. Device-virtual loads and stores: LDV, STV and FENCE.V with their answers (R97), parking (R57, R210, R212). -/

namespace Sys2Proof.Machine

/-- Count an entry into PARK (R212, R218). -/
def countPark (n : Nat) (be : Bool) (s : State) : State :=
  s.modPart n fun p =>
    let m := p.mem
    let p := { p with mem := { m with parkCnt := satAdd m.parkCnt 1, parkOvf := m.parkOvf || satOvf m.parkCnt 1 } }
    match p.running be with
    | some c => p.modCtx c fun x => { x with mem := { x.mem with
        parks := satAdd x.mem.parks 1, ovf := withBit x.mem.ovf 5 (x.mem.ovf.getLsbD 5 || satOvf x.mem.parks 1) } }
    | none => p

/-- A thread's access meets a banked page: the thread parks and the unbank is asked for (R97, R210). -/
def park (x : Site) (page : Nat) (s : State) : State :=
  let n := partAt s x
  askUnbank n page (countPark n (beAt s x) (modAt x (fun h => { h with st := .park, parkPage := some page }) s))

/-- The reader of an access of the thread at a site. -/
def threadReader (x : Site) (a : DWord) (s : State) : Reader :=
  .ilmin (excRec s x.e.val x.t.val excBusError 0 (thrAt s x).pc a)

/-- The checks of LDV and STV on their address, then its translation (R97, R203): `k` takes the frame. An address that is misaligned and has bits
63:48 set raises MISALIGNED (DESIGN CHOICE, log 83), and an access to a page of heap metadata, which no instruction can make, PROTECTION (DESIGN CHOICE, log 95). -/
def withVirtual (x : Site) (a : DWord) (size : Nat) (write : Bool) (k : Nat → State → Eff) (s : State) : Eff :=
  let n := partAt s x
  let page := a.toNat / pageBytes
  if a.toNat % size ≠ 0 then .exc excMisaligned a
  else if 2 ^ 48 ≤ a.toNat then .exc excReservedField a
  else match lookup (x.e.val / 1600) n page (some (beAt s x)) (threadReader x a s) s with
    | (s, false) => .stay s
    | (s', true) => if (s'.part n).metaPage page then .exc excProtection a else match (s'.part n).translate a.toNat write with
      | .unmapped => .exc excTranslation a
      | .readOnly => .exc excProtection a
      | .banked => .stay (park x page s')
      | .frame f =>
        if !stackAwake s n ((s'.part n).pa f a.toNat) size then .wait s
        else k f (touchPage n page s')

/-- LDV: the value is the one that the memory-side die holds now; RD is written when the answer returns (R97). `flips` are
outside changes to lines of the partition before the read (R240). -/
def execLdv (x : Site) (minor : Fin 8) (f : BitVec 52) (flips : List LineFlip) (s : State) : Out :=
  let s := strikeLines (partAt s x) flips s
  .next (issue x (insnWord 0x0A minor.val f) f [fRd f, fRa f] [] (requestRoom x) none
    (fun s =>
      let a := (thrAt s x).sReg (fRa f) + fImm f
      let size := 2 ^ (minor.val % 4)
      withVirtual x a size false (fun fr s =>
        match readHbm (partAt s x) ((s.part (partAt s x)).pa fr a.toNat) size (threadReader x a s) s with
        | (s, none) => .stay s
        | (s, some bs) =>
          let v := extend size (decide (4 ≤ minor.val)) (leNat bs)
          .ok (modAt x (fun h => { h with loads := h.loads ++ [{ rd := fRd f, value := v }] }) s)) s) s)

/-- LDV_ANSWER: the answer to one of the thread's outstanding loads returns and writes RD (R97). -/
def execLdvAnswer (x : Site) (i : Fin 8) (s : State) : Out :=
  .next (match (thrAt s x).loads[i.val]? with
  | some l => modAt x (fun h => { h with loads := h.loads.eraseIdx i.val, s := h.s.set l.rd l.value }) s
  | none => s)

/-- A first write to a span unit stalls: the stall is counted once and the copy is started when it may be (R298). -/
def stallWrite (x : Site) (f : Nat) (a : DWord) (s : State) : State :=
  let n := partAt s x
  let s := if (thrAt s x).stall then s else countStall n (modAt x (fun h => { h with stall := true }) s)
  match (s.part n).unitOf f with
  | some q => startCow n q (threadReader x a s).exc s
  | none => s

/-- STV: the store takes effect in the order of issue; the memory-side die's acceptance is an event of its own (R97). It waits,
unissued, for a copy-on-write (R298) and for a line whose counter is used up (R227). -/
def execStv (x : Site) (minor : Fin 4) (f : BitVec 52) (flips : List LineFlip) (s : State) : Out :=
  let s := strikeLines (partAt s x) flips s
  .next (issue x (insnWord 0x0A (8 + minor.val) f) f [fRd f, fRa f] [] (requestRoom x) none
    (fun s =>
      let h := thrAt s x
      let a := h.sReg (fRa f) + fImm f
      let size := 2 ^ minor.val
      withVirtual x a size true (fun fr s =>
        let n := partAt s x
        let pa := (s.part n).pa fr a.toNat
        if !(s.part n).writable fr then .wait (stallWrite x fr a s)
        else if s.counterFull n pa size then .wait s
        else match putHbm n pa (leBytes size (h.sReg (fRd f)).toNat) (threadReader x a s) s with
          | (s, false) => .stay s
          | (s, true) => .ok (modAt x (fun h => { h with stores := h.stores + 1, stall := false }) s)) s) s)

/-- STV_ACCEPT: the memory-side die accepts a store of the thread (R97). -/
def execStvAccept (x : Site) (s : State) : Out := .next (modAt x (fun h => { h with stores := h.stores - 1 }) s)

/-- FENCE.V: not ready until every earlier STV of the thread has been accepted (R97). -/
def execFenceV (x : Site) (f : BitVec 52) (s : State) : Out :=
  .next (issue x (insnWord 0x0A 0x10 f) f [] [] (fenceRoom x)
    (reserved (decide (field f 47 0 = 0))) (fun s => .ok s) s)

end Sys2Proof.Machine
end

