-- ==== Sys2Proof/Machine/Mover.lean ====
section
/-! DEFINITION. The movers: MOVE, MVQ and FSEND with their checks (R103, R139), dispatch, pausing and the movement of bytes
(R74, R75, R104, R152), remote scratch (R105), and mover faults (R106). -/

namespace Sys2Proof.Machine

/-- A mover descriptor's fields (Table 4.6). -/
structure MvDesc where
  src : Nat
  dst : Nat
  sStride : Int
  dStride : Int
  rows : Nat
  rowBytes : Nat
  conv : Nat
  sSp : Nat
  dSp : Nat
  tally : Nat
  rtEn : Bool
  rtally : Nat
  rthread : Nat
  zero : Bool
  deriving DecidableEq, Repr

/-- Read the fields of a mover descriptor. -/
def mvDesc (d : Desc) : MvDesc :=
  { src := (descWord d 0).toNat, dst := (descWord d 1).toNat
    sStride := ((descWord d 2).extractLsb' 40 24).toInt, dStride := ((descWord d 2).extractLsb' 16 24).toInt
    rows := field (descWord d 2) 15 0 + 1
    rowBytes := field (descWord d 3) 63 44, conv := field (descWord d 3) 40 38
    sSp := field (descWord d 3) 37 36, dSp := field (descWord d 3) 35 34, tally := field (descWord d 3) 33 30
    rtEn := (descWord d 3).getLsbD 29, rtally := field (descWord d 3) 28 25, rthread := field (descWord d 3) 24 22
    zero := decide (field (descWord d 3) 43 41 = 0) && decide (field (descWord d 3) 21 0 = 0) }

/-- Bytes of a row on the shelf or device-virtual side: three quarters under CONV (R103). -/
def MvDesc.far (d : MvDesc) (o : Nat) : Nat := if d.conv = 0 then o else o / 32 * 24

/-- Bytes of the transfer on the scratch side. -/
def MvDesc.total (d : MvDesc) : Nat := d.rows * d.rowBytes

/-- The lowest byte of an extent and the number of bytes to its highest, over all rows (R103). -/
def extent (a : Nat) (stride : Int) (rows len : Nat) : Int × Nat :=
  let span := ((rows : Int) - 1) * stride
  ((a : Int) + min 0 span, span.natAbs + len)

/-- An address has the form of its space (Table 4.7). -/
def addrForm (sp a : Nat) : Bool :=
  match sp with
  | 0 => decide (a < 2 ^ 19)
  | 1 => decide (a < 2 ^ 48) && decide (a / 2 ^ 19 % 2 ^ 14 = 0)
  | 2 => decide (a < 2 ^ 30)
  | _ => decide (a < 2 ^ 48)

/-- The ember and the offset of a REM address. -/
def remEmber (a : Nat) : Nat := a / 2 ^ 33
def remOff (a : Nat) : Nat := a % 2 ^ 19

/-- The shape of a MOVE descriptor (R103, the rows that raise DESC_INVALID). -/
def MvDesc.moveOk (d : MvDesc) (s : State) (n : Nat) : Bool :=
  let ends := (decide (d.sSp = 0) || decide (d.dSp = 0)) && decide (d.sSp ≠ 1)
  let rowOk := decide (d.rowBytes ≠ 0) && decide (d.rowBytes % 8 = 0)
  let convOk := decide (d.conv = 0) || (decide (d.rowBytes % 32 = 0) &&
    ((decide (d.conv = 1) && decide (d.dSp = 0) && decide (2 ≤ d.sSp)) ||
     (decide (d.conv = 2) && decide (d.sSp = 0) && decide (2 ≤ d.dSp))))
  let aligned := decide (d.src % 8 = 0) && decide (d.dst % 8 = 0) && decide (d.sStride % 8 = 0) && decide (d.dStride % 8 = 0)
  ends && rowOk && convOk && aligned && addrForm d.sSp d.src && addrForm d.dSp d.dst && d.zero &&
    (decide (d.dSp ≠ 1) || (decide (remEmber d.dst < 25600) && decide (s.partOf (remEmber d.dst) = n)))

/-- A scratch extent lies in the range of a class (R63, R94). -/
def Ember.extentIn (m : Ember) (be : Bool) (e : Int × Nat) : Bool := decide (0 ≤ e.1) && m.inRange be e.1.toNat e.2

/-- The checks of the local scratch ends (R103): SCRATCH_BOUNDS, then CODE_WRITE. -/
def MvDesc.localCheck (d : MvDesc) (m : Ember) (be : Bool) : Option (Nat × DWord) :=
  let se := extent d.src d.sStride d.rows d.rowBytes
  let de := extent d.dst d.dStride d.rows d.rowBytes
  if d.sSp = 0 ∧ !m.extentIn be se then some (excScratchBounds, BitVec.ofInt 64 se.1)
  else if d.dSp = 0 ∧ !m.extentIn be de then some (excScratchBounds, BitVec.ofInt 64 de.1)
  else if d.dSp = 0 ∧ m.hitsCode de.1.toNat de.2 then some (excCodeWrite, BitVec.ofInt 64 de.1)
  else none

/-- The new entry of a mover's queue (R74). -/
def mvEnqueue (x : Site) (mv : Nat) (d : Desc) (kind : MoverKind) (s : State) : State :=
  let j : MoverJob := { t := x.t.val, be := beAt s x, desc := d, pc := (thrAt s x).pc, kind := kind, st := .queued, done := 0
                        stall := false, sent := false, seq := (s.part (partAt s x)).launched }
  countLaunch (partAt s x) (s.modEmber x.e.val fun m => { m with movers := m.movers.upd mv fun q => q ++ [j] })

/-- MOVE (R103). -/
def execMoveDesc (x : Site) (mv : MoverId) (f : BitVec 52) (s : State) : Out :=
  .next (issue x (insnWord 0x0E mv.val f) f [] [] (mvRoom x mv.val)
    (reserved (decide (16 ≤ fRd f) && decide (fRd f < 24) && decide (fRa f = 0) && decide (fRb f = 0) && decide (fLow f = 0)))
    (fun s =>
      let d := (thrAt s x).desc (fRd f)
      let m := mvDesc d
      if !m.moveOk s (partAt s x) then .exc excDescInvalid (descWord d 3)
      else match m.localCheck (s.ember x.e.val) (beAt s x) with
        | some (c, a) => .exc c a
        | none => .ok (mvEnqueue x mv.val d .move s)) s)

/-- MVQ: the free entries of mover RA[0] (R103). -/
def execMvq (x : Site) (f : BitVec 52) (s : State) : Out :=
  .next (issue x (insnWord 0x0E 2 f) f [fRd f, fRa f] [] anyRoom (reserved (decide (fRb f = 0) && decide (fLow f = 0)))
    (fun s =>
      let q := (s.ember x.e.val).movers.get (((thrAt s x).sReg (fRa f)).toNat % 2)
      .ok (modAt x (Thread.setS (fRd f) (BitVec.ofNat 64 (16 - q.length))) s)) s)

/-- FSEND: RA[3:0] the route, RA[7:4] the window (R139). -/
def execFsend (x : Site) (mv : MoverId) (f : BitVec 52) (s : State) : Out :=
  .next (issue x (insnWord 0x38 mv.val f) f [fRa f] [] (mvRoom x mv.val)
    (reserved (decide (16 ≤ fRd f) && decide (fRd f < 24) && decide (fRb f = 0) && decide (fLow f = 0)))
    (fun s =>
      let d := (thrAt s x).desc (fRd f)
      let m := mvDesc d
      let ra := ((thrAt s x).sReg (fRa f)).toNat
      let route := ra % 16
      if 256 ≤ ra then .exc excReservedField 0
      else if !(decide (m.sSp ≠ 1) && decide (m.dSp = 1) && !m.rtEn && decide (m.conv = 0) && m.zero) then
        .exc excFlueDesc (descWord d 2)
      else if !(decide (m.rowBytes ≠ 0) && decide (m.rowBytes % 8 = 0) && decide (m.src % 8 = 0) && decide (m.dst % 8 = 0) &&
          decide (m.sStride % 8 = 0) && decide (m.dStride % 8 = 0) && addrForm m.sSp m.src && addrForm 1 m.dst &&
          decide (remEmber m.dst < 25600)) then .exc excDescInvalid (descWord d 3)
      else if !s.jobHas (s.routePos (partAt s x) route) then .exc excFlueRoute 0
      else match { m with dSp := 1 : MvDesc }.localCheck (s.ember x.e.val) (beAt s x) with
        | some (c, a) => .exc c a
        | none => .ok (mvEnqueue x mv.val d (.fsend route (ra / 16)) s)) s)

/-! ### Dispatch -/

/-- Replace or remove the first entry equal to `j`. -/
def swapJob (j : MoverJob) (j' : Option MoverJob) : List MoverJob → List MoverJob
  | [] => []
  | k :: ks => if k = j then (match j' with | some j' => j' :: ks | none => ks) else k :: swapJob j j' ks

/-- Put a job back into its queue, or take it out. -/
def setJob (l mv : Nat) (j : MoverJob) (j' : Option MoverJob) (s : State) : State :=
  let s := s.modEmber l fun m => { m with movers := m.movers.upd mv (swapJob j j') }
  if j'.isNone then returnBe (s.partOf l) s else s

/-- The descriptor a mover executes: active, and not merely waiting for its acknowledgement. -/
def Ember.activeJob (m : Ember) (mv : Nat) : Option MoverJob :=
  (m.movers.get mv).find? fun j => decide (j.st = .active) && !j.sent

/-- The descriptor a mover takes next (R74): the oldest LC one; with none queued and BE work free to run, a paused BE one, then the
oldest queued BE one. -/
def Ember.nextJob (m : Ember) (mv : Nat) (free : Bool) : Option MoverJob :=
  let q := m.movers.get mv
  match q.find? fun j => !j.be && !j.sent with
  | some j => some j
  | none =>
    if free then
      match q.find? fun j => j.be && decide (j.st = .paused) with
      | some j => some j
      | none => q.find? fun j => j.be && decide (j.st = .queued)
    else none

/-- MOVER_DISPATCH (R74). -/
def execMoverDispatch (l : EmberId) (mv : MoverId) (s : State) : Out :=
  let m := s.ember l.val
  .next (if !s.inService || (m.activeJob mv.val).isSome then s
    else match m.nextJob mv.val (s.beFree l.val) with
      | some j => setJob l.val mv.val j (some { j with st := .active }) s
      | none => s)

/-! ### Moving bytes -/

/-- How a piece of a transfer ends: moved, waiting, or over with the descriptor (a fault, an alarm or an abort). -/
inductive Piece where
  | moved (s : State) (bytes : List Byte)
  | stalled (s : State)
  | over (s : State)

/-- A mover fault (R106): the launching context is lost with MOVER_FAULT, attributed to the MOVE. -/
def moverFault (l : Nat) (j : MoverJob) (sub : Nat) (a : Int) (s : State) : State :=
  loseContext (s.partOf l) j.be (some { code := excMoverFault, sub := sub, be := j.be, thread := j.t, ember := l, pc := j.pc
                                        addr := BitVec.ofInt 64 a }) 0 s

/-- The reader of a mover's access to HBM: attributed to its MOVE. -/
def moverReader (l : Nat) (j : MoverJob) (a : Int) : Reader :=
  .ilmin { code := excBusError, sub := 0, be := j.be, thread := j.t, ember := l, pc := j.pc, addr := BitVec.ofInt 64 a }

/-- Translate the part of a mover's access that lies on its first page (R104, R106): the frame, or how the piece ends. A flue die translates
through the cache of the memory-side die (`md`), a mover through that of its compute die (R205). A later row that its stride takes outside 0 to
2^48 - 1 is a TRANSLATION fault of the mover (DESIGN CHOICE, log 84). -/
def moverPage (md : Bool) (l : Nat) (j : MoverJob) (a : Int) (len : Nat) (write : Bool) (s : State) : Piece ⊕ (Nat × State) :=
  let n := s.partOf l
  if a < 0 ∨ 2 ^ 48 ≤ a then .inl (.over (moverFault l j excTranslation a s))
  else
    let page := a.toNat / pageBytes
    match lookup (if md then s.mdCache n a.toNat else l / 1600) n page (some j.be) (moverReader l j a) s with
    | (s, false) => .inl (.over s)
    | (s', true) => if (s'.part n).metaPage page then .inl (.over (moverFault l j excProtection a s')) else match (s'.part n).translate a.toNat write with
      | .unmapped => .inl (.over (moverFault l j excTranslation a s'))
      | .readOnly => .inl (.over (moverFault l j excProtection a s'))
      | .banked => .inl (.stalled (askUnbank n page s'))
      | .frame f =>
        if stackAwake s n ((s'.part n).pa f a.toNat) (min len (pageBytes - a.toNat % pageBytes)) then .inr (f, touchPage n page s')
        else .inl (.stalled s)

/-- Read device-virtual bytes for a mover, page by page. -/
def moverReadV (md : Bool) : Nat → Nat → MoverJob → Int → Nat → State → Piece
  | 0, _, _, _, _, s => .moved s []
  | fuel + 1, l, j, a, len, s =>
    if len = 0 then .moved s []
    else match moverPage md l j a len false s with
      | .inl p => p
      | .inr (f, s) =>
        let n := s.partOf l
        let k := min len (pageBytes - a.toNat % pageBytes)
        match readHbm n ((s.part n).pa f a.toNat) k (moverReader l j a) s with
        | (s, none) => .over s
        | (s, some bs) =>
          match moverReadV md fuel l j (a + k) (len - k) s with
          | .moved s rest => .moved s (bs ++ rest)
          | p => p

/-- Write device-virtual bytes for a mover, page by page; first writes of span units and lines whose counter is used up stall
(R227, R298). -/
def moverWriteV (md : Bool) : Nat → Nat → MoverJob → Int → List Byte → State → Piece
  | 0, _, _, _, _, s => .moved s []
  | fuel + 1, l, j, a, bs, s =>
    if bs.isEmpty then .moved s []
    else match moverPage md l j a bs.length true s with
      | .inl p => p
      | .inr (f, s) =>
        let n := s.partOf l
        let k := min bs.length (pageBytes - a.toNat % pageBytes)
        let pa := (s.part n).pa f a.toNat
        if !(s.part n).writable f then
          let s := if j.stall then s else countStall n s
          .stalled (match (s.part n).unitOf f with
            | some q => startCow n q (moverReader l j a).exc s
            | none => s)
        else if s.counterFull n pa k then .stalled s
        else match putHbm n pa (bs.take k) (moverReader l j a) s with
          | (s, false) => .over s
          | (s, true) => moverWriteV md fuel l j (a + k) (bs.drop k) s

/-- Bytes of a partition's shelf window (R207). -/
def State.shelfBytes (s : State) : Nat := 805306368 / s.nParts

/-- The shelf banks that hold `len` bytes from an offset are awake (R43, R207). -/
def shelfAwake (s : State) (n o len : Nat) : Bool :=
  let m := s.mdPerPart
  (List.range ((o + len - 1) / 4096 - o / 4096 + 1)).all fun i =>
    let u := o / 4096 + i
    !(s.power.idleShelf.get (16 * (n * m + u % m) + u / m % 16))

/-- Three bytes of MXFP6 as four E4M3 codes (R152). -/
def widen6 : List Byte → List Byte
  | a :: b :: c :: rest =>
    let g := leNat [a, b, c]
    (List.range 4).map (fun r => BitVec.ofNat 8 (widenCode (g / 2 ^ (6 * r) % 64))) ++ widen6 rest
  | _ => []

/-- Four E4M3 codes as three bytes of MXFP6 (R152): saturating, a NaN as 0. -/
def narrow6 : List Byte → List Byte
  | a :: b :: c :: d :: rest =>
    let code (x : Byte) : Nat := match decElem 0 x.toNat with
      | .nan => 0
      | v => (convertTo 6 fmtE2M3 v 0).1
    leBytes 3 (code a + 64 * code b + 4096 * code c + 262144 * code d) ++ narrow6 rest
  | _ => []

/-- The bytes of the source side of a piece: `o` and `k` are the offset in the row and the length, on the scratch side. -/
def moverRead (l : Nat) (j : MoverJob) (d : MvDesc) (r o k : Nat) (s : State) : Piece :=
  let n := s.partOf l
  let row : Int := (d.src : Int) + r * d.sStride
  match d.sSp with
  | 0 =>
    let off := (row + o).toNat
    match (s.ember l).mismatches off k with
    | [] => .moved s ((s.ember l).scratch.read off k)
    | bad => .over (parityFault l j.t j.pc bad s)
  | 2 =>
    let a := row + d.far o
    if a < 0 ∨ (s.shelfBytes : Int) < a + d.far k then .over (moverFault l j excScratchBounds a s)
    else if !shelfAwake s n a.toNat (d.far k) then .stalled s
    else .moved s ((s.part n).mem.shelf.read a.toNat (d.far k))
  | _ => moverReadV false 4 l j (row + d.far o) (d.far k) s

/-- Write the bytes of a piece at its destination. -/
def moverWrite (l : Nat) (j : MoverJob) (d : MvDesc) (r o : Nat) (bs : List Byte) (s : State) : Piece :=
  let n := s.partOf l
  let row : Int := (d.dst : Int) + r * d.dStride
  match d.dSp with
  | 0 => .moved (storeScratch l (row + o).toNat bs s) []
  | 1 => .moved (storeScratch (remEmber d.dst) ((remOff d.dst : Int) + r * d.dStride + o).toNat bs s) []
  | 2 =>
    let a := row + d.far o
    if a < 0 ∨ (s.shelfBytes : Int) < a + bs.length then .over (moverFault l j excScratchBounds a s)
    else if !shelfAwake s n a.toNat bs.length then .stalled s
    else .moved (s.modPart n fun p => { p with mem := { p.mem with shelf := p.mem.shelf.write a.toNat bs } }) []
  | _ => moverWriteV false 4 l j (row + d.far o) bs s

/-- Bytes from `o` that stay on one page of the device-virtual side of a row, on the scratch side; a group of CONV that
straddles pages is one piece of its own. -/
def pieceLen (d : MvDesc) (r o k : Nat) : Nat :=
  let side (sp : Nat) (a : Nat) (st : Int) : Nat :=
    if sp ≠ 3 then k
    else
      let left := pageBytes - ((a : Int) + r * st + d.far o).toNat % pageBytes
      if d.conv = 0 then min k left else min k (32 * max 1 (left / 24))
  min (side d.sSp d.src d.sStride) (side d.dSp d.dst d.dStride)

/-- Move bytes of a descriptor in order until `upto` scratch-side bytes are moved (R104): the state and the descriptor, or none
once it is over. -/
def moverRun : Nat → Nat → MoverJob → Nat → State → State × Option MoverJob
  | 0, _, j, _, s => (s, some j)
  | fuel + 1, l, j, upto, s =>
    let d := mvDesc j.desc
    if upto ≤ j.done then (s, some j)
    else
      let r := j.done / d.rowBytes
      let o := j.done % d.rowBytes
      let k := pieceLen d r o (min (d.rowBytes - o) (upto - j.done))
      match moverRead l j d r o k s with
      | .stalled s => (s, some { j with stall := false })
      | .over s => (s, none)
      | .moved s bs =>
        let bs := if d.conv = 1 then widen6 bs else if d.conv = 2 then narrow6 bs else bs
        match moverWrite l j d r o bs s with
        | .stalled s => (s, some { j with stall := true })
        | .over s => (s, none)
        | .moved s _ => moverRun fuel l { j with done := j.done + k, stall := false } upto s

/-- Pieces enough for any transfer: every piece moves at least eight bytes. -/
def moverFuel (d : MvDesc) : Nat := d.total / 8 + 1

/-- The check of a remote extent before its first byte is written (Table 4.8). -/
def remCheck (l : Nat) (j : MoverJob) (d : MvDesc) (s : State) : Option State :=
  let m := s.ember (remEmber d.dst)
  let e := extent (remOff d.dst) d.dStride d.rows d.rowBytes
  if d.dSp ≠ 1 then none
  else if !m.extentIn j.be e then some (moverFault l j excScratchBounds e.1 s)
  else if m.hitsCode e.1.toNat e.2 then some (moverFault l j excCodeWrite e.1 s)
  else none

/-- Run an active MOVE descriptor up to a byte count, and keep its queue entry current; `k` takes the descriptor once it has
moved that far. -/
def moverAdvance (l mv : Nat) (j : MoverJob) (upto : Nat) (k : MoverJob → State → State) (s : State) : State :=
  let d := mvDesc j.desc
  match remCheck l j d s with
  | some s => setJob l mv j none s
  | none =>
    match moverRun (moverFuel d) l j upto s with
    | (s, none) => setJob l mv j none s
    | (s, some j') =>
      let s := setJob l mv j (some j') s
      if upto ≤ j'.done then k j' s else s

/-! ### FSEND frames -/

/-- Send the bytes of an FSEND until `upto` of them are sent, frame by frame (R139, R258): at most 4,048 contiguous destination bytes a frame,
and every row starts a new one; the first carries the extent of the whole transfer. A BE descriptor that steps aside at a 4 KiB boundary (R59)
ends a frame there. The state and the descriptor, or none once it is over. -/
def fsendRun : Nat → Nat → Nat → MoverJob → Nat → Nat → Nat → State → State × Option MoverJob
  | 0, _, _, j, _, _, _, s => (s, some j)
  | fuel + 1, l, mv, j, route, win, upto, s =>
    let d := mvDesc j.desc
    if upto ≤ j.done then (s, some j)
    else
      let n := s.partOf l
      let r := j.done / d.rowBytes
      let o := j.done % d.rowBytes
      let k := min 4048 (min (d.rowBytes - o) (upto - j.done))
      match moverRead l j d r o k s with
      | .stalled s => (s, some j)
      | .over s => (s, none)
      | .moved s bs =>
        let e := extent (remOff d.dst) d.dStride d.rows d.rowBytes
        let body : FrameBody := .data (remEmber d.dst) d.rthread win ((remOff d.dst : Int) + r * d.dStride + o).toNat
            (if j.done = 0 then some (e.1.toNat, e.1.toNat + e.2 - 1) else none) l mv j.t bs (decide (j.done + k = d.total))
        let s := sendFrameVia (if 8 ≤ route then some (route % 2) else none) n (some (s.routePos n route)) (if j.be then .be else .lc) body (useCount n j.be 0 k s)
        fsendRun fuel l mv { j with done := j.done + k } route win upto s

/-- Run an active descriptor up to a byte count, by its kind; `k` takes the descriptor once it has come that far. -/
def jobAdvance (l mv : Nat) (j : MoverJob) (upto : Nat) (k : MoverJob → State → State) (s : State) : State :=
  match j.kind with
  | .move => moverAdvance l mv j upto k s
  | .fsend route win =>
    match fsendRun (moverFuel (mvDesc j.desc)) l mv j route win upto s with
    | (s, none) => setJob l mv j none s
    | (s, some j') =>
      let s := setJob l mv j (some j') s
      if upto ≤ j'.done then k j' s else s

/-- BE_MOVER_PAUSE: an executing BE descriptor reaches its 4 KiB boundary number `k` and steps aside, while an LC thread of the
ember is out of IDLE or the BE threads are held (R59, R104, R436). -/
def execBeMoverPause (l : EmberId) (mv : MoverId) (k : Nat) (flips : List LineFlip) (s : State) : Out :=
  let s := strikeLines (s.partOf l.val) flips s
  .next (match (s.ember l.val).activeJob mv.val with
  | some j =>
    if j.be && !s.beFree l.val && decide (j.done ≤ 4096 * k) && decide (4096 * k < (mvDesc j.desc).total) then
      jobAdvance l.val mv.val j (4096 * k) (fun j' s => setJob l.val mv.val j' (some { j' with st := .paused }) s) s
    else s
  | none => s)

/-- MOVER_COMPLETE: the executing descriptor's last byte is written, or, for an FSEND, sent; a MOVE increments its tally (R75),
an FSEND waits for its acknowledgement (R139) and a remote destination reports by events of its own (R105). -/
def execMoverComplete (l : EmberId) (mv : MoverId) (strike : List Nat) (flips : List LineFlip) (s : State) : Out :=
  let s := strikeLines (s.partOf l.val) flips s
  .next (match (s.ember l.val).activeJob mv.val with
  | some j =>
    let s := s.modEmber l.val (Ember.strike strike)
    let d := mvDesc j.desc
    match j.kind with
    | .move =>
      if d.dSp = 1 then s
      else moverAdvance l.val mv.val j d.total (fun j' s =>
          tallyAdd l.val j.t d.tally 1 (setJob l.val mv.val j' none (useCount (s.partOf l.val) j.be d.total 0 s))) s
    | .fsend _ _ => jobAdvance l.val mv.val j d.total (fun j' s => setJob l.val mv.val j' (some { j' with sent := true }) s) s
  | none => s)

/-- REM_WRITE_DONE: the destination ember writes the last byte and increments the remote tally (R105). -/
def execRemWriteDone (l : EmberId) (mv : MoverId) (strike : List Nat) (flips : List LineFlip) (s : State) : Out :=
  let s := strikeLines (s.partOf l.val) flips s
  .next (match (s.ember l.val).activeJob mv.val with
  | some j =>
    let d := mvDesc j.desc
    if j.kind = .move ∧ d.dSp = 1 then
      moverAdvance l.val mv.val j d.total (fun j' s =>
        let s := setJob l.val mv.val j' (some { j' with sent := true }) s
        if d.rtEn then tallyAdd (remEmber d.dst) d.rthread d.rtally 1 s else s) (s.modEmber l.val (Ember.strike strike))
    else s
  | none => s)

/-- REM_ACK: the acknowledgement of the oldest remote descriptor reaches the source mover, which counts its tally (R105). -/
def execRemAck (l : EmberId) (mv : MoverId) (s : State) : Out :=
  .next (match ((s.ember l.val).movers.get mv.val).find? fun j => j.sent && decide (j.kind = .move) with
  | some j =>
    let d := mvDesc j.desc
    tallyAdd l.val j.t d.tally 1 (setJob l.val mv.val j none (useCount (s.partOf l.val) j.be d.total 0 s))
  | none => s)

end Sys2Proof.Machine
end

