-- ==== Sys2Proof/Machine/FlueFrames.lean ====
section
/-! DEFINITION. Flit groups in (R250 to R256), the checks of frames (R257 to R260), fingerprints, refusal and freeze (R261 to
R263), FSEND frames (R139, R258), heartbeats, stokers and routes (R269 to R271). -/

namespace Sys2Proof.Machine

/-! ### Refusal -/

/-- Bit and count of a refusal on a flue (R262, Table 11.12). -/
def countRefusal (f : Nat) (s : State) : State :=
  s.modFlue f fun u => { u with refuseCnt := satAdd u.refuseCnt 1, ovf := u.ovf ||| BitVec.ofNat 6 (8 * b2n (satOvf u.refuseCnt 1)) }

/-- Quarantine a partition's sub-channel on a flue: the first cause stands (R262). Frames that it had begun to send on the stopped channels start
again once they may go. -/
def quarantineSub (f n cause : Nat) (s : State) : State :=
  s.modFlue f fun u => { u with
    quarCause := if u.quarCause = 0 then BitVec.ofNat 4 cause else u.quarCause
    quarPart := withBit u.quarPart n true
    subs := u.subs.upd n fun c => { c with opened := false }
    txQ := u.txQ.map fun i => if i.part.val = n ∧ i.vc ≠ .ctrl then i.whole else i }

/-- A QUARANTINE record (Table 18.7). -/
def quarRecord (f cause : Nat) : HostRecord :=
  { kind := 7, status := 0, detail := 0, tag := 0, arg := BitVec.ofNat 64 (f + 256 * cause), exc := none }

/-- REFUSE goes to the peer of a flue (R262), but from a withdrawn or halted partition (R309, R230). -/
def sendRefuse (f g n cause : Nat) (s : State) : State :=
  let p := s.part n
  if p.rl.state = .withdrawn ∨ p.prot.halted then s
  else enqueueFrame g n { epoch := p.epoch, lineage := p.tree.lineage, step := p.step.count, src := s.logicalPos n
                          dst := some (cabledPeer s f).1, vc := .ctrl, body := .refuse cause } s

/-- A refusal (R262): the frame is discarded and counted, the sub-channel is quarantined, the peer, the hosts and the hearth
stoker are told. A frame of the module's own loop (32) came by no flue. -/
def refuseFrame (f n cause : Nat) (s : State) : State :=
  if 32 ≤ f then s
  else
    let s := sendRefuse f f n cause (quarantineSub f n cause (countRefusal f s))
    sendFrame n (some (hearthStoker s n)) .ctrl (.quarReport f cause) (partRecord n (quarRecord f cause) s)

/-- A mismatch in FPX quarantines the whole flue (R262); REFUSE goes by the flue of the pair that is in RUN, or waits for one (R267). -/
def quarantineLink (f cause : Nat) (s : State) : State :=
  let s := countRefusal f s
  let s := s.modFlue f fun u => { u with
    state := .quar, quarCause := if u.quarCause = 0 then BitVec.ofNat 4 cause else u.quarCause }
  let loaded := (List.range s.nParts).filter fun n => (s.part n).hasCtx
  if loaded.isEmpty then hostRecord 0 (quarRecord f cause) s
  else loaded.foldl (fun s n =>
    sendFrame n (some (hearthStoker s n)) .ctrl (.quarReport f cause)
      (partRecord n (quarRecord f cause) (sendRefuse f (usePair s f) n cause s))) s

/-- A partition expects traffic on the flues: it is loaded with a job or holds a reservation. -/
def expectsTraffic (s : State) (n : Nat) : Bool := (s.part n).hasCtx || decide ((s.part n).rl.role = .standby)

/-- FPX: the peer's link fingerprint is compared (R261, R263): a match puts the flue in RUN, and loaded partitions open their
sub-channels; a mismatch of stepping or capability is cause 1, of cabling cause 2. -/
def execFpxFrame (f : FlueId) (s : State) : Out :=
  .next (match takeLink f.val (fun l => match l with | .fpx _ => true | _ => false) s with
  | some (.fpx b, s) =>
    if (s.flues.get f.val).state ≠ .fpx then s
    else
      let s := s.modFlue f.val fun u => { u with
        peerSalt := b.salt, peer := some (BitVec.ofNat 4 b.member, b.t, BitVec.ofNat 5 b.flue) }
      let (pos, fl) := cabledPeer s f.val
      if b.stepping.toNat ≠ s.stepping ∨ b.capDigest ≠ capDigest s then quarantineLink f.val 1 s
      else if b.member ≠ pos.member ∨ b.t ≠ tWord pos ∨ b.flue ≠ fl then quarantineLink f.val 2 s
      else
        let s := enterRun f.val s
        let s := ((List.range s.nParts).filter fun n => linkKeys s n && expectsTraffic s n).foldl (fun s n => sendOpen f.val n s) s
        healthSpares (enqueueLink f.val (.width (modeLanes s f.val)) s)
  | some (_, s) => s
  | none => s)

/-! ### Checks of a frame -/

/-- Count a mismatch (Table 12.6). -/
def countMism (n : Nat) (s : State) : State :=
  s.modPart n fun p => { p with tree := { p.tree with
    mismCnt := satAdd p.tree.mismCnt 1, mismOvf := p.tree.mismOvf || satOvf p.tree.mismCnt 1 } }

/-- The outcomes of Table 11.8. -/
inductive Check where
  | deliver
  | hold
  | stale
  | dropped
  | refused (cause : Nat)
  deriving DecidableEq, Repr

/-- Check a frame against a partition's epoch, lineage and step (R259, R194). A standby takes RELIGHT frames of its job whatever their
epoch and step (R306), and follows no step of its own. -/
def checkFrame (s : State) (n : Nat) (f : Frame) : Check :=
  let p := s.part n
  let standby := decide (p.rl.role = .standby)
  if standby ∧ f.vc = .relight then (if f.lineage ≠ p.tree.lineage then .refused 5 else .deliver)
  else if !p.hasCtx && !standby then .stale
  else if f.epoch + 1 = p.epoch then .stale
  else if f.epoch = p.epoch + 1 then .hold
  else if f.epoch ≠ p.epoch then .refused 4
  else if f.lineage ≠ p.tree.lineage then .refused 5
  else if f.vc ≠ .lc then .deliver
  else
    let now := p.lcStep
    let co := isCoCarrier s n f.src
    let marked := decide (f.src ∈ p.step.marked) ||
      p.inbox.any fun e => decide (e.2.body = .dropmark) && decide (e.2.src = f.src) && decide (e.2.step = now)
    if f.step = now then (if co && p.step.released && !marked then .dropped else .deliver)
    else if f.step = now + 1 then .hold
    else if f.step.toNat < now.toNat ∧ co then .dropped
    else .refused 6

/-- Count a stale frame (Table 11.8). -/
def countStale (f : Nat) (s : State) : State :=
  if 32 ≤ f then s
  else s.modFlue f fun u => { u with staleCnt := satAdd u.staleCnt 1, ovf := u.ovf ||| BitVec.ofNat 6 (32 * b2n (satOvf u.staleCnt 1)) }

/-- Count a frame discarded under R194. -/
def countDropped (n : Nat) (s : State) : State :=
  s.modPart n fun p => { p with step := { p.step with
    dropFrames := satAdd p.step.dropFrames 1, framesOvf := p.step.framesOvf || satOvf p.step.dropFrames 1 } }

/-- A frame is refused (R262); a COLL or RING frame counts in DT_MISM_CNT (Table 12.6). -/
def refuseIn (f n : Nat) (fr : Frame) (cause : Nat) (s : State) : State :=
  let tree := match fr.body with | .coll .. => true | .ringReady _ => true | .ringData .. => true | .ringAck _ => true | _ => false
  refuseFrame f n cause (if tree && decide (f < 32) then countMism n s else s)

/-- Deliver, hold or discard a frame for a partition of this module (R259); its slots are freed once it is delivered, discarded
or in the hold buffer of 256 KiB of its flue die. A COLL frame leaves its slots when the flue die combines, keeps or refuses it (R283). -/
def takeIn (f n : Nat) (fr : Frame) (s : State) : State :=
  let free (s : State) : State := freeSlots f fr.vc n (lastFlits fr.body) s
  match checkFrame s n fr with
  | .deliver =>
    let s := s.modPart n fun p => { p with inbox := p.inbox ++ [(f, fr)] }
    if isColl fr then s.modPart n fun p => { p with tree := { p.tree with inPool := p.tree.inPool ++ [(f, fr)] } } else free s
  | .hold =>
    let bytes := ((s.part n).holdBuf.filter fun e => e.2.2 && decide (flueDie e.1 = flueDie f)).foldl (fun c e => c + heldBytes e.2.1) 0
    let room := decide (bytes + heldBytes fr ≤ 262144)
    let s := s.modPart n fun p => { p with holdBuf := p.holdBuf ++ [(f, fr, room)] }
    if room then free s else s
  | .stale => free (countStale f s)
  | .dropped => free (countDropped n s)
  | .refused c => free (refuseIn f n fr c s)

/-- A frame has arrived whole and verified (R255, R260, R266, R268): a position that is none of the job's is refused, hop frames and those for this
module are taken in, others go on their way. A broadcast goes on in the own plane, and a standby hands it to the members whose copies would have
come from a position that a standby has adopted (R269; DEDUCED, log 99). -/
def frameArrive (f n : Nat) (fr : Frame) (s : State) : State :=
  let u := s.flues.get f
  let free (s : State) : State := freeSlots f fr.vc n (lastFlits fr.body) s
  if fr.vc ≠ .ctrl ∧ u.quarPart.getLsbD n then free s
  else if fr.vc ≠ .ctrl ∧ !(u.subs.get n).opened then free (refuseIn f n fr 3 s)
  else if fr.dst.any fun d => !(s.jobHas { d with member := min d.member 7 }) || decide (8 < d.member) then free (refuseIn f n fr 9 s)
  else
    let hop (s : State) : State := free (s.modPart n fun p => { p with inbox := p.inbox ++ [(f, fr)] })
    match fr.body, fr.dst with
    | .openF _, _ => hop s
    | .refuse _, _ => hop s
    | _, some d => match nextHop s n d with
        | .here => takeIn f n fr s
        | h => free (sendHop n h fr s)
    | _, none =>
      let s := forwardPlane n (s.logicalPos n).member fr s
      let from_ := (cabledPeer s f).1
      let s := if s.ownPos.member = 8 ∧ 16 ≤ f then
          ((s.part n).routes.filter fun q => sameGroup q from_).foldl (fun s q => sendHop n (.mesh q.member) fr s) s
        else s
      takeIn f n fr s

/-! ### Groups in -/

/-- A 64-bit count that a peer names by its low bits, extended from the own count (R251). -/
def extendSeq (own low bits : Nat) : Nat :=
  let m := 2 ^ bits
  own + (low + m - own % m) % m

/-- Apply a header's acknowledgement and credits (R252, R253): acknowledged groups leave the retry buffer. An acknowledgement of what was never sent
counts for nothing. -/
def applyHeader (f : Nat) (g : FlitGroup) (s : State) : State :=
  s.modFlue f fun u =>
    let named := extendSeq u.acked.toNat g.ackSeq.toNat 24
    let acked := if named ≤ u.txSeq.toNat then named else u.acked.toNat
    let k := g.crPool.toNat
    { u with
      acked := BitVec.ofNat 64 acked
      retry := u.retry.filter fun e => decide (acked < e.1.toNat + e.2.1.nflit)
      granted := u.granted.set k (extendSeq (u.granted.get k) g.crCnt.toNat 12) }

/-- Send every group of the retry buffer again: the same cipher text and tag, with fresh headers (R252). -/
def retransmit (f : Nat) (s : State) : State :=
  (s.flues.get f).retry.foldl (fun s e =>
    (s.modFlue f Flue.turn).emit (.group f (freshHeader (s.flues.get f) e.2.1))) s

/-- A group passes its check (R250): its GCRC is good, its zero bits are 0, it has at most eight flits, and SOF and EOF only with flits. -/
def groupGood (g : FlitGroup) : Bool :=
  decide (g.gcrc = g.crcOf) && decide (g.zeros = 0) && decide (g.nflit ≤ 8) && decide (g.data.length = 128 * g.nflit) &&
    (decide (g.nflit ≠ 0) || (!g.sof && !g.eof))

/-- A group is discarded: the event counts once, and a NAK names the expected sequence (R252). -/
def discardGroup (f : Nat) (s : State) : State :=
  let u := s.flues.get f
  let s := if u.nakking then s
    else healthFlue f (s.modFlue f fun u => { u with
      nakking := true, retryCnt := satAdd u.retryCnt 1, ovf := u.ovf ||| BitVec.ofNat 6 (b2n (satOvf u.retryCnt 1)) })
  sendHeader f s

/-- The ends that a peer may mean by the two ends of its hop (R376): the own one and the cabled one, or, of a standby on a mesh flue, a position of
the group that it has adopted (DEDUCED, log 101). -/
def hopEnds (s : State) (n f : Nat) : List (Pos × Pos) :=
  let p := (cabledPeer s f).1
  let peers := if f < 16 ∧ p.member = 8 then p :: (List.range 8).map fun m => { p with member := m } else [p]
  let owns := if f < 16 ∧ s.ownPos.member = 8 then [s.logicalPos n, s.ownPos] else [s.logicalPos n]
  let owns := if s.ownPos.member = 8 ∧ 16 ≤ f then [s.ownPos] else owns
  peers.flatMap fun q => owns.map fun o => (q, o)

/-- The keys that a data group's KEYID may name (R255, R256, R376): the one in use with its count, or those of the OPEN that follows it, which start
at 0; none where it names no loaded key. True marks a new key. -/
def groupKeys (s : State) (f : Nat) (g : FlitGroup) : List (Bool × Digest × DWord) :=
  let n := g.part.val
  let u := s.flues.get f
  let c := u.subs.get n
  if !linkKeys s n || decide (s.nParts ≤ n) then []
  else if c.openRx ≠ 0 ∧ c.keyRx ≠ 0 ∧ g.keyId = keyIdOf n c.openRx then [(false, c.keyRx, c.gcntRx)]
  else if g.keyId = keyIdOf n (c.openRx + 1) then
    (hopEnds s n f).map fun (src, dst) =>
      (true, linkKey (linkJobKey s n) src dst (cabledPeer s f).2 u.peerSalt u.salt (c.openRx + 1), 0)
  else []

/-- Slots of the frame in progress of a pool. -/
def Flue.rxFlits (u : Flue) (pool : Nat) : Nat := ((u.rxData.get pool).getD []).length / 128

/-- A frame's bytes are complete (R255, R257): a frame of a record that goes on waits for the rest, whose payloads follow its own; the last frame
completes the record. A reserved type, or one on another channel, is refused (R262); the spec names no FLUE_QUAR_CAUSE for that: it is a free value
among the causes. -/
def frameIn (f n : Nat) (vc : Vc) (bs : List Byte) (s : State) : State :=
  let pool := poolKey vc n
  let r := rawFrame bs
  let free (s : State) : State := freeSlots f vc n (bs.length / 128) s
  let (spec, got) := if splits r.ftype then ((s.flues.get f).rxRec.get pool).getD (r.tspec, []) else (r.tspec, [])
  let s := s.modFlue f fun u => { u with rxRec := u.rxRec.set pool none }
  if splits r.ftype && !r.last then free (s.modFlue f fun u => { u with rxRec := u.rxRec.set pool (some (spec, got ++ r.payload)) })
  else match frameOf vc bs { r with tspec := spec, payload := got ++ r.payload } with
    | some fr => frameArrive f n fr s
    | none =>
      let (c, s) := s.takeFree
      free (refuseFrame f n (1 + c % 15) s)

/-- A data group that is next in sequence (R255, R256): its key, its tag under the count that follows the last group accepted, then its flits. A
tag that fails refuses the frame, and what follows of that frame is discarded. -/
def takeData (f : Nat) (g : FlitGroup) (s : State) : State :=
  let n := g.part.val
  let pool := poolKey g.vc n
  let u := s.flues.get f
  let keys := groupKeys s f g
  if keys.isEmpty then freeSlots f g.vc n g.nflit (s.modFlue f fun u => { u with
      deadKeyCnt := satAdd u.deadKeyCnt 1, ovf := u.ovf ||| BitVec.ofNat 6 (16 * b2n (satOvf u.deadKeyCnt 1)) })
  else match keys.findSome? fun (fresh, key, cnt) => (openGroup key cnt g).map fun bs => (fresh, key, bs) with
  | none =>
    freeSlots f g.vc n (g.nflit + u.rxFlits pool) (refuseFrame f n 7 (s.modFlue f fun u => { u with
      rxData := u.rxData.set pool none, rxRec := u.rxRec.set pool none }))
  | some (fresh, key, bs) =>
    let s := s.modFlue f fun u => { u with subs := u.subs.upd n fun c => { c with
      openRx := if fresh then c.openRx + 1 else c.openRx, keyRx := key, gcntRx := if fresh then 1 else c.gcntRx + 1 } }
    let s := if g.sof then freeSlots f g.vc n (u.rxFlits pool) s else s
    match if g.sof then some [] else u.rxData.get pool with
    | none => freeSlots f g.vc n g.nflit s
    | some have_ =>
      let s := s.modFlue f fun u => { u with rxData := u.rxData.set pool (if g.eof then none else some (have_ ++ bs)) }
      if g.eof then frameIn f n g.vc (have_ ++ bs) s else s

/-- The sequence that a flue expects when a group arrives: after a retrain the one that the first good group names (R248, R251; DESIGN CHOICE,
log 100). -/
def resyncRx (g : FlitGroup) (u : Flue) : Flue :=
  if u.resync && groupGood g then { u with resync := false, rxSeq := BitVec.ofNat 64 (extendSeq u.rxSeq.toNat g.fseq.toNat 32) } else u

/-- FLIT_GROUP_RECEIVE (R252): a group that passes its check and has the expected sequence is accepted; every other one is discarded. -/
def execFlitGroupReceive (f : FlueId) (g : FlitGroup) (s : State) : Out :=
  .next (if !(s.flues.get f.val).up then s
    else
      let s := s.modFlue f.val (resyncRx g)
      let u := s.flues.get f.val
      if !groupGood g || decide (g.fseq ≠ BitVec.ofNat 32 u.rxSeq.toNat) then discardGroup f.val s
      else
        let s := applyHeader f.val g (s.modFlue f.val fun u => { u with nakking := false, rxSeq := u.rxSeq + BitVec.ofNat 64 g.nflit })
        let s := if g.nak then retransmit f.val s else s
        if g.nflit = 0 then s
        else if g.keyId = 0 then
          freeSlots f.val g.vc g.part.val g.nflit (match linkOf g.data with
            | some l => s.modFlue f.val fun u => { u with rxLink := u.rxLink ++ [l] }
            | none => s)
        else if u.state = .run then takeData f.val g s
        else freeSlots f.val g.vc g.part.val g.nflit s)

/-- HELD_FRAME_DELIVER: held frames whose epoch and step the partition has reached are delivered in arrival order (R259). -/
def execHeldFrameDeliver (n : PartId) (s : State) : Out :=
  let p := s.part n.val
  let ripe (e : Nat × Frame × Bool) : Bool := decide (checkFrame s n.val e.2.1 ≠ .hold)
  let s' := s.modPart n.val fun p => { p with holdBuf := p.holdBuf.filter fun e => !ripe e }
  .next ((p.holdBuf.filter ripe).foldl (fun s e =>
    let pool := decide (checkFrame s n.val e.2.1 = .deliver) && isColl e.2.1
    let s := if e.2.2 then s
      else if pool then s.modPart n.val fun p => { p with tree := { p.tree with inPool := p.tree.inPool ++ [(e.1, e.2.1)] } }
      else freeSlots e.1 e.2.1.vc n.val (lastFlits e.2.1.body) s
    match checkFrame s n.val e.2.1 with
    | .deliver => s.modPart n.val fun p => { p with inbox := p.inbox ++ [(e.1, e.2.1)] }
    | .stale => countStale e.1 s
    | .dropped => countDropped n.val s
    | .refused c => refuseIn e.1 n.val e.2.1 c s
    | .hold => s) s')

/-! ### OPEN, REFUSE and the freeze -/

/-- The peer of a flue may send from a logical position (Table 11.9): its own place, or, for a standby, one it has adopted. -/
def expectedPos (s : State) (f : Nat) (b : OpenBody) : Bool :=
  let p := (cabledPeer s f).1
  decide (b.pos = p) || (decide (p.member = 8) && sameGroup b.pos p && decide (b.role = .adopted))

/-- The job fingerprints agree (R261, R49). A standby's reservation follows no step, and takes its job's frames whatever their epoch and step: with a
standby at either end these are not compared (R306; DEDUCED, log 102). -/
def openAgrees (s : State) (f n : Nat) (b : OpenBody) : Bool :=
  let o := ownOpen s n
  let standby := decide (b.role = .standby) || decide (o.role = .standby)
  decide (b.jobId = o.jobId) && decide (b.lineage = o.lineage) && expectedPos s f b &&
    (standby || (decide (b.epoch = o.epoch) && decide (b.step = o.step) && decide (b.draught = o.draught)))

/-- REFUSE: the peer has refused a frame: the sub-channel stops in both directions (R262). -/
def execRefuseFrame (n : PartId) (s : State) : Out :=
  .next (match takeFrame n.val (fun f => match f.body with | .refuse _ => true | _ => false) s with
  | some (f, fr, s) => match fr.body with
    | .refuse c => partRecord n.val (quarRecord f c) (quarantineSub f n.val c s)
    | _ => s
  | none => s)

/-- QUARANTINE_REPORT: a hearth stoker passes a report to the job stoker, which broadcasts FREEZE, or, for a report that a
quarantine has been lifted (cause 0), orders the step abort that ends the freeze (R262). -/
def execQuarantineReport (n : PartId) (s : State) : Out :=
  .next (match takeFrame n.val (fun f => match f.body with | .quarReport _ _ => true | _ => false) s with
  | some (_, fr, s) => match fr.body with
    | .quarReport f c =>
      let p := s.part n.val
      if !isJobStoker s n.val then sendFrame n.val (some p.jobStoker) .ctrl (.quarReport f c) s
      else if c = 0 then orderAbort n.val 5 (s.logicalPos n.val) p.step.count s
      else sendFrame n.val none .ctrl (.freeze false) s
    | _ => s
  | none => s)

/-- FREEZE: FAB_FROZEN is set; the partition holds at its next boundary, and its deadline measurement stops (R262). A forwarding standby that is
lost is the cause ROUTE_LOST, which is held (R318). -/
def execFreezeFrame (n : PartId) (s : State) : Out :=
  .next (match takeFrame n.val (fun f => match f.body with | .freeze _ => true | _ => false) s with
  | some (_, f, s) => s.modPart n.val fun p => { p with
      frozen := true
      stk := { p.stk with measuring := false }
      rl := { p.rl with routeLost := p.rl.routeLost || decide (f.body = .freeze true) } }
  | none => s)

/-- FLUE_UNQUAR: the selected quarantines are lifted (R262): a sub-channel exchanges OPEN again; the link is brought up anew. -/
def flueUnquar (f : Nat) (sel : BitVec 4) (s : State) : State :=
  if sel = 0 then
    if (s.flues.get f).state = .quar then flueStart f (s.modFlue f fun u => { u with quarCause := 0, attempts := 0 }) else s
  else
    let parts := (List.range 4).filter fun n => sel.getLsbD n && (s.flues.get f).quarPart.getLsbD n
    let s := s.modFlue f fun u =>
      let q := u.quarPart &&& ~~~sel
      { u with quarPart := q, quarCause := if q = 0 ∧ u.state ≠ .quar then 0 else u.quarCause }
    parts.foldl (fun s n => sendOpen f n s) s

def execFlueUnquar (f : FlueId) (sel : BitVec 4) (s : State) : Out := .next (flueUnquar f.val sel s)

/-- The job stoker releases a Relight freeze once it holds RESUME for every loss and its own routes are changed (R314). -/
def stokerFreeze (n : Nat) (s : State) : State :=
  let p := s.part n
  let done := p.stk.losses.all fun l => decide (l.1 ∈ p.stk.resumed)
  if !isJobStoker s n || p.stk.losses.isEmpty || !done || !p.notices.isEmpty then s
  else sendFrame n none .relight (.freezeRelease p.epoch)
    (s.modPart n fun p => { p with stk := { p.stk with losses := [], resumed := [] } })

/-- ROUTE_UPDATE: a module completes its route change for the oldest adoption notice (R269). -/
def execRouteUpdate (n : PartId) (s : State) : Out :=
  .next (match (s.part n.val).notices with
  | [] => s
  | q :: rest => stokerFreeze n.val (s.modPart n.val fun p => { p with
      notices := rest, routes := if q ∈ p.routes then p.routes else p.routes ++ [q]
      rl := { p.rl with forward := p.rl.forward || (decide (s.ownPos.member = 8) && p.adoptPos.isNone) } }))

/-! ### FSEND frames -/

/-- The window of a receiving thread holds the whole extent (R139). -/
def windowHolds (w : Window) (first last : Nat) : Bool :=
  decide (w.len ≠ 0) && decide (w.base ≤ first) && decide (first ≤ last) && decide (last < w.base + w.len)

/-- DATA: the first frame's extent is checked against the window; bytes are written; after the last one the window's tally counts
and a DACK goes back (R139, R258). A window that is closed or too small costs both ends their context (R260). -/
def execDataFrame (n : PartId) (s : State) : Out :=
  .next (match takeFrame n.val (fun f => match f.body with | .data .. => true | _ => false) s with
  | some (_, fr, s) =>
    match fr.body with
    | .data l t w off ext e mv et bs last =>
      let key : Pos × Nat × Nat × Nat := (fr.src, e, mv, et)
      let known := (s.part n.val).inXfers.find? fun x => decide ((x.1, x.2.1, x.2.2.1, x.2.2.2.1) = key)
      let drop (s : State) : State := s.modPart n.val fun p => { p with
        inXfers := p.inXfers.filter fun x => decide ((x.1, x.2.1, x.2.2.1, x.2.2.2.1) ≠ key) }
      let put (tally : Nat) (s : State) : State :=
        let s := storeScratch l off bs s
        if last then
          sendFrame n.val (some fr.src) fr.vc (.dack e mv et false) (tallyAdd l t tally 1 (drop s))
        else s
      match ext, known with
      | some (first, lst), _ =>
        let win := (s.thread l t).win.get w
        if s.partOf l = n.val ∧ windowHolds win first lst then
          put win.tally ((drop s).modPart n.val fun p => { p with inXfers := p.inXfers ++ [(fr.src, e, mv, et, win.tally)] })
        else
          let s := loseContext n.val (s.isBe l t)
            (some (excRec s l t excFlueWindow 0 (s.thread l t).pc (BitVec.ofNat 64 first))) 0 s
          sendFrame n.val (some fr.src) fr.vc (.dack e mv et true) s
      | none, some x => put x.2.2.2.2 s
      | none, none => s
    | _ => s
  | none => s)

/-- DACK: the oldest sent FSEND of that mover and thread to the position it comes from is over (R139, R258): its tally counts, or, turned away at
the window, the sending context is lost with MOVER_FAULT. -/
def execDackFrame (n : PartId) (s : State) : Out :=
  .next (match takeFrame n.val (fun f => match f.body with | .dack .. => true | _ => false) s with
  | some (_, fr, s) =>
    match fr.body with
    | .dack l mv t refused =>
      match ((s.ember l).movers.get mv).find? fun j => j.sent && decide (j.t = t) && (match j.kind with
          | .fsend route _ => decide (s.routePos n.val route = fr.src)
          | .move => false) with
      | some j =>
        let d := mvDesc j.desc
        if refused then moverFault l j excFlueWindow (remOff d.dst) s
        else tallyAdd l t d.tally 1 (setJob l mv j none (useCount n.val j.be d.total 0 s))
      | none => s
    | _ => s
  | none => s)

/-! ### Heartbeats and stokers -/

/-- The hearth peers of a partition by logical member, and the standby's own place (R270). -/
def hearthPeers (s : State) (n : Nat) : List Nat :=
  let adopted := (s.part n).routes.any fun q => sameGroup q s.ownPos
  (List.range 9).filter fun m => decide (m ≠ s.memberOf n) &&
    (decide (m < 8) || (!adopted && (s.part n).adoptPos.isNone))

/-- HEARTBEAT_SEND: a loaded partition, or one that holds a reservation, sends its heartbeat to every hearth peer (R270, R306). The
spec gives the health word no contents: it is a free value. -/
def execHeartbeatSend (n : PartId) (s : State) : Out :=
  .next (if !s.inService || !((s.part n.val).hasLc || decide ((s.part n.val).rl.role = .standby)) ||
      decide ((s.part n.val).rl.state = .withdrawn) then s
    else
      let (w, s) := s.takeFree
      let s := s.modPart n.val fun p => { p with hbSent := p.hbSent + 1 }
      (hearthPeers s n.val).foldl (fun s m => sendFrame n.val (some (s.groupPos n.val m)) .ctrl
        (.heartbeat (s.part n.val).hbSent (BitVec.ofNat 32 w)) s) s)

/-- HEARTBEAT: a peer is heard (R270, R308). Where a lost position waits in WAIT and its place is heard, the hearth stoker sends
ADOPT there: a replacement adopts it (R317), and a holder that was cut off withdraws (R309). A forwarding standby that has been replaced
ends the freeze with cause ROUTE_LOST as a lifted quarantine ends its own (R318; DEDUCED, log 108). -/
def execHeartbeatFrame (n : PartId) (s : State) : Out :=
  .next (match takeFrame n.val (fun f => match f.body with | .heartbeat _ _ => true | _ => false) s with
  | some (_, fr, s) => match fr.body with
    | .heartbeat c h =>
      let s := s.modPart n.val fun p => { p with peers := p.peers.upd fr.src.member fun q =>
        { q with alive := true, count := c, health := h } }
      let p := s.part n.val
      if fr.src.member = 8 ∧ p.rl.routeLost ∧ (p.peers.get 8).lost ∧ isHearthStoker s n.val then
        sendFrame n.val (some p.jobStoker) .ctrl (.quarReport 0 0)
          (s.modPart n.val fun p => { p with peers := p.peers.upd 8 fun q => { q with lost := false } })
      else
      let pos := s.groupPos n.val fr.src.member
      if isHearthStoker s n.val && decide (p.rl.state = .wait) && (p.peers.get fr.src.member).lost &&
          decide (pos ∉ p.routes ++ p.notices) then
        sendFrame n.val (some pos) .relight (.adopt pos (some p.rl.target) p.epoch) s
      else s
    | _ => s
  | none => s)

/-- A partition takes the place of the job stoker: it broadcasts STOKER, and the offers of R198 follow from the step records, which
every module holds (R271, R319). -/
def becomeStoker (n : Nat) (s : State) : State :=
  sendFrame n none .ctrl .stoker (s.modPart n fun p => { p with
    jobStoker := s.logicalPos n
    stk := { p.stk with
      measuring := false, epoch := p.epoch
      requeue := match lcJob s n with | some x => requeueOf x.launch p.stk | none => [] } })

/-- STOKER: a new job stoker is announced, and a hearth stoker answers with its newest group-sealed boundary and the losses it
knows (R271, R319); at the new stoker, the answers are gathered. -/
def execStokerFrame (n : PartId) (s : State) : Out :=
  .next (match takeFrame n.val (fun f => match f.body with | .stoker => true | .stokerAnswer _ _ => true | _ => false) s with
  | some (_, fr, s) => match fr.body with
    | .stoker =>
      let s := s.modPart n.val fun p => { p with jobStoker := fr.src }
      if isHearthStoker s n.val then
        let p := s.part n.val
        let lost := (List.range 8).filter fun m => (p.peers.get m).lost
        sendFrame n.val (some fr.src) .ctrl (.stokerAnswer (if p.rl.groupSealed then some p.rl.boundary else none) lost) s
      else s
    | .stokerAnswer sealed lost => s.modPart n.val fun p => { p with stk := { p.stk with
        sealedBy := match sealed with | some b => p.stk.sealedBy ++ [(fr.src, b)] | none => p.stk.sealedBy
        losses := p.stk.losses ++ lost.map fun m => ({ fr.src with member := m }, sealed) } }
    | _ => s
  | none => s)

end Sys2Proof.Machine
end

