-- ==== Sys2Proof/Machine/Tenant.lean ====
section
/-! DEFINITION. Command entries (R407), discarding a context (R420) and removing a tenant (R422). -/

namespace Sys2Proof.Machine

/-! ### Command entries -/

/-- Bytes `off` to `off + n - 1` of a command entry, as a number. -/
def entryAt (e : BitVec 512) (off n : Nat) : Nat := e.toNat / 2 ^ (8 * off) % 2 ^ (8 * n)

/-- The header of an entry (Table 18.3). -/
def busyOf (e : BitVec 512) (a b : DWord) : Busy :=
  { opcode := BitVec.ofNat 8 (entryAt e 0 1), flags := BitVec.ofNat 8 (entryAt e 1 1), tag := BitVec.ofNat 32 (entryAt e 4 4)
    event := BitVec.ofNat 32 (entryAt e 8 4), a := a, b := b }

/-- Every command that a ring has fetched completes with a status, the one in execution first (R419, R420). -/
def failRing (f : Nat) (r : RingId) (status : Nat) (s : State) : State :=
  match s.ring f r with
  | none => s
  | some g =>
    let s := match g.busy with | some b => completeCmd f r b status 0 0 s | none => s
    let s := g.fetched.foldl (fun s e => completeCmd f r (busyOf e 0 0) status 0 0 s) s
    s.modRing f r fun g => { g with fetched := [] }

/-! ### Discarding a context -/

/-- A thread goes to IDLE with what it waited for and had outstanding gone (R109, R420). -/
def Thread.stop (h : Thread) : Thread :=
  { h with st := .idle, cond := none, haltPend := false, stepOne := false, parkPage := none, line := none
           loads := [], stores := 0, stall := false, heapReqs := [] }

/-- Discard what a context holds of its partition (R420): threads to IDLE, work discarded, its queues' commands completed and
its queues gone, semaphores cleared, heaps and save-area frames released, the protected ranges of its charter cleared, pool
frames returned. -/
def discardCtx (n c status : Nat) (s : State) : State :=
  match (s.part n).ctx c with
  | none => s
  | some x =>
    let be := x.launch.be
    let runs := decide ((s.part n).running be = some c)
    let s := (List.range 16).foldl (fun s q => failRing (n + 1) (queueId c q) status s) (dropQueueWaits n c (fun _ => true) s)
    let s := if !runs then s
      else
        let s := s.mapEmbers n fun m =>
          let m := (m.dropWork be).mapThreads fun t h => if m.isBe t = be then h.stop else h
          { m with
            codeWin := m.codeWin.set (b2n be) none
            barriers := (List.range 4).foldl (fun t i => t.set (4 * b2n be + i) { count := 0, arrived := [] }) m.barriers }
        let keep := (s.part n).mem.heapQ.filter fun k => s.isBe (k / 8) (k % 8) != be
        let s := s.modPart n fun p => { p with
          runLc := if be then p.runLc else none
          runBe := if be then none else p.runBe
          sems := p.sems.clearRange (4096 * b2n be) (4096 * b2n be + 4096)
          pbars := p.pbars.clearRange (64 * b2n be) (64 * b2n be + 64)
          sct := p.sct.clearRange (4096 * b2n be) (4096 * b2n be + 4096)
          mem := { p.mem with
            heapQ := keep
            heaps := (p.mem.heaps.set (2 * b2n be) heapFresh).set (2 * b2n be + 1) heapFresh }
          tree := { p.tree with insts := p.tree.insts.filter fun i => i.be != be } }
        returnBe n (releaseBeAll n s)
    let s := s.modPart n fun p => { p with
      mem := { p.mem with frames := (x.saveFrames ++ x.launch.pool).foldl (fun t f => t.set f .free) p.mem.frames }
      ctxs := p.ctxs.upd c fun h => { h with obj := some { x with st := .destroying, queues := Tab.const none } } }
    if be then s.modPart n fun p => { p with tree := { p.tree with
        linValid := p.tree.linValid && (!runs || p.runLc.isSome || decide (p.rl.role = .standby)) } }
    else if !runs then s
    else
      let s := ckAbandon n false s
      s.modPart n fun p => { p with
        prot := { p.prot with ranges := [] }
        pauseLc := false
        abort := { p.abort with request := none, count := 0 }
        step := { p.step with first := none, held := false, record := none, frozen := false, released := false, replayHold := false }
        ck := { p.ck with interval := 0, holdoff := 0, warn := 0, waiting := 0, reserve := 0, ask := none, choice := none
                          state := if p.ck.state = .restore then .idle else p.ck.state }
        stk := { stokerFresh with epoch := p.stk.epoch }
        rl := { relightFresh with
          state := if p.rl.state = .withdrawn then .withdrawn else .off
          role := .none
          forward := p.rl.forward, lostPos := p.rl.lostPos, count := p.rl.count, countOvf := p.rl.countOvf, lastUs := p.rl.lastUs
          stallCnt := p.rl.stallCnt, stallOvf := p.rl.stallOvf }
        tree := { p.tree with linValid := false } }

/-- The greatest generation of a handle of a context, an event and a memory object (Table 18.9). -/
def ctxGenMax : Nat := 1048575
def evtGenMax : Nat := 65535
def mobjGenMax : Nat := 4095

/-- Free an index: its generation advances (R411). -/
def Handle.release {α : Type} (h : Handle α) : Handle α := { gen := h.gen + 1, obj := none }

/-- An index can take a new object: free, and its generation not used up (R411). -/
def Handle.usable {α : Type} (top : Nat) (h : Handle α) : Bool := h.obj.isNone && decide (h.gen ≤ top)

/-- The lowest index from `i` on that can take a new object. -/
def usableFrom {α : Type} : Nat → Tab (Handle α) → Nat → Nat → Nat
  | 0, _, _, i => i
  | fuel + 1, t, top, i => if (t.get i).usable top then i else usableFrom fuel t top (i + 1)

/-- The lowest index below `k` that can take a new object (R411). -/
def firstUsable {α : Type} (t : Tab (Handle α)) (top k : Nat) : Option Nat :=
  let i := usableFrom (t.items.length + 1) t top 0
  if i < k then some i else none

/-- Destroy a context (R420): discarded, and its index free. An LC context that runs with warm parity leaves its group, and the
soot record says so (Table 20.2, reason 4). With its last context a partition owns its embers no more (R80). -/
def destroyCtx (n c : Nat) (s : State) : State :=
  match (s.part n).ctx c with
  | none => s
  | some x =>
    let leaves := !x.launch.be && decide (x.launch.wpUnits ≠ 0) && decide ((s.part n).running false = some c)
    let s := if leaves then relightSoot 0x52 n (s.logicalPos n) (s.part n).rl.boundary 4 s else s
    let s := discardCtx n c 0x0B s
    retireUnowned n (s.modPart n fun p => { p with ctxs := p.ctxs.upd c Handle.release })

/-! ### Removing a tenant -/

/-- An ember after the scrub (R79, R422): threads, scratch, the sentinel buffer and queues as after reset; its settings, counts and place stay. -/
def Ember.scrub (m : Ember) : Ember :=
  { m with thr := Tab.const threadFresh, scratch := [], badParity := [], codeWin := Tab.const none, tileQ := []
           movers := Tab.const [], flueQ := [], barriers := Tab.const { count := 0, arrived := [] }, lastIssued := 7, sentBuf := [] }

/-- A partition once its tenant is gone: EMPTY. Its counters stay, and its reservation. -/
def Part.empty (p : Part) : Part :=
  let rsvd := decide (p.rsv.state ≠ .empty) && p.rsvJob.isSome
  { partFresh with
    rsv := p.rsv, rsvJob := p.rsvJob, chr := p.chr, removing := p.removing
    jobStoker := p.jobStoker, peers := p.peers, hbSent := p.hbSent, routes := p.routes, notices := p.notices
    tree := if rsvd then { treeFresh with linValid := p.tree.linValid, lineage := p.tree.lineage, digest := p.tree.digest } else treeFresh
    step := { stepFresh with dropTotal := p.step.dropTotal, dropOvf := p.step.dropOvf, selfDrops := p.step.selfDrops
                             selfOvf := p.step.selfOvf, voidCnt := p.step.voidCnt, voidOvf := p.step.voidOvf
                             lastDelay := p.step.lastDelay, dropFrames := p.step.dropFrames, framesOvf := p.step.framesOvf }
    prot := { protFresh with crcCnt := p.prot.crcCnt, crcOvf := p.prot.crcOvf, persistCnt := p.prot.persistCnt
                             persistOvf := p.prot.persistOvf, denyCnt := p.prot.denyCnt, denyOvf := p.prot.denyOvf }
    rl := { relightFresh with
      state := if rsvd then .banked else .off
      role := if rsvd then .standby else .none
      forward := p.rl.forward, lostPos := p.rl.lostPos, count := p.rl.count, countOvf := p.rl.countOvf, lastUs := p.rl.lastUs
      stallCnt := p.rl.stallCnt, stallOvf := p.rl.stallOvf, jobDraught := p.rl.jobDraught, adopting := p.rl.adopting }
    mem := { memFresh with cfgIgnored := p.mem.cfgIgnored, ptDir := p.mem.ptDir, parkCnt := p.mem.parkCnt, parkOvf := p.mem.parkOvf
                           parkMax := p.mem.parkMax, tcMiss := p.mem.tcMiss, tcMissOvf := p.mem.tcMissOvf }
    ck := { ckFresh with abandoned := p.ck.abandoned, nospace := p.ck.nospace, lastReasons := p.ck.lastReasons, cnt := p.ck.cnt
                         cntOvf := p.ck.cntOvf, abandonCnt := p.ck.abandonCnt, abandonOvf := p.ck.abandonOvf }
    pwarn := p.pwarn, slowdown := p.slowdown, sdMax := p.sdMax }

/-- A partition stays withdrawn where the module has no spare left (R82). -/
def Part.barred (bar : Bool) (p : Part) : Part :=
  { p with rl := { p.rl with state := if bar then .withdrawn else p.rl.state } }

/-- What a flue forgets of a partition whose keys are gone: its quarantine, its open sub-channel with its link keys,
and what waited to be sent. OPEN_SEQ counts on within the bring-up (R376). -/
def Flue.forget (n : Nat) (u : Flue) : Flue :=
  let q := withBit u.quarPart n false
  { u with
    quarPart := q
    quarCause := if q = 0 ∧ u.state ≠ .quar then 0 else u.quarCause
    subs := u.subs.upd n fun c => { c with told := false, opened := false, keyTx := 0, keyRx := 0 }
    txQ := u.txQ.filter fun i => decide (i.part.val ≠ n) || (match i.load with | .link _ => true | .frame _ => false) }

/-- What waits or is kept for a partition outside it goes with its tenant: frames held, passes, cached translations, queued key
requests, its damper image, its check-value pair (R422, R437, R456). -/
def forgetTenant (n : Nat) (s : State) : State :=
  { s with
    outHold := s.outHold.filter fun e => decide (e.1 ≠ n)
    sweep := { s.sweep with
      queued := s.sweep.queued.filter fun e => decide (e.1 ≠ n)
      slots := (List.range 16).foldl (fun t i => match t.get i with
        | some q => if q.part.val = n then t.set i none else t
        | none => t) s.sweep.slots }
    tcache := s.tcache.map fun (c : List Nat) => c.filter fun k => decide (k / 2 ^ 27 ≠ n)
    flues := s.flues.map (Flue.forget n)
    keys := { s.keys with queue := s.keys.queue.filter fun q => decide (q.fn.map Fin.val ≠ some (n + 1)) }
    common := { s.common with epochFull := withBit s.common.epochFull n false, images := s.common.images.set n imageFresh }
    cv := (s.cv.set (2 * n) cvFresh).set (2 * n + 1) cvFresh }

/-- Start to remove a tenant (R422): fetching stops and commands complete ABORTED, contexts are discarded, keys destroyed, passes
ended, memory and the check-value pair scrubbed (R456), its damper image discarded (R437), banked slots given back; the partition is EMPTY. A
module that a retirement without a spare has withdrawn stays so until the next lighting (R82). `detail` is the DETAIL of its record, `cmd` the REMOVE
command that asked. -/
def removeTenantStart (n detail : Nat) (cmd : Option Busy) (s : State) : State :=
  let p := s.part n
  let ctxs := (p.ctxs.items.filter fun e => e.2.obj.isSome).map (·.1)
  let s := ctxs.foldl (fun s c => (List.range 16).foldl (fun s q => failRing (n + 1) (queueId c q) 0x0B s) s) s
  let s := failRing (n + 1) .admin 0x0B (dropHeld n s)
  let banked := ((ksNow s).maps.items.filterMap fun e => match e.2 with
    | some m => if m.part = n ∧ m.kind = 0 then some e.1 else none
    | none => none) ++ (s.ks.writes.filter fun w => decide (w.part = n) && decide (w.kind = 0)).map (·.slot)
  let s := banked.foldl (fun s k => freeSlot n k s) s
  let s := destroyTenantKeys n s
  let s := forgetTenant n s
  let s := s.mapEmbers n Ember.scrub
  let s := s.modPart n fun p => { p.empty.barred (s.pins.faults.contains .noSpare) with removing := some (detail, cmd) }
  retireUnowned n (clearFault (.hbmPersist (Fin.ofNat 4 n)) (clearFault (.withdrawn (Fin.ofNat 4 n)) s))

end Sys2Proof.Machine
end

