-- ==== Sys2Proof/Machine/Launch.lean ====
section
/-! DEFINITION. The launch record (R410): its reading, the checks of RECORD and CHARTER (R355), loading a context (R412), and
starting its threads (R417). -/

namespace Sys2Proof.Machine

/-! ### Reading the record (Table 18.8) -/

/-- A group of the record at an offset: CLASS, and its pairs. -/
def readGroup (bs : List Byte) (o : Nat) : Group :=
  { be := decide (leAt bs o 1 = 1)
    pairs := (List.range (leAt bs (o + 2) 2)).map fun i =>
      let w := leAt bs (leAt bs (o + 4) 4 + 4 * i) 4
      (w % 32768, BitVec.ofNat 8 (w / 65536)) }

/-- A ring entry of the record at an offset. -/
def readRing (bs : List Byte) (o : Nat) : RingEntry :=
  { shape := leAt bs o 1, len := leAt bs (o + 1) 1, dim := leAt bs (o + 2) 1, memberA := leAt bs (o + 3) 1
    memberB := leAt bs (o + 4) 1, order := (List.range 8).map fun i => leAt bs (o + 8 + i) 1 }

/-- A launch record as its fields give it. -/
def readLaunch (bs : List Byte) : Launch :=
  let flags := leAt bs 6 2
  { be := flags.testBit 0, restore := flags.testBit 1
    jobId := BitVec.ofNat 128 (leAt bs 8 16), restoreStep := BitVec.ofNat 64 (leAt bs 24 8)
    parent := BitVec.ofNat 256 (leAt bs 32 32), startStep := BitVec.ofNat 64 (leAt bs 64 8)
    codeBrick := leAt bs 80 2, codeBricks := leAt bs 82 2
    entryPc := (List.range 8).map fun i => leAt bs (84 + 2 * i) 2
    dropPc := leAt bs 100 2, semContrib := leAt bs 102 2, semRec := leAt bs 104 2, slot := leAt bs 106 2
    stepPage := BitVec.ofNat 64 (leAt bs 112 8)
    nmb := leAt bs 120 2, minContrib := leAt bs 122 2, deadlineUs := leAt bs 124 4, requeueDelay := leAt bs 128 1
    requeueMax := leAt bs 129 1
    hbmBase := BitVec.ofNat 64 (leAt bs 136 8), hbmLen := BitVec.ofNat 64 (leAt bs 144 8)
    hbmMeta := BitVec.ofNat 64 (leAt bs 152 8)
    shfBase := BitVec.ofNat 64 (leAt bs 160 8), shfLen := BitVec.ofNat 64 (leAt bs 168 8)
    shfMeta := BitVec.ofNat 64 (leAt bs 176 8)
    shelfBase := leAt bs 184 4, shelfLen := leAt bs 188 4, nsct := leAt bs 192 4
    wpMode := leAt bs 208 1, wpImg := leAt bs 209 1, wpShare := leAt bs 210 1, wpInterval := leAt bs 211 1
    wpFirst := leAt bs 212 4, wpUnits := leAt bs 216 4
    inFirst := BitVec.ofNat 64 (leAt bs 232 8), inSlotBytes := BitVec.ofNat 64 (leAt bs 240 8), inSlots := leAt bs 248 4
    ckInterval := leAt bs 256 2, ckHoldoff := leAt bs 258 2, ckWarn := leAt bs 260 1
    groups := (List.range 64).foldl (fun t g => t.set g (readGroup bs (leAt bs 200 4 + 8 * g))) (Tab.const { be := false, pairs := [] })
    rings := (List.range 16).foldl (fun t r => t.set r (readRing bs (leAt bs 204 4 + 16 * r)))
      (Tab.const { shape := 0, len := 0, dim := 0, memberA := 0, memberB := 0, order := [] })
    pool := (List.range (leAt bs 220 4)).map fun i => leAt bs (leAt bs 224 4 + 4 * i) 4
    scales := (List.range (leAt bs 192 4)).map fun i =>
      let o := leAt bs 196 4 + 8 * i
      (leAt bs o 1, BitVec.ofNat 32 (leAt bs (o + 4) 4), BitVec.ofNat 8 (leAt bs (o + 1) 1)) }

/-- The image that the record places in the code window. -/
def launchImage (bs : List Byte) : List Byte := (bs.drop (leAt bs 72 4)).take (leAt bs 76 4)

/-! ### The checks of RECORD -/

/-- A number is a power of two. -/
def isPow2 (k : Nat) : Bool := decide (k ≠ 0) && decide (2 ^ Nat.log2 k = k)

/-- Every page from `a` to `a + len - 1` is mapped; `w` asks for W, `pin` for PIN. -/
def pagesMapped (p : Part) (a len : Nat) (w pin : Bool) : Bool :=
  (List.range ((a + len + pageBytes - 1) / pageBytes - a / pageBytes)).all fun i =>
    match p.mem.pages.get (a / pageBytes + i) with
    | some e => (!w || e.w) && (!pin || e.pin)
    | none => false

/-- The heap metadata of an LC job with a span lies in the data units of the member that are no image units (R296): its pages' frames do. The pages
of a context that restores are mapped by its restore (R343; DEDUCED, log 32). -/
def metaInSpan (s : State) (n : Nat) (r : Launch) (mt bytes : Nat) : Bool :=
  let j := s.memberOf n
  let home := ((List.range r.wpUnits).filter fun q => !holdsParity r.wpMode q j).drop r.wpImg
  (List.range ((mt + bytes + pageBytes - 1) / pageBytes - mt / pageBytes)).all fun i =>
    match (s.part n).mem.pages.get (mt / pageBytes + i) with
    | some e => (match e.loc with
      | .frame f => decide (r.wpFirst ≤ f) && decide (f - r.wpFirst ∈ home)
      | .banked _ => false)
    | none => false

/-- A heap's metadata breaks R296. -/
def metaBad (s : State) (n : Nat) (r : Launch) (len mt unit : Nat) : Bool :=
  decide (r.wpUnits ≠ 0) && !r.be && !r.restore && decide (len ≠ 0) && !metaInSpan s n r mt ((len / unit + 3) / 4)

/-- A heap's fields break R213. The pages of a context that restores are mapped by its restore (R343; DEDUCED, log 32). -/
def heapBad (p : Part) (restored : Bool) (base len mt lo hi unit window : Nat) : Bool :=
  if len = 0 then decide (base ≠ 0) || decide (mt ≠ 0)
  else
    !isPow2 len || decide (len < lo) || decide (hi < len) || decide (base % len ≠ 0) || decide (window < base + len) ||
      (!restored && !pagesMapped p mt ((len / unit + 3) / 4) false true)

/-- Some byte of the record from `o` on is not zero. -/
def notZero (bs : List Byte) (o n : Nat) : Bool := decide (leAt bs o n ≠ 0)

/-- A ring entry breaks R199. -/
def ringBad (s : State) (r : RingEntry) : Bool :=
  match r.shape with
  | 0 => false
  | 1 =>
    let ms := r.order.take r.len
    decide (r.len < 2) || decide (8 < r.len) || !ms.all (fun m => decide (m < 8)) || !decide ms.Nodup
  | 2 => decide (3 < r.dim) || decide (r.len ≠ s.dim r.dim) || decide (7 < r.memberA)
  | 3 => decide (3 < r.dim) || decide (r.len ≠ 2 * s.dim r.dim) || decide (64 < r.len) || decide (7 < r.memberA) ||
      decide (7 < r.memberB) || decide (r.memberA = r.memberB)
  | _ => true

/-- A group of the record breaks R410: CLASS, zero byte, the extent of its pairs, or an ember of another partition. -/
def groupBad (s : State) (n : Nat) (bs : List Byte) (be : Bool) (o : Nat) : Bool :=
  let k := leAt bs (o + 2) 2
  let at_ := leAt bs (o + 4) 4
  if k = 0 then false
  else
    decide (leAt bs o 1 ≠ b2n be) || notZero bs (o + 1) 1 || decide (bs.length < at_ + 4 * k) ||
      (List.range k).any fun i =>
        let w := leAt bs (at_ + 4 * i) 4
        decide (w / 32768 % 2 = 1) || decide (w / 2 ^ 24 ≠ 0) || decide (25600 ≤ w % 32768) || decide (s.partOf (w % 32768) ≠ n)

/-- A scale entry of the record breaks R161. -/
def scaleBad (bs : List Byte) (o : Nat) : Bool :=
  decide (4 < leAt bs o 1) || notZero bs (o + 2) 2 || (decide (leAt bs o 1 ≠ 4) && (notZero bs (o + 1) 1 || notZero bs (o + 4) 4))

/-- Data units of a member under a mode (Table 13.1). -/
def dataCount (mode q : Nat) : Nat := match mode with | 0 => q | 1 => 7 * q / 8 | _ => 3 * q / 4

/-- The record gives a span field other than zero (R294). -/
def spanFields (r : Launch) (poolCount : Nat) : Bool :=
  decide (r.wpMode ≠ 0) || decide (r.wpImg ≠ 0) || decide (r.wpShare ≠ 0) || decide (r.wpInterval ≠ 0) || decide (r.wpFirst ≠ 0) ||
    decide (r.wpUnits ≠ 0) || decide (poolCount ≠ 0) || decide (r.ckInterval ≠ 0) || decide (r.ckHoldoff ≠ 0) || decide (r.ckWarn ≠ 0)

/-- A span's frames meet the frames from `f`. -/
def inSpan (r : Launch) (f : Nat) : Bool := decide (r.wpFirst ≤ f) && decide (f < r.wpFirst + r.wpUnits)

/-- A frame of the partition is mapped by some page. -/
def frameMapped (p : Part) (f : Nat) : Bool :=
  p.mem.pages.items.any fun e => match e.2 with | some q => decide (q.loc = .frame f) | none => false

/-- The RECORD checks of a launch record, each with the header offset it concerns (R410). -/
def recordChecks (s : State) (n : Nat) (bs : List Byte) : List (Nat × Bool) :=
  let p := s.part n
  let r := readLaunch bs
  let len := bs.length
  let window := 8 * 128 * r.codeBricks
  let pcBad (pc : Nat) : Bool := decide (window < 8 * pc + 8)
  let span := decide (r.wpUnits ≠ 0)
  let poolCount := leAt bs 220 4
  let input := decide (r.inFirst ≠ 0) || decide (r.inSlotBytes ≠ 0) || decide (r.inSlots ≠ 0)
  [ (0, decide (len < 264) || decide (leAt bs 0 4 ≠ 0x434C5A5A) || decide (leAt bs 4 2 ≠ 1) || decide (3 < leAt bs 6 2)),
    (72, decide (len < leAt bs 72 4 + leAt bs 76 4) || decide (leAt bs 76 4 = 0) || decide (leAt bs 76 4 % 1024 ≠ 0) ||
      decide (1024 * r.codeBricks < leAt bs 76 4)),
    (80, decide (r.codeBricks = 0) || s.anyEmber n fun m => !m.inRange r.be (1024 * r.codeBrick) (1024 * r.codeBricks)),
    (84, (List.range 8).any fun t =>
      let pc := leAt bs (84 + 2 * t) 2
      decide (pc ≠ 0xFFFF) && (pcBad pc || s.anyEmber n fun m => m.isBe t != r.be)),
    (100, !r.be && decide (r.nmb ≠ 0) && pcBad r.dropPc),
    (102, decide (4096 ≤ r.semContrib) || (!r.be && decide (r.nmb ≠ 0) && decide (r.semContrib = r.semRec))),
    (104, decide (4096 ≤ r.semRec)),
    (106, r.be && decide (r.slot ≠ 0xFFFF)),
    (108, notZero bs 108 4),
    (112, decide (2 ^ 48 ≤ r.stepPage.toNat) || (decide (r.nmb ≠ 0) && decide (r.stepPage.toNat % 16384 ≠ 0))),
    (120, (r.be && notZero bs 120 10) || decide (32768 < r.nmb) || decide (r.nmb < r.minContrib) ||
      (decide (r.nmb ≠ 0) && decide (r.minContrib = 0)) || (decide (r.nmb = 0) && notZero bs 122 8)),
    (128, decide (16 < r.requeueDelay) || decide (7 < r.requeueMax) || (decide (r.nmb ≠ 0) && decide (r.requeueMax = 0)) ||
      notZero bs 130 6),
    (136, heapBad p r.restore r.hbmBase.toNat r.hbmLen.toNat r.hbmMeta.toNat (2 ^ 21) (2 ^ 39) 4096 (2 ^ 48) ||
      (decide (r.hbmLen ≠ 0) && !r.restore && !pagesMapped p r.hbmBase.toNat r.hbmLen.toNat true false) ||
      metaBad s n r r.hbmLen.toNat r.hbmMeta.toNat 4096),
    (160, heapBad p r.restore r.shfBase.toNat r.shfLen.toNat r.shfMeta.toNat (2 ^ 16) (2 ^ 29) 256 (805306368 / s.nParts) ||
      metaBad s n r r.shfLen.toNat r.shfMeta.toNat 256),
    (184, decide (805306368 / s.nParts < r.shelfBase + r.shelfLen)),
    (192, decide (r.nsct = 0) || decide (4096 < r.nsct) || decide (len < leAt bs 196 4 + 8 * r.nsct) ||
      (List.range r.nsct).any fun i => scaleBad bs (leAt bs 196 4 + 8 * i)),
    (200, decide (len < leAt bs 200 4 + 512) || decide (len < leAt bs 204 4 + 256) ||
      ((List.range 64).any fun g => groupBad s n bs r.be (leAt bs 200 4 + 8 * g)) ||
      (List.range 16).any fun i => ringBad s (r.rings.get i) || notZero bs (leAt bs 204 4 + 16 * i + 5) 3),
    (208, (r.be && spanFields r poolCount) || decide (2 < r.wpMode) ||
      (if span then decide (r.wpImg < 4) || decide (128 < r.wpImg) || decide (dataCount r.wpMode r.wpUnits ≤ r.wpImg) ||
          decide (r.wpShare = 0) || decide (16 < r.wpShare) || decide (r.wpInterval = 0) || decide (64 < r.wpInterval)
       else spanFields r poolCount)),
    (216, span && (decide (r.wpUnits % 8 ≠ 0) || decide (s.frameCount < r.wpFirst + r.wpUnits) ||
      (!r.restore && (List.range r.wpUnits).any fun q => !frameMapped p (r.wpFirst + q)))),
    (224, decide (len < leAt bs 224 4 + 4 * poolCount) || notZero bs 228 4 || !decide r.pool.Nodup ||
      r.pool.any fun f => decide (s.frameCount ≤ f) || decide (p.mem.frames.get f ≠ .free) || inSpan r f),
    (232, (r.be && input) || (input && decide (r.inFirst.toNat % pageBytes ≠ 0))),
    (240, input && (decide (r.inSlotBytes = 0) || decide (r.inSlotBytes.toNat % pageBytes ≠ 0) ||
      decide (2 ^ 48 < r.inFirst.toNat + r.inSlotBytes.toNat * r.inSlots))),
    (248, (input && decide (r.inSlots < (if span then r.wpInterval + 2 else 2))) || notZero bs 252 4),
    (256, decide (1024 < r.ckInterval) || decide (1023 < r.ckHoldoff) || decide (63 < r.ckWarn) || notZero bs 261 3 ||
      (span && decide (slotsFree s n < 2 * (r.wpUnits + 16)))) ]

/-- DETAIL of a refused record: the offset, divided by 8, of the first field that breaks a check (R410). -/
def recordBad (s : State) (n : Nat) (bs : List Byte) : Option Nat :=
  ((recordChecks s n bs).find? (·.2)).map fun e => e.1 / 8

/-! ### The checks of CHARTER -/

/-- Offsets of a charter's tables (Table 15.1). -/
def charterG0 (bs : List Byte) : Nat := 64 + 1808 * leAt bs 32 1
def charterE0 (bs : List Byte) : Nat := charterG0 bs + 40 * leAt bs 33 1
def charterU0 (bs : List Byte) : Nat := charterE0 bs + 16 * leAt bs 34 1
def charterC0 (bs : List Byte) : Nat := charterU0 bs + 24 * leAt bs 35 1
def charterS0 (bs : List Byte) : Nat := charterC0 bs + 8 * leAt bs 52 4

/-- The PRIVATE and RESULT regions of a charter: first and last span unit (R242, R350). -/
def charterRanges (bs : List Byte) : List (Nat × Nat) :=
  ((List.range (leAt bs 34 1)).map fun i => charterE0 bs + 16 * i).filterMap fun o =>
    if leAt bs o 1 = 0 then none else some (leAt bs (o + 4) 4, leAt bs (o + 4) 4 + leAt bs (o + 8) 4 - 1)

/-- The refusal of R355, as a code of Table 15.7: 0 passes. -/
def charterBad (s : State) (n : Nat) (a : Admission) (bs : List Byte) : Nat :=
  let r := readLaunch bs
  let c := a.body
  let meas := measure r.be (launchImage bs ++ List.replicate (1024 * r.codeBricks - leAt bs 76 4) 0)
  let entry := (List.range (leAt c 33 1)).any fun i =>
    let o := charterG0 c + 40 * i
    decide (leAt c o 1 = b2n r.be) && decide (leAt c (o + 8) 32 = meas.toNat)
  if r.jobId ≠ a.jobId then 0xF
  else if !entry then 0x8
  else if r.be then 0
  else
    let want := (slotOf s a (s.logicalPos n)).getD 0xFFFF
    let past := (List.range (leAt c 34 1)).any fun i =>
      let o := charterE0 c + 16 * i
      decide (r.wpUnits < leAt c (o + 4) 4 + leAt c (o + 8) 4)
    let plan := decide (leAt c 40 2 = r.nmb) && decide (leAt c 42 2 = r.minContrib) && decide (leAt c 44 4 = r.deadlineUs) &&
      decide (leAt c 48 1 = r.requeueDelay) && decide (leAt c 49 1 = r.requeueMax)
    if r.slot ≠ want || (decide (r.slot ≠ 0xFFFF) && decide (r.nmb ≤ r.slot)) || past || !plan then 0xF else 0

/-! ### Loading -/

/-- The lineage record of a partition's shape and a launch (R291). -/
def lineageBytes (s : State) (r : Launch) : List Byte :=
  ((List.range 4).map fun d => BitVec.ofNat 8 (s.dim d - 1)) ++ leBytes 1 s.nParts ++
    ((List.range 64).flatMap fun g =>
      let e := r.groups.get g
      leBytes 1 (b2n e.be) ++ [0] ++ leBytes 2 e.pairs.length ++ e.pairs.flatMap fun q => leBytes 4 (q.1 + 65536 * q.2.toNat)) ++
    ((List.range 16).flatMap fun i =>
      let e := r.rings.get i
      leBytes 1 e.shape ++ leBytes 1 e.len ++ leBytes 1 e.dim ++ leBytes 1 e.memberA ++ leBytes 1 e.memberB ++ leBytes 3 0 ++
        e.order.flatMap fun m => leBytes 1 m) ++
    keyBytes r.parent ++ leBytes 8 r.startStep.toNat

/-- The lineage digest (R291). -/
def lineageOf (s : State) (r : Launch) : Digest := shake (lineageBytes s r)

/-- The lowest free frames of a partition. -/
def lowestFree : Nat → Nat → Nat → PartMem → List Nat
  | 0, _, _, _ => []
  | _ + 1, 0, _, _ => []
  | fuel + 1, k + 1, f, m =>
    if m.frames.get f = .free then f :: lowestFree fuel k (f + 1) m else lowestFree fuel (k + 1) (f + 1) m

/-- Take `k` lowest free frames for the device: none where there are too few (R412, R416). -/
def takeFrames (n k : Nat) (s : State) : Option (List Nat × State) :=
  let fs := lowestFree s.frameCount k 0 (s.part n).mem
  if fs.length = k then
    some (fs, s.modPart n fun p => { p with mem := { p.mem with frames := fs.foldl (fun t f => t.set f .device) p.mem.frames } })
  else none

def utilFresh : UtilRec :=
  { runUs := 0, issueUs := 0, tileUs := 0, waitUs := 0, pausedUs := 0, moved := 0, flueBytes := 0, ovf := 0 }
def memRecFresh : MemRec := { parkNs := 0, parks := 0, tcMiss := 0, allocFail := 0, ovf := 0 }

/-- Frames of a context's save area (R412). -/
def saveCount (image : List Byte) : Nat := 1 + (image.length + pageBytes - 1) / pageBytes

/-- What the creation of an LC context takes hold of (R299, R304, R410): the frames of its pool, W of its input pages and PIN of its
span pages. -/
def claimPages (n : Nat) (r : Launch) (s : State) : State :=
  let input (k : Nat) : Bool := decide (r.inSlots ≠ 0) && decide (r.inFirst.toNat ≤ k * pageBytes) &&
    decide (k * pageBytes < r.inFirst.toNat + r.inSlots * r.inSlotBytes.toNat)
  let fix (k : Nat) (e : Page) : Page :=
    { e with w := e.w && !input k
             pin := e.pin || (match e.loc with | .frame f => decide (r.wpUnits ≠ 0) && inSpan r f | _ => false) }
  let s := s.modPart n fun p => { p with mem := { p.mem with frames := r.pool.foldl (fun t f => t.set f .cow) p.mem.frames } }
  (mappedPages (s.part n)).foldl (fun s (k, e) =>
    if fix k e = e then s else cacheDrop n k (setPage n k (some (fix k e)) s)) s

/-- RL_STATE of a job that runs (Table 13.7): RUN with warm parity, else OFF. -/
def rlRunning (mode : Nat) : RlState := if mode = 0 then .off else .run

/-- What loading a context into its class sets in its partition (R410): semaphores, scale table, heaps and tables of its class; the lineage, which is the LC
job's where one is loaded or reserved (R291; DEDUCED, log 104); for an LC context epoch 0 (R444), step counter, span, pool, input region and checkpoint fields. -/
def installCtx (n c : Nat) (s : State) : State :=
  match (s.part n).ctx c with
  | none => s
  | some x =>
    let r := x.launch
    let be := r.be
    let k := b2n be
    let heaps (t : Tab Heap) : Tab Heap :=
      (t.set (2 * k) (Heap.fresh r.hbmBase.toNat r.hbmLen.toNat 4096)).set (2 * k + 1) (Heap.fresh r.shfBase.toNat r.shfLen.toNat 256)
    let s := s.modPart n fun p => { p with
      runLc := if be then p.runLc else some c
      runBe := if be then some c else p.runBe
      sems := p.sems.clearRange (4096 * k) (4096 * k + 4096)
      pbars := p.pbars.clearRange (64 * k) (64 * k + 64)
      sct := (List.range r.nsct).foldl (fun t i =>
        let (kind, i8, zp) := (r.scales[i]?).getD (0, 0, 0)
        t.set (sctKey be i) (ScaleEntry.create kind i8 zp)) (p.sct.clearRange (4096 * k) (4096 * k + 4096))
      mem := { p.mem with heaps := heaps p.mem.heaps } }
    let s := s.mapEmbers n fun m => m.mapThreads fun t h => if m.isBe t = be then { threadFresh with st := h.st } else h
    let d := lineageOf s r
    if be then
      (if (s.part n).runLc.isSome ∨ (s.part n).rl.role = .standby then s
      else s.modPart n fun p => { p with tree := { p.tree with linValid := true, lineage := BitVec.ofNat 32 d.toNat, digest := d } })
    else
      let span := decide (r.wpUnits ≠ 0)
      claimPages n r (s.modPart n fun p => { p with
        epoch := 0
        sdMax := 0
        step := { p.step with count := r.startStep, first := none, held := false, record := none, contributed := false
                              marked := [], frozen := false, released := false, lastVoid := none
                              dropTotal := 0, dropOvf := false, capEpoch := 0, capStoker := (hearthStoker s n).member, replayHold := false }
        tree := { p.tree with linValid := true, lineage := BitVec.ofNat 32 d.toNat, digest := d }
        stk := stokerFresh
        prot := { p.prot with ranges := charterRanges p.adm.body }
        rl := { relightFresh with
          state := rlRunning r.wpMode
          role := .active
          mode := r.wpMode, first := r.wpFirst, units := r.wpUnits, interval := r.wpInterval, share := r.wpShare, img := r.wpImg
          forward := p.rl.forward, lostPos := p.rl.lostPos, count := p.rl.count, countOvf := p.rl.countOvf, lastUs := p.rl.lastUs
          stallCnt := p.rl.stallCnt, stallOvf := p.rl.stallOvf
          pool := r.pool, boundary := r.startStep, jobSealed := true, sealedAt := r.startStep, jsealedAt := r.startStep
          mirrorFrames := x.saveFrames.drop (saveCount x.image)
          inFirst := r.inFirst, inSlotBytes := r.inSlotBytes, inSlots := r.inSlots }
        ck := { p.ck with interval := r.ckInterval, holdoff := r.ckHoldoff, warn := r.ckWarn, lastStep := r.startStep, waiting := 0
                          reserve := if span then 2 * (r.wpUnits + 16) else 0 } })

/-- A job with a span starts from its first boundary B_0: the device writes the boundary image and the heaps' metadata of the state that the job
is loaded with, to which an abort of its first step returns (R217, R297, R303; DEDUCED, log 97). -/
def startImage (n : Nat) (s : State) : State :=
  if hasSpan s n then writeImage n (imageFill s n) (boundaryImage s n) (storeHeaps n s) else s

/-! ### Starting -/

/-- START is granted (R417): the image goes into every ember's code window, and each thread with an ENTRY_PC runs from it; BE
threads wait for the LC threads of their ember, which pause them (R59). -/
def startThreads (n c : Nat) (hold : Bool) (s : State) : State :=
  match (s.part n).ctx c with
  | none => s
  | some x =>
    let r := x.launch
    let be := r.be
    let image := x.image ++ List.replicate (1024 * r.codeBricks - x.image.length) 0
    let s := s.modPart n (Part.modCtx c fun x => { x with st := .run })
    let s := s.mapEmbers n fun m =>
      let m := { m.store (1024 * r.codeBrick) image with codeWin := m.codeWin.set (b2n be) (some (r.codeBrick, r.codeBricks)) }
      let quiet := m.lcQuiet
      m.mapThreads fun t h =>
        let pc := (r.entryPc[t]?).getD 0xFFFF
        if m.isBe t = be ∧ pc ≠ 0xFFFF then
          { h with pc := BitVec.ofNat 16 pc, line := none
                   st := if hold then .paused else if be then (if quiet then .run else .paused) else .run }
        else h
    let s := pauseBusy n s
    if be then s else if hold then startStep n false false s else stokerRelease n (startStep n false false s)

end Sys2Proof.Machine
end

