-- ==== Sys2Proof/Machine/Pages.lean ====
section
/-! DEFINITION. Leaf tables (R202, R416), protected frames (R242), and the input region with its live slots (R304, R305). -/

namespace Sys2Proof.Machine

/-! ### Leaf tables -/

/-- The directory entries that pages `k` to `k + c - 1` need and that are not present. -/
def newLeaves (m : PartMem) (k c : Nat) : List Nat :=
  (List.range ((k + c + 16383) / 16384 - k / 16384)).filterMap fun i =>
    if (m.leaf.get (k / 16384 + i)).isNone then some (k / 16384 + i) else none

/-- The lowest free 128 KiB slot of the frames that hold leaf tables. -/
def freeLeafSlot (m : PartMem) : Option (Nat × Nat) :=
  let used := m.leaf.items.filterMap (·.2)
  used.findSome? fun (f, _) => ((List.range 16).find? fun i => decide ((f, i) ∉ used)).map fun i => (f, i)

/-- Add leaf tables: each in a free slot, else in the lowest free frame; none where no frame is free (R416). -/
def addLeafTables (n : Nat) : List Nat → State → Option State
  | [], s => some s
  | d :: ds, s =>
    let put (f i : Nat) (s : State) : State := s.modPart n fun p => { p with mem := { p.mem with leaf := p.mem.leaf.set d (some (f, i)) } }
    match freeLeafSlot (s.part n).mem with
    | some (f, i) => addLeafTables n ds (put f i s)
    | none => match takeFrames n 1 s with
      | some (f :: _, s) => addLeafTables n ds (put f 0 s)
      | _ => none

/-- Add what the directory needs: with the first leaf tables of a partition the frame MEM_PT_DIR becomes the directory's, or, where it is not
FREE, the lowest FREE frame, which MEM_PT_DIR then names (R202, R242, R416; log 37). MEM_EN then reads 1: translation is active. -/
def addLeaves (n : Nat) (ds : List Nat) (s : State) : Option State :=
  let m := (s.part n).mem
  if ds.isEmpty || m.hasDir then addLeafTables n ds s
  else if m.frames.get m.ptDir.toNat = .free ∧ m.ptDir.toNat < s.frameCount then
    addLeafTables n ds (s.modPart n fun p => { p with mem := { p.mem with frames := p.mem.frames.set m.ptDir.toNat .device } })
  else match takeFrames n 1 s with
    | some (f :: _, s) => addLeafTables n ds (s.modPart n fun p => { p with mem := { p.mem with ptDir := BitVec.ofNat 19 f } })
    | _ => none

/-! ### Protected frames -/

/-- A span unit that R295, R297 or a charter region protects, or that holds heap metadata (R242). -/
def unitProtected (s : State) (n q : Nat) : Bool :=
  isParityUnit s n q || decide (q ∈ imageUnits s n) || (s.part n).metaFrame ((s.part n).rl.first + q) || (s.part n).prot.ranges.any fun r => decide (r.1 ≤ q) && decide (q ≤ r.2)

/-- A page's frame lies in a protected range (R242): `f` is the frame that the page entry names. -/
def pageProtected (s : State) (n f : Nat) : Bool :=
  match (s.part n).unitOf f with
  | some q => unitProtected s n q
  | none => decide ((s.part n).mem.frames.get f = .device) || (s.part n).metaFrame f

/-- A frame of HBM lies in a protected range at this moment (R242): device-owned, or holding a version of a protected unit. -/
def frameProtected (s : State) (n f : Nat) : Bool :=
  let r := (s.part n).rl
  decide ((s.part n).mem.frames.get f = .device) || (s.part n).metaFrame f ||
    (List.range r.units).any fun q => (decide (r.liveFrameOf q = f) || decide (r.keptFrame q = f) || decide (r.old.get q = some f) ||
      decide (r.parityNew.get q = some f)) && unitProtected s n q

/-- An outside master's access is refused, and counted (R243). -/
def denyCount (n : Nat) (s : State) : State :=
  s.modPart n fun p => { p with prot := { p.prot with
    denyCnt := satAdd p.prot.denyCnt 1, denyOvf := p.prot.denyOvf || satOvf p.prot.denyCnt 1 } }

/-! ### The input region -/

/-- The input slots that are live (R305). -/
def liveSlots (p : Part) : List Nat :=
  if p.rl.inSlots = 0 ∨ !p.inRun false then []
  else
    let now := p.lcStep.toNat
    if p.rl.units = 0 then [now % p.rl.inSlots]
    else
      let lo := p.rl.jsealedAt.toNat
      ((List.range (now + 1 - lo)).take p.rl.inSlots).map fun i => (lo + i) % p.rl.inSlots

/-- The input slot that a device-virtual address lies in. -/
def inputSlot (p : Part) (a : Nat) : Option Nat :=
  let base := p.rl.inFirst.toNat
  let k := p.rl.inSlotBytes.toNat
  if base ≤ a ∧ a < base + p.rl.inSlots * k then some ((a - base) / k) else none

/-- The pages of an input slot. -/
def slotPages (p : Part) (slot : Nat) : List Nat :=
  let k := p.rl.inSlotBytes.toNat
  (List.range (k / pageBytes)).map fun i => (p.rl.inFirst.toNat + slot * k) / pageBytes + i

/-- Write bytes from an offset of a run of frames. -/
def writeFrames (n : Nat) : List Nat → Nat → List Byte → State → State
  | [], _, _, s => s
  | f :: fs, off, bs, s =>
    if pageBytes ≤ off then writeFrames n fs (off - pageBytes) bs s
    else
      let k := pageBytes - off
      writeFrames n fs 0 (bs.drop k) (if bs.isEmpty then s else deviceWrite n f off (bs.take k) s)

/-- The frames of the mirror area of a launch: as many as its input region has pages, for a context with a span (R304). -/
def mirrorCount (r : Launch) : Nat := if r.wpUnits = 0 then 0 else r.inSlots * (r.inSlotBytes.toNat / pageBytes)

end Sys2Proof.Machine
end

