-- ==== Sys2Proof/Machine/Relight.lean ====
section
/-! DEFINITION. Warm parity and Relight (chapter 13): parity and its seals (R300, R301), the input mirror (R304), losses and the
freeze (R308 to R311, R318, R319), adoption and rebuild (R312 to R314), the release, and handback (R317). -/

namespace Sys2Proof.Machine

/-! ### Parity arithmetic (R295) -/

/-- Double an element of GF(2^8) under 0x11D. -/
def gfDouble (x : Nat) : Nat := if 128 ≤ x then Nat.xor (2 * x) 0x11D else 2 * x
/-- A product in GF(2^8). -/
def gfMul (a b : Nat) : Nat :=
  ([7, 6, 5, 4, 3, 2, 1, 0]).foldl (fun acc i => Nat.xor (gfDouble acc) (if b.testBit i then a else 0)) 0
/-- g^j, with g = 2. -/
def gfPow (j : Nat) : Nat := (List.range j).foldl (fun a _ => gfDouble a) 1
/-- The inverse of an element that is not zero: its power 254. -/
def gfInv (a : Nat) : Nat := (List.range 254).foldl (fun x _ => gfMul x a) 1

/-- Byte-wise XOR, and the byte-wise multiple of a unit. -/
def xorBytes (a b : List Byte) : List Byte := List.zipWith (fun x y => x ^^^ y) a b
def scaleBytes (c : Nat) (bs : List Byte) : List Byte := bs.map fun b => BitVec.ofNat 8 (gfMul c b.toNat)
/-- The XOR of units. -/
def xorAll (us : List (List Byte)) : List Byte := us.foldl xorBytes (List.replicate pageBytes 0)

/-- Member `j` holds a data unit in stripe `q`. -/
def isDataUnit (mode q j : Nat) : Bool := !isPUnit q j && !isQUnit mode q j

/-- A member that holds a unit of stripe `q` sends it for a rebuild with the members `gone` missing (R313). -/
def rebuildNeeds (mode q : Nat) (gone : List Nat) (j : Nat) : Bool :=
  let miss := gone.filter (isDataUnit mode q)
  if isPUnit q j then !miss.isEmpty
  else if isQUnit mode q j then decide (2 ≤ miss.length) || (decide (miss.length = 1) && decide (q % 8 ∈ gone))
  else true

/-- The data units of stripe `q` that are missing, from the units that are there (R313). -/
def missingData (mode q : Nat) (gone : List Nat) (us : List (Nat × List Byte)) : List (Nat × List Byte) :=
  let data := us.filter fun e => isDataUnit mode q e.1
  let pUnit := (us.find? fun e => isPUnit q e.1).map (·.2)
  let qUnit := (us.find? fun e => isQUnit mode q e.1).map (·.2)
  let a := xorBytes (pUnit.getD []) (xorAll (data.map (·.2)))
  let b := xorBytes (qUnit.getD []) (xorAll (data.map fun e => scaleBytes (gfPow e.1) e.2))
  match gone.filter (isDataUnit mode q) with
  | [] => []
  | [x] => match pUnit with
    | some _ => [(x, a)]
    | none => [(x, scaleBytes (gfInv (gfPow x)) b)]
  | x :: y :: _ =>
    let dx := scaleBytes (gfInv (Nat.xor (gfPow x) (gfPow y))) (xorBytes b (scaleBytes (gfPow y) a))
    [(x, dx), (y, xorBytes a dx)]

/-- The unit of member `x` in stripe `q` (R313). -/
def recoverUnit (mode q x : Nat) (gone : List Nat) (us : List (Nat × List Byte)) : List Byte :=
  let found := missingData mode q gone us
  let data := us.filter (fun e => isDataUnit mode q e.1) ++ found
  if isPUnit q x then xorAll (data.map (·.2))
  else if isQUnit mode q x then xorAll (data.map fun e => scaleBytes (gfPow e.1) e.2)
  else match found.find? fun e => decide (e.1 = x) with
    | some (_, bs) => bs
    | none => []

/-! ### Parity and seals -/

/-- The members whose data unit in stripe `q` enters the holder's parity (R295). -/
def contributors (mode q : Nat) : List Nat := (List.range 8).filter (isDataUnit mode q)

/-- A holder whose stripes are all complete reports to its hearth stoker (R301). -/
def holderReport (n : Nat) (s : State) : State :=
  let r := (s.part n).rl
  if (parityUnits s n).all fun q => (contributors r.mode q).all fun j => (r.parityGot.get q).any fun e => decide (e.1 = j) then
    sendFrame n (some (hearthStoker s n)) .relight (.holderReport r.boundary (parityFields s n)) s
  else s

/-- A contribution to the new parity of a stripe waits: the pool is empty (R299), or the frame's counters are used up (R227). -/
def parityWaits (n q : Nat) (s : State) : Option State :=
  let r := (s.part n).rl
  match r.parityNew.get q, r.pool with
  | some f, _ => if s.frameFull n f then some s else none
  | none, f :: _ => if s.frameFull n f then some s else none
  | none, [] => some (poolShort n s)

/-- A contribution enters the new parity of a stripe, in a pool frame (R300). What the frame holds of the parity is read through its checks;
where a line fails, the contribution does not enter. -/
def addParity (n q role j : Nat) (bs : List Byte) (s : State) : State :=
  let got := (s.part n).rl.parityGot.get q
  if got.any fun e => decide (e.1 = j) then s
  else
    let bs := if role = 1 then scaleBytes (gfPow j) bs else bs
    let enter (f : Nat) (sum : List Byte) (s : State) : State :=
      holderReport n ((fillFrame n f sum s).modPart n fun p => { p with rl := { p.rl with
        parityNew := p.rl.parityNew.set q (some f), parityGot := p.rl.parityGot.set q (got ++ [(j, role)]) } })
    match (s.part n).rl.parityNew.get q with
    | some f => match readChecked n (f * pageBytes) pageBytes .sweep s with
      | (s, some old) => enter f (xorBytes old bs) s
      | (s, none) => s
    | none => match takePoolFrame n s with
      | (s, some f) => enter f bs s
      | (s, none) => s

/-- A position of the partition's group is lost and has no holder. -/
def groupMisses (s : State) (n : Nat) : Bool := (List.range 8).any fun m => ((s.part n).peers.get m).lost

/-- A survivor leaves REBUILD once every stripe that it assembles is combined and sent: to WAIT where its group still misses a position, else to
FROZEN (R313, R315, R316; DEDUCED, log 109). -/
def leaveRebuild (n : Nat) (s : State) : State :=
  let r := (s.part n).rl
  match r.rebuild with
  | none => s
  | some (_, gone) =>
    let there := (List.range 8).filter fun m => decide (m ∉ gone)
    let mine (q : Nat) : Bool := decide ((there[q % there.length]?).getD (s.memberOf n) = s.memberOf n)
    if r.state = .rebuild ∧ r.role ≠ .adopted ∧ (List.range r.units).all fun q => !mine q || decide (q ∈ r.asmDone) then
      s.modPart n fun p => { p with rl := { p.rl with state := if groupMisses s n then .wait else .frozen } }
    else s

/-- The assembler sends a unit that it can combine to the position that lost it (R313). -/
def assemble (n q : Nat) (s : State) : State :=
  let r := (s.part n).rl
  match r.rebuild with
  | none => s
  | some (targets, gone) =>
    let got := r.asm.get q
    let want := (List.range 8).filter fun j => decide (j ∉ gone) && rebuildNeeds r.mode q gone j
    if want.all fun j => got.any fun e => decide (e.1 = j) then
      leaveRebuild n (targets.foldl (fun s x =>
        sendFrame n (some (s.groupPos n x)) .relight (.wpunit q 3 0 r.target (recoverUnit r.mode q x gone got)) s)
        (s.modPart n fun p => { p with rl := { p.rl with asm := p.rl.asm.set q [], asmDone := p.rl.asmDone ++ [q] } }))
    else s

/-- WPUNIT: a unit enters the parity of its stripe here (ROLE 0, 1), joins what this assembler holds (ROLE 2), or is written as a
rebuilt unit (ROLE 3) (R300, R313). A unit of a boundary that this partition has not reached waits. -/
def execWpunitFrame (n : PartId) (s : State) : Out :=
  let p := s.part n.val
  let due (f : Frame) : Bool := match f.body with
    | .wpunit _ role _ b _ =>
      if role < 2 then decide (b.toNat ≤ p.rl.boundary.toNat)
      else if role = 2 then p.rl.rebuild.isSome else true
    | _ => false
  .next (match takeFrame n.val due s with
  | some (_, f, s') => match f.body with
    | .wpunit q role _ b bs =>
      if role < 2 then
        if b ≠ p.rl.boundary ∨ p.rl.jobSealed ∨ !(if role = 0 then isPUnit q (s.memberOf n.val) else isQUnit p.rl.mode q (s.memberOf n.val)) ∨
            !isDataUnit p.rl.mode q f.src.member then s'
        else match parityWaits n.val q s with
          | some s => s
          | none => addParity n.val q role f.src.member bs s'
      else if role = 2 then
        if b ≠ p.rl.target then s'
        else assemble n.val q (s'.modPart n.val fun p => { p with rl := { p.rl with
          asm := p.rl.asm.upd q fun l => if l.any (fun e => decide (e.1 = f.src.member)) then l else l ++ [(f.src.member, bs)] } })
      else if (p.rl.state = .rebuild ∧ p.rl.role = .adopted ∨ p.ck.state = .restore ∧ s.logicalPos n.val ∈ p.rl.lostSet) ∧
          b = p.rl.target ∧ q < p.rl.units then
        let s := if q ∈ p.rl.rebuilt then s' else initFrame n.val (p.rl.first + q) s'
        (fillFrame n.val (p.rl.first + q) bs s).modPart n.val fun p => { p with rl := { p.rl with
          rebuilt := if q ∈ p.rl.rebuilt then p.rl.rebuilt else p.rl.rebuilt ++ [q] } }
      else s'
    | _ => s'
  | none => s)

/-- PARITY_HOLDER_REPORT: with the reports of all eight members the hearth stoker group-seals the boundary and tells the job stoker
(R301). Launch fields that differ from its own freeze the job (R294, R262). -/
def execParityHolderReport (n : PartId) (s : State) : Out :=
  let p := s.part n.val
  let due (f : Frame) : Bool := match f.body with | .holderReport b _ => decide (b.toNat ≤ p.rl.boundary.toNat) | _ => false
  .next (match takeFrame n.val due s with
  | some (fl, f, s) => match f.body with
    | .holderReport b fields =>
      if fields ≠ parityFields s n.val then refuseFrame fl n.val 3 s
      else if b ≠ p.rl.boundary ∨ p.rl.groupSealed ∨ !isHearthStoker s n.val ∨ f.src.member ∈ p.rl.holders then s
      else
        let holders := p.rl.holders ++ [f.src.member]
        let s := s.modPart n.val fun p => { p with rl := { p.rl with holders := holders } }
        if (List.range 8).all fun m => decide (m ∈ holders) then
          sendFrame n.val (some p.jobStoker) .relight (.sealF false b) (s.modPart n.val fun p => { p with rl := { p.rl with
            groupSealed := true, sealedAt := b } })
        else s
    | _ => s
  | none => s)

/-- Every group of the job has sealed a boundary. -/
def allSealed (s : State) (n : Nat) (b : DWord) : Bool :=
  s.jobPositions.all fun q => decide (q.member ≠ 0) || (s.part n).stk.sealedBy.any fun e => sameGroup e.1 q && decide (e.2 = b)

/-- The Relight freeze takes a partition (R311, R317): FAB_FROZEN, RL_STATE, RL_TARGET and the count. -/
def enterFreeze (n : Nat) (st : RlState) (target : DWord) (lost : List Pos) (s : State) : State :=
  s.modPart n fun p => { p with
    frozen := true
    stk := { p.stk with measuring := false }
    rl := { p.rl with
      state := st, target := target, lostSet := lost, rebuild := none, asm := Tab.const []
      count := satAdd p.rl.count 1, countOvf := p.rl.countOvf || satOvf p.rl.count 1 } }

/-- The boundary of a handback is job-sealed: the job is held there (R317), and the adopted standby hands ADOPT to the module at the
cabled place of its position. -/
def handbackHold (n : Nat) (b : DWord) (s : State) : State :=
  let p := s.part n
  if p.rl.holdAt ≠ some b ∨ p.rl.boundary ≠ b ∨ !p.rl.jobSealed ∨ p.rl.state = .withdrawn then s
  else match p.rl.handPos with
  | none => s
  | some pos =>
    let s := enterFreeze n .frozen b [pos] s
    let s := if isJobStoker s n then s.modPart n fun p => { p with stk := { p.stk with target := some b } } else s
    if s.logicalPos n = pos ∧ s.ownPos.member = 8 then
      let fr : Frame := { epoch := p.epoch, lineage := p.tree.lineage, step := p.step.count, src := pos, dst := some pos
                          vc := .relight, body := .adopt pos (some b) p.epoch }
      enqueueFrame (usePair s (meshFlue s pos.member 0)) n fr s
    else s

/-- SEAL: a group seal goes to the job stoker, which with one from every group broadcasts the job seal; a job seal returns the
frames of the version before to the pool and lets a held boundary go (R301, R302). -/
def execSealFrame (n : PartId) (s : State) : Out :=
  let p := s.part n.val
  let due (f : Frame) : Bool := match f.body with
    | .sealF true b => decide (b.toNat ≤ p.rl.boundary.toNat) || decide (p.rl.role = .standby)
    | .sealF false _ => true
    | _ => false
  .next (match takeFrame n.val due s with
  | some (_, f, s) => match f.body with
    | .sealF false b =>
      if !isJobStoker s n.val then sendFrame n.val (some p.jobStoker) .relight (.sealF false b) s
      else
        let s := s.modPart n.val fun p => { p with stk := { p.stk with
          sealedBy := if (f.src, b) ∈ p.stk.sealedBy then p.stk.sealedBy else p.stk.sealedBy ++ [(f.src, b)] } }
        if allSealed s n.val b && decide ((s.part n.val).stk.jobSealed ≠ some b) then
          let s := ckAnnounce n.val s
          let s := s.modPart n.val fun p => { p with stk := { p.stk with
            jobSealed := some b, sealedBy := p.stk.sealedBy.filter fun e => decide (e.2 ≠ b) } }
          sendFrame n.val none .relight (.sealF true b) s
        else s
    | .sealF true b => tryRelease n.val (handbackHold n.val b (jobSeal n.val b s))
    | _ => s
  | none => s)

/-! ### The input mirror -/

/-- MIRROR: an input write is copied to the mirror area and acknowledged; what the mirror peer sends to an adopting position is a copy of that
position's own slot (R314; DESIGN CHOICE, log 110: the rule names no frame); an acknowledgement counts towards the host commands that
wait for it (R304). -/
def execMirrorFrame (n : PartId) (s : State) : Out :=
  .next (match takeFrame n.val (fun f => match f.body with | .mirror _ _ _ => true | .mirrorAck _ _ => true | _ => false) s with
  | some (_, f, s) => match f.body with
    | .mirror slot off bs =>
      let r := (s.part n.val).rl
      if r.role = .adopted ∧ r.state = .rebuild ∧ f.src.member = (s.memberOf n.val + 1) % 8 then
        s.modPart n.val fun p => { p with rl := { p.rl with slotCopies := p.rl.slotCopies ++ [(slot, off, bs)] } }
      else
      let s := writeFrames n.val r.mirrorFrames (slot * r.inSlotBytes.toNat + off) bs s
      sendFrame n.val (some f.src) .relight (.mirrorAck slot off) s
    | .mirrorAck slot off =>
      let s := s.modPart n.val fun p => { p with rl := { p.rl with mirrorWait := p.rl.mirrorWait.erase (slot, off) } }
      let r := (s.part n.val).rl
      if r.mirrorWait.isEmpty then
        r.mirrorCmds.foldl (fun s (ring, b, moved) => completeCmd (n.val + 1) ring b 0 0 moved s)
          (s.modPart n.val fun p => { p with rl := { p.rl with mirrorCmds := [] } })
      else s
    | _ => s
  | none => s)

/-! ### Losses -/

/-- A standby of the group can adopt (R316): it is heard, and it has adopted no position. -/
def standbyFree (s : State) (n : Nat) : Bool :=
  let p := s.part n
  (p.peers.get 8).alive && !(p.peers.get 8).lost && p.adoptPos.isNone && !p.routes.any fun q => sameGroup q s.ownPos

/-- The outcome of a number of losses in one group (Table 13.8). -/
def lossOutcome (mode lost : Nat) (standby : Bool) : RlState :=
  if mode < lost then .fallback else if lost ≤ (if standby then 1 else 0) then .frozen else .wait

/-- Some position adopted in a neighbouring group has its traffic pass this group's standby (R269). -/
def standbyForwards (s : State) (n : Nat) : Bool :=
  (s.part n).routes.any fun q => !sameGroup q s.ownPos &&
    (List.range 4).any fun d => sameGroup (s.neighbour s.ownPos d 0) q || sameGroup (s.neighbour s.ownPos d 1) q

/-- The hearth stoker declares a peer lost (R308, R315, R316, R318): the soot entry and the event; LOSS to the job stoker, whose place
this partition takes where that is the one lost; ADOPT to the lost holder, and to the standby where the group's losses allow. The
loss of a standby matters only where it forwards. -/
def declareLost (n m : Nat) (s : State) : State :=
  let p := s.part n
  let pos := s.groupPos n m
  let free := standbyFree s n
  let s := s.modPart n fun p => { p with
    peers := p.peers.upd m fun q => { q with alive := false, lost := true }
    rl := { p.rl with lostPos := some pos } }
  let s := relightRecord n (relightSoot 0x50 n pos p.rl.boundary 0 s)
  let sealedB := if p.rl.groupSealed then some p.rl.boundary else none
  if m = 8 then (if standbyForwards s n then sendFrame n (some p.jobStoker) .relight (.loss 8 sealedB) s else s)
  else
    let lost := p.rl.losses + 1
    let s := s.modPart n fun p => { p with rl := { p.rl with losses := lost } }
    let s := if pos = p.jobStoker then becomeStoker n s else s
    let s := sendFrame n (some (s.part n).jobStoker) .relight (.loss m sealedB) s
    let held := decide (p.rl.state ≠ rlRunning p.rl.mode)
    let target := if held then some p.rl.target else none
    let epoch := if held then p.epoch else p.epoch + 1
    let s := sendFrame n (some pos) .relight (.adopt pos target epoch) s
    let lowest := (List.range m).all fun k => !(p.peers.get k).lost
    match lossOutcome p.rl.mode lost free with
    | .fallback =>
      let s := s.modPart n fun p => { p with rl := { p.rl with state := if held then .fallback else p.rl.state } }
      relightRecord n (relightSoot 0x53 n pos p.rl.boundary 0 s)
    | _ => if free && lowest then sendFrame n (some (s.groupPos n 8)) .relight (.adopt pos target epoch) s else s

/-- A peer is heard no more, or has withdrawn: the hearth stoker, which a member becomes when those before it are silent, declares the
loss (R308). -/
def peerSilent (n m : Nat) (s : State) : State :=
  let s := s.modPart n fun p => { p with peers := p.peers.upd m fun q => { q with alive := false } }
  if isHearthStoker s n && !((s.part n).peers.get m).lost && decide ((s.part n).rl.state ≠ .withdrawn) then declareLost n m s else s

/-- HEARTBEAT_TIMEOUT: no heartbeat of a peer for 40 µs (R308); with every peer silent the partition withdraws (R309). -/
def execHeartbeatTimeout (n : PartId) (m : Fin 9) (s : State) : Out :=
  let p := s.part n.val
  let watches := s.inService && (p.hasLc || decide (p.rl.role = .standby)) && decide (p.rl.state ≠ .withdrawn) &&
    decide (m.val ∈ hearthPeers s n.val)
  .next (if !watches then s
    else if (hearthPeers s n.val).all fun k => decide (k = m.val) || !(p.peers.get k).alive then
      withdraw n.val 0 (s.modPart n.val fun p => { p with peers := p.peers.upd m.val fun q => { q with alive := false } })
    else peerSilent n.val m.val s)

/-- WITHDRAW: a peer has withdrawn (R308). -/
def execWithdrawFrame (n : PartId) (s : State) : Out :=
  .next (match takeFrame n.val (fun f => match f.body with | .withdraw _ => true | _ => false) s with
  | some (_, f, s) => peerSilent n.val f.src.member s
  | none => s)

/-- The target of a freeze (R310): the parity boundary after the newest job-sealed one where every group with a loss has sealed it,
else the newest job-sealed one. -/
def freezeTarget (s : State) (n : Nat) : DWord :=
  let p := s.part n
  let j := p.stk.jobSealed.getD p.rl.jsealedAt
  let b := BitVec.ofNat 64 (nextParity p.rl.interval j.toNat)
  let sealedIt (l : Pos × Option DWord) : Bool :=
    decide (l.2 = some b) || p.stk.sealedBy.any fun e => sameGroup e.1 l.1 && decide (e.2 = b)
  if p.stk.losses.all sealedIt then b else j

/-- LOSS: the job stoker chooses the target, advances the epoch and broadcasts RFREEZE (R310); a loss that comes during a freeze joins
it (R319). The epoch that is full freezes the job (R444). The loss of a forwarding standby freezes it too (R318). A LOSS that names
its own sender is a replacement's request for handback (R317; DESIGN CHOICE, log 27). -/
def execLossFrame (n : PartId) (s : State) : Out :=
  .next (match takeFrame n.val (fun f => match f.body with | .loss _ _ => true | _ => false) s with
  | some (_, f, s) => match f.body with
    | .loss m sealedB =>
      let p := s.part n.val
      let k := p.stk
      let pos := { f.src with member := m }
      if !isJobStoker s n.val then sendFrame n.val (some p.jobStoker) .relight (.loss m sealedB) s
      else if m = 8 then sendFrame n.val none .ctrl (.freeze true) s
      else if f.src = pos then
        if k.target.isSome ∨ !k.losses.isEmpty ∨ !hasSpan s n.val then s
        else
          let t := BitVec.ofNat 64 (nextParity p.rl.interval p.rl.boundary.toNat)
          sendFrame n.val none .relight (.rfreeze p.epoch t [pos])
            (s.modPart n.val fun p => { p with stk := { p.stk with losses := [(pos, none)], resumed := [] } })
      else
        let s := s.modPart n.val fun p => { p with stk := { p.stk with
          losses := (p.stk.losses.filter fun l => decide (l.1 ≠ pos)) ++ [(pos, sealedB)]
          resumed := p.stk.resumed.filter fun q => decide (q ≠ pos), measuring := false } }
        let t := freezeTarget s n.val
        let lost := (s.part n.val).stk.losses.map (·.1)
        let s' := s.modPart n.val fun p => { p with stk := { p.stk with target := some t } }
        if k.target.isSome then sendOrder n.val k.epoch (.rfreeze k.epoch t lost) s'
        else if k.epoch.toNat = 2 ^ 32 - 1 then sendOrder n.val k.epoch (.abort true 5 k.epoch p.step.count pos) s
        else sendOrder n.val k.epoch (.rfreeze (k.epoch + 1) t lost)
          (s'.modPart n.val fun p => { p with stk := { p.stk with epoch := k.epoch + 1 } })
    | _ => s
  | none => s)

/-! ### The freeze -/

/-- Adoption notices of a freeze (R269): in each group the lowest position that it names, which is the one that a standby adopts. -/
def adoptionNotices (s : State) (n : Nat) (lost : List Pos) : List Pos :=
  let lowest := lost.filter fun q => lost.all fun r => !sameGroup q r || decide (q.member ≤ r.member)
  let mine (q : Pos) : Bool := sameGroup q (s.logicalPos n)
  (lowest.filter fun q => !mine q || standbyFree s n || decide (s.ownPos.member = 8)).filter fun q =>
    decide (q ∉ (s.part n).routes) && decide (q ∉ (s.part n).notices)

/-- The parity of the partition's group is whole again within the freeze in force: what the freeze lost of it has been rebuilt (R314, R316). -/
def groupWhole (s : State) (n : Nat) : Bool :=
  let r := (s.part n).rl
  let own := s.logicalPos n
  !(r.lostSet.any fun q => sameGroup q own) ||
    ((r.rebuild.isSome || decide (own ∈ r.lostSet)) && decide (r.state ≠ .rebuild) && decide (r.state ≠ .adopting) && !groupMisses s n)

/-- A partition learns which positions of its group are lost (R310, R313), and counts the losses from the moment its parity was last complete (R316). -/
def noteLosses (n : Nat) (lost : List Pos) (s : State) : State :=
  let r := (s.part n).rl
  let own := s.logicalPos n
  let new := lost.filter fun q => sameGroup q own && !(groupWhole s n && decide (q ∈ r.lostSet))
  s.modPart n fun p => { p with
    peers := new.foldl (fun t q => if q = own then t else t.upd q.member fun h => { h with alive := false, lost := true }) p.peers
    rl := { p.rl with losses := max (if groupWhole s n then 0 else r.losses) new.length } }

/-- The adoption notices of a freeze are noted (R269); a handback, which has no loss, brings none. -/
def noteAdoptions (n : Nat) (e : Word) (lost : List Pos) (s : State) : State :=
  s.modPart n fun p => { p with
    notices := p.notices ++ (if e = p.epoch ∧ p.rl.state = .run then [] else adoptionNotices s n lost) }

/-- A standby notes the target and the epoch of a freeze (R306); an adopted position takes them, and its rebuild starts again (R319). -/
def standbyFreeze (n : Nat) (e : Word) (t : DWord) (lost : List Pos) (s : State) : State :=
  let p := s.part n
  let s := s.modPart n fun p => { p with
    epoch := e
    rl := { p.rl with
      target := t, lostSet := lost, rebuilt := [], slotCopies := []
      state := if p.rl.role = .adopted then .rebuild else p.rl.state
      adopting := p.rl.adopting.map fun a => (a.1, some t, e) } }
  if p.rl.role = .standby then s
  else ((List.range 16).filter fun g => decide ((s.flues.get g).state = .run)).foldl (fun s g => sendOpen g n s)
    (s.modPart n fun p => { p with step := { p.step with count := t } })

/-- An order that names a boundary to come, without a new epoch: the job is held there for a handback (R317). -/
def handbackOrder (n : Nat) (t : DWord) (lost : List Pos) (s : State) : State :=
  let s := s.modPart n fun p => { p with rl := { p.rl with holdAt := some t, handPos := lost.head? } }
  if t = (s.part n).rl.boundary then handbackHold n t (pauseClass n false (s.modPart n fun p => { p with pauseLc := true })) else s

/-- A partition of the job returns to the target, takes the epoch, and holds (R311); a lower target of the same freeze reverts it again (R319). -/
def takeFreeze (n : Nat) (e : Word) (t : DWord) (lost : List Pos) (x : Context) (s : State) : State :=
  let s := noteLosses n lost s
  let p := s.part n
  let gone := if lost.any fun q => sameGroup q (s.logicalPos n) then p.rl.losses else 0
  let st := if gone = 0 then .frozen else lossOutcome p.rl.mode gone (standbyFree s n)
  let older := decide (t.toNat < p.rl.boundary.toNat)
  if e = p.epoch then
    (if older then replayFrom n e true true false x s else s).modPart n fun p => { p with rl := { p.rl with
      state := st, target := t, lostSet := lost, rebuild := none, asm := Tab.const [] } }
  else enterFreeze n st t lost (replayFrom n e older true (decide (gone = 0)) x s)

/-- RFREEZE: a partition of the job enters the freeze (R311), or takes a handback's order (R317). A context without a span is lost (R466); a standby
notes target and epoch (R306). -/
def execRfreezeFrame (n : PartId) (s : State) : Out :=
  .next (match takeFrame n.val (fun f => match f.body with | .rfreeze _ _ _ => true | _ => false) s with
  | some (_, f, s) => match f.body with
    | .rfreeze e t lost =>
      let s := noteAdoptions n.val e lost s
      let p := s.part n.val
      if p.rl.state = .withdrawn ∨ p.prot.halted then s
      else if p.rl.role = .standby ∨ p.rl.role = .adopted ∧ (p.rl.state = .rebuild ∨ s.logicalPos n.val ∈ p.rl.lostSet ∧ t.toNat < p.rl.target.toNat) then
        standbyFreeze n.val e t lost s
      else match lcJob s n.val with
      | none => takeEpoch n.val e s
      | some x =>
        if x.launch.wpUnits = 0 then takeEpoch n.val e (loseContext n.val false none 5 s)
        else if e = p.epoch ∧ p.rl.state = .run then handbackOrder n.val t lost s
        else takeFreeze n.val e t lost x s
    | _ => s
  | none => s)

/-! ### Adoption -/

/-- A context of a pre-empted tenant is lost with cause RELIGHT_PREEMPT (R312): with its threads and work where it holds its class. -/
def preemptCtx (n c : Nat) (s : State) : State :=
  match (s.part n).ctx c with
  | none => s
  | some x =>
    if x.st = .lost then s
    else if (s.part n).running x.launch.be = some c then loseContext n x.launch.be none 3 s
    else
      let h := ctxHandle (s.part n) n c
      partRecord n { kind := 3, status := 0, detail := 3, tag := BitVec.ofNat 32 h, arg := BitVec.ofNat 64 h, exc := x.exc }
        (s.modPart n (Part.modCtx c fun x => { x with st := .lost }))

/-- A standby's partition begins to adopt a position (R312): its best-effort tenant is pre-empted and removed, and the job's draught
mode is staged (R50). The rule names no DRAUGHT_FORGE_MASK for it: the mask in force stays (DESIGN CHOICE, log 85). -/
def adoptStart (n : Nat) (pos : Pos) (target : Option DWord) (epoch : Word) (s : State) : State :=
  let p := s.part n
  let target := target.or (if p.epoch = epoch ∧ epoch ≠ 0 then some p.rl.target else none)
  let s := if p.adm.state = .empty ∧ !p.hasCtx then s
    else removeTenantStart n 3 none ((p.ctxs.items.filter fun e => e.2.obj.isSome).foldl (fun s e => preemptCtx n e.1 s) s)
  let mode : Draught := match p.rl.jobDraught with | 0 => .full | 1 => .forge | 2 => .flue | _ => .banked
  let s := { s with power := { s.power with relightStage := some (mode, s.power.maskCur) } }
  let s := s.modPart n fun q => { q with
    epoch := epoch
    rl := { q.rl with
      state := .adopting, role := .standby, adopting := some (pos, target, epoch), lostSet := p.rl.lostSet
      target := target.getD p.rl.target, jsealedAt := p.rl.jsealedAt, rebuilt := [] } }
  relightRecord n (relightSoot 0x51 n pos (target.getD 0) 0 s)

/-- ADOPT: the standby begins to adopt; the lost holder withdraws (R309, R312). A lower position named while the standby is still
adopting takes the place of the first (Table 13.8). -/
def execAdoptFrame (n : PartId) (s : State) : Out :=
  .next (match takeFrame n.val (fun f => match f.body with | .adopt _ _ _ => true | _ => false) s with
  | some (_, f, s) => match f.body with
    | .adopt pos target epoch =>
      let p := s.part n.val
      if p.rl.role ≠ .standby then (if pos = s.logicalPos n.val then withdraw n.val 1 s else s)
      else if p.rsv.state ≠ .admitted ∨ p.rsvJob.isNone ∨ !sameGroup pos s.ownPos ∨ (s.ownPos.member ≠ 8 ∧ pos ≠ s.ownPos) then s
      else match p.rl.state with
        | .banked => adoptStart n.val pos target epoch s
        | .adopting => s.modPart n.val fun p => { p with rl := { p.rl with adopting := p.rl.adopting.map fun a =>
            if pos.member < a.1.member then (pos, target.or a.2.1, epoch) else a } }
        | _ => s
    | _ => s
  | none => s)

/-- The lowest index that can take a new context. -/
def freeCtx (p : Part) : Option Nat := firstUsable p.ctxs ctxGenMax 1024

/-- A context object of a launch record and image (R410, R412). -/
def newContext (st : CtxState) (owner : Word) (r : Launch) (image : List Byte) (meas : Digest) (frames : List Nat) : Context :=
  { st := st, owner := owner, launch := r, image := image, meas := meas, exc := none, saveFrames := frames
    queues := Tab.const none, util := utilFresh, mem := memRecFresh }

/-- What the reservation of an adopted position becomes (R312): its keys are the job's, its admission fields the partition's. -/
def adoptReservation (n : Nat) (pos : Pos) (pk : Digest) (s : State) : State :=
  let job := slotKey s (slotRsv n)
  let s := clearSlot (slotRsv n) (setSlot (slotJob n) job (setSlot (slotPk n) pk s))
  s.modPart n fun q => { q with
    adm := q.rsv, rsv := admFresh, rsvJob := none
    adoptPos := if pos = s.ownPos then none else some pos
    routes := if pos = s.ownPos then q.routes.filter fun x => decide (x ≠ pos) else q.routes ++ [pos]
    notices := q.notices.filter fun x => decide (x ≠ pos)
    prot := q.prot.newKeys }

/-- The job's context of an adopted position is installed, its step count is the target, and the mesh sub-channels are opened (R312);
`old` is the recovery as it stood. The target is job-sealed unless the last boundary that the standby heard sealed is the one before it (R310; DEDUCED,
log 106). -/
def adoptInstall (n c : Nat) (pos : Pos) (t : DWord) (e : Word) (old : Relight) (s : State) : State :=
  let records := (s.part n).stk.records
  let job := decide (nextParity old.interval old.jsealedAt.toNat ≠ t.toNat)
  let s := installCtx n c s
  let s := s.modPart n fun q => { q with
    epoch := e, frozen := true, pauseLc := true
    step := { q.step with count := t }
    stk := { q.stk with records := records, epoch := e }
    rl := { q.rl with
      state := .rebuild, role := .adopted, target := t, boundary := t, sealedAt := t
      jsealedAt := if job then t else old.jsealedAt, jobSealed := job
      lostSet := old.lostSet, jobDraught := old.jobDraught, adopting := none } }
  ((List.range (if pos = s.ownPos then 32 else 16)).filter fun g => decide ((s.flues.get g).state = .run)).foldl
    (fun s g => sendOpen g n s) s

/-- The frames of a job's span and pool are set aside before the device takes any (R299, R312). -/
def setAside (n : Nat) (r : Launch) (s : State) : State :=
  s.modPart n fun p => { p with mem := { p.mem with
    frames := r.pool.foldl (fun t f => t.set f .cow) ((List.range r.wpUnits).foldl (fun t q => t.set (r.wpFirst + q) .mapped) p.mem.frames) } }

/-- The context of an adopted position takes the lowest free handle and its frames (R312). -/
def adoptContext (n : Nat) (pos : Pos) (t : DWord) (e : Word) (j : RsvJob) (old : Relight) (s : State) : State :=
  match freeCtx (s.part n) with
  | none => s
  | some c => match takeFrames n (saveCount j.image + mirrorCount j.launch) (setAside n j.launch s) with
    | none => s
    | some (fs, s) => adoptInstall n c pos t e old (s.modPart n fun q => { q with
        ctxs := q.ctxs.upd c fun h => { h with obj := some (newContext .ready 0 j.launch j.image j.meas fs) } })

/-- ADOPT_CONTEXT_READY: the reservation's keys and memory keys are in place, the job's context exists with the lost member's position,
and the mesh sub-channels are opened (R312). The rebuild starts. -/
def execAdoptContextReady (n : PartId) (s : State) : Out :=
  let p := s.part n.val
  .next (match p.rl.adopting, p.rsvJob with
  | some (pos, some t, e), some j =>
    if p.rl.state ≠ .adopting ∨ p.removing.isSome then s
    else match freshKey s with
    | (s, none) => s
    | (s, some pk) => adoptContext n.val pos t e j { p.rl with interval := j.launch.wpInterval } (adoptReservation n.val pos pk s)
  | _, _ => s)

/-- A survivor sends every unit that a recovery needs to its assembler (R313): the unit comes from `unit`. -/
def sendUnits (n : Nat) (gone : List Nat) (unit : Nat → State → State × Option (List Byte)) (s : State) : State :=
  let r := (s.part n).rl
  let me := s.memberOf n
  let there := (List.range 8).filter fun m => decide (m ∉ gone)
  (List.range r.units).foldl (fun s q =>
    let asm := (there[q % there.length]?).getD me
    if !rebuildNeeds r.mode q gone me then s
    else match unit q s with
      | (s, none) => s
      | (s, some bs) =>
        if asm = me then
          assemble n q (s.modPart n fun p => { p with rl := { p.rl with asm := p.rl.asm.upd q fun l => l ++ [(me, bs)] } })
        else sendFrame n (some (s.groupPos n asm)) .relight (.wpunit q 2 0 r.target bs) s) s

/-- A survivor starts its part in the rebuild of member `x` (R313): every unit that a recovery needs goes to its assembler, a parity unit of a target
that is not job-sealed from the parity accumulated for it (R300). -/
def startRebuild (n x : Nat) (s : State) : State :=
  let p := s.part n
  let others := (p.rl.lostSet.filter fun q => sameGroup q (s.logicalPos n) && (p.peers.get q.member).lost).map (·.member)
  let gone := x :: others.filter fun m => decide (m ≠ x)
  let s := s.modPart n fun p => { p with
    peers := p.peers.upd x fun q => { q with alive := true, lost := false }
    rl := { p.rl with state := .rebuild, rebuild := some ([x], gone), asm := Tab.const [], asmDone := [] } }
  let held (s : State) (q : Nat) : Nat := (if p.rl.jobSealed then none else (s.part n).rl.parityNew.get q).getD ((s.part n).rl.keptFrame q)
  leaveRebuild n (sendUnits n gone (fun q s => readHbm n (held s q * pageBytes) pageBytes .outside s) s)

/-- Send pages of the live input slots to member `m`: the frame of page `i` of a slot is `at_ slot i`, read through the checks; what fails them does not
go. -/
def sendSlots (n m : Nat) (at_ : Nat → Nat → Option Nat) (s : State) : State :=
  let p := s.part n
  (liveSlots p).foldl (fun s slot =>
    (List.range (slotPages p slot).length).foldl (fun s i =>
      match at_ slot i with
      | none => s
      | some f => match readChecked n (f * pageBytes) pageBytes .sweep s with
        | (s, some bs) => sendFrame n (some (s.groupPos n m)) .relight (.mirror slot (i * pageBytes) bs) s
        | (s, none) => s) s) s

/-- A member mirrors its live input slots again, for a new holder of its mirror area (R314). -/
def remirror (n : Nat) (s : State) : State :=
  let p := s.part n
  sendSlots n ((s.memberOf n + 1) % 8) (fun slot i =>
    match p.translate (((slotPages p slot)[i]?).getD 0 * pageBytes) false with
    | .frame f => some (p.liveFrame f)
    | _ => none) s

/-- The mirror peer sends an adopting position its live input slots (R314), from its mirror area. -/
def returnSlots (n m : Nat) (s : State) : State :=
  let r := (s.part n).rl
  sendSlots n m (fun slot i => r.mirrorFrames[slot * (r.inSlotBytes.toNat / pageBytes) + i]?) s

/-- What an accepted OPEN of an adopted position means to a survivor of a frozen group (R269, R313, R314): traffic for the position goes
to its new holder, and the rebuild starts. -/
def adoptedOpens (f n : Nat) (pos : Pos) (s : State) : State :=
  let p := s.part n
  let byStandby := decide ((cabledPeer s f).1.member = 8)
  let s := s.modPart n fun p => { p with
    routes := if byStandby then (if pos ∈ p.routes then p.routes else p.routes ++ [pos]) else p.routes.filter fun q => decide (q ≠ pos)
    notices := p.notices.filter fun q => decide (q ≠ pos) }
  let takes := sameGroup pos (s.logicalPos n) && decide (pos ≠ s.logicalPos n) && decide (pos ∈ p.rl.lostSet) && p.frozen && hasSpan s n &&
    decide (p.rl.state ≠ .withdrawn)
  if !takes || decide (p.rl.rebuild.map (·.1) = some [pos.member]) then s
  else
    let s := startRebuild n pos.member s
    let s := if (s.memberOf n + 1) % 8 = pos.member then remirror n s else s
    if s.memberOf n = (pos.member + 1) % 8 then returnSlots n pos.member s else s

/-- OPEN: the peer's job fingerprint is compared (R261): agreeing, the sub-channel opens once the own OPEN has gone too, and
where it ends a quarantine the job stoker is told (R262); disagreeing, it is refused. It waits while no job is loaded. The job's draught mode
that a standby will stage (R50) is that of the last OPEN it accepted from a holder of a position (DEDUCED, log 87), and its epoch follows that
OPEN's too. -/
def execOpenFrame (n : PartId) (s : State) : Out :=
  .next (if !expectsTraffic s n.val then s
    else match takeFrame n.val (fun f => match f.body with | .openF _ => true | _ => false) s with
    | some (f, fr, s) =>
      match fr.body with
      | .openF b =>
        if !openAgrees s f n.val b then refuseFrame f n.val 3 s
        else
          let s := if ((s.flues.get f).subs.get n.val).told then s else sendOpen f n.val s
          let quar := (s.flues.get f).quarPart.getLsbD n.val
          let was := ((s.flues.get f).subs.get n.val).opened
          let s := s.modFlue f fun u => { u with subs := u.subs.upd n.val fun c => { c with opened := !quar, peerRole := b.role } }
          let p := s.part n.val
          let s := if p.rl.role = .standby ∧ b.role ≠ .standby then
              s.modPart n.val fun p => { p with epoch := if p.epoch.toNat < b.epoch.toNat then b.epoch else p.epoch, rl := { p.rl with jobDraught := b.draught } }
            else s
          if b.role = .adopted then adoptedOpens f n.val b.pos s
          else if p.frozen && (decide (p.rl.state = .run) || decide (p.rl.state = .off)) && !quar && !was then
            sendFrame n.val (some (hearthStoker s n.val)) .ctrl (.quarReport f 0) s
          else s
      | _ => s
    | none => s)

/-! ### The end of the rebuild -/

/-- Map one page record of an image (R314): a span unit's frame, or a fresh page. -/
def mapRecord (n : Nat) (img : List Byte) (off : Nat) (s : State) : State :=
  let k := leAt img off 4 % 2 ^ 27
  let flags := leAt img (off + 8) 4
  let f := leAt img (off + 12) 4
  let span := flags.testBit 2
  let e : Page := { w := flags.testBit 0, pin := flags.testBit 1, mobj := BitVec.ofNat 32 (leAt img (off + 4) 4), busy := .idle
                    loc := if span then .frame f else .banked 0xFFFFFF }
  match addLeaves n (newLeaves (s.part n).mem k 1) s with
  | none => s
  | some s => setPage n k (some e) (s.modPart n fun p => { p with mem := { p.mem with
      frames := if span then p.mem.frames.set f .mapped else p.mem.frames } })

/-- Map every page record of an image. -/
def mapRecords (n : Nat) (img : List Byte) (s : State) : State :=
  let nsct := leAt img 16 4
  (List.range (leAt img 20 4)).foldl (fun s i => mapRecord n img (17440 + 32 * nsct + 16 * i) s) s

/-- Write the pages of an input slot into free frames, each initialised before its entry (R226, R314). -/
def writeSlot (n : Nat) : List Nat → List Byte → State → State
  | [], _, s => s
  | k :: ks, bs, s =>
    let s := match takeFrames n 1 s, (s.part n).mem.pages.get k with
      | some (f :: _, s), some e => setPage n k (some { e with loc := .frame f }) ((fillFrame n f (bs.take pageBytes) (initFrame n f s)).modPart n fun p =>
          { p with mem := { p.mem with frames := p.mem.frames.set f .mapped } })
      | _, _ => s
    writeSlot n ks (bs.drop pageBytes) s

/-- The bytes of a live slot that the mirror peer has sent, once every page of it is here. -/
def slotCopy (p : Part) (slot : Nat) : Option (List Byte) :=
  (List.range (slotPages p slot).length).foldl (fun (acc : Option (List Byte)) i =>
    match acc, p.rl.slotCopies.find? fun e => decide (e.1 = slot) && decide (e.2.1 = i * pageBytes) with
    | some bs, some e => some (bs ++ e.2.2)
    | _, _ => none) (some [])

/-- The rebuilt image is applied: the page records, the heaps and the live input slots with it, and RESUME goes out (R314). It waits for the
mirror peer's copies of the slots; where the mirror peer is lost too, the host must write the slots again (R316). -/
def rebuildEnd (n c : Nat) (s : State) : State :=
  let p := s.part n
  let s0 := s
  let img := keptImage s n
  let s := mapRecords n img (startThreads n c true (applyImage n img s))
  let s := loadHeaps n s
  let live := liveSlots (s.part n)
  let m := (s.memberOf n + 1) % 8
  let unmirrored := decide (s.groupPos n m ∈ p.rl.lostSet) && !(p.peers.get m).alive
  if !unmirrored && live.any (fun k => (slotCopy (s.part n) k).isNone) then s0
  else
  let s := if unmirrored then s
    else live.foldl (fun s k => writeSlot n (slotPages (s.part n) k) ((slotCopy (s.part n) k).getD []) s) s
  let wait := unmirrored && !live.isEmpty
  let s := s.modPart n fun q => { q with rl := { q.rl with
    state := if wait then .wait else .frozen
    rebuilt := [], slotCopies := [], inputWait := wait
    inputNeed := if wait then live.flatMap (slotPages q) else [] } }
  if wait then s else sendFrame n (some (hearthStoker s n)) .relight .resume s

/-- REBUILD_DONE: every unit is written, and the position takes up its image (R314), whose lines pass their checks (R229); `flips` are outside
changes to its HBM before it. Where a line fails, the consequence is met and the rebuild has not ended (DEDUCED, log 111). -/
def execRebuildDone (n : PartId) (flips : List LineFlip) (s : State) : Out :=
  let s := strikeLines n.val flips s
  let p := s.part n.val
  .next (match p.runLc with
  | some c =>
    if p.rl.state ≠ .rebuild ∨ p.rl.role ≠ .adopted ∨ !((List.range p.rl.units).all fun q => decide (q ∈ p.rl.rebuilt)) then s
    else match imageChecked n.val s with
      | (s, false) => s
      | (s, true) => rebuildEnd n.val c s
  | none => s)

/-- RESUME: the hearth stoker passes it on, and with no position of its group missing the parity is complete and counts losses afresh (R314, R316);
the job stoker releases the freeze once it holds one for every loss and routing is complete
(R314). -/
def execResumeFrame (n : PartId) (s : State) : Out :=
  .next (match takeFrame n.val (fun f => decide (f.body = .resume)) s with
  | some (_, f, s) =>
    let p := s.part n.val
    let s := if isHearthStoker s n.val && sameGroup f.src (s.logicalPos n.val) && !groupMisses s n.val then
        s.modPart n.val fun p => { p with rl := { p.rl with losses := 0 } }
      else s
    if p.rl.state = .withdrawn ∨ p.prot.halted then s
    else if !isJobStoker s n.val then
      let fr : Frame := { f with dst := some p.jobStoker }
      { s with outHold := s.outHold ++ [(n.val, fr)] }
    else
      let pos := f.src
      stokerFreeze n.val (s.modPart n.val fun p => { p with stk := { p.stk with
        resumed := if pos ∈ p.stk.resumed then p.stk.resumed else p.stk.resumed ++ [pos] } })
  | none => s)

/-- The standby returns to BANKED with its reservation once its position is handed back (R317). -/
def returnToBanked (n : Nat) (s : State) : State :=
  let p := s.part n
  match p.runCtx false with
  | none => s
  | some x =>
    let job := slotKey s (slotJob n)
    let rsvJob : RsvJob := { launch := x.launch, image := x.image, meas := x.meas, lineage := p.tree.digest }
    let s := setSlot (slotRsv n) job s
    let s := s.modPart n fun q => { q with rsv := p.adm, rsvJob := some rsvJob }
    let s := (destroyTenantKeys n s).mapEmbers n Ember.scrub
    s.modPart n fun q => { q.empty with
      routes := q.routes.filter fun r => decide (r ≠ s.logicalPos n)
      rl := { q.empty.rl with jsealedAt := p.rl.jsealedAt } }

/-- FREEZE_RELEASE: the release of a Relight freeze reaches a partition (R314, R317): it leaves FROZEN and replays from the target, or
goes on from the boundary of a handback. `us` is the time since RFREEZE arrived. -/
def execFreezeRelease (n : PartId) (us : Word) (s : State) : Out :=
  .next (match takeFrame n.val (fun f => match f.body with | .freezeRelease _ => true | _ => false) s with
  | some (_, _, s) =>
    let p := s.part n.val
    let mine := decide (p.rl.handPos = some (s.logicalPos n.val)) && decide (s.ownPos.member = 8)
    if p.rl.state = .withdrawn ∨ !p.frozen then s
    else if p.rl.role = .standby then s
    else if mine then relightRecord n.val (returnToBanked n.val s)
    else
      let s := s.modPart n.val fun p => { p with
        frozen := false
        stk := { p.stk with target := none, losses := [], resumed := [] }
        rl := { p.rl with
          state := rlRunning p.rl.mode, lastUs := us, losses := 0, rebuild := none, asm := Tab.const [], holdAt := none, handPos := none
          lostSet := [], routeLost := false } }
      let s := if s.posCode (s.logicalPos n.val) < s.posCode p.jobStoker ∧ p.rl.role = .adopted then becomeStoker n.val s else s
      tryRelease n.val (resumeLc n.val s)
  | none => s)

/-- A write of 1 to RL_HANDBACK at a replacement asks for its position (R317). -/
def rlHandback (n : Nat) (s : State) : State :=
  let p := s.part n
  if p.rl.role ≠ .standby ∨ p.rl.state ≠ .banked ∨ s.ownPos.member = 8 then s
  else
    let s := s.modPart n fun p => { p with rl := { p.rl with handback := true } }
    let s := relightRecord n (relightSoot 0x54 n s.ownPos p.rl.target 0 s)
    sendFrame n (some p.jobStoker) .relight (.loss s.ownPos.member none) s

/-- RL_HANDBACK. -/
def execRlHandback (n : PartId) (s : State) : Out := .next (rlHandback n.val s)

end Sys2Proof.Machine
end

