-- ==== Sys2Proof/Machine/Restore.lean ====
section
/-! DEFINITION. The restore of a job from checkpoints (R342 to R345, R361). -/

namespace Sys2Proof.Machine

/-- A record of a generation fits the lineage of the job that restores (R342, R344): its own, or the parent's at CK_STEP = START_STEP. -/
def lineageFits (s : State) (n : Nat) (d : Digest) (step : Nat) : Bool :=
  let p := s.part n
  decide (d = p.tree.digest) || (match p.runCtx false with
    | some x => decide (x.launch.parent = d) && decide (x.launch.startStep.toNat = step)
    | none => false)

/-- The partition's shard record of a generation verifies (R342). -/
def shardHeld (s : State) (n gen : Nat) : Bool :=
  let r := ownShard s n gen
  decide (r.length = 1432) && Config.falconVerify (publicKey s (digestAt r 120)) (r.take 152) (r.drop 152) &&
    decide (leAt r 8 16 = (s.part n).adm.jobId.toNat) && decide (leAt r 68 4 = posWord (s.logicalPos n)) &&
    decide (leAt r 72 4 = gen) && lineageFits s n (digestAt r 24) (leAt r 56 8)

/-- A manifest without its signature. -/
def unsigned (bs : List Byte) : List Byte := bs.take (bs.length - 1280)

/-- The partition holds a manifest of a generation that verifies (R342). -/
def manifestHeld (s : State) (n gen : Nat) : Bool :=
  let bs := manifestOf s n gen
  !bs.isEmpty && manifestSigned s (unsigned bs) (bs.drop (bs.length - 1280)) &&
    decide (leAt bs 8 16 = (s.part n).adm.jobId.toNat) && lineageFits s n (digestAt bs 56) (leAt bs 120 8)

/-- The availability list of a partition: its LOCAL and COMMITTED generations whose shard records verify. -/
def availOf (s : State) (n : Nat) : List AvailEntry :=
  (gensOf s n).filterMap fun g =>
    if (g.st = .local ∨ g.st = .committed) ∧ shardHeld s n g.gen then
      some { step := g.step, gen := g.gen, committed := decide (g.st = .committed), manifest := manifestHeld s n g.gen }
    else none

/-- Send CKREP AVAIL to the job stoker (R342). -/
def sendAvail (n : Nat) (s : State) : State :=
  readSlots n (genMet s n none [2, 3]) (fun s => sendFrame n (some (s.part n).jobStoker) .ctrl (.ckrepAvail (availOf s n)) s) s

/-- What a position has for a step. -/
def availAt (av : List (Pos × List AvailEntry)) (q : Pos) (step : DWord) : Option AvailEntry :=
  (av.find? fun e => decide (e.1 = q)).bind fun e => e.2.find? fun a => decide (a.step = step)

/-- The stoker's manifest of a step. -/
def stokerManifest (s : State) (n : Nat) (step : DWord) : List Byte :=
  match (gensOf s n).find? fun g => decide (g.step = step) && manifestHeld s n g.gen with
  | some g => manifestOf s n g.gen
  | none => []

/-- The positions without a shard of a step, where the step qualifies (R342 to R344): a group of the same lineage may miss as many as
WP_MODE tolerates; a new lineage may miss the positions that are new to the shape. -/
def restoreMissing (s : State) (n : Nat) (step : DWord) : Option (List Pos) :=
  let p := s.part n
  let av := p.stk.avail
  let miss := s.jobPositions.filter fun q => (availAt av q step).isNone
  let held := av.any fun e => e.2.any fun a => decide (a.step = step) && a.manifest
  let mb := stokerManifest s n step
  let same := mb.isEmpty || decide (digestAt mb 56 = p.tree.digest)
  let tolerated := miss.all fun q =>
    if same then decide ((miss.filter fun r => sameGroup q r).length ≤ p.rl.mode) else (manifestEntry mb q).isNone
  if held && tolerated then some (if same then miss else []) else none

/-- The choice of a restore: generation, step and the positions to rebuild (R342). -/
def restoreChoice (s : State) (n : Nat) : Option (Nat × DWord × List Pos) :=
  let p := s.part n
  let want := match p.ck.ask with | some (w, _) => w | none => 0
  let all := (p.stk.avail.flatMap fun e => e.2).filter fun a => decide (want = 0) || decide (a.step = want)
  all.foldl (fun best a => match restoreMissing s n a.step with
    | some lost => match best with
      | some (_, b, _) => if b.toNat < a.step.toNat then some (a.gen, a.step, lost) else best
      | none => some (a.gen, a.step, lost)
    | none => best) none

/-- One entry of the report of a refused restore (R345). -/
def refusalEntry (q : Pos) (cause : Nat) (newest : Nat) : List Byte :=
  leBytes 4 (posWord q) ++ leBytes 1 cause ++ leBytes 3 0 ++ leBytes 8 newest

/-- The report of a restore for which no step qualifies: NO_SHARD where a position has none, else STEP. -/
def refusalReport (s : State) (n : Nat) : List Byte :=
  s.jobPositions.flatMap fun q =>
    let es := ((s.part n).stk.avail.filter fun e => decide (e.1 = q)).flatMap (·.2)
    refusalEntry q (if es.isEmpty then 1 else 4) (es.foldl (fun m a => max m a.step.toNat) 0)

/-- CKREP AVAIL: with the list of every position the job stoker chooses the step, or refuses the restore (R342, R345). -/
def execCkrepAvail (n : PartId) (s : State) : Out :=
  .next (match takeFrame n.val (fun f => match f.body with | .ckrepAvail _ => true | _ => false) s with
  | some (_, f, s) => match f.body with
    | .ckrepAvail gens =>
      if !isJobStoker s n.val then s
      else readSlots n.val (genMet s n.val none [3]) (fun s =>
        let s := s.modPart n.val fun p => { p with stk := { p.stk with
          avail := (p.stk.avail.filter fun e => decide (e.1 ≠ f.src)) ++ [(f.src, gens)] } }
        if s.jobPositions.all fun q => (s.part n.val).stk.avail.any fun e => decide (e.1 = q) then
          let done (s : State) : State := s.modPart n.val fun p => { p with stk := { p.stk with avail := [] } }
          match restoreChoice s n.val with
          | some (gen, step, lost) =>
            sendFrame n.val none .ctrl (.ckptRestore gen step lost (stokerManifest s n.val step)) (done s)
          | none => sendFrame n.val none .ctrl (.ckptRestore 0 0 [] (refusalReport s n.val)) (done s)
        else s) s
    | _ => s
  | none => s)

/-- The LC context of a partition that restores. -/
def restoring (s : State) (n : Nat) : Option (Nat × Context) :=
  match (s.part n).runLc, (s.part n).runCtx false with
  | some c, some x => if x.st = .loading ∧ (s.part n).ck.state = .restore then some (c, x) else none
  | _, _ => none

/-- Complete the CREATE_CTX command of a partition. -/
def createDone (n status : Nat) (arg : DWord) (s : State) : State :=
  match (s.ring (n + 1) .admin).bind (·.busy) with
  | some b => if b.opcode = 3 then completeCmd (n + 1) .admin b status 0 arg s else s
  | none => s

/-- The restore of a partition is refused (R345): report, record, and the partition unloaded. CREATE_CTX completes with ABORTED
(DESIGN CHOICE, log 31: the spec names no status). -/
def restoreRefused (n c : Nat) (report : List Byte) (s : State) : State :=
  let addr := match (s.part n).ck.ask with | some (_, a) => a | none => 0
  let s := s.emit (.hostWrite (n + 1) addr report)
  let s := partRecord n { kind := 11, status := 0, detail := 0, tag := 0, arg := BitVec.ofNat 64 (report.length / 16), exc := none } s
  let s := discardCtx n c 0x0B s
  let s := s.modPart n fun p => { p with
    ctxs := p.ctxs.upd c Handle.release
    ck := { p.ck with state := .refused } }
  createDone n 0x0B 0 (retireUnowned n s)

/-- CKPT RESTORE: the choice arrives, with the positions to rebuild (R342, R343); in a group with such a position the others send
what the recovery needs, from their slots. A refusal ends the restore (R345). -/
def execCkptRestore (n : PartId) (s : State) : Out :=
  .next (match takeFrame n.val (fun f => match f.body with | .ckptRestore _ _ _ _ => true | _ => false) s with
  | some (_, f, s) => match f.body, restoring s n.val with
    | .ckptRestore gen step lost bytes, some (c, _) =>
      if gen = 0 then restoreRefused n.val c bytes s
      else readSlots n.val (genMet s n.val (some gen) [1, 3]) (fun s =>
        let manifest := if bytes.isEmpty then manifestOf s n.val gen else bytes
        let gone := (lost.filter fun q => sameGroup q (s.logicalPos n.val)).map (·.member)
        let s := s.modPart n.val fun p => { p with
          ck := { p.ck with choice := some (gen, step, manifest) }
          rl := { p.rl with
            target := step, lostSet := lost, rebuilt := [], asm := Tab.const []
            rebuild := if gone.isEmpty then none else some (gone, gone) } }
        if gone.isEmpty || decide (s.memberOf n.val ∈ gone) then s
        else
          let us := shardUnits s n.val gen (s.part n.val).rl.units
          sendUnits n.val gone (fun q s => (s, us[q]?)) s) s
    | _, _ => s
  | none => s)

/-- A step record from its bytes (Table 8.4). -/
def readStepRec (bs : List Byte) : StepRec :=
  let flags := leAt bs 22 2
  { step := BitVec.ofNat 64 (leAt bs 0 8), epoch := BitVec.ofNat 32 (leAt bs 8 4), lineage := BitVec.ofNat 32 (leAt bs 12 4)
    nmb := leAt bs 16 2, ncontrib := leAt bs 18 2, replay := flags.testBit 1
    dropped := (List.range (leAt bs 16 2)).filter fun j => (leAt bs (32 + j / 8) 1).testBit (j % 8)
    req := (List.range (leAt bs 20 2)).map fun i =>
      let w := leAt bs (4128 + 8 * i) 8
      { tries := w / 2 ^ 61, slot := w / 2 ^ 46 % 2 ^ 15, step := w % 2 ^ 46 } }

/-- The step records of a manifest (Table 14.6). -/
def readRecs (bs : List Byte) : Nat → Nat → List StepRec
  | 0, _ => []
  | k + 1, off =>
    let len := leAt bs off 4
    readStepRec ((bs.drop (off + 4)).take len) :: readRecs bs k (off + 4 + len)

/-- LAST[rule] of the rules of a charter with a MIN_GAP takes the restored step (R361). -/
def setLast (a : Admission) (step : DWord) (k : Kindling) : Kindling :=
  let rules := (List.range (leAt a.body 35 1)).filter fun r => decide (leAt a.body (charterU0 a.body + 24 * r + 16) 4 ≠ 0)
  rules.foldl (fun k r => { k with lastExp :=
    (k.lastExp.filter fun e => !(decide (e.1 = a.jobId) && decide (e.2.1 = r))) ++ [(a.jobId, r, step)] }) k

/-- Write units into the span's own frames, each initialised before its page is mapped (R226). -/
def writeUnits (n first : Nat) : Nat → List (List Byte) → State → State
  | _, [], s => s
  | q, u :: us, s => writeUnits n first (q + 1) us (fillFrame n (first + q) u (initFrame n (first + q) s))

/-- RESTORE_UNITS_WRITTEN: the units come from the slots, or have been rebuilt; their digests are checked; then the image and the page
records are applied, the step counter and the re-queue offers resume, and CREATE_CTX completes (R343, R344). A position new to the
shape starts with a zeroed span. A digest that fails refuses the whole restore. -/
def execRestoreUnitsWritten (n : PartId) (s : State) (flips : List SectorFlip := []) : Out :=
  let s := strikeSectors flips s
  .next (match restoring s n.val, (s.part n.val).ck.choice with
  | some (c, _), some (gen, step, manifest) =>
    let p := s.part n.val
    let me := s.logicalPos n.val
    let rebuilt := decide (me ∈ p.rl.lostSet)
    if rebuilt && !((List.range p.rl.units).all fun q => decide (q ∈ p.rl.rebuilt)) then s
    else readSlots n.val (genMet s n.val (some gen) [1, 2]) (fun s =>
      let fresh := (manifestEntry manifest me).isNone
      let units := if rebuilt then (List.range p.rl.units).map fun q => frameBytes s n.val (p.rl.first + q)
        else if fresh then List.replicate p.rl.units [] else shardUnits s n.val gen p.rl.units
      let digest := shardDigest units
      let good := fresh ||
        ((rebuilt || decide (digest = digestAt (ownShard s n.val gen) 88)) &&
          (match manifestEntry manifest me with | some o => decide (digest = digestAt manifest (o + 40)) | none => true))
      if !good then
        sendFrame n.val none .ctrl (.ckptRestore 0 0 [] (s.jobPositions.flatMap fun q =>
          refusalEntry q (if q = me then 3 else 0) step.toNat)) s
      else
        let s := if rebuilt then s else writeUnits n.val p.rl.first 0 units s
        let img := keptImage s n.val
        let s := if fresh then s else loadHeaps n.val (mapRecords n.val img (applyImage n.val img s))
        let recs := readRecs manifest (leAt manifest 140 4) (184 + 104 * leAt manifest 136 4)
        let s := s.modPart n.val fun p => { p with
          step := { p.step with count := step }
          rl := { p.rl with boundary := step, sealedAt := step, jsealedAt := step, jobSealed := true, lostSet := [], rebuild := none
                            rebuilt := [], asm := Tab.const [] }
          ck := { p.ck with state := .idle, ask := none, choice := none, lastStep := step }
          stk := { p.stk with records := recs, ckGen := max p.stk.ckGen gen } }
        let s := s.modPart n.val fun p => { p with
          stk := { p.stk with requeue := match p.runCtx false with | some x => requeueOf x.launch p.stk | none => [] } }
        let s := s.modKs (setLast p.adm step)
        let s := s.modPart n.val (Part.modCtx c fun x => { x with st := .ready })
        createDone n.val 0 (BitVec.ofNat 64 (ctxHandle (s.part n.val) n.val c)) s) s
  | _, _ => s)

end Sys2Proof.Machine
end

