-- ==== Sys2Proof/Machine/HostCore.lean ====
section
/-! DEFINITION. The execution of a host command (R406 to R409): which entry a ring begins, the checks in their order, and outside-master
writes to the input region (R304, R305, R316). -/

namespace Sys2Proof.Machine

/-- A function is present in the layout and the endpoint is out of reset (Table 18.1). -/
def fnPresent (s : State) (f : Nat) : Bool := !s.host.inReset && decide (f ≤ s.nParts) && s.inService

/-- The opcodes defined for a ring (Table 18.5). -/
def opDefined (f : Nat) (r : RingId) (op : Nat) : Bool :=
  match r with
  | .admin => if f = 0 then decide (op ∈ [0x13, 0x14, 0x15, 0x16, 0x20]) else decide (1 ≤ op) && decide (op ≤ 0x16)
  | .queue _ _ => decide (0x40 ≤ op) && decide (op ≤ 0x45)

/-- Commands between a ring's head and tail. -/
def Ring.waiting (g : Ring) : Nat := (g.tail + 2 ^ g.k - g.head) % 2 ^ g.k

/-- The entry that a ring begins next: the oldest fetched one, else the one that the device fetches now. None while a command is in
execution, the ring is empty or not enabled, or the function's record store is full (R407, R409). -/
def frontEntry (c : HostCmd) (s : State) : Option (BitVec 512 × State) :=
  let h := s.host.fns.get c.fn.val
  match s.ring c.fn.val c.ring with
  | none => none
  | some g =>
    if !fnPresent s c.fn.val || g.busy.isSome || decide (g.waiting = 0) || decide (256 ≤ h.held.length) ||
        (decide (c.ring = .admin) && !h.adminEn) || decide (c.fn.val = 0) && decide (c.ring ≠ .admin) then none
    else match g.fetched with
      | e :: rest => some (e, s.modRing c.fn.val c.ring fun g => { g with fetched := rest })
      | [] => some (c.entry, s)

/-- Every byte of an entry outside the header's fields and the used argument bytes is zero (R407): `used` lists offsets and lengths. -/
def zeroFields (e : BitVec 512) (used : List (Nat × Nat)) : Bool :=
  decide (entryAt e 1 1 < 4) && decide (entryAt e 2 2 = 0) && decide (entryAt e 12 4 = 0) &&
    (List.range 48).all fun i => (used.any fun u => decide (u.1 ≤ 16 + i) && decide (16 + i < u.1 + u.2)) ||
      decide (entryAt e (16 + i) 1 = 0)

/-- The context of a queue is lost (R419). -/
def ringLost (s : State) (f : Nat) : RingId → Bool
  | .admin => false
  | .queue c _ => match (s.part (fnPart f)).ctx c.val with | some x => decide (x.st = .lost) | none => false

/-- What a command checks of its entry: its opcode and argument bytes, its handles, and the states it needs (R408); the arguments that
its completion needs. -/
structure CmdForm where
  op : Nat
  used : List (Nat × Nat)
  form : BitVec 512 → Bool
  handles : Part → BitVec 512 → Bool
  ready : Part → BitVec 512 → Bool
  a : BitVec 512 → DWord
  b : BitVec 512 → DWord

/-- A form with no handle and no state to check. -/
def plainForm (op : Nat) (used : List (Nat × Nat)) : CmdForm :=
  { op := op, used := used, form := fun _ => true, handles := fun _ _ => true, ready := fun _ _ => true, a := fun _ => 0, b := fun _ => 0 }

/-- Execute the command at the front of a ring (R408): an entry of another opcode is left to that opcode's command, an opcode that the
ring does not define completes with FORMAT; a lost context's queue answers LOST (R419). -/
def hostCommand (c : HostCmd) (m : CmdForm) (act : Busy → BitVec 512 → State → State) (s : State) : State :=
  let f := c.fn.val
  match frontEntry c s with
  | none => s
  | some (e, s') =>
    let b := busyOf e (m.a e) (m.b e)
    let p := s.part (fnPart f)
    let fail (st : Nat) : State := completeCmd f c.ring b st 0 0 (s'.modRing f c.ring fun g => { g with busy := some b })
    if entryAt e 0 1 ≠ m.op then (if opDefined f c.ring (entryAt e 0 1) then s else if ringLost s f c.ring then fail 8 else fail 1)
    else if ringLost s f c.ring then fail 8
    else if !opDefined f c.ring m.op || !zeroFields e m.used || !m.form e then fail 1
    else if (b.flags.getLsbD 1 && (decide (f = 0) || (p.evt b.event.toNat).isNone)) || !m.handles p e then fail 2
    else if !m.ready p e then fail 3
    else act b e (s'.modRing f c.ring fun g => { g with busy := some b })

/-- Complete the command that a ring executes. -/
def finish (c : HostCmd) (b : Busy) (status detail : Nat) (arg : DWord) (s : State) : State :=
  completeCmd c.fn.val c.ring b status detail arg s

/-! ### Writes of an outside master to the input region -/

/-- The pieces of an extent, each within one page. -/
def pagePieces : Nat → Nat → List Byte → List (Nat × List Byte)
  | 0, _, _ => []
  | fuel + 1, a, bs =>
    if bs.isEmpty then []
    else
      let k := pageBytes - a % pageBytes
      (a, bs.take k) :: pagePieces fuel (a + (bs.take k).length) (bs.drop k)

/-- The pages of an extent. -/
def extentPages (a len : Nat) : List Nat :=
  if len = 0 then [] else (List.range ((a + len - 1) / pageBytes - a / pageBytes + 1)).map (a / pageBytes + ·)

/-- The span units under the resident pages of an extent that have not moved since B_k (R298). -/
def firstWrites (p : Part) (a len : Nat) : List Nat :=
  ((extentPages a len).filterMap fun k => match p.translate (k * pageBytes) false with
    | .frame f => if p.writable f then none else p.unitOf f
    | _ => none).eraseDups

/-- A line of an extent has its counter used up (R227). -/
def extentFull (s : State) (n a len : Nat) : Bool :=
  (pagePieces (len / pageBytes + 2) a (List.replicate len 0)).any fun (a, piece) => match (s.part n).translate a false with
    | .frame f => s.counterFull n ((s.part n).pa f a) piece.length
    | _ => false

/-- The stacks that serve an extent of an outside master are awake (R43). -/
def extentAwake (s : State) (n a len : Nat) : Bool :=
  (pagePieces (len / pageBytes + 2) a (List.replicate len 0)).all fun (a, piece) => match (s.part n).translate a false with
    | .frame f => stackAwake s n ((s.part n).pa f a) piece.length
    | _ => true

/-- An outside master's write that stalls (R43, R227), or stalls and is counted (R298, R299): the state while it waits. -/
def outsideWait (n a len : Nat) (s : State) : Option State :=
  let p := s.part n
  let us := firstWrites p a len
  let stall (s : State) : State := us.foldl (fun s q => stallOnce n q true s) s
  if !us.isEmpty && !p.rl.jobSealed then some (stall s)
  else if p.rl.pool.length < us.length then some (stall (poolShort n s))
  else if extentFull s n a len || !extentAwake s n a len then some s else none

/-- Make a unit writable for an outside master: its kept frame is read through the checks first, and one that fails them ends the write (R298). -/
def outsidePrep (n q : Nat) (s : State) : State × Bool :=
  if (s.part n).rl.live.get q ≠ (s.part n).rl.kept.get q then (stallEnds n q true s, true) else prepUnit n q .outside s

/-- Write bytes at a device-virtual address for an outside master, page by page: the pages are resident and their units can be written. A
bank-out that copies a page gives way (R209). False where a line fails its checks (R225). -/
def outsidePut (n a : Nat) (bs : List Byte) (s : State) : State × Bool :=
  (pagePieces (bs.length / pageBytes + 2) a bs).foldl (fun (s, ok) (a, piece) =>
    if !ok then (s, ok)
    else
      match lookup (s.mdCache n a) n (a / pageBytes) none .outside s with
      | (s, false) => (s, false)
      | (s, true) =>
        let s := touchPage n (a / pageBytes) s
        let p := s.part n
        match p.translate a false with
        | .frame f =>
          match (match p.unitOf f with | some q => outsidePrep n q s | none => (s, true)) with
          | (s, true) => putHbm n ((s.part n).pa f a) piece .outside s
          | (s, false) => (s, false)
        | _ => (s, true)) (s, true)

/-- Read bytes at a device-virtual address for an outside master, page by page. None where a line fails its CRC, or its tag or counter, which
halts the partition (R229, R230); the lines after the first CRC failure are not read, and an alarm prevails. -/
def outsideRead (n a len : Nat) (s : State) : State × Option (List Byte) :=
  (pagePieces (len / pageBytes + 2) a (List.replicate len 0)).foldl (fun (s, out) (a, piece) => match out with
    | none => (s, none)
    | some bs =>
      match lookup (s.mdCache n a) n (a / pageBytes) none .outside s with
      | (s, false) => (s, none)
      | (s, true) =>
      let s := touchPage n (a / pageBytes) s
      let p := s.part n
      match p.translate a false with
      | .frame f =>
        let pa := p.pa f a
        match readChecked n pa piece.length .outside s with
        | (s, some got) => (s, some (bs ++ got))
        | (s, none) => (s, none)
      | _ => (s, none)) (s, some [])

/-- An extent meets a live slot that the host need not write again (R305, R316). -/
def meetsLive (p : Part) (a len : Nat) : Bool :=
  (extentPages a len).any fun k => decide (k ∉ p.rl.inputNeed) && (match inputSlot p (k * pageBytes) with
    | some slot => decide (slot ∈ liveSlots p)
    | none => false)

/-- An extent lies inside the input region. -/
def inInput (p : Part) (a len : Nat) : Bool :=
  decide (p.rl.inFirst.toNat ≤ a) && decide (a + len ≤ p.rl.inFirst.toNat + p.rl.inSlots * p.rl.inSlotBytes.toNat)

/-- The pages of an extent that are not resident: banked ones, and whether some are not mapped. -/
def extentBanked (p : Part) (a len : Nat) : List Nat := (extentPages a len).filter fun k => decide (p.translate (k * pageBytes) false = .banked)
def extentMapped (p : Part) (a len : Nat) : Bool := (extentPages a len).all fun k => decide (p.translate (k * pageBytes) false ≠ .unmapped)

/-- A write to the input region has been made (R304, R316): it goes to the mirror in pieces, and pages that the host had to write again
are done once their last byte is written. -/
def inputWritten (n a : Nat) (bs : List Byte) (s : State) : State :=
  let p := s.part n
  let s := if p.rl.units = 0 then s
    else (pagePieces (bs.length / pageBytes + 2) a bs).foldl (fun s (a, piece) =>
      let off := a - p.rl.inFirst.toNat
      let k := p.rl.inSlotBytes.toNat
      let key := (off / k, off % k)
      sendFrame n (some (s.groupPos n ((s.memberOf n + 1) % 8))) .relight (.mirror key.1 key.2 piece)
        (s.modPart n fun p => { p with rl := { p.rl with mirrorWait := p.rl.mirrorWait ++ [key] } })) s
  if !p.rl.inputWait || decide (p.rl.state = .withdrawn) then s
  else
    let need := p.rl.inputNeed.filter fun k => !(decide (a ≤ k * pageBytes + pageBytes - 1) && decide (k * pageBytes + pageBytes ≤ a + bs.length))
    let s := s.modPart n fun p => { p with rl := { p.rl with
      inputNeed := need, inputWait := !need.isEmpty, state := if need.isEmpty then .frozen else p.rl.state } }
    if need.isEmpty then sendFrame n (some (hearthStoker s n)) .relight .resume s else s

/-- A command that has written the input region completes: once the mirror has acknowledged, for a context with a span (R304). -/
def finishInput (c : HostCmd) (b : Busy) (moved : Nat) (s : State) : State :=
  let n := fnPart c.fn.val
  if (s.part n).rl.mirrorWait.isEmpty then finish c b 0 0 (BitVec.ofNat 64 moved) s
  else s.modPart n fun p => { p with rl := { p.rl with mirrorCmds := p.rl.mirrorCmds ++ [(c.ring, b, BitVec.ofNat 64 moved)] } }

end Sys2Proof.Machine
end

