-- ==== Sys2Proof/Machine/Charter.lean ====
section
/-! DEFINITION. Charters and capsules (R348 to R354), imports (R358, R359) and exports (R360 to R363). -/

namespace Sys2Proof.Machine

/-! ### The form of a charter (R349) -/

/-- Two unit ranges meet. -/
def rangesMeet (a la b lb : Nat) : Bool := decide (a < b + lb) && decide (b < a + la)

/-- The header's fields are in range. -/
def charterHeader (bs : List Byte) : Bool :=
  let at_ (o n : Nat) : Nat := leAt bs o n
  let nmb := at_ 40 2
  decide (at_ 0 4 = 0x5248435A) && decide (at_ 4 2 = 1) && decide (at_ 6 2 ≤ 1) && decide (1 ≤ at_ 32 1) && decide (at_ 32 1 ≤ 16) &&
    decide (1 ≤ at_ 33 1) && decide (at_ 33 1 ≤ 8) && decide (at_ 34 1 ≤ 64) && decide (at_ 35 1 ≤ 16) && decide (at_ 38 1 ≤ 3) &&
    decide (at_ 39 1 = 0) && decide (at_ 50 2 = 0) && decide (at_ 56 8 = 0) &&
    (if nmb = 0 then decide (at_ 42 8 = 0) && decide (at_ 38 1 = 0) && decide (at_ 52 4 = 0)
     else decide (nmb ≤ 32768) && decide (1 ≤ at_ 42 2) && decide (at_ 42 2 ≤ nmb) && decide (at_ 48 1 ≤ 16) &&
       decide (1 ≤ at_ 49 1) && decide (at_ 49 1 ≤ 7)) &&
    (decide (at_ 38 1 = 3) || decide (at_ 52 4 = 0)) && decide (at_ 52 4 ≤ 131072)

/-- Entry offsets of a table. -/
def entryOffs (base size k : Nat) : List Nat := (List.range k).map fun i => base + size * i

/-- The region table's checks. -/
def charterRegions (bs : List Byte) : Bool :=
  let np := leAt bs 32 1
  let rs := entryOffs (charterE0 bs) 16 (leAt bs 34 1)
  let first (o : Nat) : Nat := leAt bs (o + 4) 4
  let count (o : Nat) : Nat := leAt bs (o + 8) 4
  (rs.all fun o => decide (leAt bs o 1 ≤ 2) && decide (leAt bs (o + 2) 2 = 0) && decide (leAt bs (o + 12) 4 = 0) && decide (1 ≤ count o) &&
    (if leAt bs o 1 = 0 then decide (leAt bs (o + 1) 1 = 0xFF) else decide (leAt bs (o + 1) 1 < np))) &&
  (rs.all fun o => rs.all fun r => decide (o = r) || !rangesMeet (first o) (count o) (first r) (count r)) &&
  decide ((rs.filter fun o => decide (leAt bs o 1 ≠ 0)).length ≤ 32)

/-- One rule's checks. -/
def charterRule (bs : List Byte) (o : Nat) : Bool :=
  let np := leAt bs 32 1
  let nr := leAt bs 34 1
  let kind := leAt bs o 1
  let quorum := leAt bs (o + 1) 1
  let signers := leAt bs (o + 2) 2
  let recip := leAt bs (o + 4) 2
  let regs := leAt bs (o + 8) 8
  let named := ((List.range nr).filter fun r => regs.testBit r).map fun r => charterE0 bs + 16 * r
  decide (kind ≤ 2) && decide (leAt bs (o + 6) 2 = 0) && decide (leAt bs (o + 20) 4 = 0) && decide (regs ≠ 0) && decide (regs < 2 ^ nr) &&
    (named.all fun r => decide (leAt bs r 1 = kind)) &&
    (if kind = 0 then
      decide (1 ≤ quorum) && decide (quorum ≤ popCount (BitVec.ofNat 16 signers)) && decide (signers ≠ 0) && decide (recip ≠ 0) &&
        decide (signers < 2 ^ np) && decide (recip < 2 ^ np)
     else
      let owner := leAt bs ((named.headD 0) + 1) 1
      decide (quorum = 0) && decide (signers = 0) && (named.all fun r => decide (leAt bs (r + 1) 1 = owner)) && decide (recip = 2 ^ owner))

/-- A charter passes FORMAT (R349): its length, fields, parties, programs, regions, rules and carriers. -/
def charterForm (bs : List Byte) : Bool :=
  let np := leAt bs 32 1
  charterHeader bs && decide (bs.length = charterS0 bs + 1280 * np) &&
    ((List.range np).all fun i =>
      let o := 64 + 1808 * i
      decide (leAt bs o 1 = i) && decide (leAt bs (o + 1) 7 = 0) && decide (leAt bs (o + 1801) 7 = 0)) &&
    ((entryOffs (charterG0 bs) 40 (leAt bs 33 1)).all fun o => decide (leAt bs o 1 ≤ 1) && decide (leAt bs (o + 1) 7 = 0)) &&
    charterRegions bs && (entryOffs (charterU0 bs) 24 (leAt bs 35 1)).all (charterRule bs) &&
    (let cs := entryOffs (charterC0 bs) 8 (leAt bs 52 4)
     (cs.all fun o => decide (leAt bs (o + 4) 2 < leAt bs 40 2) && decide (leAt bs (o + 6) 2 = 0)) &&
       decide (cs.map fun o => leAt bs o 4).Nodup)

/-- The public key of party `i` in a charter. -/
def partyKeyOf (bs : List Byte) (i : Nat) : List Byte := (bs.drop (64 + 1808 * i + 8)).take 1793

/-- Every signature of a charter verifies (R349). -/
def charterSigned (bs : List Byte) : Bool :=
  let s0 := charterS0 bs
  (List.range (leAt bs 32 1)).all fun i =>
    Config.falconVerify (partyKeyOf bs i) (bs.take s0) ((bs.drop (s0 + 1280 * i)).take 1280)

/-- The admission that a charter makes: CHARTERED. -/
def charterAdmission (bs : List Byte) : Admission :=
  let body := bs.take (charterS0 bs)
  { admFresh with
    state := .chartered, debugAllow := BitVec.ofNat 16 (leAt bs 36 2), jobId := BitVec.ofNat 128 (leAt bs 8 16)
    jobSeed := BitVec.ofNat 64 (leAt bs 24 8), cmap := leAt bs 38 1
    carriers := (entryOffs (charterC0 bs) 8 (leAt bs 52 4)).map fun o => (leAt bs o 4, leAt bs (o + 4) 2)
    body := body, digest := shake body }

/-! ### Commands of admission -/

/-- A charter status is reported, and a refusal counted (Table 15.11). -/
def chrStatus (n code : Nat) (s : State) : State :=
  s.modPart n fun p => { p with chr := { p.chr with
    lastStatus := BitVec.ofNat 4 code
    refuseCnt := if code = 0 then p.chr.refuseCnt else satAdd p.chr.refuseCnt 1
    refuseOvf := p.chr.refuseOvf || (decide (code ≠ 0) && satOvf p.chr.refuseCnt 1) } }

/-- Complete a command of admission with a code of Table 15.7. -/
def chrFinish (c : HostCmd) (b : Busy) (code : Nat) (arg : DWord) (s : State) : State :=
  finish c b (if code = 0 then 0 else 6) code arg (chrStatus (fnPart c.fn.val) code s)

/-- A charter names an LC program. -/
def charterLc (bs : List Byte) : Bool := (entryOffs (charterG0 bs) 40 (leAt bs 33 1)).any fun o => decide (leAt bs o 1 = 0)

/-- The charter is for the reservation of a standby (R354): on member 8, a charter with an LC program (DEDUCED, log 33). -/
def forReservation (s : State) (n : Nat) (bs : List Byte) : Bool :=
  decide (s.fab.member.toNat = 8) && charterLc bs && decide ((s.part n).rsv.state = .empty)

/-- CHARTER: a charter is checked and held (R352). A partition leaves EMPTY with a partition key drawn (R367); without entropy the
charter is refused with MODULE (DESIGN CHOICE, log 34). -/
def execCharterCmd (c : HostCmd) (s : State) : Out :=
  let n := fnPart c.fn.val
  .next (hostCommand c (plainForm 0x01 [(16, 12)]) (fun b e s =>
    let bs := c.data.take (entryAt e 24 4)
    let p := s.part n
    let rsv := forReservation s n bs
    if p.removing.isSome then finish c b 0x0D 0 0 (chrStatus n 4 s)
    else if !rsv && decide (p.adm.state ≠ .empty) then chrFinish c b 4 0 s
    else if decide (s.lc.lcState ≠ .field) || s.lc.lcPending then chrFinish c b 5 0 s
    else if decide (c.data.length < entryAt e 24 4) || !charterForm bs then chrFinish c b 1 0 s
    else if !charterSigned bs then chrFinish c b 2 0 s
    else if rsv then chrFinish c b 0 0 (s.modPart n fun p => { p with rsv := charterAdmission bs })
    else match freshKey s with
      | (s, none) => chrFinish c b 5 0 s
      | (s, some k) => chrFinish c b 0 0 ((setSlot (slotPk n) k s).modPart n fun p => { p with adm := charterAdmission bs })) s)

/-- The default initial value of RFC 3394. -/
def wrapIv : DWord := 0xA6A6A6A6A6A6A6A6

/-- The key-encryption key of a capsule's party (R351). -/
def capsuleKek (s : State) (a : Admission) (party : Nat) (bs : List Byte) : Digest :=
  derive "ZH9 PARTY" (keyBytes (Config.mlkemDecaps (slotKey s 2) (slotKey s 3) ((bs.drop 72).take 1568)) ++ keyBytes a.digest ++
    leBytes 1 party)

/-- Parties of a charter. -/
def Admission.parties (a : Admission) : Nat := leAt a.body 32 1

/-- JOB_KEY (R353): every party key is unwrapped through the key cache. -/
def jobKey (n : PartId) (a : Admission) (s : State) : State × Option Digest :=
  let (s, ks) := (List.range a.parties).foldl (fun (acc : State × Option (List Byte)) i =>
    match useBlob (a.partyKeys.get i) n acc.1 with
    | (s, some k) => (s, acc.2.map fun l => l ++ keyBytes k)
    | (s, none) => (s, none)) (s, some [])
  (s, ks.map fun l => derive "ZH9 JOB" (keyBytes a.digest ++ l))

/-- The blobs of an admitted tenant's party keys are kept in its wrapped-key area, the lowest FREE frame of the partition, which the device takes
as the last capsule comes; with no FREE frame they stay in the reservation area (R242, R370, R416; DESIGN CHOICE, log 96). -/
def keyArea (n : Nat) (a : Admission) (s : State) : State :=
  match takeFrames n 1 s with
  | some (f :: _, s) => (List.range a.parties).foldl (fun s i => deviceWrite n f (64 * i) (a.partyKeys.get i) s)
      (s.modPart n fun p => { p with keyArea := some f })
  | _ => s

/-- A capsule enters an admission (R352, R353): the party key is held wrapped; with the last one the admission is ADMITTED and the job
key formed, for a partition with the memory keys of generation 0 (R374). -/
def holdCapsule (n : PartId) (rsv : Bool) (party : Nat) (bs : List Byte) (key : Digest) (s : State) : State :=
  let a := if rsv then (s.part n.val).rsv else (s.part n.val).adm
  let blob := wrapBlob s (if rsv then 4 else 1) n.val party 0 a.jobId key
  let a := { a with capsules := a.capsules.set party (some bs), partyKeys := a.partyKeys.set party blob }
  let put (a : Admission) (s : State) : State := s.modPart n.val fun p => if rsv then { p with rsv := a } else { p with adm := a }
  if (List.range a.parties).all fun i => (a.capsules.get i).isSome then
    match jobKey n a s with
    | (s, some k) =>
      let s := put { a with state := .admitted } (setSlot (if rsv then slotRsv n.val else slotJob n.val) k s)
      if rsv then s else keyArea n.val a (s.modPart n.val fun p => { p with prot := p.prot.newKeys })
    | (s, none) => s
  else put a s

/-- CAPSULE: a party capsule is checked, in the order of Table 15.4, and its party key held (R352). -/
def execCapsuleCmd (c : HostCmd) (s : State) : Out :=
  let n := fnPart c.fn.val
  .next (hostCommand c (plainForm 0x02 [(16, 8)]) (fun b _ s =>
    let bs := c.data.take 2960
    let p := s.part n
    let rsv := decide (p.rsv.state ≠ .empty) && decide (digestAt bs 8 = p.rsv.digest)
    let a := if rsv then p.rsv else p.adm
    let party := leAt bs 4 1
    if a.state = .empty then chrFinish c b 3 0 s
    else if decide (bs.length ≠ 2960) || decide (leAt bs 0 4 ≠ 0x5041435A) || decide (leAt bs 5 3 ≠ 0) || decide (a.parties ≤ party) then
      chrFinish c b 1 0 s
    else match a.capsules.get party with
      | some held => if held = bs then chrFinish c b 0 0 s else chrFinish c b 7 0 s
      | none =>
        if decide (digestAt bs 40 ≠ s.keys.moduleId) || s.lc.lcPending then chrFinish c b 5 0 s
        else if digestAt bs 8 ≠ a.digest then chrFinish c b 6 0 s
        else if !Config.falconVerify (partyKeyOf a.body party) (bs.take 1680) (bs.drop 1680) then chrFinish c b 2 0 s
        else match Config.keyUnwrap (capsuleKek s a party bs) wrapIv ((bs.drop 1640).take 40) with
          | none => chrFinish c b 2 0 s
          | some key => chrFinish c b 0 0 (holdCapsule (Fin.ofNat 4 n) rsv party bs key s)) s)

/-! ### Imports -/

/-- The chunks of a container that verify, up to the first that does not (R359). -/
def openChunks (key : Digest) (id : Nat) (aad : List Byte) (bs : List Byte) : Nat → Nat → List Byte × Bool
  | 0, _ => ([], true)
  | k + 1, i =>
    match gcmOpen key (leBytes 12 (id * 2 ^ 32 + i)) aad ((bs.drop (4112 * i)).take 4112) with
    | none => ([], false)
    | some plain => let (rest, ok) := openChunks key id aad bs k (i + 1); (plain.take 4096 ++ rest, ok)

/-- The bytes that an import gives are written, and the command completes (R358, R359, log 58): a line's checks that end the write, and then a chunk
that does not authenticate, end it with their codes. -/
def importPut (c : HostCmd) (b : Busy) (n dva len : Nat) (plain : List Byte) (ok : Bool) (s : State) : State :=
  let (s, put) := if plain.isEmpty then (s, true) else outsidePut n dva plain s
  let s := if plain.isEmpty || !put then s else inputWritten n dva plain s
  if !put then finish c b 0x0B 0 0 s
  else if !ok then chrFinish c b 0xD 0 s
  else
    let s := chrStatus n 0 (s.modPart n fun p => { p with chr := { p.chr with
      impCnt := satAdd p.chr.impCnt 1, impOvf := p.chr.impOvf || satOvf p.chr.impCnt 1 } })
    finishInput c b len s

/-- IMPORT: a container's header is checked, its chunks are verified, decrypted and written into the input region in order, mirror
included (R359). It waits while a page of the extent is banked. -/
def execImportCmd (c : HostCmd) (s : State) : Out :=
  let n := fnPart c.fn.val
  .next (hostCommand c (plainForm 0x10 [(16, 12)]) (fun b e s' =>
    let bs := c.data.take (entryAt e 24 4)
    let p := s'.part n
    let party := leAt bs 4 1
    let len := leAt bs 36 4
    let dva := p.rl.inFirst.toNat + leAt bs 32 4
    if p.adm.state ≠ .admitted then chrFinish c b 3 0 s'
    else if decide (leAt bs 0 4 ≠ 0x504D495A) || decide (leAt bs 5 3 ≠ 0) || decide (leAt bs 40 8 ≠ 0) || decide (p.adm.parties ≤ party) ||
        decide (leAt bs 32 4 % 4096 ≠ 0) || decide (len % 4096 ≠ 0) || decide (len = 0) || decide (bs.length ≠ 48 + len / 4096 * 4112) then
      chrFinish c b 1 0 s'
    else if BitVec.ofNat 128 (leAt bs 8 16) ≠ p.adm.jobId then chrFinish c b 6 0 s'
    else if !inInput p dva len || !extentMapped p dva len then chrFinish c b 0xE 0 s'
    else if meetsLive p dva len then finish c b 0x0A 0 0 (denyCount n s')
    else match extentBanked p dva len with
      | k :: _ => askUnbank n k s
      | [] => match outsideWait n dva len s with
      | some w => w
      | none => match useBlob (p.adm.partyKeys.get party) (Fin.ofNat 4 n) s' with
        | (s, none) => chrFinish c b 2 0 s
        | (s, some key) =>
          let ikey := derive "ZH9 IMPORT" (keyBytes key ++ leBytes 16 p.adm.jobId.toNat)
          let (plain, ok) := openChunks ikey (leAt bs 24 8) (bs.take 48) (bs.drop 48) (len / 4096) 0
          importPut c b n dva len plain ok s) s)

/-! ### Exports -/

/-- LAST[rule] of a job, where it is set (R361). -/
def lastOf (s : State) (a : Admission) (rule : Nat) : Option Nat :=
  (s.ks.lastExp.find? fun e => decide (e.1 = a.jobId) && decide (e.2.1 = rule)).map fun e => e.2.2.toNat

/-- The committed generation of a step. -/
def committedAt (s : State) (n step : Nat) : Option Gen :=
  (gensOf s n).find? fun g => decide (g.st = .committed) && decide (g.step.toNat = step)

/-- The signatures of an authorisation that verify, from distinct parties of SIGNERS (R361). -/
def authSigners (a : Admission) (signers : Nat) (auth : List Byte) : List Nat :=
  ((List.range (leAt auth 5 1)).filterMap fun i =>
    let o := 96 + 1288 * i
    let party := leAt auth o 1
    if signers.testBit party && Config.falconVerify (partyKeyOf a.body party) (auth.take 96) ((auth.drop (o + 8)).take 1280) then some party
    else none).eraseDups

/-- The refusal of an export (R361): a code of Table 15.7, 0 where it passes. -/
def exportBad (s : State) (n : Nat) (a : Admission) (rule step : Nat) (auth : List Byte) : Nat :=
  let u := charterU0 a.body + 24 * rule
  let joint := decide (leAt a.body u 1 = 0)
  if leAt a.body 35 1 ≤ rule then 9
  else match committedAt s n step with
  | none => 0xB
  | some g =>
    if joint && decide (shake (manifestOf s n g.gen) ≠ digestAt auth 64) then 0xB
    else if joint && (decide (leAt auth 0 4 ≠ 0x4158455A) || decide (leAt auth 4 1 ≠ rule) || decide (leAt auth 6 2 ≠ 0) ||
        decide (BitVec.ofNat 128 (leAt auth 8 16) ≠ a.jobId) || decide (digestAt auth 24 ≠ a.digest) || decide (leAt auth 56 8 ≠ step) ||
        decide ((authSigners a (leAt a.body (u + 2) 2) auth).length < leAt a.body (u + 1) 1)) then 0xA
    else match lastOf s a rule with
      | some l => if step < l + leAt a.body (u + 16) 4 then 0xC else 0
      | none => 0

/-- The units of a rule's regions that this member exports (R350): data units that are not image units, ascending. -/
def exportUnits (s : State) (n rule : Nat) : List Nat :=
  let c := (s.part n).adm.body
  let regs := leAt c (charterU0 c + 24 * rule + 8) 8
  let named := ((List.range (leAt c 34 1)).filter fun r => regs.testBit r).map fun r => charterE0 c + 16 * r
  ((dataUnits s n).filter fun q => decide (q ∉ imageUnits s n)).filter fun q =>
    named.any fun o => decide (leAt c (o + 4) 4 ≤ q) && decide (q < leAt c (o + 4) 4 + leAt c (o + 8) 4)

/-- Bytes of a container with a number of units (Table 15.9). -/
def containerLen (k : Nat) : Nat := (752 + 4 * k + 7) / 8 * 8 + 2097664 * k + 1280

/-- An export's status. -/
def expStatus (n code : Nat) (s : State) : State :=
  s.modPart n fun p => { p with chr := { p.chr with
    lastExpStatus := BitVec.ofNat 4 code
    refuseCnt := if code = 0 then p.chr.refuseCnt else satAdd p.chr.refuseCnt 1
    refuseOvf := p.chr.refuseOvf || (decide (code ≠ 0) && satOvf p.chr.refuseCnt 1) } }

/-- EXPORT: a request is checked; one that passes sets LAST[rule] and starts the export (R360, R361). A destination that is too short
gives NOSPACE (DESIGN CHOICE, log 35). -/
def execExportCmd (c : HostCmd) (s : State) : Out :=
  let n := fnPart c.fn.val
  .next (hostCommand c (plainForm 0x11 [(16, 1), (20, 36)]) (fun b e s =>
    let p := s.part n
    let rule := entryAt e 16 1
    let step := entryAt e 24 8
    if (badSector s n (genMet s n ((committedAt s n step).map (·.gen)) [3])).isSome then readSlots n (genMet s n ((committedAt s n step).map (·.gen)) [3]) id s else
    let code := if p.adm.state ≠ .admitted then 3 else exportBad s n p.adm rule step (c.data.take (entryAt e 20 4))
    if code ≠ 0 then finish c b 6 code 0 (expStatus n code s)
    else if entryAt e 48 8 < containerLen (exportUnits s n rule).length then finish c b 9 0 0 s
    else match committedAt s n step with
      | none => finish c b 6 0xB 0 (expStatus n 0xB s)
      | some g =>
        let last := (s.ks.lastExp.filter fun l => !(decide (l.1 = p.adm.jobId) && decide (l.2.1 = rule))) ++
          [(p.adm.jobId, rule, BitVec.ofNat 64 step)]
        (s.modKs fun k => { k with lastExp := last }).modPart n fun p => { p with
          exporting := some { ring := c.ring, busy := b, rule := rule, step := BitVec.ofNat 64 step, gen := g.gen
                              dest := BitVec.ofNat 64 (entryAt e 40 8) } }) s)

/-- The wrapped content keys of a container: 40 bytes for each recipient, zero for the others (R362). -/
def contentKeys (n : PartId) (a : Admission) (recip : Nat) (key : Digest) (s : State) : State × Option (List Byte) :=
  (List.range 16).foldl (fun (acc : State × Option (List Byte)) i =>
    if !recip.testBit i then (acc.1, acc.2.map fun l => l ++ leBytes 40 0)
    else match useBlob (a.partyKeys.get i) n acc.1 with
      | (s, some k) => (s, acc.2.map fun l => l ++
          Config.keyWrap (derive "ZH9 EXPORT" (keyBytes k ++ leBytes 16 a.jobId.toNat)) wrapIv key)
      | (s, none) => (s, none)) (s, some [])

/-- The ciphertext of a unit: 32 chunks of 64 KiB with their tags (R362). -/
def sealUnit (key : Digest) (i : Nat) (bs : List Byte) : List Byte :=
  (List.range 32).flatMap fun j => gcmSeal key (leBytes 12 (i * 2 ^ 32 + j)) [] ((bs.drop (65536 * j)).take 65536)

/-- EXPORT_DONE: the units are read from the generation's slots and checked against the shard record, the container is sealed, signed
and sent, and the command completes once the hold has ended (R233, R360, R362). A digest that fails ends it with DIGEST, want of entropy with SIGNATURE
(DESIGN CHOICE, log 34). -/
def execExportDone (n : PartId) (s : State) (flips : List SectorFlip := []) : Out :=
  let s := strikeSectors flips s
  let p := s.part n.val
  .next (match p.exporting with
  | none => s
  | some x => readSlots n.val (genMet s n.val (some x.gen) [1, 2]) (fun s =>
    let done (status code : Nat) (s : State) : State :=
      completeCmd (n.val + 1) x.ring x.busy status code 0
        (expStatus n.val code (s.modPart n.val fun p => { p with exporting := none }))
    let c := p.adm.body
    let u := charterU0 c + 24 * x.rule
    let all := shardUnits s n.val x.gen p.rl.units
    let qs := exportUnits s n.val x.rule
    let recip := leAt c (u + 4) 2
    if shardDigest all ≠ digestAt (ownShard s n.val x.gen) 88 then done 6 6 s
    else match freshKey s with
    | (s, none) => done 6 2 s
    | (s, some key) => match contentKeys n p.adm recip key s with
      | (s, none) => done 6 2 s
      | (s, some keys) =>
        let head := leBytes 4 0x5058455A ++ leBytes 2 1 ++ leBytes 1 x.rule ++ leBytes 1 (leAt c u 1) ++ leBytes 16 p.adm.jobId.toNat ++
          keyBytes p.adm.digest ++ leBytes 8 x.step.toNat ++ leBytes 4 x.gen ++ leBytes 4 (posWord (s.logicalPos n.val)) ++
          keyBytes s.keys.moduleId ++ leBytes 2 recip ++ leBytes 2 qs.length ++ leBytes 4 0 ++ keys
        let list := qs.flatMap fun q => leBytes 4 q
        let pad := leBytes (if qs.length % 2 = 0 then 0 else 4) 0
        let boxed := (List.range qs.length).flatMap fun i => sealUnit key i ((all[(qs[i]?).getD 0]?).getD [])
        let body := head ++ list ++ pad ++ boxed
        match signOwn (keyBytes (shake body)) s with
        | (s, none) => done 6 2 s
        | (s, some sig) =>
          let s := s.modPart n.val fun p => { p with exporting := none, chr := { p.chr with
            expCnt := satAdd p.chr.expCnt 1, expOvf := p.chr.expOvf || satOvf p.chr.expCnt 1 } }
          holdOut n.val (.hostWrite (n.val + 1) x.dest (body ++ sig)) (some (x.ring, x.busy, BitVec.ofNat 64 (body ++ sig).length))
            (expStatus n.val 0 s)) s)

end Sys2Proof.Machine
end

