-- ==== Sys2Proof/Machine/Collective.lean ====
section
/-! DEFINITION. Collectives and ring steps (R140 to R145, R274 to R288): their descriptor and its checks, the draught tree, the
exchanges between modules and COLL frames, and the three kinds of RING frame. -/

namespace Sys2Proof.Machine

/-! ### The descriptor -/

/-- The collective form of the tile descriptor (Table 5.12). -/
structure CollDesc where
  src : Nat
  dst : Nat
  len : Nat
  sSp : Nat
  dSp : Nat
  grp : Nat
  scope : Nat
  op : Nat
  tally : Nat
  stally : Nat
  seq : Nat
  root : Nat
  step : Nat
  ring : Nat
  zero : Bool
  deriving DecidableEq, Repr

/-- Read the fields. -/
def collDesc (d : Desc) : CollDesc :=
  let w := descWord d 2
  let x := descWord d 3
  { src := (descWord d 0).toNat, dst := (descWord d 1).toNat, len := field w 63 40, sSp := field w 39 38, dSp := field w 37 36
    grp := field w 35 30, scope := field w 29 25, op := field w 24 22, tally := field w 21 18, stally := field w 17 14
    seq := field x 63 48, root := field x 47 16, step := field x 15 10, ring := field x 9 6
    zero := decide (field w 13 0 = 0) && decide (field x 5 0 = 0) }

/-- KIND of a collective (Table 12.4). -/
def FlueOp.kind : FlueOp → Nat
  | .dtredAll => 0 | .dtredRs => 1 | .dtbc => 2 | .dtbar => 3 | .ringstep => 4

/-- The participants of a group on a module, as 8·ember + thread, ascending (R274). -/
def Group.members (g : Group) : List Nat :=
  (sortNat (g.pairs.flatMap fun (e, m) => (List.range 8).filterMap fun t => if m.getLsbD t then some (8 * e + t) else none)).dedup

/-- The group of a class's running context. -/
def groupOf (s : State) (n : Nat) (be : Bool) (g : Nat) : Group :=
  match (s.part n).runCtx be with
  | some c => c.launch.groups.get g
  | none => { be := be, pairs := [] }

/-- Modules of an instance (R274). -/
def scopeSize (s : State) (scope : Nat) : Nat :=
  (if scope.testBit 0 then 8 else 1) * (List.range 4).foldl (fun c d => if scope.testBit (d + 1) then c * s.dim d else c) 1

/-- Words of DST: a slice for DTRED.RS, all of them otherwise. -/
def CollDesc.outLen (c : CollDesc) (op : FlueOp) (parts : Nat) : Nat := if op = .dtredRs then c.len / parts else c.len

/-- An entry of the ring table of a class's running context. -/
def ringOf (s : State) (n : Nat) (be : Bool) (r : Nat) : RingEntry :=
  match (s.part n).runCtx be with
  | some c => c.launch.rings.get r
  | none => { shape := 0, len := 0, dim := 0, memberA := 0, memberB := 0, order := [] }

/-- The conditions of R140, R142 and R278 that raise FLUE_DESC. -/
def CollDesc.ok (c : CollDesc) (op : FlueOp) (s : State) (x : Site) : Bool :=
  let n := partAt s x
  let be := beAt s x
  let g := groupOf s n be c.grp
  let parts := g.members.length * scopeSize s c.scope
  let spaces := (decide (c.sSp = 0) || decide (c.sSp = 3)) && (decide (c.dSp = 0) || decide (c.dSp = 3))
  let lenOk := match op with
    | .dtredAll => decide (c.len ≠ 0)
    | .dtredRs => decide (c.len ≠ 0) && decide (c.len % (16 * parts) = 0)
    | .dtbc => decide (c.len ≠ 0)
    | .dtbar => decide (c.len = 0) && decide (c.src = 0) && decide (c.dst = 0)
    | .ringstep => decide (c.len ≠ 0)
  let opOk := match op with
    | .dtredAll => decide (c.op ≤ 2)
    | .dtredRs => decide (c.op ≤ 2)
    | _ => decide (c.op = 0)
  c.zero && spaces && decide (g.be = be) && decide (8 * x.e.val + x.t.val ∈ g.members) && lenOk && opOk &&
    addrForm c.sSp c.src && addrForm c.dSp c.dst && (decide (op ≠ .dtbc) || decide (c.root < parts)) &&
    (decide (op ≠ .ringstep) || decide ((ringOf s n be c.ring).shape ≠ 0))

/-- The scratch checks of R140: SCRATCH_BOUNDS, then CODE_WRITE. -/
def CollDesc.bounds (c : CollDesc) (op : FlueOp) (parts : Nat) (m : Ember) (be : Bool) : Option (Nat × DWord) :=
  let out := 4 * c.outLen op parts
  if c.len = 0 then none
  else if c.sSp = 0 ∧ !m.inRange be c.src (4 * c.len) then some (excScratchBounds, BitVec.ofNat 64 c.src)
  else if c.dSp = 0 ∧ !m.inRange be c.dst out then some (excScratchBounds, BitVec.ofNat 64 c.dst)
  else if c.dSp = 0 ∧ m.hitsCode c.dst out then some (excCodeWrite, BitVec.ofNat 64 c.dst)
  else none

/-! ### Values and the tree -/

/-- A vector on its way through the tree, by element: none where the module does not hold it. -/
structure CollVal where
  /-- the subtree holds no participant (R274). -/
  empty : Bool
  vals : List (Option Word)
  deriving DecidableEq, Repr

/-- op of R277. -/
def collOp (op : Nat) (a b : Word) : FpR := match op with | 0 => fpAdd a b | 1 => fpMax a b | _ => fpMin a b

/-- comb (R275), and whether an operation saturated. -/
def CollVal.comb (op : Nat) (a b : CollVal) : CollVal × Bool :=
  if a.empty then (b, false)
  else if b.empty then (a, false)
  else
    let rs := List.zipWith (fun x y => match x, y with
      | some u, some v => let r := collOp op u v; (some r.w, r.sat)
      | x, _ => (x, false)) a.vals b.vals
    ({ empty := false, vals := rs.map (·.1) }, rs.any (·.2))

/-- One round of natural pairing over slots listed by rising number (R275). -/
def pairRound (op : Nat) (xs : List (Nat × CollVal)) : List (Nat × CollVal) × Bool :=
  xs.foldr (fun (c, x) (acc, sat) => match acc with
    | (c', y) :: rest =>
      if c / 2 = c' then let (z, t) := x.comb op y; ((c', z) :: rest, sat || t) else ((c / 2, x) :: acc, sat)
    | [] => ([(c / 2, x)], sat)) ([], false)

/-- `tree` of R275 over 2^k slots, absent ones left out. -/
def pairTree (op : Nat) : Nat → List (Nat × CollVal) → Bool → CollVal × Bool
  | 0, xs, sat => (match xs with | (_, v) :: _ => v | [] => { empty := true, vals := [] }, sat)
  | k + 1, xs, sat => let (ys, t) := pairRound op xs; pairTree op k ys (sat || t)

/-- The slot of a participant through levels 1 to 3 (Table 12.1): die, grate of the die, 8·e + t. -/
def leafSlot (k : Nat) : Nat := let l := k / 8; (l / 1600 * 32 + l / 64 % 25) * 512 + 8 * (l % 64) + k % 8

/-- The module's value of an instance (R277): the participants' vectors through levels 1 to 3. -/
def moduleValue (op : Nat) (xs : List (Nat × List Word)) : CollVal × Bool :=
  pairTree op 18 (xs.map fun (k, ws) => (leafSlot k, { empty := false, vals := ws.map some })) false

/-! ### The exchanges -/

/-- What a module does, in order, for an instance (R280). -/
inductive CollAct where
  /-- send the held elements of a range: level, round, results, destination. -/
  | send (level round : Nat) (results : Bool) (dst : Pos) (lo hi : Nat)
  /-- wait for a partner's contribution over a range and combine it: the own operand is the first where `mine`. -/
  | join (level round : Nat) (src : Pos) (lo hi : Nat) (mine : Bool)
  /-- wait for the contributions of all hearth peers over a range and form the tree over the members. -/
  | hearth (lo hi : Nat)
  /-- keep only a range. -/
  | trim (lo hi : Nat)
  /-- wait for results from a partner over a range. -/
  | take (level round : Nat) (src : Pos) (lo hi : Nat)
  deriving DecidableEq, Repr

/-- The largest power of two not above `n`. -/
def floorPow2 (n : Nat) : Nat := 2 ^ Nat.log2 n

/-- The hearth members other than the own. -/
def otherMembers (me : Pos) : List Pos := ((List.range 8).filter fun m => decide (m ≠ me.member)).map fun m => { me with member := m }

/-- A torus level that exchanges whole vectors (Table 12.2). -/
def dimWhole (s : State) (me : Pos) (len d : Nat) : List CollAct :=
  let n := s.dim d
  let p := floorPow2 n
  let t := posCoord me d
  let l := d + 1
  if n = 1 then []
  else if p ≤ t then [.send l 0 false (posWith me d (t - p)) 0 len, .trim 0 0, .take l 0 (posWith me d (t - p)) 0 len]
  else
    (if t + p < n then [.join l 0 (posWith me d (t + p)) 0 len true] else []) ++
    ((List.range (Nat.log2 p)).flatMap fun r =>
      let h := p / 2 ^ (r + 1)
      let q := posWith me d (t ^^^ h)
      [CollAct.send l (r + 1) false q 0 len, .join l (r + 1) q 0 len (decide (t / h % 2 = 0))]) ++
    (if t + p < n then [.send l 0 true (posWith me d (t + p)) 0 len] else [])

/-- The halving rounds of a torus level from a range: what is done, and the ranges given up with their partners, last first. -/
def halvings (me : Pos) (d p : Nat) : Nat → Nat → Nat → Nat → List CollAct × List (Nat × Pos × Nat × Nat) × Nat × Nat
  | 0, _, lo, hi => ([], [], lo, hi)
  | fuel + 1, r, lo, hi =>
    let h := p / 2 ^ r
    let t := posCoord me d
    let q := posWith me d (t ^^^ h)
    let mid := (lo + hi) / 2
    let low := decide (t / h % 2 = 0)
    let keep := if low then (lo, mid) else (mid, hi)
    let give := if low then (mid, hi) else (lo, mid)
    let (acts, back, a, b) := halvings me d p fuel (r + 1) keep.1 keep.2
    ([CollAct.send (d + 1) r false q give.1 give.2, .join (d + 1) r q keep.1 keep.2 low] ++ acts,
      back ++ [(r, q, give.1, give.2)], a, b)

/-- The torus levels that split the vector, nested: each dimension halves what the later ones carry, and the results are gathered
on the way back (Table 12.2). DESIGN CHOICE (log 22): a position whose bit is clear keeps the lower half. -/
def dimsSplit (s : State) (me : Pos) : List Nat → Nat → Nat → List CollAct
  | [], lo, hi => [.trim lo hi]
  | d :: ds, lo, hi =>
    let n := s.dim d
    let p := floorPow2 n
    let t := posCoord me d
    let l := d + 1
    if n = 1 then dimsSplit s me ds lo hi
    else if p ≤ t then [.send l 0 false (posWith me d (t - p)) lo hi, .trim 0 0, .take l 0 (posWith me d (t - p)) lo hi]
    else
      let (acts, back, a, b) := halvings me d p (Nat.log2 p) 1 lo hi
      let gather := back.foldl (fun (c : List CollAct × Nat × Nat) (r, q, x, y) =>
        (c.1 ++ [.send l r true q c.2.1 c.2.2, .take l r q x y], min c.2.1 x, max c.2.2 y)) ([], a, b)
      (if t + p < n then [.join l 0 (posWith me d (t + p)) lo hi true] else []) ++ acts ++ dimsSplit s me ds a b ++ gather.1 ++
        (if t + p < n then [.send l 0 true (posWith me d (t + p)) lo hi] else [])

/-- Member `m` of a hearth group owns these elements of a vector it splits (log 22). -/
def eighth (len m : Nat) : Nat × Nat := (m * len / 8, (m + 1) * len / 8)

/-- The dimensions that a scope selects. -/
def scopeDims (scope : Nat) : List Nat := (List.range 4).filter fun d => scope.testBit (d + 1)

/-- All that a module does for an instance (R280). -/
def collActs (s : State) (me : Pos) (h : CollHdr) : List CollAct :=
  let hearth := h.scope.testBit 0
  if h.len ≤ 1012 then
    (if hearth then (otherMembers me).map (fun q => CollAct.send 0 1 false q 0 h.len) ++ [.hearth 0 h.len] else []) ++
      (scopeDims h.scope).flatMap fun d => dimWhole s me h.len d
  else if hearth then
    let mine := eighth h.len me.member
    (otherMembers me).map (fun q => let r := eighth h.len q.member; CollAct.send 0 1 false q r.1 r.2) ++
      [.hearth mine.1 mine.2] ++ dimsSplit s me (scopeDims h.scope) mine.1 mine.2 ++
      (otherMembers me).map (fun q => CollAct.send 0 1 true q mine.1 mine.2) ++
      (otherMembers me).map (fun q => let r := eighth h.len q.member; CollAct.take 0 1 q r.1 r.2)
  else dimsSplit s me (scopeDims h.scope) 0 h.len

/-- The module, by its selected coordinates, that rank `i` of an instance lies on (R278): member, then t0 to t3. -/
def rankModule (s : State) (me : Pos) (scope : Nat) (module : Nat) : Pos :=
  let (p, rest) := [3, 2, 1, 0].foldl (fun (c : Pos × Nat) d =>
    if scope.testBit (d + 1) then (posWith c.1 d (c.2 % s.dim d), c.2 / s.dim d) else c) (me, module)
  if scope.testBit 0 then { p with member := rest % 8 } else p

/-- The index of a module in the order of ranks. -/
def moduleIndex (s : State) (p : Pos) (scope : Nat) : Nat :=
  (List.range 4).foldl (fun c d => if scope.testBit (d + 1) then c * s.dim d + posCoord p d else c)
    (if scope.testBit 0 then p.member else 0)

/-- An element of a result is wanted at a position, or further on by way of it, when results of a level's round reach it: always,
but for DTRED.RS, where only the slices of the ranks there are gathered. A level that exchanges whole vectors returns them whole to the
positions that a later level combines them at (R280). -/
def collWanted (s : State) (me : Pos) (h : CollHdr) (parts : Nat) (level round : Nat) (dst : Pos) (e : Nat) : Bool :=
  let later := (scopeDims h.scope).any fun d => decide (level ≤ d) && decide (s.dim d ≠ 1)
  if h.kind ≠ 1 ∨ h.len ≤ 1012 ∧ level ≠ 0 ∧ round = 0 ∧ later then true
  else
    let y := rankModule s me h.scope (e / (h.len / (parts * scopeSize s h.scope)) / parts)
    (List.range 4).all (fun d => decide (d + 1 < level) || !h.scope.testBit (d + 1) ||
      (if d + 1 = level ∧ round ≠ 0 then
        let p := floorPow2 (s.dim d)
        let k := 2 * (p / 2 ^ round)
        decide ((if posCoord y d < p then posCoord y d else posCoord y d - p) % k = posCoord dst d % k)
      else decide (posCoord y d = posCoord dst d))) &&
    (decide (level ≠ 0) || decide (y.member = dst.member))

/-- Lay words over a vector from an element on. -/
def overlay (vs : List (Option Word)) (e : Nat) (ws : List Word) : List (Option Word) :=
  vs.zipIdx.map fun (v, i) => if e ≤ i ∧ i < e + ws.length then ws[i - e]? else v

/-- What has arrived of one exchange over a range: none while an element is missing (R280). -/
def pieceVal (ps : List CollPiece) (level round : Nat) (results : Bool) (src : Pos) (len lo hi : Nat) (want : Nat → Bool) :
    Option CollVal :=
  let ps := ps.filter fun p => decide (p.level = level) && decide (p.round = round) && (p.results == results) && decide (p.src = src)
  if ps.any fun p => p.words.isNone then some { empty := true, vals := List.replicate len none }
  else if len = 0 then (if ps.isEmpty then none else some { empty := false, vals := [] })
  else
    let v := ps.foldl (fun v p => overlay v p.elem (p.words.getD [])) (List.replicate len none)
    if (List.range (hi - lo)).all fun i => !want (lo + i) || ((v[lo + i]?).getD none).isSome then
      some { empty := false, vals := v.zipIdx.map fun (x, i) => if lo ≤ i ∧ i < hi ∧ want i then x else none }
    else none

/-- The held, wanted elements of a range as runs of at most 1,012 words (R279, R282). -/
def cutRuns : Nat → Nat → List (Option Word) → List (Nat × List Word)
  | 0, _, _ => []
  | fuel + 1, e, vs =>
    match vs with
    | [] => []
    | none :: rest => cutRuns fuel (e + 1) rest
    | _ =>
      let run := ((vs.take 1012).takeWhile Option.isSome).filterMap id
      (e, run) :: cutRuns fuel (e + run.length) (vs.drop run.length)

/-- How far an instance has come: what it holds, the sends to make with their exchange, and whether all is done. -/
structure CollRun where
  cur : CollVal
  sat : Bool
  sends : List ((Nat × Nat × Bool) × Pos × List (Option Word) × Bool × Nat)
  finished : Bool
  deriving DecidableEq, Repr

/-- Run the acts of an instance as far as the pieces that have arrived allow (R279, R280). -/
def runActs (s : State) (me : Pos) (h : CollHdr) (parts : Nat) (ps : List CollPiece) : List CollAct → CollRun → CollRun
  | [], r => { r with finished := true }
  | a :: as, r =>
    match a with
    | .send l k res dst lo hi =>
      let out := r.cur.vals.zipIdx.map fun (v, i) =>
        if lo ≤ i ∧ i < hi ∧ (!res || collWanted s me h parts l k dst i) then v else none
      runActs s me h parts ps as { r with sends := r.sends ++ [((l, k, res), dst, out, r.cur.empty, lo)] }
    | .join l k src lo hi mine =>
      match pieceVal ps l k false src h.len lo hi (fun _ => true) with
      | none => r
      | some v =>
        let (c, sat) := if mine then r.cur.comb h.op v else v.comb h.op r.cur
        runActs s me h parts ps as { r with cur := c, sat := r.sat || sat }
    | .hearth lo hi =>
      let got := (otherMembers me).map fun q => (q.member, pieceVal ps 0 1 false q h.len lo hi (fun _ => true))
      if got.any fun g => g.2.isNone then r
      else
        let all := (me.member, r.cur) :: got.filterMap fun g => g.2.map fun v => (g.1, v)
        let present := (List.range 8).filterMap fun m => (all.find? fun g => decide (g.1 = m) && !g.2.empty)
        let (c, sat) := pairTree h.op 3 present false
        let c := if present.isEmpty then { empty := true, vals := r.cur.vals } else c
        runActs s me h parts ps as { r with cur := c, sat := r.sat || sat }
    | .trim lo hi =>
      let vals := r.cur.vals.zipIdx.map fun (v, i) => if lo ≤ i ∧ i < hi then v else none
      runActs s me h parts ps as { r with cur := { r.cur with vals := vals } }
    | .take l k src lo hi =>
      match pieceVal ps l k true src h.len lo hi (fun e => collWanted s me h parts l k me e) with
      | none => r
      | some v =>
        let vals := List.zipWith (fun x y => match y with | some w => some w | none => x) r.cur.vals v.vals
        runActs s me h parts ps as { r with cur := { empty := r.cur.empty && v.empty, vals := vals } }

/-- The run of an instance from the module's value. -/
def instRun (s : State) (n : Nat) (i : CollInst) : Option CollRun :=
  i.value.map fun v =>
    let me := s.logicalPos n
    let cur : CollVal := match v with
      | some ws => { empty := false, vals := ws.map some }
      | none => { empty := true, vals := List.replicate i.hdr.len none }
    runActs s me i.hdr (groupOf s n i.be i.hdr.grp).members.length i.pieces (collActs s me i.hdr)
      { cur := cur, sat := i.sat, sends := [], finished := false }

/-- Change the instance of a class's group at a count. -/
def modInst (n : Nat) (be : Bool) (g c : Nat) (f : CollInst → CollInst) (s : State) : State :=
  s.modPart n fun p => { p with tree := { p.tree with
    insts := p.tree.insts.map fun i => if i.be = be ∧ i.hdr.grp = g ∧ i.hdr.cseq = c then f i else i } }

/-- The frames of one send (R282): a subtree without participants and a barrier send one frame without words. -/
def sendFrames (n : Nat) (vc : Vc) (h : CollHdr) (key : Nat × Nat × Bool) (dst : Pos) (vals : List (Option Word)) (empty : Bool)
    (lo : Nat) (s : State) : State :=
  let h := { h with level := key.1, round := key.2.1, results := key.2.2, empty := empty, cseq := h.cseq % 2 ^ 40 }
  if empty ∨ h.len = 0 then sendFrame n (some dst) vc (.coll h lo 0 []) s
  else (cutRuns (vals.length + 1) 0 vals).zipIdx.foldl (fun s (r, k) =>
    sendFrame n (some dst) vc (.coll h r.1 k r.2) (useCount n (decide (vc = .be)) 0 (4 * r.2.length) s)) s

/-- Advance an instance: the frames that it can send now and has not sent go out (R279, R280). -/
def collAdvance (n : Nat) (be : Bool) (g c : Nat) (s : State) : State :=
  match findInst s n be g c with
  | none => s
  | some i => match instRun s n i with
    | none => s
    | some r =>
      let new := r.sends.filter fun x => decide (x.1 ∉ i.sent)
      let s := modInst n be g c (fun i => { i with sent := i.sent ++ new.map (·.1) }) s
      new.foldl (fun s (key, dst, vals, empty, lo) => sendFrames n (if be then .be else .lc) i.hdr key dst vals empty lo s) s

/-! ### Reading the sources -/

/-- A flue operation as the mover path sees it (R279). -/
def FlueJob.mover (j : FlueJob) : MoverJob :=
  { t := j.t, be := j.be, desc := j.desc, pc := j.pc, kind := .move, st := .active, done := 0, stall := false, sent := false, seq := j.seq }

/-- Read the source of a flue operation (R279). -/
def flueRead (l : Nat) (j : FlueJob) (s : State) : Piece :=
  let c := collDesc j.desc
  let k := 4 * c.len
  if c.sSp = 0 then
    match (s.ember l).mismatches c.src k with
    | [] => .moved s ((s.ember l).scratch.read c.src k)
    | bad => .over (parityFault l j.t j.pc bad s)
  else moverReadV true (k / pageBytes + 2) l j.mover c.src k s

/-- Write bytes at the destination of a flue operation, from a byte offset on. -/
def flueWrite (l : Nat) (j : FlueJob) (off : Nat) (bs : List Byte) (s : State) : Piece :=
  let c := collDesc j.desc
  if c.dSp = 0 then .moved (storeScratch l (c.dst + off) bs s) []
  else moverWriteV true (bs.length / pageBytes + 2) l j.mover ((c.dst + off : Nat) : Int) bs s

/-- The queued operation of a participant in an instance. -/
def flueJobOf (s : State) (k g c : Nat) : Option FlueJob :=
  (s.ember (k / 8)).flueQ.find? fun j => decide (j.t = k % 8) && decide (j.op ≠ .ringstep) && decide (j.count = c) &&
    decide ((collDesc j.desc).grp = g)

/-- Read the vectors of participants: none where one waits or is over. -/
def readSources (g c : Nat) : List Nat → State → State × Option (List (Nat × List Word))
  | [], s => (s, some [])
  | k :: ks, s =>
    match flueJobOf s k g c with
    | none => (s, none)
    | some j => match flueRead (k / 8) j s with
      | .stalled s => (s, none)
      | .over s => (s, none)
      | .moved s bs => match readSources g c ks s with
        | (s, some rest) => (s, some ((k, wordsOf bs) :: rest))
        | (s, none) => (s, none)

/-- Once every participant of the module has issued, the nodes form the module's value (R277, R279, R286). -/
def formValue (n : Nat) (be : Bool) (g c : Nat) (s : State) : State :=
  match findInst s n be g c with
  | none => s
  | some i =>
    let members := (groupOf s n be g).members
    if i.value.isSome || !members.all fun k => decide (k ∈ i.issued) then s
    else
      let put (v : Option (List Word)) (sat : Bool) (s : State) : State :=
        collAdvance n be g c (modInst n be g c (fun i => { i with value := some v, sat := sat }) s)
      match i.hdr.kind with
      | 3 => put (some []) false s
      | 2 =>
        let parts := members.length
        if i.root / parts ≠ moduleIndex s (s.logicalPos n) i.hdr.scope then put none false s
        else match readSources g c [members.getD (i.root % parts) 0] s with
          | (s, some ((_, ws) :: _)) => put (some ws) false s
          | (s, _) => s
      | _ => match readSources g c members s with
        | (s, some xs) =>
          let (v, sat) := moduleValue i.hdr.op xs
          put (some (v.vals.filterMap id)) sat s
        | (s, none) => s

/-! ### COLL frames -/

/-- The fields of R283 agree. -/
def hdrAgrees (a b : CollHdr) : Bool :=
  decide (a.grp = b.grp) && decide (a.kind = b.kind) && decide (a.op = b.op) && decide (a.scope = b.scope) && decide (a.len = b.len)

/-- A frame joins the instance of its count, or is refused where it disagrees (R283). -/
def collJoin (n f : Nat) (fr : Frame) (c : Nat) (s : State) : State :=
  match fr.body with
  | .coll h e _ ws =>
    let be := decide (fr.vc = .be)
    match findInst s n be h.grp c with
    | none => s
    | some i =>
      if !hdrAgrees h i.hdr then countMism n (refuseFrame f n 8 s)
      else modInst n be h.grp c (fun i => { i with pieces := i.pieces ++
        [{ level := h.level, round := h.round, results := h.results, src := fr.src, elem := e
           words := if h.empty then none else some ws }] }) s
  | _ => s

/-- A COLL frame leaves its slots of the credit pool. -/
def leavePool (n f : Nat) (fr : Frame) (s : State) : State :=
  if (f, fr) ∈ (s.part n).tree.inPool then
    freeSlots f fr.vc n (lastFlits fr.body) (s.modPart n fun p => { p with tree := { p.tree with inPool := p.tree.inPool.erase (f, fr) } })
  else s

/-- COLL: the oldest COLL frame is checked and combined, kept as early, or refused (R283). An early frame that finds the
partition's share of its flue die's buffer full stays where it is, and later frames are looked at. -/
def collTake (n : Nat) : List (Nat × Frame) → State → State
  | [], s => s
  | (f, fr) :: rest, s =>
    match fr.body with
    | .coll h _ _ _ =>
      let be := decide (fr.vc = .be)
      let own := groupCount s n be h.grp
      let c := extendCount own h.cseq
      let out (s : State) : State := leavePool n f fr (s.modPart n fun p => { p with inbox := p.inbox.erase (f, fr) })
      if (findInst s n be h.grp c).isSome then
        let s := collJoin n f fr c (out s)
        collAdvance n be h.grp c s
      else if c < own then countMism n (refuseFrame f n 8 (out s))
      else
        let held := bufHeld s n f
        if held + heldBytes fr ≤ bufShare s then
          (out s).modPart n fun p => { p with tree := { p.tree with
            early := p.tree.early ++ [(f, fr)]
            bufPeak := if p.tree.bufPeak.toNat < held + heldBytes fr then BitVec.ofNat 23 (min (held + heldBytes fr) (2 ^ 23 - 1))
              else p.tree.bufPeak } }
        else collTake n rest s
    | _ => collTake n rest s

/-- The COLL command; a frame behind its sender's drop marker waits with the marker (R194). -/
def execCollFrame (n : PartId) (s : State) : Out :=
  let inbox := (s.part n.val).inbox
  let late := behindMark [] inbox
  .next (bufMark n.val (collTake n.val (inbox.filter fun e => decide (e.2 ∉ late)) s))

/-! ### Issue -/

/-- Early frames of a count meet the collective that the module issues there; one that disagrees is refused on the flue it came by (R283). -/
def joinEarly (n : Nat) (be : Bool) (g c : Nat) (s : State) : State :=
  let mine (e : Nat × Frame) : Bool := match e.2.body with
    | .coll h _ _ _ => (decide (e.2.vc = .be) == be) && decide (h.grp = g) && decide (extendCount c h.cseq = c)
    | _ => false
  let es := (s.part n).tree.early.filter mine
  let s := s.modPart n fun p => { p with tree := { p.tree with early := p.tree.early.filter (fun e => !mine e) } }
  bufMark n (es.foldl (fun s e => collJoin n e.1 e.2 c s) s)

/-- Queue a flue operation (R114). -/
def flueEnqueue (x : Site) (op : FlueOp) (d : Desc) (count : Nat) (s : State) : State :=
  let n := partAt s x
  let j : FlueJob := { t := x.t.val, be := beAt s x, op := op, desc := d, pc := (thrAt s x).pc, count := count
                       sent := false, acked := false, got := false, seq := (s.part n).launched }
  countLaunch n (s.modEmber x.e.val fun m => { m with flueQ := m.flueQ ++ [j] })

/-- The static check of a flue instruction: RD names a td register, RA and RB are zero. -/
def flueStatic (f : BitVec 52) : Option Nat :=
  reserved (decide (fRd f < 16) && decide (fRa f = 0) && decide (fRb f = 0) && decide (fLow f = 0))

/-- Issue a collective (R140 to R142, R278). -/
def collBody (x : Site) (op : FlueOp) (raw : Desc) (s : State) : Eff :=
  let n := partAt s x
  let be := beAt s x
  let c := collDesc raw
  let parts := (groupOf s n be c.grp).members.length * scopeSize s c.scope
  let count := (thrAt s x).collCount.get c.grp
  if !c.ok op s x then .exc excFlueDesc (descWord raw 2)
  else match c.bounds op parts (s.ember x.e.val) be with
    | some (k, a) => .exc k a
    | none =>
      if c.seq ≠ count % 65536 then .exc excCollOrder 0
      else
        let hdr : CollHdr := { grp := c.grp, kind := op.kind, op := c.op, scope := c.scope, level := 0, round := 0, results := false
                               empty := false, len := c.len, cseq := count }
        let key := 8 * x.e.val + x.t.val
        match findInst s n be c.grp count with
        | some i =>
          if !hdrAgrees hdr i.hdr then
            .stay (loseContext n be (some (excRec s x.e.val x.t.val excCollMismatch 0 (thrAt s x).pc 0)) 0 (countMism n s))
          else
            let s := flueEnqueue x op raw count (modAt x (fun h => { h with collCount := h.collCount.set c.grp (count + 1) }) s)
            .ok (formValue n be c.grp count (modInst n be c.grp count (fun i => { i with issued := i.issued ++ [key] }) s))
        | none =>
          let s := flueEnqueue x op raw count (modAt x (fun h => { h with collCount := h.collCount.set c.grp (count + 1) }) s)
          let i : CollInst := { be := be, hdr := hdr, root := c.root, issued := [key], value := none, sat := false, done := []
                                pieces := [], sent := [] }
          let s := s.modPart n fun p => { p with tree := { p.tree with insts := p.tree.insts ++ [i] } }
          .ok (formValue n be c.grp count (joinEarly n be c.grp count s))

def issueColl (minor : Nat) (op : FlueOp) (x : Site) (f : BitVec 52) (s : State) : State :=
  issue x (insnWord 0x39 minor f) f [] [] (flueRoom x) (flueStatic f) (fun s => collBody x op ((thrAt s x).td.get (fRd f)) s) s

/-- DTRED.ALL, DTRED.RS, DTBC, DTBAR (R142, R286). -/
def execDtredAll (x : Site) (f : BitVec 52) (s : State) : Out := .next (issueColl 0 .dtredAll x f s)
def execDtredRs (x : Site) (f : BitVec 52) (s : State) : Out := .next (issueColl 1 .dtredRs x f s)
def execDtbc (x : Site) (f : BitVec 52) (s : State) : Out := .next (issueColl 2 .dtbc x f s)
def execDtbar (x : Site) (f : BitVec 52) (s : State) : Out := .next (issueColl 3 .dtbar x f s)

/-! ### Completion -/

/-- Take a flue operation out of its queue. -/
def dropFlueJob (l : Nat) (j : FlueJob) (s : State) : State :=
  returnBe (s.partOf l) (s.modEmber l fun m => { m with flueQ := m.flueQ.erase j })

/-- The result of an instance at a participant: the words of DST (R142, R278). -/
def resultAt (s : State) (n : Nat) (i : CollInst) (vals : List (Option Word)) (key : Nat) : List Word :=
  let members := (groupOf s n i.be i.hdr.grp).members
  let parts := members.length * scopeSize s i.hdr.scope
  if i.hdr.kind = 1 then
    let rank := moduleIndex s (s.logicalPos n) i.hdr.scope * members.length + members.idxOf key
    let k := i.hdr.len / parts
    ((vals.drop (rank * k)).take k).filterMap id
  else vals.filterMap id

/-- The result is written at a participant: CSAT and CNAN, TALLY, and the end of the instance once all are served (R142). A sum saturates where a
partial does (R277); MAX and MIN never do. Whether a partial that another module formed saturated is carried by no frame (Table 12.4): for a sum
with a scope beyond the module, none of whose partials formed here saturated, it is a free value (log 3). -/
def collFinish (l : Nat) (j : FlueJob) (i : CollInst) (sat : Bool) (ws : List Word) (s : State) : State :=
  let n := s.partOf l
  let c := collDesc j.desc
  let arith := decide (i.hdr.kind ≤ 1)
  let (v, s) := if decide (i.hdr.kind ≤ 1) && decide (i.hdr.op = 0) && decide (i.hdr.scope ≠ 0) && !sat then s.takeFree else (0, s)
  let sat := arith && (sat || decide (v % 2 = 1))
  let nan := arith && ws.any fun w => decide (decF w = .nan)
  let s := s.modThread l j.t fun h => { h with tsw := h.tsw ||| BitVec.ofNat 64 (64 * b2n sat + 128 * b2n nan) }
  let s := tallyAdd l j.t c.tally 1 (dropFlueJob l j s)
  let done := i.done ++ [8 * l + j.t]
  if (groupOf s n i.be i.hdr.grp).members.all fun k => decide (k ∈ done) then
    s.modPart n fun p => { p with tree := { p.tree with
      insts := p.tree.insts.filter fun q => !((q.be == i.be) && decide (q.hdr.grp = i.hdr.grp) && decide (q.hdr.cseq = i.hdr.cseq))
      collCnt := satAdd p.tree.collCnt 1, collOvf := p.tree.collOvf || satOvf p.tree.collCnt 1 } }
  else modInst n i.be i.hdr.grp i.hdr.cseq (fun q => { q with done := done }) s

/-- COLLECTIVE_COMPLETE: the thread's oldest collective of a group has its result, which is written to DST (R142, R285). -/
def execCollectiveComplete (x : Site) (grp : Fin 64) (strike : List Nat) (flips : List LineFlip) (s : State) : Out :=
  let l := x.e.val
  let s := strikeLines (s.partOf l) flips s
  .next (match (s.ember l).flueQ.find? fun j => decide (j.t = x.t.val) && decide (j.op ≠ .ringstep) &&
      decide ((collDesc j.desc).grp = grp.val) with
  | none => s
  | some j =>
    let n := s.partOf l
    let s := formValue n j.be grp.val j.count (s.modEmber l (Ember.strike strike))
    match findInst s n j.be grp.val j.count with
    | none => s
    | some i => match instRun s n i with
      | none => s
      | some r =>
        if !r.finished then s
        else
          let ws := resultAt s n i r.cur.vals (8 * l + j.t)
          match flueWrite l j 0 (ws.flatMap fun w => leBytes 4 w.toNat) s with
          | .moved s _ => collFinish l j i r.sat ws s
          | .stalled s => s
          | .over s => dropFlueJob l j s)

/-! ### Ring steps -/

/-- Position `i` of a ring (Table 8.6). -/
def ringPos (s : State) (me : Pos) (e : RingEntry) (i : Nat) : Pos :=
  match e.shape with
  | 1 => { me with member := e.order.getD i 0 }
  | 2 => posWith { me with member := e.memberA } e.dim i
  | _ =>
    let d := s.dim e.dim
    if i < d then posWith { me with member := e.memberA } e.dim i else posWith { me with member := e.memberB } e.dim (2 * d - 1 - i)

/-- The torus direction from position `i` of a ring to the next (Table 8.6): + on a LINE, and on member a of a FOLD, - on its member b. -/
def ringVia (s : State) (e : RingEntry) (i : Nat) : Option Nat := match e.shape with
  | 1 => none
  | 2 => some 0
  | _ => some (if i < s.dim e.dim then 0 else 1)

/-- The own index on a ring. -/
def ringIndex (s : State) (me : Pos) (e : RingEntry) : Option Nat := (List.range e.len).find? fun i => decide (ringPos s me e i = me)

/-- RINGSTEP: the step is issued, and the previous position is told that its block may come (R144, R287). A position that is not
on the ring has no neighbour there, and its step waits. -/
def execRingstep (x : Site) (f : BitVec 52) (s : State) : Out :=
  .next (issue x (insnWord 0x3A 0 f) f [] [] (flueRoom x) (flueStatic f) (fun s =>
    let raw := (thrAt s x).td.get (fRd f)
    let n := partAt s x
    let be := beAt s x
    let c := collDesc raw
    let e := ringOf s n be c.ring
    if !c.ok .ringstep s x then .exc excFlueDesc (descWord raw 2)
    else match c.bounds .ringstep 1 (s.ember x.e.val) be with
      | some (k, a) => .exc k a
      | none =>
        if c.step ≠ (thrAt s x).ringStep.get c.ring + 1 ∨ c.step < 1 ∨ e.len - 1 < c.step then .exc excCollOrder 0
        else
          let s := flueEnqueue x .ringstep raw c.step (modAt x (fun h => { h with ringStep := h.ringStep.set c.ring c.step }) s)
          let me := s.logicalPos n
          match ringIndex s me e with
          | none => .ok s
          | some i =>
            let hdr : RingHdr := { ring := c.ring, step := c.step, l := e.len, len := c.len, ember := x.e.val, thread := x.t.val
                                   origin := (i + e.len - c.step) % e.len }
            .ok (sendFrame n (some (ringPos s me e ((i + e.len - 1) % e.len))) (if be then .be else .lc) (.ringReady hdr) s)) s)

/-- The ring step that a RING frame concerns: its ember, thread, ring and class. -/
def ringJob (s : State) (be : Bool) (h : RingHdr) (p : FlueJob → Bool) : Option FlueJob :=
  (s.ember h.ember).flueQ.find? fun j => decide (j.op = .ringstep) && (j.be == be) && decide (j.t = h.thread) &&
    decide ((collDesc j.desc).ring = h.ring) && p j

/-- Replace a flue operation, or take it out. -/
def setFlueJob (l : Nat) (j : FlueJob) (j' : FlueJob) (s : State) : State :=
  if j'.got && j'.acked then dropFlueJob l j s
  else s.modEmber l fun m => { m with flueQ := replaceFirst j j' m.flueQ }

/-- RING_READY: the receiver has issued its step, so the sender's block goes (R144, R287). It waits until the own step has been
issued and its source can be read. -/
def execRingReadyFrame (n : PartId) (s : State) : Out :=
  let due (f : Frame) : Bool := match f.body with
    | .ringReady h => (ringJob s (decide (f.vc = .be)) h fun j => !j.sent && decide ((collDesc j.desc).step = h.step)).isSome
    | _ => false
  .next (match takeFrame n.val due s with
  | none => s
  | some (_, fr, s') =>
    match fr.body with
    | .ringReady h =>
      let be := decide (fr.vc = .be)
      match ringJob s be h fun j => !j.sent && decide ((collDesc j.desc).step = h.step) with
      | none => s
      | some j => match flueRead h.ember j s' with
        | .stalled _ => s
        | .over s => dropFlueJob h.ember j s
        | .moved s bs =>
          let c := collDesc j.desc
          let e := ringOf s n.val be c.ring
          let me := s.logicalPos n.val
          let i := (ringIndex s me e).getD 0
          let hdr : RingHdr := { h with len := c.len, l := e.len, origin := (i + 1 + e.len - c.step) % e.len }
          sendFrameVia (ringVia s e i) n.val (some (ringPos s me e ((i + 1) % e.len))) fr.vc (.ringData hdr 0 (wordsOf bs))
            (setFlueJob h.ember j { j with sent := true } (useCount n.val be 0 bs.length s))
    | _ => s)

/-- RING_DATA: a block arrives, is checked and written; after its last word TALLY counts and ACK goes back (R287). -/
def execRingDataFrame (n : PartId) (s : State) : Out :=
  .next (match takeFrame n.val (fun f => match f.body with | .ringData .. => true | _ => false) s with
  | none => s
  | some (f, fr, s') =>
    match fr.body with
    | .ringData h e0 ws =>
      let be := decide (fr.vc = .be)
      let ent := ringOf s n.val be h.ring
      let me := s.logicalPos n.val
      let i := (ringIndex s me ent).getD 0
      match ringJob s be h fun j => !j.got && decide ((collDesc j.desc).step = h.step) && decide ((collDesc j.desc).len = h.len) &&
          decide (h.origin = (i + ent.len - h.step) % ent.len) with
      | none => countMism n.val (refuseFrame f n.val 8 s')
      | some j => match flueWrite h.ember j (4 * e0) (ws.flatMap fun w => leBytes 4 w.toNat) s' with
        | .stalled s'' => { s'' with parts := (s''.modPart n.val fun p => { p with inbox := (s.part n.val).inbox }).parts }
        | .over s => dropFlueJob h.ember j s
        | .moved s _ =>
          if h.len ≤ e0 + ws.length then
            let s := setFlueJob h.ember j { j with got := true } s
            let s := tallyAdd h.ember h.thread (collDesc j.desc).tally 1 s
            sendFrame n.val (some (ringPos s me ent ((i + ent.len - 1) % ent.len))) fr.vc (.ringAck h) s
          else s
    | _ => s)

/-- RING_ACK: the block has been written at the next position, so STALLY counts (R144, R287). -/
def execRingAckFrame (n : PartId) (s : State) : Out :=
  .next (match takeFrame n.val (fun f => match f.body with | .ringAck _ => true | _ => false) s with
  | none => s
  | some (_, fr, s) =>
    match fr.body with
    | .ringAck h =>
      match ringJob s (decide (fr.vc = .be)) h fun j => j.sent && !j.acked && decide ((collDesc j.desc).step = h.step) with
      | none => s
      | some j =>
        tallyAdd h.ember h.thread (collDesc j.desc).stally 1 (setFlueJob h.ember j { j with acked := true } s)
    | _ => s)

end Sys2Proof.Machine
end

