-- ==== Sys2Proof/Machine/HostObjs.lean ====
section
/-! DEFINITION. The admin commands that create and end objects: contexts (R410, R412, R420), queues (R406), memory objects and their
pages (R415, R416, R206, R209), the unbank pool, events (R414) and owners (R421). -/

namespace Sys2Proof.Machine

/-! ### Contexts -/

/-- A partition can take a context: not halted, not withdrawn, and its tenant not being removed (R230, R309, R422). -/
def Part.takesCtx (p : Part) : Bool := !p.prot.halted && decide (p.rl.state ≠ .withdrawn) && p.removing.isNone

/-- A module of the torus comes to a job that already runs: an OPEN of that job with a later epoch has arrived, so its admission is the
reservation of a replacement (R317; DEDUCED, log 38). -/
def joinsRunning (s : State) (n : Nat) : Bool :=
  decide (s.fab.member.toNat < 8) && (s.part n).inbox.any fun e => match e.2.body with
    | .openF b => decide (b.jobId = (s.part n).adm.jobId) && decide (b.epoch ≠ 0)
    | _ => false

/-- Hold a job in a reservation (R306): the launch record, the image with its measurement, and the lineage. A standby starts from the job's first
boundary, B_0; a replacement has heard no SEAL of a job that runs (DEDUCED, log 106). -/
def reserveJob (n : Nat) (r : Launch) (image : List Byte) (meas : Digest) (s : State) : State :=
  let d := lineageOf s r
  s.modPart n fun p => { p with
    rsvJob := some { launch := r, image := image, meas := meas, lineage := d }
    tree := { p.tree with linValid := true, lineage := BitVec.ofNat 32 d.toNat, digest := d }
    rl := { p.rl with
      state := .banked, role := .standby
      jsealedAt := if (s.ownPos).member = 8 then r.startStep else BitVec.allOnes 64 } }

/-- Hold a job in a reservation, and expect its traffic (R261, R306). -/
def holdReservation (n : Nat) (r : Launch) (image : List Byte) (meas : Digest) (s : State) : State := openFlues n (reserveJob n r image meas s)

/-- The admission of a replacement becomes its reservation (R317): the job key moves with it. -/
def admissionToReservation (n : Nat) (s : State) : State :=
  let s := clearSlot (slotPk n) (clearSlot (slotJob n) (setSlot (slotRsv n) (slotKey s (slotJob n)) s))
  s.modPart n fun p => { p with rsv := p.adm, adm := admFresh, prot := { p.prot with keys := false, nextKeys := false } }

/-- A context object enters its slot (R410): it is installed where no context holds its class, and a restore stays outstanding. -/
def ctxMade (cmd : HostCmd) (b : Busy) (n c : Nat) (owner : Word) (report : DWord) (r : Launch) (image : List Byte) (fs : List Nat)
    (s : State) : State :=
  let meas := measure r.be (image ++ List.replicate (1024 * r.codeBricks - image.length) 0)
  let st : CtxState := if r.restore then .loading else .ready
  let s := s.modPart n fun p => { p with ctxs := p.ctxs.upd c fun h => { h with obj := some (newContext st owner r image meas fs) } }
  let s := if ((s.part n).running r.be).isNone then (if r.be then installCtx n c s else startImage n (openFlues n (installCtx n c s))) else if r.be then s else claimPages n r s
  if r.restore then
    sendAvail n (s.modPart n fun p => { p with ck := { p.ck with state := .restore, ask := some (r.restoreStep, report), choice := none } })
  else finish cmd b 0 0 (BitVec.ofNat 64 (ctxHandle (s.part n) n c)) s

/-- Create the context of a record that has passed its checks (R410, R412): its save area and mirror area are taken, and it is loaded
where no other context holds its class. A record that restores waits for the restore (R342). -/
def makeCtx (cmd : HostCmd) (b : Busy) (n c : Nat) (owner : Word) (report : DWord) (bs : List Byte) (s : State) : State :=
  let r := readLaunch bs
  let image := launchImage bs
  match takeFrames n (saveCount image + mirrorCount r) s with
  | none => finish cmd b 9 0 0 s
  | some (fs, s) => ctxMade cmd b n c owner report r image fs s

/-- The actives of a reservation's job run in another partition layout (R306): an OPEN of the job that waits here carries the lineage that the
record has under another layout (DEDUCED, log 105). -/
def otherLayout (s : State) (n : Nat) (jobId : BitVec 128) (r : Launch) : Bool :=
  (s.part n).inbox.any fun e => match e.2.body with
    | .openF b => decide (b.jobId = jobId) && ([0, 1, 2] : List (BitVec 2)).any fun l =>
        decide (l ≠ s.host.layout) && decide (b.lineage.toNat = (lineageOf { s with host := { s.host with layout := l } } r).toNat % 2 ^ 32)
    | _ => false

/-- CREATE_CTX (R410): NO_CHARTER before the record is read, LIMIT, then RECORD and CHARTER checks, then the frames (R412). On a standby
the record of an admitted reservation makes the job that the reservation holds, in the reservation area of the kindling store: it waits until the
store has loaded its metadata, and is refused where the store refuses every operation, or where its layout is not the actives' (R306, R329;
statuses DESIGN CHOICE, log 105). A record over 1 MiB, a record that restores while
another context holds its class, and the order of LIMIT are DESIGN CHOICES (log 39). -/
def execCreateCtx (c : HostCmd) (s : State) : Out :=
  let n := fnPart c.fn.val
  .next (hostCommand c { plainForm 0x03 [(16, 24)] with ready := fun p _ => p.takesCtx } (fun b e s' =>
    let s0 := s
    let s := s'
    let p := s.part n
    let len := entryAt e 24 4
    let bs := c.data.take len
    let rsv := decide (p.rsv.state = .admitted) && p.rsvJob.isNone && decide (s.fab.member.toNat = 8) && decide (leAt bs 6 2 % 2 = 0)
    let a := if rsv then p.rsv else p.adm
    if rsv && !s.ks.ready && !s.ks.metaFault then s0
    else if a.state ≠ .admitted then finish c b 6 3 0 (chrStatus n 3 s)
    else match firstUsable p.ctxs ctxGenMax 1024 with
    | none => finish c b 4 0 0 s
    | some i =>
      if decide (2 ^ 20 < len) || decide (bs.length < len) then finish c b 5 0 0 s
      else match recordBad s n bs with
      | some d => finish c b 5 d 0 s
      | none =>
        let code := charterBad s n a bs
        let r := readLaunch bs
        if code ≠ 0 then finish c b 6 code 0 (chrStatus n code s)
        else if r.restore && (p.running r.be).isSome then finish c b 3 0 0 s
        else
          let image := launchImage bs
          let meas := measure r.be (image ++ List.replicate (1024 * r.codeBricks - image.length) 0)
          let joins := !rsv && !r.be && joinsRunning s n
          if rsv || joins then
            (if s.ks.metaFault then finish c b 3 0 0 s
            else if otherLayout s n a.jobId r then finish c b 6 0xF 0 (chrStatus n 0xF s)
            else finish c b 0 0 0 (holdReservation n r image meas (if joins then admissionToReservation n s else s)))
          else makeCtx c b n i (BitVec.ofNat 32 (entryAt e 28 4)) (BitVec.ofNat 64 (entryAt e 32 8)) bs s) s)

/-- A form that names a context by the handle at offset 16. -/
def ctxForm (n op : Nat) (used : List (Nat × Nat)) : CmdForm :=
  { plainForm op used with handles := fun p e => (p.ctxOf n (entryAt e 16 4)).isSome }

/-- DESTROY_CTX (R420). -/
def execDestroyCtx (c : HostCmd) (s : State) : Out :=
  let n := fnPart c.fn.val
  .next (hostCommand c (ctxForm n 0x04 [(16, 4)]) (fun b e s => finish c b 0 0 0 (destroyCtx n (ctxIndex (entryAt e 16 4)) s)) s)

/-! ### Queues -/

/-- CREATE_Q: the queue is ACTIVE with an empty ring (R406, R412). Its handle is the context's with `q` above it (Table 18.9; DEDUCED,
log 40). A lost context gives LOST (Table 18.4), a queue that exists STATE. -/
def execCreateQ (c : HostCmd) (s : State) : Out :=
  let n := fnPart c.fn.val
  let form (e : BitVec 512) : Bool := decide (entryAt e 20 1 < 16) && decide (4 ≤ entryAt e 21 1) && decide (entryAt e 21 1 ≤ 12) &&
    decide (entryAt e 24 8 % 4096 = 0)
  .next (hostCommand c { ctxForm n 0x05 [(16, 6), (24, 16)] with form := form } (fun b e s =>
    let i := ctxIndex (entryAt e 16 4)
    let q := entryAt e 20 1
    match (s.part n).ctx i with
    | none => finish c b 2 0 0 s
    | some x =>
      if x.st = .lost then finish c b 8 0 0 s
      else if (x.queues.get q).isSome then finish c b 3 0 0 s
      else
        let ring : Ring := { base := BitVec.ofNat 64 (entryAt e 24 8), k := entryAt e 21 1, headAddr := BitVec.ofNat 64 (entryAt e 32 8)
                             head := 0, tail := 0, fetched := [], busy := none }
        finish c b 0 0 (BitVec.ofNat 64 (entryAt e 16 4 + q * 2 ^ 32))
          (s.modPart n (Part.modCtx i fun x => { x with queues := x.queues.set q (some ring) }))) s)

/-- Serve every semaphore of a partition whose first waiter may now be satisfied. -/
def serveAllSems (n : Nat) (s : State) : State :=
  ((s.part n).sems.items.map (·.1)).foldl (fun s key => semServe ((((s.part n).sems.get key).waiters).length + 1) n key s) s

/-- DESTROY_Q: its fetched commands complete with ABORTED (R412). -/
def execDestroyQ (c : HostCmd) (s : State) : Out :=
  let n := fnPart c.fn.val
  let has (p : Part) (e : BitVec 512) : Bool := match p.ctxOf n (entryAt e 16 4) with
    | some x => (x.queues.get (entryAt e 20 1)).isSome
    | none => false
  .next (hostCommand c { plainForm 0x06 [(16, 5)] with form := fun e => decide (entryAt e 20 1 < 16), handles := has } (fun b e s =>
    let i := ctxIndex (entryAt e 16 4)
    let q := entryAt e 20 1
    let s := dropQueueWaits n i (fun k => decide (k = q)) (failRing (n + 1) (queueId i q) 0x0B s)
    let s := s.modPart n (Part.modCtx i fun x => { x with queues := x.queues.set q none })
    finish c b 0 0 0 (serveAllSems n s)) s)

/-! ### Memory objects -/

/-- CREATE_MOBJ: an object of a number of pages, at least one (DESIGN CHOICE, log 41). -/
def execCreateMobj (c : HostCmd) (s : State) : Out :=
  let n := fnPart c.fn.val
  .next (hostCommand c { plainForm 0x07 [(16, 8)] with form := fun e => decide (entryAt e 16 4 ≠ 0) } (fun b e s =>
    match firstUsable (s.part n).mobjs mobjGenMax (2 ^ 20) with
    | none => finish c b 4 0 0 s
    | some i =>
      let o : MObj := { pages := entryAt e 16 4, owner := BitVec.ofNat 32 (entryAt e 20 4), freeing := false }
      let gen := ((s.part n).mobjs.get i).gen
      finish c b 0 0 (BitVec.ofNat 64 (i + 2 ^ 20 * gen))
        (s.modPart n fun p => { p with mobjs := p.mobjs.upd i fun h => { h with obj := some o } })) s)

/-- A memory object that a command may name: live and not FREEING (R415). -/
def Part.mobjUsable (p : Part) (h : Nat) : Bool := match p.mobj h with | some o => !o.freeing | none => false

/-- An object moves to FREEING (R415). -/
def freeMobj (n i : Nat) (s : State) : State :=
  s.modPart n fun p => { p with mobjs := p.mobjs.upd i fun h => { h with obj := h.obj.map fun o => { o with freeing := true } } }

/-- FREE_MOBJ. -/
def execFreeMobj (c : HostCmd) (s : State) : Out :=
  let n := fnPart c.fn.val
  .next (hostCommand c { plainForm 0x08 [(16, 4)] with handles := fun p e => p.mobjUsable (entryAt e 16 4) } (fun b e s =>
    finish c b 0 0 0 (freeMobj n (mobjIndex (entryAt e 16 4)) s)) s)

/-- An unbank that has not started is given up. -/
def Part.dropUnbank (k : Nat) (p : Part) : Part := { p with mem := { p.mem with unbankQ := p.mem.unbankQ.filter fun x => decide (x.1 ≠ k) } }

/-- A page is drained and unmapped (R206): a bank-out of it is abandoned, an unbank that waits is given up, its frame returns to FREE or
its slot is given back (R332), and accesses that waited proceed; the time they waited, which no command measures, is a free value (R212). -/
def unmapPage (n k : Nat) (s : State) : State :=
  let s := touchPage n k s
  match (s.part n).mem.pages.get k with
  | none => s
  | some e =>
    let s := match e.loc with
      | .frame f => s.modPart n fun p => { p with mem := { p.mem with frames := p.mem.frames.set f .free } }
      | .banked slot => if slot = freshSlot then s else freeSlot n slot s
    let s := setPage n k none (s.modPart n (Part.dropUnbank k))
    let (ns, s) := s.takeFree
    unpark n k (BitVec.ofNat 32 ns) (cacheDrop n k s)

/-- An unbank fills a frame for the page: it runs to completion (R212). -/
def Part.unbanking (p : Part) (k : Nat) : Bool := match p.mem.pages.get k with
  | some e => (match e.busy with | .unbank _ => true | _ => false)
  | none => false

/-- The pages of a memory object. -/
def Part.pagesOf (p : Part) (h : Nat) : List Nat :=
  p.mem.pages.keysWhere fun e => match e with | some q => decide (q.mobj.toNat = h) | none => false

/-- A fetched command of the function names the object (R415): FREE_MOBJ and MAP name one. -/
def mobjNamed (s : State) (n h : Nat) : Bool :=
  (s.host.fns.get (n + 1)).admin.fetched.any fun e => decide (entryAt e 0 1 = 8 ∨ entryAt e 0 1 = 9) && decide (entryAt e 16 4 = h)

/-- MOBJ_RELEASE: the last reference to a FREEING object has retired; its pages are unmapped and the handle's generation advances
(R415). -/
def execMobjRelease (n : PartId) (i : BitVec 20) (s : State) : Out :=
  .next (match ((s.part n.val).mobjs.get i.toNat).obj with
  | some o =>
    let h := i.toNat + 2 ^ 20 * ((s.part n.val).mobjs.get i.toNat).gen
    let ks := (s.part n.val).pagesOf h
    if !o.freeing || mobjNamed s n.val h || ks.any (s.part n.val).unbanking then s
    else
      let s := ks.foldl (fun s k => unmapPage n.val k s) s
      s.modPart n.val fun p => { p with mobjs := p.mobjs.upd i.toNat Handle.release }
  | none => s)

/-! ### Pages -/

/-- An extent of pages is well formed: aligned, at least one page, inside the address space (R416; for UNMAP and BANK_OUT DESIGN CHOICE,
log 41). -/
def extentForm (dva count : Nat) : Bool := decide (dva % pageBytes = 0) && decide (count ≠ 0) && decide (dva + count * pageBytes ≤ 2 ^ 48)

/-- The page capacity of the boundary image of the partition's LC context (R297). -/
def pageRoom (p : Part) (count : Nat) : Bool :=
  match p.runCtx false with
  | some x => decide (x.launch.wpUnits = 0) ||
      decide ((mappedPages p).length + count ≤ (x.launch.wpImg * pageBytes - 17440 - 32 * x.launch.nsct) / 16)
  | none => true

/-- MAP: the frames are set aside, tables taken, every frame initialised and its entry written (R416, R226), with W clear on a
retired one (R228). A frame that is a parity unit of the span is refused (R295). It waits while a pass covers one of the frames or no slot is free (R234). Pages beyond the object give
STATE (DESIGN CHOICE, log 41). -/
def execMapPages (c : HostCmd) (s : State) : Out :=
  let n := fnPart c.fn.val
  let form (e : BitVec 512) : Bool := decide (entryAt e 40 1 < 4) && extentForm (entryAt e 32 8) (entryAt e 24 4)
  .next (hostCommand c { plainForm 0x09 [(16, 25)] with form := form, handles := fun p e => p.mobjUsable (entryAt e 16 4) } (fun b e s' =>
    let s0 := s
    let s := s'
    let p := s.part n
    let count := entryAt e 24 4
    let first := entryAt e 28 4
    let k := entryAt e 32 8 / pageBytes
    let pages := match p.mobj (entryAt e 16 4) with | some o => o.pages | none => 0
    if pages < entryAt e 20 4 + count then finish c b 3 0 0 s
    else if (List.range count).any (fun i => (p.mem.pages.get (k + i)).isSome) then finish c b 3 0 0 s
    else if decide (s.frameCount < first + count) || (List.range count).any (fun i => decide (p.mem.frames.get (first + i) ≠ .free)) then
      finish c b 0x0D 0 0 s
    else if (List.range count).any (fun i => (p.unitOf (first + i)).any (isParityUnit s n)) then finish c b 0x0A 0 0 s
    else if !pageRoom p count then finish c b 9 0 0 s
    else if (List.range count).any (fun i => !initReady s n (first + i)) then s0
    else
      let aside := s.modPart n fun p => { p with mem := { p.mem with
        frames := (List.range count).foldl (fun t i => t.set (first + i) .mapped) p.mem.frames } }
      match addLeaves n (newLeaves p.mem k count) aside with
      | none => finish c b 9 0 0 s
      | some s => finish c b 0 0 0 ((List.range count).foldl (fun s i =>
          let page : Page := { w := decide (entryAt e 40 1 % 2 = 1) && !((s.part n).prot.regions.get (first + i)).retired && decide (((s.part n).prot.regions.get (first + i)).epoch ≠ lastEpoch), pin := decide (2 ≤ entryAt e 40 1), loc := .frame (first + i)
                               mobj := BitVec.ofNat 32 (entryAt e 16 4), busy := .idle }
          setPage n (k + i) (some page) (initFrame n (first + i) s)) s)) s)

/-- UNMAP: every page of the extent is drained and removed (R206); one that is not mapped gives STATE (DESIGN CHOICE, log 41). It waits
while an unbank fills one of them. -/
def execUnmapPages (c : HostCmd) (s : State) : Out :=
  let n := fnPart c.fn.val
  .next (hostCommand c { plainForm 0x0A [(16, 12)] with form := fun e => extentForm (entryAt e 16 8) (entryAt e 24 4) } (fun b e s' =>
    let p := s'.part n
    let ks := (List.range (entryAt e 24 4)).map (entryAt e 16 8 / pageBytes + ·)
    if ks.any fun k => (p.mem.pages.get k).isNone then finish c b 3 0 0 s'
    else if ks.any p.unbanking then s
    else finish c b 0 0 0 (ks.foldl (fun s k => unmapPage n k s) s')) s)

/-- Start the bank-out of one page (R209, R332): it is drained and its copy queued, or it has its status at once. -/
def startBankOut (n k : Nat) (s : State) : State × Option Nat :=
  match (s.part n).mem.pages.get k with
  | none => (s, some bankRefused)
  | some e => match e.loc, e.busy with
    | .frame f, .idle =>
      if e.pin || s.ks.metaFault then (s, some bankRefused)
      else
        let full (s : State) : State × Option Nat :=
          (s.modPart n fun p => { p with ck := { p.ck with nospace := true } }, some bankNoSpace)
        if bankRoom s n = 0 then full s
        else match lowestSlot s n, queueWrite n 0 0 0 0 (.frame f) s with
          | some slot, some s => (cacheDrop n k (s.modPart n fun p => { p with mem := { p.mem with
              pages := p.mem.pages.set k (some { e with busy := .bankOut slot }) } }), none)
          | _, _ => full s
    | _, _ => (s, some bankRefused)

/-- BANK_OUT: each page of the extent is refused or begins its copy (R209); the command completes when every page has its status. It
waits until the kindling store has loaded its metadata (R329). -/
def execBankOut (c : HostCmd) (s : State) : Out :=
  let n := fnPart c.fn.val
  .next (hostCommand c { plainForm 0x0B [(16, 12)] with form := fun e => extentForm (entryAt e 16 8) (entryAt e 24 4) } (fun b e s' =>
    if !s.ks.ready && !s.ks.metaFault then s
    else
      let ks := (List.range (entryAt e 24 4)).map (entryAt e 16 8 / pageBytes + ·)
      let (s, pages) := ks.foldl (fun (acc : State × List (Nat × Option Nat)) k =>
        let (s, r) := startBankOut n k acc.1
        (s, acc.2 ++ [(k, r)])) (s', [])
      bankFinish n (s.modPart n fun p => { p with mem := { p.mem with
        bankJobs := p.mem.bankJobs ++ [{ ring := c.ring, busy := b, pages := pages }] } })) s)

/-- POOL: FREE frames move into the unbank pool, or frames of the pool back to FREE (R416); frames that are not there give BUSY. -/
def execPoolCmd (c : HostCmd) (s : State) : Out :=
  let n := fnPart c.fn.val
  .next (hostCommand c { plainForm 0x0C [(16, 9)] with form := fun e => decide (entryAt e 24 1 ≤ 1) && decide (entryAt e 20 4 ≠ 0) } (fun b e s =>
    let p := s.part n
    let was : FrameUse := if entryAt e 24 1 = 0 then .free else .pool
    let will : FrameUse := if entryAt e 24 1 = 0 then .pool else .free
    let fs := (List.range (entryAt e 20 4)).map (entryAt e 16 4 + ·)
    if decide (s.frameCount < entryAt e 16 4 + entryAt e 20 4) || fs.any (fun f => decide (p.mem.frames.get f ≠ was)) then finish c b 0x0D 0 0 s
    else finish c b 0 0 0 (poolEdge n p.mem.poolEmpty (s.modPart n fun p => { p with mem := { p.mem with
      frames := fs.foldl (fun t f => t.set f will) p.mem.frames } }))) s)

/-! ### Events and owners -/

/-- CREATE_EVT (R414). -/
def execCreateEvt (c : HostCmd) (s : State) : Out :=
  let n := fnPart c.fn.val
  .next (hostCommand c { plainForm 0x0D [(16, 1), (18, 14)] with form := fun e => decide (entryAt e 16 1 ≤ 1) } (fun b e s =>
    match firstUsable (s.part n).evts evtGenMax 65536 with
    | none => finish c b 4 0 0 s
    | some i =>
      let ev : Event := { value := 0, sat := false, be := decide (entryAt e 16 1 = 1), vector := BitVec.ofNat 16 (entryAt e 18 2)
                          owner := BitVec.ofNat 32 (entryAt e 20 4), notify := BitVec.ofNat 64 (entryAt e 24 8), notified := false
                          ownerLost := false }
      let gen := ((s.part n).evts.get i).gen
      finish c b 0 0 (BitVec.ofNat 64 (i + 65536 * gen))
        (s.modPart n fun p => { p with evts := p.evts.upd i fun h => { h with obj := some ev } })) s)

/-- The WAITs on an event complete with a status. -/
def failWaits (n h status : Nat) (s : State) : State :=
  (((s.part n).busyQueues 0x42).filter fun w => decide (w.2.2.a.toNat = h)).foldl
    (fun s (c, q, b) => completeCmd (n + 1) (queueId c q) b status 0 0 s) s

/-- DESTROY_EVT: its waiters complete with ABORTED (R412). -/
def execDestroyEvt (c : HostCmd) (s : State) : Out :=
  let n := fnPart c.fn.val
  .next (hostCommand c { plainForm 0x0E [(16, 4)] with handles := fun p e => (p.evt (entryAt e 16 4)).isSome } (fun b e s =>
    let h := entryAt e 16 4
    finish c b 0 0 0 ((failWaits n h 0x0B s).modPart n fun p => { p with evts := p.evts.upd (evtIndex h) Handle.release })) s)

/-- KILL_OWNER: contexts of the owner are destroyed, its events marked, and then its memory objects freed (R421). -/
def execKillOwner (c : HostCmd) (s : State) : Out :=
  let n := fnPart c.fn.val
  .next (hostCommand c (plainForm 0x0F [(16, 4)]) (fun b e s =>
    let o : Word := BitVec.ofNat 32 (entryAt e 16 4)
    let ctxs := (s.part n).ctxs.keysWhere fun h => match h.obj with | some x => decide (x.owner = o) | none => false
    let s := ctxs.foldl (fun s i => destroyCtx n i s) s
    let evts := (s.part n).evts.keysWhere fun h => match h.obj with | some x => decide (x.owner = o) | none => false
    let s := evts.foldl (fun s i =>
      let h := i + 65536 * ((s.part n).evts.get i).gen
      let lost (x : Event) : Event := { x with ownerLost := true }
      failWaits n h 0x0C (s.modPart n fun p => { p with evts := p.evts.upd i fun h => { h with obj := h.obj.map lost } })) s
    let objs := (s.part n).mobjs.keysWhere fun h => match h.obj with | some x => decide (x.owner = o) | none => false
    finish c b 0 0 0 (objs.foldl (fun s i => freeMobj n i s) s)) s)

end Sys2Proof.Machine
end

