-- ==== Sys2Proof/Machine/Scalar.lean ====
section
/-! DEFINITION. System, integer, multiply and divide, compare, predicate and branch instructions (R91 to R93), and the fetch
of a line (R88). -/

namespace Sys2Proof.Machine

/-! ### Fetch -/

/-- FETCH_LINE_FILL: the thread's request for the line of its PC is granted; the eight instructions are read as one row
(R88). A PC outside the code window raises FETCH_BOUNDS (R87); a parity mismatch is met by this reader (R78). -/
def fetchLine (x : Site) (strike : List Nat) (s : State) : State :=
  let h := thrAt s x
  let l := x.e.val
  if !s.inService || (s.part (partAt s x)).prot.halted || decide (h.st ≠ .run) then s
  else if !inWindow s x h.pc.toNat then raise x excFetchBounds (BitVec.ofNat 64 (8 * h.pc.toNat)) s
  else
    let base := h.pc.toNat / 8 * 8
    let s := s.modEmber l (Ember.strike strike)
    let bad := (s.ember l).mismatches (8 * base) 64
    if bad.isEmpty then
      let ws := (List.range 8).map fun i => BitVec.ofNat 64 ((s.ember l).scratch.num (8 * base + 8 * i) 8)
      modAt x (fun h => { h with line := some { base := base, words := ws } }) s
    else parityFault l x.t.val h.pc bad s

def execFetchLineFill (x : Site) (strike : List Nat) (s : State) : Out := .next (fetchLine x strike s)

/-! ### System -/

/-- The MAJOR.MINOR pairs that Tables 4.2 to 4.8 and 5.1 define (R86, R113). -/
def definedOpcode (op : Nat) : Bool :=
  let minor := op % 64
  match op / 64 with
  | 0x00 => decide (minor ≤ 4)
  | 0x01 => decide (minor ≤ 0x0E)
  | 0x02 => decide (minor ≤ 0x0C) || decide (minor = 0x10) || decide (minor = 0x11)
  | 0x03 => decide (minor ≤ 6)
  | 0x04 => decide (minor ≤ 5) || (decide (0x20 ≤ minor) && decide (minor ≤ 0x25))
  | 0x05 => decide (minor ≤ 5)
  | 0x06 => decide (minor ≤ 3)
  | 0x07 => decide (minor < 8)
  | 0x08 => decide (minor < 4)
  | 0x09 => decide (minor < 8)
  | 0x0A => decide (minor < 12) || decide (minor = 0x10)
  | 0x0B => decide (minor ≤ 5)
  | 0x0C => decide (minor ≤ 4)
  | 0x0D => decide (minor ≤ 3)
  | 0x0E => decide (minor ≤ 2)
  | 0x0F => decide (minor ≤ 3)
  | 0x20 => decide (minor / 4 % 4 = 0)
  | 0x21 => decide (minor < 32)
  | 0x22 => decide (minor ≤ 5) || decide (minor = 8) || decide (minor = 0x10) || decide (minor = 0x11)
  | 0x23 => decide (minor = 0)
  | 0x30 => decide (minor ≤ 8)
  | 0x31 => decide (minor ≤ 2)
  | 0x32 => decide (minor ≤ 2) || (decide (4 ≤ minor) && decide (minor ≤ 6))
  | 0x33 => decide (minor ≤ 3)
  | 0x36 => decide (minor ≤ 2)
  | 0x38 => decide (minor ≤ 2)
  | 0x39 => decide (minor ≤ 3)
  | 0x3A => decide (minor = 0)
  | _ => false

/-- NOP (R93). The command also carries every word whose MAJOR.MINOR pair is undefined: it raises ILLEGAL_OPCODE whatever
its guard (R86). A pair that another row names is not issued by this command. -/
def execNop (x : Site) (op : BitVec 12) (f : BitVec 52) (s : State) : Out :=
  let w := insnWord (op.toNat / 64) (op.toNat % 64) f
  .next (if op = 0 then issue x w f [] [] anyRoom (reserved (decide (f.toNat % 2 ^ 48 = 0))) (fun s => .ok s) s
    else if definedOpcode op.toNat then s
    else issue x w f [] [] anyRoom (some excIllegalOpcode) (fun s => .ok s) s)

/-- END: the thread moves to IDLE; its tile and mover work completes and counts (R93). BE threads held by it may resume (R59). -/
def endThread (x : Site) (s : State) : State :=
  let s := modAt x (fun h => { h with st := .idle }) s
  let n := partAt s x
  let be := beAt s x
  let s := releaseBe x.e.val s
  let busy := s.anyEmber n fun m => (List.range 8).any fun t => decide (m.isBe t = be) && decide ((m.thr.get t).st ≠ .idle)
  if busy then s
  else match (s.part n).running be with
    | some c => s.modPart n (Part.modCtx c fun k => if k.st = .run then { k with st := .ready } else k)
    | none => s

def execEndThread (x : Site) (f : BitVec 52) (s : State) : Out :=
  .next (issue x (insnWord 0 1 f) f [] [] anyRoom (reserved (decide (f.toNat % 2 ^ 48 = 0)))
    (fun s => .stay (endThread x (modAt x Thread.next s))) s)

/-- The effective rights word of partition `n` (Table 17.8). -/
def debugRights (s : State) (n : Nat) : HWord :=
  match s.dbg.session with
  | none => 0
  | some d =>
    match s.lc.lcState with
    | .raw => 0x01FF
    | .test => 0x01FF
    | .returned => 0x01FF
    | .provisioned => d.part.get n
    | .field => if (s.part n).adm.state = .empty then d.part.get n else d.part.get n &&& (s.part n).adm.debugAllow
    | .scrap => 0
    | .invalid => 0

/-- BRK: HALT when RUNCTL is effective for the partition, otherwise as NOP (R93, R397). -/
def execBrk (x : Site) (f : BitVec 52) (s : State) : Out :=
  .next (issue x (insnWord 0 2 f) f [] [] anyRoom (reserved (decide (f.toNat % 2 ^ 48 = 0)))
    (fun s => if bitAt (debugRights s (partAt s x)) 0 then .ok (modAt x (fun h => { h with st := .halt }) s) else .ok s) s)

/-- The value of TID (R93). -/
def tidValue (l t : Nat) (be : Bool) (n : Nat) : DWord :=
  BitVec.ofNat 64 (l + t * 2 ^ 16 + b2n be * 2 ^ 19 + n * 2 ^ 20)

/-- TID (R93). -/
def execTid (x : Site) (f : BitVec 52) (s : State) : Out :=
  .next (issue x (insnWord 0 4 f) f [fRd f] [] anyRoom (reserved (decide (f.toNat % 2 ^ 43 = 0)))
    (fun s => .ok (modAt x (Thread.setS (fRd f) (tidValue x.e.val x.t.val (beAt s x) (partAt s x))) s)) s)

/-! ### Integer (R91) -/

/-- Signed less-than. -/
def slt (a b : DWord) : Bool := decide (a.toInt < b.toInt)
/-- Unsigned less-than. -/
def ult (a b : DWord) : Bool := decide (a.toNat < b.toNat)

def execAdd (x : Site) (imm : Bool) (f : BitVec 52) (s : State) : Out := .next (issueInt 0x00 x imm f (fun a b => a + b) s)
def execSub (x : Site) (imm : Bool) (f : BitVec 52) (s : State) : Out := .next (issueInt 0x01 x imm f (fun a b => a - b) s)
def execAndOp (x : Site) (imm : Bool) (f : BitVec 52) (s : State) : Out := .next (issueInt 0x02 x imm f (fun a b => a &&& b) s)
def execOrOp (x : Site) (imm : Bool) (f : BitVec 52) (s : State) : Out := .next (issueInt 0x03 x imm f (fun a b => a ||| b) s)
def execXorOp (x : Site) (imm : Bool) (f : BitVec 52) (s : State) : Out := .next (issueInt 0x04 x imm f (fun a b => a ^^^ b) s)
def execAndn (x : Site) (imm : Bool) (f : BitVec 52) (s : State) : Out := .next (issueInt 0x05 x imm f (fun a b => a &&& ~~~b) s)
def execShl (x : Site) (imm : Bool) (f : BitVec 52) (s : State) : Out :=
  .next (issueInt 0x06 x imm f (fun a b => a <<< (b.toNat % 64)) s)
def execShr (x : Site) (imm : Bool) (f : BitVec 52) (s : State) : Out :=
  .next (issueInt 0x07 x imm f (fun a b => a >>> (b.toNat % 64)) s)
def execSra (x : Site) (imm : Bool) (f : BitVec 52) (s : State) : Out :=
  .next (issueInt 0x08 x imm f (fun a b => a.sshiftRight (b.toNat % 64)) s)
def execMinOp (x : Site) (imm : Bool) (f : BitVec 52) (s : State) : Out :=
  .next (issueInt 0x09 x imm f (fun a b => if slt b a then b else a) s)
def execMaxOp (x : Site) (imm : Bool) (f : BitVec 52) (s : State) : Out :=
  .next (issueInt 0x0A x imm f (fun a b => if slt a b then b else a) s)
def execMinu (x : Site) (imm : Bool) (f : BitVec 52) (s : State) : Out :=
  .next (issueInt 0x0B x imm f (fun a b => if ult b a then b else a) s)
def execMaxu (x : Site) (imm : Bool) (f : BitVec 52) (s : State) : Out :=
  .next (issueInt 0x0C x imm f (fun a b => if ult a b then b else a) s)

/-- POPC (R91). -/
def execPopc (x : Site) (f : BitVec 52) (s : State) : Out :=
  .next (issueRR 1 0x0D x f (decide (fRb f = 0)) (fun a _ => BitVec.ofNat 64 (popCount a)) s)
/-- CLZ: 64 when RA is 0 (R91). -/
def execClz (x : Site) (f : BitVec 52) (s : State) : Out :=
  .next (issueRR 1 0x0E x f (decide (fRb f = 0)) (fun a _ => BitVec.ofNat 64 (leadingZeros a)) s)

/-- MOVHI: the upper half of RD is written and the lower kept; RA and IMM[37:32] are zero (R91). -/
def execMovhi (x : Site) (f : BitVec 52) (s : State) : Out :=
  .next (issue x (insnWord 2 0x10 f) f [fRd f] [] anyRoom
    (reserved (decide (fRa f = 0) && decide (fImmU f < 2 ^ 32)))
    (fun s => let old := (thrAt s x).sReg (fRd f)
      .ok (modAt x (Thread.setS (fRd f) (BitVec.ofNat 64 (fImmU f * 2 ^ 32 + old.toNat % 2 ^ 32))) s)) s)

/-- MOVI (R91). -/
def execMovi (x : Site) (f : BitVec 52) (s : State) : Out :=
  .next (issue x (insnWord 2 0x11 f) f [fRd f] [] anyRoom (reserved (decide (fRa f = 0)))
    (fun s => .ok (modAt x (Thread.setS (fRd f) (fImm f)) s)) s)

/-! ### Multiply and divide (R91, R92) -/

/-- The signed quotient rounded towards zero, with the defined results of R92. -/
def divS (a b : DWord) : DWord := if b = 0 then BitVec.allOnes 64 else BitVec.ofInt 64 (a.toInt.tdiv b.toInt)
/-- The unsigned quotient (R92). -/
def divU (a b : DWord) : DWord := if b = 0 then BitVec.allOnes 64 else BitVec.ofNat 64 (a.toNat / b.toNat)
/-- The signed remainder, with the sign of RA (R92). -/
def remS (a b : DWord) : DWord := if b = 0 then a else BitVec.ofInt 64 (a.toInt.tmod b.toInt)
/-- The unsigned remainder (R92). -/
def remU (a b : DWord) : DWord := if b = 0 then a else BitVec.ofNat 64 (a.toNat % b.toNat)

def execMul (x : Site) (f : BitVec 52) (s : State) : Out := .next (issueRR 3 0 x f true (fun a b => a * b) s)
def execMulh (x : Site) (f : BitVec 52) (s : State) : Out :=
  .next (issueRR 3 1 x f true (fun a b => BitVec.ofInt 64 (a.toInt * b.toInt / 2 ^ 64)) s)
def execMulhu (x : Site) (f : BitVec 52) (s : State) : Out :=
  .next (issueRR 3 2 x f true (fun a b => BitVec.ofNat 64 (a.toNat * b.toNat / 2 ^ 64)) s)
def execDiv (x : Site) (f : BitVec 52) (s : State) : Out := .next (issueRR 3 3 x f true divS s)
def execDivu (x : Site) (f : BitVec 52) (s : State) : Out := .next (issueRR 3 4 x f true divU s)
def execRemOp (x : Site) (f : BitVec 52) (s : State) : Out := .next (issueRR 3 5 x f true remS s)
def execRemu (x : Site) (f : BitVec 52) (s : State) : Out := .next (issueRR 3 6 x f true remU s)

/-! ### Compare and predicates (R91) -/

/-- The relations EQ, NE, LT, LTU, GE, GEU. -/
def relation (r : Nat) (a b : DWord) : Bool :=
  match r with
  | 0 => decide (a = b)
  | 1 => decide (a ≠ b)
  | 2 => slt a b
  | 3 => ult a b
  | 4 => !slt a b
  | _ => !ult a b

/-- CMP (R91). -/
def execCmp (x : Site) (rel : Fin 6) (f : BitVec 52) (s : State) : Out :=
  .next (issue x (insnWord 4 rel.val f) f [fRa f, fRb f] [fRd f] anyRoom
    (reserved (decide (fRd f < 8) && decide (fLow f = 0)))
    (fun s => let h := thrAt s x
      .ok (modAt x (Thread.setP (fRd f) (relation rel.val (h.sReg (fRa f)) (h.sReg (fRb f)))) s)) s)

/-- CMPI (R91). -/
def execCmpi (x : Site) (rel : Fin 6) (f : BitVec 52) (s : State) : Out :=
  .next (issue x (insnWord 4 (0x20 + rel.val) f) f [fRa f] [fRd f] anyRoom (reserved (decide (fRd f < 8)))
    (fun s => .ok (modAt x (Thread.setP (fRd f) (relation rel.val ((thrAt s x).sReg (fRa f)) (fImm f))) s)) s)

/-- Predicate logic on p[RA] and p[RB] (R91). -/
def issuePred (minor : Nat) (x : Site) (f : BitVec 52) (op : Bool → Bool → Bool) (s : State) : State :=
  issue x (insnWord 5 minor f) f [] [fRd f, fRa f, fRb f] anyRoom
    (reserved (decide (fRd f < 8) && decide (fRa f < 8) && decide (fRb f < 8) && decide (fLow f = 0)))
    (fun s => let h := thrAt s x
      .ok (modAt x (Thread.setP (fRd f) (op (h.pReg (fRa f)) (h.pReg (fRb f)))) s)) s

def execPand (x : Site) (f : BitVec 52) (s : State) : Out := .next (issuePred 0 x f (fun a b => a && b) s)
def execPor (x : Site) (f : BitVec 52) (s : State) : Out := .next (issuePred 1 x f (fun a b => a || b) s)
def execPxor (x : Site) (f : BitVec 52) (s : State) : Out := .next (issuePred 2 x f (fun a b => a != b) s)
def execPandn (x : Site) (f : BitVec 52) (s : State) : Out := .next (issuePred 3 x f (fun a b => a && !b) s)

/-- PNZ: RB zero (R91). -/
def execPnz (x : Site) (f : BitVec 52) (s : State) : Out :=
  .next (issue x (insnWord 5 4 f) f [fRa f] [fRd f] anyRoom
    (reserved (decide (fRd f < 8) && decide (fRb f = 0) && decide (fLow f = 0)))
    (fun s => .ok (modAt x (Thread.setP (fRd f) (decide ((thrAt s x).sReg (fRa f) ≠ 0))) s)) s)

/-- The predicates as a byte, bit 0 always 1 (R91). -/
def Thread.pByte (h : Thread) : Byte := h.p ||| 1

/-- PGET: RA, RB zero (R91). -/
def execPget (x : Site) (f : BitVec 52) (s : State) : Out :=
  .next (issue x (insnWord 5 5 f) f [fRd f] (List.range 8) anyRoom
    (reserved (decide (fRa f = 0) && decide (fRb f = 0) && decide (fLow f = 0)))
    (fun s => .ok (modAt x (Thread.setS (fRd f) ((thrAt s x).pByte.setWidth 64)) s)) s)

/-! ### Branches (R93) -/

/-- BR. -/
def execBr (x : Site) (f : BitVec 52) (s : State) : Out :=
  .next (issue x (insnWord 6 0 f) f [] [] anyRoom none
    (fun s => branchTo x ((thrAt s x).pc.toNat + fOff f) id s) s)

/-- BRL writes PC + 1 to s31. -/
def execBrl (x : Site) (f : BitVec 52) (s : State) : Out :=
  .next (issue x (insnWord 6 1 f) f [31] [] anyRoom none
    (fun s => branchTo x ((thrAt s x).pc.toNat + fOff f)
      (modAt x fun h => h.setS 31 (BitVec.ofNat 64 (h.pc.toNat + 1))) s) s)

/-- JR: RD and RB are zero (R84). -/
def execJr (x : Site) (f : BitVec 52) (s : State) : Out :=
  .next (issue x (insnWord 6 2 f) f [fRa f] [] anyRoom
    (reserved (decide (fRd f = 0) && decide (fRb f = 0) && decide (fLow f = 0)))
    (fun s => branchTo x ((thrAt s x).sReg (fRa f)).toNat id s) s)

/-- JRL writes PC + 1 to RD; RB is zero. -/
def execJrl (x : Site) (f : BitVec 52) (s : State) : Out :=
  .next (issue x (insnWord 6 3 f) f [fRd f, fRa f] [] anyRoom
    (reserved (decide (fRb f = 0) && decide (fLow f = 0)))
    (fun s => branchTo x ((thrAt s x).sReg (fRa f)).toNat
      (modAt x fun h => h.setS (fRd f) (BitVec.ofNat 64 (h.pc.toNat + 1))) s) s)

end Sys2Proof.Machine
end

