-- ==== Sys2Proof/Machine/HostCmds.lean ====
section
/-! DEFINITION. The queue commands (R414, R417, R100, R408), the queries (R423, R424), attestation requests (R380, R381), IDE set-up (R404)
and the removal of a tenant (R422). -/

namespace Sys2Proof.Machine

/-- The class of a queue's context. -/
def ringClass (s : State) (f : Nat) : RingId → Bool
  | .admin => false
  | .queue c _ => match (s.part (fnPart f)).ctx c.val with | some x => x.launch.be | none => false

/-- The context of a ring. -/
def ringContext : RingId → Nat
  | .admin => 0
  | .queue c _ => c.val

/-! ### START -/

/-- START asks for its READY context to run, and waits for the grant (R417). -/
def execStartCtx (c : HostCmd) (s : State) : Out :=
  let ready (p : Part) (_ : BitVec 512) : Bool := match p.ctx (ringContext c.ring) with | some x => decide (x.st = .ready) | none => false
  .next (hostCommand c { plainForm 0x40 [] with ready := ready } (fun _ _ s => s) s)

/-- A START of the class waits (R417): a context of the class is in RUN; a lost one holds its threads until it is destroyed (R109); LC work
waits for a draught change under way (R48) and for copies to spares (R81). -/
def startWaits (s : State) (n : Nat) (be : Bool) : Bool :=
  let p := s.part n
  p.inRun be || (match p.runCtx be with | some x => decide (x.st = .lost) | none => false) || (!be && (s.power.changing.isSome || copies s n))

/-- START_GRANT: no context of the class is in RUN, so the START of a queue is granted (R417). A context that does not hold its class is
loaded into it first, in place of one that has ended (DESIGN CHOICE, log 36). -/
def execStartGrant (n : PartId) (c : Fin 1024) (q : Fin 16) (s : State) : Out :=
  .next (match (s.ring (n.val + 1) (.queue c q)).bind (·.busy), (s.part n.val).ctx c.val with
  | some b, some x =>
    let be := x.launch.be
    let p := s.part n.val
    if b.opcode ≠ 0x40 ∨ x.st ≠ .ready ∨ startWaits s n.val be ∨ !s.inService then s
    else
      let s := if p.running be = some c.val then s
        else if be then installCtx n.val c.val s else startImage n.val (openFlues n.val (installCtx n.val c.val (ckAbandon n.val false s)))
      let hold := if be then p.pauseBe else p.pauseLc
      completeCmd (n.val + 1) (.queue c q) b 0 0 0 (startThreads n.val c.val hold s)
  | _, _ => s)

/-! ### Events and semaphores -/

/-- SIGNAL adds to an event's value (R414); for an event whose owner has died the signal is ignored and the command says so (R421;
DESIGN CHOICE, log 42). -/
def execSignalEvent (c : HostCmd) (s : State) : Out :=
  let n := fnPart c.fn.val
  .next (hostCommand c { plainForm 0x41 [(16, 8)] with handles := fun p e => (p.evt (entryAt e 16 4)).isSome } (fun b e s =>
    match (s.part n).evt (entryAt e 16 4) with
    | some ev =>
      if ev.ownerLost then finish c b 0x0C 0 0 s
      else finish c b 0 0 0 (signalEvent signalFuel n (entryAt e 16 4) (entryAt e 20 4) s)
    | none => s) s)

/-- WAIT waits until an event's value reaches its argument (R414): across classes it gives CLASS, on an event whose owner has died
OWNER_LOST (R421). -/
def execWaitEvent (c : HostCmd) (s : State) : Out :=
  let n := fnPart c.fn.val
  .next (hostCommand c { plainForm 0x42 [(16, 4), (24, 8)] with
      handles := fun p e => (p.evt (entryAt e 16 4)).isSome
      a := fun e => BitVec.ofNat 64 (entryAt e 16 4)
      b := fun e => BitVec.ofNat 64 (entryAt e 24 8) } (fun b e s =>
    match (s.part n).evt (entryAt e 16 4) with
    | some ev =>
      if ev.be != ringClass s c.fn.val c.ring then finish c b 7 0 0 s
      else if ev.ownerLost then finish c b 0x0C 0 0 s
      else if entryAt e 24 8 ≤ ev.value.toNat then finish c b 0 0 0 s
      else s
    | none => s) s)

/-- A semaphore number and an amount of 31 bits (R100; out of range FORMAT, DESIGN CHOICE, log 41). -/
def semForm (e : BitVec 512) : Bool := decide (entryAt e 16 2 < 4096) && decide (entryAt e 20 4 < 2 ^ 31)

/-- The semaphore that a queue command names in its context's class. -/
def queueSem (c : HostCmd) (e : BitVec 512) (s : State) : Nat := 4096 * b2n (ringClass s c.fn.val c.ring) + entryAt e 16 2

/-- The queue command SEMSIG (R100). -/
def execQueueSemsig (c : HostCmd) (s : State) : Out :=
  .next (hostCommand c { plainForm 0x43 [(16, 2), (20, 4)] with form := semForm } (fun b e s =>
    finish c b 0 0 0 (semSignal (fnPart c.fn.val) (queueSem c e s) (entryAt e 20 4) s)) s)

/-- The queue command SEMWAIT (R100): it takes at once, or waits in the order of arrival. -/
def execQueueSemwait (c : HostCmd) (s : State) : Out :=
  let n := fnPart c.fn.val
  .next (hostCommand c { plainForm 0x44 [(16, 2), (20, 4)] with form := semForm } (fun b e s =>
    let key := queueSem c e s
    let k := entryAt e 20 4
    let m := (s.part n).sems.get key
    let put (m : Sem) (s : State) : State := s.modPart n fun p => { p with sems := p.sems.set key m }
    if semTakesNow m k then finish c b 0 0 0 (put (m.take k) s)
    else match c.ring with
      | .queue x q => put { m with waiters := m.waiters ++ [.queue x.val q.val k] } s
      | .admin => s) s)

/-! ### WRITE -/

/-- PLAIN_INPUT of the partition's charter (Table 15.1). -/
def plainInput (p : Part) : Bool := decide (p.adm.state = .admitted) && decide (leAt p.adm.body 6 2 % 2 = 1)

/-- A page of an extent lies in a protected range (R243). -/
def extentProtected (s : State) (n a len : Nat) : Bool :=
  (extentPages a len).any fun k => match (s.part n).mem.pages.get k with
    | some e => (match e.loc with | .frame f => pageProtected s n f | .banked _ => false)
    | none => false

/-- WRITE: host data is copied into a plain input region as an outside master (R304, R305, R356); otherwise it is refused and counted
(R243). It waits while a page of its extent is banked and while a first write stalls; a write that a line's checks end completes with
ABORTED (DESIGN CHOICE, log 58). -/
def execQueueWrite (c : HostCmd) (s : State) : Out :=
  let n := fnPart c.fn.val
  .next (hostCommand c { plainForm 0x45 [(16, 20)] with form := fun e => decide (entryAt e 32 4 ≠ 0) } (fun b e s' =>
    let p := s'.part n
    let a := entryAt e 24 8
    let len := entryAt e 32 4
    if !plainInput p || !inInput p a len || !extentMapped p a len || meetsLive p a len || extentProtected s' n a len then
      finish c b 0x0A 0 0 (denyCount n s')
    else match extentBanked p a len with
      | k :: _ => askUnbank n k s
      | [] => match outsideWait n a len s with
      | some w => w
      | none =>
        let bs := c.data.take len ++ List.replicate (len - c.data.length) 0
        match outsidePut n a bs s' with
        | (s, true) => finishInput c b len (inputWritten n a bs s)
        | (s, false) => finish c b 0x0B 0 0 s) s)

/-! ### Queries -/

/-- The utilisation record (Table 18.12). -/
def utilBytes (u : UtilRec) : List Byte :=
  [u.runUs, u.issueUs, u.tileUs, u.waitUs, u.pausedUs, u.moved, u.flueBytes].flatMap (fun w => leBytes 8 w.toNat) ++ leBytes 8 u.ovf.toNat

/-- Bytes of a heap that are allocated or pending. -/
def heapUsed (h : Heap) : Nat := (h.blocks.filter fun b => decide (b.st ≠ .free)).foldl (fun k b => k + b.size) 0

/-- The pages of the memory objects of a context: those of its OWNER (R218; DEDUCED, log 43). -/
def ctxPages (p : Part) (x : Context) : List Page :=
  (mappedPages p).filterMap fun e => match p.mobj e.2.mobj.toNat with
    | some o => if o.owner = x.owner then some e.2 else none
    | none => none

/-- The memory record (Table 9.6). -/
def memBytes (p : Part) (c : Nat) (x : Context) : List Byte :=
  let pages := ctxPages p x
  let here := pages.filter fun e => match e.loc with | .frame _ => true | .banked _ => false
  let heap (shelf : Bool) : Nat := if p.running x.launch.be = some c then heapUsed (p.mem.heaps.get (heapIx x.launch.be shelf)) else 0
  leBytes 8 (pages.length * pageBytes) ++ leBytes 8 (here.length * pageBytes) ++ leBytes 8 (heap false) ++ leBytes 8 (heap true) ++
    leBytes 8 x.mem.parkNs.toNat ++ leBytes 8 x.mem.parks.toNat ++ leBytes 8 x.mem.tcMiss.toNat ++ leBytes 6 x.mem.allocFail.toNat ++
    leBytes 2 x.mem.ovf.toNat

/-- QUERY_CTX writes the utilisation and the memory record (R423). -/
def execQueryCtx (c : HostCmd) (s : State) : Out :=
  let n := fnPart c.fn.val
  .next (hostCommand c (ctxForm n 0x12 [(16, 4), (24, 8)]) (fun b e s =>
    let i := ctxIndex (entryAt e 16 4)
    match (s.part n).ctx i with
    | some x => finish c b 0 0 128 (s.emit (.hostWrite c.fn.val (BitVec.ofNat 64 (entryAt e 24 8)) (utilBytes x.util ++ memBytes (s.part n) i x)))
    | none => s) s)

/-- Entries of the capability table as a query returns them (R424): for PF0 and the I3C target those of no partition; entry 25 for the LC
class (DESIGN CHOICE, log 44). -/
def capBytes (s : State) (n : Option Nat) (first count : Nat) : List Byte :=
  (List.range count).flatMap fun i => leBytes 8 (capEntry s n false (first + i)).toNat

/-- QUERY_CAP. -/
def execQueryCap (c : HostCmd) (s : State) : Out :=
  let n : Option Nat := if c.fn.val = 0 then none else some (fnPart c.fn.val)
  .next (hostCommand c (plainForm 0x13 [(16, 16)]) (fun b e s =>
    let bs := capBytes s n (entryAt e 16 4) (entryAt e 20 4)
    finish c b 0 0 (BitVec.ofNat 64 (8 * entryAt e 20 4)) (s.emit (.hostWrite c.fn.val (BitVec.ofNat 64 (entryAt e 24 8)) bs))) s)

/-! ### Attestation -/

/-- LC_STATE codes (Table 17.2). -/
def LcState.code : LcState → Nat
  | .raw => 0 | .test => 1 | .provisioned => 2 | .field => 3 | .returned => 4 | .scrap => 5 | .invalid => 0xF

/-- CHR_STATE codes (Table 15.11). -/
def ChrState.code : ChrState → Nat
  | .empty => 0 | .chartered => 1 | .admitted => 2

/-- Attestation is available: PROVISIONED or FIELD, and no transition completed since the lighting (R380, R381, R389). -/
def attests (s : State) : Bool := (decide (s.lc.lcState = .provisioned) || decide (s.lc.lcState = .field)) && !s.lc.lcPending

/-- Effective module rights (Table 17.8). -/
def moduleRights (s : State) : HWord := match s.dbg.session with
  | some d =>
    match s.lc.lcState with
    | .raw => 7
    | .test => 7
    | .returned => 7
    | .provisioned => d.modRights
    | .field => d.modRights
    | .scrap => 0
    | .invalid => 0
  | none => 0

/-- The DEBUG byte of a report (Table 16.5). -/
def debugByte (s : State) : Nat :=
  ((List.range 4).filter fun n => decide (debugRights s n ≠ 0)).foldl (fun b n => b + 2 ^ n) 0 +
    16 * b2n (decide (moduleRights s ≠ 0)) + 128 * b2n (match s.dbg.session with | some d => d.noCert | none => false)

/-- The party-list digest of an admission. -/
def Admission.partyDigest (a : Admission) : Digest :=
  if a.state = .empty then 0 else shake ((a.body.drop 64).take (1808 * a.parties))

/-- A partition's part of a report (Table 16.5). -/
def reportPart (p : Part) : List Byte :=
  leBytes 1 p.adm.state.code ++ leBytes 1 p.rsv.state.code ++ leBytes 2 p.adm.debugAllow.toNat ++ leBytes 4 0 ++ keyBytes p.adm.digest ++
    keyBytes p.adm.partyDigest ++ keyBytes p.rsv.digest ++ leBytes 8 p.step.count.toNat

/-- Bytes 0 to 3,975 of a report (Table 16.5). -/
def reportBytes (s : State) (nonce : List Byte) : List Byte :=
  leBytes 4 0x5054415A ++ leBytes 2 1 ++ leBytes 2 0 ++ nonce ++ keyBytes s.keys.moduleId ++ leBytes 2 s.stepping ++
    leBytes 1 s.lc.lcState.code ++ leBytes 1 (debugByte s) ++ leBytes 1 s.nParts ++ leBytes 3 0 ++ leBytes 4 s.soot.minutes.toNat ++
    leBytes 4 s.soot.pcycle.toNat ++ keyBytes (capDigest s) ++ keyBytes s.soot.chain ++ leBytes 4 (sootEntries s) ++ leBytes 4 0 ++
    ((List.range 4).flatMap fun n => reportPart (s.part n)) ++ Config.mlkemPublicKey (slotKey s 2) (slotKey s 3) ++ ownPublicKey s ++
    leBytes 7 0

/-- A request for a report joins the queue with its snapshot (R381). -/
def askReport (fn : Option FnId) (dest : DWord) (nonce : List Byte) (s : State) : State :=
  { s with keys := { s.keys with queue := s.keys.queue ++ [{ fn := fn, dest := dest, bytes := reportBytes s nonce }] } }

/-- The refusal of a report request: DENIED outside its life-cycle states and without entropy, BUSY where 8 wait (R381, R366, R389;
log 45). -/
def reportRefused (s : State) : Nat :=
  if !attests s || s.keys.rngFail then 0x0A else if 8 ≤ s.keys.queue.length then 0x0D else 0

/-- REPORT: the request waits for its signature; before KEY_ID_READY it waits to begin (R379, R381). -/
def execReportCmd (c : HostCmd) (s : State) : Out :=
  .next (hostCommand c (plainForm 0x14 [(16, 40)]) (fun b e s' =>
    let code := reportRefused s'
    if code ≠ 0 then finish c b code 0 0 s'
    else if !s.keys.idReady then s
    else askReport (some c.fn) (BitVec.ofNat 64 (entryAt e 48 8)) (leBytes 32 (entryAt e 16 32)) s') s)

/-- REPORT_SIGNED: the Falcon-1024 engine signs the oldest request and the report is returned (R381). Without entropy it fails. -/
def execReportSigned (s : State) : Out :=
  .next (match s.keys.queue with
  | [] => s
  | q :: rest =>
    if !s.keys.idReady then s
    else
      let s := { s with keys := { s.keys with queue := rest } }
      let (s, sig) := signOwn q.bytes s
      let s := if sig.isSome then { s with keys := { s.keys with
        reports := satAdd s.keys.reports 1, attOvf := s.keys.attOvf || satOvf s.keys.reports 1 } } else s
      match q.fn with
      | none =>
        let answer := match sig with
          | some g => leBytes 2 0 ++ leBytes 2 5256 ++ q.bytes ++ g
          | none => leBytes 1 0x0A ++ leBytes 3 0
        State.emit .i3cIbi { s with host := { s.host with i3cAnswer := some answer, i3cBusy := false } }
      | some f => match (s.ring f.val .admin).bind (·.busy) with
        | some b => match sig with
          | some g => completeCmd f.val .admin b 0 0 5256 (s.emit (.hostWrite f.val q.dest (q.bytes ++ g)))
          | none => completeCmd f.val .admin b 0x0A 0 0 s
        | none => s)

/-- The answer to a quick challenge (R380); none stands for NO_SECRET. -/
def quickAnswer (s : State) (nonce : List Byte) : Option (List Byte) :=
  if attests s && s.keys.idReady then
    some (leBytes 16 (Config.kmac256 (keyBytes (slotKey s 4)) (nonce ++ keyBytes s.keys.moduleId ++ leBytes 1 s.lc.lcState.code ++
      leBytes 1 s.nParts) 128 (ascii "ZH9 QUICK")))
  else none

/-- QUICK: 16 bytes are returned; NO_SECRET, which Table 18.4 does not list, is DENIED (DESIGN CHOICE, log 45). -/
def execQuickCmd (c : HostCmd) (s : State) : Out :=
  .next (hostCommand c (plainForm 0x15 [(16, 40)]) (fun b e s =>
    match quickAnswer s (leBytes 32 (entryAt e 16 32)) with
    | some bs => finish c b 0 0 16 (s.emit (.hostWrite c.fn.val (BitVec.ofNat 64 (entryAt e 48 8)) bs))
    | none => finish c b 0x0A 0 0 s) s)

/-- IDE_SETUP: the function's IDE keys are derived and installed (R404); before KEY_ID_READY it waits (R379), and in RETURN no key
operation runs (R389). -/
def execIdeSetup (c : HostCmd) (s : State) : Out :=
  .next (hostCommand c (plainForm 0x16 [(16, 8)]) (fun b _ s' =>
    if s.lc.lcState = .returned then finish c b 0x0A 0 0 s'
    else if !s.keys.idReady then s
    else
      let secret := Config.mlkemDecaps (slotKey s' 2) (slotKey s' 3) (c.data.take 1568)
      let keys := leBytes 128 (Config.shake256 (ascii "ZH9 IDE" ++ keyBytes secret ++ leBytes 1 c.fn.val) 128)
      finish c b 0 0 0 (s'.modFn c.fn.val fun h => { h with ideKeys := some keys })) s)

/-! ### Removing a tenant -/

/-- REMOVE: PF0 starts the removal of a partition's tenant (R422); a removal in progress gives BUSY (DESIGN CHOICE, log 41). -/
def execRemoveTenant (c : HostCmd) (s : State) : Out :=
  .next (hostCommand c { plainForm 0x20 [(16, 1)] with form := fun e => decide (entryAt e 16 1 < s.nParts) } (fun b e s =>
    let n := entryAt e 16 1
    if (s.part n).removing.isSome then finish c b 0x0D 0 0 s else removeTenantStart n 0 (some b) s) s)

/-- TENANT_REMOVAL_DONE: the function's transactions have ended, TENANT_REMOVED is written, and a REMOVE completes (R422). -/
def execTenantRemovalDone (n : PartId) (s : State) : Out :=
  .next (match (s.part n.val).removing with
  | none => s
  | some (detail, cmd) =>
    let s := s.modPart n.val fun p => { p with removing := none }
    let s := partRecord n.val { kind := 6, status := 0, detail := detail, tag := 0, arg := 0, exc := none } s
    match cmd with
    | some b => completeCmd 0 .admin b 0 0 0 s
    | none => s)

end Sys2Proof.Machine
end

