-- ==== Sys2Proof/Machine/Sweep.lean ====
section
/-! DEFINITION. The Sweep's rewriting passes (R227, R228, R234 to R238). -/

namespace Sys2Proof.Machine

/-- The least address from `pa` on that memory-side die `d` of a partition serves, in frames that the pass does not leave as they are: stacks take
turns every 4 KiB (R204). -/
def nextServed (s : State) (skip : List Nat) (d : Nat) : Nat → Nat → Nat
  | 0, pa => pa
  | fuel + 1, pa =>
    if pa / pageBytes ∈ skip then nextServed s skip d fuel ((pa / pageBytes + 1) * pageBytes)
    else if s.dieOf pa = d then pa
    else nextServed s skip d fuel ((pa / 4096 + 1) * 4096)

/-- The pass boundary of a die from an address on. -/
def boundaryFrom (s : State) (skip : List Nat) (d pa : Nat) : Nat := nextServed s skip d (17 * (skip.length + 1)) pa

/-- A pass begins (R235): every die's boundary at the first line it serves of the range. -/
def startPass (slot : Nat) (n : PartId) (kind : PassKind) (first last : Nat) (skip : List Nat) (s : State) : State :=
  let bm := (List.range s.mdPerPart).foldl (fun t d => t.set d (boundaryFrom s skip d (first * pageBytes))) (Tab.const 0)
  { s with sweep := { s.sweep with
    slots := s.sweep.slots.set slot (some { part := n, kind := kind, first := first, last := last, bm := bm, stopped := [], skip := skip }) } }

/-- The passes of a partition. -/
def State.passes (s : State) (n : Nat) : List Pass :=
  ((List.range 16).filterMap s.sweep.slots.get).filter fun p => decide (p.part.val = n)

/-- A range of frames meets a running pass of the partition. -/
def overlapsPass (s : State) (n first last : Nat) : Bool :=
  (s.passes n).any fun p => decide (p.first ≤ last) && decide (first ≤ p.last)

/-- W is cleared in the entries that map a frame, or a span unit whose live version lies in it (R228). The busy and drain of R206's procedure
take place within the step (log 93). -/
def clearWrites (n f : Nat) (s : State) : State :=
  let p := s.part n
  let pages := (mapped p.mem).filter fun k => match k.2.loc with | .frame g => decide (p.liveFrame g = f) | .banked _ => false
  pages.foldl (fun s k => cacheDrop n k.1 (setPage n k.1 (some { k.2 with w := false }) s)) s
where
  /-- the mapped pages. -/
  mapped (m : PartMem) : List (Nat × Page) := m.pages.items.filterMap fun e => e.2.map fun q => (e.1, q)

/-- A region of the last epoch is retired (R228): RETIRED is set, and W is cleared in the entry that maps it. -/
def retireRegion (n f : Nat) (s : State) : State :=
  clearWrites n f (s.modPart n fun p => { p with prot := { p.prot with
    regions := p.prot.regions.upd f fun r => { r with retired := true } } })

/-- Free slots of the Sweep controller. -/
def slotsLeft (s : State) : Nat := ((List.range 16).filter fun i => (s.sweep.slots.get i).isNone).length

/-- A request for a pass from SWP_REQ (R234, Table 10.7): SWP_RESULT tells the outcome; an accepted one takes the lowest free
slot, and is BUSY where the automatic requests that wait will take every free one. The regions of the last epoch retire, and an EPOCH pass leaves them as they are (R228). -/
def sweepRequest (n : PartId) (kind : PassKind) (first last : Nat) (s : State) : State :=
  let p := (s.part n.val).prot
  let key := decide (kind = .key)
  let first := if key then 0 else first
  let last := if key then s.frameCount - 1 else last
  let code : Nat :=
    if !p.keys then (if key then 3 else 5)
    else if last < first ∨ s.frameCount ≤ last then 2
    else if key && (s.passes n.val).any fun q => decide (q.kind = .key) then 4
    else if overlapsPass s n.val first last then 2
    else if key && !p.nextKeys then 3
    else if slotsLeft s ≤ s.sweep.queued.length then 1
    else 0
  let s := { s with sweep := { s.sweep with result := BitVec.ofNat 4 code } }
  if code ≠ 0 then s
  else
    let spent := if key then [] else (p.regions.items.filter fun e =>
      decide (e.2.epoch = lastEpoch) && decide (first ≤ e.1) && decide (e.1 ≤ last)).map (·.1)
    let s := spent.foldl (fun s f => retireRegion n.val f s) s
    if !key && decide (spent.length = last - first + 1) then s
    else startPass ((freePassSlot s).getD 0) n kind first last spent s

/-- SWEEP_EPOCH_REQUEST: SWP_GO with SWP_KIND EPOCH (R234). -/
def execSweepEpochRequest (n : PartId) (first last : BitVec 19) (s : State) : Out :=
  .next (sweepRequest n .epoch first.toNat last.toNat { s with sweep := { s.sweep with
    reqPart := BitVec.ofNat 2 n.val, reqKind := 0, first := first, last := last } })

/-- SWEEP_KEY_REQUEST: SWP_GO with SWP_KIND KEY (R234). -/
def execSweepKeyRequest (n : PartId) (s : State) : Out :=
  .next (sweepRequest n .key 0 0 { s with sweep := { s.sweep with reqPart := BitVec.ofNat 2 n.val, reqKind := 1 } })

/-- The write count from which an EPOCH pass is requested (R227). -/
def rwcThreshold : Nat := 2 ^ 48 - 2 ^ 32

/-- RWC_THRESHOLD: a die's write count of a region has reached the threshold (R227): an EPOCH pass over it is requested, unless a
pass covers it already or its request waits; a region of the last epoch is retired instead (R228). It waits behind the requests that wait
for a slot (R234). -/
def execRwcThreshold (n : PartId) (frame : BitVec 19) (die : Fin 4) (s : State) : Out :=
  let f := frame.toNat
  let r := (s.part n.val).prot.regions.get f
  .next (if decide (r.rwc.get die.val < rwcThreshold) || r.retired || overlapsPass s n.val f f ||
      decide ((n.val, f) ∈ s.sweep.queued) then s
    else if r.epoch = lastEpoch then retireRegion n.val f s
    else
      let s := { s with
        common := { s.common with swpAutoOvf := s.common.swpAutoOvf || satOvf s.sweep.autoCnt 1 }
        sweep := { s.sweep with autoCnt := satAdd s.sweep.autoCnt 1 } }
      match freePassSlot s, s.sweep.queued with
      | some i, [] => startPass i n .epoch f f [] s
      | _, _ => { s with sweep := { s.sweep with queued := s.sweep.queued ++ [(n.val, f)] } })

/-- SWEEP_QUEUED_START: the oldest waiting automatic request takes a free slot (R234); one that a pass covers by now starts
nothing. -/
def execSweepQueuedStart (s : State) : Out :=
  .next (match s.sweep.queued, freePassSlot s with
  | (n, f) :: rest, some i =>
    let s := { s with sweep := { s.sweep with queued := rest } }
    if overlapsPass s n f f then s else startPass i (Fin.ofNat 4 n) .epoch f f [] s
  | _, _ => s)

/-- The boundary of a pass that every die has passed. -/
def Pass.low (p : Pass) (dies : Nat) : Nat :=
  (List.range dies).foldl (fun m d => min m (p.bm.get d)) (p.bm.get 0)

/-- Move a die's boundary. -/
def setBm (slot d pa : Nat) (s : State) : State :=
  let move (p : Pass) : Pass := { p with bm := p.bm.set d pa }
  { s with sweep := { s.sweep with slots := s.sweep.slots.upd slot (Option.map move) } }

/-- A line is stored again under the pass's new values (R236): it is taken as it was read, its LCNT comes from the new RWC, which advances, and
the boundary moves past it. -/
def rewriteLine (slot n d l : Nat) (s : State) : State :=
  let c := ((s.part n).prot.regions.get (l / 16384)).rwcNew.get d
  (setBm slot d (128 * l + 128) (takeLine n l s)).modPart n fun p => { p with prot := { p.prot with
    lcnt := p.prot.lcnt.set l c
    faultLines := p.prot.faultLines.upd d fun ls => ls.filter fun x => decide (x ≠ l)
    regions := p.prot.regions.upd (l / 16384) fun r => { r with rwcNew := r.rwcNew.set d (c + 1) } } }

/-- Rewrite the lines of a window from the die's boundary on (R236, R238): the state, and whether the window's end was reached. -/
def windowLines (slot : Nat) (n : Nat) (d : Nat) : List Nat → State → State × Bool
  | [], s => (s, true)
  | l :: ls, s =>
    match s.badOf n l with
    | some .crc =>
      let stop (p : Pass) : Pass := { p with bm := p.bm.set d (128 * l), stopped := d :: p.stopped }
      let s := { s with sweep := { s.sweep with slots := s.sweep.slots.upd slot (Option.map stop) } }
      (hbmFault n l .sweep false s, false)
    | some b => (securityAlarm n (alarmOf b) l none s, false)
    | none => windowLines slot n d ls (rewriteLine slot n d l s)

/-- Regions that every die has passed take the new values (R236). -/
def finishRegions (n : Nat) (kind : PassKind) (skip : List Nat) (lo hi : Nat) (s : State) : State :=
  s.modPart n fun p => { p with prot := { p.prot with
    regions := (List.range (hi - lo)).foldl (fun t i => if lo + i ∈ skip then t else t.upd (lo + i) fun r =>
      { r with epoch := nextEpoch r.epoch
               kgen := if kind = .key then !p.prot.kgen else r.kgen
               rwc := r.rwcNew, rwcNew := Tab.const 0 }) p.prot.regions } }

/-- A pass has gone past the end of its range (R236): the slot is free, PF0 is told; after a KEY pass the old generation is
destroyed. -/
def finishPass (slot : Nat) (p : Pass) (s : State) : State :=
  let s := { s with sweep := { s.sweep with slots := s.sweep.slots.set slot none } }
  let s := if p.kind = .key then
      s.modPart p.part.val fun q => { q with prot := { q.prot with kgen := !q.prot.kgen, mgen := q.prot.mgen + 1, nextKeys := false } }
    else s
  passDone slot (if p.kind = .key then 1 else 0) s

/-- The memory-side die has a window step to run of a pass: it serves the partition, and its boundary has not reached the end. -/
def passSteps (s : State) (die : Nat) (p : Pass) : Bool :=
  decide (die / s.mdPerPart = p.part.val) && decide (die % s.mdPerPart ∉ p.stopped) && !(s.part p.part.val).prot.halted &&
    decide (p.bm.get (die % s.mdPerPart) < (p.last + 1) * pageBytes)

/-- A slot is the next one in turn on a memory-side die: of the slots after the one that it served last, the first with a step to run (R237). -/
def passTurn (s : State) (die slot : Nat) : Bool :=
  let order := (List.range 16).map fun i => (s.sweep.turn.get die + 1 + i) % 16
  decide ((order.find? fun i => match s.sweep.slots.get i with | some p => passSteps s die p | none => false) = some slot)

/-- SWEEP_WINDOW_STEP: memory-side die `d` of its partition runs the next window step of the pass in a slot, whose turn
it is on the die (R236, R237). `ns` is how long the
window was locked; `flips` are outside changes to lines before it. -/
def execSweepWindowStep (slot : Fin 16) (d : Fin 4) (flips : List LineFlip) (ns : Word) (s : State) : Out :=
  .next (match s.sweep.slots.get slot.val with
  | none => s
  | some p =>
    let n := p.part.val
    let pa := p.bm.get d.val
    let stop := (p.last + 1) * pageBytes
    if !s.inService || (s.part n).prot.halted || decide (s.mdPerPart ≤ d.val) || decide (d.val ∈ p.stopped) ||
        decide (stop ≤ pa) || !passTurn s (n * s.mdPerPart + d.val) slot.val then s
    else
      let s := strikeLines n flips s
      let s := { s with sweep := { s.sweep with
        turn := s.sweep.turn.set (n * s.mdPerPart + d.val) slot.val
        windowMax := if s.sweep.windowMax.toNat < ns.toNat then ns else s.sweep.windowMax } }
      let wend := (pa / 2048 + 1) * 2048
      let before := p.low s.mdPerPart
      match windowLines slot.val n d.val ((List.range ((wend - pa) / 128)).map (pa / 128 + ·)) s with
      | (s, false) => s
      | (s, true) =>
        let s := setBm slot.val d.val (boundaryFrom s p.skip d.val wend) s
        match s.sweep.slots.get slot.val with
        | none => s
        | some q =>
          let after := min (q.low s.mdPerPart) stop
          let s := finishRegions n q.kind q.skip (before / pageBytes) (after / pageBytes) s
          if stop ≤ q.low s.mdPerPart then finishPass slot.val q s else s)

/-- SWEEP_RESUME: a die's stopped window step may go on (R238): the partition has been released from its boundary, or no LC job
is loaded on it. -/
def execSweepResume (slot : Fin 16) (d : Fin 4) (s : State) : Out :=
  .next (match s.sweep.slots.get slot.val with
  | none => s
  | some p =>
    let q := s.part p.part.val
    if (!q.inRun false) || (!q.pauseLc && !q.step.held) then
      let p := { p with stopped := p.stopped.filter fun x => decide (x ≠ d.val) }
      { s with sweep := { s.sweep with slots := s.sweep.slots.set slot.val (some p) } }
    else s)

end Sys2Proof.Machine
end

