-- ==== Sys2Proof/Machine/Registers.lean ====
section
/-! DEFINITION. The register map (R427 to R431, R445): where each block lies, which masters read it, what each word reads as, and the
values of the wide-value mailbox (R442). -/

namespace Sys2Proof.Machine

/-! ### Masters and places -/

/-- REG_MASTER_ID (Table 19.1). -/
def masterId : Master → Nat
  | .pf f => f.val
  | .i3c => 5
  | .sdp => 6

/-- A privileged master (Table 19.1). -/
def privileged : Master → Bool
  | .pf f => decide (f.val = 0)
  | .i3c => true
  | .sdp => true

/-- PF0. -/
def isPf0 (m : Master) : Bool := decide (masterId m = 0)

/-- The partition function of partition `n`. -/
def ownsPart (m : Master) (n : Nat) : Bool := decide (m ≠ .i3c) && decide (m ≠ .sdp) && decide (masterId m = n + 1)

/-- The blocks of Tables 19.7 and 19.8. -/
inductive RegBlock where
  | common | power | sentinel | sweep | fabric | kindling | key | life | soot
  | cv (u : Nat)
  | flue (f : Nat)
  | step (n : Nat) | memory (n : Nat) | prot (n : Nat) | tree (n : Nat) | relight (n : Nat) | ckpt (n : Nat) | charter (n : Nat)
  | health (n : Nat)
  | host (f : Nat)
  | ember (l : Nat)
  deriving DecidableEq, Repr

/-- The block of a module page of 4 KiB (Table 19.7). -/
def modulePage : Nat → Option RegBlock
  | 0 => some .common | 1 => some .power | 2 => some .sentinel | 3 => some .sweep | 4 => some .fabric | 5 => some .kindling
  | 6 => some .key | 7 => some .life | 8 => some .soot | _ => none

/-- The block of a partition page at an offset (Table 19.8). -/
def partBlock (n : Nat) : Nat → Option RegBlock
  | 0 => some (.step n) | 1 => some (.memory n) | 2 => some (.prot n) | 3 => some (.tree n) | 4 => some (.relight n)
  | 5 => some (.ckpt n) | 6 => some (.charter n) | 7 => some (.health n) | _ => none

/-- The block and the offset in it of a byte address (Tables 19.7, 19.8). The pages of partitions absent from the layout hold no block
(R445). -/
def regPlace (s : State) (a : Nat) : Option (RegBlock × Nat) :=
  let page := a / 0x1000
  let off := a % 0x1000
  if page < 9 then (modulePage page).map fun b => (b, off)
  else if page = 9 then (if off < 0x400 then some (.cv (off / 0x80), off % 0x80) else none)
  else if 0x10000 ≤ a ∧ a < 0x10800 then some (.flue ((a - 0x10000) / 0x40), a % 0x40)
  else if 0x20000 ≤ a ∧ a < 0x24000 then
    let n := page - 0x20
    if n < s.nParts then (partBlock n (off / 0x100)).map fun b => (b, off % 0x100) else none
  else if 0x30000 ≤ a ∧ a < 0x35000 then some (.host (page - 0x30), off)
  else if 0x100000 ≤ a ∧ a < 0x290000 then some (.ember ((a - 0x100000) / 0x40), a % 0x40)
  else none

/-- The masters that may read a block (R430, and the rule of each block's table). -/
def mayRead (s : State) (m : Master) (b : RegBlock) (off : Nat) : Bool :=
  let pm := isPf0 m || decide (m = .i3c)
  match b with
  | .common => privileged m || decide (off < 8) || decide (0x80 ≤ off ∧ off < 0xA8)
  | .cv u => pm || ownsPart m (u / 2)
  | .step n => isPf0 m || ownsPart m n
  | .memory n => isPf0 m || ownsPart m n
  | .prot n => pm || ownsPart m n
  | .tree n => pm || ownsPart m n
  | .relight n => pm || ownsPart m n
  | .ckpt n => pm || ownsPart m n
  | .charter n => pm || ownsPart m n
  | .health n => pm || ownsPart m n
  | .host f => privileged m || decide (masterId m = f)
  | .ember l => isPf0 m || ownsPart m (s.partOf l)
  | _ => pm

/-! ### Codes -/

/-- EMB_THREAD_STATE codes (Table 3.3). -/
def TState.code : TState → Nat
  | .idle => 0 | .run => 1 | .wait => 2 | .park => 3 | .paused => 4 | .halt => 5 | .lost => 6

/-- FLUE_STATE codes (Table 11.2). -/
def FlueState.code : FlueState → Nat
  | .idle => 0 | .absent => 1 | .detect => 2 | .train => 3 | .align => 4 | .init => 5 | .fpx => 6 | .run => 7 | .retrain => 8
  | .quar => 9 | .down => 0xA

/-- CK_STATE codes (Table 14.8). -/
def CkState.code : CkState → Nat
  | .idle => 0 | .snap => 1 | .write => 2 | .waitManifest => 3 | .restore => 4 | .refused => 5

/-- LIGHT_STATE codes (Table 2.1). -/
def LightState.code : LightState → Nat
  | .aoUp => 1 | .otpRead => 2 | .repair => 3 | .selfTest => 4 | .hbmTrain => 5 | .ready => 6 | .lightFail => 0xF

/-- LIGHT_CAUSE codes (Table 2.2). -/
def LightCause.code : LightCause → Nat
  | .none => 0 | .invalid => 1 | .scrap => 2 | .parity => 3 | .spares => 4 | .mbist => 5 | .hbm => 6 | .timeout => 7

/-- A word from its fields: each a value and its lowest bit. -/
def packed (fs : List (Nat × Nat)) : Word := BitVec.ofNat 32 (fs.foldl (fun k f => k + f.1 * 2 ^ f.2) 0)

/-- Four flags by partition as one number. -/
def partBits (p : Nat → Bool) : Nat := (List.range 4).foldl (fun k n => k + b2n (p n) * 2 ^ n) 0

/-! ### What each word reads as -/

/-- Common block (Table 19.9). -/
def readCommon (m : Master) (off : Nat) (s : State) : Word :=
  let c := s.common
  let r := c.masters.get (masterId m)
  match off with
  | 0x000 => packed [(0x2D09, 16), (s.stepping, 0)]
  | 0x004 => packed [(masterId m, 0)]
  | 0x008 => packed [(b2n c.voting, 31), (b2n c.parityErr, 30), (b2n c.badAcc, 29), (b2n c.voteOvf, 28), (b2n c.swpDoneOvf, 27),
      (b2n c.swpAutoOvf, 26), (c.epochFull.toNat, 4)]
  | 0x00C => c.parityAddr
  | 0x010 => c.voteFix
  | 0x040 => r.dmpAddr
  | 0x048 => packed [(r.cimage.toNat, 26)]
  | 0x04C => packed [(c.timeoutMs.toNat, 0)]
  | 0x050 => packed [(b2n c.dmpTimeout, 31), (b2n c.stageIgn, 30), (c.resultImage.toNat, 27), (c.result.toNat, 24),
      ((List.range 5).foldl (fun k i => k + b2n (c.images.get i).armed * 2 ^ i) 0, 16), ((c.images.get r.cimage.toNat).entries.length, 0)]
  | 0x080 => packed [(r.mbxSel.toNat, 0)]
  | 0x084 => packed [(b2n r.mbxValid, 31), (r.mbxResult.toNat, 0)]
  | _ => if 0x88 ≤ off ∧ off < 0xA8 ∧ off % 4 = 0 then r.mbxData.get ((off - 0x88) / 4) else 0

/-- Power and clock block (Table 2.8). -/
def readPower (off : Nat) (s : State) : Word :=
  let p := s.power
  match off with
  | 0x000 => packed [(p.hbmOk.toNat, 8), (p.cause.code, 4), (p.light.code, 0)]
  | 0x004 => packed [(p.stageMode.toNat, 0)]
  | 0x008 => p.stageMask
  | 0x00C => packed [(b2n p.stageErr, 7), (b2n ((List.range s.nParts).any fun n => draughtHold s n), 6),
      (b2n p.pendingMode.isSome, 5), (draughtCode p.mode, 0)]
  | 0x010 => packed [(b2n p.tripped, 31), (p.hotDie.toNat, 24), (p.thermMax.toNat, 8), (p.thermPeak.toNat, 0)]
  | 0x014 => packed [(b2n p.ov, 31), (b2n p.throttle, 30), (b2n p.throttleOvf, 29), (p.powerW.toNat, 16), (p.vin.toNat, 0)]
  | 0x018 => p.throttleTime
  | _ => 0

/-- Sentinel block (Table 7.2). -/
def readSentinel (off : Nat) (s : State) : Word :=
  let p := s.snt
  match off with
  | 0x000 => packed [(p.missLimit.toNat, 0)]
  | 0x004 => packed [(b2n p.missOvf, 31), (b2n p.cfgIgnored, 30), (p.missTotal.toNat, 0)]
  | 0x008 => packed [(b2n p.lastValid, 31), (p.lastThread.toNat, 16), (p.lastEmber.toNat, 0)]
  | _ => 0

/-- Sweep block (Table 10.7). -/
def readSweep (off : Nat) (s : State) : Word :=
  let p := s.sweep
  match off with
  | 0x000 => packed [(p.reqPart.toNat, 2), (p.reqKind.toNat, 0)]
  | 0x004 => packed [(p.first.toNat, 0)]
  | 0x008 => packed [(p.last.toNat, 0)]
  | 0x00C => packed [(((List.range 16).filter fun i => (p.slots.get i).isSome).length, 16), (p.queued.length % 4096, 4),
      (p.result.toNat, 0)]
  | 0x010 => p.doneCnt
  | 0x014 => p.autoCnt
  | 0x018 => p.windowMax
  | _ => 0

/-- Fabric block (Table 11.13). -/
def readFabric (off : Nat) (s : State) : Word :=
  let job (n : Nat) : Bool := s.hasPart n && (s.part n).hasLc
  match off with
  | 0x000 => packed [(s.fab.member.toNat, 25), (s.fab.t.toNat, 5)]
  | 0x004 => packed [(s.fab.dims.toNat, 0)]
  | 0x008 => packed [(b2n (fabCfgErr s), 13), (b2n s.fab.cfgIgnored, 12), (partBits fun n => (s.part n).frozen, 8),
      (partBits fun n => job n && isJobStoker s n, 4), (partBits fun n => job n && isHearthStoker s n, 0)]
  | _ => 0

/-- Kindling block (Table 14.7). -/
def readKindling (off : Nat) (s : State) : Word :=
  let k := s.ks
  match off with
  | 0x000 => packed [(b2n k.ready, 31), (b2n k.compacting, 30), (b2n k.rootB, 29), (b2n k.pwrWarn, 28), (b2n k.metaFault, 27)]
  | 0x004 => packed [(jfill s, 0)]
  | 0x008 => packed [(k.freeStripes.toNat, 0)]
  | 0x00C => packed [(k.inForce.retired.length, 0)]
  | 0x010 => packed [(b2n k.compactOvf, 31), (k.compactCnt.toNat, 0)]
  | _ => 0

/-- Key block (Table 16.6). -/
def readKey (off : Nat) (s : State) : Word :=
  let k := s.keys
  match off with
  | 0x000 => packed [(b2n k.rngFail, 31), (b2n k.idReady, 30), (b2n k.attOvf, 26), (b2n k.unwrapOvf, 25), (b2n k.missOvf, 24),
      (partBits fun n => (s.part n).prot.nextKeys, 8), (k.queue.length, 4)]
  | 0x004 => packed [(k.mkPart.toNat, 4), (k.mkResult.toNat, 0)]
  | 0x008 => k.miss
  | 0x00C => packed [(k.unwrapFail.toNat, 0)]
  | 0x010 => k.reports
  | _ => 0

/-- Life-cycle and debug block (Table 17.10). -/
def readLife (off : Nat) (s : State) : Word :=
  let l := s.lc
  match off with
  | 0x000 => packed [(l.lcState.code, 28), (b2n l.lcPending, 27), (b2n l.fromTo.isSome, 26), (b2n s.dbg.session.isSome, 25),
      (b2n (match s.dbg.session with | some d => d.noCert | none => false), 24), (l.status.toNat, 4)]
  | 0x004 => packed [(l.target.toNat, 0)]
  | 0x068 => packed [(b2n l.tokenOvf, 31), (l.tokenFail.toNat, 16), (l.holdupMs.toNat, 0)]
  | 0x06C => packed [((debugRights s 1).toNat, 16), ((debugRights s 0).toNat, 0)]
  | 0x070 => packed [((debugRights s 3).toNat, 16), ((debugRights s 2).toNat, 0)]
  | 0x074 => match s.dbg.session with | some d => d.notAfter | none => 0
  | 0x078 => packed [((moduleRights s).toNat, 16), (l.erasePct.toNat, 0)]
  | _ => 0

/-- Soot record and health block (Table 20.5). -/
def readSoot (m : Master) (off : Nat) (s : State) : Word :=
  let p := s.soot
  let h := s.health
  match off with
  | 0x000 => packed [(b2n (sootFull s), 31), (b2n p.chainBad, 30), (b2n p.meterFull, 29), (b2n p.pcycOvf, 28), (b2n p.lostOvf, 27),
      (sootEntries s, 0)]
  | 0x004 => p.minutes
  | 0x008 => packed [(p.pcycle.toNat, 0)]
  | 0x00C => packed [(p.lost.toNat, 16), (p.badIndex.toNat, 0)]
  | 0x010 => packed [((s.common.masters.get (masterId m)).sootSel.toNat, 0)]
  | 0x020 => packed [(h.thermMargin.toNat, 24), (h.spareEmb.toNat, 16), (h.sntThr.toNat, 8), (h.hbmThr.toNat, 0)]
  | 0x024 => packed [(h.windowS.toNat, 16), (h.flueThr.toNat, 0)]
  | 0x028 => packed [(h.warned.toNat, 0)]
  | _ => 0

/-- Bits of a check-value model, its Init and its final XOR (Table 20.3). -/
def cvWidth : Nat → Nat | 0 => 32 | 1 => 32 | 2 => 16 | _ => 64
def cvInit : Nat → Nat | 0 => 0xFFFFFFFF | 1 => 0xFFFFFFFF | 2 => 0xFFFF | _ => 0
def cvXorOut : Nat → Nat | 0 => 0xFFFFFFFF | 1 => 0xFFFFFFFF | 2 => 0 | _ => 0

/-- The result of a unit: its running value with the final XOR (R454). -/
def CvUnit.result (u : CvUnit) : DWord := u.run ^^^ BitVec.ofNat 64 (cvXorOut u.poly.toNat)

/-- A check-value unit (Table 20.6); CV_RESULT reads zero while CV_POLY is 3 (R459). -/
def readCv (u off : Nat) (s : State) : Word :=
  let c := s.cv.get u
  match off with
  | 0x000 => packed [(c.poly.toNat, 0)]
  | 0x010 => if c.poly.toNat = 3 then 0 else c.result.setWidth 32
  | 0x014 => c.loadLo
  | 0x018 => c.loadHi
  | _ => 0

/-- A flue's block (Table 11.12). -/
def readFlue (f off : Nat) (s : State) : Word :=
  let u := s.flues.get f
  match off with
  | 0x000 => packed [(b2n u.en, 31)]
  | 0x004 => packed [(u.weights.toNat, 0)]
  | 0x008 => packed [(u.state.code, 28), (if u.up then u.width u.tx else 0, 24), (if u.up then u.width u.rx else 0, 20),
      (u.tx.spare.getD 0xF, 16), (u.rx.spare.getD 0xF, 12), (u.quarCause.toNat, 8), (u.quarPart.toNat, 4),
      (b2n (!s.pins.presN.get f), 3), (b2n u.trainFail, 2), (b2n u.cfgIgnored, 1)]
  | 0x00C => match u.peer with
    | some (a, t, k) => packed [(1, 31), (a.toNat, 25), (t.toNat, 5), (k.toNat, 0)]
    | none => 0
  | 0x010 => u.retryCnt
  | 0x014 => u.fecCorr
  | 0x018 => u.fecUncorr
  | 0x01C => u.refuseCnt
  | 0x020 => u.deadKeyCnt
  | 0x024 => u.staleCnt
  | 0x028 => packed [(u.ovf.toNat, 0)]
  | _ => 0

/-- Step-controller block (Table 8.7). -/
def readStep (n off : Nat) (s : State) : Word :=
  let p := (s.part n).step
  match off with
  | 0x000 => packed [(b2n p.frozen, 2), (b2n p.released, 1), (b2n (stepRecWait s n), 0)]
  | 0x004 => packed [(p.nmb.toNat, 16), (p.ncontrib.toNat, 0)]
  | 0x008 => packed [(b2n p.dropOvf, 31), (p.dropTotal.toNat, 0)]
  | 0x00C => packed [(b2n p.selfOvf, 31), (p.selfDrops.toNat, 0)]
  | 0x010 => packed [(b2n p.voidOvf, 31), (p.voidCnt.toNat, 0)]
  | 0x014 => p.lastDelay
  | 0x018 => packed [(b2n p.framesOvf, 31), (p.dropFrames.toNat, 0)]
  | _ => 0

/-- Pages of a partition with B = 1. -/
def bankedPages (p : Part) : Nat :=
  ((mappedPages p).filter fun e => match e.2.loc with | .banked _ => true | .frame _ => false).length

/-- Memory block (Table 9.7). -/
def readMemory (n off : Nat) (s : State) : Word :=
  let p := (s.part n).mem
  match off with
  | 0x000 => packed [(b2n p.hasDir, 31), (b2n p.parkOvf, 3), (b2n p.tcMissOvf, 2), (b2n p.poolEmpty, 1), (b2n p.cfgIgnored, 0)]
  | 0x004 => packed [(p.ptDir.toNat, 0)]
  | 0x008 => packed [(p.poolFrames.length, 0)]
  | 0x00C => packed [(bankedPages (s.part n), 0)]
  | 0x010 => p.parkCnt
  | 0x014 => p.parkMax
  | 0x018 => p.tcMiss
  | 0x01C => packed [((s.part n).unbanks, 0)]
  | _ => 0

/-- A KEY pass of the partition runs. -/
def keyPassRuns (s : State) (n : Nat) : Bool := (s.passes n).any fun q => decide (q.kind = .key)

/-- Protection block (Table 10.6). -/
def readProt (n off : Nat) (s : State) : Word :=
  let p := (s.part n).prot
  match off with
  | 0x000 => packed [(b2n p.keys, 31), (b2n p.halted, 30), (p.alarmKind.toNat, 28), (b2n p.kgen, 27), (b2n (keyPassRuns s n), 26),
      (b2n p.denyOvf, 3), (b2n p.persistOvf, 2), (b2n p.crcOvf, 1), (b2n p.crcValid, 0)]
  | 0x004 => p.crcCnt
  | 0x008 => packed [(p.persistCnt.toNat, 0)]
  | 0x00C => p.denyCnt
  | 0x010 => packed [((p.regions.items.filter fun e => e.2.retired).length, 0)]
  | 0x014 => packed [(p.ranges.length, 0)]
  | _ => 0

/-- Draught-tree block (Table 12.6). -/
def readTree (n off : Nat) (s : State) : Word :=
  let p := (s.part n).tree
  match off with
  | 0x000 => packed [(b2n p.mismOvf, 3), (b2n p.collOvf, 2), (b2n p.bufFull, 1), (b2n p.linValid, 0)]
  | 0x004 => p.lineage
  | 0x008 => p.collCnt
  | 0x00C => packed [(p.mismCnt.toNat, 0)]
  | 0x010 => packed [(p.bufPeak.toNat, 0)]
  | _ => 0

/-- Relight block (Table 13.9). -/
def readRelight (n off : Nat) (s : State) : Word :=
  let p := (s.part n).rl
  match off with
  | 0x000 => packed [(p.state.code, 8), (roleCode p.role, 6), (p.mode, 4), (b2n p.forward, 3), (b2n p.sealWait, 2), (b2n p.poolEmpty, 1),
      (b2n p.inputWait, 0)]
  | 0x004 => packed [(p.units, 0)]
  | 0x008 => packed [(p.interval, 7), (p.share, 2)]
  | 0x00C => packed [(p.pool.length, 0)]
  | 0x010 => packed ((match p.lostPos with
      | some q => [(1, 31), (q.member, 25), ((tWord q).toNat, 5)]
      | none => []) ++ [(p.losses % 8, 2)])
  | 0x014 => packed [(b2n p.countOvf, 31), (p.count.toNat, 0)]
  | 0x018 => p.lastUs
  | 0x01C => packed [(b2n p.stallOvf, 31), (p.stallCnt.toNat, 0)]
  | _ => 0

/-- Checkpoint block (Table 14.8). -/
def readCkpt (n off : Nat) (s : State) : Word :=
  let p := (s.part n).ck
  match off with
  | 0x000 => packed [(p.state.code, 29), (b2n p.abandoned, 27), (b2n p.nospace, 26), (p.lastReasons.toNat, 0)]
  | 0x004 => packed [(p.interval % 2048, 10), (p.holdoff % 1024, 0)]
  | 0x008 => packed [(p.warn % 64, 0)]
  | 0x00C => packed [(slotsFree s n, 0)]
  | 0x010 => packed [(slotsOf s n fun k => decide (k = 0), 0)]
  | 0x014 => packed [(b2n p.cntOvf, 31), (p.cnt.toNat, 0)]
  | 0x018 => packed [(b2n p.abandonOvf, 31), (p.abandonCnt.toNat, 0)]
  | _ => 0

/-- Charter block (Table 15.11). -/
def readCharter (n off : Nat) (s : State) : Word :=
  let p := s.part n
  let c := p.chr
  let caps := (List.range 16).foldl (fun k i => k + b2n (p.adm.capsules.get i).isSome * 2 ^ i) 0
  match off with
  | 0x000 => packed [(p.adm.state.code, 30), (p.rsv.state.code, 28), (p.adm.parties, 23), (c.lastStatus.toNat, 16), (caps, 0)]
  | 0x004 => packed [(leAt p.adm.body 35 1, 20), (c.lastExpStatus.toNat, 16), (p.adm.debugAllow.toNat, 0)]
  | 0x008 => packed [(b2n c.expOvf, 31), (c.expCnt.toNat, 0)]
  | 0x00C => packed [(b2n c.impOvf, 31), (c.impCnt.toNat, 0)]
  | 0x010 => packed [(b2n c.refuseOvf, 31), (c.refuseCnt.toNat, 0)]
  | _ => 0

/-- Health page (Table 20.7). -/
def readHealth (n off : Nat) (s : State) : Word :=
  match off with
  | 0x000 => packed [((s.part n).sdMax.toNat, 16), ((s.part n).slowdown.toNat, 0)]
  | 0x004 => packed [((s.part n).pwarn.toNat, 0)]
  | _ => 0

/-- Live contexts and queues of the module: each was used when it was created, so a resident slot holds it while slots last (R413;
DEDUCED, log 46). -/
def liveCtxs (s : State) : Nat :=
  (List.range 4).foldl (fun k n => k + ((s.part n).ctxs.items.filter fun e => e.2.obj.isSome).length) 0
def liveQueues (s : State) : Nat :=
  (List.range 4).foldl (fun k n => (s.part n).ctxs.items.foldl (fun k e => match e.2.obj with
    | some x => k + (x.queues.items.filter fun q => q.2.isSome).length
    | none => k) k) 0

/-- Host block of a function (Table 18.14). -/
def readHost (f off : Nat) (s : State) : Word :=
  let h := s.host.fns.get f
  match off with
  | 0x000 => packed [(f, 29), (b2n h.cfgIgnored, 7), (b2n s.host.aperActive, 6), (b2n s.host.aperEn, 5), (b2n s.host.layoutPend, 4),
      (s.host.layoutStage.toNat, 2), (s.host.layout.toNat, 0)]
  | 0x004 => packed [(h.adminLo.toNat, 12)]
  | 0x008 => h.adminHi
  | 0x00C => packed [(b2n h.adminEn, 31), (h.adminK.toNat, 0)]
  | 0x010 => packed [(h.recLo.toNat, 6)]
  | 0x014 => h.recHi
  | 0x018 => packed [(b2n h.recEn, 31), (h.recVec.toNat, 16), (h.recK.toNat, 0)]
  | 0x01C => packed [(h.recHead.toNat, 0)]
  | 0x020 => packed [(h.held.length, 16), (h.recTail.toNat, 0)]
  | 0x024 => packed [(b2n h.recOvf, 31), (h.recLost.toNat, 0)]
  | 0x028 => packed [(b2n h.dbOvf, 31), (h.dbBad.toNat, 0)]
  | 0x02C => packed [(min 48 (liveCtxs s), 16), (min 192 (liveQueues s), 0)]
  | _ => 0

/-- Ember block (Table 3.8). -/
def readEmber (l off : Nat) (s : State) : Word :=
  let m := s.ember l
  match off with
  | 0x000 => packed [(physOf s l, 16), (l, 0)]
  | 0x004 => packed ((List.range 8).map fun t => ((m.thr.get t).st.code, 3 * t))
  | 0x008 => packed [(b2n (s.part (s.partOf l)).hasCtx, 31), (b2n m.cfgIgnored, 8), (m.beMask.toNat, 0)]
  | 0x00C => packed [(m.beBase.toNat, 16), (m.beLen.toNat, 0)]
  | 0x010 => packed [(m.flags.toNat, 0)]
  | 0x014 => packed [(b2n m.parityOvf, 31), (m.parityLimit.toNat, 16), (m.parityCnt.toNat, 0)]
  | 0x018 => packed [(b2n m.parityValid, 31), (m.parityBank.toNat, 12), (m.parityWord.toNat, 0)]
  | 0x01C => packed [(b2n m.sentOvf, 31), (m.sentMiss.toNat, 0)]
  | 0x020 => packed [(b2n m.retire.isSome, 1)]
  | 0x024 => packed [(m.tallyOvf.toNat, 0)]
  | 0x028 => packed [(grateSpares s (l / 64), 0)]
  | _ => 0

/-- A word of a block. -/
def blockRead (m : Master) (b : RegBlock) (off : Nat) (s : State) : Word :=
  match b with
  | .common => readCommon m off s
  | .power => readPower off s
  | .sentinel => readSentinel off s
  | .sweep => readSweep off s
  | .fabric => readFabric off s
  | .kindling => readKindling off s
  | .key => readKey off s
  | .life => readLife off s
  | .soot => readSoot m off s
  | .cv u => readCv u off s
  | .flue f => readFlue f off s
  | .step n => readStep n off s
  | .memory n => readMemory n off s
  | .prot n => readProt n off s
  | .tree n => readTree n off s
  | .relight n => readRelight n off s
  | .ckpt n => readCkpt n off s
  | .charter n => readCharter n off s
  | .health n => readHealth n off s
  | .host f => readHost f off s
  | .ember l => readEmber l off s

/-- A read of one register word by a master (R428 to R430): zero where no table assigns the address or the master may not read it. -/
def regRead (m : Master) (a : Nat) (s : State) : Word :=
  match regPlace s a with
  | some (b, off) => if mayRead s m b off then blockRead m b off s else 0
  | none => 0

/-! ### The wide-value mailbox -/

/-- The committed generations of a partition's job, the newest first: CK_NEWEST and CK_OLDER (R347). -/
def olderGen (s : State) (n : Nat) : Option Gen :=
  match newestGen s n with
  | none => none
  | some g => (gensOf s n).foldl (fun b h => if h.st = .committed ∧ h.gen < g.gen then
      (match b with | some k => if k.gen < h.gen then some h else some k | none => some h) else b) none

/-- The block that a mailbox value belongs to and its bits (Table 19.5, R459); none where the code or index is not assigned. -/
def mailboxValue (m : Master) (code ix : Nat) (s : State) : Option (RegBlock × Nat) :=
  let p := s.part ix
  let wide (x : DWord) : Nat := x.toNat
  let step (g : Option Gen) : Nat := match g with | some g => g.step.toNat | none => 0
  let part (b : RegBlock) (v : Nat) : Option (RegBlock × Nat) := if ix < s.nParts then some (b, v) else none
  let flue (v : Nat) : Option (RegBlock × Nat) := if ix < 32 then some (.flue ix, v) else none
  let one (b : RegBlock) (v : Nat) : Option (RegBlock × Nat) := if ix = 0 then some (b, v) else none
  match code with
  | 0x01 => part (.step ix) (wide p.step.count)
  | 0x02 => part (.prot ix) (wide p.prot.crcLine)
  | 0x03 => part (.prot ix) (wide p.prot.alarmLine)
  | 0x04 => part (.relight ix) (wide p.rl.sealedAt)
  | 0x05 => part (.relight ix) (wide p.rl.jsealedAt)
  | 0x06 => part (.relight ix) (wide p.rl.target)
  | 0x07 => part (.ckpt ix) (step (newestGen s ix))
  | 0x08 => part (.ckpt ix) (step (olderGen s ix))
  | 0x09 => part .key p.prot.mgen
  | 0x0A => part (.tree ix) p.tree.digest.toNat
  | 0x0B => part (.charter ix) p.adm.digest.toNat
  | 0x0C => part (.charter ix) p.adm.partyDigest.toNat
  | 0x0D => if ix / 16 < s.nParts then some (.charter (ix / 16), (lastOf s (s.part (ix / 16)).adm (ix % 16)).getD 0) else none
  | 0x10 => flue (wide (s.flues.get ix).txSeq)
  | 0x11 => flue (wide (s.flues.get ix).rxSeq)
  | 0x20 => one .kindling (wide s.ks.written)
  | 0x21 => one .kindling (wide s.ks.rootSeq)
  | 0x22 => one .common s.keys.moduleId.toNat
  | 0x40 => one .soot s.soot.chain.toNat
  | 0x41 => one .soot (sootRead s (s.common.masters.get (masterId m)).sootSel.toNat).toNat
  | _ =>
    if 0x48 ≤ code ∧ code < 0x50 then one (.cv (code - 0x48)) (wide (s.cv.get (code - 0x48)).run)
    else if 0x50 ≤ code ∧ code < 0x58 then one (.cv (code - 0x50)) (wide (s.cv.get (code - 0x50)).result)
    else none

/-- The mailbox takes a value in one cycle (R442): OK with its words, DENIED or UNKNOWN with words of zero. MODULE_ID is readable by every
master. -/
def mailboxTake (m : Master) (sel : HWord) (s : State) : State :=
  let code := field sel 15 8
  let put (res : Nat) (v : Nat) : State := { s with common := { s.common with masters := s.common.masters.upd (masterId m) fun r =>
    { r with mbxSel := sel, mbxValid := decide (res = 0), mbxResult := BitVec.ofNat 2 res
             mbxData := (Tab.const 0).setMany 0 ((List.range 8).map fun i => BitVec.ofNat 32 (v / 2 ^ (32 * i))) } } }
  match mailboxValue m code (field sel 7 0) s with
  | none => put 2 0
  | some (b, v) => if mayRead s m b 0 || decide (code = 0x22) then put 0 v else put 1 0

end Sys2Proof.Machine
end

