-- ==== Sys2Proof/Machine/Damper.lean ====
section
/-! DEFINITION. Damper images (R433 to R438): staging, commit, abort, application and timeout, with the release of the partitions held. -/

namespace Sys2Proof.Machine

/-- Change an image. -/
def modImage (i : Nat) (f : DamperImage → DamperImage) (s : State) : State :=
  { s with common := { s.common with images := s.common.images.upd i f } }

/-- Change a master's registers. -/
def modMaster (m : Master) (f : MasterRegs → MasterRegs) (s : State) : State :=
  { s with common := { s.common with masters := s.common.masters.upd (masterId m) f } }

/-! ### Staging and holds -/

/-- DMP_DATA: the value is appended to image DMP_IMAGE of the master's DMP_ADDR (R434); an armed or full image stages nothing, and neither
does an image code above 4 (DESIGN CHOICE, log 47). -/
def dmpStage (m : Master) (v : Word) (s : State) : State :=
  let a := (s.common.masters.get (masterId m)).dmpAddr
  let i := field a 31 29
  let im := s.common.images.get i
  let ign (s : State) : State := { s with common := { s.common with stageIgn := true } }
  if 4 < i ∨ im.armed then ign s
  else if 256 ≤ im.entries.length then ign (modImage i (fun im => { im with overfull := true }) s)
  else modImage i (fun im => { im with entries := im.entries ++ [{ addr := 4 * field a 25 2, bcast := bitAt a 28, value := v }] }) s

/-- Pause the BE threads of a partition, as R59 gives, for an image (R436). -/
def holdBe (n : Nat) (s : State) : State := pauseClass n true (s.modPart n fun p => { p with pauseBe := true })

/-- Release what an image held of a partition, unless another image holds it (R47, R437). -/
def dropHold (n : Nat) (s : State) : State :=
  if imageHold s n then s else tryRelease n (releaseBeAll n (s.modPart n fun p => { p with pauseBe := false }))

/-- Release every partition. -/
def dropHolds (s : State) : State := (List.range s.nParts).foldl (fun s n => dropHold n s) s

/-- Discard an image, armed or not, and release what it held (R435, R437). -/
def dmpDiscard (i : Nat) (s : State) : State :=
  if 4 < i then s
  else
    let s := { s with common := { s.common with images := s.common.images.set i imageFresh } }
    if i = 4 then dropHolds { s with power := { s.power with pendingMode := none } } else dropHold i s

/-! ### Commit -/

/-- The ember and the register of its block that an address names. -/
def emberOf (a : Nat) : Nat := (a - 0x100000) / 0x40
def emberReg (a : Nat) : Nat := a % 0x40

/-- An entry is valid for its image (R434, Table 19.4). -/
def entryValid (s : State) (i : Nat) (e : DamperEntry) : Bool :=
  match regPlace s e.addr with
  | some (.ember l, off) => (decide (off = 0x008) || decide (off = 0x00C) || decide (off = 0x014)) && decide (s.partOf l = i)
  | some (.sentinel, off) => decide (off = 0) && decide (i = 4) && !e.bcast
  | some (.flue _, off) => decide (off = 0x004) && decide (i = 4) && !e.bcast
  | _ => false

/-- Set the configuration fields of an ember's register (Table 3.8). -/
def Ember.setReg (off : Nat) (v : Word) (m : Ember) : Ember :=
  match off with
  | 0x008 => { m with beMask := v.setWidth 8 }
  | 0x00C => { m with beBase := BitVec.ofNat 9 (field v 24 16), beLen := BitVec.ofNat 9 (field v 8 0) }
  | 0x014 => { m with parityLimit := BitVec.ofNat 4 (field v 19 16) }
  | _ => m

/-- An ember's settings under a partition image: its entries in staging order, those for every ember and, for a named one, its own. -/
def Ember.staged (es : List DamperEntry) (l : Option Nat) (m : Ember) : Ember :=
  es.foldl (fun m e => if e.bcast || decide (l = some (emberOf e.addr)) then m.setReg (emberReg e.addr) e.value else m) m

/-- The image names EMB_BE_BASE and EMB_BE_LEN of an ember. -/
def namesSlice (es : List DamperEntry) (l : Option Nat) : Bool :=
  es.any fun e => decide (emberReg e.addr = 0x00C) && (e.bcast || decide (l = some (emberOf e.addr)))

/-- The embers that an image names one by one. -/
def namedEmbers (es : List DamperEntry) : List Nat := ((es.filter fun e => !e.bcast).map fun e => emberOf e.addr).dedup

/-- A staged slice is refused (R63, R438): it leaves scratch, or a code window of a context would leave its class's range. -/
def sliceBad (p : Part) (m : Ember) : Bool :=
  decide (384 < m.beBase.toNat + m.beLen.toNat) || p.ctxs.items.any fun e => match e.2.obj with
    | some x => !m.inRange x.launch.be (1024 * x.launch.codeBrick) (1024 * x.launch.codeBricks)
    | none => false

/-- Apply an operation on embers for every ember of an image's partition, the named ones by number. -/
def overEmbers (n : Nat) (es : List DamperEntry) (f : Option Nat → Ember → Ember) (s : State) : State :=
  (namedEmbers es).foldl (fun t l => t.modEmber l fun _ => f (some l) (s.ember l)) (s.mapEmbers n (f none))

/-- The slice check over an image (check 5 of R435): EMB_CFG_IGNORED is set where it fails; and whether it failed anywhere. -/
def sliceCheck (n : Nat) (es : List DamperEntry) (s : State) : State × Bool :=
  let p := s.part n
  let bad (l : Option Nat) (m : Ember) : Bool := namesSlice es l && sliceBad p (m.staged es l)
  let any := (s.anyEmber n (bad none)) || (namedEmbers es).any fun l => bad (some l) (s.ember l)
  (if any then overEmbers n es (fun l m => if bad l m then { m with cfgIgnored := true } else m) s else s, any)

/-- The draught modes by code (Table 2.5). -/
def draughtOf : Nat → Draught
  | 0 => .full | 1 => .forge | 2 => .flue | _ => .banked

/-- The snapshot of the draught registers, where it is a change (R435). -/
def draughtChange (s : State) : Option (Draught × Word) :=
  let m := draughtOf s.power.stageMode.toNat
  if m = s.power.mode ∧ s.power.stageMask = s.power.maskCur then none else some (m, s.power.stageMask)

/-- The checks of Table 19.4 for the module image: SNT_MISS_LIMIT is not zero, and the mask has at most 16 bits. -/
def moduleCheck (es : List DamperEntry) (s : State) : State × Bool :=
  let lim := ((es.filter fun e => decide (e.addr = 0x2000)).getLast?).map fun e => field e.value 3 0
  let badLim := decide (lim = some 0)
  let badMask := decide (16 < popCount s.power.stageMask)
  ({ s with snt := { s.snt with cfgIgnored := s.snt.cfgIgnored || badLim }
            power := { s.power with stageErr := s.power.stageErr || badMask } }, badLim || badMask)

/-- Report the outcome of a commit (R435). -/
def dmpResult (i : BitVec 3) (code : Nat) (s : State) : State :=
  { s with common := { s.common with resultImage := i, result := BitVec.ofNat 3 code } }

/-- Arm an image (R435, R436): a partition with only BE work in RUN, or already held at its boundary, has its BE threads paused; a draught
change becomes pending. -/
def dmpArm (i : Nat) (s : State) : State :=
  let s := modImage i (fun im => { im with armed := true }) s
  if i = 4 then { s with power := { s.power with pendingMode := draughtChange s } }
  else
    let p := s.part i
    if p.step.held || (!p.inRun false && p.inRun true) then holdBe i s else s

/-- DMP_COMMIT: the image is checked in order and armed (R435). An image code above 4 holds no entry (DESIGN CHOICE, log 47). -/
def dmpCommit (i : BitVec 3) (s : State) : State :=
  let k := i.toNat
  let im := s.common.images.get k
  if im.armed then dmpResult i 1 s
  else if im.entries.isEmpty && (decide (k ≠ 4) || decide (draughtChange s = none)) then dmpResult i 2 s
  else if im.overfull then dmpResult i 3 (dmpDiscard k s)
  else if im.entries.any fun e => !entryValid s k e then dmpResult i 4 (dmpDiscard k s)
  else
    let (s, bad) := if k = 4 then moduleCheck im.entries s else sliceCheck k im.entries s
    if bad then dmpResult i 5 (dmpDiscard k s) else dmpResult i 0 (dmpArm k s)

/-! ### Application -/

/-- The scratch extents of a tile instruction. -/
def tileExts (e : TileEntry) : List Extent :=
  match e.op with
  | .tmma cc ta tb =>
    let d := matDesc e.desc
    matReads d cc ta tb ++ (match e.shadow with | some sh => shadowExts d ta tb sh | none => []) ++
      (if 2 ≤ cc then [brickExt d.oBrick] else [])
  | .tqnt recipe _ =>
    let d := quantDesc e.desc
    let eo := rowElems e.fix.oFmt
    brickExts d.iBrick d.iStride (d.nBrick * eo / d.w) ++ brickExts d.qBrick d.qStride d.nBrick ++
      (if recipeStrips recipe then [{ off := d.strip, len := d.nBrick * (eo / 2) }] else [])

/-- The scratch extents of a mover descriptor on its own ember. -/
def moverExts (j : MoverJob) : List Extent :=
  let d := mvDesc j.desc
  let ext (sp a : Nat) (stride : Int) : List Extent :=
    if sp = 0 then let e := extent a stride d.rows d.rowBytes; [{ off := e.1, len := e.2 }] else []
  ext d.sSp d.src d.sStride ++ (if j.kind = .move then ext d.dSp d.dst d.dStride else [])

/-- The scratch extents of a flue operation. -/
def flueExts (s : State) (n : Nat) (j : FlueJob) : List Extent :=
  let c := collDesc j.desc
  let parts := (groupOf s n j.be c.grp).members.length * scopeSize s c.scope
  if c.len = 0 then []
  else (if c.sSp = 0 then [{ off := c.src, len := 4 * c.len }] else []) ++
    (if c.dSp = 0 then [{ off := c.dst, len := 4 * c.outLen j.op parts }] else [])

/-- The first offset of an extent outside an ember's BE slice, if some is. -/
def Ember.straysAt (m : Ember) (x : Extent) : Option Nat :=
  let lo : Int := 1024 * m.beBase.toNat
  let hi : Int := 1024 * (m.beBase.toNat + m.beLen.toNat)
  if lo ≤ x.off ∧ x.off + x.len ≤ hi then none
  else some (if lo ≤ x.off ∧ x.off < hi then hi else x.off).toNat

/-- The first BE work of an ember whose scratch extent is not wholly inside the BE slice: its thread, its PC and the offset (R438). -/
def strayWork (s : State) (l : Nat) : Option (Nat × HWord × Nat) :=
  let m := s.ember l
  let first (t : Nat) (pc : HWord) (xs : List Extent) : Option (Nat × HWord × Nat) :=
    (xs.findSome? m.straysAt).map fun a => (t, pc, a)
  (((m.tileQ.filter (·.be)).findSome? fun e => first e.t e.pc (tileExts e)).or
    (((List.range 2).flatMap fun i => (m.movers.get i).filter (·.be)).findSome? fun j => first j.t j.pc (moverExts j))).or
    ((m.flueQ.filter (·.be)).findSome? fun j => first j.t j.pc (flueExts s (s.partOf l) j))

/-- Close the receive windows of an ember that leave their class's range (R438). -/
def Ember.closeWindows (m : Ember) : Ember :=
  m.mapThreads fun t h =>
    let close (w : Window) : Window := if decide (w.len ≠ 0) && !m.inRange (m.isBe t) w.base w.len then { w with len := 0 } else w
    { h with win := h.win.map close }

/-- What follows a change of the BE slice (R438): windows close, and BE work outside the new range costs the BE context. -/
def sliceMoved (n : Nat) (s : State) : State :=
  let s := s.mapEmbers n Ember.closeWindows
  match (s.embersWhere n fun m => !m.tileQ.isEmpty || !m.flueQ.isEmpty || (List.range 2).any fun i => !(m.movers.get i).isEmpty).findSome?
      fun l => (strayWork s l).map fun w => (l, w) with
  | some (l, t, pc, a) =>
    loseContext n true (some { code := excScratchBounds, sub := 0, be := true, thread := t, ember := l, pc := pc
                               addr := BitVec.ofNat 64 a }) 0 s
  | none => s

/-- Apply a partition image (R437): every entry at once, in staging order; the image is then empty and disarmed. -/
def applyPartImage (n : Nat) (s : State) : State :=
  let es := (s.common.images.get n).entries
  let s := overEmbers n es (fun l m => m.staged es l) { s with common := { s.common with images := s.common.images.set n imageFresh } }
  dropHold n (if es.any fun e => decide (emberReg e.addr = 0x00C) then sliceMoved n s else s)

/-- An entry of the module image. -/
def applyModuleEntry (e : DamperEntry) (s : State) : State :=
  if e.addr = 0x2000 then { s with snt := { s.snt with missLimit := BitVec.ofNat 4 (field e.value 3 0) } }
  else s.modFlue ((e.addr - 0x10000) / 0x40) fun u => { u with weights := e.value.setWidth 16 }

/-- Every partition is idle or held at its step boundary: the quiescent point of the module image (R47). -/
def moduleQuiet (s : State) : Bool := (List.range s.nParts).all fun n => !(s.part n).inRun false || (s.part n).step.held

/-- Apply the module image and start the draught change that it carries (R437, R48): BE threads pause, and partitions stay held. -/
def applyModule (s : State) : State :=
  let es := (s.common.images.get 4).entries
  let s := es.foldl (fun s e => applyModuleEntry e s) { s with common := { s.common with images := s.common.images.set 4 imageFresh } }
  match s.power.pendingMode with
  | some x => (List.range s.nParts).foldl (fun s n => holdBe n s) { s with power := { s.power with pendingMode := none, changing := some x } }
  | none => dropHolds s

/-- No BE work of the partition executes: its BE threads are paused as R59 gives. -/
def bePaused (s : State) (n : Nat) : Bool :=
  !s.anyEmber n fun m => (m.tileQ.any fun e => e.be && decide (e.st = .active)) ||
    (List.range 2).any fun i => (m.movers.get i).any fun j => j.be && decide (j.st = .active) && decide (j.kind = .move) && !j.sent

/-- The quiescent point of a partition image (R436). -/
def partQuiet (s : State) (n : Nat) : Bool :=
  let p := s.part n
  if p.inRun false then p.step.held && bePaused s n
  else if p.inRun true then p.pauseBe && bePaused s n
  else true

/-- DAMPER_APPLY: an armed image reaches its quiescent point and is applied (R436 to R438). -/
def execDamperApply (i : Fin 5) (s : State) : Out :=
  .next (if !(s.common.images.get i.val).armed || !s.inService then s
    else if i.val = 4 then (if moduleQuiet s then applyModule s else s)
    else if partQuiet s i.val then applyPartImage i.val s else s)

/-- DAMPER_TIMEOUT: an armed image is discarded (R437). -/
def execDamperTimeout (i : Fin 5) (s : State) : Out :=
  .next (if (s.common.images.get i.val).armed then
    dmpDiscard i.val { s with common := { s.common with dmpTimeout := true } }
  else s)

/-- DRAUGHT_QUIESCENT: the quiescent point of a pending draught image (R47). -/
def execDraughtQuiescent (s : State) : Out :=
  .next (if s.power.pendingMode.isSome && moduleQuiet s && s.inService then applyModule s else s)

/-- The lanes of every flue that is trained follow the mode: those common to both ends, and the peer is told (R48), by a flue in RETRAIN once it
carries traffic again. -/
def flueLanes (s : State) : State :=
  (List.range 32).foldl (fun s f =>
    if (s.flues.get f).up || decide ((s.flues.get f).state = .retrain) then
      enqueueLink f (.width (modeLanes s f)) (s.modFlue f fun u => { u with modeWidth := min (modeLanes s f) u.peerWidth })
    else s) s

/-- DRAUGHT_CHANGE_DONE: the change from the quiescent point, or the Relight controller's own, is complete (R48, R50): DRAUGHT_MODE is
updated, and the partitions are released. -/
def execDraughtChangeDone (s : State) : Out :=
  .next (if !s.inService then s
    else match s.power.changing, s.power.relightStage with
      | some (m, k), _ => dropHolds (flueLanes { s with power := { s.power with mode := m, maskCur := k, changing := none } })
      | none, some (m, k) => flueLanes { s with power := { s.power with mode := m, maskCur := k, relightStage := none } }
      | none, none => s)

end Sys2Proof.Machine
end

