-- ==== Sys2Proof/Machine/Session.lean ====
section
/-! DEFINITION. Who reaches the register map at a moment (R37, R40, R427), and the debug session: its end and the session that needs no
certificate (R393, R395). -/

namespace Sys2Proof.Machine

/-! ### Reach -/

/-- The PCIe endpoint answers: powered, past HS BIST, out of reset (R37, R38). -/
def pcieUp (s : State) : Bool := s.power.clockRuns .pcie && s.power.hsBist && !s.host.inReset

/-- The I3C target runs: from the end of AO_UP while the always-on domain is powered (R34, R41). -/
def i3cUp (s : State) : Bool := s.power.aoOn && decide (s.power.light ≠ .aoUp)

/-- The serial debug port answers: from READY until the next lighting, while HS is powered (R390). -/
def sdpUp (s : State) : Bool := s.inService

/-- A master's access reaches the map (R427): in LIGHT_FAIL PF0 reads only (Table 2.2); the debug port needs CSR_RD or CSR_WR. -/
def reaches (s : State) (m : Master) (write : Bool) : Bool :=
  match m with
  | .pf f => pcieUp s && decide (f.val ≤ s.nParts) && (decide (s.power.light ≠ .lightFail) || (decide (f.val = 0) && !write))
  | .i3c => i3cUp s
  | .sdp => sdpUp s && bitAt (moduleRights s) (b2n write)

/-! ### The session -/

/-- A thread that the port halted, or was to halt, runs on (R395, R397): in RUN, or PAUSED where its class is held. -/
def resumeThread (p : Part) (m : Ember) (t : Nat) (h : Thread) : Thread :=
  let held := if m.isBe t then !m.lcQuiet || p.pauseBe else p.pauseLc
  { h with st := if h.st = .halt then (if held then .paused else .run) else h.st, haltPend := false, stepOne := false }

/-- Every breakpoint is cleared and every halted thread resumes (R395). -/
def resumeAll (s : State) : State :=
  { s with quarters := (List.range 4).foldl (fun t q =>
      let p := s.part (s.partOfQuarter q)
      t.upd q (Tab.map fun (m : Ember) => { m.mapThreads (resumeThread p m) with bkpts := Tab.const { pc := 0, mask := 0 } })) s.quarters }

/-- The states whose session needs no certificate (Table 17.8). -/
def noCertState (s : State) : Bool := match s.lc.lcState with
  | .raw => true
  | .test => true
  | .returned => true
  | _ => false

/-- Open the session that needs no certificate, from READY (R393): one soot entry per lighting. A completed transition keeps it closed
(R389). -/
def openNoCert (s : State) : State :=
  if !noCertState s || s.lc.lcPending || !s.inService then s
  else
    let s := if s.dbg.noCertLogged then s else sootEvent 0x11 0xFF [] s
    { s with dbg := { s.dbg with noCertLogged := true, session := some { noCert := true, part := Tab.const 0x01FF, modRights := 7, notAfter := 0 } } }

/-- End a session (R395). Where the life-cycle state needs no certificate, the port is open again at once (DESIGN CHOICE, log 48). -/
def endSession (s : State) : State :=
  if s.dbg.session.isNone then s else openNoCert (resumeAll { s with dbg := { s.dbg with session := none } })

/-- DEBUG_SESSION_EXPIRE: the operating minutes exceed NOT_AFTER (R395). -/
def execDebugSessionExpire (s : State) : Out :=
  .next (match s.dbg.session with
  | some d => if !d.noCert && decide (d.notAfter.toNat < s.soot.minutes.toNat) then endSession s else s
  | none => s)

end Sys2Proof.Machine
end

