-- ==== Sys2Proof/Machine/LifeCycle.lean ====
section
/-! DEFINITION. OTP and the life-cycle controller (R383 to R389): decoding the state, requests and their checks, burns and wipes, the
overwrite of RETURN. -/

namespace Sys2Proof.Machine

/-! ### Encoding -/

/-- The state that LC0 and LC1 spell (Table 17.2). -/
def decodeLc (w0 w1 : Word) : LcState :=
  if w1 = 0x000000FF then .scrap
  else if w1 ≠ 0 then .invalid
  else if w0 = 0 then .raw
  else if w0 = 0x000000FF then .test
  else if w0 = 0x0000FFFF then .provisioned
  else if w0 = 0x00FFFFFF then .field
  else if w0 = 0xFFFFFFFF then .returned
  else .invalid

/-- The state of a target code (Table 17.2). -/
def lcTargetOf : Nat → Option LcState
  | 1 => some .test | 2 => some .provisioned | 3 => some .field | 4 => some .returned | 5 => some .scrap | _ => none

/-- The burn of the state group that a transition makes (R384). -/
def groupBurn : LcState → Burn
  | .test => { word := 0, bits := 0x000000FF }
  | .provisioned => { word := 0, bits := 0x0000FF00 }
  | .field => { word := 0, bits := 0x00FF0000 }
  | .returned => { word := 0, bits := 0xFF000000 }
  | .scrap => { word := 1, bits := 0x000000FF }
  | .raw => { word := 0, bits := 0 }
  | .invalid => { word := 0, bits := 0 }

/-- The allowed transitions (Table 17.4). -/
def lcPath (a b : LcState) : Bool :=
  match b with
  | .test => decide (a = .raw)
  | .provisioned => decide (a = .test)
  | .field => decide (a = .provisioned)
  | .returned => decide (a = .field)
  | .scrap => decide (a ≠ .scrap)
  | _ => false

/-! ### Wipes -/

/-- The words that a wipe burns to all ones (Table 17.4). -/
def wipeWords : LcState → List Nat
  | .returned => (List.range 40).map (42 + ·)
  | .scrap => (List.range 48).map (42 + ·) ++ (List.range 1024).map (1024 + ·)
  | _ => []

/-- Burn a word to all ones. -/
def onesBurn (w : Nat) : Burn := { word := w, bits := 0xFFFFFFFF }

/-- The burns still to make of the wipe of a state (R387, R388). -/
def wipeLeft (s : State) (st : LcState) : List Burn :=
  ((wipeWords st).filter fun w => decide (s.lc.otp.get w ≠ 0xFFFFFFFF)).map onesBurn

/-! ### Requests -/

/-- Change the life-cycle controller. -/
def State.modLc (f : LifeCycle → LifeCycle) (s : State) : State := { s with lc := f s.lc }

/-- Bytes of registers or OTP words in order. -/
def wordBytes (ws : List Word) : List Byte := ws.flatMap fun w => leBytes 4 w.toNat

/-- The token of the request equals the fused digest of the target (check 5). -/
def tokenGood (s : State) (target : Nat) : Bool :=
  decide (Config.shake256 (wordBytes (s.lc.token.getMany 0 8)) 32 = leNat (wordBytes (s.lc.otp.getMany (2 + 8 * (target - 1)) 8)))

/-- Every partition is EMPTY and holds no reservation (check 6). -/
def nothingLoaded (s : State) : Bool :=
  (List.range 4).all fun n => decide ((s.part n).adm.state = .empty) && decide ((s.part n).rsv.state = .empty)

/-- The first check that a request fails, by its LC_STATUS; 0 where it passes (Table 17.3). A request in OTP_READ finds no state decoded
(DEDUCED, log 49). -/
def lcCheck (s : State) (target : Nat) : Nat :=
  match lcTargetOf target with
  | none => if s.lc.fromTo.isSome || !s.lc.burns.isEmpty then 1 else if s.lc.lcPending then 8 else 2
  | some b =>
    if s.lc.fromTo.isSome || !s.lc.burns.isEmpty then 1
    else if s.lc.lcPending then 8
    else if !lcPath s.lc.lcState b || decide (s.power.light = .otpRead) then 2
    else if 16 ≤ s.lc.tokenFail.toNat then 7
    else if !tokenGood s target then 3
    else if (decide (b = .returned) || decide (b = .scrap)) && !nothingLoaded s then 5
    else if decide (b = .provisioned) && (List.range 40).any fun i => decide (s.lc.otp.get (42 + i) ≠ 0) then 9
    else if decide (b = .provisioned) && s.keys.rngFail then 6
    else if s.lc.holdupMs.toNat < 50 then 4
    else 0

/-- The burns of words 42 to 89 at provisioning: 128 drawn bytes, then LC_DATA (Table 17.4). -/
def provisionBurns (s : State) : List Burn × State :=
  let (ks, s) := (List.range 4).foldl (fun (acc : List Digest × State) _ => let (k, s) := acc.2.draw; (acc.1 ++ [k], s)) ([], s)
  let drawn : List Word := ks.flatMap fun k => (List.range 8).map fun i => BitVec.ofNat 32 (k.toNat / 2 ^ (32 * i))
  ((List.range 48).map fun i => { word := 42 + i, bits := (drawn ++ s.lc.data.getMany 0 16)[i]?.getD 0 }, s)

/-- The entries of a transition are written only where the kindling store is available (R386). -/
def lcSoot (typ : Nat) (a b : LcState) (s : State) : State :=
  if kindlingRuns s then sootEvent typ 0xFF (leBytes 1 a.code ++ leBytes 1 b.code) s else s

/-- A request (R385): the first failing check is reported and nothing else changes, but for the token count; a request that passes starts
its burns (R386). The token and data registers are cleared either way. -/
def lcRequest (target : Nat) (s : State) : State :=
  let code := lcCheck s target
  let clear (s : State) : State := s.modLc fun l => { l with token := Tab.const 0, data := Tab.const 0, status := BitVec.ofNat 4 code }
  if code ≠ 0 then
    clear (if code = 3 then s.modLc fun l => { l with
      tokenFail := satAdd l.tokenFail 1, tokenOvf := l.tokenOvf || satOvf l.tokenFail 1 } else s)
  else
    let b := (lcTargetOf target).getD .invalid
    let (burns, s) : List Burn × State := if b = .provisioned then
        let (ks, s) := provisionBurns s
        (ks ++ [groupBurn b], s)
      else (groupBurn b :: (wipeWords b).map onesBurn, s)
    let s := lcSoot 0x02 s.lc.lcState b s
    clear (s.modLc fun l => { l with burns := burns, fromTo := some (l.lcState, b) })

/-- LC_GO: a privileged write with LC_GO set, naming LC_TARGET (R385, R399). -/
def execLcGo (m : Master) (target : BitVec 4) (s : State) : Out :=
  .next (if privileged m && reaches s m true then lcRequest target.toNat (s.modLc fun l => { l with target := target }) else s)

/-! ### Burns -/

/-- A transition completes (R386, R389): its entry is written, LC_PENDING is set and any session is closed. -/
def lcComplete (a b : LcState) (s : State) : State :=
  endSession ((lcSoot 0x03 a b s).modLc fun l => { l with lcPending := true, fromTo := none })

/-- OTP_BURN_DONE: a word is burnt and verified, a burnt bit staying 1 (R383); after the last burn the transition completes. -/
def execOtpBurnDone (s : State) : Out :=
  .next (match s.lc.burns with
  | [] => s
  | b :: rest =>
    if !s.power.aoOn then s
    else
      let s := s.modLc fun l => { l with otp := l.otp.upd b.word fun w => w ||| b.bits, burns := rest }
      match rest, s.lc.fromTo with
      | [], some (x, y) => lcComplete x y s
      | _, _ => s)

/-! ### The overwrite of RETURN -/

/-- The kindling store after the overwrite: no root verifies, and nothing is held (R389). -/
def ksErased (k : Kindling) : Kindling :=
  { k with ready := false, compacting := false, rootGood := false, base := ksMetaFresh, sectors := [], cut := none, inForce := ksMetaFresh
           pend := [], writes := [], taken := Tab.const false, data := Tab.const [], erasable := [], blobs := Tab.const none, lastExp := [] }

/-- RETURN_ERASE_DONE: the overwrite is done and a soot entry is written (R389). -/
def execReturnEraseDone (s : State) : Out :=
  .next (if s.lc.erasing && s.power.flashOn && s.inService then
    sootEvent 0x04 0xFF [] { s.modLc (fun l => { l with erasing := false, erasePct := 100 }) with ks := ksErased s.ks }
  else s)

end Sys2Proof.Machine
end

