-- ==== Sys2Proof/Machine/Lighting.lean ====
section
/-! DEFINITION. Lighting (R33 to R40): power-good, the states of Table 2.1, and the failures of Table 2.2. -/

namespace Sys2Proof.Machine

/-! ### What outlasts a loss of power -/

/-- The flash after a loss of power (R326 to R329): what has been programmed stays. KS_WRITTEN counts over the module's life (DEDUCED,
log 50). -/
def ksKept (k : Kindling) : Kindling :=
  { kindlingFresh with rootB := k.rootB, rootSeq := k.rootSeq, rootGood := k.rootGood, baseB := k.baseB, halfB := k.halfB
                       firstJseq := k.firstJseq, base := k.base, sectors := k.sectors, data := k.data, written := k.written
                       blobs := k.blobs, lastExp := k.lastExp }

/-- The device without power: OTP, the soot record region and the flash keep their contents, the pins driven from outside their levels,
and every register and memory returns to its reset value. -/
def unpowered (s : State) : State :=
  { State.reset with
    pins := { pinsFresh with perstN := s.pins.perstN, presN := s.pins.presN }
    lc := { lifeFresh with otp := s.lc.otp }
    soot := { sootFresh with pages := s.soot.pages, meter := s.soot.meter }
    ks := ksKept s.ks, pending := s.pending, freeCount := s.freeCount, out := s.out }

/-- Every rail but the always-on and OTP rails is removed (R52, R53): what the always-on domain holds stays (R41), the rest is lost. -/
def railsLost (s : State) : State :=
  let u := unpowered s
  { u with pins := s.pins, power := { s.power with rails := false, flashOn := false, trims := Tab.const 0 }, lc := s.lc, soot := s.soot
           ks := { u.ks with pwrWarn := s.pins.pwrWarn }
           host := { u.host with i3cAddr := s.host.i3cAddr, i3cAnswer := s.host.i3cAnswer } }

/-! ### The sequence -/

/-- Change the power block. -/
def State.modPower (f : Power → Power) (s : State) : State := { s with power := f s.power }

/-- The 48 V input samples of 10 ms (R34). -/
def powerGoodSamples : Nat := 10000

/-- POWER_GOOD: the input has stayed in range for 10 ms, and no trip or over-voltage is latched; a new lighting begins in AO_UP (R34).
Burns in progress run on (R387). -/
def execPowerGood (s : State) : Out :=
  .next (if s.power.powerGood || decide (s.power.inRange < powerGoodSamples) || s.power.tripped || s.power.ov then s
    else
      let u := unpowered s
      { u with
        power := { powerFresh with powerGood := true, aoOn := true, rails := true, flashOn := true, inRange := s.power.inRange
                                   vin := s.power.vin }
        pins := { u.pins with pwrWarn := s.pins.pwrWarn }, ks := { u.ks with pwrWarn := s.pins.pwrWarn }
        lc := { u.lc with holdupMs := s.lc.holdupMs, burns := s.lc.burns, fromTo := s.lc.fromTo } })

/-- Lighting is under way in state `st`. -/
def lightingIn (s : State) (st : LightState) : Bool := s.power.powerGood && s.power.rails && decide (s.power.light = st)

/-- Lighting ends in LIGHT_FAIL with the first cause detected (R40): FAULT_N and READY go low, and past REPAIR an entry is written, with
the lighting state in which the failure was detected (DEDUCED, log 51). -/
def lightFail (c : LightCause) (s : State) : State :=
  let st := s.power.light
  let entry := leBytes 1 c.code ++ leBytes 1 st.code ++ leBytes 2 s.power.hbmOk.toNat
  let s := if s.power.pastRepair then sootEvent 0x01 0xFF entry s else s
  let s := setFault .lighting (s.modPower fun p => { p with light := .lightFail, cause := c })
  { s with pins := { s.pins with ready := false } }

/-- AO_UP_DONE. -/
def execAoUpDone (s : State) : Out :=
  .next (if lightingIn s .aoUp then s.modPower fun p => { p with light := .otpRead } else s)

/-- Load the key-store slots of Table 16.1 under fresh permutations (R367, R368); in RETURN all are zero (R389). -/
def loadSlots (s : State) : State :=
  let (a, s) := s.draw
  let (d, s) := s.draw
  let s := { s with keys := { s.keys with addrPerm := a.toNat, dataPerm := d.toNat } }
  let otpKey (w : Nat) : Digest := if s.lc.lcState = .returned then 0 else BitVec.ofNat 256 (leNat (wordBytes (s.lc.otp.getMany w 8)))
  let root := otpKey 42
  let derived (label : String) : Digest := if s.lc.lcState = .returned then 0 else derive label (keyBytes root)
  let keys : List Digest := [root, otpKey 50, otpKey 58, otpKey 66, otpKey 74, derived "ZH9 WRAP", derived "ZH9 META"]
  (List.range 7).foldl (fun s i => setSlot i (keys[i]?.getD 0) s) s

/-- OTP_READ_DONE: the life-cycle state is decoded (Table 17.2). A wipe that is not complete is completed first: in SCRAP as it is, in
RETURN with at least 50 ms of hold-up (R387, R388). INVALID and SCRAP end lighting. -/
def execOtpReadDone (s : State) : Out :=
  .next (if !lightingIn s .otpRead || !s.lc.burns.isEmpty then s
    else
      let st := decodeLc (s.lc.otp.get 0) (s.lc.otp.get 1)
      let left := wipeLeft s st
      if !left.isEmpty then
        if decide (st = .scrap) || decide (50 ≤ s.lc.holdupMs.toNat) then s.modLc fun l => { l with burns := left } else s
      else
        let s := s.modLc fun l => { l with lcState := st }
        if st = .invalid then lightFail .invalid s
        else if st = .scrap then lightFail .scrap s
        else (loadSlots s).modPower fun p => { p with light := .repair })

/-- The logical ember that a physical ember of a grate carries, if one does. -/
def logicalAt (s : State) (g p : Nat) : Option Nat := ((List.range 64).map (64 * g + ·)).find? fun l => decide (physOf s l = p)

/-- A spare of a grate is no longer free (R80). -/
def useSpare (g p : Nat) (s : State) : State :=
  if p % 9 ≠ 8 ∨ p ∈ s.power.usedSpares.get g then s
  else s.modPower fun w => { w with usedSpares := w.usedSpares.upd g fun u => u ++ [p] }

/-- The words 1,024 to 2,047 of OTP: trims, and repair and spare maps (Table 17.1). -/
def repairWords (s : State) : List Word := s.lc.otp.getMany 1024 1024

/-- The factory repair and spare maps and the trims go from OTP to every die (R34). The spec does not give the coding of the maps: it is a
constant without a body; words that have nothing burnt hold no map (DESIGN CHOICE, log 75). -/
def factoryRepair (s : State) : State :=
  let ws := repairWords s
  let s := s.modPower fun p => { p with trims := { s.lc.otp with items := s.lc.otp.items.filter fun e => decide (1024 ≤ e.1) && decide (e.1 < 2048) } }
  if ws.all fun w => decide (w = 0) then s
  else (List.range 400).foldl (fun s g => (Config.repairMap ws g).foldl (fun s (i, r) =>
    (useSpare g (9 * r.val + 8) s).modEmber (64 * g + i.val) fun m => { m with phys := some (9 * r.val + 8) }) s) s

/-- The entry is the retirement of an ember that found no free spare: cause 4, no new place (R82, Table 20.2). -/
def shortEntry (e : Digest) : Bool :=
  decide (field e 63 56 = 0x40) && (decide (field e 183 176 = 4) || decide (field e 175 168 = 0xFF))

/-- A grate is left with fewer than 64 good embers by a retirement that an earlier lighting's record holds (R82). -/
def recordedShort (s : State) : Bool := s.soot.pages.any fun p => match p with | .entry e => shortEntry e | .torn => false

/-- Re-apply a stored entry: an EMBER_RETIRE with its spare, or a LANE (R34, R452). An EMBER_RETIRE without one ends this lighting with
SPARES when compute-die BIST completes (R82). -/
def reapply (e : Digest) (s : State) : State :=
  let byte (i : Nat) : Nat := field e (8 * i + 7) (8 * i)
  let typ := byte 7
  if typ = 0x40 then
    let l := field e 159 144
    if 25600 ≤ l ∨ byte 22 = 4 ∨ 72 ≤ byte 21 then s
    else (useSpare (l / 64) (byte 21) s).modEmber l fun m => { m with phys := some (byte 21) }
  else if typ = 0x41 then
    let fail (d : FlueDir) : FlueDir := (d.fail (d.phys (byte 20))).1
    s.modFlue (byte 18 % 32) fun u => if byte 19 = 1 then { u with rx := fail u.rx } else { u with tx := fail u.tx }
  else s

/-- REPAIR_DONE: the factory maps and trims are applied, the meter and the soot record are read, retirements re-applied, and SELFTEST begins (R34, R451, R452). -/
def execRepairDone (s : State) : Out :=
  .next (if !lightingIn s .repair then s
    else
      let s := sootRepair (meterRepair (factoryRepair s))
      let s := s.soot.pages.foldl (fun s p => match p with | .entry e => reapply e s | .torn => s) s
      s.modPower fun p => { p with light := .selfTest, pastRepair := true })

/-- HS_BIST_DONE: memory BIST of HS passes and the endpoint is enabled, out of reset unless PERST_N is asserted (R37, R38); a failure
ends lighting with MBIST. -/
def execHsBistDone (pass : Bool) (s : State) : Out :=
  .next (if !lightingIn s .selfTest || s.power.hsBist then s
    else if pass then
      let s := s.modPower fun p => { p with hsBist := true }
      { s with host := { s.host with inReset := !s.pins.perstN } }
    else lightFail .mbist s)

/-- SELFTEST_DONE: memory BIST of the memory-side dies and the shelf (Table 2.1). Unrepairable memory found once HBM_TRAIN has begun ends
lighting too (Table 2.2). -/
def execSelftestDone (pass : Bool) (s : State) : Out :=
  .next (if lightingIn s .hbmTrain && !pass then lightFail .mbist s
    else if !lightingIn s .selfTest || !s.power.hsBist then s
    else if pass then s.modPower fun p => { p with light := .hbmTrain } else lightFail .mbist s)

/-- One failing ember of BIST (R35, R80, R81): an unused spare is no longer free; one that carries a logical ember is retired to a spare,
and where none is left lighting ends. -/
def bistFail (g p : Nat) (s : State) : State :=
  match logicalAt s g p with
  | none => useSpare g p s
  | some l => match pickSpare s g p with
    | some new => (useSpare g new (retireSoot s l p new 0)).modEmber l fun m => { m with phys := some new }
    | none => if s.power.light = .lightFail then s else lightFail .spares s

/-- COMPUTE_BIST_DONE: failing spares leave the pool, and then every failing ember that is in use is retired (R35). A grate left with fewer
than 64 good embers ends lighting. -/
def execComputeBistDone (failing : List FailedEmber) (s : State) : Out :=
  .next (if !(lightingIn s .selfTest || lightingIn s .hbmTrain) || s.power.cdBist then s
    else
      let spare (f : FailedEmber) : Bool := (logicalAt s f.grate.val f.phys.val).isNone
      let s := (failing.filter spare ++ failing.filter fun f => !spare f).foldl (fun s f => bistFail f.grate.val f.phys.val s) s
      if s.power.light = .lightFail then s
      else if recordedShort s then lightFail .spares s
      else s.modPower fun p => { p with cdBist := true })

/-- HBM_TRAIN_DONE: `ok` tells the stacks that trained at both rates; one that failed three attempts ends lighting with HBM (Table 2.2). -/
def execHbmTrainDone (ok : BitVec 16) (s : State) : Out :=
  .next (if !lightingIn s .hbmTrain || s.power.hbmTrained then s
    else
      let s := s.modPower fun p => { p with hbmOk := ok }
      if ok = 0xFFFF then s.modPower fun p => { p with hbmTrained := true } else lightFail .hbm s)

/-- READY_ENTRY: BANKED draught, every grate gated, nothing loaded, READY high, critical fields in voting form (R36, R39); the port opens
where no certificate is needed, and in RETURN the overwrite of the kindling store begins (R389). -/
def execReadyEntry (s : State) : Out :=
  .next (if !lightingIn s .hbmTrain || !s.power.hbmTrained || !s.power.cdBist then s
    else
      let ret := decide (s.lc.lcState = .returned)
      let s := { s.modPower (fun p => { p with light := .ready, idleGrate := Tab.const true }) with
        pins := { s.pins with ready := true }
        common := { s.common with voting := true }
        ks := { s.ks with metaFault := ret } }
      openNoCert (s.modLc fun l => { l with erasing := ret }))

/-- LIGHT_TIMEOUT: READY has not been reached 4 s after power-good (Table 2.2). -/
def execLightTimeout (s : State) : Out :=
  .next (if s.power.powerGood && s.power.rails && decide (s.power.light ≠ .ready) && decide (s.power.light ≠ .lightFail) then
    lightFail .timeout s else s)

/-! ### Configuration parity -/

/-- The partition's configuration is being loaded (R440): a context in LOADING, an adoption before its context exists, a restore. -/
def recovering (s : State) (n : Nat) : Bool :=
  let p := s.part n
  (p.ctxs.items.any fun e => match e.2.obj with | some x => decide (x.st = .loading) | none => false) ||
    p.rl.adopting.isSome || decide (p.ck.state = .restore)

/-- A mismatch during recovery halts the partition with λ = 0 (R441). It is no security alarm: PROT_ALARM_KIND and the ALARM entry are
those of R230 alone. -/
def parityHalt (n addr : Nat) (s : State) : State :=
  let kept := (s.part n).prot
  let soot := s.soot
  let s := securityAlarm n 0 0 none s
  let s := { s with soot := soot }.modPart n fun p => { p with prot := { p.prot with
    alarmKind := kept.alarmKind, alarmLine := kept.alarmLine } }
  let s := { s with common := { s.common with
    parityErr := true, parityAddr := if s.common.parityErr then s.common.parityAddr else BitVec.ofNat 32 addr } }
  setFault .regParity (sootEvent 0x24 n (leBytes 4 addr) s)

/-- CONFIG_PARITY_CHECK: `bad` is the address of a register that mismatches, and the partition being loaded that it belongs to. From
OTP_READ to HBM_TRAIN a mismatch ends lighting (R39), during recovery it halts the partition (R441). -/
def execConfigParityCheck (bad : Option (BitVec 26)) (part : Option PartId) (s : State) : Out :=
  .next (match bad with
  | none => s
  | some a =>
    if [LightState.otpRead, .repair, .selfTest, .hbmTrain].any (lightingIn s ·) then lightFail .parity s
    else match part with
      | some n => if s.inService && recovering s n.val && !(s.part n.val).prot.halted then parityHalt n.val a.toNat s else s
      | none => s)

end Sys2Proof.Machine
end

