-- ==== Sys2Proof/Machine/PowerEvents.lean ====
section
/-! DEFINITION. The events of the always-on domain in service: junction samples and the thermal trip (R51, R52), the input and hold-up
monitors (R21, R53), the power controller (R46), idle units (R43), the loss of the always-on rail (R388), windows of the health monitor
(R457) and the slowdown index (R458). -/

namespace Sys2Proof.Machine

/-! ### Temperature -/

/-- The die of a junction sensor by its number (R51): 25 on each compute die, 4 on each memory-side die, 8 on each flue die, 4 on HS, one
in each stack. -/
def sensorDie (i : Nat) : Nat :=
  if i < 400 then i / 25
  else if i < 416 then 16 + (i - 400) / 4
  else if i < 448 then 20 + (i - 416) / 8
  else if i < 452 then 24
  else 25 + (i - 452)

/-- The highest of the readings from sensor `i` on, with the sensor that has it; the lowest sensor of equal ones (DESIGN CHOICE, log 52). -/
def hottest : List Byte → Nat → Nat × Nat
  | [], _ => (0, 0)
  | t :: ts, i => let r := hottest ts (i + 1); if r.1 ≤ t.toNat then (t.toNat, i) else r

/-- The sensors at or above 105 °C. -/
def hotSensors (ts : List Byte) : List Nat := (List.range ts.length).filter fun i => decide (105 ≤ (ts[i]?.getD 0).toNat)

/-- The thermal trip (R52): the entry is queued, the rails of every die are removed but for the kindling controller and flash, which stay
until the entry is written, and THERM_TRIP_N and FAULT_N go low. -/
def thermTrip (s : State) : State :=
  let flash := s.power.flashOn
  let s := sootEvent 0x30 0xFF (leBytes 1 s.power.hotDie.toNat ++ leBytes 1 s.power.thermMax.toNat) s
  let s := (railsLost s).modPower fun p => { p with tripped := true, flashOn := flash }
  setFault .thermal { s with pins := { s.pins with thermTripN := false } }

/-- THERMAL (R457): THERM_MAX within the margin on two samples in a row, at most once per minute. -/
def thermMargin (max : Nat) (s : State) : State :=
  let near := decide (105 ≤ max + s.health.curMargin)
  let was := s.power.marginLast
  let due := match s.health.thermalAt with | some m => decide (m.toNat < s.soot.minutes.toNat) | none => true
  let s := s.modPower fun p => { p with marginLast := near }
  if near && was && due then healthWarn 4 (loadedParts s) { s with health := { s.health with thermalAt := some s.soot.minutes } } else s

/-- THERM_SAMPLE: the 468 junction readings in °C, by sensor (R51). -/
def execThermSample (ts : List Byte) (s : State) : Out :=
  let ts := ts.take 468
  .next (if !s.power.aoOn || !s.power.rails || s.power.tripped || ts.isEmpty then s
    else
      let (max, i) := hottest ts 0
      let hot := hotSensors ts
      let trip := hot.any fun i => decide (i ∈ s.power.hotLast)
      let s := s.modPower fun p => { p with
        thermMax := BitVec.ofNat 8 max, hotDie := BitVec.ofNat 6 (sensorDie i), hotLast := hot
        thermPeak := if p.thermPeak.toNat < max then BitVec.ofNat 8 max else p.thermPeak }
      if trip then thermTrip s else if s.inService then thermMargin max s else s)

/-- THERM_TRIP_FLASH_OFF: power is removed from the kindling controller and flash (R52). -/
def execThermTripFlashOff (s : State) : Out :=
  .next (if s.power.tripped then s.modPower fun p => { p with flashOn := false } else s)

/-! ### The 48 V input and the hold-up bank -/

/-- The thresholds of Table 2.7, in units of 20 mV: 40.0, 44.0, 46.0, 52.0 and 55.0 V. -/
def volt40 : Nat := 2000
def volt44 : Nat := 2200
def volt46 : Nat := 2300
def volt52 : Nat := 2600
def volt55 : Nat := 2750

/-- The input is lost (R53): the rails go, a trip and a lighting failure are cleared (R28, R40, R461; DEDUCED, log 53). After an over-voltage
shutdown there are no rails to lose, and the removal of the input still releases the trip (R28). -/
def inputLoss (s : State) : State :=
  let s := clearFault .lighting (clearFault .thermal ((railsLost s).modPower fun p => { p with powerGood := false, tripped := false }))
  { s with pins := { s.pins with thermTripN := true } }

/-- Over-voltage shutdown (R53): as input loss, PWRMON_OV is latched and FAULT_N driven low. -/
def overVoltage (s : State) : State :=
  setFault .overVoltage ((railsLost s).modPower fun p => { p with powerGood := false, ov := true })

/-- The input lies in the range of R18, 46.0 V to 52.0 V: the always-on domain is powered (R19, R41). -/
def inputInRange (v : Nat) : Bool := decide (volt46 ≤ v) && decide (v ≤ volt52)

/-- INPUT_SAMPLE: the 48 V input as sampled, in units of 20 mV (R19, R34, R53). -/
def execInputSample (vin : BitVec 12) (s : State) : Out :=
  let v := vin.toNat
  let s := s.modPower fun p => { p with
    vin := vin, aoOn := p.aoOn || inputInRange v
    inRange := if inputInRange v then min powerGoodSamples (p.inRange + 1) else 0
    lowRun := if v < volt44 then min 5 (p.lowRun + 1) else 0
    highRun := if volt55 < v then min 5 (p.highRun + 1) else 0 }
  let s := if s.power.lowRun = 5 ∧ (s.power.powerGood ∨ s.power.tripped ∨ .lighting ∈ s.pins.faults) then inputLoss s else s
  let s := if s.power.highRun = 5 ∧ !s.power.ov then overVoltage s else s
  .next (if v < volt40 ∧ s.power.ov then clearFault .overVoltage (s.modPower fun p => { p with ov := false }) else s)

/-- The usable energy of the hold-up bank at a voltage, in whole milliseconds at 11 W, rounded down (R20, R21): 33 mF counted down to the
6 V drop-out hold 0.5 · 0.033 · (V² - 36) J, which is 1.5 · (V² - 36) ms; 12 V gives 162 ms. -/
def holdupMs (millivolts : Nat) : Nat := 3 * (millivolts * millivolts - 36000000) / 2000000

/-- HOLDUP_SAMPLE: the bank voltage as measured, in millivolts (DESIGN CHOICE, log 80), becomes the hold-up input of the life-cycle
controller (R21). -/
def execHoldupSample (millivolts : HWord) (s : State) : Out :=
  .next (if s.power.aoOn then s.modLc fun l => { l with holdupMs := BitVec.ofNat 16 (holdupMs millivolts.toNat) } else s)

/-- What a burn of a state group leaves when it is cut: some of its eight bits, not none and not all (R388). -/
def cutBurn (k : Nat) (b : Burn) : Word := b.bits &&& BitVec.ofNat 32 ((k % 254 + 1) * 0x01010101)

/-- ALWAYS_ON_RAIL_DROP_OUT: with the input lost, the hold-up bank falls to the drop-out; with the input back in range the rail stays (R19).
A burn in progress stops at its last completed
word; a state group is left partly burnt, in bits the spec does not state (R387, R388). -/
def execAlwaysOnRailDropOut (s : State) : Out :=
  .next (if s.power.powerGood || inputInRange s.power.vin.toNat || !s.power.aoOn then s
    else
      let s := match s.lc.burns with
        | b :: _ => if b.word < 2 then
            let (k, s) := s.takeFree
            s.modLc fun l => { l with otp := l.otp.upd b.word fun w => w ||| cutBurn k b }
          else s
        | [] => s
      let w := s.power
      (unpowered s).modPower fun p => { p with vin := w.vin, inRange := w.inRange, lowRun := w.lowRun, highRun := w.highRun })

/-! ### Power and idle units -/

/-- The power cap of a mode, W (Table 2.5). -/
def powerCap : Draught → Nat
  | .full => 3800 | .forge => 3800 | .flue => 3300 | .banked => 900

/-- POWER_AVERAGE: the average input power of a 1 ms period, W (R46): issue falls by a sixteenth above the cap, and returns by one below
97 percent of it. PWR_THROTTLE_TIME counts the periods that ran with reduced issue. -/
def execPowerAverage (watts : BitVec 12) (s : State) : Out :=
  let cap := powerCap s.power.mode
  .next (if !s.power.rails || !s.power.aoOn then s
    else s.modPower fun p =>
      let issue := if cap < watts.toNat then max 4 (p.issue - 1) else if 100 * watts.toNat < 97 * cap then min 16 (p.issue + 1) else p.issue
      let us := if p.issue < 16 then 1000 else 0
      { p with powerW := watts, issue := issue, throttle := p.throttle || decide (issue < 16)
               throttleTime := satAdd p.throttleTime us, throttleOvf := p.throttleOvf || satOvf p.throttleTime us })

/-- A grate has no runnable thread and no tile, mover, flue or reduction-node work in flight (Table 2.4): of an instance that some of its
threads take part in and that has not ended. -/
def grateQuiet (s : State) (g : Nat) : Bool :=
  (List.range 64).all fun i =>
    let m := s.ember (64 * g + i)
    m.tileQ.isEmpty && m.flueQ.isEmpty && (List.range 2).all (fun k => (m.movers.get k).isEmpty) &&
      (List.range 8).all (fun t => decide ((m.thr.get t).st ≠ .run)) &&
      (List.range 4).all fun n => (s.part n).tree.insts.all fun x => x.issued.all fun k => decide (k / 8 ≠ 64 * g + i)

/-- Set the idle state of a unit. -/
def setIdle (u : UnitId) (v : Bool) (s : State) : State :=
  match u with
  | .grate g => s.modPower fun p => { p with idleGrate := p.idleGrate.set g.val v }
  | .shelfBank b => s.modPower fun p => { p with idleShelf := p.idleShelf.set b.val v }
  | .hbmStack h => s.modPower fun p => { p with idleHbm := p.idleHbm.set h.val v }

/-- UNIT_IDLE: a unit has gone without work or access for its period (Table 2.4); contents survive. -/
def execUnitIdle (u : UnitId) (s : State) : Out :=
  let may := match u with | .grate g => grateQuiet s g.val | _ => true
  .next (if s.inService && may then setIdle u true s else s)

/-- UNIT_WAKE: the unit is awake again, and what stalled proceeds (R43). -/
def execUnitWake (u : UnitId) (s : State) : Out := .next (if s.inService then setIdle u false s else s)

/-! ### Health -/

/-- HEALTH_WINDOW: a window ends; the counts restart under the thresholds set by now, 0 counting as 1 where the table says so (R457). -/
def execHealthWindow (s : State) : Out :=
  let h := s.health
  .next (if !s.power.rails then s
    else
      let s := { s with health := { h with
        curSnt := max 1 h.sntThr.toNat, curHbm := max 1 h.hbmThr.toNat, curFlue := max 1 h.flueThr.toNat
        curMargin := h.thermMargin.toNat, curSpare := h.spareEmb.toNat
        winHbm := Tab.const 0, winSnt := 0, winFlue := Tab.const 0
        raisedHbm := Tab.const false, raisedSnt := false, raisedFlue := false } }
      if s.inService then healthSpares s else s)

/-- The slowdown index of an interval of `e` cycles, `w` of them waiting (R458). -/
def slowIndex (parts e w : Nat) : Nat := if parts = 1 then 0 else if e ≤ w then 0xFFFF else min 0xFFFF (1024 * w / (e - w))

/-- SLOWDOWN_INTERVAL: an interval of a partition ends after `e` HS cycles, in `w` of which its LC requests waited behind another
partition (R458). -/
def execSlowdownInterval (n : PartId) (e w : DWord) (s : State) : Out :=
  let k := BitVec.ofNat 16 (slowIndex s.nParts e.toNat w.toNat)
  .next (if s.inService && s.hasPart n.val then s.modPart n.val fun p => { p with
      slowdown := k, sdMax := if p.sdMax.toNat < k.toNat then k else p.sdMax }
    else s)

/-- REVOTE: every critical field is re-voted, and `k` disagreeing copies are rewritten from the majority (R439). -/
def execRevote (k : Word) (s : State) : Out :=
  .next (if s.common.voting && s.power.rails then { s with common := { s.common with
      voteFix := satAdd s.common.voteFix k.toNat, voteOvf := s.common.voteOvf || satOvf s.common.voteFix k.toNat } }
    else s)

end Sys2Proof.Machine
end

