-- ==== Sys2Proof/Machine/KeyEvents.lean ====
section
/-! DEFINITION. Keys: the entropy source (R366), mask refresh (R369), the next memory generation (R375), the identity after READY (R379). -/

namespace Sys2Proof.Machine

/-- ENTROPY_SAMPLE: the health tests run on a raw sample; a failure latches KEY_RNG_FAIL (R366). -/
def execEntropySample (ok : Bool) (s : State) : Out :=
  .next (if ok || s.keys.rngFail || !s.power.rails then s
    else setFault .entropy (sootEvent 0x22 0xFF [] { s with keys := { s.keys with rngFail := true } }))

/-- Fresh values XORed into both shares of every slot from `i` on. -/
def refreshSlots : Nat → Nat → State → State
  | 0, _, s => s
  | k + 1, i, s =>
    let (r, s) := s.draw
    refreshSlots k (i + 1) { s with keys := { s.keys with slots := s.keys.slots.upd i fun x => { a := x.a ^^^ r, b := x.b ^^^ r } } }

/-- Fresh values XORed into both shares of every cache entry. -/
def refreshCache : List CacheEntry → State → List CacheEntry × State
  | [], s => ([], s)
  | e :: es, s =>
    let (r, s) := s.draw
    let (rest, s) := refreshCache es s
    ({ e with key := { a := e.key.a ^^^ r, b := e.key.b ^^^ r } } :: rest, s)

/-- MASK_REFRESH: the 64 slots, then the cache entries; none while the entropy source has failed (R366, R369). -/
def execMaskRefresh (s : State) : Out :=
  .next (if s.keys.rngFail || !s.power.rails then s
    else
      let s := refreshSlots 64 0 s
      let (c, s) := refreshCache s.keys.cache s
      { s with keys := { s.keys with cache := c } })

/-- A request for memory generation MG + 1 (R375): its outcome is MK_RESULT. A running KEY pass is reported before the generation that it
moves to (DEDUCED, log 54). -/
def mkGo (n : Nat) (s : State) : State :=
  let p := s.part n
  let code := if p.adm.state ≠ .admitted then 1 else if keyPassRuns s n then 3 else if p.prot.nextKeys then 2 else 0
  let s := { s with keys := { s.keys with mkResult := BitVec.ofNat 4 code } }
  if code = 0 then s.modPart n fun p => { p with prot := { p.prot with nextKeys := true } } else s

/-- MK_GO: a write by PF0 of MK_GO with MK_PART (R375, R382). -/
def execMkGo (m : Master) (part : BitVec 2) (s : State) : Out :=
  .next (if isPf0 m && reaches s m true then mkGo part.toNat { s with keys := { s.keys with mkPart := part } } else s)

/-- KEY_ID_READY: the key pairs are regenerated, MODULE_ID is computed, and requests that waited for them proceed (R379); in RETURN no
key operation runs (R389). -/
def execKeyIdReady (s : State) : Out :=
  .next (if !s.inService || s.keys.idReady || decide (s.lc.lcState = .returned) then s
    else
      let s := { s with keys := { s.keys with idReady := true, moduleId := moduleIdOf (slotKey s 1) } }
      match s.host.i3cWait with
      | some nonce => askReport none 0 nonce { s with host := { s.host with i3cWait := none } }
      | none => s)

end Sys2Proof.Machine
end

