-- ==== Sys2Proof/Machine/RegWrite.lean ====
section
/-! DEFINITION. Writes of registers (R428 to R432): what each master may write and what each field does, with the check-value units (R454
to R456), the damper commands (R434, R435), the mailbox (R442) and the record head (R409). -/

namespace Sys2Proof.Machine

/-- A sticky flag after a write whose bit is `w` (Table 19.2, W1C). -/
def w1c (flag w : Bool) : Bool := flag && !w

/-- A configuration field of a block and its flag after a write (R432): while the block is enabled the field stays, and the flag is set
where the value differs; a flag set so stands whatever else the write does. -/
def cfgField {α : Type} [DecidableEq α] (enabled : Bool) (cur new : α) (flag : Bool) : α × Bool :=
  if enabled then (cur, flag || decide (new ≠ cur)) else (new, flag)

/-! ### Check-value units -/

/-- Feed one byte (R454, R455). -/
def cvByte (poly : BitVec 2) (run : DWord) (b : Byte) : DWord :=
  match poly.toNat with
  | 0 => (crcByteR 0xEDB88320#32 (run.setWidth 32) b).setWidth 64
  | 1 => (crcByteR 0x82F63B78#32 (run.setWidth 32) b).setWidth 64
  | 2 => (crcByteN 0x1021#16 (run.setWidth 16) b).setWidth 64
  | _ => crcByteN 0x42F0E1EBA9EA3693#64 run b

/-- Change a unit. -/
def modCv (u : Nat) (f : CvUnit → CvUnit) (s : State) : State := { s with cv := s.cv.upd u f }

/-- Feed the low `k` bytes of a word, the lowest first (R455). -/
def cvFeed (u k : Nat) (v : Word) (s : State) : State :=
  modCv u (fun c => { c with run := (leBytes k v.toNat).foldl (cvByte c.poly) c.run }) s

/-- A value cut to the width of a model; what a change of model leaves above it is cut as well (DESIGN CHOICE, log 55). -/
def cvCut (poly : BitVec 2) (x : DWord) : DWord := BitVec.ofNat 64 (x.toNat % 2 ^ cvWidth poly.toNat)

/-- CV_CTRL (R456): the model is set; then CV_LOAD loads the saved value, or CV_INIT loads Init. -/
def cvCtrl (u : Nat) (v : Word) (s : State) : State :=
  modCv u (fun c =>
    let poly : BitVec 2 := v.setWidth 2
    { c with
      poly := poly
      run := if bitAt v 30 then cvCut poly (c.loadHi ++ c.loadLo)
             else if bitAt v 31 then BitVec.ofNat 64 (cvInit poly.toNat) else cvCut poly c.run }) s

/-- The masters that reach a pair: privileged ones and the partition's function (R454). -/
def mayCv (s : State) (m : Master) (u : Nat) : Bool :=
  reaches s m true && (privileged m || (ownsPart m (u / 2) && s.hasPart (u / 2)))

/-- CV_CTRL, CV_FEED8, CV_FEED16 and CV_FEED32 of unit `u`, by whole words. -/
def execCvCtrl (m : Master) (u : Fin 8) (v : Word) (s : State) : Out := .next (if mayCv s m u.val then cvCtrl u.val v s else s)
def execCvFeed8 (m : Master) (u : Fin 8) (v : Word) (s : State) : Out := .next (if mayCv s m u.val then cvFeed u.val 1 v s else s)
def execCvFeed16 (m : Master) (u : Fin 8) (v : Word) (s : State) : Out := .next (if mayCv s m u.val then cvFeed u.val 2 v s else s)
def execCvFeed32 (m : Master) (u : Fin 8) (v : Word) (s : State) : Out := .next (if mayCv s m u.val then cvFeed u.val 4 v s else s)

/-! ### Damper, mailbox and record head -/

/-- DMP_CTRL: DMP_CIMAGE is set, then the image is committed, and then discarded, as the write's bits say (R435). -/
def dmpCtrl (m : Master) (v : Word) (s : State) : State :=
  let i : BitVec 3 := BitVec.ofNat 3 (field v 28 26)
  let s := modMaster m (fun r => { r with cimage := i }) s
  let s := if bitAt v 31 then dmpCommit i s else s
  if bitAt v 30 then dmpDiscard i.toNat s else s

/-- A privileged master that reaches the map for a write. -/
def mayPrivileged (s : State) (m : Master) : Bool := privileged m && reaches s m true

/-- DMP_DATA: a privileged write appends an entry (R434, R446). -/
def execDmpData (m : Master) (v : Word) (s : State) : Out := .next (if mayPrivileged s m then dmpStage m v s else s)

/-- DMP_COMMIT of an image (R435). -/
def execDmpCommit (m : Master) (i : BitVec 3) (s : State) : Out :=
  .next (if mayPrivileged s m then dmpCommit i (modMaster m (fun r => { r with cimage := i }) s) else s)

/-- DMP_ABORT of an image (R435). -/
def execDmpAbort (m : Master) (i : BitVec 3) (s : State) : Out :=
  .next (if mayPrivileged s m then dmpDiscard i.toNat (modMaster m (fun r => { r with cimage := i }) s) else s)

/-- MBX_SEL: any master selects a wide value in its own mailbox (R442, R446). -/
def execMbxSel (m : Master) (v : HWord) (s : State) : Out := .next (if reaches s m true then mailboxTake m v s else s)

/-- The host has consumed records (R409): the ones held are written while there is room. -/
def recHead (f : Nat) (v : HWord) (s : State) : State := drainHeld 256 f (s.modFn f fun h => { h with recHead := v })

/-- A master may write a function's host block: a privileged one, or the function itself (R402, R426). -/
def mayHost (m : Master) (f : Nat) : Bool := privileged m || decide (masterId m = f)

/-- HOST_REC_HEAD of a function. -/
def execHostRecHead (m : Master) (f : FnId) (v : HWord) (s : State) : Out :=
  .next (if reaches s m true && mayHost m f.val then recHead f.val v s else s)

/-! ### Blocks -/

/-- Common block (Table 19.9). -/
def writeCommon (m : Master) (off : Nat) (v : Word) (s : State) : State :=
  let b := bitAt v
  let put (c : Common) : State := { s with common := c }
  let c := s.common
  match off with
  | 0x008 => if isPf0 m then put { c with badAcc := w1c c.badAcc (b 29), voteOvf := w1c c.voteOvf (b 28), swpDoneOvf := w1c c.swpDoneOvf (b 27)
                                          swpAutoOvf := w1c c.swpAutoOvf (b 26) } else s
  | 0x040 => if privileged m then modMaster m (fun r => { r with dmpAddr := v &&& 0xF3FFFFFC }) s else s
  | 0x044 => if privileged m then dmpStage m v s else s
  | 0x048 => if privileged m then dmpCtrl m v s else s
  | 0x04C => if privileged m then put { c with timeoutMs := v.setWidth 16 } else s
  | 0x050 => if isPf0 m then put { c with dmpTimeout := w1c c.dmpTimeout (b 31), stageIgn := w1c c.stageIgn (b 30) } else s
  | 0x080 => mailboxTake m (v.setWidth 16) s
  | _ => s

/-- Power and clock block (Table 2.8). -/
def writePower (off : Nat) (v : Word) (s : State) : State :=
  let b := bitAt v
  match off with
  | 0x004 => s.modPower fun p => { p with stageMode := v.setWidth 2 }
  | 0x008 => s.modPower fun p => { p with stageMask := v }
  | 0x00C => s.modPower fun p => { p with stageErr := w1c p.stageErr (b 7) }
  | 0x014 => s.modPower fun p => { p with throttle := w1c p.throttle (b 30), throttleOvf := w1c p.throttleOvf (b 29) }
  | _ => s

/-- Sentinel block (Table 7.2). -/
def writeSentinel (off : Nat) (v : Word) (s : State) : State :=
  let p := s.snt
  match off with
  | 0x000 =>
    let r := cfgField ((List.range s.nParts).any fun n => (s.part n).hasCtx) p.missLimit (v.setWidth 4) p.cfgIgnored
    { s with snt := { p with missLimit := r.1, cfgIgnored := r.2 } }
  | 0x004 => { s with snt := { p with missOvf := w1c p.missOvf (bitAt v 31), cfgIgnored := w1c p.cfgIgnored (bitAt v 30) } }
  | _ => s

/-- Sweep block (Table 10.7). -/
def writeSweep (off : Nat) (v : Word) (s : State) : State :=
  let w := s.sweep
  match off with
  | 0x000 =>
    let s := { s with sweep := { w with reqPart := BitVec.ofNat 2 (field v 3 2), reqKind := v.setWidth 2 } }
    if !bitAt v 31 then s
    else
      let n : PartId := Fin.ofNat 4 (field v 3 2)
      match field v 1 0 with
      | 0 => sweepRequest n .epoch w.first.toNat w.last.toNat s
      | 1 => sweepRequest n .key 0 0 s
      | _ => { s with sweep := { s.sweep with result := 2 } }
  | 0x004 => { s with sweep := { w with first := v.setWidth 19 } }
  | 0x008 => { s with sweep := { w with last := v.setWidth 19 } }
  | _ => s

/-- Fabric block (Table 11.13). -/
def writeFabric (off : Nat) (v : Word) (s : State) : State :=
  let f := s.fab
  let en := (List.range 32).any fun i => (s.flues.get i).en
  match off with
  | 0x000 =>
    let r := cfgField en (f.member, f.t) (BitVec.ofNat 4 (field v 28 25), BitVec.ofNat 20 (field v 24 5)) f.cfgIgnored
    { s with fab := { f with member := r.1.1, t := r.1.2, cfgIgnored := r.2 } }
  | 0x004 =>
    let r := cfgField en f.dims (v.setWidth 20) f.cfgIgnored
    { s with fab := { f with dims := r.1, cfgIgnored := r.2 } }
  | 0x008 => { s with fab := { f with cfgIgnored := w1c f.cfgIgnored (bitAt v 12) } }
  | _ => s

/-- Kindling block (Table 14.7). -/
def writeKindling (off : Nat) (v : Word) (s : State) : State :=
  match off with
  | 0x010 => s.modKs fun k => { k with compactOvf := w1c k.compactOvf (bitAt v 31) }
  | 0x014 => if bitAt v 31 then ksFormat s else s
  | _ => s

/-- Key block (Table 16.6). -/
def writeKey (off : Nat) (v : Word) (s : State) : State :=
  let b := bitAt v
  let k := s.keys
  match off with
  | 0x000 => { s with keys := { k with attOvf := w1c k.attOvf (b 26), unwrapOvf := w1c k.unwrapOvf (b 25), missOvf := w1c k.missOvf (b 24) } }
  | 0x004 =>
    let s := { s with keys := { k with mkPart := BitVec.ofNat 2 (field v 5 4) } }
    if b 31 then mkGo (field v 5 4) s else s
  | _ => s

/-- Life-cycle and debug block (Table 17.10). -/
def writeLife (off : Nat) (v : Word) (s : State) : State :=
  if off = 0x004 then
    let s := s.modLc fun l => { l with target := v.setWidth 4 }
    if bitAt v 31 then lcRequest (field v 3 0) s else s
  else if 0x008 ≤ off ∧ off ≤ 0x024 then s.modLc fun l => { l with token := l.token.set ((off - 0x008) / 4) v }
  else if 0x028 ≤ off ∧ off ≤ 0x064 then s.modLc fun l => { l with data := l.data.set ((off - 0x028) / 4) v }
  else if off = 0x068 then s.modLc fun l => { l with tokenOvf := w1c l.tokenOvf (bitAt v 31) }
  else s

/-- Soot record and health block (Table 20.5). -/
def writeSoot (m : Master) (off : Nat) (v : Word) (s : State) : State :=
  let b := bitAt v
  let byte (hi lo : Nat) : Byte := BitVec.ofNat 8 (field v hi lo)
  match off with
  | 0x000 => if isPf0 m then { s with soot := { s.soot with pcycOvf := w1c s.soot.pcycOvf (b 28), lostOvf := w1c s.soot.lostOvf (b 27) } } else s
  | 0x010 => modMaster m (fun r => { r with sootSel := v.setWidth 14 }) s
  | 0x020 => { s with health := { s.health with thermMargin := byte 31 24, spareEmb := byte 23 16, sntThr := byte 15 8, hbmThr := byte 7 0 } }
  | 0x024 => { s with health := { s.health with windowS := BitVec.ofNat 16 (field v 31 16), flueThr := v.setWidth 16 } }
  | 0x028 => if isPf0 m then { s with health := { s.health with warned := s.health.warned &&& ~~~(v.setWidth 5) } } else s
  | _ => s

/-- A check-value unit (Table 20.6). -/
def writeCv (u off : Nat) (v : Word) (s : State) : State :=
  match off with
  | 0x000 => cvCtrl u v s
  | 0x004 => cvFeed u 1 v s
  | 0x008 => cvFeed u 2 v s
  | 0x00C => cvFeed u 4 v s
  | 0x014 => modCv u (fun c => { c with loadLo := v }) s
  | 0x018 => modCv u (fun c => { c with loadHi := v }) s
  | _ => s

/-- A flue's block (Table 11.12). -/
def writeFlue (f off : Nat) (v : Word) (s : State) : State :=
  let u := s.flues.get f
  match off with
  | 0x000 =>
    let s := if bitAt v 31 then (if s.inService then flueEnable f s else s) else if u.en then flueDisable f s else s
    if bitAt v 30 then flueUnquar f (v.setWidth 4) s else s
  | 0x004 =>
    let r := cfgField u.en u.weights (v.setWidth 16) u.cfgIgnored
    s.modFlue f fun u => { u with weights := r.1, cfgIgnored := r.2 }
  | 0x008 => s.modFlue f fun u => { u with trainFail := w1c u.trainFail (bitAt v 2), cfgIgnored := w1c u.cfgIgnored (bitAt v 1) }
  | 0x028 => s.modFlue f fun u => { u with ovf := u.ovf &&& ~~~(v.setWidth 6) }
  | _ => s

/-- The overflow flags of a step block (Table 8.7). -/
def writeStep (n off : Nat) (v : Word) (s : State) : State :=
  let c := bitAt v 31
  let put (f : StepState → StepState) : State := s.modPart n fun p => { p with step := f p.step }
  match off with
  | 0x008 => put fun t => { t with dropOvf := w1c t.dropOvf c }
  | 0x00C => put fun t => { t with selfOvf := w1c t.selfOvf c }
  | 0x010 => put fun t => { t with voidOvf := w1c t.voidOvf c }
  | 0x018 => put fun t => { t with framesOvf := w1c t.framesOvf c }
  | _ => s

/-- Memory block (Table 9.7). -/
def writeMemory (n off : Nat) (v : Word) (s : State) : State :=
  let b := bitAt v
  let put (f : PartMem → PartMem) : State := s.modPart n fun p => { p with mem := f p.mem }
  match off with
  | 0x000 => put fun m => { m with parkOvf := w1c m.parkOvf (b 3), tcMissOvf := w1c m.tcMissOvf (b 2), cfgIgnored := w1c m.cfgIgnored (b 0) }
  | 0x004 => put fun m =>
    let r := cfgField m.hasDir m.ptDir (v.setWidth 19) m.cfgIgnored
    { m with ptDir := r.1, cfgIgnored := r.2 }
  | _ => s

/-- Protection block (Table 10.6). -/
def writeProt (n off : Nat) (v : Word) (s : State) : State :=
  let b := bitAt v
  if off = 0 then s.modPart n fun p => { p with prot := { p.prot with
    denyOvf := w1c p.prot.denyOvf (b 3), persistOvf := w1c p.prot.persistOvf (b 2), crcOvf := w1c p.prot.crcOvf (b 1) } }
  else s

/-- Draught-tree block (Table 12.6). -/
def writeTree (n off : Nat) (v : Word) (s : State) : State :=
  let b := bitAt v
  if off = 0 then s.modPart n fun p => { p with tree := { p.tree with mismOvf := w1c p.tree.mismOvf (b 3), collOvf := w1c p.tree.collOvf (b 2) } }
  else s

/-- Relight block (Table 13.9). -/
def writeRelight (n off : Nat) (v : Word) (s : State) : State :=
  let c := bitAt v 31
  match off with
  | 0x000 => if c && s.inService then rlHandback n s else s
  | 0x014 => s.modPart n fun p => { p with rl := { p.rl with countOvf := w1c p.rl.countOvf c } }
  | 0x01C => s.modPart n fun p => { p with rl := { p.rl with stallOvf := w1c p.rl.stallOvf c } }
  | _ => s

/-- Checkpoint block (Table 14.8). -/
def writeCkpt (n off : Nat) (v : Word) (s : State) : State :=
  let b := bitAt v
  let put (f : Ckpt → Ckpt) : State := s.modPart n fun p => { p with ck := f p.ck }
  match off with
  | 0x000 =>
    let s := put fun k => { k with abandoned := w1c k.abandoned (b 27), nospace := w1c k.nospace (b 26) }
    if b 28 then ckAsk n 2 s else s
  | 0x014 => put fun k => { k with cntOvf := w1c k.cntOvf (b 31) }
  | 0x018 => put fun k => { k with abandonOvf := w1c k.abandonOvf (b 31) }
  | _ => s

/-- Charter block (Table 15.11). -/
def writeCharter (n off : Nat) (v : Word) (s : State) : State :=
  let c := bitAt v 31
  let put (f : CharterRegs → CharterRegs) : State := s.modPart n fun p => { p with chr := f p.chr }
  match off with
  | 0x008 => put fun k => { k with expOvf := w1c k.expOvf c }
  | 0x00C => put fun k => { k with impOvf := w1c k.impOvf c }
  | 0x010 => put fun k => { k with refuseOvf := w1c k.refuseOvf c }
  | _ => s

/-- Health page (Table 20.7). -/
def writeHealth (n off : Nat) (v : Word) (s : State) : State :=
  if off = 4 then s.modPart n fun p => { p with pwarn := p.pwarn &&& ~~~(v.setWidth 5) } else s

/-! ### Host block -/

/-- The admin ring is enabled (R406): its base and size are those of the registers, its indices stand, and its head address, which the
spec does not give, is a free value (log 56). -/
def adminEnable (f : Nat) (s : State) : State :=
  let (a, s) := s.takeFree
  s.modFn f fun h =>
    let k := h.adminK.toNat
    { h with adminEn := true, admin := { h.admin with
      base := (h.adminHi ++ h.adminLo ++ (0 : BitVec 12)).setWidth 64, k := k, headAddr := BitVec.ofNat 64 a
      head := h.admin.head % 2 ^ k, tail := h.admin.tail % 2 ^ k, fetched := [] } }

/-- HOST_ADMIN_CFG: the size is configuration, the enable acts (R426, R432). -/
def writeAdminCfg (f : Nat) (v : Word) (s : State) : State :=
  let h := s.host.fns.get f
  let r := cfgField h.adminEn h.adminK (v.setWidth 4) h.cfgIgnored
  let s := s.modFn f fun h => { h with adminK := r.1, cfgIgnored := r.2 }
  if bitAt v 31 && !h.adminEn then adminEnable f s else s.modFn f fun h => { h with adminEn := bitAt v 31 }

/-- HOST_REC_CFG: likewise; once enabled, the records held on die are written. -/
def writeRecCfg (f : Nat) (v : Word) (s : State) : State :=
  let h := s.host.fns.get f
  let r := cfgField h.recEn (h.recK, h.recVec) (v.setWidth 5, BitVec.ofNat 15 (field v 30 16)) h.cfgIgnored
  let s := s.modFn f fun h => { h with
    recK := r.1.1, recVec := r.1.2, cfgIgnored := r.2, recEn := bitAt v 31
    recTail := BitVec.ofNat 16 (h.recTail.toNat % 2 ^ r.1.1.toNat) }
  drainHeld 256 f s

/-- HOST_LAYOUT_STAGE and HOST_APER_EN, by PF0 (R401, R426): a staged layout awaits a reset where it differs from the one in force. -/
def writeLayout (m : Master) (f : Nat) (v : Word) (s : State) : State :=
  let s := s.modFn f fun h => { h with cfgIgnored := w1c h.cfgIgnored (bitAt v 7) }
  if !isPf0 m then s
  else
    let st : BitVec 2 := BitVec.ofNat 2 (field v 3 2)
    let s := { s with host := { s.host with aperEn := bitAt v 5 } }
    if st = 3 then s.modFn f fun h => { h with cfgIgnored := true }
    else { s with host := { s.host with layoutStage := st, layoutPend := decide (st ≠ s.host.layout) } }

/-- Host block of a function (Table 18.14). -/
def writeHost (m : Master) (f off : Nat) (v : Word) (s : State) : State :=
  let h := s.host.fns.get f
  match off with
  | 0x000 => writeLayout m f v s
  | 0x004 =>
    let r := cfgField h.adminEn h.adminLo (BitVec.ofNat 20 (field v 31 12)) h.cfgIgnored
    s.modFn f fun h => { h with adminLo := r.1, cfgIgnored := r.2 }
  | 0x008 =>
    let r := cfgField h.adminEn h.adminHi v h.cfgIgnored
    s.modFn f fun h => { h with adminHi := r.1, cfgIgnored := r.2 }
  | 0x00C => writeAdminCfg f v s
  | 0x010 =>
    let r := cfgField h.recEn h.recLo (BitVec.ofNat 26 (field v 31 6)) h.cfgIgnored
    s.modFn f fun h => { h with recLo := r.1, cfgIgnored := r.2 }
  | 0x014 =>
    let r := cfgField h.recEn h.recHi v h.cfgIgnored
    s.modFn f fun h => { h with recHi := r.1, cfgIgnored := r.2 }
  | 0x018 => writeRecCfg f v s
  | 0x01C => recHead f (v.setWidth 16) s
  | 0x024 => s.modFn f fun h => { h with recOvf := w1c h.recOvf (bitAt v 31) }
  | 0x028 => s.modFn f fun h => { h with dbOvf := w1c h.dbOvf (bitAt v 31) }
  | _ => s

/-! ### Ember block -/

/-- Ember block (Table 3.8): EMB_EN is whether a partition is loaded on the ember. -/
def writeEmber (l off : Nat) (v : Word) (s : State) : State :=
  let b := bitAt v
  let en := (s.part (s.partOf l)).hasCtx
  match off with
  | 0x008 => s.modEmber l fun m =>
    let r := cfgField en m.beMask (v.setWidth 8) (w1c m.cfgIgnored (b 8))
    { m with beMask := r.1, cfgIgnored := r.2 }
  | 0x00C => s.modEmber l fun m =>
    let r := cfgField en (m.beBase, m.beLen) (BitVec.ofNat 9 (field v 24 16), BitVec.ofNat 9 (field v 8 0)) m.cfgIgnored
    { m with beBase := r.1.1, beLen := r.1.2, cfgIgnored := r.2 }
  | 0x010 => s.modEmber l fun m => { m with flags := m.flags &&& ~~~(v.setWidth 4) }
  | 0x014 => s.modEmber l fun m =>
    let r := cfgField en m.parityLimit (BitVec.ofNat 4 (field v 19 16)) m.cfgIgnored
    { m with parityLimit := r.1, cfgIgnored := r.2, parityOvf := w1c m.parityOvf (b 31) }
  | 0x01C => s.modEmber l fun m => { m with sentOvf := w1c m.sentOvf (b 31) }
  | 0x020 => if b 0 && s.inService then askRetirement l .host s else s
  | 0x024 => s.modEmber l fun m => { m with tallyOvf := m.tallyOvf &&& ~~~(v.setWidth 8) }
  | _ => s

/-! ### The write -/

/-- The masters that may write a block at all (R430 and each block's rule); some fields are PF0's alone. -/
def mayWrite (s : State) (m : Master) (b : RegBlock) : Bool :=
  match b with
  | .common => true
  | .sweep => isPf0 m
  | .key => isPf0 m
  | .cv u => privileged m || (ownsPart m (u / 2) && s.hasPart (u / 2))
  | .step _ => isPf0 m
  | .prot _ => isPf0 m
  | .tree _ => isPf0 m
  | .relight _ => isPf0 m
  | .charter _ => isPf0 m
  | .health _ => isPf0 m
  | .host f => mayHost m f
  | _ => privileged m

/-- A write of a word of a block. -/
def blockWrite (m : Master) (b : RegBlock) (off : Nat) (v : Word) (s : State) : State :=
  match b with
  | .common => writeCommon m off v s
  | .power => writePower off v s
  | .sentinel => writeSentinel off v s
  | .sweep => writeSweep off v s
  | .fabric => writeFabric off v s
  | .kindling => writeKindling off v s
  | .key => writeKey off v s
  | .life => writeLife off v s
  | .soot => writeSoot m off v s
  | .cv u => writeCv u off v s
  | .flue f => writeFlue f off v s
  | .step n => writeStep n off v s
  | .memory n => writeMemory n off v s
  | .prot n => writeProt n off v s
  | .tree n => writeTree n off v s
  | .relight n => writeRelight n off v s
  | .ckpt n => writeCkpt n off v s
  | .charter n => writeCharter n off v s
  | .health n => writeHealth n off v s
  | .host f => writeHost m f off v s
  | .ember l => writeEmber l off v s

/-- A write of one register word by a master (R428 to R432): ignored where no table assigns the address or the master may not write it. -/
def regWrite (m : Master) (a : Nat) (v : Word) (s : State) : State :=
  match regPlace s a with
  | some (b, off) => if mayWrite s m b && decide (off % 4 = 0) then blockWrite m b off v s else s
  | none => s

/-- REGISTER_WRITE: one write by a master; `whole` tells an aligned write of 32 bits. A PCIe write of another size or alignment is ignored
and sets REG_BADACC; I3C and debug port accesses are always whole words (R428). -/
def execRegisterWrite (m : Master) (a : BitVec 26) (v : Word) (whole : Bool) (s : State) : Out :=
  .next (if !reaches s m true then s
    else if whole && decide (a.toNat % 4 = 0) then regWrite m a.toNat v s
    else if m = .i3c ∨ m = .sdp then s
    else { s with common := { s.common with badAcc := true } })

end Sys2Proof.Machine
end

