-- ==== Sys2Proof/Machine/Debug.lean ====
section
/-! DEFINITION. The serial debug port (R390 to R398): request frames, sessions and certificates, run control, registers and memory. -/

namespace Sys2Proof.Machine

/-! ### Request frames -/

/-- The operations of Table 17.7. -/
def sdpOps : List Nat := [0x01, 0x02, 0x03, 0x04, 0x10, 0x11, 0x12, 0x13, 0x20, 0x21, 0x30, 0x31, 0x40, 0x41, 0x50]

/-- A response frame leaves (R391). -/
def sdpAnswer (status : Nat) (bs : List Byte) (s : State) : State := s.emit (.sdp status bs)

/-- Serve a request frame (R390, R391): CRC, then FORMAT, then DENIED, then the operation. A frame of another operation is left to that
operation's command. A port that is shut answers nothing. -/
def sdpServe (q : SdpFrame) (op : Nat) (form : Bool) (right : Bool) (act : Nat → State → State) (s : State) : Out :=
  let n := q.part.toNat
  .next (if !sdpUp s then s
    else if !q.crcOk then sdpAnswer 1 [] s
    else if q.op.toNat ∉ sdpOps then sdpAnswer 2 [] s
    else if q.op.toNat ≠ op then s
    else if !s.hasPart n || !form || decide (4096 < q.payload.length) then sdpAnswer 2 [] s
    else if !right then sdpAnswer 3 [] s
    else act n s)

/-- A request without payload. -/
def SdpFrame.bare (q : SdpFrame) : Bool := q.payload.isEmpty
/-- Both arguments are zero. -/
def SdpFrame.noArgs (q : SdpFrame) : Bool := decide (q.arg0 = 0) && decide (q.arg1 = 0)
/-- A right of the partition that a request names (R393). -/
def sdpRight (s : State) (q : SdpFrame) (bit : Nat) : Bool := bitAt (debugRights s q.part.toNat) bit
/-- An ember lies in the partition that a request names. -/
def sdpEmber (s : State) (q : SdpFrame) (l : Nat) : Bool := decide (l < 25600) && decide (s.partOf l = q.part.toNat)

/-- SDP_SEL_RISE: the frame is discarded with no effect (R391). -/
def execSdpSelRise (s : State) : Out := .next s

/-! ### Sessions -/

/-- INFO. -/
def execSdpInfo (q : SdpFrame) (s : State) : Out :=
  sdpServe q 0x01 (SdpFrame.noArgs q && SdpFrame.bare q) true (fun _ s =>
    s.emit (.sdpInfo s.lc.lcState.code s.lc.lcPending s.keys.moduleId (moduleRights s).toNat
      ((List.range 4).map fun n => (debugRights s n).toNat) (match s.dbg.session with | some d => d.notAfter.toNat | none => 0))) s

/-- NONCE: any session ends and a nonce is drawn (R394, R395); without entropy it is answered NO_RNG. -/
def execSdpNonce (q : SdpFrame) (s : State) : Out :=
  sdpServe q 0x02 (SdpFrame.noArgs q && SdpFrame.bare q) true (fun _ s =>
    if s.keys.rngFail then sdpAnswer 9 [] s
    else
      let (k, s) := (endSession s).draw
      sdpAnswer 0 (keyBytes k) { s with dbg := { s.dbg with nonce := some k } }) s

/-- A certificate is accepted (R394, Table 17.9) against the nonce in force. -/
def certGood (s : State) (c : List Byte) (nonce : Option Digest) : Bool :=
  decide (leAt c 0 4 = 0x4742445A) && decide (leAt c 4 2 = 1) && decide (leAt c 6 2 = 0) && decide (leAt c 78 2 = 0) &&
    decide (leAt c 88 8 = 0) && decide (leAt c 1889 7 = 0) && decide (leAt c 76 2 < 8) &&
    ((List.range 4).all fun n => decide (leAt c (80 + 2 * n) 2 < 512)) &&
    decide (leAt c 8 32 = s.keys.moduleId.toNat) && decide (nonce = some (BitVec.ofNat 256 (leAt c 40 32))) &&
    decide (keyBytes (shake ((c.drop 96).take 1793)) = wordBytes (s.lc.otp.getMany 82 8)) &&
    Config.falconVerify ((c.drop 96).take 1793) (c.take 1896) (c.drop 1896)

/-- The session of a certificate. -/
def certSession (c : List Byte) : DebugSession :=
  { noCert := false
    part := (List.range 4).foldl (fun t n => t.set n (BitVec.ofNat 16 (leAt c (80 + 2 * n) 2))) (Tab.const 0)
    modRights := BitVec.ofNat 16 (leAt c 76 2), notAfter := BitVec.ofNat 32 (leAt c 72 4) }

/-- OPEN: the nonce is consumed; the certificate starts a session and is recorded (R394, Table 20.2). -/
def execSdpOpen (q : SdpFrame) (s : State) : Out :=
  sdpServe q 0x03 (SdpFrame.noArgs q && decide (q.payload.length = 3176)) true (fun _ s =>
    let c := q.payload
    let nonce := s.dbg.nonce
    let s := { s with dbg := { s.dbg with nonce := none } }
    if !s.keys.idReady then sdpAnswer 0x0B [] s
    else if !certGood s c nonce then sdpAnswer 4 [] s
    else if leAt c 72 4 < s.soot.minutes.toNat then sdpAnswer 5 [] s
    else
      let s := sootEvent 0x10 0xFF ((c.drop 76).take 2 ++ (c.drop 80).take 8 ++ (c.drop 72).take 4) s
      sdpAnswer 0 [] { s with dbg := { s.dbg with session := some (certSession c) } }) s

/-- CLOSE (R395); without a session it is answered NO_SESSION. -/
def execSdpClose (q : SdpFrame) (s : State) : Out :=
  sdpServe q 0x04 (SdpFrame.noArgs q && SdpFrame.bare q) true (fun _ s =>
    if s.dbg.session.isNone then sdpAnswer 0x0A [] s else sdpAnswer 0 [] (endSession s)) s

/-! ### Run control -/

/-- The ember and the thread mask of HALT, RESUME and STEP. -/
def SdpFrame.runForm (q : SdpFrame) (s : State) : Bool :=
  SdpFrame.bare q && decide (q.arg0.toNat < 2 ^ 15) && decide (q.arg1.toNat < 256) && sdpEmber s q q.arg0.toNat

/-- HALT of one thread (R397): at once in RUN, and in WAIT, PARK and PAUSED at the moment it would return to RUN. -/
def Thread.portHalt (h : Thread) : Thread :=
  match h.st with
  | .run => { h with st := .halt }
  | .wait => { h with haltPend := true }
  | .park => { h with haltPend := true }
  | .paused => { h with haltPend := true }
  | _ => h

/-- HALT. -/
def execSdpHalt (q : SdpFrame) (s : State) : Out :=
  sdpServe q 0x10 (SdpFrame.runForm q s) (sdpRight s q 0) (fun _ s =>
    sdpAnswer 0 [] (s.modEmber q.arg0.toNat (Ember.mapThreads fun t h => if q.arg1.getLsbD t then h.portHalt else h))) s

/-- RESUME. -/
def execSdpResume (q : SdpFrame) (s : State) : Out :=
  sdpServe q 0x11 (SdpFrame.runForm q s) (sdpRight s q 0) (fun n s =>
    let p := s.part n
    sdpAnswer 0 [] (s.modEmber q.arg0.toNat fun m =>
      m.mapThreads fun t h => if q.arg1.getLsbD t then resumeThread p m t h else h)) s

/-- STEP: one thread, which must be halted, issues one instruction and halts again (R397). -/
def execSdpStep (q : SdpFrame) (s : State) : Out :=
  sdpServe q 0x12 (SdpFrame.runForm q s && decide (popCount q.arg1 = 1)) (sdpRight s q 0) (fun n s =>
    let p := s.part n
    let l := q.arg0.toNat
    let t := Nat.log2 q.arg1.toNat
    if (s.thread l t).st ≠ .halt then sdpAnswer 6 [] s
    else sdpAnswer 0 [] (s.modEmber l fun m => m.modThread t fun h => { resumeThread p m t h with stepOne := true })) s

/-- BKPT: a breakpoint of an ember is set, or cleared by mask 0. -/
def execSdpBkpt (q : SdpFrame) (s : State) : Out :=
  sdpServe q 0x13 (SdpFrame.bare q && decide (q.arg0.toNat < 2 ^ 34) && !q.arg0.getLsbD 15 && decide (q.arg1.toNat < 256) &&
      sdpEmber s q (field q.arg0 14 0)) (sdpRight s q 0) (fun _ s =>
    let mask : Byte := q.arg1.setWidth 8
    let pc : HWord := if mask = 0 then 0 else BitVec.ofNat 16 (field q.arg0 31 16)
    sdpAnswer 0 [] (s.modEmber (field q.arg0 14 0) fun m =>
      { m with bkpts := m.bkpts.set (field q.arg0 33 32) { pc := pc, mask := mask } })) s

/-! ### Registers -/

/-- Registers of a file and bytes of each: s, p, v, td, md, q, and the PC with the state, whose write takes four bytes (DESIGN CHOICE,
log 59). -/
def sdpFile : Nat → Option (Nat × Nat)
  | 0 => some (32, 8) | 1 => some (8, 1) | 2 => some (32, 128) | 3 => some (16, 32) | 4 => some (8, 32) | 5 => some (16, 4)
  | 6 => some (1, 4) | _ => none

/-- The form of RREG and WREG. -/
def SdpFrame.regForm (q : SdpFrame) (s : State) (write : Bool) : Bool :=
  decide (q.arg0.toNat < 2 ^ 29) && !q.arg0.getLsbD 15 && !q.arg0.getLsbD 19 && decide (q.arg1 = 0) && sdpEmber s q (field q.arg0 14 0) &&
    match sdpFile (field q.arg0 23 20) with
    | some (k, len) => decide (field q.arg0 28 24 < k) && decide (q.payload.length = if write then len else 0)
    | none => false

/-- A register of a thread, as its number. -/
def Thread.portReg (h : Thread) (file i : Nat) : Nat :=
  match file with
  | 0 => (h.sReg i).toNat
  | 1 => b2n (h.pReg i)
  | 2 => (h.vReg i).toNat
  | 3 => (h.td.get i).toNat
  | 4 => (h.md.get i).toNat
  | _ => (h.q.get i).toNat

/-- Write a register of a thread; writes to p0 are discarded (R85), and of the PC and state only the PC is written (DESIGN CHOICE,
log 59). -/
def Thread.setPortReg (file i v : Nat) (h : Thread) : Thread :=
  match file with
  | 0 => h.setS i (BitVec.ofNat 64 v)
  | 1 => h.setP i (v.testBit 0)
  | 2 => h.setV i (BitVec.ofNat 1024 v)
  | 3 => { h with td := h.td.set i (BitVec.ofNat 256 v) }
  | 4 => { h with md := h.md.set i (BitVec.ofNat 256 v) }
  | 5 => { h with q := h.q.set i (BitVec.ofNat 32 v) }
  | _ => { h with pc := BitVec.ofNat 16 v }

/-- RREG: NOT_HALTED unless the thread is in HALT (R397). -/
def execSdpRreg (q : SdpFrame) (s : State) : Out :=
  sdpServe q 0x20 (SdpFrame.regForm q s false) (sdpRight s q 1) (fun _ s =>
    let h := s.thread (field q.arg0 14 0) (field q.arg0 18 16)
    let file := field q.arg0 23 20
    if h.st ≠ .halt then sdpAnswer 6 [] s
    else if file = 6 then s.emit (.sdpPc h.pc.toNat h.st.code)
    else sdpAnswer 0 (leBytes ((sdpFile file).getD (0, 0)).2 (h.portReg file (field q.arg0 28 24))) s) s

/-- WREG. -/
def execSdpWreg (q : SdpFrame) (s : State) : Out :=
  sdpServe q 0x21 (SdpFrame.regForm q s true) (sdpRight s q 2) (fun _ s =>
    let l := field q.arg0 14 0
    let t := field q.arg0 18 16
    if (s.thread l t).st ≠ .halt then sdpAnswer 6 [] s
    else sdpAnswer 0 [] (s.modThread l t (Thread.setPortReg (field q.arg0 23 20) (field q.arg0 28 24) (leNat q.payload)))) s

/-! ### Memory -/

/-- The form of RMEM and WMEM (R398): LEN is the request's, a read's too (DEDUCED, log 60). -/
def SdpFrame.memForm (q : SdpFrame) (s : State) : Bool :=
  let len := q.payload.length
  decide (len ≠ 0) && decide (len % 8 = 0) && decide (q.arg0.toNat % 8 = 0) && decide (q.arg1.toNat < 4) &&
    match q.arg1.toNat with
    | 1 => decide (q.arg0.toNat < 2 ^ 48) && decide (field q.arg0 32 19 = 0) && sdpEmber s q (field q.arg0 47 33) &&
        decide (field q.arg0 18 0 + len ≤ 0x60000)
    | 2 => decide (q.arg0.toNat < 2 ^ 30)
    | 3 => decide (q.arg0.toNat < 2 ^ 48)
    | _ => false

/-- The right that an access needs: SCR, SHELF or DVA, for reading or writing. -/
def SdpFrame.memRight (q : SdpFrame) (s : State) (write : Bool) : Bool := sdpRight s q (2 * q.arg1.toNat + 1 + b2n write)

/-- The answer of a device-virtual access that the pages of its extent stop, the first page first, if one does (R243, R398); a protected
frame counts as a refusal. -/
def sdpPages (n a len : Nat) (write : Bool) (s : State) : Option (Nat × State) :=
  (extentPages a len).findSome? fun k => match (s.part n).translate (k * pageBytes) write with
    | .unmapped => some (3, s)
    | .readOnly => some (3, s)
    | .banked => some (7, s)
    | .frame f => if pageProtected s n f || frameProtected s n ((s.part n).liveFrame f) then some (3, denyCount n s) else none

/-- A parity mismatch met by the port (R78): counted, the read discarded, and a step abort started where an LC context runs (DEDUCED,
log 61). -/
def sdpParity (n l : Nat) (ds : List Nat) (s : State) : State :=
  let s := retireUnowned n (s.modEmber l (Ember.countParity ds))
  if (s.part n).inRun false then startAbort n 2 l none s else s

/-- RMEM: an access to an idle unit waits unanswered (R43). -/
def execSdpRmem (q : SdpFrame) (s : State) : Out :=
  sdpServe q 0x30 (SdpFrame.memForm q s) (SdpFrame.memRight q s false) (fun n s =>
    let len := q.payload.length
    let a := q.arg0.toNat
    match q.arg1.toNat with
    | 1 =>
      let l := field q.arg0 47 33
      let off := field q.arg0 18 0
      match (s.ember l).mismatches off len with
      | [] => sdpAnswer 0 ((s.ember l).scratch.read off len) s
      | ds => sdpAnswer 8 [] (sdpParity n l ds s)
    | 2 => if s.shelfBytes < a + len then sdpAnswer 3 [] s else if !shelfAwake s n a len then s else sdpAnswer 0 ((s.part n).mem.shelf.read a len) s
    | _ => match sdpPages n a len false s with
      | some (status, s) => sdpAnswer status [] s
      | none => if !extentAwake s n a len then s else match outsideRead n a len s with
        | (s, some bs) => sdpAnswer 0 bs s
        | (s, none) => sdpAnswer 8 [] s) s

/-- WMEM: a write into a code window is DENIED (R396), and one to a live input slot, which counts (R305); a first write that stalls waits unanswered (R298). -/
def execSdpWmem (q : SdpFrame) (s : State) : Out :=
  sdpServe q 0x31 (SdpFrame.memForm q s) (SdpFrame.memRight q s true) (fun n s =>
    let len := q.payload.length
    let a := q.arg0.toNat
    match q.arg1.toNat with
    | 1 =>
      let l := field q.arg0 47 33
      let off := field q.arg0 18 0
      if (s.ember l).hitsCode off len then sdpAnswer 3 [] s else sdpAnswer 0 [] (storeScratch l off q.payload s)
    | 2 =>
      if s.shelfBytes < a + len then sdpAnswer 3 [] s
      else if !shelfAwake s n a len then s
      else sdpAnswer 0 [] (s.modPart n fun p => { p with mem := { p.mem with shelf := p.mem.shelf.write a q.payload } })
    | _ => if meetsLive (s.part n) a len then sdpAnswer 3 [] (denyCount n s) else match sdpPages n a len true s with
      | some (status, s) => sdpAnswer status [] s
      | none => match outsideWait n a len s with
        | some w => w
        | none => match outsidePut n a q.payload s with
          | (s, true) => sdpAnswer 0 [] s
          | (s, false) => sdpAnswer 8 [] s) s

/-! ### The register map and the soot record -/

/-- The form of RCSR and WCSR. -/
def SdpFrame.csrForm (q : SdpFrame) (write : Bool) : Bool :=
  decide (q.arg0.toNat < 2 ^ 32) && decide (q.arg1 = 0) && decide (q.payload.length = if write then 4 else 0)

/-- RCSR: one register read. -/
def execSdpRcsr (q : SdpFrame) (s : State) : Out :=
  sdpServe q 0x40 (SdpFrame.csrForm q false) (bitAt (moduleRights s) 0) (fun _ s =>
    sdpAnswer 0 (leBytes 4 (if q.arg0.toNat % 4 = 0 then (regRead .sdp q.arg0.toNat s).toNat else 0)) s) s

/-- WCSR: one register write, as a privileged master. -/
def execSdpWcsr (q : SdpFrame) (s : State) : Out :=
  sdpServe q 0x41 (SdpFrame.csrForm q true) (bitAt (moduleRights s) 1) (fun _ s =>
    sdpAnswer 0 [] (regWrite .sdp q.arg0.toNat (BitVec.ofNat 32 (leNat q.payload)) s)) s

/-- RSOOT: soot record entries from an index up (R453). -/
def execSdpRsoot (q : SdpFrame) (s : State) : Out :=
  sdpServe q 0x50 (SdpFrame.bare q && decide (q.arg0.toNat < 2 ^ 14) && decide (1 ≤ q.arg1.toNat) && decide (q.arg1.toNat ≤ 128))
    (bitAt (moduleRights s) 2) (fun _ s =>
    sdpAnswer 0 ((List.range q.arg1.toNat).flatMap fun i => keyBytes (sootRead s (q.arg0.toNat + i))) s) s

end Sys2Proof.Machine
end

