-- ==== Sys2Proof/Machine/I3c.lean ====
section
/-! DEFINITION. The I3C management target (R425): its address, its commands and their answers. -/

namespace Sys2Proof.Machine

/-- The static address. -/
def i3cStatic : BitVec 7 := 0x5A

/-- A transfer addresses the target: by its dynamic address, or by the static one while it has none (PRESUMED, log 62). -/
def i3cNamed (s : State) (a : BitVec 7) : Bool := i3cUp s && decide (a = s.host.i3cAddr.getD i3cStatic)

/-- An answer is outstanding: the target refuses a private write (R425). -/
def i3cPending (s : State) : Bool := s.host.i3cAnswer.isSome || s.host.i3cBusy

/-- An answer is ready: STATUS, zero, LEN and the bytes; the in-band interrupt is raised. -/
def i3cAnswer (status : Nat) (bs : List Byte) (s : State) : State :=
  State.emit .i3cIbi { s with host := { s.host with
    i3cAnswer := some (leBytes 1 status ++ leBytes 1 0 ++ leBytes 2 bs.length ++ bs) } }

/-- The commands. -/
def i3cCmds : List Nat := [0x13, 0x14, 0x15, 0x30, 0x31]

/-- Serve a private write: refused while an answer is outstanding; FORMAT for an unknown command, a zero byte that is set or a wrong LEN
(DESIGN CHOICE, log 63). A write of another command is left to that command. -/
def i3cServe (w : I3cWrite) (cmd : Nat) (form : Bool) (act : State → State) (s : State) : Out :=
  .next (if !i3cNamed s w.addr || i3cPending s then s
    else if w.cmd.toNat ∉ i3cCmds then i3cAnswer 1 [] s
    else if w.cmd.toNat ≠ cmd then s
    else if decide (w.zero ≠ 0) || !form then i3cAnswer 1 [] s
    else act s)

/-- REPORT: refused with a status, else it waits for its signature, and before KEY_ID_READY for the keys (R379, R381). -/
def execI3cReport (w : I3cWrite) (s : State) : Out :=
  i3cServe w 0x14 (decide (w.payload.length = 32)) (fun s =>
    let code := reportRefused s
    if code ≠ 0 then i3cAnswer code [] s
    else
      let s := { s with host := { s.host with i3cBusy := true } }
      if s.keys.idReady then askReport none 0 w.payload s
      else { s with host := { s.host with i3cWait := some w.payload } }) s

/-- QUICK (R380). -/
def execI3cQuick (w : I3cWrite) (s : State) : Out :=
  i3cServe w 0x15 (decide (w.payload.length = 32)) (fun s =>
    match quickAnswer s w.payload with
    | some bs => i3cAnswer 0 bs s
    | none => i3cAnswer 0x0A [] s) s

/-- QUERY_CAP: first index and count, at most 32 entries. -/
def execI3cQueryCap (w : I3cWrite) (s : State) : Out :=
  i3cServe w 0x13 (decide (w.payload.length = 8) && decide (leAt w.payload 4 4 ≤ 32)) (fun s =>
    i3cAnswer 0 (capBytes s none (leAt w.payload 0 4) (leAt w.payload 4 4)) s) s

/-- RCSR: one register read. -/
def execI3cRcsr (w : I3cWrite) (s : State) : Out :=
  i3cServe w 0x30 (decide (w.payload.length = 4)) (fun s =>
    let a := leNat w.payload
    i3cAnswer 0 (leBytes 4 (if a % 4 = 0 then (regRead .i3c a s).toNat else 0)) s) s

/-- WCSR: one register write, as a privileged master. -/
def execI3cWcsr (w : I3cWrite) (s : State) : Out :=
  i3cServe w 0x31 (decide (w.payload.length = 8)) (fun s =>
    i3cAnswer 0 [] (regWrite .i3c (leAt w.payload 0 4) (BitVec.ofNat 32 (leAt w.payload 4 4)) s)) s

/-- I3C_DYNAMIC_ADDRESS: ENTDAA or SETDASA gives the target its address. -/
def execI3cDynamicAddress (a : BitVec 7) (s : State) : Out :=
  .next (if i3cUp s then { s with host := { s.host with i3cAddr := some a } } else s)

/-- I3C_PRIVATE_READ: the answer is returned and no longer outstanding. -/
def execI3cPrivateRead (a : BitVec 7) (s : State) : Out :=
  .next (match s.host.i3cAnswer with
  | some bs => if i3cNamed s a then State.emit (.i3cRead bs) { s with host := { s.host with i3cAnswer := none } } else s
  | none => s)

end Sys2Proof.Machine
end

