-- ==== Sys2Proof/Machine/Pcie.lean ====
section
/-! DEFINITION. The PCIe endpoint (R37, R38, R400 to R403, R406): configuration requests, resets, doorbells and the host aperture. -/

namespace Sys2Proof.Machine

/-! ### Configuration requests -/

/-- PCIE_CONFIG_REQUEST: Request Retry Status until HS BIST has passed (R37), in LIGHT_FAIL too, where Table 2.2 lets PF0 answer after a
PARITY or TIMEOUT failure whether or not it has (DESIGN CHOICE, log 81); then the functions of the layout answer, in LIGHT_FAIL PF0
alone (Table 2.2). An endpoint in reset or without power answers nothing. -/
def execPcieConfigRequest (f : FnId) (s : State) : Out :=
  .next (if !s.power.rails || !s.power.aoOn || s.power.tripped || !s.power.powerGood || !s.pins.perstN then s
    else if !s.power.hsBist then s.emit (.completion f.val 2 [])
    else if decide (f.val ≤ s.nParts) && (decide (s.power.light ≠ .lightFail) || decide (f.val = 0)) then s.emit (.completion f.val 0 [])
    else s.emit (.completion f.val 1 []))

/-! ### Resets -/

/-- The tenant of a partition is removed by a reset with the DETAIL of its record, where the partition holds one and no removal is under
way. -/
def resetTenant (n detail : Nat) (s : State) : State :=
  let p := s.part n
  if p.removing.isNone && (decide (p.adm.state ≠ .empty) || p.hasCtx) then removeTenantStart n detail none s else s

/-- Every partition of the layout in turn. -/
def eachPart (g : Nat → State → State) (s : State) : State := (List.range s.nParts).foldl (fun s n => g n s) s

/-- A fundamental or hot reset in READY (R38, R401, R437): every tenant and reservation goes, the damper images are discarded, and the
functions return to their reset values. -/
def endpointReset (s : State) : State :=
  let s := eachPart (resetTenant · 2) s
  let s := eachPart releaseReservation s
  let s := (List.range 5).foldl (fun s i => dmpDiscard i s) s
  { s with host := { s.host with fns := Tab.const hostFnFresh } }

/-- The staged layout is applied (R401). -/
def applyLayout (s : State) : State :=
  { s with host := { s.host with layout := s.host.layoutStage, layoutPend := false } }

/-- PERST_N_ASSERT: the endpoint is held in reset; in READY every tenant is removed (R38). -/
def execPerstNAssert (s : State) : Out :=
  .next (if !s.pins.perstN then s
    else
      let s := { s with pins := { s.pins with perstN := false }, host := { s.host with inReset := true } }
      if s.inService then endpointReset s else s)

/-- PERST_N_RELEASE: the endpoint leaves reset once HS BIST has passed; a layout staged in READY is applied, and BAR4 is present where
HOST_APER_EN was set (R37, R401, R402). -/
def execPerstNRelease (s : State) : Out :=
  .next (if s.pins.perstN then s
    else
      let s := { s with pins := { s.pins with perstN := true }
                        host := { s.host with inReset := !s.power.hsBist, aperActive := s.host.aperEn } }
      if s.inService then applyLayout s else s)

/-- HOT_RESET, received in READY (R401). -/
def execHotReset (s : State) : Out :=
  .next (if s.inService && !s.host.inReset then applyLayout (endpointReset s) else s)

/-- FUNCTION_LEVEL_RESET: a partition function's reset removes the tenant of its partition (R401, R422) and returns the function's
registers to their reset values. -/
def execFunctionLevelReset (f : FnId) (s : State) : Out :=
  .next (if !fnPresent s f.val then s
    else
      let s := if f.val = 0 then s else resetTenant (f.val - 1) 1 s
      s.modFn f.val fun _ => hostFnFresh)

/-! ### Doorbells -/

/-- The ring of a doorbell: a page and an offset of BAR2 (R406, Table 18.2). -/
def doorbellRing (s : State) (f off : Nat) : Option RingId :=
  let page := off / 4096
  let o := off % 4096
  let inUse (r : RingId) : Option RingId := match s.ring f r with
    | some g => if 4 ≤ g.k ∧ g.k ≤ 12 then some r else none
    | none => none
  if o = 0 ∧ page = (if f = 0 then 0 else 1024) then (if (s.host.fns.get f).adminEn then inUse .admin else none)
  else if f ≠ 0 ∧ page < 1024 ∧ o % 8 = 0 ∧ o / 8 < 16 then inUse (queueId page (o / 8))
  else none

/-- A doorbell write that is ignored is counted (R406). -/
def badDoorbell (f : Nat) (s : State) : State :=
  s.modFn f fun h => { h with dbBad := satAdd h.dbBad 1, dbOvf := h.dbOvf || satOvf h.dbBad 1 }

/-- Entries of a function's fetch buffer in use by a kind of ring: admin, LC queues, BE queues (R418). -/
def fetchUsed (s : State) (f : Nat) : RingId → Nat
  | .admin => (s.host.fns.get f).admin.fetched.length
  | .queue c _ =>
    let p := s.part (fnPart f)
    match p.ctx c.val with
    | none => 0
    | some x => p.ctxs.items.foldl (fun k e => match e.2.obj with
        | some y => if y.launch.be = x.launch.be then
            y.queues.items.foldl (fun k o => k + match o.2 with | some g => g.fetched.length | none => 0) k else k
        | none => k) 0

/-- The share of the fetch buffer of a kind of ring (R418). -/
def fetchShare (s : State) (f : Nat) : RingId → Nat
  | .admin => 64
  | .queue c _ => match (s.part (fnPart f)).ctx c.val with
    | some x => if x.launch.be then 64 else 128
    | none => 0

/-- The device fetches the entries between what it has fetched and the tail, in order, as far as the fetch buffer has room; while the
function's record store is full it fetches nothing (R406, R409, R418). `es` are the entries in host memory from there on. -/
def fetchEntries (f : Nat) (r : RingId) (es : List (BitVec 512)) (s : State) : State :=
  match s.ring f r with
  | none => s
  | some g =>
    let left := g.waiting - b2n g.busy.isSome - g.fetched.length
    let room := fetchShare s f r - fetchUsed s f r
    if 256 ≤ (s.host.fns.get f).held.length then s
    else s.modRing f r fun g => { g with fetched := g.fetched ++ (es.take (min left room)) }

/-- DOORBELL: a write of `v` of `size` bytes at an offset of BAR2 (R406); `entries` are the entries that the device then finds in host
memory. -/
def execDoorbell (f : FnId) (off : BitVec 23) (size : Nat) (v : Word) (entries : List (BitVec 512)) (s : State) : Out :=
  .next (if !fnPresent s f.val then s
    else match doorbellRing s f.val off.toNat with
    | none => badDoorbell f.val s
    | some r =>
      let k := match s.ring f.val r with | some g => g.k | none => 0
      let tail := field v 15 0
      if size ≠ 4 ∨ 2 ^ k ≤ tail then badDoorbell f.val s
      else fetchEntries f.val r entries (s.modRing f.val r fun g => { g with tail := tail }))

/-! ### Host aperture -/

/-- The refusal of a BAR4 access, in the order of R403: 4 Completer Abort, counted, or 1 Unsupported Request, with the state it leaves. A
write to a page with W = 0 is treated as one to an unmapped page (DESIGN CHOICE, log 64). -/
def bar4Refused (s : State) (n a len : Nat) (write : Bool) : Option (Nat × State) :=
  let p := s.part n
  let hit (q : Nat → Bool) : Bool := (extentPages a len).any q
  if decide (p.adm.state ≠ .empty) || hit (fun k => match p.translate (k * pageBytes) false with
      | .frame f => pageProtected s n f || frameProtected s n (p.liveFrame f)
      | _ => false) then some (4, denyCount n s)
  else if hit (fun k => decide (p.translate (k * pageBytes) write = .unmapped) || decide (p.translate (k * pageBytes) write = .readOnly)) then
    some (1, s)
  else none

/-- A function answers BAR4: it is a partition function of the layout, and BAR4 is present (R402). -/
def bar4Here (s : State) (n : Nat) : Bool := s.hasPart n && s.host.aperActive

/-- BAR4_READ (R229, R403): it completes with its bytes, once the hold has ended (R233), or with an error completion, and waits while a page is banked
or a stack wakes (R43). -/
def execBar4Read (n : PartId) (a : BitVec 36) (len : BitVec 13) (s : State) : Out :=
  let fn := n.val + 1
  .next (if !fnPresent s 0 then s
    else if !bar4Here s n.val then s.emit (.completion fn 1 [])
    else match bar4Refused s n.val a.toNat len.toNat false with
    | some (status, s) => s.emit (.completion fn status [])
    | none => match extentBanked (s.part n.val) a.toNat len.toNat with
      | k :: _ => askUnbank n.val k s
      | [] => if !extentAwake s n.val a.toNat len.toNat then s else match outsideRead n.val a.toNat len.toNat s with
        | (s, some bs) => holdOut n.val (.completion fn 0 bs) none s
        | (s, none) => s.emit (.completion fn 4 []))

/-- BAR4_WRITE (R403): it is made, refused, or held while a page is banked or a first write stalls; a write is posted, so one that is made
has no completion. -/
def execBar4Write (n : PartId) (a : BitVec 36) (bytes : List Byte) (s : State) : Out :=
  let fn := n.val + 1
  .next (if !fnPresent s 0 then s
    else if !bar4Here s n.val then s.emit (.completion fn 1 [])
    else match bar4Refused s n.val a.toNat bytes.length true with
    | some (status, s) => s.emit (.completion fn status [])
    | none => match extentBanked (s.part n.val) a.toNat bytes.length with
      | k :: _ => askUnbank n.val k s
      | [] => match outsideWait n.val a.toNat bytes.length s with
        | some w => w
        | none => (outsidePut n.val a.toNat bytes s).1)

end Sys2Proof.Machine
end

