-- ==== Sys2Proof/Machine/VectorUnit.lean ====
section
/-! DEFINITION. Vector instructions (R130 to R134), the sentinel's control (R135 to R137) and receive windows (R138). -/

namespace Sys2Proof.Machine

/-- The 32 lanes of a vector. -/
def lanesOf (v : BitVec 1024) : List Word := (List.range 32).map (lane v)

/-- A vector result sets VSAT and VNAN (Table 5.10, bits 4 and 5). -/
def vFlags (rs : List FpR) (h : Thread) : Thread :=
  { h with tsw := h.tsw ||| BitVec.ofNat 64 (16 * b2n (rs.any (·.sat)) + 32 * b2n (rs.any (·.nan))) }

/-- Issue a lane-by-lane instruction: `op` takes the lanes of RA, RB and RD (R130). -/
def issueV (major minor : Nat) (x : Site) (f : BitVec 52) (ok : Bool) (op : Word → Word → Word → FpR) (s : State) : State :=
  issue x (insnWord major minor f) f [] [] anyRoom (reserved (ok && decide (fLow f = 0)))
    (fun s =>
      let h := thrAt s x
      let a := h.vReg (fRa f)
      let b := h.vReg (fRb f)
      let d := h.vReg (fRd f)
      let rs := (List.range 32).map fun i => op (lane a i) (lane b i) (lane d i)
      .ok (modAt x (fun h => vFlags rs (h.setV (fRd f) (lanes (rs.map (·.w))))) s)) s

/-- VADD. -/
def execVadd (x : Site) (f : BitVec 52) (s : State) : Out := .next (issueV 0x30 0 x f true (fun a b _ => fpAdd a b) s)
/-- VSUB. -/
def execVsub (x : Site) (f : BitVec 52) (s : State) : Out := .next (issueV 0x30 1 x f true (fun a b _ => fpSub a b) s)
/-- VMUL. -/
def execVmul (x : Site) (f : BitVec 52) (s : State) : Out := .next (issueV 0x30 2 x f true (fun a b _ => fpMul a b) s)
/-- VFMA: va · vb + vd, one rounding. -/
def execVfma (x : Site) (f : BitVec 52) (s : State) : Out := .next (issueV 0x30 3 x f true fpFma s)
/-- VFMS: vd - va · vb, one rounding. -/
def execVfms (x : Site) (f : BitVec 52) (s : State) : Out :=
  .next (issueV 0x30 4 x f true (fun a b d => fpFma (fpNegW a) b d) s)
/-- VMAX. -/
def execVmax (x : Site) (f : BitVec 52) (s : State) : Out := .next (issueV 0x30 5 x f true (fun a b _ => fpMax a b) s)
/-- VMIN. -/
def execVmin (x : Site) (f : BitVec 52) (s : State) : Out := .next (issueV 0x30 6 x f true (fun a b _ => fpMin a b) s)
/-- VABS: RB zero. -/
def execVabs (x : Site) (f : BitVec 52) (s : State) : Out :=
  .next (issueV 0x30 7 x f (decide (fRb f = 0)) (fun a _ _ => fpAbs a) s)
/-- VMOV: RB zero. -/
def execVmov (x : Site) (f : BitVec 52) (s : State) : Out :=
  .next (issueV 0x30 8 x f (decide (fRb f = 0)) (fun a _ _ => fpPass a) s)
/-- VEXP (R132). -/
def execVexp (x : Site) (f : BitVec 52) (s : State) : Out :=
  .next (issueV 0x31 0 x f (decide (fRb f = 0)) (fun a _ _ => fpExp a) s)
/-- VRSQ (R132). -/
def execVrsq (x : Site) (f : BitVec 52) (s : State) : Out :=
  .next (issueV 0x31 1 x f (decide (fRb f = 0)) (fun a _ _ => fpRsqrt a) s)
/-- VRCP (R132). -/
def execVrcp (x : Site) (f : BitVec 52) (s : State) : Out :=
  .next (issueV 0x31 2 x f (decide (fRb f = 0)) (fun a _ _ => fpRecip a) s)

/-! ### Vector loads and stores (R133) -/

/-- The pieces of a vector access: form 0 ROW, 1 PAIR, 2 SLAB. -/
def vecPieces (form off : Nat) : List (Nat × Nat) :=
  match form with
  | 0 => [(off, 64)]
  | 1 => [(off, 64), (off + 512, 64)]
  | _ => (List.range 16).map fun r => (off + 64 * r, 8)

/-- The alignment of a vector access. -/
def vecAligned (form off : Nat) : Bool :=
  match form with
  | 0 => decide (off % 64 = 0)
  | 1 => decide (off % 64 = 0) && decide (off % 1024 ≤ 448)
  | _ => decide (off % 8 = 0) && decide (off % 1024 < 64)

/-- The checks of a vector access: MISALIGNED, SCRATCH_BOUNDS (R63), CODE_WRITE (R87). -/
def vecCheck (m : Ember) (be : Bool) (form : Nat) (a : DWord) (write : Bool) : Option Nat :=
  let ps := vecPieces form a.toNat
  if !vecAligned form a.toNat then some excMisaligned
  else if ps.any fun p => !m.inRange be p.1 p.2 then some excScratchBounds
  else if write && ps.any (fun p => m.hitsCode p.1 p.2) then some excCodeWrite
  else none

/-- Issue a VLD: form 0 ROW, 1 PAIR, 2 SLAB. -/
def issueVld (form : Nat) (x : Site) (f : BitVec 52) (strike : List Nat) (s : State) : State :=
  issue x (insnWord 0x32 form f) f [fRa f] [] anyRoom none
    (fun s =>
      let a := (thrAt s x).sReg (fRa f) + fImm f
      match vecCheck (s.ember x.e.val) (beAt s x) form a false with
      | some c => .exc c a
      | none =>
        let s := s.modEmber x.e.val (Ember.strike strike)
        let m := s.ember x.e.val
        let ps := vecPieces form a.toNat
        let bad := sortNat (ps.flatMap fun p => m.mismatches p.1 p.2)
        if !bad.isEmpty then parityEff x bad s
        else .ok (modAt x (Thread.setV (fRd f)
          (BitVec.ofNat 1024 (leNat (ps.flatMap fun p => m.scratch.read p.1 p.2)))) s)) s

/-- VLD.ROW. -/
def execVldRow (x : Site) (f : BitVec 52) (strike : List Nat) (s : State) : Out := .next (issueVld 0 x f strike s)
/-- VLD.PAIR. -/
def execVldPair (x : Site) (f : BitVec 52) (strike : List Nat) (s : State) : Out := .next (issueVld 1 x f strike s)
/-- VLD.SLAB. -/
def execVldSlab (x : Site) (f : BitVec 52) (strike : List Nat) (s : State) : Out := .next (issueVld 2 x f strike s)

/-- Store a vector's bytes piece by piece. -/
def putPieces (l : Nat) : List (Nat × Nat) → List Byte → State → State
  | [], _, s => s
  | (off, n) :: ps, bs, s => putPieces l ps (bs.drop n) (storeScratch l off (bs.take n) s)

/-- Issue a VST: form 0 ROW, 1 PAIR, 2 SLAB. -/
def issueVst (form : Nat) (x : Site) (f : BitVec 52) (s : State) : State :=
  issue x (insnWord 0x32 (4 + form) f) f [fRa f] [] anyRoom none
    (fun s =>
      let h := thrAt s x
      let a := h.sReg (fRa f) + fImm f
      match vecCheck (s.ember x.e.val) (beAt s x) form a true with
      | some c => .exc c a
      | none => .ok (putPieces x.e.val (vecPieces form a.toNat) (leBytes 128 (h.vReg (fRd f)).toNat) s)) s

/-- VST.ROW. -/
def execVstRow (x : Site) (f : BitVec 52) (s : State) : Out := .next (issueVst 0 x f s)
/-- VST.PAIR. -/
def execVstPair (x : Site) (f : BitVec 52) (s : State) : Out := .next (issueVst 1 x f s)
/-- VST.SLAB. -/
def execVstSlab (x : Site) (f : BitVec 52) (s : State) : Out := .next (issueVst 2 x f s)

/-! ### Lane movement and reduction (R134) -/

/-- VBC: RA[31:0] to every lane. -/
def execVbc (x : Site) (f : BitVec 52) (s : State) : Out :=
  .next (issue x (insnWord 0x33 0 f) f [fRa f] [] anyRoom (reserved (decide (fRb f = 0) && decide (fLow f = 0)))
    (fun s => let h := thrAt s x
      .ok (modAt x (Thread.setV (fRd f) (lanes (List.replicate 32 ((h.sReg (fRa f)).setWidth 32)))) s)) s)

/-- VGET: lane RB[4:0] of RA, zero-extended; RB[63:5] must be zero. -/
def execVget (x : Site) (f : BitVec 52) (s : State) : Out :=
  .next (issue x (insnWord 0x33 1 f) f [fRd f, fRb f] [] anyRoom (reserved (decide (fLow f = 0)))
    (fun s => let h := thrAt s x
      let i := (h.sReg (fRb f)).toNat
      if 32 ≤ i then .exc excReservedField 0
      else .ok (modAt x (Thread.setS (fRd f) ((lane (h.vReg (fRa f)) i).setWidth 64)) s)) s)

/-- A reduction of the 32 lanes in the pairwise tree; the result in lane 0. -/
def issueReduce (minor : Nat) (x : Site) (f : BitVec 52) (op : Word → Word → FpR) (s : State) : State :=
  issue x (insnWord 0x33 minor f) f [] [] anyRoom (reserved (decide (fRb f = 0) && decide (fLow f = 0)))
    (fun s =>
      let r := laneTree op 5 (lanesOf ((thrAt s x).vReg (fRa f))) false false
      .ok (modAt x (fun h => vFlags [r] (h.setV (fRd f) (lanes [r.w]))) s)) s

/-- VRSUM. -/
def execVrsum (x : Site) (f : BitVec 52) (s : State) : Out := .next (issueReduce 2 x f fpAdd s)
/-- VRMAX. -/
def execVrmax (x : Site) (f : BitVec 52) (s : State) : Out := .next (issueReduce 3 x f fpMax s)

/-! ### Sentinel control (R135 to R137) -/

/-- SNTCFG: n in IMM[4:0], drift in IMM[5]; the setting waits for the next boundary (R135). -/
def execSntcfg (x : Site) (f : BitVec 52) (s : State) : Out :=
  .next (issue x (insnWord 0x36 0 f) f [] [] anyRoom
    (reserved (decide (fRd f = 0) && decide (fRa f = 0) && decide (fImmU f < 64)))
    (fun s =>
      let n := fImmU f % 32
      if 6 ≤ n ∧ n ≤ 16 then
        .ok (modAt x (fun h => { h with snt := { h.snt with staged := some (n, decide (32 ≤ fImmU f)) } }) s)
      else .exc excSentConfig 0) s)

/-- SNTRD (R136). -/
def execSntrd (x : Site) (f : BitVec 52) (s : State) : Out :=
  .next (issue x (insnWord 0x36 1 f) f [fRd f, fRa f] [] anyRoom (reserved (decide (fRb f = 0) && decide (fLow f = 0)))
    (fun s =>
      let h := thrAt s x
      let out (v : DWord) : Eff := .ok (modAt x (Thread.setS (fRd f) v) s)
      match (h.sReg (fRa f)).toNat % 8 with
      | 0 => out (BitVec.ofNat 64 (h.snt.n + 32 * b2n h.snt.drift))
      | 1 => out h.snt.sampled
      | 2 => out ((s.ember x.e.val).sentMiss.setWidth 64)
      | 3 => out h.snt.driftCnt
      | 4 => out (h.snt.driftMax.setWidth 64)
      | _ => .exc excSentConfig 0) s)

/-- SNTSHD: RA and RB name brick-aligned scratch offsets (R137). -/
def execSntshd (x : Site) (f : BitVec 52) (s : State) : Out :=
  .next (issue x (insnWord 0x36 2 f) f [fRa f, fRb f] [] anyRoom (reserved (decide (fRd f = 0) && decide (fLow f = 0)))
    (fun s =>
      let h := thrAt s x
      let a := (h.sReg (fRa f)).toNat
      let b := (h.sReg (fRb f)).toNat
      if a % 1024 ≠ 0 then .exc excMisaligned (h.sReg (fRa f))
      else if b % 1024 ≠ 0 then .exc excMisaligned (h.sReg (fRb f))
      else .ok (modAt x (fun h => { h with snt := { h.snt with shadow := some (a / 1024, b / 1024) } }) s)) s)

/-! ### Receive windows -/

/-- FWIN: window RD[3:0]; RA holds base, length and tally (R138). -/
def execFwin (x : Site) (f : BitVec 52) (s : State) : Out :=
  .next (issue x (insnWord 0x38 2 f) f [fRa f] [] anyRoom
    (reserved (decide (fRd f < 16) && decide (fRb f = 0) && decide (fLow f = 0)))
    (fun s =>
      let v := (thrAt s x).sReg (fRa f)
      let base := field v 18 0
      let len := field v 37 19
      let m := s.ember x.e.val
      if field v 63 42 ≠ 0 then .exc excReservedField 0
      else if base % 8 ≠ 0 ∨ len % 8 ≠ 0 then .exc excMisaligned (BitVec.ofNat 64 base)
      else if len ≠ 0 ∧ !m.inRange (beAt s x) base len then .exc excScratchBounds (BitVec.ofNat 64 base)
      else if len ≠ 0 ∧ m.hitsCode base len then .exc excCodeWrite (BitVec.ofNat 64 base)
      else .ok (modAt x (fun h => { h with win := h.win.set (fRd f) { base := base, len := len, tally := field v 41 38 } }) s)) s)

end Sys2Proof.Machine
end

