-- ==== Sys2Proof/Machine/Dispatch.lean ====
section
/-! DEFINITION. The dispatch: one arm per command, each a direct call of its meaning. -/

namespace Sys2Proof.Machine

def exec (i : Instr) (s : State) : Host.Outcome State Fault Refusal :=
  match i with
  | .powerGood => Sys2Proof.Machine.execPowerGood s
  | .aoUpDone => Sys2Proof.Machine.execAoUpDone s
  | .otpReadDone => Sys2Proof.Machine.execOtpReadDone s
  | .repairDone => Sys2Proof.Machine.execRepairDone s
  | .hsBistDone pass => Sys2Proof.Machine.execHsBistDone pass s
  | .selftestDone pass => Sys2Proof.Machine.execSelftestDone pass s
  | .computeBistDone failing => Sys2Proof.Machine.execComputeBistDone failing s
  | .hbmTrainDone ok => Sys2Proof.Machine.execHbmTrainDone ok s
  | .readyEntry => Sys2Proof.Machine.execReadyEntry s
  | .lightTimeout => Sys2Proof.Machine.execLightTimeout s
  | .configParityCheck bad part => Sys2Proof.Machine.execConfigParityCheck bad part s
  | .perstNAssert => Sys2Proof.Machine.execPerstNAssert s
  | .perstNRelease => Sys2Proof.Machine.execPerstNRelease s
  | .hotReset => Sys2Proof.Machine.execHotReset s
  | .functionLevelReset f => Sys2Proof.Machine.execFunctionLevelReset f s
  | .pcieConfigRequest f => Sys2Proof.Machine.execPcieConfigRequest f s
  | .thermSample temps => Sys2Proof.Machine.execThermSample temps s
  | .thermTripFlashOff => Sys2Proof.Machine.execThermTripFlashOff s
  | .inputSample vin => Sys2Proof.Machine.execInputSample vin s
  | .holdupSample ms => Sys2Proof.Machine.execHoldupSample ms s
  | .powerAverage watts => Sys2Proof.Machine.execPowerAverage watts s
  | .draughtQuiescent => Sys2Proof.Machine.execDraughtQuiescent s
  | .draughtChangeDone => Sys2Proof.Machine.execDraughtChangeDone s
  | .unitIdle u => Sys2Proof.Machine.execUnitIdle u s
  | .unitWake u => Sys2Proof.Machine.execUnitWake u s
  | .fetchLineFill site strike => Sys2Proof.Machine.execFetchLineFill site strike s
  | .beTileSuspend ember => Sys2Proof.Machine.execBeTileSuspend ember s
  | .beMoverPause ember mv k flips => Sys2Proof.Machine.execBeMoverPause ember mv k flips s
  | .tileDispatch ember upset => Sys2Proof.Machine.execTileDispatch ember upset s
  | .tileComplete ember strike => Sys2Proof.Machine.execTileComplete ember strike s
  | .tqntComplete ember strike => Sys2Proof.Machine.execTqntComplete ember strike s
  | .sentinelVerdict ember => Sys2Proof.Machine.execSentinelVerdict ember s
  | .moverDispatch ember mv => Sys2Proof.Machine.execMoverDispatch ember mv s
  | .moverComplete ember mv strike flips => Sys2Proof.Machine.execMoverComplete ember mv strike flips s
  | .remWriteDone ember mv strike flips => Sys2Proof.Machine.execRemWriteDone ember mv strike flips s
  | .remAck ember mv => Sys2Proof.Machine.execRemAck ember mv s
  | .spareCopyDone ember => Sys2Proof.Machine.execSpareCopyDone ember s
  | .embRetireReq ember => Sys2Proof.Machine.execEmbRetireReq ember s
  | .nop site op f => Sys2Proof.Machine.execNop site op f s
  | .endThread site f => Sys2Proof.Machine.execEndThread site f s
  | .brk site f => Sys2Proof.Machine.execBrk site f s
  | .tid site f => Sys2Proof.Machine.execTid site f s
  | .stepb site f => Sys2Proof.Machine.execStepb site f s
  | .add site imm f => Sys2Proof.Machine.execAdd site imm f s
  | .sub site imm f => Sys2Proof.Machine.execSub site imm f s
  | .andOp site imm f => Sys2Proof.Machine.execAndOp site imm f s
  | .orOp site imm f => Sys2Proof.Machine.execOrOp site imm f s
  | .xorOp site imm f => Sys2Proof.Machine.execXorOp site imm f s
  | .andn site imm f => Sys2Proof.Machine.execAndn site imm f s
  | .shl site imm f => Sys2Proof.Machine.execShl site imm f s
  | .shr site imm f => Sys2Proof.Machine.execShr site imm f s
  | .sra site imm f => Sys2Proof.Machine.execSra site imm f s
  | .minOp site imm f => Sys2Proof.Machine.execMinOp site imm f s
  | .maxOp site imm f => Sys2Proof.Machine.execMaxOp site imm f s
  | .minu site imm f => Sys2Proof.Machine.execMinu site imm f s
  | .maxu site imm f => Sys2Proof.Machine.execMaxu site imm f s
  | .popc site f => Sys2Proof.Machine.execPopc site f s
  | .clz site f => Sys2Proof.Machine.execClz site f s
  | .movhi site f => Sys2Proof.Machine.execMovhi site f s
  | .movi site f => Sys2Proof.Machine.execMovi site f s
  | .mul site f => Sys2Proof.Machine.execMul site f s
  | .mulh site f => Sys2Proof.Machine.execMulh site f s
  | .mulhu site f => Sys2Proof.Machine.execMulhu site f s
  | .div site f => Sys2Proof.Machine.execDiv site f s
  | .divu site f => Sys2Proof.Machine.execDivu site f s
  | .remOp site f => Sys2Proof.Machine.execRemOp site f s
  | .remu site f => Sys2Proof.Machine.execRemu site f s
  | .cmp site rel f => Sys2Proof.Machine.execCmp site rel f s
  | .cmpi site rel f => Sys2Proof.Machine.execCmpi site rel f s
  | .pand site f => Sys2Proof.Machine.execPand site f s
  | .por site f => Sys2Proof.Machine.execPor site f s
  | .pxor site f => Sys2Proof.Machine.execPxor site f s
  | .pandn site f => Sys2Proof.Machine.execPandn site f s
  | .pnz site f => Sys2Proof.Machine.execPnz site f s
  | .pget site f => Sys2Proof.Machine.execPget site f s
  | .br site f => Sys2Proof.Machine.execBr site f s
  | .brl site f => Sys2Proof.Machine.execBrl site f s
  | .jr site f => Sys2Proof.Machine.execJr site f s
  | .jrl site f => Sys2Proof.Machine.execJrl site f s
  | .lds site minor f strike => Sys2Proof.Machine.execLds site minor f strike s
  | .sts site minor f strike => Sys2Proof.Machine.execSts site minor f strike s
  | .atom site minor f strike => Sys2Proof.Machine.execAtom site minor f strike s
  | .ldv site minor f flips => Sys2Proof.Machine.execLdv site minor f flips s
  | .ldvAnswer site ix => Sys2Proof.Machine.execLdvAnswer site ix s
  | .stv site minor f flips => Sys2Proof.Machine.execStv site minor f flips s
  | .stvAccept site => Sys2Proof.Machine.execStvAccept site s
  | .fenceV site f => Sys2Proof.Machine.execFenceV site f s
  | .tset site f => Sys2Proof.Machine.execTset site f s
  | .tseti site f => Sys2Proof.Machine.execTseti site f s
  | .tadd site f => Sys2Proof.Machine.execTadd site f s
  | .trd site f => Sys2Proof.Machine.execTrd site f s
  | .twait site f => Sys2Proof.Machine.execTwait site f s
  | .twaiti site f => Sys2Proof.Machine.execTwaiti site f s
  | .bare site f => Sys2Proof.Machine.execBare site f s
  | .barp site f => Sys2Proof.Machine.execBarp site f s
  | .barpRelease n be ix => Sys2Proof.Machine.execBarpRelease n be ix s
  | .semsig site f => Sys2Proof.Machine.execSemsig site f s
  | .semwait site f => Sys2Proof.Machine.execSemwait site f s
  | .semrd site f => Sys2Proof.Machine.execSemrd site f s
  | .dld site f strike => Sys2Proof.Machine.execDld site f strike s
  | .dst site f => Sys2Proof.Machine.execDst site f s
  | .dsetw site f => Sys2Proof.Machine.execDsetw site f s
  | .dgetw site f => Sys2Proof.Machine.execDgetw site f s
  | .moveDesc site mv f => Sys2Proof.Machine.execMoveDesc site mv f s
  | .mvq site f => Sys2Proof.Machine.execMvq site f s
  | .allocH site f => Sys2Proof.Machine.execAllocH site f s
  | .allocS site f => Sys2Proof.Machine.execAllocS site f s
  | .freeBlock site f => Sys2Proof.Machine.execFreeBlock site f s
  | .heapAnswer n => Sys2Proof.Machine.execHeapAnswer n s
  | .caprd site f => Sys2Proof.Machine.execCaprd site f s
  | .stepBoundary n => Sys2Proof.Machine.execStepBoundary n s
  | .tmmaStart site tb ta f => Sys2Proof.Machine.execTmmaStart site tb ta f s
  | .tmmaContinue site tb ta f => Sys2Proof.Machine.execTmmaContinue site tb ta f s
  | .tmmaFinish site tb ta f => Sys2Proof.Machine.execTmmaFinish site tb ta f s
  | .tmmaSingle site tb ta f => Sys2Proof.Machine.execTmmaSingle site tb ta f s
  | .tqnt site rot recipe f => Sys2Proof.Machine.execTqnt site rot recipe f s
  | .tstatMax site f => Sys2Proof.Machine.execTstatMax site f s
  | .tstatSexp site f => Sys2Proof.Machine.execTstatSexp site f s
  | .tstatSsq site f => Sys2Proof.Machine.execTstatSsq site f s
  | .tstatSum site f => Sys2Proof.Machine.execTstatSum site f s
  | .tstatMean site f => Sys2Proof.Machine.execTstatMean site f s
  | .tstatCnt site f => Sys2Proof.Machine.execTstatCnt site f s
  | .tstatS site f => Sys2Proof.Machine.execTstatS site f s
  | .tstatClr site f => Sys2Proof.Machine.execTstatClr site f s
  | .tstatClrs site f => Sys2Proof.Machine.execTstatClrs site f s
  | .sctrd site f => Sys2Proof.Machine.execSctrd site f s
  | .vadd site f => Sys2Proof.Machine.execVadd site f s
  | .vsub site f => Sys2Proof.Machine.execVsub site f s
  | .vmul site f => Sys2Proof.Machine.execVmul site f s
  | .vfma site f => Sys2Proof.Machine.execVfma site f s
  | .vfms site f => Sys2Proof.Machine.execVfms site f s
  | .vmax site f => Sys2Proof.Machine.execVmax site f s
  | .vmin site f => Sys2Proof.Machine.execVmin site f s
  | .vabs site f => Sys2Proof.Machine.execVabs site f s
  | .vmov site f => Sys2Proof.Machine.execVmov site f s
  | .vexp site f => Sys2Proof.Machine.execVexp site f s
  | .vrsq site f => Sys2Proof.Machine.execVrsq site f s
  | .vrcp site f => Sys2Proof.Machine.execVrcp site f s
  | .vldRow site f strike => Sys2Proof.Machine.execVldRow site f strike s
  | .vldPair site f strike => Sys2Proof.Machine.execVldPair site f strike s
  | .vldSlab site f strike => Sys2Proof.Machine.execVldSlab site f strike s
  | .vstRow site f => Sys2Proof.Machine.execVstRow site f s
  | .vstPair site f => Sys2Proof.Machine.execVstPair site f s
  | .vstSlab site f => Sys2Proof.Machine.execVstSlab site f s
  | .vbc site f => Sys2Proof.Machine.execVbc site f s
  | .vget site f => Sys2Proof.Machine.execVget site f s
  | .vrsum site f => Sys2Proof.Machine.execVrsum site f s
  | .vrmax site f => Sys2Proof.Machine.execVrmax site f s
  | .sntcfg site f => Sys2Proof.Machine.execSntcfg site f s
  | .sntrd site f => Sys2Proof.Machine.execSntrd site f s
  | .sntshd site f => Sys2Proof.Machine.execSntshd site f s
  | .fsend site mv f => Sys2Proof.Machine.execFsend site mv f s
  | .fwin site f => Sys2Proof.Machine.execFwin site f s
  | .dtredAll site f => Sys2Proof.Machine.execDtredAll site f s
  | .dtredRs site f => Sys2Proof.Machine.execDtredRs site f s
  | .dtbc site f => Sys2Proof.Machine.execDtbc site f s
  | .dtbar site f => Sys2Proof.Machine.execDtbar site f s
  | .ringstep site f => Sys2Proof.Machine.execRingstep site f s
  | .collectiveComplete site grp strike flips => Sys2Proof.Machine.execCollectiveComplete site grp strike flips s
  | .beScaleFix n => Sys2Proof.Machine.execBeScaleFix n s
  | .contribReport n => Sys2Proof.Machine.execContribReport n s
  | .stepDeadline n => Sys2Proof.Machine.execStepDeadline n s
  | .steprecFrame n us => Sys2Proof.Machine.execSteprecFrame n us s
  | .dropmarkFrame n => Sys2Proof.Machine.execDropmarkFrame n s
  | .bankOutDone n page => Sys2Proof.Machine.execBankOutDone n page s
  | .unbankStart n => Sys2Proof.Machine.execUnbankStart n s
  | .unbankDone n page ns flips => Sys2Proof.Machine.execUnbankDone n page ns flips s
  | .tagVerdict n => Sys2Proof.Machine.execTagVerdict n s
  | .outboundHoldRelease => Sys2Proof.Machine.execOutboundHoldRelease s
  | .rwcThreshold n frame die => Sys2Proof.Machine.execRwcThreshold n frame die s
  | .sweepEpochRequest n first last => Sys2Proof.Machine.execSweepEpochRequest n first last s
  | .sweepKeyRequest n => Sys2Proof.Machine.execSweepKeyRequest n s
  | .sweepQueuedStart => Sys2Proof.Machine.execSweepQueuedStart s
  | .sweepWindowStep slot die flips ns => Sys2Proof.Machine.execSweepWindowStep slot die flips ns s
  | .sweepResume slot die => Sys2Proof.Machine.execSweepResume slot die s
  | .flueEnSet flue => Sys2Proof.Machine.execFlueEnSet flue s
  | .flueEnClear flue => Sys2Proof.Machine.execFlueEnClear flue s
  | .flueDetectDone flue => Sys2Proof.Machine.execFlueDetectDone flue s
  | .flueTrainDone flue => Sys2Proof.Machine.execFlueTrainDone flue s
  | .flueAlignDone flue => Sys2Proof.Machine.execFlueAlignDone flue s
  | .flueInitDone flue => Sys2Proof.Machine.execFlueInitDone flue s
  | .fpxFrame flue => Sys2Proof.Machine.execFpxFrame flue s
  | .flueBringupTimeout flue => Sys2Proof.Machine.execFlueBringupTimeout flue s
  | .laneLockLoss flue lane => Sys2Proof.Machine.execLaneLockLoss flue lane s
  | .laneErrorInterval flue symbols corr uncorr => Sys2Proof.Machine.execLaneErrorInterval flue symbols corr uncorr s
  | .laneFrame flue => Sys2Proof.Machine.execLaneFrame flue s
  | .widthFrame flue => Sys2Proof.Machine.execWidthFrame flue s
  | .flueRetrainDone flue => Sys2Proof.Machine.execFlueRetrainDone flue s
  | .flitGroupReceive flue g => Sys2Proof.Machine.execFlitGroupReceive flue g s
  | .nakRepeat flue => Sys2Proof.Machine.execNakRepeat flue s
  | .idleAckSend flue => Sys2Proof.Machine.execIdleAckSend flue s
  | .groupTransmit flue => Sys2Proof.Machine.execGroupTransmit flue s
  | .dataFrame n => Sys2Proof.Machine.execDataFrame n s
  | .dackFrame n => Sys2Proof.Machine.execDackFrame n s
  | .collFrame n => Sys2Proof.Machine.execCollFrame n s
  | .ringReadyFrame n => Sys2Proof.Machine.execRingReadyFrame n s
  | .ringDataFrame n => Sys2Proof.Machine.execRingDataFrame n s
  | .ringAckFrame n => Sys2Proof.Machine.execRingAckFrame n s
  | .heartbeatSend n => Sys2Proof.Machine.execHeartbeatSend n s
  | .heartbeatFrame n => Sys2Proof.Machine.execHeartbeatFrame n s
  | .heartbeatTimeout n member => Sys2Proof.Machine.execHeartbeatTimeout n member s
  | .openFrame n => Sys2Proof.Machine.execOpenFrame n s
  | .refuseFrame n => Sys2Proof.Machine.execRefuseFrame n s
  | .freezeFrame n => Sys2Proof.Machine.execFreezeFrame n s
  | .stokerFrame n => Sys2Proof.Machine.execStokerFrame n s
  | .flueUnquar flue sel => Sys2Proof.Machine.execFlueUnquar flue sel s
  | .heldFrameDeliver n => Sys2Proof.Machine.execHeldFrameDeliver n s
  | .routeUpdate n => Sys2Proof.Machine.execRouteUpdate n s
  | .wpunitFrame n => Sys2Proof.Machine.execWpunitFrame n s
  | .sealFrame n => Sys2Proof.Machine.execSealFrame n s
  | .cowCopyDone n flips => Sys2Proof.Machine.execCowCopyDone n flips s
  | .mirrorFrame n => Sys2Proof.Machine.execMirrorFrame n s
  | .lossFrame n => Sys2Proof.Machine.execLossFrame n s
  | .rfreezeFrame n => Sys2Proof.Machine.execRfreezeFrame n s
  | .adoptFrame n => Sys2Proof.Machine.execAdoptFrame n s
  | .adoptContextReady n => Sys2Proof.Machine.execAdoptContextReady n s
  | .rebuildDone n flips => Sys2Proof.Machine.execRebuildDone n flips s
  | .resumeFrame n => Sys2Proof.Machine.execResumeFrame n s
  | .withdrawFrame n => Sys2Proof.Machine.execWithdrawFrame n s
  | .rlHandback n => Sys2Proof.Machine.execRlHandback n s
  | .pwrWarn samples => Sys2Proof.Machine.execPwrWarn s samples
  | .ckReq n => Sys2Proof.Machine.execCkReq n s
  | .ckptAnnounce n => Sys2Proof.Machine.execCkptAnnounce n s
  | .shardCopyDone n stripe => Sys2Proof.Machine.execShardCopyDone n stripe s
  | .ckrepShard n => Sys2Proof.Machine.execCkrepShard n s
  | .ckptManifest n stripes => Sys2Proof.Machine.execCkptManifest n stripes s
  | .ckrepCommitted n => Sys2Proof.Machine.execCkrepCommitted n s
  | .ckrepAvail n => Sys2Proof.Machine.execCkrepAvail n s
  | .ckptRestore n => Sys2Proof.Machine.execCkptRestore n s
  | .ksLoadDone free => Sys2Proof.Machine.execKsLoadDone free s
  | .journalSectorProgrammed => Sys2Proof.Machine.execJournalSectorProgrammed s
  | .slotWriteDone slot stripe => Sys2Proof.Machine.execSlotWriteDone slot stripe s
  | .stripeProgramFail stripe channel slot => Sys2Proof.Machine.execStripeProgramFail stripe channel slot s
  | .ksCompact => Sys2Proof.Machine.execKsCompact s
  | .ksCompactDone => Sys2Proof.Machine.execKsCompactDone s
  | .ksFormat => Sys2Proof.Machine.execKsFormat s
  | .exportDone n flips => Sys2Proof.Machine.execExportDone n s flips
  | .entropySample ok => Sys2Proof.Machine.execEntropySample ok s
  | .maskRefresh => Sys2Proof.Machine.execMaskRefresh s
  | .mkGo m part => Sys2Proof.Machine.execMkGo m part s
  | .keyIdReady => Sys2Proof.Machine.execKeyIdReady s
  | .reportSigned => Sys2Proof.Machine.execReportSigned s
  | .lcGo m target => Sys2Proof.Machine.execLcGo m target s
  | .otpBurnDone => Sys2Proof.Machine.execOtpBurnDone s
  | .returnEraseDone => Sys2Proof.Machine.execReturnEraseDone s
  | .sdpSelRise => Sys2Proof.Machine.execSdpSelRise s
  | .sdpInfo q => Sys2Proof.Machine.execSdpInfo q s
  | .sdpNonce q => Sys2Proof.Machine.execSdpNonce q s
  | .sdpOpen q => Sys2Proof.Machine.execSdpOpen q s
  | .sdpClose q => Sys2Proof.Machine.execSdpClose q s
  | .sdpHalt q => Sys2Proof.Machine.execSdpHalt q s
  | .sdpResume q => Sys2Proof.Machine.execSdpResume q s
  | .sdpStep q => Sys2Proof.Machine.execSdpStep q s
  | .sdpBkpt q => Sys2Proof.Machine.execSdpBkpt q s
  | .sdpRreg q => Sys2Proof.Machine.execSdpRreg q s
  | .sdpWreg q => Sys2Proof.Machine.execSdpWreg q s
  | .sdpRmem q => Sys2Proof.Machine.execSdpRmem q s
  | .sdpWmem q => Sys2Proof.Machine.execSdpWmem q s
  | .sdpRcsr q => Sys2Proof.Machine.execSdpRcsr q s
  | .sdpWcsr q => Sys2Proof.Machine.execSdpWcsr q s
  | .sdpRsoot q => Sys2Proof.Machine.execSdpRsoot q s
  | .debugSessionExpire => Sys2Proof.Machine.execDebugSessionExpire s
  | .doorbell f off size v entries => Sys2Proof.Machine.execDoorbell f off size v entries s
  | .charterCmd c => Sys2Proof.Machine.execCharterCmd c s
  | .capsuleCmd c => Sys2Proof.Machine.execCapsuleCmd c s
  | .createCtx c => Sys2Proof.Machine.execCreateCtx c s
  | .destroyCtx c => Sys2Proof.Machine.execDestroyCtx c s
  | .createQ c => Sys2Proof.Machine.execCreateQ c s
  | .destroyQ c => Sys2Proof.Machine.execDestroyQ c s
  | .createMobj c => Sys2Proof.Machine.execCreateMobj c s
  | .freeMobj c => Sys2Proof.Machine.execFreeMobj c s
  | .mobjRelease n ix => Sys2Proof.Machine.execMobjRelease n ix s
  | .mapPages c => Sys2Proof.Machine.execMapPages c s
  | .unmapPages c => Sys2Proof.Machine.execUnmapPages c s
  | .bankOut c => Sys2Proof.Machine.execBankOut c s
  | .poolCmd c => Sys2Proof.Machine.execPoolCmd c s
  | .createEvt c => Sys2Proof.Machine.execCreateEvt c s
  | .destroyEvt c => Sys2Proof.Machine.execDestroyEvt c s
  | .killOwner c => Sys2Proof.Machine.execKillOwner c s
  | .importCmd c => Sys2Proof.Machine.execImportCmd c s
  | .exportCmd c => Sys2Proof.Machine.execExportCmd c s
  | .queryCtx c => Sys2Proof.Machine.execQueryCtx c s
  | .queryCap c => Sys2Proof.Machine.execQueryCap c s
  | .reportCmd c => Sys2Proof.Machine.execReportCmd c s
  | .quickCmd c => Sys2Proof.Machine.execQuickCmd c s
  | .ideSetup c => Sys2Proof.Machine.execIdeSetup c s
  | .removeTenant c => Sys2Proof.Machine.execRemoveTenant c s
  | .tenantRemovalDone n => Sys2Proof.Machine.execTenantRemovalDone n s
  | .startCtx c => Sys2Proof.Machine.execStartCtx c s
  | .startGrant n c q => Sys2Proof.Machine.execStartGrant n c q s
  | .signalEvent c => Sys2Proof.Machine.execSignalEvent c s
  | .waitEvent c => Sys2Proof.Machine.execWaitEvent c s
  | .queueSemsig c => Sys2Proof.Machine.execQueueSemsig c s
  | .queueSemwait c => Sys2Proof.Machine.execQueueSemwait c s
  | .queueWrite c => Sys2Proof.Machine.execQueueWrite c s
  | .bar4Read n a len => Sys2Proof.Machine.execBar4Read n a len s
  | .bar4Write n a bytes => Sys2Proof.Machine.execBar4Write n a bytes s
  | .hostRecHead m f v => Sys2Proof.Machine.execHostRecHead m f v s
  | .i3cReport w => Sys2Proof.Machine.execI3cReport w s
  | .i3cQuick w => Sys2Proof.Machine.execI3cQuick w s
  | .i3cQueryCap w => Sys2Proof.Machine.execI3cQueryCap w s
  | .i3cRcsr w => Sys2Proof.Machine.execI3cRcsr w s
  | .i3cWcsr w => Sys2Proof.Machine.execI3cWcsr w s
  | .registerWrite m a v whole => Sys2Proof.Machine.execRegisterWrite m a v whole s
  | .dmpData m v => Sys2Proof.Machine.execDmpData m v s
  | .dmpCommit m ix => Sys2Proof.Machine.execDmpCommit m ix s
  | .dmpAbort m ix => Sys2Proof.Machine.execDmpAbort m ix s
  | .damperApply ix => Sys2Proof.Machine.execDamperApply ix s
  | .damperTimeout ix => Sys2Proof.Machine.execDamperTimeout ix s
  | .mbxSel m v => Sys2Proof.Machine.execMbxSel m v s
  | .revote k => Sys2Proof.Machine.execRevote k s
  | .sootEntryWrite torn => Sys2Proof.Machine.execSootEntryWrite torn s
  | .sootMinute => Sys2Proof.Machine.execSootMinute s
  | .meterWrite => Sys2Proof.Machine.execMeterWrite s
  | .cvCtrl m u v => Sys2Proof.Machine.execCvCtrl m u v s
  | .cvFeed8 m u v => Sys2Proof.Machine.execCvFeed8 m u v s
  | .cvFeed16 m u v => Sys2Proof.Machine.execCvFeed16 m u v s
  | .cvFeed32 m u v => Sys2Proof.Machine.execCvFeed32 m u v s
  | .healthWindow => Sys2Proof.Machine.execHealthWindow s
  | .slowdownInterval n e w => Sys2Proof.Machine.execSlowdownInterval n e w s
  | .abortRequestRetry n => Sys2Proof.Machine.execAbortRequestRetry n s
  | .abortRequest n => Sys2Proof.Machine.execAbortRequest n s
  | .abortFrame n => Sys2Proof.Machine.execAbortFrame n s
  | .pwrWarnDeassert => Sys2Proof.Machine.execPwrWarnDeassert s
  | .fluePresenceChange flue high => Sys2Proof.Machine.execFluePresenceChange flue high s
  | .i3cDynamicAddress addr => Sys2Proof.Machine.execI3cDynamicAddress addr s
  | .i3cPrivateRead addr => Sys2Proof.Machine.execI3cPrivateRead addr s
  | .alwaysOnRailDropOut => Sys2Proof.Machine.execAlwaysOnRailDropOut s
  | .checkpointRequest n => Sys2Proof.Machine.execCheckpointRequest n s
  | .quarantineReport n => Sys2Proof.Machine.execQuarantineReport n s
  | .parityHolderReport n => Sys2Proof.Machine.execParityHolderReport n s
  | .freezeRelease n us => Sys2Proof.Machine.execFreezeRelease n us s
  | .stripeEraseDone stripe => Sys2Proof.Machine.execStripeEraseDone stripe s
  | .restoreUnitsWritten n flips => Sys2Proof.Machine.execRestoreUnitsWritten n s flips

end Sys2Proof.Machine
end

