-- ==== Sys2Proof/Laws/Exec.lean ====
section
/-! SUPPORT. The meaning of every command, one lemma each, so that a proof never takes apart the dispatch. -/

set_option linter.all false

namespace Sys2Proof.Machine

@[simp] theorem exec_powerGood (s) : exec .powerGood s = execPowerGood s := rfl
@[simp] theorem exec_aoUpDone (s) : exec .aoUpDone s = execAoUpDone s := rfl
@[simp] theorem exec_otpReadDone (s) : exec .otpReadDone s = execOtpReadDone s := rfl
@[simp] theorem exec_repairDone (s) : exec .repairDone s = execRepairDone s := rfl
@[simp] theorem exec_hsBistDone (pass s) : exec (.hsBistDone pass) s = execHsBistDone pass s := rfl
@[simp] theorem exec_selftestDone (pass s) : exec (.selftestDone pass) s = execSelftestDone pass s := rfl
@[simp] theorem exec_computeBistDone (failing s) : exec (.computeBistDone failing) s = execComputeBistDone failing s := rfl
@[simp] theorem exec_hbmTrainDone (ok s) : exec (.hbmTrainDone ok) s = execHbmTrainDone ok s := rfl
@[simp] theorem exec_readyEntry (s) : exec .readyEntry s = execReadyEntry s := rfl
@[simp] theorem exec_lightTimeout (s) : exec .lightTimeout s = execLightTimeout s := rfl
@[simp] theorem exec_configParityCheck (bad part s) : exec (.configParityCheck bad part) s = execConfigParityCheck bad part s := rfl
@[simp] theorem exec_perstNAssert (s) : exec .perstNAssert s = execPerstNAssert s := rfl
@[simp] theorem exec_perstNRelease (s) : exec .perstNRelease s = execPerstNRelease s := rfl
@[simp] theorem exec_hotReset (s) : exec .hotReset s = execHotReset s := rfl
@[simp] theorem exec_functionLevelReset (f s) : exec (.functionLevelReset f) s = execFunctionLevelReset f s := rfl
@[simp] theorem exec_pcieConfigRequest (f s) : exec (.pcieConfigRequest f) s = execPcieConfigRequest f s := rfl
@[simp] theorem exec_thermSample (temps s) : exec (.thermSample temps) s = execThermSample temps s := rfl
@[simp] theorem exec_thermTripFlashOff (s) : exec .thermTripFlashOff s = execThermTripFlashOff s := rfl
@[simp] theorem exec_inputSample (vin s) : exec (.inputSample vin) s = execInputSample vin s := rfl
@[simp] theorem exec_holdupSample (ms s) : exec (.holdupSample ms) s = execHoldupSample ms s := rfl
@[simp] theorem exec_powerAverage (watts s) : exec (.powerAverage watts) s = execPowerAverage watts s := rfl
@[simp] theorem exec_draughtQuiescent (s) : exec .draughtQuiescent s = execDraughtQuiescent s := rfl
@[simp] theorem exec_draughtChangeDone (s) : exec .draughtChangeDone s = execDraughtChangeDone s := rfl
@[simp] theorem exec_unitIdle (u s) : exec (.unitIdle u) s = execUnitIdle u s := rfl
@[simp] theorem exec_unitWake (u s) : exec (.unitWake u) s = execUnitWake u s := rfl
@[simp] theorem exec_fetchLineFill (site strike s) : exec (.fetchLineFill site strike) s = execFetchLineFill site strike s := rfl
@[simp] theorem exec_beTileSuspend (ember s) : exec (.beTileSuspend ember) s = execBeTileSuspend ember s := rfl
@[simp] theorem exec_beMoverPause (ember mv k flips s) : exec (.beMoverPause ember mv k flips) s = execBeMoverPause ember mv k flips s := rfl
@[simp] theorem exec_tileDispatch (ember upset s) : exec (.tileDispatch ember upset) s = execTileDispatch ember upset s := rfl
@[simp] theorem exec_tileComplete (ember strike s) : exec (.tileComplete ember strike) s = execTileComplete ember strike s := rfl
@[simp] theorem exec_tqntComplete (ember strike s) : exec (.tqntComplete ember strike) s = execTqntComplete ember strike s := rfl
@[simp] theorem exec_sentinelVerdict (ember s) : exec (.sentinelVerdict ember) s = execSentinelVerdict ember s := rfl
@[simp] theorem exec_moverDispatch (ember mv s) : exec (.moverDispatch ember mv) s = execMoverDispatch ember mv s := rfl
@[simp] theorem exec_moverComplete (ember mv strike flips s) : exec (.moverComplete ember mv strike flips) s = execMoverComplete ember mv strike flips s := rfl
@[simp] theorem exec_remWriteDone (ember mv strike flips s) : exec (.remWriteDone ember mv strike flips) s = execRemWriteDone ember mv strike flips s := rfl
@[simp] theorem exec_remAck (ember mv s) : exec (.remAck ember mv) s = execRemAck ember mv s := rfl
@[simp] theorem exec_spareCopyDone (ember s) : exec (.spareCopyDone ember) s = execSpareCopyDone ember s := rfl
@[simp] theorem exec_embRetireReq (ember s) : exec (.embRetireReq ember) s = execEmbRetireReq ember s := rfl
@[simp] theorem exec_nop (site op f s) : exec (.nop site op f) s = execNop site op f s := rfl
@[simp] theorem exec_endThread (site f s) : exec (.endThread site f) s = execEndThread site f s := rfl
@[simp] theorem exec_brk (site f s) : exec (.brk site f) s = execBrk site f s := rfl
@[simp] theorem exec_tid (site f s) : exec (.tid site f) s = execTid site f s := rfl
@[simp] theorem exec_stepb (site f s) : exec (.stepb site f) s = execStepb site f s := rfl
@[simp] theorem exec_add (site imm f s) : exec (.add site imm f) s = execAdd site imm f s := rfl
@[simp] theorem exec_sub (site imm f s) : exec (.sub site imm f) s = execSub site imm f s := rfl
@[simp] theorem exec_andOp (site imm f s) : exec (.andOp site imm f) s = execAndOp site imm f s := rfl
@[simp] theorem exec_orOp (site imm f s) : exec (.orOp site imm f) s = execOrOp site imm f s := rfl
@[simp] theorem exec_xorOp (site imm f s) : exec (.xorOp site imm f) s = execXorOp site imm f s := rfl
@[simp] theorem exec_andn (site imm f s) : exec (.andn site imm f) s = execAndn site imm f s := rfl
@[simp] theorem exec_shl (site imm f s) : exec (.shl site imm f) s = execShl site imm f s := rfl
@[simp] theorem exec_shr (site imm f s) : exec (.shr site imm f) s = execShr site imm f s := rfl
@[simp] theorem exec_sra (site imm f s) : exec (.sra site imm f) s = execSra site imm f s := rfl
@[simp] theorem exec_minOp (site imm f s) : exec (.minOp site imm f) s = execMinOp site imm f s := rfl
@[simp] theorem exec_maxOp (site imm f s) : exec (.maxOp site imm f) s = execMaxOp site imm f s := rfl
@[simp] theorem exec_minu (site imm f s) : exec (.minu site imm f) s = execMinu site imm f s := rfl
@[simp] theorem exec_maxu (site imm f s) : exec (.maxu site imm f) s = execMaxu site imm f s := rfl
@[simp] theorem exec_popc (site f s) : exec (.popc site f) s = execPopc site f s := rfl
@[simp] theorem exec_clz (site f s) : exec (.clz site f) s = execClz site f s := rfl
@[simp] theorem exec_movhi (site f s) : exec (.movhi site f) s = execMovhi site f s := rfl
@[simp] theorem exec_movi (site f s) : exec (.movi site f) s = execMovi site f s := rfl
@[simp] theorem exec_mul (site f s) : exec (.mul site f) s = execMul site f s := rfl
@[simp] theorem exec_mulh (site f s) : exec (.mulh site f) s = execMulh site f s := rfl
@[simp] theorem exec_mulhu (site f s) : exec (.mulhu site f) s = execMulhu site f s := rfl
@[simp] theorem exec_div (site f s) : exec (.div site f) s = execDiv site f s := rfl
@[simp] theorem exec_divu (site f s) : exec (.divu site f) s = execDivu site f s := rfl
@[simp] theorem exec_remOp (site f s) : exec (.remOp site f) s = execRemOp site f s := rfl
@[simp] theorem exec_remu (site f s) : exec (.remu site f) s = execRemu site f s := rfl
@[simp] theorem exec_cmp (site rel f s) : exec (.cmp site rel f) s = execCmp site rel f s := rfl
@[simp] theorem exec_cmpi (site rel f s) : exec (.cmpi site rel f) s = execCmpi site rel f s := rfl
@[simp] theorem exec_pand (site f s) : exec (.pand site f) s = execPand site f s := rfl
@[simp] theorem exec_por (site f s) : exec (.por site f) s = execPor site f s := rfl
@[simp] theorem exec_pxor (site f s) : exec (.pxor site f) s = execPxor site f s := rfl
@[simp] theorem exec_pandn (site f s) : exec (.pandn site f) s = execPandn site f s := rfl
@[simp] theorem exec_pnz (site f s) : exec (.pnz site f) s = execPnz site f s := rfl
@[simp] theorem exec_pget (site f s) : exec (.pget site f) s = execPget site f s := rfl
@[simp] theorem exec_br (site f s) : exec (.br site f) s = execBr site f s := rfl
@[simp] theorem exec_brl (site f s) : exec (.brl site f) s = execBrl site f s := rfl
@[simp] theorem exec_jr (site f s) : exec (.jr site f) s = execJr site f s := rfl
@[simp] theorem exec_jrl (site f s) : exec (.jrl site f) s = execJrl site f s := rfl
@[simp] theorem exec_lds (site minor f strike s) : exec (.lds site minor f strike) s = execLds site minor f strike s := rfl
@[simp] theorem exec_sts (site minor f strike s) : exec (.sts site minor f strike) s = execSts site minor f strike s := rfl
@[simp] theorem exec_atom (site minor f strike s) : exec (.atom site minor f strike) s = execAtom site minor f strike s := rfl
@[simp] theorem exec_ldv (site minor f flips s) : exec (.ldv site minor f flips) s = execLdv site minor f flips s := rfl
@[simp] theorem exec_ldvAnswer (site ix s) : exec (.ldvAnswer site ix) s = execLdvAnswer site ix s := rfl
@[simp] theorem exec_stv (site minor f flips s) : exec (.stv site minor f flips) s = execStv site minor f flips s := rfl
@[simp] theorem exec_stvAccept (site s) : exec (.stvAccept site) s = execStvAccept site s := rfl
@[simp] theorem exec_fenceV (site f s) : exec (.fenceV site f) s = execFenceV site f s := rfl
@[simp] theorem exec_tset (site f s) : exec (.tset site f) s = execTset site f s := rfl
@[simp] theorem exec_tseti (site f s) : exec (.tseti site f) s = execTseti site f s := rfl
@[simp] theorem exec_tadd (site f s) : exec (.tadd site f) s = execTadd site f s := rfl
@[simp] theorem exec_trd (site f s) : exec (.trd site f) s = execTrd site f s := rfl
@[simp] theorem exec_twait (site f s) : exec (.twait site f) s = execTwait site f s := rfl
@[simp] theorem exec_twaiti (site f s) : exec (.twaiti site f) s = execTwaiti site f s := rfl
@[simp] theorem exec_bare (site f s) : exec (.bare site f) s = execBare site f s := rfl
@[simp] theorem exec_barp (site f s) : exec (.barp site f) s = execBarp site f s := rfl
@[simp] theorem exec_barpRelease (n be ix s) : exec (.barpRelease n be ix) s = execBarpRelease n be ix s := rfl
@[simp] theorem exec_semsig (site f s) : exec (.semsig site f) s = execSemsig site f s := rfl
@[simp] theorem exec_semwait (site f s) : exec (.semwait site f) s = execSemwait site f s := rfl
@[simp] theorem exec_semrd (site f s) : exec (.semrd site f) s = execSemrd site f s := rfl
@[simp] theorem exec_dld (site f strike s) : exec (.dld site f strike) s = execDld site f strike s := rfl
@[simp] theorem exec_dst (site f s) : exec (.dst site f) s = execDst site f s := rfl
@[simp] theorem exec_dsetw (site f s) : exec (.dsetw site f) s = execDsetw site f s := rfl
@[simp] theorem exec_dgetw (site f s) : exec (.dgetw site f) s = execDgetw site f s := rfl
@[simp] theorem exec_moveDesc (site mv f s) : exec (.moveDesc site mv f) s = execMoveDesc site mv f s := rfl
@[simp] theorem exec_mvq (site f s) : exec (.mvq site f) s = execMvq site f s := rfl
@[simp] theorem exec_allocH (site f s) : exec (.allocH site f) s = execAllocH site f s := rfl
@[simp] theorem exec_allocS (site f s) : exec (.allocS site f) s = execAllocS site f s := rfl
@[simp] theorem exec_freeBlock (site f s) : exec (.freeBlock site f) s = execFreeBlock site f s := rfl
@[simp] theorem exec_heapAnswer (n s) : exec (.heapAnswer n) s = execHeapAnswer n s := rfl
@[simp] theorem exec_caprd (site f s) : exec (.caprd site f) s = execCaprd site f s := rfl
@[simp] theorem exec_stepBoundary (n s) : exec (.stepBoundary n) s = execStepBoundary n s := rfl
@[simp] theorem exec_tmmaStart (site tb ta f s) : exec (.tmmaStart site tb ta f) s = execTmmaStart site tb ta f s := rfl
@[simp] theorem exec_tmmaContinue (site tb ta f s) : exec (.tmmaContinue site tb ta f) s = execTmmaContinue site tb ta f s := rfl
@[simp] theorem exec_tmmaFinish (site tb ta f s) : exec (.tmmaFinish site tb ta f) s = execTmmaFinish site tb ta f s := rfl
@[simp] theorem exec_tmmaSingle (site tb ta f s) : exec (.tmmaSingle site tb ta f) s = execTmmaSingle site tb ta f s := rfl
@[simp] theorem exec_tqnt (site rot recipe f s) : exec (.tqnt site rot recipe f) s = execTqnt site rot recipe f s := rfl
@[simp] theorem exec_tstatMax (site f s) : exec (.tstatMax site f) s = execTstatMax site f s := rfl
@[simp] theorem exec_tstatSexp (site f s) : exec (.tstatSexp site f) s = execTstatSexp site f s := rfl
@[simp] theorem exec_tstatSsq (site f s) : exec (.tstatSsq site f) s = execTstatSsq site f s := rfl
@[simp] theorem exec_tstatSum (site f s) : exec (.tstatSum site f) s = execTstatSum site f s := rfl
@[simp] theorem exec_tstatMean (site f s) : exec (.tstatMean site f) s = execTstatMean site f s := rfl
@[simp] theorem exec_tstatCnt (site f s) : exec (.tstatCnt site f) s = execTstatCnt site f s := rfl
@[simp] theorem exec_tstatS (site f s) : exec (.tstatS site f) s = execTstatS site f s := rfl
@[simp] theorem exec_tstatClr (site f s) : exec (.tstatClr site f) s = execTstatClr site f s := rfl
@[simp] theorem exec_tstatClrs (site f s) : exec (.tstatClrs site f) s = execTstatClrs site f s := rfl
@[simp] theorem exec_sctrd (site f s) : exec (.sctrd site f) s = execSctrd site f s := rfl
@[simp] theorem exec_vadd (site f s) : exec (.vadd site f) s = execVadd site f s := rfl
@[simp] theorem exec_vsub (site f s) : exec (.vsub site f) s = execVsub site f s := rfl
@[simp] theorem exec_vmul (site f s) : exec (.vmul site f) s = execVmul site f s := rfl
@[simp] theorem exec_vfma (site f s) : exec (.vfma site f) s = execVfma site f s := rfl
@[simp] theorem exec_vfms (site f s) : exec (.vfms site f) s = execVfms site f s := rfl
@[simp] theorem exec_vmax (site f s) : exec (.vmax site f) s = execVmax site f s := rfl
@[simp] theorem exec_vmin (site f s) : exec (.vmin site f) s = execVmin site f s := rfl
@[simp] theorem exec_vabs (site f s) : exec (.vabs site f) s = execVabs site f s := rfl
@[simp] theorem exec_vmov (site f s) : exec (.vmov site f) s = execVmov site f s := rfl
@[simp] theorem exec_vexp (site f s) : exec (.vexp site f) s = execVexp site f s := rfl
@[simp] theorem exec_vrsq (site f s) : exec (.vrsq site f) s = execVrsq site f s := rfl
@[simp] theorem exec_vrcp (site f s) : exec (.vrcp site f) s = execVrcp site f s := rfl
@[simp] theorem exec_vldRow (site f strike s) : exec (.vldRow site f strike) s = execVldRow site f strike s := rfl
@[simp] theorem exec_vldPair (site f strike s) : exec (.vldPair site f strike) s = execVldPair site f strike s := rfl
@[simp] theorem exec_vldSlab (site f strike s) : exec (.vldSlab site f strike) s = execVldSlab site f strike s := rfl
@[simp] theorem exec_vstRow (site f s) : exec (.vstRow site f) s = execVstRow site f s := rfl
@[simp] theorem exec_vstPair (site f s) : exec (.vstPair site f) s = execVstPair site f s := rfl
@[simp] theorem exec_vstSlab (site f s) : exec (.vstSlab site f) s = execVstSlab site f s := rfl
@[simp] theorem exec_vbc (site f s) : exec (.vbc site f) s = execVbc site f s := rfl
@[simp] theorem exec_vget (site f s) : exec (.vget site f) s = execVget site f s := rfl
@[simp] theorem exec_vrsum (site f s) : exec (.vrsum site f) s = execVrsum site f s := rfl
@[simp] theorem exec_vrmax (site f s) : exec (.vrmax site f) s = execVrmax site f s := rfl
@[simp] theorem exec_sntcfg (site f s) : exec (.sntcfg site f) s = execSntcfg site f s := rfl
@[simp] theorem exec_sntrd (site f s) : exec (.sntrd site f) s = execSntrd site f s := rfl
@[simp] theorem exec_sntshd (site f s) : exec (.sntshd site f) s = execSntshd site f s := rfl
@[simp] theorem exec_fsend (site mv f s) : exec (.fsend site mv f) s = execFsend site mv f s := rfl
@[simp] theorem exec_fwin (site f s) : exec (.fwin site f) s = execFwin site f s := rfl
@[simp] theorem exec_dtredAll (site f s) : exec (.dtredAll site f) s = execDtredAll site f s := rfl
@[simp] theorem exec_dtredRs (site f s) : exec (.dtredRs site f) s = execDtredRs site f s := rfl
@[simp] theorem exec_dtbc (site f s) : exec (.dtbc site f) s = execDtbc site f s := rfl
@[simp] theorem exec_dtbar (site f s) : exec (.dtbar site f) s = execDtbar site f s := rfl
@[simp] theorem exec_ringstep (site f s) : exec (.ringstep site f) s = execRingstep site f s := rfl
@[simp] theorem exec_collectiveComplete (site grp strike flips s) : exec (.collectiveComplete site grp strike flips) s = execCollectiveComplete site grp strike flips s := rfl
@[simp] theorem exec_beScaleFix (n s) : exec (.beScaleFix n) s = execBeScaleFix n s := rfl
@[simp] theorem exec_contribReport (n s) : exec (.contribReport n) s = execContribReport n s := rfl
@[simp] theorem exec_stepDeadline (n s) : exec (.stepDeadline n) s = execStepDeadline n s := rfl
@[simp] theorem exec_steprecFrame (n us s) : exec (.steprecFrame n us) s = execSteprecFrame n us s := rfl
@[simp] theorem exec_dropmarkFrame (n s) : exec (.dropmarkFrame n) s = execDropmarkFrame n s := rfl
@[simp] theorem exec_bankOutDone (n page s) : exec (.bankOutDone n page) s = execBankOutDone n page s := rfl
@[simp] theorem exec_unbankStart (n s) : exec (.unbankStart n) s = execUnbankStart n s := rfl
@[simp] theorem exec_unbankDone (n page ns flips s) : exec (.unbankDone n page ns flips) s = execUnbankDone n page ns flips s := rfl
@[simp] theorem exec_tagVerdict (n s) : exec (.tagVerdict n) s = execTagVerdict n s := rfl
@[simp] theorem exec_outboundHoldRelease (s) : exec .outboundHoldRelease s = execOutboundHoldRelease s := rfl
@[simp] theorem exec_rwcThreshold (n frame die s) : exec (.rwcThreshold n frame die) s = execRwcThreshold n frame die s := rfl
@[simp] theorem exec_sweepEpochRequest (n first last s) : exec (.sweepEpochRequest n first last) s = execSweepEpochRequest n first last s := rfl
@[simp] theorem exec_sweepKeyRequest (n s) : exec (.sweepKeyRequest n) s = execSweepKeyRequest n s := rfl
@[simp] theorem exec_sweepQueuedStart (s) : exec .sweepQueuedStart s = execSweepQueuedStart s := rfl
@[simp] theorem exec_sweepWindowStep (slot die flips ns s) : exec (.sweepWindowStep slot die flips ns) s = execSweepWindowStep slot die flips ns s := rfl
@[simp] theorem exec_sweepResume (slot die s) : exec (.sweepResume slot die) s = execSweepResume slot die s := rfl
@[simp] theorem exec_flueEnSet (flue s) : exec (.flueEnSet flue) s = execFlueEnSet flue s := rfl
@[simp] theorem exec_flueEnClear (flue s) : exec (.flueEnClear flue) s = execFlueEnClear flue s := rfl
@[simp] theorem exec_flueDetectDone (flue s) : exec (.flueDetectDone flue) s = execFlueDetectDone flue s := rfl
@[simp] theorem exec_flueTrainDone (flue s) : exec (.flueTrainDone flue) s = execFlueTrainDone flue s := rfl
@[simp] theorem exec_flueAlignDone (flue s) : exec (.flueAlignDone flue) s = execFlueAlignDone flue s := rfl
@[simp] theorem exec_flueInitDone (flue s) : exec (.flueInitDone flue) s = execFlueInitDone flue s := rfl
@[simp] theorem exec_fpxFrame (flue s) : exec (.fpxFrame flue) s = execFpxFrame flue s := rfl
@[simp] theorem exec_flueBringupTimeout (flue s) : exec (.flueBringupTimeout flue) s = execFlueBringupTimeout flue s := rfl
@[simp] theorem exec_laneLockLoss (flue lane s) : exec (.laneLockLoss flue lane) s = execLaneLockLoss flue lane s := rfl
@[simp] theorem exec_laneErrorInterval (flue symbols corr uncorr s) : exec (.laneErrorInterval flue symbols corr uncorr) s = execLaneErrorInterval flue symbols corr uncorr s := rfl
@[simp] theorem exec_laneFrame (flue s) : exec (.laneFrame flue) s = execLaneFrame flue s := rfl
@[simp] theorem exec_widthFrame (flue s) : exec (.widthFrame flue) s = execWidthFrame flue s := rfl
@[simp] theorem exec_flueRetrainDone (flue s) : exec (.flueRetrainDone flue) s = execFlueRetrainDone flue s := rfl
@[simp] theorem exec_flitGroupReceive (flue g s) : exec (.flitGroupReceive flue g) s = execFlitGroupReceive flue g s := rfl
@[simp] theorem exec_nakRepeat (flue s) : exec (.nakRepeat flue) s = execNakRepeat flue s := rfl
@[simp] theorem exec_idleAckSend (flue s) : exec (.idleAckSend flue) s = execIdleAckSend flue s := rfl
@[simp] theorem exec_groupTransmit (flue s) : exec (.groupTransmit flue) s = execGroupTransmit flue s := rfl
@[simp] theorem exec_dataFrame (n s) : exec (.dataFrame n) s = execDataFrame n s := rfl
@[simp] theorem exec_dackFrame (n s) : exec (.dackFrame n) s = execDackFrame n s := rfl
@[simp] theorem exec_collFrame (n s) : exec (.collFrame n) s = execCollFrame n s := rfl
@[simp] theorem exec_ringReadyFrame (n s) : exec (.ringReadyFrame n) s = execRingReadyFrame n s := rfl
@[simp] theorem exec_ringDataFrame (n s) : exec (.ringDataFrame n) s = execRingDataFrame n s := rfl
@[simp] theorem exec_ringAckFrame (n s) : exec (.ringAckFrame n) s = execRingAckFrame n s := rfl
@[simp] theorem exec_heartbeatSend (n s) : exec (.heartbeatSend n) s = execHeartbeatSend n s := rfl
@[simp] theorem exec_heartbeatFrame (n s) : exec (.heartbeatFrame n) s = execHeartbeatFrame n s := rfl
@[simp] theorem exec_heartbeatTimeout (n member s) : exec (.heartbeatTimeout n member) s = execHeartbeatTimeout n member s := rfl
@[simp] theorem exec_openFrame (n s) : exec (.openFrame n) s = execOpenFrame n s := rfl
@[simp] theorem exec_refuseFrame (n s) : exec (.refuseFrame n) s = execRefuseFrame n s := rfl
@[simp] theorem exec_freezeFrame (n s) : exec (.freezeFrame n) s = execFreezeFrame n s := rfl
@[simp] theorem exec_stokerFrame (n s) : exec (.stokerFrame n) s = execStokerFrame n s := rfl
@[simp] theorem exec_flueUnquar (flue sel s) : exec (.flueUnquar flue sel) s = execFlueUnquar flue sel s := rfl
@[simp] theorem exec_heldFrameDeliver (n s) : exec (.heldFrameDeliver n) s = execHeldFrameDeliver n s := rfl
@[simp] theorem exec_routeUpdate (n s) : exec (.routeUpdate n) s = execRouteUpdate n s := rfl
@[simp] theorem exec_wpunitFrame (n s) : exec (.wpunitFrame n) s = execWpunitFrame n s := rfl
@[simp] theorem exec_sealFrame (n s) : exec (.sealFrame n) s = execSealFrame n s := rfl
@[simp] theorem exec_cowCopyDone (n flips s) : exec (.cowCopyDone n flips) s = execCowCopyDone n flips s := rfl
@[simp] theorem exec_mirrorFrame (n s) : exec (.mirrorFrame n) s = execMirrorFrame n s := rfl
@[simp] theorem exec_lossFrame (n s) : exec (.lossFrame n) s = execLossFrame n s := rfl
@[simp] theorem exec_rfreezeFrame (n s) : exec (.rfreezeFrame n) s = execRfreezeFrame n s := rfl
@[simp] theorem exec_adoptFrame (n s) : exec (.adoptFrame n) s = execAdoptFrame n s := rfl
@[simp] theorem exec_adoptContextReady (n s) : exec (.adoptContextReady n) s = execAdoptContextReady n s := rfl
@[simp] theorem exec_rebuildDone (n flips s) : exec (.rebuildDone n flips) s = execRebuildDone n flips s := rfl
@[simp] theorem exec_resumeFrame (n s) : exec (.resumeFrame n) s = execResumeFrame n s := rfl
@[simp] theorem exec_withdrawFrame (n s) : exec (.withdrawFrame n) s = execWithdrawFrame n s := rfl
@[simp] theorem exec_rlHandback (n s) : exec (.rlHandback n) s = execRlHandback n s := rfl
@[simp] theorem exec_pwrWarn (samples s) : exec (.pwrWarn samples) s = execPwrWarn s samples := rfl
@[simp] theorem exec_ckReq (n s) : exec (.ckReq n) s = execCkReq n s := rfl
@[simp] theorem exec_ckptAnnounce (n s) : exec (.ckptAnnounce n) s = execCkptAnnounce n s := rfl
@[simp] theorem exec_shardCopyDone (n stripe s) : exec (.shardCopyDone n stripe) s = execShardCopyDone n stripe s := rfl
@[simp] theorem exec_ckrepShard (n s) : exec (.ckrepShard n) s = execCkrepShard n s := rfl
@[simp] theorem exec_ckptManifest (n stripes s) : exec (.ckptManifest n stripes) s = execCkptManifest n stripes s := rfl
@[simp] theorem exec_ckrepCommitted (n s) : exec (.ckrepCommitted n) s = execCkrepCommitted n s := rfl
@[simp] theorem exec_ckrepAvail (n s) : exec (.ckrepAvail n) s = execCkrepAvail n s := rfl
@[simp] theorem exec_ckptRestore (n s) : exec (.ckptRestore n) s = execCkptRestore n s := rfl
@[simp] theorem exec_ksLoadDone (free s) : exec (.ksLoadDone free) s = execKsLoadDone free s := rfl
@[simp] theorem exec_journalSectorProgrammed (s) : exec .journalSectorProgrammed s = execJournalSectorProgrammed s := rfl
@[simp] theorem exec_slotWriteDone (slot stripe s) : exec (.slotWriteDone slot stripe) s = execSlotWriteDone slot stripe s := rfl
@[simp] theorem exec_stripeProgramFail (stripe channel slot s) : exec (.stripeProgramFail stripe channel slot) s = execStripeProgramFail stripe channel slot s := rfl
@[simp] theorem exec_ksCompact (s) : exec .ksCompact s = execKsCompact s := rfl
@[simp] theorem exec_ksCompactDone (s) : exec .ksCompactDone s = execKsCompactDone s := rfl
@[simp] theorem exec_ksFormat (s) : exec .ksFormat s = execKsFormat s := rfl
@[simp] theorem exec_exportDone (n flips s) : exec (.exportDone n flips) s = execExportDone n s flips := rfl
@[simp] theorem exec_entropySample (ok s) : exec (.entropySample ok) s = execEntropySample ok s := rfl
@[simp] theorem exec_maskRefresh (s) : exec .maskRefresh s = execMaskRefresh s := rfl
@[simp] theorem exec_mkGo (m part s) : exec (.mkGo m part) s = execMkGo m part s := rfl
@[simp] theorem exec_keyIdReady (s) : exec .keyIdReady s = execKeyIdReady s := rfl
@[simp] theorem exec_reportSigned (s) : exec .reportSigned s = execReportSigned s := rfl
@[simp] theorem exec_lcGo (m target s) : exec (.lcGo m target) s = execLcGo m target s := rfl
@[simp] theorem exec_otpBurnDone (s) : exec .otpBurnDone s = execOtpBurnDone s := rfl
@[simp] theorem exec_returnEraseDone (s) : exec .returnEraseDone s = execReturnEraseDone s := rfl
@[simp] theorem exec_sdpSelRise (s) : exec .sdpSelRise s = execSdpSelRise s := rfl
@[simp] theorem exec_sdpInfo (q s) : exec (.sdpInfo q) s = execSdpInfo q s := rfl
@[simp] theorem exec_sdpNonce (q s) : exec (.sdpNonce q) s = execSdpNonce q s := rfl
@[simp] theorem exec_sdpOpen (q s) : exec (.sdpOpen q) s = execSdpOpen q s := rfl
@[simp] theorem exec_sdpClose (q s) : exec (.sdpClose q) s = execSdpClose q s := rfl
@[simp] theorem exec_sdpHalt (q s) : exec (.sdpHalt q) s = execSdpHalt q s := rfl
@[simp] theorem exec_sdpResume (q s) : exec (.sdpResume q) s = execSdpResume q s := rfl
@[simp] theorem exec_sdpStep (q s) : exec (.sdpStep q) s = execSdpStep q s := rfl
@[simp] theorem exec_sdpBkpt (q s) : exec (.sdpBkpt q) s = execSdpBkpt q s := rfl
@[simp] theorem exec_sdpRreg (q s) : exec (.sdpRreg q) s = execSdpRreg q s := rfl
@[simp] theorem exec_sdpWreg (q s) : exec (.sdpWreg q) s = execSdpWreg q s := rfl
@[simp] theorem exec_sdpRmem (q s) : exec (.sdpRmem q) s = execSdpRmem q s := rfl
@[simp] theorem exec_sdpWmem (q s) : exec (.sdpWmem q) s = execSdpWmem q s := rfl
@[simp] theorem exec_sdpRcsr (q s) : exec (.sdpRcsr q) s = execSdpRcsr q s := rfl
@[simp] theorem exec_sdpWcsr (q s) : exec (.sdpWcsr q) s = execSdpWcsr q s := rfl
@[simp] theorem exec_sdpRsoot (q s) : exec (.sdpRsoot q) s = execSdpRsoot q s := rfl
@[simp] theorem exec_debugSessionExpire (s) : exec .debugSessionExpire s = execDebugSessionExpire s := rfl
@[simp] theorem exec_doorbell (f off size v entries s) : exec (.doorbell f off size v entries) s = execDoorbell f off size v entries s := rfl
@[simp] theorem exec_charterCmd (c s) : exec (.charterCmd c) s = execCharterCmd c s := rfl
@[simp] theorem exec_capsuleCmd (c s) : exec (.capsuleCmd c) s = execCapsuleCmd c s := rfl
@[simp] theorem exec_createCtx (c s) : exec (.createCtx c) s = execCreateCtx c s := rfl
@[simp] theorem exec_destroyCtx (c s) : exec (.destroyCtx c) s = execDestroyCtx c s := rfl
@[simp] theorem exec_createQ (c s) : exec (.createQ c) s = execCreateQ c s := rfl
@[simp] theorem exec_destroyQ (c s) : exec (.destroyQ c) s = execDestroyQ c s := rfl
@[simp] theorem exec_createMobj (c s) : exec (.createMobj c) s = execCreateMobj c s := rfl
@[simp] theorem exec_freeMobj (c s) : exec (.freeMobj c) s = execFreeMobj c s := rfl
@[simp] theorem exec_mobjRelease (n ix s) : exec (.mobjRelease n ix) s = execMobjRelease n ix s := rfl
@[simp] theorem exec_mapPages (c s) : exec (.mapPages c) s = execMapPages c s := rfl
@[simp] theorem exec_unmapPages (c s) : exec (.unmapPages c) s = execUnmapPages c s := rfl
@[simp] theorem exec_bankOut (c s) : exec (.bankOut c) s = execBankOut c s := rfl
@[simp] theorem exec_poolCmd (c s) : exec (.poolCmd c) s = execPoolCmd c s := rfl
@[simp] theorem exec_createEvt (c s) : exec (.createEvt c) s = execCreateEvt c s := rfl
@[simp] theorem exec_destroyEvt (c s) : exec (.destroyEvt c) s = execDestroyEvt c s := rfl
@[simp] theorem exec_killOwner (c s) : exec (.killOwner c) s = execKillOwner c s := rfl
@[simp] theorem exec_importCmd (c s) : exec (.importCmd c) s = execImportCmd c s := rfl
@[simp] theorem exec_exportCmd (c s) : exec (.exportCmd c) s = execExportCmd c s := rfl
@[simp] theorem exec_queryCtx (c s) : exec (.queryCtx c) s = execQueryCtx c s := rfl
@[simp] theorem exec_queryCap (c s) : exec (.queryCap c) s = execQueryCap c s := rfl
@[simp] theorem exec_reportCmd (c s) : exec (.reportCmd c) s = execReportCmd c s := rfl
@[simp] theorem exec_quickCmd (c s) : exec (.quickCmd c) s = execQuickCmd c s := rfl
@[simp] theorem exec_ideSetup (c s) : exec (.ideSetup c) s = execIdeSetup c s := rfl
@[simp] theorem exec_removeTenant (c s) : exec (.removeTenant c) s = execRemoveTenant c s := rfl
@[simp] theorem exec_tenantRemovalDone (n s) : exec (.tenantRemovalDone n) s = execTenantRemovalDone n s := rfl
@[simp] theorem exec_startCtx (c s) : exec (.startCtx c) s = execStartCtx c s := rfl
@[simp] theorem exec_startGrant (n c q s) : exec (.startGrant n c q) s = execStartGrant n c q s := rfl
@[simp] theorem exec_signalEvent (c s) : exec (.signalEvent c) s = execSignalEvent c s := rfl
@[simp] theorem exec_waitEvent (c s) : exec (.waitEvent c) s = execWaitEvent c s := rfl
@[simp] theorem exec_queueSemsig (c s) : exec (.queueSemsig c) s = execQueueSemsig c s := rfl
@[simp] theorem exec_queueSemwait (c s) : exec (.queueSemwait c) s = execQueueSemwait c s := rfl
@[simp] theorem exec_queueWrite (c s) : exec (.queueWrite c) s = execQueueWrite c s := rfl
@[simp] theorem exec_bar4Read (n a len s) : exec (.bar4Read n a len) s = execBar4Read n a len s := rfl
@[simp] theorem exec_bar4Write (n a bytes s) : exec (.bar4Write n a bytes) s = execBar4Write n a bytes s := rfl
@[simp] theorem exec_hostRecHead (m f v s) : exec (.hostRecHead m f v) s = execHostRecHead m f v s := rfl
@[simp] theorem exec_i3cReport (w s) : exec (.i3cReport w) s = execI3cReport w s := rfl
@[simp] theorem exec_i3cQuick (w s) : exec (.i3cQuick w) s = execI3cQuick w s := rfl
@[simp] theorem exec_i3cQueryCap (w s) : exec (.i3cQueryCap w) s = execI3cQueryCap w s := rfl
@[simp] theorem exec_i3cRcsr (w s) : exec (.i3cRcsr w) s = execI3cRcsr w s := rfl
@[simp] theorem exec_i3cWcsr (w s) : exec (.i3cWcsr w) s = execI3cWcsr w s := rfl
@[simp] theorem exec_registerWrite (m a v whole s) : exec (.registerWrite m a v whole) s = execRegisterWrite m a v whole s := rfl
@[simp] theorem exec_dmpData (m v s) : exec (.dmpData m v) s = execDmpData m v s := rfl
@[simp] theorem exec_dmpCommit (m ix s) : exec (.dmpCommit m ix) s = execDmpCommit m ix s := rfl
@[simp] theorem exec_dmpAbort (m ix s) : exec (.dmpAbort m ix) s = execDmpAbort m ix s := rfl
@[simp] theorem exec_damperApply (ix s) : exec (.damperApply ix) s = execDamperApply ix s := rfl
@[simp] theorem exec_damperTimeout (ix s) : exec (.damperTimeout ix) s = execDamperTimeout ix s := rfl
@[simp] theorem exec_mbxSel (m v s) : exec (.mbxSel m v) s = execMbxSel m v s := rfl
@[simp] theorem exec_revote (k s) : exec (.revote k) s = execRevote k s := rfl
@[simp] theorem exec_sootEntryWrite (torn s) : exec (.sootEntryWrite torn) s = execSootEntryWrite torn s := rfl
@[simp] theorem exec_sootMinute (s) : exec .sootMinute s = execSootMinute s := rfl
@[simp] theorem exec_meterWrite (s) : exec .meterWrite s = execMeterWrite s := rfl
@[simp] theorem exec_cvCtrl (m u v s) : exec (.cvCtrl m u v) s = execCvCtrl m u v s := rfl
@[simp] theorem exec_cvFeed8 (m u v s) : exec (.cvFeed8 m u v) s = execCvFeed8 m u v s := rfl
@[simp] theorem exec_cvFeed16 (m u v s) : exec (.cvFeed16 m u v) s = execCvFeed16 m u v s := rfl
@[simp] theorem exec_cvFeed32 (m u v s) : exec (.cvFeed32 m u v) s = execCvFeed32 m u v s := rfl
@[simp] theorem exec_healthWindow (s) : exec .healthWindow s = execHealthWindow s := rfl
@[simp] theorem exec_slowdownInterval (n e w s) : exec (.slowdownInterval n e w) s = execSlowdownInterval n e w s := rfl
@[simp] theorem exec_abortRequestRetry (n s) : exec (.abortRequestRetry n) s = execAbortRequestRetry n s := rfl
@[simp] theorem exec_abortRequest (n s) : exec (.abortRequest n) s = execAbortRequest n s := rfl
@[simp] theorem exec_abortFrame (n s) : exec (.abortFrame n) s = execAbortFrame n s := rfl
@[simp] theorem exec_pwrWarnDeassert (s) : exec .pwrWarnDeassert s = execPwrWarnDeassert s := rfl
@[simp] theorem exec_fluePresenceChange (flue high s) : exec (.fluePresenceChange flue high) s = execFluePresenceChange flue high s := rfl
@[simp] theorem exec_i3cDynamicAddress (addr s) : exec (.i3cDynamicAddress addr) s = execI3cDynamicAddress addr s := rfl
@[simp] theorem exec_i3cPrivateRead (addr s) : exec (.i3cPrivateRead addr) s = execI3cPrivateRead addr s := rfl
@[simp] theorem exec_alwaysOnRailDropOut (s) : exec .alwaysOnRailDropOut s = execAlwaysOnRailDropOut s := rfl
@[simp] theorem exec_checkpointRequest (n s) : exec (.checkpointRequest n) s = execCheckpointRequest n s := rfl
@[simp] theorem exec_quarantineReport (n s) : exec (.quarantineReport n) s = execQuarantineReport n s := rfl
@[simp] theorem exec_parityHolderReport (n s) : exec (.parityHolderReport n) s = execParityHolderReport n s := rfl
@[simp] theorem exec_freezeRelease (n us s) : exec (.freezeRelease n us) s = execFreezeRelease n us s := rfl
@[simp] theorem exec_stripeEraseDone (stripe s) : exec (.stripeEraseDone stripe) s = execStripeEraseDone stripe s := rfl
@[simp] theorem exec_restoreUnitsWritten (n flips s) : exec (.restoreUnitsWritten n flips) s = execRestoreUnitsWritten n s flips := rfl

end Sys2Proof.Machine
end

