-- ==== Sys2Proof/Laws/Table.lean ====
section
/-! SUPPORT. The laws of tables: what an entry reads as after a write, a change or a map, and that each keeps the canonical form. -/

namespace Sys2Proof.Machine

variable {α β : Type}

theorem assocFind_insert (l : List (Nat × α)) (k j : Nat) (v : α) :
    assocFind (assocInsert l k v) j = if k = j then some v else assocFind l j := by
  induction l with
  | nil => simp [assocInsert, assocFind]
  | cons e t ih =>
    obtain ⟨i, w⟩ := e
    simp only [assocInsert]
    split
    · simp only [assocFind]
    · split
      · rename_i h; subst h
        simp only [assocFind]
        split <;> rfl
      · rename_i h1 h2
        simp only [assocFind, ih]
        by_cases hi : i = j
        · have : ¬ k = j := fun h => h2 (h.trans hi.symm)
          simp [hi, this]
        · simp [hi]

theorem assocFind_erase (l : List (Nat × α)) (k j : Nat) :
    assocFind (assocErase l k) j = if k = j then none else assocFind l j := by
  induction l with
  | nil => simp [assocErase, assocFind]
  | cons e t ih =>
    obtain ⟨i, w⟩ := e
    simp only [assocErase, List.filter_cons] at ih ⊢
    by_cases hi : i = k
    · subst hi
      simp only [ne_eq, not_true_eq_false, decide_false, Bool.false_eq_true, ↓reduceIte, ih, assocFind]
      split <;> simp_all
    · simp only [ne_eq, hi, not_false_eq_true, decide_true, ↓reduceIte, assocFind, ih]
      by_cases hj : i = j
      · have : ¬ k = j := fun h => hi (hj.trans h.symm)
        simp [hj, this]
      · simp [hj]

@[simp] theorem Tab.get_const (v : α) (k : Nat) : (Tab.const v).get k = v := rfl

/-- Read after write, at every number. -/
theorem Tab.get_set [DecidableEq α] (t : Tab α) (k j : Nat) (v : α) :
    (t.set k v).get j = if k = j then v else t.get j := by
  simp only [Tab.get, Tab.set]
  by_cases hv : v = t.dflt
  · simp only [hv, ↓reduceIte, assocFind_erase]
    split <;> rfl
  · simp only [hv, ↓reduceIte, assocFind_insert]
    split <;> rfl

@[simp] theorem Tab.get_set_same [DecidableEq α] (t : Tab α) (k : Nat) (v : α) : (t.set k v).get k = v := by
  simp [Tab.get_set]

theorem Tab.get_set_ne [DecidableEq α] (t : Tab α) {k j : Nat} (v : α) (h : k ≠ j) : (t.set k v).get j = t.get j := by
  simp [Tab.get_set, h]

@[simp] theorem Tab.get_upd_same [DecidableEq α] (t : Tab α) (k : Nat) (f : α → α) : (t.upd k f).get k = f (t.get k) := by
  simp [Tab.upd]

theorem Tab.get_upd_ne [DecidableEq α] (t : Tab α) {k j : Nat} (f : α → α) (h : k ≠ j) : (t.upd k f).get j = t.get j := by
  simp [Tab.upd, Tab.get_set, h]

/-- A change reads as the change at its number and as before elsewhere. -/
theorem Tab.get_upd [DecidableEq α] (t : Tab α) (k j : Nat) (f : α → α) :
    (t.upd k f).get j = if k = j then f (t.get k) else t.get j := by
  simp [Tab.upd, Tab.get_set]

@[simp] theorem Tab.dflt_set [DecidableEq α] (t : Tab α) (k : Nat) (v : α) : (t.set k v).dflt = t.dflt := rfl

theorem Tab.foldr_dflt [DecidableEq β] (l : List (Nat × α)) (f : α → β) (d : β) :
    (l.foldr (fun e (r : Tab β) => r.set e.1 (f e.2)) (Tab.const d)).dflt = d := by
  induction l with
  | nil => rfl
  | cons e t ih => simpa using ih

theorem Tab.foldr_get [DecidableEq β] (l : List (Nat × α)) (f : α → β) (d : α) (k : Nat) :
    (l.foldr (fun e (r : Tab β) => r.set e.1 (f e.2)) (Tab.const (f d))).get k = f ((assocFind l k).getD d) := by
  induction l with
  | nil => rfl
  | cons e t ih =>
    obtain ⟨i, w⟩ := e
    simp only [List.foldr_cons, Tab.get_set, ih, assocFind]
    split <;> rfl

/-- A map changes every entry. -/
@[simp] theorem Tab.get_map [DecidableEq β] (f : α → β) (t : Tab α) (k : Nat) : (t.map f).get k = f (t.get k) :=
  Tab.foldr_get t.items f t.dflt k

/-! ### The canonical form -/

/-- Every listed number lies above a bound. -/
def above (lo : Option Nat) (k : Nat) : Prop := ∀ l, lo = some l → l < k

theorem assocSorted_insert (l : List (Nat × α)) (lo : Option Nat) (k : Nat) (v : α) (hk : above lo k)
    (h : assocSorted lo l = true) : assocSorted lo (assocInsert l k v) = true := by
  induction l generalizing lo with
  | nil =>
    cases lo with
    | none => simp [assocInsert, assocSorted]
    | some x => simpa [assocInsert, assocSorted] using hk x rfl
  | cons e t ih =>
    obtain ⟨i, w⟩ := e
    simp only [assocInsert]
    split
    · rename_i hi
      cases lo with
      | none => simp_all [assocSorted]
      | some x => have := hk x rfl; simp_all [assocSorted]
    · split
      · rename_i hi; subst hi
        cases lo <;> simp_all [assocSorted]
      · have hki : above (some i) k := by intro x hx; cases hx; omega
        cases lo with
        | none => simp only [assocSorted] at h ⊢; exact ih _ hki h
        | some x =>
          simp only [assocSorted, Bool.and_eq_true, decide_eq_true_eq] at h ⊢
          exact ⟨h.1, ih _ hki h.2⟩

theorem assocSorted_weaken (l : List (Nat × α)) (x y : Nat) (hxy : x ≤ y) (h : assocSorted (some y) l = true) :
    assocSorted (some x) l = true := by
  cases l with
  | nil => rfl
  | cons e t =>
    simp only [assocSorted, Bool.and_eq_true, decide_eq_true_eq] at h ⊢
    exact ⟨by omega, h.2⟩

theorem assocSorted_none (l : List (Nat × α)) (lo : Option Nat) (h : assocSorted lo l = true) : assocSorted none l = true := by
  cases l with
  | nil => rfl
  | cons e t => cases lo <;> simp_all [assocSorted]

theorem assocSorted_filter (p : Nat × α → Bool) (l : List (Nat × α)) (lo : Option Nat) (h : assocSorted lo l = true) :
    assocSorted lo (l.filter p) = true := by
  induction l generalizing lo with
  | nil => cases lo <;> rfl
  | cons e t ih =>
    obtain ⟨i, w⟩ := e
    have ht : assocSorted (some i) t = true := by cases lo <;> simp_all [assocSorted]
    rw [List.filter_cons]
    split
    · cases lo with
      | none => simp only [assocSorted]; exact ih _ ht
      | some x =>
        simp only [assocSorted, Bool.and_eq_true, decide_eq_true_eq] at h ⊢
        exact ⟨h.1, ih _ ht⟩
    · cases lo with
      | none => exact assocSorted_none _ _ (ih _ ht)
      | some x =>
        simp only [assocSorted, Bool.and_eq_true, decide_eq_true_eq] at h
        exact assocSorted_weaken _ x i (by omega) (ih _ ht)

theorem mem_assocInsert {l : List (Nat × α)} {k : Nat} {v : α} {e : Nat × α} (h : e ∈ assocInsert l k v) :
    e = (k, v) ∨ e ∈ l := by
  induction l with
  | nil => simpa [assocInsert] using h
  | cons x t ih =>
    obtain ⟨i, w⟩ := x
    simp only [assocInsert] at h
    split at h
    · simpa using h
    · split at h
      · rcases List.mem_cons.1 h with h | h
        · exact .inl h
        · exact .inr (List.mem_cons_of_mem _ h)
      · rcases List.mem_cons.1 h with h | h
        · exact .inr (h ▸ List.mem_cons_self ..)
        · rcases ih h with h | h
          · exact .inl h
          · exact .inr (List.mem_cons_of_mem _ h)

theorem Tab.wf_iff [DecidableEq α] (t : Tab α) :
    t.wf = true ↔ assocSorted none t.items = true ∧ ∀ e ∈ t.items, e.2 ≠ t.dflt := by
  simp [Tab.wf]

@[simp] theorem Tab.wf_const [DecidableEq α] (v : α) : (Tab.const v).wf = true := rfl

/-- A write keeps the canonical form. -/
theorem Tab.wf_set [DecidableEq α] (t : Tab α) (k : Nat) (v : α) (h : t.wf = true) : (t.set k v).wf = true := by
  rw [Tab.wf_iff] at h ⊢
  simp only [Tab.set]
  by_cases hv : v = t.dflt
  · simp only [hv, ↓reduceIte]
    exact ⟨assocSorted_filter _ _ _ h.1, fun e he => h.2 e (List.mem_of_mem_filter he)⟩
  · simp only [hv, ↓reduceIte]
    refine ⟨assocSorted_insert _ _ _ _ (fun _ hx => by cases hx) h.1, fun e he => ?_⟩
    rcases mem_assocInsert he with rfl | he
    · exact hv
    · exact h.2 e he

theorem Tab.wf_upd [DecidableEq α] (t : Tab α) (k : Nat) (f : α → α) (h : t.wf = true) : (t.upd k f).wf = true :=
  Tab.wf_set _ _ _ h

/-- A map is canonical. -/
theorem Tab.wf_map [DecidableEq β] (f : α → β) (t : Tab α) : (t.map f).wf = true := by
  unfold Tab.map
  induction t.items with
  | nil => rfl
  | cons e l ih => exact Tab.wf_set _ _ _ ih

end Sys2Proof.Machine
end

