-- ==== Sys2Proof/Laws/State.lean ====
section
/-! SUPPORT. One lemma per field of the state and per named change of it: what the change leaves alone reads as before, and what it changes
reads as said. They spare a proof from unfolding the state. -/

set_option linter.all false

namespace Sys2Proof.Machine

@[simp] theorem modPart_pins (n : Nat) (f : Part → Part) (s : State) : (s.modPart n f).pins = s.pins := rfl
@[simp] theorem modPart_power (n : Nat) (f : Part → Part) (s : State) : (s.modPart n f).power = s.power := rfl
@[simp] theorem modPart_lc (n : Nat) (f : Part → Part) (s : State) : (s.modPart n f).lc = s.lc := rfl
@[simp] theorem modPart_dbg (n : Nat) (f : Part → Part) (s : State) : (s.modPart n f).dbg = s.dbg := rfl
@[simp] theorem modPart_keys (n : Nat) (f : Part → Part) (s : State) : (s.modPart n f).keys = s.keys := rfl
@[simp] theorem modPart_common (n : Nat) (f : Part → Part) (s : State) : (s.modPart n f).common = s.common := rfl
@[simp] theorem modPart_soot (n : Nat) (f : Part → Part) (s : State) : (s.modPart n f).soot = s.soot := rfl
@[simp] theorem modPart_cv (n : Nat) (f : Part → Part) (s : State) : (s.modPart n f).cv = s.cv := rfl
@[simp] theorem modPart_health (n : Nat) (f : Part → Part) (s : State) : (s.modPart n f).health = s.health := rfl
@[simp] theorem modPart_snt (n : Nat) (f : Part → Part) (s : State) : (s.modPart n f).snt = s.snt := rfl
@[simp] theorem modPart_fab (n : Nat) (f : Part → Part) (s : State) : (s.modPart n f).fab = s.fab := rfl
@[simp] theorem modPart_flues (n : Nat) (f : Part → Part) (s : State) : (s.modPart n f).flues = s.flues := rfl
@[simp] theorem modPart_sweep (n : Nat) (f : Part → Part) (s : State) : (s.modPart n f).sweep = s.sweep := rfl
@[simp] theorem modPart_ks (n : Nat) (f : Part → Part) (s : State) : (s.modPart n f).ks = s.ks := rfl
@[simp] theorem modPart_host (n : Nat) (f : Part → Part) (s : State) : (s.modPart n f).host = s.host := rfl
@[simp] theorem modPart_quarters (n : Nat) (f : Part → Part) (s : State) : (s.modPart n f).quarters = s.quarters := rfl
@[simp] theorem modPart_tcache (n : Nat) (f : Part → Part) (s : State) : (s.modPart n f).tcache = s.tcache := rfl
@[simp] theorem modPart_outHold (n : Nat) (f : Part → Part) (s : State) : (s.modPart n f).outHold = s.outHold := rfl
@[simp] theorem modPart_hostHold (n : Nat) (f : Part → Part) (s : State) : (s.modPart n f).hostHold = s.hostHold := rfl
@[simp] theorem modPart_pending (n : Nat) (f : Part → Part) (s : State) : (s.modPart n f).pending = s.pending := rfl
@[simp] theorem modPart_freeCount (n : Nat) (f : Part → Part) (s : State) : (s.modPart n f).freeCount = s.freeCount := rfl
@[simp] theorem modPart_out (n : Nat) (f : Part → Part) (s : State) : (s.modPart n f).out = s.out := rfl
@[simp] theorem modPart_ember (n : Nat) (f : Part → Part) (s : State) (k : Nat) : (s.modPart n f).ember k = s.ember k := rfl
@[simp] theorem modPart_thread (n : Nat) (f : Part → Part) (s : State) (k j : Nat) : (s.modPart n f).thread k j = s.thread k j := rfl
@[simp] theorem modPart_inService (n : Nat) (f : Part → Part) (s : State) : (s.modPart n f).inService  = s.inService := rfl
@[simp] theorem modPart_partOf (n : Nat) (f : Part → Part) (s : State) (k : Nat) : (s.modPart n f).partOf k = s.partOf k := rfl
@[simp] theorem modPart_isBe (n : Nat) (f : Part → Part) (s : State) (k j : Nat) : (s.modPart n f).isBe k j = s.isBe k j := rfl
@[simp] theorem modPart_nParts (n : Nat) (f : Part → Part) (s : State) : (s.modPart n f).nParts  = s.nParts := rfl
@[simp] theorem modEmber_pins (l : Nat) (f : Ember → Ember) (s : State) : (s.modEmber l f).pins = s.pins := rfl
@[simp] theorem modEmber_power (l : Nat) (f : Ember → Ember) (s : State) : (s.modEmber l f).power = s.power := rfl
@[simp] theorem modEmber_lc (l : Nat) (f : Ember → Ember) (s : State) : (s.modEmber l f).lc = s.lc := rfl
@[simp] theorem modEmber_dbg (l : Nat) (f : Ember → Ember) (s : State) : (s.modEmber l f).dbg = s.dbg := rfl
@[simp] theorem modEmber_keys (l : Nat) (f : Ember → Ember) (s : State) : (s.modEmber l f).keys = s.keys := rfl
@[simp] theorem modEmber_common (l : Nat) (f : Ember → Ember) (s : State) : (s.modEmber l f).common = s.common := rfl
@[simp] theorem modEmber_soot (l : Nat) (f : Ember → Ember) (s : State) : (s.modEmber l f).soot = s.soot := rfl
@[simp] theorem modEmber_cv (l : Nat) (f : Ember → Ember) (s : State) : (s.modEmber l f).cv = s.cv := rfl
@[simp] theorem modEmber_health (l : Nat) (f : Ember → Ember) (s : State) : (s.modEmber l f).health = s.health := rfl
@[simp] theorem modEmber_snt (l : Nat) (f : Ember → Ember) (s : State) : (s.modEmber l f).snt = s.snt := rfl
@[simp] theorem modEmber_fab (l : Nat) (f : Ember → Ember) (s : State) : (s.modEmber l f).fab = s.fab := rfl
@[simp] theorem modEmber_flues (l : Nat) (f : Ember → Ember) (s : State) : (s.modEmber l f).flues = s.flues := rfl
@[simp] theorem modEmber_sweep (l : Nat) (f : Ember → Ember) (s : State) : (s.modEmber l f).sweep = s.sweep := rfl
@[simp] theorem modEmber_ks (l : Nat) (f : Ember → Ember) (s : State) : (s.modEmber l f).ks = s.ks := rfl
@[simp] theorem modEmber_host (l : Nat) (f : Ember → Ember) (s : State) : (s.modEmber l f).host = s.host := rfl
@[simp] theorem modEmber_parts (l : Nat) (f : Ember → Ember) (s : State) : (s.modEmber l f).parts = s.parts := rfl
@[simp] theorem modEmber_tcache (l : Nat) (f : Ember → Ember) (s : State) : (s.modEmber l f).tcache = s.tcache := rfl
@[simp] theorem modEmber_outHold (l : Nat) (f : Ember → Ember) (s : State) : (s.modEmber l f).outHold = s.outHold := rfl
@[simp] theorem modEmber_hostHold (l : Nat) (f : Ember → Ember) (s : State) : (s.modEmber l f).hostHold = s.hostHold := rfl
@[simp] theorem modEmber_pending (l : Nat) (f : Ember → Ember) (s : State) : (s.modEmber l f).pending = s.pending := rfl
@[simp] theorem modEmber_freeCount (l : Nat) (f : Ember → Ember) (s : State) : (s.modEmber l f).freeCount = s.freeCount := rfl
@[simp] theorem modEmber_out (l : Nat) (f : Ember → Ember) (s : State) : (s.modEmber l f).out = s.out := rfl
@[simp] theorem modEmber_part (l : Nat) (f : Ember → Ember) (s : State) (m : Nat) : (s.modEmber l f).part m = s.part m := rfl
@[simp] theorem modEmber_inService (l : Nat) (f : Ember → Ember) (s : State) : (s.modEmber l f).inService  = s.inService := rfl
@[simp] theorem modEmber_partOf (l : Nat) (f : Ember → Ember) (s : State) (k : Nat) : (s.modEmber l f).partOf k = s.partOf k := rfl
@[simp] theorem modEmber_nParts (l : Nat) (f : Ember → Ember) (s : State) : (s.modEmber l f).nParts  = s.nParts := rfl
@[simp] theorem modThread_pins (l t : Nat) (f : Thread → Thread) (s : State) : (s.modThread l t f).pins = s.pins := rfl
@[simp] theorem modThread_power (l t : Nat) (f : Thread → Thread) (s : State) : (s.modThread l t f).power = s.power := rfl
@[simp] theorem modThread_lc (l t : Nat) (f : Thread → Thread) (s : State) : (s.modThread l t f).lc = s.lc := rfl
@[simp] theorem modThread_dbg (l t : Nat) (f : Thread → Thread) (s : State) : (s.modThread l t f).dbg = s.dbg := rfl
@[simp] theorem modThread_keys (l t : Nat) (f : Thread → Thread) (s : State) : (s.modThread l t f).keys = s.keys := rfl
@[simp] theorem modThread_common (l t : Nat) (f : Thread → Thread) (s : State) : (s.modThread l t f).common = s.common := rfl
@[simp] theorem modThread_soot (l t : Nat) (f : Thread → Thread) (s : State) : (s.modThread l t f).soot = s.soot := rfl
@[simp] theorem modThread_cv (l t : Nat) (f : Thread → Thread) (s : State) : (s.modThread l t f).cv = s.cv := rfl
@[simp] theorem modThread_health (l t : Nat) (f : Thread → Thread) (s : State) : (s.modThread l t f).health = s.health := rfl
@[simp] theorem modThread_snt (l t : Nat) (f : Thread → Thread) (s : State) : (s.modThread l t f).snt = s.snt := rfl
@[simp] theorem modThread_fab (l t : Nat) (f : Thread → Thread) (s : State) : (s.modThread l t f).fab = s.fab := rfl
@[simp] theorem modThread_flues (l t : Nat) (f : Thread → Thread) (s : State) : (s.modThread l t f).flues = s.flues := rfl
@[simp] theorem modThread_sweep (l t : Nat) (f : Thread → Thread) (s : State) : (s.modThread l t f).sweep = s.sweep := rfl
@[simp] theorem modThread_ks (l t : Nat) (f : Thread → Thread) (s : State) : (s.modThread l t f).ks = s.ks := rfl
@[simp] theorem modThread_host (l t : Nat) (f : Thread → Thread) (s : State) : (s.modThread l t f).host = s.host := rfl
@[simp] theorem modThread_parts (l t : Nat) (f : Thread → Thread) (s : State) : (s.modThread l t f).parts = s.parts := rfl
@[simp] theorem modThread_tcache (l t : Nat) (f : Thread → Thread) (s : State) : (s.modThread l t f).tcache = s.tcache := rfl
@[simp] theorem modThread_outHold (l t : Nat) (f : Thread → Thread) (s : State) : (s.modThread l t f).outHold = s.outHold := rfl
@[simp] theorem modThread_hostHold (l t : Nat) (f : Thread → Thread) (s : State) : (s.modThread l t f).hostHold = s.hostHold := rfl
@[simp] theorem modThread_pending (l t : Nat) (f : Thread → Thread) (s : State) : (s.modThread l t f).pending = s.pending := rfl
@[simp] theorem modThread_freeCount (l t : Nat) (f : Thread → Thread) (s : State) : (s.modThread l t f).freeCount = s.freeCount := rfl
@[simp] theorem modThread_out (l t : Nat) (f : Thread → Thread) (s : State) : (s.modThread l t f).out = s.out := rfl
@[simp] theorem modThread_part (l t : Nat) (f : Thread → Thread) (s : State) (m : Nat) : (s.modThread l t f).part m = s.part m := rfl
@[simp] theorem modThread_inService (l t : Nat) (f : Thread → Thread) (s : State) : (s.modThread l t f).inService  = s.inService := rfl
@[simp] theorem modThread_partOf (l t : Nat) (f : Thread → Thread) (s : State) (k : Nat) : (s.modThread l t f).partOf k = s.partOf k := rfl
@[simp] theorem modThread_nParts (l t : Nat) (f : Thread → Thread) (s : State) : (s.modThread l t f).nParts  = s.nParts := rfl
@[simp] theorem modAt_pins (x : Site) (g : Thread → Thread) (s : State) : (modAt x g s).pins = s.pins := rfl
@[simp] theorem modAt_power (x : Site) (g : Thread → Thread) (s : State) : (modAt x g s).power = s.power := rfl
@[simp] theorem modAt_lc (x : Site) (g : Thread → Thread) (s : State) : (modAt x g s).lc = s.lc := rfl
@[simp] theorem modAt_dbg (x : Site) (g : Thread → Thread) (s : State) : (modAt x g s).dbg = s.dbg := rfl
@[simp] theorem modAt_keys (x : Site) (g : Thread → Thread) (s : State) : (modAt x g s).keys = s.keys := rfl
@[simp] theorem modAt_common (x : Site) (g : Thread → Thread) (s : State) : (modAt x g s).common = s.common := rfl
@[simp] theorem modAt_soot (x : Site) (g : Thread → Thread) (s : State) : (modAt x g s).soot = s.soot := rfl
@[simp] theorem modAt_cv (x : Site) (g : Thread → Thread) (s : State) : (modAt x g s).cv = s.cv := rfl
@[simp] theorem modAt_health (x : Site) (g : Thread → Thread) (s : State) : (modAt x g s).health = s.health := rfl
@[simp] theorem modAt_snt (x : Site) (g : Thread → Thread) (s : State) : (modAt x g s).snt = s.snt := rfl
@[simp] theorem modAt_fab (x : Site) (g : Thread → Thread) (s : State) : (modAt x g s).fab = s.fab := rfl
@[simp] theorem modAt_flues (x : Site) (g : Thread → Thread) (s : State) : (modAt x g s).flues = s.flues := rfl
@[simp] theorem modAt_sweep (x : Site) (g : Thread → Thread) (s : State) : (modAt x g s).sweep = s.sweep := rfl
@[simp] theorem modAt_ks (x : Site) (g : Thread → Thread) (s : State) : (modAt x g s).ks = s.ks := rfl
@[simp] theorem modAt_host (x : Site) (g : Thread → Thread) (s : State) : (modAt x g s).host = s.host := rfl
@[simp] theorem modAt_parts (x : Site) (g : Thread → Thread) (s : State) : (modAt x g s).parts = s.parts := rfl
@[simp] theorem modAt_tcache (x : Site) (g : Thread → Thread) (s : State) : (modAt x g s).tcache = s.tcache := rfl
@[simp] theorem modAt_outHold (x : Site) (g : Thread → Thread) (s : State) : (modAt x g s).outHold = s.outHold := rfl
@[simp] theorem modAt_hostHold (x : Site) (g : Thread → Thread) (s : State) : (modAt x g s).hostHold = s.hostHold := rfl
@[simp] theorem modAt_pending (x : Site) (g : Thread → Thread) (s : State) : (modAt x g s).pending = s.pending := rfl
@[simp] theorem modAt_freeCount (x : Site) (g : Thread → Thread) (s : State) : (modAt x g s).freeCount = s.freeCount := rfl
@[simp] theorem modAt_out (x : Site) (g : Thread → Thread) (s : State) : (modAt x g s).out = s.out := rfl
@[simp] theorem modAt_part (x : Site) (g : Thread → Thread) (s : State) (m : Nat) : (modAt x g s).part m = s.part m := rfl
@[simp] theorem modAt_inService (x : Site) (g : Thread → Thread) (s : State) : (modAt x g s).inService  = s.inService := rfl
@[simp] theorem modAt_partOf (x : Site) (g : Thread → Thread) (s : State) (k : Nat) : (modAt x g s).partOf k = s.partOf k := rfl
@[simp] theorem modAt_nParts (x : Site) (g : Thread → Thread) (s : State) : (modAt x g s).nParts  = s.nParts := rfl
@[simp] theorem mapEmbers_pins (n : Nat) (f : Ember → Ember) (s : State) : (s.mapEmbers n f).pins = s.pins := rfl
@[simp] theorem mapEmbers_power (n : Nat) (f : Ember → Ember) (s : State) : (s.mapEmbers n f).power = s.power := rfl
@[simp] theorem mapEmbers_lc (n : Nat) (f : Ember → Ember) (s : State) : (s.mapEmbers n f).lc = s.lc := rfl
@[simp] theorem mapEmbers_dbg (n : Nat) (f : Ember → Ember) (s : State) : (s.mapEmbers n f).dbg = s.dbg := rfl
@[simp] theorem mapEmbers_keys (n : Nat) (f : Ember → Ember) (s : State) : (s.mapEmbers n f).keys = s.keys := rfl
@[simp] theorem mapEmbers_common (n : Nat) (f : Ember → Ember) (s : State) : (s.mapEmbers n f).common = s.common := rfl
@[simp] theorem mapEmbers_soot (n : Nat) (f : Ember → Ember) (s : State) : (s.mapEmbers n f).soot = s.soot := rfl
@[simp] theorem mapEmbers_cv (n : Nat) (f : Ember → Ember) (s : State) : (s.mapEmbers n f).cv = s.cv := rfl
@[simp] theorem mapEmbers_health (n : Nat) (f : Ember → Ember) (s : State) : (s.mapEmbers n f).health = s.health := rfl
@[simp] theorem mapEmbers_snt (n : Nat) (f : Ember → Ember) (s : State) : (s.mapEmbers n f).snt = s.snt := rfl
@[simp] theorem mapEmbers_fab (n : Nat) (f : Ember → Ember) (s : State) : (s.mapEmbers n f).fab = s.fab := rfl
@[simp] theorem mapEmbers_flues (n : Nat) (f : Ember → Ember) (s : State) : (s.mapEmbers n f).flues = s.flues := rfl
@[simp] theorem mapEmbers_sweep (n : Nat) (f : Ember → Ember) (s : State) : (s.mapEmbers n f).sweep = s.sweep := rfl
@[simp] theorem mapEmbers_ks (n : Nat) (f : Ember → Ember) (s : State) : (s.mapEmbers n f).ks = s.ks := rfl
@[simp] theorem mapEmbers_host (n : Nat) (f : Ember → Ember) (s : State) : (s.mapEmbers n f).host = s.host := rfl
@[simp] theorem mapEmbers_parts (n : Nat) (f : Ember → Ember) (s : State) : (s.mapEmbers n f).parts = s.parts := rfl
@[simp] theorem mapEmbers_tcache (n : Nat) (f : Ember → Ember) (s : State) : (s.mapEmbers n f).tcache = s.tcache := rfl
@[simp] theorem mapEmbers_outHold (n : Nat) (f : Ember → Ember) (s : State) : (s.mapEmbers n f).outHold = s.outHold := rfl
@[simp] theorem mapEmbers_hostHold (n : Nat) (f : Ember → Ember) (s : State) : (s.mapEmbers n f).hostHold = s.hostHold := rfl
@[simp] theorem mapEmbers_pending (n : Nat) (f : Ember → Ember) (s : State) : (s.mapEmbers n f).pending = s.pending := rfl
@[simp] theorem mapEmbers_freeCount (n : Nat) (f : Ember → Ember) (s : State) : (s.mapEmbers n f).freeCount = s.freeCount := rfl
@[simp] theorem mapEmbers_out (n : Nat) (f : Ember → Ember) (s : State) : (s.mapEmbers n f).out = s.out := rfl
@[simp] theorem mapEmbers_part (n : Nat) (f : Ember → Ember) (s : State) (m : Nat) : (s.mapEmbers n f).part m = s.part m := rfl
@[simp] theorem mapEmbers_inService (n : Nat) (f : Ember → Ember) (s : State) : (s.mapEmbers n f).inService  = s.inService := rfl
@[simp] theorem mapEmbers_partOf (n : Nat) (f : Ember → Ember) (s : State) (k : Nat) : (s.mapEmbers n f).partOf k = s.partOf k := rfl
@[simp] theorem mapEmbers_nParts (n : Nat) (f : Ember → Ember) (s : State) : (s.mapEmbers n f).nParts  = s.nParts := rfl
@[simp] theorem modFn_pins (f : Nat) (g : HostFn → HostFn) (s : State) : (s.modFn f g).pins = s.pins := rfl
@[simp] theorem modFn_power (f : Nat) (g : HostFn → HostFn) (s : State) : (s.modFn f g).power = s.power := rfl
@[simp] theorem modFn_lc (f : Nat) (g : HostFn → HostFn) (s : State) : (s.modFn f g).lc = s.lc := rfl
@[simp] theorem modFn_dbg (f : Nat) (g : HostFn → HostFn) (s : State) : (s.modFn f g).dbg = s.dbg := rfl
@[simp] theorem modFn_keys (f : Nat) (g : HostFn → HostFn) (s : State) : (s.modFn f g).keys = s.keys := rfl
@[simp] theorem modFn_common (f : Nat) (g : HostFn → HostFn) (s : State) : (s.modFn f g).common = s.common := rfl
@[simp] theorem modFn_soot (f : Nat) (g : HostFn → HostFn) (s : State) : (s.modFn f g).soot = s.soot := rfl
@[simp] theorem modFn_cv (f : Nat) (g : HostFn → HostFn) (s : State) : (s.modFn f g).cv = s.cv := rfl
@[simp] theorem modFn_health (f : Nat) (g : HostFn → HostFn) (s : State) : (s.modFn f g).health = s.health := rfl
@[simp] theorem modFn_snt (f : Nat) (g : HostFn → HostFn) (s : State) : (s.modFn f g).snt = s.snt := rfl
@[simp] theorem modFn_fab (f : Nat) (g : HostFn → HostFn) (s : State) : (s.modFn f g).fab = s.fab := rfl
@[simp] theorem modFn_flues (f : Nat) (g : HostFn → HostFn) (s : State) : (s.modFn f g).flues = s.flues := rfl
@[simp] theorem modFn_sweep (f : Nat) (g : HostFn → HostFn) (s : State) : (s.modFn f g).sweep = s.sweep := rfl
@[simp] theorem modFn_ks (f : Nat) (g : HostFn → HostFn) (s : State) : (s.modFn f g).ks = s.ks := rfl
@[simp] theorem modFn_parts (f : Nat) (g : HostFn → HostFn) (s : State) : (s.modFn f g).parts = s.parts := rfl
@[simp] theorem modFn_quarters (f : Nat) (g : HostFn → HostFn) (s : State) : (s.modFn f g).quarters = s.quarters := rfl
@[simp] theorem modFn_tcache (f : Nat) (g : HostFn → HostFn) (s : State) : (s.modFn f g).tcache = s.tcache := rfl
@[simp] theorem modFn_outHold (f : Nat) (g : HostFn → HostFn) (s : State) : (s.modFn f g).outHold = s.outHold := rfl
@[simp] theorem modFn_hostHold (f : Nat) (g : HostFn → HostFn) (s : State) : (s.modFn f g).hostHold = s.hostHold := rfl
@[simp] theorem modFn_pending (f : Nat) (g : HostFn → HostFn) (s : State) : (s.modFn f g).pending = s.pending := rfl
@[simp] theorem modFn_freeCount (f : Nat) (g : HostFn → HostFn) (s : State) : (s.modFn f g).freeCount = s.freeCount := rfl
@[simp] theorem modFn_out (f : Nat) (g : HostFn → HostFn) (s : State) : (s.modFn f g).out = s.out := rfl
@[simp] theorem modFn_part (f : Nat) (g : HostFn → HostFn) (s : State) (m : Nat) : (s.modFn f g).part m = s.part m := rfl
@[simp] theorem modFn_ember (f : Nat) (g : HostFn → HostFn) (s : State) (k : Nat) : (s.modFn f g).ember k = s.ember k := rfl
@[simp] theorem modFn_thread (f : Nat) (g : HostFn → HostFn) (s : State) (k j : Nat) : (s.modFn f g).thread k j = s.thread k j := rfl
@[simp] theorem modFn_inService (f : Nat) (g : HostFn → HostFn) (s : State) : (s.modFn f g).inService  = s.inService := rfl
@[simp] theorem modFn_partOf (f : Nat) (g : HostFn → HostFn) (s : State) (k : Nat) : (s.modFn f g).partOf k = s.partOf k := rfl
@[simp] theorem modFn_isBe (f : Nat) (g : HostFn → HostFn) (s : State) (k j : Nat) : (s.modFn f g).isBe k j = s.isBe k j := rfl
@[simp] theorem modFn_nParts (f : Nat) (g : HostFn → HostFn) (s : State) : (s.modFn f g).nParts  = s.nParts := rfl
@[simp] theorem modRing_pins (f : Nat) (r : RingId) (g : Ring → Ring) (s : State) : (s.modRing f r g).pins = s.pins := by unfold State.modRing; cases r <;> rfl
@[simp] theorem modRing_power (f : Nat) (r : RingId) (g : Ring → Ring) (s : State) : (s.modRing f r g).power = s.power := by unfold State.modRing; cases r <;> rfl
@[simp] theorem modRing_lc (f : Nat) (r : RingId) (g : Ring → Ring) (s : State) : (s.modRing f r g).lc = s.lc := by unfold State.modRing; cases r <;> rfl
@[simp] theorem modRing_dbg (f : Nat) (r : RingId) (g : Ring → Ring) (s : State) : (s.modRing f r g).dbg = s.dbg := by unfold State.modRing; cases r <;> rfl
@[simp] theorem modRing_keys (f : Nat) (r : RingId) (g : Ring → Ring) (s : State) : (s.modRing f r g).keys = s.keys := by unfold State.modRing; cases r <;> rfl
@[simp] theorem modRing_common (f : Nat) (r : RingId) (g : Ring → Ring) (s : State) : (s.modRing f r g).common = s.common := by unfold State.modRing; cases r <;> rfl
@[simp] theorem modRing_soot (f : Nat) (r : RingId) (g : Ring → Ring) (s : State) : (s.modRing f r g).soot = s.soot := by unfold State.modRing; cases r <;> rfl
@[simp] theorem modRing_cv (f : Nat) (r : RingId) (g : Ring → Ring) (s : State) : (s.modRing f r g).cv = s.cv := by unfold State.modRing; cases r <;> rfl
@[simp] theorem modRing_health (f : Nat) (r : RingId) (g : Ring → Ring) (s : State) : (s.modRing f r g).health = s.health := by unfold State.modRing; cases r <;> rfl
@[simp] theorem modRing_snt (f : Nat) (r : RingId) (g : Ring → Ring) (s : State) : (s.modRing f r g).snt = s.snt := by unfold State.modRing; cases r <;> rfl
@[simp] theorem modRing_fab (f : Nat) (r : RingId) (g : Ring → Ring) (s : State) : (s.modRing f r g).fab = s.fab := by unfold State.modRing; cases r <;> rfl
@[simp] theorem modRing_flues (f : Nat) (r : RingId) (g : Ring → Ring) (s : State) : (s.modRing f r g).flues = s.flues := by unfold State.modRing; cases r <;> rfl
@[simp] theorem modRing_sweep (f : Nat) (r : RingId) (g : Ring → Ring) (s : State) : (s.modRing f r g).sweep = s.sweep := by unfold State.modRing; cases r <;> rfl
@[simp] theorem modRing_ks (f : Nat) (r : RingId) (g : Ring → Ring) (s : State) : (s.modRing f r g).ks = s.ks := by unfold State.modRing; cases r <;> rfl
@[simp] theorem modRing_quarters (f : Nat) (r : RingId) (g : Ring → Ring) (s : State) : (s.modRing f r g).quarters = s.quarters := by unfold State.modRing; cases r <;> rfl
@[simp] theorem modRing_tcache (f : Nat) (r : RingId) (g : Ring → Ring) (s : State) : (s.modRing f r g).tcache = s.tcache := by unfold State.modRing; cases r <;> rfl
@[simp] theorem modRing_outHold (f : Nat) (r : RingId) (g : Ring → Ring) (s : State) : (s.modRing f r g).outHold = s.outHold := by unfold State.modRing; cases r <;> rfl
@[simp] theorem modRing_hostHold (f : Nat) (r : RingId) (g : Ring → Ring) (s : State) : (s.modRing f r g).hostHold = s.hostHold := by unfold State.modRing; cases r <;> rfl
@[simp] theorem modRing_pending (f : Nat) (r : RingId) (g : Ring → Ring) (s : State) : (s.modRing f r g).pending = s.pending := by unfold State.modRing; cases r <;> rfl
@[simp] theorem modRing_freeCount (f : Nat) (r : RingId) (g : Ring → Ring) (s : State) : (s.modRing f r g).freeCount = s.freeCount := by unfold State.modRing; cases r <;> rfl
@[simp] theorem modRing_out (f : Nat) (r : RingId) (g : Ring → Ring) (s : State) : (s.modRing f r g).out = s.out := by unfold State.modRing; cases r <;> rfl
@[simp] theorem modRing_ember (f : Nat) (r : RingId) (g : Ring → Ring) (s : State) (k : Nat) : (s.modRing f r g).ember k = s.ember k := by unfold State.modRing; cases r <;> rfl
@[simp] theorem modRing_thread (f : Nat) (r : RingId) (g : Ring → Ring) (s : State) (k j : Nat) : (s.modRing f r g).thread k j = s.thread k j := by unfold State.modRing; cases r <;> rfl
@[simp] theorem modRing_inService (f : Nat) (r : RingId) (g : Ring → Ring) (s : State) : (s.modRing f r g).inService  = s.inService := by unfold State.modRing; cases r <;> rfl
@[simp] theorem modRing_partOf (f : Nat) (r : RingId) (g : Ring → Ring) (s : State) (k : Nat) : (s.modRing f r g).partOf k = s.partOf k := by unfold State.modRing; cases r <;> rfl
@[simp] theorem modRing_isBe (f : Nat) (r : RingId) (g : Ring → Ring) (s : State) (k j : Nat) : (s.modRing f r g).isBe k j = s.isBe k j := by unfold State.modRing; cases r <;> rfl
@[simp] theorem modRing_nParts (f : Nat) (r : RingId) (g : Ring → Ring) (s : State) : (s.modRing f r g).nParts  = s.nParts := by unfold State.modRing; cases r <;> rfl
@[simp] theorem modFlue_pins (f : Nat) (g : Flue → Flue) (s : State) : (s.modFlue f g).pins = s.pins := rfl
@[simp] theorem modFlue_power (f : Nat) (g : Flue → Flue) (s : State) : (s.modFlue f g).power = s.power := rfl
@[simp] theorem modFlue_lc (f : Nat) (g : Flue → Flue) (s : State) : (s.modFlue f g).lc = s.lc := rfl
@[simp] theorem modFlue_dbg (f : Nat) (g : Flue → Flue) (s : State) : (s.modFlue f g).dbg = s.dbg := rfl
@[simp] theorem modFlue_keys (f : Nat) (g : Flue → Flue) (s : State) : (s.modFlue f g).keys = s.keys := rfl
@[simp] theorem modFlue_common (f : Nat) (g : Flue → Flue) (s : State) : (s.modFlue f g).common = s.common := rfl
@[simp] theorem modFlue_soot (f : Nat) (g : Flue → Flue) (s : State) : (s.modFlue f g).soot = s.soot := rfl
@[simp] theorem modFlue_cv (f : Nat) (g : Flue → Flue) (s : State) : (s.modFlue f g).cv = s.cv := rfl
@[simp] theorem modFlue_health (f : Nat) (g : Flue → Flue) (s : State) : (s.modFlue f g).health = s.health := rfl
@[simp] theorem modFlue_snt (f : Nat) (g : Flue → Flue) (s : State) : (s.modFlue f g).snt = s.snt := rfl
@[simp] theorem modFlue_fab (f : Nat) (g : Flue → Flue) (s : State) : (s.modFlue f g).fab = s.fab := rfl
@[simp] theorem modFlue_sweep (f : Nat) (g : Flue → Flue) (s : State) : (s.modFlue f g).sweep = s.sweep := rfl
@[simp] theorem modFlue_ks (f : Nat) (g : Flue → Flue) (s : State) : (s.modFlue f g).ks = s.ks := rfl
@[simp] theorem modFlue_host (f : Nat) (g : Flue → Flue) (s : State) : (s.modFlue f g).host = s.host := rfl
@[simp] theorem modFlue_parts (f : Nat) (g : Flue → Flue) (s : State) : (s.modFlue f g).parts = s.parts := rfl
@[simp] theorem modFlue_quarters (f : Nat) (g : Flue → Flue) (s : State) : (s.modFlue f g).quarters = s.quarters := rfl
@[simp] theorem modFlue_tcache (f : Nat) (g : Flue → Flue) (s : State) : (s.modFlue f g).tcache = s.tcache := rfl
@[simp] theorem modFlue_outHold (f : Nat) (g : Flue → Flue) (s : State) : (s.modFlue f g).outHold = s.outHold := rfl
@[simp] theorem modFlue_hostHold (f : Nat) (g : Flue → Flue) (s : State) : (s.modFlue f g).hostHold = s.hostHold := rfl
@[simp] theorem modFlue_pending (f : Nat) (g : Flue → Flue) (s : State) : (s.modFlue f g).pending = s.pending := rfl
@[simp] theorem modFlue_freeCount (f : Nat) (g : Flue → Flue) (s : State) : (s.modFlue f g).freeCount = s.freeCount := rfl
@[simp] theorem modFlue_out (f : Nat) (g : Flue → Flue) (s : State) : (s.modFlue f g).out = s.out := rfl
@[simp] theorem modFlue_part (f : Nat) (g : Flue → Flue) (s : State) (m : Nat) : (s.modFlue f g).part m = s.part m := rfl
@[simp] theorem modFlue_ember (f : Nat) (g : Flue → Flue) (s : State) (k : Nat) : (s.modFlue f g).ember k = s.ember k := rfl
@[simp] theorem modFlue_thread (f : Nat) (g : Flue → Flue) (s : State) (k j : Nat) : (s.modFlue f g).thread k j = s.thread k j := rfl
@[simp] theorem modFlue_inService (f : Nat) (g : Flue → Flue) (s : State) : (s.modFlue f g).inService  = s.inService := rfl
@[simp] theorem modFlue_partOf (f : Nat) (g : Flue → Flue) (s : State) (k : Nat) : (s.modFlue f g).partOf k = s.partOf k := rfl
@[simp] theorem modFlue_isBe (f : Nat) (g : Flue → Flue) (s : State) (k j : Nat) : (s.modFlue f g).isBe k j = s.isBe k j := rfl
@[simp] theorem modFlue_nParts (f : Nat) (g : Flue → Flue) (s : State) : (s.modFlue f g).nParts  = s.nParts := rfl
@[simp] theorem modKs_pins (f : Kindling → Kindling) (s : State) : (s.modKs f).pins = s.pins := rfl
@[simp] theorem modKs_power (f : Kindling → Kindling) (s : State) : (s.modKs f).power = s.power := rfl
@[simp] theorem modKs_lc (f : Kindling → Kindling) (s : State) : (s.modKs f).lc = s.lc := rfl
@[simp] theorem modKs_dbg (f : Kindling → Kindling) (s : State) : (s.modKs f).dbg = s.dbg := rfl
@[simp] theorem modKs_keys (f : Kindling → Kindling) (s : State) : (s.modKs f).keys = s.keys := rfl
@[simp] theorem modKs_common (f : Kindling → Kindling) (s : State) : (s.modKs f).common = s.common := rfl
@[simp] theorem modKs_soot (f : Kindling → Kindling) (s : State) : (s.modKs f).soot = s.soot := rfl
@[simp] theorem modKs_cv (f : Kindling → Kindling) (s : State) : (s.modKs f).cv = s.cv := rfl
@[simp] theorem modKs_health (f : Kindling → Kindling) (s : State) : (s.modKs f).health = s.health := rfl
@[simp] theorem modKs_snt (f : Kindling → Kindling) (s : State) : (s.modKs f).snt = s.snt := rfl
@[simp] theorem modKs_fab (f : Kindling → Kindling) (s : State) : (s.modKs f).fab = s.fab := rfl
@[simp] theorem modKs_flues (f : Kindling → Kindling) (s : State) : (s.modKs f).flues = s.flues := rfl
@[simp] theorem modKs_sweep (f : Kindling → Kindling) (s : State) : (s.modKs f).sweep = s.sweep := rfl
@[simp] theorem modKs_host (f : Kindling → Kindling) (s : State) : (s.modKs f).host = s.host := rfl
@[simp] theorem modKs_parts (f : Kindling → Kindling) (s : State) : (s.modKs f).parts = s.parts := rfl
@[simp] theorem modKs_quarters (f : Kindling → Kindling) (s : State) : (s.modKs f).quarters = s.quarters := rfl
@[simp] theorem modKs_tcache (f : Kindling → Kindling) (s : State) : (s.modKs f).tcache = s.tcache := rfl
@[simp] theorem modKs_outHold (f : Kindling → Kindling) (s : State) : (s.modKs f).outHold = s.outHold := rfl
@[simp] theorem modKs_hostHold (f : Kindling → Kindling) (s : State) : (s.modKs f).hostHold = s.hostHold := rfl
@[simp] theorem modKs_pending (f : Kindling → Kindling) (s : State) : (s.modKs f).pending = s.pending := rfl
@[simp] theorem modKs_freeCount (f : Kindling → Kindling) (s : State) : (s.modKs f).freeCount = s.freeCount := rfl
@[simp] theorem modKs_out (f : Kindling → Kindling) (s : State) : (s.modKs f).out = s.out := rfl
@[simp] theorem modKs_part (f : Kindling → Kindling) (s : State) (m : Nat) : (s.modKs f).part m = s.part m := rfl
@[simp] theorem modKs_ember (f : Kindling → Kindling) (s : State) (k : Nat) : (s.modKs f).ember k = s.ember k := rfl
@[simp] theorem modKs_thread (f : Kindling → Kindling) (s : State) (k j : Nat) : (s.modKs f).thread k j = s.thread k j := rfl
@[simp] theorem modKs_inService (f : Kindling → Kindling) (s : State) : (s.modKs f).inService  = s.inService := rfl
@[simp] theorem modKs_partOf (f : Kindling → Kindling) (s : State) (k : Nat) : (s.modKs f).partOf k = s.partOf k := rfl
@[simp] theorem modKs_isBe (f : Kindling → Kindling) (s : State) (k j : Nat) : (s.modKs f).isBe k j = s.isBe k j := rfl
@[simp] theorem modKs_nParts (f : Kindling → Kindling) (s : State) : (s.modKs f).nParts  = s.nParts := rfl
@[simp] theorem modLc_pins (f : LifeCycle → LifeCycle) (s : State) : (s.modLc f).pins = s.pins := rfl
@[simp] theorem modLc_power (f : LifeCycle → LifeCycle) (s : State) : (s.modLc f).power = s.power := rfl
@[simp] theorem modLc_dbg (f : LifeCycle → LifeCycle) (s : State) : (s.modLc f).dbg = s.dbg := rfl
@[simp] theorem modLc_keys (f : LifeCycle → LifeCycle) (s : State) : (s.modLc f).keys = s.keys := rfl
@[simp] theorem modLc_common (f : LifeCycle → LifeCycle) (s : State) : (s.modLc f).common = s.common := rfl
@[simp] theorem modLc_soot (f : LifeCycle → LifeCycle) (s : State) : (s.modLc f).soot = s.soot := rfl
@[simp] theorem modLc_cv (f : LifeCycle → LifeCycle) (s : State) : (s.modLc f).cv = s.cv := rfl
@[simp] theorem modLc_health (f : LifeCycle → LifeCycle) (s : State) : (s.modLc f).health = s.health := rfl
@[simp] theorem modLc_snt (f : LifeCycle → LifeCycle) (s : State) : (s.modLc f).snt = s.snt := rfl
@[simp] theorem modLc_fab (f : LifeCycle → LifeCycle) (s : State) : (s.modLc f).fab = s.fab := rfl
@[simp] theorem modLc_flues (f : LifeCycle → LifeCycle) (s : State) : (s.modLc f).flues = s.flues := rfl
@[simp] theorem modLc_sweep (f : LifeCycle → LifeCycle) (s : State) : (s.modLc f).sweep = s.sweep := rfl
@[simp] theorem modLc_ks (f : LifeCycle → LifeCycle) (s : State) : (s.modLc f).ks = s.ks := rfl
@[simp] theorem modLc_host (f : LifeCycle → LifeCycle) (s : State) : (s.modLc f).host = s.host := rfl
@[simp] theorem modLc_parts (f : LifeCycle → LifeCycle) (s : State) : (s.modLc f).parts = s.parts := rfl
@[simp] theorem modLc_quarters (f : LifeCycle → LifeCycle) (s : State) : (s.modLc f).quarters = s.quarters := rfl
@[simp] theorem modLc_tcache (f : LifeCycle → LifeCycle) (s : State) : (s.modLc f).tcache = s.tcache := rfl
@[simp] theorem modLc_outHold (f : LifeCycle → LifeCycle) (s : State) : (s.modLc f).outHold = s.outHold := rfl
@[simp] theorem modLc_hostHold (f : LifeCycle → LifeCycle) (s : State) : (s.modLc f).hostHold = s.hostHold := rfl
@[simp] theorem modLc_pending (f : LifeCycle → LifeCycle) (s : State) : (s.modLc f).pending = s.pending := rfl
@[simp] theorem modLc_freeCount (f : LifeCycle → LifeCycle) (s : State) : (s.modLc f).freeCount = s.freeCount := rfl
@[simp] theorem modLc_out (f : LifeCycle → LifeCycle) (s : State) : (s.modLc f).out = s.out := rfl
@[simp] theorem modLc_part (f : LifeCycle → LifeCycle) (s : State) (m : Nat) : (s.modLc f).part m = s.part m := rfl
@[simp] theorem modLc_ember (f : LifeCycle → LifeCycle) (s : State) (k : Nat) : (s.modLc f).ember k = s.ember k := rfl
@[simp] theorem modLc_thread (f : LifeCycle → LifeCycle) (s : State) (k j : Nat) : (s.modLc f).thread k j = s.thread k j := rfl
@[simp] theorem modLc_inService (f : LifeCycle → LifeCycle) (s : State) : (s.modLc f).inService  = s.inService := rfl
@[simp] theorem modLc_partOf (f : LifeCycle → LifeCycle) (s : State) (k : Nat) : (s.modLc f).partOf k = s.partOf k := rfl
@[simp] theorem modLc_isBe (f : LifeCycle → LifeCycle) (s : State) (k j : Nat) : (s.modLc f).isBe k j = s.isBe k j := rfl
@[simp] theorem modLc_nParts (f : LifeCycle → LifeCycle) (s : State) : (s.modLc f).nParts  = s.nParts := rfl
@[simp] theorem modPower_pins (f : Power → Power) (s : State) : (s.modPower f).pins = s.pins := rfl
@[simp] theorem modPower_lc (f : Power → Power) (s : State) : (s.modPower f).lc = s.lc := rfl
@[simp] theorem modPower_dbg (f : Power → Power) (s : State) : (s.modPower f).dbg = s.dbg := rfl
@[simp] theorem modPower_keys (f : Power → Power) (s : State) : (s.modPower f).keys = s.keys := rfl
@[simp] theorem modPower_common (f : Power → Power) (s : State) : (s.modPower f).common = s.common := rfl
@[simp] theorem modPower_soot (f : Power → Power) (s : State) : (s.modPower f).soot = s.soot := rfl
@[simp] theorem modPower_cv (f : Power → Power) (s : State) : (s.modPower f).cv = s.cv := rfl
@[simp] theorem modPower_health (f : Power → Power) (s : State) : (s.modPower f).health = s.health := rfl
@[simp] theorem modPower_snt (f : Power → Power) (s : State) : (s.modPower f).snt = s.snt := rfl
@[simp] theorem modPower_fab (f : Power → Power) (s : State) : (s.modPower f).fab = s.fab := rfl
@[simp] theorem modPower_flues (f : Power → Power) (s : State) : (s.modPower f).flues = s.flues := rfl
@[simp] theorem modPower_sweep (f : Power → Power) (s : State) : (s.modPower f).sweep = s.sweep := rfl
@[simp] theorem modPower_ks (f : Power → Power) (s : State) : (s.modPower f).ks = s.ks := rfl
@[simp] theorem modPower_host (f : Power → Power) (s : State) : (s.modPower f).host = s.host := rfl
@[simp] theorem modPower_parts (f : Power → Power) (s : State) : (s.modPower f).parts = s.parts := rfl
@[simp] theorem modPower_quarters (f : Power → Power) (s : State) : (s.modPower f).quarters = s.quarters := rfl
@[simp] theorem modPower_tcache (f : Power → Power) (s : State) : (s.modPower f).tcache = s.tcache := rfl
@[simp] theorem modPower_outHold (f : Power → Power) (s : State) : (s.modPower f).outHold = s.outHold := rfl
@[simp] theorem modPower_hostHold (f : Power → Power) (s : State) : (s.modPower f).hostHold = s.hostHold := rfl
@[simp] theorem modPower_pending (f : Power → Power) (s : State) : (s.modPower f).pending = s.pending := rfl
@[simp] theorem modPower_freeCount (f : Power → Power) (s : State) : (s.modPower f).freeCount = s.freeCount := rfl
@[simp] theorem modPower_out (f : Power → Power) (s : State) : (s.modPower f).out = s.out := rfl
@[simp] theorem modPower_part (f : Power → Power) (s : State) (m : Nat) : (s.modPower f).part m = s.part m := rfl
@[simp] theorem modPower_ember (f : Power → Power) (s : State) (k : Nat) : (s.modPower f).ember k = s.ember k := rfl
@[simp] theorem modPower_thread (f : Power → Power) (s : State) (k j : Nat) : (s.modPower f).thread k j = s.thread k j := rfl
@[simp] theorem modPower_partOf (f : Power → Power) (s : State) (k : Nat) : (s.modPower f).partOf k = s.partOf k := rfl
@[simp] theorem modPower_isBe (f : Power → Power) (s : State) (k j : Nat) : (s.modPower f).isBe k j = s.isBe k j := rfl
@[simp] theorem modPower_nParts (f : Power → Power) (s : State) : (s.modPower f).nParts  = s.nParts := rfl
@[simp] theorem emit_pins (o : Output) (s : State) : (s.emit o).pins = s.pins := rfl
@[simp] theorem emit_power (o : Output) (s : State) : (s.emit o).power = s.power := rfl
@[simp] theorem emit_lc (o : Output) (s : State) : (s.emit o).lc = s.lc := rfl
@[simp] theorem emit_dbg (o : Output) (s : State) : (s.emit o).dbg = s.dbg := rfl
@[simp] theorem emit_keys (o : Output) (s : State) : (s.emit o).keys = s.keys := rfl
@[simp] theorem emit_common (o : Output) (s : State) : (s.emit o).common = s.common := rfl
@[simp] theorem emit_soot (o : Output) (s : State) : (s.emit o).soot = s.soot := rfl
@[simp] theorem emit_cv (o : Output) (s : State) : (s.emit o).cv = s.cv := rfl
@[simp] theorem emit_health (o : Output) (s : State) : (s.emit o).health = s.health := rfl
@[simp] theorem emit_snt (o : Output) (s : State) : (s.emit o).snt = s.snt := rfl
@[simp] theorem emit_fab (o : Output) (s : State) : (s.emit o).fab = s.fab := rfl
@[simp] theorem emit_flues (o : Output) (s : State) : (s.emit o).flues = s.flues := rfl
@[simp] theorem emit_sweep (o : Output) (s : State) : (s.emit o).sweep = s.sweep := rfl
@[simp] theorem emit_ks (o : Output) (s : State) : (s.emit o).ks = s.ks := rfl
@[simp] theorem emit_host (o : Output) (s : State) : (s.emit o).host = s.host := rfl
@[simp] theorem emit_parts (o : Output) (s : State) : (s.emit o).parts = s.parts := rfl
@[simp] theorem emit_quarters (o : Output) (s : State) : (s.emit o).quarters = s.quarters := rfl
@[simp] theorem emit_tcache (o : Output) (s : State) : (s.emit o).tcache = s.tcache := rfl
@[simp] theorem emit_outHold (o : Output) (s : State) : (s.emit o).outHold = s.outHold := rfl
@[simp] theorem emit_hostHold (o : Output) (s : State) : (s.emit o).hostHold = s.hostHold := rfl
@[simp] theorem emit_pending (o : Output) (s : State) : (s.emit o).pending = s.pending := rfl
@[simp] theorem emit_freeCount (o : Output) (s : State) : (s.emit o).freeCount = s.freeCount := rfl
@[simp] theorem emit_part (o : Output) (s : State) (m : Nat) : (s.emit o).part m = s.part m := rfl
@[simp] theorem emit_ember (o : Output) (s : State) (k : Nat) : (s.emit o).ember k = s.ember k := rfl
@[simp] theorem emit_thread (o : Output) (s : State) (k j : Nat) : (s.emit o).thread k j = s.thread k j := rfl
@[simp] theorem emit_inService (o : Output) (s : State) : (s.emit o).inService  = s.inService := rfl
@[simp] theorem emit_partOf (o : Output) (s : State) (k : Nat) : (s.emit o).partOf k = s.partOf k := rfl
@[simp] theorem emit_isBe (o : Output) (s : State) (k j : Nat) : (s.emit o).isBe k j = s.isBe k j := rfl
@[simp] theorem emit_nParts (o : Output) (s : State) : (s.emit o).nParts  = s.nParts := rfl
@[simp] theorem draw_pins (s : State) : (s.draw.2).pins = s.pins := rfl
@[simp] theorem draw_power (s : State) : (s.draw.2).power = s.power := rfl
@[simp] theorem draw_lc (s : State) : (s.draw.2).lc = s.lc := rfl
@[simp] theorem draw_dbg (s : State) : (s.draw.2).dbg = s.dbg := rfl
@[simp] theorem draw_keys (s : State) : (s.draw.2).keys = s.keys := rfl
@[simp] theorem draw_common (s : State) : (s.draw.2).common = s.common := rfl
@[simp] theorem draw_soot (s : State) : (s.draw.2).soot = s.soot := rfl
@[simp] theorem draw_cv (s : State) : (s.draw.2).cv = s.cv := rfl
@[simp] theorem draw_health (s : State) : (s.draw.2).health = s.health := rfl
@[simp] theorem draw_snt (s : State) : (s.draw.2).snt = s.snt := rfl
@[simp] theorem draw_fab (s : State) : (s.draw.2).fab = s.fab := rfl
@[simp] theorem draw_flues (s : State) : (s.draw.2).flues = s.flues := rfl
@[simp] theorem draw_sweep (s : State) : (s.draw.2).sweep = s.sweep := rfl
@[simp] theorem draw_ks (s : State) : (s.draw.2).ks = s.ks := rfl
@[simp] theorem draw_host (s : State) : (s.draw.2).host = s.host := rfl
@[simp] theorem draw_parts (s : State) : (s.draw.2).parts = s.parts := rfl
@[simp] theorem draw_quarters (s : State) : (s.draw.2).quarters = s.quarters := rfl
@[simp] theorem draw_tcache (s : State) : (s.draw.2).tcache = s.tcache := rfl
@[simp] theorem draw_outHold (s : State) : (s.draw.2).outHold = s.outHold := rfl
@[simp] theorem draw_hostHold (s : State) : (s.draw.2).hostHold = s.hostHold := rfl
@[simp] theorem draw_pending (s : State) : (s.draw.2).pending = s.pending := rfl
@[simp] theorem draw_out (s : State) : (s.draw.2).out = s.out := rfl
@[simp] theorem draw_part (s : State) (m : Nat) : (s.draw.2).part m = s.part m := rfl
@[simp] theorem draw_ember (s : State) (k : Nat) : (s.draw.2).ember k = s.ember k := rfl
@[simp] theorem draw_thread (s : State) (k j : Nat) : (s.draw.2).thread k j = s.thread k j := rfl
@[simp] theorem draw_inService (s : State) : (s.draw.2).inService  = s.inService := rfl
@[simp] theorem draw_partOf (s : State) (k : Nat) : (s.draw.2).partOf k = s.partOf k := rfl
@[simp] theorem draw_isBe (s : State) (k j : Nat) : (s.draw.2).isBe k j = s.isBe k j := rfl
@[simp] theorem draw_nParts (s : State) : (s.draw.2).nParts  = s.nParts := rfl
@[simp] theorem takeFree_pins (s : State) : (s.takeFree.2).pins = s.pins := rfl
@[simp] theorem takeFree_power (s : State) : (s.takeFree.2).power = s.power := rfl
@[simp] theorem takeFree_lc (s : State) : (s.takeFree.2).lc = s.lc := rfl
@[simp] theorem takeFree_dbg (s : State) : (s.takeFree.2).dbg = s.dbg := rfl
@[simp] theorem takeFree_keys (s : State) : (s.takeFree.2).keys = s.keys := rfl
@[simp] theorem takeFree_common (s : State) : (s.takeFree.2).common = s.common := rfl
@[simp] theorem takeFree_soot (s : State) : (s.takeFree.2).soot = s.soot := rfl
@[simp] theorem takeFree_cv (s : State) : (s.takeFree.2).cv = s.cv := rfl
@[simp] theorem takeFree_health (s : State) : (s.takeFree.2).health = s.health := rfl
@[simp] theorem takeFree_snt (s : State) : (s.takeFree.2).snt = s.snt := rfl
@[simp] theorem takeFree_fab (s : State) : (s.takeFree.2).fab = s.fab := rfl
@[simp] theorem takeFree_flues (s : State) : (s.takeFree.2).flues = s.flues := rfl
@[simp] theorem takeFree_sweep (s : State) : (s.takeFree.2).sweep = s.sweep := rfl
@[simp] theorem takeFree_ks (s : State) : (s.takeFree.2).ks = s.ks := rfl
@[simp] theorem takeFree_host (s : State) : (s.takeFree.2).host = s.host := rfl
@[simp] theorem takeFree_parts (s : State) : (s.takeFree.2).parts = s.parts := rfl
@[simp] theorem takeFree_quarters (s : State) : (s.takeFree.2).quarters = s.quarters := rfl
@[simp] theorem takeFree_tcache (s : State) : (s.takeFree.2).tcache = s.tcache := rfl
@[simp] theorem takeFree_outHold (s : State) : (s.takeFree.2).outHold = s.outHold := rfl
@[simp] theorem takeFree_hostHold (s : State) : (s.takeFree.2).hostHold = s.hostHold := rfl
@[simp] theorem takeFree_pending (s : State) : (s.takeFree.2).pending = s.pending := rfl
@[simp] theorem takeFree_out (s : State) : (s.takeFree.2).out = s.out := rfl
@[simp] theorem takeFree_part (s : State) (m : Nat) : (s.takeFree.2).part m = s.part m := rfl
@[simp] theorem takeFree_ember (s : State) (k : Nat) : (s.takeFree.2).ember k = s.ember k := rfl
@[simp] theorem takeFree_thread (s : State) (k j : Nat) : (s.takeFree.2).thread k j = s.thread k j := rfl
@[simp] theorem takeFree_inService (s : State) : (s.takeFree.2).inService  = s.inService := rfl
@[simp] theorem takeFree_partOf (s : State) (k : Nat) : (s.takeFree.2).partOf k = s.partOf k := rfl
@[simp] theorem takeFree_isBe (s : State) (k j : Nat) : (s.takeFree.2).isBe k j = s.isBe k j := rfl
@[simp] theorem takeFree_nParts (s : State) : (s.takeFree.2).nParts  = s.nParts := rfl
@[simp] theorem sendFrameVia_pins (v : Option Nat) (n : Nat) (d : Option Pos) (vc : Vc) (b : FrameBody) (s : State) : (sendFrameVia v n d vc b s).pins = s.pins := by unfold sendFrameVia; simp only; split <;> rfl
@[simp] theorem sendFrameVia_power (v : Option Nat) (n : Nat) (d : Option Pos) (vc : Vc) (b : FrameBody) (s : State) : (sendFrameVia v n d vc b s).power = s.power := by unfold sendFrameVia; simp only; split <;> rfl
@[simp] theorem sendFrameVia_lc (v : Option Nat) (n : Nat) (d : Option Pos) (vc : Vc) (b : FrameBody) (s : State) : (sendFrameVia v n d vc b s).lc = s.lc := by unfold sendFrameVia; simp only; split <;> rfl
@[simp] theorem sendFrameVia_dbg (v : Option Nat) (n : Nat) (d : Option Pos) (vc : Vc) (b : FrameBody) (s : State) : (sendFrameVia v n d vc b s).dbg = s.dbg := by unfold sendFrameVia; simp only; split <;> rfl
@[simp] theorem sendFrameVia_keys (v : Option Nat) (n : Nat) (d : Option Pos) (vc : Vc) (b : FrameBody) (s : State) : (sendFrameVia v n d vc b s).keys = s.keys := by unfold sendFrameVia; simp only; split <;> rfl
@[simp] theorem sendFrameVia_common (v : Option Nat) (n : Nat) (d : Option Pos) (vc : Vc) (b : FrameBody) (s : State) : (sendFrameVia v n d vc b s).common = s.common := by unfold sendFrameVia; simp only; split <;> rfl
@[simp] theorem sendFrameVia_soot (v : Option Nat) (n : Nat) (d : Option Pos) (vc : Vc) (b : FrameBody) (s : State) : (sendFrameVia v n d vc b s).soot = s.soot := by unfold sendFrameVia; simp only; split <;> rfl
@[simp] theorem sendFrameVia_cv (v : Option Nat) (n : Nat) (d : Option Pos) (vc : Vc) (b : FrameBody) (s : State) : (sendFrameVia v n d vc b s).cv = s.cv := by unfold sendFrameVia; simp only; split <;> rfl
@[simp] theorem sendFrameVia_health (v : Option Nat) (n : Nat) (d : Option Pos) (vc : Vc) (b : FrameBody) (s : State) : (sendFrameVia v n d vc b s).health = s.health := by unfold sendFrameVia; simp only; split <;> rfl
@[simp] theorem sendFrameVia_snt (v : Option Nat) (n : Nat) (d : Option Pos) (vc : Vc) (b : FrameBody) (s : State) : (sendFrameVia v n d vc b s).snt = s.snt := by unfold sendFrameVia; simp only; split <;> rfl
@[simp] theorem sendFrameVia_fab (v : Option Nat) (n : Nat) (d : Option Pos) (vc : Vc) (b : FrameBody) (s : State) : (sendFrameVia v n d vc b s).fab = s.fab := by unfold sendFrameVia; simp only; split <;> rfl
@[simp] theorem sendFrameVia_flues (v : Option Nat) (n : Nat) (d : Option Pos) (vc : Vc) (b : FrameBody) (s : State) : (sendFrameVia v n d vc b s).flues = s.flues := by unfold sendFrameVia; simp only; split <;> rfl
@[simp] theorem sendFrameVia_sweep (v : Option Nat) (n : Nat) (d : Option Pos) (vc : Vc) (b : FrameBody) (s : State) : (sendFrameVia v n d vc b s).sweep = s.sweep := by unfold sendFrameVia; simp only; split <;> rfl
@[simp] theorem sendFrameVia_ks (v : Option Nat) (n : Nat) (d : Option Pos) (vc : Vc) (b : FrameBody) (s : State) : (sendFrameVia v n d vc b s).ks = s.ks := by unfold sendFrameVia; simp only; split <;> rfl
@[simp] theorem sendFrameVia_host (v : Option Nat) (n : Nat) (d : Option Pos) (vc : Vc) (b : FrameBody) (s : State) : (sendFrameVia v n d vc b s).host = s.host := by unfold sendFrameVia; simp only; split <;> rfl
@[simp] theorem sendFrameVia_parts (v : Option Nat) (n : Nat) (d : Option Pos) (vc : Vc) (b : FrameBody) (s : State) : (sendFrameVia v n d vc b s).parts = s.parts := by unfold sendFrameVia; simp only; split <;> rfl
@[simp] theorem sendFrameVia_quarters (v : Option Nat) (n : Nat) (d : Option Pos) (vc : Vc) (b : FrameBody) (s : State) : (sendFrameVia v n d vc b s).quarters = s.quarters := by unfold sendFrameVia; simp only; split <;> rfl
@[simp] theorem sendFrameVia_tcache (v : Option Nat) (n : Nat) (d : Option Pos) (vc : Vc) (b : FrameBody) (s : State) : (sendFrameVia v n d vc b s).tcache = s.tcache := by unfold sendFrameVia; simp only; split <;> rfl
@[simp] theorem sendFrameVia_hostHold (v : Option Nat) (n : Nat) (d : Option Pos) (vc : Vc) (b : FrameBody) (s : State) : (sendFrameVia v n d vc b s).hostHold = s.hostHold := by unfold sendFrameVia; simp only; split <;> rfl
@[simp] theorem sendFrameVia_pending (v : Option Nat) (n : Nat) (d : Option Pos) (vc : Vc) (b : FrameBody) (s : State) : (sendFrameVia v n d vc b s).pending = s.pending := by unfold sendFrameVia; simp only; split <;> rfl
@[simp] theorem sendFrameVia_freeCount (v : Option Nat) (n : Nat) (d : Option Pos) (vc : Vc) (b : FrameBody) (s : State) : (sendFrameVia v n d vc b s).freeCount = s.freeCount := by unfold sendFrameVia; simp only; split <;> rfl
@[simp] theorem sendFrameVia_out (v : Option Nat) (n : Nat) (d : Option Pos) (vc : Vc) (b : FrameBody) (s : State) : (sendFrameVia v n d vc b s).out = s.out := by unfold sendFrameVia; simp only; split <;> rfl
@[simp] theorem sendFrameVia_part (v : Option Nat) (n : Nat) (d : Option Pos) (vc : Vc) (b : FrameBody) (s : State) (m : Nat) : (sendFrameVia v n d vc b s).part m = s.part m := by unfold sendFrameVia; simp only; split <;> rfl
@[simp] theorem sendFrameVia_ember (v : Option Nat) (n : Nat) (d : Option Pos) (vc : Vc) (b : FrameBody) (s : State) (k : Nat) : (sendFrameVia v n d vc b s).ember k = s.ember k := by unfold sendFrameVia; simp only; split <;> rfl
@[simp] theorem sendFrameVia_thread (v : Option Nat) (n : Nat) (d : Option Pos) (vc : Vc) (b : FrameBody) (s : State) (k j : Nat) : (sendFrameVia v n d vc b s).thread k j = s.thread k j := by unfold sendFrameVia; simp only; split <;> rfl
@[simp] theorem sendFrameVia_inService (v : Option Nat) (n : Nat) (d : Option Pos) (vc : Vc) (b : FrameBody) (s : State) : (sendFrameVia v n d vc b s).inService  = s.inService := by unfold sendFrameVia; simp only; split <;> rfl
@[simp] theorem sendFrameVia_partOf (v : Option Nat) (n : Nat) (d : Option Pos) (vc : Vc) (b : FrameBody) (s : State) (k : Nat) : (sendFrameVia v n d vc b s).partOf k = s.partOf k := by unfold sendFrameVia; simp only; split <;> rfl
@[simp] theorem sendFrameVia_isBe (v : Option Nat) (n : Nat) (d : Option Pos) (vc : Vc) (b : FrameBody) (s : State) (k j : Nat) : (sendFrameVia v n d vc b s).isBe k j = s.isBe k j := by unfold sendFrameVia; simp only; split <;> rfl
@[simp] theorem sendFrameVia_nParts (v : Option Nat) (n : Nat) (d : Option Pos) (vc : Vc) (b : FrameBody) (s : State) : (sendFrameVia v n d vc b s).nParts  = s.nParts := by unfold sendFrameVia; simp only; split <;> rfl
@[simp] theorem sendFrame_pins (n : Nat) (d : Option Pos) (vc : Vc) (b : FrameBody) (s : State) : (sendFrame n d vc b s).pins = s.pins := by unfold sendFrame; simp
@[simp] theorem sendFrame_power (n : Nat) (d : Option Pos) (vc : Vc) (b : FrameBody) (s : State) : (sendFrame n d vc b s).power = s.power := by unfold sendFrame; simp
@[simp] theorem sendFrame_lc (n : Nat) (d : Option Pos) (vc : Vc) (b : FrameBody) (s : State) : (sendFrame n d vc b s).lc = s.lc := by unfold sendFrame; simp
@[simp] theorem sendFrame_dbg (n : Nat) (d : Option Pos) (vc : Vc) (b : FrameBody) (s : State) : (sendFrame n d vc b s).dbg = s.dbg := by unfold sendFrame; simp
@[simp] theorem sendFrame_keys (n : Nat) (d : Option Pos) (vc : Vc) (b : FrameBody) (s : State) : (sendFrame n d vc b s).keys = s.keys := by unfold sendFrame; simp
@[simp] theorem sendFrame_common (n : Nat) (d : Option Pos) (vc : Vc) (b : FrameBody) (s : State) : (sendFrame n d vc b s).common = s.common := by unfold sendFrame; simp
@[simp] theorem sendFrame_soot (n : Nat) (d : Option Pos) (vc : Vc) (b : FrameBody) (s : State) : (sendFrame n d vc b s).soot = s.soot := by unfold sendFrame; simp
@[simp] theorem sendFrame_cv (n : Nat) (d : Option Pos) (vc : Vc) (b : FrameBody) (s : State) : (sendFrame n d vc b s).cv = s.cv := by unfold sendFrame; simp
@[simp] theorem sendFrame_health (n : Nat) (d : Option Pos) (vc : Vc) (b : FrameBody) (s : State) : (sendFrame n d vc b s).health = s.health := by unfold sendFrame; simp
@[simp] theorem sendFrame_snt (n : Nat) (d : Option Pos) (vc : Vc) (b : FrameBody) (s : State) : (sendFrame n d vc b s).snt = s.snt := by unfold sendFrame; simp
@[simp] theorem sendFrame_fab (n : Nat) (d : Option Pos) (vc : Vc) (b : FrameBody) (s : State) : (sendFrame n d vc b s).fab = s.fab := by unfold sendFrame; simp
@[simp] theorem sendFrame_flues (n : Nat) (d : Option Pos) (vc : Vc) (b : FrameBody) (s : State) : (sendFrame n d vc b s).flues = s.flues := by unfold sendFrame; simp
@[simp] theorem sendFrame_sweep (n : Nat) (d : Option Pos) (vc : Vc) (b : FrameBody) (s : State) : (sendFrame n d vc b s).sweep = s.sweep := by unfold sendFrame; simp
@[simp] theorem sendFrame_ks (n : Nat) (d : Option Pos) (vc : Vc) (b : FrameBody) (s : State) : (sendFrame n d vc b s).ks = s.ks := by unfold sendFrame; simp
@[simp] theorem sendFrame_host (n : Nat) (d : Option Pos) (vc : Vc) (b : FrameBody) (s : State) : (sendFrame n d vc b s).host = s.host := by unfold sendFrame; simp
@[simp] theorem sendFrame_parts (n : Nat) (d : Option Pos) (vc : Vc) (b : FrameBody) (s : State) : (sendFrame n d vc b s).parts = s.parts := by unfold sendFrame; simp
@[simp] theorem sendFrame_quarters (n : Nat) (d : Option Pos) (vc : Vc) (b : FrameBody) (s : State) : (sendFrame n d vc b s).quarters = s.quarters := by unfold sendFrame; simp
@[simp] theorem sendFrame_tcache (n : Nat) (d : Option Pos) (vc : Vc) (b : FrameBody) (s : State) : (sendFrame n d vc b s).tcache = s.tcache := by unfold sendFrame; simp
@[simp] theorem sendFrame_hostHold (n : Nat) (d : Option Pos) (vc : Vc) (b : FrameBody) (s : State) : (sendFrame n d vc b s).hostHold = s.hostHold := by unfold sendFrame; simp
@[simp] theorem sendFrame_pending (n : Nat) (d : Option Pos) (vc : Vc) (b : FrameBody) (s : State) : (sendFrame n d vc b s).pending = s.pending := by unfold sendFrame; simp
@[simp] theorem sendFrame_freeCount (n : Nat) (d : Option Pos) (vc : Vc) (b : FrameBody) (s : State) : (sendFrame n d vc b s).freeCount = s.freeCount := by unfold sendFrame; simp
@[simp] theorem sendFrame_out (n : Nat) (d : Option Pos) (vc : Vc) (b : FrameBody) (s : State) : (sendFrame n d vc b s).out = s.out := by unfold sendFrame; simp
@[simp] theorem sendFrame_part (n : Nat) (d : Option Pos) (vc : Vc) (b : FrameBody) (s : State) (m : Nat) : (sendFrame n d vc b s).part m = s.part m := by unfold sendFrame; simp
@[simp] theorem sendFrame_ember (n : Nat) (d : Option Pos) (vc : Vc) (b : FrameBody) (s : State) (k : Nat) : (sendFrame n d vc b s).ember k = s.ember k := by unfold sendFrame; simp
@[simp] theorem sendFrame_thread (n : Nat) (d : Option Pos) (vc : Vc) (b : FrameBody) (s : State) (k j : Nat) : (sendFrame n d vc b s).thread k j = s.thread k j := by unfold sendFrame; simp
@[simp] theorem sendFrame_inService (n : Nat) (d : Option Pos) (vc : Vc) (b : FrameBody) (s : State) : (sendFrame n d vc b s).inService  = s.inService := by unfold sendFrame; simp
@[simp] theorem sendFrame_partOf (n : Nat) (d : Option Pos) (vc : Vc) (b : FrameBody) (s : State) (k : Nat) : (sendFrame n d vc b s).partOf k = s.partOf k := by unfold sendFrame; simp
@[simp] theorem sendFrame_isBe (n : Nat) (d : Option Pos) (vc : Vc) (b : FrameBody) (s : State) (k j : Nat) : (sendFrame n d vc b s).isBe k j = s.isBe k j := by unfold sendFrame; simp
@[simp] theorem sendFrame_nParts (n : Nat) (d : Option Pos) (vc : Vc) (b : FrameBody) (s : State) : (sendFrame n d vc b s).nParts  = s.nParts := by unfold sendFrame; simp
@[simp] theorem setFault_power (c : FaultCond) (s : State) : (setFault c s).power = s.power := by unfold setFault; split <;> rfl
@[simp] theorem setFault_lc (c : FaultCond) (s : State) : (setFault c s).lc = s.lc := by unfold setFault; split <;> rfl
@[simp] theorem setFault_dbg (c : FaultCond) (s : State) : (setFault c s).dbg = s.dbg := by unfold setFault; split <;> rfl
@[simp] theorem setFault_keys (c : FaultCond) (s : State) : (setFault c s).keys = s.keys := by unfold setFault; split <;> rfl
@[simp] theorem setFault_common (c : FaultCond) (s : State) : (setFault c s).common = s.common := by unfold setFault; split <;> rfl
@[simp] theorem setFault_soot (c : FaultCond) (s : State) : (setFault c s).soot = s.soot := by unfold setFault; split <;> rfl
@[simp] theorem setFault_cv (c : FaultCond) (s : State) : (setFault c s).cv = s.cv := by unfold setFault; split <;> rfl
@[simp] theorem setFault_health (c : FaultCond) (s : State) : (setFault c s).health = s.health := by unfold setFault; split <;> rfl
@[simp] theorem setFault_snt (c : FaultCond) (s : State) : (setFault c s).snt = s.snt := by unfold setFault; split <;> rfl
@[simp] theorem setFault_fab (c : FaultCond) (s : State) : (setFault c s).fab = s.fab := by unfold setFault; split <;> rfl
@[simp] theorem setFault_flues (c : FaultCond) (s : State) : (setFault c s).flues = s.flues := by unfold setFault; split <;> rfl
@[simp] theorem setFault_sweep (c : FaultCond) (s : State) : (setFault c s).sweep = s.sweep := by unfold setFault; split <;> rfl
@[simp] theorem setFault_ks (c : FaultCond) (s : State) : (setFault c s).ks = s.ks := by unfold setFault; split <;> rfl
@[simp] theorem setFault_host (c : FaultCond) (s : State) : (setFault c s).host = s.host := by unfold setFault; split <;> rfl
@[simp] theorem setFault_parts (c : FaultCond) (s : State) : (setFault c s).parts = s.parts := by unfold setFault; split <;> rfl
@[simp] theorem setFault_quarters (c : FaultCond) (s : State) : (setFault c s).quarters = s.quarters := by unfold setFault; split <;> rfl
@[simp] theorem setFault_tcache (c : FaultCond) (s : State) : (setFault c s).tcache = s.tcache := by unfold setFault; split <;> rfl
@[simp] theorem setFault_outHold (c : FaultCond) (s : State) : (setFault c s).outHold = s.outHold := by unfold setFault; split <;> rfl
@[simp] theorem setFault_hostHold (c : FaultCond) (s : State) : (setFault c s).hostHold = s.hostHold := by unfold setFault; split <;> rfl
@[simp] theorem setFault_pending (c : FaultCond) (s : State) : (setFault c s).pending = s.pending := by unfold setFault; split <;> rfl
@[simp] theorem setFault_freeCount (c : FaultCond) (s : State) : (setFault c s).freeCount = s.freeCount := by unfold setFault; split <;> rfl
@[simp] theorem setFault_out (c : FaultCond) (s : State) : (setFault c s).out = s.out := by unfold setFault; split <;> rfl
@[simp] theorem setFault_part (c : FaultCond) (s : State) (m : Nat) : (setFault c s).part m = s.part m := by unfold setFault; split <;> rfl
@[simp] theorem setFault_ember (c : FaultCond) (s : State) (k : Nat) : (setFault c s).ember k = s.ember k := by unfold setFault; split <;> rfl
@[simp] theorem setFault_thread (c : FaultCond) (s : State) (k j : Nat) : (setFault c s).thread k j = s.thread k j := by unfold setFault; split <;> rfl
@[simp] theorem setFault_inService (c : FaultCond) (s : State) : (setFault c s).inService  = s.inService := by unfold setFault; split <;> rfl
@[simp] theorem setFault_partOf (c : FaultCond) (s : State) (k : Nat) : (setFault c s).partOf k = s.partOf k := by unfold setFault; split <;> rfl
@[simp] theorem setFault_isBe (c : FaultCond) (s : State) (k j : Nat) : (setFault c s).isBe k j = s.isBe k j := by unfold setFault; split <;> rfl
@[simp] theorem setFault_nParts (c : FaultCond) (s : State) : (setFault c s).nParts  = s.nParts := by unfold setFault; split <;> rfl
@[simp] theorem clearFault_power (c : FaultCond) (s : State) : (clearFault c s).power = s.power := rfl
@[simp] theorem clearFault_lc (c : FaultCond) (s : State) : (clearFault c s).lc = s.lc := rfl
@[simp] theorem clearFault_dbg (c : FaultCond) (s : State) : (clearFault c s).dbg = s.dbg := rfl
@[simp] theorem clearFault_keys (c : FaultCond) (s : State) : (clearFault c s).keys = s.keys := rfl
@[simp] theorem clearFault_common (c : FaultCond) (s : State) : (clearFault c s).common = s.common := rfl
@[simp] theorem clearFault_soot (c : FaultCond) (s : State) : (clearFault c s).soot = s.soot := rfl
@[simp] theorem clearFault_cv (c : FaultCond) (s : State) : (clearFault c s).cv = s.cv := rfl
@[simp] theorem clearFault_health (c : FaultCond) (s : State) : (clearFault c s).health = s.health := rfl
@[simp] theorem clearFault_snt (c : FaultCond) (s : State) : (clearFault c s).snt = s.snt := rfl
@[simp] theorem clearFault_fab (c : FaultCond) (s : State) : (clearFault c s).fab = s.fab := rfl
@[simp] theorem clearFault_flues (c : FaultCond) (s : State) : (clearFault c s).flues = s.flues := rfl
@[simp] theorem clearFault_sweep (c : FaultCond) (s : State) : (clearFault c s).sweep = s.sweep := rfl
@[simp] theorem clearFault_ks (c : FaultCond) (s : State) : (clearFault c s).ks = s.ks := rfl
@[simp] theorem clearFault_host (c : FaultCond) (s : State) : (clearFault c s).host = s.host := rfl
@[simp] theorem clearFault_parts (c : FaultCond) (s : State) : (clearFault c s).parts = s.parts := rfl
@[simp] theorem clearFault_quarters (c : FaultCond) (s : State) : (clearFault c s).quarters = s.quarters := rfl
@[simp] theorem clearFault_tcache (c : FaultCond) (s : State) : (clearFault c s).tcache = s.tcache := rfl
@[simp] theorem clearFault_outHold (c : FaultCond) (s : State) : (clearFault c s).outHold = s.outHold := rfl
@[simp] theorem clearFault_hostHold (c : FaultCond) (s : State) : (clearFault c s).hostHold = s.hostHold := rfl
@[simp] theorem clearFault_pending (c : FaultCond) (s : State) : (clearFault c s).pending = s.pending := rfl
@[simp] theorem clearFault_freeCount (c : FaultCond) (s : State) : (clearFault c s).freeCount = s.freeCount := rfl
@[simp] theorem clearFault_out (c : FaultCond) (s : State) : (clearFault c s).out = s.out := rfl
@[simp] theorem clearFault_part (c : FaultCond) (s : State) (m : Nat) : (clearFault c s).part m = s.part m := rfl
@[simp] theorem clearFault_ember (c : FaultCond) (s : State) (k : Nat) : (clearFault c s).ember k = s.ember k := rfl
@[simp] theorem clearFault_thread (c : FaultCond) (s : State) (k j : Nat) : (clearFault c s).thread k j = s.thread k j := rfl
@[simp] theorem clearFault_inService (c : FaultCond) (s : State) : (clearFault c s).inService  = s.inService := rfl
@[simp] theorem clearFault_partOf (c : FaultCond) (s : State) (k : Nat) : (clearFault c s).partOf k = s.partOf k := rfl
@[simp] theorem clearFault_isBe (c : FaultCond) (s : State) (k j : Nat) : (clearFault c s).isBe k j = s.isBe k j := rfl
@[simp] theorem clearFault_nParts (c : FaultCond) (s : State) : (clearFault c s).nParts  = s.nParts := rfl
@[simp] theorem putRecord_pins (f : Nat) (r : HostRecord) (s : State) : (putRecord f r s).pins = s.pins := rfl
@[simp] theorem putRecord_power (f : Nat) (r : HostRecord) (s : State) : (putRecord f r s).power = s.power := rfl
@[simp] theorem putRecord_lc (f : Nat) (r : HostRecord) (s : State) : (putRecord f r s).lc = s.lc := rfl
@[simp] theorem putRecord_dbg (f : Nat) (r : HostRecord) (s : State) : (putRecord f r s).dbg = s.dbg := rfl
@[simp] theorem putRecord_keys (f : Nat) (r : HostRecord) (s : State) : (putRecord f r s).keys = s.keys := rfl
@[simp] theorem putRecord_common (f : Nat) (r : HostRecord) (s : State) : (putRecord f r s).common = s.common := rfl
@[simp] theorem putRecord_soot (f : Nat) (r : HostRecord) (s : State) : (putRecord f r s).soot = s.soot := rfl
@[simp] theorem putRecord_cv (f : Nat) (r : HostRecord) (s : State) : (putRecord f r s).cv = s.cv := rfl
@[simp] theorem putRecord_health (f : Nat) (r : HostRecord) (s : State) : (putRecord f r s).health = s.health := rfl
@[simp] theorem putRecord_snt (f : Nat) (r : HostRecord) (s : State) : (putRecord f r s).snt = s.snt := rfl
@[simp] theorem putRecord_fab (f : Nat) (r : HostRecord) (s : State) : (putRecord f r s).fab = s.fab := rfl
@[simp] theorem putRecord_flues (f : Nat) (r : HostRecord) (s : State) : (putRecord f r s).flues = s.flues := rfl
@[simp] theorem putRecord_sweep (f : Nat) (r : HostRecord) (s : State) : (putRecord f r s).sweep = s.sweep := rfl
@[simp] theorem putRecord_ks (f : Nat) (r : HostRecord) (s : State) : (putRecord f r s).ks = s.ks := rfl
@[simp] theorem putRecord_parts (f : Nat) (r : HostRecord) (s : State) : (putRecord f r s).parts = s.parts := rfl
@[simp] theorem putRecord_quarters (f : Nat) (r : HostRecord) (s : State) : (putRecord f r s).quarters = s.quarters := rfl
@[simp] theorem putRecord_tcache (f : Nat) (r : HostRecord) (s : State) : (putRecord f r s).tcache = s.tcache := rfl
@[simp] theorem putRecord_outHold (f : Nat) (r : HostRecord) (s : State) : (putRecord f r s).outHold = s.outHold := rfl
@[simp] theorem putRecord_hostHold (f : Nat) (r : HostRecord) (s : State) : (putRecord f r s).hostHold = s.hostHold := rfl
@[simp] theorem putRecord_pending (f : Nat) (r : HostRecord) (s : State) : (putRecord f r s).pending = s.pending := rfl
@[simp] theorem putRecord_freeCount (f : Nat) (r : HostRecord) (s : State) : (putRecord f r s).freeCount = s.freeCount := rfl
@[simp] theorem putRecord_part (f : Nat) (r : HostRecord) (s : State) (m : Nat) : (putRecord f r s).part m = s.part m := rfl
@[simp] theorem putRecord_ember (f : Nat) (r : HostRecord) (s : State) (k : Nat) : (putRecord f r s).ember k = s.ember k := rfl
@[simp] theorem putRecord_thread (f : Nat) (r : HostRecord) (s : State) (k j : Nat) : (putRecord f r s).thread k j = s.thread k j := rfl
@[simp] theorem putRecord_inService (f : Nat) (r : HostRecord) (s : State) : (putRecord f r s).inService  = s.inService := rfl
@[simp] theorem putRecord_partOf (f : Nat) (r : HostRecord) (s : State) (k : Nat) : (putRecord f r s).partOf k = s.partOf k := rfl
@[simp] theorem putRecord_isBe (f : Nat) (r : HostRecord) (s : State) (k j : Nat) : (putRecord f r s).isBe k j = s.isBe k j := rfl
@[simp] theorem putRecord_nParts (f : Nat) (r : HostRecord) (s : State) : (putRecord f r s).nParts  = s.nParts := rfl
@[simp] theorem hostRecord_pins (f : Nat) (r : HostRecord) (s : State) : (hostRecord f r s).pins = s.pins := by unfold hostRecord; simp only; (repeat' split) <;> first | rfl | simp
@[simp] theorem hostRecord_power (f : Nat) (r : HostRecord) (s : State) : (hostRecord f r s).power = s.power := by unfold hostRecord; simp only; (repeat' split) <;> first | rfl | simp
@[simp] theorem hostRecord_lc (f : Nat) (r : HostRecord) (s : State) : (hostRecord f r s).lc = s.lc := by unfold hostRecord; simp only; (repeat' split) <;> first | rfl | simp
@[simp] theorem hostRecord_dbg (f : Nat) (r : HostRecord) (s : State) : (hostRecord f r s).dbg = s.dbg := by unfold hostRecord; simp only; (repeat' split) <;> first | rfl | simp
@[simp] theorem hostRecord_keys (f : Nat) (r : HostRecord) (s : State) : (hostRecord f r s).keys = s.keys := by unfold hostRecord; simp only; (repeat' split) <;> first | rfl | simp
@[simp] theorem hostRecord_common (f : Nat) (r : HostRecord) (s : State) : (hostRecord f r s).common = s.common := by unfold hostRecord; simp only; (repeat' split) <;> first | rfl | simp
@[simp] theorem hostRecord_soot (f : Nat) (r : HostRecord) (s : State) : (hostRecord f r s).soot = s.soot := by unfold hostRecord; simp only; (repeat' split) <;> first | rfl | simp
@[simp] theorem hostRecord_cv (f : Nat) (r : HostRecord) (s : State) : (hostRecord f r s).cv = s.cv := by unfold hostRecord; simp only; (repeat' split) <;> first | rfl | simp
@[simp] theorem hostRecord_health (f : Nat) (r : HostRecord) (s : State) : (hostRecord f r s).health = s.health := by unfold hostRecord; simp only; (repeat' split) <;> first | rfl | simp
@[simp] theorem hostRecord_snt (f : Nat) (r : HostRecord) (s : State) : (hostRecord f r s).snt = s.snt := by unfold hostRecord; simp only; (repeat' split) <;> first | rfl | simp
@[simp] theorem hostRecord_fab (f : Nat) (r : HostRecord) (s : State) : (hostRecord f r s).fab = s.fab := by unfold hostRecord; simp only; (repeat' split) <;> first | rfl | simp
@[simp] theorem hostRecord_flues (f : Nat) (r : HostRecord) (s : State) : (hostRecord f r s).flues = s.flues := by unfold hostRecord; simp only; (repeat' split) <;> first | rfl | simp
@[simp] theorem hostRecord_sweep (f : Nat) (r : HostRecord) (s : State) : (hostRecord f r s).sweep = s.sweep := by unfold hostRecord; simp only; (repeat' split) <;> first | rfl | simp
@[simp] theorem hostRecord_ks (f : Nat) (r : HostRecord) (s : State) : (hostRecord f r s).ks = s.ks := by unfold hostRecord; simp only; (repeat' split) <;> first | rfl | simp
@[simp] theorem hostRecord_parts (f : Nat) (r : HostRecord) (s : State) : (hostRecord f r s).parts = s.parts := by unfold hostRecord; simp only; (repeat' split) <;> first | rfl | simp
@[simp] theorem hostRecord_quarters (f : Nat) (r : HostRecord) (s : State) : (hostRecord f r s).quarters = s.quarters := by unfold hostRecord; simp only; (repeat' split) <;> first | rfl | simp
@[simp] theorem hostRecord_tcache (f : Nat) (r : HostRecord) (s : State) : (hostRecord f r s).tcache = s.tcache := by unfold hostRecord; simp only; (repeat' split) <;> first | rfl | simp
@[simp] theorem hostRecord_outHold (f : Nat) (r : HostRecord) (s : State) : (hostRecord f r s).outHold = s.outHold := by unfold hostRecord; simp only; (repeat' split) <;> first | rfl | simp
@[simp] theorem hostRecord_hostHold (f : Nat) (r : HostRecord) (s : State) : (hostRecord f r s).hostHold = s.hostHold := by unfold hostRecord; simp only; (repeat' split) <;> first | rfl | simp
@[simp] theorem hostRecord_pending (f : Nat) (r : HostRecord) (s : State) : (hostRecord f r s).pending = s.pending := by unfold hostRecord; simp only; (repeat' split) <;> first | rfl | simp
@[simp] theorem hostRecord_freeCount (f : Nat) (r : HostRecord) (s : State) : (hostRecord f r s).freeCount = s.freeCount := by unfold hostRecord; simp only; (repeat' split) <;> first | rfl | simp
@[simp] theorem hostRecord_part (f : Nat) (r : HostRecord) (s : State) (m : Nat) : (hostRecord f r s).part m = s.part m := by unfold hostRecord; simp only; (repeat' split) <;> first | rfl | simp
@[simp] theorem hostRecord_ember (f : Nat) (r : HostRecord) (s : State) (k : Nat) : (hostRecord f r s).ember k = s.ember k := by unfold hostRecord; simp only; (repeat' split) <;> first | rfl | simp
@[simp] theorem hostRecord_thread (f : Nat) (r : HostRecord) (s : State) (k j : Nat) : (hostRecord f r s).thread k j = s.thread k j := by unfold hostRecord; simp only; (repeat' split) <;> first | rfl | simp
@[simp] theorem hostRecord_inService (f : Nat) (r : HostRecord) (s : State) : (hostRecord f r s).inService  = s.inService := by unfold hostRecord; simp only; (repeat' split) <;> first | rfl | simp
@[simp] theorem hostRecord_partOf (f : Nat) (r : HostRecord) (s : State) (k : Nat) : (hostRecord f r s).partOf k = s.partOf k := by unfold hostRecord; simp only; (repeat' split) <;> first | rfl | simp
@[simp] theorem hostRecord_isBe (f : Nat) (r : HostRecord) (s : State) (k j : Nat) : (hostRecord f r s).isBe k j = s.isBe k j := by unfold hostRecord; simp only; (repeat' split) <;> first | rfl | simp
@[simp] theorem hostRecord_nParts (f : Nat) (r : HostRecord) (s : State) : (hostRecord f r s).nParts  = s.nParts := by unfold hostRecord; simp only; (repeat' split) <;> first | rfl | simp
@[simp] theorem partRecord_pins (n : Nat) (r : HostRecord) (s : State) : (partRecord n r s).pins = s.pins := by unfold partRecord; simp
@[simp] theorem partRecord_power (n : Nat) (r : HostRecord) (s : State) : (partRecord n r s).power = s.power := by unfold partRecord; simp
@[simp] theorem partRecord_lc (n : Nat) (r : HostRecord) (s : State) : (partRecord n r s).lc = s.lc := by unfold partRecord; simp
@[simp] theorem partRecord_dbg (n : Nat) (r : HostRecord) (s : State) : (partRecord n r s).dbg = s.dbg := by unfold partRecord; simp
@[simp] theorem partRecord_keys (n : Nat) (r : HostRecord) (s : State) : (partRecord n r s).keys = s.keys := by unfold partRecord; simp
@[simp] theorem partRecord_common (n : Nat) (r : HostRecord) (s : State) : (partRecord n r s).common = s.common := by unfold partRecord; simp
@[simp] theorem partRecord_soot (n : Nat) (r : HostRecord) (s : State) : (partRecord n r s).soot = s.soot := by unfold partRecord; simp
@[simp] theorem partRecord_cv (n : Nat) (r : HostRecord) (s : State) : (partRecord n r s).cv = s.cv := by unfold partRecord; simp
@[simp] theorem partRecord_health (n : Nat) (r : HostRecord) (s : State) : (partRecord n r s).health = s.health := by unfold partRecord; simp
@[simp] theorem partRecord_snt (n : Nat) (r : HostRecord) (s : State) : (partRecord n r s).snt = s.snt := by unfold partRecord; simp
@[simp] theorem partRecord_fab (n : Nat) (r : HostRecord) (s : State) : (partRecord n r s).fab = s.fab := by unfold partRecord; simp
@[simp] theorem partRecord_flues (n : Nat) (r : HostRecord) (s : State) : (partRecord n r s).flues = s.flues := by unfold partRecord; simp
@[simp] theorem partRecord_sweep (n : Nat) (r : HostRecord) (s : State) : (partRecord n r s).sweep = s.sweep := by unfold partRecord; simp
@[simp] theorem partRecord_ks (n : Nat) (r : HostRecord) (s : State) : (partRecord n r s).ks = s.ks := by unfold partRecord; simp
@[simp] theorem partRecord_parts (n : Nat) (r : HostRecord) (s : State) : (partRecord n r s).parts = s.parts := by unfold partRecord; simp
@[simp] theorem partRecord_quarters (n : Nat) (r : HostRecord) (s : State) : (partRecord n r s).quarters = s.quarters := by unfold partRecord; simp
@[simp] theorem partRecord_tcache (n : Nat) (r : HostRecord) (s : State) : (partRecord n r s).tcache = s.tcache := by unfold partRecord; simp
@[simp] theorem partRecord_outHold (n : Nat) (r : HostRecord) (s : State) : (partRecord n r s).outHold = s.outHold := by unfold partRecord; simp
@[simp] theorem partRecord_hostHold (n : Nat) (r : HostRecord) (s : State) : (partRecord n r s).hostHold = s.hostHold := by unfold partRecord; simp
@[simp] theorem partRecord_pending (n : Nat) (r : HostRecord) (s : State) : (partRecord n r s).pending = s.pending := by unfold partRecord; simp
@[simp] theorem partRecord_freeCount (n : Nat) (r : HostRecord) (s : State) : (partRecord n r s).freeCount = s.freeCount := by unfold partRecord; simp
@[simp] theorem partRecord_part (n : Nat) (r : HostRecord) (s : State) (m : Nat) : (partRecord n r s).part m = s.part m := by unfold partRecord; simp
@[simp] theorem partRecord_ember (n : Nat) (r : HostRecord) (s : State) (k : Nat) : (partRecord n r s).ember k = s.ember k := by unfold partRecord; simp
@[simp] theorem partRecord_thread (n : Nat) (r : HostRecord) (s : State) (k j : Nat) : (partRecord n r s).thread k j = s.thread k j := by unfold partRecord; simp
@[simp] theorem partRecord_inService (n : Nat) (r : HostRecord) (s : State) : (partRecord n r s).inService  = s.inService := by unfold partRecord; simp
@[simp] theorem partRecord_partOf (n : Nat) (r : HostRecord) (s : State) (k : Nat) : (partRecord n r s).partOf k = s.partOf k := by unfold partRecord; simp
@[simp] theorem partRecord_isBe (n : Nat) (r : HostRecord) (s : State) (k j : Nat) : (partRecord n r s).isBe k j = s.isBe k j := by unfold partRecord; simp
@[simp] theorem partRecord_nParts (n : Nat) (r : HostRecord) (s : State) : (partRecord n r s).nParts  = s.nParts := by unfold partRecord; simp
@[simp] theorem sootEvent_pins (t n : Nat) (b : List Byte) (s : State) : (sootEvent t n b s).pins = s.pins := by unfold sootEvent; simp only; (repeat' split) <;> rfl
@[simp] theorem sootEvent_power (t n : Nat) (b : List Byte) (s : State) : (sootEvent t n b s).power = s.power := by unfold sootEvent; simp only; (repeat' split) <;> rfl
@[simp] theorem sootEvent_lc (t n : Nat) (b : List Byte) (s : State) : (sootEvent t n b s).lc = s.lc := by unfold sootEvent; simp only; (repeat' split) <;> rfl
@[simp] theorem sootEvent_dbg (t n : Nat) (b : List Byte) (s : State) : (sootEvent t n b s).dbg = s.dbg := by unfold sootEvent; simp only; (repeat' split) <;> rfl
@[simp] theorem sootEvent_keys (t n : Nat) (b : List Byte) (s : State) : (sootEvent t n b s).keys = s.keys := by unfold sootEvent; simp only; (repeat' split) <;> rfl
@[simp] theorem sootEvent_common (t n : Nat) (b : List Byte) (s : State) : (sootEvent t n b s).common = s.common := by unfold sootEvent; simp only; (repeat' split) <;> rfl
@[simp] theorem sootEvent_cv (t n : Nat) (b : List Byte) (s : State) : (sootEvent t n b s).cv = s.cv := by unfold sootEvent; simp only; (repeat' split) <;> rfl
@[simp] theorem sootEvent_health (t n : Nat) (b : List Byte) (s : State) : (sootEvent t n b s).health = s.health := by unfold sootEvent; simp only; (repeat' split) <;> rfl
@[simp] theorem sootEvent_snt (t n : Nat) (b : List Byte) (s : State) : (sootEvent t n b s).snt = s.snt := by unfold sootEvent; simp only; (repeat' split) <;> rfl
@[simp] theorem sootEvent_fab (t n : Nat) (b : List Byte) (s : State) : (sootEvent t n b s).fab = s.fab := by unfold sootEvent; simp only; (repeat' split) <;> rfl
@[simp] theorem sootEvent_flues (t n : Nat) (b : List Byte) (s : State) : (sootEvent t n b s).flues = s.flues := by unfold sootEvent; simp only; (repeat' split) <;> rfl
@[simp] theorem sootEvent_sweep (t n : Nat) (b : List Byte) (s : State) : (sootEvent t n b s).sweep = s.sweep := by unfold sootEvent; simp only; (repeat' split) <;> rfl
@[simp] theorem sootEvent_ks (t n : Nat) (b : List Byte) (s : State) : (sootEvent t n b s).ks = s.ks := by unfold sootEvent; simp only; (repeat' split) <;> rfl
@[simp] theorem sootEvent_host (t n : Nat) (b : List Byte) (s : State) : (sootEvent t n b s).host = s.host := by unfold sootEvent; simp only; (repeat' split) <;> rfl
@[simp] theorem sootEvent_parts (t n : Nat) (b : List Byte) (s : State) : (sootEvent t n b s).parts = s.parts := by unfold sootEvent; simp only; (repeat' split) <;> rfl
@[simp] theorem sootEvent_quarters (t n : Nat) (b : List Byte) (s : State) : (sootEvent t n b s).quarters = s.quarters := by unfold sootEvent; simp only; (repeat' split) <;> rfl
@[simp] theorem sootEvent_tcache (t n : Nat) (b : List Byte) (s : State) : (sootEvent t n b s).tcache = s.tcache := by unfold sootEvent; simp only; (repeat' split) <;> rfl
@[simp] theorem sootEvent_outHold (t n : Nat) (b : List Byte) (s : State) : (sootEvent t n b s).outHold = s.outHold := by unfold sootEvent; simp only; (repeat' split) <;> rfl
@[simp] theorem sootEvent_hostHold (t n : Nat) (b : List Byte) (s : State) : (sootEvent t n b s).hostHold = s.hostHold := by unfold sootEvent; simp only; (repeat' split) <;> rfl
@[simp] theorem sootEvent_pending (t n : Nat) (b : List Byte) (s : State) : (sootEvent t n b s).pending = s.pending := by unfold sootEvent; simp only; (repeat' split) <;> rfl
@[simp] theorem sootEvent_freeCount (t n : Nat) (b : List Byte) (s : State) : (sootEvent t n b s).freeCount = s.freeCount := by unfold sootEvent; simp only; (repeat' split) <;> rfl
@[simp] theorem sootEvent_out (t n : Nat) (b : List Byte) (s : State) : (sootEvent t n b s).out = s.out := by unfold sootEvent; simp only; (repeat' split) <;> rfl
@[simp] theorem sootEvent_part (t n : Nat) (b : List Byte) (s : State) (m : Nat) : (sootEvent t n b s).part m = s.part m := by unfold sootEvent; simp only; (repeat' split) <;> rfl
@[simp] theorem sootEvent_ember (t n : Nat) (b : List Byte) (s : State) (k : Nat) : (sootEvent t n b s).ember k = s.ember k := by unfold sootEvent; simp only; (repeat' split) <;> rfl
@[simp] theorem sootEvent_thread (t n : Nat) (b : List Byte) (s : State) (k j : Nat) : (sootEvent t n b s).thread k j = s.thread k j := by unfold sootEvent; simp only; (repeat' split) <;> rfl
@[simp] theorem sootEvent_inService (t n : Nat) (b : List Byte) (s : State) : (sootEvent t n b s).inService  = s.inService := by unfold sootEvent; simp only; (repeat' split) <;> rfl
@[simp] theorem sootEvent_partOf (t n : Nat) (b : List Byte) (s : State) (k : Nat) : (sootEvent t n b s).partOf k = s.partOf k := by unfold sootEvent; simp only; (repeat' split) <;> rfl
@[simp] theorem sootEvent_isBe (t n : Nat) (b : List Byte) (s : State) (k j : Nat) : (sootEvent t n b s).isBe k j = s.isBe k j := by unfold sootEvent; simp only; (repeat' split) <;> rfl
@[simp] theorem sootEvent_nParts (t n : Nat) (b : List Byte) (s : State) : (sootEvent t n b s).nParts  = s.nParts := by unfold sootEvent; simp only; (repeat' split) <;> rfl
@[simp] theorem countLaunch_pins (n : Nat) (s : State) : (countLaunch n s).pins = s.pins := rfl
@[simp] theorem countLaunch_power (n : Nat) (s : State) : (countLaunch n s).power = s.power := rfl
@[simp] theorem countLaunch_lc (n : Nat) (s : State) : (countLaunch n s).lc = s.lc := rfl
@[simp] theorem countLaunch_dbg (n : Nat) (s : State) : (countLaunch n s).dbg = s.dbg := rfl
@[simp] theorem countLaunch_keys (n : Nat) (s : State) : (countLaunch n s).keys = s.keys := rfl
@[simp] theorem countLaunch_common (n : Nat) (s : State) : (countLaunch n s).common = s.common := rfl
@[simp] theorem countLaunch_soot (n : Nat) (s : State) : (countLaunch n s).soot = s.soot := rfl
@[simp] theorem countLaunch_cv (n : Nat) (s : State) : (countLaunch n s).cv = s.cv := rfl
@[simp] theorem countLaunch_health (n : Nat) (s : State) : (countLaunch n s).health = s.health := rfl
@[simp] theorem countLaunch_snt (n : Nat) (s : State) : (countLaunch n s).snt = s.snt := rfl
@[simp] theorem countLaunch_fab (n : Nat) (s : State) : (countLaunch n s).fab = s.fab := rfl
@[simp] theorem countLaunch_flues (n : Nat) (s : State) : (countLaunch n s).flues = s.flues := rfl
@[simp] theorem countLaunch_sweep (n : Nat) (s : State) : (countLaunch n s).sweep = s.sweep := rfl
@[simp] theorem countLaunch_ks (n : Nat) (s : State) : (countLaunch n s).ks = s.ks := rfl
@[simp] theorem countLaunch_host (n : Nat) (s : State) : (countLaunch n s).host = s.host := rfl
@[simp] theorem countLaunch_quarters (n : Nat) (s : State) : (countLaunch n s).quarters = s.quarters := rfl
@[simp] theorem countLaunch_tcache (n : Nat) (s : State) : (countLaunch n s).tcache = s.tcache := rfl
@[simp] theorem countLaunch_outHold (n : Nat) (s : State) : (countLaunch n s).outHold = s.outHold := rfl
@[simp] theorem countLaunch_hostHold (n : Nat) (s : State) : (countLaunch n s).hostHold = s.hostHold := rfl
@[simp] theorem countLaunch_pending (n : Nat) (s : State) : (countLaunch n s).pending = s.pending := rfl
@[simp] theorem countLaunch_freeCount (n : Nat) (s : State) : (countLaunch n s).freeCount = s.freeCount := rfl
@[simp] theorem countLaunch_out (n : Nat) (s : State) : (countLaunch n s).out = s.out := rfl
@[simp] theorem countLaunch_ember (n : Nat) (s : State) (k : Nat) : (countLaunch n s).ember k = s.ember k := rfl
@[simp] theorem countLaunch_thread (n : Nat) (s : State) (k j : Nat) : (countLaunch n s).thread k j = s.thread k j := rfl
@[simp] theorem countLaunch_inService (n : Nat) (s : State) : (countLaunch n s).inService  = s.inService := rfl
@[simp] theorem countLaunch_partOf (n : Nat) (s : State) (k : Nat) : (countLaunch n s).partOf k = s.partOf k := rfl
@[simp] theorem countLaunch_isBe (n : Nat) (s : State) (k j : Nat) : (countLaunch n s).isBe k j = s.isBe k j := rfl
@[simp] theorem countLaunch_nParts (n : Nat) (s : State) : (countLaunch n s).nParts  = s.nParts := rfl
@[simp] theorem useCount_pins (n : Nat) (be : Bool) (a b : Nat) (s : State) : (useCount n be a b s).pins = s.pins := rfl
@[simp] theorem useCount_power (n : Nat) (be : Bool) (a b : Nat) (s : State) : (useCount n be a b s).power = s.power := rfl
@[simp] theorem useCount_lc (n : Nat) (be : Bool) (a b : Nat) (s : State) : (useCount n be a b s).lc = s.lc := rfl
@[simp] theorem useCount_dbg (n : Nat) (be : Bool) (a b : Nat) (s : State) : (useCount n be a b s).dbg = s.dbg := rfl
@[simp] theorem useCount_keys (n : Nat) (be : Bool) (a b : Nat) (s : State) : (useCount n be a b s).keys = s.keys := rfl
@[simp] theorem useCount_common (n : Nat) (be : Bool) (a b : Nat) (s : State) : (useCount n be a b s).common = s.common := rfl
@[simp] theorem useCount_soot (n : Nat) (be : Bool) (a b : Nat) (s : State) : (useCount n be a b s).soot = s.soot := rfl
@[simp] theorem useCount_cv (n : Nat) (be : Bool) (a b : Nat) (s : State) : (useCount n be a b s).cv = s.cv := rfl
@[simp] theorem useCount_health (n : Nat) (be : Bool) (a b : Nat) (s : State) : (useCount n be a b s).health = s.health := rfl
@[simp] theorem useCount_snt (n : Nat) (be : Bool) (a b : Nat) (s : State) : (useCount n be a b s).snt = s.snt := rfl
@[simp] theorem useCount_fab (n : Nat) (be : Bool) (a b : Nat) (s : State) : (useCount n be a b s).fab = s.fab := rfl
@[simp] theorem useCount_flues (n : Nat) (be : Bool) (a b : Nat) (s : State) : (useCount n be a b s).flues = s.flues := rfl
@[simp] theorem useCount_sweep (n : Nat) (be : Bool) (a b : Nat) (s : State) : (useCount n be a b s).sweep = s.sweep := rfl
@[simp] theorem useCount_ks (n : Nat) (be : Bool) (a b : Nat) (s : State) : (useCount n be a b s).ks = s.ks := rfl
@[simp] theorem useCount_host (n : Nat) (be : Bool) (a b : Nat) (s : State) : (useCount n be a b s).host = s.host := rfl
@[simp] theorem useCount_quarters (n : Nat) (be : Bool) (a b : Nat) (s : State) : (useCount n be a b s).quarters = s.quarters := rfl
@[simp] theorem useCount_tcache (n : Nat) (be : Bool) (a b : Nat) (s : State) : (useCount n be a b s).tcache = s.tcache := rfl
@[simp] theorem useCount_outHold (n : Nat) (be : Bool) (a b : Nat) (s : State) : (useCount n be a b s).outHold = s.outHold := rfl
@[simp] theorem useCount_hostHold (n : Nat) (be : Bool) (a b : Nat) (s : State) : (useCount n be a b s).hostHold = s.hostHold := rfl
@[simp] theorem useCount_pending (n : Nat) (be : Bool) (a b : Nat) (s : State) : (useCount n be a b s).pending = s.pending := rfl
@[simp] theorem useCount_freeCount (n : Nat) (be : Bool) (a b : Nat) (s : State) : (useCount n be a b s).freeCount = s.freeCount := rfl
@[simp] theorem useCount_out (n : Nat) (be : Bool) (a b : Nat) (s : State) : (useCount n be a b s).out = s.out := rfl
@[simp] theorem useCount_ember (n : Nat) (be : Bool) (a b : Nat) (s : State) (k : Nat) : (useCount n be a b s).ember k = s.ember k := rfl
@[simp] theorem useCount_thread (n : Nat) (be : Bool) (a b : Nat) (s : State) (k j : Nat) : (useCount n be a b s).thread k j = s.thread k j := rfl
@[simp] theorem useCount_inService (n : Nat) (be : Bool) (a b : Nat) (s : State) : (useCount n be a b s).inService  = s.inService := rfl
@[simp] theorem useCount_partOf (n : Nat) (be : Bool) (a b : Nat) (s : State) (k : Nat) : (useCount n be a b s).partOf k = s.partOf k := rfl
@[simp] theorem useCount_isBe (n : Nat) (be : Bool) (a b : Nat) (s : State) (k j : Nat) : (useCount n be a b s).isBe k j = s.isBe k j := rfl
@[simp] theorem useCount_nParts (n : Nat) (be : Bool) (a b : Nat) (s : State) : (useCount n be a b s).nParts  = s.nParts := rfl

/-! ### What the changed entry reads as -/

theorem Tab.get_upd_at {α : Type} [DecidableEq α] (t : Tab α) (k j : Nat) (f : α → α) :
    (t.upd k f).get j = if k = j then f (t.get j) else t.get j := by
  rw [Tab.get_upd]
  by_cases h : k = j
  · rw [if_pos h, if_pos h, h]
  · rw [if_neg h, if_neg h]

theorem part_modPart (n m : Nat) (f : Part → Part) (s : State) : (s.modPart n f).part m = if n = m then f (s.part m) else s.part m := by
  simp only [State.part, State.modPart, Tab.get_upd_at]
@[simp] theorem part_modPart_same (n : Nat) (f : Part → Part) (s : State) : (s.modPart n f).part n = f (s.part n) := by
  rw [part_modPart, if_pos rfl]
theorem part_modPart_ne {n m : Nat} (h : n ≠ m) (f : Part → Part) (s : State) : (s.modPart n f).part m = s.part m := by
  rw [part_modPart, if_neg h]

theorem ember_modEmber (l k : Nat) (f : Ember → Ember) (s : State) : (s.modEmber l f).ember k = if l = k then f (s.ember k) else s.ember k := by
  simp only [State.ember, State.modEmber, Tab.get_upd_at]
  by_cases h : l / 6400 = k / 6400
  · rw [if_pos h, Tab.get_upd_at]
  · rw [if_neg h, if_neg (fun e => h (by rw [e]))]
@[simp] theorem ember_modEmber_same (l : Nat) (f : Ember → Ember) (s : State) : (s.modEmber l f).ember l = f (s.ember l) := by
  rw [ember_modEmber, if_pos rfl]

@[simp] theorem modThread_self (t : Nat) (f : Thread → Thread) (m : Ember) : (m.modThread t f).thr.get t = f (m.thr.get t) :=
  Tab.get_upd_same ..

theorem thread_modThread (l t k j : Nat) (f : Thread → Thread) (s : State) :
    (s.modThread l t f).thread k j = if l = k ∧ t = j then f (s.thread k j) else s.thread k j := by
  simp only [State.thread, State.modThread, ember_modEmber]
  by_cases h : l = k
  · subst h
    simp only [if_true, Ember.modThread, Tab.get_upd_at, true_and]
  · rw [if_neg h, if_neg (fun e => h e.1)]

@[simp] theorem thrAt_modAt (x : Site) (g : Thread → Thread) (s : State) : thrAt (modAt x g s) x = g (thrAt s x) := by
  simp only [thrAt, modAt, thread_modThread, and_self, if_true]
@[simp] theorem partAt_modAt (x y : Site) (g : Thread → Thread) (s : State) : partAt (modAt x g s) y = partAt s y := rfl
@[simp] theorem partAt_modPart (y : Site) (n : Nat) (f : Part → Part) (s : State) : partAt (s.modPart n f) y = partAt s y := rfl
@[simp] theorem thrAt_modPart (y : Site) (n : Nat) (f : Part → Part) (s : State) : thrAt (s.modPart n f) y = thrAt s y := rfl

@[simp] theorem fns_modFn_same (f : Nat) (g : HostFn → HostFn) (s : State) :
    (s.modFn f g).host.fns.get f = g (s.host.fns.get f) := Tab.get_upd_same ..
theorem fns_modFn (f k : Nat) (g : HostFn → HostFn) (s : State) :
    (s.modFn f g).host.fns.get k = if f = k then g (s.host.fns.get k) else s.host.fns.get k := Tab.get_upd_at ..
@[simp] theorem flues_modFlue_same (f : Nat) (g : Flue → Flue) (s : State) : (s.modFlue f g).flues.get f = g (s.flues.get f) :=
  Tab.get_upd_same ..
theorem flues_modFlue (f k : Nat) (g : Flue → Flue) (s : State) :
    (s.modFlue f g).flues.get k = if f = k then g (s.flues.get k) else s.flues.get k := Tab.get_upd_at ..
@[simp] theorem lc_modLc (f : LifeCycle → LifeCycle) (s : State) : (s.modLc f).lc = f s.lc := rfl
@[simp] theorem power_modPower (f : Power → Power) (s : State) : (s.modPower f).power = f s.power := rfl
@[simp] theorem ks_modKs (f : Kindling → Kindling) (s : State) : (s.modKs f).ks = f s.ks := rfl
@[simp] theorem out_emit (o : Output) (s : State) : (s.emit o).out = o :: s.out := rfl
theorem outHold_sendFrame (n : Nat) (d : Option Pos) (vc : Vc) (b : FrameBody) (s : State) :
    (sendFrame n d vc b s).outHold = if (s.part n).rl.state = .withdrawn ∨ (s.part n).prot.halted then s.outHold
      else s.outHold ++ [(n, { epoch := (s.part n).epoch, lineage := (s.part n).tree.lineage, step := (s.part n).step.count
                               src := s.logicalPos n, dst := d, vc := vc, body := b })] := by
  unfold sendFrame sendFrameVia
  simp only
  split <;> rfl

/-- Every ember of the partition is changed, and no other (Table 18.1). -/
theorem ember_mapEmbers (n l : Nat) (f : Ember → Ember) (s : State) (hl : l < 25600) :
    (s.mapEmbers n f).ember l = if s.partOf l = n then f (s.ember l) else s.ember l := by
  have hq : l / 6400 < 4 := Nat.div_lt_of_lt_mul hl
  have step : ∀ (is : List Nat) (q : Tab (Tab Ember)), is.Nodup →
      (is.foldl (fun q i => if s.partOfQuarter i = n then q.upd i (Tab.map f) else q) q).get (l / 6400) =
        if l / 6400 ∈ is ∧ s.partOfQuarter (l / 6400) = n then (q.get (l / 6400)).map f else q.get (l / 6400) := by
    intro is
    induction is with
    | nil => intro q _; simp
    | cons i t ih =>
      intro q hn
      rw [List.foldl_cons, ih _ (List.nodup_cons.1 hn).2]
      by_cases hi : i = l / 6400
      · subst hi
        have hm := (List.nodup_cons.1 hn).1
        by_cases hp : s.partOfQuarter (l / 6400) = n <;> simp [hm, hp]
      · have hi' : ¬ l / 6400 = i := fun e => hi e.symm
        by_cases hp : s.partOfQuarter i = n
        · simp [hp, hi', Tab.get_upd_ne _ _ hi]
        · simp [hp, hi']
  have hm : l / 6400 ∈ List.range 4 := List.mem_range.2 hq
  have e := step (List.range 4) s.quarters List.nodup_range
  have e2 : (s.mapEmbers n f).ember l = ((if l / 6400 ∈ List.range 4 ∧ s.partOfQuarter (l / 6400) = n
      then (s.quarters.get (l / 6400)).map f else s.quarters.get (l / 6400))).get l := congrArg (fun q => Tab.get q l) e
  rw [e2]
  by_cases hp : s.partOfQuarter (l / 6400) = n
  · rw [if_pos ⟨hm, hp⟩, if_pos (show s.partOf l = n from hp), Tab.get_map]
    rfl
  · rw [if_neg (fun e => hp e.2), if_neg (show ¬ s.partOf l = n from hp)]
    rfl

/-- Every thread of an ember is changed (R55: eight threads). -/
theorem thr_mapThreads (f : Nat → Thread → Thread) (m : Ember) {t : Nat} (ht : t < 8) : (m.mapThreads f).thr.get t = f t (m.thr.get t) := by
  have step : ∀ (is : List Nat) (h : Tab Thread), is.Nodup →
      (is.foldl (fun h t => h.upd t (f t)) h).get t = if t ∈ is then f t (h.get t) else h.get t := by
    intro is
    induction is with
    | nil => intro h _; simp
    | cons i is ih =>
      intro h hn
      rw [List.foldl_cons, ih _ (List.nodup_cons.1 hn).2, Tab.get_upd_at]
      by_cases hi : i = t
      · subst hi
        simp [(List.nodup_cons.1 hn).1]
      · have hi' : ¬ t = i := fun e => hi e.symm
        simp [hi, hi']
  have e := step (List.range 8) m.thr List.nodup_range
  rw [if_pos (List.mem_range.2 ht)] at e
  exact e

/-! ### A thread and its registers -/

@[simp] theorem p_setS (i : Nat) (v : DWord) (h : Thread) : (h.setS i v).p = h.p := rfl
@[simp] theorem v_setS (i : Nat) (v : DWord) (h : Thread) : (h.setS i v).v = h.v := rfl
@[simp] theorem td_setS (i : Nat) (v : DWord) (h : Thread) : (h.setS i v).td = h.td := rfl
@[simp] theorem md_setS (i : Nat) (v : DWord) (h : Thread) : (h.setS i v).md = h.md := rfl
@[simp] theorem q_setS (i : Nat) (v : DWord) (h : Thread) : (h.setS i v).q = h.q := rfl
@[simp] theorem pc_setS (i : Nat) (v : DWord) (h : Thread) : (h.setS i v).pc = h.pc := rfl
@[simp] theorem st_setS (i : Nat) (v : DWord) (h : Thread) : (h.setS i v).st = h.st := rfl
@[simp] theorem cond_setS (i : Nat) (v : DWord) (h : Thread) : (h.setS i v).cond = h.cond := rfl
@[simp] theorem haltPend_setS (i : Nat) (v : DWord) (h : Thread) : (h.setS i v).haltPend = h.haltPend := rfl
@[simp] theorem stepOne_setS (i : Nat) (v : DWord) (h : Thread) : (h.setS i v).stepOne = h.stepOne := rfl
@[simp] theorem line_setS (i : Nat) (v : DWord) (h : Thread) : (h.setS i v).line = h.line := rfl
@[simp] theorem parkPage_setS (i : Nat) (v : DWord) (h : Thread) : (h.setS i v).parkPage = h.parkPage := rfl
@[simp] theorem loads_setS (i : Nat) (v : DWord) (h : Thread) : (h.setS i v).loads = h.loads := rfl
@[simp] theorem stores_setS (i : Nat) (v : DWord) (h : Thread) : (h.setS i v).stores = h.stores := rfl
@[simp] theorem stall_setS (i : Nat) (v : DWord) (h : Thread) : (h.setS i v).stall = h.stall := rfl
@[simp] theorem heapReqs_setS (i : Nat) (v : DWord) (h : Thread) : (h.setS i v).heapReqs = h.heapReqs := rfl
@[simp] theorem chain_setS (i : Nat) (v : DWord) (h : Thread) : (h.setS i v).chain = h.chain := rfl
@[simp] theorem acc_setS (i : Nat) (v : DWord) (h : Thread) : (h.setS i v).acc = h.acc := rfl
@[simp] theorem rows_setS (i : Nat) (v : DWord) (h : Thread) : (h.setS i v).rows = h.rows := rfl
@[simp] theorem tsw_setS (i : Nat) (v : DWord) (h : Thread) : (h.setS i v).tsw = h.tsw := rfl
@[simp] theorem snt_setS (i : Nat) (v : DWord) (h : Thread) : (h.setS i v).snt = h.snt := rfl
@[simp] theorem win_setS (i : Nat) (v : DWord) (h : Thread) : (h.setS i v).win = h.win := rfl
@[simp] theorem ringStep_setS (i : Nat) (v : DWord) (h : Thread) : (h.setS i v).ringStep = h.ringStep := rfl
@[simp] theorem collCount_setS (i : Nat) (v : DWord) (h : Thread) : (h.setS i v).collCount = h.collCount := rfl
@[simp] theorem s_setP (i : Nat) (b : Bool) (h : Thread) : (h.setP i b).s = h.s := by unfold Thread.setP; split <;> rfl
@[simp] theorem v_setP (i : Nat) (b : Bool) (h : Thread) : (h.setP i b).v = h.v := by unfold Thread.setP; split <;> rfl
@[simp] theorem td_setP (i : Nat) (b : Bool) (h : Thread) : (h.setP i b).td = h.td := by unfold Thread.setP; split <;> rfl
@[simp] theorem md_setP (i : Nat) (b : Bool) (h : Thread) : (h.setP i b).md = h.md := by unfold Thread.setP; split <;> rfl
@[simp] theorem q_setP (i : Nat) (b : Bool) (h : Thread) : (h.setP i b).q = h.q := by unfold Thread.setP; split <;> rfl
@[simp] theorem pc_setP (i : Nat) (b : Bool) (h : Thread) : (h.setP i b).pc = h.pc := by unfold Thread.setP; split <;> rfl
@[simp] theorem st_setP (i : Nat) (b : Bool) (h : Thread) : (h.setP i b).st = h.st := by unfold Thread.setP; split <;> rfl
@[simp] theorem cond_setP (i : Nat) (b : Bool) (h : Thread) : (h.setP i b).cond = h.cond := by unfold Thread.setP; split <;> rfl
@[simp] theorem haltPend_setP (i : Nat) (b : Bool) (h : Thread) : (h.setP i b).haltPend = h.haltPend := by unfold Thread.setP; split <;> rfl
@[simp] theorem stepOne_setP (i : Nat) (b : Bool) (h : Thread) : (h.setP i b).stepOne = h.stepOne := by unfold Thread.setP; split <;> rfl
@[simp] theorem line_setP (i : Nat) (b : Bool) (h : Thread) : (h.setP i b).line = h.line := by unfold Thread.setP; split <;> rfl
@[simp] theorem parkPage_setP (i : Nat) (b : Bool) (h : Thread) : (h.setP i b).parkPage = h.parkPage := by unfold Thread.setP; split <;> rfl
@[simp] theorem loads_setP (i : Nat) (b : Bool) (h : Thread) : (h.setP i b).loads = h.loads := by unfold Thread.setP; split <;> rfl
@[simp] theorem stores_setP (i : Nat) (b : Bool) (h : Thread) : (h.setP i b).stores = h.stores := by unfold Thread.setP; split <;> rfl
@[simp] theorem stall_setP (i : Nat) (b : Bool) (h : Thread) : (h.setP i b).stall = h.stall := by unfold Thread.setP; split <;> rfl
@[simp] theorem heapReqs_setP (i : Nat) (b : Bool) (h : Thread) : (h.setP i b).heapReqs = h.heapReqs := by unfold Thread.setP; split <;> rfl
@[simp] theorem chain_setP (i : Nat) (b : Bool) (h : Thread) : (h.setP i b).chain = h.chain := by unfold Thread.setP; split <;> rfl
@[simp] theorem acc_setP (i : Nat) (b : Bool) (h : Thread) : (h.setP i b).acc = h.acc := by unfold Thread.setP; split <;> rfl
@[simp] theorem rows_setP (i : Nat) (b : Bool) (h : Thread) : (h.setP i b).rows = h.rows := by unfold Thread.setP; split <;> rfl
@[simp] theorem tsw_setP (i : Nat) (b : Bool) (h : Thread) : (h.setP i b).tsw = h.tsw := by unfold Thread.setP; split <;> rfl
@[simp] theorem snt_setP (i : Nat) (b : Bool) (h : Thread) : (h.setP i b).snt = h.snt := by unfold Thread.setP; split <;> rfl
@[simp] theorem win_setP (i : Nat) (b : Bool) (h : Thread) : (h.setP i b).win = h.win := by unfold Thread.setP; split <;> rfl
@[simp] theorem ringStep_setP (i : Nat) (b : Bool) (h : Thread) : (h.setP i b).ringStep = h.ringStep := by unfold Thread.setP; split <;> rfl
@[simp] theorem collCount_setP (i : Nat) (b : Bool) (h : Thread) : (h.setP i b).collCount = h.collCount := by unfold Thread.setP; split <;> rfl
@[simp] theorem s_setV (i : Nat) (v : BitVec 1024) (h : Thread) : (h.setV i v).s = h.s := rfl
@[simp] theorem p_setV (i : Nat) (v : BitVec 1024) (h : Thread) : (h.setV i v).p = h.p := rfl
@[simp] theorem td_setV (i : Nat) (v : BitVec 1024) (h : Thread) : (h.setV i v).td = h.td := rfl
@[simp] theorem md_setV (i : Nat) (v : BitVec 1024) (h : Thread) : (h.setV i v).md = h.md := rfl
@[simp] theorem q_setV (i : Nat) (v : BitVec 1024) (h : Thread) : (h.setV i v).q = h.q := rfl
@[simp] theorem pc_setV (i : Nat) (v : BitVec 1024) (h : Thread) : (h.setV i v).pc = h.pc := rfl
@[simp] theorem st_setV (i : Nat) (v : BitVec 1024) (h : Thread) : (h.setV i v).st = h.st := rfl
@[simp] theorem cond_setV (i : Nat) (v : BitVec 1024) (h : Thread) : (h.setV i v).cond = h.cond := rfl
@[simp] theorem haltPend_setV (i : Nat) (v : BitVec 1024) (h : Thread) : (h.setV i v).haltPend = h.haltPend := rfl
@[simp] theorem stepOne_setV (i : Nat) (v : BitVec 1024) (h : Thread) : (h.setV i v).stepOne = h.stepOne := rfl
@[simp] theorem line_setV (i : Nat) (v : BitVec 1024) (h : Thread) : (h.setV i v).line = h.line := rfl
@[simp] theorem parkPage_setV (i : Nat) (v : BitVec 1024) (h : Thread) : (h.setV i v).parkPage = h.parkPage := rfl
@[simp] theorem loads_setV (i : Nat) (v : BitVec 1024) (h : Thread) : (h.setV i v).loads = h.loads := rfl
@[simp] theorem stores_setV (i : Nat) (v : BitVec 1024) (h : Thread) : (h.setV i v).stores = h.stores := rfl
@[simp] theorem stall_setV (i : Nat) (v : BitVec 1024) (h : Thread) : (h.setV i v).stall = h.stall := rfl
@[simp] theorem heapReqs_setV (i : Nat) (v : BitVec 1024) (h : Thread) : (h.setV i v).heapReqs = h.heapReqs := rfl
@[simp] theorem chain_setV (i : Nat) (v : BitVec 1024) (h : Thread) : (h.setV i v).chain = h.chain := rfl
@[simp] theorem acc_setV (i : Nat) (v : BitVec 1024) (h : Thread) : (h.setV i v).acc = h.acc := rfl
@[simp] theorem rows_setV (i : Nat) (v : BitVec 1024) (h : Thread) : (h.setV i v).rows = h.rows := rfl
@[simp] theorem tsw_setV (i : Nat) (v : BitVec 1024) (h : Thread) : (h.setV i v).tsw = h.tsw := rfl
@[simp] theorem snt_setV (i : Nat) (v : BitVec 1024) (h : Thread) : (h.setV i v).snt = h.snt := rfl
@[simp] theorem win_setV (i : Nat) (v : BitVec 1024) (h : Thread) : (h.setV i v).win = h.win := rfl
@[simp] theorem ringStep_setV (i : Nat) (v : BitVec 1024) (h : Thread) : (h.setV i v).ringStep = h.ringStep := rfl
@[simp] theorem collCount_setV (i : Nat) (v : BitVec 1024) (h : Thread) : (h.setV i v).collCount = h.collCount := rfl
@[simp] theorem s_setDesc (i : Nat) (d : Desc) (h : Thread) : (h.setDesc i d).s = h.s := by unfold Thread.setDesc; split <;> rfl
@[simp] theorem p_setDesc (i : Nat) (d : Desc) (h : Thread) : (h.setDesc i d).p = h.p := by unfold Thread.setDesc; split <;> rfl
@[simp] theorem v_setDesc (i : Nat) (d : Desc) (h : Thread) : (h.setDesc i d).v = h.v := by unfold Thread.setDesc; split <;> rfl
@[simp] theorem q_setDesc (i : Nat) (d : Desc) (h : Thread) : (h.setDesc i d).q = h.q := by unfold Thread.setDesc; split <;> rfl
@[simp] theorem pc_setDesc (i : Nat) (d : Desc) (h : Thread) : (h.setDesc i d).pc = h.pc := by unfold Thread.setDesc; split <;> rfl
@[simp] theorem st_setDesc (i : Nat) (d : Desc) (h : Thread) : (h.setDesc i d).st = h.st := by unfold Thread.setDesc; split <;> rfl
@[simp] theorem cond_setDesc (i : Nat) (d : Desc) (h : Thread) : (h.setDesc i d).cond = h.cond := by unfold Thread.setDesc; split <;> rfl
@[simp] theorem haltPend_setDesc (i : Nat) (d : Desc) (h : Thread) : (h.setDesc i d).haltPend = h.haltPend := by unfold Thread.setDesc; split <;> rfl
@[simp] theorem stepOne_setDesc (i : Nat) (d : Desc) (h : Thread) : (h.setDesc i d).stepOne = h.stepOne := by unfold Thread.setDesc; split <;> rfl
@[simp] theorem line_setDesc (i : Nat) (d : Desc) (h : Thread) : (h.setDesc i d).line = h.line := by unfold Thread.setDesc; split <;> rfl
@[simp] theorem parkPage_setDesc (i : Nat) (d : Desc) (h : Thread) : (h.setDesc i d).parkPage = h.parkPage := by unfold Thread.setDesc; split <;> rfl
@[simp] theorem loads_setDesc (i : Nat) (d : Desc) (h : Thread) : (h.setDesc i d).loads = h.loads := by unfold Thread.setDesc; split <;> rfl
@[simp] theorem stores_setDesc (i : Nat) (d : Desc) (h : Thread) : (h.setDesc i d).stores = h.stores := by unfold Thread.setDesc; split <;> rfl
@[simp] theorem stall_setDesc (i : Nat) (d : Desc) (h : Thread) : (h.setDesc i d).stall = h.stall := by unfold Thread.setDesc; split <;> rfl
@[simp] theorem heapReqs_setDesc (i : Nat) (d : Desc) (h : Thread) : (h.setDesc i d).heapReqs = h.heapReqs := by unfold Thread.setDesc; split <;> rfl
@[simp] theorem chain_setDesc (i : Nat) (d : Desc) (h : Thread) : (h.setDesc i d).chain = h.chain := by unfold Thread.setDesc; split <;> rfl
@[simp] theorem acc_setDesc (i : Nat) (d : Desc) (h : Thread) : (h.setDesc i d).acc = h.acc := by unfold Thread.setDesc; split <;> rfl
@[simp] theorem rows_setDesc (i : Nat) (d : Desc) (h : Thread) : (h.setDesc i d).rows = h.rows := by unfold Thread.setDesc; split <;> rfl
@[simp] theorem tsw_setDesc (i : Nat) (d : Desc) (h : Thread) : (h.setDesc i d).tsw = h.tsw := by unfold Thread.setDesc; split <;> rfl
@[simp] theorem snt_setDesc (i : Nat) (d : Desc) (h : Thread) : (h.setDesc i d).snt = h.snt := by unfold Thread.setDesc; split <;> rfl
@[simp] theorem win_setDesc (i : Nat) (d : Desc) (h : Thread) : (h.setDesc i d).win = h.win := by unfold Thread.setDesc; split <;> rfl
@[simp] theorem ringStep_setDesc (i : Nat) (d : Desc) (h : Thread) : (h.setDesc i d).ringStep = h.ringStep := by unfold Thread.setDesc; split <;> rfl
@[simp] theorem collCount_setDesc (i : Nat) (d : Desc) (h : Thread) : (h.setDesc i d).collCount = h.collCount := by unfold Thread.setDesc; split <;> rfl
@[simp] theorem s_next (h : Thread) : (h.next).s = h.s := rfl
@[simp] theorem p_next (h : Thread) : (h.next).p = h.p := rfl
@[simp] theorem v_next (h : Thread) : (h.next).v = h.v := rfl
@[simp] theorem td_next (h : Thread) : (h.next).td = h.td := rfl
@[simp] theorem md_next (h : Thread) : (h.next).md = h.md := rfl
@[simp] theorem q_next (h : Thread) : (h.next).q = h.q := rfl
@[simp] theorem st_next (h : Thread) : (h.next).st = h.st := rfl
@[simp] theorem cond_next (h : Thread) : (h.next).cond = h.cond := rfl
@[simp] theorem haltPend_next (h : Thread) : (h.next).haltPend = h.haltPend := rfl
@[simp] theorem stepOne_next (h : Thread) : (h.next).stepOne = h.stepOne := rfl
@[simp] theorem line_next (h : Thread) : (h.next).line = h.line := rfl
@[simp] theorem parkPage_next (h : Thread) : (h.next).parkPage = h.parkPage := rfl
@[simp] theorem loads_next (h : Thread) : (h.next).loads = h.loads := rfl
@[simp] theorem stores_next (h : Thread) : (h.next).stores = h.stores := rfl
@[simp] theorem stall_next (h : Thread) : (h.next).stall = h.stall := rfl
@[simp] theorem heapReqs_next (h : Thread) : (h.next).heapReqs = h.heapReqs := rfl
@[simp] theorem chain_next (h : Thread) : (h.next).chain = h.chain := rfl
@[simp] theorem acc_next (h : Thread) : (h.next).acc = h.acc := rfl
@[simp] theorem rows_next (h : Thread) : (h.next).rows = h.rows := rfl
@[simp] theorem tsw_next (h : Thread) : (h.next).tsw = h.tsw := rfl
@[simp] theorem snt_next (h : Thread) : (h.next).snt = h.snt := rfl
@[simp] theorem win_next (h : Thread) : (h.next).win = h.win := rfl
@[simp] theorem ringStep_next (h : Thread) : (h.next).ringStep = h.ringStep := rfl
@[simp] theorem collCount_next (h : Thread) : (h.next).collCount = h.collCount := rfl
@[simp] theorem pc_next (h : Thread) : h.next.pc = h.pc + 1 := rfl
@[simp] theorem sReg_setS (i : Nat) (v : DWord) (h : Thread) : (h.setS i v).sReg i = v := Tab.get_set_same ..
@[simp] theorem vReg_setV (i : Nat) (v : BitVec 1024) (h : Thread) : (h.setV i v).vReg i = v := Tab.get_set_same ..

end Sys2Proof.Machine
end

