-- ==== Sys2Proof/Safety.lean ====
section
/-! DEFINITION. What counts as safe, in the terms that the statements use: a step that answers, a legal layout, and the two stores that
only grow. -/

namespace Sys2Proof

open Sys2Proof.Machine

/-- An outcome that goes on: neither a fault nor a refusal. -/
def Answers (o : Host.Outcome State Fault Refusal) : Prop := ∃ t, o = .next t

/-- The layout in force and the one staged are layouts of Table 18.1 (R400, R401). -/
def LayoutLegal (s : State) : Prop := s.host.layout ≠ 3 ∧ s.host.layoutStage ≠ 3

/-- A bit of OTP that is burned stays burned (R383). -/
def OtpGrows (s t : State) : Prop := ∀ w b, bitAt (s.lc.otp.get w) b = true → bitAt (t.lc.otp.get w) b = true

/-- The pages of the soot record stay as they are: pages are added behind them alone (R447, R450). -/
def SootGrows (s t : State) : Prop := ∃ more, t.soot.pages = s.soot.pages ++ more

namespace Machine

/-- The instruction with word `w` and fields `f` at a site issues and acts (Table 4.3, R58, R85, R397): it is ready, the issue stage chooses its thread,
no breakpoint and no single step of the debug port is there, and GP XOR GN is 1. `ss` and `ps` are the scalar registers and predicates that it
names. -/
def issuable (s : State) (x : Site) (w : DWord) (f : BitVec 52) (ss ps : List Nat) : Bool :=
  ready s x w ss (fGp f :: ps) && inTurn s x && !atBreakpoint s x && !(thrAt s x).stepOne && ((thrAt s x).pReg (fGp f) != fGn f)

/-- From `s` to `t` nothing changes but the thread at `x`, and which thread of its ember issued last: no other thread, nothing else of its ember,
nothing of any other ember, and nothing of the rest of the device. -/
def OnlyThread (x : Site) (s t : State) : Prop :=
  { t with quarters := s.quarters } = s ∧
  (∀ k, k ≠ x.e.val → t.ember k = s.ember k) ∧
  { t.ember x.e.val with thr := (s.ember x.e.val).thr, lastIssued := (s.ember x.e.val).lastIssued } = s.ember x.e.val ∧
  (∀ j, j ≠ x.t.val → t.thread x.e.val j = s.thread x.e.val j)

/-- From `s` to `t` nothing changes but the embers of a list. -/
def OnlyEmbers (ls : List Nat) (s t : State) : Prop :=
  { t with quarters := s.quarters } = s ∧ ∀ k, k ∉ ls → t.ember k = s.ember k

/-- From `s` to `t` nothing changes but partition `n`. -/
def OnlyPart (n : Nat) (s t : State) : Prop :=
  { t with parts := s.parts } = s ∧ ∀ m, m ≠ n → t.part m = s.part m

/-- From `s` to `t` nothing changes but flue `f`. -/
def OnlyFlue (f : Nat) (s t : State) : Prop :=
  { t with flues := s.flues } = s ∧ ∀ g, g ≠ f → t.flues.get g = s.flues.get g

/-- A thread instruction with command `c`, word `w` and fields `f` at site `x` runs where it issues and `ok` holds: its thread becomes what `g`
makes of it, with the program counter moved on, it is the one that issued last, and nothing else changes. -/
def Runs (c : Instr) (w : DWord) (f : BitVec 52) (ss ps : List Nat) (x : Site) (ok : Bool) (g : State → Thread → Thread) : Prop :=
  ∀ s, issuable s x w f ss ps = true → ok = true →
    ∃ t, Machine.exec c s = .next t ∧ thrAt t x = (g s (thrAt s x)).next ∧ (t.ember x.e.val).lastIssued = x.t.val ∧ OnlyThread x s t

/-- An operation of MAJOR 0x01 or 0x02 writes RD with `op` of RA and RB, or of RA and the sign-extended IMM (R84, R91). The reserved bits of
the register form are zero. -/
def RunsInt (c : Instr) (minor : Nat) (x : Site) (imm : Bool) (f : BitVec 52) (op : DWord → DWord → DWord) : Prop :=
  Runs c (insnWord (if imm then 2 else 1) minor f) f (if imm then [fRd f, fRa f] else [fRd f, fRa f, fRb f]) [] x (imm || decide (fLow f = 0))
    fun _ h => h.setS (fRd f) (op (h.sReg (fRa f)) (if imm then fImm f else h.sReg (fRb f)))

/-- An operation of format RR on RA and RB that writes RD (R84, R91): the bits that the format marks zero are zero, and `ok` holds. -/
def RunsRR (c : Instr) (major minor : Nat) (x : Site) (f : BitVec 52) (ok : Bool) (op : DWord → DWord → DWord) : Prop :=
  Runs c (insnWord major minor f) f [fRd f, fRa f, fRb f] [] x (ok && decide (fLow f = 0))
    fun _ h => h.setS (fRd f) (op (h.sReg (fRa f)) (h.sReg (fRb f)))

/-- What release from a wait makes of a thread (R98 to R100): it no longer waits, and in the place of WAIT it is in RUN, or in HALT or PAUSED where
a debug session or the device holds it; nothing else of it changes. -/
def Released (old new : Thread) : Prop :=
  new.cond = none ∧ (if old.st = .wait then new.st = .run ∨ new.st = .halt ∨ new.st = .paused else new.st = old.st) ∧
    { new with cond := old.cond, st := old.st, haltPend := old.haltPend } = old

/-- A thread is released where `c` holds, and is as it was where it does not. -/
def ReleasedIf (c : Prop) (old new : Thread) : Prop := (c → Released old new) ∧ (¬ c → new = old)

/-- The amounts that waiters of a semaphore wait for, together. -/
def needs (ws : List SemWaiter) : Nat := (ws.map SemWaiter.need).sum

/-- From `s` to `t` nothing changes but what an answer to the host touches (R407 to R409, R414): the host blocks, the queues that the contexts
hold, the events, and what has left the device. -/
def OnlyAnswers (s t : State) : Prop :=
  { t with host := s.host, parts := s.parts, out := s.out } = s ∧
    ∀ m, { t.part m with ctxs := (s.part m).ctxs, evts := (s.part m).evts } = s.part m

end Machine

end Sys2Proof
end

