-- ==== Sys2Proof/Laws/Issue.lean ====
section
/-! SUPPORT. Everything that `issue` can do, once, and what changes where an instruction changes only its own thread. -/

namespace Sys2Proof.Machine

@[simp] theorem thrAt_markIssued (x y : Site) (s : State) : thrAt (markIssued x s) y = thrAt s y := by
  unfold thrAt State.thread markIssued
  rw [ember_modEmber]
  split <;> rfl
@[simp] theorem part_markIssued (x : Site) (n : Nat) (s : State) : (markIssued x s).part n = s.part n := rfl
theorem ember_markIssued (x : Site) (k : Nat) (s : State) :
    (markIssued x s).ember k = if x.e.val = k then { s.ember k with lastIssued := x.t.val } else s.ember k := ember_modEmber ..
@[simp] theorem lastIssued_markIssued (x : Site) (s : State) : ((markIssued x s).ember x.e.val).lastIssued = x.t.val := by
  rw [ember_markIssued, if_pos rfl]
@[simp] theorem thread_markIssued (x : Site) (k j : Nat) (s : State) : (markIssued x s).thread k j = s.thread k j := by
  unfold State.thread
  rw [ember_markIssued]
  split <;> rfl

theorem issuable_iff (s : State) (x : Site) (w : DWord) (f : BitVec 52) (ss ps : List Nat) :
    issuable s x w f ss ps = true ↔ ready s x w ss (fGp f :: ps) = true ∧ inTurn s x = true ∧ atBreakpoint s x = false ∧
      (thrAt s x).stepOne = false ∧ ((thrAt s x).pReg (fGp f) == fGn f) = false := by
  simp [issuable, bne, and_assoc]

/-- What an issued instruction comes to, case by case: not ready, no room or not its turn, a breakpoint, an exception whatever the guard, a guard
that holds it back, and then its effect. -/
theorem issue_cases (x : Site) (w : DWord) (f : BitVec 52) (ss ps : List Nat) (room : State → Bool) (static : Option Nat)
    (body : State → Eff) (s : State) :
    ((ready s x w ss (fGp f :: ps) && room s && inTurn s x) = false ∧ issue x w f ss ps room static body s = s) ∨
    (ready s x w ss (fGp f :: ps) && room s && inTurn s x) = true ∧
      ((atBreakpoint s x = true ∧ issue x w f ss ps room static body s = modAt x (fun h => { h with st := .halt }) s) ∨
      atBreakpoint s x = false ∧
        ((∃ c, static = some c ∧ issue x w f ss ps room static body s = raise x c 0 s) ∨
        static = none ∧
          (((thrAt s x).pReg (fGp f) = fGn f ∧ issue x w f ss ps room static body s = afterIssue x (modAt x Thread.next s)) ∨
          (thrAt s x).pReg (fGp f) ≠ fGn f ∧ issue x w f ss ps room static body s = match body s with
            | .ok s => afterIssue x (modAt x Thread.next s)
            | .stay s => afterIssue x s
            | .wait s => s
            | .exc code addr => raise x code addr s))) := by
  unfold issue
  by_cases h1 : ready s x w ss (fGp f :: ps) = true <;> by_cases h2 : room s = true <;> by_cases h5 : inTurn s x = true <;> simp [h1, h2, h5]
  by_cases h3 : atBreakpoint s x = true <;> simp [h3]
  cases static with
  | some c => simp
  | none =>
    by_cases h4 : (thrAt s x).pReg (fGp f) = fGn f <;> simp [h4]
    all_goals (cases body s <;> rfl)

/-- The effect of an instruction that issues and acts. -/
theorem issue_acts {s : State} {x : Site} {w : DWord} {f : BitVec 52} {ss ps : List Nat} (h : issuable s x w f ss ps = true)
    (room : State → Bool) (hr : room s = true) (body : State → Eff) :
    issue x w f ss ps room none body s = match body s with
      | .ok s => afterIssue x (modAt x Thread.next s)
      | .stay s => afterIssue x s
      | .wait s => s
      | .exc code addr => raise x code addr s := by
  obtain ⟨h1, h5, h2, -, h4⟩ := (issuable_iff ..).1 h
  simp [issue, h1, h2, h4, h5, hr]
  all_goals (cases body s <;> rfl)

theorem afterIssue_running {s : State} {x : Site} (h : (thrAt s x).stepOne = false) : afterIssue x s = markIssued x s := by
  simp [afterIssue, h]

theorem issue_ok {s t : State} {x : Site} {w : DWord} {f : BitVec 52} {ss ps : List Nat} (h : issuable s x w f ss ps = true)
    {room : State → Bool} (hr : room s = true) {body : State → Eff} (hb : body s = .ok t) (ht : (thrAt t x).stepOne = false) :
    issue x w f ss ps room none body s = markIssued x (modAt x Thread.next t) := by
  rw [issue_acts h room hr, hb]
  exact afterIssue_running (by rw [thrAt_modAt]; exact ht)

theorem issue_stay {s t : State} {x : Site} {w : DWord} {f : BitVec 52} {ss ps : List Nat} (h : issuable s x w f ss ps = true)
    {room : State → Bool} (hr : room s = true) {body : State → Eff} (hb : body s = .stay t) (ht : (thrAt t x).stepOne = false) :
    issue x w f ss ps room none body s = markIssued x t := by
  rw [issue_acts h room hr, hb]
  exact afterIssue_running ht

/-! ### Only one thread changes -/

theorem OnlyThread.refl (x : Site) (s : State) : OnlyThread x s s := ⟨rfl, fun _ _ => rfl, rfl, fun _ _ => rfl⟩

theorem OnlyThread.trans {x : Site} {s t u : State} (h : OnlyThread x s t) (k : OnlyThread x t u) : OnlyThread x s u := by
  obtain ⟨a1, a2, a3, a4⟩ := h
  obtain ⟨b1, b2, b3, b4⟩ := k
  refine ⟨?_, fun k hk => (b2 k hk).trans (a2 k hk), ?_, fun j hj => (b4 j hj).trans (a4 j hj)⟩
  · rw [← a1, ← b1]
  · rw [← a3, ← b3]

theorem onlyThread_modAt (x : Site) (g : Thread → Thread) (s : State) : OnlyThread x s (modAt x g s) := by
  refine ⟨rfl, fun k hk => ?_, ?_, fun j hj => ?_⟩
  · simp only [modAt, State.modThread, ember_modEmber, if_neg (Ne.symm hk)]
  · simp only [modAt, State.modThread, ember_modEmber_same]
    rfl
  · simp only [modAt, thread_modThread]
    rw [if_neg (fun e => hj e.2.symm)]

theorem onlyThread_markIssued (x : Site) (s : State) : OnlyThread x s (markIssued x s) := by
  refine ⟨rfl, fun k hk => ?_, ?_, fun j _ => thread_markIssued ..⟩
  · rw [ember_markIssued, if_neg (Ne.symm hk)]
  · rw [ember_markIssued, if_pos rfl]

/-- An instruction that changes only its own thread, and then steps on. -/
theorem issue_thread {s : State} {x : Site} {w : DWord} {f : BitVec 52} {ss ps : List Nat} (h : issuable s x w f ss ps = true)
    {body : State → Eff} {g : Thread → Thread} (hb : body s = .ok (modAt x g s)) (hg : (g (thrAt s x)).stepOne = false) :
    issue x w f ss ps anyRoom none body s = markIssued x (modAt x Thread.next (modAt x g s)) :=
  issue_ok h rfl hb (by simpa using hg)

/-- Only what a change makes of the thread as it stands counts. -/
theorem modAt_congr {x : Site} {g g' : Thread → Thread} {s : State} (h : g (thrAt s x) = g' (thrAt s x)) : modAt x g s = modAt x g' s := by
  have e : (s.ember x.e.val).modThread x.t.val g = (s.ember x.e.val).modThread x.t.val g' := by
    simp only [Ember.modThread, Tab.upd]
    rw [show g ((s.ember x.e.val).thr.get x.t.val) = g' ((s.ember x.e.val).thr.get x.t.val) from h]
  have e2 : (s.quarters.get (x.e.val / 6400)).upd x.e.val (Ember.modThread x.t.val g) =
      (s.quarters.get (x.e.val / 6400)).upd x.e.val (Ember.modThread x.t.val g') := by
    rw [Tab.upd, Tab.upd]
    exact congrArg _ e
  have e3 : s.quarters.upd (x.e.val / 6400) (fun q => q.upd x.e.val (Ember.modThread x.t.val g)) =
      s.quarters.upd (x.e.val / 6400) (fun q => q.upd x.e.val (Ember.modThread x.t.val g')) := by
    unfold Tab.upd at e2 ⊢
    beta_reduce
    rw [e2]
  simp only [modAt, State.modThread, State.modEmber, e3]

theorem stay_thread {s : State} {x : Site} {w : DWord} {f : BitVec 52} {ss ps : List Nat} (h : issuable s x w f ss ps = true)
    {body : State → Eff} {g : Thread → Thread} (hb : body s = .stay (modAt x g s)) (hg : (g (thrAt s x)).stepOne = false) :
    issue x w f ss ps anyRoom none body s = markIssued x (modAt x g s) :=
  issue_stay h rfl hb (by rw [thrAt_modAt]; exact hg)

theorem becomes_one {c : Instr} {s : State} {x : Site} {h : Thread} (g : Thread → Thread) (hc : exec c s = .next (markIssued x (modAt x g s)))
    (e : g (thrAt s x) = h) : ∃ t, exec c s = .next t ∧ thrAt t x = h ∧ OnlyThread x s t :=
  ⟨_, hc, by rw [thrAt_markIssued, thrAt_modAt, e], (onlyThread_modAt ..).trans (onlyThread_markIssued ..)⟩

theorem becomes_two {c : Instr} {s : State} {x : Site} {h : Thread} (g g' : Thread → Thread) (hc : exec c s = .next (markIssued x (modAt x g (modAt x g' s))))
    (e : g (g' (thrAt s x)) = h) : ∃ t, exec c s = .next t ∧ thrAt t x = h ∧ OnlyThread x s t :=
  ⟨_, hc, by rw [thrAt_markIssued, thrAt_modAt, thrAt_modAt, e],
    ((onlyThread_modAt ..).trans (onlyThread_modAt ..)).trans (onlyThread_markIssued ..)⟩

theorem issuable_step {s : State} {x : Site} {w : DWord} {f : BitVec 52} {ss ps : List Nat} (h : issuable s x w f ss ps = true) :
    (thrAt s x).stepOne = false := ((issuable_iff ..).1 h).2.2.2.1

/-- An instruction that issues, acts and steps on. -/
theorem issuable_next {s t : State} {x : Site} {w : DWord} {f : BitVec 52} {ss ps : List Nat} {room : State → Bool} {static : Option Nat}
    {body : State → Eff} (hi : issuable s x w f ss ps = true) (hr : room s = true) (hs : static = none) (hb : body s = .ok t)
    (h1 : (thrAt t x).stepOne = (thrAt s x).stepOne) : issue x w f ss ps room static body s = markIssued x (modAt x Thread.next t) := by
  subst hs
  exact issue_ok hi hr hb (by rw [h1]; exact issuable_step hi)

/-- An instruction that issues and raises. -/
theorem issuable_raise {s : State} {x : Site} {w : DWord} {f : BitVec 52} {ss ps : List Nat} {room : State → Bool} {static : Option Nat}
    {body : State → Eff} {c : Nat} {a : DWord} (hi : issuable s x w f ss ps = true) (hr : room s = true) (hs : static = none)
    (hb : body s = .exc c a) : issue x w f ss ps room static body s = raise x c a s := by
  subst hs
  rw [issue_acts hi room hr, hb]

theorem other_modAt {x : Site} {g : Thread → Thread} {s : State} {l i : Nat} (h : (l, i) ≠ (x.e.val, x.t.val)) :
    (modAt x g s).thread l i = s.thread l i := by
  unfold modAt
  rw [thread_modThread, if_neg]
  rintro ⟨rfl, rfl⟩
  exact h rfl

theorem stepOne_setQ (i : Nat) (v : Word) (h : Thread) : (Thread.setQ i v h).stepOne = h.stepOne := rfl

/-! ### The statements' forms -/

theorem runs_of {c : Instr} {w f ss ps x ok} {g : State → Thread → Thread} {static : Option Nat} {body : State → Eff}
    (hc : ∀ s, exec c s = .next (issue x w f ss ps anyRoom static body s)) (hs : ok = true → static = none)
    (hb : ∀ s, body s = .ok (modAt x (g s) s)) (hg : ∀ s h, (g s h).stepOne = h.stepOne) : Runs c w f ss ps x ok g := by
  intro s hi ho
  refine ⟨markIssued x (modAt x Thread.next (modAt x (g s) s)), ?_, ?_, lastIssued_markIssued .., ?_⟩
  · rw [hc, hs ho, issue_thread hi (hb s) (by rw [hg]; exact ((issuable_iff ..).1 hi).2.2.2.1)]
  · simp
  · exact ((onlyThread_modAt ..).trans (onlyThread_modAt ..)).trans (onlyThread_markIssued ..)

theorem runs_of_at {c : Instr} {w f ss ps x ok} {g g' : State → Thread → Thread} {static : Option Nat} {body : State → Eff}
    (hc : ∀ s, exec c s = .next (issue x w f ss ps anyRoom static body s)) (hs : ok = true → static = none)
    (hb : ∀ s, body s = .ok (modAt x (g' s) s)) (he : ∀ s, g' s (thrAt s x) = g s (thrAt s x))
    (hg : ∀ s h, (g s h).stepOne = h.stepOne) : Runs c w f ss ps x ok g :=
  runs_of hc hs (fun s => (hb s).trans (congrArg Eff.ok (modAt_congr (he s)))) hg

theorem issueInt_runs {c : Instr} {minor x imm f op} (hc : ∀ s, exec c s = .next (issueInt minor x imm f op s)) :
    RunsInt c minor x imm f op := by
  unfold RunsInt
  cases imm
  · simp only [issueInt, issueRR, Bool.false_eq_true, if_false, Bool.true_and] at hc
    simp only [Bool.false_eq_true, if_false, Bool.false_or]
    refine runs_of hc (fun h => ?_) (fun s => rfl) (fun _ _ => rfl)
    rw [h]
    rfl
  · simp only [issueInt, issueRI, if_true] at hc
    simp only [if_true, Bool.true_or]
    exact runs_of hc (fun _ => rfl) (fun s => rfl) (fun _ _ => rfl)

theorem issueRR_runs {c : Instr} {major minor x f ok op} (hc : ∀ s, exec c s = .next (issueRR major minor x f ok op s)) :
    RunsRR c major minor x f ok op := by
  unfold RunsRR
  simp only [issueRR] at hc
  refine runs_of hc (fun h => ?_) (fun s => rfl) (fun _ _ => rfl)
  rw [h]
  rfl

end Sys2Proof.Machine
end

