-- ==== Sys2Proof/Laws/Memory.lean ====
section
/-! SUPPORT. The laws of memory: what a byte reads as after a write, and that every operation keeps the canonical form. -/

namespace Sys2Proof.Machine

theorem Memory.get_list (m : Memory) (a b : Nat) (v : Byte) : (m.list a v).get b = if a = b then v else m.get b := by
  induction m with
  | nil => simp [Memory.list, Memory.get]
  | cons c t ih =>
    obtain ⟨i, w⟩ := c
    simp only [Memory.list]
    split
    · simp only [Memory.get]
    · split
      · rename_i h; subst h
        simp only [Memory.get]
        split <;> rfl
      · rename_i _ h2
        simp only [Memory.get, ih]
        by_cases hi : i = b
        · have : ¬ a = b := fun h => h2 (h.trans hi.symm)
          simp [hi, this]
        · simp [hi]

theorem Memory.get_filter (m : Memory) (p : Nat → Bool) (b : Nat) :
    Memory.get (m.filter fun c => p c.1) b = if p b then m.get b else unlistedByte := by
  induction m with
  | nil => simp [Memory.get]
  | cons c t ih =>
    obtain ⟨i, w⟩ := c
    rw [List.filter_cons]
    by_cases hi : i = b
    · subst hi
      by_cases hp : p i = true <;> simp_all [Memory.get]
    · by_cases hp : p i = true
      · simp only [hp, ↓reduceIte, Memory.get, hi, ih]
      · simp only [hp, Bool.false_eq_true, ↓reduceIte, ih, Memory.get, hi]

/-- Read after write of a byte, at every address. -/
theorem Memory.get_put (m : Memory) (a b : Nat) (v : Byte) : (m.put a v).get b = if a = b then v else m.get b := by
  unfold Memory.put
  split
  · rename_i h
    rw [Memory.get_filter m (fun c => decide (c ≠ a)) b]
    by_cases hb : b = a
    · subst hb; simp [h]
    · have : ¬ a = b := fun h => hb h.symm
      simp [hb, this]
  · exact Memory.get_list m a b v

/-- Read after write of bytes, at every address. -/
theorem Memory.get_write (m : Memory) (a b : Nat) (bs : List Byte) :
    (m.write a bs).get b = if h : a ≤ b ∧ b - a < bs.length then bs[b - a]'h.2 else m.get b := by
  induction bs generalizing m a with
  | nil => simp [Memory.write]
  | cons v t ih =>
    simp only [Memory.write, ih, List.length_cons]
    by_cases h1 : a + 1 ≤ b ∧ b - (a + 1) < t.length
    · have h2 : a ≤ b ∧ b - a < t.length + 1 := by omega
      have h3 : b - a = (b - (a + 1)) + 1 := by omega
      simp only [h1, and_self, ↓reduceDIte, h2]
      simp [h3]
    · rw [dif_neg h1, Memory.get_put]
      by_cases hab : a = b
      · subst hab; simp
      · have h2 : ¬ (a ≤ b ∧ b - a < t.length + 1) := by omega
        rw [dif_neg h2]; simp [hab]

/-- Bytes outside a write read as before. -/
theorem Memory.get_write_outside (m : Memory) {a b : Nat} (bs : List Byte) (h : b < a ∨ a + bs.length ≤ b) :
    (m.write a bs).get b = m.get b := by
  rw [Memory.get_write, dif_neg (by omega)]

/-- The bytes written are the bytes read. -/
theorem Memory.read_write (m : Memory) (a : Nat) (bs : List Byte) : (m.write a bs).read a bs.length = bs := by
  apply List.ext_getElem
  · simp [Memory.read]
  · intro i h1 h2
    simp [Memory.read, Memory.get_write, h2]

/-- Clearing a range returns it to the unlisted byte and leaves the rest. -/
theorem Memory.get_clear (m : Memory) (lo hi b : Nat) :
    (m.clear lo hi).get b = if b < lo ∨ hi ≤ b then m.get b else unlistedByte := by
  unfold Memory.clear
  rw [Memory.get_filter m (fun c => decide (c < lo ∨ hi ≤ c)) b]
  simp

/-! ### The canonical form -/

theorem Memory.wf_iff (m : Memory) : m.wf = true ↔ (m.Pairwise fun x y => x.1 < y.1) ∧ ∀ c ∈ m, c.2 ≠ unlistedByte := by
  have key : ∀ (m : Memory) (lo : Option Nat), Memory.wfFrom lo m = true ↔
      (m.Pairwise fun x y => x.1 < y.1) ∧ (∀ c ∈ m, c.2 ≠ unlistedByte) ∧ ∀ l, lo = some l → ∀ c ∈ m, l < c.1 := by
    intro m
    induction m with
    | nil => intro lo; simp [Memory.wfFrom]
    | cons c t ih =>
      obtain ⟨i, w⟩ := c
      intro lo
      simp only [Memory.wfFrom, Bool.and_eq_true, decide_eq_true_eq, ih, List.pairwise_cons, List.mem_cons, forall_eq_or_imp]
      cases lo with
      | none =>
        constructor
        · rintro ⟨⟨-, h1⟩, h2, h3, h4⟩
          exact ⟨⟨h4 i rfl, h2⟩, ⟨h1, h3⟩, by simp⟩
        · rintro ⟨⟨h1, h2⟩, ⟨h3, h4⟩, -⟩
          exact ⟨⟨rfl, h3⟩, h2, h4, by intro l hl; cases hl; exact h1⟩
      | some x =>
        constructor
        · rintro ⟨⟨h0, h1⟩, h2, h3, h4⟩
          have h0 : x < i := by simpa using h0
          refine ⟨⟨h4 i rfl, h2⟩, ⟨h1, h3⟩, ?_⟩
          intro l hl; cases hl
          exact ⟨h0, fun c hc => Nat.lt_trans h0 (h4 i rfl c hc)⟩
        · rintro ⟨⟨h1, h2⟩, ⟨h3, h4⟩, h5⟩
          exact ⟨⟨by simpa using (h5 x rfl).1, h3⟩, h2, h4, by intro l hl; cases hl; exact h1⟩
  simp [Memory.wf, key]

theorem Memory.mem_list {m : Memory} {a : Nat} {v : Byte} {c : Host.Cell} (h : c ∈ m.list a v) : c = (a, v) ∨ c ∈ m := by
  induction m with
  | nil => simpa [Memory.list] using h
  | cons x t ih =>
    obtain ⟨i, w⟩ := x
    simp only [Memory.list] at h
    split at h
    · simpa using h
    · split at h
      · rcases List.mem_cons.1 h with h | h
        · exact .inl h
        · exact .inr (List.mem_cons_of_mem _ h)
      · rcases List.mem_cons.1 h with h | h
        · exact .inr (h ▸ List.mem_cons_self ..)
        · rcases ih h with h | h
          · exact .inl h
          · exact .inr (List.mem_cons_of_mem _ h)

theorem Memory.list_rises (m : Memory) (a : Nat) (v : Byte) (h : m.Pairwise fun x y => x.1 < y.1) :
    (m.list a v).Pairwise fun x y => x.1 < y.1 := by
  induction m with
  | nil => simp [Memory.list]
  | cons x t ih =>
    obtain ⟨i, w⟩ := x
    rw [List.pairwise_cons] at h
    simp only [Memory.list]
    split
    · rename_i hi
      rw [List.pairwise_cons, List.pairwise_cons]
      refine ⟨?_, h⟩
      intro c hc
      rcases List.mem_cons.1 hc with rfl | hc
      · exact hi
      · exact Nat.lt_trans hi (h.1 c hc)
    · split
      · rename_i hi; subst hi
        rw [List.pairwise_cons]; exact ⟨h.1, h.2⟩
      · rw [List.pairwise_cons]
        refine ⟨fun c hc => ?_, ih h.2⟩
        rcases Memory.mem_list hc with rfl | hc
        · show i < a; omega
        · exact h.1 c hc

/-- A write of a byte keeps the canonical form. -/
theorem Memory.wf_put (m : Memory) (a : Nat) (v : Byte) (h : m.wf = true) : (m.put a v).wf = true := by
  rw [Memory.wf_iff] at h ⊢
  unfold Memory.put
  split
  · exact ⟨h.1.filter _, fun c hc => h.2 c (List.mem_of_mem_filter hc)⟩
  · rename_i hv
    refine ⟨Memory.list_rises m a v h.1, fun c hc => ?_⟩
    rcases Memory.mem_list hc with rfl | hc
    · exact hv
    · exact h.2 c hc

/-- A write of bytes keeps the canonical form. -/
theorem Memory.wf_write (m : Memory) (a : Nat) (bs : List Byte) (h : m.wf = true) : (m.write a bs).wf = true := by
  induction bs generalizing m a with
  | nil => exact h
  | cons b t ih => exact ih _ _ (Memory.wf_put m a b h)

/-- Clearing keeps the canonical form. -/
theorem Memory.wf_clear (m : Memory) (lo hi : Nat) (h : m.wf = true) : (m.clear lo hi).wf = true := by
  rw [Memory.wf_iff] at h ⊢
  exact ⟨h.1.filter _, fun c hc => h.2 c (List.mem_of_mem_filter hc)⟩

end Sys2Proof.Machine
end

