-- ==== Sys2Proof/Laws/Frames.lean ====
section
/-! SUPPORT. The frames `OnlyEmbers`, `OnlyPart` and `OnlyFlue`: they hold of the changes that they name, and one after another. -/

namespace Sys2Proof.Machine

theorem onlyEmbers_refl (ls : List Nat) (s : State) : OnlyEmbers ls s s := ⟨rfl, fun _ _ => rfl⟩
theorem onlyEmbers_trans {ls : List Nat} {s t u : State} (h : OnlyEmbers ls s t) (k : OnlyEmbers ls t u) : OnlyEmbers ls s u :=
  ⟨by rw [← h.1, ← k.1], fun i hi => (k.2 i hi).trans (h.2 i hi)⟩
theorem onlyEmbers_mod (l : Nat) (f : Ember → Ember) (s : State) : OnlyEmbers [l] s (s.modEmber l f) :=
  ⟨rfl, fun k hk => by rw [ember_modEmber, if_neg (fun e => hk (by rw [e]; exact List.mem_singleton.2 rfl))]⟩
theorem onlyEmbers_modAt (x : Site) (g : Thread → Thread) (s : State) : OnlyEmbers [x.e.val] s (modAt x g s) := onlyEmbers_mod ..

theorem onlyPart_refl (n : Nat) (s : State) : OnlyPart n s s := ⟨rfl, fun _ _ => rfl⟩
theorem onlyPart_trans {n : Nat} {s t u : State} (h : OnlyPart n s t) (k : OnlyPart n t u) : OnlyPart n s u :=
  ⟨by rw [← h.1, ← k.1], fun i hi => (k.2 i hi).trans (h.2 i hi)⟩
theorem onlyPart_mod (n : Nat) (f : Part → Part) (s : State) : OnlyPart n s (s.modPart n f) :=
  ⟨rfl, fun _ hm => part_modPart_ne (Ne.symm hm) f s⟩

theorem onlyFlue_refl (f : Nat) (s : State) : OnlyFlue f s s := ⟨rfl, fun _ _ => rfl⟩
theorem onlyFlue_trans {f : Nat} {s t u : State} (h : OnlyFlue f s t) (k : OnlyFlue f t u) : OnlyFlue f s u :=
  ⟨by rw [← h.1, ← k.1], fun i hi => (k.2 i hi).trans (h.2 i hi)⟩
theorem onlyFlue_mod (f : Nat) (g : Flue → Flue) (s : State) : OnlyFlue f s (s.modFlue f g) :=
  ⟨rfl, fun k hk => by rw [flues_modFlue, if_neg (Ne.symm hk)]⟩

/-- The little-endian bytes of a number, one by one (R9). -/
theorem length_leBytes (n v : Nat) : (leBytes n v).length = n := by
  induction n generalizing v with
  | zero => rfl
  | succ n ih => simp [leBytes, ih]
theorem getElem_leBytes (n v i : Nat) (h : i < (leBytes n v).length) : (leBytes n v)[i] = BitVec.ofNat 8 (v / 256 ^ i) := by
  induction n generalizing v i with
  | zero => simp [leBytes] at h
  | succ n ih =>
    cases i with
    | zero => simp [leBytes]
    | succ i => simp [leBytes, ih, Nat.div_div_eq_div_mul, Nat.pow_succ, Nat.mul_comm]

/-- A number stored, read byte by byte. -/
theorem get_write_leBytes (m : Memory) (a n v b : Nat) :
    (m.write a (leBytes n v)).get b = if a ≤ b ∧ b < a + n then BitVec.ofNat 8 (v / 256 ^ (b - a)) else m.get b := by
  rw [Memory.get_write]
  by_cases h : a ≤ b ∧ b < a + n
  · rw [if_pos h, dif_pos ⟨h.1, by rw [length_leBytes]; omega⟩, getElem_leBytes]
  · rw [if_neg h, dif_neg (by rw [length_leBytes]; omega)]

end Sys2Proof.Machine
end

