-- ==== Sys2Proof/Laws/Hbm.lean ====
section
/-! SUPPORT. HBM lines: what the device stores passes its checks and reads as it was (R222, R224), and accesses whose lines are good go on
(R225, R229). -/

namespace Sys2Proof.Machine

/-! ### A line that the device has stored -/

/-- A line that the device stores under a count below the write count is good (Table 10.3). -/
theorem classify_sealLine (s : State) (n line : Nat) (plain : List Byte) (lcnt : Nat) (h : lcnt ≤ s.rwcOf n (128 * line)) :
    classify s n line (sealLine s n line plain lcnt) = none := by
  have h2 : ¬ s.rwcOf n (128 * line) < (sealLine s n line plain lcnt).lcnt.toNat := by
    have : lcnt % 2 ^ 48 ≤ lcnt := Nat.mod_le ..
    simp only [sealLine, BitVec.toNat_ofNat]
    omega
  have hc : (sealLine s n line plain lcnt).crc = lineCrc line (sealLine s n line plain lcnt).ct (sealLine s n line plain lcnt).tag
      (sealLine s n line plain lcnt).lcnt := by simp only [sealLine]
  have ht : (sealLine s n line plain lcnt).tag = lineTag s n line (sealLine s n line plain lcnt).ct (sealLine s n line plain lcnt).lcnt := by
    simp only [sealLine]
  unfold classify
  rw [if_neg (not_not.2 hc), if_neg h2, if_neg (not_not.2 ht)]

/-- Under the values that apply, what is opened is what was sealed. -/
theorem openLine_sealLine (s : State) (n line : Nat) (plain : List Byte) (lcnt : Nat) :
    openLine s n line (sealLine s n line plain lcnt) = leBytes 128 (BitVec.ofNat 1024 (leNat plain)).toNat := by
  simp only [openLine, sealLine, Equiv.symm_apply_apply]

/-- A line that nothing outside has changed is good. -/
theorem badOf_unchanged {s : State} {n line : Nat} (h : s.extLine n line = none) : s.badOf n line = none := by
  rw [State.badOf, h]
  rfl

theorem takeLine_unchanged {s : State} {n line : Nat} (h : s.extLine n line = none) : takeLine n line s = s := by
  rw [takeLine, h]

/-! ### Accesses -/

theorem crcSplit_good (s : State) (n : Nat) (ls : List Nat) (h : ∀ l ∈ ls, s.badOf n l = none) : crcSplit s n ls = ([], none) := by
  induction ls with
  | nil => rfl
  | cons l ls ih =>
    rw [crcSplit, h l (List.mem_cons_self ..), ih (fun k hk => h k (List.mem_cons_of_mem _ hk))]

theorem changedIn_lines {s : State} {n pa len l : Nat} (h : l ∈ s.changedIn n pa len) : l ∈ linesOf pa len := by
  rw [State.changedIn, List.mem_insertionSort, List.mem_dedup, List.mem_filter] at h
  exact of_decide_eq_true h.2

theorem changedIn_good {s : State} {n pa len : Nat} (h : ∀ l ∈ linesOf pa len, s.badOf n l = none) :
    crcSplit s n (s.changedIn n pa len) = ([], none) :=
  crcSplit_good _ _ _ fun l hl => h l (changedIn_lines hl)

theorem readHbm_good {n pa len : Nat} {r : Reader} {s : State} (h : ∀ l ∈ linesOf pa len, s.badOf n l = none) :
    readHbm n pa len r s = (s, some ((s.plain n).read pa len)) := by
  unfold readHbm
  rw [changedIn_good h]
  rfl

theorem checkLines_good {n pa len : Nat} {r : Reader} {s : State} (h : ∀ l ∈ linesOf pa len, s.badOf n l = none) :
    checkLines n pa len r s = (s, true) := by
  unfold checkLines
  rw [changedIn_good h]

theorem readChecked_good {n pa len : Nat} {r : Reader} {s : State} (h : ∀ l ∈ linesOf pa len, s.badOf n l = none) :
    readChecked n pa len r s = (s, some ((s.plain n).read pa len)) := by
  unfold readChecked
  rw [checkLines_good h]

/-- A store that lies in one line: the line is taken, the bytes enter it, and it is stored whole (R224, R225). It is a whole line, or its line is
good. -/
theorem putHbm_line {n pa : Nat} {bs : List Byte} {r : Reader} {s : State} (h0 : bs ≠ []) (h1 : pa % 128 + bs.length ≤ 128)
    (h2 : bs.length = 128 ∨ s.badOf n (pa / 128) = none) :
    putHbm n pa bs r s = (storeMark n (pa / 128) ((takeLine n (pa / 128) s).modPart n fun p =>
      { p with mem := { p.mem with hbm := p.mem.hbm.write pa bs } }), true) := by
  have hw : writeLine n pa bs r s = (storeMark n (pa / 128) ((takeLine n (pa / 128) s).modPart n fun p =>
      { p with mem := { p.mem with hbm := p.mem.hbm.write pa bs } }), true) := by
    unfold writeLine
    have e : (if bs.length = 128 then none else s.badOf n (pa / 128)) = none := by
      rcases h2 with h | h
      · rw [if_pos h]
      · rw [h, ite_self]
    simp only [e]
  unfold putHbm
  rw [writeHbm]
  have ne : bs.isEmpty = false := by cases bs <;> simp_all
  have ht : bs.take (128 - pa % 128) = bs := List.take_of_length_le (by omega)
  have hd : bs.drop (128 - pa % 128) = [] := List.drop_of_length_le (by omega)
  rw [ne]
  simp only [ht, hd, hw, Bool.false_eq_true, if_false]
  cases hb : bs.length with
  | zero => exact absurd (List.length_eq_zero_iff.1 hb) h0
  | succ k => rfl

/-- The same where nothing outside has changed the line. -/
theorem putHbm_unchanged {n pa : Nat} {bs : List Byte} {r : Reader} {s : State} (h0 : bs ≠ []) (h1 : pa % 128 + bs.length ≤ 128)
    (h2 : s.extLine n (pa / 128) = none) :
    putHbm n pa bs r s = (storeMark n (pa / 128) (s.modPart n fun p => { p with mem := { p.mem with hbm := p.mem.hbm.write pa bs } }), true) := by
  rw [putHbm_line h0 h1 (.inr (badOf_unchanged h2)), takeLine_unchanged h2]

@[simp] theorem hbm_storeMark (n line : Nat) (s : State) : ((storeMark n line s).part n).mem = (s.part n).mem := by
  unfold storeMark
  simp only [part_modPart_same]
@[simp] theorem quarters_storeMark (n line : Nat) (s : State) : (storeMark n line s).quarters = s.quarters := rfl

end Sys2Proof.Machine
end

