-- ==== Sys2Proof/Laws/Kept.lean ====
section
/-! SUPPORT. What most operations of the device leave alone, `kept`, and how that is read off an outcome. The files Laws/Kept*.lean show it
of one operation after another, so that a proof about every command cites them and unfolds nothing. -/

namespace Sys2Proof.Machine

/-- What most of the device's operations leave alone. -/
def kept (s : State) : List Instr × Tab Word × LcState × BitVec 2 × BitVec 2 × List SootPage × Bool × Bool :=
  (s.pending, s.lc.otp, s.lc.lcState, s.host.layout, s.host.layoutStage, s.soot.pages, s.power.tripped, s.power.ov)

theorem kept_mk (a b c d e f g h i j k l m n o p q r t y u v w) :
  kept ⟨a, b, c, d, e, f, g, h, i, j, k, l, m, n, o, p, q, r, t, y, u, v, w⟩ =
    (u, c.otp, c.lcState, o.layout, o.layoutStage, g.pages, b.tripped, b.ov) := rfl
theorem kept_fold (s : State) : (s.pending, s.lc.otp, s.lc.lcState, s.host.layout, s.host.layoutStage, s.soot.pages, s.power.tripped, s.power.ov) = kept s := rfl
theorem kept_ite (c : Prop) [Decidable c] (a b : State) : kept (if c then a else b) = if c then kept a else kept b := apply_ite ..
theorem foldl_kept {α : Type} (l : List α) (f : State → α → State) (s : State) (h : ∀ s x, kept (f s x) = kept s) :
    kept (l.foldl f s) = kept s := by
  induction l generalizing s with
  | nil => rfl
  | cons x t ih => rw [List.foldl_cons, ih, h]
theorem fst_kept {α : Type} {p : State × α} {t s : State} {v : α} (h : p = (t, v)) (hk : kept p.1 = kept s) : kept t = kept s := by
  rw [h] at hk; exact hk
theorem snd_kept {α : Type} {p : α × State} {t s : State} {v : α} (h : p = (v, t)) (hk : kept p.2 = kept s) : kept t = kept s := by
  rw [h] at hk; exact hk

theorem foldl_fst_kept {α β : Type} (l : List α) (f : State × β → α → State × β) (p : State × β) {k} (hp : kept p.1 = k)
    (h : ∀ q x, kept q.1 = k → kept (f q x).1 = k) : kept (l.foldl f p).1 = k := by
  induction l generalizing p with
  | nil => exact hp
  | cons x t ih => exact ih _ (h _ _ hp)

abbrev KeptT := List Instr × Tab Word × LcState × BitVec 2 × BitVec 2 × List SootPage × Bool × Bool
def KeptEff (k : KeptT) : Eff → Prop
  | .ok t => kept t = k
  | .stay t => kept t = k
  | .wait t => kept t = k
  | .exc _ _ => True
theorem keptEff_ok (k t) : KeptEff k (.ok t) = (kept t = k) := rfl
theorem keptEff_stay (k t) : KeptEff k (.stay t) = (kept t = k) := rfl
theorem keptEff_wait (k t) : KeptEff k (.wait t) = (kept t = k) := rfl
theorem keptEff_exc (k a b) : KeptEff k (.exc a b) = True := rfl
theorem keptEff_ite (k) (c : Prop) [Decidable c] (a b : Eff) : KeptEff k (if c then a else b) = if c then KeptEff k a else KeptEff k b := apply_ite ..
def KeptOut (k : KeptT) (o : Out) : Prop := ∀ t, o = .next t → kept t = k
theorem keptOut_next (k t) : KeptOut k (.next t) = (kept t = k) := by
  simp [KeptOut]
theorem keptOut_ite (k) (c : Prop) [Decidable c] (a b : Out) : KeptOut k (if c then a else b) = if c then KeptOut k a else KeptOut k b := apply_ite ..
def KeptPiece (k : KeptT) : Piece → Prop
  | .moved t _ => kept t = k
  | .stalled t => kept t = k
  | .over t => kept t = k
theorem keptPiece_moved (k t b) : KeptPiece k (.moved t b) = (kept t = k) := rfl
theorem keptPiece_stalled (k t) : KeptPiece k (.stalled t) = (kept t = k) := rfl
theorem keptPiece_over (k t) : KeptPiece k (.over t) = (kept t = k) := rfl
theorem keptPiece_ite (k) (c : Prop) [Decidable c] (a b : Piece) : KeptPiece k (if c then a else b) = if c then KeptPiece k a else KeptPiece k b := apply_ite ..
theorem piece_moved {p : Piece} {t b k} (h : p = .moved t b) (hk : KeptPiece k p) : kept t = k := by subst h; exact hk
theorem piece_stalled {p : Piece} {t k} (h : p = .stalled t) (hk : KeptPiece k p) : kept t = k := by subst h; exact hk
theorem piece_over {p : Piece} {t k} (h : p = .over t) (hk : KeptPiece k p) : kept t = k := by subst h; exact hk
/-- A page's translation for a mover leaves it alone. -/
def KeptSum (k : KeptT) : Piece ⊕ (Nat × State) → Prop
  | .inl p => KeptPiece k p
  | .inr (_, t) => kept t = k
theorem sum_inl {x : Piece ⊕ (Nat × State)} {p k} (h : x = .inl p) (hk : KeptSum k x) : KeptPiece k p := by subst h; exact hk
theorem sum_inr {x : Piece ⊕ (Nat × State)} {f t k} (h : x = .inr (f, t)) (hk : KeptSum k x) : kept t = k := by subst h; exact hk
end Sys2Proof.Machine
end

