-- ==== Sys2Proof/Laws/KeptUnits.lean ====
section
/-! SUPPORT. `kept` is left alone by the threads, embers, tiles and vector units. -/

set_option linter.all false

namespace Sys2Proof.Machine

theorem sootEvent_kept (x0 x1 x2 s) : kept (sootEvent x0 x1 x2 s) = kept s := by
  unfold sootEvent
  simp only [kept_mk, kept_fold, kept_ite, ite_self]

theorem execSootMinute_kept (s) {k} (hk : kept s = k) : KeptOut k (execSootMinute s) := by
  subst hk
  unfold execSootMinute
  simp only [kept_mk, kept_fold, kept_ite, ite_self, keptOut_next]

theorem meterAppend_kept (x0 x1 s) : kept (meterAppend x0 x1 s) = kept s := by
  unfold meterAppend
  simp only [kept_mk, kept_fold, kept_ite, ite_self]

theorem execMeterWrite_kept (s) {k} (hk : kept s = k) : KeptOut k (execMeterWrite s) := by
  subst hk
  unfold execMeterWrite
  simp only [kept_ite, ite_self, keptOut_next, meterAppend_kept]

theorem meterRepair_kept (s) : kept (meterRepair s) = kept s := by
  unfold meterRepair
  simp only [kept_mk, kept_fold, kept_ite, ite_self, meterAppend_kept]

theorem State.modPart_kept (x0 x1 s) : kept (State.modPart x0 x1 s) = kept s := by
  unfold State.modPart
  simp only [kept_mk, kept_fold]

theorem State.modEmber_kept (x0 x1 s) : kept (State.modEmber x0 x1 s) = kept s := by
  unfold State.modEmber
  simp only [kept_mk, kept_fold]

theorem State.modThread_kept (x0 x1 x2 s) : kept (State.modThread x0 x1 x2 s) = kept s := by
  unfold State.modThread
  simp only [State.modEmber_kept]

theorem State.mapEmbers_kept (x0 x1 s) : kept (State.mapEmbers x0 x1 s) = kept s := by
  unfold State.mapEmbers
  simp only [kept_mk, kept_fold]

theorem State.takeFree_kept (s) : kept (State.takeFree s).2 = kept s := by
  unfold State.takeFree
  simp only [kept_mk, kept_fold]

theorem State.draw_kept (s) : kept (State.draw s).2 = kept s := by
  unfold State.draw
  simp only [kept_mk, kept_fold]

theorem useCount_kept (x0 x1 x2 x3 s) : kept (useCount x0 x1 x2 x3 s) = kept s := by
  unfold useCount
  simp only [State.modPart_kept]

theorem State.emit_kept (x0 s) : kept (State.emit x0 s) = kept s := by
  unfold State.emit
  simp only [kept_mk, kept_fold]

theorem State.modFn_kept (x0 x1 s) : kept (State.modFn x0 x1 s) = kept s := by
  unfold State.modFn
  simp only [kept_mk, kept_fold]

theorem putRecord_kept (x0 x1 s) : kept (putRecord x0 x1 s) = kept s := by
  unfold putRecord
  simp only [State.emit_kept, State.modFn_kept]

theorem hostRecord_kept (x0 x1 s) : kept (hostRecord x0 x1 s) = kept s := by
  unfold hostRecord
  simp only [kept_ite, ite_self, State.modFn_kept, putRecord_kept]

theorem partRecord_kept (x0 x1 s) : kept (partRecord x0 x1 s) = kept s := by
  unfold partRecord
  simp only [hostRecord_kept]

theorem drainHeld_kept (x0 x1 s) : kept (drainHeld x0 x1 s) = kept s := by
  induction x0 generalizing x1 s with
  | zero => unfold drainHeld; repeat' (first
      | with_reducible rfl)
  | succ m ih =>
    unfold drainHeld
    repeat' (first
      | with_reducible rfl
      | with_reducible assumption
      | simp only [kept_ite, ite_self, State.modFn_kept, putRecord_kept, ih]
      | with_reducible refine fst_kept (by assumption) ?_
      | with_reducible refine snd_kept (by assumption) ?_
      | with_reducible refine (foldl_kept _ _ _ (fun _ _ => ?_)).trans ?_
      | split
      | (simp only))

theorem setFault_kept (x0 s) : kept (setFault x0 s) = kept s := by
  unfold setFault
  simp only [kept_mk, kept_fold, kept_ite, ite_self]

theorem clearFault_kept (x0 s) : kept (clearFault x0 s) = kept s := by
  unfold clearFault
  simp only [kept_mk, kept_fold]

theorem State.modRing_kept (x0 x1 x2 s) : kept (State.modRing x0 x1 x2 s) = kept s := by
  unfold State.modRing
  repeat' (first
    | with_reducible rfl
    | with_reducible assumption
    | simp only [State.modFn_kept, State.modPart_kept]
    | with_reducible refine fst_kept (by assumption) ?_
    | with_reducible refine snd_kept (by assumption) ?_
    | with_reducible refine (foldl_kept _ _ _ (fun _ _ => ?_)).trans ?_
    | split)

theorem ringDone_kept (x0 x1 x2 x3 x4 x5 s) : kept (ringDone x0 x1 x2 x3 x4 x5 s) = kept s := by
  unfold ringDone
  repeat' (first
    | with_reducible rfl
    | with_reducible assumption
    | simp only [kept_ite, ite_self, State.emit_kept, State.modRing_kept, hostRecord_kept]
    | with_reducible refine fst_kept (by assumption) ?_
    | with_reducible refine snd_kept (by assumption) ?_
    | with_reducible refine (foldl_kept _ _ _ (fun _ _ => ?_)).trans ?_
    | split)

theorem signalEvent_kept (x0 x1 x2 x3 s) : kept (signalEvent x0 x1 x2 x3 s) = kept s := by
  induction x0 generalizing x1 x2 x3 s with
  | zero => unfold signalEvent; repeat' (first
      | with_reducible rfl)
  | succ m ih =>
    unfold signalEvent
    repeat' (first
      | with_reducible rfl
      | with_reducible assumption
      | simp only [kept_ite, ite_self, State.emit_kept, State.modPart_kept, partRecord_kept, ringDone_kept, ih]
      | with_reducible refine fst_kept (by assumption) ?_
      | with_reducible refine snd_kept (by assumption) ?_
      | with_reducible refine (foldl_kept _ _ _ (fun _ _ => ?_)).trans ?_
      | split)

theorem completeCmd_kept (x0 x1 x2 x3 x4 x5 s) : kept (completeCmd x0 x1 x2 x3 x4 x5 s) = kept s := by
  unfold completeCmd
  simp only [kept_ite, ite_self, ringDone_kept, signalEvent_kept]

theorem sendFrameVia_kept (x0 x1 x2 x3 x4 s) : kept (sendFrameVia x0 x1 x2 x3 x4 s) = kept s := by
  unfold sendFrameVia
  simp only [kept_mk, kept_fold, kept_ite, ite_self]

theorem sendFrame_kept (x0 x1 x2 x3 s) : kept (sendFrame x0 x1 x2 x3 s) = kept s := by
  unfold sendFrame
  simp only [sendFrameVia_kept]

theorem releaseBeAll_kept (x0 s) : kept (releaseBeAll x0 s) = kept s := by
  unfold releaseBeAll
  simp only [kept_ite, ite_self, State.mapEmbers_kept]

theorem parkTime_kept (x0 x1 x2 s) : kept (parkTime x0 x1 x2 s) = kept s := by
  unfold parkTime
  simp only [State.modPart_kept]

theorem endParks_kept (x0 x1 s) : kept (endParks x0 x1 s) = kept s := by
  unfold endParks
  repeat' (first
    | with_reducible rfl
    | with_reducible assumption
    | simp only [kept_ite, ite_self, State.takeFree_kept, parkTime_kept]
    | with_reducible refine fst_kept (by assumption) ?_
    | with_reducible refine snd_kept (by assumption) ?_
    | with_reducible refine (foldl_kept _ _ _ (fun _ _ => ?_)).trans ?_)

theorem dropQueueWaits_kept (x0 x1 x2 s) : kept (dropQueueWaits x0 x1 x2 s) = kept s := by
  unfold dropQueueWaits
  simp only [State.modPart_kept]

theorem failQueues_kept (x0 x1 x2 s) : kept (failQueues x0 x1 x2 s) = kept s := by
  unfold failQueues
  repeat' (first
    | with_reducible rfl
    | with_reducible assumption
    | simp only [completeCmd_kept, dropQueueWaits_kept]
    | with_reducible refine fst_kept (by assumption) ?_
    | with_reducible refine snd_kept (by assumption) ?_
    | with_reducible refine (foldl_kept _ _ _ (fun _ _ => ?_)).trans ?_
    | split)

theorem loseClass_kept (x0 x1 x2 s) : kept (loseClass x0 x1 x2 s) = kept s := by
  unfold loseClass
  repeat' (first
    | with_reducible rfl
    | with_reducible assumption
    | simp only [kept_ite, ite_self, State.mapEmbers_kept, State.modPart_kept, endParks_kept, failQueues_kept, releaseBeAll_kept]
    | with_reducible refine fst_kept (by assumption) ?_
    | with_reducible refine snd_kept (by assumption) ?_
    | with_reducible refine (foldl_kept _ _ _ (fun _ _ => ?_)).trans ?_
    | split)

theorem loseContext_kept (x0 x1 x2 x3 s) : kept (loseContext x0 x1 x2 x3 s) = kept s := by
  unfold loseContext
  repeat' (first
    | with_reducible rfl
    | with_reducible assumption
    | simp only [kept_ite, ite_self, loseClass_kept, partRecord_kept]
    | with_reducible refine fst_kept (by assumption) ?_
    | with_reducible refine snd_kept (by assumption) ?_
    | with_reducible refine (foldl_kept _ _ _ (fun _ _ => ?_)).trans ?_
    | split)

theorem raise_kept (x0 x1 x2 s) : kept (raise x0 x1 x2 s) = kept s := by
  unfold raise
  simp only [loseContext_kept]

theorem setSlot_kept (x0 x1 s) : kept (setSlot x0 x1 s) = kept s := by
  unfold setSlot
  simp only [kept_mk, kept_fold, State.draw_kept]

theorem clearSlot_kept (x0 s) : kept (clearSlot x0 s) = kept s := by
  unfold clearSlot
  simp only [kept_mk, kept_fold]

theorem useBlob_kept (x0 x1 s) : kept (useBlob x0 x1 s).1 = kept s := by
  unfold useBlob
  repeat' (first
    | with_reducible rfl
    | with_reducible assumption
    | simp only [kept_mk, kept_fold, State.draw_kept]
    | with_reducible refine fst_kept (by assumption) ?_
    | with_reducible refine snd_kept (by assumption) ?_
    | with_reducible refine (foldl_kept _ _ _ (fun _ _ => ?_)).trans ?_
    | split
    | (simp only))

theorem dropCache_kept (x0 s) : kept (dropCache x0 s) = kept s := by
  unfold dropCache
  simp only [kept_mk, kept_fold]

theorem destroyTenantKeys_kept (x0 s) : kept (destroyTenantKeys x0 s) = kept s := by
  unfold destroyTenantKeys
  simp only [State.modPart_kept, clearSlot_kept, dropCache_kept]

theorem signOwn_kept (x0 s) : kept (signOwn x0 s).1 = kept s := by
  unfold signOwn
  repeat' (first
    | with_reducible rfl
    | with_reducible assumption
    | simp only [State.draw_kept]
    | with_reducible refine fst_kept (by assumption) ?_
    | with_reducible refine snd_kept (by assumption) ?_
    | with_reducible refine (foldl_kept _ _ _ (fun _ _ => ?_)).trans ?_
    | split)

theorem freshKey_kept (s) : kept (freshKey s).1 = kept s := by
  unfold freshKey
  repeat' (first
    | with_reducible rfl
    | with_reducible assumption
    | simp only [State.draw_kept]
    | with_reducible refine fst_kept (by assumption) ?_
    | with_reducible refine snd_kept (by assumption) ?_
    | with_reducible refine (foldl_kept _ _ _ (fun _ _ => ?_)).trans ?_
    | split)

theorem releaseReservation_kept (x0 s) : kept (releaseReservation x0 s) = kept s := by
  unfold releaseReservation
  simp only [kept_ite, ite_self, State.modPart_kept, clearSlot_kept]

theorem strikeLines_kept (x0 x1 s) : kept (strikeLines x0 x1 s) = kept s := by
  unfold strikeLines
  repeat' (first
    | with_reducible rfl
    | with_reducible assumption
    | simp only [State.modPart_kept]
    | with_reducible refine fst_kept (by assumption) ?_
    | with_reducible refine snd_kept (by assumption) ?_
    | with_reducible refine (foldl_kept _ _ _ (fun _ _ => ?_)).trans ?_)

theorem takeLine_kept (x0 x1 s) : kept (takeLine x0 x1 s) = kept s := by
  unfold takeLine
  repeat' (first
    | with_reducible rfl
    | with_reducible assumption
    | simp only [State.modPart_kept]
    | with_reducible refine fst_kept (by assumption) ?_
    | with_reducible refine snd_kept (by assumption) ?_
    | with_reducible refine (foldl_kept _ _ _ (fun _ _ => ?_)).trans ?_
    | split)

theorem takeTable_kept (x0 x1 s) : kept (takeTable x0 x1 s) = kept s := by
  unfold takeTable
  repeat' (first
    | with_reducible rfl
    | with_reducible assumption
    | simp only [State.modPart_kept]
    | with_reducible refine fst_kept (by assumption) ?_
    | with_reducible refine snd_kept (by assumption) ?_
    | with_reducible refine (foldl_kept _ _ _ (fun _ _ => ?_)).trans ?_
    | split)

theorem returnBe_kept (x0 s) : kept (returnBe x0 s) = kept s := by
  unfold returnBe
  simp only [kept_ite, ite_self, State.modPart_kept]

theorem toRun_kept (x0 x1 s) : kept (toRun x0 x1 s) = kept s := by
  unfold toRun
  simp only [State.modThread_kept]

theorem wake_kept (x0 x1 s) : kept (wake x0 x1 s) = kept s := by
  unfold wake
  simp only [kept_ite, ite_self, State.modThread_kept, toRun_kept]

theorem tallyAdd_kept (x0 x1 x2 x3 s) : kept (tallyAdd x0 x1 x2 x3 s) = kept s := by
  unfold tallyAdd
  repeat' (first
    | with_reducible rfl
    | with_reducible assumption
    | simp only [kept_ite, ite_self, State.modEmber_kept, State.modThread_kept, wake_kept]
    | with_reducible refine fst_kept (by assumption) ?_
    | with_reducible refine snd_kept (by assumption) ?_
    | with_reducible refine (foldl_kept _ _ _ (fun _ _ => ?_)).trans ?_
    | split
    | simp only [kept_ite])

theorem pauseBusy_kept (x0 s) : kept (pauseBusy x0 s) = kept s := by
  unfold pauseBusy
  simp only [State.mapEmbers_kept, endParks_kept]

theorem releaseBe_kept (x0 s) : kept (releaseBe x0 s) = kept s := by
  unfold releaseBe
  simp only [kept_ite, ite_self, State.modEmber_kept]

theorem pauseClass_kept (x0 x1 s) : kept (pauseClass x0 x1 s) = kept s := by
  unfold pauseClass
  simp only [State.mapEmbers_kept, endParks_kept]

theorem releaseLc_kept (x0 s) : kept (releaseLc x0 s) = kept s := by
  unfold releaseLc
  simp only [State.mapEmbers_kept, State.modPart_kept]

theorem startAbort_kept (x0 x1 x2 x3 s) : kept (startAbort x0 x1 x2 x3 s) = kept s := by
  unfold startAbort
  simp only [kept_ite, ite_self, State.modEmber_kept, State.modPart_kept, pauseClass_kept, sendFrame_kept]

theorem storeScratch_kept (x0 x1 x2 s) : kept (storeScratch x0 x1 x2 s) = kept s := by
  unfold storeScratch
  simp only [State.modEmber_kept]

theorem parityFault_kept (x0 x1 x2 x3 s) : kept (parityFault x0 x1 x2 x3 s) = kept s := by
  unfold parityFault
  simp only [kept_ite, ite_self, State.modEmber_kept, State.modPart_kept, loseContext_kept, startAbort_kept]

theorem ckAsk_kept (x0 x1 s) : kept (ckAsk x0 x1 s) = kept s := by
  unfold ckAsk
  simp only [kept_ite, ite_self, State.modPart_kept, sendFrame_kept]

theorem healthWarn_kept (x0 x1 s) : kept (healthWarn x0 x1 s) = kept s := by
  unfold healthWarn
  repeat' (first
    | with_reducible rfl
    | with_reducible assumption
    | simp only [kept_mk, kept_fold, State.modPart_kept, ckAsk_kept]
    | with_reducible refine fst_kept (by assumption) ?_
    | with_reducible refine snd_kept (by assumption) ?_
    | with_reducible refine (foldl_kept _ _ _ (fun _ _ => ?_)).trans ?_)

theorem healthHbm_kept (x0 s) : kept (healthHbm x0 s) = kept s := by
  unfold healthHbm
  simp only [kept_mk, kept_fold, kept_ite, ite_self, healthWarn_kept]

theorem healthSentinel_kept (s) : kept (healthSentinel s) = kept s := by
  unfold healthSentinel
  simp only [kept_mk, kept_fold, kept_ite, ite_self, healthWarn_kept]

theorem healthFlue_kept (x0 s) : kept (healthFlue x0 s) = kept s := by
  unfold healthFlue
  simp only [kept_mk, kept_fold, kept_ite, ite_self, healthWarn_kept]

theorem healthSpares_kept (s) : kept (healthSpares s) = kept s := by
  unfold healthSpares
  simp only [kept_mk, kept_fold, kept_ite, ite_self, healthWarn_kept]

theorem modAt_kept (x0 x1 s) : kept (modAt x0 x1 s) = kept s := by
  unfold modAt
  simp only [State.modThread_kept]

theorem markIssued_kept (x0 s) : kept (markIssued x0 s) = kept s := State.modEmber_kept ..

theorem afterIssue_kept (x0 s) : kept (afterIssue x0 s) = kept s := by
  unfold afterIssue
  simp only [kept_ite, ite_self, markIssued_kept, modAt_kept]

theorem issue_kept (x w f ss ps room static body s) (hb : ∀ s, KeptEff (kept s) (body s)) :
    kept (issue x w f ss ps room static body s) = kept s := by
  unfold issue
  split
  · rfl
  · split
    · rfl
    · split
      · exact raise_kept ..
      · split
        · exact (afterIssue_kept ..).trans rfl
        · have h := hb s
          cases he : body s with
          | ok t => rw [he] at h; exact (afterIssue_kept ..).trans h
          | stay t => rw [he] at h; exact (afterIssue_kept ..).trans h
          | wait t => rw [he] at h; exact h
          | exc c a => exact raise_kept ..

theorem issueRR_kept (x0 x1 x2 x3 x4 x5 s) : kept (issueRR x0 x1 x2 x3 x4 x5 s) = kept s := by
  unfold issueRR
  repeat' (first
    | with_reducible rfl
    | with_reducible assumption
    | simp only [keptEff_ok, modAt_kept]
    | with_reducible refine fst_kept (by assumption) ?_
    | with_reducible refine snd_kept (by assumption) ?_
    | with_reducible refine (issue_kept _ _ _ _ _ _ _ _ _ (fun _ => ?_)).trans ?_)

theorem issueRI_kept (x0 x1 x2 x3 x4 s) : kept (issueRI x0 x1 x2 x3 x4 s) = kept s := by
  unfold issueRI
  repeat' (first
    | with_reducible rfl
    | with_reducible assumption
    | simp only [keptEff_ok, modAt_kept]
    | with_reducible refine fst_kept (by assumption) ?_
    | with_reducible refine snd_kept (by assumption) ?_
    | with_reducible refine (issue_kept _ _ _ _ _ _ _ _ _ (fun _ => ?_)).trans ?_)

theorem issueInt_kept (x0 x1 x2 x3 x4 s) : kept (issueInt x0 x1 x2 x3 x4 s) = kept s := by
  unfold issueInt
  simp only [kept_ite, ite_self, issueRI_kept, issueRR_kept]

theorem countLaunch_kept (x0 s) : kept (countLaunch x0 s) = kept s := by
  unfold countLaunch
  simp only [State.modPart_kept]

theorem branchTo_kept (x pc link s) {k} (hl : kept (link s) = k) : KeptEff k (branchTo x pc link s) := by
  unfold branchTo
  split
  · exact hl
  · trivial

theorem fetchLine_kept (x0 x1 s) : kept (fetchLine x0 x1 s) = kept s := by
  unfold fetchLine
  simp only [kept_ite, ite_self, State.modEmber_kept, modAt_kept, parityFault_kept, raise_kept]

theorem execFetchLineFill_kept (x0 x1 s) {k} (hk : kept s = k) : KeptOut k (execFetchLineFill x0 x1 s) := by
  subst hk
  unfold execFetchLineFill
  simp only [keptOut_next, fetchLine_kept]

theorem execNop_kept (x0 x1 x2 s) {k} (hk : kept s = k) : KeptOut k (execNop x0 x1 x2 s) := by
  subst hk
  unfold execNop
  repeat' (first
    | with_reducible rfl
    | with_reducible assumption
    | simp only [kept_ite, keptEff_ok, keptOut_next]
    | with_reducible refine fst_kept (by assumption) ?_
    | with_reducible refine snd_kept (by assumption) ?_
    | with_reducible refine (issue_kept _ _ _ _ _ _ _ _ _ (fun _ => ?_)).trans ?_
    | with_reducible refine (foldl_kept _ _ _ (fun _ _ => ?_)).trans ?_
    | split
    | simp only [keptOut_next])

theorem endThread_kept (x0 s) : kept (endThread x0 s) = kept s := by
  unfold endThread
  repeat' (first
    | with_reducible rfl
    | with_reducible assumption
    | simp only [kept_ite, State.modPart_kept, modAt_kept, releaseBe_kept]
    | with_reducible refine fst_kept (by assumption) ?_
    | with_reducible refine snd_kept (by assumption) ?_
    | with_reducible refine (foldl_kept _ _ _ (fun _ _ => ?_)).trans ?_
    | split
    | simp only [kept_ite, modAt_kept, releaseBe_kept])

theorem execEndThread_kept (x0 x1 s) {k} (hk : kept s = k) : KeptOut k (execEndThread x0 x1 s) := by
  subst hk
  unfold execEndThread
  repeat' (first
    | with_reducible rfl
    | with_reducible assumption
    | simp only [keptEff_stay, keptOut_next, endThread_kept, modAt_kept]
    | with_reducible refine fst_kept (by assumption) ?_
    | with_reducible refine snd_kept (by assumption) ?_
    | with_reducible refine (issue_kept _ _ _ _ _ _ _ _ _ (fun _ => ?_)).trans ?_
    | with_reducible refine (foldl_kept _ _ _ (fun _ _ => ?_)).trans ?_
    | split
    | simp only [keptOut_next])

theorem execBrk_kept (x0 x1 s) {k} (hk : kept s = k) : KeptOut k (execBrk x0 x1 s) := by
  subst hk
  unfold execBrk
  repeat' (first
    | with_reducible rfl
    | with_reducible assumption
    | simp only [ite_self, keptEff_ok, keptEff_ite, keptOut_next, modAt_kept]
    | with_reducible refine fst_kept (by assumption) ?_
    | with_reducible refine snd_kept (by assumption) ?_
    | with_reducible refine (issue_kept _ _ _ _ _ _ _ _ _ (fun _ => ?_)).trans ?_
    | with_reducible refine (foldl_kept _ _ _ (fun _ _ => ?_)).trans ?_
    | split
    | simp only [keptOut_next])

theorem execTid_kept (x0 x1 s) {k} (hk : kept s = k) : KeptOut k (execTid x0 x1 s) := by
  subst hk
  unfold execTid
  repeat' (first
    | with_reducible rfl
    | with_reducible assumption
    | simp only [keptEff_ok, keptOut_next, modAt_kept]
    | with_reducible refine fst_kept (by assumption) ?_
    | with_reducible refine snd_kept (by assumption) ?_
    | with_reducible refine (issue_kept _ _ _ _ _ _ _ _ _ (fun _ => ?_)).trans ?_
    | with_reducible refine (foldl_kept _ _ _ (fun _ _ => ?_)).trans ?_
    | split
    | simp only [keptOut_next])

theorem execAdd_kept (x0 x1 x2 s) {k} (hk : kept s = k) : KeptOut k (execAdd x0 x1 x2 s) := by
  subst hk
  unfold execAdd
  simp only [keptOut_next, issueInt_kept]

theorem execSub_kept (x0 x1 x2 s) {k} (hk : kept s = k) : KeptOut k (execSub x0 x1 x2 s) := by
  subst hk
  unfold execSub
  simp only [keptOut_next, issueInt_kept]

theorem execAndOp_kept (x0 x1 x2 s) {k} (hk : kept s = k) : KeptOut k (execAndOp x0 x1 x2 s) := by
  subst hk
  unfold execAndOp
  simp only [keptOut_next, issueInt_kept]

theorem execOrOp_kept (x0 x1 x2 s) {k} (hk : kept s = k) : KeptOut k (execOrOp x0 x1 x2 s) := by
  subst hk
  unfold execOrOp
  simp only [keptOut_next, issueInt_kept]

theorem execXorOp_kept (x0 x1 x2 s) {k} (hk : kept s = k) : KeptOut k (execXorOp x0 x1 x2 s) := by
  subst hk
  unfold execXorOp
  simp only [keptOut_next, issueInt_kept]

theorem execAndn_kept (x0 x1 x2 s) {k} (hk : kept s = k) : KeptOut k (execAndn x0 x1 x2 s) := by
  subst hk
  unfold execAndn
  simp only [keptOut_next, issueInt_kept]

theorem execShl_kept (x0 x1 x2 s) {k} (hk : kept s = k) : KeptOut k (execShl x0 x1 x2 s) := by
  subst hk
  unfold execShl
  simp only [keptOut_next, issueInt_kept]

theorem execShr_kept (x0 x1 x2 s) {k} (hk : kept s = k) : KeptOut k (execShr x0 x1 x2 s) := by
  subst hk
  unfold execShr
  simp only [keptOut_next, issueInt_kept]

theorem execSra_kept (x0 x1 x2 s) {k} (hk : kept s = k) : KeptOut k (execSra x0 x1 x2 s) := by
  subst hk
  unfold execSra
  simp only [keptOut_next, issueInt_kept]

theorem execMinOp_kept (x0 x1 x2 s) {k} (hk : kept s = k) : KeptOut k (execMinOp x0 x1 x2 s) := by
  subst hk
  unfold execMinOp
  simp only [keptOut_next, issueInt_kept]

theorem execMaxOp_kept (x0 x1 x2 s) {k} (hk : kept s = k) : KeptOut k (execMaxOp x0 x1 x2 s) := by
  subst hk
  unfold execMaxOp
  simp only [keptOut_next, issueInt_kept]

theorem execMinu_kept (x0 x1 x2 s) {k} (hk : kept s = k) : KeptOut k (execMinu x0 x1 x2 s) := by
  subst hk
  unfold execMinu
  simp only [keptOut_next, issueInt_kept]

theorem execMaxu_kept (x0 x1 x2 s) {k} (hk : kept s = k) : KeptOut k (execMaxu x0 x1 x2 s) := by
  subst hk
  unfold execMaxu
  simp only [keptOut_next, issueInt_kept]

theorem execPopc_kept (x0 x1 s) {k} (hk : kept s = k) : KeptOut k (execPopc x0 x1 s) := by
  subst hk
  unfold execPopc
  simp only [keptOut_next, issueRR_kept]

theorem execClz_kept (x0 x1 s) {k} (hk : kept s = k) : KeptOut k (execClz x0 x1 s) := by
  subst hk
  unfold execClz
  simp only [keptOut_next, issueRR_kept]

theorem execMovhi_kept (x0 x1 s) {k} (hk : kept s = k) : KeptOut k (execMovhi x0 x1 s) := by
  subst hk
  unfold execMovhi
  repeat' (first
    | with_reducible rfl
    | with_reducible assumption
    | simp only [keptEff_ok, keptOut_next, modAt_kept]
    | with_reducible refine fst_kept (by assumption) ?_
    | with_reducible refine snd_kept (by assumption) ?_
    | with_reducible refine (issue_kept _ _ _ _ _ _ _ _ _ (fun _ => ?_)).trans ?_
    | with_reducible refine (foldl_kept _ _ _ (fun _ _ => ?_)).trans ?_
    | split
    | simp only [keptOut_next])

theorem execMovi_kept (x0 x1 s) {k} (hk : kept s = k) : KeptOut k (execMovi x0 x1 s) := by
  subst hk
  unfold execMovi
  repeat' (first
    | with_reducible rfl
    | with_reducible assumption
    | simp only [keptEff_ok, keptOut_next, modAt_kept]
    | with_reducible refine fst_kept (by assumption) ?_
    | with_reducible refine snd_kept (by assumption) ?_
    | with_reducible refine (issue_kept _ _ _ _ _ _ _ _ _ (fun _ => ?_)).trans ?_
    | with_reducible refine (foldl_kept _ _ _ (fun _ _ => ?_)).trans ?_
    | split
    | simp only [keptOut_next])

theorem execMul_kept (x0 x1 s) {k} (hk : kept s = k) : KeptOut k (execMul x0 x1 s) := by
  subst hk
  unfold execMul
  simp only [keptOut_next, issueRR_kept]

theorem execMulh_kept (x0 x1 s) {k} (hk : kept s = k) : KeptOut k (execMulh x0 x1 s) := by
  subst hk
  unfold execMulh
  simp only [keptOut_next, issueRR_kept]

theorem execMulhu_kept (x0 x1 s) {k} (hk : kept s = k) : KeptOut k (execMulhu x0 x1 s) := by
  subst hk
  unfold execMulhu
  simp only [keptOut_next, issueRR_kept]

theorem execDiv_kept (x0 x1 s) {k} (hk : kept s = k) : KeptOut k (execDiv x0 x1 s) := by
  subst hk
  unfold execDiv
  simp only [keptOut_next, issueRR_kept]

theorem execDivu_kept (x0 x1 s) {k} (hk : kept s = k) : KeptOut k (execDivu x0 x1 s) := by
  subst hk
  unfold execDivu
  simp only [keptOut_next, issueRR_kept]

theorem execRemOp_kept (x0 x1 s) {k} (hk : kept s = k) : KeptOut k (execRemOp x0 x1 s) := by
  subst hk
  unfold execRemOp
  simp only [keptOut_next, issueRR_kept]

theorem execRemu_kept (x0 x1 s) {k} (hk : kept s = k) : KeptOut k (execRemu x0 x1 s) := by
  subst hk
  unfold execRemu
  simp only [keptOut_next, issueRR_kept]

theorem execCmp_kept (x0 x1 x2 s) {k} (hk : kept s = k) : KeptOut k (execCmp x0 x1 x2 s) := by
  subst hk
  unfold execCmp
  repeat' (first
    | with_reducible rfl
    | with_reducible assumption
    | simp only [keptEff_ok, keptOut_next, modAt_kept]
    | with_reducible refine fst_kept (by assumption) ?_
    | with_reducible refine snd_kept (by assumption) ?_
    | with_reducible refine (issue_kept _ _ _ _ _ _ _ _ _ (fun _ => ?_)).trans ?_
    | with_reducible refine (foldl_kept _ _ _ (fun _ _ => ?_)).trans ?_
    | split
    | simp only [keptOut_next])

theorem execCmpi_kept (x0 x1 x2 s) {k} (hk : kept s = k) : KeptOut k (execCmpi x0 x1 x2 s) := by
  subst hk
  unfold execCmpi
  repeat' (first
    | with_reducible rfl
    | with_reducible assumption
    | simp only [keptEff_ok, keptOut_next, modAt_kept]
    | with_reducible refine fst_kept (by assumption) ?_
    | with_reducible refine snd_kept (by assumption) ?_
    | with_reducible refine (issue_kept _ _ _ _ _ _ _ _ _ (fun _ => ?_)).trans ?_
    | with_reducible refine (foldl_kept _ _ _ (fun _ _ => ?_)).trans ?_
    | split
    | simp only [keptOut_next])

theorem issuePred_kept (x0 x1 x2 x3 s) : kept (issuePred x0 x1 x2 x3 s) = kept s := by
  unfold issuePred
  repeat' (first
    | with_reducible rfl
    | with_reducible assumption
    | simp only [keptEff_ok, modAt_kept]
    | with_reducible refine fst_kept (by assumption) ?_
    | with_reducible refine snd_kept (by assumption) ?_
    | with_reducible refine (issue_kept _ _ _ _ _ _ _ _ _ (fun _ => ?_)).trans ?_)

theorem execPand_kept (x0 x1 s) {k} (hk : kept s = k) : KeptOut k (execPand x0 x1 s) := by
  subst hk
  unfold execPand
  simp only [keptOut_next, issuePred_kept]

theorem execPor_kept (x0 x1 s) {k} (hk : kept s = k) : KeptOut k (execPor x0 x1 s) := by
  subst hk
  unfold execPor
  simp only [keptOut_next, issuePred_kept]

theorem execPxor_kept (x0 x1 s) {k} (hk : kept s = k) : KeptOut k (execPxor x0 x1 s) := by
  subst hk
  unfold execPxor
  simp only [keptOut_next, issuePred_kept]

theorem execPandn_kept (x0 x1 s) {k} (hk : kept s = k) : KeptOut k (execPandn x0 x1 s) := by
  subst hk
  unfold execPandn
  simp only [keptOut_next, issuePred_kept]

theorem execPnz_kept (x0 x1 s) {k} (hk : kept s = k) : KeptOut k (execPnz x0 x1 s) := by
  subst hk
  unfold execPnz
  repeat' (first
    | with_reducible rfl
    | with_reducible assumption
    | simp only [keptEff_ok, keptOut_next, modAt_kept]
    | with_reducible refine fst_kept (by assumption) ?_
    | with_reducible refine snd_kept (by assumption) ?_
    | with_reducible refine (issue_kept _ _ _ _ _ _ _ _ _ (fun _ => ?_)).trans ?_
    | with_reducible refine (foldl_kept _ _ _ (fun _ _ => ?_)).trans ?_
    | split
    | simp only [keptOut_next])

theorem execPget_kept (x0 x1 s) {k} (hk : kept s = k) : KeptOut k (execPget x0 x1 s) := by
  subst hk
  unfold execPget
  repeat' (first
    | with_reducible rfl
    | with_reducible assumption
    | simp only [keptEff_ok, keptOut_next, modAt_kept]
    | with_reducible refine fst_kept (by assumption) ?_
    | with_reducible refine snd_kept (by assumption) ?_
    | with_reducible refine (issue_kept _ _ _ _ _ _ _ _ _ (fun _ => ?_)).trans ?_
    | with_reducible refine (foldl_kept _ _ _ (fun _ _ => ?_)).trans ?_
    | split
    | simp only [keptOut_next])

theorem execBr_kept (x0 x1 s) {k} (hk : kept s = k) : KeptOut k (execBr x0 x1 s) := by
  subst hk
  unfold execBr
  repeat' (first
    | with_reducible rfl
    | with_reducible assumption
    | simp only [id_eq, keptOut_next]
    | with_reducible refine fst_kept (by assumption) ?_
    | with_reducible refine snd_kept (by assumption) ?_
    | with_reducible refine branchTo_kept  _ _ _ _ ?_
    | with_reducible refine (issue_kept _ _ _ _ _ _ _ _ _ (fun _ => ?_)).trans ?_
    | with_reducible refine (foldl_kept _ _ _ (fun _ _ => ?_)).trans ?_
    | split
    | simp only [keptOut_next])

theorem execBrl_kept (x0 x1 s) {k} (hk : kept s = k) : KeptOut k (execBrl x0 x1 s) := by
  subst hk
  unfold execBrl
  repeat' (first
    | with_reducible rfl
    | with_reducible assumption
    | simp only [keptOut_next, modAt_kept]
    | with_reducible refine fst_kept (by assumption) ?_
    | with_reducible refine snd_kept (by assumption) ?_
    | with_reducible refine branchTo_kept  _ _ _ _ ?_
    | with_reducible refine (issue_kept _ _ _ _ _ _ _ _ _ (fun _ => ?_)).trans ?_
    | with_reducible refine (foldl_kept _ _ _ (fun _ _ => ?_)).trans ?_
    | split
    | simp only [keptOut_next])

theorem execJr_kept (x0 x1 s) {k} (hk : kept s = k) : KeptOut k (execJr x0 x1 s) := by
  subst hk
  unfold execJr
  repeat' (first
    | with_reducible rfl
    | with_reducible assumption
    | simp only [id_eq, keptOut_next]
    | with_reducible refine fst_kept (by assumption) ?_
    | with_reducible refine snd_kept (by assumption) ?_
    | with_reducible refine branchTo_kept  _ _ _ _ ?_
    | with_reducible refine (issue_kept _ _ _ _ _ _ _ _ _ (fun _ => ?_)).trans ?_
    | with_reducible refine (foldl_kept _ _ _ (fun _ _ => ?_)).trans ?_
    | split
    | simp only [keptOut_next])

theorem execJrl_kept (x0 x1 s) {k} (hk : kept s = k) : KeptOut k (execJrl x0 x1 s) := by
  subst hk
  unfold execJrl
  repeat' (first
    | with_reducible rfl
    | with_reducible assumption
    | simp only [keptOut_next, modAt_kept]
    | with_reducible refine fst_kept (by assumption) ?_
    | with_reducible refine snd_kept (by assumption) ?_
    | with_reducible refine branchTo_kept  _ _ _ _ ?_
    | with_reducible refine (issue_kept _ _ _ _ _ _ _ _ _ (fun _ => ?_)).trans ?_
    | with_reducible refine (foldl_kept _ _ _ (fun _ _ => ?_)).trans ?_
    | split
    | simp only [keptOut_next])

theorem withScratch_kept (x a size al write strike f s) {k} (hk : kept s = k) (hb : ∀ s, kept s = k → KeptEff k (f s)) :
    KeptEff k (withScratch x a size al write strike f s) := by
  unfold withScratch
  split
  · trivial
  · exact hb _ hk

theorem parityEff_kept (x0 x1 s) {k} (hk : kept s = k) : KeptEff k (parityEff x0 x1 s) := by
  subst hk
  unfold parityEff
  simp only [keptEff_stay, parityFault_kept]

theorem execLds_kept (x0 x1 x2 x3 s) {k} (hk : kept s = k) : KeptOut k (execLds x0 x1 x2 x3 s) := by
  subst hk
  unfold execLds
  repeat' (first
    | with_reducible rfl
    | with_reducible assumption
    | simp only [keptEff_ok, keptOut_next, modAt_kept]
    | with_reducible refine fst_kept (by assumption) ?_
    | with_reducible refine snd_kept (by assumption) ?_
    | with_reducible refine parityEff_kept  _ _ _ ?_
    | with_reducible refine (issue_kept _ _ _ _ _ _ _ _ _ (fun _ => ?_)).trans ?_
    | with_reducible refine withScratch_kept _ _ _ _ _ _ _ _ ?_ (fun _ _ => ?_)
    | with_reducible refine (foldl_kept _ _ _ (fun _ _ => ?_)).trans ?_
    | split
    | simp only [keptEff_ok, keptOut_next, modAt_kept])

theorem execSts_kept (x0 x1 x2 x3 s) {k} (hk : kept s = k) : KeptOut k (execSts x0 x1 x2 x3 s) := by
  subst hk
  unfold execSts
  repeat' (first
    | with_reducible rfl
    | with_reducible assumption
    | simp only [keptEff_ok, keptEff_ite, keptOut_next, storeScratch_kept]
    | with_reducible refine fst_kept (by assumption) ?_
    | with_reducible refine snd_kept (by assumption) ?_
    | with_reducible refine parityEff_kept  _ _ _ ?_
    | with_reducible refine (issue_kept _ _ _ _ _ _ _ _ _ (fun _ => ?_)).trans ?_
    | with_reducible refine withScratch_kept _ _ _ _ _ _ _ _ ?_ (fun _ _ => ?_)
    | with_reducible refine (foldl_kept _ _ _ (fun _ _ => ?_)).trans ?_
    | split
    | simp only [keptEff_ok, keptOut_next, storeScratch_kept])

theorem execAtom_kept (x0 x1 x2 x3 s) {k} (hk : kept s = k) : KeptOut k (execAtom x0 x1 x2 x3 s) := by
  subst hk
  unfold execAtom
  repeat' (first
    | with_reducible rfl
    | with_reducible assumption
    | simp only [keptEff_ok, keptOut_next, modAt_kept, storeScratch_kept]
    | with_reducible refine fst_kept (by assumption) ?_
    | with_reducible refine snd_kept (by assumption) ?_
    | with_reducible refine parityEff_kept  _ _ _ ?_
    | with_reducible refine (issue_kept _ _ _ _ _ _ _ _ _ (fun _ => ?_)).trans ?_
    | with_reducible refine withScratch_kept _ _ _ _ _ _ _ _ ?_ (fun _ _ => ?_)
    | with_reducible refine (foldl_kept _ _ _ (fun _ _ => ?_)).trans ?_
    | split
    | simp only [keptEff_ok, keptOut_next, modAt_kept, storeScratch_kept])

theorem execDld_kept (x0 x1 x2 s) {k} (hk : kept s = k) : KeptOut k (execDld x0 x1 x2 s) := by
  subst hk
  unfold execDld
  repeat' (first
    | with_reducible rfl
    | with_reducible assumption
    | simp only [keptEff_ok, keptOut_next, modAt_kept]
    | with_reducible refine fst_kept (by assumption) ?_
    | with_reducible refine snd_kept (by assumption) ?_
    | with_reducible refine parityEff_kept  _ _ _ ?_
    | with_reducible refine (issue_kept _ _ _ _ _ _ _ _ _ (fun _ => ?_)).trans ?_
    | with_reducible refine withScratch_kept _ _ _ _ _ _ _ _ ?_ (fun _ _ => ?_)
    | with_reducible refine (foldl_kept _ _ _ (fun _ _ => ?_)).trans ?_
    | split
    | simp only [keptEff_ok, keptOut_next, modAt_kept])

theorem execDst_kept (x0 x1 s) {k} (hk : kept s = k) : KeptOut k (execDst x0 x1 s) := by
  subst hk
  unfold execDst
  repeat' (first
    | with_reducible rfl
    | with_reducible assumption
    | simp only [keptEff_ok, keptOut_next, storeScratch_kept]
    | with_reducible refine fst_kept (by assumption) ?_
    | with_reducible refine snd_kept (by assumption) ?_
    | with_reducible refine (issue_kept _ _ _ _ _ _ _ _ _ (fun _ => ?_)).trans ?_
    | with_reducible refine withScratch_kept _ _ _ _ _ _ _ _ ?_ (fun _ _ => ?_)
    | with_reducible refine (foldl_kept _ _ _ (fun _ _ => ?_)).trans ?_
    | split
    | simp only [keptEff_ok, keptOut_next, storeScratch_kept])

theorem execDsetw_kept (x0 x1 s) {k} (hk : kept s = k) : KeptOut k (execDsetw x0 x1 s) := by
  subst hk
  unfold execDsetw
  repeat' (first
    | with_reducible rfl
    | with_reducible assumption
    | simp only [keptEff_ok, keptOut_next, modAt_kept]
    | with_reducible refine fst_kept (by assumption) ?_
    | with_reducible refine snd_kept (by assumption) ?_
    | with_reducible refine (issue_kept _ _ _ _ _ _ _ _ _ (fun _ => ?_)).trans ?_
    | with_reducible refine (foldl_kept _ _ _ (fun _ _ => ?_)).trans ?_
    | split
    | simp only [keptOut_next])

theorem execDgetw_kept (x0 x1 s) {k} (hk : kept s = k) : KeptOut k (execDgetw x0 x1 s) := by
  subst hk
  unfold execDgetw
  repeat' (first
    | with_reducible rfl
    | with_reducible assumption
    | simp only [keptEff_ok, keptOut_next, modAt_kept]
    | with_reducible refine fst_kept (by assumption) ?_
    | with_reducible refine snd_kept (by assumption) ?_
    | with_reducible refine (issue_kept _ _ _ _ _ _ _ _ _ (fun _ => ?_)).trans ?_
    | with_reducible refine (foldl_kept _ _ _ (fun _ _ => ?_)).trans ?_
    | split
    | simp only [keptOut_next])

theorem execTset_kept (x0 x1 s) {k} (hk : kept s = k) : KeptOut k (execTset x0 x1 s) := by
  subst hk
  unfold execTset
  repeat' (first
    | with_reducible rfl
    | with_reducible assumption
    | simp only [ite_self, keptEff_ok, keptEff_exc, keptEff_ite, keptOut_next, modAt_kept]
    | with_reducible refine fst_kept (by assumption) ?_
    | with_reducible refine snd_kept (by assumption) ?_
    | with_reducible refine (issue_kept _ _ _ _ _ _ _ _ _ (fun _ => ?_)).trans ?_
    | with_reducible refine (foldl_kept _ _ _ (fun _ _ => ?_)).trans ?_
    | split
    | simp only [keptOut_next])

theorem execTseti_kept (x0 x1 s) {k} (hk : kept s = k) : KeptOut k (execTseti x0 x1 s) := by
  subst hk
  unfold execTseti
  repeat' (first
    | with_reducible rfl
    | with_reducible assumption
    | simp only [keptEff_ok, keptEff_exc, keptOut_next, modAt_kept]
    | with_reducible refine fst_kept (by assumption) ?_
    | with_reducible refine snd_kept (by assumption) ?_
    | with_reducible refine (issue_kept _ _ _ _ _ _ _ _ _ (fun _ => ?_)).trans ?_
    | with_reducible refine (foldl_kept _ _ _ (fun _ _ => ?_)).trans ?_
    | split
    | simp only [keptOut_next])

theorem execTadd_kept (x0 x1 s) {k} (hk : kept s = k) : KeptOut k (execTadd x0 x1 s) := by
  subst hk
  unfold execTadd
  repeat' (first
    | with_reducible rfl
    | with_reducible assumption
    | simp only [ite_self, keptEff_ok, keptEff_exc, keptEff_ite, keptOut_next, tallyAdd_kept]
    | with_reducible refine fst_kept (by assumption) ?_
    | with_reducible refine snd_kept (by assumption) ?_
    | with_reducible refine (issue_kept _ _ _ _ _ _ _ _ _ (fun _ => ?_)).trans ?_
    | with_reducible refine (foldl_kept _ _ _ (fun _ _ => ?_)).trans ?_
    | split
    | simp only [keptOut_next])

theorem execTrd_kept (x0 x1 s) {k} (hk : kept s = k) : KeptOut k (execTrd x0 x1 s) := by
  subst hk
  unfold execTrd
  repeat' (first
    | with_reducible rfl
    | with_reducible assumption
    | simp only [keptEff_ok, keptOut_next, modAt_kept]
    | with_reducible refine fst_kept (by assumption) ?_
    | with_reducible refine snd_kept (by assumption) ?_
    | with_reducible refine (issue_kept _ _ _ _ _ _ _ _ _ (fun _ => ?_)).trans ?_
    | with_reducible refine (foldl_kept _ _ _ (fun _ _ => ?_)).trans ?_
    | split
    | simp only [keptOut_next])

theorem tallyWait_kept (x0 x1 x2 s) {k} (hk : kept s = k) : KeptEff k (tallyWait x0 x1 x2 s) := by
  subst hk
  unfold tallyWait
  simp only [ite_self, keptEff_ok, keptEff_exc, keptEff_ite, modAt_kept]

theorem execTwait_kept (x0 x1 s) {k} (hk : kept s = k) : KeptOut k (execTwait x0 x1 s) := by
  subst hk
  unfold execTwait
  repeat' (first
    | with_reducible rfl
    | with_reducible assumption
    | simp only [keptOut_next]
    | with_reducible refine fst_kept (by assumption) ?_
    | with_reducible refine snd_kept (by assumption) ?_
    | with_reducible refine tallyWait_kept  _ _ _ _ ?_
    | with_reducible refine (issue_kept _ _ _ _ _ _ _ _ _ (fun _ => ?_)).trans ?_
    | with_reducible refine (foldl_kept _ _ _ (fun _ _ => ?_)).trans ?_
    | split
    | simp only [keptOut_next])

theorem execTwaiti_kept (x0 x1 s) {k} (hk : kept s = k) : KeptOut k (execTwaiti x0 x1 s) := by
  subst hk
  unfold execTwaiti
  repeat' (first
    | with_reducible rfl
    | with_reducible assumption
    | simp only [keptOut_next]
    | with_reducible refine fst_kept (by assumption) ?_
    | with_reducible refine snd_kept (by assumption) ?_
    | with_reducible refine tallyWait_kept  _ _ _ _ ?_
    | with_reducible refine (issue_kept _ _ _ _ _ _ _ _ _ (fun _ => ?_)).trans ?_
    | with_reducible refine (foldl_kept _ _ _ (fun _ _ => ?_)).trans ?_
    | split
    | simp only [keptOut_next])

theorem execBare_kept (x0 x1 s) {k} (hk : kept s = k) : KeptOut k (execBare x0 x1 s) := by
  subst hk
  unfold execBare
  repeat' (first
    | with_reducible rfl
    | with_reducible assumption
    | simp only [keptEff_ok, keptEff_exc, keptEff_ite, keptOut_next, State.modEmber_kept, modAt_kept, wake_kept]
    | with_reducible refine fst_kept (by assumption) ?_
    | with_reducible refine snd_kept (by assumption) ?_
    | with_reducible refine (issue_kept _ _ _ _ _ _ _ _ _ (fun _ => ?_)).trans ?_
    | with_reducible refine (foldl_kept _ _ _ (fun _ _ => ?_)).trans ?_
    | split
    | simp only [keptEff_ok, keptOut_next])

theorem execBarp_kept (x0 x1 s) {k} (hk : kept s = k) : KeptOut k (execBarp x0 x1 s) := by
  subst hk
  unfold execBarp
  repeat' (first
    | with_reducible rfl
    | with_reducible assumption
    | simp only [ite_self, keptEff_ok, keptEff_exc, keptEff_ite, keptOut_next, State.modPart_kept, modAt_kept]
    | with_reducible refine fst_kept (by assumption) ?_
    | with_reducible refine snd_kept (by assumption) ?_
    | with_reducible refine (issue_kept _ _ _ _ _ _ _ _ _ (fun _ => ?_)).trans ?_
    | with_reducible refine (foldl_kept _ _ _ (fun _ _ => ?_)).trans ?_
    | split
    | simp only [keptOut_next])

theorem execBarpRelease_kept (x0 x1 x2 s) {k} (hk : kept s = k) : KeptOut k (execBarpRelease x0 x1 x2 s) := by
  subst hk
  unfold execBarpRelease
  repeat' (first
    | with_reducible rfl
    | with_reducible assumption
    | simp only [kept_ite, keptOut_next, State.modPart_kept, wake_kept]
    | with_reducible refine fst_kept (by assumption) ?_
    | with_reducible refine snd_kept (by assumption) ?_
    | with_reducible refine (foldl_kept _ _ _ (fun _ _ => ?_)).trans ?_
    | split
    | simp only [kept_ite, keptOut_next])

theorem semServe_kept (x0 x1 x2 s) : kept (semServe x0 x1 x2 s) = kept s := by
  induction x0 generalizing x1 x2 s with
  | zero => unfold semServe; repeat' (first
      | with_reducible rfl)
  | succ m ih =>
    unfold semServe
    repeat' (first
      | with_reducible rfl
      | with_reducible assumption
      | simp only [kept_ite, State.modPart_kept, completeCmd_kept, wake_kept, ih]
      | with_reducible refine fst_kept (by assumption) ?_
      | with_reducible refine snd_kept (by assumption) ?_
      | with_reducible refine (foldl_kept _ _ _ (fun _ _ => ?_)).trans ?_
      | split
      | (simp only))

theorem contribute_kept (x0 x1 x2 s) : kept (contribute x0 x1 x2 s) = kept s := by
  unfold contribute
  repeat' (first
    | with_reducible rfl
    | with_reducible assumption
    | simp only [kept_ite, ite_self, State.modPart_kept, sendFrame_kept]
    | with_reducible refine fst_kept (by assumption) ?_
    | with_reducible refine snd_kept (by assumption) ?_
    | with_reducible refine (foldl_kept _ _ _ (fun _ _ => ?_)).trans ?_
    | split)

theorem semSignal_kept (x0 x1 x2 s) : kept (semSignal x0 x1 x2 s) = kept s := by
  unfold semSignal
  simp only [State.modPart_kept, contribute_kept, semServe_kept]

theorem execSemsig_kept (x0 x1 s) {k} (hk : kept s = k) : KeptOut k (execSemsig x0 x1 s) := by
  subst hk
  unfold execSemsig
  repeat' (first
    | with_reducible rfl
    | with_reducible assumption
    | simp only [ite_self, keptEff_ok, keptEff_exc, keptEff_ite, keptOut_next, semSignal_kept]
    | with_reducible refine fst_kept (by assumption) ?_
    | with_reducible refine snd_kept (by assumption) ?_
    | with_reducible refine (issue_kept _ _ _ _ _ _ _ _ _ (fun _ => ?_)).trans ?_
    | with_reducible refine (foldl_kept _ _ _ (fun _ _ => ?_)).trans ?_
    | split
    | simp only [keptOut_next])

theorem execSemwait_kept (x0 x1 s) {k} (hk : kept s = k) : KeptOut k (execSemwait x0 x1 s) := by
  subst hk
  unfold execSemwait
  repeat' (first
    | with_reducible rfl
    | with_reducible assumption
    | simp only [ite_self, keptEff_ok, keptEff_exc, keptEff_ite, keptOut_next, State.modPart_kept, modAt_kept]
    | with_reducible refine fst_kept (by assumption) ?_
    | with_reducible refine snd_kept (by assumption) ?_
    | with_reducible refine (issue_kept _ _ _ _ _ _ _ _ _ (fun _ => ?_)).trans ?_
    | with_reducible refine (foldl_kept _ _ _ (fun _ _ => ?_)).trans ?_
    | split
    | simp only [keptOut_next])

theorem execSemrd_kept (x0 x1 s) {k} (hk : kept s = k) : KeptOut k (execSemrd x0 x1 s) := by
  subst hk
  unfold execSemrd
  repeat' (first
    | with_reducible rfl
    | with_reducible assumption
    | simp only [keptEff_ok, keptOut_next, modAt_kept]
    | with_reducible refine fst_kept (by assumption) ?_
    | with_reducible refine snd_kept (by assumption) ?_
    | with_reducible refine (issue_kept _ _ _ _ _ _ _ _ _ (fun _ => ?_)).trans ?_
    | with_reducible refine (foldl_kept _ _ _ (fun _ _ => ?_)).trans ?_
    | split
    | simp only [keptOut_next])

theorem execStepb_kept (x0 x1 s) {k} (hk : kept s = k) : KeptOut k (execStepb x0 x1 s) := by
  subst hk
  unfold execStepb
  repeat' (first
    | with_reducible rfl
    | with_reducible assumption
    | simp only [ite_self, keptEff_ok, keptEff_exc, keptEff_ite, keptOut_next, State.modPart_kept, modAt_kept]
    | with_reducible refine fst_kept (by assumption) ?_
    | with_reducible refine snd_kept (by assumption) ?_
    | with_reducible refine (issue_kept _ _ _ _ _ _ _ _ _ (fun _ => ?_)).trans ?_
    | with_reducible refine (foldl_kept _ _ _ (fun _ _ => ?_)).trans ?_
    | split
    | simp only [keptOut_next])

theorem foldMax_kept (x0 x1 x2 x3 s) : kept (foldMax x0 x1 x2 x3 s) = kept s := by
  unfold foldMax
  simp only [State.modPart_kept]

theorem foldSat_kept (x0 x1 x2 x3 s) : kept (foldSat x0 x1 x2 x3 s) = kept s := by
  unfold foldSat
  simp only [kept_ite, ite_self, State.modPart_kept]

theorem tmmaBody_kept (x0 x1 x2 x3 x4 s) {k} (hk : kept s = k) : KeptEff k (tmmaBody x0 x1 x2 x3 x4 s) := by
  subst hk
  unfold tmmaBody
  repeat' (first
    | with_reducible rfl
    | with_reducible assumption
    | simp only [keptEff_ok, keptEff_exc, keptEff_ite, State.modEmber_kept, countLaunch_kept, modAt_kept]
    | with_reducible refine fst_kept (by assumption) ?_
    | with_reducible refine snd_kept (by assumption) ?_
    | with_reducible refine (foldl_kept _ _ _ (fun _ _ => ?_)).trans ?_
    | split
    | simp only [keptEff_exc, keptEff_ite])

theorem issueTmma_kept (x0 x1 x2 x3 x4 s) : kept (issueTmma x0 x1 x2 x3 x4 s) = kept s := by
  unfold issueTmma
  repeat' (first
    | with_reducible rfl
    | with_reducible assumption
    | simp only [id_eq, kept_mk, kept_fold, kept_ite, ite_self, keptEff_ok, keptEff_stay, keptEff_wait, keptEff_exc, keptEff_ite, keptOut_next, keptOut_ite, keptPiece_moved, keptPiece_stalled, keptPiece_over, keptPiece_ite, State.modPower, State.modLc]
    | with_reducible refine fst_kept (by assumption) ?_
    | with_reducible refine snd_kept (by assumption) ?_
    | with_reducible refine tmmaBody_kept  _ _ _ _ _ _ ?_
    | with_reducible refine (issue_kept _ _ _ _ _ _ _ _ _ (fun _ => ?_)).trans ?_)

theorem execTmmaStart_kept (x0 x1 x2 x3 s) {k} (hk : kept s = k) : KeptOut k (execTmmaStart x0 x1 x2 x3 s) := by
  subst hk
  unfold execTmmaStart
  simp only [keptOut_next, issueTmma_kept]

theorem execTmmaContinue_kept (x0 x1 x2 x3 s) {k} (hk : kept s = k) : KeptOut k (execTmmaContinue x0 x1 x2 x3 s) := by
  subst hk
  unfold execTmmaContinue
  simp only [keptOut_next, issueTmma_kept]

theorem execTmmaFinish_kept (x0 x1 x2 x3 s) {k} (hk : kept s = k) : KeptOut k (execTmmaFinish x0 x1 x2 x3 s) := by
  subst hk
  unfold execTmmaFinish
  simp only [keptOut_next, issueTmma_kept]

theorem execTmmaSingle_kept (x0 x1 x2 x3 s) {k} (hk : kept s = k) : KeptOut k (execTmmaSingle x0 x1 x2 x3 s) := by
  subst hk
  unfold execTmmaSingle
  simp only [keptOut_next, issueTmma_kept]

theorem tqntBody_kept (x0 x1 x2 x3 s) {k} (hk : kept s = k) : KeptEff k (tqntBody x0 x1 x2 x3 s) := by
  subst hk
  unfold tqntBody
  repeat' (first
    | with_reducible rfl
    | with_reducible assumption
    | simp only [ite_self, keptEff_ok, keptEff_exc, keptEff_ite, State.modEmber_kept, countLaunch_kept]
    | with_reducible refine fst_kept (by assumption) ?_
    | with_reducible refine snd_kept (by assumption) ?_
    | with_reducible refine (foldl_kept _ _ _ (fun _ _ => ?_)).trans ?_
    | split
    | simp only [keptEff_exc, keptEff_ite])

theorem execTqnt_kept (x0 x1 x2 x3 s) {k} (hk : kept s = k) : KeptOut k (execTqnt x0 x1 x2 x3 s) := by
  subst hk
  unfold execTqnt
  repeat' (first
    | with_reducible rfl
    | with_reducible assumption
    | simp only [keptOut_next]
    | with_reducible refine fst_kept (by assumption) ?_
    | with_reducible refine snd_kept (by assumption) ?_
    | with_reducible refine tqntBody_kept  _ _ _ _ _ ?_
    | with_reducible refine (issue_kept _ _ _ _ _ _ _ _ _ (fun _ => ?_)).trans ?_
    | with_reducible refine (foldl_kept _ _ _ (fun _ _ => ?_)).trans ?_
    | split
    | simp only [keptOut_next])

theorem orFlags_kept (x0 x1 x2 s) : kept (orFlags x0 x1 x2 s) = kept s := by
  unfold orFlags
  simp only [State.modEmber_kept, State.modThread_kept]

theorem popTile_kept (x0 s) : kept (popTile x0 s) = kept s := by
  unfold popTile
  simp only [State.modEmber_kept, returnBe_kept]

theorem execTqntComplete_kept (x0 x1 s) {k} (hk : kept s = k) : KeptOut k (execTqntComplete x0 x1 s) := by
  subst hk
  unfold execTqntComplete
  repeat' (first
    | with_reducible rfl
    | with_reducible assumption
    | simp only [kept_ite, ite_self, keptOut_next, State.modEmber_kept, foldMax_kept, foldSat_kept, orFlags_kept, parityFault_kept, popTile_kept, tallyAdd_kept]
    | with_reducible refine fst_kept (by assumption) ?_
    | with_reducible refine snd_kept (by assumption) ?_
    | with_reducible refine (foldl_kept _ _ _ (fun _ _ => ?_)).trans ?_
    | split)

theorem execTileDispatch_kept (x0 x1 s) {k} (hk : kept s = k) : KeptOut k (execTileDispatch x0 x1 s) := by
  subst hk
  unfold execTileDispatch
  repeat' (first
    | with_reducible rfl
    | with_reducible assumption
    | simp only [kept_ite, keptOut_next, State.modEmber_kept]
    | with_reducible refine fst_kept (by assumption) ?_
    | with_reducible refine snd_kept (by assumption) ?_
    | with_reducible refine (foldl_kept _ _ _ (fun _ _ => ?_)).trans ?_
    | split
    | simp only [kept_ite, keptOut_next])

theorem execBeTileSuspend_kept (x0 s) {k} (hk : kept s = k) : KeptOut k (execBeTileSuspend x0 s) := by
  subst hk
  unfold execBeTileSuspend
  repeat' (first
    | with_reducible rfl
    | with_reducible assumption
    | simp only [kept_ite, ite_self, keptOut_next, State.modEmber_kept]
    | with_reducible refine fst_kept (by assumption) ?_
    | with_reducible refine snd_kept (by assumption) ?_
    | with_reducible refine (foldl_kept _ _ _ (fun _ _ => ?_)).trans ?_
    | split
    | simp only [keptOut_next])

theorem feedEntry_kept (x0 x1 x2 s) : kept (feedEntry x0 x1 x2 s) = kept s := by
  unfold feedEntry
  repeat' (first
    | with_reducible rfl
    | with_reducible assumption
    | simp only [State.modEmber_kept]
    | with_reducible refine fst_kept (by assumption) ?_
    | with_reducible refine snd_kept (by assumption) ?_
    | with_reducible refine (foldl_kept _ _ _ (fun _ _ => ?_)).trans ?_
    | split)

theorem execSentinelVerdict_kept (x0 s) {k} (hk : kept s = k) : KeptOut k (execSentinelVerdict x0 s) := by
  subst hk
  unfold execSentinelVerdict
  repeat' (first
    | with_reducible rfl
    | with_reducible assumption
    | simp only [keptOut_next, State.modEmber_kept]
    | with_reducible refine fst_kept (by assumption) ?_
    | with_reducible refine snd_kept (by assumption) ?_
    | with_reducible refine (foldl_kept _ _ _ (fun _ _ => ?_)).trans ?_
    | split)

theorem sentinelMiss_kept (x0 x1 x2 s) : kept (sentinelMiss x0 x1 x2 s) = kept s := by
  unfold sentinelMiss
  simp only [kept_mk, kept_fold, kept_ite, ite_self, State.modEmber_kept, healthSentinel_kept, startAbort_kept]

theorem finishTile_kept (x0 x1 x2 x3 s) : kept (finishTile x0 x1 x2 x3 s) = kept s := by
  unfold finishTile
  simp only [kept_ite, ite_self, State.modEmber_kept, State.modThread_kept, foldMax_kept, foldSat_kept, orFlags_kept, sentinelMiss_kept]

theorem execTileComplete_kept (x0 x1 s) {k} (hk : kept s = k) : KeptOut k (execTileComplete x0 x1 s) := by
  subst hk
  unfold execTileComplete
  repeat' (first
    | with_reducible rfl
    | with_reducible assumption
    | simp only [kept_ite, ite_self, keptOut_next, State.modEmber_kept, State.modThread_kept, feedEntry_kept, finishTile_kept, parityFault_kept, popTile_kept, tallyAdd_kept]
    | with_reducible refine fst_kept (by assumption) ?_
    | with_reducible refine snd_kept (by assumption) ?_
    | with_reducible refine (foldl_kept _ _ _ (fun _ _ => ?_)).trans ?_
    | split)

theorem issueStat_kept (x0 x1 x2 x3 x4 x5 s) : kept (issueStat x0 x1 x2 x3 x4 x5 s) = kept s := by
  unfold issueStat
  repeat' (first
    | with_reducible rfl
    | with_reducible assumption
    | simp only [keptEff_ok, modAt_kept]
    | with_reducible refine fst_kept (by assumption) ?_
    | with_reducible refine snd_kept (by assumption) ?_
    | with_reducible refine (issue_kept _ _ _ _ _ _ _ _ _ (fun _ => ?_)).trans ?_)

theorem execTstatMax_kept (x0 x1 s) {k} (hk : kept s = k) : KeptOut k (execTstatMax x0 x1 s) := by
  subst hk
  unfold execTstatMax
  simp only [keptOut_next, issueStat_kept]

theorem execTstatSexp_kept (x0 x1 s) {k} (hk : kept s = k) : KeptOut k (execTstatSexp x0 x1 s) := by
  subst hk
  unfold execTstatSexp
  simp only [keptOut_next, issueStat_kept]

theorem execTstatSsq_kept (x0 x1 s) {k} (hk : kept s = k) : KeptOut k (execTstatSsq x0 x1 s) := by
  subst hk
  unfold execTstatSsq
  simp only [keptOut_next, issueStat_kept]

theorem execTstatSum_kept (x0 x1 s) {k} (hk : kept s = k) : KeptOut k (execTstatSum x0 x1 s) := by
  subst hk
  unfold execTstatSum
  simp only [keptOut_next, issueStat_kept]

theorem execTstatMean_kept (x0 x1 s) {k} (hk : kept s = k) : KeptOut k (execTstatMean x0 x1 s) := by
  subst hk
  unfold execTstatMean
  simp only [keptOut_next, issueStat_kept]

theorem execTstatCnt_kept (x0 x1 s) {k} (hk : kept s = k) : KeptOut k (execTstatCnt x0 x1 s) := by
  subst hk
  unfold execTstatCnt
  simp only [keptOut_next, issueStat_kept]

theorem execTstatS_kept (x0 x1 s) {k} (hk : kept s = k) : KeptOut k (execTstatS x0 x1 s) := by
  subst hk
  unfold execTstatS
  simp only [keptOut_next, issueStat_kept]

theorem execTstatClr_kept (x0 x1 s) {k} (hk : kept s = k) : KeptOut k (execTstatClr x0 x1 s) := by
  subst hk
  unfold execTstatClr
  simp only [keptOut_next, issueStat_kept]

theorem execTstatClrs_kept (x0 x1 s) {k} (hk : kept s = k) : KeptOut k (execTstatClrs x0 x1 s) := by
  subst hk
  unfold execTstatClrs
  simp only [keptOut_next, issueStat_kept]

theorem execSctrd_kept (x0 x1 s) {k} (hk : kept s = k) : KeptOut k (execSctrd x0 x1 s) := by
  subst hk
  unfold execSctrd
  repeat' (first
    | with_reducible rfl
    | with_reducible assumption
    | simp only [ite_self, keptEff_ok, keptEff_exc, keptEff_ite, keptOut_next, modAt_kept]
    | with_reducible refine fst_kept (by assumption) ?_
    | with_reducible refine snd_kept (by assumption) ?_
    | with_reducible refine (issue_kept _ _ _ _ _ _ _ _ _ (fun _ => ?_)).trans ?_
    | with_reducible refine (foldl_kept _ _ _ (fun _ _ => ?_)).trans ?_
    | split
    | simp only [keptOut_next])

theorem issueV_kept (x0 x1 x2 x3 x4 x5 s) : kept (issueV x0 x1 x2 x3 x4 x5 s) = kept s := by
  unfold issueV
  repeat' (first
    | with_reducible rfl
    | with_reducible assumption
    | simp only [keptEff_ok, modAt_kept]
    | with_reducible refine fst_kept (by assumption) ?_
    | with_reducible refine snd_kept (by assumption) ?_
    | with_reducible refine (issue_kept _ _ _ _ _ _ _ _ _ (fun _ => ?_)).trans ?_)

theorem execVadd_kept (x0 x1 s) {k} (hk : kept s = k) : KeptOut k (execVadd x0 x1 s) := by
  subst hk
  unfold execVadd
  simp only [keptOut_next, issueV_kept]

theorem execVsub_kept (x0 x1 s) {k} (hk : kept s = k) : KeptOut k (execVsub x0 x1 s) := by
  subst hk
  unfold execVsub
  simp only [keptOut_next, issueV_kept]

theorem execVmul_kept (x0 x1 s) {k} (hk : kept s = k) : KeptOut k (execVmul x0 x1 s) := by
  subst hk
  unfold execVmul
  simp only [keptOut_next, issueV_kept]

theorem execVfma_kept (x0 x1 s) {k} (hk : kept s = k) : KeptOut k (execVfma x0 x1 s) := by
  subst hk
  unfold execVfma
  simp only [keptOut_next, issueV_kept]

theorem execVfms_kept (x0 x1 s) {k} (hk : kept s = k) : KeptOut k (execVfms x0 x1 s) := by
  subst hk
  unfold execVfms
  simp only [keptOut_next, issueV_kept]

theorem execVmax_kept (x0 x1 s) {k} (hk : kept s = k) : KeptOut k (execVmax x0 x1 s) := by
  subst hk
  unfold execVmax
  simp only [keptOut_next, issueV_kept]

theorem execVmin_kept (x0 x1 s) {k} (hk : kept s = k) : KeptOut k (execVmin x0 x1 s) := by
  subst hk
  unfold execVmin
  simp only [keptOut_next, issueV_kept]

theorem execVabs_kept (x0 x1 s) {k} (hk : kept s = k) : KeptOut k (execVabs x0 x1 s) := by
  subst hk
  unfold execVabs
  simp only [keptOut_next, issueV_kept]

theorem execVmov_kept (x0 x1 s) {k} (hk : kept s = k) : KeptOut k (execVmov x0 x1 s) := by
  subst hk
  unfold execVmov
  simp only [keptOut_next, issueV_kept]

theorem execVexp_kept (x0 x1 s) {k} (hk : kept s = k) : KeptOut k (execVexp x0 x1 s) := by
  subst hk
  unfold execVexp
  simp only [keptOut_next, issueV_kept]

theorem execVrsq_kept (x0 x1 s) {k} (hk : kept s = k) : KeptOut k (execVrsq x0 x1 s) := by
  subst hk
  unfold execVrsq
  simp only [keptOut_next, issueV_kept]

theorem execVrcp_kept (x0 x1 s) {k} (hk : kept s = k) : KeptOut k (execVrcp x0 x1 s) := by
  subst hk
  unfold execVrcp
  simp only [keptOut_next, issueV_kept]

theorem issueVld_kept (x0 x1 x2 x3 s) : kept (issueVld x0 x1 x2 x3 s) = kept s := by
  unfold issueVld
  repeat' (first
    | with_reducible rfl
    | with_reducible assumption
    | simp only [keptEff_ok, keptEff_exc, keptEff_ite, State.modEmber_kept, modAt_kept]
    | with_reducible refine fst_kept (by assumption) ?_
    | with_reducible refine snd_kept (by assumption) ?_
    | with_reducible refine parityEff_kept  _ _ _ ?_
    | with_reducible refine (issue_kept _ _ _ _ _ _ _ _ _ (fun _ => ?_)).trans ?_
    | with_reducible refine (foldl_kept _ _ _ (fun _ _ => ?_)).trans ?_
    | split
    | (simp only))

theorem execVldRow_kept (x0 x1 x2 s) {k} (hk : kept s = k) : KeptOut k (execVldRow x0 x1 x2 s) := by
  subst hk
  unfold execVldRow
  simp only [keptOut_next, issueVld_kept]

theorem execVldPair_kept (x0 x1 x2 s) {k} (hk : kept s = k) : KeptOut k (execVldPair x0 x1 x2 s) := by
  subst hk
  unfold execVldPair
  simp only [keptOut_next, issueVld_kept]

theorem execVldSlab_kept (x0 x1 x2 s) {k} (hk : kept s = k) : KeptOut k (execVldSlab x0 x1 x2 s) := by
  subst hk
  unfold execVldSlab
  simp only [keptOut_next, issueVld_kept]

theorem putPieces_kept (x0 x1 x2 s) : kept (putPieces x0 x1 x2 s) = kept s := by
  induction x1 generalizing x0 x2 s with
  | nil => unfold putPieces; repeat' (first
      | with_reducible rfl)
  | cons hd tl ih =>
    unfold putPieces
    repeat' (first
      | with_reducible rfl
      | with_reducible assumption
      | simp only [storeScratch_kept, ih])

theorem issueVst_kept (x0 x1 x2 s) : kept (issueVst x0 x1 x2 s) = kept s := by
  unfold issueVst
  repeat' (first
    | with_reducible rfl
    | with_reducible assumption
    | simp only [keptEff_ok, keptEff_exc, putPieces_kept]
    | with_reducible refine fst_kept (by assumption) ?_
    | with_reducible refine snd_kept (by assumption) ?_
    | with_reducible refine (issue_kept _ _ _ _ _ _ _ _ _ (fun _ => ?_)).trans ?_
    | with_reducible refine (foldl_kept _ _ _ (fun _ _ => ?_)).trans ?_
    | split
    | (simp only))

theorem execVstRow_kept (x0 x1 s) {k} (hk : kept s = k) : KeptOut k (execVstRow x0 x1 s) := by
  subst hk
  unfold execVstRow
  simp only [keptOut_next, issueVst_kept]

theorem execVstPair_kept (x0 x1 s) {k} (hk : kept s = k) : KeptOut k (execVstPair x0 x1 s) := by
  subst hk
  unfold execVstPair
  simp only [keptOut_next, issueVst_kept]

theorem execVstSlab_kept (x0 x1 s) {k} (hk : kept s = k) : KeptOut k (execVstSlab x0 x1 s) := by
  subst hk
  unfold execVstSlab
  simp only [keptOut_next, issueVst_kept]

theorem execVbc_kept (x0 x1 s) {k} (hk : kept s = k) : KeptOut k (execVbc x0 x1 s) := by
  subst hk
  unfold execVbc
  repeat' (first
    | with_reducible rfl
    | with_reducible assumption
    | simp only [keptEff_ok, keptOut_next, modAt_kept]
    | with_reducible refine fst_kept (by assumption) ?_
    | with_reducible refine snd_kept (by assumption) ?_
    | with_reducible refine (issue_kept _ _ _ _ _ _ _ _ _ (fun _ => ?_)).trans ?_
    | with_reducible refine (foldl_kept _ _ _ (fun _ _ => ?_)).trans ?_
    | split
    | simp only [keptOut_next])

theorem execVget_kept (x0 x1 s) {k} (hk : kept s = k) : KeptOut k (execVget x0 x1 s) := by
  subst hk
  unfold execVget
  repeat' (first
    | with_reducible rfl
    | with_reducible assumption
    | simp only [ite_self, keptEff_ok, keptEff_exc, keptEff_ite, keptOut_next, modAt_kept]
    | with_reducible refine fst_kept (by assumption) ?_
    | with_reducible refine snd_kept (by assumption) ?_
    | with_reducible refine (issue_kept _ _ _ _ _ _ _ _ _ (fun _ => ?_)).trans ?_
    | with_reducible refine (foldl_kept _ _ _ (fun _ _ => ?_)).trans ?_
    | split
    | simp only [keptOut_next])

theorem issueReduce_kept (x0 x1 x2 x3 s) : kept (issueReduce x0 x1 x2 x3 s) = kept s := by
  unfold issueReduce
  repeat' (first
    | with_reducible rfl
    | with_reducible assumption
    | simp only [keptEff_ok, modAt_kept]
    | with_reducible refine fst_kept (by assumption) ?_
    | with_reducible refine snd_kept (by assumption) ?_
    | with_reducible refine (issue_kept _ _ _ _ _ _ _ _ _ (fun _ => ?_)).trans ?_)

theorem execVrsum_kept (x0 x1 s) {k} (hk : kept s = k) : KeptOut k (execVrsum x0 x1 s) := by
  subst hk
  unfold execVrsum
  simp only [keptOut_next, issueReduce_kept]

theorem execVrmax_kept (x0 x1 s) {k} (hk : kept s = k) : KeptOut k (execVrmax x0 x1 s) := by
  subst hk
  unfold execVrmax
  simp only [keptOut_next, issueReduce_kept]

theorem execSntcfg_kept (x0 x1 s) {k} (hk : kept s = k) : KeptOut k (execSntcfg x0 x1 s) := by
  subst hk
  unfold execSntcfg
  repeat' (first
    | with_reducible rfl
    | with_reducible assumption
    | simp only [ite_self, keptEff_ok, keptEff_exc, keptEff_ite, keptOut_next, modAt_kept]
    | with_reducible refine fst_kept (by assumption) ?_
    | with_reducible refine snd_kept (by assumption) ?_
    | with_reducible refine (issue_kept _ _ _ _ _ _ _ _ _ (fun _ => ?_)).trans ?_
    | with_reducible refine (foldl_kept _ _ _ (fun _ _ => ?_)).trans ?_
    | split
    | simp only [keptOut_next])

theorem execSntrd_kept (x0 x1 s) {k} (hk : kept s = k) : KeptOut k (execSntrd x0 x1 s) := by
  subst hk
  unfold execSntrd
  repeat' (first
    | with_reducible rfl
    | with_reducible assumption
    | simp only [keptEff_ok, keptEff_exc, keptOut_next, modAt_kept]
    | with_reducible refine fst_kept (by assumption) ?_
    | with_reducible refine snd_kept (by assumption) ?_
    | with_reducible refine (issue_kept _ _ _ _ _ _ _ _ _ (fun _ => ?_)).trans ?_
    | with_reducible refine (foldl_kept _ _ _ (fun _ _ => ?_)).trans ?_
    | split
    | simp only [keptOut_next])

theorem execSntshd_kept (x0 x1 s) {k} (hk : kept s = k) : KeptOut k (execSntshd x0 x1 s) := by
  subst hk
  unfold execSntshd
  repeat' (first
    | with_reducible rfl
    | with_reducible assumption
    | simp only [ite_self, keptEff_ok, keptEff_exc, keptEff_ite, keptOut_next, modAt_kept]
    | with_reducible refine fst_kept (by assumption) ?_
    | with_reducible refine snd_kept (by assumption) ?_
    | with_reducible refine (issue_kept _ _ _ _ _ _ _ _ _ (fun _ => ?_)).trans ?_
    | with_reducible refine (foldl_kept _ _ _ (fun _ _ => ?_)).trans ?_
    | split
    | simp only [keptOut_next])

theorem execFwin_kept (x0 x1 s) {k} (hk : kept s = k) : KeptOut k (execFwin x0 x1 s) := by
  subst hk
  unfold execFwin
  repeat' (first
    | with_reducible rfl
    | with_reducible assumption
    | simp only [ite_self, keptEff_ok, keptEff_exc, keptEff_ite, keptOut_next, modAt_kept]
    | with_reducible refine fst_kept (by assumption) ?_
    | with_reducible refine snd_kept (by assumption) ?_
    | with_reducible refine (issue_kept _ _ _ _ _ _ _ _ _ (fun _ => ?_)).trans ?_
    | with_reducible refine (foldl_kept _ _ _ (fun _ _ => ?_)).trans ?_
    | split
    | simp only [keptOut_next])

end Sys2Proof.Machine
end

