-- ==== Sys2Proof/Laws/KeptMemory.lean ====
section
/-! SUPPORT. `kept` is left alone by memory, movers, heaps, spans and the kindling slots. -/

set_option linter.all false

namespace Sys2Proof.Machine

theorem relightRecord_kept (x0 s) : kept (relightRecord x0 s) = kept s := by
  unfold relightRecord
  simp only [partRecord_kept]

theorem relightSoot_kept (x0 x1 x2 x3 x4 s) : kept (relightSoot x0 x1 x2 x3 x4 s) = kept s := by
  unfold relightSoot
  simp only [sootEvent_kept]

theorem dropUnsent_kept (x0 s) : kept (dropUnsent x0 s) = kept s := by
  unfold dropUnsent
  simp only [kept_mk, kept_fold]

theorem withdraw_kept (x0 x1 s) : kept (withdraw x0 x1 s) = kept s := by
  unfold withdraw
  repeat' (first
    | with_reducible rfl
    | with_reducible assumption
    | simp only [kept_ite, ite_self, State.modPart_kept, dropUnsent_kept, relightRecord_kept, relightSoot_kept, sendFrame_kept, setFault_kept]
    | with_reducible refine fst_kept (by assumption) ?_
    | with_reducible refine snd_kept (by assumption) ?_
    | with_reducible refine (foldl_kept _ _ _ (fun _ _ => ?_)).trans ?_
    | split
    | simp only [kept_ite, State.modPart_kept, relightRecord_kept, relightSoot_kept, setFault_kept])

theorem freeSlot_kept (x0 x1 s) : kept (freeSlot x0 x1 s) = kept s := by
  unfold freeSlot
  simp only [kept_mk, kept_fold]

theorem bankStatus_kept (x0 x1 x2 s) : kept (bankStatus x0 x1 x2 s) = kept s := by
  unfold bankStatus
  simp only [State.modPart_kept]

theorem bankFinish_kept (x0 s) : kept (bankFinish x0 s) = kept s := by
  unfold bankFinish
  repeat' (first
    | with_reducible rfl
    | with_reducible assumption
    | simp only [State.emit_kept, State.modPart_kept, completeCmd_kept]
    | with_reducible refine fst_kept (by assumption) ?_
    | with_reducible refine snd_kept (by assumption) ?_
    | with_reducible refine (foldl_kept _ _ _ (fun _ _ => ?_)).trans ?_)

theorem bankFail_kept (x0 x1 x2 s) : kept (bankFail x0 x1 x2 s) = kept s := by
  unfold bankFail
  repeat' (first
    | with_reducible rfl
    | with_reducible assumption
    | simp only [State.modPart_kept, bankFinish_kept, bankStatus_kept, freeSlot_kept]
    | with_reducible refine fst_kept (by assumption) ?_
    | with_reducible refine snd_kept (by assumption) ?_
    | with_reducible refine (foldl_kept _ _ _ (fun _ _ => ?_)).trans ?_
    | split)

theorem holdOut_kept (x0 x1 x2 s) : kept (holdOut x0 x1 x2 s) = kept s := by
  unfold holdOut
  simp only [kept_mk, kept_fold]

theorem releaseHeld_kept (s) : kept (releaseHeld s) = kept s := by
  unfold releaseHeld
  repeat' (first
    | with_reducible rfl
    | with_reducible assumption
    | simp only [kept_mk, kept_fold, State.emit_kept, completeCmd_kept]
    | with_reducible refine fst_kept (by assumption) ?_
    | with_reducible refine snd_kept (by assumption) ?_
    | with_reducible refine (foldl_kept _ _ _ (fun _ _ => ?_)).trans ?_
    | split)

theorem dropHeld_kept (x0 s) : kept (dropHeld x0 s) = kept s := by
  unfold dropHeld
  repeat' (first
    | with_reducible rfl
    | with_reducible assumption
    | simp only [kept_mk, kept_fold, kept_ite, ite_self, State.emit_kept, completeCmd_kept]
    | with_reducible refine fst_kept (by assumption) ?_
    | with_reducible refine snd_kept (by assumption) ?_
    | with_reducible refine (foldl_kept _ _ _ (fun _ _ => ?_)).trans ?_
    | split)

theorem dropWrites_kept (x0 s) : kept (dropWrites x0 s) = kept s := by
  unfold dropWrites
  repeat' (first
    | with_reducible rfl
    | with_reducible assumption
    | simp only [kept_ite, ite_self, bankFail_kept, freeSlot_kept]
    | with_reducible refine fst_kept (by assumption) ?_
    | with_reducible refine snd_kept (by assumption) ?_
    | with_reducible refine (foldl_kept _ _ _ (fun _ _ => ?_)).trans ?_)

theorem securityAlarm_kept (x0 x1 x2 x3 s) : kept (securityAlarm x0 x1 x2 x3 s) = kept s := by
  unfold securityAlarm
  simp only [kept_mk, kept_fold, kept_ite, ite_self, State.modPart_kept, dropHeld_kept, dropWrites_kept, loseClass_kept, partRecord_kept, sootEvent_kept]

theorem crcConsequence_kept (x0 x1 x2 s) : kept (crcConsequence x0 x1 x2 s) = kept s := by
  unfold crcConsequence
  simp only [kept_ite, ite_self, loseContext_kept, startAbort_kept, withdraw_kept]

theorem hbmFault_kept (x0 x1 x2 x3 s) : kept (hbmFault x0 x1 x2 x3 s) = kept s := by
  unfold hbmFault
  repeat' (first
    | with_reducible rfl
    | with_reducible assumption
    | simp only [kept_ite, ite_self, State.modPart_kept, crcConsequence_kept, healthHbm_kept, setFault_kept, sootEvent_kept, withdraw_kept]
    | with_reducible refine fst_kept (by assumption) ?_
    | with_reducible refine snd_kept (by assumption) ?_
    | with_reducible refine (foldl_kept _ _ _ (fun _ _ => ?_)).trans ?_
    | split)

theorem storeMark_kept (x0 x1 s) : kept (storeMark x0 x1 s) = kept s := by
  unfold storeMark
  simp only [State.modPart_kept]

theorem readHbm_kept (x0 x1 x2 x3 s) : kept (readHbm x0 x1 x2 x3 s).1 = kept s := by
  unfold readHbm
  repeat' (first
    | with_reducible rfl
    | with_reducible assumption
    | simp only [kept_ite, ite_self, State.modPart_kept, hbmFault_kept]
    | with_reducible refine fst_kept (by assumption) ?_
    | with_reducible refine snd_kept (by assumption) ?_
    | with_reducible refine (foldl_kept _ _ _ (fun _ _ => ?_)).trans ?_
    | split)

theorem checkLines_kept (x0 x1 x2 x3 s) : kept (checkLines x0 x1 x2 x3 s).1 = kept s := by
  unfold checkLines
  repeat' (first
    | with_reducible rfl
    | with_reducible assumption
    | simp only [hbmFault_kept, securityAlarm_kept]
    | with_reducible refine fst_kept (by assumption) ?_
    | with_reducible refine snd_kept (by assumption) ?_
    | with_reducible refine (foldl_kept _ _ _ (fun _ _ => ?_)).trans ?_
    | split)

theorem readChecked_kept (x0 x1 x2 x3 s) : kept (readChecked x0 x1 x2 x3 s).1 = kept s := by
  unfold readChecked
  repeat' (first
    | with_reducible rfl
    | with_reducible assumption
    | simp only [checkLines_kept]
    | with_reducible refine fst_kept (by assumption) ?_
    | with_reducible refine snd_kept (by assumption) ?_
    | with_reducible refine (foldl_kept _ _ _ (fun _ _ => ?_)).trans ?_
    | split)

theorem writeLine_kept (x0 x1 x2 x3 s) : kept (writeLine x0 x1 x2 x3 s).1 = kept s := by
  unfold writeLine
  repeat' (first
    | with_reducible rfl
    | with_reducible assumption
    | simp only [State.modPart_kept, hbmFault_kept, securityAlarm_kept, storeMark_kept, takeLine_kept]
    | with_reducible refine fst_kept (by assumption) ?_
    | with_reducible refine snd_kept (by assumption) ?_
    | with_reducible refine (foldl_kept _ _ _ (fun _ _ => ?_)).trans ?_
    | split
    | (simp only))

theorem writeHbm_kept (x0 x1 x2 x3 x4 s) : kept (writeHbm x0 x1 x2 x3 x4 s).1 = kept s := by
  induction x0 generalizing x1 x2 x3 x4 s with
  | zero => unfold writeHbm; repeat' (first
      | with_reducible rfl)
  | succ m ih =>
    unfold writeHbm
    repeat' (first
      | with_reducible rfl
      | with_reducible assumption
      | simp only [writeLine_kept, ih]
      | with_reducible refine fst_kept (by assumption) ?_
      | with_reducible refine snd_kept (by assumption) ?_
      | with_reducible refine (foldl_kept _ _ _ (fun _ _ => ?_)).trans ?_
      | split
      | simp only [ih])

theorem putHbm_kept (x0 x1 x2 x3 s) : kept (putHbm x0 x1 x2 x3 s).1 = kept s := by
  unfold putHbm
  simp only [writeHbm_kept]

theorem fillFrame_kept (x0 x1 x2 s) : kept (fillFrame x0 x1 x2 s) = kept s := by
  unfold fillFrame
  repeat' (first
    | with_reducible rfl
    | with_reducible assumption
    | simp only [State.modPart_kept, storeMark_kept]
    | with_reducible refine fst_kept (by assumption) ?_
    | with_reducible refine snd_kept (by assumption) ?_
    | with_reducible refine (foldl_kept _ _ _ (fun _ _ => ?_)).trans ?_)

theorem passDone_kept (x0 x1 s) : kept (passDone x0 x1 s) = kept s := by
  unfold passDone
  simp only [kept_mk, kept_fold, hostRecord_kept]

theorem initFrame_kept (x0 x1 s) : kept (initFrame x0 x1 s) = kept s := by
  unfold initFrame
  simp only [State.modPart_kept, fillFrame_kept, passDone_kept]

theorem setPage_kept (x0 x1 x2 s) : kept (setPage x0 x1 x2 s) = kept s := by
  unfold setPage
  repeat' (first
    | with_reducible rfl
    | with_reducible assumption
    | simp only [State.modPart_kept, storeMark_kept]
    | with_reducible refine fst_kept (by assumption) ?_
    | with_reducible refine snd_kept (by assumption) ?_
    | with_reducible refine (foldl_kept _ _ _ (fun _ _ => ?_)).trans ?_
    | split
    | (simp only))

theorem countMiss_kept (x0 x1 s) : kept (countMiss x0 x1 s) = kept s := by
  unfold countMiss
  simp only [State.modPart_kept]

theorem walkLine_kept (x0 x1 x2 s) : kept (walkLine x0 x1 x2 s).1 = kept s := by
  unfold walkLine
  repeat' (first
    | with_reducible rfl
    | with_reducible assumption
    | simp only [hbmFault_kept, securityAlarm_kept, takeTable_kept]
    | with_reducible refine fst_kept (by assumption) ?_
    | with_reducible refine snd_kept (by assumption) ?_
    | with_reducible refine (foldl_kept _ _ _ (fun _ _ => ?_)).trans ?_
    | split)

theorem walk_kept (x0 x1 x2 s) : kept (walk x0 x1 x2 s).1 = kept s := by
  unfold walk
  repeat' (first
    | with_reducible rfl
    | with_reducible assumption
    | simp only [walkLine_kept]
    | with_reducible refine fst_kept (by assumption) ?_
    | with_reducible refine snd_kept (by assumption) ?_
    | with_reducible refine (foldl_kept _ _ _ (fun _ _ => ?_)).trans ?_
    | split
    | simp only [walkLine_kept])

theorem cacheFill_kept (x0 x1 x2 s) : kept (cacheFill x0 x1 x2 s) = kept s := by
  unfold cacheFill
  simp only [kept_mk, kept_fold, kept_ite, ite_self, State.takeFree_kept]

theorem lookup_kept (x0 x1 x2 x3 x4 s) : kept (lookup x0 x1 x2 x3 x4 s).1 = kept s := by
  unfold lookup
  repeat' (first
    | with_reducible rfl
    | with_reducible assumption
    | simp only [kept_ite, ite_self, cacheFill_kept, countMiss_kept, walk_kept]
    | with_reducible refine fst_kept (by assumption) ?_
    | with_reducible refine snd_kept (by assumption) ?_
    | with_reducible refine (foldl_kept _ _ _ (fun _ _ => ?_)).trans ?_
    | split
    | simp only [cacheFill_kept])

theorem cacheDrop_kept (x0 x1 s) : kept (cacheDrop x0 x1 s) = kept s := by
  unfold cacheDrop
  simp only [kept_mk, kept_fold]

theorem touchPage_kept (x0 x1 s) : kept (touchPage x0 x1 s) = kept s := by
  unfold touchPage
  repeat' (first
    | with_reducible rfl
    | with_reducible assumption
    | simp only [State.modPart_kept, bankFinish_kept, bankStatus_kept, freeSlot_kept]
    | with_reducible refine fst_kept (by assumption) ?_
    | with_reducible refine snd_kept (by assumption) ?_
    | with_reducible refine (foldl_kept _ _ _ (fun _ _ => ?_)).trans ?_
    | split)

theorem poolEdge_kept (x0 x1 s) : kept (poolEdge x0 x1 s) = kept s := by
  unfold poolEdge
  simp only [kept_ite, ite_self, partRecord_kept]

theorem askUnbank_kept (x0 x1 s) : kept (askUnbank x0 x1 s) = kept s := by
  unfold askUnbank
  repeat' (first
    | with_reducible rfl
    | with_reducible assumption
    | simp only [kept_ite, ite_self, State.modPart_kept, poolEdge_kept]
    | with_reducible refine fst_kept (by assumption) ?_
    | with_reducible refine snd_kept (by assumption) ?_
    | with_reducible refine (foldl_kept _ _ _ (fun _ _ => ?_)).trans ?_
    | split)

theorem countStall_kept (x0 s) : kept (countStall x0 s) = kept s := by
  unfold countStall
  simp only [State.modPart_kept]

theorem poolShort_kept (x0 s) : kept (poolShort x0 s) = kept s := by
  unfold poolShort
  simp only [kept_ite, ite_self, State.modPart_kept, partRecord_kept]

theorem takePoolFrame_kept (x0 s) : kept (takePoolFrame x0 s).1 = kept s := by
  unfold takePoolFrame
  repeat' (first
    | with_reducible rfl
    | with_reducible assumption
    | simp only [State.modPart_kept, poolShort_kept]
    | with_reducible refine fst_kept (by assumption) ?_
    | with_reducible refine snd_kept (by assumption) ?_
    | with_reducible refine (foldl_kept _ _ _ (fun _ _ => ?_)).trans ?_
    | split)

theorem startCow_kept (x0 x1 x2 s) : kept (startCow x0 x1 x2 s) = kept s := by
  unfold startCow
  repeat' (first
    | with_reducible rfl
    | with_reducible assumption
    | simp only [kept_ite, State.modPart_kept, takePoolFrame_kept]
    | with_reducible refine fst_kept (by assumption) ?_
    | with_reducible refine snd_kept (by assumption) ?_
    | with_reducible refine (foldl_kept _ _ _ (fun _ _ => ?_)).trans ?_
    | split
    | simp only [kept_ite, State.modPart_kept])

theorem execCowCopyDone_kept (x0 x1 s) {k} (hk : kept s = k) : KeptOut k (execCowCopyDone x0 x1 s) := by
  subst hk
  unfold execCowCopyDone
  repeat' (first
    | with_reducible rfl
    | with_reducible assumption
    | simp only [kept_ite, keptOut_next, State.modPart_kept, fillFrame_kept, readChecked_kept, strikeLines_kept]
    | with_reducible refine fst_kept (by assumption) ?_
    | with_reducible refine snd_kept (by assumption) ?_
    | with_reducible refine (foldl_kept _ _ _ (fun _ _ => ?_)).trans ?_
    | split
    | simp only [keptOut_next, State.modPart_kept, fillFrame_kept])

theorem execTagVerdict_kept (x0 s) {k} (hk : kept s = k) : KeptOut k (execTagVerdict x0 s) := by
  subst hk
  unfold execTagVerdict
  repeat' (first
    | with_reducible rfl
    | with_reducible assumption
    | simp only [keptOut_next, State.modPart_kept, securityAlarm_kept]
    | with_reducible refine fst_kept (by assumption) ?_
    | with_reducible refine snd_kept (by assumption) ?_
    | with_reducible refine (foldl_kept _ _ _ (fun _ _ => ?_)).trans ?_
    | split)

theorem countPark_kept (x0 x1 s) : kept (countPark x0 x1 s) = kept s := by
  unfold countPark
  simp only [State.modPart_kept]

theorem park_kept (x0 x1 s) : kept (park x0 x1 s) = kept s := by
  unfold park
  simp only [askUnbank_kept, countPark_kept, modAt_kept]

theorem withVirtual_kept (x a size write f s) {k} (hk : kept s = k) (hb : ∀ n s, kept s = k → KeptEff k (f n s)) :
    KeptEff k (withVirtual x a size write f s) := by
  unfold withVirtual
  simp only
  split
  · trivial
  · split
    · trivial
    · split
      · exact (fst_kept (by assumption) (lookup_kept ..)).trans hk
      · have hl := (fst_kept (by assumption) (lookup_kept ..)).trans hk
        split
        · trivial
        · split
          · trivial
          · trivial
          · exact (park_kept ..).trans hl
          · split
            · exact hk
            · exact hb _ _ ((touchPage_kept ..).trans hl)

theorem execLdv_kept (x0 x1 x2 x3 s) {k} (hk : kept s = k) : KeptOut k (execLdv x0 x1 x2 x3 s) := by
  subst hk
  unfold execLdv
  repeat' (first
    | with_reducible rfl
    | with_reducible assumption
    | simp only [keptEff_ok, keptEff_stay, keptOut_next, modAt_kept, readHbm_kept, strikeLines_kept]
    | with_reducible refine fst_kept (by assumption) ?_
    | with_reducible refine snd_kept (by assumption) ?_
    | with_reducible refine (issue_kept _ _ _ _ _ _ _ _ _ (fun _ => ?_)).trans ?_
    | with_reducible refine withVirtual_kept _ _ _ _ _ _ ?_ (fun _ _ _ => ?_)
    | with_reducible refine (foldl_kept _ _ _ (fun _ _ => ?_)).trans ?_
    | split
    | simp only [keptEff_ok, keptEff_stay, keptOut_next, modAt_kept, readHbm_kept])

theorem execLdvAnswer_kept (x0 x1 s) {k} (hk : kept s = k) : KeptOut k (execLdvAnswer x0 x1 s) := by
  subst hk
  unfold execLdvAnswer
  repeat' (first
    | with_reducible rfl
    | with_reducible assumption
    | simp only [keptOut_next, modAt_kept]
    | with_reducible refine fst_kept (by assumption) ?_
    | with_reducible refine snd_kept (by assumption) ?_
    | with_reducible refine (foldl_kept _ _ _ (fun _ _ => ?_)).trans ?_
    | split)

theorem stallWrite_kept (x0 x1 x2 s) : kept (stallWrite x0 x1 x2 s) = kept s := by
  unfold stallWrite
  repeat' (first
    | with_reducible rfl
    | with_reducible assumption
    | simp only [countStall_kept, modAt_kept, startCow_kept]
    | with_reducible refine fst_kept (by assumption) ?_
    | with_reducible refine snd_kept (by assumption) ?_
    | with_reducible refine (foldl_kept _ _ _ (fun _ _ => ?_)).trans ?_
    | split
    | (simp only))

theorem execStv_kept (x0 x1 x2 x3 s) {k} (hk : kept s = k) : KeptOut k (execStv x0 x1 x2 x3 s) := by
  subst hk
  unfold execStv
  repeat' (first
    | with_reducible rfl
    | with_reducible assumption
    | simp only [keptEff_ok, keptEff_stay, keptEff_wait, keptEff_ite, keptOut_next, modAt_kept, putHbm_kept, stallWrite_kept, strikeLines_kept]
    | with_reducible refine fst_kept (by assumption) ?_
    | with_reducible refine snd_kept (by assumption) ?_
    | with_reducible refine (issue_kept _ _ _ _ _ _ _ _ _ (fun _ => ?_)).trans ?_
    | with_reducible refine withVirtual_kept _ _ _ _ _ _ ?_ (fun _ _ _ => ?_)
    | with_reducible refine (foldl_kept _ _ _ (fun _ _ => ?_)).trans ?_
    | split
    | simp only [keptEff_ok, keptEff_stay, keptEff_wait, keptOut_next, modAt_kept, putHbm_kept, stallWrite_kept])

theorem execStvAccept_kept (x0 s) {k} (hk : kept s = k) : KeptOut k (execStvAccept x0 s) := by
  subst hk
  unfold execStvAccept
  simp only [keptOut_next, modAt_kept]

theorem execFenceV_kept (x0 x1 s) {k} (hk : kept s = k) : KeptOut k (execFenceV x0 x1 s) := by
  subst hk
  unfold execFenceV
  repeat' (first
    | with_reducible rfl
    | with_reducible assumption
    | simp only [keptEff_ok, keptOut_next]
    | with_reducible refine fst_kept (by assumption) ?_
    | with_reducible refine snd_kept (by assumption) ?_
    | with_reducible refine (issue_kept _ _ _ _ _ _ _ _ _ (fun _ => ?_)).trans ?_
    | with_reducible refine (foldl_kept _ _ _ (fun _ _ => ?_)).trans ?_
    | split
    | simp only [keptOut_next])

theorem mvEnqueue_kept (x0 x1 x2 x3 s) : kept (mvEnqueue x0 x1 x2 x3 s) = kept s := by
  unfold mvEnqueue
  simp only [State.modEmber_kept, countLaunch_kept]

theorem execMoveDesc_kept (x0 x1 x2 s) {k} (hk : kept s = k) : KeptOut k (execMoveDesc x0 x1 x2 s) := by
  subst hk
  unfold execMoveDesc
  repeat' (first
    | with_reducible rfl
    | with_reducible assumption
    | simp only [keptEff_ok, keptEff_exc, keptEff_ite, keptOut_next, mvEnqueue_kept]
    | with_reducible refine fst_kept (by assumption) ?_
    | with_reducible refine snd_kept (by assumption) ?_
    | with_reducible refine (issue_kept _ _ _ _ _ _ _ _ _ (fun _ => ?_)).trans ?_
    | with_reducible refine (foldl_kept _ _ _ (fun _ _ => ?_)).trans ?_
    | split
    | simp only [keptOut_next])

theorem execMvq_kept (x0 x1 s) {k} (hk : kept s = k) : KeptOut k (execMvq x0 x1 s) := by
  subst hk
  unfold execMvq
  repeat' (first
    | with_reducible rfl
    | with_reducible assumption
    | simp only [keptEff_ok, keptOut_next, modAt_kept]
    | with_reducible refine fst_kept (by assumption) ?_
    | with_reducible refine snd_kept (by assumption) ?_
    | with_reducible refine (issue_kept _ _ _ _ _ _ _ _ _ (fun _ => ?_)).trans ?_
    | with_reducible refine (foldl_kept _ _ _ (fun _ _ => ?_)).trans ?_
    | split
    | simp only [keptOut_next])

theorem execFsend_kept (x0 x1 x2 s) {k} (hk : kept s = k) : KeptOut k (execFsend x0 x1 x2 s) := by
  subst hk
  unfold execFsend
  repeat' (first
    | with_reducible rfl
    | with_reducible assumption
    | simp only [keptEff_ok, keptEff_exc, keptEff_ite, keptOut_next, mvEnqueue_kept]
    | with_reducible refine fst_kept (by assumption) ?_
    | with_reducible refine snd_kept (by assumption) ?_
    | with_reducible refine (issue_kept _ _ _ _ _ _ _ _ _ (fun _ => ?_)).trans ?_
    | with_reducible refine (foldl_kept _ _ _ (fun _ _ => ?_)).trans ?_
    | split
    | simp only [keptOut_next])

theorem setJob_kept (x0 x1 x2 x3 s) : kept (setJob x0 x1 x2 x3 s) = kept s := by
  unfold setJob
  simp only [kept_ite, ite_self, State.modEmber_kept, returnBe_kept]

theorem execMoverDispatch_kept (x0 x1 s) {k} (hk : kept s = k) : KeptOut k (execMoverDispatch x0 x1 s) := by
  subst hk
  unfold execMoverDispatch
  repeat' (first
    | with_reducible rfl
    | with_reducible assumption
    | simp only [kept_ite, keptOut_next, setJob_kept]
    | with_reducible refine fst_kept (by assumption) ?_
    | with_reducible refine snd_kept (by assumption) ?_
    | with_reducible refine (foldl_kept _ _ _ (fun _ _ => ?_)).trans ?_
    | split
    | simp only [kept_ite, keptOut_next])

theorem moverFault_kept (x0 x1 x2 x3 s) : kept (moverFault x0 x1 x2 x3 s) = kept s := by
  unfold moverFault
  simp only [loseContext_kept]

theorem moverPage_kept (md l j a len write s) {k} (hk : kept s = k) : KeptSum k (moverPage md l j a len write s) := by
  unfold moverPage
  simp only
  split
  · exact (moverFault_kept ..).trans hk
  · split
    · exact (fst_kept (by assumption) (lookup_kept ..)).trans hk
    · have hl := (fst_kept (by assumption) (lookup_kept ..)).trans hk
      split
      · exact (moverFault_kept ..).trans hl
      · split
        · exact (moverFault_kept ..).trans hl
        · exact (moverFault_kept ..).trans hl
        · exact (askUnbank_kept ..).trans hl
        · split
          · exact (touchPage_kept ..).trans hl
          · exact hk

theorem moverReadV_kept (md fuel l j a len s) {k} (hk : kept s = k) : KeptPiece k (moverReadV md fuel l j a len s) := by
  induction fuel generalizing a len s with
  | zero => exact hk
  | succ m ih =>
    unfold moverReadV
    split
    · exact hk
    · split
      · exact sum_inl (by assumption) (moverPage_kept _ _ _ _ _ _ _ hk)
      · have h1 := sum_inr (by assumption) (moverPage_kept md l j a len false s hk)
        simp only
        split
        · exact (fst_kept (by assumption) (readHbm_kept ..)).trans h1
        · have h2 := (fst_kept (by assumption) (readHbm_kept ..)).trans h1
          split
          · exact piece_moved (by assumption) (ih _ _ _ h2)
          · exact ih _ _ _ h2

theorem moverWriteV_kept (md fuel l j a bs s) {k} (hk : kept s = k) : KeptPiece k (moverWriteV md fuel l j a bs s) := by
  induction fuel generalizing a bs s with
  | zero => exact hk
  | succ m ih =>
    unfold moverWriteV
    split
    · exact hk
    · split
      · exact sum_inl (by assumption) (moverPage_kept _ _ _ _ _ _ _ hk)
      · have h1 := sum_inr (by assumption) (moverPage_kept md l j a _ true s hk)
        simp only
        split
        · simp only [keptPiece_stalled]
          (repeat' split) <;> simp only [startCow_kept, countStall_kept, h1]
        · split
          · exact h1
          · split
            · exact (fst_kept (by assumption) (putHbm_kept ..)).trans h1
            · exact ih _ _ _ ((fst_kept (by assumption) (putHbm_kept ..)).trans h1)

theorem moverRead_kept (x0 x1 x2 x3 x4 x5 s) {k} (hk : kept s = k) : KeptPiece k (moverRead x0 x1 x2 x3 x4 x5 s) := by
  subst hk
  unfold moverRead
  repeat' (first
    | with_reducible rfl
    | with_reducible assumption
    | simp only [ite_self, keptPiece_moved, keptPiece_stalled, keptPiece_over, keptPiece_ite, moverFault_kept, parityFault_kept]
    | with_reducible refine fst_kept (by assumption) ?_
    | with_reducible refine snd_kept (by assumption) ?_
    | with_reducible refine piece_moved (by assumption) ?_
    | with_reducible refine piece_stalled (by assumption) ?_
    | with_reducible refine piece_over (by assumption) ?_
    | with_reducible refine moverReadV_kept  _ _ _ _ _ _ _ ?_
    | with_reducible refine (foldl_kept _ _ _ (fun _ _ => ?_)).trans ?_
    | split
    | (simp only))

theorem moverWrite_kept (x0 x1 x2 x3 x4 x5 s) {k} (hk : kept s = k) : KeptPiece k (moverWrite x0 x1 x2 x3 x4 x5 s) := by
  subst hk
  unfold moverWrite
  repeat' (first
    | with_reducible rfl
    | with_reducible assumption
    | simp only [ite_self, keptPiece_moved, keptPiece_stalled, keptPiece_over, keptPiece_ite, State.modPart_kept, moverFault_kept, storeScratch_kept]
    | with_reducible refine fst_kept (by assumption) ?_
    | with_reducible refine snd_kept (by assumption) ?_
    | with_reducible refine piece_moved (by assumption) ?_
    | with_reducible refine piece_stalled (by assumption) ?_
    | with_reducible refine piece_over (by assumption) ?_
    | with_reducible refine moverWriteV_kept  _ _ _ _ _ _ _ ?_
    | with_reducible refine (foldl_kept _ _ _ (fun _ _ => ?_)).trans ?_
    | split)

theorem moverRun_kept (x0 x1 x2 x3 s) : kept (moverRun x0 x1 x2 x3 s).1 = kept s := by
  induction x0 generalizing x1 x2 x3 s with
  | zero => unfold moverRun; repeat' (first
      | with_reducible rfl)
  | succ m ih =>
    unfold moverRun
    repeat' (first
      | with_reducible rfl
      | with_reducible assumption
      | simp only [ih]
      | with_reducible refine fst_kept (by assumption) ?_
      | with_reducible refine snd_kept (by assumption) ?_
      | with_reducible refine piece_moved (by assumption) ?_
      | with_reducible refine piece_stalled (by assumption) ?_
      | with_reducible refine piece_over (by assumption) ?_
      | with_reducible refine moverRead_kept  _ _ _ _ _ _ _ ?_
      | with_reducible refine moverWrite_kept  _ _ _ _ _ _ _ ?_
      | with_reducible refine (foldl_kept _ _ _ (fun _ _ => ?_)).trans ?_
      | split
      | simp only [ih])

theorem remCheck_kept {x0 x1 x2 s t} (h : (remCheck x0 x1 x2 s) = some t) : kept t = kept s := by
  unfold remCheck at h
  repeat' (first
    | (cases h; done)
    | (cases h; simp only [moverFault_kept]; done)
    | split at h
    | dsimp only at h)

theorem moverAdvance_kept (l mv j upto f s) (hf : ∀ j s, kept (f j s) = kept s) : kept (moverAdvance l mv j upto f s) = kept s := by
  unfold moverAdvance
  simp only
  split
  · exact (setJob_kept ..).trans (remCheck_kept (by assumption))
  · split
    · exact (setJob_kept ..).trans (fst_kept (by assumption) (moverRun_kept ..))
    · split
      · exact (hf _ _).trans ((setJob_kept ..).trans (fst_kept (by assumption) (moverRun_kept _ _ _ _ s)))
      · exact (setJob_kept ..).trans (fst_kept (by assumption) (moverRun_kept _ _ _ _ s))

theorem fsendRun_kept (x0 x1 x2 x3 x4 x5 x6 s) : kept (fsendRun x0 x1 x2 x3 x4 x5 x6 s).1 = kept s := by
  induction x0 generalizing x1 x2 x3 x4 x5 x6 s with
  | zero => unfold fsendRun; repeat' (first
      | with_reducible rfl)
  | succ m ih =>
    unfold fsendRun
    repeat' (first
      | with_reducible rfl
      | with_reducible assumption
      | simp only [sendFrameVia_kept, useCount_kept, ih]
      | with_reducible refine fst_kept (by assumption) ?_
      | with_reducible refine snd_kept (by assumption) ?_
      | with_reducible refine piece_moved (by assumption) ?_
      | with_reducible refine piece_stalled (by assumption) ?_
      | with_reducible refine piece_over (by assumption) ?_
      | with_reducible refine moverRead_kept  _ _ _ _ _ _ _ ?_
      | with_reducible refine (foldl_kept _ _ _ (fun _ _ => ?_)).trans ?_
      | split
      | simp only [sendFrameVia_kept, useCount_kept, ih])

theorem jobAdvance_kept (l mv j upto f s) (hf : ∀ j s, kept (f j s) = kept s) : kept (jobAdvance l mv j upto f s) = kept s := by
  unfold jobAdvance
  split
  · exact moverAdvance_kept _ _ _ _ _ _ hf
  · split
    · exact (setJob_kept ..).trans (fst_kept (by assumption) (fsendRun_kept ..))
    · have h := fst_kept (by assumption) (fsendRun_kept _ _ _ _ _ _ _ s)
      simp only
      split
      · exact (hf _ _).trans ((setJob_kept ..).trans h)
      · exact (setJob_kept ..).trans h

theorem execBeMoverPause_kept (x0 x1 x2 x3 s) {k} (hk : kept s = k) : KeptOut k (execBeMoverPause x0 x1 x2 x3 s) := by
  subst hk
  unfold execBeMoverPause
  repeat' (first
    | with_reducible rfl
    | with_reducible assumption
    | simp only [kept_ite, keptOut_next, setJob_kept, strikeLines_kept]
    | with_reducible refine fst_kept (by assumption) ?_
    | with_reducible refine snd_kept (by assumption) ?_
    | with_reducible refine (jobAdvance_kept _ _ _ _ _ _ (fun _ _ => ?_)).trans ?_
    | with_reducible refine (foldl_kept _ _ _ (fun _ _ => ?_)).trans ?_
    | split
    | simp only [keptOut_next])

theorem execMoverComplete_kept (x0 x1 x2 x3 s) {k} (hk : kept s = k) : KeptOut k (execMoverComplete x0 x1 x2 x3 s) := by
  subst hk
  unfold execMoverComplete
  repeat' (first
    | with_reducible rfl
    | with_reducible assumption
    | simp only [kept_ite, keptOut_next, State.modEmber_kept, setJob_kept, strikeLines_kept, tallyAdd_kept, useCount_kept]
    | with_reducible refine fst_kept (by assumption) ?_
    | with_reducible refine snd_kept (by assumption) ?_
    | with_reducible refine (jobAdvance_kept _ _ _ _ _ _ (fun _ _ => ?_)).trans ?_
    | with_reducible refine (moverAdvance_kept _ _ _ _ _ _ (fun _ _ => ?_)).trans ?_
    | with_reducible refine (foldl_kept _ _ _ (fun _ _ => ?_)).trans ?_
    | split
    | simp only [keptOut_next])

theorem execRemWriteDone_kept (x0 x1 x2 x3 s) {k} (hk : kept s = k) : KeptOut k (execRemWriteDone x0 x1 x2 x3 s) := by
  subst hk
  unfold execRemWriteDone
  repeat' (first
    | with_reducible rfl
    | with_reducible assumption
    | simp only [kept_ite, ite_self, keptOut_next, State.modEmber_kept, setJob_kept, strikeLines_kept, tallyAdd_kept]
    | with_reducible refine fst_kept (by assumption) ?_
    | with_reducible refine snd_kept (by assumption) ?_
    | with_reducible refine (moverAdvance_kept _ _ _ _ _ _ (fun _ _ => ?_)).trans ?_
    | with_reducible refine (foldl_kept _ _ _ (fun _ _ => ?_)).trans ?_
    | split
    | simp only [keptOut_next])

theorem execRemAck_kept (x0 x1 s) {k} (hk : kept s = k) : KeptOut k (execRemAck x0 x1 s) := by
  subst hk
  unfold execRemAck
  repeat' (first
    | with_reducible rfl
    | with_reducible assumption
    | simp only [keptOut_next, setJob_kept, tallyAdd_kept, useCount_kept]
    | with_reducible refine fst_kept (by assumption) ?_
    | with_reducible refine snd_kept (by assumption) ?_
    | with_reducible refine (foldl_kept _ _ _ (fun _ _ => ?_)).trans ?_
    | split)

theorem countAllocFail_kept (x0 x1 s) : kept (countAllocFail x0 x1 s) = kept s := by
  unfold countAllocFail
  simp only [State.modPart_kept]

theorem serveHeap_kept (x0 x1 x2 x3 x4 s) : kept (serveHeap x0 x1 x2 x3 x4 s) = kept s := by
  unfold serveHeap
  repeat' (first
    | with_reducible rfl
    | with_reducible assumption
    | simp only [State.modPart_kept, State.modThread_kept, countAllocFail_kept, returnBe_kept]
    | with_reducible refine fst_kept (by assumption) ?_
    | with_reducible refine snd_kept (by assumption) ?_
    | with_reducible refine (foldl_kept _ _ _ (fun _ _ => ?_)).trans ?_
    | split
    | (simp only))

theorem execHeapAnswer_kept (x0 s) {k} (hk : kept s = k) : KeptOut k (execHeapAnswer x0 s) := by
  subst hk
  unfold execHeapAnswer
  repeat' (first
    | with_reducible rfl
    | with_reducible assumption
    | simp only [keptOut_next, State.modPart_kept, State.modThread_kept, returnBe_kept, serveHeap_kept]
    | with_reducible refine fst_kept (by assumption) ?_
    | with_reducible refine snd_kept (by assumption) ?_
    | with_reducible refine (foldl_kept _ _ _ (fun _ _ => ?_)).trans ?_
    | split
    | simp only [keptOut_next])

theorem issueHeap_kept (x0 x1 x2 x3 s) : kept (issueHeap x0 x1 x2 x3 s) = kept s := by
  unfold issueHeap
  repeat' (first
    | with_reducible rfl
    | with_reducible assumption
    | simp only [keptEff_ok, State.modPart_kept, modAt_kept]
    | with_reducible refine fst_kept (by assumption) ?_
    | with_reducible refine snd_kept (by assumption) ?_
    | with_reducible refine (issue_kept _ _ _ _ _ _ _ _ _ (fun _ => ?_)).trans ?_)

theorem execAllocH_kept (x0 x1 s) {k} (hk : kept s = k) : KeptOut k (execAllocH x0 x1 s) := by
  subst hk
  unfold execAllocH
  simp only [keptOut_next, issueHeap_kept]

theorem execAllocS_kept (x0 x1 s) {k} (hk : kept s = k) : KeptOut k (execAllocS x0 x1 s) := by
  subst hk
  unfold execAllocS
  simp only [keptOut_next, issueHeap_kept]

theorem execFreeBlock_kept (x0 x1 s) {k} (hk : kept s = k) : KeptOut k (execFreeBlock x0 x1 s) := by
  subst hk
  unfold execFreeBlock
  simp only [keptOut_next, issueHeap_kept]

theorem execCaprd_kept (x0 x1 s) {k} (hk : kept s = k) : KeptOut k (execCaprd x0 x1 s) := by
  subst hk
  unfold execCaprd
  repeat' (first
    | with_reducible rfl
    | with_reducible assumption
    | simp only [keptEff_ok, keptOut_next, modAt_kept]
    | with_reducible refine fst_kept (by assumption) ?_
    | with_reducible refine snd_kept (by assumption) ?_
    | with_reducible refine (issue_kept _ _ _ _ _ _ _ _ _ (fun _ => ?_)).trans ?_
    | with_reducible refine (foldl_kept _ _ _ (fun _ _ => ?_)).trans ?_
    | split
    | simp only [keptOut_next])

theorem deviceWrite_kept (x0 x1 x2 x3 s) : kept (deviceWrite x0 x1 x2 x3 s) = kept s := by
  unfold deviceWrite
  simp only [putHbm_kept]

theorem stallOnce_kept (x0 x1 x2 s) : kept (stallOnce x0 x1 x2 s) = kept s := by
  unfold stallOnce
  simp only [kept_ite, ite_self, State.modPart_kept, countStall_kept]

theorem stallEnds_kept (x0 x1 x2 s) : kept (stallEnds x0 x1 x2 s) = kept s := by
  unfold stallEnds
  simp only [State.modPart_kept]

theorem prepUnit_kept (x0 x1 x2 s) : kept (prepUnit x0 x1 x2 s).1 = kept s := by
  unfold prepUnit
  repeat' (first
    | with_reducible rfl
    | with_reducible assumption
    | simp only [State.modPart_kept, fillFrame_kept, poolShort_kept, readChecked_kept, stallEnds_kept, stallOnce_kept]
    | with_reducible refine fst_kept (by assumption) ?_
    | with_reducible refine snd_kept (by assumption) ?_
    | with_reducible refine (foldl_kept _ _ _ (fun _ _ => ?_)).trans ?_
    | split
    | simp only [State.modPart_kept, fillFrame_kept, stallEnds_kept])

theorem prepUnits_kept (x0 x1 s) : kept (prepUnits x0 x1 s).1 = kept s := by
  induction x1 generalizing x0 s with
  | nil => unfold prepUnits; repeat' (first
      | with_reducible rfl)
  | cons hd tl ih =>
    unfold prepUnits
    repeat' (first
      | with_reducible rfl
      | with_reducible assumption
      | simp only [prepUnit_kept, ih]
      | with_reducible refine fst_kept (by assumption) ?_
      | with_reducible refine snd_kept (by assumption) ?_
      | with_reducible refine (foldl_kept _ _ _ (fun _ _ => ?_)).trans ?_
      | split
      | simp only [ih])

theorem setGroupCount_kept (x0 x1 x2 x3 s) : kept (setGroupCount x0 x1 x2 x3 s) = kept s := by
  unfold setGroupCount
  repeat' (first
    | with_reducible rfl
    | with_reducible assumption
    | simp only [kept_ite, ite_self, State.modThread_kept]
    | with_reducible refine fst_kept (by assumption) ?_
    | with_reducible refine snd_kept (by assumption) ?_
    | with_reducible refine (foldl_kept _ _ _ (fun _ _ => ?_)).trans ?_
    | split)

theorem writeImage_kept (x0 x1 x2 s) : kept (writeImage x0 x1 x2 s) = kept s := by
  induction x1 generalizing x0 x2 s with
  | nil => unfold writeImage; repeat' (first
      | with_reducible rfl)
  | cons hd tl ih =>
    unfold writeImage
    repeat' (first
      | with_reducible rfl
      | with_reducible assumption
      | simp only [deviceWrite_kept, ih])

theorem applyImage_kept (x0 x1 s) : kept (applyImage x0 x1 s) = kept s := by
  unfold applyImage
  repeat' (first
    | with_reducible rfl
    | with_reducible assumption
    | simp only [State.modPart_kept, setGroupCount_kept]
    | with_reducible refine fst_kept (by assumption) ?_
    | with_reducible refine snd_kept (by assumption) ?_
    | with_reducible refine (foldl_kept _ _ _ (fun _ _ => ?_)).trans ?_)

theorem writeMeta_kept (x0 x1 x2 s) : kept (writeMeta x0 x1 x2 s) = kept s := by
  unfold writeMeta
  repeat' (first
    | with_reducible rfl
    | with_reducible assumption
    | simp only [kept_ite, ite_self, State.modPart_kept, deviceWrite_kept, takeLine_kept]
    | with_reducible refine fst_kept (by assumption) ?_
    | with_reducible refine snd_kept (by assumption) ?_
    | with_reducible refine (foldl_kept _ _ _ (fun _ _ => ?_)).trans ?_
    | split
    | simp only [State.modPart_kept])

theorem storeHeaps_kept (x0 s) : kept (storeHeaps x0 s) = kept s := by
  unfold storeHeaps
  repeat' (first
    | with_reducible rfl
    | with_reducible assumption
    | simp only [writeMeta_kept]
    | with_reducible refine fst_kept (by assumption) ?_
    | with_reducible refine snd_kept (by assumption) ?_
    | with_reducible refine (foldl_kept _ _ _ (fun _ _ => ?_)).trans ?_
    | split)

theorem metaChecked_kept (n h base s) : kept (metaChecked n h base s).1 = kept s := by
  unfold metaChecked
  simp only
  split
  · rfl
  · refine foldl_fst_kept _ _ _ rfl (fun q x hq => ?_)
    split
    · exact (checkLines_kept ..).trans hq
    · exact hq

theorem imageChecked_kept (n s) : kept (imageChecked n s).1 = kept s := by
  unfold imageChecked
  refine foldl_fst_kept _ _ _ rfl (fun q x hq => ?_)
  split
  · exact (checkLines_kept ..).trans hq
  · exact hq

theorem loadHeaps_kept (x0 s) : kept (loadHeaps x0 s) = kept s := by
  unfold loadHeaps
  repeat' (first
    | with_reducible rfl
    | with_reducible assumption
    | simp only [State.modPart_kept, metaChecked_kept]
    | with_reducible refine fst_kept (by assumption) ?_
    | with_reducible refine snd_kept (by assumption) ?_
    | with_reducible refine (foldl_kept _ _ _ (fun _ _ => ?_)).trans ?_
    | split
    | simp only [State.modPart_kept, metaChecked_kept])

theorem State.modKs_kept (x0 s) : kept (State.modKs x0 s) = kept s := by
  unfold State.modKs
  simp only [kept_mk, kept_fold]

theorem journal_kept (x0 s) : kept (journal x0 s) = kept s := by
  unfold journal
  simp only [State.modKs_kept]

theorem queueWrite_kept {n kind gen unit job src s t} (h : queueWrite n kind gen unit job src s = some t) : kept t = kept s := by
  unfold queueWrite at h
  simp only [Option.map_eq_some_iff] at h
  obtain ⟨_, _, rfl⟩ := h
  rfl

theorem askSeq_kept (s) : kept (askSeq s) = kept s := by
  unfold askSeq
  simp only [kept_ite, ite_self, journal_kept]

theorem programSlot_kept (x0 x1 x2 x3 x4 x5 x6 x7 s) : kept (programSlot x0 x1 x2 x3 x4 x5 x6 x7 s) = kept s := by
  unfold programSlot
  simp only [State.modKs_kept]

theorem programPieces_kept {n kind gen job i ps ts s t} (h : programPieces n kind gen job i ps ts s = some t) : kept t = kept s := by
  induction ps generalizing i ts s with
  | nil => unfold programPieces at h; cases h; rfl
  | cons bs rest ih =>
    cases ts with
    | nil => unfold programPieces at h; cases h
    | cons q qs =>
      unfold programPieces at h
      split at h
      · split at h
        · exact (ih h).trans (programSlot_kept ..)
        · cases h
      · cases h

theorem strikeSectors_kept (x0 s) : kept (strikeSectors x0 s) = kept s := by
  unfold strikeSectors
  repeat' (first
    | with_reducible rfl
    | with_reducible assumption
    | simp only [State.modKs_kept]
    | with_reducible refine fst_kept (by assumption) ?_
    | with_reducible refine snd_kept (by assumption) ?_
    | with_reducible refine (foldl_kept _ _ _ (fun _ _ => ?_)).trans ?_)

theorem readSlots_kept (n met f s) (hf : ∀ s, kept (f s) = kept s) : kept (readSlots n met f s) = kept s := by
  unfold readSlots
  split
  · exact securityAlarm_kept ..
  · exact hf s

theorem releaseGen_kept (x0 x1 s) : kept (releaseGen x0 x1 s) = kept s := by
  unfold releaseGen
  repeat' (first
    | with_reducible rfl
    | with_reducible assumption
    | simp only [freeSlot_kept, journal_kept]
    | with_reducible refine fst_kept (by assumption) ?_
    | with_reducible refine snd_kept (by assumption) ?_
    | with_reducible refine (foldl_kept _ _ _ (fun _ _ => ?_)).trans ?_
    | split
    | simp only [journal_kept])

theorem unpinUnit_kept (x0 x1 s) : kept (unpinUnit x0 x1 s) = kept s := by
  unfold unpinUnit
  simp only [State.modPart_kept]

theorem ckRecord_kept (x0 x1 x2 s) : kept (ckRecord x0 x1 x2 s) = kept s := by
  unfold ckRecord
  simp only [partRecord_kept]

theorem reannounce_kept (x0 s) : kept (reannounce x0 s) = kept s := by
  unfold reannounce
  simp only [kept_ite, ite_self, State.modPart_kept]

theorem ckAbandon_kept (x0 x1 s) : kept (ckAbandon x0 x1 s) = kept s := by
  unfold ckAbandon
  repeat' (first
    | with_reducible rfl
    | with_reducible assumption
    | simp only [kept_ite, State.modPart_kept, ckRecord_kept, releaseGen_kept, unpinUnit_kept]
    | with_reducible refine fst_kept (by assumption) ?_
    | with_reducible refine snd_kept (by assumption) ?_
    | with_reducible refine (foldl_kept _ _ _ (fun _ _ => ?_)).trans ?_
    | split
    | simp only [kept_ite, State.modPart_kept, ckRecord_kept])

theorem ckQueue_kept (n qs s) : kept (ckQueue n qs s) = kept s := by
  induction qs generalizing s with
  | nil => rfl
  | cons q qs ih =>
    unfold ckQueue
    simp only
    split
    · rename_i t h
      simp only [Option.bind_eq_some_iff] at h
      obtain ⟨e, _, h⟩ := h
      exact (ih _).trans (queueWrite_kept h)
    · exact ckAbandon_kept ..

theorem ckSnapshot_kept (x0 x1 s) : kept (ckSnapshot x0 x1 s) = kept s := by
  unfold ckSnapshot
  simp only [State.modPart_kept, ckQueue_kept]

end Sys2Proof.Machine
end

