-- ==== Sys2Proof/Laws/KeptFabric.lean ====
section
/-! SUPPORT. `kept` is left alone by frames, flues, steps, sweeps and collectives. -/

set_option linter.all false

namespace Sys2Proof.Machine

theorem retireSoot_kept (s x1 x2 x3 x4) : kept (retireSoot s x1 x2 x3 x4) = kept s := by
  unfold retireSoot
  simp only [sootEvent_kept]

theorem startRetire_kept (x0 s) : kept (startRetire x0 s) = kept s := by
  unfold startRetire
  repeat' (first
    | with_reducible rfl
    | with_reducible assumption
    | simp only [kept_mk, kept_fold, State.modEmber_kept, healthSpares_kept, retireSoot_kept, setFault_kept, withdraw_kept]
    | with_reducible refine fst_kept (by assumption) ?_
    | with_reducible refine snd_kept (by assumption) ?_
    | with_reducible refine (foldl_kept _ _ _ (fun _ _ => ?_)).trans ?_
    | split
    | (simp only))

theorem startRetires_kept (x0 s) : kept (startRetires x0 s) = kept s := by
  unfold startRetires
  repeat' (first
    | with_reducible rfl
    | with_reducible assumption
    | simp only [startRetire_kept]
    | with_reducible refine fst_kept (by assumption) ?_
    | with_reducible refine snd_kept (by assumption) ?_
    | with_reducible refine (foldl_kept _ _ _ (fun _ _ => ?_)).trans ?_)

theorem retireUnowned_kept (x0 s) : kept (retireUnowned x0 s) = kept s := by
  unfold retireUnowned
  simp only [kept_ite, ite_self, startRetires_kept]

theorem askRetirement_kept (x0 x1 s) : kept (askRetirement x0 x1 s) = kept s := by
  unfold askRetirement
  simp only [State.modEmber_kept, retireUnowned_kept]

theorem execEmbRetireReq_kept (x0 s) {k} (hk : kept s = k) : KeptOut k (execEmbRetireReq x0 s) := by
  subst hk
  unfold execEmbRetireReq
  simp only [kept_ite, ite_self, keptOut_next, askRetirement_kept]

theorem finishRetire_kept (x0 s) : kept (finishRetire x0 s) = kept s := by
  unfold finishRetire
  repeat' (first
    | with_reducible rfl
    | with_reducible assumption
    | simp only [State.modEmber_kept, retireSoot_kept]
    | with_reducible refine fst_kept (by assumption) ?_
    | with_reducible refine snd_kept (by assumption) ?_
    | with_reducible refine (foldl_kept _ _ _ (fun _ _ => ?_)).trans ?_
    | split
    | (simp only))

theorem takeFrame_kept {n p s l f t} (h : takeFrame n p s = some (l, f, t)) : kept t = kept s := by
  unfold takeFrame at h
  simp only at h
  split at h
  · cases h
  · cases h
    rfl

theorem State.modFlue_kept (x0 x1 s) : kept (State.modFlue x0 x1 s) = kept s := by
  unfold State.modFlue
  simp only [kept_mk, kept_fold]

theorem freeSlots_kept (x0 x1 x2 x3 s) : kept (freeSlots x0 x1 x2 x3 s) = kept s := by
  unfold freeSlots
  simp only [kept_ite, ite_self, State.modFlue_kept]

theorem sendOpen_kept (x0 x1 s) : kept (sendOpen x0 x1 s) = kept s := by
  unfold sendOpen
  simp only [kept_ite, ite_self, State.modFlue_kept]

theorem enqueueFrame_kept (x0 x1 x2 s) : kept (enqueueFrame x0 x1 x2 s) = kept s := by
  unfold enqueueFrame
  simp only [kept_ite, ite_self, State.modFlue_kept, sendOpen_kept]

theorem openFlues_kept (x0 s) : kept (openFlues x0 s) = kept s := by
  unfold openFlues
  repeat' (first
    | with_reducible rfl
    | with_reducible assumption
    | simp only [kept_ite, ite_self, sendOpen_kept]
    | with_reducible refine fst_kept (by assumption) ?_
    | with_reducible refine snd_kept (by assumption) ?_
    | with_reducible refine (foldl_kept _ _ _ (fun _ _ => ?_)).trans ?_)

theorem enqueueLink_kept (x0 x1 s) : kept (enqueueLink x0 x1 s) = kept s := by
  unfold enqueueLink
  simp only [State.modFlue_kept]

theorem sendHop_kept (x0 x1 x2 s) : kept (sendHop x0 x1 x2 s) = kept s := by
  unfold sendHop
  repeat' (first
    | with_reducible rfl
    | with_reducible assumption
    | simp only [enqueueFrame_kept]
    | with_reducible refine fst_kept (by assumption) ?_
    | with_reducible refine snd_kept (by assumption) ?_
    | with_reducible refine (foldl_kept _ _ _ (fun _ _ => ?_)).trans ?_
    | split)

theorem forwardPlane_kept (x0 x1 x2 s) : kept (forwardPlane x0 x1 x2 s) = kept s := by
  unfold forwardPlane
  repeat' (first
    | with_reducible rfl
    | with_reducible assumption
    | simp only [kept_ite, ite_self, sendHop_kept]
    | with_reducible refine fst_kept (by assumption) ?_
    | with_reducible refine snd_kept (by assumption) ?_
    | with_reducible refine (foldl_kept _ _ _ (fun _ _ => ?_)).trans ?_)

theorem route_kept (x0 x1 s) : kept (route x0 x1 s) = kept s := by
  unfold route
  repeat' (first
    | with_reducible rfl
    | with_reducible assumption
    | simp only [State.modPart_kept, enqueueFrame_kept, forwardPlane_kept, sendHop_kept]
    | with_reducible refine fst_kept (by assumption) ?_
    | with_reducible refine snd_kept (by assumption) ?_
    | with_reducible refine (foldl_kept _ _ _ (fun _ _ => ?_)).trans ?_
    | split
    | simp only [forwardPlane_kept])

theorem execOutboundHoldRelease_kept (s) {k} (hk : kept s = k) : KeptOut k (execOutboundHoldRelease s) := by
  subst hk
  unfold execOutboundHoldRelease
  repeat' (first
    | with_reducible rfl
    | with_reducible assumption
    | simp only [kept_mk, kept_fold, keptOut_next, releaseHeld_kept, route_kept]
    | with_reducible refine fst_kept (by assumption) ?_
    | with_reducible refine snd_kept (by assumption) ?_
    | with_reducible refine (foldl_kept _ _ _ (fun _ _ => ?_)).trans ?_
    | split)

theorem sendHeader_kept (x0 s) : kept (sendHeader x0 s) = kept s := by
  unfold sendHeader
  simp only [State.emit_kept, State.modFlue_kept]

theorem execNakRepeat_kept (x0 s) {k} (hk : kept s = k) : KeptOut k (execNakRepeat x0 s) := by
  subst hk
  unfold execNakRepeat
  simp only [kept_ite, ite_self, keptOut_next, sendHeader_kept]

theorem execIdleAckSend_kept (x0 s) {k} (hk : kept s = k) : KeptOut k (execIdleAckSend x0 s) := by
  subst hk
  unfold execIdleAckSend
  simp only [kept_ite, ite_self, keptOut_next, sendHeader_kept]

theorem sendItem_kept (x0 x1 x2 s) : kept (sendItem x0 x1 x2 s) = kept s := by
  unfold sendItem
  simp only [State.emit_kept, State.modFlue_kept]

theorem execGroupTransmit_kept (x0 s) {k} (hk : kept s = k) : KeptOut k (execGroupTransmit x0 s) := by
  subst hk
  unfold execGroupTransmit
  repeat' (first
    | with_reducible rfl
    | with_reducible assumption
    | simp only [keptOut_next, sendItem_kept]
    | with_reducible refine fst_kept (by assumption) ?_
    | with_reducible refine snd_kept (by assumption) ?_
    | with_reducible refine (foldl_kept _ _ _ (fun _ _ => ?_)).trans ?_
    | split)

theorem leaveRun_kept (x0 s) : kept (leaveRun x0 s) = kept s := by
  unfold leaveRun
  simp only [kept_ite, ite_self, State.modFlue_kept]

theorem enterRun_kept (x0 s) : kept (enterRun x0 s) = kept s := by
  unfold enterRun
  simp only [kept_ite, ite_self, State.modFlue_kept]

theorem flueStart_kept (x0 s) : kept (flueStart x0 s) = kept s := by
  unfold flueStart
  simp only [State.modFlue_kept]

theorem flueEnable_kept (x0 s) : kept (flueEnable x0 s) = kept s := by
  unfold flueEnable
  simp only [kept_ite, ite_self, State.modFlue_kept, flueStart_kept]

theorem execFlueEnSet_kept (x0 s) {k} (hk : kept s = k) : KeptOut k (execFlueEnSet x0 s) := by
  subst hk
  unfold execFlueEnSet
  simp only [kept_ite, ite_self, keptOut_next, flueEnable_kept]

theorem flueDisable_kept (x0 s) : kept (flueDisable x0 s) = kept s := by
  unfold flueDisable
  simp only [kept_ite, ite_self, State.modFlue_kept, healthSpares_kept, leaveRun_kept]

theorem execFlueEnClear_kept (x0 s) {k} (hk : kept s = k) : KeptOut k (execFlueEnClear x0 s) := by
  subst hk
  unfold execFlueEnClear
  simp only [keptOut_next, flueDisable_kept]

theorem execFluePresenceChange_kept (x0 x1 s) {k} (hk : kept s = k) : KeptOut k (execFluePresenceChange x0 x1 s) := by
  subst hk
  unfold execFluePresenceChange
  simp only [kept_mk, kept_fold, kept_ite, ite_self, keptOut_next, State.modFlue_kept, flueStart_kept]

theorem bringUp_kept (x0 x1 x2 s) : kept (bringUp x0 x1 x2 s) = kept s := by
  unfold bringUp
  simp only [kept_ite, ite_self, State.modFlue_kept]

theorem execFlueDetectDone_kept (x0 s) {k} (hk : kept s = k) : KeptOut k (execFlueDetectDone x0 s) := by
  subst hk
  unfold execFlueDetectDone
  simp only [keptOut_next, bringUp_kept]

theorem execFlueTrainDone_kept (x0 s) {k} (hk : kept s = k) : KeptOut k (execFlueTrainDone x0 s) := by
  subst hk
  unfold execFlueTrainDone
  simp only [keptOut_next, bringUp_kept]

theorem execFlueAlignDone_kept (x0 s) {k} (hk : kept s = k) : KeptOut k (execFlueAlignDone x0 s) := by
  subst hk
  unfold execFlueAlignDone
  simp only [keptOut_next, bringUp_kept]

theorem execFlueInitDone_kept (x0 s) {k} (hk : kept s = k) : KeptOut k (execFlueInitDone x0 s) := by
  subst hk
  unfold execFlueInitDone
  simp only [kept_ite, ite_self, keptOut_next, State.draw_kept, State.modFlue_kept, enqueueLink_kept]

theorem execFlueBringupTimeout_kept (x0 s) {k} (hk : kept s = k) : KeptOut k (execFlueBringupTimeout x0 s) := by
  subst hk
  unfold execFlueBringupTimeout
  simp only [kept_ite, ite_self, keptOut_next, State.modFlue_kept, healthSpares_kept]

theorem laneSoot_kept (x0 x1 x2 x3 s) : kept (laneSoot x0 x1 x2 x3 s) = kept s := by
  unfold laneSoot
  simp only [sootEvent_kept]

theorem laneFailed_kept (x0 x1 x2 x3 s) : kept (laneFailed x0 x1 x2 x3 s) = kept s := by
  unfold laneFailed
  simp only [kept_ite, ite_self, State.modFlue_kept, healthSpares_kept, laneSoot_kept, leaveRun_kept]

theorem declareLane_kept (x0 x1 s) : kept (declareLane x0 x1 s) = kept s := by
  unfold declareLane
  repeat' (first
    | with_reducible rfl
    | with_reducible assumption
    | simp only [kept_ite, ite_self, State.modFlue_kept, enqueueLink_kept, laneFailed_kept, sendItem_kept]
    | with_reducible refine fst_kept (by assumption) ?_
    | with_reducible refine snd_kept (by assumption) ?_
    | with_reducible refine (foldl_kept _ _ _ (fun _ _ => ?_)).trans ?_
    | split
    | simp only [kept_ite])

theorem execLaneLockLoss_kept (x0 x1 s) {k} (hk : kept s = k) : KeptOut k (execLaneLockLoss x0 x1 s) := by
  subst hk
  unfold execLaneLockLoss
  simp only [keptOut_next, declareLane_kept]

theorem execLaneErrorInterval_kept (x0 x1 x2 x3 s) {k} (hk : kept s = k) : KeptOut k (execLaneErrorInterval x0 x1 x2 x3 s) := by
  subst hk
  unfold execLaneErrorInterval
  repeat' (first
    | with_reducible rfl
    | with_reducible assumption
    | simp only [kept_ite, ite_self, keptOut_next, State.modFlue_kept, declareLane_kept]
    | with_reducible refine fst_kept (by assumption) ?_
    | with_reducible refine snd_kept (by assumption) ?_
    | with_reducible refine (foldl_kept _ _ _ (fun _ _ => ?_)).trans ?_
    | split
    | simp only [keptOut_next])

theorem takeLink_kept {f p s l t} (h : takeLink f p s = some (l, t)) : kept t = kept s := by
  unfold takeLink at h
  simp only [Option.map_eq_some_iff] at h
  obtain ⟨_, _, h⟩ := h
  cases h
  rfl

theorem execLaneFrame_kept (x0 s) {k} (hk : kept s = k) : KeptOut k (execLaneFrame x0 s) := by
  subst hk
  unfold execLaneFrame
  repeat' (first
    | with_reducible rfl
    | with_reducible assumption
    | simp only [kept_ite, ite_self, keptOut_next, State.modFlue_kept, State.takeFree_kept, enqueueLink_kept, laneFailed_kept]
    | with_reducible refine fst_kept (by assumption) ?_
    | with_reducible refine snd_kept (by assumption) ?_
    | with_reducible exact takeLink_kept (by assumption)
    | with_reducible refine (takeLink_kept (by assumption)).trans ?_
    | with_reducible refine (foldl_kept _ _ _ (fun _ _ => ?_)).trans ?_
    | split
    | simp only [kept_ite, ite_self, keptOut_next, State.modFlue_kept, State.takeFree_kept, enqueueLink_kept, laneFailed_kept])

theorem execWidthFrame_kept (x0 s) {k} (hk : kept s = k) : KeptOut k (execWidthFrame x0 s) := by
  subst hk
  unfold execWidthFrame
  repeat' (first
    | with_reducible rfl
    | with_reducible assumption
    | simp only [kept_ite, keptOut_next, State.modFlue_kept]
    | with_reducible refine fst_kept (by assumption) ?_
    | with_reducible refine snd_kept (by assumption) ?_
    | with_reducible exact takeLink_kept (by assumption)
    | with_reducible refine (takeLink_kept (by assumption)).trans ?_
    | with_reducible refine (foldl_kept _ _ _ (fun _ _ => ?_)).trans ?_
    | split
    | simp only [keptOut_next, State.modFlue_kept])

theorem execFlueRetrainDone_kept (x0 s) {k} (hk : kept s = k) : KeptOut k (execFlueRetrainDone x0 s) := by
  subst hk
  unfold execFlueRetrainDone
  simp only [kept_ite, ite_self, keptOut_next, State.modFlue_kept, enterRun_kept]

theorem issueRecord_kept (x0 s) : kept (issueRecord x0 s) = kept s := by
  unfold issueRecord
  repeat' (first
    | with_reducible rfl
    | with_reducible assumption
    | simp only [State.modPart_kept, sendFrame_kept]
    | with_reducible refine fst_kept (by assumption) ?_
    | with_reducible refine snd_kept (by assumption) ?_
    | with_reducible refine (foldl_kept _ _ _ (fun _ _ => ?_)).trans ?_
    | split)

theorem sendOrder_kept (x0 x1 x2 s) : kept (sendOrder x0 x1 x2 s) = kept s := by
  unfold sendOrder
  simp only [kept_mk, kept_fold, kept_ite, ite_self]

theorem orderAbort_kept (x0 x1 x2 x3 s) : kept (orderAbort x0 x1 x2 x3 s) = kept s := by
  unfold orderAbort
  simp only [kept_ite, ite_self, State.modPart_kept, sendOrder_kept]

theorem voidStep_kept (x0 s) : kept (voidStep x0 s) = kept s := by
  unfold voidStep
  simp only [State.modPart_kept, orderAbort_kept]

theorem execContribReport_kept (x0 s) {k} (hk : kept s = k) : KeptOut k (execContribReport x0 s) := by
  subst hk
  unfold execContribReport
  repeat' (first
    | with_reducible rfl
    | with_reducible assumption
    | simp only [kept_ite, ite_self, keptOut_next, State.modPart_kept, issueRecord_kept, sendFrame_kept]
    | with_reducible refine fst_kept (by assumption) ?_
    | with_reducible refine snd_kept (by assumption) ?_
    | with_reducible exact takeFrame_kept (by assumption)
    | with_reducible refine (takeFrame_kept (by assumption)).trans ?_
    | with_reducible refine (foldl_kept _ _ _ (fun _ _ => ?_)).trans ?_
    | split
    | simp only [keptOut_next, State.modPart_kept, issueRecord_kept, sendFrame_kept])

theorem execStepDeadline_kept (x0 s) {k} (hk : kept s = k) : KeptOut k (execStepDeadline x0 s) := by
  subst hk
  unfold execStepDeadline
  repeat' (first
    | with_reducible rfl
    | with_reducible assumption
    | simp only [kept_ite, ite_self, keptOut_next, issueRecord_kept, voidStep_kept]
    | with_reducible refine fst_kept (by assumption) ?_
    | with_reducible refine snd_kept (by assumption) ?_
    | with_reducible refine (foldl_kept _ _ _ (fun _ _ => ?_)).trans ?_
    | split)

theorem heapsToStart_kept (x0 s) : kept (heapsToStart x0 s) = kept s := by
  unfold heapsToStart
  simp only [State.modPart_kept]

theorem bufMark_kept (x0 s) : kept (bufMark x0 s) = kept s := by
  unfold bufMark
  simp only [State.modPart_kept]

theorem dropArrived_kept (x0 x1 s) : kept (dropArrived x0 x1 s) = kept s := by
  unfold dropArrived
  repeat' (first
    | with_reducible rfl
    | with_reducible assumption
    | simp only [State.modPart_kept, bufMark_kept, freeSlots_kept]
    | with_reducible refine fst_kept (by assumption) ?_
    | with_reducible refine snd_kept (by assumption) ?_
    | with_reducible refine (foldl_kept _ _ _ (fun _ _ => ?_)).trans ?_
    | split
    | simp only [State.modPart_kept, bufMark_kept])

theorem recallLc_kept (x0 s) : kept (recallLc x0 s) = kept s := by
  unfold recallLc
  repeat' (first
    | with_reducible rfl
    | with_reducible assumption
    | simp only [kept_mk, kept_fold, State.modFlue_kept]
    | with_reducible refine fst_kept (by assumption) ?_
    | with_reducible refine snd_kept (by assumption) ?_
    | with_reducible refine (foldl_kept _ _ _ (fun _ _ => ?_)).trans ?_)

theorem discardLc_kept (x0 s) : kept (discardLc x0 s) = kept s := by
  unfold discardLc
  simp only [State.mapEmbers_kept, State.modPart_kept, endParks_kept, recallLc_kept]

theorem dropRelease_kept (x0 s) : kept (dropRelease x0 s) = kept s := by
  unfold dropRelease
  repeat' (first
    | with_reducible rfl
    | with_reducible assumption
    | simp only [State.mapEmbers_kept, State.modPart_kept, discardLc_kept, dropArrived_kept, heapsToStart_kept, sendFrame_kept, setGroupCount_kept]
    | with_reducible refine fst_kept (by assumption) ?_
    | with_reducible refine snd_kept (by assumption) ?_
    | with_reducible refine (foldl_kept _ _ _ (fun _ _ => ?_)).trans ?_
    | split
    | simp only [State.modPart_kept, heapsToStart_kept])

theorem putStepPage_kept (x0 x1 x2 s) : kept (putStepPage x0 x1 x2 s).1 = kept s := by
  unfold putStepPage
  repeat' (first
    | with_reducible rfl
    | with_reducible assumption
    | simp only [askUnbank_kept, deviceWrite_kept, prepUnit_kept]
    | with_reducible refine fst_kept (by assumption) ?_
    | with_reducible refine snd_kept (by assumption) ?_
    | with_reducible refine (foldl_kept _ _ _ (fun _ _ => ?_)).trans ?_
    | split
    | simp only [deviceWrite_kept])

theorem execSteprecFrame_kept (x0 x1 s) {k} (hk : kept s = k) : KeptOut k (execSteprecFrame x0 x1 s) := by
  subst hk
  unfold execSteprecFrame
  repeat' (first
    | with_reducible rfl
    | with_reducible assumption
    | simp only [kept_ite, ite_self, keptOut_next, State.modPart_kept, dropRelease_kept, putStepPage_kept, semSignal_kept]
    | with_reducible refine fst_kept (by assumption) ?_
    | with_reducible refine snd_kept (by assumption) ?_
    | with_reducible exact takeFrame_kept (by assumption)
    | with_reducible refine (takeFrame_kept (by assumption)).trans ?_
    | with_reducible refine (foldl_kept _ _ _ (fun _ _ => ?_)).trans ?_
    | split
    | simp only [keptOut_next, State.modPart_kept, dropRelease_kept, putStepPage_kept, semSignal_kept])

theorem execDropmarkFrame_kept (x0 s) {k} (hk : kept s = k) : KeptOut k (execDropmarkFrame x0 s) := by
  subst hk
  unfold execDropmarkFrame
  repeat' (first
    | with_reducible rfl
    | with_reducible assumption
    | simp only [keptOut_next, State.modPart_kept]
    | with_reducible refine fst_kept (by assumption) ?_
    | with_reducible refine snd_kept (by assumption) ?_
    | with_reducible exact takeFrame_kept (by assumption)
    | with_reducible refine (takeFrame_kept (by assumption)).trans ?_
    | with_reducible refine (foldl_kept _ _ _ (fun _ _ => ?_)).trans ?_
    | split
    | simp only [keptOut_next, State.modPart_kept])

theorem execBeScaleFix_kept (x0 s) {k} (hk : kept s = k) : KeptOut k (execBeScaleFix x0 s) := by
  subst hk
  unfold execBeScaleFix
  simp only [kept_ite, ite_self, keptOut_next, State.modPart_kept]

theorem parity_step (n b m i j) (q : Nat) (p : State × Option (List Byte)) {k} : kept p.1 = k → kept (match p with
    | (s, none) => s
    | (s, some bs) =>
      let s := sendFrame n (some (s.groupPos n i)) .relight (.wpunit q 0 0 b bs) s
      if m = 2 then sendFrame n (some (s.groupPos n j)) .relight (.wpunit q 1 0 b bs) s else s) = k := by
  intro h
  obtain ⟨t, o⟩ := p
  cases o with
  | none => exact h
  | some bs =>
    dsimp only
    split
    · rw [sendFrame_kept, sendFrame_kept]; exact h
    · rw [sendFrame_kept]; exact h

theorem sendParity_kept (n s) : kept (sendParity n s) = kept s := by
  unfold sendParity
  by_cases h : (s.part n).rl.mode = 0
  · rw [if_pos h]
    exact sendFrame_kept ..
  · rw [if_neg h]
    apply foldl_kept
    intro s q
    exact parity_step _ _ _ _ _ _ _ (readHbm_kept n ((s.part n).rl.keptFrame q * pageBytes) pageBytes .outside s)

theorem newParityBoundary_kept (x0 s) : kept (newParityBoundary x0 s) = kept s := by
  unfold newParityBoundary
  simp only [kept_ite, ite_self, State.modPart_kept, ckSnapshot_kept, sendParity_kept]

theorem boundaryRequests_kept (x0 s) : kept (boundaryRequests x0 s) = kept s := by
  unfold boundaryRequests
  simp only [kept_ite, ite_self, State.modPart_kept, ckAsk_kept]

theorem stokerRelease_kept (x0 s) : kept (stokerRelease x0 s) = kept s := by
  unfold stokerRelease
  repeat' (first
    | with_reducible rfl
    | with_reducible assumption
    | simp only [kept_ite, State.modPart_kept, sendFrame_kept]
    | with_reducible refine fst_kept (by assumption) ?_
    | with_reducible refine snd_kept (by assumption) ?_
    | with_reducible refine (foldl_kept _ _ _ (fun _ _ => ?_)).trans ?_
    | split
    | (simp only))

theorem startStep_kept (x0 x1 x2 s) : kept (startStep x0 x1 x2 s) = kept s := by
  unfold startStep
  repeat' (first
    | with_reducible rfl
    | with_reducible assumption
    | simp only [State.mapEmbers_kept, State.modPart_kept]
    | with_reducible refine fst_kept (by assumption) ?_
    | with_reducible refine snd_kept (by assumption) ?_
    | with_reducible refine (foldl_kept _ _ _ (fun _ _ => ?_)).trans ?_
    | split)

theorem releaseStep_kept (x0 s) : kept (releaseStep x0 s) = kept s := by
  unfold releaseStep
  simp only [kept_ite, ite_self, State.mapEmbers_kept, State.modPart_kept, boundaryRequests_kept, newParityBoundary_kept, releaseBeAll_kept, startStep_kept, stokerRelease_kept, storeHeaps_kept, writeImage_kept]

theorem tryRelease_kept (x0 s) : kept (tryRelease x0 s) = kept s := by
  unfold tryRelease
  repeat' (first
    | with_reducible rfl
    | with_reducible assumption
    | (simp only [kept_ite, ite_self, State.modPart_kept, prepUnits_kept, releaseStep_kept]; done)
    | with_reducible refine fst_kept (by assumption) ?_
    | with_reducible refine snd_kept (by assumption) ?_
    | with_reducible refine (foldl_kept _ _ _ (fun _ _ => ?_)).trans ?_
    | split
    | (simp only [kept_ite, State.modPart_kept, releaseStep_kept]))

theorem execStepBoundary_kept (x0 s) {k} (hk : kept s = k) : KeptOut k (execStepBoundary x0 s) := by
  subst hk
  unfold execStepBoundary
  repeat' (first
    | with_reducible rfl
    | with_reducible assumption
    | simp only [kept_ite, ite_self, keptOut_next, State.modPart_kept, pauseClass_kept, startRetires_kept, tryRelease_kept]
    | with_reducible refine fst_kept (by assumption) ?_
    | with_reducible refine snd_kept (by assumption) ?_
    | with_reducible refine (foldl_kept _ _ _ (fun _ _ => ?_)).trans ?_
    | split)

theorem execBankOutDone_kept (x0 x1 s) {k} (hk : kept s = k) : KeptOut k (execBankOutDone x0 x1 s) := by
  subst hk
  unfold execBankOutDone
  repeat' (first
    | with_reducible rfl
    | with_reducible assumption
    | simp only [kept_ite, ite_self, keptOut_next, State.modPart_kept, bankFinish_kept, bankStatus_kept, cacheDrop_kept, setPage_kept]
    | with_reducible refine fst_kept (by assumption) ?_
    | with_reducible refine snd_kept (by assumption) ?_
    | with_reducible refine (foldl_kept _ _ _ (fun _ _ => ?_)).trans ?_
    | split
    | simp only [keptOut_next])

theorem execUnbankStart_kept (x0 s) {k} (hk : kept s = k) : KeptOut k (execUnbankStart x0 s) := by
  subst hk
  unfold execUnbankStart
  repeat' (first
    | with_reducible rfl
    | with_reducible assumption
    | simp only [keptOut_next, State.modPart_kept, poolEdge_kept]
    | with_reducible refine fst_kept (by assumption) ?_
    | with_reducible refine snd_kept (by assumption) ?_
    | with_reducible refine (foldl_kept _ _ _ (fun _ _ => ?_)).trans ?_
    | split
    | simp only [keptOut_next])

theorem unpark_kept (x0 x1 x2 s) : kept (unpark x0 x1 x2 s) = kept s := by
  unfold unpark
  repeat' (first
    | with_reducible rfl
    | with_reducible assumption
    | simp only [kept_ite, ite_self, State.modThread_kept, parkTime_kept, toRun_kept]
    | with_reducible refine fst_kept (by assumption) ?_
    | with_reducible refine snd_kept (by assumption) ?_
    | with_reducible refine (foldl_kept _ _ _ (fun _ _ => ?_)).trans ?_)

theorem unbanked_kept (x0 x1 x2 x3 x4 x5 s) : kept (unbanked x0 x1 x2 x3 x4 x5 s) = kept s := by
  unfold unbanked
  simp only [kept_ite, ite_self, cacheDrop_kept, fillFrame_kept, freeSlot_kept, setPage_kept, unpark_kept]

theorem execUnbankDone_kept (x0 x1 x2 x3 s) {k} (hk : kept s = k) : KeptOut k (execUnbankDone x0 x1 x2 x3 s) := by
  subst hk
  unfold execUnbankDone
  repeat' (first
    | with_reducible rfl
    | with_reducible assumption
    | simp only [kept_ite, keptOut_next, strikeSectors_kept, unbanked_kept]
    | with_reducible refine fst_kept (by assumption) ?_
    | with_reducible refine snd_kept (by assumption) ?_
    | with_reducible refine (readSlots_kept _ _ _ _ (fun _ => ?_)).trans ?_
    | with_reducible refine (foldl_kept _ _ _ (fun _ _ => ?_)).trans ?_
    | split
    | simp only [keptOut_next])

theorem startPass_kept (x0 x1 x2 x3 x4 x5 s) : kept (startPass x0 x1 x2 x3 x4 x5 s) = kept s := by
  unfold startPass
  simp only [kept_mk, kept_fold]

theorem clearWrites_kept (x0 x1 s) : kept (clearWrites x0 x1 s) = kept s := by
  unfold clearWrites
  repeat' (first
    | with_reducible rfl
    | with_reducible assumption
    | simp only [cacheDrop_kept, setPage_kept]
    | with_reducible refine fst_kept (by assumption) ?_
    | with_reducible refine snd_kept (by assumption) ?_
    | with_reducible refine (foldl_kept _ _ _ (fun _ _ => ?_)).trans ?_)

theorem retireRegion_kept (x0 x1 s) : kept (retireRegion x0 x1 s) = kept s := by
  unfold retireRegion
  simp only [State.modPart_kept, clearWrites_kept]

theorem sweepRequest_kept (x0 x1 x2 x3 s) : kept (sweepRequest x0 x1 x2 x3 s) = kept s := by
  unfold sweepRequest
  repeat' (first
    | with_reducible rfl
    | with_reducible assumption
    | simp only [kept_mk, kept_fold, kept_ite, ite_self, retireRegion_kept, startPass_kept]
    | with_reducible refine fst_kept (by assumption) ?_
    | with_reducible refine snd_kept (by assumption) ?_
    | with_reducible refine (foldl_kept _ _ _ (fun _ _ => ?_)).trans ?_
    | split
    | simp only [kept_mk, kept_fold, kept_ite, ite_self, startPass_kept])

theorem execSweepEpochRequest_kept (x0 x1 x2 s) {k} (hk : kept s = k) : KeptOut k (execSweepEpochRequest x0 x1 x2 s) := by
  subst hk
  unfold execSweepEpochRequest
  simp only [kept_mk, kept_fold, keptOut_next, sweepRequest_kept]

theorem execSweepKeyRequest_kept (x0 s) {k} (hk : kept s = k) : KeptOut k (execSweepKeyRequest x0 s) := by
  subst hk
  unfold execSweepKeyRequest
  simp only [kept_mk, kept_fold, keptOut_next, sweepRequest_kept]

theorem execRwcThreshold_kept (x0 x1 x2 s) {k} (hk : kept s = k) : KeptOut k (execRwcThreshold x0 x1 x2 s) := by
  subst hk
  unfold execRwcThreshold
  repeat' (first
    | with_reducible rfl
    | with_reducible assumption
    | simp only [kept_mk, kept_fold, kept_ite, keptOut_next, retireRegion_kept, startPass_kept]
    | with_reducible refine fst_kept (by assumption) ?_
    | with_reducible refine snd_kept (by assumption) ?_
    | with_reducible refine (foldl_kept _ _ _ (fun _ _ => ?_)).trans ?_
    | split
    | simp only [kept_ite, keptOut_next, retireRegion_kept])

theorem execSweepQueuedStart_kept (s) {k} (hk : kept s = k) : KeptOut k (execSweepQueuedStart s) := by
  subst hk
  unfold execSweepQueuedStart
  repeat' (first
    | with_reducible rfl
    | with_reducible assumption
    | simp only [kept_mk, kept_fold, kept_ite, ite_self, keptOut_next, startPass_kept]
    | with_reducible refine fst_kept (by assumption) ?_
    | with_reducible refine snd_kept (by assumption) ?_
    | with_reducible refine (foldl_kept _ _ _ (fun _ _ => ?_)).trans ?_
    | split)

theorem setBm_kept (x0 x1 x2 s) : kept (setBm x0 x1 x2 s) = kept s := by
  unfold setBm
  simp only [kept_mk, kept_fold]

theorem rewriteLine_kept (x0 x1 x2 x3 s) : kept (rewriteLine x0 x1 x2 x3 s) = kept s := by
  unfold rewriteLine
  simp only [State.modPart_kept, setBm_kept, takeLine_kept]

theorem windowLines_kept (x0 x1 x2 x3 s) : kept (windowLines x0 x1 x2 x3 s).1 = kept s := by
  induction x3 generalizing x0 x1 x2 s with
  | nil => unfold windowLines; repeat' (first
      | with_reducible rfl)
  | cons hd tl ih =>
    unfold windowLines
    repeat' (first
      | with_reducible rfl
      | with_reducible assumption
      | simp only [kept_mk, kept_fold, hbmFault_kept, rewriteLine_kept, securityAlarm_kept, ih]
      | with_reducible refine fst_kept (by assumption) ?_
      | with_reducible refine snd_kept (by assumption) ?_
      | with_reducible refine (foldl_kept _ _ _ (fun _ _ => ?_)).trans ?_
      | split)

theorem finishRegions_kept (x0 x1 x2 x3 x4 s) : kept (finishRegions x0 x1 x2 x3 x4 s) = kept s := by
  unfold finishRegions
  simp only [State.modPart_kept]

theorem finishPass_kept (x0 x1 s) : kept (finishPass x0 x1 s) = kept s := by
  unfold finishPass
  simp only [kept_mk, kept_fold, kept_ite, ite_self, State.modPart_kept, passDone_kept]

theorem execSweepWindowStep_kept (x0 x1 x2 x3 s) {k} (hk : kept s = k) : KeptOut k (execSweepWindowStep x0 x1 x2 x3 s) := by
  subst hk
  unfold execSweepWindowStep
  repeat' (first
    | with_reducible rfl
    | with_reducible assumption
    | simp only [kept_mk, kept_fold, kept_ite, ite_self, keptOut_next, finishPass_kept, finishRegions_kept, setBm_kept, strikeLines_kept, windowLines_kept]
    | with_reducible refine fst_kept (by assumption) ?_
    | with_reducible refine snd_kept (by assumption) ?_
    | with_reducible refine (foldl_kept _ _ _ (fun _ _ => ?_)).trans ?_
    | split
    | simp only [kept_ite, keptOut_next, finishPass_kept, finishRegions_kept, setBm_kept])

theorem execSweepResume_kept (x0 x1 s) {k} (hk : kept s = k) : KeptOut k (execSweepResume x0 x1 s) := by
  subst hk
  unfold execSweepResume
  repeat' (first
    | with_reducible rfl
    | with_reducible assumption
    | simp only [kept_mk, kept_fold, kept_ite, ite_self, keptOut_next]
    | with_reducible refine fst_kept (by assumption) ?_
    | with_reducible refine snd_kept (by assumption) ?_
    | with_reducible refine (foldl_kept _ _ _ (fun _ _ => ?_)).trans ?_
    | split)

theorem countRefusal_kept (x0 s) : kept (countRefusal x0 s) = kept s := by
  unfold countRefusal
  simp only [State.modFlue_kept]

theorem quarantineSub_kept (x0 x1 x2 s) : kept (quarantineSub x0 x1 x2 s) = kept s := by
  unfold quarantineSub
  simp only [State.modFlue_kept]

theorem sendRefuse_kept (x0 x1 x2 x3 s) : kept (sendRefuse x0 x1 x2 x3 s) = kept s := by
  unfold sendRefuse
  simp only [kept_ite, ite_self, enqueueFrame_kept]

theorem refuseFrame_kept (x0 x1 x2 s) : kept (refuseFrame x0 x1 x2 s) = kept s := by
  unfold refuseFrame
  simp only [kept_ite, ite_self, countRefusal_kept, partRecord_kept, quarantineSub_kept, sendFrame_kept, sendRefuse_kept]

theorem quarantineLink_kept (x0 x1 s) : kept (quarantineLink x0 x1 s) = kept s := by
  unfold quarantineLink
  repeat' (first
    | with_reducible rfl
    | with_reducible assumption
    | simp only [kept_ite, State.modFlue_kept, countRefusal_kept, hostRecord_kept, partRecord_kept, sendFrame_kept, sendRefuse_kept]
    | with_reducible refine fst_kept (by assumption) ?_
    | with_reducible refine snd_kept (by assumption) ?_
    | with_reducible refine (foldl_kept _ _ _ (fun _ _ => ?_)).trans ?_
    | split
    | simp only [kept_ite, State.modFlue_kept, countRefusal_kept, hostRecord_kept])

theorem execFpxFrame_kept (x0 s) {k} (hk : kept s = k) : KeptOut k (execFpxFrame x0 s) := by
  subst hk
  unfold execFpxFrame
  repeat' (first
    | with_reducible rfl
    | with_reducible assumption
    | simp only [kept_ite, keptOut_next, State.modFlue_kept, enqueueLink_kept, enterRun_kept, healthSpares_kept, quarantineLink_kept, sendOpen_kept]
    | with_reducible refine fst_kept (by assumption) ?_
    | with_reducible refine snd_kept (by assumption) ?_
    | with_reducible exact takeLink_kept (by assumption)
    | with_reducible refine (takeLink_kept (by assumption)).trans ?_
    | with_reducible refine (foldl_kept _ _ _ (fun _ _ => ?_)).trans ?_
    | split
    | simp only [kept_ite, keptOut_next, State.modFlue_kept, enqueueLink_kept, enterRun_kept, healthSpares_kept, quarantineLink_kept])

theorem countMism_kept (x0 s) : kept (countMism x0 s) = kept s := by
  unfold countMism
  simp only [State.modPart_kept]

theorem countStale_kept (x0 s) : kept (countStale x0 s) = kept s := by
  unfold countStale
  simp only [kept_ite, ite_self, State.modFlue_kept]

theorem countDropped_kept (x0 s) : kept (countDropped x0 s) = kept s := by
  unfold countDropped
  simp only [State.modPart_kept]

theorem refuseIn_kept (x0 x1 x2 x3 s) : kept (refuseIn x0 x1 x2 x3 s) = kept s := by
  unfold refuseIn
  simp only [kept_ite, ite_self, countMism_kept, refuseFrame_kept]

theorem takeIn_kept (x0 x1 x2 s) : kept (takeIn x0 x1 x2 s) = kept s := by
  unfold takeIn
  repeat' (first
    | with_reducible rfl
    | with_reducible assumption
    | simp only [kept_ite, ite_self, State.modPart_kept, countDropped_kept, countStale_kept, freeSlots_kept, refuseIn_kept]
    | with_reducible refine fst_kept (by assumption) ?_
    | with_reducible refine snd_kept (by assumption) ?_
    | with_reducible refine (foldl_kept _ _ _ (fun _ _ => ?_)).trans ?_
    | split)

theorem frameArrive_kept (x0 x1 x2 s) : kept (frameArrive x0 x1 x2 s) = kept s := by
  unfold frameArrive
  repeat' (first
    | with_reducible rfl
    | with_reducible assumption
    | simp only [kept_ite, ite_self, State.modPart_kept, forwardPlane_kept, freeSlots_kept, refuseIn_kept, sendHop_kept, takeIn_kept]
    | with_reducible refine fst_kept (by assumption) ?_
    | with_reducible refine snd_kept (by assumption) ?_
    | with_reducible refine (foldl_kept _ _ _ (fun _ _ => ?_)).trans ?_
    | split
    | simp only [kept_ite, forwardPlane_kept, freeSlots_kept, refuseIn_kept, takeIn_kept])

theorem applyHeader_kept (x0 x1 s) : kept (applyHeader x0 x1 s) = kept s := by
  unfold applyHeader
  simp only [State.modFlue_kept]

theorem retransmit_kept (x0 s) : kept (retransmit x0 s) = kept s := by
  unfold retransmit
  repeat' (first
    | with_reducible rfl
    | with_reducible assumption
    | simp only [State.emit_kept, State.modFlue_kept]
    | with_reducible refine fst_kept (by assumption) ?_
    | with_reducible refine snd_kept (by assumption) ?_
    | with_reducible refine (foldl_kept _ _ _ (fun _ _ => ?_)).trans ?_)

theorem discardGroup_kept (x0 s) : kept (discardGroup x0 s) = kept s := by
  unfold discardGroup
  simp only [kept_ite, ite_self, State.modFlue_kept, healthFlue_kept, sendHeader_kept]

theorem frameIn_kept (x0 x1 x2 x3 s) : kept (frameIn x0 x1 x2 x3 s) = kept s := by
  unfold frameIn
  repeat' (first
    | with_reducible rfl
    | with_reducible assumption
    | simp only [kept_ite, State.modFlue_kept, State.takeFree_kept, frameArrive_kept, freeSlots_kept, refuseFrame_kept]
    | with_reducible refine fst_kept (by assumption) ?_
    | with_reducible refine snd_kept (by assumption) ?_
    | with_reducible refine (foldl_kept _ _ _ (fun _ _ => ?_)).trans ?_
    | split
    | simp only [kept_ite, State.modFlue_kept, freeSlots_kept])

theorem takeData_kept (x0 x1 s) : kept (takeData x0 x1 s) = kept s := by
  unfold takeData
  repeat' (first
    | with_reducible rfl
    | with_reducible assumption
    | simp only [kept_ite, State.modFlue_kept, frameIn_kept, freeSlots_kept, refuseFrame_kept]
    | with_reducible refine fst_kept (by assumption) ?_
    | with_reducible refine snd_kept (by assumption) ?_
    | with_reducible refine (foldl_kept _ _ _ (fun _ _ => ?_)).trans ?_
    | split
    | simp only [kept_ite, State.modFlue_kept, freeSlots_kept])

theorem execFlitGroupReceive_kept (x0 x1 s) {k} (hk : kept s = k) : KeptOut k (execFlitGroupReceive x0 x1 s) := by
  subst hk
  unfold execFlitGroupReceive
  repeat' (first
    | with_reducible rfl
    | with_reducible assumption
    | simp only [kept_ite, ite_self, keptOut_next, State.modFlue_kept, applyHeader_kept, discardGroup_kept, freeSlots_kept, retransmit_kept, takeData_kept]
    | with_reducible refine fst_kept (by assumption) ?_
    | with_reducible refine snd_kept (by assumption) ?_
    | with_reducible refine (foldl_kept _ _ _ (fun _ _ => ?_)).trans ?_
    | split)

theorem execHeldFrameDeliver_kept (x0 s) {k} (hk : kept s = k) : KeptOut k (execHeldFrameDeliver x0 s) := by
  subst hk
  unfold execHeldFrameDeliver
  repeat' (first
    | with_reducible rfl
    | with_reducible assumption
    | simp only [kept_ite, ite_self, keptOut_next, State.modPart_kept, countDropped_kept, countStale_kept, freeSlots_kept, refuseIn_kept]
    | with_reducible refine fst_kept (by assumption) ?_
    | with_reducible refine snd_kept (by assumption) ?_
    | with_reducible refine (foldl_kept _ _ _ (fun _ _ => ?_)).trans ?_
    | split
    | simp only [keptOut_next])

theorem execRefuseFrame_kept (x0 s) {k} (hk : kept s = k) : KeptOut k (execRefuseFrame x0 s) := by
  subst hk
  unfold execRefuseFrame
  repeat' (first
    | with_reducible rfl
    | with_reducible assumption
    | simp only [keptOut_next, partRecord_kept, quarantineSub_kept]
    | with_reducible refine fst_kept (by assumption) ?_
    | with_reducible refine snd_kept (by assumption) ?_
    | with_reducible exact takeFrame_kept (by assumption)
    | with_reducible refine (takeFrame_kept (by assumption)).trans ?_
    | with_reducible refine (foldl_kept _ _ _ (fun _ _ => ?_)).trans ?_
    | split
    | simp only [keptOut_next, partRecord_kept, quarantineSub_kept])

theorem execQuarantineReport_kept (x0 s) {k} (hk : kept s = k) : KeptOut k (execQuarantineReport x0 s) := by
  subst hk
  unfold execQuarantineReport
  repeat' (first
    | with_reducible rfl
    | with_reducible assumption
    | simp only [kept_ite, ite_self, keptOut_next, orderAbort_kept, sendFrame_kept]
    | with_reducible refine fst_kept (by assumption) ?_
    | with_reducible refine snd_kept (by assumption) ?_
    | with_reducible exact takeFrame_kept (by assumption)
    | with_reducible refine (takeFrame_kept (by assumption)).trans ?_
    | with_reducible refine (foldl_kept _ _ _ (fun _ _ => ?_)).trans ?_
    | split
    | simp only [keptOut_next, orderAbort_kept, sendFrame_kept])

theorem execFreezeFrame_kept (x0 s) {k} (hk : kept s = k) : KeptOut k (execFreezeFrame x0 s) := by
  subst hk
  unfold execFreezeFrame
  repeat' (first
    | with_reducible rfl
    | with_reducible assumption
    | simp only [keptOut_next, State.modPart_kept]
    | with_reducible refine fst_kept (by assumption) ?_
    | with_reducible refine snd_kept (by assumption) ?_
    | with_reducible exact takeFrame_kept (by assumption)
    | with_reducible refine (takeFrame_kept (by assumption)).trans ?_
    | with_reducible refine (foldl_kept _ _ _ (fun _ _ => ?_)).trans ?_
    | split
    | simp only [keptOut_next, State.modPart_kept])

theorem flueUnquar_kept (x0 x1 s) : kept (flueUnquar x0 x1 s) = kept s := by
  unfold flueUnquar
  repeat' (first
    | with_reducible rfl
    | with_reducible assumption
    | simp only [kept_ite, ite_self, State.modFlue_kept, flueStart_kept, sendOpen_kept]
    | with_reducible refine fst_kept (by assumption) ?_
    | with_reducible refine snd_kept (by assumption) ?_
    | with_reducible refine (foldl_kept _ _ _ (fun _ _ => ?_)).trans ?_
    | split)

theorem execFlueUnquar_kept (x0 x1 s) {k} (hk : kept s = k) : KeptOut k (execFlueUnquar x0 x1 s) := by
  subst hk
  unfold execFlueUnquar
  simp only [keptOut_next, flueUnquar_kept]

theorem stokerFreeze_kept (x0 s) : kept (stokerFreeze x0 s) = kept s := by
  unfold stokerFreeze
  simp only [kept_ite, ite_self, State.modPart_kept, sendFrame_kept]

theorem execRouteUpdate_kept (x0 s) {k} (hk : kept s = k) : KeptOut k (execRouteUpdate x0 s) := by
  subst hk
  unfold execRouteUpdate
  repeat' (first
    | with_reducible rfl
    | with_reducible assumption
    | simp only [keptOut_next, State.modPart_kept, stokerFreeze_kept]
    | with_reducible refine fst_kept (by assumption) ?_
    | with_reducible refine snd_kept (by assumption) ?_
    | with_reducible refine (foldl_kept _ _ _ (fun _ _ => ?_)).trans ?_
    | split)

theorem execDataFrame_kept (x0 s) {k} (hk : kept s = k) : KeptOut k (execDataFrame x0 s) := by
  subst hk
  unfold execDataFrame
  repeat' (first
    | with_reducible rfl
    | with_reducible assumption
    | simp only [kept_ite, ite_self, keptOut_next, State.modPart_kept, loseContext_kept, sendFrame_kept, storeScratch_kept, tallyAdd_kept]
    | with_reducible refine fst_kept (by assumption) ?_
    | with_reducible refine snd_kept (by assumption) ?_
    | with_reducible exact takeFrame_kept (by assumption)
    | with_reducible refine (takeFrame_kept (by assumption)).trans ?_
    | with_reducible refine (foldl_kept _ _ _ (fun _ _ => ?_)).trans ?_
    | split
    | simp only [keptOut_next, State.modPart_kept, loseContext_kept, sendFrame_kept, storeScratch_kept, tallyAdd_kept])

theorem execDackFrame_kept (x0 s) {k} (hk : kept s = k) : KeptOut k (execDackFrame x0 s) := by
  subst hk
  unfold execDackFrame
  repeat' (first
    | with_reducible rfl
    | with_reducible assumption
    | simp only [kept_ite, ite_self, keptOut_next, moverFault_kept, setJob_kept, tallyAdd_kept, useCount_kept]
    | with_reducible refine fst_kept (by assumption) ?_
    | with_reducible refine snd_kept (by assumption) ?_
    | with_reducible exact takeFrame_kept (by assumption)
    | with_reducible refine (takeFrame_kept (by assumption)).trans ?_
    | with_reducible refine (foldl_kept _ _ _ (fun _ _ => ?_)).trans ?_
    | split
    | simp only [keptOut_next, moverFault_kept, setJob_kept, tallyAdd_kept, useCount_kept])

theorem execHeartbeatSend_kept (x0 s) {k} (hk : kept s = k) : KeptOut k (execHeartbeatSend x0 s) := by
  subst hk
  unfold execHeartbeatSend
  repeat' (first
    | with_reducible rfl
    | with_reducible assumption
    | simp only [kept_ite, keptOut_next, State.modPart_kept, State.takeFree_kept, sendFrame_kept]
    | with_reducible refine fst_kept (by assumption) ?_
    | with_reducible refine snd_kept (by assumption) ?_
    | with_reducible refine (foldl_kept _ _ _ (fun _ _ => ?_)).trans ?_
    | split
    | simp only [keptOut_next, State.modPart_kept])

theorem execHeartbeatFrame_kept (x0 s) {k} (hk : kept s = k) : KeptOut k (execHeartbeatFrame x0 s) := by
  subst hk
  unfold execHeartbeatFrame
  repeat' (first
    | with_reducible rfl
    | with_reducible assumption
    | simp only [kept_ite, ite_self, keptOut_next, State.modPart_kept, sendFrame_kept]
    | with_reducible refine fst_kept (by assumption) ?_
    | with_reducible refine snd_kept (by assumption) ?_
    | with_reducible exact takeFrame_kept (by assumption)
    | with_reducible refine (takeFrame_kept (by assumption)).trans ?_
    | with_reducible refine (foldl_kept _ _ _ (fun _ _ => ?_)).trans ?_
    | split
    | simp only [kept_ite, ite_self, keptOut_next, State.modPart_kept, sendFrame_kept])

theorem becomeStoker_kept (x0 s) : kept (becomeStoker x0 s) = kept s := by
  unfold becomeStoker
  simp only [State.modPart_kept, sendFrame_kept]

theorem execStokerFrame_kept (x0 s) {k} (hk : kept s = k) : KeptOut k (execStokerFrame x0 s) := by
  subst hk
  unfold execStokerFrame
  repeat' (first
    | with_reducible rfl
    | with_reducible assumption
    | simp only [kept_ite, ite_self, keptOut_next, State.modPart_kept, sendFrame_kept]
    | with_reducible refine fst_kept (by assumption) ?_
    | with_reducible refine snd_kept (by assumption) ?_
    | with_reducible exact takeFrame_kept (by assumption)
    | with_reducible refine (takeFrame_kept (by assumption)).trans ?_
    | with_reducible refine (foldl_kept _ _ _ (fun _ _ => ?_)).trans ?_
    | split
    | simp only [kept_ite, ite_self, keptOut_next, State.modPart_kept, sendFrame_kept])

theorem modInst_kept (x0 x1 x2 x3 x4 s) : kept (modInst x0 x1 x2 x3 x4 s) = kept s := by
  unfold modInst
  simp only [State.modPart_kept]

theorem sendFrames_kept (x0 x1 x2 x3 x4 x5 x6 x7 s) : kept (sendFrames x0 x1 x2 x3 x4 x5 x6 x7 s) = kept s := by
  unfold sendFrames
  repeat' (first
    | with_reducible rfl
    | with_reducible assumption
    | simp only [kept_ite, sendFrame_kept, useCount_kept]
    | with_reducible refine fst_kept (by assumption) ?_
    | with_reducible refine snd_kept (by assumption) ?_
    | with_reducible refine (foldl_kept _ _ _ (fun _ _ => ?_)).trans ?_
    | split
    | simp only [kept_ite, sendFrame_kept])

theorem collAdvance_kept (x0 x1 x2 x3 s) : kept (collAdvance x0 x1 x2 x3 s) = kept s := by
  unfold collAdvance
  repeat' (first
    | with_reducible rfl
    | with_reducible assumption
    | simp only [modInst_kept, sendFrames_kept]
    | with_reducible refine fst_kept (by assumption) ?_
    | with_reducible refine snd_kept (by assumption) ?_
    | with_reducible refine (foldl_kept _ _ _ (fun _ _ => ?_)).trans ?_
    | split)

theorem flueRead_kept (x0 x1 s) {k} (hk : kept s = k) : KeptPiece k (flueRead x0 x1 s) := by
  subst hk
  unfold flueRead
  repeat' (first
    | with_reducible rfl
    | with_reducible assumption
    | simp only [keptPiece_moved, keptPiece_over, keptPiece_ite, parityFault_kept]
    | with_reducible refine fst_kept (by assumption) ?_
    | with_reducible refine snd_kept (by assumption) ?_
    | with_reducible refine piece_moved (by assumption) ?_
    | with_reducible refine piece_stalled (by assumption) ?_
    | with_reducible refine piece_over (by assumption) ?_
    | with_reducible refine moverReadV_kept  _ _ _ _ _ _ _ ?_
    | with_reducible refine (foldl_kept _ _ _ (fun _ _ => ?_)).trans ?_
    | split
    | simp only [keptPiece_ite])

theorem flueWrite_kept (x0 x1 x2 x3 s) {k} (hk : kept s = k) : KeptPiece k (flueWrite x0 x1 x2 x3 s) := by
  subst hk
  unfold flueWrite
  repeat' (first
    | with_reducible rfl
    | with_reducible assumption
    | simp only [keptPiece_moved, keptPiece_ite, storeScratch_kept]
    | with_reducible refine fst_kept (by assumption) ?_
    | with_reducible refine snd_kept (by assumption) ?_
    | with_reducible refine piece_moved (by assumption) ?_
    | with_reducible refine piece_stalled (by assumption) ?_
    | with_reducible refine piece_over (by assumption) ?_
    | with_reducible refine moverWriteV_kept  _ _ _ _ _ _ _ ?_
    | with_reducible refine (foldl_kept _ _ _ (fun _ _ => ?_)).trans ?_
    | split
    | simp only [keptPiece_moved, keptPiece_ite, storeScratch_kept])

theorem readSources_kept (x0 x1 x2 s) : kept (readSources x0 x1 x2 s).1 = kept s := by
  induction x2 generalizing x0 x1 s with
  | nil => unfold readSources; repeat' (first
      | with_reducible rfl)
  | cons hd tl ih =>
    unfold readSources
    repeat' (first
      | with_reducible rfl
      | with_reducible assumption
      | simp only [ih]
      | with_reducible refine fst_kept (by assumption) ?_
      | with_reducible refine snd_kept (by assumption) ?_
      | with_reducible refine piece_moved (by assumption) ?_
      | with_reducible refine piece_stalled (by assumption) ?_
      | with_reducible refine piece_over (by assumption) ?_
      | with_reducible refine flueRead_kept  _ _ _ ?_
      | with_reducible refine (foldl_kept _ _ _ (fun _ _ => ?_)).trans ?_
      | split
      | simp only [ih])

theorem formValue_kept (x0 x1 x2 x3 s) : kept (formValue x0 x1 x2 x3 s) = kept s := by
  unfold formValue
  repeat' (first
    | with_reducible rfl
    | with_reducible assumption
    | simp only [id_eq, kept_ite, ite_self, collAdvance_kept, modInst_kept, readSources_kept]
    | with_reducible refine fst_kept (by assumption) ?_
    | with_reducible refine snd_kept (by assumption) ?_
    | with_reducible refine (foldl_kept _ _ _ (fun _ _ => ?_)).trans ?_
    | split
    | simp only [id_eq, kept_ite, collAdvance_kept, modInst_kept])

theorem collJoin_kept (x0 x1 x2 x3 s) : kept (collJoin x0 x1 x2 x3 s) = kept s := by
  unfold collJoin
  repeat' (first
    | with_reducible rfl
    | with_reducible assumption
    | simp only [kept_ite, ite_self, countMism_kept, modInst_kept, refuseFrame_kept]
    | with_reducible refine fst_kept (by assumption) ?_
    | with_reducible refine snd_kept (by assumption) ?_
    | with_reducible refine (foldl_kept _ _ _ (fun _ _ => ?_)).trans ?_
    | split
    | (simp only))

theorem leavePool_kept (x0 x1 x2 s) : kept (leavePool x0 x1 x2 s) = kept s := by
  unfold leavePool
  simp only [kept_ite, ite_self, State.modPart_kept, freeSlots_kept]

theorem collTake_kept (x0 x1 s) : kept (collTake x0 x1 s) = kept s := by
  induction x1 generalizing x0 s with
  | nil => unfold collTake; repeat' (first
      | with_reducible rfl)
  | cons hd tl ih =>
    unfold collTake
    repeat' (first
      | with_reducible rfl
      | with_reducible assumption
      | simp only [kept_ite, ite_self, State.modPart_kept, collAdvance_kept, collJoin_kept, countMism_kept, leavePool_kept, refuseFrame_kept, ih]
      | with_reducible refine fst_kept (by assumption) ?_
      | with_reducible refine snd_kept (by assumption) ?_
      | with_reducible refine (foldl_kept _ _ _ (fun _ _ => ?_)).trans ?_
      | split)

theorem execCollFrame_kept (x0 s) {k} (hk : kept s = k) : KeptOut k (execCollFrame x0 s) := by
  subst hk
  unfold execCollFrame
  simp only [keptOut_next, bufMark_kept, collTake_kept]

theorem joinEarly_kept (x0 x1 x2 x3 s) : kept (joinEarly x0 x1 x2 x3 s) = kept s := by
  unfold joinEarly
  repeat' (first
    | with_reducible rfl
    | with_reducible assumption
    | simp only [State.modPart_kept, bufMark_kept, collJoin_kept]
    | with_reducible refine fst_kept (by assumption) ?_
    | with_reducible refine snd_kept (by assumption) ?_
    | with_reducible refine (foldl_kept _ _ _ (fun _ _ => ?_)).trans ?_
    | split
    | simp only [bufMark_kept])

theorem flueEnqueue_kept (x0 x1 x2 x3 s) : kept (flueEnqueue x0 x1 x2 x3 s) = kept s := by
  unfold flueEnqueue
  simp only [State.modEmber_kept, countLaunch_kept]

theorem collBody_kept (x0 x1 x2 s) {k} (hk : kept s = k) : KeptEff k (collBody x0 x1 x2 s) := by
  subst hk
  unfold collBody
  repeat' (first
    | with_reducible rfl
    | with_reducible assumption
    | simp only [ite_self, keptEff_ok, keptEff_stay, keptEff_exc, keptEff_ite, State.modPart_kept, countMism_kept, flueEnqueue_kept, formValue_kept, joinEarly_kept, loseContext_kept, modAt_kept, modInst_kept]
    | with_reducible refine fst_kept (by assumption) ?_
    | with_reducible refine snd_kept (by assumption) ?_
    | with_reducible refine (foldl_kept _ _ _ (fun _ _ => ?_)).trans ?_
    | split
    | simp only [keptEff_exc, keptEff_ite])

theorem issueColl_kept (x0 x1 x2 x3 s) : kept (issueColl x0 x1 x2 x3 s) = kept s := by
  unfold issueColl
  repeat' (first
    | with_reducible rfl
    | with_reducible assumption
    | simp only [id_eq, kept_mk, kept_fold, kept_ite, ite_self, keptEff_ok, keptEff_stay, keptEff_wait, keptEff_exc, keptEff_ite, keptOut_next, keptOut_ite, keptPiece_moved, keptPiece_stalled, keptPiece_over, keptPiece_ite, State.modPower, State.modLc]
    | with_reducible refine fst_kept (by assumption) ?_
    | with_reducible refine snd_kept (by assumption) ?_
    | with_reducible refine collBody_kept  _ _ _ _ ?_
    | with_reducible refine (issue_kept _ _ _ _ _ _ _ _ _ (fun _ => ?_)).trans ?_)

theorem execDtredAll_kept (x0 x1 s) {k} (hk : kept s = k) : KeptOut k (execDtredAll x0 x1 s) := by
  subst hk
  unfold execDtredAll
  simp only [keptOut_next, issueColl_kept]

theorem execDtredRs_kept (x0 x1 s) {k} (hk : kept s = k) : KeptOut k (execDtredRs x0 x1 s) := by
  subst hk
  unfold execDtredRs
  simp only [keptOut_next, issueColl_kept]

theorem execDtbc_kept (x0 x1 s) {k} (hk : kept s = k) : KeptOut k (execDtbc x0 x1 s) := by
  subst hk
  unfold execDtbc
  simp only [keptOut_next, issueColl_kept]

theorem execDtbar_kept (x0 x1 s) {k} (hk : kept s = k) : KeptOut k (execDtbar x0 x1 s) := by
  subst hk
  unfold execDtbar
  simp only [keptOut_next, issueColl_kept]

theorem dropFlueJob_kept (x0 x1 s) : kept (dropFlueJob x0 x1 s) = kept s := by
  unfold dropFlueJob
  simp only [State.modEmber_kept, returnBe_kept]

theorem collFinish_kept (x0 x1 x2 x3 x4 s) : kept (collFinish x0 x1 x2 x3 x4 s) = kept s := by
  unfold collFinish
  repeat' (first
    | with_reducible rfl
    | with_reducible assumption
    | simp only [kept_ite, ite_self, State.modPart_kept, State.modThread_kept, State.takeFree_kept, dropFlueJob_kept, modInst_kept, tallyAdd_kept]
    | with_reducible refine fst_kept (by assumption) ?_
    | with_reducible refine snd_kept (by assumption) ?_
    | with_reducible refine (foldl_kept _ _ _ (fun _ _ => ?_)).trans ?_
    | split
    | simp only [kept_ite, ite_self, State.modPart_kept, State.modThread_kept, dropFlueJob_kept, modInst_kept, tallyAdd_kept])

theorem execCollectiveComplete_kept (x0 x1 x2 x3 s) {k} (hk : kept s = k) : KeptOut k (execCollectiveComplete x0 x1 x2 x3 s) := by
  subst hk
  unfold execCollectiveComplete
  repeat' (first
    | with_reducible rfl
    | with_reducible assumption
    | simp only [kept_ite, keptOut_next, State.modEmber_kept, collFinish_kept, dropFlueJob_kept, formValue_kept, strikeLines_kept]
    | with_reducible refine fst_kept (by assumption) ?_
    | with_reducible refine snd_kept (by assumption) ?_
    | with_reducible refine piece_moved (by assumption) ?_
    | with_reducible refine piece_stalled (by assumption) ?_
    | with_reducible refine piece_over (by assumption) ?_
    | with_reducible refine flueWrite_kept  _ _ _ _ _ ?_
    | with_reducible refine (foldl_kept _ _ _ (fun _ _ => ?_)).trans ?_
    | split
    | simp only [keptOut_next, collFinish_kept, dropFlueJob_kept])

theorem execRingstep_kept (x0 x1 s) {k} (hk : kept s = k) : KeptOut k (execRingstep x0 x1 s) := by
  subst hk
  unfold execRingstep
  repeat' (first
    | with_reducible rfl
    | with_reducible assumption
    | simp only [keptEff_ok, keptEff_exc, keptEff_ite, keptOut_next, flueEnqueue_kept, modAt_kept, sendFrame_kept]
    | with_reducible refine fst_kept (by assumption) ?_
    | with_reducible refine snd_kept (by assumption) ?_
    | with_reducible refine (issue_kept _ _ _ _ _ _ _ _ _ (fun _ => ?_)).trans ?_
    | with_reducible refine (foldl_kept _ _ _ (fun _ _ => ?_)).trans ?_
    | split
    | simp only [keptOut_next])

theorem setFlueJob_kept (x0 x1 x2 s) : kept (setFlueJob x0 x1 x2 s) = kept s := by
  unfold setFlueJob
  simp only [kept_ite, ite_self, State.modEmber_kept, dropFlueJob_kept]

theorem execRingReadyFrame_kept (x0 s) {k} (hk : kept s = k) : KeptOut k (execRingReadyFrame x0 s) := by
  subst hk
  unfold execRingReadyFrame
  repeat' (first
    | with_reducible rfl
    | with_reducible assumption
    | simp only [keptOut_next, dropFlueJob_kept, sendFrameVia_kept, setFlueJob_kept, useCount_kept]
    | with_reducible refine fst_kept (by assumption) ?_
    | with_reducible refine snd_kept (by assumption) ?_
    | with_reducible refine piece_moved (by assumption) ?_
    | with_reducible refine piece_stalled (by assumption) ?_
    | with_reducible refine piece_over (by assumption) ?_
    | with_reducible exact takeFrame_kept (by assumption)
    | with_reducible refine (takeFrame_kept (by assumption)).trans ?_
    | with_reducible refine flueRead_kept  _ _ _ ?_
    | with_reducible refine (foldl_kept _ _ _ (fun _ _ => ?_)).trans ?_
    | split
    | simp only [keptOut_next, dropFlueJob_kept, sendFrameVia_kept, setFlueJob_kept, useCount_kept])

theorem execRingDataFrame_kept (x0 s) {k} (hk : kept s = k) : KeptOut k (execRingDataFrame x0 s) := by
  subst hk
  unfold execRingDataFrame
  repeat' (first
    | with_reducible rfl
    | with_reducible assumption
    | simp only [kept_mk, kept_fold, keptOut_next, countMism_kept, dropFlueJob_kept, refuseFrame_kept, sendFrame_kept, setFlueJob_kept, tallyAdd_kept]
    | with_reducible refine fst_kept (by assumption) ?_
    | with_reducible refine snd_kept (by assumption) ?_
    | with_reducible refine piece_moved (by assumption) ?_
    | with_reducible refine piece_stalled (by assumption) ?_
    | with_reducible refine piece_over (by assumption) ?_
    | with_reducible exact takeFrame_kept (by assumption)
    | with_reducible refine (takeFrame_kept (by assumption)).trans ?_
    | with_reducible refine flueWrite_kept  _ _ _ _ _ ?_
    | with_reducible refine (foldl_kept _ _ _ (fun _ _ => ?_)).trans ?_
    | split
    | simp only [kept_mk, kept_fold, keptOut_next, countMism_kept, dropFlueJob_kept, refuseFrame_kept, sendFrame_kept, setFlueJob_kept, tallyAdd_kept])

theorem execRingAckFrame_kept (x0 s) {k} (hk : kept s = k) : KeptOut k (execRingAckFrame x0 s) := by
  subst hk
  unfold execRingAckFrame
  repeat' (first
    | with_reducible rfl
    | with_reducible assumption
    | simp only [keptOut_next, setFlueJob_kept, tallyAdd_kept]
    | with_reducible refine fst_kept (by assumption) ?_
    | with_reducible refine snd_kept (by assumption) ?_
    | with_reducible exact takeFrame_kept (by assumption)
    | with_reducible refine (takeFrame_kept (by assumption)).trans ?_
    | with_reducible refine (foldl_kept _ _ _ (fun _ _ => ?_)).trans ?_
    | split
    | simp only [keptOut_next, setFlueJob_kept, tallyAdd_kept])

theorem writeBytes_kept (x0 s) : kept (writeBytes x0 s).1 = kept s := by
  unfold writeBytes
  repeat' (first
    | with_reducible rfl
    | with_reducible assumption
    | simp only [readChecked_kept]
    | with_reducible refine fst_kept (by assumption) ?_
    | with_reducible refine snd_kept (by assumption) ?_
    | with_reducible refine (foldl_kept _ _ _ (fun _ _ => ?_)).trans ?_
    | split)

theorem execSlotWriteDone_kept (x0 x1 s) {k} (hk : kept s = k) : KeptOut k (execSlotWriteDone x0 x1 s) := by
  subst hk
  unfold execSlotWriteDone
  repeat' (first
    | with_reducible rfl
    | with_reducible assumption
    | simp only [kept_ite, ite_self, keptOut_next, State.modPart_kept, askSeq_kept, bankFail_kept, ckAbandon_kept, programSlot_kept, unpinUnit_kept, writeBytes_kept]
    | with_reducible refine fst_kept (by assumption) ?_
    | with_reducible refine snd_kept (by assumption) ?_
    | with_reducible refine (foldl_kept _ _ _ (fun _ _ => ?_)).trans ?_
    | split
    | simp only [keptOut_next, State.modPart_kept, bankFail_kept, ckAbandon_kept, programSlot_kept, unpinUnit_kept])

theorem execStripeProgramFail_kept (x0 x1 x2 s) {k} (hk : kept s = k) : KeptOut k (execStripeProgramFail x0 x1 x2 s) := by
  subst hk
  unfold execStripeProgramFail
  repeat' (first
    | with_reducible rfl
    | with_reducible assumption
    | simp only [kept_ite, ite_self, keptOut_next, State.modKs_kept, bankFail_kept, ckAbandon_kept, journal_kept]
    | with_reducible refine fst_kept (by assumption) ?_
    | with_reducible refine snd_kept (by assumption) ?_
    | with_reducible refine (foldl_kept _ _ _ (fun _ _ => ?_)).trans ?_
    | split)

theorem execStripeEraseDone_kept (x0 s) {k} (hk : kept s = k) : KeptOut k (execStripeEraseDone x0 s) := by
  subst hk
  unfold execStripeEraseDone
  simp only [kept_ite, ite_self, keptOut_next, State.modKs_kept]

theorem execJournalSectorProgrammed_kept (s) {k} (hk : kept s = k) : KeptOut k (execJournalSectorProgrammed s) := by
  subst hk
  unfold execJournalSectorProgrammed
  simp only [kept_ite, ite_self, keptOut_next, State.modKs_kept]

theorem execKsLoadDone_kept (x0 s) {k} (hk : kept s = k) : KeptOut k (execKsLoadDone x0 s) := by
  subst hk
  unfold execKsLoadDone
  simp only [kept_ite, ite_self, keptOut_next, State.modKs_kept, setFault_kept, sootEvent_kept]

theorem execKsCompact_kept (s) {k} (hk : kept s = k) : KeptOut k (execKsCompact s) := by
  subst hk
  unfold execKsCompact
  simp only [kept_ite, ite_self, keptOut_next, State.modKs_kept]

theorem execKsCompactDone_kept (s) {k} (hk : kept s = k) : KeptOut k (execKsCompactDone s) := by
  subst hk
  unfold execKsCompactDone
  repeat' (first
    | with_reducible rfl
    | with_reducible assumption
    | simp only [kept_ite, ite_self, keptOut_next, State.modKs_kept, State.takeFree_kept]
    | with_reducible refine fst_kept (by assumption) ?_
    | with_reducible refine snd_kept (by assumption) ?_
    | with_reducible refine (foldl_kept _ _ _ (fun _ _ => ?_)).trans ?_
    | split)

theorem ksFormat_kept (s) : kept (ksFormat s) = kept s := by
  unfold ksFormat
  repeat' (first
    | with_reducible rfl
    | with_reducible assumption
    | simp only [kept_ite, State.modKs_kept, State.modPart_kept, clearFault_kept, releaseReservation_kept]
    | with_reducible refine fst_kept (by assumption) ?_
    | with_reducible refine snd_kept (by assumption) ?_
    | with_reducible refine (foldl_kept _ _ _ (fun _ _ => ?_)).trans ?_
    | split
    | simp only [clearFault_kept])

theorem execKsFormat_kept (s) {k} (hk : kept s = k) : KeptOut k (execKsFormat s) := by
  subst hk
  unfold execKsFormat
  simp only [keptOut_next, ksFormat_kept]

end Sys2Proof.Machine
end

