-- ==== Sys2Proof/Laws/KeptJob.lean ====
section
/-! SUPPORT. `kept` is left alone by checkpoints, aborts, launches and the relight. -/

set_option linter.all false

namespace Sys2Proof.Machine

theorem ckAnnounce_kept (x0 s) : kept (ckAnnounce x0 s) = kept s := by
  unfold ckAnnounce
  simp only [kept_ite, ite_self, State.modPart_kept, sendFrame_kept]

theorem execPwrWarn_kept (x0 s) {k} (hk : kept s = k) : KeptOut k (execPwrWarn s x0) := by
  subst hk
  unfold execPwrWarn
  repeat' (first
    | with_reducible rfl
    | with_reducible assumption
    | simp only [kept_mk, kept_fold, kept_ite, keptOut_next, ckAsk_kept]
    | with_reducible refine fst_kept (by assumption) ?_
    | with_reducible refine snd_kept (by assumption) ?_
    | with_reducible refine (foldl_kept _ _ _ (fun _ _ => ?_)).trans ?_
    | split
    | simp only [keptOut_next])

theorem execPwrWarnDeassert_kept (s) {k} (hk : kept s = k) : KeptOut k (execPwrWarnDeassert s) := by
  subst hk
  unfold execPwrWarnDeassert
  simp only [kept_mk, kept_fold, keptOut_next]

theorem execCkReq_kept (x0 s) {k} (hk : kept s = k) : KeptOut k (execCkReq x0 s) := by
  subst hk
  unfold execCkReq
  simp only [keptOut_next, ckAsk_kept]

theorem execCheckpointRequest_kept (x0 s) {k} (hk : kept s = k) : KeptOut k (execCheckpointRequest x0 s) := by
  subst hk
  unfold execCheckpointRequest
  repeat' (first
    | with_reducible rfl
    | with_reducible assumption
    | simp only [kept_ite, ite_self, keptOut_next, State.modPart_kept, ckAnnounce_kept, sendFrame_kept]
    | with_reducible refine fst_kept (by assumption) ?_
    | with_reducible refine snd_kept (by assumption) ?_
    | with_reducible exact takeFrame_kept (by assumption)
    | with_reducible refine (takeFrame_kept (by assumption)).trans ?_
    | with_reducible refine (foldl_kept _ _ _ (fun _ _ => ?_)).trans ?_
    | split
    | simp only [keptOut_next, State.modPart_kept, ckAnnounce_kept, sendFrame_kept])

theorem stopExport_kept (x0 x1 x2 s) : kept (stopExport x0 x1 x2 s) = kept s := by
  unfold stopExport
  repeat' (first
    | with_reducible rfl
    | with_reducible assumption
    | simp only [State.modPart_kept, completeCmd_kept]
    | with_reducible refine fst_kept (by assumption) ?_
    | with_reducible refine snd_kept (by assumption) ?_
    | with_reducible refine (foldl_kept _ _ _ (fun _ _ => ?_)).trans ?_
    | split)

theorem execCkptAnnounce_kept (x0 s) {k} (hk : kept s = k) : KeptOut k (execCkptAnnounce x0 s) := by
  subst hk
  unfold execCkptAnnounce
  repeat' (first
    | with_reducible rfl
    | with_reducible assumption
    | simp only [kept_ite, keptOut_next, State.modKs_kept, State.modPart_kept, ckAbandon_kept, freshKey_kept, journal_kept, releaseGen_kept, stopExport_kept]
    | with_reducible refine fst_kept (by assumption) ?_
    | with_reducible refine snd_kept (by assumption) ?_
    | with_reducible exact takeFrame_kept (by assumption)
    | with_reducible refine (takeFrame_kept (by assumption)).trans ?_
    | with_reducible refine (foldl_kept _ _ _ (fun _ _ => ?_)).trans ?_
    | split
    | simp only [keptOut_next, State.modKs_kept, State.modPart_kept, ckAbandon_kept, freshKey_kept, journal_kept, stopExport_kept])

theorem genState_kept (x0 x1 x2 s) : kept (genState x0 x1 x2 s) = kept s := by
  unfold genState
  repeat' (first
    | with_reducible rfl
    | with_reducible assumption
    | simp only [journal_kept]
    | with_reducible refine fst_kept (by assumption) ?_
    | with_reducible refine snd_kept (by assumption) ?_
    | with_reducible refine (foldl_kept _ _ _ (fun _ _ => ?_)).trans ?_
    | split)

theorem execShardCopyDone_kept (x0 x1 s) {k} (hk : kept s = k) : KeptOut k (execShardCopyDone x0 x1 s) := by
  subst hk
  unfold execShardCopyDone
  repeat' (first
    | with_reducible rfl
    | with_reducible assumption
    | simp only [kept_ite, ite_self, keptOut_next, State.modPart_kept, askSeq_kept, ckAbandon_kept, genState_kept, programSlot_kept, sendFrame_kept, signOwn_kept]
    | with_reducible refine fst_kept (by assumption) ?_
    | with_reducible refine snd_kept (by assumption) ?_
    | with_reducible refine (readSlots_kept _ _ _ _ (fun _ => ?_)).trans ?_
    | with_reducible refine (foldl_kept _ _ _ (fun _ _ => ?_)).trans ?_
    | split
    | simp only [kept_ite, keptOut_next, State.modPart_kept, ckAbandon_kept, genState_kept, programSlot_kept, sendFrame_kept])

theorem execCkrepShard_kept (x0 s) {k} (hk : kept s = k) : KeptOut k (execCkrepShard x0 s) := by
  subst hk
  unfold execCkrepShard
  repeat' (first
    | with_reducible rfl
    | with_reducible assumption
    | simp only [kept_ite, keptOut_next, State.modPart_kept, sendFrame_kept, signOwn_kept]
    | with_reducible refine fst_kept (by assumption) ?_
    | with_reducible refine snd_kept (by assumption) ?_
    | with_reducible exact takeFrame_kept (by assumption)
    | with_reducible refine (takeFrame_kept (by assumption)).trans ?_
    | with_reducible refine (readSlots_kept _ _ _ _ (fun _ => ?_)).trans ?_
    | with_reducible refine (foldl_kept _ _ _ (fun _ _ => ?_)).trans ?_
    | split
    | simp only [kept_ite, keptOut_next, State.modPart_kept, sendFrame_kept])

theorem execCkptManifest_kept (x0 x1 s) {k} (hk : kept s = k) : KeptOut k (execCkptManifest x0 x1 s) := by
  subst hk
  unfold execCkptManifest
  repeat' (first
    | with_reducible rfl
    | with_reducible assumption
    | simp only [id_eq, kept_ite, ite_self, keptOut_next, State.modPart_kept, askSeq_kept, ckAbandon_kept, ckRecord_kept, genState_kept, sendFrame_kept]
    | with_reducible refine fst_kept (by assumption) ?_
    | with_reducible refine snd_kept (by assumption) ?_
    | with_reducible exact programPieces_kept (by assumption)
    | with_reducible refine (programPieces_kept (by assumption)).trans ?_
    | with_reducible exact takeFrame_kept (by assumption)
    | with_reducible refine (takeFrame_kept (by assumption)).trans ?_
    | with_reducible refine (readSlots_kept _ _ _ _ (fun _ => ?_)).trans ?_
    | with_reducible refine (foldl_kept _ _ _ (fun _ _ => ?_)).trans ?_
    | split
    | simp only [kept_ite, ite_self, keptOut_next, State.modPart_kept, askSeq_kept, ckAbandon_kept, ckRecord_kept, genState_kept, sendFrame_kept])

theorem execCkrepCommitted_kept (x0 s) {k} (hk : kept s = k) : KeptOut k (execCkrepCommitted x0 s) := by
  subst hk
  unfold execCkrepCommitted
  repeat' (first
    | with_reducible rfl
    | with_reducible assumption
    | simp only [kept_ite, ite_self, keptOut_next, State.modPart_kept, ckAnnounce_kept]
    | with_reducible refine fst_kept (by assumption) ?_
    | with_reducible refine snd_kept (by assumption) ?_
    | with_reducible exact takeFrame_kept (by assumption)
    | with_reducible refine (takeFrame_kept (by assumption)).trans ?_
    | with_reducible refine (foldl_kept _ _ _ (fun _ _ => ?_)).trans ?_
    | split
    | simp only [kept_ite, ite_self, keptOut_next, State.modPart_kept, ckAnnounce_kept])

theorem discardTree_kept (x0 x1 s) : kept (discardTree x0 x1 s) = kept s := by
  unfold discardTree
  simp only [State.mapEmbers_kept, State.modPart_kept, dropArrived_kept, returnBe_kept]

theorem takeEpoch_kept (x0 x1 s) : kept (takeEpoch x0 x1 s) = kept s := by
  unfold takeEpoch
  simp only [State.modPart_kept, ckAbandon_kept, discardTree_kept, reannounce_kept]

theorem giveBack_kept (x0 x1 s) : kept (giveBack x0 x1 s) = kept s := by
  unfold giveBack
  simp only [State.modPart_kept]

theorem revertUnits_kept (x0 x1 s) : kept (revertUnits x0 x1 s) = kept s := by
  unfold revertUnits
  simp only [State.modPart_kept, giveBack_kept]

theorem restartParity_kept (x0 s) : kept (restartParity x0 s) = kept s := by
  unfold restartParity
  simp only [kept_ite, ite_self, State.modPart_kept, giveBack_kept, sendParity_kept]

theorem jobSeal_kept (x0 x1 s) : kept (jobSeal x0 x1 s) = kept s := by
  unfold jobSeal
  simp only [kept_ite, ite_self, State.modPart_kept, ckSnapshot_kept, giveBack_kept]

theorem sealFirst_kept (x0 s) : kept (sealFirst x0 s) = kept s := by
  unfold sealFirst
  simp only [kept_ite, ite_self, jobSeal_kept]

theorem replayFrom_kept (x0 x1 x2 x3 x4 x5 s) : kept (replayFrom x0 x1 x2 x3 x4 x5 s) = kept s := by
  unfold replayFrom
  simp only [kept_ite, ite_self, State.mapEmbers_kept, State.modPart_kept, applyImage_kept, ckAnnounce_kept, discardLc_kept, dropArrived_kept, loadHeaps_kept, pauseBusy_kept, restartParity_kept, revertUnits_kept, sealFirst_kept, startRetires_kept, startStep_kept, stokerRelease_kept, takeEpoch_kept]

theorem resumeLc_kept (x0 s) : kept (resumeLc x0 s) = kept s := by
  unfold resumeLc
  simp only [kept_ite, ite_self, State.modPart_kept, ckAnnounce_kept, releaseLc_kept, stokerRelease_kept]

theorem execSpareCopyDone_kept (x0 s) {k} (hk : kept s = k) : KeptOut k (execSpareCopyDone x0 s) := by
  subst hk
  unfold execSpareCopyDone
  simp only [kept_ite, ite_self, keptOut_next, finishRetire_kept, resumeLc_kept, tryRelease_kept]

theorem abortRecord_kept (x0 x1 x2 x3 s) : kept (abortRecord x0 x1 x2 x3 s) = kept s := by
  unfold abortRecord
  simp only [partRecord_kept]

theorem execAbortRequest_kept (x0 s) {k} (hk : kept s = k) : KeptOut k (execAbortRequest x0 s) := by
  subst hk
  unfold execAbortRequest
  repeat' (first
    | with_reducible rfl
    | with_reducible assumption
    | simp only [kept_ite, ite_self, keptOut_next, orderAbort_kept]
    | with_reducible refine fst_kept (by assumption) ?_
    | with_reducible refine snd_kept (by assumption) ?_
    | with_reducible exact takeFrame_kept (by assumption)
    | with_reducible refine (takeFrame_kept (by assumption)).trans ?_
    | with_reducible refine (foldl_kept _ _ _ (fun _ _ => ?_)).trans ?_
    | split
    | simp only [kept_ite, ite_self, keptOut_next, orderAbort_kept])

theorem execAbortRequestRetry_kept (x0 s) {k} (hk : kept s = k) : KeptOut k (execAbortRequestRetry x0 s) := by
  subst hk
  unfold execAbortRequestRetry
  repeat' (first
    | with_reducible rfl
    | with_reducible assumption
    | simp only [keptOut_next, sendFrame_kept]
    | with_reducible refine fst_kept (by assumption) ?_
    | with_reducible refine snd_kept (by assumption) ?_
    | with_reducible refine (foldl_kept _ _ _ (fun _ _ => ?_)).trans ?_
    | split
    | simp only [keptOut_next])

theorem freezeJob_kept (x0 x1 s) : kept (freezeJob x0 x1 s) = kept s := by
  unfold freezeJob
  simp only [State.modPart_kept, pauseClass_kept]

theorem execAbortFrame_kept (x0 s) {k} (hk : kept s = k) : KeptOut k (execAbortFrame x0 s) := by
  subst hk
  unfold execAbortFrame
  repeat' (first
    | with_reducible rfl
    | with_reducible assumption
    | simp only [kept_mk, kept_fold, kept_ite, ite_self, keptOut_next, State.modPart_kept, abortRecord_kept, freezeJob_kept, loseContext_kept, partRecord_kept, replayFrom_kept, takeEpoch_kept]
    | with_reducible refine fst_kept (by assumption) ?_
    | with_reducible refine snd_kept (by assumption) ?_
    | with_reducible exact takeFrame_kept (by assumption)
    | with_reducible refine (takeFrame_kept (by assumption)).trans ?_
    | with_reducible refine (foldl_kept _ _ _ (fun _ _ => ?_)).trans ?_
    | split
    | simp only [kept_mk, kept_fold, kept_ite, ite_self, keptOut_next, State.modPart_kept, abortRecord_kept, freezeJob_kept, loseContext_kept, partRecord_kept, replayFrom_kept, takeEpoch_kept])

theorem failRing_kept (x0 x1 x2 s) : kept (failRing x0 x1 x2 s) = kept s := by
  unfold failRing
  repeat' (first
    | with_reducible rfl
    | with_reducible assumption
    | simp only [State.modRing_kept, completeCmd_kept]
    | with_reducible refine fst_kept (by assumption) ?_
    | with_reducible refine snd_kept (by assumption) ?_
    | with_reducible refine (foldl_kept _ _ _ (fun _ _ => ?_)).trans ?_
    | split
    | simp only [State.modRing_kept])

theorem discardCtx_kept (x0 x1 x2 s) : kept (discardCtx x0 x1 x2 s) = kept s := by
  unfold discardCtx
  repeat' (first
    | with_reducible rfl
    | with_reducible assumption
    | simp only [kept_ite, ite_self, State.mapEmbers_kept, State.modPart_kept, ckAbandon_kept, dropQueueWaits_kept, failRing_kept, releaseBeAll_kept, returnBe_kept]
    | with_reducible refine fst_kept (by assumption) ?_
    | with_reducible refine snd_kept (by assumption) ?_
    | with_reducible refine (foldl_kept _ _ _ (fun _ _ => ?_)).trans ?_
    | split
    | simp only [kept_ite, ite_self, State.mapEmbers_kept, State.modPart_kept, ckAbandon_kept, releaseBeAll_kept, returnBe_kept])

theorem destroyCtx_kept (x0 x1 s) : kept (destroyCtx x0 x1 s) = kept s := by
  unfold destroyCtx
  repeat' (first
    | with_reducible rfl
    | with_reducible assumption
    | simp only [kept_ite, ite_self, State.modPart_kept, discardCtx_kept, relightSoot_kept, retireUnowned_kept]
    | with_reducible refine fst_kept (by assumption) ?_
    | with_reducible refine snd_kept (by assumption) ?_
    | with_reducible refine (foldl_kept _ _ _ (fun _ _ => ?_)).trans ?_
    | split)

theorem forgetTenant_kept (x0 s) : kept (forgetTenant x0 s) = kept s := by
  unfold forgetTenant
  simp only [kept_mk, kept_fold]

theorem removeTenantStart_kept (x0 x1 x2 s) : kept (removeTenantStart x0 x1 x2 s) = kept s := by
  unfold removeTenantStart
  repeat' (first
    | with_reducible rfl
    | with_reducible assumption
    | simp only [State.mapEmbers_kept, State.modPart_kept, clearFault_kept, destroyTenantKeys_kept, dropHeld_kept, failRing_kept, forgetTenant_kept, freeSlot_kept, retireUnowned_kept]
    | with_reducible refine fst_kept (by assumption) ?_
    | with_reducible refine snd_kept (by assumption) ?_
    | with_reducible refine (foldl_kept _ _ _ (fun _ _ => ?_)).trans ?_
    | split
    | simp only [State.mapEmbers_kept, State.modPart_kept, clearFault_kept, destroyTenantKeys_kept, dropHeld_kept, failRing_kept, forgetTenant_kept, retireUnowned_kept])

theorem takeFrames_kept {n k s l t} (h : takeFrames n k s = some (l, t)) : kept t = kept s := by
  unfold takeFrames at h
  simp only at h
  split at h
  · cases h
    rfl
  · cases h

theorem claimPages_kept (x0 x1 s) : kept (claimPages x0 x1 s) = kept s := by
  unfold claimPages
  repeat' (first
    | with_reducible rfl
    | with_reducible assumption
    | simp only [kept_ite, ite_self, State.modPart_kept, cacheDrop_kept, setPage_kept]
    | with_reducible refine fst_kept (by assumption) ?_
    | with_reducible refine snd_kept (by assumption) ?_
    | with_reducible refine (foldl_kept _ _ _ (fun _ _ => ?_)).trans ?_)

theorem installCtx_kept (x0 x1 s) : kept (installCtx x0 x1 s) = kept s := by
  unfold installCtx
  repeat' (first
    | with_reducible rfl
    | with_reducible assumption
    | simp only [kept_ite, ite_self, State.mapEmbers_kept, State.modPart_kept, claimPages_kept]
    | with_reducible refine fst_kept (by assumption) ?_
    | with_reducible refine snd_kept (by assumption) ?_
    | with_reducible refine (foldl_kept _ _ _ (fun _ _ => ?_)).trans ?_
    | split)

theorem startImage_kept (x0 s) : kept (startImage x0 s) = kept s := by
  unfold startImage
  simp only [kept_ite, ite_self, storeHeaps_kept, writeImage_kept]

theorem startThreads_kept (x0 x1 x2 s) : kept (startThreads x0 x1 x2 s) = kept s := by
  unfold startThreads
  repeat' (first
    | with_reducible rfl
    | with_reducible assumption
    | simp only [kept_ite, ite_self, State.mapEmbers_kept, State.modPart_kept, pauseBusy_kept, startStep_kept, stokerRelease_kept]
    | with_reducible refine fst_kept (by assumption) ?_
    | with_reducible refine snd_kept (by assumption) ?_
    | with_reducible refine (foldl_kept _ _ _ (fun _ _ => ?_)).trans ?_
    | split)

theorem addLeafTables_kept {n ds s t} (h : addLeafTables n ds s = some t) : kept t = kept s := by
  induction ds generalizing s with
  | nil => unfold addLeafTables at h; cases h; rfl
  | cons d ds ih =>
    unfold addLeafTables at h
    simp only at h
    split at h
    · have h1 := ih h
      exact h1
    · split at h
      · rename_i hf
        have h1 := ih h
        have h2 := takeFrames_kept hf
        exact h1.trans h2
      · cases h

theorem addLeaves_kept {n ds s t} (h : addLeaves n ds s = some t) : kept t = kept s := by
  unfold addLeaves at h
  simp only at h
  split at h
  · exact addLeafTables_kept h
  · split at h
    · exact (addLeafTables_kept h).trans (State.modPart_kept ..)
    · split at h
      · exact (addLeafTables_kept h).trans ((State.modPart_kept ..).trans (takeFrames_kept (by assumption)))
      · cases h

theorem denyCount_kept (x0 s) : kept (denyCount x0 s) = kept s := by
  unfold denyCount
  simp only [State.modPart_kept]

theorem writeFrames_kept (x0 x1 x2 x3 s) : kept (writeFrames x0 x1 x2 x3 s) = kept s := by
  induction x1 generalizing x0 x2 x3 s with
  | nil => unfold writeFrames; repeat' (first
      | with_reducible rfl)
  | cons hd tl ih =>
    unfold writeFrames
    repeat' (first
      | with_reducible rfl
      | with_reducible assumption
      | simp only [kept_ite, ite_self, deviceWrite_kept, ih])

theorem holderReport_kept (x0 s) : kept (holderReport x0 s) = kept s := by
  unfold holderReport
  simp only [kept_ite, ite_self, sendFrame_kept]

theorem parityWaits_kept {x0 x1 s t} (h : (parityWaits x0 x1 s) = some t) : kept t = kept s := by
  unfold parityWaits at h
  repeat' (first
    | (cases h; done)
    | (cases h; simp only [poolShort_kept]; done)
    | split at h
    | dsimp only at h)

theorem addParity_kept (n q role j bs s) : kept (addParity n q role j bs s) = kept s := by
  unfold addParity
  simp only
  split
  · rfl
  · split
    · split
      · exact (holderReport_kept ..).trans ((State.modPart_kept ..).trans ((fillFrame_kept ..).trans (fst_kept (by assumption) (readChecked_kept ..))))
      · exact fst_kept (by assumption) (readChecked_kept ..)
    · split
      · exact (holderReport_kept ..).trans ((State.modPart_kept ..).trans ((fillFrame_kept ..).trans (fst_kept (by assumption) (takePoolFrame_kept ..))))
      · exact fst_kept (by assumption) (takePoolFrame_kept ..)

theorem leaveRebuild_kept (x0 s) : kept (leaveRebuild x0 s) = kept s := by
  unfold leaveRebuild
  repeat' (first
    | with_reducible rfl
    | with_reducible assumption
    | simp only [kept_ite, ite_self, State.modPart_kept]
    | with_reducible refine fst_kept (by assumption) ?_
    | with_reducible refine snd_kept (by assumption) ?_
    | with_reducible refine (foldl_kept _ _ _ (fun _ _ => ?_)).trans ?_
    | split
    | (simp only))

theorem assemble_kept (x0 x1 s) : kept (assemble x0 x1 s) = kept s := by
  unfold assemble
  repeat' (first
    | with_reducible rfl
    | with_reducible assumption
    | simp only [kept_ite, State.modPart_kept, leaveRebuild_kept, sendFrame_kept]
    | with_reducible refine fst_kept (by assumption) ?_
    | with_reducible refine snd_kept (by assumption) ?_
    | with_reducible refine (foldl_kept _ _ _ (fun _ _ => ?_)).trans ?_
    | split
    | simp only [leaveRebuild_kept])

theorem execWpunitFrame_kept (x0 s) {k} (hk : kept s = k) : KeptOut k (execWpunitFrame x0 s) := by
  subst hk
  unfold execWpunitFrame
  repeat' (first
    | with_reducible rfl
    | with_reducible assumption
    | simp only [kept_ite, ite_self, keptOut_next, State.modPart_kept, addParity_kept, assemble_kept, fillFrame_kept, initFrame_kept]
    | with_reducible refine fst_kept (by assumption) ?_
    | with_reducible refine snd_kept (by assumption) ?_
    | with_reducible exact parityWaits_kept (by assumption)
    | with_reducible refine (parityWaits_kept (by assumption)).trans ?_
    | with_reducible exact takeFrame_kept (by assumption)
    | with_reducible refine (takeFrame_kept (by assumption)).trans ?_
    | with_reducible refine (foldl_kept _ _ _ (fun _ _ => ?_)).trans ?_
    | split
    | simp only [keptOut_next, State.modPart_kept, addParity_kept, assemble_kept, fillFrame_kept, initFrame_kept])

theorem execParityHolderReport_kept (x0 s) {k} (hk : kept s = k) : KeptOut k (execParityHolderReport x0 s) := by
  subst hk
  unfold execParityHolderReport
  repeat' (first
    | with_reducible rfl
    | with_reducible assumption
    | simp only [kept_ite, ite_self, keptOut_next, State.modPart_kept, refuseFrame_kept, sendFrame_kept]
    | with_reducible refine fst_kept (by assumption) ?_
    | with_reducible refine snd_kept (by assumption) ?_
    | with_reducible exact takeFrame_kept (by assumption)
    | with_reducible refine (takeFrame_kept (by assumption)).trans ?_
    | with_reducible refine (foldl_kept _ _ _ (fun _ _ => ?_)).trans ?_
    | split
    | simp only [keptOut_next, State.modPart_kept, refuseFrame_kept, sendFrame_kept])

theorem enterFreeze_kept (x0 x1 x2 x3 s) : kept (enterFreeze x0 x1 x2 x3 s) = kept s := by
  unfold enterFreeze
  simp only [State.modPart_kept]

theorem handbackHold_kept (x0 x1 s) : kept (handbackHold x0 x1 s) = kept s := by
  unfold handbackHold
  repeat' (first
    | with_reducible rfl
    | with_reducible assumption
    | simp only [kept_ite, ite_self, State.modPart_kept, enqueueFrame_kept, enterFreeze_kept]
    | with_reducible refine fst_kept (by assumption) ?_
    | with_reducible refine snd_kept (by assumption) ?_
    | with_reducible refine (foldl_kept _ _ _ (fun _ _ => ?_)).trans ?_
    | split
    | simp only [kept_ite])

theorem execSealFrame_kept (x0 s) {k} (hk : kept s = k) : KeptOut k (execSealFrame x0 s) := by
  subst hk
  unfold execSealFrame
  repeat' (first
    | with_reducible rfl
    | with_reducible assumption
    | simp only [kept_ite, ite_self, keptOut_next, State.modPart_kept, ckAnnounce_kept, handbackHold_kept, jobSeal_kept, sendFrame_kept, tryRelease_kept]
    | with_reducible refine fst_kept (by assumption) ?_
    | with_reducible refine snd_kept (by assumption) ?_
    | with_reducible exact takeFrame_kept (by assumption)
    | with_reducible refine (takeFrame_kept (by assumption)).trans ?_
    | with_reducible refine (foldl_kept _ _ _ (fun _ _ => ?_)).trans ?_
    | split
    | simp only [keptOut_next, State.modPart_kept, ckAnnounce_kept, handbackHold_kept, jobSeal_kept, sendFrame_kept, tryRelease_kept])

theorem execMirrorFrame_kept (x0 s) {k} (hk : kept s = k) : KeptOut k (execMirrorFrame x0 s) := by
  subst hk
  unfold execMirrorFrame
  repeat' (first
    | with_reducible rfl
    | with_reducible assumption
    | simp only [kept_ite, ite_self, keptOut_next, State.modPart_kept, completeCmd_kept, sendFrame_kept, writeFrames_kept]
    | with_reducible refine fst_kept (by assumption) ?_
    | with_reducible refine snd_kept (by assumption) ?_
    | with_reducible exact takeFrame_kept (by assumption)
    | with_reducible refine (takeFrame_kept (by assumption)).trans ?_
    | with_reducible refine (foldl_kept _ _ _ (fun _ _ => ?_)).trans ?_
    | split
    | simp only [kept_ite, ite_self, keptOut_next, State.modPart_kept, sendFrame_kept, writeFrames_kept])

theorem declareLost_kept (x0 x1 s) : kept (declareLost x0 x1 s) = kept s := by
  unfold declareLost
  repeat' (first
    | with_reducible rfl
    | with_reducible assumption
    | simp only [kept_ite, ite_self, State.modPart_kept, becomeStoker_kept, relightRecord_kept, relightSoot_kept, sendFrame_kept]
    | with_reducible refine fst_kept (by assumption) ?_
    | with_reducible refine snd_kept (by assumption) ?_
    | with_reducible refine (foldl_kept _ _ _ (fun _ _ => ?_)).trans ?_
    | split
    | (simp only))

theorem peerSilent_kept (x0 x1 s) : kept (peerSilent x0 x1 s) = kept s := by
  unfold peerSilent
  simp only [kept_ite, ite_self, State.modPart_kept, declareLost_kept]

theorem execHeartbeatTimeout_kept (x0 x1 s) {k} (hk : kept s = k) : KeptOut k (execHeartbeatTimeout x0 x1 s) := by
  subst hk
  unfold execHeartbeatTimeout
  simp only [kept_ite, ite_self, keptOut_next, State.modPart_kept, peerSilent_kept, withdraw_kept]

theorem execWithdrawFrame_kept (x0 s) {k} (hk : kept s = k) : KeptOut k (execWithdrawFrame x0 s) := by
  subst hk
  unfold execWithdrawFrame
  repeat' (first
    | with_reducible rfl
    | with_reducible assumption
    | simp only [keptOut_next, peerSilent_kept]
    | with_reducible refine fst_kept (by assumption) ?_
    | with_reducible refine snd_kept (by assumption) ?_
    | with_reducible exact takeFrame_kept (by assumption)
    | with_reducible refine (takeFrame_kept (by assumption)).trans ?_
    | with_reducible refine (foldl_kept _ _ _ (fun _ _ => ?_)).trans ?_
    | split
    | simp only [keptOut_next, peerSilent_kept])

theorem execLossFrame_kept (x0 s) {k} (hk : kept s = k) : KeptOut k (execLossFrame x0 s) := by
  subst hk
  unfold execLossFrame
  repeat' (first
    | with_reducible rfl
    | with_reducible assumption
    | simp only [kept_ite, ite_self, keptOut_next, State.modPart_kept, sendFrame_kept, sendOrder_kept]
    | with_reducible refine fst_kept (by assumption) ?_
    | with_reducible refine snd_kept (by assumption) ?_
    | with_reducible exact takeFrame_kept (by assumption)
    | with_reducible refine (takeFrame_kept (by assumption)).trans ?_
    | with_reducible refine (foldl_kept _ _ _ (fun _ _ => ?_)).trans ?_
    | split
    | simp only [kept_ite, ite_self, keptOut_next, State.modPart_kept, sendFrame_kept, sendOrder_kept])

theorem noteLosses_kept (x0 x1 s) : kept (noteLosses x0 x1 s) = kept s := by
  unfold noteLosses
  simp only [State.modPart_kept]

theorem noteAdoptions_kept (x0 x1 x2 s) : kept (noteAdoptions x0 x1 x2 s) = kept s := by
  unfold noteAdoptions
  simp only [State.modPart_kept]

theorem standbyFreeze_kept (x0 x1 x2 x3 s) : kept (standbyFreeze x0 x1 x2 x3 s) = kept s := by
  unfold standbyFreeze
  repeat' (first
    | with_reducible rfl
    | with_reducible assumption
    | simp only [kept_ite, State.modPart_kept, sendOpen_kept]
    | with_reducible refine fst_kept (by assumption) ?_
    | with_reducible refine snd_kept (by assumption) ?_
    | with_reducible refine (foldl_kept _ _ _ (fun _ _ => ?_)).trans ?_
    | split
    | simp only [kept_ite, State.modPart_kept])

theorem handbackOrder_kept (x0 x1 x2 s) : kept (handbackOrder x0 x1 x2 s) = kept s := by
  unfold handbackOrder
  simp only [kept_ite, ite_self, State.modPart_kept, handbackHold_kept, pauseClass_kept]

theorem takeFreeze_kept (x0 x1 x2 x3 x4 s) : kept (takeFreeze x0 x1 x2 x3 x4 s) = kept s := by
  unfold takeFreeze
  simp only [kept_ite, ite_self, State.modPart_kept, enterFreeze_kept, noteLosses_kept, replayFrom_kept]

theorem execRfreezeFrame_kept (x0 s) {k} (hk : kept s = k) : KeptOut k (execRfreezeFrame x0 s) := by
  subst hk
  unfold execRfreezeFrame
  repeat' (first
    | with_reducible rfl
    | with_reducible assumption
    | simp only [kept_ite, ite_self, keptOut_next, handbackOrder_kept, loseContext_kept, noteAdoptions_kept, standbyFreeze_kept, takeEpoch_kept, takeFreeze_kept]
    | with_reducible refine fst_kept (by assumption) ?_
    | with_reducible refine snd_kept (by assumption) ?_
    | with_reducible exact takeFrame_kept (by assumption)
    | with_reducible refine (takeFrame_kept (by assumption)).trans ?_
    | with_reducible refine (foldl_kept _ _ _ (fun _ _ => ?_)).trans ?_
    | split
    | simp only [kept_ite, keptOut_next, handbackOrder_kept, loseContext_kept, noteAdoptions_kept, standbyFreeze_kept, takeEpoch_kept, takeFreeze_kept])

theorem preemptCtx_kept (x0 x1 s) : kept (preemptCtx x0 x1 s) = kept s := by
  unfold preemptCtx
  repeat' (first
    | with_reducible rfl
    | with_reducible assumption
    | simp only [kept_ite, ite_self, State.modPart_kept, loseContext_kept, partRecord_kept]
    | with_reducible refine fst_kept (by assumption) ?_
    | with_reducible refine snd_kept (by assumption) ?_
    | with_reducible refine (foldl_kept _ _ _ (fun _ _ => ?_)).trans ?_
    | split)

theorem adoptStart_kept (x0 x1 x2 x3 s) : kept (adoptStart x0 x1 x2 x3 s) = kept s := by
  unfold adoptStart
  repeat' (first
    | with_reducible rfl
    | with_reducible assumption
    | simp only [kept_mk, kept_fold, kept_ite, State.modPart_kept, preemptCtx_kept, relightRecord_kept, relightSoot_kept, removeTenantStart_kept]
    | with_reducible refine fst_kept (by assumption) ?_
    | with_reducible refine snd_kept (by assumption) ?_
    | with_reducible refine (foldl_kept _ _ _ (fun _ _ => ?_)).trans ?_
    | split
    | simp only [kept_mk, kept_fold, kept_ite, State.modPart_kept, relightRecord_kept, relightSoot_kept, removeTenantStart_kept])

theorem execAdoptFrame_kept (x0 s) {k} (hk : kept s = k) : KeptOut k (execAdoptFrame x0 s) := by
  subst hk
  unfold execAdoptFrame
  repeat' (first
    | with_reducible rfl
    | with_reducible assumption
    | simp only [kept_ite, ite_self, keptOut_next, State.modPart_kept, adoptStart_kept, withdraw_kept]
    | with_reducible refine fst_kept (by assumption) ?_
    | with_reducible refine snd_kept (by assumption) ?_
    | with_reducible exact takeFrame_kept (by assumption)
    | with_reducible refine (takeFrame_kept (by assumption)).trans ?_
    | with_reducible refine (foldl_kept _ _ _ (fun _ _ => ?_)).trans ?_
    | split
    | simp only [kept_ite, keptOut_next, State.modPart_kept, adoptStart_kept, withdraw_kept])

theorem adoptReservation_kept (x0 x1 x2 s) : kept (adoptReservation x0 x1 x2 s) = kept s := by
  unfold adoptReservation
  simp only [State.modPart_kept, clearSlot_kept, setSlot_kept]

theorem adoptInstall_kept (x0 x1 x2 x3 x4 x5 s) : kept (adoptInstall x0 x1 x2 x3 x4 x5 s) = kept s := by
  unfold adoptInstall
  repeat' (first
    | with_reducible rfl
    | with_reducible assumption
    | simp only [State.modPart_kept, installCtx_kept, sendOpen_kept]
    | with_reducible refine fst_kept (by assumption) ?_
    | with_reducible refine snd_kept (by assumption) ?_
    | with_reducible refine (foldl_kept _ _ _ (fun _ _ => ?_)).trans ?_)

theorem setAside_kept (x0 x1 s) : kept (setAside x0 x1 s) = kept s := by
  unfold setAside
  simp only [State.modPart_kept]

theorem adoptContext_aux (o : Option Nat) (k n : Nat) (pos : Pos) (t : DWord) (e : Word) (g : List Nat → Context) (old : Relight) (a s : State)
    (ha : kept a = kept s) :
    kept (match o with
    | none => s
    | some c => match takeFrames n k a with
      | none => s
      | some (fs, s) => adoptInstall n c pos t e old (s.modPart n fun q => { q with
          ctxs := q.ctxs.upd c fun h => { h with obj := some (g fs) } })) = kept s := by
  cases o with
  | none => rfl
  | some c =>
    show kept (match takeFrames n k a with
      | none => s
      | some (fs, s) => _) = _
    split
    · rfl
    · rename_i h
      rw [adoptInstall_kept, State.modPart_kept, takeFrames_kept h, ha]

theorem adoptContext_kept (n pos t e j old s) : kept (adoptContext n pos t e j old s) = kept s := by
  unfold adoptContext
  exact adoptContext_aux (ha := setAside_kept ..) ..

theorem execAdoptContextReady_kept (x0 s) {k} (hk : kept s = k) : KeptOut k (execAdoptContextReady x0 s) := by
  subst hk
  unfold execAdoptContextReady
  repeat' (first
    | with_reducible rfl
    | with_reducible assumption
    | simp only [kept_ite, keptOut_next, adoptContext_kept, adoptReservation_kept, freshKey_kept]
    | with_reducible refine fst_kept (by assumption) ?_
    | with_reducible refine snd_kept (by assumption) ?_
    | with_reducible refine (foldl_kept _ _ _ (fun _ _ => ?_)).trans ?_
    | split
    | simp only [keptOut_next, adoptContext_kept, adoptReservation_kept])

theorem sendUnits_kept (n gone unit s) (hu : ∀ q s t o, unit q s = (t, o) → kept t = kept s) : kept (sendUnits n gone unit s) = kept s := by
  unfold sendUnits
  simp only
  apply foldl_kept
  intro s q
  split
  · rfl
  · split
    · rename_i h
      exact hu _ _ _ _ h
    · rename_i h
      have h2 := hu _ _ _ _ h
      split
      · rw [assemble_kept, State.modPart_kept, h2]
      · rw [sendFrame_kept, h2]

theorem startRebuild_kept (n x s) : kept (startRebuild n x s) = kept s := by
  unfold startRebuild
  simp only
  refine (leaveRebuild_kept ..).trans ?_
  refine (sendUnits_kept _ _ _ _ (fun q s t o h => fst_kept h (readHbm_kept ..))).trans ?_
  rw [State.modPart_kept]

theorem sendSlots_kept (x0 x1 x2 s) : kept (sendSlots x0 x1 x2 s) = kept s := by
  unfold sendSlots
  repeat' (first
    | with_reducible rfl
    | with_reducible assumption
    | simp only [readChecked_kept, sendFrame_kept]
    | with_reducible refine fst_kept (by assumption) ?_
    | with_reducible refine snd_kept (by assumption) ?_
    | with_reducible refine (foldl_kept _ _ _ (fun _ _ => ?_)).trans ?_
    | split
    | simp only [sendFrame_kept])

theorem remirror_kept (x0 s) : kept (remirror x0 s) = kept s := by
  unfold remirror
  simp only [sendSlots_kept]

theorem returnSlots_kept (x0 x1 s) : kept (returnSlots x0 x1 s) = kept s := by
  unfold returnSlots
  simp only [sendSlots_kept]

theorem adoptedOpens_kept (x0 x1 x2 s) : kept (adoptedOpens x0 x1 x2 s) = kept s := by
  unfold adoptedOpens
  simp only [kept_ite, ite_self, State.modPart_kept, remirror_kept, returnSlots_kept, startRebuild_kept]

theorem execOpenFrame_kept (x0 s) {k} (hk : kept s = k) : KeptOut k (execOpenFrame x0 s) := by
  subst hk
  unfold execOpenFrame
  repeat' (first
    | with_reducible rfl
    | with_reducible assumption
    | simp only [kept_ite, ite_self, keptOut_next, State.modFlue_kept, State.modPart_kept, adoptedOpens_kept, refuseFrame_kept, sendFrame_kept, sendOpen_kept]
    | with_reducible refine fst_kept (by assumption) ?_
    | with_reducible refine snd_kept (by assumption) ?_
    | with_reducible exact takeFrame_kept (by assumption)
    | with_reducible refine (takeFrame_kept (by assumption)).trans ?_
    | with_reducible refine (foldl_kept _ _ _ (fun _ _ => ?_)).trans ?_
    | split
    | simp only [kept_ite, ite_self, keptOut_next, State.modFlue_kept, State.modPart_kept, adoptedOpens_kept, refuseFrame_kept, sendFrame_kept, sendOpen_kept])

set_option maxRecDepth 100000 in
theorem mapRecord_kept (n img off s) : kept (mapRecord n img off s) = kept s := by
  unfold mapRecord
  simp only
  split
  · rfl
  · rename_i h
    rw [setPage_kept, State.modPart_kept]
    exact addLeaves_kept h

theorem mapRecords_kept (x0 x1 s) : kept (mapRecords x0 x1 s) = kept s := by
  unfold mapRecords
  repeat' (first
    | with_reducible rfl
    | with_reducible assumption
    | simp only [mapRecord_kept]
    | with_reducible refine fst_kept (by assumption) ?_
    | with_reducible refine snd_kept (by assumption) ?_
    | with_reducible refine (foldl_kept _ _ _ (fun _ _ => ?_)).trans ?_)

theorem writeSlot_kept (x0 x1 x2 s) : kept (writeSlot x0 x1 x2 s) = kept s := by
  induction x1 generalizing x0 x2 s with
  | nil => unfold writeSlot; repeat' (first
      | with_reducible rfl)
  | cons hd tl ih =>
    unfold writeSlot
    repeat' (first
      | with_reducible rfl
      | with_reducible assumption
      | simp only [State.modPart_kept, fillFrame_kept, initFrame_kept, setPage_kept, ih]
      | with_reducible refine fst_kept (by assumption) ?_
      | with_reducible refine snd_kept (by assumption) ?_
      | with_reducible exact takeFrames_kept (by assumption)
      | with_reducible refine (takeFrames_kept (by assumption)).trans ?_
      | with_reducible refine (foldl_kept _ _ _ (fun _ _ => ?_)).trans ?_
      | split
      | simp only [State.modPart_kept, fillFrame_kept, initFrame_kept, setPage_kept, ih])

theorem rebuildEnd_kept (n c s) : kept (rebuildEnd n c s) = kept s := by
  unfold rebuildEnd
  repeat' (first
    | with_reducible rfl
    | with_reducible assumption
    | simp only [kept_ite, ite_self, State.modPart_kept, applyImage_kept, loadHeaps_kept, mapRecords_kept, sendFrame_kept, startThreads_kept, writeSlot_kept]
    | with_reducible refine (foldl_kept _ _ _ (fun _ _ => ?_)).trans ?_
    | split
    | simp only [State.modPart_kept, sendFrame_kept])

theorem execRebuildDone_kept (x0 x1 s) {k} (hk : kept s = k) : KeptOut k (execRebuildDone x0 x1 s) := by
  subst hk
  unfold execRebuildDone
  rw [keptOut_next]
  have e := strikeLines_kept x0.val x1 s
  split
  · split
    · exact e
    · have c := imageChecked_kept x0.val (strikeLines x0.val x1 s)
      split
      · rename_i h; rw [h] at c; exact c.trans e
      · rename_i h; rw [h] at c; exact (rebuildEnd_kept ..).trans (c.trans e)
  · exact e

theorem execResumeFrame_kept (x0 s) {k} (hk : kept s = k) : KeptOut k (execResumeFrame x0 s) := by
  subst hk
  unfold execResumeFrame
  repeat' (first
    | with_reducible rfl
    | with_reducible assumption
    | simp only [kept_mk, kept_fold, kept_ite, ite_self, keptOut_next, State.modPart_kept, stokerFreeze_kept]
    | with_reducible refine fst_kept (by assumption) ?_
    | with_reducible refine snd_kept (by assumption) ?_
    | with_reducible exact takeFrame_kept (by assumption)
    | with_reducible refine (takeFrame_kept (by assumption)).trans ?_
    | with_reducible refine (foldl_kept _ _ _ (fun _ _ => ?_)).trans ?_
    | split
    | simp only [kept_mk, kept_fold, kept_ite, ite_self, keptOut_next, State.modPart_kept, stokerFreeze_kept])

theorem returnToBanked_kept (x0 s) : kept (returnToBanked x0 s) = kept s := by
  unfold returnToBanked
  repeat' (first
    | with_reducible rfl
    | with_reducible assumption
    | simp only [State.mapEmbers_kept, State.modPart_kept, destroyTenantKeys_kept, setSlot_kept]
    | with_reducible refine fst_kept (by assumption) ?_
    | with_reducible refine snd_kept (by assumption) ?_
    | with_reducible refine (foldl_kept _ _ _ (fun _ _ => ?_)).trans ?_
    | split
    | (simp only))

theorem execFreezeRelease_kept (x0 x1 s) {k} (hk : kept s = k) : KeptOut k (execFreezeRelease x0 x1 s) := by
  subst hk
  unfold execFreezeRelease
  repeat' (first
    | with_reducible rfl
    | with_reducible assumption
    | simp only [kept_ite, ite_self, keptOut_next, State.modPart_kept, becomeStoker_kept, relightRecord_kept, resumeLc_kept, returnToBanked_kept, tryRelease_kept]
    | with_reducible refine fst_kept (by assumption) ?_
    | with_reducible refine snd_kept (by assumption) ?_
    | with_reducible exact takeFrame_kept (by assumption)
    | with_reducible refine (takeFrame_kept (by assumption)).trans ?_
    | with_reducible refine (foldl_kept _ _ _ (fun _ _ => ?_)).trans ?_
    | split
    | simp only [kept_ite, ite_self, keptOut_next, State.modPart_kept, becomeStoker_kept, relightRecord_kept, resumeLc_kept, returnToBanked_kept, tryRelease_kept])

theorem rlHandback_kept (x0 s) : kept (rlHandback x0 s) = kept s := by
  unfold rlHandback
  simp only [kept_ite, ite_self, State.modPart_kept, relightRecord_kept, relightSoot_kept, sendFrame_kept]

theorem execRlHandback_kept (x0 s) {k} (hk : kept s = k) : KeptOut k (execRlHandback x0 s) := by
  subst hk
  unfold execRlHandback
  simp only [keptOut_next, rlHandback_kept]

theorem sendAvail_kept (x0 s) : kept (sendAvail x0 s) = kept s := by
  unfold sendAvail
  repeat' (first
    | with_reducible rfl
    | with_reducible assumption
    | simp only [sendFrame_kept]
    | with_reducible refine fst_kept (by assumption) ?_
    | with_reducible refine snd_kept (by assumption) ?_
    | with_reducible refine (readSlots_kept _ _ _ _ (fun _ => ?_)).trans ?_)

theorem execCkrepAvail_kept (x0 s) {k} (hk : kept s = k) : KeptOut k (execCkrepAvail x0 s) := by
  subst hk
  unfold execCkrepAvail
  repeat' (first
    | with_reducible rfl
    | with_reducible assumption
    | simp only [kept_ite, keptOut_next, State.modPart_kept, sendFrame_kept]
    | with_reducible refine fst_kept (by assumption) ?_
    | with_reducible refine snd_kept (by assumption) ?_
    | with_reducible exact takeFrame_kept (by assumption)
    | with_reducible refine (takeFrame_kept (by assumption)).trans ?_
    | with_reducible refine (readSlots_kept _ _ _ _ (fun _ => ?_)).trans ?_
    | with_reducible refine (foldl_kept _ _ _ (fun _ _ => ?_)).trans ?_
    | split
    | simp only [keptOut_next])

theorem createDone_kept (x0 x1 x2 s) : kept (createDone x0 x1 x2 s) = kept s := by
  unfold createDone
  repeat' (first
    | with_reducible rfl
    | with_reducible assumption
    | simp only [kept_ite, ite_self, completeCmd_kept]
    | with_reducible refine fst_kept (by assumption) ?_
    | with_reducible refine snd_kept (by assumption) ?_
    | with_reducible refine (foldl_kept _ _ _ (fun _ _ => ?_)).trans ?_
    | split)

theorem restoreRefused_kept (x0 x1 x2 s) : kept (restoreRefused x0 x1 x2 s) = kept s := by
  unfold restoreRefused
  simp only [State.emit_kept, State.modPart_kept, createDone_kept, discardCtx_kept, partRecord_kept, retireUnowned_kept]

theorem execCkptRestore_kept (n s) {k} (hk : kept s = k) : KeptOut k (execCkptRestore n s) := by
  unfold execCkptRestore
  rw [keptOut_next]
  split
  · rename_i h
    have h1 := (takeFrame_kept h).trans hk
    split
    · split
      · exact (restoreRefused_kept ..).trans h1
      · refine (readSlots_kept _ _ _ _ (fun t => ?_)).trans h1
        simp only
        rw [kept_ite, sendUnits_kept, State.modPart_kept, ite_self]
        intro q s t o h
        cases h
        rfl
    · exact h1
  · exact hk

theorem writeUnits_kept (n first q us s) : kept (writeUnits n first q us s) = kept s := by
  induction us generalizing q s with
  | nil => unfold writeUnits; rfl
  | cons u us ih => unfold writeUnits; rw [ih, fillFrame_kept, initFrame_kept]

theorem execRestoreUnitsWritten_kept (x0 x1 s) {k} (hk : kept s = k) : KeptOut k (execRestoreUnitsWritten x0 s x1) := by
  subst hk
  unfold execRestoreUnitsWritten
  repeat' (first
    | with_reducible rfl
    | with_reducible assumption
    | simp only [kept_ite, ite_self, keptOut_next, State.modKs_kept, State.modPart_kept, applyImage_kept, createDone_kept, loadHeaps_kept, mapRecords_kept, sendFrame_kept, strikeSectors_kept, writeUnits_kept]
    | with_reducible refine fst_kept (by assumption) ?_
    | with_reducible refine snd_kept (by assumption) ?_
    | with_reducible refine (readSlots_kept _ _ _ _ (fun _ => ?_)).trans ?_
    | with_reducible refine (foldl_kept _ _ _ (fun _ _ => ?_)).trans ?_
    | split
    | simp only [keptOut_next])

end Sys2Proof.Machine
end

