-- ==== Sys2Proof/Laws/KeptHost.lean ====
section
/-! SUPPORT. `kept` is left alone by the host commands and charters. -/

set_option linter.all false

namespace Sys2Proof.Machine

theorem frontEntry_kept {c s e t} (h : frontEntry c s = some (e, t)) : kept t = kept s := by
  unfold frontEntry at h
  simp only at h
  split at h
  · cases h
  · split at h
    · cases h
    · split at h
      · cases h
        exact State.modRing_kept ..
      · cases h
        rfl

theorem hostCommand_kept (c m act s) {k} (hk : kept s = k) (ha : ∀ b e t, kept t = k → kept (act b e t) = k) :
    kept (hostCommand c m act s) = k := by
  unfold hostCommand
  split
  · exact hk
  · rename_i h
    have h1 := (frontEntry_kept h).trans hk
    simp only
    repeat' (first
      | exact hk
      | (rw [completeCmd_kept, State.modRing_kept]; exact h1)
      | (apply ha; rw [State.modRing_kept]; exact h1)
      | split)

theorem finish_kept (x0 x1 x2 x3 x4 s) : kept (finish x0 x1 x2 x3 x4 s) = kept s := by
  unfold finish
  simp only [completeCmd_kept]

theorem outsideWait_kept {x0 x1 x2 s t} (h : (outsideWait x0 x1 x2 s) = some t) : kept t = kept s := by
  unfold outsideWait at h
  repeat' (first
    | (cases h; done)
    | (cases h; simp only; done)
    | split at h
    | dsimp only at h
    | (cases h; repeat' (first
    | with_reducible rfl
    | with_reducible assumption
    | simp only [poolShort_kept, stallOnce_kept]
    | with_reducible refine fst_kept (by assumption) ?_
    | with_reducible refine snd_kept (by assumption) ?_
    | with_reducible refine (foldl_kept _ _ _ (fun _ _ => ?_)).trans ?_)))

theorem outsidePrep_kept (x0 x1 s) : kept (outsidePrep x0 x1 s).1 = kept s := by
  unfold outsidePrep
  repeat' (first
    | with_reducible rfl
    | with_reducible assumption
    | simp only [prepUnit_kept, stallEnds_kept]
    | with_reducible refine fst_kept (by assumption) ?_
    | with_reducible refine snd_kept (by assumption) ?_
    | with_reducible refine (foldl_kept _ _ _ (fun _ _ => ?_)).trans ?_
    | split)

theorem outsidePut_kept (n a bs s) : kept (outsidePut n a bs s).1 = kept s := by
  unfold outsidePut
  refine foldl_fst_kept _ _ _ rfl (fun q x hq => ?_)
  simp only
  split
  · exact hq
  · split
    · exact (fst_kept (by assumption) (lookup_kept ..)).trans hq
    · have h1 := (touchPage_kept n (x.1 / pageBytes) _).trans ((fst_kept (by assumption) (lookup_kept ..)).trans hq)
      split
      · split
        · rename_i h
          refine (putHbm_kept ..).trans ?_
          split at h
          · exact (fst_kept h (outsidePrep_kept ..)).trans h1
          · cases h
            exact h1
        · rename_i h
          split at h
          · exact (fst_kept h (outsidePrep_kept ..)).trans h1
          · cases h
      · exact h1

theorem outsideRead_kept (n a len s) : kept (outsideRead n a len s).1 = kept s := by
  unfold outsideRead
  refine foldl_fst_kept _ _ _ rfl (fun q x hq => ?_)
  simp only
  split
  · exact hq
  · split
    · exact (fst_kept (by assumption) (lookup_kept ..)).trans hq
    · have h1 := (touchPage_kept n (x.1 / pageBytes) _).trans ((fst_kept (by assumption) (lookup_kept ..)).trans hq)
      split
      · split
        · exact (fst_kept (by assumption) (readChecked_kept ..)).trans h1
        · exact (fst_kept (by assumption) (readChecked_kept ..)).trans h1
      · exact h1

theorem inputWritten_kept (x0 x1 x2 s) : kept (inputWritten x0 x1 x2 s) = kept s := by
  unfold inputWritten
  repeat' (first
    | with_reducible rfl
    | with_reducible assumption
    | simp only [kept_ite, ite_self, State.modPart_kept, sendFrame_kept]
    | with_reducible refine fst_kept (by assumption) ?_
    | with_reducible refine snd_kept (by assumption) ?_
    | with_reducible refine (foldl_kept _ _ _ (fun _ _ => ?_)).trans ?_
    | split
    | simp only [kept_ite, ite_self, State.modPart_kept, sendFrame_kept])

theorem finishInput_kept (x0 x1 x2 s) : kept (finishInput x0 x1 x2 s) = kept s := by
  unfold finishInput
  simp only [kept_ite, ite_self, State.modPart_kept, finish_kept]

theorem chrStatus_kept (x0 x1 s) : kept (chrStatus x0 x1 s) = kept s := by
  unfold chrStatus
  simp only [State.modPart_kept]

theorem chrFinish_kept (x0 x1 x2 x3 s) : kept (chrFinish x0 x1 x2 x3 s) = kept s := by
  unfold chrFinish
  simp only [chrStatus_kept, finish_kept]

theorem execCharterCmd_kept (x0 s) {k} (hk : kept s = k) : KeptOut k (execCharterCmd x0 s) := by
  subst hk
  unfold execCharterCmd
  repeat' (first
    | with_reducible rfl
    | with_reducible assumption
    | simp only [kept_ite, keptOut_next, State.modPart_kept, chrFinish_kept, chrStatus_kept, finish_kept, freshKey_kept, setSlot_kept]
    | with_reducible refine fst_kept (by assumption) ?_
    | with_reducible refine snd_kept (by assumption) ?_
    | with_reducible refine hostCommand_kept _ _ _ _ ?_ (fun _ _ _ _ => ?_)
    | with_reducible refine (foldl_kept _ _ _ (fun _ _ => ?_)).trans ?_
    | split
    | simp only [keptOut_next, State.modPart_kept, chrFinish_kept, chrStatus_kept, finish_kept, freshKey_kept, setSlot_kept])

theorem jobKey_kept (n a s) : kept (jobKey n a s).1 = kept s := by
  unfold jobKey
  refine foldl_fst_kept _ _ _ rfl (fun q x hq => ?_)
  split
  · rename_i h
    exact (fst_kept h (useBlob_kept ..)).trans hq
  · rename_i h
    exact (fst_kept h (useBlob_kept ..)).trans hq

theorem keyArea_kept (x0 x1 s) : kept (keyArea x0 x1 s) = kept s := by
  unfold keyArea
  repeat' (first
    | with_reducible rfl
    | with_reducible assumption
    | simp only [State.modPart_kept, deviceWrite_kept]
    | with_reducible refine fst_kept (by assumption) ?_
    | with_reducible refine snd_kept (by assumption) ?_
    | with_reducible exact takeFrames_kept (by assumption)
    | with_reducible refine (takeFrames_kept (by assumption)).trans ?_
    | with_reducible refine (foldl_kept _ _ _ (fun _ _ => ?_)).trans ?_
    | split
    | simp only [State.modPart_kept])

theorem holdCapsule_kept (x0 x1 x2 x3 x4 s) : kept (holdCapsule x0 x1 x2 x3 x4 s) = kept s := by
  unfold holdCapsule
  repeat' (first
    | with_reducible rfl
    | with_reducible assumption
    | simp only [kept_ite, State.modPart_kept, jobKey_kept, keyArea_kept, setSlot_kept]
    | with_reducible refine fst_kept (by assumption) ?_
    | with_reducible refine snd_kept (by assumption) ?_
    | with_reducible refine (foldl_kept _ _ _ (fun _ _ => ?_)).trans ?_
    | split
    | simp only [kept_ite, State.modPart_kept, keyArea_kept, setSlot_kept])

theorem execCapsuleCmd_kept (x0 s) {k} (hk : kept s = k) : KeptOut k (execCapsuleCmd x0 s) := by
  subst hk
  unfold execCapsuleCmd
  repeat' (first
    | with_reducible rfl
    | with_reducible assumption
    | simp only [kept_ite, ite_self, keptOut_next, chrFinish_kept, holdCapsule_kept]
    | with_reducible refine fst_kept (by assumption) ?_
    | with_reducible refine snd_kept (by assumption) ?_
    | with_reducible refine hostCommand_kept _ _ _ _ ?_ (fun _ _ _ _ => ?_)
    | with_reducible refine (foldl_kept _ _ _ (fun _ _ => ?_)).trans ?_
    | split
    | simp only [keptOut_next, chrFinish_kept, holdCapsule_kept])

theorem importPut_kept (c b n dva len plain ok s) : kept (importPut c b n dva len plain ok s) = kept s := by
  have h : ∀ p : State × Bool, kept p.1 = kept s → kept (match p with
      | (s, put) =>
        let s := if plain.isEmpty || !put then s else inputWritten n dva plain s
        if !put then finish c b 0x0B 0 0 s
        else if !ok then chrFinish c b 0xD 0 s
        else
          let s := chrStatus n 0 (s.modPart n fun p => { p with chr := { p.chr with
            impCnt := satAdd p.chr.impCnt 1, impOvf := p.chr.impOvf || satOvf p.chr.impCnt 1 } })
          finishInput c b len s) = kept s := by
    intro p hp
    simp only [kept_ite, finish_kept, chrFinish_kept, finishInput_kept, chrStatus_kept, State.modPart_kept, inputWritten_kept, hp, ite_self]
  unfold importPut
  refine h _ ?_
  show kept (if plain.isEmpty then (s, true) else outsidePut n dva plain s).1 = _
  rw [apply_ite Prod.fst, kept_ite, outsidePut_kept, ite_self]

theorem execImportCmd_kept (c s) {k} (hk : kept s = k) : KeptOut k (execImportCmd c s) := by
  unfold execImportCmd
  rw [keptOut_next]
  refine hostCommand_kept _ _ _ _ hk (fun b e t ht => ?_)
  simp only [kept_ite, chrFinish_kept, finish_kept, denyCount_kept, ht]
  repeat' (first | (refine ite_eq_left_iff.2 (fun _ => ?_)) | (refine ite_eq_iff'.2 ⟨fun _ => rfl, fun _ => ?_⟩))
  split
  · exact (askUnbank_kept ..).trans hk
  · split
    · rename_i h
      exact (outsideWait_kept h).trans hk
    · split
      · rename_i h
        exact (chrFinish_kept ..).trans ((fst_kept h (useBlob_kept ..)).trans ht)
      · rename_i h
        have h1 := (fst_kept h (useBlob_kept ..)).trans ht
        exact (importPut_kept ..).trans h1

theorem expStatus_kept (x0 x1 s) : kept (expStatus x0 x1 s) = kept s := by
  unfold expStatus
  simp only [State.modPart_kept]

theorem execExportCmd_kept (x0 s) {k} (hk : kept s = k) : KeptOut k (execExportCmd x0 s) := by
  subst hk
  unfold execExportCmd
  repeat' (first
    | with_reducible rfl
    | with_reducible assumption
    | simp only [id_eq, kept_ite, keptOut_next, State.modKs_kept, State.modPart_kept, expStatus_kept, finish_kept]
    | with_reducible refine fst_kept (by assumption) ?_
    | with_reducible refine snd_kept (by assumption) ?_
    | with_reducible refine hostCommand_kept _ _ _ _ ?_ (fun _ _ _ _ => ?_)
    | with_reducible refine (readSlots_kept _ _ _ _ (fun _ => ?_)).trans ?_
    | with_reducible refine (foldl_kept _ _ _ (fun _ _ => ?_)).trans ?_
    | split
    | simp only [keptOut_next, State.modKs_kept, State.modPart_kept, expStatus_kept, finish_kept])

theorem contentKeys_kept (n a recip key s) : kept (contentKeys n a recip key s).1 = kept s := by
  unfold contentKeys
  refine foldl_fst_kept _ _ _ rfl (fun q x hq => ?_)
  split
  · exact hq
  · split
    · rename_i h
      exact (fst_kept h (useBlob_kept ..)).trans hq
    · rename_i h
      exact (fst_kept h (useBlob_kept ..)).trans hq

theorem execExportDone_kept (x0 x1 s) {k} (hk : kept s = k) : KeptOut k (execExportDone x0 s x1) := by
  subst hk
  unfold execExportDone
  repeat' (first
    | with_reducible rfl
    | with_reducible assumption
    | simp only [kept_ite, keptOut_next, State.modPart_kept, completeCmd_kept, contentKeys_kept, expStatus_kept, freshKey_kept, holdOut_kept, signOwn_kept, strikeSectors_kept]
    | with_reducible refine fst_kept (by assumption) ?_
    | with_reducible refine snd_kept (by assumption) ?_
    | with_reducible refine (readSlots_kept _ _ _ _ (fun _ => ?_)).trans ?_
    | with_reducible refine (foldl_kept _ _ _ (fun _ _ => ?_)).trans ?_
    | split
    | simp only [keptOut_next, State.modPart_kept, completeCmd_kept, contentKeys_kept, expStatus_kept, holdOut_kept, signOwn_kept])

theorem reserveJob_kept (x0 x1 x2 x3 s) : kept (reserveJob x0 x1 x2 x3 s) = kept s := by
  unfold reserveJob
  simp only [State.modPart_kept]

theorem holdReservation_kept (x0 x1 x2 x3 s) : kept (holdReservation x0 x1 x2 x3 s) = kept s := by
  unfold holdReservation
  simp only [openFlues_kept, reserveJob_kept]

theorem admissionToReservation_kept (x0 s) : kept (admissionToReservation x0 s) = kept s := by
  unfold admissionToReservation
  simp only [State.modPart_kept, clearSlot_kept, setSlot_kept]

theorem ctxMade_kept (cmd b n c owner report r image fs s) : kept (ctxMade cmd b n c owner report r image fs s) = kept s := by
  unfold ctxMade
  simp only [kept_ite, sendAvail_kept, finish_kept, State.modPart_kept, installCtx_kept, claimPages_kept, startImage_kept, openFlues_kept, ite_self]

theorem makeCtx_aux (cmd : HostCmd) (b : Busy) (n c k : Nat) (owner : Word) (report : DWord) (r : Launch) (image : List Byte) (s : State) :
    kept (match takeFrames n k s with
      | none => finish cmd b 9 0 0 s
      | some (fs, s) => ctxMade cmd b n c owner report r image fs s) = kept s := by
  split
  · exact finish_kept ..
  · rename_i h
    rw [ctxMade_kept, takeFrames_kept h]

theorem makeCtx_kept (cmd b n c owner report bs s) : kept (makeCtx cmd b n c owner report bs s) = kept s := by
  unfold makeCtx
  exact makeCtx_aux ..

theorem execCreateCtx_kept (x0 s) {k} (hk : kept s = k) : KeptOut k (execCreateCtx x0 s) := by
  subst hk
  unfold execCreateCtx
  repeat' (first
    | with_reducible rfl
    | with_reducible assumption
    | simp only [kept_ite, ite_self, keptOut_next, admissionToReservation_kept, chrStatus_kept, finish_kept, holdReservation_kept, makeCtx_kept]
    | with_reducible refine fst_kept (by assumption) ?_
    | with_reducible refine snd_kept (by assumption) ?_
    | with_reducible refine hostCommand_kept _ _ _ _ ?_ (fun _ _ _ _ => ?_)
    | with_reducible refine (foldl_kept _ _ _ (fun _ _ => ?_)).trans ?_
    | split
    | simp only [keptOut_next, admissionToReservation_kept, chrStatus_kept, finish_kept, holdReservation_kept, makeCtx_kept])

theorem execDestroyCtx_kept (x0 s) {k} (hk : kept s = k) : KeptOut k (execDestroyCtx x0 s) := by
  subst hk
  unfold execDestroyCtx
  repeat' (first
    | with_reducible rfl
    | with_reducible assumption
    | simp only [keptOut_next, destroyCtx_kept, finish_kept]
    | with_reducible refine fst_kept (by assumption) ?_
    | with_reducible refine snd_kept (by assumption) ?_
    | with_reducible refine hostCommand_kept _ _ _ _ ?_ (fun _ _ _ _ => ?_)
    | with_reducible refine (foldl_kept _ _ _ (fun _ _ => ?_)).trans ?_
    | split
    | simp only [keptOut_next, destroyCtx_kept, finish_kept])

theorem execCreateQ_kept (x0 s) {k} (hk : kept s = k) : KeptOut k (execCreateQ x0 s) := by
  subst hk
  unfold execCreateQ
  repeat' (first
    | with_reducible rfl
    | with_reducible assumption
    | simp only [kept_ite, ite_self, keptOut_next, State.modPart_kept, finish_kept]
    | with_reducible refine fst_kept (by assumption) ?_
    | with_reducible refine snd_kept (by assumption) ?_
    | with_reducible refine hostCommand_kept _ _ _ _ ?_ (fun _ _ _ _ => ?_)
    | with_reducible refine (foldl_kept _ _ _ (fun _ _ => ?_)).trans ?_
    | split
    | simp only [keptOut_next, State.modPart_kept, finish_kept])

theorem serveAllSems_kept (x0 s) : kept (serveAllSems x0 s) = kept s := by
  unfold serveAllSems
  repeat' (first
    | with_reducible rfl
    | with_reducible assumption
    | simp only [semServe_kept]
    | with_reducible refine fst_kept (by assumption) ?_
    | with_reducible refine snd_kept (by assumption) ?_
    | with_reducible refine (foldl_kept _ _ _ (fun _ _ => ?_)).trans ?_)

theorem execDestroyQ_kept (x0 s) {k} (hk : kept s = k) : KeptOut k (execDestroyQ x0 s) := by
  subst hk
  unfold execDestroyQ
  repeat' (first
    | with_reducible rfl
    | with_reducible assumption
    | simp only [keptOut_next, State.modPart_kept, dropQueueWaits_kept, failRing_kept, finish_kept, serveAllSems_kept]
    | with_reducible refine fst_kept (by assumption) ?_
    | with_reducible refine snd_kept (by assumption) ?_
    | with_reducible refine hostCommand_kept _ _ _ _ ?_ (fun _ _ _ _ => ?_)
    | with_reducible refine (foldl_kept _ _ _ (fun _ _ => ?_)).trans ?_
    | split
    | simp only [keptOut_next, State.modPart_kept, dropQueueWaits_kept, failRing_kept, finish_kept, serveAllSems_kept])

theorem execCreateMobj_kept (x0 s) {k} (hk : kept s = k) : KeptOut k (execCreateMobj x0 s) := by
  subst hk
  unfold execCreateMobj
  repeat' (first
    | with_reducible rfl
    | with_reducible assumption
    | simp only [keptOut_next, State.modPart_kept, finish_kept]
    | with_reducible refine fst_kept (by assumption) ?_
    | with_reducible refine snd_kept (by assumption) ?_
    | with_reducible refine hostCommand_kept _ _ _ _ ?_ (fun _ _ _ _ => ?_)
    | with_reducible refine (foldl_kept _ _ _ (fun _ _ => ?_)).trans ?_
    | split
    | simp only [keptOut_next, State.modPart_kept, finish_kept])

theorem freeMobj_kept (x0 x1 s) : kept (freeMobj x0 x1 s) = kept s := by
  unfold freeMobj
  simp only [State.modPart_kept]

theorem execFreeMobj_kept (x0 s) {k} (hk : kept s = k) : KeptOut k (execFreeMobj x0 s) := by
  subst hk
  unfold execFreeMobj
  repeat' (first
    | with_reducible rfl
    | with_reducible assumption
    | simp only [keptOut_next, finish_kept, freeMobj_kept]
    | with_reducible refine fst_kept (by assumption) ?_
    | with_reducible refine snd_kept (by assumption) ?_
    | with_reducible refine hostCommand_kept _ _ _ _ ?_ (fun _ _ _ _ => ?_)
    | with_reducible refine (foldl_kept _ _ _ (fun _ _ => ?_)).trans ?_
    | split
    | simp only [keptOut_next, finish_kept, freeMobj_kept])

theorem unmapPage_kept (x0 x1 s) : kept (unmapPage x0 x1 s) = kept s := by
  unfold unmapPage
  repeat' (first
    | with_reducible rfl
    | with_reducible assumption
    | simp only [kept_ite, ite_self, State.modPart_kept, State.takeFree_kept, cacheDrop_kept, freeSlot_kept, setPage_kept, touchPage_kept, unpark_kept]
    | with_reducible refine fst_kept (by assumption) ?_
    | with_reducible refine snd_kept (by assumption) ?_
    | with_reducible refine (foldl_kept _ _ _ (fun _ _ => ?_)).trans ?_
    | split
    | (simp only))

theorem execMobjRelease_kept (x0 x1 s) {k} (hk : kept s = k) : KeptOut k (execMobjRelease x0 x1 s) := by
  subst hk
  unfold execMobjRelease
  repeat' (first
    | with_reducible rfl
    | with_reducible assumption
    | simp only [kept_ite, keptOut_next, State.modPart_kept, unmapPage_kept]
    | with_reducible refine fst_kept (by assumption) ?_
    | with_reducible refine snd_kept (by assumption) ?_
    | with_reducible refine (foldl_kept _ _ _ (fun _ _ => ?_)).trans ?_
    | split
    | simp only [kept_ite, keptOut_next, State.modPart_kept])

theorem execMapPages_kept (x0 s) {k} (hk : kept s = k) : KeptOut k (execMapPages x0 s) := by
  subst hk
  unfold execMapPages
  repeat' (first
    | with_reducible rfl
    | with_reducible assumption
    | simp only [kept_ite, keptOut_next, State.modPart_kept, finish_kept, initFrame_kept, setPage_kept]
    | with_reducible refine fst_kept (by assumption) ?_
    | with_reducible refine snd_kept (by assumption) ?_
    | with_reducible exact addLeaves_kept (by assumption)
    | with_reducible refine (addLeaves_kept (by assumption)).trans ?_
    | with_reducible refine hostCommand_kept _ _ _ _ ?_ (fun _ _ _ _ => ?_)
    | with_reducible refine (foldl_kept _ _ _ (fun _ _ => ?_)).trans ?_
    | split
    | simp only [keptOut_next, State.modPart_kept, finish_kept])

theorem execUnmapPages_kept (x0 s) {k} (hk : kept s = k) : KeptOut k (execUnmapPages x0 s) := by
  subst hk
  unfold execUnmapPages
  repeat' (first
    | with_reducible rfl
    | with_reducible assumption
    | simp only [kept_ite, keptOut_next, finish_kept, unmapPage_kept]
    | with_reducible refine fst_kept (by assumption) ?_
    | with_reducible refine snd_kept (by assumption) ?_
    | with_reducible refine hostCommand_kept _ _ _ _ ?_ (fun _ _ _ _ => ?_)
    | with_reducible refine (foldl_kept _ _ _ (fun _ _ => ?_)).trans ?_
    | split
    | simp only [keptOut_next, finish_kept])

theorem startBankOut_kept (x0 x1 s) : kept (startBankOut x0 x1 s).1 = kept s := by
  unfold startBankOut
  repeat' (first
    | with_reducible rfl
    | with_reducible assumption
    | simp only [State.modPart_kept, cacheDrop_kept]
    | with_reducible refine fst_kept (by assumption) ?_
    | with_reducible refine snd_kept (by assumption) ?_
    | with_reducible exact queueWrite_kept (by assumption)
    | with_reducible refine (queueWrite_kept (by assumption)).trans ?_
    | with_reducible refine (foldl_kept _ _ _ (fun _ _ => ?_)).trans ?_
    | split
    | simp only [State.modPart_kept, cacheDrop_kept])

theorem execBankOut_kept (c s) {k} (hk : kept s = k) : KeptOut k (execBankOut c s) := by
  unfold execBankOut
  rw [keptOut_next]
  refine hostCommand_kept _ _ _ _ hk (fun b e t ht => ?_)
  simp only [kept_ite, hk]
  refine ite_eq_left_iff.2 (fun _ => ?_)
  refine (bankFinish_kept ..).trans ((State.modPart_kept ..).trans ?_)
  exact foldl_fst_kept _ _ _ ht (fun q x hq => (startBankOut_kept ..).trans hq)

theorem execPoolCmd_kept (x0 s) {k} (hk : kept s = k) : KeptOut k (execPoolCmd x0 s) := by
  subst hk
  unfold execPoolCmd
  repeat' (first
    | with_reducible rfl
    | with_reducible assumption
    | simp only [kept_ite, ite_self, keptOut_next, State.modPart_kept, finish_kept, poolEdge_kept]
    | with_reducible refine fst_kept (by assumption) ?_
    | with_reducible refine snd_kept (by assumption) ?_
    | with_reducible refine hostCommand_kept _ _ _ _ ?_ (fun _ _ _ _ => ?_)
    | with_reducible refine (foldl_kept _ _ _ (fun _ _ => ?_)).trans ?_
    | split
    | simp only [keptOut_next, State.modPart_kept, finish_kept, poolEdge_kept])

theorem execCreateEvt_kept (x0 s) {k} (hk : kept s = k) : KeptOut k (execCreateEvt x0 s) := by
  subst hk
  unfold execCreateEvt
  repeat' (first
    | with_reducible rfl
    | with_reducible assumption
    | simp only [keptOut_next, State.modPart_kept, finish_kept]
    | with_reducible refine fst_kept (by assumption) ?_
    | with_reducible refine snd_kept (by assumption) ?_
    | with_reducible refine hostCommand_kept _ _ _ _ ?_ (fun _ _ _ _ => ?_)
    | with_reducible refine (foldl_kept _ _ _ (fun _ _ => ?_)).trans ?_
    | split
    | simp only [keptOut_next, State.modPart_kept, finish_kept])

theorem failWaits_kept (x0 x1 x2 s) : kept (failWaits x0 x1 x2 s) = kept s := by
  unfold failWaits
  repeat' (first
    | with_reducible rfl
    | with_reducible assumption
    | simp only [completeCmd_kept]
    | with_reducible refine fst_kept (by assumption) ?_
    | with_reducible refine snd_kept (by assumption) ?_
    | with_reducible refine (foldl_kept _ _ _ (fun _ _ => ?_)).trans ?_)

theorem execDestroyEvt_kept (x0 s) {k} (hk : kept s = k) : KeptOut k (execDestroyEvt x0 s) := by
  subst hk
  unfold execDestroyEvt
  repeat' (first
    | with_reducible rfl
    | with_reducible assumption
    | simp only [keptOut_next, State.modPart_kept, failWaits_kept, finish_kept]
    | with_reducible refine fst_kept (by assumption) ?_
    | with_reducible refine snd_kept (by assumption) ?_
    | with_reducible refine hostCommand_kept _ _ _ _ ?_ (fun _ _ _ _ => ?_)
    | with_reducible refine (foldl_kept _ _ _ (fun _ _ => ?_)).trans ?_
    | split
    | simp only [keptOut_next, State.modPart_kept, failWaits_kept, finish_kept])

theorem execKillOwner_kept (x0 s) {k} (hk : kept s = k) : KeptOut k (execKillOwner x0 s) := by
  subst hk
  unfold execKillOwner
  repeat' (first
    | with_reducible rfl
    | with_reducible assumption
    | simp only [keptOut_next, State.modPart_kept, destroyCtx_kept, failWaits_kept, finish_kept, freeMobj_kept]
    | with_reducible refine fst_kept (by assumption) ?_
    | with_reducible refine snd_kept (by assumption) ?_
    | with_reducible refine hostCommand_kept _ _ _ _ ?_ (fun _ _ _ _ => ?_)
    | with_reducible refine (foldl_kept _ _ _ (fun _ _ => ?_)).trans ?_
    | split
    | simp only [keptOut_next, finish_kept])

theorem execStartCtx_kept (x0 s) {k} (hk : kept s = k) : KeptOut k (execStartCtx x0 s) := by
  subst hk
  unfold execStartCtx
  repeat' (first
    | with_reducible rfl
    | with_reducible assumption
    | simp only [keptOut_next]
    | with_reducible refine fst_kept (by assumption) ?_
    | with_reducible refine snd_kept (by assumption) ?_
    | with_reducible refine hostCommand_kept _ _ _ _ ?_ (fun _ _ _ _ => ?_)
    | with_reducible refine (foldl_kept _ _ _ (fun _ _ => ?_)).trans ?_
    | split
    | simp only [keptOut_next])

theorem execStartGrant_kept (x0 x1 x2 s) {k} (hk : kept s = k) : KeptOut k (execStartGrant x0 x1 x2 s) := by
  subst hk
  unfold execStartGrant
  repeat' (first
    | with_reducible rfl
    | with_reducible assumption
    | simp only [kept_ite, ite_self, keptOut_next, ckAbandon_kept, completeCmd_kept, installCtx_kept, openFlues_kept, startImage_kept, startThreads_kept]
    | with_reducible refine fst_kept (by assumption) ?_
    | with_reducible refine snd_kept (by assumption) ?_
    | with_reducible refine (foldl_kept _ _ _ (fun _ _ => ?_)).trans ?_
    | split)

theorem execSignalEvent_kept (x0 s) {k} (hk : kept s = k) : KeptOut k (execSignalEvent x0 s) := by
  subst hk
  unfold execSignalEvent
  repeat' (first
    | with_reducible rfl
    | with_reducible assumption
    | simp only [kept_ite, ite_self, keptOut_next, finish_kept, signalEvent_kept]
    | with_reducible refine fst_kept (by assumption) ?_
    | with_reducible refine snd_kept (by assumption) ?_
    | with_reducible refine hostCommand_kept _ _ _ _ ?_ (fun _ _ _ _ => ?_)
    | with_reducible refine (foldl_kept _ _ _ (fun _ _ => ?_)).trans ?_
    | split
    | simp only [keptOut_next, finish_kept, signalEvent_kept])

theorem execWaitEvent_kept (x0 s) {k} (hk : kept s = k) : KeptOut k (execWaitEvent x0 s) := by
  subst hk
  unfold execWaitEvent
  repeat' (first
    | with_reducible rfl
    | with_reducible assumption
    | simp only [kept_ite, ite_self, keptOut_next, finish_kept]
    | with_reducible refine fst_kept (by assumption) ?_
    | with_reducible refine snd_kept (by assumption) ?_
    | with_reducible refine hostCommand_kept _ _ _ _ ?_ (fun _ _ _ _ => ?_)
    | with_reducible refine (foldl_kept _ _ _ (fun _ _ => ?_)).trans ?_
    | split
    | simp only [keptOut_next, finish_kept])

theorem execQueueSemsig_kept (x0 s) {k} (hk : kept s = k) : KeptOut k (execQueueSemsig x0 s) := by
  subst hk
  unfold execQueueSemsig
  repeat' (first
    | with_reducible rfl
    | with_reducible assumption
    | simp only [keptOut_next, finish_kept, semSignal_kept]
    | with_reducible refine fst_kept (by assumption) ?_
    | with_reducible refine snd_kept (by assumption) ?_
    | with_reducible refine hostCommand_kept _ _ _ _ ?_ (fun _ _ _ _ => ?_)
    | with_reducible refine (foldl_kept _ _ _ (fun _ _ => ?_)).trans ?_
    | split
    | simp only [keptOut_next, finish_kept, semSignal_kept])

theorem execQueueSemwait_kept (x0 s) {k} (hk : kept s = k) : KeptOut k (execQueueSemwait x0 s) := by
  subst hk
  unfold execQueueSemwait
  repeat' (first
    | with_reducible rfl
    | with_reducible assumption
    | simp only [kept_ite, ite_self, keptOut_next, State.modPart_kept, finish_kept]
    | with_reducible refine fst_kept (by assumption) ?_
    | with_reducible refine snd_kept (by assumption) ?_
    | with_reducible refine hostCommand_kept _ _ _ _ ?_ (fun _ _ _ _ => ?_)
    | with_reducible refine (foldl_kept _ _ _ (fun _ _ => ?_)).trans ?_
    | split
    | simp only [keptOut_next, State.modPart_kept, finish_kept])

theorem execQueueWrite_kept (x0 s) {k} (hk : kept s = k) : KeptOut k (execQueueWrite x0 s) := by
  subst hk
  unfold execQueueWrite
  repeat' (first
    | with_reducible rfl
    | with_reducible assumption
    | simp only [kept_ite, keptOut_next, askUnbank_kept, denyCount_kept, finish_kept, finishInput_kept, inputWritten_kept, outsidePut_kept]
    | with_reducible refine fst_kept (by assumption) ?_
    | with_reducible refine snd_kept (by assumption) ?_
    | with_reducible exact outsideWait_kept (by assumption)
    | with_reducible refine (outsideWait_kept (by assumption)).trans ?_
    | with_reducible refine hostCommand_kept _ _ _ _ ?_ (fun _ _ _ _ => ?_)
    | with_reducible refine (foldl_kept _ _ _ (fun _ _ => ?_)).trans ?_
    | split
    | simp only [keptOut_next, denyCount_kept, finish_kept, finishInput_kept, inputWritten_kept, outsidePut_kept])

theorem execQueryCtx_kept (x0 s) {k} (hk : kept s = k) : KeptOut k (execQueryCtx x0 s) := by
  subst hk
  unfold execQueryCtx
  repeat' (first
    | with_reducible rfl
    | with_reducible assumption
    | simp only [keptOut_next, State.emit_kept, finish_kept]
    | with_reducible refine fst_kept (by assumption) ?_
    | with_reducible refine snd_kept (by assumption) ?_
    | with_reducible refine hostCommand_kept _ _ _ _ ?_ (fun _ _ _ _ => ?_)
    | with_reducible refine (foldl_kept _ _ _ (fun _ _ => ?_)).trans ?_
    | split
    | simp only [keptOut_next, State.emit_kept, finish_kept])

theorem execQueryCap_kept (x0 s) {k} (hk : kept s = k) : KeptOut k (execQueryCap x0 s) := by
  subst hk
  unfold execQueryCap
  repeat' (first
    | with_reducible rfl
    | with_reducible assumption
    | simp only [keptOut_next, State.emit_kept, finish_kept]
    | with_reducible refine fst_kept (by assumption) ?_
    | with_reducible refine snd_kept (by assumption) ?_
    | with_reducible refine hostCommand_kept _ _ _ _ ?_ (fun _ _ _ _ => ?_)
    | with_reducible refine (foldl_kept _ _ _ (fun _ _ => ?_)).trans ?_
    | split
    | simp only [keptOut_next, State.emit_kept, finish_kept])

theorem askReport_kept (x0 x1 x2 s) : kept (askReport x0 x1 x2 s) = kept s := by
  unfold askReport
  simp only [kept_mk, kept_fold]

theorem execReportCmd_kept (x0 s) {k} (hk : kept s = k) : KeptOut k (execReportCmd x0 s) := by
  subst hk
  unfold execReportCmd
  repeat' (first
    | with_reducible rfl
    | with_reducible assumption
    | simp only [kept_ite, ite_self, keptOut_next, askReport_kept, finish_kept]
    | with_reducible refine fst_kept (by assumption) ?_
    | with_reducible refine snd_kept (by assumption) ?_
    | with_reducible refine hostCommand_kept _ _ _ _ ?_ (fun _ _ _ _ => ?_)
    | with_reducible refine (foldl_kept _ _ _ (fun _ _ => ?_)).trans ?_
    | split
    | simp only [keptOut_next, askReport_kept, finish_kept])

theorem execReportSigned_kept (s) {k} (hk : kept s = k) : KeptOut k (execReportSigned s) := by
  subst hk
  unfold execReportSigned
  repeat' (first
    | with_reducible rfl
    | with_reducible assumption
    | simp only [kept_mk, kept_fold, kept_ite, ite_self, keptOut_next, State.emit_kept, completeCmd_kept, signOwn_kept]
    | with_reducible refine fst_kept (by assumption) ?_
    | with_reducible refine snd_kept (by assumption) ?_
    | with_reducible refine (foldl_kept _ _ _ (fun _ _ => ?_)).trans ?_
    | split
    | simp only [keptOut_next])

theorem execQuickCmd_kept (x0 s) {k} (hk : kept s = k) : KeptOut k (execQuickCmd x0 s) := by
  subst hk
  unfold execQuickCmd
  repeat' (first
    | with_reducible rfl
    | with_reducible assumption
    | simp only [keptOut_next, State.emit_kept, finish_kept]
    | with_reducible refine fst_kept (by assumption) ?_
    | with_reducible refine snd_kept (by assumption) ?_
    | with_reducible refine hostCommand_kept _ _ _ _ ?_ (fun _ _ _ _ => ?_)
    | with_reducible refine (foldl_kept _ _ _ (fun _ _ => ?_)).trans ?_
    | split
    | simp only [keptOut_next, State.emit_kept, finish_kept])

theorem execIdeSetup_kept (x0 s) {k} (hk : kept s = k) : KeptOut k (execIdeSetup x0 s) := by
  subst hk
  unfold execIdeSetup
  repeat' (first
    | with_reducible rfl
    | with_reducible assumption
    | simp only [keptOut_next, State.modFn_kept, finish_kept]
    | with_reducible refine fst_kept (by assumption) ?_
    | with_reducible refine snd_kept (by assumption) ?_
    | with_reducible refine hostCommand_kept _ _ _ _ ?_ (fun _ _ _ _ => ?_)
    | with_reducible refine (foldl_kept _ _ _ (fun _ _ => ?_)).trans ?_
    | split
    | simp only [keptOut_next, State.modFn_kept, finish_kept])

theorem execRemoveTenant_kept (x0 s) {k} (hk : kept s = k) : KeptOut k (execRemoveTenant x0 s) := by
  subst hk
  unfold execRemoveTenant
  repeat' (first
    | with_reducible rfl
    | with_reducible assumption
    | simp only [kept_ite, ite_self, keptOut_next, finish_kept, removeTenantStart_kept]
    | with_reducible refine fst_kept (by assumption) ?_
    | with_reducible refine snd_kept (by assumption) ?_
    | with_reducible refine hostCommand_kept _ _ _ _ ?_ (fun _ _ _ _ => ?_)
    | with_reducible refine (foldl_kept _ _ _ (fun _ _ => ?_)).trans ?_
    | split
    | simp only [keptOut_next, finish_kept, removeTenantStart_kept])

theorem execTenantRemovalDone_kept (x0 s) {k} (hk : kept s = k) : KeptOut k (execTenantRemovalDone x0 s) := by
  subst hk
  unfold execTenantRemovalDone
  repeat' (first
    | with_reducible rfl
    | with_reducible assumption
    | simp only [keptOut_next, State.modPart_kept, completeCmd_kept, partRecord_kept]
    | with_reducible refine fst_kept (by assumption) ?_
    | with_reducible refine snd_kept (by assumption) ?_
    | with_reducible refine (foldl_kept _ _ _ (fun _ _ => ?_)).trans ?_
    | split)

end Sys2Proof.Machine
end

