-- ==== Sys2Proof/Laws/KeptDevice.lean ====
section
/-! SUPPORT. `kept` is left alone by registers, the damper, lighting, keys and the outside ports. -/

set_option linter.all false

namespace Sys2Proof.Machine

theorem mailboxTake_kept (x0 x1 s) : kept (mailboxTake x0 x1 s) = kept s := by
  unfold mailboxTake
  repeat' (first
    | with_reducible rfl
    | with_reducible assumption
    | simp only [kept_mk, kept_fold, kept_ite, ite_self]
    | with_reducible refine fst_kept (by assumption) ?_
    | with_reducible refine snd_kept (by assumption) ?_
    | with_reducible refine (foldl_kept _ _ _ (fun _ _ => ?_)).trans ?_
    | split
    | (simp only))

theorem modImage_kept (x0 x1 s) : kept (modImage x0 x1 s) = kept s := by
  unfold modImage
  simp only [kept_mk, kept_fold]

theorem modMaster_kept (x0 x1 s) : kept (modMaster x0 x1 s) = kept s := by
  unfold modMaster
  simp only [kept_mk, kept_fold]

theorem dmpStage_kept (x0 x1 s) : kept (dmpStage x0 x1 s) = kept s := by
  unfold dmpStage
  simp only [kept_mk, kept_fold, kept_ite, ite_self, modImage_kept]

theorem holdBe_kept (x0 s) : kept (holdBe x0 s) = kept s := by
  unfold holdBe
  simp only [State.modPart_kept, pauseClass_kept]

theorem dropHold_kept (x0 s) : kept (dropHold x0 s) = kept s := by
  unfold dropHold
  simp only [kept_ite, ite_self, State.modPart_kept, releaseBeAll_kept, tryRelease_kept]

theorem dropHolds_kept (s) : kept (dropHolds s) = kept s := by
  unfold dropHolds
  repeat' (first
    | with_reducible rfl
    | with_reducible assumption
    | simp only [dropHold_kept]
    | with_reducible refine fst_kept (by assumption) ?_
    | with_reducible refine snd_kept (by assumption) ?_
    | with_reducible refine (foldl_kept _ _ _ (fun _ _ => ?_)).trans ?_)

theorem dmpDiscard_kept (x0 s) : kept (dmpDiscard x0 s) = kept s := by
  unfold dmpDiscard
  simp only [kept_mk, kept_fold, kept_ite, ite_self, dropHold_kept, dropHolds_kept]

theorem overEmbers_kept (x0 x1 x2 s) : kept (overEmbers x0 x1 x2 s) = kept s := by
  unfold overEmbers
  repeat' (first
    | with_reducible rfl
    | with_reducible assumption
    | simp only [State.mapEmbers_kept, State.modEmber_kept]
    | with_reducible refine fst_kept (by assumption) ?_
    | with_reducible refine snd_kept (by assumption) ?_
    | with_reducible refine (foldl_kept _ _ _ (fun _ _ => ?_)).trans ?_)

theorem sliceCheck_kept (x0 x1 s) : kept (sliceCheck x0 x1 s).1 = kept s := by
  unfold sliceCheck
  simp only [kept_ite, ite_self, overEmbers_kept]

theorem moduleCheck_kept (x0 s) : kept (moduleCheck x0 s).1 = kept s := by
  unfold moduleCheck
  simp only [kept_mk, kept_fold]

theorem dmpResult_kept (x0 x1 s) : kept (dmpResult x0 x1 s) = kept s := by
  unfold dmpResult
  simp only [kept_mk, kept_fold]

theorem dmpArm_kept (x0 s) : kept (dmpArm x0 s) = kept s := by
  unfold dmpArm
  simp only [kept_mk, kept_fold, kept_ite, ite_self, holdBe_kept, modImage_kept]

theorem dmpCommit_kept (x0 s) : kept (dmpCommit x0 s) = kept s := by
  unfold dmpCommit
  repeat' (first
    | with_reducible rfl
    | with_reducible assumption
    | simp only [kept_ite, ite_self, dmpArm_kept, dmpDiscard_kept, dmpResult_kept, moduleCheck_kept, sliceCheck_kept]
    | with_reducible refine fst_kept (by assumption) ?_
    | with_reducible refine snd_kept (by assumption) ?_
    | with_reducible refine (foldl_kept _ _ _ (fun _ _ => ?_)).trans ?_
    | split
    | simp only [kept_ite, ite_self, dmpArm_kept, dmpDiscard_kept, dmpResult_kept])

theorem sliceMoved_kept (x0 s) : kept (sliceMoved x0 s) = kept s := by
  unfold sliceMoved
  repeat' (first
    | with_reducible rfl
    | with_reducible assumption
    | simp only [State.mapEmbers_kept, loseContext_kept]
    | with_reducible refine fst_kept (by assumption) ?_
    | with_reducible refine snd_kept (by assumption) ?_
    | with_reducible refine (foldl_kept _ _ _ (fun _ _ => ?_)).trans ?_
    | split
    | (simp only))

theorem applyPartImage_kept (x0 s) : kept (applyPartImage x0 s) = kept s := by
  unfold applyPartImage
  simp only [kept_mk, kept_fold, kept_ite, ite_self, dropHold_kept, overEmbers_kept, sliceMoved_kept]

theorem applyModuleEntry_kept (x0 s) : kept (applyModuleEntry x0 s) = kept s := by
  unfold applyModuleEntry
  simp only [kept_mk, kept_fold, kept_ite, ite_self, State.modFlue_kept]

theorem applyModule_kept (s) : kept (applyModule s) = kept s := by
  unfold applyModule
  repeat' (first
    | with_reducible rfl
    | with_reducible assumption
    | simp only [kept_mk, kept_fold, applyModuleEntry_kept, dropHolds_kept, holdBe_kept]
    | with_reducible refine fst_kept (by assumption) ?_
    | with_reducible refine snd_kept (by assumption) ?_
    | with_reducible refine (foldl_kept _ _ _ (fun _ _ => ?_)).trans ?_
    | split
    | simp only [kept_mk, kept_fold, dropHolds_kept])

theorem execDamperApply_kept (x0 s) {k} (hk : kept s = k) : KeptOut k (execDamperApply x0 s) := by
  subst hk
  unfold execDamperApply
  simp only [kept_ite, ite_self, keptOut_next, applyModule_kept, applyPartImage_kept]

theorem execDamperTimeout_kept (x0 s) {k} (hk : kept s = k) : KeptOut k (execDamperTimeout x0 s) := by
  subst hk
  unfold execDamperTimeout
  simp only [kept_mk, kept_fold, kept_ite, ite_self, keptOut_next, dmpDiscard_kept]

theorem execDraughtQuiescent_kept (s) {k} (hk : kept s = k) : KeptOut k (execDraughtQuiescent s) := by
  subst hk
  unfold execDraughtQuiescent
  simp only [kept_ite, ite_self, keptOut_next, applyModule_kept]

theorem flueLanes_kept (s) : kept (flueLanes s) = kept s := by
  unfold flueLanes
  repeat' (first
    | with_reducible rfl
    | with_reducible assumption
    | simp only [kept_ite, ite_self, State.modFlue_kept, enqueueLink_kept]
    | with_reducible refine fst_kept (by assumption) ?_
    | with_reducible refine snd_kept (by assumption) ?_
    | with_reducible refine (foldl_kept _ _ _ (fun _ _ => ?_)).trans ?_)

theorem execDraughtChangeDone_kept (s) {k} (hk : kept s = k) : KeptOut k (execDraughtChangeDone s) := by
  subst hk
  unfold execDraughtChangeDone
  repeat' (first
    | with_reducible rfl
    | with_reducible assumption
    | simp only [kept_mk, kept_fold, kept_ite, keptOut_next, dropHolds_kept, flueLanes_kept]
    | with_reducible refine fst_kept (by assumption) ?_
    | with_reducible refine snd_kept (by assumption) ?_
    | with_reducible refine (foldl_kept _ _ _ (fun _ _ => ?_)).trans ?_
    | split)

theorem resumeAll_kept (s) : kept (resumeAll s) = kept s := by
  unfold resumeAll
  simp only [kept_mk, kept_fold]

theorem openNoCert_kept (s) : kept (openNoCert s) = kept s := by
  unfold openNoCert
  simp only [kept_mk, kept_fold, kept_ite, ite_self, sootEvent_kept]

theorem endSession_kept (s) : kept (endSession s) = kept s := by
  unfold endSession
  simp only [kept_mk, kept_fold, kept_ite, ite_self, openNoCert_kept, resumeAll_kept]

theorem execDebugSessionExpire_kept (s) {k} (hk : kept s = k) : KeptOut k (execDebugSessionExpire s) := by
  subst hk
  unfold execDebugSessionExpire
  repeat' (first
    | with_reducible rfl
    | with_reducible assumption
    | simp only [kept_ite, ite_self, keptOut_next, endSession_kept]
    | with_reducible refine fst_kept (by assumption) ?_
    | with_reducible refine snd_kept (by assumption) ?_
    | with_reducible refine (foldl_kept _ _ _ (fun _ _ => ?_)).trans ?_
    | split)

theorem foldl_snd_kept {α β : Type} (l : List α) (f : β × State → α → β × State) (p : β × State) {k} (hp : kept p.2 = k)
    (h : ∀ q x, kept q.2 = k → kept (f q x).2 = k) : kept (l.foldl f p).2 = k := by
  induction l generalizing p with
  | nil => exact hp
  | cons x t ih => exact ih _ (h _ _ hp)

theorem provisionBurns_kept (s) : kept (provisionBurns s).2 = kept s := by
  unfold provisionBurns
  exact foldl_snd_kept _ _ _ rfl (fun q _ hq => (State.draw_kept q.2).trans hq)

theorem lcSoot_kept (x0 x1 x2 s) : kept (lcSoot x0 x1 x2 s) = kept s := by
  unfold lcSoot
  simp only [kept_ite, ite_self, sootEvent_kept]

theorem lcRequest_kept (target s) : kept (lcRequest target s) = kept s := by
  have hm : ∀ (f : LifeCycle → LifeCycle) (t : State), (f t.lc).otp = t.lc.otp → (f t.lc).lcState = t.lc.lcState → kept (t.modLc f) = kept t := by
    intro f t h1 h2
    simp only [kept, State.modLc, h1, h2]
  have hp : kept (if (lcTargetOf target).getD .invalid = .provisioned then
        ((provisionBurns s).1 ++ [groupBurn ((lcTargetOf target).getD .invalid)], (provisionBurns s).2)
      else (groupBurn ((lcTargetOf target).getD .invalid) :: (wipeWords ((lcTargetOf target).getD .invalid)).map onesBurn, s)).2 = kept s := by
    rw [apply_ite Prod.snd, kept_ite, provisionBurns_kept, ite_self]
  unfold lcRequest
  simp only
  split
  · rw [hm _ _ rfl rfl, kept_ite, hm _ _ rfl rfl, ite_self]
  · rw [hm _ _ rfl rfl, hm _ _ rfl rfl, lcSoot_kept]
    exact hp

theorem execLcGo_kept (x0 x1 s) {k} (hk : kept s = k) : KeptOut k (execLcGo x0 x1 s) := by
  subst hk
  unfold execLcGo
  simp only [kept_mk, kept_fold, kept_ite, ite_self, keptOut_next, State.modLc, lcRequest_kept]

theorem lcComplete_kept (x0 x1 s) : kept (lcComplete x0 x1 s) = kept s := by
  unfold lcComplete
  simp only [kept_mk, kept_fold, State.modLc, endSession_kept, lcSoot_kept]

theorem execReturnEraseDone_kept (s) {k} (hk : kept s = k) : KeptOut k (execReturnEraseDone s) := by
  subst hk
  unfold execReturnEraseDone
  simp only [kept_mk, kept_fold, kept_ite, ite_self, keptOut_next, State.modLc, sootEvent_kept]

theorem lightFail_kept (x0 s) : kept (lightFail x0 s) = kept s := by
  unfold lightFail
  simp only [kept_mk, kept_fold, kept_ite, ite_self, State.modPower, setFault_kept, sootEvent_kept]

theorem execAoUpDone_kept (s) {k} (hk : kept s = k) : KeptOut k (execAoUpDone s) := by
  subst hk
  unfold execAoUpDone
  simp only [kept_mk, kept_fold, kept_ite, ite_self, keptOut_next, State.modPower]

theorem loadSlots_kept (s) : kept (loadSlots s) = kept s := by
  unfold loadSlots
  repeat' (first
    | with_reducible rfl
    | with_reducible assumption
    | simp only [kept_mk, kept_fold, State.draw_kept, setSlot_kept]
    | with_reducible refine fst_kept (by assumption) ?_
    | with_reducible refine snd_kept (by assumption) ?_
    | with_reducible refine (foldl_kept _ _ _ (fun _ _ => ?_)).trans ?_)

theorem useSpare_kept (x0 x1 s) : kept (useSpare x0 x1 s) = kept s := by
  unfold useSpare
  simp only [kept_mk, kept_fold, kept_ite, ite_self, State.modPower]

theorem factoryRepair_kept (s) : kept (factoryRepair s) = kept s := by
  unfold factoryRepair
  repeat' (first
    | with_reducible rfl
    | with_reducible assumption
    | simp only [kept_mk, kept_fold, kept_ite, State.modPower, State.modEmber_kept, useSpare_kept]
    | with_reducible refine fst_kept (by assumption) ?_
    | with_reducible refine snd_kept (by assumption) ?_
    | with_reducible refine (foldl_kept _ _ _ (fun _ _ => ?_)).trans ?_
    | split
    | simp only [kept_mk, kept_fold, kept_ite, State.modPower])

theorem reapply_kept (x0 s) : kept (reapply x0 s) = kept s := by
  unfold reapply
  simp only [kept_ite, ite_self, State.modEmber_kept, State.modFlue_kept, useSpare_kept]

theorem execHsBistDone_kept (x0 s) {k} (hk : kept s = k) : KeptOut k (execHsBistDone x0 s) := by
  subst hk
  unfold execHsBistDone
  simp only [kept_mk, kept_fold, kept_ite, ite_self, keptOut_next, State.modPower, lightFail_kept]

theorem execSelftestDone_kept (x0 s) {k} (hk : kept s = k) : KeptOut k (execSelftestDone x0 s) := by
  subst hk
  unfold execSelftestDone
  simp only [kept_mk, kept_fold, kept_ite, ite_self, keptOut_next, State.modPower, lightFail_kept]

theorem bistFail_kept (x0 x1 s) : kept (bistFail x0 x1 s) = kept s := by
  unfold bistFail
  repeat' (first
    | with_reducible rfl
    | with_reducible assumption
    | simp only [kept_ite, ite_self, State.modEmber_kept, lightFail_kept, retireSoot_kept, useSpare_kept]
    | with_reducible refine fst_kept (by assumption) ?_
    | with_reducible refine snd_kept (by assumption) ?_
    | with_reducible refine (foldl_kept _ _ _ (fun _ _ => ?_)).trans ?_
    | split)

theorem execComputeBistDone_kept (x0 s) {k} (hk : kept s = k) : KeptOut k (execComputeBistDone x0 s) := by
  subst hk
  unfold execComputeBistDone
  repeat' (first
    | with_reducible rfl
    | with_reducible assumption
    | simp only [kept_mk, kept_fold, kept_ite, ite_self, keptOut_next, State.modPower, bistFail_kept, lightFail_kept]
    | with_reducible refine fst_kept (by assumption) ?_
    | with_reducible refine snd_kept (by assumption) ?_
    | with_reducible refine (foldl_kept _ _ _ (fun _ _ => ?_)).trans ?_
    | split
    | simp only [kept_mk, kept_fold, kept_ite, ite_self, keptOut_next, State.modPower, lightFail_kept])

theorem execHbmTrainDone_kept (x0 s) {k} (hk : kept s = k) : KeptOut k (execHbmTrainDone x0 s) := by
  subst hk
  unfold execHbmTrainDone
  simp only [kept_mk, kept_fold, kept_ite, ite_self, keptOut_next, State.modPower, lightFail_kept]

theorem execReadyEntry_kept (s) {k} (hk : kept s = k) : KeptOut k (execReadyEntry s) := by
  subst hk
  unfold execReadyEntry
  simp only [kept_mk, kept_fold, kept_ite, ite_self, keptOut_next, State.modPower, State.modLc, openNoCert_kept]

theorem execLightTimeout_kept (s) {k} (hk : kept s = k) : KeptOut k (execLightTimeout s) := by
  subst hk
  unfold execLightTimeout
  simp only [kept_ite, ite_self, keptOut_next, lightFail_kept]

theorem parityHalt_kept (n addr s) : kept (parityHalt n addr s) = kept s := by
  have h := securityAlarm_kept n 0 0 none s
  simp only [kept, Prod.mk.injEq] at h
  obtain ⟨h1, h2, h3, h4, h5, -, h7, h8⟩ := h
  unfold parityHalt
  simp only
  rw [setFault_kept, sootEvent_kept]
  simp only [kept, State.modPart, Prod.mk.injEq]
  exact ⟨h1, h2, h3, h4, h5, trivial, h7, h8⟩

theorem execConfigParityCheck_kept (x0 x1 s) {k} (hk : kept s = k) : KeptOut k (execConfigParityCheck x0 x1 s) := by
  subst hk
  unfold execConfigParityCheck
  repeat' (first
    | with_reducible rfl
    | with_reducible assumption
    | simp only [kept_ite, ite_self, keptOut_next, lightFail_kept, parityHalt_kept]
    | with_reducible refine fst_kept (by assumption) ?_
    | with_reducible refine snd_kept (by assumption) ?_
    | with_reducible refine (foldl_kept _ _ _ (fun _ _ => ?_)).trans ?_
    | split)

theorem thermMargin_kept (x0 s) : kept (thermMargin x0 s) = kept s := by
  unfold thermMargin
  simp only [kept_mk, kept_fold, kept_ite, ite_self, State.modPower, healthWarn_kept]

theorem execThermTripFlashOff_kept (s) {k} (hk : kept s = k) : KeptOut k (execThermTripFlashOff s) := by
  subst hk
  unfold execThermTripFlashOff
  simp only [kept_mk, kept_fold, kept_ite, ite_self, keptOut_next, State.modPower]

theorem modLc_kept (f : LifeCycle → LifeCycle) (s : State) (h1 : (f s.lc).otp = s.lc.otp) (h2 : (f s.lc).lcState = s.lc.lcState) :
    kept (s.modLc f) = kept s := by
  simp only [kept, State.modLc, h1, h2]

theorem execHoldupSample_kept (v s) {k} (hk : kept s = k) : KeptOut k (execHoldupSample v s) := by
  unfold execHoldupSample
  rw [keptOut_next]
  split
  · exact (modLc_kept _ _ rfl rfl).trans hk
  · exact hk

theorem execPowerAverage_kept (x0 s) {k} (hk : kept s = k) : KeptOut k (execPowerAverage x0 s) := by
  subst hk
  unfold execPowerAverage
  simp only [kept_mk, kept_fold, kept_ite, ite_self, keptOut_next, State.modPower]

theorem setIdle_kept (x0 x1 s) : kept (setIdle x0 x1 s) = kept s := by
  unfold setIdle
  repeat' (first
    | with_reducible rfl
    | with_reducible assumption
    | simp only [kept_mk, kept_fold, State.modPower]
    | with_reducible refine fst_kept (by assumption) ?_
    | with_reducible refine snd_kept (by assumption) ?_
    | with_reducible refine (foldl_kept _ _ _ (fun _ _ => ?_)).trans ?_
    | split)

theorem execUnitIdle_kept (x0 s) {k} (hk : kept s = k) : KeptOut k (execUnitIdle x0 s) := by
  subst hk
  unfold execUnitIdle
  simp only [kept_ite, ite_self, keptOut_next, setIdle_kept]

theorem execUnitWake_kept (x0 s) {k} (hk : kept s = k) : KeptOut k (execUnitWake x0 s) := by
  subst hk
  unfold execUnitWake
  simp only [kept_ite, ite_self, keptOut_next, setIdle_kept]

theorem execHealthWindow_kept (s) {k} (hk : kept s = k) : KeptOut k (execHealthWindow s) := by
  subst hk
  unfold execHealthWindow
  simp only [kept_mk, kept_fold, kept_ite, ite_self, keptOut_next, healthSpares_kept]

theorem execSlowdownInterval_kept (x0 x1 x2 s) {k} (hk : kept s = k) : KeptOut k (execSlowdownInterval x0 x1 x2 s) := by
  subst hk
  unfold execSlowdownInterval
  simp only [kept_ite, ite_self, keptOut_next, State.modPart_kept]

theorem execRevote_kept (x0 s) {k} (hk : kept s = k) : KeptOut k (execRevote x0 s) := by
  subst hk
  unfold execRevote
  simp only [kept_mk, kept_fold, kept_ite, ite_self, keptOut_next]

theorem execEntropySample_kept (x0 s) {k} (hk : kept s = k) : KeptOut k (execEntropySample x0 s) := by
  subst hk
  unfold execEntropySample
  simp only [kept_mk, kept_fold, kept_ite, ite_self, keptOut_next, setFault_kept, sootEvent_kept]

theorem refreshSlots_kept (x0 x1 s) : kept (refreshSlots x0 x1 s) = kept s := by
  induction x0 generalizing x1 s with
  | zero => unfold refreshSlots; repeat' (first
      | with_reducible rfl)
  | succ m ih =>
    unfold refreshSlots
    repeat' (first
      | with_reducible rfl
      | with_reducible assumption
      | simp only [kept_mk, kept_fold, State.draw_kept, ih])

theorem refreshCache_kept (x0 s) : kept (refreshCache x0 s).2 = kept s := by
  induction x0 generalizing s with
  | nil => unfold refreshCache; repeat' (first
      | with_reducible rfl)
  | cons hd tl ih =>
    unfold refreshCache
    repeat' (first
      | with_reducible rfl
      | with_reducible assumption
      | simp only [State.draw_kept, ih])

theorem execMaskRefresh_kept (s) {k} (hk : kept s = k) : KeptOut k (execMaskRefresh s) := by
  subst hk
  unfold execMaskRefresh
  simp only [kept_mk, kept_fold, kept_ite, ite_self, keptOut_next, refreshCache_kept, refreshSlots_kept]

theorem mkGo_kept (x0 s) : kept (mkGo x0 s) = kept s := by
  unfold mkGo
  simp only [kept_mk, kept_fold, kept_ite, ite_self, State.modPart_kept]

theorem execMkGo_kept (x0 x1 s) {k} (hk : kept s = k) : KeptOut k (execMkGo x0 x1 s) := by
  subst hk
  unfold execMkGo
  simp only [kept_mk, kept_fold, kept_ite, ite_self, keptOut_next, mkGo_kept]

theorem execKeyIdReady_kept (s) {k} (hk : kept s = k) : KeptOut k (execKeyIdReady s) := by
  subst hk
  unfold execKeyIdReady
  repeat' (first
    | with_reducible rfl
    | with_reducible assumption
    | simp only [kept_mk, kept_fold, kept_ite, keptOut_next, askReport_kept]
    | with_reducible refine fst_kept (by assumption) ?_
    | with_reducible refine snd_kept (by assumption) ?_
    | with_reducible refine (foldl_kept _ _ _ (fun _ _ => ?_)).trans ?_
    | split
    | simp only [keptOut_next])

theorem modCv_kept (x0 x1 s) : kept (modCv x0 x1 s) = kept s := by
  unfold modCv
  simp only [kept_mk, kept_fold]

theorem cvFeed_kept (x0 x1 x2 s) : kept (cvFeed x0 x1 x2 s) = kept s := by
  unfold cvFeed
  simp only [modCv_kept]

theorem cvCtrl_kept (x0 x1 s) : kept (cvCtrl x0 x1 s) = kept s := by
  unfold cvCtrl
  simp only [modCv_kept]

theorem execCvCtrl_kept (x0 x1 x2 s) {k} (hk : kept s = k) : KeptOut k (execCvCtrl x0 x1 x2 s) := by
  subst hk
  unfold execCvCtrl
  simp only [kept_ite, ite_self, keptOut_next, cvCtrl_kept]

theorem execCvFeed8_kept (x0 x1 x2 s) {k} (hk : kept s = k) : KeptOut k (execCvFeed8 x0 x1 x2 s) := by
  subst hk
  unfold execCvFeed8
  simp only [kept_ite, ite_self, keptOut_next, cvFeed_kept]

theorem execCvFeed16_kept (x0 x1 x2 s) {k} (hk : kept s = k) : KeptOut k (execCvFeed16 x0 x1 x2 s) := by
  subst hk
  unfold execCvFeed16
  simp only [kept_ite, ite_self, keptOut_next, cvFeed_kept]

theorem execCvFeed32_kept (x0 x1 x2 s) {k} (hk : kept s = k) : KeptOut k (execCvFeed32 x0 x1 x2 s) := by
  subst hk
  unfold execCvFeed32
  simp only [kept_ite, ite_self, keptOut_next, cvFeed_kept]

theorem dmpCtrl_kept (x0 x1 s) : kept (dmpCtrl x0 x1 s) = kept s := by
  unfold dmpCtrl
  simp only [kept_ite, ite_self, dmpCommit_kept, dmpDiscard_kept, modMaster_kept]

theorem execDmpData_kept (x0 x1 s) {k} (hk : kept s = k) : KeptOut k (execDmpData x0 x1 s) := by
  subst hk
  unfold execDmpData
  simp only [kept_ite, ite_self, keptOut_next, dmpStage_kept]

theorem execDmpCommit_kept (x0 x1 s) {k} (hk : kept s = k) : KeptOut k (execDmpCommit x0 x1 s) := by
  subst hk
  unfold execDmpCommit
  simp only [kept_ite, ite_self, keptOut_next, dmpCommit_kept, modMaster_kept]

theorem execDmpAbort_kept (x0 x1 s) {k} (hk : kept s = k) : KeptOut k (execDmpAbort x0 x1 s) := by
  subst hk
  unfold execDmpAbort
  simp only [kept_ite, ite_self, keptOut_next, dmpDiscard_kept, modMaster_kept]

theorem execMbxSel_kept (x0 x1 s) {k} (hk : kept s = k) : KeptOut k (execMbxSel x0 x1 s) := by
  subst hk
  unfold execMbxSel
  simp only [kept_ite, ite_self, keptOut_next, mailboxTake_kept]

theorem recHead_kept (x0 x1 s) : kept (recHead x0 x1 s) = kept s := by
  unfold recHead
  simp only [State.modFn_kept, drainHeld_kept]

theorem execHostRecHead_kept (x0 x1 x2 s) {k} (hk : kept s = k) : KeptOut k (execHostRecHead x0 x1 x2 s) := by
  subst hk
  unfold execHostRecHead
  simp only [kept_ite, ite_self, keptOut_next, recHead_kept]

theorem writeCommon_kept (x0 x1 x2 s) : kept (writeCommon x0 x1 x2 s) = kept s := by
  unfold writeCommon
  repeat' (first
    | with_reducible rfl
    | with_reducible assumption
    | simp only [kept_mk, kept_fold, kept_ite, ite_self, dmpCtrl_kept, dmpStage_kept, mailboxTake_kept, modMaster_kept]
    | with_reducible refine fst_kept (by assumption) ?_
    | with_reducible refine snd_kept (by assumption) ?_
    | with_reducible refine (foldl_kept _ _ _ (fun _ _ => ?_)).trans ?_
    | split)

theorem writePower_kept (x0 x1 s) : kept (writePower x0 x1 s) = kept s := by
  unfold writePower
  repeat' (first
    | with_reducible rfl
    | with_reducible assumption
    | simp only [kept_mk, kept_fold, State.modPower]
    | with_reducible refine fst_kept (by assumption) ?_
    | with_reducible refine snd_kept (by assumption) ?_
    | with_reducible refine (foldl_kept _ _ _ (fun _ _ => ?_)).trans ?_
    | split)

theorem writeSentinel_kept (x0 x1 s) : kept (writeSentinel x0 x1 s) = kept s := by
  unfold writeSentinel
  repeat' (first
    | with_reducible rfl
    | with_reducible assumption
    | simp only [kept_mk, kept_fold]
    | with_reducible refine fst_kept (by assumption) ?_
    | with_reducible refine snd_kept (by assumption) ?_
    | with_reducible refine (foldl_kept _ _ _ (fun _ _ => ?_)).trans ?_
    | split)

theorem writeSweep_kept (x0 x1 s) : kept (writeSweep x0 x1 s) = kept s := by
  unfold writeSweep
  repeat' (first
    | with_reducible rfl
    | with_reducible assumption
    | simp only [kept_mk, kept_fold, kept_ite, sweepRequest_kept]
    | with_reducible refine fst_kept (by assumption) ?_
    | with_reducible refine snd_kept (by assumption) ?_
    | with_reducible refine (foldl_kept _ _ _ (fun _ _ => ?_)).trans ?_
    | split)

theorem writeFabric_kept (x0 x1 s) : kept (writeFabric x0 x1 s) = kept s := by
  unfold writeFabric
  repeat' (first
    | with_reducible rfl
    | with_reducible assumption
    | simp only [kept_mk, kept_fold]
    | with_reducible refine fst_kept (by assumption) ?_
    | with_reducible refine snd_kept (by assumption) ?_
    | with_reducible refine (foldl_kept _ _ _ (fun _ _ => ?_)).trans ?_
    | split)

theorem writeKindling_kept (x0 x1 s) : kept (writeKindling x0 x1 s) = kept s := by
  unfold writeKindling
  repeat' (first
    | with_reducible rfl
    | with_reducible assumption
    | simp only [kept_ite, ite_self, State.modKs_kept, ksFormat_kept]
    | with_reducible refine fst_kept (by assumption) ?_
    | with_reducible refine snd_kept (by assumption) ?_
    | with_reducible refine (foldl_kept _ _ _ (fun _ _ => ?_)).trans ?_
    | split)

theorem writeKey_kept (x0 x1 s) : kept (writeKey x0 x1 s) = kept s := by
  unfold writeKey
  repeat' (first
    | with_reducible rfl
    | with_reducible assumption
    | simp only [kept_mk, kept_fold, kept_ite, ite_self, mkGo_kept]
    | with_reducible refine fst_kept (by assumption) ?_
    | with_reducible refine snd_kept (by assumption) ?_
    | with_reducible refine (foldl_kept _ _ _ (fun _ _ => ?_)).trans ?_
    | split)

theorem writeLife_kept (x0 x1 s) : kept (writeLife x0 x1 s) = kept s := by
  unfold writeLife
  simp only [kept_mk, kept_fold, kept_ite, ite_self, State.modLc, lcRequest_kept]

theorem writeSoot_kept (x0 x1 x2 s) : kept (writeSoot x0 x1 x2 s) = kept s := by
  unfold writeSoot
  repeat' (first
    | with_reducible rfl
    | with_reducible assumption
    | simp only [kept_mk, kept_fold, kept_ite, ite_self, modMaster_kept]
    | with_reducible refine fst_kept (by assumption) ?_
    | with_reducible refine snd_kept (by assumption) ?_
    | with_reducible refine (foldl_kept _ _ _ (fun _ _ => ?_)).trans ?_
    | split)

theorem writeCv_kept (x0 x1 x2 s) : kept (writeCv x0 x1 x2 s) = kept s := by
  unfold writeCv
  repeat' (first
    | with_reducible rfl
    | with_reducible assumption
    | simp only [cvCtrl_kept, cvFeed_kept, modCv_kept]
    | with_reducible refine fst_kept (by assumption) ?_
    | with_reducible refine snd_kept (by assumption) ?_
    | with_reducible refine (foldl_kept _ _ _ (fun _ _ => ?_)).trans ?_
    | split)

theorem writeFlue_kept (x0 x1 x2 s) : kept (writeFlue x0 x1 x2 s) = kept s := by
  unfold writeFlue
  repeat' (first
    | with_reducible rfl
    | with_reducible assumption
    | simp only [kept_ite, ite_self, State.modFlue_kept, flueDisable_kept, flueEnable_kept, flueUnquar_kept]
    | with_reducible refine fst_kept (by assumption) ?_
    | with_reducible refine snd_kept (by assumption) ?_
    | with_reducible refine (foldl_kept _ _ _ (fun _ _ => ?_)).trans ?_
    | split)

theorem writeStep_kept (x0 x1 x2 s) : kept (writeStep x0 x1 x2 s) = kept s := by
  unfold writeStep
  repeat' (first
    | with_reducible rfl
    | with_reducible assumption
    | simp only [State.modPart_kept]
    | with_reducible refine fst_kept (by assumption) ?_
    | with_reducible refine snd_kept (by assumption) ?_
    | with_reducible refine (foldl_kept _ _ _ (fun _ _ => ?_)).trans ?_
    | split)

theorem writeMemory_kept (x0 x1 x2 s) : kept (writeMemory x0 x1 x2 s) = kept s := by
  unfold writeMemory
  repeat' (first
    | with_reducible rfl
    | with_reducible assumption
    | simp only [State.modPart_kept]
    | with_reducible refine fst_kept (by assumption) ?_
    | with_reducible refine snd_kept (by assumption) ?_
    | with_reducible refine (foldl_kept _ _ _ (fun _ _ => ?_)).trans ?_
    | split)

theorem writeProt_kept (x0 x1 x2 s) : kept (writeProt x0 x1 x2 s) = kept s := by
  unfold writeProt
  simp only [kept_ite, ite_self, State.modPart_kept]

theorem writeTree_kept (x0 x1 x2 s) : kept (writeTree x0 x1 x2 s) = kept s := by
  unfold writeTree
  simp only [kept_ite, ite_self, State.modPart_kept]

theorem writeRelight_kept (x0 x1 x2 s) : kept (writeRelight x0 x1 x2 s) = kept s := by
  unfold writeRelight
  repeat' (first
    | with_reducible rfl
    | with_reducible assumption
    | simp only [kept_ite, ite_self, State.modPart_kept, rlHandback_kept]
    | with_reducible refine fst_kept (by assumption) ?_
    | with_reducible refine snd_kept (by assumption) ?_
    | with_reducible refine (foldl_kept _ _ _ (fun _ _ => ?_)).trans ?_
    | split)

theorem writeCkpt_kept (x0 x1 x2 s) : kept (writeCkpt x0 x1 x2 s) = kept s := by
  unfold writeCkpt
  repeat' (first
    | with_reducible rfl
    | with_reducible assumption
    | simp only [kept_ite, ite_self, State.modPart_kept, ckAsk_kept]
    | with_reducible refine fst_kept (by assumption) ?_
    | with_reducible refine snd_kept (by assumption) ?_
    | with_reducible refine (foldl_kept _ _ _ (fun _ _ => ?_)).trans ?_
    | split)

theorem writeCharter_kept (x0 x1 x2 s) : kept (writeCharter x0 x1 x2 s) = kept s := by
  unfold writeCharter
  repeat' (first
    | with_reducible rfl
    | with_reducible assumption
    | simp only [State.modPart_kept]
    | with_reducible refine fst_kept (by assumption) ?_
    | with_reducible refine snd_kept (by assumption) ?_
    | with_reducible refine (foldl_kept _ _ _ (fun _ _ => ?_)).trans ?_
    | split)

theorem writeHealth_kept (x0 x1 x2 s) : kept (writeHealth x0 x1 x2 s) = kept s := by
  unfold writeHealth
  simp only [kept_ite, ite_self, State.modPart_kept]

theorem adminEnable_kept (x0 s) : kept (adminEnable x0 s) = kept s := by
  unfold adminEnable
  simp only [State.modFn_kept, State.takeFree_kept]

theorem writeAdminCfg_kept (x0 x1 s) : kept (writeAdminCfg x0 x1 s) = kept s := by
  unfold writeAdminCfg
  simp only [kept_ite, ite_self, State.modFn_kept, adminEnable_kept]

theorem writeRecCfg_kept (x0 x1 s) : kept (writeRecCfg x0 x1 s) = kept s := by
  unfold writeRecCfg
  simp only [State.modFn_kept, drainHeld_kept]

theorem writeEmber_kept (x0 x1 x2 s) : kept (writeEmber x0 x1 x2 s) = kept s := by
  unfold writeEmber
  repeat' (first
    | with_reducible rfl
    | with_reducible assumption
    | simp only [kept_ite, ite_self, State.modEmber_kept, askRetirement_kept]
    | with_reducible refine fst_kept (by assumption) ?_
    | with_reducible refine snd_kept (by assumption) ?_
    | with_reducible refine (foldl_kept _ _ _ (fun _ _ => ?_)).trans ?_
    | split)

theorem sdpAnswer_kept (x0 x1 s) : kept (sdpAnswer x0 x1 s) = kept s := by
  unfold sdpAnswer
  simp only [State.emit_kept]

theorem sdpServe_kept (q op form right act s) {k} (hk : kept s = k) (ha : ∀ n, kept (act n s) = k) : KeptOut k (sdpServe q op form right act s) := by
  unfold sdpServe
  simp only [keptOut_next, kept_ite, sdpAnswer_kept, hk, ha, ite_self]

theorem execSdpSelRise_kept (s) {k} (hk : kept s = k) : KeptOut k (execSdpSelRise s) := by
  subst hk
  unfold execSdpSelRise
  simp only [keptOut_next]

theorem execSdpInfo_kept (x0 s) {k} (hk : kept s = k) : KeptOut k (execSdpInfo x0 s) := by
  subst hk
  unfold execSdpInfo
  repeat' (first
    | with_reducible rfl
    | with_reducible assumption
    | simp only [State.emit_kept]
    | with_reducible refine fst_kept (by assumption) ?_
    | with_reducible refine snd_kept (by assumption) ?_
    | with_reducible refine sdpServe_kept _ _ _ _ _ _ ?_ (fun _ => ?_))

theorem execSdpNonce_kept (x0 s) {k} (hk : kept s = k) : KeptOut k (execSdpNonce x0 s) := by
  subst hk
  unfold execSdpNonce
  repeat' (first
    | with_reducible rfl
    | with_reducible assumption
    | simp only [kept_mk, kept_fold, kept_ite, ite_self, State.draw_kept, endSession_kept, sdpAnswer_kept]
    | with_reducible refine fst_kept (by assumption) ?_
    | with_reducible refine snd_kept (by assumption) ?_
    | with_reducible refine sdpServe_kept _ _ _ _ _ _ ?_ (fun _ => ?_))

theorem execSdpOpen_kept (x0 s) {k} (hk : kept s = k) : KeptOut k (execSdpOpen x0 s) := by
  subst hk
  unfold execSdpOpen
  repeat' (first
    | with_reducible rfl
    | with_reducible assumption
    | simp only [kept_mk, kept_fold, kept_ite, ite_self, sdpAnswer_kept, sootEvent_kept]
    | with_reducible refine fst_kept (by assumption) ?_
    | with_reducible refine snd_kept (by assumption) ?_
    | with_reducible refine sdpServe_kept _ _ _ _ _ _ ?_ (fun _ => ?_))

theorem execSdpClose_kept (x0 s) {k} (hk : kept s = k) : KeptOut k (execSdpClose x0 s) := by
  subst hk
  unfold execSdpClose
  repeat' (first
    | with_reducible rfl
    | with_reducible assumption
    | simp only [kept_ite, ite_self, endSession_kept, sdpAnswer_kept]
    | with_reducible refine fst_kept (by assumption) ?_
    | with_reducible refine snd_kept (by assumption) ?_
    | with_reducible refine sdpServe_kept _ _ _ _ _ _ ?_ (fun _ => ?_))

theorem execSdpHalt_kept (x0 s) {k} (hk : kept s = k) : KeptOut k (execSdpHalt x0 s) := by
  subst hk
  unfold execSdpHalt
  repeat' (first
    | with_reducible rfl
    | with_reducible assumption
    | simp only [State.modEmber_kept, sdpAnswer_kept]
    | with_reducible refine fst_kept (by assumption) ?_
    | with_reducible refine snd_kept (by assumption) ?_
    | with_reducible refine sdpServe_kept _ _ _ _ _ _ ?_ (fun _ => ?_))

theorem execSdpResume_kept (x0 s) {k} (hk : kept s = k) : KeptOut k (execSdpResume x0 s) := by
  subst hk
  unfold execSdpResume
  repeat' (first
    | with_reducible rfl
    | with_reducible assumption
    | simp only [State.modEmber_kept, sdpAnswer_kept]
    | with_reducible refine fst_kept (by assumption) ?_
    | with_reducible refine snd_kept (by assumption) ?_
    | with_reducible refine sdpServe_kept _ _ _ _ _ _ ?_ (fun _ => ?_))

theorem execSdpStep_kept (x0 s) {k} (hk : kept s = k) : KeptOut k (execSdpStep x0 s) := by
  subst hk
  unfold execSdpStep
  repeat' (first
    | with_reducible rfl
    | with_reducible assumption
    | simp only [kept_ite, ite_self, State.modEmber_kept, sdpAnswer_kept]
    | with_reducible refine fst_kept (by assumption) ?_
    | with_reducible refine snd_kept (by assumption) ?_
    | with_reducible refine sdpServe_kept _ _ _ _ _ _ ?_ (fun _ => ?_))

theorem execSdpBkpt_kept (x0 s) {k} (hk : kept s = k) : KeptOut k (execSdpBkpt x0 s) := by
  subst hk
  unfold execSdpBkpt
  repeat' (first
    | with_reducible rfl
    | with_reducible assumption
    | simp only [State.modEmber_kept, sdpAnswer_kept]
    | with_reducible refine fst_kept (by assumption) ?_
    | with_reducible refine snd_kept (by assumption) ?_
    | with_reducible refine sdpServe_kept _ _ _ _ _ _ ?_ (fun _ => ?_))

theorem execSdpRreg_kept (x0 s) {k} (hk : kept s = k) : KeptOut k (execSdpRreg x0 s) := by
  subst hk
  unfold execSdpRreg
  repeat' (first
    | with_reducible rfl
    | with_reducible assumption
    | simp only [kept_ite, ite_self, State.emit_kept, sdpAnswer_kept]
    | with_reducible refine fst_kept (by assumption) ?_
    | with_reducible refine snd_kept (by assumption) ?_
    | with_reducible refine sdpServe_kept _ _ _ _ _ _ ?_ (fun _ => ?_))

theorem execSdpWreg_kept (x0 s) {k} (hk : kept s = k) : KeptOut k (execSdpWreg x0 s) := by
  subst hk
  unfold execSdpWreg
  repeat' (first
    | with_reducible rfl
    | with_reducible assumption
    | simp only [kept_ite, ite_self, State.modThread_kept, sdpAnswer_kept]
    | with_reducible refine fst_kept (by assumption) ?_
    | with_reducible refine snd_kept (by assumption) ?_
    | with_reducible refine sdpServe_kept _ _ _ _ _ _ ?_ (fun _ => ?_))

theorem sdpPages_kept {n a len write s v t} (h : sdpPages n a len write s = some (v, t)) : kept t = kept s := by
  unfold sdpPages at h
  obtain ⟨k, _, h⟩ := List.exists_of_findSome?_eq_some h
  split at h
  · cases h; rfl
  · cases h; rfl
  · cases h; rfl
  · split at h
    · cases h
      exact denyCount_kept ..
    · cases h

theorem sdpParity_kept (x0 x1 x2 s) : kept (sdpParity x0 x1 x2 s) = kept s := by
  unfold sdpParity
  simp only [kept_ite, ite_self, State.modEmber_kept, retireUnowned_kept, startAbort_kept]

theorem execSdpRmem_kept (x0 s) {k} (hk : kept s = k) : KeptOut k (execSdpRmem x0 s) := by
  subst hk
  unfold execSdpRmem
  repeat' (first
    | with_reducible rfl
    | with_reducible assumption
    | simp only [kept_ite, ite_self, outsideRead_kept, sdpAnswer_kept, sdpParity_kept]
    | with_reducible refine fst_kept (by assumption) ?_
    | with_reducible refine snd_kept (by assumption) ?_
    | with_reducible exact sdpPages_kept (by assumption)
    | with_reducible refine (sdpPages_kept (by assumption)).trans ?_
    | with_reducible refine sdpServe_kept _ _ _ _ _ _ ?_ (fun _ => ?_)
    | with_reducible refine (foldl_kept _ _ _ (fun _ _ => ?_)).trans ?_
    | split
    | simp only [sdpAnswer_kept])

theorem execSdpWmem_kept (x0 s) {k} (hk : kept s = k) : KeptOut k (execSdpWmem x0 s) := by
  subst hk
  unfold execSdpWmem
  repeat' (first
    | with_reducible rfl
    | with_reducible assumption
    | simp only [kept_ite, ite_self, State.modPart_kept, denyCount_kept, outsidePut_kept, sdpAnswer_kept, storeScratch_kept]
    | with_reducible refine fst_kept (by assumption) ?_
    | with_reducible refine snd_kept (by assumption) ?_
    | with_reducible exact outsideWait_kept (by assumption)
    | with_reducible refine (outsideWait_kept (by assumption)).trans ?_
    | with_reducible exact sdpPages_kept (by assumption)
    | with_reducible refine (sdpPages_kept (by assumption)).trans ?_
    | with_reducible refine sdpServe_kept _ _ _ _ _ _ ?_ (fun _ => ?_)
    | with_reducible refine (foldl_kept _ _ _ (fun _ _ => ?_)).trans ?_
    | split
    | simp only [kept_ite, denyCount_kept, sdpAnswer_kept])

theorem execSdpRcsr_kept (x0 s) {k} (hk : kept s = k) : KeptOut k (execSdpRcsr x0 s) := by
  subst hk
  unfold execSdpRcsr
  repeat' (first
    | with_reducible rfl
    | with_reducible assumption
    | simp only [sdpAnswer_kept]
    | with_reducible refine fst_kept (by assumption) ?_
    | with_reducible refine snd_kept (by assumption) ?_
    | with_reducible refine sdpServe_kept _ _ _ _ _ _ ?_ (fun _ => ?_))

theorem execSdpRsoot_kept (x0 s) {k} (hk : kept s = k) : KeptOut k (execSdpRsoot x0 s) := by
  subst hk
  unfold execSdpRsoot
  repeat' (first
    | with_reducible rfl
    | with_reducible assumption
    | simp only [sdpAnswer_kept]
    | with_reducible refine fst_kept (by assumption) ?_
    | with_reducible refine snd_kept (by assumption) ?_
    | with_reducible refine sdpServe_kept _ _ _ _ _ _ ?_ (fun _ => ?_))

theorem i3cAnswer_kept (x0 x1 s) : kept (i3cAnswer x0 x1 s) = kept s := by
  unfold i3cAnswer
  simp only [kept_mk, kept_fold, State.emit_kept]

theorem i3cServe_kept (w cmd form act s) {k} (hk : kept s = k) (ha : kept (act s) = k) : KeptOut k (i3cServe w cmd form act s) := by
  unfold i3cServe
  simp only [keptOut_next, kept_ite, i3cAnswer_kept, hk, ha, ite_self]

theorem execI3cReport_kept (x0 s) {k} (hk : kept s = k) : KeptOut k (execI3cReport x0 s) := by
  subst hk
  unfold execI3cReport
  repeat' (first
    | with_reducible rfl
    | with_reducible assumption
    | simp only [kept_mk, kept_fold, kept_ite, ite_self, askReport_kept, i3cAnswer_kept]
    | with_reducible refine fst_kept (by assumption) ?_
    | with_reducible refine snd_kept (by assumption) ?_
    | with_reducible refine i3cServe_kept _ _ _ _ _ ?_ ?_)

theorem execI3cQuick_kept (x0 s) {k} (hk : kept s = k) : KeptOut k (execI3cQuick x0 s) := by
  subst hk
  unfold execI3cQuick
  repeat' (first
    | with_reducible rfl
    | with_reducible assumption
    | simp only [i3cAnswer_kept]
    | with_reducible refine fst_kept (by assumption) ?_
    | with_reducible refine snd_kept (by assumption) ?_
    | with_reducible refine i3cServe_kept _ _ _ _ _ ?_ ?_
    | with_reducible refine (foldl_kept _ _ _ (fun _ _ => ?_)).trans ?_
    | split)

theorem execI3cQueryCap_kept (x0 s) {k} (hk : kept s = k) : KeptOut k (execI3cQueryCap x0 s) := by
  subst hk
  unfold execI3cQueryCap
  repeat' (first
    | with_reducible rfl
    | with_reducible assumption
    | simp only [i3cAnswer_kept]
    | with_reducible refine fst_kept (by assumption) ?_
    | with_reducible refine snd_kept (by assumption) ?_
    | with_reducible refine i3cServe_kept _ _ _ _ _ ?_ ?_)

theorem execI3cRcsr_kept (x0 s) {k} (hk : kept s = k) : KeptOut k (execI3cRcsr x0 s) := by
  subst hk
  unfold execI3cRcsr
  repeat' (first
    | with_reducible rfl
    | with_reducible assumption
    | simp only [i3cAnswer_kept]
    | with_reducible refine fst_kept (by assumption) ?_
    | with_reducible refine snd_kept (by assumption) ?_
    | with_reducible refine i3cServe_kept _ _ _ _ _ ?_ ?_)

theorem execI3cDynamicAddress_kept (x0 s) {k} (hk : kept s = k) : KeptOut k (execI3cDynamicAddress x0 s) := by
  subst hk
  unfold execI3cDynamicAddress
  simp only [kept_mk, kept_fold, kept_ite, ite_self, keptOut_next]

theorem execI3cPrivateRead_kept (x0 s) {k} (hk : kept s = k) : KeptOut k (execI3cPrivateRead x0 s) := by
  subst hk
  unfold execI3cPrivateRead
  repeat' (first
    | with_reducible rfl
    | with_reducible assumption
    | simp only [kept_mk, kept_fold, kept_ite, ite_self, keptOut_next, State.emit_kept]
    | with_reducible refine fst_kept (by assumption) ?_
    | with_reducible refine snd_kept (by assumption) ?_
    | with_reducible refine (foldl_kept _ _ _ (fun _ _ => ?_)).trans ?_
    | split)

theorem execPcieConfigRequest_kept (x0 s) {k} (hk : kept s = k) : KeptOut k (execPcieConfigRequest x0 s) := by
  subst hk
  unfold execPcieConfigRequest
  simp only [kept_ite, ite_self, keptOut_next, State.emit_kept]

theorem resetTenant_kept (x0 x1 s) : kept (resetTenant x0 x1 s) = kept s := by
  unfold resetTenant
  simp only [kept_ite, ite_self, removeTenantStart_kept]

theorem eachPart_kept (g s) (h : ∀ n s, kept (g n s) = kept s) : kept (eachPart g s) = kept s :=
  foldl_kept _ _ _ (fun s n => h n s)

theorem endpointReset_kept (s) : kept (endpointReset s) = kept s := by
  unfold endpointReset
  repeat' (first
    | with_reducible rfl
    | with_reducible assumption
    | simp only [kept_mk, kept_fold, dmpDiscard_kept, releaseReservation_kept, resetTenant_kept]
    | with_reducible refine fst_kept (by assumption) ?_
    | with_reducible refine snd_kept (by assumption) ?_
    | with_reducible refine (eachPart_kept _ _ (fun _ _ => ?_)).trans ?_
    | with_reducible refine (foldl_kept _ _ _ (fun _ _ => ?_)).trans ?_
    | split
    | simp only [kept_mk, kept_fold])

theorem execPerstNAssert_kept (s) {k} (hk : kept s = k) : KeptOut k (execPerstNAssert s) := by
  subst hk
  unfold execPerstNAssert
  simp only [kept_mk, kept_fold, kept_ite, ite_self, keptOut_next, endpointReset_kept]

theorem execFunctionLevelReset_kept (x0 s) {k} (hk : kept s = k) : KeptOut k (execFunctionLevelReset x0 s) := by
  subst hk
  unfold execFunctionLevelReset
  simp only [kept_ite, ite_self, keptOut_next, State.modFn_kept, resetTenant_kept]

theorem badDoorbell_kept (x0 s) : kept (badDoorbell x0 s) = kept s := by
  unfold badDoorbell
  simp only [State.modFn_kept]

theorem fetchEntries_kept (x0 x1 x2 s) : kept (fetchEntries x0 x1 x2 s) = kept s := by
  unfold fetchEntries
  repeat' (first
    | with_reducible rfl
    | with_reducible assumption
    | simp only [kept_ite, ite_self, State.modRing_kept]
    | with_reducible refine fst_kept (by assumption) ?_
    | with_reducible refine snd_kept (by assumption) ?_
    | with_reducible refine (foldl_kept _ _ _ (fun _ _ => ?_)).trans ?_
    | split)

theorem execDoorbell_kept (x0 x1 x2 x3 x4 s) {k} (hk : kept s = k) : KeptOut k (execDoorbell x0 x1 x2 x3 x4 s) := by
  subst hk
  unfold execDoorbell
  repeat' (first
    | with_reducible rfl
    | with_reducible assumption
    | simp only [kept_ite, ite_self, keptOut_next, State.modRing_kept, badDoorbell_kept, fetchEntries_kept]
    | with_reducible refine fst_kept (by assumption) ?_
    | with_reducible refine snd_kept (by assumption) ?_
    | with_reducible refine (foldl_kept _ _ _ (fun _ _ => ?_)).trans ?_
    | split)

theorem bar4Refused_kept {s n a len write v t} (h : bar4Refused s n a len write = some (v, t)) : kept t = kept s := by
  unfold bar4Refused at h
  simp only at h
  split at h
  · cases h
    exact denyCount_kept ..
  · split at h
    · cases h
      rfl
    · cases h

theorem execBar4Read_kept (x0 x1 x2 s) {k} (hk : kept s = k) : KeptOut k (execBar4Read x0 x1 x2 s) := by
  subst hk
  unfold execBar4Read
  repeat' (first
    | with_reducible rfl
    | with_reducible assumption
    | simp only [kept_ite, keptOut_next, State.emit_kept, askUnbank_kept, holdOut_kept, outsideRead_kept]
    | with_reducible refine fst_kept (by assumption) ?_
    | with_reducible refine snd_kept (by assumption) ?_
    | with_reducible exact bar4Refused_kept (by assumption)
    | with_reducible refine (bar4Refused_kept (by assumption)).trans ?_
    | with_reducible refine (foldl_kept _ _ _ (fun _ _ => ?_)).trans ?_
    | split
    | simp only [keptOut_next, State.emit_kept, holdOut_kept])

theorem execBar4Write_kept (x0 x1 x2 s) {k} (hk : kept s = k) : KeptOut k (execBar4Write x0 x1 x2 s) := by
  subst hk
  unfold execBar4Write
  repeat' (first
    | with_reducible rfl
    | with_reducible assumption
    | simp only [kept_ite, keptOut_next, State.emit_kept, askUnbank_kept, outsidePut_kept]
    | with_reducible refine fst_kept (by assumption) ?_
    | with_reducible refine snd_kept (by assumption) ?_
    | with_reducible exact bar4Refused_kept (by assumption)
    | with_reducible refine (bar4Refused_kept (by assumption)).trans ?_
    | with_reducible exact outsideWait_kept (by assumption)
    | with_reducible refine (outsideWait_kept (by assumption)).trans ?_
    | with_reducible refine (foldl_kept _ _ _ (fun _ _ => ?_)).trans ?_
    | split
    | simp only [keptOut_next, State.emit_kept])

end Sys2Proof.Machine
end

