-- ==== Sys2Proof/Laws/Complete.lean ====
section
/-! SUPPORT. Everything that completing a host command can change, once: records, heads, events and outputs. -/

namespace Sys2Proof.Machine

theorem OnlyAnswers.refl (s : State) : OnlyAnswers s s := ⟨rfl, fun _ => rfl⟩
theorem OnlyAnswers.trans {s t u : State} (h : OnlyAnswers s t) (k : OnlyAnswers t u) : OnlyAnswers s u := by
  obtain ⟨a1, a2⟩ := h
  obtain ⟨b1, b2⟩ := k
  exact ⟨by rw [← a1, ← b1], fun m => by rw [← a2 m, ← b2 m]⟩

theorem OnlyAnswers.of_parts {s t : State} (h : { t with host := s.host, out := s.out } = s) : OnlyAnswers s t := by
  have e : t.parts = s.parts := by rw [← h]
  refine ⟨by rw [← h], fun m => ?_⟩
  unfold State.part
  rw [e]

theorem onlyAnswers_emit (o : Output) (s : State) : OnlyAnswers s (s.emit o) := .of_parts rfl
theorem onlyAnswers_modFn (f : Nat) (g : HostFn → HostFn) (s : State) : OnlyAnswers s (s.modFn f g) := .of_parts rfl
theorem onlyAnswers_modPart {n : Nat} {g : Part → Part} (h : ∀ p, { g p with ctxs := p.ctxs, evts := p.evts } = p) (s : State) :
    OnlyAnswers s (s.modPart n g) := by
  refine ⟨rfl, fun m => ?_⟩
  by_cases e : m = n
  · rw [e, part_modPart_same]
    exact h _
  · rw [part_modPart_ne (Ne.symm e)]

theorem onlyAnswers_modCtx (n c : Nat) (g : Context → Context) (s : State) : OnlyAnswers s (s.modPart n (Part.modCtx c g)) :=
  onlyAnswers_modPart (g := Part.modCtx c g) (fun _ => rfl) s
theorem onlyAnswers_modEvts (n : Nat) (g : Part → Tab (Handle Event)) (s : State) : OnlyAnswers s (s.modPart n fun p => { p with evts := g p }) :=
  onlyAnswers_modPart (g := fun p => { p with evts := g p }) (fun _ => rfl) s

theorem onlyAnswers_putRecord (f : Nat) (r : HostRecord) (s : State) : OnlyAnswers s (putRecord f r s) :=
  (onlyAnswers_modFn ..).trans ((onlyAnswers_emit ..).trans (onlyAnswers_emit ..))
theorem onlyAnswers_hostRecord (f : Nat) (r : HostRecord) (s : State) : OnlyAnswers s (hostRecord f r s) := by
  unfold hostRecord
  simp only
  split
  · exact onlyAnswers_putRecord ..
  · split <;> exact onlyAnswers_modFn ..
theorem onlyAnswers_partRecord (n : Nat) (r : HostRecord) (s : State) : OnlyAnswers s (partRecord n r s) :=
  (onlyAnswers_hostRecord ..).trans (onlyAnswers_hostRecord ..)
theorem onlyAnswers_modRing (f : Nat) (r : RingId) (g : Ring → Ring) (s : State) : OnlyAnswers s (s.modRing f r g) := by
  cases r
  · exact onlyAnswers_modFn ..
  · exact onlyAnswers_modCtx ..
theorem onlyAnswers_ringDone (f : Nat) (r : RingId) (b : Busy) (status detail : Nat) (arg : DWord) (s : State) :
    OnlyAnswers s (ringDone f r b status detail arg s) := by
  unfold ringDone
  split
  · exact .refl _
  · simp only
    split
    · exact ((onlyAnswers_modRing ..).trans (onlyAnswers_emit ..)).trans (onlyAnswers_hostRecord ..)
    · exact (onlyAnswers_modRing ..).trans (onlyAnswers_emit ..)

theorem onlyAnswers_foldl {α : Type} (g : State → α → State) (hg : ∀ a s, OnlyAnswers s (g s a)) (as : List α) (s : State) :
    OnlyAnswers s (as.foldl g s) := by
  induction as generalizing s with
  | nil => exact .refl _
  | cons a as ih => exact (hg a s).trans (ih _)

theorem onlyAnswers_signalEvent (fuel n h add : Nat) (s : State) : OnlyAnswers s (signalEvent fuel n h add s) := by
  induction fuel generalizing n h add s with
  | zero => exact .refl _
  | succ fuel ih =>
    unfold signalEvent
    split
    · exact .refl _
    · split
      · exact .refl _
      · refine OnlyAnswers.trans ?_ (onlyAnswers_foldl _ ?_ _ _)
        · split
          · refine (onlyAnswers_modEvts n _ s).trans ((onlyAnswers_partRecord ..).trans (onlyAnswers_emit ..))
          · exact onlyAnswers_modEvts n _ s
        · rintro ⟨c, q, b⟩ s
          simp only
          split
          · exact (onlyAnswers_ringDone ..).trans (ih ..)
          · exact onlyAnswers_ringDone ..

theorem onlyAnswers_completeCmd (f : Nat) (r : RingId) (b : Busy) (status detail : Nat) (arg : DWord) (s : State) :
    OnlyAnswers s (completeCmd f r b status detail arg s) := by
  unfold completeCmd
  simp only
  split
  · exact (onlyAnswers_ringDone ..).trans (onlyAnswers_signalEvent ..)
  · exact onlyAnswers_ringDone ..

end Sys2Proof.Machine
end

