-- ==== Sys2Proof/Laws/Wake.lean ====
section
/-! SUPPORT. Everything that waking a thread can do, once, and waking every thread of a list. -/

namespace Sys2Proof.Machine

theorem runState_cases (s : State) (l t : Nat) (b : Bool) : runState s l t b = .run ∨ runState s l t b = .halt ∨ runState s l t b = .paused := by
  simp only [runState]
  split <;> [simp; split <;> split <;> simp]

theorem Released.trans {a b c : Thread} (h : Released a b) (k : Released b c) : Released a c := by
  obtain ⟨a1, a2, a3⟩ := h
  obtain ⟨b1, b2, b3⟩ := k
  refine ⟨b1, ?_, ?_⟩
  · by_cases hw : a.st = .wait
    · rw [if_pos hw] at a2 ⊢
      have : b.st ≠ .wait := by rcases a2 with h | h | h <;> rw [h] <;> simp
      rw [if_neg this] at b2
      rwa [b2]
    · rw [if_neg hw] at a2 ⊢
      rw [a2, if_neg hw] at b2
      exact b2
  · rw [← a3, ← b3]

/-- A wake changes the thread that it wakes, and no other. -/
theorem thread_wake (l t : Nat) (s : State) (k j : Nat) :
    if l = k ∧ t = j then Released (s.thread k j) ((wake l t s).thread k j) else (wake l t s).thread k j = s.thread k j := by
  unfold wake
  by_cases h : l = k ∧ t = j
  · obtain ⟨rfl, rfl⟩ := h
    simp only [and_self, if_true]
    by_cases hw : (s.thread l t).st = .wait
    · rw [if_pos hw]
      unfold toRun
      simp only [thread_modThread, and_self, if_true]
      refine ⟨rfl, ?_, ?_⟩
      · rw [if_pos hw]
        exact runState_cases ..
      · rfl
    · rw [if_neg hw, thread_modThread, if_pos ⟨rfl, rfl⟩]
      exact ⟨rfl, by rw [if_neg hw], rfl⟩
  · rw [if_neg h]
    simp only
    split
    · unfold toRun
      simp only [thread_modThread, if_neg h]
    · rw [thread_modThread, if_neg h]

/-- Waking every thread of a list, each named by a key. -/
theorem thread_wakeAll (site : Nat → Nat × Nat) (ks : List Nat) (s : State) (k j : Nat) :
    let t := ks.foldl (fun s i => wake (site i).1 (site i).2 s) s
    if ∃ i ∈ ks, site i = (k, j) then Released (s.thread k j) (t.thread k j) else t.thread k j = s.thread k j := by
  induction ks generalizing s with
  | nil => simp
  | cons i ks ih =>
    simp only [List.foldl_cons] at ih ⊢
    have h1 := thread_wake (site i).1 (site i).2 s k j
    have h2 := ih (wake (site i).1 (site i).2 s)
    by_cases hi : site i = (k, j)
    · rw [if_pos (by rw [hi]; exact ⟨rfl, rfl⟩)] at h1
      rw [if_pos ⟨i, List.mem_cons_self .., hi⟩]
      split at h2
      · exact h1.trans h2
      · rw [h2]; exact h1
    · rw [if_neg (fun e => hi (Prod.ext e.1 e.2))] at h1
      by_cases hk : ∃ i ∈ ks, site i = (k, j)
      · rw [if_pos hk, h1] at h2
        rw [if_pos (by obtain ⟨i, hm, e⟩ := hk; exact ⟨i, List.mem_cons_of_mem _ hm, e⟩)]
        exact h2
      · rw [if_neg hk, h1] at h2
        rw [if_neg]
        · exact h2
        · rintro ⟨i', hm, e⟩
          rcases List.mem_cons.1 hm with rfl | hm
          · exact hi e
          · exact hk ⟨i', hm, e⟩

theorem onlyEmbers_wake (l t : Nat) (s : State) : OnlyEmbers [l] s (wake l t s) := by
  unfold wake toRun
  simp only
  split
  · exact onlyEmbers_trans (onlyEmbers_mod ..) (onlyEmbers_mod ..)
  · exact onlyEmbers_mod ..

theorem onlyEmbers_wakeAll (l : Nat) (ks : List Nat) (s : State) : OnlyEmbers [l] s (ks.foldl (fun s i => wake l i s) s) := by
  induction ks generalizing s with
  | nil => exact onlyEmbers_refl ..
  | cons i ks ih => exact onlyEmbers_trans (onlyEmbers_wake ..) (ih _)

/-- A wake leaves everything of an ember but its threads as it is. -/
theorem barriers_wake (l t : Nat) (s : State) (k : Nat) : ((wake l t s).ember k).barriers = (s.ember k).barriers := by
  unfold wake toRun State.modThread
  simp only
  split <;> simp only [ember_modEmber] <;> split <;> rfl

theorem barriers_wakeAll (l : Nat) (ks : List Nat) (s : State) (k : Nat) :
    ((ks.foldl (fun s i => wake l i s) s).ember k).barriers = (s.ember k).barriers := by
  induction ks generalizing s with
  | nil => rfl
  | cons i ks ih => rw [List.foldl_cons, ih, barriers_wake]

theorem parts_wake (l t : Nat) (s : State) : (wake l t s).parts = s.parts := by
  unfold wake toRun
  simp only
  split <;> rfl

theorem parts_wakeAll (site : Nat → Nat × Nat) (ks : List Nat) (s : State) :
    (ks.foldl (fun s i => wake (site i).1 (site i).2 s) s).parts = s.parts := by
  induction ks generalizing s with
  | nil => rfl
  | cons i ks ih => rw [List.foldl_cons, ih, parts_wake]

theorem ember_modThread (l t : Nat) (f : Thread → Thread) (s : State) (k : Nat) :
    { (s.modThread l t f).ember k with thr := (s.ember k).thr } = s.ember k := by
  unfold State.modThread
  rw [ember_modEmber]
  split <;> rfl
theorem rest_trans {a b c : Ember} (h : { b with thr := a.thr } = a) (k : { c with thr := b.thr } = b) : { c with thr := a.thr } = a := by
  rw [← h, ← k]

theorem ember_wake (l t : Nat) (s : State) (k : Nat) : { (wake l t s).ember k with thr := (s.ember k).thr } = s.ember k := by
  unfold wake toRun
  simp only
  split
  · exact rest_trans (ember_modThread ..) (ember_modThread ..)
  · exact ember_modThread ..

/-- Counting into a tally: the thread that counts, unless it is lost. -/
theorem tallyAdd_thread (l t q k : Nat) (s : State) (h : (s.thread l t).st ≠ .lost) :
    let g : Thread := { s.thread l t with q := (s.thread l t).q.set q (satAdd ((s.thread l t).q.get q) k) }
    (tallyAdd l t q k s).thread l t = g ∨ Released g ((tallyAdd l t q k s).thread l t) := by
  unfold tallyAdd
  simp only
  rw [if_neg h]
  obtain ⟨u, hu⟩ : ∃ u, u = (if satOvf ((s.thread l t).q.get q) k = true then
      (s.modThread l t fun h => { h with q := h.q.set q (satAdd ((s.thread l t).q.get q) k) }).modEmber l fun m => { m with tallyOvf := withBit m.tallyOvf t true }
    else s.modThread l t fun h => { h with q := h.q.set q (satAdd ((s.thread l t).q.get q) k) }) := ⟨_, rfl⟩
  have e : u.thread l t = { s.thread l t with q := (s.thread l t).q.set q (satAdd ((s.thread l t).q.get q) k) } := by
    have e0 : (s.modThread l t fun h => { h with q := h.q.set q (satAdd ((s.thread l t).q.get q) k) }).thread l t =
        { s.thread l t with q := (s.thread l t).q.set q (satAdd ((s.thread l t).q.get q) k) } := by
      rw [thread_modThread, if_pos ⟨rfl, rfl⟩]
    rw [hu]
    split
    · rw [← e0]
      unfold State.thread
      rw [ember_modEmber_same]
    · exact e0
  rw [← hu]
  have hw := thread_wake l t u l t
  rw [if_pos ⟨rfl, rfl⟩, e] at hw
  split
  · split
    · exact Or.inr hw
    · exact Or.inl e
  · exact Or.inl e

/-- Counting into a tally leaves everything of an ember but its threads and their overflow bits as it is. -/
theorem tallyAdd_ember (l t q k : Nat) (s : State) (j : Nat) :
    { (tallyAdd l t q k s).ember j with thr := (s.ember j).thr, tallyOvf := (s.ember j).tallyOvf } = s.ember j := by
  unfold tallyAdd
  simp only
  split
  · rfl
  · obtain ⟨u, hu⟩ : ∃ u, u = (if satOvf ((s.thread l t).q.get q) k = true then
        (s.modThread l t fun h => { h with q := h.q.set q (satAdd ((s.thread l t).q.get q) k) }).modEmber l fun m => { m with tallyOvf := withBit m.tallyOvf t true }
      else s.modThread l t fun h => { h with q := h.q.set q (satAdd ((s.thread l t).q.get q) k) }) := ⟨_, rfl⟩
    rw [← hu]
    have e : { u.ember j with thr := (s.ember j).thr, tallyOvf := (s.ember j).tallyOvf } = s.ember j := by
      rw [hu]
      unfold State.modThread
      split
      · simp only [ember_modEmber]
        split <;> rfl
      · simp only [ember_modEmber]
        split <;> rfl
    have hw := ember_wake l t u j
    have e2 : { (wake l t u).ember j with thr := (s.ember j).thr, tallyOvf := (s.ember j).tallyOvf } = s.ember j := by
      rw [← e, ← hw]
    split
    · split
      · exact e2
      · exact e
    · exact e

theorem tallyAdd_parts (l t q k : Nat) (s : State) : (tallyAdd l t q k s).parts = s.parts := by
  unfold tallyAdd
  simp only
  split
  · rfl
  · split
    · split
      · rw [parts_wake]
        split <;> rfl
      · split <;> rfl
    · split <;> rfl

theorem onlyEmbers_tallyAdd (l t q k : Nat) (s : State) : OnlyEmbers [l] s (tallyAdd l t q k s) := by
  have h1 : ∀ v : Word, OnlyEmbers [l] s (if satOvf ((s.thread l t).q.get q) k = true then
        (s.modThread l t fun h => { h with q := h.q.set q v }).modEmber l fun m => { m with tallyOvf := withBit m.tallyOvf t true }
      else s.modThread l t fun h => { h with q := h.q.set q v }) := by
    intro v
    split
    · exact onlyEmbers_trans (onlyEmbers_mod ..) (onlyEmbers_mod ..)
    · exact onlyEmbers_mod ..
  unfold tallyAdd
  simp only
  split
  · exact onlyEmbers_refl ..
  · split
    · split
      · exact onlyEmbers_trans (h1 _) (onlyEmbers_wake ..)
      · exact h1 _
    · exact h1 _

end Sys2Proof.Machine
end

