-- ==== Sys2Proof/Laws/Semaphores.lean ====
section
/-! SUPPORT. Everything that serving the waiters of a semaphore can do, once (R100). -/

namespace Sys2Proof.Machine

theorem releasedIf_iff (c : Prop) (a b : Thread) : ReleasedIf c a b ↔ (c → Released a b) ∧ (¬ c → b = a) := Iff.rfl

theorem toNat_take (k : Nat) (m : Sem) : (m.take k).word.toNat = m.word.toNat - k := by
  have h := m.word.isLt
  unfold Sem.take
  rw [BitVec.toNat_ofNat, Nat.mod_eq_of_lt (by omega)]
theorem value_take (k : Nat) (m : Sem) (hk : k ≤ m.value) : (m.take k).value = m.value - k := by
  have e := toNat_take k m
  unfold Sem.value at hk ⊢
  rw [e]
  omega

/-- Serving a waiter: a thread is released, and nothing but what an answer to the host touches changes besides. -/
theorem serve_one (n : Nat) (w : SemWaiter) (s : State) :
    let t := match w with
      | .thread e t _ => wake e t s
      | .queue c q _ => match (s.ring (n + 1) (queueId c q)).bind (·.busy) with
        | some b => completeCmd (n + 1) (queueId c q) b 0 0 0 s
        | none => s
    (∀ m, (t.part m).sems = (s.part m).sems) ∧
      ∀ l j, ReleasedIf (∃ k, w = .thread l j k) (s.thread l j) (t.thread l j) := by
  cases w with
  | thread e t k =>
    refine ⟨fun m => ?_, fun l j => ?_⟩
    · simp only [State.part, parts_wake]
    · have := thread_wake e t s l j
      rw [releasedIf_iff]
      simp only [SemWaiter.thread.injEq, exists_and_left, exists_eq', and_true]
      split at this
      · rename_i h
        exact ⟨fun _ => this, fun h' => absurd h h'⟩
      · rename_i h
        exact ⟨fun h' => absurd h' h, fun _ => this⟩
  | queue c q k =>
    have hc : ∀ {u}, OnlyAnswers s u → (∀ m, (u.part m).sems = (s.part m).sems) ∧ ∀ l j, u.thread l j = s.thread l j := by
      rintro u ⟨h1, h2⟩
      refine ⟨fun m => by rw [← h2 m], fun l j => ?_⟩
      unfold State.thread State.ember
      rw [← h1]
    simp only [releasedIf_iff, reduceCtorEq, exists_false, false_implies, not_false_eq_true, true_implies, true_and]
    split
    · exact hc (onlyAnswers_completeCmd ..)
    · exact ⟨fun _ => rfl, fun _ _ => rfl⟩

/-- The waiters at the head are served while the value suffices, and no waiter is passed (R100). -/
theorem semServe_serves (fuel n key : Nat) (s : State) (hf : ((s.part n).sems.get key).waiters.length ≤ fuel) :
    let m := (s.part n).sems.get key
    let t := semServe fuel n key s
    ∃ j, ((t.part n).sems.get key).waiters = m.waiters.drop j ∧ needs (m.waiters.take j) ≤ m.value ∧
      ((t.part n).sems.get key).word.toNat = m.word.toNat - needs (m.waiters.take j) ∧
      (∀ w ws, m.waiters.drop j = w :: ws → m.value < needs (m.waiters.take j) + w.need) ∧
      ∀ l i, ReleasedIf (∃ k, SemWaiter.thread l i k ∈ m.waiters.take j) (s.thread l i) (t.thread l i) := by
  induction fuel generalizing s with
  | zero =>
    refine ⟨0, ?_⟩
    have : ((s.part n).sems.get key).waiters = [] := List.eq_nil_of_length_eq_zero (Nat.le_zero.1 hf)
    simp [semServe, needs, this, releasedIf_iff]
  | succ fuel ih =>
    simp only
    cases hw : ((s.part n).sems.get key).waiters with
    | nil =>
      refine ⟨0, ?_⟩
      unfold semServe
      simp [needs, hw, releasedIf_iff]
    | cons w ws =>
      by_cases hn : w.need ≤ ((s.part n).sems.get key).value
      · obtain ⟨v, hv⟩ : ∃ v, v = s.modPart n fun p => { p with sems := p.sems.set key { ((s.part n).sems.get key).take w.need with waiters := ws } } := ⟨_, rfl⟩
        have hvk : (v.part n).sems.get key = { ((s.part n).sems.get key).take w.need with waiters := ws } := by
          rw [hv, part_modPart_same]
          exact Tab.get_set_same ..
        have hvt : ∀ l j, v.thread l j = s.thread l j := fun l j => by rw [hv]; rfl
        obtain ⟨u, hu⟩ : ∃ u, u = (match w with
          | .thread e t _ => wake e t v
          | .queue c q _ => match (v.ring (n + 1) (queueId c q)).bind (·.busy) with
            | some b => completeCmd (n + 1) (queueId c q) b 0 0 0 v
            | none => v) := ⟨_, rfl⟩
        have h1 := serve_one n w v
        simp only at h1
        rw [← hu] at h1
        have e : semServe (fuel + 1) n key s = semServe fuel n key u := by
          rw [hu, hv]
          conv => lhs; unfold semServe
          simp only [hw]
          rw [if_pos hn]
          all_goals rfl
        rw [e]
        have huk : (u.part n).sems.get key = { ((s.part n).sems.get key).take w.need with waiters := ws } := by rw [h1.1, hvk]
        obtain ⟨j, j1, j2, j3, j4, j5⟩ := ih u (by rw [huk]; rw [hw] at hf; simp only [List.length_cons] at hf; show ws.length ≤ fuel; omega)
        rw [huk] at j1 j2 j3 j4 j5
        have ev : ({ ((s.part n).sems.get key).take w.need with waiters := ws } : Sem).value = ((s.part n).sems.get key).value - w.need :=
          value_take _ _ hn
        have ew : ({ ((s.part n).sems.get key).take w.need with waiters := ws } : Sem).word.toNat = ((s.part n).sems.get key).word.toNat - w.need :=
          toNat_take _ _
        rw [ev] at j2 j4
        rw [ew] at j3
        refine ⟨j + 1, ?_, ?_, ?_, ?_, ?_⟩
        · rw [j1]; simp
        · simp only [needs, List.take_succ_cons, List.map_cons, List.sum_cons] at j2 ⊢; omega
        · rw [j3]; simp only [needs, List.take_succ_cons, List.map_cons, List.sum_cons]; omega
        · intro w' ws' h'
          have := j4 w' ws' (by simpa using h')
          simp only [needs, List.take_succ_cons, List.map_cons, List.sum_cons] at this ⊢; omega
        · intro l i
          have a := h1.2 l i
          have b := j5 l i
          rw [hvt] at a
          rw [releasedIf_iff] at a b ⊢
          have hs : (∃ k, SemWaiter.thread l i k ∈ (w :: ws).take (j + 1)) ↔ (∃ k, w = .thread l i k) ∨ ∃ k, SemWaiter.thread l i k ∈ ws.take j := by
            simp only [List.take_succ_cons, List.mem_cons, exists_or, eq_comm]
          rw [hs]
          by_cases h1 : ∃ k, w = .thread l i k <;> by_cases h2 : ∃ k, SemWaiter.thread l i k ∈ ws.take j
          · exact ⟨fun _ => (a.1 h1).trans (b.1 h2), fun h => absurd (Or.inl h1) h⟩
          · exact ⟨fun _ => by rw [b.2 h2]; exact a.1 h1, fun h => absurd (Or.inl h1) h⟩
          · exact ⟨fun _ => by rw [a.2 h1] at b; exact b.1 h2, fun h => absurd (Or.inr h2) h⟩
          · exact ⟨fun h => absurd h (by simp only [h1, h2, or_self, not_false_eq_true]), fun _ => by rw [b.2 h2, a.2 h1]⟩
      · refine ⟨0, ?_⟩
        have e : semServe (fuel + 1) n key s = s := by
          unfold semServe
          simp only [hw]
          rw [if_neg hn]
        rw [e]
        refine ⟨by simpa using hw, by simp [needs], by simp [needs], ?_, fun l i => by simp [releasedIf_iff]⟩
        intro w' ws' h'
        simp only [List.drop_zero, List.cons.injEq] at h'
        rw [← h'.1]
        simp [needs]
        omega

end Sys2Proof.Machine
end

