-- ==== Sys2Proof/Laws/Vector.lean ====
section
/-! SUPPORT. Vectors as lanes, and bytes as numbers (R9, R133). -/

namespace Sys2Proof.Machine

theorem leNat_append (xs ys : List Byte) : leNat (xs ++ ys) = leNat xs + 256 ^ xs.length * leNat ys := by
  induction xs with
  | nil => simp [leNat]
  | cons x xs ih =>
    simp only [List.cons_append, leNat, ih, List.length_cons, Nat.pow_succ]
    rw [Nat.mul_add, Nat.add_assoc, Nat.mul_comm (256 ^ xs.length) 256, Nat.mul_assoc]

theorem leNat_leBytes (n v : Nat) : leNat (leBytes n v) = v % 256 ^ n := by
  induction n generalizing v with
  | zero => simp [leBytes, leNat, Nat.mod_one]
  | succ n ih =>
    simp only [leBytes, leNat, ih, BitVec.toNat_ofNat]
    rw [show 256 ^ (n + 1) = 256 * 256 ^ n from Nat.pow_succ', Nat.mod_mul]

/-- The number that lanes spell, lane by lane. -/
theorem leNat_lanes_cons (w : Word) (ws : List Word) :
    leNat ((w :: ws).flatMap fun w => leBytes 4 w.toNat) = w.toNat + 2 ^ 32 * leNat (ws.flatMap fun w => leBytes 4 w.toNat) := by
  rw [List.flatMap_cons, leNat_append, leNat_leBytes, length_leBytes, Nat.mod_eq_of_lt (by have := w.isLt; omega)]
  rfl

theorem leNat_lanes_div (ws : List Word) (i : Nat) :
    leNat (ws.flatMap fun w => leBytes 4 w.toNat) / 2 ^ (32 * i) % 2 ^ 32 = (ws.getD i 0).toNat := by
  induction ws generalizing i with
  | nil => simp [leNat]
  | cons w ws ih =>
    rw [leNat_lanes_cons]
    cases i with
    | zero =>
      simp only [Nat.mul_zero, Nat.pow_zero, Nat.div_one, Nat.add_mul_mod_self_left]
      have := w.isLt
      simp only [List.getD_cons_zero]
      omega
    | succ i =>
      rw [List.getD_cons_succ, ← ih i, Nat.mul_succ, Nat.add_comm (32 * i) 32, Nat.pow_add, ← Nat.div_div_eq_div_mul]
      have := w.isLt
      rw [show (w.toNat + 2 ^ 32 * leNat (ws.flatMap fun w => leBytes 4 w.toNat)) / 2 ^ 32 = leNat (ws.flatMap fun w => leBytes 4 w.toNat) by omega]

theorem leNat_lanes_lt (ws : List Word) : leNat (ws.flatMap fun w => leBytes 4 w.toNat) < 2 ^ (32 * ws.length) := by
  induction ws with
  | nil => simp [leNat]
  | cons w ws ih =>
    rw [leNat_lanes_cons, List.length_cons, Nat.mul_succ, Nat.add_comm (32 * ws.length), Nat.pow_add]
    have h1 := w.isLt
    have h2 : leNat (ws.flatMap fun w => leBytes 4 w.toNat) + 1 ≤ 2 ^ (32 * ws.length) := ih
    have h3 := Nat.mul_le_mul_left (2 ^ 32) h2
    omega

/-- Lane `i` of the vector that lanes make. -/
theorem lane_lanes (ws : List Word) (i : Nat) (hl : ws.length ≤ 32) : lane (lanes ws) i = ws.getD i 0 := by
  apply BitVec.eq_of_toNat_eq
  have h1 : leNat (ws.flatMap fun w => leBytes 4 w.toNat) < 2 ^ 1024 :=
    Nat.lt_of_lt_of_le (leNat_lanes_lt ws) (Nat.pow_le_pow_right (by decide) (by omega))
  unfold lane lanes
  rw [BitVec.extractLsb'_toNat, BitVec.toNat_ofNat, Nat.mod_eq_of_lt h1, Nat.shiftRight_eq_div_pow, leNat_lanes_div]

end Sys2Proof.Machine
end

