-- ==== Sys2Proof/Certificates/Slice0/Obligations.lean ====
section
/-! DEFINITION. The statements about the model for the provers: what each command of the device does, family by family, and what every command and
every step keeps. -/

open Sys2Proof Sys2Proof.Machine

/-- R91, Table 4.5: the operations of MAJOR 0x01 and 0x02 write RD with the 64-bit result of RA and RB, or of RA and the sign-extended IMM, and
leave everything else alone. The reserved bits of the register form are zero. -/
def Obligations.IntegerOperations : Prop := ∀ (x : Site) (imm : Bool) (f : BitVec 52),
  RunsInt (.add x imm f) 0x00 x imm f (fun a b => BitVec.ofInt 64 (a.toInt + b.toInt)) ∧
  RunsInt (.sub x imm f) 0x01 x imm f (fun a b => BitVec.ofInt 64 (a.toInt - b.toInt)) ∧
  RunsInt (.andOp x imm f) 0x02 x imm f (fun a b => a &&& b) ∧
  RunsInt (.orOp x imm f) 0x03 x imm f (fun a b => a ||| b) ∧
  RunsInt (.xorOp x imm f) 0x04 x imm f (fun a b => a ^^^ b) ∧
  RunsInt (.andn x imm f) 0x05 x imm f (fun a b => a &&& ~~~b) ∧
  RunsInt (.shl x imm f) 0x06 x imm f (fun a b => BitVec.ofNat 64 (a.toNat * 2 ^ (b.toNat % 64))) ∧
  RunsInt (.shr x imm f) 0x07 x imm f (fun a b => BitVec.ofNat 64 (a.toNat / 2 ^ (b.toNat % 64))) ∧
  RunsInt (.sra x imm f) 0x08 x imm f (fun a b => BitVec.ofInt 64 (a.toInt / 2 ^ (b.toNat % 64))) ∧
  RunsInt (.minOp x imm f) 0x09 x imm f (fun a b => BitVec.ofInt 64 (min a.toInt b.toInt)) ∧
  RunsInt (.maxOp x imm f) 0x0A x imm f (fun a b => BitVec.ofInt 64 (max a.toInt b.toInt)) ∧
  RunsInt (.minu x imm f) 0x0B x imm f (fun a b => BitVec.ofNat 64 (min a.toNat b.toNat)) ∧
  RunsInt (.maxu x imm f) 0x0C x imm f (fun a b => BitVec.ofNat 64 (max a.toNat b.toNat))

/-- R91, R92, Table 4.5: multiply and divide, the two forms with RB zero, and the two that exist as immediates only. A product's high half is
that of the exact product; quotients round towards zero and remainders have the sign of RA, except where RB is 0. -/
def Obligations.MultiplyDivideAndMoves : Prop := ∀ (x : Site) (f : BitVec 52),
  RunsRR (.mul x f) 3 0 x f true (fun a b => BitVec.ofNat 64 (a.toNat * b.toNat)) ∧
  RunsRR (.mulh x f) 3 1 x f true (fun a b => BitVec.ofInt 64 (a.toInt * b.toInt / 2 ^ 64)) ∧
  RunsRR (.mulhu x f) 3 2 x f true (fun a b => BitVec.ofNat 64 (a.toNat * b.toNat / 2 ^ 64)) ∧
  RunsRR (.div x f) 3 3 x f true (fun a b => if b = 0 then BitVec.allOnes 64 else BitVec.ofInt 64 (a.toInt.tdiv b.toInt)) ∧
  RunsRR (.divu x f) 3 4 x f true (fun a b => if b = 0 then BitVec.allOnes 64 else BitVec.ofNat 64 (a.toNat / b.toNat)) ∧
  RunsRR (.remOp x f) 3 5 x f true (fun a b => if b = 0 then a else BitVec.ofInt 64 (a.toInt.tmod b.toInt)) ∧
  RunsRR (.remu x f) 3 6 x f true (fun a b => if b = 0 then a else BitVec.ofNat 64 (a.toNat % b.toNat)) ∧
  RunsRR (.popc x f) 1 0x0D x f (decide (fRb f = 0)) (fun a _ => BitVec.ofNat 64 ((List.range 64).filter fun i => a.getLsbD i).length) ∧
  RunsRR (.clz x f) 1 0x0E x f (decide (fRb f = 0)) (fun a _ => if a = 0 then 64 else BitVec.ofNat 64 (63 - Nat.log2 a.toNat)) ∧
  Runs (.movhi x f) (insnWord 2 0x10 f) f [fRd f] [] x (decide (fRa f = 0) && decide (fImmU f < 2 ^ 32))
    (fun _ h => h.setS (fRd f) (BitVec.ofNat 64 (fImmU f * 2 ^ 32 + (h.sReg (fRd f)).toNat % 2 ^ 32))) ∧
  Runs (.movi x f) (insnWord 2 0x11 f) f [fRd f] [] x (decide (fRa f = 0)) (fun _ h => h.setS (fRd f) (fImm f))

/-- R92: division by zero gives a quotient of all ones and a remainder equal to RA; signed division of -2^63 by -1 gives -2^63 with
remainder 0; neither raises an exception: the program counter moves on and nothing else changes. -/
def Obligations.DivisionCorners : Prop := ∀ (x : Site) (f : BitVec 52) (s : State), fLow f = 0 →
  let a := (thrAt s x).sReg (fRa f)
  let b := (thrAt s x).sReg (fRb f)
  let gives (c : Instr) (minor : Nat) (v : DWord) : Prop := issuable s x (insnWord 3 minor f) f [fRd f, fRa f, fRb f] [] = true →
    ∃ t, exec c s = .next t ∧ thrAt t x = ((thrAt s x).setS (fRd f) v).next ∧ OnlyThread x s t
  (b = 0 → gives (.div x f) 3 (BitVec.allOnes 64) ∧ gives (.divu x f) 4 (BitVec.allOnes 64) ∧ gives (.remOp x f) 5 a ∧ gives (.remu x f) 6 a) ∧
  (a = BitVec.ofInt 64 (-(2 ^ 63)) → b = BitVec.ofInt 64 (-1) →
    gives (.div x f) 3 (BitVec.ofInt 64 (-(2 ^ 63))) ∧ gives (.remOp x f) 5 0)

/-- R91, Table 4.5: comparisons and predicate logic write the predicate RD, whose upper field bits are zero; PGET reads the eight predicates as a
byte whose bit 0 is 1. The six relations are EQ, NE, LT, LTU, GE and GEU, signed but for the two with a U. A write to p0 is discarded
(R85). -/
def Obligations.ComparisonsAndPredicates : Prop := ∀ (x : Site) (f : BitVec 52) (rel : Fin 6),
  let holds (a b : DWord) : Bool := [decide (a = b), decide (a ≠ b), decide (a.toInt < b.toInt), decide (a.toNat < b.toNat),
    decide (b.toInt ≤ a.toInt), decide (b.toNat ≤ a.toNat)][rel.val]?.getD false
  let low := decide (fRd f < 8)
  let preds (c : Instr) (minor : Nat) (op : Bool → Bool → Bool) : Prop :=
    Runs c (insnWord 5 minor f) f [] [fRd f, fRa f, fRb f] x
      (low && decide (fRa f < 8) && decide (fRb f < 8) && decide (fLow f = 0))
      fun _ h => h.setP (fRd f) (op (h.pReg (fRa f)) (h.pReg (fRb f)))
  Runs (.cmp x rel f) (insnWord 4 rel.val f) f [fRa f, fRb f] [fRd f] x (low && decide (fLow f = 0))
    (fun _ h => h.setP (fRd f) (holds (h.sReg (fRa f)) (h.sReg (fRb f)))) ∧
  Runs (.cmpi x rel f) (insnWord 4 (0x20 + rel.val) f) f [fRa f] [fRd f] x low
    (fun _ h => h.setP (fRd f) (holds (h.sReg (fRa f)) (fImm f))) ∧
  preds (.pand x f) 0 (fun a b => a && b) ∧ preds (.por x f) 1 (fun a b => a || b) ∧
  preds (.pxor x f) 2 (fun a b => a != b) ∧ preds (.pandn x f) 3 (fun a b => a && !b) ∧
  Runs (.pnz x f) (insnWord 5 4 f) f [fRa f] [fRd f] x (low && decide (fRb f = 0) && decide (fLow f = 0))
    (fun _ h => h.setP (fRd f) (decide (h.sReg (fRa f) ≠ 0))) ∧
  Runs (.pget x f) (insnWord 5 5 f) f [fRd f] (List.range 8) x (decide (fRa f = 0) && decide (fRb f = 0) && decide (fLow f = 0))
    (fun _ h => h.setS (fRd f) (BitVec.ofNat 64 (((List.range 8).map fun i => if h.pReg i then 2 ^ i else 0).sum)))

/-- R85, R86, R93: NOP does nothing; TID names the thread; BRK halts the thread where a debug session holds the halt right for the partition and
otherwise acts as NOP; END moves the thread to IDLE and leaves its tallies. A branch whose target lies in the code window sets PC and nothing
else but its link; JR and JRL take PC from RA, whose bits above 15 are zero. -/
def Obligations.SystemAndBranches : Prop := ∀ (x : Site) (f : BitVec 52) (s : State),
  let h := thrAt s x
  let w (major minor : Nat) := insnWord major minor f
  let becomes (c : Instr) (h' : Thread) : Prop := ∃ t, exec c s = .next t ∧ thrAt t x = h' ∧ OnlyThread x s t
  let jumps (c : Instr) (target : Int) (link : Thread → Thread) : Prop :=
    0 ≤ target → target < 65536 → inWindow s x target.toNat = true → becomes c { link h with pc := BitVec.ofInt 16 target }
  (issuable s x (w 0 0) f [] [] = true → f.toNat % 2 ^ 48 = 0 → becomes (.nop x 0 f) h.next) ∧
  (issuable s x (w 0 4) f [fRd f] [] = true → f.toNat % 2 ^ 43 = 0 →
    becomes (.tid x f) (h.setS (fRd f) (BitVec.ofNat 64 (x.e.val + 2 ^ 16 * x.t.val + (if s.isBe x.e.val x.t.val then 2 ^ 19 else 0) +
      2 ^ 20 * s.partOf x.e.val))).next) ∧
  (issuable s x (w 0 2) f [] [] = true → f.toNat % 2 ^ 48 = 0 →
    becomes (.brk x f) (if bitAt (debugRights s (s.partOf x.e.val)) 0 then { h.next with st := .halt } else h.next)) ∧
  (issuable s x (w 0 1) f [] [] = true → f.toNat % 2 ^ 48 = 0 → ∃ t, exec (.endThread x f) s = .next t ∧ (thrAt t x).st = .idle ∧
    (thrAt t x).q = h.q ∧ (thrAt t x).s = h.s ∧ (thrAt t x).pc = h.pc + 1) ∧
  (issuable s x (w 6 0) f [] [] = true → jumps (.br x f) (h.pc.toNat + fOff f) id) ∧
  (issuable s x (w 6 1) f [31] [] = true → jumps (.brl x f) (h.pc.toNat + fOff f) fun h => h.setS 31 (BitVec.ofNat 64 (h.pc.toNat + 1))) ∧
  (issuable s x (w 6 2) f [fRa f] [] = true → fRd f = 0 → fRb f = 0 → fLow f = 0 → jumps (.jr x f) (h.sReg (fRa f)).toNat id) ∧
  (issuable s x (w 6 3) f [fRd f, fRa f] [] = true → fRb f = 0 → fLow f = 0 →
    jumps (.jrl x f) (h.sReg (fRa f)).toNat fun h => h.setS (fRd f) (BitVec.ofNat 64 (h.pc.toNat + 1)))

namespace Sys2Proof

/-- An aligned access of `size` bytes at offset `a` that the thread at `x` may make (R63, R87, R94): inside its class's range, and outside both code
windows where it writes. -/
def MayAccess (s : State) (x : Site) (a : DWord) (size : Nat) (write : Bool) : Prop :=
  a.toNat % size = 0 ∧ (s.ember x.e.val).inRange (s.isBe x.e.val x.t.val) a.toNat size = true ∧
    (write = true → (s.ember x.e.val).hitsCode a.toNat size = false)

/-- The double-words that a read of `size` bytes from `a` checks hold good parity, after the upsets that the command brings (R78). -/
def Clean (s : State) (x : Site) (strike : List Nat) (a : DWord) (size : Nat) : Prop :=
  ((s.ember x.e.val).strike strike).mismatches a.toNat size = []

/-- Command `c` makes the thread at `x` into `h`, and the scratch of its ember into `m`, byte by byte; no other thread and no other ember
changes, and nothing outside the embers. -/
def ScratchGives (c : Instr) (s : State) (x : Site) (h : Thread) (m : Nat → Byte) : Prop :=
  ∃ t, exec c s = .next t ∧ thrAt t x = h ∧ (∀ b, (t.ember x.e.val).scratch.get b = m b) ∧
    (∀ j, j ≠ x.t.val → t.thread x.e.val j = s.thread x.e.val j) ∧ OnlyEmbers [x.e.val] s t

/-- The bytes of scratch `m` with the little-endian bytes of `v` at `a` to `a + size - 1` (R9). -/
def stored (m : Memory) (a size v : Nat) (b : Nat) : Byte :=
  if a ≤ b ∧ b < a + size then BitVec.ofNat 8 (v / 256 ^ (b - a)) else m.get b

end Sys2Proof

/-- R87, R88, R94, R95, R102: scratch loads, stores and atomics, and the transfer of descriptors, at an address that their checks pass. A load extends what it
reads; a store writes the low bytes of RD and no other byte; an atomic writes the new value and gives RD the old one. The granted
fetch fills the thread's line with the row that holds its PC. -/
def Obligations.ScratchAccess : Prop := ∀ (x : Site) (f : BitVec 52) (strike : List Nat) (s : State),
  let h := thrAt s x
  let m := (s.ember x.e.val).scratch
  let w (major minor : Nat) := insnWord major minor f
  let at_ := h.sReg (fRa f) + fImm f
  (∀ minor : Fin 8, let size := 2 ^ (minor.val % 4)
    issuable s x (w 7 minor.val) f [fRd f, fRa f] [] = true → MayAccess s x at_ size false → Clean s x strike at_ size →
    let v := m.num at_.toNat size
    ScratchGives (.lds x minor f strike) s x (h.setS (fRd f) (if 4 ≤ minor.val ∧ 2 ^ (8 * size - 1) ≤ v
      then BitVec.ofInt 64 (v - 2 ^ (8 * size)) else BitVec.ofNat 64 v)).next m.get) ∧
  (∀ minor : Fin 4, let size := 2 ^ minor.val
    issuable s x (w 8 minor.val) f [fRd f, fRa f] [] = true → MayAccess s x at_ size true → (size < 8 → Clean s x strike at_ size) →
    ScratchGives (.sts x minor f strike) s x h.next (stored m at_.toNat size (h.sReg (fRd f)).toNat)) ∧
  (∀ minor : Fin 8, let a := h.sReg (fRa f)
    issuable s x (w 9 minor.val) f [fRd f, fRa f, fRb f] [] = true → fLow f = 0 → MayAccess s x a 8 true → Clean s x strike a 8 →
    let old : DWord := BitVec.ofNat 64 (m.num a.toNat 8)
    let rb := h.sReg (fRb f)
    let new : DWord := [old + rb, old &&& rb, old ||| rb, old ^^^ rb, BitVec.ofNat 64 (min old.toNat rb.toNat),
      BitVec.ofNat 64 (max old.toNat rb.toNat), rb, if old = h.sReg (fRd f) then rb else old][minor.val]?.getD 0
    ScratchGives (.atom x minor f strike) s x (h.setS (fRd f) old).next (stored m a.toNat 8 new.toNat)) ∧
  (issuable s x (w 0x0D 0) f [fRa f] [] = true → fRd f < 24 → MayAccess s x at_ 32 false → Clean s x strike at_ 32 →
    ScratchGives (.dld x f strike) s x (h.setDesc (fRd f) (BitVec.ofNat 256 (m.num at_.toNat 32))).next m.get) ∧
  (issuable s x (w 0x0D 1) f [fRa f] [] = true → fRd f < 24 → MayAccess s x at_ 32 true →
    ScratchGives (.dst x f) s x h.next (stored m at_.toNat 32 (h.desc (fRd f)).toNat)) ∧
  (issuable s x (w 0x0D 2) f [fRa f, fRb f] [] = true → fRd f < 24 → fLow f = 0 →
    ScratchGives (.dsetw x f) s x (h.setDesc (fRd f) (withField (h.desc (fRd f)) (64 * ((h.sReg (fRb f)).toNat % 4) + 63)
      (64 * ((h.sReg (fRb f)).toNat % 4)) (h.sReg (fRa f)).toNat)).next m.get) ∧
  (issuable s x (w 0x0D 3) f [fRd f, fRb f] [] = true → fRa f < 24 → fLow f = 0 →
    ScratchGives (.dgetw x f) s x (h.setS (fRd f) ((h.desc (fRa f)).extractLsb' (64 * ((h.sReg (fRb f)).toNat % 4)) 64)).next m.get) ∧
  (let base := h.pc.toNat / 8 * 8
   s.inService = true → (s.part (s.partOf x.e.val)).prot.halted = false → h.st = .run → inWindow s x h.pc.toNat = true →
   ((s.ember x.e.val).strike strike).mismatches (8 * base) 64 = [] →
   ScratchGives (.fetchLineFill x strike) s x
     { h with line := some { base := base, words := (List.range 8).map fun i => BitVec.ofNat 64 (m.num (8 * base + 8 * i) 8) } } m.get)

namespace Sys2Proof

/-- A device-virtual access of `size` bytes at `a` that stalls on nothing (R97): aligned, within 48 bits, its page mapped to frame `fr` and resident, its
translation cached, no heap metadata in the page and no bank-out of it under way, the stacks awake, and the stored lines good. -/
def GoesThrough (s : State) (x : Site) (a : DWord) (size : Nat) (write : Bool) (fr : Nat) : Prop :=
  let n := s.partOf x.e.val
  let page := a.toNat / pageBytes
  let pa := (s.part n).pa fr a.toNat
  a.toNat % size = 0 ∧ a.toNat < 2 ^ 48 ∧ (s.part n).translate a.toNat write = .frame fr ∧ n * 2 ^ 27 + page ∈ s.tcache.get (x.e.val / 1600) ∧
  (s.part n).metaPage page = false ∧ (∀ e, (s.part n).mem.pages.get page = some e → ∀ k, e.busy ≠ .bankOut k) ∧ stackAwake s n pa size = true ∧
  (∀ l ∈ linesOf pa size, s.badOf n l = none)

end Sys2Proof

/-- R97: LDV takes the value that the memory holds and leaves RD to its answer; STV stores the low bytes of RD and counts one store that is not
accepted yet; the answer writes RD and the acceptance ends the store; FENCE.V goes on once no store is outstanding. `flips` are outside changes
to lines of HBM that come before the access; a line that passes its checks reads as what it decrypts to (R225). -/
def Obligations.DeviceVirtualAccess : Prop := ∀ (x : Site) (f : BitVec 52) (flips : List LineFlip) (s : State),
  let n := s.partOf x.e.val
  let h := thrAt s x
  let a := h.sReg (fRa f) + fImm f
  let s1 := strikeLines n flips s
  (∀ (minor : Fin 8) (fr : Nat), let size := 2 ^ (minor.val % 4)
    issuable s1 x (insnWord 0x0A minor.val f) f [fRd f, fRa f] [] = true → h.requests < 8 → GoesThrough s1 x a size false fr →
    let v := (s1.plain n).num ((s.part n).pa fr a.toNat) size
    ∃ t, exec (.ldv x minor f flips) s = .next t ∧ OnlyThread x s1 t ∧
      thrAt t x = { h.next with loads := h.loads ++ [{ rd := fRd f, value := (if 4 ≤ minor.val ∧ 2 ^ (8 * size - 1) ≤ v then
        BitVec.ofInt 64 (v - 2 ^ (8 * size)) else BitVec.ofNat 64 v) }] }) ∧
  (∀ (minor : Fin 4) (fr : Nat), let size := 2 ^ minor.val
    let pa := (s.part n).pa fr a.toNat
    issuable s1 x (insnWord 0x0A (8 + minor.val) f) f [fRd f, fRa f] [] = true → h.requests < 8 → GoesThrough s1 x a size true fr →
    (s.part n).writable fr = true → s1.counterFull n pa size = false →
    ∃ t, exec (.stv x minor f flips) s = .next t ∧ thrAt t x = { h.next with stores := h.stores + 1, stall := false } ∧
      (∀ b, (t.part n).mem.hbm.get b = if b / 128 = pa / 128 then stored (s1.plain n) pa size (h.sReg (fRd f)).toNat b else (s.part n).mem.hbm.get b) ∧
      (∀ m, m ≠ n → t.part m = s.part m) ∧ (∀ k, k ≠ x.e.val → t.ember k = s.ember k)) ∧
  (∀ (i : Fin 8) (l : PendLoad), h.loads[i.val]? = some l → ∃ t, exec (.ldvAnswer x i) s = .next t ∧ OnlyThread x s t ∧
    thrAt t x = { h.setS l.rd l.value with loads := h.loads.eraseIdx i.val }) ∧
  (∃ t, exec (.stvAccept x) s = .next t ∧ OnlyThread x s t ∧ thrAt t x = { h with stores := h.stores - 1 }) ∧
  (issuable s x (insnWord 0x0A 0x10 f) f [] [] = true → h.stores = 0 → field f 47 0 = 0 →
    ∃ t, exec (.fenceV x f) s = .next t ∧ OnlyThread x s t ∧ thrAt t x = h.next)

/-- R98: the tally instructions act on the tallies of their own thread, and saturate as R76 states; a wait whose condition holds leaves the thread in
RUN. R99: an arrival at a barrier enters WAIT, and the arrival that makes up the count releases every thread that has arrived. -/
def Obligations.TalliesAndBarriers : Prop := ∀ (x : Site) (f : BitVec 52) (s : State),
  let h := thrAt s x
  let w (major minor : Nat) := insnWord major minor f
  let ra := h.sReg (fRa f)
  let becomes (c : Instr) (h' : Thread) : Prop := ∃ t, exec c s = .next t ∧ thrAt t x = h' ∧ OnlyThread x s t
  let waits (q : Nat) (v : DWord) : Thread := if v.toNat ≤ (h.q.get q).toNat then h.next else { h.next with st := .wait, cond := some (.tally q v.toNat) }
  (issuable s x (w 0x0B 0) f [fRa f] [] = true → fRd f < 16 → fRb f = 0 → fLow f = 0 → ra.toNat < 2 ^ 32 →
    becomes (.tset x f) { h.next with q := h.q.set (fRd f) (BitVec.ofNat 32 ra.toNat) }) ∧
  (issuable s x (w 0x0B 1) f [] [] = true → fRd f < 16 → fRa f = 0 → (fImm f).toNat < 2 ^ 32 →
    becomes (.tseti x f) { h.next with q := h.q.set (fRd f) (BitVec.ofNat 32 (fImm f).toNat) }) ∧
  (issuable s x (w 0x0B 2) f [fRa f] [] = true → fRd f < 16 → fRb f = 0 → fLow f = 0 → ra.toNat < 2 ^ 32 → h.cond = none →
    let sum := (h.q.get (fRd f)).toNat + ra.toNat
    ∃ t, exec (.tadd x f) s = .next t ∧
      thrAt t x = { h.next with q := h.q.set (fRd f) (BitVec.ofNat 32 (min sum (2 ^ 32 - 1))) } ∧
      (t.ember x.e.val).tallyOvf = (if 2 ^ 32 ≤ sum then withBit (s.ember x.e.val).tallyOvf x.t.val true else (s.ember x.e.val).tallyOvf) ∧
      (∀ j, j ≠ x.t.val → t.thread x.e.val j = s.thread x.e.val j) ∧ OnlyEmbers [x.e.val] s t) ∧
  (issuable s x (w 0x0B 3) f [fRd f] [] = true → fRa f < 16 → fRb f = 0 → fLow f = 0 →
    becomes (.trd x f) (h.setS (fRd f) (BitVec.ofNat 64 (h.q.get (fRa f)).toNat)).next) ∧
  (issuable s x (w 0x0B 4) f [fRa f] [] = true → fRd f < 16 → fRb f = 0 → fLow f = 0 → ra.toNat < 2 ^ 32 → becomes (.twait x f) (waits (fRd f) ra)) ∧
  (issuable s x (w 0x0B 5) f [] [] = true → fRd f < 16 → fRa f = 0 → (fImm f).toNat < 2 ^ 32 → becomes (.twaiti x f) (waits (fRd f) (fImm f))) ∧
  (issuable s x (w 0x0C 0) f [fRa f] [] = true → fRd f = 0 →
    let key := (if s.isBe x.e.val x.t.val then 4 else 0) + fImmU f % 4
    let b := (s.ember x.e.val).barriers.get key
    let arrived := b.arrived ++ [x.t.val]
    1 ≤ ra.toNat → ra.toNat ≤ 8 → (b.arrived ≠ [] → b.count = ra.toNat) →
    ∃ t, exec (.bare x f) s = .next t ∧ OnlyEmbers [x.e.val] s t ∧
      (if arrived.length < ra.toNat then thrAt t x = { h.next with st := .wait, cond := some (.emberBar (fImmU f % 4)) } ∧
          (t.ember x.e.val).barriers.get key = { count := ra.toNat, arrived := arrived } ∧ ∀ j, j ≠ x.t.val → t.thread x.e.val j = s.thread x.e.val j
        else Released { h.next with st := .wait, cond := some (.emberBar (fImmU f % 4)) } (thrAt t x) ∧
          (t.ember x.e.val).barriers.get key = { count := 0, arrived := [] } ∧
          ∀ j, j ≠ x.t.val → if j ∈ b.arrived then Released (s.thread x.e.val j) (t.thread x.e.val j) else t.thread x.e.val j = s.thread x.e.val j)) ∧
  (issuable s x (w 0x0C 1) f [fRa f] [] = true → fRd f = 0 →
    let n := s.partOf x.e.val
    let key := (if s.isBe x.e.val x.t.val then 64 else 0) + fImmU f % 64
    let b := (s.part n).pbars.get key
    1 ≤ ra.toNat → ra.toNat ≤ 204800 → (b.arrived ≠ [] → b.count = ra.toNat ∧ b.arrived.length < b.count) →
    ∃ t, exec (.barp x f) s = .next t ∧ thrAt t x = { h.next with st := .wait, cond := some (.partBar (fImmU f % 64)) } ∧
      (t.part n).pbars.get key = { count := ra.toNat, arrived := b.arrived ++ [8 * x.e.val + x.t.val] }) ∧
  (∀ (n : PartId) (be : Bool) (i : Fin 64), let key := (if be then 64 else 0) + i.val
    let b := (s.part n.val).pbars.get key
    b.arrived ≠ [] → b.arrived.length = b.count →
    ∃ t, exec (.barpRelease n be i) s = .next t ∧ (t.part n.val).pbars.get key = { count := 0, arrived := [] } ∧
      ∀ l (j : Fin 8), if 8 * l + j.val ∈ b.arrived then Released (s.thread l j.val) (t.thread l j.val) else t.thread l j.val = s.thread l j.val)

/-- R100: SEMSIG adds to the semaphore, which saturates at 0x7FFF_FFFF and then sets bit 31, and its waiters are served strictly in their order of
arrival while the value suffices; SEMWAIT subtracts at once where nobody waits and the value suffices, and waits behind the others otherwise;
SEMRD gives the word. -/
def Obligations.Semaphores : Prop := ∀ (x : Site) (f : BitVec 52) (s : State),
  let h := thrAt s x
  let n := s.partOf x.e.val
  let k := (h.sReg (fRa f)).toNat
  let key := (if s.isBe x.e.val x.t.val then 4096 else 0) + fImmU f
  let m := (s.part n).sems.get key
  (issuable s x (insnWord 0x0C 2 f) f [fRa f] [] = true → requestRoom x s = true → fRd f = 0 → fImmU f < 4096 → k < 2 ^ 31 →
    let word := if m.word.toNat % 2 ^ 31 + k < 2 ^ 31 then m.word.toNat + k else 2 ^ 32 - 1
    ∃ t j, exec (.semsig x f) s = .next t ∧
      let served := m.waiters.take j
      let m' := (t.part n).sems.get key
      m'.waiters = m.waiters.drop j ∧ needs served ≤ word % 2 ^ 31 ∧ m'.word.toNat = word - needs served ∧
      (∀ w ws, m.waiters.drop j = w :: ws → word % 2 ^ 31 < needs served + w.need) ∧
      (∀ l i, (l, i) ≠ (x.e.val, x.t.val) → ReleasedIf (∃ k, SemWaiter.thread l i k ∈ served) (s.thread l i) (t.thread l i)) ∧
      (thrAt t x).pc = h.pc + 1 ∧ (thrAt t x).s = h.s) ∧
  (issuable s x (insnWord 0x0C 3 f) f [fRa f] [] = true → requestRoom x s = true → fRd f = 0 → fImmU f < 4096 → k < 2 ^ 31 →
    ∃ t, exec (.semwait x f) s = .next t ∧ (∀ l i, (l, i) ≠ (x.e.val, x.t.val) → t.thread l i = s.thread l i) ∧
      (∀ o, o ≠ key → (t.part n).sems.get o = (s.part n).sems.get o) ∧
      if m.waiters = [] ∧ k ≤ m.word.toNat % 2 ^ 31 then
        thrAt t x = h.next ∧ (t.part n).sems.get key = { word := BitVec.ofNat 32 (m.word.toNat - k), waiters := [] }
      else thrAt t x = { h.next with st := .wait, cond := some (.sem (fImmU f) k) } ∧
        (t.part n).sems.get key = { m with waiters := m.waiters ++ [.thread x.e.val x.t.val k] }) ∧
  (issuable s x (insnWord 0x0C 4 f) f [fRd f] [] = true → requestRoom x s = true → fRa f = 0 → fImmU f < 4096 →
    ∃ t, exec (.semrd x f) s = .next t ∧ thrAt t x = (h.setS (fRd f) (BitVec.ofNat 64 m.word.toNat)).next ∧ OnlyThread x s t)

/-- R101: STEPB of an LC thread outside an open chain moves the thread to WAIT; the first one of a boundary fixes the operand. A STEPB with another
operand raises STEP_MISMATCH, and one of a BE thread ILLEGAL_OPCODE. -/
def Obligations.StepBoundaryDeclared : Prop := ∀ (x : Site) (f : BitVec 52) (s : State),
  let h := thrAt s x
  let n := s.partOf x.e.val
  let ra := h.sReg (fRa f)
  issuable s x (insnWord 0 3 f) f [fRa f] [] = true → fRd f = 0 → fRb f = 0 → fLow f = 0 →
  (s.isBe x.e.val x.t.val = false → h.chain = none → (s.part n).step.first = none ∨ (s.part n).step.first = some ra →
    ∃ t, exec (.stepb x f) s = .next t ∧ thrAt t x = { h.next with st := .wait, cond := some (.step ra) } ∧
      t.part n = { s.part n with step := { (s.part n).step with first := some ra } } ∧ (∀ m, m ≠ n → t.part m = s.part m) ∧
      ∀ l i, (l, i) ≠ (x.e.val, x.t.val) → t.thread l i = s.thread l i) ∧
  (s.isBe x.e.val x.t.val = true → exec (.stepb x f) s = .next (raise x 0x01 0 s)) ∧
  (∀ v, s.isBe x.e.val x.t.val = false → h.chain = none → (s.part n).step.first = some v → v ≠ ra → exec (.stepb x f) s = .next (raise x 0x0B 0 s))

/-- R74, R103, R139: MOVE and FSEND copy a descriptor that passes their checks to the end of the mover's queue of at most 16 entries, and change
nothing else; a descriptor that fails raises the exception of its check and is not queued. MVQ counts the free entries of a mover. -/
def Obligations.MoverLaunch : Prop := ∀ (x : Site) (mv : MoverId) (f : BitVec 52) (s : State),
  let h := thrAt s x
  let n := s.partOf x.e.val
  let q := (s.ember x.e.val).movers.get mv.val
  let d := h.desc (fRd f)
  let m := mvDesc d
  let queued (c : Instr) (kind : MoverKind) : Prop := ∃ t j, exec c s = .next t ∧ thrAt t x = h.next ∧
    (t.ember x.e.val).movers.get mv.val = q ++ [j] ∧ (t.ember x.e.val).movers.get (1 - mv.val) = (s.ember x.e.val).movers.get (1 - mv.val) ∧
    j.t = x.t.val ∧ j.be = s.isBe x.e.val x.t.val ∧ j.desc = d ∧ j.pc = h.pc ∧ j.kind = kind ∧ j.st = .queued ∧ j.done = 0 ∧
    (∀ k, k ≠ x.e.val → t.ember k = s.ember k) ∧ (t.ember x.e.val).scratch = (s.ember x.e.val).scratch ∧ (t.part n).mem = (s.part n).mem
  (issuable s x (insnWord 0x0E mv.val f) f [] [] = true → q.length < 16 → 16 ≤ fRd f → fRd f < 24 → fRa f = 0 → fRb f = 0 → fLow f = 0 →
    (m.moveOk s n = true → m.localCheck (s.ember x.e.val) (s.isBe x.e.val x.t.val) = none → queued (.moveDesc x mv f) .move) ∧
    (m.moveOk s n = false → exec (.moveDesc x mv f) s = .next (raise x 0x09 (descWord d 3) s)) ∧
    (∀ c a, m.moveOk s n = true → m.localCheck (s.ember x.e.val) (s.isBe x.e.val x.t.val) = some (c, a) →
      exec (.moveDesc x mv f) s = .next (raise x c a s))) ∧
  (issuable s x (insnWord 0x38 mv.val f) f [fRa f] [] = true → q.length < 16 → 16 ≤ fRd f → fRd f < 24 → fRb f = 0 → fLow f = 0 →
    let ra := (h.sReg (fRa f)).toNat
    ra < 256 → m.sSp ≠ 1 → m.dSp = 1 → m.rtEn = false → m.conv = 0 → m.zero = true → m.rowBytes ≠ 0 → m.rowBytes % 8 = 0 →
    m.src % 8 = 0 → m.dst % 8 = 0 → m.sStride % 8 = 0 → m.dStride % 8 = 0 → addrForm m.sSp m.src = true → addrForm 1 m.dst = true →
    remEmber m.dst < 25600 → s.jobHas (s.routePos n (ra % 16)) = true → m.localCheck (s.ember x.e.val) (s.isBe x.e.val x.t.val) = none →
    queued (.fsend x mv f) (.fsend (ra % 16) (ra / 16))) ∧
  (issuable s x (insnWord 0x0E 2 f) f [fRd f, fRa f] [] = true → fRb f = 0 → fLow f = 0 →
    ∃ t, exec (.mvq x f) s = .next t ∧ OnlyThread x s t ∧ thrAt t x =
      (h.setS (fRd f) (BitVec.ofNat 64 (16 - ((s.ember x.e.val).movers.get ((h.sReg (fRa f)).toNat % 2)).length))).next)

/-- R107, R214 to R216: ALLOC and FREE join the requests that the heap controller serves in their order of arrival. The answer to an ALLOC gives the
address of the free block that serves it, or status 2 for a size of 0 or beyond the heap; the answer to a FREE of an allocated block makes the
block pending. R108: CAPRD gives entries of the table, and 0 beyond it. -/
def Obligations.AllocatorRequests : Prop := ∀ (x : Site) (f : BitVec 52) (s : State),
  let h := thrAt s x
  let n := s.partOf x.e.val
  let asks (minor : Nat) (c : Instr) (op : HeapOp) : Prop :=
    issuable s x (insnWord 0x0F minor f) f [fRd f, fRa f] [fRb f % 8] = true → requestRoom x s = true → fRb f < 8 → fLow f = 0 →
    ∃ t, exec c s = .next t ∧ (∀ m, m ≠ n → t.part m = s.part m) ∧ (∀ l i, (l, i) ≠ (x.e.val, x.t.val) → t.thread l i = s.thread l i) ∧
      thrAt t x = { h.next with heapReqs := h.heapReqs ++ [{ op := op, rd := fRd f, pred := fRb f, arg := h.sReg (fRa f) }] } ∧
      (t.part n).mem.heapQ = (s.part n).mem.heapQ ++ [8 * x.e.val + x.t.val] ∧ (t.part n).mem.heaps = (s.part n).mem.heaps
  asks 0 (.allocH x f) .allocH ∧ asks 1 (.allocS x f) .allocS ∧ asks 2 (.freeBlock x f) .free ∧
  (∀ (p : PartId) (ix : Fin 8) (l : Nat) (rest : List Nat) (r : HeapReq) (rs : List HeapReq),
    (s.part p.val).mem.heapQ = (8 * l + ix.val) :: rest → (s.thread l ix.val).heapReqs = r :: rs → (s.part p.val).runLc.isSome = true →
    let be := s.isBe l ix.val
    let heap (shelf : Bool) := (s.part p.val).mem.heaps.get ((if be then 2 else 0) + if shelf then 1 else 0)
    ∃ t, exec (.heapAnswer p) s = .next t ∧ (t.part p.val).mem.heapQ = rest ∧ (t.thread l ix.val).heapReqs = rs ∧
      (∀ shelf : Bool, r.op = (if shelf then .allocS else .allocH) →
        (r.arg.toNat = 0 ∨ (heap shelf).len < r.arg.toNat →
          t.thread l ix.val = (({ s.thread l ix.val with heapReqs := rs } : Thread).setS r.rd 2).setP r.pred false) ∧
        (∀ a, ((heap shelf).alloc r.arg.toNat).2 = .ok a →
          t.thread l ix.val = (({ s.thread l ix.val with heapReqs := rs } : Thread).setS r.rd (BitVec.ofNat 64 ((heap shelf).base + a))).setP r.pred true ∧
          (t.part p.val).mem.heaps = (s.part p.val).mem.heaps.set ((if be then 2 else 0) + if shelf then 1 else 0) ((heap shelf).alloc r.arg.toNat).1)) ∧
      (r.op = .free → ∀ hp, (heap false).free r.arg.toNat (s.part p.val).launched = some hp →
        t.thread l ix.val = (({ s.thread l ix.val with heapReqs := rs } : Thread).setS r.rd 0).setP r.pred true ∧
        (t.part p.val).mem.heaps = (s.part p.val).mem.heaps.set (if be then 2 else 0) hp)) ∧
  (issuable s x (insnWord 0x0F 3 f) f [fRd f, fRa f] [] = true → requestRoom x s = true →
    let i := (h.sReg (fRa f) + fImm f).toNat
    ∃ t v, exec (.caprd x f) s = .next t ∧ OnlyThread x s t ∧ thrAt t x = (h.setS (fRd f) v).next ∧
      (i = 0 → v = 26) ∧ (i = 2 → v = BitVec.ofNat 64 s.nParts) ∧ (i = 4 → v = 8) ∧ (i = 5 → v = 393216) ∧ (26 ≤ i → v = 0) ∧
      (i = 17 → (s.part n).hasCtx = true → v = BitVec.ofNat 64 (s.part n).step.count.toNat)) ∧
  (∀ (hp : Heap) (k a : Nat), (hp.alloc k).2 = .ok a →
   k ≠ 0 ∧ k ≤ hp.len ∧ (∃ b ∈ hp.blocks, b.off = a ∧ b.st = .free ∧ k ≤ b.size ∧ hp.minBlock ≤ b.size) ∧
   (∀ b ∈ hp.blocks, b.st ≠ .free → b.off ≠ a → b ∈ (hp.alloc k).1.blocks) ∧
   (∀ b ∈ (hp.alloc k).1.blocks, b.off = a → b.st = .allocated) ∧
   (hp.alloc k).1.pendingOrder = hp.pendingOrder ∧ (hp.alloc k).1.base = hp.base ∧ (hp.alloc k).1.len = hp.len)

namespace Sys2Proof

/-- The lane of one of the vector registers after a lane-by-lane instruction: `op` gives the word of each lane of RD, the sticky bits 4 and 5 of the
tile status word take up the saturations and the NaNs of the lanes, and nothing else changes (R130, Table 5.10). -/
def LaneByLane (c : Instr) (x : Site) (f : BitVec 52) (s : State) (op : Word → Word → Word → FpR) : Prop :=
  let h := thrAt s x
  let r (i : Nat) := op (lane (h.vReg (fRa f)) i) (lane (h.vReg (fRb f)) i) (lane (h.vReg (fRd f)) i)
  ∃ t v w, exec c s = .next t ∧ OnlyThread x s t ∧ thrAt t x = { (h.setV (fRd f) v).next with tsw := w } ∧
    (∀ i : Fin 32, lane v i.val = (r i.val).w) ∧
    (∀ b : Fin 64, bitAt w b.val = (bitAt h.tsw b.val || (decide (b.val = 4) && decide (∃ i : Fin 32, (r i.val).sat = true)) ||
      (decide (b.val = 5) && decide (∃ i : Fin 32, (r i.val).nan = true))))

end Sys2Proof

/-- R130, R132: each arithmetic instruction of the vector unit acts on its 32 lanes by its operation; VMAX and VMIN order +0 above -0. The forms of
one operand hold zero in RB. -/
def Obligations.VectorLanes : Prop := ∀ (x : Site) (f : BitVec 52) (s : State),
  let two (minor : Nat) (c : Instr) (op : Word → Word → Word → FpR) : Prop :=
    issuable s x (insnWord 0x30 minor f) f [] [] = true → fLow f = 0 → LaneByLane c x f s op
  let one (major minor : Nat) (c : Instr) (op : Word → FpR) : Prop :=
    issuable s x (insnWord major minor f) f [] [] = true → fRb f = 0 → fLow f = 0 → LaneByLane c x f s fun a _ _ => op a
  let above (a b : Word) : Prop := fpKey b < fpKey a
  two 0 (.vadd x f) (fun a b _ => fpAdd a b) ∧ two 1 (.vsub x f) (fun a b _ => fpAdd a (b ^^^ 0x80000000#32)) ∧ two 2 (.vmul x f) (fun a b _ => fpMul a b) ∧
  two 3 (.vfma x f) (fun a b d => fpFma a b d) ∧ two 4 (.vfms x f) (fun a b d => fpFma (a ^^^ 0x80000000#32) b d) ∧
  two 5 (.vmax x f) (fun a b _ => fpMax a b) ∧ two 6 (.vmin x f) (fun a b _ => fpMin a b) ∧
  one 0x30 7 (.vabs x f) (fun a => fpPass (a &&& 0x7FFFFFFF#32)) ∧ one 0x30 8 (.vmov x f) fpPass ∧
  one 0x31 0 (.vexp x f) fpExp ∧ one 0x31 1 (.vrsq x f) fpRsqrt ∧ one 0x31 2 (.vrcp x f) fpRecip ∧
  above 0#32 0x80000000#32 ∧
  ∀ a b : Word, decF a ≠ .nan → decF b ≠ .nan → fpMax a b = fpPass (if fpKey a < fpKey b then b else a) ∧ fpMin a b = fpPass (if fpKey a ≤ fpKey b then a else b)

namespace Sys2Proof

/-- The word is what the vector unit may deliver under R131: finite, or the quiet NaN 0x7FC0_0000. -/
def Deliverable (r : FpR) : Prop :=
  (if r.nan then r.w = 0x7FC00000#32 else r.w.toNat % 2 ^ 31 < 0x7F800000) ∧ (r.sat = true → r.w.toNat % 2 ^ 31 = 0x7F7FFFFF)

end Sys2Proof

/-- R131: the vector unit never delivers an infinity or a signalling NaN: a result beyond the largest finite magnitude is plus or minus 0x7F7F_FFFF, and
a NaN input or an invalid operation gives the quiet NaN and the NaN flag. -/
def Obligations.VectorDelivers : Prop := ∀ a b d : Word,
  Deliverable (fpAdd a b) ∧ Deliverable (fpSub a b) ∧ Deliverable (fpMul a b) ∧ Deliverable (fpFma a b d) ∧ Deliverable (fpMax a b) ∧
  Deliverable (fpMin a b) ∧ Deliverable (fpAbs a) ∧ Deliverable (fpPass a) ∧ Deliverable (fpRecip a) ∧ Deliverable (fpRsqrt a) ∧ Deliverable (fpExp a) ∧
  (decF a = .nan → (fpAdd a b).nan ∧ (fpAdd b a).nan ∧ (fpMul a b).nan ∧ (fpMul b a).nan ∧ (fpFma a b d).nan ∧ (fpFma b a d).nan ∧ (fpFma b d a).nan ∧
    (fpMax a b).nan ∧ (fpMax b a).nan ∧ (fpMin a b).nan ∧ (fpMin b a).nan ∧ (fpAbs a).nan ∧ (fpPass a).nan ∧ (fpRecip a).nan ∧ (fpRsqrt a).nan ∧
    (fpExp a).nan)

/-- R134: VBC gives RA[31:0] to every lane, VGET gives one lane, and VRSUM and VRMAX reduce the lanes in the fixed pairwise tree into lane 0. R133: an
aligned vector access inside its class's range moves the bytes of the row, of the pair of rows or of the slab, and a store writes no other byte. -/
def Obligations.VectorMoves : Prop := ∀ (x : Site) (f : BitVec 52) (strike : List Nat) (s : State),
  let h := thrAt s x
  let at_ := h.sReg (fRa f) + fImm f
  let m := (s.ember x.e.val).scratch
  let pieces (form : Nat) : List (Nat × Nat) := match form with
    | 0 => [(at_.toNat, 64)]
    | 1 => [(at_.toNat, 64), (at_.toNat + 512, 64)]
    | _ => (List.range 16).map fun r => (at_.toNat + 64 * r, 8)
  let aligned (form : Nat) : Prop :=
    if form = 0 then at_.toNat % 64 = 0
    else if form = 1 then at_.toNat % 64 = 0 ∧ at_.toNat % 1024 ≤ 448
    else at_.toNat % 8 = 0 ∧ at_.toNat % 1024 < 64
  let may (form : Nat) (write : Bool) : Prop := aligned form ∧ ∀ p ∈ pieces form,
    (s.ember x.e.val).inRange (s.isBe x.e.val x.t.val) p.1 p.2 = true ∧ (write = true → (s.ember x.e.val).hitsCode p.1 p.2 = false)
  let loads (form : Nat) (c : Instr) : Prop := issuable s x (insnWord 0x32 form f) f [fRa f] [] = true → may form false →
    (∀ p ∈ pieces form, ((s.ember x.e.val).strike strike).mismatches p.1 p.2 = []) →
    ScratchGives c s x (h.setV (fRd f) (BitVec.ofNat 1024 (leNat ((pieces form).flatMap fun p => m.read p.1 p.2)))).next m.get
  let stores (form : Nat) (c : Instr) : Prop := issuable s x (insnWord 0x32 (4 + form) f) f [fRa f] [] = true → may form true →
    ScratchGives c s x h.next fun b => match (pieces form).zipIdx.find? fun p => decide (p.1.1 ≤ b) && decide (b < p.1.1 + p.1.2) with
      | some p => BitVec.ofNat 8 ((h.vReg (fRd f)).toNat / 256 ^ (p.1.2 * p.2 + (b - p.1.1)))
      | none => m.get b
  loads 0 (.vldRow x f strike) ∧ loads 1 (.vldPair x f strike) ∧ loads 2 (.vldSlab x f strike) ∧
  stores 0 (.vstRow x f) ∧ stores 1 (.vstPair x f) ∧ stores 2 (.vstSlab x f) ∧
  (issuable s x (insnWord 0x33 0 f) f [fRa f] [] = true → fRb f = 0 → fLow f = 0 → ∃ t v, exec (.vbc x f) s = .next t ∧ OnlyThread x s t ∧
    thrAt t x = (h.setV (fRd f) v).next ∧ ∀ i : Fin 32, lane v i.val = BitVec.ofNat 32 (h.sReg (fRa f)).toNat) ∧
  (issuable s x (insnWord 0x33 1 f) f [fRd f, fRb f] [] = true → fLow f = 0 → (h.sReg (fRb f)).toNat < 32 → ∃ t, exec (.vget x f) s = .next t ∧
    OnlyThread x s t ∧ thrAt t x = (h.setS (fRd f) (BitVec.ofNat 64 (lane (h.vReg (fRa f)) (h.sReg (fRb f)).toNat).toNat)).next) ∧
  (∀ op ∈ [(2, Instr.vrsum x f, fpAdd), (3, Instr.vrmax x f, fpMax)], issuable s x (insnWord 0x33 op.1 f) f [] [] = true → fRb f = 0 → fLow f = 0 →
    ∃ t v w, exec op.2.1 s = .next t ∧ OnlyThread x s t ∧ thrAt t x = { (h.setV (fRd f) v).next with tsw := w } ∧
      (∀ i : Fin 31, lane v (i.val + 1) = 0) ∧
      lane v 0 = (List.range 5).foldl (fun l _ => fun i => (op.2.2 (l (2 * i)) (l (2 * i + 1))).w) (lane (h.vReg (fRa f))) 0)

namespace Sys2Proof

/-- What queueing a tile instruction does to its ember (R69): the entry goes to the end of the tile queue, with what it was issued with; of the rest
of the device only the partition's count of launches and the issuing thread change. -/
def Queued (c : Instr) (s : State) (x : Site) (op : TileOp) (raw : Desc) (len : Nat) (h' : Thread) (P : TileEntry → Prop) : Prop :=
  ∃ t e, exec c s = .next t ∧ (t.ember x.e.val).tileQ = (s.ember x.e.val).tileQ ++ [e] ∧ e.t = x.t.val ∧ e.be = s.isBe x.e.val x.t.val ∧ e.op = op ∧
    e.desc = raw ∧ e.pc = (thrAt s x).pc ∧ e.st = .queued ∧ e.len = len ∧ e.verdict = none ∧ P e ∧ thrAt t x = h' ∧
    (t.ember x.e.val).scratch = (s.ember x.e.val).scratch ∧ (∀ j, j ≠ x.t.val → t.thread x.e.val j = s.thread x.e.val j) ∧
    (∀ k, k ≠ x.e.val → t.ember k = s.ember k) ∧ (∀ n, { t.part n with launched := (s.part n).launched } = s.part n)

end Sys2Proof

/-- R69, R117, R118, R135, R180: a TMMA whose checks pass joins the tile queue. START and CONTINUE leave the chain open with its key and its running
length, FINISH and SINGLE leave none; a START or SINGLE is one draw of the thread's sentinel, sampled exactly where the draw's low bits are zero. A
START or SINGLE in an open chain, and a CONTINUE or FINISH outside one or with another key, raise CHAIN. R127: a TQNT whose checks pass joins the
tile queue too. -/
def Obligations.TileIssue : Prop := ∀ (x : Site) (tb ta : Bool) (f : BitVec 52) (s : State),
  let h := thrAt s x
  let be := s.isBe x.e.val x.t.val
  let p := s.part (s.partOf x.e.val)
  let m := s.ember x.e.val
  let raw := h.td.get (fRd f)
  let d := matDesc raw
  let key := chainKey d ta tb
  let snt := h.snt.take
  let draw := sntDraw s x.e.val x.t.val snt.j
  let sampled : Bool := decide (draw.toNat % 2 ^ snt.n = 0)
  let drawn := { snt with j := snt.j + 1, sampled := if sampled then snt.sampled + 1 else snt.sampled, shadow := none }
  let at_ (cc : Nat) : Prop := issuable s x (insnWord 0x20 (16 * cc + 2 * (if tb then 1 else 0) + if ta then 1 else 0) f) f [] [] = true ∧
    m.tileQ.length < 16 ∧ (be = true → (m.tileQ.filter (·.be)).length < 8) ∧ fRd f < 16 ∧ fRa f = 0 ∧ fRb f = 0 ∧ fLow f = 0
  let fits (cc : Nat) (fix : TileFix) (shadows : List Extent) : Prop := at_ cc ∧ matOk d cc ta tb = true ∧ matFix p be d cc = .ok fix ∧
    boundsCheck m be (matReads d cc ta tb ++ shadows) (if 2 ≤ cc then [brickExt d.oBrick] else []) = none
  let opens (cc : Nat) (c : Instr) (chain : Option Chain) : Prop := ∀ fix,
    let shadow := if snt.drift then h.snt.shadow else none
    fits cc fix ((shadow.map (shadowExts d ta tb)).getD []) → h.chain = none → d.klen ≤ 2 ^ 24 →
    Queued c s x (.tmma cc ta tb) raw d.klen { h.next with chain := chain, snt := drawn }
      fun e => e.fix = fix ∧ e.shadow = shadow ∧ e.sample = if sampled then some (field draw 35 32, field draw 39 36) else none
  let goesOn (cc : Nat) (c : Instr) : Prop := ∀ fix len, fits cc fix [] → h.chain = some { key := key, len := len } → len + d.klen ≤ 2 ^ 24 →
    Queued c s x (.tmma cc ta tb) raw (len + d.klen)
      { h.next with chain := if cc = 1 then some { key := key, len := len + d.klen } else none } fun e => e.fix = fix ∧ e.sample = none
  opens 0 (.tmmaStart x tb ta f) (some { key := key, len := d.klen }) ∧ opens 3 (.tmmaSingle x tb ta f) none ∧
  goesOn 1 (.tmmaContinue x tb ta f) ∧ goesOn 2 (.tmmaFinish x tb ta f) ∧
  (∀ fix, (∀ sh, snt.drift = true → h.snt.shadow = some sh → False) →
    (fits 0 fix [] → h.chain ≠ none → exec (.tmmaStart x tb ta f) s = .next (raise x 0x12 0 s)) ∧
    (fits 3 fix [] → h.chain ≠ none → exec (.tmmaSingle x tb ta f) s = .next (raise x 0x12 0 s)) ∧
    (fits 1 fix [] → (∀ len, h.chain ≠ some { key := key, len := len }) → exec (.tmmaContinue x tb ta f) s = .next (raise x 0x12 0 s)) ∧
    (fits 2 fix [] → (∀ len, h.chain ≠ some { key := key, len := len }) → exec (.tmmaFinish x tb ta f) s = .next (raise x 0x12 0 s))) ∧
  (∀ (rot : Fin 4) (recipe : Fin 8), issuable s x (insnWord 0x21 (8 * rot.val + recipe.val) f) f [] [] = true →
    m.tileQ.length < 16 → (be = true → (m.tileQ.filter (·.be)).length < 8) → fRd f < 16 → fRa f = 0 → fRb f = 0 → fLow f = 0 →
    let q := quantDesc raw
    let ent := p.entry be q.sct
    let fmt := recipeFmt recipe.val ent.fmtStep
    (rot.val ≠ 0 → recipe.val = 1 ∨ recipe.val = 4) → q.sct < sctCount p be → quantOk q recipe.val rot.val (rowElems fmt) = true →
    (recipe.val = 2 → fmt ≤ 1 ∨ fmt = 3) → (6 ≤ recipe.val → ent.kind = 4) →
    boundsCheck m be (brickExts q.iBrick q.iStride (q.nBrick * rowElems fmt / q.w))
      (brickExts q.qBrick q.qStride q.nBrick ++ if recipeStrips recipe.val then [{ off := q.strip, len := q.nBrick * (rowElems fmt / 2) }] else []) = none →
    Queued (.tqnt x rot recipe f) s x (.tqnt recipe.val rot.val) raw 0 h.next fun e => e.fix.oFmt = fmt)

/-- R128: once every earlier tile instruction of the thread has completed, TSTAT gives a statistic of each row in lanes 0 to 15 of RD, the mean as the sum
divided by the count, or the status word in a scalar register; TSTAT.CLR clears the row statistics and TSTAT.CLRS the sticky bits of the status
word. R129: SCTRD gives a double-word of a scale-table entry. -/
def Obligations.StatisticsReads : Prop := ∀ (x : Site) (f : BitVec 52) (s : State),
  let h := thrAt s x
  let order : Prop := ∀ e ∈ (s.ember x.e.val).tileQ, e.t ≠ x.t.val
  let at_ (minor : Nat) (ss : List Nat) : Prop := issuable s x (insnWord 0x22 minor f) f ss [] = true ∧ order ∧ fRa f = 0 ∧ fRb f = 0 ∧ fLow f = 0
  let becomes (c : Instr) (h' : Thread) : Prop := ∃ t, exec c s = .next t ∧ thrAt t x = h' ∧ OnlyThread x s t
  let rows (minor : Nat) (c : Instr) (val : RowStat → Word) : Prop := at_ minor [] → ∃ v, becomes c (h.setV (fRd f) v).next ∧
    (∀ r : Fin 16, lane v r.val = val (h.rows.get r.val)) ∧ ∀ r : Fin 16, lane v (16 + r.val) = 0
  rows 0 (.tstatMax x f) (·.mx) ∧ rows 1 (.tstatSexp x f) (·.se) ∧ rows 2 (.tstatSsq x f) (·.sq) ∧ rows 3 (.tstatSum x f) (·.sum) ∧
  rows 4 (.tstatMean x f) (fun r => if r.cnt = 0 then qNaN else (fpDiv r.sum (rne32 { m := r.cnt.toNat, e := 0 } false).w).w) ∧
  rows 5 (.tstatCnt x f) (·.cnt) ∧
  (at_ 8 [fRd f] → becomes (.tstatS x f) (h.setS (fRd f) h.tsw).next) ∧
  (at_ 0x10 [] → fRd f = 0 → becomes (.tstatClr x f) { h.next with rows := Tab.const rowZero }) ∧
  (at_ 0x11 [] → fRd f = 0 → ∃ w : DWord, becomes (.tstatClrs x f) { h.next with tsw := w } ∧
    ∀ b : Fin 64, bitAt w b.val = (decide (8 ≤ b.val) && bitAt h.tsw b.val)) ∧
  (issuable s x (insnWord 0x23 0 f) f [fRd f, fRa f] [] = true → order → fImmU f < 4 →
    let i := (h.sReg (fRa f)).toNat
    i < sctCount (s.part (s.partOf x.e.val)) (s.isBe x.e.val x.t.val) → i < 4096 →
    becomes (.sctrd x f) (h.setS (fRd f) (((s.part (s.partOf x.e.val)).entry (s.isBe x.e.val x.t.val) i).word (fImmU f))).next)

/-- R135 to R137: SNTCFG stages a setting of n from 6 to 16 that waits for the next boundary, and raises SENT_CONFIG for another n; SNTRD gives the
configuration in effect and the sentinel's counts; SNTSHD names the shadow bricks. R138: FWIN sets a receive window whose extent its checks
pass, and closes it with length 0. -/
def Obligations.SentinelAndWindows : Prop := ∀ (x : Site) (f : BitVec 52) (s : State),
  let h := thrAt s x
  let becomes (c : Instr) (h' : Thread) : Prop := ∃ t, exec c s = .next t ∧ thrAt t x = h' ∧ OnlyThread x s t
  let ra := h.sReg (fRa f)
  let rb := h.sReg (fRb f)
  (issuable s x (insnWord 0x36 0 f) f [] [] = true → fRd f = 0 → fRa f = 0 → fImmU f < 64 →
    let n := fImmU f % 32
    (6 ≤ n → n ≤ 16 → becomes (.sntcfg x f) { h.next with snt := { h.snt with staged := some (n, decide (32 ≤ fImmU f)) } }) ∧
    (n < 6 ∨ 16 < n → exec (.sntcfg x f) s = .next (raise x 0x14 0 s))) ∧
  (issuable s x (insnWord 0x36 1 f) f [fRd f, fRa f] [] = true → fRb f = 0 → fLow f = 0 →
    let i := ra.toNat % 8
    let v : DWord := [BitVec.ofNat 64 (h.snt.n + if h.snt.drift then 32 else 0), h.snt.sampled, BitVec.ofNat 64 (s.ember x.e.val).sentMiss.toNat,
      h.snt.driftCnt, BitVec.ofNat 64 h.snt.driftMax.toNat][i]?.getD 0
    (i < 5 → becomes (.sntrd x f) (h.setS (fRd f) v).next) ∧ (5 ≤ i → exec (.sntrd x f) s = .next (raise x 0x14 0 s))) ∧
  (issuable s x (insnWord 0x36 2 f) f [fRa f, fRb f] [] = true → fRd f = 0 → fLow f = 0 → ra.toNat % 1024 = 0 → rb.toNat % 1024 = 0 →
    becomes (.sntshd x f) { h.next with snt := { h.snt with shadow := some (ra.toNat / 1024, rb.toNat / 1024) } }) ∧
  (issuable s x (insnWord 0x38 2 f) f [fRa f] [] = true → fRd f < 16 → fRb f = 0 → fLow f = 0 →
    let base := ra.toNat % 2 ^ 19
    let len := ra.toNat / 2 ^ 19 % 2 ^ 19
    ra.toNat < 2 ^ 42 → base % 8 = 0 → len % 8 = 0 → (len ≠ 0 → (s.ember x.e.val).inRange (s.isBe x.e.val x.t.val) base len = true) →
    (len ≠ 0 → (s.ember x.e.val).hitsCode base len = false) →
    becomes (.fwin x f) { h.next with win := h.win.set (fRd f) { base := base, len := len, tally := ra.toNat / 2 ^ 38 } })

/-- R59, R69: the free tile engine takes the oldest queued LC instruction; with none queued, and while BE work may run, the suspended BE instruction or
else the oldest queued BE one. An executing BE instruction steps aside while BE work is held. -/
def Obligations.TileQueueOrder : Prop := ∀ (l : EmberId) (upset : List (Fin 256 × Word)) (s : State) (pre post : List TileEntry) (e : TileEntry),
  let m := s.ember l.val
  m.tileQ = pre ++ e :: post →
  let becomes (c : Instr) (e' : TileEntry) : Prop := ∃ t, exec c s = .next t ∧ OnlyEmbers [l.val] s t ∧
    t.ember l.val = { m with tileQ := pre ++ e' :: post }
  let started := { e with st := .active, upset := upset.map fun u => (u.1.val, u.2) }
  (s.inService = true → (∀ a ∈ m.tileQ, a.st ≠ .active) → e.be = false → e.st = .queued → (∀ a ∈ pre, a.be = false → a.st ≠ .queued) →
    becomes (.tileDispatch l upset) started) ∧
  (s.inService = true → (∀ a ∈ m.tileQ, a.st ≠ .active) → (∀ a ∈ m.tileQ, a.be = false → a.st ≠ .queued) → s.beFree l.val = true → e.be = true →
    (e.st = .paused → (∀ a ∈ pre, a.be = true → a.st ≠ .paused) → becomes (.tileDispatch l upset) { e with st := .active }) ∧
    (e.st = .queued → (∀ a ∈ m.tileQ, a.be = true → a.st ≠ .paused) → (∀ a ∈ pre, a.be = true → a.st ≠ .queued) →
      becomes (.tileDispatch l upset) started)) ∧
  (e.st = .active → (∀ a ∈ pre, a.st ≠ .active) → e.be = true → s.beFree l.val = false → becomes (.beTileSuspend l) { e with st := .paused })

/-- R119, R123, R127: the executing instruction leaves the queue when it completes, and its tally counts one; a START or CONTINUE leaves its sums in the
accumulator set and writes no byte of scratch; a FINISH or SINGLE writes its output elements and no other byte; a TQNT writes what its recipe makes
of its input. A FINISH or SINGLE whose chain was sampled waits for the sentinel's verdict. `strike` are upsets that come before the reads, none of
which the instruction meets. -/
def Obligations.TileCompletes : Prop := ∀ (l : EmberId) (strike : List Nat) (s : State) (e : TileEntry),
  let m := s.ember l.val
  let h := s.thread l.val e.t
  let d := matDesc e.desc
  m.activeTile = some e → h.st ≠ .lost → e.verdict ≠ some true →
  let counted (t : State) (q : Nat) : Prop := (t.thread l.val e.t).q.get q = satAdd (h.q.get q) 1 ∧
    (t.ember l.val).tileQ = m.tileQ.filter fun a => decide (a.st ≠ .active)
  (∀ cc ta tb, e.op = .tmma cc ta tb → tileBad (m.strike strike) d cc ta tb (if e.sample.isSome then e.shadow else none) = [] →
    (cc < 2 → ∃ t, exec (.tileComplete l strike) s = .next t ∧ counted t d.tally ∧ (t.thread l.val e.t).acc = entryAcc s l.val e ∧
      (t.ember l.val).scratch = m.scratch ∧ (t.thread l.val e.t).tsw = h.tsw) ∧
    (2 ≤ cc → (entrySample s l.val e = none ∨ e.verdict ≠ none) →
      let y (i : Nat) := epilogue m.scratch d (entryTotal e (entryAcc s l.val e) i) (i / 16) (i % 16)
      ∃ t, exec (.tileComplete l strike) s = .next t ∧ counted t d.tally ∧ (t.thread l.val e.t).acc = entryAcc s l.val e ∧
        (∀ b : Nat, (∀ x ∈ outExts d e.fix.oFmt, ¬ (x.off ≤ (b : Int) ∧ (b : Int) < x.off + (x.len : Int))) → (t.ember l.val).scratch.get b = m.scratch.get b) ∧
        (e.fix.oFmt = 5 → ∀ (i : Fin 256) (b : Fin 4), (t.ember l.val).scratch.get (1024 * d.oBrick + 4 * i.val + b.val) =
          BitVec.ofNat 8 ((convertTo 5 fmtFp32 (decF (y i.val).w) e.fix.oX).1 / 256 ^ b.val)) ∧
        ∀ r : Fin 16, (t.thread l.val e.t).rows.get r.val = RowStat.update ((List.range 16).map fun n => (y (16 * r.val + n)).w) (h.rows.get r.val))) ∧
  (∀ recipe rot, e.op = .tqnt recipe rot → quantBad (m.strike strike) (quantDesc e.desc) (rowElems e.fix.oFmt) = [] →
    ∃ t, exec (.tqntComplete l strike) s = .next t ∧ counted t (quantDesc e.desc).tally ∧
      (t.ember l.val).scratch = (runQuant m.scratch (quantDesc e.desc) recipe rot e.fix).mem)

/-- R123, R181: the sentinel's verdict on a sampled chain is the miss test of the delivered total against the reference; R182, R183: a FINISH or SINGLE
that completes with a miss counts it and is recorded as the latest miss, and a miss of the LC class asks for a step abort. -/
def Obligations.SentinelVerdicts : Prop := ∀ (l : EmberId) (s : State) (e : TileEntry),
  let m := s.ember l.val
  m.activeTile = some e →
  (∀ cc ta tb r, e.op = .tmma cc ta tb → 2 ≤ cc → entrySample s l.val e = some r →
    let y := entryTotal e (entryAcc s l.val e) (16 * r.m + r.n)
    let yref := foldWord r.ref
    let mag := foldWord r.mag
    ∃ t e', exec (.sentinelVerdict l) s = .next t ∧ OnlyEmbers [l.val] s t ∧ (t.ember l.val).activeTile = some e' ∧
      e' = { e with verdict := some (missTest y.w yref.1 mag.1 e.len (matDesc e.desc).k e.long y.sat (r.sat || r.magSat || yref.2 || mag.2)) } ∧
      (t.ember l.val).tileQ.length = m.tileQ.length) ∧
  (∀ cc ta tb strike, e.op = .tmma cc ta tb → 2 ≤ cc → e.verdict = some true → tileBad (m.strike strike) (matDesc e.desc) cc ta tb (if e.sample.isSome then e.shadow else none) = [] →
    ∃ t, exec (.tileComplete l strike) s = .next t ∧ (t.ember l.val).sentMiss = satAdd m.sentMiss 1 ∧ t.snt.missTotal = satAdd s.snt.missTotal 1 ∧
      t.snt.lastValid = true ∧ t.snt.lastEmber = BitVec.ofNat 15 l.val ∧ t.snt.lastThread = BitVec.ofNat 3 e.t ∧
      (e.be = false → (t.part (s.partOf l.val)).abort.request.isSome = true ∧ (t.part (s.partOf l.val)).pauseLc = true ∨
        (s.part (s.partOf l.val)).abort.request.isSome = true))

/-- R74, R104, R105: a mover takes its oldest LC descriptor first, then, while BE work may run, a paused BE one, then the oldest queued BE one. A row moved
within scratch, to the shelf or to another ember's scratch writes its bytes at the destination and no other byte; the descriptor then leaves the queue
and its tally counts one, or, with a remote destination, the remote tally counts and the acknowledgement counts the descriptor's own tally. An
executing BE descriptor steps aside at a boundary of 4,096 bytes while BE work is held. -/
def Obligations.MoverExecution : Prop := ∀ (l : EmberId) (mv : MoverId) (strike : List Nat) (s : State) (pre post : List MoverJob) (j : MoverJob),
  let m := s.ember l.val
  let n := s.partOf l.val
  let d := mvDesc j.desc
  m.movers.get mv.val = pre ++ j :: post → j ∉ pre →
  let q (t : State) := (t.ember l.val).movers.get mv.val
  let counts (t : State) : Prop := (t.thread l.val j.t).q.get d.tally = satAdd ((s.thread l.val j.t).q.get d.tally) 1
  let moved (src : Memory) (src0 : Nat) (dst : Memory) (dst0 len b : Nat) : Byte := if dst0 ≤ b ∧ b < dst0 + len then src.get (src0 + (b - dst0)) else dst.get b
  (s.inService = true → (∀ a ∈ m.movers.get mv.val, a.st ≠ .active ∨ a.sent = true) →
    let becomes (c : Instr) (j' : MoverJob) : Prop := ∃ t, exec c s = .next t ∧ OnlyEmbers [l.val] s t ∧ q t = pre ++ j' :: post
    (j.be = false → j.sent = false → (∀ a ∈ pre, a.be = true ∨ a.sent = true) → becomes (.moverDispatch l mv) { j with st := .active }) ∧
    ((∀ a ∈ m.movers.get mv.val, a.be = true ∨ a.sent = true) → s.beFree l.val = true → j.be = true →
      (j.st = .paused → (∀ a ∈ pre, a.be = true → a.st ≠ .paused) → becomes (.moverDispatch l mv) { j with st := .active }) ∧
      (j.st = .queued → (∀ a ∈ m.movers.get mv.val, a.be = true → a.st ≠ .paused) → (∀ a ∈ pre, a.be = true → a.st ≠ .queued) →
        becomes (.moverDispatch l mv) { j with st := .active }))) ∧
  (j.st = .active → j.sent = false → (∀ a ∈ pre, a.st ≠ .active ∨ a.sent = true) → j.kind = .move → (s.thread l.val j.t).st ≠ .lost → d.rows = 1 → d.conv = 0 →
    d.sSp = 0 → d.rowBytes ≠ 0 → j.done = 0 →
    (((m.strike strike).mismatches d.src d.rowBytes = [] →
      (d.dSp = 0 → ∃ t, exec (.moverComplete l mv strike []) s = .next t ∧ q t = pre ++ post ∧ counts t ∧
        ∀ b, (t.ember l.val).scratch.get b = moved m.scratch d.src m.scratch d.dst d.rowBytes b) ∧
      (d.dSp = 2 → d.dst + d.rowBytes ≤ s.shelfBytes → shelfAwake s n d.dst d.rowBytes = true →
        ∃ t, exec (.moverComplete l mv strike []) s = .next t ∧ q t = pre ++ post ∧ counts t ∧ (t.ember l.val).scratch = m.scratch ∧
          ∀ b, (t.part n).mem.shelf.get b = moved m.scratch d.src (s.part n).mem.shelf d.dst d.rowBytes b) ∧
      (d.dSp = 1 → remEmber d.dst ≠ l.val → (s.thread (remEmber d.dst) d.rthread).st ≠ .lost →
        (s.ember (remEmber d.dst)).extentIn j.be (remOff d.dst, d.rowBytes) = true → (s.ember (remEmber d.dst)).hitsCode (remOff d.dst) d.rowBytes = false →
        ∃ t, exec (.remWriteDone l mv strike []) s = .next t ∧ q t = pre ++ { j with done := d.rowBytes, stall := false, sent := true } :: post ∧
          (∀ b, (t.ember (remEmber d.dst)).scratch.get b = moved m.scratch d.src (s.ember (remEmber d.dst)).scratch (remOff d.dst) d.rowBytes b) ∧
          (t.thread (remEmber d.dst) d.rthread).q.get d.rtally = (if d.rtEn then satAdd ((s.thread (remEmber d.dst) d.rthread).q.get d.rtally) 1
            else (s.thread (remEmber d.dst) d.rthread).q.get d.rtally)))) ∧
    (∀ k : Nat, j.be = true → s.beFree l.val = false → d.dSp = 0 → 0 < k → 4096 * k < d.rowBytes → m.mismatches d.src (4096 * k) = [] →
      ∃ t, exec (.beMoverPause l mv k []) s = .next t ∧ q t = pre ++ { j with done := 4096 * k, stall := false, st := .paused } :: post ∧
        ∀ b, (t.ember l.val).scratch.get b = moved m.scratch d.src m.scratch d.dst (4096 * k) b)) ∧
  (j.sent = true → j.kind = .move → (∀ a ∈ pre, a.sent = false ∨ a.kind ≠ .move) → (s.thread l.val j.t).st ≠ .lost →
    ∃ t, exec (.remAck l mv) s = .next t ∧ q t = pre ++ post ∧ counts t ∧ (t.ember l.val).scratch = m.scratch)

namespace Sys2Proof

/-- The oldest frame of a kind that has arrived at a partition and that its sender's drop marker does not hold back (R194), with the flue that it came
by. -/
def Arrived (s : State) (n : Nat) (kind : FrameBody → Bool) (f : Nat) (fr : Frame) : Prop :=
  (s.part n).inbox.find? (fun e => kind e.2.body && decide (e.2 ∉ behindMark [] (s.part n).inbox)) = some (f, fr)

/-- A partition may send: it has not withdrawn and its channels are not halted (R232, R309). -/
def MaySend (s : State) (n : Nat) : Prop := (s.part n).rl.state ≠ .withdrawn ∧ (s.part n).prot.halted = false

/-- From `s` to `t` frames of partition `n`, with the header that it gives them in `s`, enter the outbound hold, in this order (R233, R257). `via` is
the torus direction that a ring names for them (R199). -/
def SendsVia (via : Option Nat) (n : Nat) (s t : State) (fs : List (Option Pos × Vc × FrameBody)) : Prop :=
  t.outHold = s.outHold ++ fs.map fun x => (n, { epoch := (s.part n).epoch, lineage := (s.part n).tree.lineage, step := (s.part n).step.count,
                                                 src := s.logicalPos n, dst := x.1, vc := x.2.1, body := x.2.2, via := via })

/-- Frames that no ring or route sends a way of its own. -/
def Sends (n : Nat) (s t : State) (fs : List (Option Pos × Vc × FrameBody)) : Prop := SendsVia none n s t fs

end Sys2Proof

/-- R114, R140 to R142, R278, R286: a collective whose checks pass joins its ember's flue queue, the thread's count of the group rises by one, and the
issuing participant joins the instance of that count, which the first one opens. A wrong SEQ raises COLL_ORDER. R144, R287: a RINGSTEP whose
checks pass joins the flue queue too, and tells the previous position of the ring that its block may come. -/
def Obligations.CollectiveIssue : Prop := ∀ (x : Site) (f : BitVec 52) (s : State),
  let h := thrAt s x
  let n := s.partOf x.e.val
  let be := s.isBe x.e.val x.t.val
  let m := s.ember x.e.val
  let raw := h.td.get (fRd f)
  let c := collDesc raw
  let own := 8 * x.e.val + x.t.val
  let members := (groupOf s n be c.grp).members
  let count := h.collCount.get c.grp
  let at_ (major minor : Nat) : Prop := issuable s x (insnWord major minor f) f [] [] = true ∧ m.flueQ.length < 8 ∧ fRd f < 16 ∧ fRa f = 0 ∧
    fRb f = 0 ∧ fLow f = 0
  let job (op : FlueOp) (k : Nat) : FlueJob := { t := x.t.val, be := be, op := op, desc := raw, pc := h.pc, count := k, sent := false, acked := false,
                                                 got := false, seq := (s.part n).launched }
  let joins (cmd : Instr) (op : FlueOp) : Prop :=
    let hdr : CollHdr := { grp := c.grp, kind := op.kind, op := c.op, scope := c.scope, level := 0, round := 0, results := false, empty := false,
                           len := c.len, cseq := count }
    let queued (t : State) : Prop := exec cmd s = .next t ∧ (t.ember x.e.val).flueQ = m.flueQ ++ [job op count] ∧
      thrAt t x = { h.next with collCount := h.collCount.set c.grp (count + 1) } ∧ (t.ember x.e.val).scratch = m.scratch ∧
      (∀ j, j ≠ x.t.val → t.thread x.e.val j = s.thread x.e.val j) ∧ (∀ k, k ≠ x.e.val → t.ember k = s.ember k) ∧ t.outHold = s.outHold
    (c.seq = count % 65536 →
      ((s.part n).tree.early = [] → findInst s n be c.grp count = none → (∃ k ∈ members, k ≠ own) →
        ∃ t, queued t ∧ (t.part n).tree.insts = (s.part n).tree.insts ++ [{ be := be, hdr := hdr, root := c.root, issued := [own], value := none,
                                                                            sat := false, done := [], pieces := [], sent := [] }]) ∧
      (∀ i, findInst s n be c.grp count = some i → hdrAgrees hdr i.hdr = true → (∃ k ∈ members, k ≠ own ∧ k ∉ i.issued) →
        ∃ t, queued t ∧ findInst t n be c.grp count = some { i with issued := i.issued ++ [own] })) ∧
    (c.seq ≠ count % 65536 → exec cmd s = .next (raise x 0x17 0 s))
  let passes (op : FlueOp) : Prop := c.ok op s x = true ∧ c.bounds op (members.length * scopeSize s c.scope) m be = none
  (at_ 0x39 0 → passes .dtredAll → joins (.dtredAll x f) .dtredAll) ∧ (at_ 0x39 1 → passes .dtredRs → joins (.dtredRs x f) .dtredRs) ∧
  (at_ 0x39 2 → passes .dtbc → joins (.dtbc x f) .dtbc) ∧ (at_ 0x39 3 → passes .dtbar → joins (.dtbar x f) .dtbar) ∧
  (at_ 0x3A 0 → c.ok .ringstep s x = true → c.bounds .ringstep 1 m be = none →
    let e := ringOf s n be c.ring
    (c.step = h.ringStep.get c.ring + 1 → c.step ≤ e.len - 1 → ∀ i, ringIndex s (s.logicalPos n) e = some i → MaySend s n →
      ∃ t, exec (.ringstep x f) s = .next t ∧ (t.ember x.e.val).flueQ = m.flueQ ++ [job .ringstep c.step] ∧
        thrAt t x = { h.next with ringStep := h.ringStep.set c.ring c.step } ∧
        Sends n s t [(some (ringPos s (s.logicalPos n) e ((i + e.len - 1) % e.len)), if be then .be else .lc,
          .ringReady { ring := c.ring, step := c.step, l := e.len, len := c.len, ember := x.e.val, thread := x.t.val,
                       origin := (i + e.len - c.step) % e.len })]) ∧
    (c.step ≠ h.ringStep.get c.ring + 1 → exec (.ringstep x f) s = .next (raise x 0x17 0 s)))

/-- R142, R279, R280, R285: an instance of a module alone, whose value stands, gives each participant its result at DST: all words, or its own slice for
DTRED.RS; the operation leaves the flue queue and TALLY counts one. R283: a COLL frame that agrees with an instance under way joins its pieces; one
for an instance that is over is refused. R144, R287: a RING_READY frame sends the block, RING_DATA writes it, counts TALLY and answers, and RING_ACK
counts STALLY. -/
def Obligations.CollectiveCompletion : Prop := ∀ (s : State),
  (∀ (x : Site) (grp : Fin 64) (j : FlueJob) (i : CollInst) (ws : List Word),
    let l := x.e.val
    let n := s.partOf l
    let m := s.ember l
    let c := collDesc j.desc
    let members := (groupOf s n j.be grp.val).members
    let k := i.hdr.len / members.length
    let out := if i.hdr.kind = 1 then (ws.drop (members.idxOf (8 * l + j.t) * k)).take k else ws
    m.flueQ.find? (fun j => decide (j.t = x.t.val) && decide (j.op ≠ .ringstep) && decide ((collDesc j.desc).grp = grp.val)) = some j →
    findInst s n j.be grp.val j.count = some i → i.value = some (some ws) → i.hdr.scope = 0 → i.hdr.len ≤ 1012 → c.dSp = 0 →
    (thrAt s x).st ≠ .lost →
    ∃ t, exec (.collectiveComplete x grp [] []) s = .next t ∧ (t.ember l).flueQ = m.flueQ.erase j ∧
      (t.thread l j.t).q.get c.tally = satAdd ((s.thread l j.t).q.get c.tally) 1 ∧
      (∀ b, (t.ember l).scratch.get b = if c.dst ≤ b ∧ b < c.dst + 4 * out.length then
        BitVec.ofNat 8 ((out.getD ((b - c.dst) / 4) 0).toNat / 256 ^ ((b - c.dst) % 4)) else m.scratch.get b) ∧
      (∀ k, k ≠ l → t.ember k = s.ember k)) ∧
  (∀ (n : PartId) (f : Nat) (fr : Frame) (h : CollHdr) (e k : Nat) (ws : List Word),
    let p := s.part n.val
    let be := decide (fr.vc = .be)
    let own := groupCount s n.val be h.grp
    let count := extendCount own h.cseq
    Arrived s n.val (fun b => match b with | .coll .. => true | _ => false) f fr → fr.body = .coll h e k ws → (f, fr) ∉ p.tree.inPool →
    (∀ i, findInst s n.val be h.grp count = some i → hdrAgrees h i.hdr = true → i.value = none →
      ∃ t, exec (.collFrame n) s = .next t ∧ OnlyPart n.val s t ∧ (t.part n.val).inbox = p.inbox.erase (f, fr) ∧
        findInst t n.val be h.grp count = some { i with pieces := i.pieces ++ [{ level := h.level, round := h.round, results := h.results,
                                                                                 src := fr.src, elem := e, words := if h.empty then none else some ws }] }) ∧
    (findInst s n.val be h.grp count = none → count < own → f = 32 →
      ∃ t, exec (.collFrame n) s = .next t ∧ OnlyPart n.val s t ∧ (t.part n.val).inbox = p.inbox.erase (f, fr) ∧
        (t.part n.val).tree.mismCnt = satAdd p.tree.mismCnt 1)) ∧
  (∀ (n : PartId) (f : Nat) (fr : Frame) (h : RingHdr) (j : FlueJob),
    let p := s.part n.val
    let m := s.ember h.ember
    let c := collDesc j.desc
    let ring := ringOf s n.val j.be h.ring
    let me := s.logicalPos n.val
    fr.vc = (if j.be then .be else .lc) → j.op = .ringstep → j.t = h.thread → c.ring = h.ring → c.step = h.step → MaySend s n.val →
    (∀ i, ringIndex s me ring = some i →
      let next : Pos := ringPos s me ring ((i + 1) % ring.len)
      let dir : Option Nat := if ring.shape = 1 then none else some (if ring.shape = 2 ∨ i < s.dim ring.dim then 0 else 1)
      let prev : Pos := ringPos s me ring ((i + ring.len - 1) % ring.len)
      (p.inbox = [(f, fr)] → fr.body = .ringReady h → m.flueQ = [j] → j.sent = false → j.acked = false → c.sSp = 0 →
        m.mismatches c.src (4 * c.len) = [] → ∃ t, exec (.ringReadyFrame n) s = .next t ∧ (t.part n.val).inbox = [] ∧
          (t.ember h.ember).flueQ = [{ j with sent := true }] ∧
          SendsVia dir n.val s t [(some next, fr.vc, .ringData { h with len := c.len, l := ring.len, origin := (i + 1 + ring.len - h.step) % ring.len } 0
            (wordsOf (m.scratch.read c.src (4 * c.len))))]) ∧
      (∀ ws : List Word, p.inbox = [(f, fr)] → fr.body = .ringData h 0 ws → m.flueQ = [j] → j.got = false → j.acked = false → c.dSp = 0 →
        c.len = h.len → ws.length = h.len → h.origin = (i + ring.len - h.step) % ring.len → (s.thread h.ember h.thread).st ≠ .lost →
        ∃ t, exec (.ringDataFrame n) s = .next t ∧ (t.part n.val).inbox = [] ∧ (t.ember h.ember).flueQ = [{ j with got := true }] ∧
          (t.thread h.ember h.thread).q.get c.tally = satAdd ((s.thread h.ember h.thread).q.get c.tally) 1 ∧
          (∀ b, (t.ember h.ember).scratch.get b = if c.dst ≤ b ∧ b < c.dst + 4 * h.len then
            BitVec.ofNat 8 ((ws.getD ((b - c.dst) / 4) 0).toNat / 256 ^ ((b - c.dst) % 4)) else m.scratch.get b) ∧
          Sends n.val s t [(some prev, fr.vc, .ringAck h)])) ∧
    (p.inbox = [(f, fr)] → fr.body = .ringAck h → m.flueQ = [j] → j.sent = true → j.acked = false → j.got = true →
      (s.thread h.ember h.thread).st ≠ .lost →
      ∃ t, exec (.ringAckFrame n) s = .next t ∧ (t.part n.val).inbox = [] ∧ (t.ember h.ember).flueQ = [] ∧
        (t.thread h.ember h.thread).q.get c.stally = satAdd ((s.thread h.ember h.thread).q.get c.stally) 1))

/-- R23, R48, R245 to R249, R263: the bring-up of a flue. FLUE_EN written as 1 starts it, in IDLE under FAB_CFG_ERR and in ABSENT where no cable is seen;
DETECT, TRAIN, ALIGN and INIT follow one another; INIT clears sequences and credits and sends the fingerprint; the third failed attempt puts the
flue in DOWN, and a cable that has gone puts it back in ABSENT. The first lane failure of a direction moves its logical lane to the spare: the
receiver asks for it in a LANE frame, the transmitter answers with the codeword, and the receiver goes over with it; a second failure leaves lane
width 4. WIDTH leaves the lanes common to both ends, and waits for a takeover. -/
def Obligations.FlueBringUp : Prop := ∀ (f : FlueId) (s : State),
  let u := s.flues.get f.val
  let start : FlueState := if fabCfgErr s then .idle else if s.pins.presN.get f.val then .absent else .detect
  let becomes (c : Instr) (v : Flue) : Prop := ∃ t, exec c s = .next t ∧ t.flues.get f.val = v ∧ OnlyFlue f.val s t
  let goes (c : Instr) (v : Flue) : Prop := ∃ t, exec c s = .next t ∧ t.flues.get f.val = v ∧ ∀ g, g ≠ f.val → t.flues.get g = s.flues.get g
  (s.inService = true → u.en = false → becomes (.flueEnSet f) { u with en := true, attempts := 0, state := start }) ∧
  (u.state ≠ .run → u.state ≠ .fpx → goes (.flueEnClear f) { u with en := false, state := .idle, subs := Tab.const subClosed }) ∧
  (∀ high : Bool, ∃ t, exec (.fluePresenceChange f high) s = .next t ∧ t.pins.presN.get f.val = high ∧ OnlyFlue f.val { s with pins := t.pins } t ∧
    (high = true → t.flues.get f.val = if u.state = .detect then { u with state := .absent } else u) ∧
    (high = false → u.en = true → u.state = .absent → t.flues.get f.val = { u with state := if fabCfgErr s then .idle else .detect })) ∧
  (u.en = true →
    (u.state = .detect → becomes (.flueDetectDone f) { u with state := .train }) ∧
    (u.state = .train → becomes (.flueTrainDone f) { u with state := .align }) ∧
    (u.state = .align → becomes (.flueAlignDone f) { u with state := .init }) ∧
    (u.state = .init → ∃ t, exec (.flueInitDone f) s = .next t ∧ (∀ g, g ≠ f.val → t.flues.get g = s.flues.get g) ∧
      let v := t.flues.get f.val
      v.state = .fpx ∧ v.txSeq = 0 ∧ v.rxSeq = 0 ∧ v.acked = 0 ∧ v.retry = [] ∧ (∀ k, v.used.get k = 0 ∧ v.granted.get k = 0 ∧ v.freed.get k = 0) ∧
        (∀ n, v.subs.get n = subClosed) ∧ v.txQ.getLast? = some { vc := .ctrl, part := 0, load := .link (.fpx (ownFpx s f.val v.salt)), flits := 1,
                                                                       started := false }) ∧
    (u.state ∈ [.detect, .train, .align, .init, .fpx] →
      (s.pins.presN.get f.val = true → becomes (.flueBringupTimeout f) { u with state := .absent }) ∧
      (s.pins.presN.get f.val = false → u.attempts < 2 → becomes (.flueBringupTimeout f) { u with attempts := u.attempts + 1, state := .train }) ∧
      (s.pins.presN.get f.val = false → 2 ≤ u.attempts → goes (.flueBringupTimeout f) { u with attempts := u.attempts + 1, trainFail := true, state := .down }))) ∧
  (u.state = .retrain → (∃ t, exec (.flueRetrainDone f) s = .next t ∧ (t.flues.get f.val).state = .run) ∧
    ((s.flues.get (pairOf f.val)).up = true → becomes (.flueRetrainDone f) { u with state := .run, resync := true })) ∧
  (∀ lane : Fin 9, u.state = .run → lane.val < 8 →
    let item (l : LinkFrame) : TxItem := { vc := .ctrl, part := 0, load := .link l, flits := 1, started := false }
    (u.rx.failed = [] → u.rx.laneWidth = 8 → goes (.laneLockLoss f lane) { u with
      rx := { u.rx with failed := [lane.val], spare := none, takeover := some lane.val }, txQ := u.txQ ++ [item (.lane lane.val)] }) ∧
    (u.rx.failed ≠ [] → lane.val ∉ u.rx.failed → ∃ t, exec (.laneLockLoss f lane) s = .next t ∧ (t.flues.get f.val).rx.laneWidth = 4 ∧
      (t.flues.get f.val).state = if ((List.range 9).filter fun l => decide (l ∉ u.rx.failed ++ [lane.val])).length < 4 then .down else .retrain) ∧
    (u.rxLink = [.lane lane.val] → u.tx.failed = [] → u.tx.laneWidth = 8 → u.tx.spare = none → ∃ cw, cw < 2 ^ 48 ∧
      goes (.laneFrame f) { u with rxLink := [], tx := { u.tx with failed := [lane.val], spare := some lane.val, spareFrom := cw }
                                   txQ := u.txQ ++ [item (.laneReply lane.val cw)] }) ∧
    (∀ cw, u.rxLink = [.laneReply lane.val cw] → u.rx.takeover = some lane.val →
      goes (.laneFrame f) { u with rxLink := [], rx := { u.rx with spare := some lane.val, spareFrom := cw, takeover := none } })) ∧
  (∀ (symbols : List Nat) (corr uncorr : Nat), (∀ k ∈ symbols, k ≤ 4096) → ∃ t, exec (.laneErrorInterval f symbols corr uncorr) s = .next t ∧
    OnlyFlue f.val s t ∧ (t.flues.get f.val).fecCorr = satAdd u.fecCorr corr ∧ (t.flues.get f.val).fecUncorr = satAdd u.fecUncorr uncorr ∧
    (t.flues.get f.val).state = u.state) ∧
  (u.rx.takeover.isSome = true → exec (.widthFrame f) s = .next s) ∧
  (∀ w, u.rx.takeover = none → u.rxLink = [.width w] → becomes (.widthFrame f) { u with rxLink := [], peerWidth := w, modeWidth := min (modeLanes s f.val) w })

/-- R250 to R256, R261 to R263, R267: flit groups. A group goes out with the sequence of its first flit and stays in the retry buffer; a frame's flits are
encrypted and tagged under the link key and the count in use, with which they open again. A repeated NAK and an idle acknowledgement are headers
alone that name the expected sequence. A group that fails its check or has another sequence is discarded and the NAK
begins; one that is next in sequence is accepted, and a link frame in it is kept. FPX puts the flue in RUN where both fingerprints are as they should be,
and into QUAR otherwise. FLUE_UNQUAR brings a quarantined link up anew. -/
def Obligations.FlueTraffic : Prop := ∀ (f : FlueId) (s : State),
  let u := s.flues.get f.val
  let header (seq : Nat) (nak : Bool) (o : Output) : Prop := ∃ g : FlitGroup, o = .group f.val g ∧ g.nflit = 0 ∧ g.fseq = BitVec.ofNat 32 seq ∧
    g.ackSeq = BitVec.ofNat 24 u.rxSeq.toNat ∧ g.nak = nak ∧ g.gcrc = g.crcOf
  let good (g : FlitGroup) : Prop := g.gcrc = g.crcOf ∧ g.zeros = 0 ∧ g.nflit ≤ 8 ∧ g.data.length = 128 * g.nflit ∧ (g.nflit = 0 → g.sof = false ∧ g.eof = false)
  (u.up = true →
    (u.nakking = true → ∃ t o, exec (.nakRepeat f) s = .next t ∧ t.out = o :: s.out ∧ header u.txSeq.toNat true o ∧ OnlyFlue f.val { s with out := t.out } t) ∧
    (u.txQ = [] ∨ choose s f.val = none → ∃ t o, exec (.idleAckSend f) s = .next t ∧ t.out = o :: s.out ∧ header u.txSeq.toNat u.nakking o ∧ OnlyFlue f.val { s with out := t.out } t) ∧
    (∀ g : FlitGroup,
      (¬ good g ∨ (u.resync = false ∧ g.fseq ≠ BitVec.ofNat 32 u.rxSeq.toNat) → ∃ t o, exec (.flitGroupReceive f g) s = .next t ∧ t.out.head? = some o ∧
        header u.txSeq.toNat true o ∧ (t.flues.get f.val).rxSeq = u.rxSeq ∧ (t.flues.get f.val).nakking = true ∧
        (t.flues.get f.val).retryCnt = if u.nakking then u.retryCnt else satAdd u.retryCnt 1) ∧
      (∀ l, good g → u.resync = false → g.fseq = BitVec.ofNat 32 u.rxSeq.toNat → g.nflit = 1 → g.nak = false → g.keyId = 0 → linkOf g.data = some l →
        ∃ t, exec (.flitGroupReceive f g) s = .next t ∧ OnlyFlue f.val s t ∧ (t.flues.get f.val).rxSeq = u.rxSeq + 1 ∧
          (t.flues.get f.val).nakking = false ∧ (t.flues.get f.val).rxLink = u.rxLink ++ [l] ∧
          (t.flues.get f.val).freed.get (poolKey g.vc g.part.val) = u.freed.get (poolKey g.vc g.part.val) + 1)) ∧
    (∀ (i : TxItem) (rest : List TxItem) (l : LinkFrame), u.txQ = i :: rest → i.load = .link l → i.vc = .ctrl → i.part = 0 → i.flits = 1 →
      u.retryFlits < 2048 → 1 ≤ poolFree s u .ctrl 0 → ∃ t g, exec (.groupTransmit f) s = .next t ∧ t.out = .group f.val g :: s.out ∧ OnlyFlue f.val { s with out := t.out } t ∧
        g.fseq = BitVec.ofNat 32 u.txSeq.toNat ∧ g.nflit = 1 ∧ g.keyId = 0 ∧ g.sof = true ∧ g.eof = true ∧ g.data = l.bytes ∧
        (t.flues.get f.val).txQ = rest ∧ (t.flues.get f.val).txSeq = u.txSeq + 1 ∧ (t.flues.get f.val).retry = u.retry ++ [(u.txSeq, g, none)]) ∧
    (∀ (i : TxItem) (fr : Frame), u.txQ = [i] → i.load = .frame fr → i.vc = .ctrl → i.flits = frameFlits fr.body → i.flits ≤ 8 → u.state = .run →
      (u.subs.get i.part.val).told = true → u.retryFlits + i.flits ≤ 2048 → i.flits ≤ poolFree s u .ctrl i.part.val →
      let c := u.subs.get i.part.val
      ∃ t g, exec (.groupTransmit f) s = .next t ∧ t.out = .group f.val g :: s.out ∧ OnlyFlue f.val { s with out := t.out } t ∧
        g.fseq = BitVec.ofNat 32 u.txSeq.toNat ∧ g.nflit = i.flits ∧ g.keyId = keyIdOf i.part.val c.openTx ∧ g.vc = .ctrl ∧ g.part = i.part ∧
        openGroup c.keyTx c.gcntTx g = some (fr.wire.take (128 * i.flits)) ∧ (t.flues.get f.val).txQ = [] ∧
        (t.flues.get f.val).retry = u.retry ++ [(u.txSeq, g, some fr)] ∧ ((t.flues.get f.val).subs.get i.part.val).gcntTx = c.gcntTx + 1)) ∧
  (∀ b : FpxBody, u.state = .fpx → u.rxLink = [.fpx b] → (∀ n, (u.subs.get n).openTx < 2 ^ 32 - 1) →
    let p := (cabledPeer s f.val).1
    let fp : Bool := decide (b.stepping.toNat = s.stepping) && decide (b.capDigest = capDigest s)
    let cable : Bool := decide (b.member = p.member) && decide (b.t = tWord p) && decide (b.flue = (cabledPeer s f.val).2)
    ∃ t, exec (.fpxFrame f) s = .next t ∧ (t.flues.get f.val).peerSalt = b.salt ∧ (t.flues.get f.val).state = (if fp && cable then .run else .quar) ∧
      (fp = false → u.quarCause = 0 → (t.flues.get f.val).quarCause = 1) ∧ (fp = true → cable = false → u.quarCause = 0 → (t.flues.get f.val).quarCause = 2)) ∧
  (u.state = .quar → ∃ t, exec (.flueUnquar f 0) s = .next t ∧ OnlyFlue f.val s t ∧
    let st : FlueState := if fabCfgErr s then .idle else if s.pins.presN.get f.val then .absent else .detect
    t.flues.get f.val = { u with quarCause := 0, attempts := 0, state := st })

/-- R139, R233, R258 to R262, R269 to R271, R314: frames that a partition has taken in. An OPEN that agrees
opens its sub-channel, and one that disagrees quarantines it; REFUSE stops it; a quarantine report reaches the job
stoker, which broadcasts FREEZE; FREEZE sets FAB_FROZEN; a STOKER names the new job stoker; an adoption notice changes the route. DATA inside its
window is written and its last frame counts the window's tally and answers; DACK counts the sender's tally. HEARTBEAT is noted. The oldest held
outbound frame leaves the hold; a held inbound frame is delivered once its step has come. -/
def Obligations.FabricFrames : Prop := ∀ (n : PartId) (f : Nat) (fr : Frame) (s : State),
  let p := s.part n.val
  let from_ (kind : FrameBody → Bool) : Prop := Arrived s n.val kind f fr
  let gone (t : State) : Prop := (t.part n.val).inbox = p.inbox.erase (f, fr)
  (∀ c, from_ (fun b => match b with | .refuse _ => true | _ => false) → fr.body = .refuse c → 0 < c → c < 16 →
    ∃ t, exec (.refuseFrame n) s = .next t ∧ gone t ∧ ((t.flues.get f).subs.get n.val).opened = false ∧ (t.flues.get f).quarPart.getLsbD n.val = true ∧
      ((s.flues.get f).quarCause = 0 → (t.flues.get f).quarCause.toNat = c)) ∧
  (∀ b, from_ (fun b => match b with | .openF _ => true | _ => false) → fr.body = .openF b → expectsTraffic s n.val = true → f < 32 → MaySend s n.val →
    let c := (s.flues.get f).subs.get n.val
    (openAgrees s f n.val b = true → b.role ≠ .adopted → (s.flues.get f).quarPart.getLsbD n.val = false → c.openTx < 2 ^ 32 - 1 → ∃ t, exec (.openFrame n) s = .next t ∧ gone t ∧
      ((t.flues.get f).subs.get n.val).opened = true ∧ ((t.flues.get f).subs.get n.val).peerRole = b.role ∧
      ((t.flues.get f).subs.get n.val).told = true ∧
      ((t.flues.get f).subs.get n.val).openTx = (if c.told then c.openTx else c.openTx + 1)) ∧
    (openAgrees s f n.val b = false → ∃ t, exec (.openFrame n) s = .next t ∧ gone t ∧ ((t.flues.get f).subs.get n.val).opened = false ∧
      (t.flues.get f).quarPart.getLsbD n.val = true)) ∧
  (∀ k c, from_ (fun b => match b with | .quarReport _ _ => true | _ => false) → fr.body = .quarReport k c → MaySend s n.val →
    (isJobStoker s n.val = false → ∃ t, exec (.quarantineReport n) s = .next t ∧ gone t ∧ Sends n.val s t [(some p.jobStoker, .ctrl, .quarReport k c)]) ∧
    (isJobStoker s n.val = true → c ≠ 0 → ∃ t, exec (.quarantineReport n) s = .next t ∧ gone t ∧ Sends n.val s t [(none, .ctrl, .freeze false)])) ∧
  (∀ k, from_ (fun b => match b with | .freeze _ => true | _ => false) → fr.body = .freeze k → ∃ t, exec (.freezeFrame n) s = .next t ∧ gone t ∧
    OnlyPart n.val s t ∧ (t.part n.val).frozen = true ∧ (t.part n.val).stk.measuring = false ∧ (t.part n.val).rl.routeLost = (p.rl.routeLost || k)) ∧
  (from_ (fun b => match b with | .stoker => true | .stokerAnswer _ _ => true | _ => false) → fr.body = .stoker →
    ∃ t, exec (.stokerFrame n) s = .next t ∧ gone t ∧ (t.part n.val).jobStoker = fr.src) ∧
  (∀ q rest, p.notices = q :: rest → isJobStoker s n.val = false →
    ∃ t, exec (.routeUpdate n) s = .next t ∧ OnlyPart n.val s t ∧ (t.part n.val).notices = rest ∧ q ∈ (t.part n.val).routes) ∧
  (∀ l i w off first last e mv et bs, from_ (fun b => match b with | .data .. => true | _ => false) →
    fr.body = .data l i w off (some (first, last)) e mv et bs true → s.partOf l = n.val → windowHolds ((s.thread l i).win.get w) first last = true →
    (s.thread l i).st ≠ .lost → MaySend s n.val →
    let tally := ((s.thread l i).win.get w).tally
    ∃ t, exec (.dataFrame n) s = .next t ∧ gone t ∧ (t.thread l i).q.get tally = satAdd ((s.thread l i).q.get tally) 1 ∧
      (∀ b, (t.ember l).scratch.get b = if off ≤ b ∧ b < off + bs.length then bs.getD (b - off) 0 else (s.ember l).scratch.get b) ∧
      Sends n.val s t [(some fr.src, fr.vc, .dack e mv et false)]) ∧
  (∀ l mv i j, from_ (fun b => match b with | .dack .. => true | _ => false) → fr.body = .dack l mv i false → (s.ember l).movers.get mv = [j] →
    j.sent = true → j.t = i → (∃ route win, j.kind = .fsend route win ∧ s.routePos n.val route = fr.src) → (s.thread l i).st ≠ .lost →
    ∃ t, exec (.dackFrame n) s = .next t ∧ gone t ∧ (t.ember l).movers.get mv = [] ∧
      (t.thread l i).q.get (mvDesc j.desc).tally = satAdd ((s.thread l i).q.get (mvDesc j.desc).tally) 1) ∧
  (s.inService = true → p.hasLc = true → p.rl.state ≠ .withdrawn → p.prot.halted = false → ∃ t w, exec (.heartbeatSend n) s = .next t ∧
    (t.part n.val).hbSent = p.hbSent + 1 ∧ t.outHold.map (fun e => (e.1, e.2.dst, e.2.body)) = s.outHold.map (fun e => (e.1, e.2.dst, e.2.body)) ++
      (hearthPeers s n.val).map fun m => (n.val, some (s.groupPos n.val m), .heartbeat (p.hbSent + 1) w)) ∧
  (∀ c h, from_ (fun b => match b with | .heartbeat _ _ => true | _ => false) → fr.body = .heartbeat c h →
    ∃ t, exec (.heartbeatFrame n) s = .next t ∧ gone t ∧ ((t.part n.val).peers.get fr.src.member).alive = true ∧
      ((t.part n.val).peers.get fr.src.member).count = c) ∧
  (∀ k g rest d, s.outHold = (k, g) :: rest → s.hostHold = [] → g.dst = some d → nextHop s k d = .here →
    ∃ t, exec .outboundHoldRelease s = .next t ∧ t.outHold = rest ∧ (t.part k).inbox = (s.part k).inbox ++ [(32, g)]) ∧
  (∀ h rest, s.outHold = [] → s.hostHold = h :: rest → ∃ t, exec .outboundHoldRelease s = .next t ∧ t.hostHold = rest ∧ h.out ∈ t.out ∧
    (h.cmd = none → t = { s with hostHold := rest, out := h.out :: s.out })) ∧
  (∀ room, p.holdBuf = [(f, fr, room)] → checkFrame s n.val fr = .deliver → isColl fr = false →
    ∃ t, exec (.heldFrameDeliver n) s = .next t ∧ (t.part n.val).holdBuf = [] ∧ (t.part n.val).inbox = p.inbox ++ [(f, fr)])

/-- R308 to R312, R316 to R319: losses. A peer that is not heard, or that withdraws, is no longer alive, and a partition with no peer left withdraws. A
LOSS at the job stoker chooses the target, advances the epoch and broadcasts RFREEZE under the old one; elsewhere it is passed on. RFREEZE freezes a
partition with a span at the target. ADOPT makes a banked standby with a reservation adopt the position, and makes the lost holder withdraw. -/
def Obligations.RelightLosses : Prop := ∀ (n : PartId) (f : Nat) (fr : Frame) (s : State),
  let p := s.part n.val
  let from_ (kind : FrameBody → Bool) : Prop := Arrived s n.val kind f fr
  let gone (t : State) : Prop := (t.part n.val).inbox = p.inbox.erase (f, fr)
  (∀ m : Fin 9, s.inService = true → (p.hasLc = true ∨ p.rl.role = .standby) → p.rl.state ≠ .withdrawn → m.val ∈ hearthPeers s n.val →
    ∃ t, exec (.heartbeatTimeout n m) s = .next t ∧ ((t.part n.val).peers.get m.val).alive = false ∧
      ((∀ k ∈ hearthPeers s n.val, k ≠ m.val → (p.peers.get k).alive = false) → (t.part n.val).rl.state = .withdrawn)) ∧
  (∀ reason, from_ (fun b => match b with | .withdraw _ => true | _ => false) → fr.body = .withdraw reason →
    ∃ t, exec (.withdrawFrame n) s = .next t ∧ gone t ∧ ((t.part n.val).peers.get fr.src.member).alive = false) ∧
  (∀ m sealedB, from_ (fun b => match b with | .loss _ _ => true | _ => false) → fr.body = .loss m sealedB → MaySend s n.val →
    (isJobStoker s n.val = false → ∃ t, exec (.lossFrame n) s = .next t ∧ gone t ∧ Sends n.val s t [(some p.jobStoker, .relight, .loss m sealedB)]) ∧
    (isJobStoker s n.val = true → m = 8 → ∃ t, exec (.lossFrame n) s = .next t ∧ gone t ∧ Sends n.val s t [(none, .ctrl, .freeze true)]) ∧
    (isJobStoker s n.val = true → m ≠ 8 → fr.src ≠ { fr.src with member := m } → p.stk.target = none → p.stk.epoch.toNat < 2 ^ 32 - 1 →
      p.stk.losses = [] → ∃ t b, exec (.lossFrame n) s = .next t ∧ gone t ∧ (t.part n.val).stk.target = some b ∧
        (t.part n.val).stk.epoch = p.stk.epoch + 1 ∧ (t.part n.val).stk.measuring = false ∧
        t.outHold.map (fun e => (e.1, e.2.epoch, e.2.dst, e.2.body)) = s.outHold.map (fun e => (e.1, e.2.epoch, e.2.dst, e.2.body)) ++
          [(n.val, p.stk.epoch, none, .rfreeze (p.stk.epoch + 1) b [{ fr.src with member := m }])])) ∧
  (∀ e b lost, from_ (fun b => match b with | .rfreeze _ _ _ => true | _ => false) → fr.body = .rfreeze e b lost → MaySend s n.val →
    (p.rl.role = .standby → ∃ t, exec (.rfreezeFrame n) s = .next t ∧ OnlyPart n.val s t ∧ gone t ∧ (t.part n.val).epoch = e ∧
      (t.part n.val).rl.target = b ∧ (t.part n.val).rl.lostSet = lost) ∧
    (∀ x, p.rl.role ≠ .standby → p.rl.state ≠ .rebuild → s.logicalPos n.val ∉ p.rl.lostSet → e ≠ p.epoch → lcJob s n.val = some x → x.launch.wpUnits ≠ 0 →
      (∀ q ∈ lost, sameGroup q (s.logicalPos n.val) = false) → ∃ t, exec (.rfreezeFrame n) s = .next t ∧ (t.part n.val).frozen = true ∧
        (t.part n.val).rl.state = .frozen ∧ (t.part n.val).rl.target = b ∧ (t.part n.val).rl.lostSet = lost ∧ (t.part n.val).stk.measuring = false)) ∧
  (∀ pos target epoch, from_ (fun b => match b with | .adopt _ _ _ => true | _ => false) → fr.body = .adopt pos target epoch →
    (p.rl.role ≠ .standby → pos = s.logicalPos n.val → ∃ t, exec (.adoptFrame n) s = .next t ∧ gone t ∧ (t.part n.val).rl.state = .withdrawn) ∧
    (∀ b, p.rl.role = .standby → p.rsv.state = .admitted → p.rsvJob.isSome = true → sameGroup pos s.ownPos = true → s.ownPos.member = 8 →
      p.rl.state = .banked → target = some b → ∃ t, exec (.adoptFrame n) s = .next t ∧ (t.part n.val).rl.state = .adopting ∧
        (t.part n.val).rl.adopting = some (pos, some b, epoch) ∧ (t.part n.val).epoch = epoch ∧ (t.part n.val).rl.target = b))

/-- R295, R298 to R304, R312 to R314, R317: parity and recovery. A unit of a member enters the P of its stripe by XOR in the new parity's frame. A copy on
first write fills the pool frame and makes it the unit's live version. A holder's report is noted, and the eighth seals the boundary in the
group; a group seal goes to the job stoker; a job seal releases the boundary. A mirrored input write is acknowledged. An adopted position's context
is installed at the target; a rebuilt unit is written in place; the end of the rebuild leaves REBUILD; RESUME reaches the job stoker; the
release of the freeze lets the partition run. RL_HANDBACK asks for the position. -/
def Obligations.RelightRecovery : Prop := ∀ (n : PartId) (f : Nat) (fr : Frame) (s : State),
  let p := s.part n.val
  let r := p.rl
  let from_ (kind : FrameBody → Bool) : Prop := Arrived s n.val kind f fr
  let gone (t : State) : Prop := (t.part n.val).inbox = p.inbox.erase (f, fr)
  (∀ q role bstep bs, p.inbox = [(f, fr)] → fr.body = .wpunit q role 0 bstep bs → bs.length = pageBytes →
    (∀ g, role = 0 → bstep = r.boundary → r.jobSealed = false → isPUnit q (s.memberOf n.val) = true → isDataUnit r.mode q fr.src.member = true →
      r.parityNew.get q = some g → (∀ e ∈ r.parityGot.get q, e.1 ≠ fr.src.member) → s.frameFull n.val g = false →
      (∀ l ∈ linesOf (g * pageBytes) pageBytes, s.badOf n.val l = none) →
      ∃ t, exec (.wpunitFrame n) s = .next t ∧ (t.part n.val).rl.parityGot.get q = r.parityGot.get q ++ [(fr.src.member, 0)] ∧
        ∀ b, b < pageBytes → (t.part n.val).mem.hbm.get (g * pageBytes + b) = (s.plain n.val).get (g * pageBytes + b) ^^^ bs.getD b 0) ∧
    (role = 3 → r.state = .rebuild → r.role = .adopted → bstep = r.target → q < r.units → q ∉ r.rebuilt →
      ∃ t, exec (.wpunitFrame n) s = .next t ∧ (t.part n.val).rl.rebuilt = r.rebuilt ++ [q] ∧
        ∀ b, b < pageBytes → (t.part n.val).mem.hbm.get ((r.first + q) * pageBytes + b) = bs.getD b 0)) ∧
  (∀ flips q g exc rest, r.copying = (q, g, exc) :: rest → s.frameFull n.val g = false →
    let src := (r.kept.get q).getD (r.first + q)
    let s1 := strikeLines n.val flips s
    (∀ l ∈ linesOf (src * pageBytes) pageBytes, s1.badOf n.val l = none) → ∃ t, exec (.cowCopyDone n flips) s = .next t ∧ (t.part n.val).rl.copying = rest ∧ (t.part n.val).rl.live.get q = some g ∧
      ∀ b, b < pageBytes → (t.part n.val).mem.hbm.get (g * pageBytes + b) = (s1.plain n.val).get (src * pageBytes + b)) ∧
  (∀ b, p.inbox = [(f, fr)] → fr.body = .holderReport b (parityFields s n.val) → b = r.boundary → r.groupSealed = false →
    isHearthStoker s n.val = true → fr.src.member ∉ r.holders → MaySend s n.val →
    ∃ t, exec (.parityHolderReport n) s = .next t ∧ (t.part n.val).rl.holders = r.holders ++ [fr.src.member] ∧
      ((∀ m, m < 8 → m = fr.src.member ∨ m ∈ r.holders) → (t.part n.val).rl.groupSealed = true ∧ (t.part n.val).rl.sealedAt = b ∧
        Sends n.val s t [(some p.jobStoker, .relight, .sealF false b)]) ∧
      (∀ m, m < 8 → m ≠ fr.src.member → m ∉ r.holders → (t.part n.val).rl.groupSealed = false)) ∧
  (∀ job b, p.inbox = [(f, fr)] → fr.body = .sealF job b →
    (job = false → isJobStoker s n.val = false → MaySend s n.val →
      ∃ t, exec (.sealFrame n) s = .next t ∧ gone t ∧ Sends n.val s t [(some p.jobStoker, .relight, .sealF false b)]) ∧
    (job = true → r.role ≠ .standby → b = r.boundary → r.jobSealed = false → p.step.held = false →
      ∃ t, exec (.sealFrame n) s = .next t ∧ (t.part n.val).rl.jobSealed = true ∧ (t.part n.val).rl.jsealedAt = b) ∧
    (job = true → r.role = .standby → p.step.held = false → ∃ t, exec (.sealFrame n) s = .next t ∧ (t.part n.val).rl.jsealedAt = b)) ∧
  (∀ slot off bs, from_ (fun b => match b with | .mirror _ _ _ => true | .mirrorAck _ _ => true | _ => false) → fr.body = .mirror slot off bs →
    let ofMine : Prop := r.role = .adopted ∧ r.state = .rebuild ∧ fr.src.member = (s.memberOf n.val + 1) % 8
    (¬ofMine → MaySend s n.val →
      ∃ t, exec (.mirrorFrame n) s = .next t ∧ gone t ∧ Sends n.val s t [(some fr.src, .relight, .mirrorAck slot off)]) ∧
    (ofMine → ∃ t, exec (.mirrorFrame n) s = .next t ∧ OnlyPart n.val s t ∧ gone t ∧
      (t.part n.val).rl.slotCopies = r.slotCopies ++ [(slot, off, bs)])) ∧
  (∀ pos b e j c, r.adopting = some (pos, some b, e) → p.rsvJob = some j → r.state = .adopting → p.removing = none → s.keys.rngFail = false →
    freeCtx p = some c → (lowestFree s.frameCount (saveCount j.image + mirrorCount j.launch) 0 ((setAside n.val j.launch s).part n.val).mem).length =
      saveCount j.image + mirrorCount j.launch →
    ∃ t, exec (.adoptContextReady n) s = .next t ∧ (t.part n.val).rl.state = .rebuild ∧ (t.part n.val).rl.role = .adopted ∧
      (t.part n.val).rl.boundary = b ∧ (t.part n.val).step.count = b ∧ (t.part n.val).epoch = e ∧ (t.part n.val).frozen = true) ∧
  (∀ c flips, p.runLc = some c → r.state = .rebuild → r.role = .adopted → (∀ q, q < r.units → q ∈ r.rebuilt) →
    let s1 := strikeLines n.val flips s
    let img := keptImage s1 n.val
    let q := (loadHeaps n.val (mapRecords n.val img (startThreads n.val c true (applyImage n.val img s1)))).part n.val
    (∀ u ∈ imageUnits s n.val, ∀ l ∈ linesOf (r.keptFrame u * pageBytes) pageBytes, s1.badOf n.val l = none) →
    (∀ k ∈ liveSlots q, (slotCopy q k).isSome = true) → ∃ t, exec (.rebuildDone n flips) s = .next t ∧ (t.part n.val).rl.rebuilt = [] ∧
      ((t.part n.val).rl.state = .frozen ∨ (t.part n.val).rl.state = .wait)) ∧
  (from_ (fun b => decide (b = .resume)) → MaySend s n.val → isJobStoker s n.val = false → ∃ t, exec (.resumeFrame n) s = .next t ∧ gone t ∧
    t.outHold = s.outHold ++ [(n.val, { fr with dst := some p.jobStoker })]) ∧
  (∀ us e, from_ (fun b => match b with | .freezeRelease _ => true | _ => false) → fr.body = .freezeRelease e → r.state ≠ .withdrawn → p.frozen = true →
    r.role ≠ .standby → s.ownPos.member ≠ 8 → p.step.held = false →
    ∃ t, exec (.freezeRelease n us) s = .next t ∧ (t.part n.val).frozen = false ∧ (t.part n.val).rl.state = rlRunning r.mode ∧ (t.part n.val).rl.lastUs = us) ∧
  (r.role = .standby → r.state = .banked → s.ownPos.member ≠ 8 → p.prot.halted = false →
    ∃ t, exec (.rlHandback n) s = .next t ∧ (t.part n.val).rl.handback = true ∧
      Sends n.val s t [(some p.jobStoker, .relight, .loss s.ownPos.member none)])

/-- R101, R165, R188 to R191, R193, R196: the step plan. A report goes to the job stoker, which notes the carrier and issues the record once every slot
contributes; at the deadline it drops the slots that do not, or, with fewer than MIN_CONTRIB, declares the step void and orders an abort under the
next epoch. A record that arrives is written to the step page and counted, and a partition whose slot is dropped is released. At its boundary a
partition counts the step and goes on unless something holds it. -/
def Obligations.StepPlan : Prop := ∀ (n : PartId) (f : Nat) (fr : Frame) (x : Context) (s : State),
  let p := s.part n.val
  let c := x.launch
  let gone (t : State) : Prop := (t.part n.val).inbox = p.inbox.erase (f, fr)
  let issues (cmd : Instr) : Prop := ∃ t r, exec cmd s = .next t ∧ (t.part n.val).stk.issued = some r ∧ r.step = p.step.count ∧ r.epoch = p.epoch ∧
    r.nmb = c.nmb ∧ r.replay = false ∧ (∀ j, j ∈ r.dropped ↔ j < c.nmb ∧ contributes t n.val j = false) ∧ r.ncontrib + r.dropped.length = c.nmb ∧
    (t.part n.val).stk.measuring = false ∧ Sends n.val s t [(none, .ctrl, .steprec r)]
  lcJob s n.val = some x → MaySend s n.val →
  (∀ slot origin, p.inbox = [(f, fr)] → fr.body = .contrib slot origin → fr.step = p.step.count →
    (isJobStoker s n.val = false → ∃ t, exec (.contribReport n) s = .next t ∧ gone t ∧ Sends n.val s t [(some p.jobStoker, .ctrl, .contrib slot origin)]) ∧
    (isJobStoker s n.val = true → p.step.held = false → p.stk.issued = none → p.jobFrozen = false → c.nmb ≠ 0 →
      ((∀ j, j < c.nmb → ∀ q ∈ carriersOf s n.val j, q = origin ∨ q ∈ p.stk.reports) → issues (.contribReport n)) ∧
      (∀ j q, j < c.nmb → q ∈ carriersOf s n.val j → q ≠ origin → q ∉ p.stk.reports → ∃ t, exec (.contribReport n) s = .next t ∧ gone t ∧
        origin ∈ (t.part n.val).stk.reports ∧ (t.part n.val).stk.issued = none ∧ t.outHold = s.outHold))) ∧
  (isJobStoker s n.val = true → p.stk.measuring = true → p.stk.issued = none → p.jobFrozen = false → c.deadlineUs ≠ 0 →
    let got := ((List.range c.nmb).filter fun j => contributes s n.val j).length
    (c.minContrib ≤ got → issues (.stepDeadline n)) ∧
    (got < c.minContrib → p.stk.epoch.toNat < 2 ^ 32 - 1 → ∃ t, exec (.stepDeadline n) s = .next t ∧ (t.part n.val).stk.voids = p.stk.voids + 1 ∧
      (t.part n.val).stk.issued = none ∧ (t.part n.val).stk.epoch = p.stk.epoch + 1 ∧
      t.outHold.map (fun e => (e.1, e.2.epoch, e.2.dst, e.2.body)) = s.outHold.map (fun e => (e.1, e.2.epoch, e.2.dst, e.2.body)) ++
        [(n.val, p.stk.epoch, none, .abort true 4 (p.stk.epoch + 1) p.step.count (s.logicalPos n.val))])) ∧
  (∀ r us g, p.inbox = [(f, fr)] → fr.body = .steprec r → p.rl.role ≠ .standby → p.step.held = false → r.step = p.step.count →
    let self := decide (c.slot ∈ r.dropped)
    p.translate c.stepPage.toNat false = .frame g → p.unitOf g = none → s.frameFull n.val g = false →
    (∀ l ∈ linesOf (g * pageBytes + c.stepPage.toNat % pageBytes) (stepRecBytes r self).length, s.badOf n.val l = none) →
    c.stepPage.toNat % pageBytes + (stepRecBytes r self).length ≤ pageBytes →
    ∃ t, exec (.steprecFrame n us) s = .next t ∧ (t.part n.val).step.record = some r ∧
      (t.part n.val).step.dropTotal = satAdd p.step.dropTotal r.dropped.length ∧ (t.part n.val).step.lastDelay = us ∧
      (∀ i, i < (stepRecBytes r self).length → (t.part n.val).mem.hbm.get (g * pageBytes + c.stepPage.toNat % pageBytes + i) = (stepRecBytes r self).getD i 0) ∧
      ((p.sems.get c.semRec).waiters = [] → self = false → ((t.part n.val).sems.get c.semRec).word = (Sem.add 1 (p.sems.get c.semRec)).word) ∧
      (self = true → p.abort.request = none → (t.part n.val).step.released = true ∧ (t.part n.val).step.selfDrops = satAdd p.step.selfDrops 1)) ∧
  (p.inbox = [(f, fr)] → fr.body = .dropmark →
    (fr.step = p.lcStep → p.step.released = true → ∃ t, exec (.dropmarkFrame n) s = .next t ∧ gone t ∧ OnlyPart n.val s t ∧
      (t.part n.val).step.marked = p.step.marked ++ [fr.src]) ∧
    (fr.step = p.lcStep → p.step.released = false → exec (.dropmarkFrame n) s = .next s) ∧
    (p.lcStep.toNat < fr.step.toNat → exec (.dropmarkFrame n) s = .next s)) ∧
  (∀ ra, s.inService = true → allAtStep s n.val = true → p.step.held = false → stepRecWait s n.val = false → p.step.first = some ra →
    (s.embersWhere n.val fun m => m.retire.isSome) = [] →
    (imageHold s n.val = true → ∃ t, exec (.stepBoundary n) s = .next t ∧ (t.part n.val).step.count = ra + 1 ∧ (t.part n.val).step.held = true ∧
      (t.part n.val).pauseBe = true) ∧
    (boundaryHeld s n.val = false → c.wpUnits = 0 → ∃ t, exec (.stepBoundary n) s = .next t ∧ (t.part n.val).step.count = ra + 1 ∧
      (t.part n.val).step.held = false ∧ (t.part n.val).step.first = none ∧ (t.part n.val).step.record = none))

/-- R80, R81, R165, R194, R230, R232, R444, R463 to R466: retirement, verdicts and aborts. A retirement that the host asks for waits for the boundary while an LC
context runs; the end of the copy changes EMB_PHYS and restarts its counts. With no LC context in RUN the BE table is fixed. A verdict on a
released line that finds a failure halts the partition. The job stoker answers an ABORT request of its epoch with a broadcast under the next
one; a request is repeated; the broadcast makes a partition without a job take the epoch, and a full epoch freezes it. PWR_WARN is noted. -/
def Obligations.RetirementAndAborts : Prop := ∀ (n : PartId) (l : EmberId) (f : Nat) (fr : Frame) (s : State),
  let p := s.part n.val
  let m := s.ember l.val
  let from_ (kind : FrameBody → Bool) : Prop := Arrived s n.val kind f fr
  let gone (t : State) : Prop := (t.part n.val).inbox = p.inbox.erase (f, fr)
  (s.inService = true → (s.part (s.partOf l.val)).hasCtx = true → ∃ t, exec (.embRetireReq l) s = .next t ∧ OnlyEmbers [l.val] s t ∧
    (t.ember l.val).retire = some (m.retire.getD .host) ∧ { t.ember l.val with retire := m.retire } = m) ∧
  (∀ new c, m.copying = some new → m.retire = some c → (s.part (s.partOf l.val)).step.held = false →
    (s.part (s.partOf l.val)).step.replayHold = false → ∃ t, exec (.spareCopyDone l) s = .next t ∧
    t.ember l.val = { m with phys := some new, copying := none, retire := none, parityCnt := 0, sentMiss := 0 } ∧ OnlyEmbers [l.val] { s with soot := t.soot } t) ∧
  (∀ k, s.partOf l.val = k → (s.part k).step.held = false → (s.part k).step.replayHold = true → (s.part k).abort.request = none →
    (copies (finishRetire l.val s) k = false → ∃ t, exec (.spareCopyDone l) s = .next t ∧ (t.part k).step.replayHold = false) ∧
    (copies (finishRetire l.val s) k = true → ∃ t, exec (.spareCopyDone l) s = .next t ∧ (t.part k).step.replayHold = true ∧ (t.part k).pauseLc = true)) ∧
  (p.inRun false = false → s.inService = true → ∃ t, exec (.beScaleFix n) s = .next t ∧ OnlyPart n.val s t ∧
    ∀ i, i < sctCount p true → (t.part n.val).entry true i = (p.entry true i).boundary) ∧
  (∀ v rest, p.prot.verdicts = v :: rest →
    (v.bad = none → ∃ t, exec (.tagVerdict n) s = .next t ∧ OnlyPart n.val s t ∧ (t.part n.val).prot = { p.prot with verdicts := rest }) ∧
    (∀ b, v.bad = some b → p.prot.halted = false → v.line < 2 ^ 64 → ∃ t, exec (.tagVerdict n) s = .next t ∧ (t.part n.val).prot.halted = true ∧
      (t.part n.val).prot.alarmKind.toNat = alarmOf b ∧ (t.part n.val).prot.alarmLine.toNat = v.line ∧ ∀ e ∈ t.outHold, e.1 ≠ n.val)) ∧
  (∀ cause epoch step origin, from_ (fun b => match b with | .abort false _ _ _ _ => true | _ => false) → fr.body = .abort false cause epoch step origin →
    isJobStoker s n.val = true → epoch = p.stk.epoch → p.stk.target = none → epoch.toNat < 2 ^ 32 - 1 → MaySend s n.val →
    ∃ t, exec (.abortRequest n) s = .next t ∧ gone t ∧ (t.part n.val).stk.epoch = epoch + 1 ∧ (t.part n.val).stk.measuring = false ∧
      t.outHold.map (fun e => (e.1, e.2.epoch, e.2.dst, e.2.body)) = s.outHold.map (fun e => (e.1, e.2.epoch, e.2.dst, e.2.body)) ++
        [(n.val, epoch, none, .abort true cause (epoch + 1) step origin)]) ∧
  (∀ cause step, p.abort.request = some (cause, step) → MaySend s n.val → ∃ t, exec (.abortRequestRetry n) s = .next t ∧
    { t with outHold := s.outHold } = s ∧ Sends n.val s t [(some p.jobStoker, .ctrl, .abort false cause p.epoch step (s.logicalPos n.val))]) ∧
  (∀ cause e step origin, from_ (fun b => match b with | .abort true _ _ _ _ => true | _ => false) → fr.body = .abort true cause e step origin → MaySend s n.val →
    (e = p.epoch → e.toNat = 2 ^ 32 - 1 → ∃ t, exec (.abortFrame n) s = .next t ∧ gone t ∧ (t.part n.val).frozen = true ∧ (t.part n.val).pauseLc = true ∧
      t.common.epochFull.getLsbD n.val = true) ∧
    (e ≠ p.epoch → lcJob s n.val = none → ∃ t, exec (.abortFrame n) s = .next t ∧ (t.part n.val).epoch = e ∧ (t.part n.val).stk.measuring = false)) ∧
  (∀ k : HWord, s.pins.pwrWarn = false → s.power.aoOn = true → 50 ≤ k.toNat → ∃ t, exec (.pwrWarn k) s = .next t ∧ t.pins = { s.pins with pwrWarn := true } ∧ t.ks.pwrWarn = true) ∧
  (∀ k : HWord, k.toNat < 50 → exec (.pwrWarn k) s = .next s) ∧
  (∃ t, exec .pwrWarnDeassert s = .next t ∧ { t with pins := s.pins, ks := s.ks } = s ∧ t.pins = { s.pins with pwrWarn := false } ∧
    t.ks = { s.ks with pwrWarn := false })

/-- R209 to R211, R226 to R228, R234 to R238: banked pages and the Sweep. The end of a bank-out banks the page and gives its frame to the pool; an unbank takes
the lowest pool frame and, once done, holds the slot's bytes there and lets the threads parked on the page go on; a bad sector halts the partition.
A pass asked for takes the lowest free slot; a window step moves its die's boundary on to the end of the window, and frees the slot where every die
is past the range. -/
def Obligations.BankingAndSweep : Prop := ∀ (n : PartId) (s : State),
  let p := s.part n.val
  let pass (kind : PassKind) (first last : Nat) (t : State) : Prop := ∃ i q, freePassSlot s = some i ∧ t.sweep.slots.get i = some q ∧ q.part = n ∧ q.kind = kind ∧
    q.first = first ∧ q.last = last ∧ q.stopped = [] ∧ q.skip = [] ∧ ∀ d, d < s.mdPerPart → q.bm.get d = boundaryFrom s [] d (first * pageBytes)
  (∀ (page : BitVec 27) e slot f, p.mem.pages.get page.toNat = some e → e.busy = .bankOut slot → e.loc = .frame f → (∀ w ∈ s.ks.writes, w.slot ≠ slot) →
    (s.ks.inForce.maps.get slot).isSome = true → ∃ t, exec (.bankOutDone n page) s = .next t ∧ (t.part n.val).mem.frames.get f = .pool ∧
      (t.part n.val).mem.pages.get page.toNat = some { e with loc := .banked slot, busy := .idle } ∧ (t.part n.val).mem.hbm = p.mem.hbm) ∧
  (∀ page k rest f fs e, p.mem.unbankQ = (page, k) :: rest → p.mem.poolFrames = f :: fs → p.mem.pages.get page = some e →
    unbanksOut s < 64 → s.inService = true → unbankTurn s n.val = true → ∃ t u, exec (.unbankStart n) s = .next t ∧ OnlyPart n.val s u ∧
      u.part n.val = t.part n.val ∧ (t.part n.val).mem.unbankQ = rest ∧ (t.part n.val).mem.pages.get page = some { e with busy := .unbank f } ∧
      (t.part n.val).mem.frames.get f = .mapped ∧ ((t.part n.val).mem.poolEmpty = false → t = u) ∧
      ((t.part n.val).mem.poolEmpty = true → t = partRecord n.val { kind := 9, status := 0, detail := 0, tag := 0, arg := BitVec.ofNat 64 rest.length, exc := none } u)) ∧
  (∀ (page : BitVec 27) ns flips e f slot, p.mem.pages.get page.toNat = some e → e.busy = .unbank f → e.loc = .banked slot →
    s.frameFull n.val f = false →
    let s1 := strikeSectors flips s
    let fills (bs : List Byte) : Prop := ∃ t, exec (.unbankDone n page ns flips) s = .next t ∧
      (t.part n.val).mem.pages.get page.toNat = some { e with loc := .frame f, busy := .idle, w := e.w && !(p.prot.regions.get f).retired } ∧
      (∀ b, b < pageBytes → (t.part n.val).mem.hbm.get (f * pageBytes + b) = bs.getD b 0) ∧
      ∀ l i, i < 8 → (s.thread l i).st = .park → (s.thread l i).parkPage = some page.toNat →
        l ∈ s.embersWhere n.val (fun m => (List.range 8).any fun j => decide ((m.thr.get j).st = .park) && decide ((m.thr.get j).parkPage = some page.toNat)) →
        (t.thread l i).st ≠ .park ∧ (t.thread l i).parkPage = none
    (slot = freshSlot → fills []) ∧
    (∀ m, slot ≠ freshSlot → slotMap s slot = some m →
      (badSector s1 n.val (fun x => decide (x.stripe = m.stripe)) = none → fills ((slotData s1 m).read 0 pageBytes)) ∧
      (∀ x, badSector s1 n.val (fun x => decide (x.stripe = m.stripe)) = some x → p.prot.halted = false →
        ∃ t, exec (.unbankDone n page ns flips) s = .next t ∧ (t.part n.val).prot.halted = true ∧ (t.part n.val).prot.alarmKind = 3 ∧
          (t.part n.val).prot.alarmLine = BitVec.ofNat 64 x))) ∧
  (p.prot.keys = true → s.sweep.queued.length < slotsLeft s →
    (∀ first last : BitVec 19, first.toNat ≤ last.toNat → last.toNat < s.frameCount → overlapsPass s n.val first.toNat last.toNat = false →
      (∀ e ∈ p.prot.regions.items, e.2.epoch ≠ lastEpoch) → ∃ t, exec (.sweepEpochRequest n first last) s = .next t ∧ t.sweep.result = 0 ∧
        pass .epoch first.toNat last.toNat t ∧ t.parts = s.parts) ∧
    (s.passes n.val = [] → p.prot.nextKeys = true → 0 < s.frameCount → ∃ t, exec (.sweepKeyRequest n) s = .next t ∧ t.sweep.result = 0 ∧
      pass .key 0 (s.frameCount - 1) t ∧ t.parts = s.parts) ∧
    (∀ (frame : BitVec 19) (d : Fin 4), let r := p.prot.regions.get frame.toNat
      rwcThreshold ≤ r.rwc.get d.val → r.retired = false → overlapsPass s n.val frame.toNat frame.toNat = false → (n.val, frame.toNat) ∉ s.sweep.queued →
      (r.epoch ≠ lastEpoch → ∃ t, exec (.rwcThreshold n frame d) s = .next t ∧ t.sweep.autoCnt = satAdd s.sweep.autoCnt 1 ∧
        (s.sweep.queued = [] → pass .epoch frame.toNat frame.toNat t) ∧
        (s.sweep.queued ≠ [] → t.sweep.queued = s.sweep.queued ++ [(n.val, frame.toNat)] ∧ t.sweep.slots = s.sweep.slots)) ∧
      (r.epoch = lastEpoch → ∃ t, exec (.rwcThreshold n frame d) s = .next t ∧ ((t.part n.val).prot.regions.get frame.toNat).retired = true)) ∧
    (∀ f rest, s.sweep.queued = (n.val, f) :: rest → overlapsPass s n.val f f = false → ∃ t, exec .sweepQueuedStart s = .next t ∧
      t.sweep.queued = rest ∧ pass .epoch f f t)) ∧
  (p.prot.keys = true → ∀ first last : BitVec 19, last.toNat < first.toNat → ∃ t, exec (.sweepEpochRequest n first last) s = .next t ∧ t.sweep.result = 2 ∧
    t.sweep.slots = s.sweep.slots ∧ t.parts = s.parts) ∧
  (∀ (slot : Fin 16) (d : Fin 4) flips ns q, s.sweep.slots.get slot.val = some q → q.part = n →
    let pa := q.bm.get d.val
    let wend := (pa / 2048 + 1) * 2048
    let s1 := strikeLines n.val flips s
    let inWindow (l : Nat) : Prop := pa / 128 ≤ l ∧ l < pa / 128 + (wend - pa) / 128
    (s.inService = true → p.prot.halted = false → (∀ l, inWindow l → s1.badOf n.val l = none) → d.val < s.mdPerPart → d.val ∉ q.stopped →
      pa < (q.last + 1) * pageBytes → passTurn s (n.val * s.mdPerPart + d.val) slot.val = true →
      let far := boundaryFrom s q.skip d.val wend
      let moved : Pass := { q with bm := q.bm.set d.val far }
      (moved.low s.mdPerPart < (q.last + 1) * pageBytes → ∃ t q', exec (.sweepWindowStep slot d flips ns) s = .next t ∧
        t.sweep.slots.get slot.val = some q' ∧ { q' with bm := q.bm } = q ∧ (∀ e, q'.bm.get e = moved.bm.get e) ∧
        { (t.part n.val).mem with hbm := p.mem.hbm } = p.mem ∧ ∀ b, ((inWindow (b / 128) → (t.part n.val).mem.hbm.get b = (s1.plain n.val).get b) ∧
          (¬inWindow (b / 128) → (t.part n.val).mem.hbm.get b = p.mem.hbm.get b))) ∧
      ((q.last + 1) * pageBytes ≤ moved.low s.mdPerPart → ∃ t, exec (.sweepWindowStep slot d flips ns) s = .next t ∧ t.sweep.slots.get slot.val = none ∧
        t.sweep.doneCnt = satAdd s.sweep.doneCnt 1 ∧ (q.kind = .key → (t.part n.val).prot.kgen = !p.prot.kgen ∧ (t.part n.val).prot.mgen = p.prot.mgen + 1 ∧ (t.part n.val).prot.nextKeys = false))) ∧
    (p.inRun false = false → ∃ t q', exec (.sweepResume slot d) s = .next t ∧ t.sweep.slots.get slot.val = some q' ∧ d.val ∉ q'.stopped ∧
      { q' with stopped := q.stopped } = q ∧ { t with sweep := s.sweep } = s))

/-- R324 to R330: the kindling store. A slot write programs its stripe whole and queues its MAP; a sector carries the oldest 127 records at most, which
then take effect; a failed stripe is retired; an erased one may be used again. Loading applies the sectors of the half in use to the base image, or sets
KS_META_FAULT where no root verifies; a compaction folds the sectors up to its cut into the base; KS_FORMAT leaves nothing mapped. -/
def Obligations.KindlingStore : Prop := ∀ (s : State),
  let k := s.ks
  let only (t : State) : Prop := { t with ks := s.ks } = s
  (ksUp s = true →
    (∀ (slot stripe : BitVec 24) w bs, k.writes.find? (fun w => decide (w.slot = slot.toNat)) = some w → w.src = .bytes bs → w.kind ≠ 1 →
      stripeFree s stripe.toNat = true → seqReady s = true → ∃ t, exec (.slotWriteDone slot stripe) s = .next t ∧ only t ∧
        (∀ i, i < bs.length → (t.ks.data.get stripe.toNat).get i = bs.getD i 0) ∧ t.ks.seq = k.seq + 512 ∧ (∀ v ∈ t.ks.writes, v.slot ≠ w.slot) ∧
        t.ks.freeStripes = k.freeStripes - 1 ∧ t.ks.pend = k.pend ++ [.map w.slot { part := w.part, kind := w.kind, stripe := stripe.toNat, seqBase := k.seq,
                                                                                    gen := w.gen, unit := w.unit, job := w.job }]) ∧
    (∀ (stripe : BitVec 24) (ch : Fin 32),
      (stripe.toNat ∈ k.erasable → ∃ t, exec (.stripeProgramFail stripe ch none) s = .next t ∧ only t ∧ stripe.toNat ∉ t.ks.erasable ∧
        t.ks.pend = k.pend ++ [.retire stripe.toNat ch.val]) ∧
      (∀ (slot : BitVec 24) w, k.writes.find? (fun w => decide (w.slot = slot.toNat)) = some w → stripeFree s stripe.toNat = true → seqReady s = true →
        k.freeStripes ≠ 1 → ∃ t, exec (.stripeProgramFail stripe ch (some slot)) s = .next t ∧ only t ∧ t.ks.pend = k.pend ++ [.retire stripe.toNat ch.val] ∧
          t.ks.seq = k.seq + 512 ∧ t.ks.freeStripes = k.freeStripes - 1 ∧ t.ks.writes = k.writes) ∧
      (stripe.toNat ∈ k.erasable → ∃ t, exec (.stripeEraseDone stripe) s = .next t ∧ only t ∧ stripe.toNat ∉ t.ks.erasable ∧
        t.ks.freeStripes = satAdd k.freeStripes 1 ∧ ∀ i, (t.ks.data.get stripe.toNat).get i = 0)) ∧
    (k.pend ≠ [] → k.sectors.length < journalSectors → ∃ t, exec .journalSectorProgrammed s = .next t ∧ only t ∧ t.ks.pend = k.pend.drop 127 ∧
      t.ks.sectors = k.sectors ++ [k.pend.take 127] ∧ t.ks.inForce = (k.pend.take 127).foldl KsMeta.apply k.inForce) ∧
    (k.compacting = false → 75 ≤ jfill s → ∃ t, exec .ksCompact s = .next t ∧ t = { s with ks := { k with compacting := true, cut := some k.sectors.length } }) ∧
    (∀ c, k.compacting = true → k.cut = some c → ∃ t, exec .ksCompactDone s = .next t ∧ only { t with freeCount := s.freeCount } ∧
      t.ks.base = (k.sectors.take c).flatten.foldl KsMeta.apply k.base ∧ t.ks.sectors = k.sectors.drop c ∧ t.ks.rootSeq = k.rootSeq + 1 ∧
      t.ks.halfB = !k.halfB ∧ t.ks.rootB = !k.rootB ∧ t.ks.compacting = false ∧ t.ks.inForce = k.inForce)) ∧
  (s.power.light = .ready → s.power.flashOn = true →
    (∀ free : BitVec 24, k.ready = false → k.metaFault = false →
      (k.rootGood = false → ∃ t, exec (.ksLoadDone free) s = .next t ∧ t.ks = { k with metaFault := true } ∧ .metaFault ∈ t.pins.faults) ∧
      (k.rootGood = true → ∃ t, exec (.ksLoadDone free) s = .next t ∧ only t ∧ t.ks.ready = true ∧ t.ks.freeStripes = free ∧ t.ks.pend = [] ∧
        t.ks.writes = [] ∧ t.ks.inForce = k.sectors.flatten.foldl KsMeta.apply k.base)) ∧
    ∃ t, exec .ksFormat s = .next t ∧ t.ks.ready = true ∧ t.ks.metaFault = false ∧ t.ks.sectors = [] ∧ t.ks.pend = [] ∧
      (∀ i, t.ks.inForce.maps.get i = none) ∧ t.ks.inForce.gens = [] ∧ t.ks.inForce.retired = (ksNow s).retired ∧
      t.ks.inForce.nextSeq = (ksNow s).nextSeq ∧ .metaFault ∉ t.pins.faults)

/-- R334 to R345, R360: checkpoints. CK_REQ and a request frame reach the job stoker; an announcement opens a generation that waits for its boundary; the shard
record is sent once every unit is mapped; the stoker keeps good records, and counts the positions that have committed; a manifest that verifies
commits the generation. A restore gathers the lists, follows the stoker's choice or is refused, and makes the context READY at the step
restored. An export ends with the container written. -/
def Obligations.Checkpoints : Prop := ∀ (n : PartId) (f : Nat) (fr : Frame) (s : State),
  let p := s.part n.val
  let from_ (kind : FrameBody → Bool) : Prop := Arrived s n.val kind f fr
  let gone (t : State) : Prop := (t.part n.val).inbox = p.inbox.erase (f, fr)
  let taken : State := s.modPart n.val fun q => { q with inbox := q.inbox.erase (f, fr) }
  let job := jobLow p.adm.jobId
  (hasSpan s n.val = true → MaySend s n.val → ∃ t, exec (.ckReq n) s = .next t ∧ { t with outHold := s.outHold } = s ∧
    Sends n.val s t [(some (hearthStoker s n.val), .ctrl, .ckrepRequest 2)]) ∧
  (∀ r, from_ (fun b => match b with | .ckrepRequest _ => true | _ => false) → fr.body = .ckrepRequest r → MaySend s n.val →
    (isJobStoker s n.val = false → ∃ t, exec (.checkpointRequest n) s = .next t ∧ gone t ∧ Sends n.val s t [(some p.jobStoker, .ctrl, .ckrepRequest r)]) ∧
    (isJobStoker s n.val = true → p.stk.ckOpen = true → ∃ t, exec (.checkpointRequest n) s = .next t ∧ gone t ∧
      (t.part n.val).stk.ckReasons = Nat.lor p.stk.ckReasons r)) ∧
  (∀ gen step reasons, from_ (fun b => match b with | .ckptAnnounce _ _ _ => true | _ => false) → fr.body = .ckptAnnounce gen step reasons →
    ksUp s = true → s.keys.rngFail = false → p.exporting = none → ∃ t g, exec (.ckptAnnounce n) s = .next t ∧ (t.part n.val).ck.state = .snap ∧
      (t.part n.val).ck.gen = gen ∧ (t.part n.val).ck.step = step ∧ t.ks.pend.getLast? = some (.gen g) ∧ g.part = n.val ∧ g.gen = gen ∧ g.st = .opened ∧
      g.step = step ∧ g.job = job) ∧
  (∀ (stripe : BitVec 24), p.ck.state = .write → shardMapped s n.val = true → ksUp s = true → seqReady s = true → stripeFree s stripe.toNat = true →
    (lowestSlot s n.val).isSome = true → s.keys.rngFail = false → MaySend s n.val → badSector s n.val (genMet s n.val (some p.ck.gen) [1]) = none →
    ∃ t r, exec (.shardCopyDone n stripe) s = .next t ∧
      (t.part n.val).ck.state = .waitManifest ∧ r.gen = p.ck.gen ∧ r.step = p.ck.step ∧ r.pos = s.logicalPos n.val ∧
      r.bytes = shardBytes s n.val p.ck.gen p.ck.step (shardDigest (shardUnits s n.val p.ck.gen p.rl.units)) ∧
      Sends n.val s t [(some p.jobStoker, .ctrl, .ckrepShard r)]) ∧
  (∀ r, from_ (fun b => match b with | .ckrepShard _ => true | _ => false) → fr.body = .ckrepShard r → isJobStoker s n.val = true → p.stk.ckOpen = true →
    (∀ q ∈ p.stk.shards, q.pos ≠ r.pos) →
    (shardGood s n.val r = true → ∃ t, exec (.ckrepShard n) s = .next t ∧ gone t ∧ (t.part n.val).stk.shards = p.stk.shards ++ [r]) ∧
    (shardGood s n.val r = false → ∃ t, exec (.ckrepShard n) s = .next t ∧ gone t ∧ (t.part n.val).stk = p.stk)) ∧
  (∀ gen step body sig stripes, from_ (fun b => match b with | .ckptManifest _ _ _ _ => true | _ => false) → fr.body = .ckptManifest gen step body sig →
    p.ck.state = .waitManifest → gen = p.ck.gen → manifestSigned s body sig = true → badSector s n.val (genMet s n.val (some gen) [2]) = none → entryGood s n.val gen body = true → ksUp s = true →
    let pieces := slotPieces (body.length + 1281) (body ++ sig)
    s.ks.seq + 512 * pieces.length ≤ s.ks.inForce.nextSeq → (programPieces n.val 3 gen job 0 pieces (stripes.map (·.toNat)) taken).isSome = true →
    MaySend s n.val → ∃ t, exec (.ckptManifest n stripes) s = .next t ∧ (t.part n.val).ck.state = .idle ∧ (t.part n.val).ck.cnt = satAdd p.ck.cnt 1 ∧
      Sends n.val s t [(some p.jobStoker, .ctrl, .ckrepCommitted gen)]) ∧
  (∀ gen, from_ (fun b => match b with | .ckrepCommitted _ => true | _ => false) → fr.body = .ckrepCommitted gen → isJobStoker s n.val = true →
    p.stk.ckOpen = true → gen = p.stk.ckGen → fr.src ∉ p.stk.committed → ∀ q ∈ s.jobPositions, q ≠ fr.src → q ∉ p.stk.committed →
    ∃ t, exec (.ckrepCommitted n) s = .next t ∧ gone t ∧ OnlyPart n.val s t ∧ (t.part n.val).stk.committed = p.stk.committed ++ [fr.src] ∧
      (t.part n.val).stk.ckOpen = true) ∧
  (∀ gens, from_ (fun b => match b with | .ckrepAvail _ => true | _ => false) → fr.body = .ckrepAvail gens → isJobStoker s n.val = true →
    badSector s n.val (genMet s n.val none [3]) = none →
    let av := (p.stk.avail.filter fun e => decide (e.1 ≠ fr.src)) ++ [(fr.src, gens)]
    ((∃ q ∈ s.jobPositions, ∀ e ∈ av, e.1 ≠ q) → ∃ t, exec (.ckrepAvail n) s = .next t ∧ gone t ∧ OnlyPart n.val s t ∧ (t.part n.val).stk.avail = av) ∧
    ((∀ q ∈ s.jobPositions, ∃ e ∈ av, e.1 = q) → MaySend s n.val → ∃ t gen step lost bs, exec (.ckrepAvail n) s = .next t ∧ gone t ∧
      (t.part n.val).stk.avail = [] ∧ Sends n.val s t [(none, .ctrl, .ckptRestore gen step lost bs)])) ∧
  (∀ gen step lost bs c x, from_ (fun b => match b with | .ckptRestore _ _ _ _ => true | _ => false) → fr.body = .ckptRestore gen step lost bs →
    restoring s n.val = some (c, x) →
    (gen ≠ 0 → badSector s n.val (genMet s n.val (some gen) [1, 3]) = none → (∀ q ∈ lost, sameGroup q (s.logicalPos n.val) = false) → ∃ t, exec (.ckptRestore n) s = .next t ∧ gone t ∧ OnlyPart n.val s t ∧
      (t.part n.val).ck.choice = some (gen, step, if bs.isEmpty then manifestOf s n.val gen else bs) ∧ (t.part n.val).rl.target = step) ∧
    (gen = 0 → ∃ t, exec (.ckptRestore n) s = .next t ∧ (t.part n.val).ck.state = .refused)) ∧
  (∀ flips c x gen step manifest, restoring s n.val = some (c, x) → p.ck.choice = some (gen, step, manifest) → s.logicalPos n.val ∉ p.rl.lostSet →
    manifestEntry manifest (s.logicalPos n.val) = none → badSector (strikeSectors flips s) n.val (genMet s n.val (some gen) [1, 2]) = none →
    ∃ t, exec (.restoreUnitsWritten n flips) s = .next t ∧ (t.part n.val).ck.state = .idle ∧
      (t.part n.val).step.count = step ∧ (t.part n.val).rl.boundary = step ∧ ((t.part n.val).ctx c).map (·.st) = some .ready) ∧
  (∀ flips j u ks, p.exporting = some j → let s1 := strikeSectors flips s
    badSector s1 n.val (genMet s n.val (some j.gen) [1, 2]) = none →
    shardDigest (shardUnits s1 n.val j.gen p.rl.units) = digestAt (ownShard s1 n.val j.gen) 88 → s.keys.rngFail = false →
    contentKeys n p.adm (leAt p.adm.body (charterU0 p.adm.body + 24 * j.rule + 4) 2) s1.draw.1 s1.draw.2 = (u, some ks) → u.keys.rngFail = false →
    ∃ t bs, exec (.exportDone n flips) s = .next t ∧ (t.part n.val).exporting = none ∧ (t.part n.val).chr.expCnt = satAdd p.chr.expCnt 1 ∧
      t.hostHold = s.hostHold ++ [{ part := n.val, out := .hostWrite (n.val + 1) j.dest bs, cmd := some (j.ring, j.busy, BitVec.ofNat 64 bs.length) }])

/-- R366 to R369, R374, R375, R379, R381: keys. A failed health test latches KEY_RNG_FAIL and drives FAULT_N; a mask refresh changes no key; MK_GO loads the next
memory generation of an admitted partition, once; the identity is computed from its seed; a signed report leaves for where it was asked. -/
def Obligations.Keys : Prop := ∀ (s : State),
  (∃ t, exec (.entropySample true) s = .next t ∧ t = s) ∧
  (s.keys.rngFail = false → s.power.rails = true → ∃ t, exec (.entropySample false) s = .next t ∧ t.keys = { s.keys with rngFail := true } ∧
    .entropy ∈ t.pins.faults) ∧
  (s.keys.rngFail = false → s.power.rails = true → ∃ t, exec .maskRefresh s = .next t ∧ { t with keys := s.keys, freeCount := s.freeCount } = s ∧
    (∀ i, slotKey t i = slotKey s i) ∧ t.keys.cache.map (fun e => (e.blob, e.key.a ^^^ e.key.b, e.part)) = s.keys.cache.map (fun e => (e.blob, e.key.a ^^^ e.key.b, e.part)) ∧
    { t.keys with slots := s.keys.slots, cache := s.keys.cache } = s.keys) ∧
  (∀ m (part : BitVec 2), isPf0 m = true → reaches s m true = true →
    let p := s.part part.toNat
    (p.adm.state = .admitted → keyPassRuns s part.toNat = false → p.prot.nextKeys = false → ∃ t, exec (.mkGo m part) s = .next t ∧
      t.keys = { s.keys with mkPart := part, mkResult := 0 } ∧ OnlyPart part.toNat { s with keys := t.keys } t ∧ (t.part part.toNat).prot.nextKeys = true) ∧
    (p.adm.state ≠ .admitted → ∃ t, exec (.mkGo m part) s = .next t ∧ t = { s with keys := { s.keys with mkPart := part, mkResult := 1 } })) ∧
  (s.inService = true → s.keys.idReady = false → s.lc.lcState ≠ .returned → ∃ t, exec .keyIdReady s = .next t ∧ t.keys.idReady = true ∧
    t.keys.moduleId = shake (Config.falconPublicKey (slotKey s 1))) ∧
  (∀ q rest, s.keys.queue = q :: rest → s.keys.idReady = true → s.keys.rngFail = false →
    (q.fn = none → ∃ t g, exec .reportSigned s = .next t ∧ t.keys.queue = rest ∧ t.keys.reports = satAdd s.keys.reports 1 ∧ t.host.i3cBusy = false ∧
      t.host.i3cAnswer = some (leBytes 2 0 ++ leBytes 2 5256 ++ q.bytes ++ g) ∧ t.out = .i3cIbi :: s.out) ∧
    (∀ fn b, q.fn = some fn → (s.ring fn.val .admin).bind (·.busy) = some b → ∃ t g, exec .reportSigned s = .next t ∧ t.keys.queue = rest ∧
      t.keys.reports = satAdd s.keys.reports 1 ∧ .hostWrite fn.val q.dest (q.bytes ++ g) ∈ t.out))

/-- R383 to R389, Tables 17.2 to 17.4: the life cycle. A request that fails a check reports the first one and burns nothing; one that passes starts the burns of
its transition. A burn sets bits of its word and clears none, and after the last one the transition is pending. OTP_READ decodes the state: INVALID and
SCRAP end lighting, and the others load the key store. -/
def Obligations.LifeCycle : Prop := ∀ (s : State),
  (∀ m (target : BitVec 4), privileged m = true → reaches s m true = true →
    (∀ code, lcCheck { s with lc := { s.lc with target := target } } target.toNat = code → code ≠ 0 → code < 16 →
      ∃ t, exec (.lcGo m target) s = .next t ∧ { t with lc := s.lc } = s ∧ t.lc.status.toNat = code ∧ t.lc.otp = s.lc.otp ∧ t.lc.burns = s.lc.burns ∧
        t.lc.fromTo = s.lc.fromTo ∧ t.lc.lcState = s.lc.lcState ∧ (∀ i, t.lc.token.get i = 0) ∧
        t.lc.tokenFail = (if code = 3 then satAdd s.lc.tokenFail 1 else s.lc.tokenFail)) ∧
    (∀ b, lcCheck { s with lc := { s.lc with target := target } } target.toNat = 0 → lcTargetOf target.toNat = some b → ∃ t, exec (.lcGo m target) s = .next t ∧
      t.lc.status = 0 ∧ t.lc.fromTo = some (s.lc.lcState, b) ∧ t.lc.otp = s.lc.otp ∧ (∀ i, t.lc.token.get i = 0) ∧
      (b ≠ .provisioned → t.lc.burns = groupBurn b :: (wipeWords b).map onesBurn) ∧
      (b = .provisioned → t.lc.burns.length = 49 ∧ t.lc.burns.getLast? = some (groupBurn b) ∧ ∀ i, i < 48 → (t.lc.burns[i]?).map Burn.word = some (42 + i)))) ∧
  (∀ b rest, s.lc.burns = b :: rest → s.power.aoOn = true → ∃ t, exec .otpBurnDone s = .next t ∧ t.lc.burns = rest ∧
    (∀ w, t.lc.otp.get w = if w = b.word then s.lc.otp.get w ||| b.bits else s.lc.otp.get w) ∧
    (∀ x y, rest = [] → s.lc.fromTo = some (x, y) → t.lc.lcPending = true ∧ t.lc.fromTo = none ∧ t.lc.lcState = s.lc.lcState)) ∧
  (s.lc.erasing = true → s.power.flashOn = true → s.inService = true → ∃ t, exec .returnEraseDone s = .next t ∧ t.lc.erasing = false ∧ t.lc.erasePct = 100 ∧
    t.ks.rootGood = false ∧ (∀ i, t.ks.data.get i = []) ∧ t.ks.sectors = []) ∧
  (lightingIn s .otpRead = true → s.lc.burns = [] →
    let st := decodeLc (s.lc.otp.get 0) (s.lc.otp.get 1)
    (wipeLeft s st = [] → ∃ t, exec .otpReadDone s = .next t ∧ t.lc.lcState = st ∧ t.lc.otp = s.lc.otp ∧
      (st = .invalid → t.power.light = .lightFail ∧ t.power.cause = .invalid ∧ .lighting ∈ t.pins.faults) ∧
      (st = .scrap → t.power.light = .lightFail ∧ t.power.cause = .scrap) ∧
      (st ≠ .invalid → st ≠ .scrap → t.power.light = .repair ∧
        (st ≠ .returned → slotKey t 0 = BitVec.ofNat 256 (leNat (wordBytes (s.lc.otp.getMany 42 8))) ∧
          slotKey t 5 = derive "ZH9 WRAP" (keyBytes (slotKey t 0))))) ∧
    (wipeLeft s st ≠ [] → st = .scrap → ∃ t, exec .otpReadDone s = .next t ∧ t = { s with lc := { s.lc with burns := wipeLeft s st } }))

/-- R390 to R398, R453, Table 17.7: the debug port. A frame that a shut port gets has no effect; a bad CRC is answered 1, and an operation without its right
is DENIED. Otherwise the operation is done and answered: NONCE draws a nonce and ends the session, an OPEN with a good certificate starts one and
CLOSE ends it; HALT, RESUME and STEP act on threads, BKPT on breakpoints, and the rest read and write. -/
def Obligations.DebugPort : Prop := ∀ (q : SdpFrame) (s : State),
  let n := q.part.toNat
  let a := q.arg0.toNat
  let len := q.payload.length
  let answers (c : Instr) (status : Nat) (bs : List Byte) (t : State) : Prop := exec c s = .next t ∧ t.out = .sdp status bs :: s.out
  let only (t : State) : Prop := { t with out := s.out } = s
  let at_ (op : Nat) (c : Instr) (form rights : Bool) (P : Prop) : Prop := s.inService = true → q.crcOk = true → q.op.toNat = op → s.hasPart n = true →
    len ≤ 4096 → form = true → (rights = false → ∃ t, answers c 3 [] t ∧ only t) ∧ (rights = true → P)
  let bare : Bool := Machine.SdpFrame.noArgs q && Machine.SdpFrame.bare q
  exec .sdpSelRise s = .next s ∧
  (s.inService = false → ∀ c ∈ [Instr.sdpInfo q, .sdpNonce q, .sdpOpen q, .sdpClose q, .sdpHalt q, .sdpResume q, .sdpStep q, .sdpBkpt q, .sdpRreg q, .sdpWreg q,
    .sdpRmem q, .sdpWmem q, .sdpRcsr q, .sdpWcsr q, .sdpRsoot q], exec c s = .next s) ∧
  (s.inService = true → q.crcOk = false → ∀ c ∈ [Instr.sdpInfo q, .sdpNonce q, .sdpOpen q, .sdpClose q, .sdpHalt q, .sdpResume q, .sdpStep q, .sdpBkpt q, .sdpRreg q,
    .sdpWreg q, .sdpRmem q, .sdpWmem q, .sdpRcsr q, .sdpWcsr q, .sdpRsoot q], ∃ t, answers c 1 [] t ∧ only t) ∧
  at_ 0x01 (.sdpInfo q) bare true (∃ t, exec (.sdpInfo q) s = .next t ∧ only t ∧ t.out = .sdpInfo s.lc.lcState.code s.lc.lcPending s.keys.moduleId
    (moduleRights s).toNat ((List.range 4).map fun k => (debugRights s k).toNat) (match s.dbg.session with | some d => d.notAfter.toNat | none => 0) :: s.out) ∧
  at_ 0x02 (.sdpNonce q) bare true (s.keys.rngFail = false → s.dbg.session = none →
    ∃ t k, answers (.sdpNonce q) 0 (keyBytes k) t ∧ t.dbg = { s.dbg with nonce := some k } ∧ { t with out := s.out, dbg := s.dbg, freeCount := s.freeCount } = s) ∧
  at_ 0x03 (.sdpOpen q) (Machine.SdpFrame.noArgs q && decide (len = 3176)) true (s.keys.idReady = true →
    (certGood s q.payload s.dbg.nonce = false → ∃ t, answers (.sdpOpen q) 4 [] t ∧ t.dbg = { s.dbg with nonce := none }) ∧
    (certGood s q.payload s.dbg.nonce = true → s.soot.minutes.toNat ≤ leAt q.payload 72 4 → ∃ t, answers (.sdpOpen q) 0 [] t ∧
      t.dbg = { s.dbg with nonce := none, session := some (certSession q.payload) })) ∧
  at_ 0x04 (.sdpClose q) bare true (
    (s.dbg.session = none → ∃ t, answers (.sdpClose q) 0x0A [] t ∧ only t) ∧
    (s.dbg.session.isSome = true → noCertState s = false → ∃ t, answers (.sdpClose q) 0 [] t ∧ t.dbg = { s.dbg with session := none })) ∧
  at_ 0x10 (.sdpHalt q) (Machine.SdpFrame.runForm q s) (sdpRight s q 0) (∃ t, answers (.sdpHalt q) 0 [] t ∧ OnlyEmbers [a] { s with out := t.out } t ∧
    ∀ i, i < 8 → t.thread a i = if q.arg1.getLsbD i then (s.thread a i).portHalt else s.thread a i) ∧
  at_ 0x11 (.sdpResume q) (Machine.SdpFrame.runForm q s) (sdpRight s q 0) (∃ t, answers (.sdpResume q) 0 [] t ∧ OnlyEmbers [a] { s with out := t.out } t ∧
    ∀ i, i < 8 → t.thread a i = if q.arg1.getLsbD i then resumeThread (s.part n) (s.ember a) i (s.thread a i) else s.thread a i) ∧
  at_ 0x12 (.sdpStep q) (Machine.SdpFrame.runForm q s && decide (popCount q.arg1 = 1)) (sdpRight s q 0) (∀ i, i < 8 → q.arg1.toNat = 2 ^ i →
    ((s.thread a i).st ≠ .halt → ∃ t, answers (.sdpStep q) 6 [] t ∧ only t) ∧
    ((s.thread a i).st = .halt → ∃ t, answers (.sdpStep q) 0 [] t ∧ OnlyEmbers [a] { s with out := t.out } t ∧ (t.thread a i).stepOne = true ∧
      (t.thread a i).st ∈ [.run, .paused])) ∧
  at_ 0x13 (.sdpBkpt q) (Machine.SdpFrame.bare q && decide (a < 2 ^ 34) && !q.arg0.getLsbD 15 && decide (q.arg1.toNat < 256) && sdpEmber s q (field q.arg0 14 0)) (sdpRight s q 0)
    (∃ t, answers (.sdpBkpt q) 0 [] t ∧ OnlyEmbers [field q.arg0 14 0] { s with out := t.out } t ∧
      (t.ember (field q.arg0 14 0)).bkpts.get (field q.arg0 33 32) =
        { pc := if q.arg1 = 0 then 0 else BitVec.ofNat 16 (field q.arg0 31 16), mask := BitVec.ofNat 8 q.arg1.toNat }) ∧
  (let l := field q.arg0 14 0
   let i := field q.arg0 18 16
   let file := field q.arg0 23 20
   let k := field q.arg0 28 24
   at_ 0x20 (.sdpRreg q) (Machine.SdpFrame.regForm q s false) (sdpRight s q 1) (((s.thread l i).st ≠ .halt → ∃ t, answers (.sdpRreg q) 6 [] t ∧ only t) ∧
     ((s.thread l i).st = .halt → file < 6 → ∃ t bs, answers (.sdpRreg q) 0 bs t ∧ only t ∧ bs.length = ((sdpFile file).getD (0, 0)).2 ∧
       (file = 0 → leNat bs = ((s.thread l i).sReg k).toNat) ∧ (file = 5 → leNat bs = ((s.thread l i).q.get k).toNat))) ∧
   at_ 0x21 (.sdpWreg q) (Machine.SdpFrame.regForm q s true) (sdpRight s q 2) ((s.thread l i).st = .halt → ∃ t, answers (.sdpWreg q) 0 [] t ∧
     OnlyEmbers [l] { s with out := t.out } t ∧ t.thread l i = (s.thread l i).setPortReg file k (leNat q.payload))) ∧
  (let l := field q.arg0 47 33
   let off := field q.arg0 18 0
   at_ 0x30 (.sdpRmem q) (Machine.SdpFrame.memForm q s) (Machine.SdpFrame.memRight q s false) (
     (q.arg1 = 1 → (s.ember l).mismatches off len = [] → ∃ t, answers (.sdpRmem q) 0 ((s.ember l).scratch.read off len) t ∧ only t) ∧
     (q.arg1 = 2 → a + len ≤ s.shelfBytes → shelfAwake s n a len = true → ∃ t, answers (.sdpRmem q) 0 ((s.part n).mem.shelf.read a len) t ∧ only t) ∧
     (q.arg1 = 2 → s.shelfBytes < a + len → ∃ t, answers (.sdpRmem q) 3 [] t ∧ only t)) ∧
   at_ 0x31 (.sdpWmem q) (Machine.SdpFrame.memForm q s) (Machine.SdpFrame.memRight q s true) (
     (q.arg1 = 1 → (s.ember l).hitsCode off len = true → ∃ t, answers (.sdpWmem q) 3 [] t ∧ only t) ∧
     (q.arg1 = 1 → (s.ember l).hitsCode off len = false → ∃ t, answers (.sdpWmem q) 0 [] t ∧ OnlyEmbers [l] { s with out := t.out } t ∧
       ∀ b, (t.ember l).scratch.get b = if off ≤ b ∧ b < off + len then q.payload.getD (b - off) 0 else (s.ember l).scratch.get b) ∧
     (q.arg1 = 2 → a + len ≤ s.shelfBytes → shelfAwake s n a len = true → ∃ t, answers (.sdpWmem q) 0 [] t ∧ OnlyPart n { s with out := t.out } t ∧
       ∀ b, (t.part n).mem.shelf.get b = if a ≤ b ∧ b < a + len then q.payload.getD (b - a) 0 else (s.part n).mem.shelf.get b) ∧
     (q.arg1 = 3 → meetsLive (s.part n) a len = true → ∃ t, answers (.sdpWmem q) 3 [] t ∧ { t with out := s.out } = denyCount n s))) ∧
  at_ 0x40 (.sdpRcsr q) (Machine.SdpFrame.csrForm q false) (bitAt (moduleRights s) 0) (∃ t bs, answers (.sdpRcsr q) 0 bs t ∧ only t ∧
    leNat bs = if a % 4 = 0 then (regRead .sdp a s).toNat else 0) ∧
  at_ 0x41 (.sdpWcsr q) (Machine.SdpFrame.csrForm q true) (bitAt (moduleRights s) 1) (∃ t, exec (.sdpWcsr q) s = .next t ∧ t.out.head? = some (.sdp 0 [])) ∧
  at_ 0x50 (.sdpRsoot q) (Machine.SdpFrame.bare q && decide (a < 2 ^ 14) && decide (1 ≤ q.arg1.toNat) && decide (q.arg1.toNat ≤ 128)) (bitAt (moduleRights s) 2)
    (∃ t, answers (.sdpRsoot q) 0 ((List.range q.arg1.toNat).flatMap fun i => keyBytes (sootRead s (a + i))) t ∧ only t) ∧
  (∀ d, s.dbg.session = some d → d.noCert = false → d.notAfter.toNat < s.soot.minutes.toNat → noCertState s = false →
    ∃ t, exec .debugSessionExpire s = .next t ∧ t.dbg = { s.dbg with session := none } ∧ { t with dbg := s.dbg, quarters := s.quarters } = s)

/-- R34 to R39, Table 2.1: lighting. Power-good begins in AO_UP with every memory at its reset value, while OTP, the soot record and the flash keep theirs; each
state ends in the next one; and in READY the pin is high, no unit is awake, and the critical fields are in voting form. -/
def Obligations.LightingSequence : Prop := ∀ (s : State),
  (s.power.powerGood = false → 10000 ≤ s.power.inRange → s.power.tripped = false → s.power.ov = false → ∃ t, exec .powerGood s = .next t ∧
    t.power.light = .aoUp ∧ t.power.powerGood = true ∧ t.power.rails = true ∧ t.power.mode = .banked ∧ (∀ l, t.ember l = State.reset.ember l) ∧
    (∀ n, t.part n = State.reset.part n) ∧ t.lc.otp = s.lc.otp ∧ t.soot.pages = s.soot.pages ∧ t.ks.data = s.ks.data ∧ t.ks.sectors = s.ks.sectors) ∧
  (lightingIn s .aoUp = true → ∃ t, exec .aoUpDone s = .next t ∧ t = { s with power := { s.power with light := .otpRead } }) ∧
  (lightingIn s .repair = true → ∃ t, exec .repairDone s = .next t ∧ t.power.light = .selfTest ∧ t.power.pastRepair = true ∧ t.soot.pages = s.soot.pages ∧
    (s.soot.meter.length < 2 ^ 21 → t.soot.minutes = (meterNewest s.soot.meter).minutes ∧
      t.soot.meter = { minutes := t.soot.minutes, pcycle := satAdd (meterNewest s.soot.meter).pcycle 1 } :: s.soot.meter) ∧
    (∀ w, 1024 ≤ w → w < 2048 → t.power.trims.get w = s.lc.otp.get w) ∧
    (s.soot.pages = [] → (∀ w ∈ repairWords s, w = 0) → { t with power := s.power, soot := s.soot, lc := s.lc } = s) ∧
    (∀ pre e, s.soot.pages = pre ++ [.entry e] → field e 63 56 = 0x40 → field e 159 144 < 25600 → field e 175 168 < 72 → field e 183 176 < 4 →
      (t.ember (field e 159 144)).phys = some (field e 175 168))) ∧
  (lightingIn s .selfTest = true → s.power.hsBist = false → ∃ t, exec (.hsBistDone true) s = .next t ∧
    t = { s with power := { s.power with hsBist := true }, host := { s.host with inReset := !s.pins.perstN } }) ∧
  (lightingIn s .selfTest = true → s.power.hsBist = true → ∃ t, exec (.selftestDone true) s = .next t ∧
    t = { s with power := { s.power with light := .hbmTrain } }) ∧
  (∀ st ∈ [LightState.selfTest, .hbmTrain], lightingIn s st = true → s.power.cdBist = false →
    recordedShort s = false → (∃ t, exec (.computeBistDone []) s = .next t ∧ t = { s with power := { s.power with cdBist := true } }) ∧
    ∀ f : FailedEmber, let g := f.grate.val
      (logicalAt s g f.phys.val = none → f.phys.val % 9 = 8 → ∃ t, exec (.computeBistDone [f]) s = .next t ∧ t.power.cdBist = true ∧ f.phys.val ∈ t.power.usedSpares.get g ∧
        t.quarters = s.quarters) ∧
      (∀ l p, logicalAt s g f.phys.val = some l → pickSpare s g f.phys.val = some p → ∃ t, exec (.computeBistDone [f]) s = .next t ∧ t.power.cdBist = true ∧
        (t.ember l).phys = some p ∧ p ∈ t.power.usedSpares.get g)) ∧
  (lightingIn s .hbmTrain = true → s.power.hbmTrained = false → ∃ t, exec (.hbmTrainDone 0xFFFF) s = .next t ∧
    t = { s with power := { s.power with hbmOk := 0xFFFF, hbmTrained := true } }) ∧
  (lightingIn s .hbmTrain = true → s.power.hbmTrained = true → s.power.cdBist = true → ∃ t, exec .readyEntry s = .next t ∧ t.power.light = .ready ∧
    t.pins.ready = true ∧ t.common.voting = true ∧ (∀ g, t.power.idleGrate.get g = true) ∧ t.lc.erasing = decide (s.lc.lcState = .returned) ∧
    t.quarters = s.quarters ∧ t.parts = s.parts ∧ (noCertState s = true → s.lc.lcPending = false → ∃ d, t.dbg.session = some d ∧ d.noCert = true))

/-- R35, R38 to R40, R441, Table 2.2: lighting that fails. The first cause is kept, READY is low and FAULT_N is held low, and past REPAIR an entry of the soot
record says so; the rest of the device stays as it is. In service a parity check that finds a mismatch halts the partition being loaded. -/
def Obligations.LightingFailures : Prop := ∀ (s : State),
  let fails (c : Instr) (k : LightCause) : Prop := ∃ t, exec c s = .next t ∧ t.power.light = .lightFail ∧ t.power.cause = k ∧ t.pins.ready = false ∧
    .lighting ∈ t.pins.faults ∧ { t with power := s.power, pins := s.pins, soot := s.soot } = s ∧
    t.soot.pages = s.soot.pages ∧ (s.power.pastRepair = false → t.soot = s.soot) ∧
    (s.power.pastRepair = true → s.soot.queue.length < 64 → s.soot.pages.length < 16384 → ∃ e, t.soot.queue = s.soot.queue ++ [e] ∧ e.typ = 0x01)
  (lightingIn s .selfTest = true → s.power.hsBist = false → fails (.hsBistDone false) .mbist) ∧
  (lightingIn s .selfTest = true → s.power.hsBist = true → fails (.selftestDone false) .mbist) ∧
  (∀ f : FailedEmber, ∀ l, lightingIn s .selfTest = true → s.power.cdBist = false → logicalAt s f.grate.val f.phys.val = some l → pickSpare s f.grate.val f.phys.val = none →
    fails (.computeBistDone [f]) .spares) ∧
  (∀ st ∈ [LightState.selfTest, .hbmTrain], lightingIn s st = true → s.power.cdBist = false → recordedShort s = true → fails (.computeBistDone []) .spares) ∧
  (lightingIn s .hbmTrain = true → fails (.selftestDone false) .mbist) ∧
  (∀ ok : BitVec 16, lightingIn s .hbmTrain = true → s.power.hbmTrained = false → ok ≠ 0xFFFF → fails (.hbmTrainDone ok) .hbm) ∧
  (s.power.powerGood = true → s.power.rails = true → s.power.light ≠ .ready → s.power.light ≠ .lightFail → fails .lightTimeout .timeout) ∧
  (∀ a part, ∀ st ∈ [LightState.otpRead, .repair, .selfTest, .hbmTrain], lightingIn s st = true → fails (.configParityCheck (some a) part) .parity) ∧
  (∃ t, exec (.configParityCheck none none) s = .next t ∧ t = s) ∧
  (∀ (a : BitVec 26) (n : PartId), s.inService = true → recovering s n.val = true → (s.part n.val).prot.halted = false →
    ∃ t, exec (.configParityCheck (some a) (some n)) s = .next t ∧ (t.part n.val).prot.halted = true ∧ t.common.parityErr = true ∧
      (s.common.parityErr = false → t.common.parityAddr.toNat = a.toNat) ∧ .regParity ∈ t.pins.faults)

/-- R43, R46, R51, R52, R457: heat and power. A sample keeps the highest reading and its die; a sensor at or above 105 °C twice in a row trips the module: the rails
go, the pins say so, and OTP and the soot record stay. Issue moves by a sixteenth a period, and a unit without work goes idle and wakes. -/
def Obligations.HeatAndPower : Prop := ∀ (s : State),
  (∀ ts : List Byte, ts.length = 468 → s.power.aoOn = true → s.power.rails = true → s.power.tripped = false →
    ((∀ i ∈ hotSensors ts, i ∉ s.power.hotLast) → (s.inService = false ∨ ∀ b ∈ ts, b.toNat + s.health.curMargin < 105) → ∃ t, exec (.thermSample ts) s = .next t ∧
      { t with power := s.power } = s ∧ t.power.hotLast = hotSensors ts ∧ (∀ b ∈ ts, b.toNat ≤ t.power.thermMax.toNat) ∧
      (∃ i, ts[i]? = some t.power.thermMax ∧ t.power.hotDie.toNat = sensorDie i) ∧ t.power.thermPeak.toNat = max s.power.thermPeak.toNat t.power.thermMax.toNat) ∧
    (∀ i ∈ hotSensors ts, i ∈ s.power.hotLast → ∃ t, exec (.thermSample ts) s = .next t ∧ t.power.tripped = true ∧ t.power.rails = false ∧
      t.power.flashOn = s.power.flashOn ∧ t.pins.thermTripN = false ∧ .thermal ∈ t.pins.faults ∧ (∀ l, t.ember l = State.reset.ember l) ∧
      t.lc = s.lc ∧ t.soot.pages = s.soot.pages ∧ t.ks.data = s.ks.data)) ∧
  (s.power.tripped = true → ∃ t, exec .thermTripFlashOff s = .next t ∧ t = { s with power := { s.power with flashOn := false } }) ∧
  (∀ w : BitVec 12, s.power.rails = true → s.power.aoOn = true → 4 ≤ s.power.issue → s.power.issue ≤ 16 → ∃ t, exec (.powerAverage w) s = .next t ∧
    { t with power := s.power } = s ∧ t.power.powerW = w ∧
    t.power.issue = (if powerCap s.power.mode < w.toNat then max 4 (s.power.issue - 1) else
      if 100 * w.toNat < 97 * powerCap s.power.mode then min 16 (s.power.issue + 1) else s.power.issue) ∧
    (t.power.issue < 16 → t.power.throttle = true) ∧
    t.power.throttleTime = (if s.power.issue < 16 then satAdd s.power.throttleTime 1000 else s.power.throttleTime)) ∧
  (s.inService = true →
    (∀ g, (grateQuiet s g.val = true → ∃ t, exec (.unitIdle (.grate g)) s = .next t ∧
        t = { s with power := { s.power with idleGrate := s.power.idleGrate.set g.val true } }) ∧
      (grateQuiet s g.val = false → exec (.unitIdle (.grate g)) s = .next s) ∧
      ∃ t, exec (.unitWake (.grate g)) s = .next t ∧ t = { s with power := { s.power with idleGrate := s.power.idleGrate.set g.val false } }) ∧
    (∀ b, (∃ t, exec (.unitIdle (.shelfBank b)) s = .next t ∧ t = { s with power := { s.power with idleShelf := s.power.idleShelf.set b.val true } }) ∧
      ∃ t, exec (.unitWake (.shelfBank b)) s = .next t ∧ t = { s with power := { s.power with idleShelf := s.power.idleShelf.set b.val false } }) ∧
    ∀ h, (∃ t, exec (.unitIdle (.hbmStack h)) s = .next t ∧ t = { s with power := { s.power with idleHbm := s.power.idleHbm.set h.val true } }) ∧
      ∃ t, exec (.unitWake (.hbmStack h)) s = .next t ∧ t = { s with power := { s.power with idleHbm := s.power.idleHbm.set h.val false } })

/-- R20, R21, R34, R53, R387, R388, Table 2.7: the input and the hold-up bank. The fifth sample in a row below 44.0 V loses the rails and clears a trip; the fifth
above 55.0 V latches the over-voltage shutdown, which ends below 40.0 V. The bank's energy is counted in whole milliseconds at 11 W. When the always-on rail drops out OTP keeps what is burned, and a burn of a state
group that it cuts leaves some of its bits, which no rule names: they are free (log 3). -/
def Obligations.InputAndHoldup : Prop := ∀ (s : State),
  (∀ v : BitVec 12, let n := v.toNat
    (2200 ≤ n → n ≤ 2750 → ∃ t, exec (.inputSample v) s = .next t ∧ t = { s with power := { s.power with
      vin := v, aoOn := s.power.aoOn || decide (2300 ≤ n ∧ n ≤ 2600), inRange := (if 2300 ≤ n ∧ n ≤ 2600 then min 10000 (s.power.inRange + 1) else 0), lowRun := 0, highRun := 0 } }) ∧
    (n < 2200 → s.power.lowRun = 4 → (s.power.powerGood = true ∨ s.power.tripped = true ∨ .lighting ∈ s.pins.faults) → ∃ t, exec (.inputSample v) s = .next t ∧ t.power.powerGood = false ∧
      t.power.rails = false ∧ t.power.tripped = false ∧ t.pins.thermTripN = true ∧ .thermal ∉ t.pins.faults ∧ .lighting ∉ t.pins.faults ∧ t.lc = s.lc ∧
      t.soot = s.soot ∧ t.ks.data = s.ks.data ∧ ∀ l, t.ember l = State.reset.ember l) ∧
    (n < 2200 → s.power.lowRun < 4 → s.power.ov = false → ∃ t, exec (.inputSample v) s = .next t ∧
      t = { s with power := { s.power with vin := v, inRange := 0, lowRun := s.power.lowRun + 1, highRun := 0 } }) ∧
    (2750 < n → s.power.highRun = 4 → s.power.ov = false → ∃ t, exec (.inputSample v) s = .next t ∧ t.power.ov = true ∧ t.power.powerGood = false ∧
      t.power.rails = false ∧ .overVoltage ∈ t.pins.faults ∧ t.lc = s.lc ∧ t.soot = s.soot ∧ t.ks.data = s.ks.data) ∧
    (n < 2000 → s.power.ov = true → s.power.powerGood = false → ∃ t, exec (.inputSample v) s = .next t ∧ t.power.ov = false ∧ .overVoltage ∉ t.pins.faults ∧
      (s.power.tripped = false → .lighting ∉ s.pins.faults → { t with power := s.power, pins := s.pins } = s))) ∧
  (∀ mv : HWord, s.power.aoOn = true → ∃ t, exec (.holdupSample mv) s = .next t ∧
    t = { s with lc := { s.lc with holdupMs := BitVec.ofNat 16 (3 * (mv.toNat * mv.toNat - 36000000) / 2000000) } }) ∧
  (s.power.powerGood = true ∨ inputInRange s.power.vin.toNat = true → exec .alwaysOnRailDropOut s = .next s) ∧
  (s.power.powerGood = false → inputInRange s.power.vin.toNat = false → s.power.aoOn = true → ∃ t, exec .alwaysOnRailDropOut s = .next t ∧ t.power.aoOn = false ∧ t.lc.burns = [] ∧
    t.soot.pages = s.soot.pages ∧ t.soot.meter = s.soot.meter ∧ t.ks.data = s.ks.data ∧ (∀ l, t.ember l = State.reset.ember l) ∧
    ((∀ b ∈ s.lc.burns.head?, 2 ≤ b.word) → t.lc.otp = s.lc.otp) ∧
    (∀ b ∈ s.lc.burns.head?, b.word < 2 → ∃ part, part ||| b.bits = b.bits ∧ ∀ w, t.lc.otp.get w = if w = b.word then s.lc.otp.get w ||| part else s.lc.otp.get w))

/-- R439, R457, R458, Table 20.4: the health monitor and voting. A window's end restarts the counts under the thresholds set by now, and warns of too few
spares; an interval's slowdown index is 1024 w / (e - w); re-voting counts the copies that it rewrote. -/
def Obligations.HealthAndVoting : Prop := ∀ (s : State),
  (s.power.rails = true → ∃ t, exec .healthWindow s = .next t ∧ t.health.curSnt = max 1 s.health.sntThr.toNat ∧ t.health.curHbm = max 1 s.health.hbmThr.toNat ∧
    t.health.curFlue = max 1 s.health.flueThr.toNat ∧ t.health.curMargin = s.health.thermMargin.toNat ∧ t.health.curSpare = s.health.spareEmb.toNat ∧
    t.health.winSnt = 0 ∧ (∀ i, t.health.winHbm.get i = 0 ∧ t.health.winFlue.get i = 0) ∧ t.health.raisedSnt = false ∧
    t.health.raisedFlue = false ∧ (∀ i, t.health.raisedHbm.get i = false) ∧ (s.inService = false → { t with health := s.health } = s) ∧
    (s.inService = true → s.health.sparesWas = false → sparesLow { s with health := { s.health with curSpare := s.health.spareEmb.toNat } } = true →
      t.health.warned.getLsbD 3 = true ∧ ∀ n ∈ loadedParts s, (t.part n).pwarn.getLsbD 3 = true)) ∧
  (∀ (n : PartId) (e w : DWord), s.inService = true → s.hasPart n.val = true → ∃ t, exec (.slowdownInterval n e w) s = .next t ∧ OnlyPart n.val s t ∧
    (t.part n.val).slowdown.toNat = (if s.nParts = 1 then 0 else if e.toNat ≤ w.toNat then 0xFFFF else min 0xFFFF (1024 * w.toNat / (e.toNat - w.toNat))) ∧
    (t.part n.val).sdMax.toNat = max (s.part n.val).sdMax.toNat (t.part n.val).slowdown.toNat ∧
    { t.part n.val with slowdown := (s.part n.val).slowdown, sdMax := (s.part n.val).sdMax } = s.part n.val) ∧
  (∀ k, s.common.voting = true → s.power.rails = true → ∃ t, exec (.revote k) s = .next t ∧
    t = { s with common := { s.common with voteFix := satAdd s.common.voteFix k.toNat, voteOvf := t.common.voteOvf } } ∧
    (t.common.voteOvf = true ↔ s.common.voteOvf = true ∨ 2 ^ 32 ≤ s.common.voteFix.toNat + k.toNat))

/-- R433 to R437, R442, R446, R47, R48, R50, Table 19.4: the mailbox and the damper images. MBX_SEL takes a value, or says that it is denied or unknown. DMP_DATA appends an entry to an image that is neither armed nor full; DMP_COMMIT reports the first
check that fails, discarding what it refuses, or arms the image; at its quiescent point the image is applied whole, in staging order, and is empty again;
an abort or a timeout discards it. A draught change that is complete is the mode in force. -/
def Obligations.DamperImages : Prop := ∀ (s : State) (m : Master),
  (reaches s m true = true → ∀ v : HWord, ∃ t, exec (.mbxSel m v) s = .next t ∧ { t with common := s.common } = s ∧
    let q := t.common.masters.get (masterId m)
    q.mbxSel = v ∧ (∀ k, k ≠ masterId m → t.common.masters.get k = s.common.masters.get k) ∧
    (mailboxValue m (field v 15 8) (field v 7 0) s = none → q.mbxValid = false ∧ q.mbxResult = 2 ∧ ∀ i, q.mbxData.get i = 0) ∧
    (∀ b x, mailboxValue m (field v 15 8) (field v 7 0) s = some (b, x) →
      (mayRead s m b 0 = true → q.mbxValid = true ∧ q.mbxResult = 0 ∧ ∀ i, i < 8 → (q.mbxData.get i).toNat = x / 2 ^ (32 * i) % 2 ^ 32) ∧
      (mayRead s m b 0 = false → field v 15 8 ≠ 0x22 → q.mbxValid = false ∧ q.mbxResult = 1 ∧ ∀ i, q.mbxData.get i = 0))) ∧
  (mayPrivileged s m = true →
  let r := s.common.masters.get (masterId m)
  let image (t : State) (i : Nat) : DamperImage := t.common.images.get i
  let empty : DamperImage := { entries := [], overfull := false, armed := false }
  (∀ v : Word, let i := field r.dmpAddr 31 29
    i ≤ 4 →
    ((image s i).armed = false → (image s i).entries.length < 256 → ∃ t, exec (.dmpData m v) s = .next t ∧ { t with common := s.common } = s ∧
      image t i = { image s i with entries := (image s i).entries ++ [{ addr := 4 * field r.dmpAddr 25 2, bcast := bitAt r.dmpAddr 28, value := v }] } ∧
      ∀ j, j ≠ i → image t j = image s j) ∧
    ((image s i).armed = true ∨ 256 ≤ (image s i).entries.length → ∃ t, exec (.dmpData m v) s = .next t ∧ t.common.stageIgn = true ∧
      (image t i).entries = (image s i).entries ∧ { t with common := s.common } = s)) ∧
  (∀ i : BitVec 3, let im := image s i.toNat
    i.toNat ≤ 4 → ∃ t, exec (.dmpCommit m i) s = .next t ∧ t.common.resultImage = i ∧ (t.common.masters.get (masterId m)).cimage = i ∧
    (im.armed = true → t.common.result = 1 ∧ image t i.toNat = im) ∧
    (im.armed = false → im.entries = [] → i.toNat < 4 → t.common.result = 2 ∧ image t i.toNat = im) ∧
    (im.armed = false → im.entries ≠ [] → im.overfull = true → t.common.result = 3 ∧ image t i.toNat = empty) ∧
    (im.armed = false → im.entries ≠ [] → im.overfull = false → (∃ e ∈ im.entries, entryValid s i.toNat e = false) →
      t.common.result = 4 ∧ image t i.toNat = empty) ∧
    (im.armed = false → im.entries ≠ [] → im.overfull = false → (∀ e ∈ im.entries, entryValid s i.toNat e = true) →
      (∀ e ∈ im.entries, emberReg e.addr ≠ 0x00C) → i.toNat < 4 → t.common.result = 0 ∧ image t i.toNat = { im with armed := true }) ∧
    (im.armed = false → im.overfull = false → (∀ e ∈ im.entries, entryValid s 4 e = true) → i = 4 → (∀ e ∈ im.entries, e.addr = 0x2000 → field e.value 3 0 ≠ 0) →
      popCount s.power.stageMask ≤ 16 → draughtChange s ≠ none → t.common.result = 0 ∧ image t 4 = { im with armed := true } ∧
      t.power.pendingMode = some (draughtOf s.power.stageMode.toNat, s.power.stageMask))) ∧
  (∀ i : BitVec 3, i.toNat ≤ 4 → ∃ t, exec (.dmpAbort m i) s = .next t ∧ image t i.toNat = empty ∧ t.common.result = s.common.result) ∧
  (∀ i : Fin 5, (image s i.val).armed = true →
    (∃ t, exec (.damperTimeout i) s = .next t ∧ image t i.val = empty ∧ t.common.dmpTimeout = true) ∧
    (s.inService = true → i.val < 4 → partQuiet s i.val = true → ∃ t, exec (.damperApply i) s = .next t ∧ image t i.val = empty ∧
      ((∀ e ∈ (image s i.val).entries, entryValid s i.val e = true ∧ emberReg e.addr ≠ 0x00C) → ∀ l, l < 25600 → s.partOf l = i.val →
        let old := s.ember l
        let new := old.staged (image s i.val).entries (some l)
        (t.ember l).beMask = new.beMask ∧ (t.ember l).parityLimit = new.parityLimit ∧ (t.ember l).beBase = old.beBase)) ∧
    (s.inService = true → i.val = 4 → moduleQuiet s = true → ∃ t, exec (.damperApply i) s = .next t ∧ image t 4 = empty ∧ t.power.pendingMode = none ∧
      (∀ x, s.power.pendingMode = some x → t.power.changing = some x))) ∧
  (s.inService = true → moduleQuiet s = true → ∀ x, s.power.pendingMode = some x → ∃ t, exec .draughtQuiescent s = .next t ∧ image t 4 = empty ∧
    t.power.pendingMode = none ∧ t.power.changing = some x) ∧
  (s.inService = true → ∀ d k, (s.power.changing = some (d, k) → ∃ t, exec .draughtChangeDone s = .next t ∧ t.power.mode = d ∧ t.power.maskCur = k ∧ t.power.changing = none) ∧
    (s.power.changing = none → s.power.relightStage = some (d, k) → ∃ t, exec .draughtChangeDone s = .next t ∧ t.power.mode = d ∧ t.power.maskCur = k ∧
      t.power.relightStage = none)))

/-- R447 to R451: the soot record. The head of the queue becomes the next page, chained to those before it, or its page is torn and it stays the head; the minute
counts while power-good is asserted; and a meter record holds the counts.
R454 to R456, Table 20.3: a feed of a check-value unit puts the low bytes of a word, the lowest first, through the model that CV_POLY names; CV_LOAD loads the saved
value and CV_INIT the initial one; no other unit changes, and a master that may not write one changes nothing. -/
def Obligations.SootAndCheckValues : Prop := ∀ (s : State),
  (∀ e rest, s.soot.queue = e :: rest → kindlingRuns s = true → s.soot.pages.length < 16384 →
    (∃ t x, exec (.sootEntryWrite false) s = .next t ∧ t.soot.pages = s.soot.pages ++ [.entry x] ∧ t.soot.queue = rest ∧ t.soot.chain = sootChainNext s.soot.chain x ∧
      field x 31 0 = e.minutes.toNat ∧ field x 63 56 = e.typ.toNat ∧ field x 79 72 = e.part.toNat ∧ field x 143 80 = s.soot.chain.toNat % 2 ^ 64 ∧
      field x 255 144 = e.payload.toNat ∧ field x 71 64 = b2n (sootSkips s.soot.pages) ∧ { t with soot := s.soot, lc := s.lc } = s) ∧
    (∃ t, exec (.sootEntryWrite true) s = .next t ∧ t.soot = { s.soot with pages := s.soot.pages ++ [.torn] } ∧ { t with soot := s.soot, lc := s.lc } = s)) ∧
  (s.soot.pages.length = 16383 → s.soot.queue ≠ [] → kindlingRuns s = true → 1 ≤ s.lc.holdupMs.toNat → ∀ torn, ∃ t, exec (.sootEntryWrite torn) s = .next t ∧
    bitAt (t.lc.otp.get 90) 31 = true) ∧
  (s.soot.queue = [] ∨ 16384 ≤ s.soot.pages.length → ∀ torn, exec (.sootEntryWrite torn) s = .next s) ∧
  (s.power.powerGood = true → ∃ t, exec .sootMinute s = .next t ∧ t = { s with soot := { s.soot with minutes := satAdd s.soot.minutes 1 } }) ∧
  (s.power.powerGood = true → kindlingRuns s = true →
    (s.soot.meter.length < 2 ^ 21 → ∃ t, exec .meterWrite s = .next t ∧ t.soot.meter = { minutes := s.soot.minutes, pcycle := s.soot.pcycle } :: s.soot.meter ∧
      { t with soot := { t.soot with meter := s.soot.meter, meterFull := s.soot.meterFull } } = s) ∧
    (2 ^ 21 ≤ s.soot.meter.length → ∃ t, exec .meterWrite s = .next t ∧ t = { s with soot := { s.soot with meterFull := true } })) ∧
  (∀ (m : Master) (u : Fin 8) (v : Word),
  let c := s.cv.get u.val
  let sets (i : Instr) (new : CvUnit) : Prop := ∃ t, exec i s = .next t ∧ t = { s with cv := s.cv.set u.val new }
  let fed (bs : List Byte) : CvUnit := { c with run := bs.foldl (cvByte c.poly) c.run }
  let b (k : Nat) : Byte := BitVec.ofNat 8 (field v (8 * k + 7) (8 * k))
  (mayCv s m u.val = false → ∀ i ∈ [Instr.cvCtrl m u v, .cvFeed8 m u v, .cvFeed16 m u v, .cvFeed32 m u v], exec i s = .next s) ∧
  (mayCv s m u.val = true → sets (.cvFeed8 m u v) (fed [b 0]) ∧ sets (.cvFeed16 m u v) (fed [b 0, b 1]) ∧ sets (.cvFeed32 m u v) (fed [b 0, b 1, b 2, b 3]) ∧
    let p : BitVec 2 := BitVec.ofNat 2 (field v 1 0)
    (bitAt v 30 = true → sets (.cvCtrl m u v) { c with poly := p, run := BitVec.ofNat 64 ((c.loadHi ++ c.loadLo : DWord).toNat % 2 ^ cvWidth p.toNat) }) ∧
    (bitAt v 30 = false → bitAt v 31 = true → sets (.cvCtrl m u v) { c with poly := p, run := BitVec.ofNat 64 (cvInit p.toNat) }) ∧
    (bitAt v 30 = false → bitAt v 31 = false → p = c.poly → c.run.toNat < 2 ^ cvWidth p.toNat → sets (.cvCtrl m u v) c)))

namespace Sys2Proof

/-- From `s` to `t` the context of a thread's class is lost with an exception (R109 to R112): the context is LOST and holds the record of its first exception, and
every thread of the class in the partition is LOST. -/
def Loses (x : Site) (code : Nat) (s t : State) : Prop :=
  let n := s.partOf x.e.val
  let be := s.isBe x.e.val x.t.val
  ∀ c y, (s.part n).running be = some c → (s.part n).ctx c = some y → y.st ≠ .lost →
    (∃ y', (t.part n).ctx c = some y' ∧ y'.st = .lost ∧ (y.exc = none → ∃ r, y'.exc = some r ∧ r.code = code ∧ r.ember = x.e.val ∧ r.thread = x.t.val ∧
      r.pc = (thrAt s x).pc)) ∧
    ∀ l i, l < 25600 → i < 8 → s.partOf l = n → s.isBe l i = be → (t.thread l i).st = .lost

end Sys2Proof

/-- R85, R86, R109, R230, R397, Table 4.3: how instructions issue, for one of every shape. One that is not ready, or whose thread is not next in turn (R58), leaves everything as it is; at a breakpoint its
thread halts; with a reserved field that is not zero it raises RESERVED_FIELD, whatever its guard; and one whose guard is false only moves the program
counter on. -/
def Obligations.IssueAndGuard : Prop := ∀ (x : Site) (f : BitVec 52) (s : State),
  let h := thrAt s x
  let w (major minor : Nat) := insnWord major minor f
  let z := decide (fLow f = 0)
  let zb := decide (fRb f = 0) && z
  let za := decide (fRa f = 0) && zb
  ∀ r ∈ ([(.nop x 0 f, w 0 0, [], [], true, decide (f.toNat % 2 ^ 48 = 0)), (.endThread x f, w 0 1, [], [], true, decide (f.toNat % 2 ^ 48 = 0)),
      (.brk x f, w 0 2, [], [], true, decide (f.toNat % 2 ^ 48 = 0)), (.stepb x f, w 0 3, [fRa f], [], true, decide (fRd f = 0) && zb),
      (.tid x f, w 0 4, [fRd f], [], true, decide (f.toNat % 2 ^ 43 = 0)), (.add x false f, w 1 0, [fRd f, fRa f, fRb f], [], true, z),
      (.add x true f, w 2 0, [fRd f, fRa f], [], true, true), (.sra x false f, w 1 8, [fRd f, fRa f, fRb f], [], true, z),
      (.movi x f, w 2 0x11, [fRd f], [], true, decide (fRa f = 0)),
      (.mul x f, w 3 0, [fRd f, fRa f, fRb f], [], true, z), (.divu x f, w 3 4, [fRd f, fRa f, fRb f], [], true, z),
      (.pand x f, w 5 0, [], [fRd f, fRa f, fRb f], true, decide (fRd f < 8) && decide (fRa f < 8) && decide (fRb f < 8) && z),
      (.br x f, w 6 0, [], [], true, true), (.jr x f, w 6 2, [fRa f], [], true, decide (fRd f = 0) && zb),
      (.lds x 3 f [], w 7 3, [fRd f, fRa f], [], true, true), (.sts x 3 f [], w 8 3, [fRd f, fRa f], [], true, true),
      (.atom x 0 f [], w 9 0, [fRd f, fRa f, fRb f], [], true, z), (.ldv x 3 f [], w 0x0A 3, [fRd f, fRa f], [], requestRoom x s, true),
      (.stv x 3 f [], w 0x0A 11, [fRd f, fRa f], [], requestRoom x s, true), (.fenceV x f, w 0x0A 0x10, [], [], decide (h.stores = 0), decide (field f 47 0 = 0)),
      (.semsig x f, w 0x0C 2, [fRa f], [], requestRoom x s, decide (fRd f = 0) && decide (fImmU f < 4096)),
      (.dsetw x f, w 0x0D 2, [fRa f, fRb f], [], true, decide (fRd f < 24) && z), (.caprd x f, w 0x0F 3, [fRd f, fRa f], [], requestRoom x s, true),
      (.allocH x f, w 0x0F 0, [fRd f, fRa f], [fRb f % 8], requestRoom x s, decide (fRb f < 8) && z),
      (.tmmaStart x false false f, w 0x20 0, [], [], tileRoom x s, decide (fRd f < 16) && za),
      (.vbc x f, w 0x33 0, [fRa f], [], true, zb), (.vget x f, w 0x33 1, [fRd f, fRb f], [], true, z),
      (.dtbar x f, w 0x39 3, [], [], flueRoom x s, decide (fRd f < 16) && za)] : List (Instr × DWord × List Nat × List Nat × Bool × Bool)),
    let rdy := ready s x r.2.1 r.2.2.1 (fGp f :: r.2.2.2.1) && r.2.2.2.2.1 && inTurn s x
    (rdy = false → exec r.1 s = .next s) ∧
    (rdy = true → atBreakpoint s x = true → ∃ t, exec r.1 s = .next t ∧ thrAt t x = { h with st := .halt } ∧ OnlyThread x s t) ∧
    (rdy = true → atBreakpoint s x = false → h.stepOne = false → r.2.2.2.2.2 = true → h.pReg (fGp f) = fGn f →
      ∃ t, exec r.1 s = .next t ∧ thrAt t x = h.next ∧ OnlyThread x s t) ∧
    (rdy = true → atBreakpoint s x = false → r.2.2.2.2.2 = false → ∃ t, exec r.1 s = .next t ∧ Loses x 0x02 s t)

namespace Sys2Proof

/-- The command that a ring begins is entry `e`, of opcode `op`, well formed, with a live event where it names one (R406 to R408, Tables 18.3 and 18.5); `used` are
the bytes of its arguments. -/
def Takes (c : HostCmd) (s : State) (op : Nat) (used : List (Nat × Nat)) (e : BitVec 512) : Prop :=
  (∃ s1, frontEntry c s = some (e, s1)) ∧ entryAt e 0 1 = op ∧ opDefined c.fn.val c.ring op = true ∧ ringLost s c.fn.val c.ring = false ∧
    zeroFields e used = true ∧ (entryAt e 1 1 < 2 ∨ (c.fn.val ≠ 0 ∧ ((s.part (fnPart c.fn.val)).evt (entryAt e 8 4)).isSome = true))

/-- A command has ended with a status (R406, R407, Tables 18.4 and 18.6): its ring executes none, the head is one on and has been written to the host, and where the
command failed or asked for it a record has been written or is held. -/
def Ended (c : HostCmd) (e : BitVec 512) (status detail : Nat) (arg : DWord) (s t : State) : Prop :=
  let f := c.fn.val
  let r : HostRecord := { kind := 1, status := status, detail := detail, tag := BitVec.ofNat 32 (entryAt e 4 4), arg := arg, exc := none }
  ∃ g g' new, s.ring f c.ring = some g ∧ t.ring f c.ring = some g' ∧ g'.busy = none ∧ g'.head = (g.head + 1) % 2 ^ g.k ∧ t.out = new ++ s.out ∧
    .hostWrite f g.headAddr (leBytes 8 g'.head) ∈ new ∧
    (status ≠ 0 ∨ entryAt e 1 1 % 2 = 1 → (∃ i, .record f i r ∈ new) ∨ r ∈ (t.host.fns.get f).held ∨ 256 ≤ (t.host.fns.get f).held.length)

end Sys2Proof

/-- R406 to R409, R419, Table 18.4: the order of a command's checks. A row does nothing while its ring has nothing to begin, or begins another row's opcode; a lost
context's queue answers LOST, an opcode that the ring does not define FORMAT, and so does a header field that is not zero. -/
def Obligations.HostCommandOrder : Prop := ∀ (c : HostCmd) (s : State),
  ∀ r ∈ ([(.charterCmd c, 0x01), (.capsuleCmd c, 0x02), (.createCtx c, 0x03), (.destroyCtx c, 0x04), (.createQ c, 0x05), (.destroyQ c, 0x06),
      (.createMobj c, 0x07), (.freeMobj c, 0x08), (.mapPages c, 0x09), (.unmapPages c, 0x0A), (.bankOut c, 0x0B), (.poolCmd c, 0x0C), (.createEvt c, 0x0D),
      (.destroyEvt c, 0x0E), (.killOwner c, 0x0F), (.importCmd c, 0x10), (.exportCmd c, 0x11), (.queryCtx c, 0x12), (.queryCap c, 0x13), (.reportCmd c, 0x14),
      (.quickCmd c, 0x15), (.ideSetup c, 0x16), (.removeTenant c, 0x20), (.startCtx c, 0x40), (.signalEvent c, 0x41), (.waitEvent c, 0x42),
      (.queueSemsig c, 0x43), (.queueSemwait c, 0x44), (.queueWrite c, 0x45)] : List (Instr × Nat)),
    (frontEntry c s = none → exec r.1 s = .next s) ∧
    ∀ e s1, frontEntry c s = some (e, s1) →
      let op := entryAt e 0 1
      let known := opDefined c.fn.val c.ring op
      let lost := ringLost s c.fn.val c.ring
      let fails (status : Nat) : Prop := ∃ t, exec r.1 s = .next t ∧ Ended c e status 0 0 s t ∧ OnlyAnswers s t ∧
        ∀ m, m ≠ fnPart c.fn.val → t.part m = s.part m
      (op ≠ r.2 → known = true → exec r.1 s = .next s) ∧
      (lost = true → op = r.2 ∨ known = false → fails 8) ∧
      (lost = false → known = false → fails 1) ∧
      (lost = false → op = r.2 → 4 ≤ entryAt e 1 1 ∨ entryAt e 2 2 ≠ 0 ∨ entryAt e 12 4 ≠ 0 → fails 1)

/-- R410 to R412, R406, R420, R421: contexts and queues. CREATE_CTX refuses a partition that is not admitted and otherwise makes the context that its record
names, in the lowest free slot, loaded where its class is free; CREATE_Q gives it an empty ring; DESTROY_Q and DESTROY_CTX free what they name, and a handle
is not used again; KILL_OWNER ends what an owner has. -/
def Obligations.HostContexts : Prop := ∀ (c : HostCmd) (s : State) (e : BitVec 512),
  let n := fnPart c.fn.val
  let p := s.part n
  let i := ctxIndex (entryAt e 16 4)
  let q := entryAt e 20 1
  let ends (cmd : Instr) (status detail : Nat) (arg : DWord) (P : State → Prop) : Prop := ∃ t, exec cmd s = .next t ∧ Ended c e status detail arg s t ∧
    (∀ m, m ≠ n → t.part m = s.part m) ∧ P t
  (Takes c s 0x03 [(16, 24)] e → p.takesCtx = true → p.adm.state ≠ .admitted → p.rsv.state ≠ .admitted → ends (.createCtx c) 6 3 0 fun t =>
    (t.part n).chr.lastStatus = 3 ∧ (t.part n).adm = p.adm) ∧
  (Takes c s 0x03 [(16, 24)] e → p.takesCtx = true → p.adm.state = .admitted → p.rsv.state ≠ .admitted →
    let bs := c.data.take (entryAt e 24 4)
    let r := readLaunch bs
    let image := launchImage bs
    (firstUsable p.ctxs ctxGenMax 1024 = none → ends (.createCtx c) 4 0 0 fun _ => True) ∧
    ∀ k, firstUsable p.ctxs ctxGenMax 1024 = some k →
      (∀ d, entryAt e 24 4 ≤ 2 ^ 20 → entryAt e 24 4 ≤ c.data.length → recordBad s n bs = some d → ends (.createCtx c) 5 d 0 fun _ => True) ∧
      ∀ fs s2, entryAt e 24 4 ≤ 2 ^ 20 → entryAt e 24 4 ≤ c.data.length → recordBad s n bs = none → charterBad s n p.adm bs = 0 → r.restore = false →
        (r.be = false → joinsRunning s n = false) → takeFrames n (saveCount image + mirrorCount r) s = some (fs, s2) → entryAt e 1 1 < 2 →
        ends (.createCtx c) 0 0 (BitVec.ofNat 64 (ctxHandle p n k)) fun t => ∃ x, (t.part n).ctx k = some x ∧ x.st = .ready ∧ x.launch = r ∧
          x.owner.toNat = entryAt e 28 4 ∧ x.saveFrames = fs ∧ (∀ j, x.queues.get j = none) ∧
          (p.running r.be = none → (t.part n).running r.be = some k) ∧ (∀ k', p.running r.be = some k' → (t.part n).running r.be = some k')) ∧
  (Takes c s 0x04 [(16, 4)] e → ∀ x, p.ctxOf n (entryAt e 16 4) = some x → ends (.destroyCtx c) 0 0 0 fun t => (t.part n).ctx i = none ∧
    (t.part n).ctxOf n (entryAt e 16 4) = none ∧ (t.part n).running x.launch.be ≠ some i) ∧
  (Takes c s 0x05 [(16, 6), (24, 16)] e → q < 16 → 4 ≤ entryAt e 21 1 → entryAt e 21 1 ≤ 12 → entryAt e 24 8 % 4096 = 0 → ∀ x, p.ctxOf n (entryAt e 16 4) = some x →
    (x.st = .lost → ends (.createQ c) 8 0 0 fun t => OnlyAnswers s t) ∧
    (x.st ≠ .lost → (x.queues.get q).isSome = true → ends (.createQ c) 3 0 0 fun t => OnlyAnswers s t) ∧
    (x.st ≠ .lost → x.queues.get q = none → entryAt e 1 1 < 2 → ends (.createQ c) 0 0 (BitVec.ofNat 64 (entryAt e 16 4 + q * 2 ^ 32)) fun t => OnlyAnswers s t ∧
      ∃ g y, (t.part n).ctx i = some y ∧ y = { x with queues := x.queues.set q (some g) } ∧ g.base.toNat = entryAt e 24 8 ∧ g.k = entryAt e 21 1 ∧
        g.headAddr.toNat = entryAt e 32 8 ∧ g.head = 0 ∧ g.tail = 0 ∧ g.fetched = [] ∧ g.busy = none)) ∧
  (Takes c s 0x06 [(16, 5)] e → q < 16 → ∀ x g, p.ctxOf n (entryAt e 16 4) = some x → x.queues.get q = some g → ends (.destroyQ c) 0 0 0 fun t =>
    ∀ y, (t.part n).ctx i = some y → y.queues.get q = none) ∧
  (Takes c s 0x0F [(16, 4)] e → entryAt e 1 1 < 2 → ends (.killOwner c) 0 0 0 fun t =>
    (∀ k x, p.ctx k = some x → x.owner.toNat = entryAt e 16 4 → (t.part n).ctx k = none) ∧
    (∀ k x, (p.mobjs.get k).obj = some x → x.owner.toNat = entryAt e 16 4 → ∃ y, ((t.part n).mobjs.get k).obj = some y ∧ y.freeing = true) ∧
    (∀ k x, (p.evts.get k).obj = some x → x.owner.toNat = entryAt e 16 4 → ∃ y, ((t.part n).evts.get k).obj = some y ∧ y.ownerLost = true))

/-- R415, R416, R206: memory objects and their pages. CREATE_MOBJ makes an object and FREE_MOBJ sets it free; once no command names it and no page of it is being
filled its pages are unmapped and its handle is not used again. MAP maps free frames, but none on a parity unit, UNMAP removes pages, and POOL moves free frames into the unbank pool
and back; a frame that is not there gives BUSY. -/
def Obligations.HostMemoryObjects : Prop := ∀ (c : HostCmd) (s : State) (e : BitVec 512),
  let n := fnPart c.fn.val
  let p := s.part n
  let h := entryAt e 16 4
  let ends (cmd : Instr) (status : Nat) (arg : DWord) (P : State → Prop) : Prop := ∃ t, exec cmd s = .next t ∧ Ended c e status 0 arg s t ∧
    (∀ m, m ≠ n → t.part m = s.part m) ∧ P t
  (Takes c s 0x07 [(16, 8)] e → entryAt e 16 4 ≠ 0 →
    (firstUsable p.mobjs mobjGenMax (2 ^ 20) = none → ends (.createMobj c) 4 0 fun t => OnlyAnswers s t) ∧
    ∀ k, firstUsable p.mobjs mobjGenMax (2 ^ 20) = some k → ends (.createMobj c) 0 (BitVec.ofNat 64 (k + 2 ^ 20 * (p.mobjs.get k).gen)) fun t =>
      (t.part n).mobjs = p.mobjs.set k { p.mobjs.get k with obj := some { pages := entryAt e 16 4, owner := BitVec.ofNat 32 (entryAt e 20 4), freeing := false } }) ∧
  (Takes c s 0x08 [(16, 4)] e → ∀ o, p.mobj h = some o →
    (o.freeing = false → ends (.freeMobj c) 0 0 fun t => (t.part n).mobj h = some { o with freeing := true } ∧ (t.part n).mem = p.mem) ∧
    (o.freeing = true → ends (.freeMobj c) 2 0 fun t => OnlyAnswers s t)) ∧
  (Takes c s 0x08 [(16, 4)] e → p.mobj h = none → ends (.freeMobj c) 2 0 fun t => OnlyAnswers s t) ∧
  (∀ (m : PartId) (k : BitVec 20) o, ((s.part m.val).mobjs.get k.toNat).obj = some o → o.freeing = true →
    let g := ((s.part m.val).mobjs.get k.toNat).gen
    let ks := (s.part m.val).pagesOf (k.toNat + 2 ^ 20 * g)
    mobjNamed s m.val (k.toNat + 2 ^ 20 * g) = false → (∀ a ∈ ks, (s.part m.val).unbanking a = false) → ∃ t, exec (.mobjRelease m k) s = .next t ∧
      (∀ a ∈ ks, (t.part m.val).mem.pages.get a = none) ∧ (t.part m.val).mobjs.get k.toNat = { gen := g + 1, obj := none }) ∧
  (Takes c s 0x09 [(16, 25)] e → ∀ o, p.mobj h = some o → o.freeing = false → entryAt e 40 1 < 4 → extentForm (entryAt e 32 8) (entryAt e 24 4) = true →
    let count := entryAt e 24 4
    let first := entryAt e 28 4
    let page := entryAt e 32 8 / 2 ^ 21
    let fits := entryAt e 20 4 + count ≤ o.pages ∧ ∀ i, i < count → p.mem.pages.get (page + i) = none
    (¬ fits → ends (.mapPages c) 3 0 fun t => OnlyAnswers s t) ∧
    (fits → (s.frameCount < first + count ∨ ∃ i, i < count ∧ p.mem.frames.get (first + i) ≠ .free) → ends (.mapPages c) 0x0D 0 fun t => OnlyAnswers s t) ∧
    (fits → first + count ≤ s.frameCount → (∀ i, i < count → p.mem.frames.get (first + i) = .free) →
     (let parity (i : Nat) : Bool := (p.unitOf (first + i)).any (isParityUnit s n)
      ((∃ i, i < count ∧ parity i = true) → ends (.mapPages c) 0x0A 0 fun t => OnlyAnswers s t) ∧
      ((∀ i, i < count → parity i = false) → pageRoom p count = true → (∃ i, i < count ∧ initReady s n (first + i) = false) → exec (.mapPages c) s = .next s) ∧
      ((∀ i, i < count → parity i = false) → pageRoom p count = true → (∀ i, i < count → initReady s n (first + i) = true) → newLeaves p.mem page count = [] →
      ends (.mapPages c) 0 0 fun t => ∀ i, i < count → (t.part n).mem.frames.get (first + i) = .mapped ∧ (t.part n).mem.pages.get (page + i) =
        some { w := decide (entryAt e 40 1 % 2 = 1) && !(p.prot.regions.get (first + i)).retired && decide ((p.prot.regions.get (first + i)).epoch ≠ lastEpoch), pin := decide (2 ≤ entryAt e 40 1), loc := .frame (first + i), mobj := BitVec.ofNat 32 h, busy := .idle })))) ∧
  (Takes c s 0x0A [(16, 12)] e → extentForm (entryAt e 16 8) (entryAt e 24 4) = true →
    let ks := (List.range (entryAt e 24 4)).map (entryAt e 16 8 / 2 ^ 21 + ·)
    ((∃ k ∈ ks, p.mem.pages.get k = none) → ends (.unmapPages c) 3 0 fun t => OnlyAnswers s t) ∧
    ((∀ k ∈ ks, p.mem.pages.get k ≠ none) → (∃ k ∈ ks, p.unbanking k = true) → exec (.unmapPages c) s = .next s) ∧
    ((∀ k ∈ ks, p.mem.pages.get k ≠ none) → (∀ k ∈ ks, p.unbanking k = false) → ends (.unmapPages c) 0 0 fun t =>
      ∀ k, k ∈ ks → (t.part n).mem.pages.get k = none)) ∧
  (Takes c s 0x0C [(16, 9)] e → entryAt e 24 1 ≤ 1 → entryAt e 20 4 ≠ 0 →
    let fs := (List.range (entryAt e 20 4)).map (entryAt e 16 4 + ·)
    let was : FrameUse := if entryAt e 24 1 = 0 then .free else .pool
    let will : FrameUse := if entryAt e 24 1 = 0 then .pool else .free
    let there := entryAt e 16 4 + entryAt e 20 4 ≤ s.frameCount ∧ ∀ f ∈ fs, p.mem.frames.get f = was
    (¬ there → ends (.poolCmd c) 0x0D 0 fun t => OnlyAnswers s t) ∧
    (there → ends (.poolCmd c) 0 0 fun t => (t.part n).mem.pages = p.mem.pages ∧ (t.part n).mem.hbm = p.mem.hbm ∧
      ∀ f, (t.part n).mem.frames.get f = if f ∈ fs then will else p.mem.frames.get f))

/-- R414, R417, R100, R407, R408: events, semaphores and START. CREATE_EVT makes an event and DESTROY_EVT ends it, with its waiters; SIGNAL adds to it, and WAIT
ends once its value is reached, at once with CLASS or OWNER_LOST where it may not wait; a queue's SEMSIG and SEMWAIT act on its class's semaphores; START is
granted where nothing that it waits for is left. -/
def Obligations.HostEventsAndStart : Prop := ∀ (c : HostCmd) (s : State) (e : BitVec 512),
  let n := fnPart c.fn.val
  let p := s.part n
  let h := entryAt e 16 4
  let ends (cmd : Instr) (status : Nat) (arg : DWord) (P : State → Prop) : Prop := ∃ t, exec cmd s = .next t ∧ Ended c e status 0 arg s t ∧
    (∀ m, m ≠ n → t.part m = s.part m) ∧ P t
  let waits (cmd : Instr) (a b : Nat) (P : State → Prop) : Prop := ∃ t g k, exec cmd s = .next t ∧ t.ring c.fn.val c.ring = some g ∧ g.busy = some k ∧
    k.opcode.toNat = entryAt e 0 1 ∧ k.tag.toNat = entryAt e 4 4 ∧ k.a.toNat = a ∧ k.b.toNat = b ∧ t.out = s.out ∧
    (∀ m, m ≠ n → t.part m = s.part m) ∧ P t
  (Takes c s 0x0D [(16, 1), (18, 14)] e → entryAt e 16 1 ≤ 1 →
    (firstUsable p.evts evtGenMax 65536 = none → ends (.createEvt c) 4 0 fun t => OnlyAnswers s t) ∧
    ∀ k, firstUsable p.evts evtGenMax 65536 = some k → entryAt e 1 1 < 2 → ends (.createEvt c) 0 (BitVec.ofNat 64 (k + 65536 * (p.evts.get k).gen)) fun t =>
      (t.part n).evts = p.evts.set k { p.evts.get k with obj := some { value := 0, sat := false, be := decide (entryAt e 16 1 = 1), vector := BitVec.ofNat 16 (entryAt e 18 2),
                                                                         owner := BitVec.ofNat 32 (entryAt e 20 4), notify := BitVec.ofNat 64 (entryAt e 24 8),
                                                                         notified := false, ownerLost := false } } ∧ OnlyAnswers s t) ∧
  (Takes c s 0x0E [(16, 4)] e →
    (p.evt h = none → ends (.destroyEvt c) 2 0 fun t => OnlyAnswers s t) ∧
    (p.evt h ≠ none → entryAt e 1 1 < 2 → ends (.destroyEvt c) 0 0 fun t => OnlyAnswers s t ∧ (t.part n).evt h = none ∧
      (t.part n).evts.get (evtIndex h) = { gen := (p.evts.get (evtIndex h)).gen + 1, obj := none })) ∧
  (Takes c s 0x41 [(16, 8)] e → ∀ ev, p.evt h = some ev →
    (ev.ownerLost = true → ends (.signalEvent c) 0x0C 0 fun t => (t.part n).evts = p.evts) ∧
    (ev.ownerLost = false → entryAt e 1 1 < 2 → (∀ w ∈ p.busyQueues 0x42, w.2.2.a.toNat ≠ h) → ends (.signalEvent c) 0 0 fun t => OnlyAnswers s t ∧
      ∃ ev', (t.part n).evt h = some ev' ∧ ev'.value = satAdd ev.value (entryAt e 20 4) ∧
        (ev'.notified = true ↔ ev.notified = true ∨ ev.notify.toNat ≤ ev'.value.toNat))) ∧
  (Takes c s 0x42 [(16, 4), (24, 8)] e → ∀ ev, p.evt h = some ev →
    let cls := ringClass s c.fn.val c.ring
    (ev.be ≠ cls → ends (.waitEvent c) 7 0 fun t => OnlyAnswers s t) ∧
    (ev.be = cls → ev.ownerLost = true → ends (.waitEvent c) 0x0C 0 fun t => OnlyAnswers s t) ∧
    (ev.be = cls → ev.ownerLost = false → entryAt e 24 8 ≤ ev.value.toNat → ends (.waitEvent c) 0 0 fun t => OnlyAnswers s t) ∧
    (ev.be = cls → ev.ownerLost = false → ev.value.toNat < entryAt e 24 8 → waits (.waitEvent c) h (entryAt e 24 8) fun t => (t.part n).evts = p.evts)) ∧
  (let k := entryAt e 20 4
   let key := (if ringClass s c.fn.val c.ring then 4096 else 0) + entryAt e 16 2
   let m := p.sems.get key
   entryAt e 16 2 < 4096 → k < 2 ^ 31 →
   (Takes c s 0x43 [(16, 2), (20, 4)] e → entryAt e 1 1 < 2 → (∀ x q j, queueId x q = c.ring → SemWaiter.queue x q j ∉ m.waiters) →
     let word := if m.word.toNat % 2 ^ 31 + k < 2 ^ 31 then m.word.toNat + k else 2 ^ 32 - 1
     ends (.queueSemsig c) 0 0 fun t => ∃ j, ((t.part n).sems.get key).waiters = m.waiters.drop j ∧ needs (m.waiters.take j) ≤ word % 2 ^ 31 ∧
       ((t.part n).sems.get key).word.toNat = word - needs (m.waiters.take j)) ∧
   (Takes c s 0x44 [(16, 2), (20, 4)] e →
     (m.waiters = [] → k ≤ m.word.toNat % 2 ^ 31 → ends (.queueSemwait c) 0 0 fun t => (t.part n).sems.get key = { word := BitVec.ofNat 32 (m.word.toNat - k), waiters := [] }) ∧
     (m.waiters ≠ [] ∨ m.word.toNat % 2 ^ 31 < k → waits (.queueSemwait c) 0 0 fun t => ∀ x q, c.ring = .queue x q →
       (t.part n).sems.get key = { m with waiters := m.waiters ++ [.queue x.val q.val k] }))) ∧
  (∀ x q y, c.ring = .queue x q → p.ctx x.val = some y → Takes c s 0x40 [] e →
    (y.st = .ready → waits (.startCtx c) 0 0 fun t =>
      ∃ z, (t.part n).ctx x.val = some z ∧ z.st = .ready ∧ z.launch = y.launch) ∧
    (y.st ≠ .ready → ends (.startCtx c) 3 0 fun t => OnlyAnswers s t)) ∧
  (∀ (m : PartId) (x : Fin 1024) (q : Fin 16) b y, (s.ring (m.val + 1) (.queue x q)).bind (·.busy) = some b → (s.part m.val).ctx x.val = some y → b.opcode = 0x40 →
    y.st = .ready → startWaits s m.val y.launch.be = false → s.inService = true → ∃ t, exec (.startGrant m x q) s = .next t ∧
      (t.part m.val).running y.launch.be = some x.val ∧ (∃ z, (t.part m.val).ctx x.val = some z ∧ z.st = .run ∧ z.launch = y.launch) ∧
      (t.ring (m.val + 1) (.queue x q)).bind (·.busy) = none)

namespace Sys2Proof

/-- An outside master may write bytes `a` to `a + len - 1` of partition `n` at once: they lie in one resident page, of frame `f`, which no copy uses, which its
memory-side die has translated before and whose stacks are awake, in a partition without a span; the lines pass their checks, and no counter is used up
(R43, R205, R225, R227, R298, R304). -/
def WritesAtOnce (s : State) (n a len f : Nat) : Prop :=
  let p := s.part n
  0 < len ∧ a / 2 ^ 21 = (a + len - 1) / 2 ^ 21 ∧ p.translate a false = .frame f ∧ (∀ e, p.mem.pages.get (a / 2 ^ 21) = some e → e.busy = .idle) ∧
    n * 2 ^ 27 + a / 2 ^ 21 ∈ s.tcache.get (s.mdCache n a) ∧ (∀ l ∈ linesOf (p.pa f a) len, s.badOf n l = none) ∧
    p.rl.units = 0 ∧ p.rl.inputWait = false ∧ p.rl.mirrorWait = [] ∧ extentFull s n a len = false ∧ extentAwake s n a len = true

/-- From `s` to `t` HBM of partition `n` holds a list of bytes from a physical address on; the rest of the lines that they meet is stored again as it reads, and
every other byte is as it was (R225). -/
def HbmHolds (s t : State) (n pa : Nat) (bs : List Byte) : Prop :=
  ∀ b, (t.part n).mem.hbm.get b = if pa ≤ b ∧ b < pa + bs.length then bs.getD (b - pa) 0
    else if b / 128 ∈ linesOf pa bs.length then (s.plain n).get b else (s.part n).mem.hbm.get b

end Sys2Proof

/-- R349, R352 to R354, R374, Tables 15.3 and 15.4: admission. CHARTER and CAPSULE complete with the first check that fails, in its order, and otherwise hold
what they bring, in the partition or in the reservation of a standby; with the last capsule the job key is formed and the admission is ADMITTED, a partition
with the memory keys of generation 0. -/
def Obligations.HostAdmission : Prop := ∀ (c : HostCmd) (s : State) (e : BitVec 512),
  let n := fnPart c.fn.val
  let p := s.part n
  let ends (cmd : Instr) (status detail : Nat) (arg : DWord) (P : State → Prop) : Prop := ∃ t, exec cmd s = .next t ∧ Ended c e status detail arg s t ∧
    (∀ m, m ≠ n → t.part m = s.part m) ∧ P t
  let refused (cmd : Instr) (code : Nat) : Prop := ends cmd 6 code 0 fun t => (t.part n).chr.lastStatus.toNat = code ∧ (t.part n).adm = p.adm ∧ (t.part n).rsv = p.rsv ∧
    (t.part n).chr.refuseCnt = satAdd p.chr.refuseCnt 1
  (let bs := c.data.take (entryAt e 24 4)
   let form := entryAt e 24 4 ≤ c.data.length ∧ charterForm bs = true
   let rsv := forReservation s n bs
   Takes c s 0x01 [(16, 12)] e → p.removing = none →
   (rsv = false → p.adm.state ≠ .empty → refused (.charterCmd c) 4) ∧
   (rsv = true ∨ p.adm.state = .empty →
    (s.lc.lcState ≠ .field ∨ s.lc.lcPending = true → refused (.charterCmd c) 5) ∧
    (s.lc.lcState = .field → s.lc.lcPending = false →
      (¬ form → refused (.charterCmd c) 1) ∧ (form → charterSigned bs = false → refused (.charterCmd c) 2) ∧
      (form → charterSigned bs = true → rsv = false → s.keys.rngFail = false →
        ∃ t, exec (.charterCmd c) s = .next t ∧ Ended c e 0 0 0 s t ∧ (t.part n).chr.lastStatus = 0 ∧ (t.part n).adm = charterAdmission bs ∧
          (t.part n).adm.state = .chartered ∧ (t.part n).rsv = p.rsv ∧ ∀ m, m ≠ n → t.part m = s.part m) ∧
      (form → charterSigned bs = true → rsv = true →
        ∃ t, exec (.charterCmd c) s = .next t ∧ Ended c e 0 0 0 s t ∧ (t.part n).chr.lastStatus = 0 ∧ (t.part n).rsv = charterAdmission bs ∧
          (t.part n).adm = p.adm ∧ ∀ m, m ≠ n → t.part m = s.part m)))) ∧
  (let bs := c.data.take 2960
   let party := leAt bs 4 1
   let rsv := decide (p.rsv.state ≠ .empty) && decide (digestAt bs 8 = p.rsv.digest)
   let a := if rsv then p.rsv else p.adm
   let form := bs.length = 2960 ∧ leAt bs 0 4 = 0x5041435A ∧ leAt bs 5 3 = 0 ∧ party < a.parties
   Takes c s 0x02 [(16, 8)] e →
   (a.state = .empty → refused (.capsuleCmd c) 3) ∧
   (a.state ≠ .empty → ¬ form → refused (.capsuleCmd c) 1) ∧
   (a.state ≠ .empty → form → ∀ held, a.capsules.get party = some held → held ≠ bs → refused (.capsuleCmd c) 7) ∧
   (a.state ≠ .empty → form → a.capsules.get party = some bs → ends (.capsuleCmd c) 0 0 0 fun t => (t.part n).adm = p.adm ∧ (t.part n).rsv = p.rsv) ∧
   (a.state ≠ .empty → form → a.capsules.get party = none →
    (digestAt bs 40 ≠ s.keys.moduleId ∨ s.lc.lcPending = true → refused (.capsuleCmd c) 5) ∧
    (digestAt bs 40 = s.keys.moduleId → s.lc.lcPending = false →
      (digestAt bs 8 ≠ a.digest → refused (.capsuleCmd c) 6) ∧
      (digestAt bs 8 = a.digest → Config.falconVerify (partyKeyOf a.body party) (bs.take 1680) (bs.drop 1680) = false → refused (.capsuleCmd c) 2) ∧
      (digestAt bs 8 = a.digest → Config.falconVerify (partyKeyOf a.body party) (bs.take 1680) (bs.drop 1680) = true →
       let opened := Config.keyUnwrap (capsuleKek s a party bs) 0xA6A6A6A6A6A6A6A6 ((bs.drop 1640).take 40)
       (opened = none → refused (.capsuleCmd c) 2) ∧
       ∀ key, opened = some key →
        let blob := wrapBlob s (if rsv then 4 else 1) n party 0 a.jobId key
        let more := { a with capsules := a.capsules.set party (some bs), partyKeys := a.partyKeys.set party blob }
        let puts (new : Admission) : Prop := ∃ t, exec (.capsuleCmd c) s = .next t ∧ Ended c e 0 0 0 s t ∧ (t.part n).chr.lastStatus = 0 ∧
          (∀ m, m ≠ n → t.part m = s.part m) ∧ (if rsv then (t.part n).rsv = new ∧ (t.part n).adm = p.adm else (t.part n).adm = new ∧ (t.part n).rsv = p.rsv) ∧
          (new.state = .admitted → a.state ≠ .admitted → rsv = false → (t.part n).prot.keys = true ∧ (t.part n).prot.kgen = false ∧ (t.part n).prot.mgen = 0)
        ((∃ q, q < a.parties ∧ q ≠ party ∧ a.capsules.get q = none) → puts more) ∧
        ((∀ q, q < a.parties → q ≠ party → a.capsules.get q ≠ none) →
          ((jobKey (Fin.ofNat 4 n) more s).2.isSome = true → puts { more with state := .admitted }) ∧ ((jobKey (Fin.ofNat 4 n) more s).2 = none → puts a))))))

/-- R209, R243, R305, R356, R358 to R361: the commands that move a tenant's data. IMPORT and WRITE put bytes into the input region; a live slot or a protected page
is refused and counted. EXPORT starts one export and moves LAST on. BANK_OUT starts the copies of resident pages to free slots, and completes when every page
of it has a status. -/
def Obligations.HostDataCommands : Prop := ∀ (c : HostCmd) (s : State) (e : BitVec 512),
  let n := fnPart c.fn.val
  let p := s.part n
  let ends (cmd : Instr) (status detail : Nat) (arg : DWord) (P : State → Prop) : Prop := ∃ t, exec cmd s = .next t ∧ Ended c e status detail arg s t ∧
    (∀ m, m ≠ n → t.part m = s.part m) ∧ P t
  let refused (cmd : Instr) (code : Nat) : Prop := ends cmd 6 code 0 fun t => (t.part n).chr.lastStatus.toNat = code ∧ (t.part n).adm = p.adm ∧ (t.part n).rsv = p.rsv ∧
    (t.part n).chr.refuseCnt = satAdd p.chr.refuseCnt 1
  (let bs := c.data.take (entryAt e 24 4)
   let len := leAt bs 36 4
   let a := p.rl.inFirst.toNat + leAt bs 32 4
   let form := leAt bs 0 4 = 0x504D495A ∧ leAt bs 5 3 = 0 ∧ leAt bs 40 8 = 0 ∧ leAt bs 4 1 < p.adm.parties ∧ leAt bs 32 4 % 4096 = 0 ∧ len % 4096 = 0 ∧ len ≠ 0 ∧
     bs.length = 48 + len / 4096 * 4112
   Takes c s 0x10 [(16, 12)] e →
   (p.adm.state ≠ .admitted → refused (.importCmd c) 3) ∧
   (p.adm.state = .admitted → ¬ form → refused (.importCmd c) 1) ∧
   (p.adm.state = .admitted → form → BitVec.ofNat 128 (leAt bs 8 16) ≠ p.adm.jobId → refused (.importCmd c) 6) ∧
   (p.adm.state = .admitted → form → BitVec.ofNat 128 (leAt bs 8 16) = p.adm.jobId →
    (inInput p a len = false ∨ extentMapped p a len = false → refused (.importCmd c) 0xE) ∧
    (inInput p a len = true → extentMapped p a len = true → meetsLive p a len = true → ends (.importCmd c) 0x0A 0 0 fun t =>
      (t.part n).prot.denyCnt = satAdd p.prot.denyCnt 1 ∧ (t.part n).mem = p.mem) ∧
    ∀ f s2 key plain, inInput p a len = true → extentMapped p a len = true → meetsLive p a len = false → WritesAtOnce s n a len f →
      useBlob (p.adm.partyKeys.get (leAt bs 4 1)) (Fin.ofNat 4 n) s = (s2, some key) →
      openChunks (derive "ZH9 IMPORT" (keyBytes key ++ leBytes 16 p.adm.jobId.toNat)) (leAt bs 24 8) (bs.take 48) (bs.drop 48) (len / 4096) 0 = (plain, true) →
      plain.length = len → ∃ t, exec (.importCmd c) s = .next t ∧ Ended c e 0 0 (BitVec.ofNat 64 len) s t ∧
        (t.part n).chr.impCnt = satAdd p.chr.impCnt 1 ∧ HbmHolds s t n (p.pa f a) plain ∧ ∀ m, m ≠ n → t.part m = s.part m)) ∧
  (let rule := entryAt e 16 1
   let step := entryAt e 24 8
   let code := exportBad s n p.adm rule step (c.data.take (entryAt e 20 4))
   Takes c s 0x11 [(16, 1), (20, 36)] e → badSector s n (genMet s n ((committedAt s n step).map (·.gen)) [3]) = none →
   (p.adm.state ≠ .admitted → ends (.exportCmd c) 6 3 0 fun t => (t.part n).chr.lastExpStatus = 3 ∧ (t.part n).exporting = p.exporting) ∧
   (p.adm.state = .admitted → code ≠ 0 → code < 16 → ends (.exportCmd c) 6 code 0 fun t => (t.part n).chr.lastExpStatus.toNat = code ∧ (t.part n).exporting = p.exporting) ∧
   (p.adm.state = .admitted → code = 0 → containerLen (exportUnits s n rule).length ≤ entryAt e 48 8 → ∃ t x g, exec (.exportCmd c) s = .next t ∧
     committedAt s n step = some g ∧ (t.part n).exporting = some x ∧ x.rule = rule ∧ x.step.toNat = step ∧ x.gen = g.gen ∧ x.dest.toNat = entryAt e 40 8 ∧
     x.ring = c.ring ∧ t.out = s.out ∧ lastOf t p.adm rule = some step ∧ ∀ m, m ≠ n → t.part m = s.part m)) ∧
  (let a := entryAt e 24 8
   let len := entryAt e 32 4
   let may := plainInput p = true ∧ inInput p a len = true ∧ extentMapped p a len = true ∧ meetsLive p a len = false ∧ extentProtected s n a len = false
   Takes c s 0x45 [(16, 20)] e → len ≠ 0 →
   (¬ may → ends (.queueWrite c) 0x0A 0 0 fun t => (t.part n).prot.denyCnt = satAdd p.prot.denyCnt 1 ∧ (t.part n).mem = p.mem) ∧
   (may → ∀ k ks, extentBanked p a len = k :: ks → ∃ t, exec (.queueWrite c) s = .next t ∧ t.ring c.fn.val c.ring = s.ring c.fn.val c.ring ∧
     (t.part n).mem.hbm = p.mem.hbm) ∧
   (may → ∀ f, WritesAtOnce s n a len f → ∃ t, exec (.queueWrite c) s = .next t ∧ Ended c e 0 0 (BitVec.ofNat 64 len) s t ∧
     HbmHolds s t n (p.pa f a) (c.data.take len ++ List.replicate (len - c.data.length) 0) ∧ ∀ m, m ≠ n → t.part m = s.part m)) ∧
  (let first := entryAt e 16 8 / 2 ^ 21
   let count := entryAt e 24 4
   Takes c s 0x0B [(16, 12)] e → extentForm (entryAt e 16 8) count = true → (∀ j ∈ p.mem.bankJobs, ∃ q ∈ j.pages, q.2 = none) →
   (s.ks.ready = false → s.ks.metaFault = false → exec (.bankOut c) s = .next s) ∧
   (s.ks.ready = true ∨ s.ks.metaFault = true →
    (∀ ent f slot, count = 1 → p.mem.pages.get first = some ent → ent.busy = .idle → ent.loc = .frame f → ent.pin = false → s.ks.metaFault = false →
      bankRoom s n ≠ 0 → lowestSlot s n = some slot →
      ∃ t b, exec (.bankOut c) s = .next t ∧ (t.part n).mem.pages.get first = some { ent with busy := .bankOut slot } ∧ t.ks.taken.get slot = true ∧
        t.ks.writes = s.ks.writes ++ [{ part := n, kind := 0, slot := slot, gen := 0, unit := 0, job := 0, src := .frame f }] ∧
        (t.part n).mem.bankJobs = p.mem.bankJobs ++ [{ ring := c.ring, busy := b, pages := [(first, none)] }] ∧ b.tag.toNat = entryAt e 4 4 ∧
        (t.ring c.fn.val c.ring).bind (·.busy) = some b ∧ t.out = s.out ∧ ∀ m, m ≠ n → t.part m = s.part m) ∧
    ((∀ i, i < count → ∀ ent, p.mem.pages.get (first + i) = some ent → ent.busy ≠ .idle ∨ ent.pin = true ∨ s.ks.metaFault = true ∨ ∃ k, ent.loc = .banked k) →
      ends (.bankOut c) 0 0 0 fun t => (t.part n).mem = p.mem ∧
        .bankReport (n + 1) (BitVec.ofNat 32 (entryAt e 4 4)) ((List.range count).map fun i => (first + i, 2)) ∈ t.out)))

/-- R379 to R381, R404, R422 to R424, R409: queries, reports and tenants. QUERY_CTX and QUERY_CAP write what they are asked for; REPORT waits for its signature in
a queue of eight, QUICK answers at once, and neither does where attestation is not available; IDE_SETUP installs keys. REMOVE empties a partition, and its
end is told to both functions. A record head that moves on lets held records be written. -/
def Obligations.HostQueriesAndTenants : Prop := ∀ (c : HostCmd) (s : State) (e : BitVec 512),
  let n := fnPart c.fn.val
  let p := s.part n
  let ends (cmd : Instr) (status : Nat) (arg : DWord) (P : State → Prop) : Prop := ∃ t, exec cmd s = .next t ∧ Ended c e status 0 arg s t ∧
    (∀ m, m ≠ n → t.part m = s.part m) ∧ P t
  let wrote (t : State) (a : Nat) (bs : List Byte) : Prop := .hostWrite c.fn.val (BitVec.ofNat 64 a) bs ∈ t.out
  (Takes c s 0x12 [(16, 4), (24, 8)] e → ∀ x, p.ctxOf n (entryAt e 16 4) = some x → ends (.queryCtx c) 0 128 fun t => OnlyAnswers s t ∧
    ∃ bs, wrote t (entryAt e 24 8) bs ∧ bs.length = 128 ∧ bs.take 64 = utilBytes x.util) ∧
  (Takes c s 0x13 [(16, 16)] e → ends (.queryCap c) 0 (BitVec.ofNat 64 (8 * entryAt e 20 4)) fun t => OnlyAnswers s t ∧
    wrote t (entryAt e 24 8) (capBytes s (if c.fn.val = 0 then none else some n) (entryAt e 16 4) (entryAt e 20 4))) ∧
  (Takes c s 0x14 [(16, 40)] e →
    (attests s = false ∨ s.keys.rngFail = true → ends (.reportCmd c) 0x0A 0 fun t => OnlyAnswers s t) ∧
    (attests s = true → s.keys.rngFail = false → 8 ≤ s.keys.queue.length → ends (.reportCmd c) 0x0D 0 fun t => OnlyAnswers s t) ∧
    (attests s = true → s.keys.rngFail = false → s.keys.queue.length < 8 → s.keys.idReady = false → exec (.reportCmd c) s = .next s) ∧
    (attests s = true → s.keys.rngFail = false → s.keys.queue.length < 8 → s.keys.idReady = true → ∃ t q, exec (.reportCmd c) s = .next t ∧
      t.keys.queue = s.keys.queue ++ [q] ∧ q.fn = some c.fn ∧ q.dest.toNat = entryAt e 48 8 ∧ q.bytes.length ≥ 40 ∧ (q.bytes.drop 8).take 32 = leBytes 32 (entryAt e 16 32) ∧
      t.out = s.out)) ∧
  (Takes c s 0x15 [(16, 40)] e →
    (attests s = true → s.keys.idReady = true → ends (.quickCmd c) 0 16 fun t => OnlyAnswers s t ∧ ∃ bs, wrote t (entryAt e 48 8) bs ∧ bs.length = 16) ∧
    (attests s = false ∨ s.keys.idReady = false → ends (.quickCmd c) 0x0A 0 fun t => OnlyAnswers s t)) ∧
  (Takes c s 0x16 [(16, 8)] e → s.lc.lcState ≠ .returned →
    (s.keys.idReady = false → exec (.ideSetup c) s = .next s) ∧
    (s.keys.idReady = true → ends (.ideSetup c) 0 0 fun t => OnlyAnswers s t ∧ ∃ ks, (t.host.fns.get c.fn.val).ideKeys = some ks ∧ ks.length = 128)) ∧
  (Takes c s 0x20 [(16, 1)] e → c.fn.val = 0 → entryAt e 16 1 < s.nParts →
    let m := entryAt e 16 1
    ((s.part m).removing.isSome = true → ends (.removeTenant c) 0x0D 0 fun t => OnlyAnswers s t) ∧
    ((s.part m).removing = none → ∃ t b, exec (.removeTenant c) s = .next t ∧ (t.part m).removing = some (0, some b) ∧ (t.part m).adm.state = .empty ∧
      (t.part m).ctxs.items = [] ∧ (t.part m).mem.hbm = [] ∧ (t.part m).rsv = (s.part m).rsv ∧ (t.part m).prot.keys = false ∧
      (t.part m).chr = (s.part m).chr ∧ t.common.images.get m = { entries := [], overfull := false, armed := false } ∧
      ∀ l, l < 25600 → s.partOf l = m → (t.ember l).scratch = [] ∧ (t.ember l).tileQ = [] ∧ ∀ i, (t.thread l i).st = .idle)) ∧
  (∀ (m : PartId) d b, (s.part m.val).removing = some (d, b) → ∃ t, exec (.tenantRemovalDone m) s = .next t ∧ (t.part m.val).removing = none ∧
    ∀ k, b = some k → (s.host.fns.get 0).admin.busy = some k → (t.host.fns.get 0).admin.busy = none ∧
      (t.host.fns.get 0).admin.head = ((s.host.fns.get 0).admin.head + 1) % 2 ^ (s.host.fns.get 0).admin.k) ∧
  (∀ (m : Master) (f : FnId) (v : HWord), reaches s m true = true →
    (mayHost m f.val = true → ∃ t, exec (.hostRecHead m f v) s = .next t ∧ (t.host.fns.get f.val).recHead = v ∧ OnlyAnswers s t ∧
      ∃ k, (t.host.fns.get f.val).held = (s.host.fns.get f.val).held.drop k) ∧
    (mayHost m f.val = false → exec (.hostRecHead m f v) s = .next s))

/-- R37, R38, R400 to R403, R406, R418, R422, R437: the PCIe endpoint. A configuration request gets Retry until HS BIST has passed; a reset empties every
partition, discards the damper images and returns the functions to their reset values, and its end puts a staged layout in force; a doorbell moves a tail
and entries are fetched while there is room, and a bad one is counted; BAR4 reads and writes device-virtual memory of a partition without a tenant, and
what a read gives waits in the hold (R233). -/
def Obligations.PcieEndpoint : Prop := ∀ (s : State),
  (∀ f : FnId, s.power.rails = true → s.power.aoOn = true → s.power.tripped = false → s.power.powerGood = true → s.pins.perstN = true → ∃ t k,
    exec (.pcieConfigRequest f) s = .next t ∧ t = { s with out := .completion f.val k [] :: s.out } ∧ (s.power.hsBist = false → k = 2) ∧
    (s.power.hsBist = true → f.val ≤ s.nParts → s.power.light ≠ .lightFail → k = 0) ∧ (s.power.hsBist = true → s.nParts < f.val → k = 1) ∧
    (s.power.hsBist = true → s.power.light = .lightFail → (k = 0 ↔ f.val = 0))) ∧
  (let emptied (t : State) : Prop := (∀ m, m < s.nParts → (s.part m).removing = none → (t.part m).adm.state = .empty ∧ (t.part m).rsv.state = .empty ∧
      (t.part m).hasCtx = false) ∧ (∀ f, t.host.fns.get f = State.reset.host.fns.get f) ∧
      (∀ i, i < 5 → t.common.images.get i = { entries := [], overfull := false, armed := false }) ∧ t.lc.otp = s.lc.otp
   (s.pins.perstN = true → s.inService = false → ∃ t, exec .perstNAssert s = .next t ∧
     t = { s with pins := { s.pins with perstN := false }, host := { s.host with inReset := true } }) ∧
   (s.pins.perstN = true → s.inService = true → ∃ t, exec .perstNAssert s = .next t ∧ t.pins.perstN = false ∧ t.host.inReset = true ∧ t.host.layout = s.host.layout ∧
     emptied t) ∧
   (s.pins.perstN = false → ∃ t, exec .perstNRelease s = .next t ∧ t.pins.perstN = true ∧ t.host.inReset = !s.power.hsBist ∧ t.host.aperActive = s.host.aperEn ∧
     { t with pins := s.pins, host := s.host } = s ∧ t.host.layout = (if s.inService then s.host.layoutStage else s.host.layout)) ∧
   (s.inService = true → s.host.inReset = false → ∃ t, exec .hotReset s = .next t ∧ t.host.layout = s.host.layoutStage ∧ t.host.layoutPend = false ∧ emptied t)) ∧
  (∀ f : FnId, fnPresent s f.val = true → ∃ t, exec (.functionLevelReset f) s = .next t ∧ t.host.fns.get f.val = State.reset.host.fns.get 0 ∧
    (f.val = 0 → { t with host := { t.host with fns := s.host.fns } } = s) ∧
    (f.val ≠ 0 → (s.part (f.val - 1)).removing = none → (t.part (f.val - 1)).adm.state = .empty ∧ (t.part (f.val - 1)).hasCtx = false ∧
      ∀ m, m ≠ f.val - 1 → t.part m = s.part m)) ∧
  (∀ (f : FnId) (off : BitVec 23) (size : Nat) (v : Word) (es : List (BitVec 512)), fnPresent s f.val = true →
    let bad := ∃ t, exec (.doorbell f off size v es) s = .next t ∧ (t.host.fns.get f.val).dbBad = satAdd (s.host.fns.get f.val).dbBad 1 ∧
      { t with host := { t.host with fns := s.host.fns } } = s
    (doorbellRing s f.val off.toNat = none → bad) ∧
    ∀ r g, doorbellRing s f.val off.toNat = some r → s.ring f.val r = some g →
      (size ≠ 4 ∨ 2 ^ g.k ≤ field v 15 0 → bad) ∧
      (size = 4 → field v 15 0 < 2 ^ g.k → ∃ t k, exec (.doorbell f off size v es) s = .next t ∧ t.out = s.out ∧
        t.ring f.val r = some { g with tail := field v 15 0, fetched := g.fetched ++ es.take k } ∧ k ≤ fetchShare s f.val r - fetchUsed s f.val r ∧
        k ≤ (field v 15 0 + 2 ^ g.k - g.head) % 2 ^ g.k)) ∧
  (∀ (n : PartId) (a : BitVec 36), fnPresent s 0 = true →
    let fn := n.val + 1
    let p := s.part n.val
    let gives (c : Instr) (status : Nat) (bs : List Byte) (t : State) : Prop := exec c s = .next t ∧ t.out = .completion fn status bs :: s.out
    (bar4Here s n.val = false → ∀ len bs, (∃ t, gives (.bar4Read n a len) 1 [] t ∧ { t with out := s.out } = s) ∧ ∃ t, gives (.bar4Write n a bs) 1 [] t ∧ { t with out := s.out } = s) ∧
    (bar4Here s n.val = true → p.adm.state ≠ .empty → ∀ len bs,
      (∃ t, gives (.bar4Read n a len) 4 [] t ∧ (t.part n.val).prot.denyCnt = satAdd p.prot.denyCnt 1 ∧ (t.part n.val).mem = p.mem) ∧
      ∃ t, gives (.bar4Write n a bs) 4 [] t ∧ (t.part n.val).prot.denyCnt = satAdd p.prot.denyCnt 1 ∧ (t.part n.val).mem = p.mem) ∧
    (bar4Here s n.val = true → p.adm.state = .empty →
      (∀ len : BitVec 13, len ≠ 0 → a.toNat / 2 ^ 21 = (a.toNat + len.toNat - 1) / 2 ^ 21 →
        (p.translate a.toNat false = .unmapped → ∃ t, gives (.bar4Read n a len) 1 [] t ∧ { t with out := s.out } = s) ∧
        (∀ f, WritesAtOnce s n.val a.toNat len.toNat f → pageProtected s n.val f = false → frameProtected s n.val (p.liveFrame f) = false →
          ∃ t, exec (.bar4Read n a len) s = .next t ∧ { t with hostHold := s.hostHold } = s ∧ t.hostHold = s.hostHold ++
            [{ part := n.val, out := .completion fn 0 ((s.plain n.val).read (p.pa f a.toNat) len.toNat), cmd := none }])) ∧
      (∀ bs f, WritesAtOnce s n.val a.toNat bs.length f → p.translate a.toNat true = .frame f → pageProtected s n.val f = false →
        frameProtected s n.val (p.liveFrame f) = false → ∃ t, exec (.bar4Write n a bs) s = .next t ∧ t.out = s.out ∧ HbmHolds s t n.val (p.pa f a.toNat) bs)))

/-- R425, R379 to R381: the I3C target. It takes the address that it is given; a private write while an answer is outstanding changes nothing, one with a wrong form
is answered FORMAT, and the others are answered with their status, length and bytes, which a private read returns once. -/
def Obligations.ManagementTarget : Prop := ∀ (w : I3cWrite) (s : State),
  let answered (c : Instr) (status : Nat) (bs : List Byte) (t : State) : Prop := exec c s = .next t ∧ t.out = .i3cIbi :: s.out ∧
    t.host.i3cAnswer = some (leBytes 1 status ++ leBytes 1 0 ++ leBytes 2 bs.length ++ bs)
  let only (t : State) : Prop := { t with out := s.out, host := { t.host with i3cAnswer := s.host.i3cAnswer } } = s
  let cmds : List Instr := [.i3cReport w, .i3cQuick w, .i3cQueryCap w, .i3cRcsr w, .i3cWcsr w]
  let free := i3cNamed s w.addr = true ∧ i3cPending s = false
  let k := w.payload.length
  (∀ a, i3cUp s = true → ∃ t, exec (.i3cDynamicAddress a) s = .next t ∧ t = { s with host := { s.host with i3cAddr := some a } }) ∧
  (∀ a bs, i3cNamed s a = true → s.host.i3cAnswer = some bs → ∃ t, exec (.i3cPrivateRead a) s = .next t ∧
    t = { s with host := { s.host with i3cAnswer := none }, out := .i3cRead bs :: s.out }) ∧
  (i3cNamed s w.addr = false ∨ i3cPending s = true → ∀ c ∈ cmds, exec c s = .next s) ∧
  (free → w.cmd.toNat ∉ [0x13, 0x14, 0x15, 0x30, 0x31] → ∀ c ∈ cmds, ∃ t, answered c 1 [] t ∧ only t) ∧
  (free → (w.cmd.toNat = 0x14 → w.zero ≠ 0 ∨ k ≠ 32 → ∃ t, answered (.i3cReport w) 1 [] t ∧ only t) ∧
    (w.cmd.toNat = 0x15 → w.zero ≠ 0 ∨ k ≠ 32 → ∃ t, answered (.i3cQuick w) 1 [] t ∧ only t) ∧
    (w.cmd.toNat = 0x13 → w.zero ≠ 0 ∨ k ≠ 8 ∨ 32 < leAt w.payload 4 4 → ∃ t, answered (.i3cQueryCap w) 1 [] t ∧ only t) ∧
    (w.cmd.toNat = 0x30 → w.zero ≠ 0 ∨ k ≠ 4 → ∃ t, answered (.i3cRcsr w) 1 [] t ∧ only t) ∧
    (w.cmd.toNat = 0x31 → w.zero ≠ 0 ∨ k ≠ 8 → ∃ t, answered (.i3cWcsr w) 1 [] t ∧ only t)) ∧
  (free → w.zero = 0 →
    (w.cmd.toNat = 0x14 → k = 32 →
      (∀ code, reportRefused s = code → code ≠ 0 → ∃ t, answered (.i3cReport w) code [] t ∧ only t) ∧
      (reportRefused s = 0 → ∃ t, exec (.i3cReport w) s = .next t ∧ t.out = s.out ∧ t.host.i3cBusy = true ∧
        (s.keys.idReady = true → ∃ q, t.keys.queue = s.keys.queue ++ [q] ∧ q.fn = none ∧ (q.bytes.drop 8).take 32 = w.payload) ∧
        (s.keys.idReady = false → t.host.i3cWait = some w.payload ∧ t.keys = s.keys))) ∧
    (w.cmd.toNat = 0x15 → k = 32 →
      (∀ bs, quickAnswer s w.payload = some bs → bs.length = 16 ∧ ∃ t, answered (.i3cQuick w) 0 bs t ∧ only t) ∧
      (attests s = false ∨ s.keys.idReady = false → ∃ t, answered (.i3cQuick w) 0x0A [] t ∧ only t) ∧
      (attests s = true → s.keys.idReady = true → ∃ t bs, answered (.i3cQuick w) 0 bs t ∧ only t ∧ bs.length = 16)) ∧
    (w.cmd.toNat = 0x13 → k = 8 → leAt w.payload 4 4 ≤ 32 → ∃ t, answered (.i3cQueryCap w) 0 (capBytes s none (leAt w.payload 0 4) (leAt w.payload 4 4)) t ∧ only t) ∧
    (w.cmd.toNat = 0x30 → k = 4 → leNat w.payload % 4 = 0 → ∃ t, answered (.i3cRcsr w) 0 (leBytes 4 (regRead .i3c (leNat w.payload) s).toNat) t ∧ only t) ∧
    (w.cmd.toNat = 0x31 → k = 8 →
      let r := regWrite .i3c (leAt w.payload 0 4) (BitVec.ofNat 32 (leAt w.payload 4 4)) s
      ∃ t, exec (.i3cWcsr w) s = .next t ∧ t = { r with host := { r.host with i3cAnswer := some (leBytes 1 0 ++ leBytes 1 0 ++ leBytes 2 0) }, out := .i3cIbi :: r.out }))

/-- R428 to R432, R401, R426, R446, Tables 19.1, 19.2, 19.7 and 19.8: register writes. A write that does not reach the map, or that the master may not make, changes
nothing; one of the wrong size is noted. A configuration field takes the value, or, while its block is enabled, keeps its own and sets the block's flag where
they differ; a bit written as 1 clears its flag; and nothing else changes. -/
def Obligations.RegisterWrites : Prop := ∀ (m : Master) (v : Word) (s : State),
  let wr (a : Nat) (t : State) : Prop := exec (.registerWrite m (BitVec.ofNat 26 a) v true) s = .next t
  let b (i : Nat) : Bool := v.toNat.testBit i
  let bits (hi lo : Nat) : Nat := v.toNat / 2 ^ lo % 2 ^ (hi - lo + 1)
  (∀ a whole, reaches s m true = false → exec (.registerWrite m a v whole) s = .next s) ∧
  (∀ a : BitVec 26, reaches s m true = true →
    (∀ whole, whole = false ∨ a.toNat % 4 ≠ 0 → ∃ t, exec (.registerWrite m a v whole) s = .next t ∧
      t = (if m = .i3c ∨ m = .sdp then s else { s with common := { s.common with badAcc := true } })) ∧
    (a.toNat % 4 = 0 → regPlace s a.toNat = none → exec (.registerWrite m a v true) s = .next s) ∧
    (∀ k off, a.toNat % 4 = 0 → regPlace s a.toNat = some (k, off) → mayWrite s m k = false → exec (.registerWrite m a v true) s = .next s)) ∧
  (reaches s m true = true → privileged m = true →
    (∃ t, wr 0x40 t ∧ { t with common := s.common } = s ∧ (t.common.masters.get (masterId m)).dmpAddr = v &&& 0xF3FFFFFC) ∧
    (∃ t, wr 0x4C t ∧ t = { s with common := { s.common with timeoutMs := BitVec.ofNat 16 (bits 15 0) } }) ∧
    (∃ t, wr 0x1004 t ∧ t = { s with power := { s.power with stageMode := BitVec.ofNat 2 (bits 1 0) } }) ∧
    (∃ t, wr 0x1008 t ∧ t = { s with power := { s.power with stageMask := v } }) ∧
    (∃ t, wr 0x1014 t ∧ t = { s with power := { s.power with throttle := s.power.throttle && !b 30, throttleOvf := s.power.throttleOvf && !b 29 } }) ∧
    (∃ t, wr 0x2000 t ∧ if (List.range s.nParts).any fun n => (s.part n).hasCtx
      then t = { s with snt := { s.snt with cfgIgnored := s.snt.cfgIgnored || decide (bits 3 0 ≠ s.snt.missLimit.toNat) } }
      else t = { s with snt := { s.snt with missLimit := BitVec.ofNat 4 (bits 3 0) } }) ∧
    (∃ t, wr 0x4000 t ∧ { t with fab := s.fab } = s ∧ t.fab.dims = s.fab.dims ∧ if (List.range 32).any fun i => (s.flues.get i).en
      then t.fab.member = s.fab.member ∧ t.fab.t = s.fab.t ∧ (t.fab.cfgIgnored = true ↔ s.fab.cfgIgnored = true ∨ bits 28 25 ≠ s.fab.member.toNat ∨ bits 24 5 ≠ s.fab.t.toNat)
      else t.fab.member.toNat = bits 28 25 ∧ t.fab.t.toNat = bits 24 5 ∧ t.fab.cfgIgnored = s.fab.cfgIgnored) ∧
    (∃ t, wr 0x5010 t ∧ t = { s with ks := { s.ks with compactOvf := s.ks.compactOvf && !b 31 } }) ∧
    (∀ i, i < 8 → ∃ t, wr (0x7008 + 4 * i) t ∧ t = { s with lc := { s.lc with token := s.lc.token.set i v } }) ∧
    (∀ i, i < 16 → ∃ t, wr (0x7028 + 4 * i) t ∧ t = { s with lc := { s.lc with data := s.lc.data.set i v } }) ∧
    (∃ t, wr 0x8020 t ∧ { t with health := s.health } = s ∧ t.health.thermMargin.toNat = bits 31 24 ∧ t.health.spareEmb.toNat = bits 23 16 ∧
      t.health.sntThr.toNat = bits 15 8 ∧ t.health.hbmThr.toNat = bits 7 0 ∧ t.health.curHbm = s.health.curHbm) ∧
    (∀ u k, u < 8 → k < 2 → ∃ t, wr (0x9000 + 0x80 * u + 0x14 + 4 * k) t ∧ { t with cv := s.cv } = s ∧ t.cv.get u =
      if k = 0 then { s.cv.get u with loadLo := v } else { s.cv.get u with loadHi := v }) ∧
    (∀ f, f < 32 → ∃ t, wr (0x10004 + 0x40 * f) t ∧ OnlyFlue f s t ∧ t.flues.get f = if (s.flues.get f).en
      then { s.flues.get f with cfgIgnored := (s.flues.get f).cfgIgnored || decide (bits 15 0 ≠ (s.flues.get f).weights.toNat) }
      else { s.flues.get f with weights := BitVec.ofNat 16 (bits 15 0) }) ∧
    (∀ n, n < s.nParts → ∃ t, wr (0x20104 + 0x1000 * n) t ∧ OnlyPart n s t ∧ { t.part n with mem := (s.part n).mem } = s.part n ∧
      (t.part n).mem.ptDir = (if (s.part n).mem.hasDir then (s.part n).mem.ptDir else BitVec.ofNat 19 (bits 18 0))) ∧
    (∀ f, f < 5 → ∃ t, wr (0x30004 + 0x1000 * f) t ∧ { t with host := { t.host with fns := s.host.fns } } = s ∧
      (t.host.fns.get f).adminLo.toNat = (if (s.host.fns.get f).adminEn then (s.host.fns.get f).adminLo.toNat else bits 31 12)) ∧
    (∀ l, l < 25600 → ∃ t, wr (0x100008 + 0x40 * l) t ∧ OnlyEmbers [l] s t ∧ { t.ember l with beMask := (s.ember l).beMask, cfgIgnored := (s.ember l).cfgIgnored } = s.ember l ∧
      (t.ember l).beMask.toNat = (if (s.part (s.partOf l)).hasCtx then (s.ember l).beMask.toNat else bits 7 0) ∧
      ((t.ember l).cfgIgnored = true ↔ ((s.ember l).cfgIgnored = true ∧ b 8 = false) ∨ ((s.part (s.partOf l)).hasCtx = true ∧ bits 7 0 ≠ (s.ember l).beMask.toNat)))) ∧
  (reaches s m true = true → isPf0 m = true →
    (∃ t, wr 0x08 t ∧ t = { s with common := { s.common with badAcc := s.common.badAcc && !b 29, voteOvf := s.common.voteOvf && !b 28,
                                                             swpDoneOvf := s.common.swpDoneOvf && !b 27, swpAutoOvf := s.common.swpAutoOvf && !b 26 } }) ∧
    (∃ t, wr 0x3004 t ∧ t = { s with sweep := { s.sweep with first := BitVec.ofNat 19 (bits 18 0) } }) ∧
    (∃ t, wr 0x6000 t ∧ t = { s with keys := { s.keys with attOvf := s.keys.attOvf && !b 26, unwrapOvf := s.keys.unwrapOvf && !b 25, missOvf := s.keys.missOvf && !b 24 } }) ∧
    (∃ t, wr 0x30000 t ∧ t.host.layout = s.host.layout ∧ t.host.aperEn = b 5 ∧ if bits 3 2 = 3
      then (t.host.fns.get 0).cfgIgnored = true ∧ t.host.layoutStage = s.host.layoutStage
      else t.host.layoutStage.toNat = bits 3 2 ∧ t.host.layoutPend = decide (bits 3 2 ≠ s.host.layout.toNat)) ∧
    (∀ n, n < s.nParts → let at_ (off : Nat) : Nat := 0x20000 + 0x1000 * n + off
      (∃ t, wr (at_ 0x008) t ∧ OnlyPart n s t ∧ (t.part n).step = { (s.part n).step with dropOvf := (s.part n).step.dropOvf && !b 31 }) ∧
      (∃ t, wr (at_ 0x200) t ∧ OnlyPart n s t ∧ (t.part n).prot = { (s.part n).prot with
        denyOvf := (s.part n).prot.denyOvf && !b 3, persistOvf := (s.part n).prot.persistOvf && !b 2, crcOvf := (s.part n).prot.crcOvf && !b 1 }) ∧
      (∃ t, wr (at_ 0x300) t ∧ OnlyPart n s t ∧ (t.part n).tree = { (s.part n).tree with
        mismOvf := (s.part n).tree.mismOvf && !b 3, collOvf := (s.part n).tree.collOvf && !b 2 }) ∧
      (∃ t, wr (at_ 0x414) t ∧ OnlyPart n s t ∧ (t.part n).rl = { (s.part n).rl with countOvf := (s.part n).rl.countOvf && !b 31 }) ∧
      (∃ t, wr (at_ 0x514) t ∧ OnlyPart n s t ∧ (t.part n).ck = { (s.part n).ck with cntOvf := (s.part n).ck.cntOvf && !b 31 }) ∧
      (∃ t, wr (at_ 0x608) t ∧ OnlyPart n s t ∧ (t.part n).chr = { (s.part n).chr with expOvf := (s.part n).chr.expOvf && !b 31 }) ∧
      (∃ t, wr (at_ 0x704) t ∧ OnlyPart n s t ∧ ∀ i, i < 5 → (t.part n).pwarn.getLsbD i = ((s.part n).pwarn.getLsbD i && !b i))))

/-- R453: a stored entry of the soot record is read through RSOOT and through mailbox value 0x41, at the SOOT_SEL of the reading master, which each master holds
for itself; a torn or erased page reads as zero. -/
def Obligations.StoredEntries : Prop := ∀ (s : State),
  let entry (i : Nat) : List Byte := match s.soot.pages[i]? with
    | some (.entry e) => (List.range 32).map fun k => BitVec.ofNat 8 (e.toNat / 256 ^ k)
    | _ => List.replicate 32 0
  (∀ q : SdpFrame, s.inService = true → q.crcOk = true → q.op = 0x50 → s.hasPart q.part.toNat = true → q.payload = [] → q.arg0.toNat < 2 ^ 14 → 1 ≤ q.arg1.toNat →
    q.arg1.toNat ≤ 128 → bitAt (moduleRights s) 2 = true → ∃ t, exec (.sdpRsoot q) s = .next t ∧
      t = { s with out := .sdp 0 ((List.range q.arg1.toNat).flatMap fun i => entry (q.arg0.toNat + i)) :: s.out }) ∧
  (∀ m : Master, reaches s m true = true →
    (mayRead s m .soot 0 = true → ∃ t, exec (.mbxSel m 0x4100) s = .next t ∧ { t with common := s.common } = s ∧
      (t.common.masters.get (masterId m)).mbxResult = 0 ∧ (List.range 8).flatMap (fun i => leBytes 4 ((t.common.masters.get (masterId m)).mbxData.get i).toNat) =
        entry (s.common.masters.get (masterId m)).sootSel.toNat) ∧
    (∀ v : Word, privileged m = true → ∃ t, exec (.registerWrite m 0x8010 v true) s = .next t ∧ { t with common := s.common } = s ∧
      (t.common.masters.get (masterId m)).sootSel.toNat = v.toNat % 2 ^ 14 ∧ ∀ k, k ≠ masterId m → t.common.masters.get k = s.common.masters.get k))

/-- What a step does, in the queue's order: with a command at the front of the queue it is that command's effect on the state with the rest of the queue. On an
empty queue the block idles, which is the model's choice (log 1). -/
def Obligations.StepRunsFront : Prop := ∀ (c : Instr) (rest : List Instr) (s : State),
  Machine.step { s with pending := c :: rest } = exec c { s with pending := rest } ∧ (s.pending = [] → Machine.step s = .next s)

/-- R2: every control function is hardware whose full behaviour the spec gives, so that no command ends the machine: every command has a next state from every
state. It leaves the queue of the commands alone, and the life-cycle state as well (R383, R389) but for OTP_READ, power-good and the loss of the always-on
rail, which is when that state is decoded or gone. -/
def Obligations.EveryCommandAnswers : Prop := ∀ (c : Instr) (s : State), ∃ t, exec c s = .next t ∧ t.pending = s.pending ∧
  (c ∉ [Instr.powerGood, .otpReadDone, .alwaysOnRailDropOut] → t.lc.lcState = s.lc.lcState)

/-- The values after reset that the tables of the spec give (Tables 2.8, 3.8, 7.2, 10.6, 11.12, 11.13, 18.14, 19.9, 20.5, 20.6), with the layout legal and the queue empty.
Values that no table gives are the model's choice (logs 3 to 9) and are not stated. -/
def Obligations.ResetValues : Prop :=
  let s := State.reset
  s.pending = [] ∧ LayoutLegal s ∧ s.host.layout = 0 ∧ s.host.layoutStage = 0 ∧
  (s.power.stageMode = 3 ∧ s.power.stageMask = 0x0000FFFF ∧ s.power.mode = .banked ∧ s.power.cause = .none ∧ s.power.throttle = false ∧ s.power.throttleTime = 0) ∧
  (∀ l, (s.ember l).beMask = 0x80 ∧ (s.ember l).beBase = 0x150 ∧ (s.ember l).beLen = 0x030 ∧ (s.ember l).parityLimit = 3 ∧ (s.ember l).flags = 0 ∧
    (s.ember l).cfgIgnored = false ∧ ∀ i, (s.thread l i).st = .idle) ∧
  s.snt.missLimit = 2 ∧ s.snt.missTotal = 0 ∧ s.snt.lastValid = false ∧
  (∀ f, (s.flues.get f).en = false ∧ (s.flues.get f).weights = 0x1111 ∧ (s.flues.get f).state = .idle ∧ (s.flues.get f).retryCnt = 0) ∧
  s.fab.member = 0 ∧ s.fab.t = 0 ∧ s.fab.dims = 0x08421 ∧ s.fab.cfgIgnored = false ∧
  (∀ n, (s.part n).prot.keys = false ∧ (s.part n).prot.halted = false ∧ (s.part n).adm.state = .empty ∧ (s.part n).rl.state = .off ∧ (s.part n).rl.role = .none ∧
    (s.part n).ck.state = .idle ∧ (s.part n).frozen = false ∧ (s.part n).hasCtx = false) ∧
  (∀ f, (s.host.fns.get f).adminEn = false ∧ (s.host.fns.get f).adminK = 4 ∧ (s.host.fns.get f).recEn = false ∧ (s.host.fns.get f).recK = 6 ∧
    (s.host.fns.get f).recTail = 0 ∧ (s.host.fns.get f).dbBad = 0) ∧
  s.common.timeoutMs = 0x07D0 ∧ s.common.badAcc = false ∧ s.common.voteFix = 0 ∧
  (s.health.thermMargin = 0x0A ∧ s.health.spareEmb = 0x02 ∧ s.health.sntThr = 0x01 ∧ s.health.hbmThr = 0x04 ∧ s.health.windowS = 0x003C ∧ s.health.flueThr = 0x03E8) ∧
  (∀ u, (s.cv.get u).poly = 0 ∧ (s.cv.get u).result = 0 ∧ (s.cv.get u).loadLo = 0 ∧ (s.cv.get u).loadHi = 0)

/-- R383, R386, R400, R401, R447, R450: what no step undoes, from any state. A step has a next state and takes the front off the queue; a bit of OTP that is burned
stays burned; the soot record only grows at its end; and the layout in force and the one staged stay layouts of Table 18.1. -/
def Obligations.EveryStepKeeps : Prop := ∀ (s : State), ∃ t, Machine.step s = .next t ∧ t.pending = s.pending.tail ∧ OtpGrows s t ∧ SootGrows s t ∧
  (LayoutLegal s → LayoutLegal t)
end

