-- ==== Sys2Proof/WellFormed.lean ====
section
/-! DEFINITION. Which commands are well-formed: what the types of their operands leave open. A scratch double-word and an HBM line that an
upset names exist; a host command names a ring that its function has; a frame, a write and a group keep the limits of their interface. No
meaning relies on it: an ill-formed command has its effect too. -/

namespace Sys2Proof

/-- Double-words of scratch that an upset strikes: of 49,152 (R55, R78). -/
def strikeOk (ds : List Nat) : Bool := ds.all fun d => decide (d < 49152)

/-- Lines of HBM that an outside change strikes: of the frames of the largest partition (Table 9.4). -/
def flipsOk (fs : List LineFlip) : Bool := fs.all fun f => decide (f.line < 366210 * 16384)

/-- Sectors of the kindling store that an outside change strikes: addresses of 33 bits, and 4 KiB each (R239, R324). -/
def sectorsOk (xs : List SectorFlip) : Bool := xs.all fun x => decide (x.sector < 2 ^ 33) && decide (x.ct.length = 4096)

/-- A position of the torus (R12). -/
def Pos.wf (p : Pos) : Bool :=
  decide (p.t0 < 32) && decide (p.t1 < 32) && decide (p.t2 < 32) && decide (p.t3 < 32) && decide (p.member ≤ 8)

/-- A command of a ring: PF0 has its admin ring alone (R406). -/
def HostCmd.wf (c : HostCmd) : Bool := decide (c.fn.val ≠ 0) || decide (c.ring = .admin)

/-- A request of the debug port has at most 4,096 payload bytes (Table 17.5). -/
def SdpFrame.wf (q : SdpFrame) : Bool := decide (q.payload.length ≤ 4096)

/-- LEN of a private write has 16 bits (R425). -/
def I3cWrite.wf (w : I3cWrite) : Bool := decide (w.payload.length < 65536)

/-- A group: NFLIT has 4 bits, and each flit 128 bytes (R250, Table 11.3). -/
def FlitGroup.wf (g : FlitGroup) : Bool := decide (g.nflit < 16) && decide (g.data.length = 128 * g.nflit)

/-- A command is well-formed. -/
def Instr.wf : Instr → Bool
  | .computeBistDone failing => decide (failing.Nodup)
  | .thermSample temps => decide (temps.length = 468)
  | .fetchLineFill _ strike => strikeOk strike
  | .beMoverPause _ _ _ flips => flipsOk flips
  | .tileDispatch _ upset => decide ((upset.map (·.1)).Nodup)
  | .tileComplete _ strike => strikeOk strike
  | .tqntComplete _ strike => strikeOk strike
  | .moverComplete _ _ strike flips => strikeOk strike && flipsOk flips
  | .remWriteDone _ _ strike flips => strikeOk strike && flipsOk flips
  | .lds _ _ _ strike => strikeOk strike
  | .sts _ _ _ strike => strikeOk strike
  | .atom _ _ _ strike => strikeOk strike
  | .ldv _ _ _ flips => flipsOk flips
  | .stv _ _ _ flips => flipsOk flips
  | .dld _ _ strike => strikeOk strike
  | .vldRow _ _ strike => strikeOk strike
  | .vldPair _ _ strike => strikeOk strike
  | .vldSlab _ _ strike => strikeOk strike
  | .collectiveComplete _ _ strike flips => strikeOk strike && flipsOk flips
  | .sweepWindowStep _ _ flips _ => flipsOk flips
  | .laneErrorInterval _ symbols _ _ => decide (symbols.length = 9)
  | .flitGroupReceive _ g => g.wf
  | .cowCopyDone _ flips => flipsOk flips
  | .rebuildDone _ flips => flipsOk flips
  | .unbankDone _ _ _ flips => sectorsOk flips
  | .exportDone _ flips => sectorsOk flips
  | .restoreUnitsWritten _ flips => sectorsOk flips
  | .ckptManifest _ stripes => decide stripes.Nodup
  | .sdpInfo q => q.wf
  | .sdpNonce q => q.wf
  | .sdpOpen q => q.wf
  | .sdpClose q => q.wf
  | .sdpHalt q => q.wf
  | .sdpResume q => q.wf
  | .sdpStep q => q.wf
  | .sdpBkpt q => q.wf
  | .sdpRreg q => q.wf
  | .sdpWreg q => q.wf
  | .sdpRmem q => q.wf
  | .sdpWmem q => q.wf
  | .sdpRcsr q => q.wf
  | .sdpWcsr q => q.wf
  | .sdpRsoot q => q.wf
  | .doorbell _ _ size _ entries => decide (size ≠ 0) && decide (entries.length ≤ 4096)
  | .charterCmd c => c.wf
  | .capsuleCmd c => c.wf
  | .createCtx c => c.wf
  | .destroyCtx c => c.wf
  | .createQ c => c.wf
  | .destroyQ c => c.wf
  | .createMobj c => c.wf
  | .freeMobj c => c.wf
  | .mapPages c => c.wf
  | .unmapPages c => c.wf
  | .bankOut c => c.wf
  | .poolCmd c => c.wf
  | .createEvt c => c.wf
  | .destroyEvt c => c.wf
  | .killOwner c => c.wf
  | .importCmd c => c.wf
  | .exportCmd c => c.wf
  | .queryCtx c => c.wf
  | .queryCap c => c.wf
  | .reportCmd c => c.wf
  | .quickCmd c => c.wf
  | .ideSetup c => c.wf
  | .removeTenant c => c.wf
  | .startCtx c => c.wf
  | .signalEvent c => c.wf
  | .waitEvent c => c.wf
  | .queueSemsig c => c.wf
  | .queueSemwait c => c.wf
  | .queueWrite c => c.wf
  | .bar4Read _ a len => decide (len ≠ 0) && decide (len.toNat ≤ 4096) && decide (a.toNat % 4096 + len.toNat ≤ 4096)
  | .bar4Write _ a bytes => decide (bytes ≠ []) && decide (a.toNat % 4096 + bytes.length ≤ 4096)
  | .i3cReport w => w.wf
  | .i3cQuick w => w.wf
  | .i3cQueryCap w => w.wf
  | .i3cRcsr w => w.wf
  | .i3cWcsr w => w.wf
  | .powerGood | .aoUpDone | .otpReadDone | .repairDone | .hsBistDone _ | .selftestDone _ | .hbmTrainDone _ | .readyEntry
  | .lightTimeout | .configParityCheck _ _ | .perstNAssert | .perstNRelease | .hotReset | .functionLevelReset _
  | .pcieConfigRequest _ | .thermTripFlashOff | .inputSample _ | .holdupSample _ | .powerAverage _ | .draughtQuiescent
  | .draughtChangeDone | .unitIdle _ | .unitWake _ | .beTileSuspend _ | .sentinelVerdict _ | .moverDispatch _ _ | .remAck _ _
  | .spareCopyDone _ | .embRetireReq _ | .nop _ _ _ | .endThread _ _ | .brk _ _ | .tid _ _ | .stepb _ _ | .add _ _ _ | .sub _ _ _
  | .andOp _ _ _ | .orOp _ _ _ | .xorOp _ _ _ | .andn _ _ _ | .shl _ _ _ | .shr _ _ _ | .sra _ _ _ | .minOp _ _ _ | .maxOp _ _ _
  | .minu _ _ _ | .maxu _ _ _ | .popc _ _ | .clz _ _ | .movhi _ _ | .movi _ _ | .mul _ _ | .mulh _ _ | .mulhu _ _ | .div _ _
  | .divu _ _ | .remOp _ _ | .remu _ _ | .cmp _ _ _ | .cmpi _ _ _ | .pand _ _ | .por _ _ | .pxor _ _ | .pandn _ _ | .pnz _ _
  | .pget _ _ | .br _ _ | .brl _ _ | .jr _ _ | .jrl _ _ | .ldvAnswer _ _ | .stvAccept _ | .fenceV _ _ | .tset _ _ | .tseti _ _
  | .tadd _ _ | .trd _ _ | .twait _ _ | .twaiti _ _ | .bare _ _ | .barp _ _ | .barpRelease _ _ _ | .semsig _ _ | .semwait _ _
  | .semrd _ _ | .dst _ _ | .dsetw _ _ | .dgetw _ _ | .moveDesc _ _ _ | .mvq _ _ | .allocH _ _ | .allocS _ _ | .freeBlock _ _
  | .heapAnswer _ | .caprd _ _ | .stepBoundary _ | .tmmaStart _ _ _ _ | .tmmaContinue _ _ _ _ | .tmmaFinish _ _ _ _
  | .tmmaSingle _ _ _ _ | .tqnt _ _ _ _ | .tstatMax _ _ | .tstatSexp _ _ | .tstatSsq _ _ | .tstatSum _ _ | .tstatMean _ _
  | .tstatCnt _ _ | .tstatS _ _ | .tstatClr _ _ | .tstatClrs _ _ | .sctrd _ _ | .vadd _ _ | .vsub _ _ | .vmul _ _ | .vfma _ _
  | .vfms _ _ | .vmax _ _ | .vmin _ _ | .vabs _ _ | .vmov _ _ | .vexp _ _ | .vrsq _ _ | .vrcp _ _ | .vstRow _ _ | .vstPair _ _
  | .vstSlab _ _ | .vbc _ _ | .vget _ _ | .vrsum _ _ | .vrmax _ _ | .sntcfg _ _ | .sntrd _ _ | .sntshd _ _ | .fsend _ _ _
  | .fwin _ _ | .dtredAll _ _ | .dtredRs _ _ | .dtbc _ _ | .dtbar _ _ | .ringstep _ _ | .beScaleFix _ | .contribReport _
  | .stepDeadline _ | .steprecFrame _ _ | .dropmarkFrame _ | .bankOutDone _ _ | .unbankStart _
  | .tagVerdict _ | .outboundHoldRelease | .rwcThreshold _ _ _ | .sweepEpochRequest _ _ _ | .sweepKeyRequest _
  | .sweepQueuedStart | .sweepResume _ _ | .flueEnSet _ | .flueEnClear _ | .flueDetectDone _ | .flueTrainDone _
  | .flueAlignDone _ | .flueInitDone _ | .fpxFrame _ | .flueBringupTimeout _ | .laneLockLoss _ _ | .laneFrame _ | .widthFrame _
  | .flueRetrainDone _ | .nakRepeat _ | .idleAckSend _ | .groupTransmit _ | .dataFrame _ | .dackFrame _ | .collFrame _
  | .ringReadyFrame _ | .ringDataFrame _ | .ringAckFrame _ | .heartbeatSend _ | .heartbeatFrame _ | .heartbeatTimeout _ _
  | .openFrame _ | .refuseFrame _ | .freezeFrame _ | .stokerFrame _ | .flueUnquar _ _ | .heldFrameDeliver _ | .routeUpdate _
  | .wpunitFrame _ | .sealFrame _ | .mirrorFrame _ | .lossFrame _ | .rfreezeFrame _ | .adoptFrame _ | .adoptContextReady _
  | .resumeFrame _ | .withdrawFrame _ | .rlHandback _ | .pwrWarn _ | .ckReq _ | .ckptAnnounce _ | .shardCopyDone _ _
  | .ckrepShard _ | .ckrepCommitted _ | .ckrepAvail _ | .ckptRestore _ | .ksLoadDone _ | .journalSectorProgrammed
  | .slotWriteDone _ _ | .stripeProgramFail _ _ _ | .ksCompact | .ksCompactDone | .ksFormat | .entropySample _
  | .maskRefresh | .mkGo _ _ | .keyIdReady | .reportSigned | .lcGo _ _ | .otpBurnDone | .returnEraseDone | .sdpSelRise
  | .debugSessionExpire | .mobjRelease _ _ | .tenantRemovalDone _ | .startGrant _ _ _ | .hostRecHead _ _ _
  | .registerWrite _ _ _ _ | .dmpData _ _ | .dmpCommit _ _ | .dmpAbort _ _ | .damperApply _ | .damperTimeout _ | .mbxSel _ _
  | .revote _ | .sootEntryWrite _ | .sootMinute | .meterWrite | .cvCtrl _ _ _ | .cvFeed8 _ _ _ | .cvFeed16 _ _ _
  | .cvFeed32 _ _ _ | .healthWindow | .slowdownInterval _ _ _ | .abortRequestRetry _ | .abortRequest _ | .abortFrame _
  | .pwrWarnDeassert | .fluePresenceChange _ _ | .i3cDynamicAddress _ | .i3cPrivateRead _ | .alwaysOnRailDropOut
  | .checkpointRequest _ | .quarantineReport _ | .parityHolderReport _ | .freezeRelease _ _ | .stripeEraseDone _ => true

end Sys2Proof
end

