-- ==== Sys2Proof/Tests/Slice0.lean ====
section
/-! SUPPORT. Tests: what the well-formedness checks refuse, worked values, and for each obligation a concrete state and operands that meet its
hypotheses. -/

namespace Sys2Proof.Tests

set_option Elab.async false

open Sys2Proof.Machine

/-! ### States -/

/-- The state after a command. -/
def after (c : Instr) (s : State) : State := match exec c s with | .next t => t | _ => s

/-- A module in service. -/
def live : State := { State.reset with
  power := { State.reset.power with powerGood := true, aoOn := true, rails := true, flashOn := true, light := .ready, cdBist := true
                                    hsBist := true, hbmTrained := true }
  pins := { State.reset.pins with perstN := true }
  host := { State.reset.host with inReset := false } }

def launchL : Launch :=
  { be := false, restore := false, jobId := 0x77, restoreStep := 0, parent := 0, startStep := 0, codeBrick := 0, codeBricks := 1
    entryPc := List.replicate 8 0, dropPc := 0, semContrib := 1, semRec := 2, slot := 0, stepPage := 0, nmb := 1, minContrib := 1
    deadlineUs := 100, requeueDelay := 0, requeueMax := 0, hbmBase := 0, hbmLen := 0, hbmMeta := 0, shfBase := 0, shfLen := 0
    shfMeta := 0, shelfBase := 0, shelfLen := 0, nsct := 16, wpMode := 0, wpImg := 0, wpShare := 0, wpInterval := 0, wpFirst := 0
    wpUnits := 0, inFirst := 0, inSlotBytes := 0, inSlots := 0, ckInterval := 0, ckHoldoff := 0, ckWarn := 0
    groups := Tab.const { be := false, pairs := [(3, 6)] }
    rings := Tab.const { shape := 1, len := 2, dim := 0, memberA := 0, memberB := 0, order := [0, 1] }, pool := [], scales := [] }

def context (be : Bool) : Context :=
  { st := .run, owner := 9, launch := { launchL with be := be }, image := [], meas := 0, exc := none, saveFrames := []
    queues := Tab.const none
    util := { runUs := 0, issueUs := 0, tileUs := 0, waitUs := 0, pausedUs := 0, moved := 0, flueBytes := 0, ovf := 0 }
    mem := { parkNs := 0, parks := 0, tcMiss := 0, allocFail := 0, ovf := 0 } }

/-- Partition 0 runs an LC and a BE context. -/
def job (s : State) : State := s.modPart 0 fun p => { p with
  ctxs := (p.ctxs.set 0 { gen := 0, obj := some (context false) }).set 1 { gen := 0, obj := some (context true) }
  runLc := some 0, runBe := some 1 }

/-- The site of the tests: ember 3, thread 1. -/
def site : Site := { e := 3, t := 1 }

/-- The fields of an instruction word. -/
def fld (rd ra rb : Nat) (low : Nat := 0) (gp : Nat := 0) : BitVec 52 := BitVec.ofNat 52 (gp * 2 ^ 48 + rd * 2 ^ 43 + ra * 2 ^ 38 + rb * 2 ^ 33 + low)
def fim (rd ra : Nat) (imm : Int) : BitVec 52 := BitVec.ofNat 52 (rd * 2 ^ 43 + ra * 2 ^ 38 + (imm % 2 ^ 38).toNat)

/-- A state of the job with thread 1 of ember 3 in RUN at PC 8, its line holding word `w`. -/
def at8 (w : DWord) (s : State) : State :=
  s.modThread 3 1 fun h => { h with st := .run, pc := 8, line := some { base := 8, words := [w, 0, 0, 0, 0, 0, 0, 0] } }

/-- An instruction issues there. -/
def issues (s : State) (major minor : Nat) (f : BitVec 52) (ss ps : List Nat) : Bool :=
  issuable (at8 (insnWord major minor f) s) site (insnWord major minor f) f ss ps

def opn (brick fmt scl strip : Nat) : Nat := brick * 2 ^ 55 + 2 ^ 45 + fmt * 2 ^ 38 + scl * 2 ^ 36 + strip * 2 ^ 17
def matD (a b oBrick oFmt klen : Nat) : Desc :=
  BitVec.ofNat 256 (a + 2 ^ 64 * b + 2 ^ 128 * (oBrick * 2 ^ 55 + oFmt * 2 ^ 48 + 2 ^ 36 + 2 * 2 ^ 28 + klen) + 2 ^ 192 * (0x3F800000 * 2 ^ 32))
def quantD (i q fmt n : Nat) : Desc :=
  BitVec.ofNat 256 (i * 2 ^ 55 + 2 ^ 45 + fmt * 2 ^ 41 + 2 ^ 64 * (q * 2 ^ 55 + 2 ^ 45 + 8192 * 2 ^ 26) + 2 ^ 128 * (n * 2 ^ 55 + 3 * 2 ^ 28))
/-- A collective of group 0 and ring 0. -/
def collD (seq len src dst step : Nat) : Desc :=
  BitVec.ofNat 256 (src + 2 ^ 64 * dst + 2 ^ 128 * (len * 2 ^ 40) + 2 ^ 192 * (seq * 2 ^ 48 + step * 2 ^ 10))
def moveD (src dst rowBytes sSp dSp : Nat) : Desc :=
  BitVec.ofNat 256 (src + 2 ^ 64 * dst + 2 ^ 192 * (rowBytes * 2 ^ 44 + sSp * 2 ^ 36 + dSp * 2 ^ 34 + 3 * 2 ^ 30))

/-- The job with contents in the registers and scratch of the site, a resident page, heaps and scale tables. -/
def base : State :=
  ((((job live).modThread 3 1 fun h => { h with
      s := (((((((((h.s.set 1 7).set 2 5).set 3 (BitVec.ofInt 64 (-1))).set 4 (BitVec.ofInt 64 (-(2 ^ 63)))).set 10 1024).set 11 0x1040).set 12 8).set 13
        (5 * 2 ^ 21 + 504)).set 14 26).set 15 204800
      p := 0xAB
      q := (h.q.set 3 70).set 2 5
      md := (((h.md.set 0 (moveD 1024 2048 64 0 0)).set 1 (moveD 1024 0x60000 64 0 0)).set 2 (moveD 0x1000 (4 * 2 ^ 33 + 4096) 128 0 1)).set 3 0
      td := ((((h.td.set 0 (matD (opn 10 3 0 0) (opn 20 3 0 0) 30 5 64)).set 4 (quantD 10 30 5 4)).set 6 (collD 0 32 2048 3072 1)).set 7 (collD 0 0 0 0 0)).set 8
        (collD 5 32 2048 3072 0)
      loads := [{ rd := 5, value := 99 }], stores := 2 }).modEmber 3 fun m => { m with
      scratch := (List.range 8).foldl (fun m i => m.put (1024 + i) (BitVec.ofNat 8 (17 * i + 200))) []
      codeWin := m.codeWin.set 0 (some (0, 1)) }).modPart 0 fun p => { p with
      sct := (p.sct.set 0 { p.sct.get 0 with fmtStep := 0, scaleX := 130 }).set 1 { p.sct.get 1 with fmtStep := 3, kind := 4 }
      mem := { p.mem with
        leaf := p.mem.leaf.set 0 (some (3, 0))
        pages := p.mem.pages.set 5 (some { w := true, pin := false, loc := .frame 7, mobj := 0, busy := .idle })
        heaps := p.mem.heaps.set 0 { base := 0x100000, len := 65536, minBlock := 8192, blocks := [{ off := 0, size := 65536, st := .free, after := 0 }]
                                     pendingOrder := [], atStart := [] } } }) |> fun s => { s with tcache := Tab.const [5] }

/-! ### Worked values -/

/-- R91: 7 + 5. -/
theorem test_add : ((after (.add site false (fld 9 1 2)) (at8 (insnWord 1 0 (fld 9 1 2)) base)).thread 3 1).sReg 9 = 12 := by decide +kernel
/-- R92: -2^63 divided by -1 is -2^63. -/
theorem test_div_wraps : ((after (.div site (fld 9 4 3)) (at8 (insnWord 3 3 (fld 9 4 3)) base)).thread 3 1).sReg 9 = BitVec.ofInt 64 (-(2 ^ 63)) := by
  decide +kernel
/-- R94: a signed byte load of 0xC8 at 1024. -/
theorem test_load_signs : ((after (.lds site 4 (fim 9 10 0) []) (at8 (insnWord 7 4 (fim 9 10 0)) base)).thread 3 1).sReg 9 = BitVec.ofInt 64 (-56) := by
  decide +kernel
/-- R94: a misaligned double-word load loses the context. -/
theorem test_misaligned : ((after (.lds site 3 (fim 9 10 1) []) (at8 (insnWord 7 3 (fim 9 10 1)) base)).thread 3 1).st = .lost := by decide +kernel
/-- R20: 12 V in the hold-up bank is 162 ms at 11 W. -/
theorem test_holdup : holdupMs 12000 = 162 := by decide +kernel
/-- R277: ((y0 + y4) + y2) + ((y1 + y5) + y3) with y0 = 2^24 and the other five 1.0. -/
theorem test_tree_example : (let one : Word := 0x3F800000
    fpAdd (fpAdd (fpAdd 0x4B800000 one).w one).w (fpAdd (fpAdd one one).w one).w).w = 0x4B800002 := by decide +kernel

/-! ### Witnesses: the instructions of the threads -/

theorem witness_IntegerOperations : ((List.range 13).all (fun m => issues base 1 m (fld 9 1 2) [9, 1, 2] [] && issues base 2 m (fim 9 1 (-3)) [9, 1] []) &&
    decide (fLow (fld 9 1 2) = 0)) = true := by decide +kernel

theorem witness_MultiplyDivideAndMoves : ((List.range 7).all (fun m => issues base 3 m (fld 9 1 2) [9, 1, 2] []) &&
    [13, 14].all (fun m => issues base 1 m (fld 9 1 0) [9, 1, 0] []) && [16, 17].all (fun m => issues base 2 m (fim 9 0 5) [9] [])) = true := by
  decide +kernel

theorem witness_DivisionCorners : ([3, 4, 5, 6].all (fun m => issues base 3 m (fld 9 1 0) [9, 1, 0] []) &&
    [3, 5].all (fun m => issues base 3 m (fld 9 4 3) [9, 4, 3] [])) = true ∧
    (thrAt base site).sReg 0 = 0 ∧ (thrAt base site).sReg 4 = BitVec.ofInt 64 (-(2 ^ 63)) ∧ (thrAt base site).sReg 3 = BitVec.ofInt 64 (-1) := by
  decide +kernel

theorem witness_ComparisonsAndPredicates : ((List.range 6).all (fun m => issues base 4 m (fld 7 1 2) [1, 2] [7] && issues base 4 (32 + m) (fim 7 1 3) [1] [7]) &&
    (List.range 4).all (fun m => issues base 5 m (fld 7 3 5) [] [7, 3, 5]) && issues base 5 4 (fld 7 1 0) [1] [7] &&
    issues base 5 5 (fld 9 0 0) [9] (List.range 8)) = true := by decide +kernel

theorem witness_SystemAndBranches : ([0, 1, 2].all (fun m => issues base 0 m 0 [] []) && issues base 0 4 (fld 9 0 0) [9] [] &&
    issues base 6 0 5 [] [] && issues base 6 1 5 [31] [] && issues base 6 2 (fld 0 12 0) [12] [] && issues base 6 3 (fld 9 12 0) [9, 12] [] &&
    [5, 13, 127].all (fun k => inWindow base site k)) = true ∧ fOff (5 : BitVec 52) = 5 ∧ (thrAt base site).sReg 12 = 8 := by decide +kernel

theorem witness_ScratchAccess :
    ((List.range 8).all (fun m => issues base 7 m (fim 9 10 0) [9, 10] [] && issues base 9 m (fld 9 10 2) [9, 10, 2] []) &&
    (List.range 4).all (fun m => issues base 8 m (fim 9 10 0) [9, 10] []) && issues base 13 0 (fim 23 10 0) [10] [] && issues base 13 1 (fim 23 10 0) [10] [] &&
    issues base 13 2 (fld 23 1 2) [1, 2] [] && issues base 13 3 (fld 9 23 2) [9, 2] [] && inWindow base site 8) = true ∧
    (∀ k ∈ [1, 2, 4, 8, 32, 64], (base.ember 3).inRange false 1024 k = true ∧ (base.ember 3).hitsCode 1024 k = false ∧
      ((base.ember 3).strike [300]).mismatches 1024 k = []) ∧ ((base.ember 3).strike [300]).mismatches 64 64 = [] := by decide +kernel

/-- The last aligned double-words of the LC and the BE range, and the last byte of the code window. -/
theorem witness_ScratchAccess_edges : (base.ember 3).inRange false 344056 8 = true ∧ (base.ember 3).inRange false 344057 8 = false ∧ (base.ember 3).inRange true 393208 8 = true ∧
    (base.ember 3).inRange true 393209 8 = false ∧
    (base.ember 3).hitsCode 1023 1 = true := by decide +kernel

theorem witness_DeviceVirtualAccess :
    ((List.range 8).all (fun m => issues base 10 m (fim 9 13 0) [9, 13] []) && (List.range 4).all (fun m => issues base 10 (8 + m) (fim 9 13 0) [9, 13] []) &&
    issues (base.modThread 3 1 fun h => { h with stores := 0 }) 10 16 0 [] []) = true ∧
    (thrAt base site).requests < 8 ∧ (thrAt base site).loads[0]? = some { rd := 5, value := 99 } ∧
    (∀ write : Bool, (base.part 0).translate (5 * 2 ^ 21 + 504) write = .frame 7) ∧ 5 ∈ base.tcache.get 0 ∧ (base.part 0).metaPage 5 = false ∧
    (∀ size ∈ [1, 2, 4, 8], stackAwake base 0 ((base.part 0).pa 7 (5 * 2 ^ 21 + 504)) size = true ∧
      (∀ l ∈ linesOf ((base.part 0).pa 7 (5 * 2 ^ 21 + 504)) size, base.badOf 0 l = none) ∧
      base.counterFull 0 ((base.part 0).pa 7 (5 * 2 ^ 21 + 504)) size = false) ∧ (base.part 0).writable 7 = true := by decide +kernel

/-- Four waiting threads: at an ember barrier that this arrival fills, and at a partition barrier that is full. -/
def gathered : State :=
  ((base.modThread 3 5 fun h => { h with st := .wait, cond := some (.emberBar 1) }).modEmber 3 fun m => { m with
    barriers := m.barriers.set 1 { count := 2, arrived := [5] } }).modPart 0 fun p => { p with pbars := p.pbars.set 63 { count := 2, arrived := [29, 34] } }

theorem witness_TalliesAndBarriers :
    (issues base 11 0 (fld 3 2 0) [2] [] && issues base 11 1 (fim 3 0 0xFFFFFFFF) [] [] && issues base 11 2 (fld 3 2 0) [2] [] &&
    issues base 11 3 (fld 9 3 0) [9, 3] [] && issues base 11 4 (fld 3 2 0) [2] [] && issues base 11 5 (fim 3 0 80) [] [] &&
    issues gathered 12 0 (fim 0 16 1) [16] [] && issues base 12 0 (fim 0 12 1) [12] [] && issues base 12 1 (fim 0 15 62) [15] []) = true ∧
    (thrAt base site).cond = none ∧ ((base.ember 3).barriers.get 1).arrived = [] ∧
    (let g := gathered.modThread 3 1 (Thread.setS 16 2)
     ((thrAt g site).sReg 16).toNat = 2 ∧ ((g.ember 3).barriers.get 1).count = 2) ∧
    ((gathered.part 0).pbars.get 63).arrived.length = ((gathered.part 0).pbars.get 63).count ∧ ((gathered.part 0).pbars.get 62).arrived = [] := by decide +kernel

/-- A semaphore with two waiting threads and the host queue behind them. -/
def awaited : State := ((base.modThread 3 5 fun h => { h with st := .wait, cond := some (.sem 1 3) }).modThread 4 2 fun h =>
  { h with st := .halt, cond := some (.sem 1 2) }).modPart 0 fun p => { p with
    sems := p.sems.set 1 { word := 1, waiters := [.thread 3 5 3, .thread 4 2 2, .queue 1 1 2] } }

theorem witness_Semaphores : ([base, awaited].all (fun s => issues s 12 2 (fim 0 2 1) [2] [] && issues s 12 3 (fim 0 2 1) [2] [] &&
    issues s 12 4 (fim 9 0 1) [9] [] && requestRoom site s)) = true ∧ ((base.part 0).sems.get 1).waiters = [] ∧
    ((awaited.part 0).sems.get 1).waiters ≠ [] := by decide +kernel

theorem witness_StepBoundaryDeclared :
    [base, base.modEmber 3 fun m => { m with beMask := 2 }, base.modPart 0 fun p => { p with step := { p.step with first := some 7 } },
      base.modPart 0 fun p => { p with step := { p.step with first := some 8 } }].all (fun s => issues s 0 3 (fld 0 1 0) [1] []) = true ∧
    (thrAt base site).chain = none ∧ base.isBe 3 1 = false ∧ (base.modEmber 3 fun m => { m with beMask := 2 }).isBe 3 1 = true ∧
    (thrAt base site).sReg 1 = 7 := by decide +kernel

theorem witness_MoverLaunch :
    (issues base 14 1 (fld 16 0 0) [] [] && issues base 14 1 (fld 17 0 0) [] [] && issues base 14 1 (fld 19 0 0) [] [] &&
    issues base 0x38 0 (fld 18 2 0) [2] [] && issues base 14 2 (fld 9 1 0) [9, 1] []) = true ∧
    (mvDesc (moveD 1024 2048 64 0 0)).moveOk base 0 = true ∧ (mvDesc (moveD 1024 2048 64 0 0)).localCheck (base.ember 3) false = none ∧
    (mvDesc (moveD 1024 0x60000 64 0 0)).moveOk base 0 = true ∧ ((mvDesc (moveD 1024 0x60000 64 0 0)).localCheck (base.ember 3) false).isSome = true ∧
    (mvDesc 0).moveOk base 0 = false ∧
    (let m := mvDesc (moveD 0x1000 (4 * 2 ^ 33 + 4096) 128 0 1)
     m.sSp ≠ 1 ∧ m.dSp = 1 ∧ m.rtEn = false ∧ m.conv = 0 ∧ m.zero = true ∧ m.rowBytes ≠ 0 ∧ m.rowBytes % 8 = 0 ∧ m.src % 8 = 0 ∧ m.dst % 8 = 0 ∧
     m.sStride % 8 = 0 ∧ m.dStride % 8 = 0 ∧ addrForm m.sSp m.src = true ∧ addrForm 1 m.dst = true ∧ remEmber m.dst < 25600 ∧
     base.jobHas (base.routePos 0 5) = true ∧ m.localCheck (base.ember 3) false = none) := by decide +kernel

/-- The site waits for the answer to a request. -/
def asking (r : HeapReq) (s : State) : State :=
  (s.modThread 3 1 fun h => { h with heapReqs := [r] }).modPart 0 fun p => { p with mem := { p.mem with heapQ := [25] } }

theorem witness_AllocatorRequests : ((List.range 3).all (fun m => issues base 15 m (fld 9 1 7) [9, 1] [7]) && issues base 15 3 (fim 9 14 0) [9, 14] [] &&
    requestRoom site base) = true ∧ (base.part 0).hasCtx = true ∧
    (let hp := (base.part 0).mem.heaps.get 0
     (hp.alloc 9000).2 = .ok 0 ∧ hp.len = 65536 ∧ ((hp.alloc 9000).1.free 0x100000 0).isSome = true) ∧
    (let s := asking { op := .allocH, rd := 5, pred := 2, arg := 65537 } base
     (s.part 0).mem.heapQ = [8 * 3 + 1] ∧ (s.thread 3 1).heapReqs = [{ op := .allocH, rd := 5, pred := 2, arg := 65537 }] ∧ (s.part 0).runLc.isSome = true) := by
  decide +kernel

theorem witness_VectorLanes : ((List.range 7).all (fun m => issues base 0x30 m (fld 3 1 2) [] []) && [7, 8].all (fun m => issues base 0x30 m (fld 3 1 0) [] []) &&
    (List.range 3).all (fun m => issues base 0x31 m (fld 3 1 0) [] [])) = true ∧ decF 0x3F800000 ≠ .nan ∧ decF 0x7FC00000 = .nan := by decide +kernel

theorem witness_VectorMoves : ((List.range 3).all (fun m => issues base 0x32 m (fim 3 10 0) [10] [] && issues base 0x32 (4 + m) (fim 3 10 0) [10] []) &&
    issues base 0x33 0 (fld 3 1 0) [1] [] && issues base 0x33 1 (fld 9 3 2) [9, 2] [] && [2, 3].all (fun m => issues base 0x33 m (fld 3 1 0) [] [])) = true ∧
    (∀ p ∈ (1024, 64) :: (1536, 64) :: (List.range 16).map fun r => (1024 + 64 * r, 8), (base.ember 3).inRange false p.1 p.2 = true ∧
      (base.ember 3).hitsCode p.1 p.2 = false ∧ ((base.ember 3).strike []).mismatches p.1 p.2 = []) ∧ 1024 % 1024 ≤ 448 := by decide +kernel

/-! ### Witnesses: the tile engine -/

/-- The partition 0 of `base`, and thread 1 of its ember 3 with an open chain of descriptor td0, or with another key. -/
def chained (len : Nat) (s : State) : State := s.modThread 3 1 fun h => { h with
  chain := some { key := chainKey (matDesc (h.td.get 0)) false false, len := len } }

theorem witness_TileIssue : (let d := matDesc ((thrAt base site).td.get 0)
    let p := base.part 0
    let fits (s : State) (cc : Nat) : Bool := issues s 0x20 (16 * cc) (fld 0 0 0) [] [] && matOk d cc false false && (matFix p false d cc).isOk &&
      (boundsCheck (s.ember 3) false (matReads d cc false false) (if 2 ≤ cc then [brickExt d.oBrick] else [])).isNone
    (fits base 0 && fits base 3 && [1, 2].all (fits (chained 32 base)) && [0, 3].all (fits (chained 32 base)) && [1, 2].all (fits base)) = true ∧
      32 + d.klen ≤ 2 ^ 24 ∧ (thrAt base site).chain = none ∧ (thrAt base site).snt.shadow = none) ∧
    (let q := quantDesc ((thrAt base site).td.get 4)
     let fmt := recipeFmt 1 ((base.part 0).entry false q.sct).fmtStep
     (issues base 0x21 (8 * 1 + 1) (fld 4 0 0) [] [] && issues base 0x21 0 (fld 4 0 0) [] [] && quantOk q 1 1 (rowElems fmt) && quantOk q 0 0 (rowElems fmt) &&
       (boundsCheck (base.ember 3) false (brickExts q.iBrick q.iStride (q.nBrick * rowElems fmt / q.w))
         (brickExts q.qBrick q.qStride q.nBrick ++ [{ off := q.strip, len := q.nBrick * (rowElems fmt / 2) }])).isNone) = true ∧
      q.sct < sctCount (base.part 0) false) := by decide +kernel

theorem witness_StatisticsReads : ((List.range 6).all (fun m => issues base 0x22 m (fld 9 0 0) [] []) && issues base 0x22 8 (fld 9 0 0) [9] [] &&
    [16, 17].all (fun m => issues base 0x22 m 0 [] []) && issues base 0x23 0 (fim 9 2 3) [9, 2] []) = true ∧ (base.ember 3).tileQ = [] ∧
    ((thrAt base site).sReg 2).toNat < sctCount (base.part 0) false := by decide +kernel

theorem witness_SentinelAndWindows : ([6, 48, 5, 17].all (fun n => issues base 0x36 0 (fim 0 0 n) [] []) && issues base 0x36 1 (fld 9 1 0) [9, 1] [] &&
    issues base 0x36 1 (fld 9 14 0) [9, 14] [] && issues base 0x36 2 (fld 0 10 10) [10, 10] [] && issues base 0x38 2 (fld 3 10 0) [10] []) = true ∧
    ((thrAt base site).sReg 1).toNat % 8 = 7 ∧ ((thrAt base site).sReg 14).toNat % 8 = 2 ∧ ((thrAt base site).sReg 10).toNat = 1024 := by decide +kernel

/-- A tile entry of the site. -/
def entry (op : TileOp) (be : Bool) (st : WorkState) (sample : Option (Nat × Nat)) (verdict : Option Bool) : TileEntry :=
  { t := 1, be := be, op := op, desc := (thrAt base site).td.get (match op with | .tmma .. => 0 | .tqnt .. => 4), pc := 3, st := st, sample := sample
    shadow := none, fix := { aX := 0, bX := 0, oFmt := match op with | .tmma .. => 5 | .tqnt .. => 0, oX := 0, inv := 0, zp := 0 }, len := 64
    upset := [], verdict := verdict, seq := 1 }

/-- Ember 3 with a tile queue, and its threads of a class in a state. -/
def tiles (q : List TileEntry) (s : State) : State := s.modEmber 3 fun m => { m with tileQ := q }

/-- No LC thread of ember 3 runs. -/
def resting : State := base.modThread 3 1 fun h => { h with st := .idle }

theorem witness_TileQueueOrder : base.inService = true ∧ resting.beFree 3 = true ∧
    (let s := base.modThread 3 1 fun h => { h with st := .run }
     s.beFree 3 = false) ∧
    (let q := [entry (.tmma 0 false false) true .queued none none, entry (.tmma 0 false false) false .queued none none]
     ((tiles q base).ember 3).tileQ = [q[0]] ++ q[1] :: [] ∧ ∀ a ∈ q, a.st ≠ .active) ∧
    (let q := [entry (.tmma 0 false false) true .queued none none, entry (.tmma 0 false false) true .paused none none]
     ((tiles q resting).ember 3).tileQ = [q[0]] ++ q[1] :: [] ∧ (tiles q resting).beFree 3 = true) := by decide +kernel

theorem witness_TileCompletes : [0, 1, 2, 3].all (fun cc =>
      decide (((tiles [entry (.tmma cc false false) false .active none none] base).ember 3).activeTile = some (entry (.tmma cc false false) false .active none none)) &&
      decide (tileBad ((base.ember 3).strike [100]) (matDesc (entry (.tmma cc false false) false .active none none).desc) cc false false none = [])) = true ∧
    entrySample (tiles [entry (.tmma 3 false false) false .active none none] base) 3 (entry (.tmma 3 false false) false .active none none) = none ∧
    quantBad ((base.ember 3).strike [100]) (quantDesc (entry (.tqnt 1 0) false .active none none).desc) (rowElems 0) = [] ∧
    (thrAt base site).st ≠ .lost := by decide +kernel

theorem witness_SentinelVerdicts : (let e := entry (.tmma 3 false false) false .active (some (2, 3)) none
    ((tiles [e] base).ember 3).activeTile = some e ∧ (entrySample (tiles [e] base) 3 e).isSome = true) ∧
    (let e := entry (.tmma 3 false false) false .active (some (2, 3)) (some true)
     ((tiles [e] base).ember 3).activeTile = some e ∧ tileBad ((base.ember 3).strike []) (matDesc e.desc) 3 false false none = []) := by decide +kernel

/-! ### Witnesses: movers, collectives and frames -/

/-- A mover job of the site. -/
def mvJob (d : Desc) (be : Bool) (st : WorkState) (sent : Bool) : MoverJob :=
  { t := 1, be := be, desc := d, pc := 3, kind := .move, st := st, done := 0, stall := false, sent := sent, seq := 1 }

/-- Mover 0 of ember 3 with a queue. -/
def moving (q : List MoverJob) (s : State) : State := s.modEmber 3 fun m => { m with movers := m.movers.set 0 q }

theorem witness_MoverExecution : base.inService = true ∧ resting.beFree 3 = true ∧
    (let d := mvDesc (moveD 1024 2048 64 0 0)
     d.rows = 1 ∧ d.conv = 0 ∧ d.sSp = 0 ∧ d.dSp = 0 ∧ d.rowBytes = 64 ∧ ((base.ember 3).strike [5000]).mismatches d.src d.rowBytes = []) ∧
    (let d := mvDesc (moveD 1024 2048 64 0 2)
     d.dSp = 2 ∧ d.dst + d.rowBytes ≤ base.shelfBytes ∧ shelfAwake base 0 d.dst d.rowBytes = true) ∧
    (let d := mvDesc (moveD 1024 (4 * 2 ^ 33 + 4096) 64 0 1)
     d.dSp = 1 ∧ remEmber d.dst = 4 ∧ (base.thread 4 d.rthread).st ≠ .lost ∧ (base.ember 4).extentIn false (remOff d.dst, d.rowBytes) = true ∧
     (base.ember 4).hitsCode (remOff d.dst) d.rowBytes = false) ∧
    (let d := mvDesc (moveD 344064 360448 8192 0 0)
     let s := base.modThread 3 1 fun h => { h with st := .run }
     s.beFree 3 = false ∧ d.dSp = 0 ∧ 4096 * 1 < d.rowBytes ∧ (s.ember 3).mismatches d.src 4096 = []) ∧
    (let q := [mvJob (moveD 1024 2048 64 0 0) true .paused false, mvJob (moveD 1024 2048 64 0 0) false .queued false]
     ((moving q base).ember 3).movers.get 0 = [q[0]] ++ q[1] :: [] ∧ q[1] ∉ [q[0]]) := by decide +kernel

theorem witness_CollectiveIssue : (let d (i : Nat) := collDesc ((thrAt base site).td.get i)
    let at_ (op : FlueOp) (major minor i : Nat) : Bool := issues base major minor (fld i 0 0) [] [] && (d i).ok op base site &&
      ((d i).bounds op 2 (base.ember 3) false).isNone
    (at_ .dtredAll 0x39 0 6 && at_ .dtredRs 0x39 1 6 && at_ .dtbc 0x39 2 6 && at_ .dtbar 0x39 3 7 && at_ .dtredAll 0x39 0 8 && at_ .ringstep 0x3A 0 6 &&
      at_ .ringstep 0x3A 0 8) = true ∧ (d 6).seq = 0 ∧ (d 8).seq = 5 ∧ (d 6).step = 1 ∧ (d 8).step = 0 ∧
    (groupOf base 0 false 0).members = [25, 26] ∧ ringIndex base (base.logicalPos 0) (ringOf base 0 false 0) = some 0 ∧ (base.part 0).rl.state ≠ .withdrawn ∧ (base.part 0).prot.halted = false ∧
    findInst base 0 false 0 0 = none ∧ (base.part 0).tree.early = []) := by decide +kernel

def collH : CollHdr :=
  { grp := 0, kind := 0, op := 0, scope := 0, level := 0, round := 0, results := false, empty := false, len := 2, cseq := 0 }
def flueJ (op : FlueOp) (i : Nat) : FlueJob :=
  { t := 1, be := false, op := op, desc := (thrAt base site).td.get i, pc := 3, count := 0, sent := false, acked := false, got := false, seq := 1 }
def inst (value : Option (Option (List Word))) : CollInst :=
  { be := false, hdr := collH, root := 0, issued := [26], value := value, sat := false, done := [], pieces := [], sent := [] }

/-- A frame that has arrived at partition 0. -/
def came (b : FrameBody) (vc : Vc) : Frame :=
  { epoch := 0, lineage := 0, step := 0, src := { t0 := 0, t1 := 0, t2 := 0, t3 := 0, member := 1 }
    dst := some { t0 := 0, t1 := 0, t2 := 0, t3 := 0, member := 0 }, vc := vc, body := b }
def inbox (fs : List (Nat × Frame)) (s : State) : State := s.modPart 0 fun p => { p with inbox := fs }

/-- Ember 3 with a flue queue, and an instance under way. -/
def joining (j : List FlueJob) (i : List CollInst) (s : State) : State :=
  (s.modEmber 3 fun m => { m with flueQ := j }).modPart 0 fun p => { p with tree := { p.tree with insts := i } }

def ringH : RingHdr := { ring := 0, step := 1, l := 2, len := 2, ember := 3, thread := 1, origin := 1 }

theorem witness_CollectiveCompletion :
    (let s := joining [flueJ .dtredAll 7] [inst (some (some [1, 2]))] base
     (s.ember 3).flueQ.find? (fun j => decide (j.t = 1) && decide (j.op ≠ .ringstep) && decide ((collDesc j.desc).grp = 0)) = some (flueJ .dtredAll 7) ∧
     findInst s 0 false 0 0 = some (inst (some (some [1, 2]))) ∧ (collDesc (flueJ .dtredAll 7).desc).dSp = 0 ∧ (thrAt s site).st ≠ .lost) ∧
    (let fr := came (.coll { collH with cseq := 0 } 0 0 [1, 2]) .lc
     let s := inbox [(3, fr)] (joining [] [inst none] base)
     (s.part 0).inbox.find? (fun e => (match e.2.body with | .coll .. => true | _ => false) && decide (e.2 ∉ behindMark [] (s.part 0).inbox)) = some (3, fr) ∧
     (3, fr) ∉ (s.part 0).tree.inPool ∧ extendCount (groupCount s 0 false 0) 0 = 0 ∧ findInst s 0 false 0 0 = some (inst none) ∧ hdrAgrees collH collH = true) ∧
    (let fr := came (.coll { collH with cseq := 0 } 0 0 [1, 2]) .lc
     let s := inbox [(32, fr)] (setGroupCount 0 false 0 1 base)
     (s.part 0).inbox.find? (fun e => (match e.2.body with | .coll .. => true | _ => false) && decide (e.2 ∉ behindMark [] (s.part 0).inbox)) = some (32, fr) ∧
     findInst s 0 false 0 0 = none ∧ extendCount (groupCount s 0 false 0) 0 < groupCount s 0 false 0) ∧
    (let j := flueJ .ringstep 6
     let c := collDesc j.desc
     j.t = ringH.thread ∧ c.ring = ringH.ring ∧ c.step = ringH.step ∧ c.sSp = 0 ∧ c.dSp = 0 ∧ (base.ember 3).mismatches c.src (4 * c.len) = [] ∧
       ringIndex base (base.logicalPos 0) (ringOf base 0 false 0) = some 0 ∧ ringH.origin = (0 + 2 - ringH.step) % 2 ∧ c.len = 32) := by decide +kernel

/-! ### Witnesses: the flues -/

/-- Flue 0 enabled, in a state, with what `g` makes of it. -/
def flue (st : FlueState) (g : Flue → Flue) (s : State) : State := s.modFlue 0 fun u => g { u with en := true, state := st }
/-- The cables are seen. -/
def cabled (s : State) : State := { s with pins := { s.pins with presN := Tab.const false } }
def width8 (d : FlueDir) : FlueDir := { d with laneWidth := 8 }

theorem witness_FlueBringUp : base.inService = true ∧ (base.flues.get 0).en = false ∧ (base.flues.get 0).state ≠ .run ∧ (base.flues.get 0).state ≠ .fpx ∧
    (∀ st ∈ [FlueState.absent, .detect, .train, .align, .init, .fpx], ((flue st id base).flues.get 0).en = true) ∧
    (base.pins.presN.get 0 = true ∧ (cabled base).pins.presN.get 0 = false) ∧ (∀ k ∈ [1, 2], ((flue .train (fun u => { u with attempts := k }) (cabled base)).flues.get 0).attempts = k) ∧
    ((flue .retrain id base).flues.get 0).state = .retrain ∧ (((flue .retrain id base).modFlue 1 fun u => { u with state := .run }).flues.get (pairOf 0)).up = true ∧
    (let u := (flue .run (fun u => { u with rx := width8 u.rx, tx := width8 u.tx, rxLink := [.lane 7] }) base).flues.get 0
     u.state = .run ∧ u.rx.failed = [] ∧ u.rx.laneWidth = 8 ∧ u.rxLink = [.lane 7] ∧ u.tx.failed = [] ∧ u.tx.laneWidth = 8 ∧ u.tx.spare = none) ∧
    (let u := (flue .run (fun u => { u with rx := { width8 u.rx with failed := [3], takeover := some 7 }, rxLink := [.laneReply 7 99] }) base).flues.get 0
     u.rx.failed ≠ [] ∧ 7 ∉ u.rx.failed ∧ u.rx.takeover = some 7) ∧ (∀ k ∈ [0, 4096], k ≤ 4096) ∧
    ((flue .run (fun u => { u with rxLink := [.width 4] }) base).flues.get 0).rx.takeover = none := by decide +kernel

/-- A group of one link management frame, with its GCRC. -/
def linkGroup (l : LinkFrame) : FlitGroup :=
  let g : FlitGroup := { fseq := 0, ackSeq := 0, nflit := 1, nak := false, sof := true, eof := true, vc := .ctrl, part := 0, keyId := 0, crPool := 0, crCnt := 0
                         zeros := 0, gcrc := 0, data := l.bytes, tag := 0 }
  { g with gcrc := g.crcOf }

theorem test_linkGroup_crc (l : LinkFrame) : (linkGroup l).gcrc = (linkGroup l).crcOf := rfl

def linkItem (l : LinkFrame) : TxItem := { vc := .ctrl, part := 0, load := .link l, flits := 1, started := false }
def beat : Frame := came (.heartbeat 1 0) .ctrl
/-- The fingerprint that the peer of flue 0 should send. -/
def peerFpx : FpxBody :=
  { stepping := BitVec.ofNat 16 base.stepping, capDigest := 0, member := (cabledPeer base 0).1.member, t := tWord (cabledPeer base 0).1, flue := (cabledPeer base 0).2, salt := 9 }

theorem witness_FlueTraffic : ((flue .run id base).flues.get 0).up = true ∧ ((flue .run (fun u => { u with nakking := true }) base).flues.get 0).nakking = true ∧
    ((flue .run id base).flues.get 0).txQ = [] ∧
    (let g := linkGroup (.width 8)
     g.zeros = 0 ∧ g.nflit ≤ 8 ∧ g.data.length = 128 * g.nflit ∧ ((flue .run id base).flues.get 0).resync = false ∧
       g.fseq = BitVec.ofNat 32 ((flue .run id base).flues.get 0).rxSeq.toNat ∧ linkOf g.data = some (.width 8)) ∧
    (let s := flue .run (fun u => { u with txQ := [linkItem (.width 8)] }) base
     (s.flues.get 0).txQ = linkItem (.width 8) :: [] ∧ (s.flues.get 0).retryFlits < 2048 ∧ 1 ≤ poolFree s (s.flues.get 0) .ctrl 0) ∧
    (let s := flue .run (fun u => { u with txQ := [frameItem 0 beat], subs := u.subs.upd 0 fun c => { c with told := true } }) base
     (s.flues.get 0).txQ = [frameItem 0 beat] ∧ (frameItem 0 beat).flits ≤ 8 ∧ ((s.flues.get 0).subs.get 0).told = true ∧
       (s.flues.get 0).retryFlits + (frameItem 0 beat).flits ≤ 2048 ∧ (frameItem 0 beat).flits ≤ poolFree s (s.flues.get 0) .ctrl 0) ∧
    (let s := flue .fpx (fun u => { u with rxLink := [.fpx peerFpx] }) base
     (s.flues.get 0).state = .fpx ∧ (s.flues.get 0).rxLink = [.fpx peerFpx] ∧ (s.flues.get 0).quarCause = 0 ∧
       ∀ n ∈ List.range 4, ((s.flues.get 0).subs.get n).openTx < 2 ^ 32 - 1) ∧
    ((flue .quar id base).flues.get 0).state = .quar := by decide +kernel

/-! ### Witnesses: frames that have arrived -/

/-- Partition 0 with one frame that came by flue 0. -/
def got (b : FrameBody) (vc : Vc) (s : State) : State := inbox [(0, came b vc)] s

/-- The frame is the oldest of its kind and nothing holds it back. -/
def due (b : FrameBody) (vc : Vc) (kind : FrameBody → Bool) (s : State) : Bool :=
  decide (((got b vc s).part 0).inbox.find? (fun e => kind e.2.body && decide (e.2 ∉ behindMark [] ((got b vc s).part 0).inbox)) = some (0, came b vc))

/-- Partition 0 is not the job's stoker. -/
def led (s : State) : State := s.modPart 0 fun p => { p with jobStoker := { p.jobStoker with member := 3 } }
/-- Partition 0 is admitted. -/
def admitted (s : State) : State := s.modPart 0 fun p => { p with adm := { p.adm with state := .admitted } }

def agreeing : OpenBody := { ownOpen base 0 with pos := (cabledPeer base 0).1 }
/-- An FSEND to hearth peer 1 that waits for its acknowledgement. -/
def sentJob : MoverJob := { mvJob (moveD 0x1000 (4 * 2 ^ 33 + 4096) 128 0 1) false .active true with kind := .fsend 0 2 }

theorem witness_FabricFrames :
    (due (.refuse 15) .ctrl (fun b => match b with | .refuse _ => true | _ => false) base &&
      due (.openF agreeing) .ctrl (fun b => match b with | .openF _ => true | _ => false) base &&
      due (.quarReport 0 3) .ctrl (fun b => match b with | .quarReport _ _ => true | _ => false) base &&
      due (.freeze true) .ctrl (fun b => match b with | .freeze _ => true | _ => false) base &&
      due .stoker .ctrl (fun b => match b with | .stoker => true | .stokerAnswer _ _ => true | _ => false) base &&
      due (.data 3 1 0 2048 (some (2048, 2055)) 7 0 2 [1, 2, 3, 4, 5, 6, 7, 8] true) .lc (fun b => match b with | .data .. => true | _ => false) base &&
      due (.dack 3 0 1 false) .lc (fun b => match b with | .dack .. => true | _ => false) base &&
      due (.heartbeat 5 6) .ctrl (fun b => match b with | .heartbeat _ _ => true | _ => false) base) = true ∧
    expectsTraffic base 0 = true ∧ openAgrees (admitted base) 0 0 agreeing = true ∧ agreeing.role ≠ .adopted ∧ (base.flues.get 0).quarPart.getLsbD 0 = false ∧
    openAgrees base 0 0 { agreeing with epoch := 1 } = false ∧ isJobStoker base 0 = true ∧ isJobStoker (led base) 0 = false ∧
    windowHolds { base := 2048, len := 64, tally := 5 } 2048 2055 = true ∧ base.routePos 0 0 = (came (.dack 3 0 1 false) .lc).src ∧
    (base.part 0).hasLc = true ∧ nextHop base 0 (base.logicalPos 0) = .here ∧ checkFrame base 0 (came (.heartbeat 5 6) .ctrl) = .deliver ∧
    (base.part 0).rl.state ≠ .withdrawn ∧ (base.part 0).prot.halted = false := by decide +kernel

/-- Partition 0 has a job with a span of 16 units. -/
def spanned (s : State) : State := s.modPart 0 fun p => { p with
  ctxs := p.ctxs.set 0 { gen := 0, obj := some { context false with launch := { launchL with wpMode := 1, wpUnits := 16, wpInterval := 4 } } }
  rl := { p.rl with state := .run, role := .active, mode := 1, units := 16, interval := 4 } }

/-- A standby that holds the job in a reservation. -/
def standby : State := { base with fab := { base.fab with member := 8 } }.modPart 0 fun p => { p with
  ctxs := Tab.const { gen := 0, obj := none }, runLc := none, runBe := none
  rsv := { p.rsv with state := .admitted, jobId := 0x77 }, rsvJob := some { launch := launchL, image := [], meas := 0, lineage := 0 }
  rl := { p.rl with role := .standby, state := .banked } }

theorem witness_RelightLosses :
    (due (.withdraw 2) .relight (fun b => match b with | .withdraw _ => true | _ => false) base &&
      due (.loss 8 none) .relight (fun b => match b with | .loss _ _ => true | _ => false) base &&
      due (.loss 3 none) .relight (fun b => match b with | .loss _ _ => true | _ => false) (led base) &&
      due (.rfreeze 1 4 [{ t0 := 1, t1 := 0, t2 := 0, t3 := 0, member := 2 }]) .relight (fun b => match b with | .rfreeze _ _ _ => true | _ => false) (spanned base) &&
      due (.rfreeze 1 4 []) .relight (fun b => match b with | .rfreeze _ _ _ => true | _ => false) standby &&
      due (.adopt (base.logicalPos 0) (some 4) 1) .relight (fun b => match b with | .adopt _ _ _ => true | _ => false) base &&
      due (.adopt (base.logicalPos 0) (some 4) 1) .relight (fun b => match b with | .adopt _ _ _ => true | _ => false) standby) = true ∧
    0 ∉ hearthPeers base 0 ∧ 8 ∈ hearthPeers base 0 ∧ (∀ k ∈ hearthPeers base 0, k ≠ 8 → ((base.part 0).peers.get k).alive = false) ∧
    (came (.loss 3 none) .relight).src ≠ { (came (.loss 3 none) .relight).src with member := 3 } ∧ (base.part 0).stk.target = none ∧
    (base.part 0).stk.epoch.toNat < 2 ^ 32 - 1 ∧ (base.part 0).stk.losses = [] ∧ (standby.part 0).rl.role = .standby ∧ (standby.part 0).rsvJob.isSome = true ∧
    sameGroup (base.logicalPos 0) standby.ownPos = true ∧ standby.ownPos.member = 8 ∧ (lcJob (spanned base) 0).isSome = true ∧
    sameGroup { t0 := 1, t1 := 0, t2 := 0, t3 := 0, member := 2 } ((spanned base).logicalPos 0) = false ∧ ((spanned base).part 0).rl.state ≠ .rebuild := by
  decide +kernel

/-! ### Witnesses: parity, recovery, the step plan and aborts -/

/-- Lines that nothing outside has changed are good. -/
theorem test_clean_lines (s : State) (n l : Nat) (h : (s.part n).prot.ext = []) : s.badOf n l = none := by
  simp [State.badOf, State.extLine, h]

/-- A region never written has room for every line of a frame. -/
theorem test_fresh_room (s : State) (n pa len : Nat) (h : (s.part n).prot.regions = Tab.const regionFresh) (hl : (linesOf pa len).length < 2 ^ 40) :
    s.counterFull n pa len = false := by
  have z : ∀ l, s.rwcOf n l = 0 := by
    intro l; unfold State.rwcOf; rw [h]; split <;> rfl
  simp only [State.counterFull, z, Bool.and_eq_false_imp, List.any_eq_true, decide_eq_true_eq]
  rintro ⟨x, -, hx⟩; omega

def withRl (f : Relight → Relight) (s : State) : State := s.modPart 0 fun p => { p with rl := f p.rl }
/-- Stripe 0, whose P this member holds, has a frame for its new parity. -/
def folding : State := withRl (fun r => { r with parityNew := r.parityNew.set 0 (some 100) }) (spanned base)
/-- An adopted position in its rebuild. -/
def rebuilding (done : List Nat) : State := withRl (fun r => { r with state := .rebuild, role := .adopted, rebuilt := done }) (spanned base)
def copyingUnit : State := withRl (fun r => { r with copying := [(2, 100, none)] }) (spanned base)
/-- A standby whose ADOPT has come, with the job in its reservation. -/
def adopting : State := withRl (fun r => { r with state := .adopting, adopting := some (base.logicalPos 0, some 4, 1) }) standby
def frozen (s : State) : State := s.modPart 0 fun p => { p with frozen := true }
def unitF (role : Nat) : FrameBody := .wpunit 0 role 0 0 (List.replicate pageBytes 0)
def isRelight : FrameBody → Bool := fun b => match b with | .mirror _ _ _ => true | .mirrorAck _ _ => true | _ => false

theorem witness_RelightRecovery_parity : (((got (unitF 0) .relight folding).part 0).inbox = [(0, came (unitF 0) .relight)] ∧
      (got (unitF 0) .relight folding).frameFull 0 100 = false ∧ (List.replicate pageBytes (0 : Byte)).length = pageBytes ∧
      ∀ l ∈ linesOf (100 * pageBytes) pageBytes, (got (unitF 0) .relight folding).badOf 0 l = none) ∧
    (copyingUnit.frameFull 0 100 = false ∧ ∀ l, (strikeLines 0 [] copyingUnit).badOf 0 l = none) := by
  refine ⟨⟨rfl, ?_, List.length_replicate .., fun l _ => test_clean_lines _ _ _ rfl⟩, ?_, fun l => test_clean_lines _ _ _ rfl⟩
  all_goals exact test_fresh_room _ _ _ _ rfl (by simp [linesOf, pageBytes])

theorem witness_RelightRecovery :
    (let r := (folding.part 0).rl
     r.boundary = 0 ∧ r.jobSealed = false ∧ isPUnit 0 (folding.memberOf 0) = true ∧ isDataUnit r.mode 0 1 = true ∧ r.parityNew.get 0 = some 100 ∧
       r.parityGot.get 0 = []) ∧
    (let r := ((rebuilding []).part 0).rl
     r.state = .rebuild ∧ r.role = .adopted ∧ r.target = 0 ∧ 0 < r.units ∧ 0 ∉ r.rebuilt) ∧
    (copyingUnit.part 0).rl.copying = (2, 100, none) :: [] ∧
    (let s := spanned base
     (s.part 0).rl.groupSealed = false ∧ isHearthStoker s 0 = true ∧ 1 ∉ (s.part 0).rl.holders ∧ (s.part 0).rl.boundary = 0 ∧
       (s.part 0).rl.state ≠ .withdrawn ∧ (s.part 0).prot.halted = false ∧ (s.part 0).rl.role ≠ .standby ∧ (s.part 0).rl.jobSealed = false ∧
       (s.part 0).step.held = false ∧ isJobStoker (led s) 0 = false) ∧
    (due (.mirror 0 0 [1]) .relight isRelight (spanned base) && due .resume .relight (fun b => decide (b = .resume)) (led base) &&
      due (.freezeRelease 1) .relight (fun b => match b with | .freezeRelease _ => true | _ => false) (frozen (spanned base))) = true ∧
    ((frozen (spanned base)).part 0).frozen = true ∧ (adopting.part 0).rsvJob.isSome = true ∧ (adopting.part 0).rl.state = .adopting ∧ (adopting.part 0).removing = none ∧ adopting.keys.rngFail = false ∧
    (freeCtx (adopting.part 0)).isSome = true ∧
    (lowestFree adopting.frameCount 1 0 ((setAside 0 launchL adopting).part 0).mem).length = saveCount [] + mirrorCount launchL ∧
    (let s := rebuilding (List.range 16)
     (s.part 0).runLc = some 0 ∧ (∀ q, q < (s.part 0).rl.units → q ∈ (s.part 0).rl.rebuilt) ∧ keptImage s 0 = [] ∧
       liveSlots ((loadHeaps 0 (mapRecords 0 [] (startThreads 0 0 true (applyImage 0 [] s)))).part 0) = []) ∧
    ((withRl (fun r => { r with role := .standby, state := .banked }) base).part 0).rl.state = .banked ∧ base.ownPos.member ≠ 8 := by
  refine ⟨by decide +kernel, by decide +kernel, by decide +kernel, by decide +kernel, by decide +kernel, by decide +kernel, by decide +kernel, by decide +kernel,
   by decide +kernel, by decide +kernel, by decide +kernel, by decide +kernel, by decide +kernel, by decide +kernel, by decide +kernel⟩

/-- The job with its step page mapped, and the stoker's part. -/
def plan (f : Stoker → Stoker) : State := base.modPart 0 fun p => { p with
  ctxs := p.ctxs.set 0 { gen := 0, obj := some { context false with launch := { launchL with stepPage := BitVec.ofNat 64 (5 * pageBytes) } } }
  adm := { p.adm with state := .admitted, cmap := 1 }
  stk := f p.stk }
/-- The job at its boundary, with the step's record. -/
def bounded (f : Part → Part) : State := ((job live).modThread 0 0 fun h => { h with st := .wait, cond := some (.step 0) }).modPart 0 fun p =>
  f { p with step := { p.step with first := some 0, record := some rec0 } }
where rec0 : StepRec := { step := 0, epoch := 0, lineage := 0, nmb := 1, ncontrib := 1, replay := false, dropped := [], req := [] }

theorem witness_StepPlan_page (b : Bool) : (stepRecBytes bounded.rec0 b).length = 4128 ∧
    (let s := got (.steprec bounded.rec0) .ctrl (plan id)
     s.frameFull 0 7 = false ∧ ∀ l, s.badOf 0 l = none) :=
  ⟨by cases b <;> decide +kernel, test_fresh_room _ _ _ _ rfl (by simp [linesOf, pageBytes]), fun l => test_clean_lines _ _ _ rfl⟩

theorem witness_StepPlan :
    (let s := plan id
     ((lcJob s 0).map (·.launch.nmb)) = some 1 ∧ (s.part 0).rl.state ≠ .withdrawn ∧ (s.part 0).prot.halted = false ∧ isJobStoker s 0 = true ∧
       isJobStoker (led s) 0 = false ∧ (s.part 0).step.held = false ∧ (s.part 0).stk.issued = none ∧ (s.part 0).jobFrozen = false ∧
       (carriersOf s 0 0) ≠ [] ∧ (s.part 0).rl.role ≠ .standby ∧ (s.part 0).unitOf 7 = none ∧
       (s.part 0).translate (5 * pageBytes) false = .frame 7 ∧ (s.part 0).step.count = 0 ∧ ((s.part 0).sems.get 2).waiters = [] ∧
       (s.part 0).abort.request = none ∧ (s.part 0).lcStep = 0) ∧
    (let s := plan fun k => { k with measuring := true, reports := carriersOf (plan id) 0 0 }
     (s.part 0).stk.measuring = true ∧ (∀ q ∈ carriersOf s 0 0, q ∈ (s.part 0).stk.reports) ∧ ((List.range 1).filter fun j => contributes s 0 j).length = 1) ∧
    (let s := plan fun k => { k with measuring := true }
     ((List.range 1).filter fun j => contributes s 0 j).length < 1 ∧ (s.part 0).stk.epoch.toNat < 2 ^ 32 - 1) ∧
    (let s := (plan id).modPart 0 fun p => { p with step := { p.step with released := true } }
     (s.part 0).step.released = true) ∧
    (let s := bounded id
     s.inService = true ∧ allAtStep s 0 = true ∧ (s.part 0).step.held = false ∧ stepRecWait s 0 = false ∧ (s.part 0).step.first = some 0 ∧
       (s.embersWhere 0 fun m => m.retire.isSome) = [] ∧ boundaryHeld s 0 = false ∧ (lcJob s 0).map (·.launch.wpUnits) = some 0 ∧
       imageHold { s with power := { s.power with pendingMode := some (.forge, 3) } } 0 = true) := by
  refine ⟨by decide +kernel, by decide +kernel, by decide +kernel, by decide +kernel, by decide +kernel⟩

/-- Ember 5 is being copied to physical ember 60. -/
def retiring (f : Part → Part) : State := ((job live).modEmber 5 fun m => { m with copying := some 60, retire := some .host }).modPart 0 f
def verdict (b : Option LineBad) : State := live.modPart 0 fun p => { p with prot := { p.prot with verdicts := [{ line := 2 ^ 31, bad := b, exc := none }] } }

theorem witness_RetirementAndAborts : (live.inService = true ∧ ((job live).part 0).hasCtx = true ∧ (live.part 0).inRun false = false) ∧
    (let s := retiring id
     (s.ember 5).copying = some 60 ∧ (s.ember 5).retire = some .host ∧ (s.part (s.partOf 5)).step.held = false ∧
       (s.part (s.partOf 5)).step.replayHold = false) ∧
    (let s := retiring fun p => { p with step := { p.step with replayHold := true } }
     (s.part 0).step.replayHold = true ∧ (s.part 0).abort.request = none ∧ copies (finishRetire 5 s) 0 = false ∧
       copies (finishRetire 5 (s.modEmber 6 fun m => { m with copying := some 61, retire := some .parity })) 0 = true) ∧
    (((verdict none).part 0).prot.verdicts.length = 1 ∧ ((verdict (some .tag)).part 0).prot.verdicts = [{ line := 2 ^ 31, bad := some .tag, exc := none }] ∧
       ((verdict (some .tag)).part 0).prot.halted = false) := by
  refine ⟨by decide +kernel, by decide +kernel, by decide +kernel, by decide +kernel⟩

theorem witness_RetirementAndAborts_aborts : (due (.abort false 1 0 0 (base.logicalPos 0)) .ctrl (fun b => match b with | .abort false _ _ _ _ => true | _ => false) base &&
      due (.abort true 1 1 0 (base.logicalPos 0)) .ctrl (fun b => match b with | .abort true _ _ _ _ => true | _ => false) base) = true ∧
    (isJobStoker base 0 = true ∧ (base.part 0).stk.epoch = 0 ∧ (base.part 0).stk.target = none ∧ (live.part 0).epoch = 0 ∧ lcJob live 0 = none ∧
    (live.part 0).rl.state ≠ .withdrawn ∧ (live.part 0).prot.halted = false) ∧
    (let s := live.modPart 0 fun p => { p with epoch := 0xFFFFFFFF, abort := { p.abort with request := some (1, 4) } }
     (s.part 0).epoch = 0xFFFFFFFF ∧ (s.part 0).abort.request = some (1, 4)) ∧
    live.pins.pwrWarn = false ∧ live.power.aoOn = true ∧ 50 ≤ (50 : HWord).toNat ∧ (49 : HWord).toNat < 50 := by
  refine ⟨by decide +kernel, by decide +kernel, by decide +kernel, by decide +kernel, by decide +kernel, by decide +kernel, by decide +kernel⟩

/-! ### Witnesses: banked pages, the Sweep and the kindling -/

def noMeta : KsMeta := { maps := Tab.const none, gens := [], retired := [], nextSeq := 2 ^ 20 }
/-- A kindling in use: slot 40 is mapped to stripe 3. -/
def flash (f : Kindling → Kindling) (s : State) : State := { s with
  ks := f { s.ks with
    ready := true, metaFault := false, freeStripes := 100, seq := 0, data := s.ks.data.set 3 [(0, 7)]
    inForce := { noMeta with maps := noMeta.maps.set 40 (some { part := 0, kind := 0, stripe := 3, seqBase := 0, gen := 0, unit := 0, job := 0 }) } } }
/-- Page 9 of partition 0, and memory with a pool. -/
def pageAt (loc : PageLoc) (busy : PageBusy) (s : State) : State := s.modPart 0 fun p => { p with mem := { p.mem with
  pages := p.mem.pages.set 9 (some { w := true, pin := false, loc := loc, mobj := 0, busy := busy }), frames := p.mem.frames.set 50 .pool, unbankQ := [(9, 0)] } }
def keyed (s : State) : State := s.modPart 0 fun p => { p with prot := { p.prot with keys := true, nextKeys := true } }
def epochPass (last pa : Nat) : Pass :=
  { part := 0, kind := .epoch, first := 2, last := last, bm := Tab.const pa, stopped := [], skip := [] }
def passing (p : Pass) : State := { keyed live with sweep := { live.sweep with slots := live.sweep.slots.set 0 (some p) } }
def regionAt (f : Region → Region) (s : State) : State := s.modPart 0 fun p => { p with prot := { p.prot with regions := p.prot.regions.upd 4 f } }

theorem witness_BankingAndSweep_full : (pageAt (.banked freshSlot) (.unbank 50) base).frameFull 0 50 = false ∧
    (pageAt (.banked 40) (.unbank 50) (flash id base)).frameFull 0 50 = false ∧ ∀ l, (strikeLines 0 [] (passing (epochPass 3 (2 * pageBytes)))).badOf 0 l = none := by
  refine ⟨?_, ?_, fun l => test_clean_lines _ _ _ rfl⟩
  all_goals exact test_fresh_room _ _ _ _ rfl (by simp [linesOf, pageBytes])

theorem witness_BankingAndSweep :
    (let s := pageAt (.frame 8) (.bankOut 40) (flash id base)
     ((s.part 0).mem.pages.get 9).map (·.busy) = some (.bankOut 40) ∧ s.ks.writes = [] ∧ (s.ks.inForce.maps.get 40).isSome = true) ∧
    (let s := pageAt (.banked freshSlot) .idle base
     (s.part 0).mem.unbankQ = (9, 0) :: [] ∧ (s.part 0).mem.poolFrames = 50 :: [] ∧ unbanksOut s < 64 ∧ s.inService = true ∧ unbankTurn s 0 = true) ∧
    (let s := pageAt (.banked 40) (.unbank 50) (flash id base)
     (slotMap s 40).map (·.stripe) = some 3 ∧ badSector (strikeSectors [] s) 0 (fun x => decide (x.stripe = 3)) = none ∧ (s.part 0).prot.halted = false) ∧
    (let s := keyed live
     (s.part 0).prot.keys = true ∧ s.sweep.queued.length < slotsLeft s ∧ 3 < s.frameCount ∧ overlapsPass s 0 2 3 = false ∧
       (s.part 0).prot.regions.items = [] ∧ s.passes 0 = [] ∧ (s.part 0).prot.nextKeys = true) ∧
    (let s := regionAt (fun r => { r with rwc := r.rwc.set 1 rwcThreshold }) (keyed live)
     rwcThreshold ≤ ((s.part 0).prot.regions.get 4).rwc.get 1 ∧ ((s.part 0).prot.regions.get 4).retired = false ∧
       ((s.part 0).prot.regions.get 4).epoch ≠ lastEpoch ∧ overlapsPass s 0 4 4 = false ∧ (0, 4) ∉ s.sweep.queued) ∧
    (let s := regionAt (fun r => { r with epoch := lastEpoch, rwc := r.rwc.set 1 rwcThreshold }) (keyed live)
     ((s.part 0).prot.regions.get 4).epoch = lastEpoch) ∧
    (let s := { keyed live with sweep := { live.sweep with queued := [(0, 4)] } }
     s.sweep.queued = (0, 4) :: [] ∧ overlapsPass s 0 4 4 = false) ∧
    (let q := epochPass 3 (2 * pageBytes)
     let s := passing q
     s.sweep.slots.get 0 = some q ∧ s.inService = true ∧ (s.part 0).prot.halted = false ∧ 1 < s.mdPerPart ∧ q.bm.get 1 < (q.last + 1) * pageBytes ∧
       passTurn s 1 0 = true ∧ ({ q with bm := q.bm.set 1 (boundaryFrom s [] 1 (2 * pageBytes + 2048)) } : Pass).low s.mdPerPart < (q.last + 1) * pageBytes ∧
       (s.part 0).inRun false = false) ∧
    (let q := { epochPass 2 (3 * pageBytes) with bm := (Tab.const (3 * pageBytes)).set 1 (3 * pageBytes - 2048) }
     let s := passing q
     passTurn s 1 0 = true ∧ (q.last + 1) * pageBytes ≤ ({ q with bm := q.bm.set 1 (boundaryFrom s [] 1 (3 * pageBytes)) } : Pass).low s.mdPerPart) := by
  refine ⟨by decide +kernel, by decide +kernel, by decide +kernel, by decide +kernel, by decide +kernel, by decide +kernel, by decide +kernel, by decide +kernel,
    by decide +kernel⟩

def slotWrite (bs : List Byte) : SlotWrite := { part := 0, kind := 0, slot := 41, gen := 0, unit := 0, job := 0, src := .bytes bs }

theorem witness_KindlingStore_fill : 75 ≤ jfill (flash (fun k => { k with sectors := List.replicate 393216 [] }) live) := by
  have h (n : Nat) : jfill (flash (fun k => { k with sectors := List.replicate n [] }) live) = n * 100 / journalSectors :=
    congrArg (fun m => m * 100 / journalSectors) List.length_replicate
  rw [h]; decide +kernel

theorem witness_KindlingStore :
    (let s := flash (fun k => { k with writes := [slotWrite [1, 2, 3]] }) live
     ksUp s = true ∧ s.ks.writes.find? (fun w => decide (w.slot = 41)) = some (slotWrite [1, 2, 3]) ∧ (slotWrite [1, 2, 3]).kind ≠ 1 ∧ stripeFree s 15258788 = true ∧
       seqReady s = true ∧ s.ks.freeStripes ≠ 1) ∧
    (5 ∈ (flash (fun k => { k with erasable := [5] }) live).ks.erasable ∧
      (let s := flash (fun k => { k with pend := [.retire 9 1] }) live
       s.ks.pend ≠ [] ∧ s.ks.sectors.length < journalSectors) ∧
      (let s := flash (fun k => { k with compacting := true, cut := some 0 }) live
       s.ks.compacting = true ∧ s.ks.cut = some 0) ∧ (flash id live).ks.compacting = false) ∧
    (let s := flash (fun k => { k with ready := false, rootGood := true }) live
     s.power.light = .ready ∧ s.power.flashOn = true ∧ s.ks.ready = false ∧ s.ks.metaFault = false ∧ s.ks.rootGood = true) ∧
    (flash (fun k => { k with ready := false, rootGood := false }) live).ks.rootGood = false := by
  refine ⟨by decide +kernel, by decide +kernel, by decide +kernel, by decide +kernel⟩

/-! ### Witnesses: checkpoints, keys, the life cycle and the debug port -/

def withCk (f : Ckpt → Ckpt) (g : Stoker → Stoker) (s : State) : State := s.modPart 0 fun p => { p with ck := f p.ck, stk := g p.stk }
/-- Partition 0 restores its LC context. -/
def restoringJob (f : Ckpt → Ckpt) : State := withCk (fun k => f { k with state := .restore }) id (base.modPart 0 fun p => { p with
  ctxs := p.ctxs.set 0 { gen := 0, obj := some { context false with st := .loading } } })
def shardRec0 : ShardRec := { pos := base.logicalPos 0, gen := 1, step := 4, bytes := [], sign := [] }
def exportJob0 : ExportJob :=
  { gen := 1, rule := 0, step := 4, dest := 0x1000, ring := .admin, busy := { opcode := 0x11, flags := 0, tag := 1, event := 0, a := 0, b := 0 } }

theorem witness_Checkpoints :
    (hasSpan (spanned base) 0 = true ∧ (base.part 0).rl.state ≠ .withdrawn ∧ (base.part 0).prot.halted = false) ∧
    (due (.ckrepRequest 2) .ctrl (fun b => match b with | .ckrepRequest _ => true | _ => false) base &&
      due (.ckptAnnounce 1 4 2) .ctrl (fun b => match b with | .ckptAnnounce _ _ _ => true | _ => false) (flash id base) &&
      due (.ckrepShard shardRec0) .ctrl (fun b => match b with | .ckrepShard _ => true | _ => false) base &&
      due (.ckptManifest 1 4 [1] [2]) .ctrl (fun b => match b with | .ckptManifest _ _ _ _ => true | _ => false) base &&
      due (.ckrepCommitted 1) .ctrl (fun b => match b with | .ckrepCommitted _ => true | _ => false) base &&
      due (.ckrepAvail []) .ctrl (fun b => match b with | .ckrepAvail _ => true | _ => false) base &&
      due (.ckptRestore 1 4 [] []) .ctrl (fun b => match b with | .ckptRestore _ _ _ _ => true | _ => false) (restoringJob id)) = true ∧
    (isJobStoker base 0 = true ∧ isJobStoker (led base) 0 = false ∧
      (let s := withCk id (fun k => { k with ckOpen := true, ckGen := 1 }) base
       (s.part 0).stk.ckOpen = true ∧ (s.part 0).stk.ckGen = 1 ∧ (s.part 0).stk.shards = [] ∧ (s.part 0).stk.committed = [] ∧
         ∃ q ∈ s.jobPositions, q ≠ (came (.ckrepCommitted 1) .ctrl).src)) ∧
    (ksUp (flash id base) = true ∧ base.keys.rngFail = false ∧ (base.part 0).exporting = none) ∧
    (let s := withCk (fun k => { k with state := .write, gen := 1 }) id (flash id base)
     (s.part 0).ck.state = .write ∧ shardMapped s 0 = true ∧ seqReady s = true ∧ stripeFree s 8 = true ∧ (lowestSlot s 0).isSome = true ∧
       badSector s 0 (genMet s 0 (some 1) [1]) = none) ∧
    (badSector base 0 (genMet base 0 none [3]) = none ∧ (∃ q ∈ base.jobPositions, ∀ e ∈ [((came (.ckrepAvail []) .ctrl).src, ([] : List AvailEntry))], e.1 ≠ q) ∧
      (let s := withCk id (fun k => { k with avail := base.jobPositions.map (·, []) }) base
       ∀ q ∈ s.jobPositions, ∃ e ∈ (s.part 0).stk.avail, e.1 = q)) ∧
    ((restoring (restoringJob id) 0).isSome = true ∧
      (let s := restoringJob fun k => { k with choice := some (1, 4, []) }
       (restoring s 0).isSome = true ∧ (s.part 0).ck.choice = some (1, 4, []) ∧ s.logicalPos 0 ∉ (s.part 0).rl.lostSet ∧
         manifestEntry [] (s.logicalPos 0) = none ∧ badSector (strikeSectors [] s) 0 (genMet s 0 (some 1) [1, 2]) = none)) := by
  refine ⟨by decide +kernel, by decide +kernel, by decide +kernel, by decide +kernel, by decide +kernel, by decide +kernel, by decide +kernel⟩

/-- The other hypotheses on a manifest, where its signature and its own entry are good, which rest on the signature scheme and on SHAKE256. -/
theorem witness_Checkpoints_manifest (h : manifestSigned (flash id base) [1] [2] = true) (g : entryGood (flash id base) 0 1 [1] = true) :
    (let s := withCk (fun k => { k with state := .waitManifest, gen := 1 }) id (flash id base)
     (s.part 0).ck.state = .waitManifest ∧ (s.part 0).ck.gen = 1 ∧ ksUp s = true ∧ s.ks.seq + 512 * (slotPieces 1282 [1, 2]).length ≤ s.ks.inForce.nextSeq ∧
       (programPieces 0 3 1 0 0 (slotPieces 1282 [1, 2]) [8] s).isSome = true) ∧
    manifestSigned (flash id base) [1] [2] = true ∧ entryGood (flash id base) 0 1 [1] = true :=
  ⟨by decide +kernel, h, g⟩

/-- The other hypotheses on an export, where the generation's digest is that of its record. -/
theorem witness_Checkpoints_export (h : shardDigest [] = digestAt (ownShard base 0 1) 88) :
    (let s := base.modPart 0 fun p => { p with exporting := some exportJob0 }
     (s.part 0).exporting = some exportJob0 ∧ badSector (strikeSectors [] s) 0 (genMet s 0 (some 1) [1, 2]) = none ∧ shardUnits s 0 1 0 = [] ∧
       s.keys.rngFail = false ∧ (s.draw.2.keys.rngFail = false)) ∧ shardDigest [] = digestAt (ownShard base 0 1) 88 :=
  ⟨by decide +kernel, h⟩

def admittedLive : State := live.modPart 0 fun p => { p with adm := { p.adm with state := .admitted } }
def signing (fn : Option FnId) : State := { live with keys := { live.keys with idReady := true, queue := [{ fn := fn, dest := 0x1000, bytes := [1] }] } }
def adminBusy (s : State) : State := { s with host := { s.host with fns := s.host.fns.upd 0 fun g => { g with admin := { g.admin with busy := some exportJob0.busy } } } }

theorem witness_Keys : (live.keys.rngFail = false ∧ live.power.rails = true ∧ live.inService = true ∧ live.keys.idReady = false ∧ live.lc.lcState ≠ .returned) ∧
    (isPf0 (.pf 0) = true ∧ reaches live (.pf 0) true = true ∧ (admittedLive.part 0).adm.state = .admitted ∧ keyPassRuns admittedLive 0 = false ∧
      (admittedLive.part 0).prot.nextKeys = false ∧ (live.part 0).adm.state ≠ .admitted) ∧
    ((signing none).keys.queue = { fn := none, dest := 0x1000, bytes := [1] } :: [] ∧ (signing none).keys.idReady = true ∧
      (signing (some 0)).keys.rngFail = false ∧
      (((adminBusy (signing (some 0))).ring 0 .admin).bind (·.busy)) = some exportJob0.busy) := by
  refine ⟨by decide +kernel, by decide +kernel, by decide +kernel⟩

def lcWith (f : LifeCycle → LifeCycle) (s : State) : State := { s with lc := f s.lc }
def lighting (st : LightState) : State := { live with power := { live.power with light := st } }

theorem witness_LifeCycle (h : tokenGood (lcWith (fun l => { l with lcState := .test, holdupMs := 50, target := 2 }) live) 2 = true) :
    lcCheck (lcWith (fun l => { l with lcState := .test, holdupMs := 50, target := 2 }) live) 2 = 0 ∧
    (lcCheck (lcWith (fun l => { l with target := 15 }) live) 15 = 2 ∧ lcCheck (lcWith (fun l => { l with target := 1, tokenFail := 16 }) live) 1 = 7 ∧
      lcTargetOf 2 = some .provisioned ∧ privileged (.pf 0) = true ∧ reaches live (.pf 0) true = true) ∧
    (let s := lcWith (fun l => { l with burns := [{ word := 0, bits := 0xFF }], fromTo := some (.raw, .test) }) live
     s.lc.burns = { word := 0, bits := 0xFF } :: [] ∧ s.power.aoOn = true ∧ s.lc.fromTo = some (.raw, .test)) ∧
    (let s := lcWith (fun l => { l with erasing := true }) live
     s.lc.erasing = true ∧ s.power.flashOn = true ∧ s.inService = true) ∧
    (lightingIn (lighting .otpRead) .otpRead = true ∧ live.lc.burns = [] ∧ wipeLeft live .raw = [] ∧ wipeLeft live .test = [] ∧
      wipeLeft live .scrap ≠ [] ∧ decodeLc 0 0xFF = .scrap ∧ decodeLc 0 1 = .invalid) := by
  refine ⟨?_, by decide +kernel, by decide +kernel, by decide +kernel, by decide +kernel⟩
  unfold lcCheck; rw [h]; decide +kernel

/-- The debug port with a session that gives every right. -/
def ported (s : State) : State :=
  { s with dbg := { s.dbg with session := some { noCert := false, part := Tab.const 0x1FF, modRights := 7, notAfter := 10 } }, keys := { s.keys with idReady := true } }
def halted8 (s : State) : State := s.modThread 3 1 fun h => { h with st := .halt }
def req (op : Byte) (arg0 : DWord) (arg1 : Word) (bs : List Byte) : SdpFrame := { op := op, part := 0, arg0 := arg0, arg1 := arg1, payload := bs, crcOk := true }

theorem witness_DebugPort :
    (let s := ported live
     s.inService = true ∧ (req 1 0 0 []).crcOk = true ∧ s.hasPart 0 = true ∧ live.dbg.session = none ∧ s.dbg.session.isSome = true ∧ s.keys.idReady = true ∧
       certGood s [] none = false) ∧
    (let s := lcWith (fun l => { l with lcState := .provisioned }) (ported live)
     noCertState s = false ∧ sdpRight s (req 0x10 3 2 []) 0 = true ∧ sdpRight s (req 0x20 3 2 []) 1 = true ∧ bitAt (moduleRights s) 0 = true ∧
       bitAt (moduleRights s) 1 = true ∧ bitAt (moduleRights s) 2 = true ∧ Machine.SdpFrame.memRight (req 0x31 0 1 []) s true = true ∧
       Machine.SdpFrame.runForm (req 0x10 3 2 []) s = true ∧ Machine.SdpFrame.regForm (req 0x20 (0x10003 + 2 ^ 24) 0 []) s false = true ∧
       Machine.SdpFrame.regForm (req 0x21 (0x10003 + 2 ^ 24) 0 (List.replicate 8 0)) s true = true ∧ Machine.SdpFrame.memForm (req 0x30 (3 * 2 ^ 33 + 1024) 1 (List.replicate 8 0)) s = true ∧
       Machine.SdpFrame.memForm (req 0x30 4096 2 (List.replicate 8 0)) s = true ∧ Machine.SdpFrame.csrForm (req 0x40 0x2000 0 []) false = true ∧
       Machine.SdpFrame.csrForm (req 0x41 0x2000 0 [0, 0, 0, 0]) true = true ∧ 4096 + 8 ≤ s.shelfBytes ∧ shelfAwake s 0 4096 8 = true) ∧
    ((live.thread 3 1).st ≠ .halt ∧ ((halted8 live).thread 3 1).st = .halt ∧ (live.ember 3).mismatches 1024 8 = [] ∧ (base.ember 3).hitsCode 0 8 = true ∧
      (live.ember 3).hitsCode 1024 8 = false ∧ popCount (2 : Word) = 1 ∧ sdpEmber live (req 0x13 (5 * 2 ^ 16 + 3) 2 []) 3 = true) ∧
    (let s := lcWith (fun l => { l with lcState := .provisioned }) { ported live with soot := { live.soot with minutes := 11 } }
     s.dbg.session.map (·.notAfter) = some 10 ∧ (10 : Word).toNat < s.soot.minutes.toNat ∧ noCertState s = false) := by
  refine ⟨by decide +kernel, by decide +kernel, by decide +kernel, by decide +kernel⟩

/-! ### Witnesses: lighting, power, health, the dampers, the soot record and issue -/

def powered (f : Power → Power) (s : State) : State := { s with power := f s.power }
def lightingWith (st : LightState) (f : Power → Power) : State := powered f (lighting st)

theorem witness_LightingSequence :
    (let s := powered (fun p => { p with inRange := 10000 }) State.reset
     s.power.powerGood = false ∧ 10000 ≤ s.power.inRange ∧ s.power.tripped = false ∧ s.power.ov = false) ∧
    (lightingIn (lighting .aoUp) .aoUp = true ∧ lightingIn (lighting .repair) .repair = true ∧ live.soot.meter.length < 2 ^ 21 ∧ live.soot.pages = []) ∧
    (let s := lightingWith .selfTest fun p => { p with hsBist := false, cdBist := false }
     lightingIn s .selfTest = true ∧ s.power.hsBist = false ∧ s.power.cdBist = false ∧ recordedShort s = false ∧ logicalAt s 399 0 = some 25536 ∧
       pickSpare s 399 0 = some 8 ∧ logicalAt s 399 71 = none ∧ 71 % 9 = 8) ∧
    (lightingIn (lighting .selfTest) .selfTest = true ∧ (lighting .selfTest).power.hsBist = true) ∧
    (let s := lightingWith .hbmTrain fun p => { p with hbmTrained := false }
     lightingIn s .hbmTrain = true ∧ s.power.hbmTrained = false ∧ (lighting .hbmTrain).power.hbmTrained = true ∧ (lighting .hbmTrain).power.cdBist = true ∧
       noCertState s = true ∧ s.lc.lcPending = false) := by
  refine ⟨by decide +kernel, by decide +kernel, by decide +kernel, by decide +kernel, by decide +kernel⟩

/-- The retirement of ember 25,599 to place 71, by the host, as the record holds it. -/
def retiredEntry : Digest := BitVec.ofNat 256 (0x40 * 2 ^ 56 + 25599 * 2 ^ 144 + 71 * 2 ^ 168 + 3 * 2 ^ 176)

theorem witness_LightingSequence_entry : field retiredEntry 63 56 = 0x40 ∧ field retiredEntry 159 144 < 25600 ∧ field retiredEntry 175 168 < 72 ∧
    field retiredEntry 183 176 < 4 ∧ shortEntry retiredEntry = false := by decide +kernel

theorem witness_LightingSequence_repair : ((repairWords live).all fun w => decide (w = 0)) = true := by decide +kernel

theorem witness_LightingFailures :
    (let s := lightingWith .selfTest fun p => { p with cdBist := false, usedSpares := Tab.const ((List.range 8).map fun r => 9 * r + 8) }
     lightingIn s .selfTest = true ∧ s.power.cdBist = false ∧ logicalAt s 0 5 = some 5 ∧ pickSpare s 0 5 = none) ∧
    ((lighting .hbmTrain).power.powerGood = true ∧ (lighting .hbmTrain).power.rails = true ∧ LightState.hbmTrain ≠ .ready ∧ LightState.hbmTrain ≠ .lightFail) ∧
    (∀ st ∈ [LightState.otpRead, .repair, .selfTest, .hbmTrain], lightingIn (lighting st) st = true) ∧
    ((restoringJob id).inService = true ∧ recovering (restoringJob id) 0 = true ∧ ((restoringJob id).part 0).prot.halted = false) := by
  refine ⟨by decide +kernel, by decide +kernel, by decide +kernel, by decide +kernel⟩

theorem test_cool_sensors (k i : Nat) : i ∉ hotSensors (List.replicate k 104) := by
  simp only [hotSensors, List.length_replicate, List.mem_filter, List.mem_range, decide_eq_true_eq, not_and]
  intro h; simp [h]

theorem test_hot_sensor (k : Nat) : 0 ∈ hotSensors (105 :: List.replicate k 104) := by simp [hotSensors]

theorem witness_HeatAndPower_samples : (∀ i, i ∉ hotSensors (List.replicate 468 104)) ∧ 0 ∈ hotSensors (105 :: List.replicate 467 104) :=
  ⟨test_cool_sensors 468, test_hot_sensor 467⟩

theorem witness_HeatAndPower :
    ((List.replicate 468 (104 : Byte)).length = 468 ∧ 0 ∈ (powered (fun p => { p with hotLast := [0] }) live).power.hotLast ∧ (lighting .selfTest).inService = false ∧ live.power.tripped = false) ∧
    (live.power.aoOn = true ∧ live.power.rails = true ∧ 4 ≤ live.power.issue ∧ live.power.issue ≤ 16 ∧ live.inService = true) ∧
    (grateQuiet live 0 = true ∧ grateQuiet (live.modThread 3 1 fun h => { h with st := .run }) 0 = false) := by
  refine ⟨by decide +kernel, by decide +kernel, by decide +kernel⟩

theorem witness_InputAndHoldup : ((2199 : BitVec 12).toNat < 2200 ∧ (2200 : BitVec 12).toNat ≤ 2750 ∧ 2750 < (2751 : BitVec 12).toNat ∧ (1999 : BitVec 12).toNat < 2000) ∧
    (let s := powered (fun p => { p with lowRun := 4, highRun := 4 }) live
     s.power.lowRun = 4 ∧ s.power.highRun = 4 ∧ s.power.powerGood = true ∧ s.power.ov = false ∧ live.power.lowRun < 4) ∧
    (let s := powered (fun p => { p with ov := true, powerGood := false, vin := 2299 }) live
     s.power.ov = true ∧ s.power.powerGood = false ∧ inputInRange s.power.vin.toNat = false ∧ s.power.aoOn = true) ∧
    (∀ v ∈ [2300, 2600], inputInRange v = true) ∧ inputInRange 2601 = false ∧ inputInRange 2299 = false := by
  refine ⟨by decide +kernel, by decide +kernel, by decide +kernel, by decide +kernel, by decide +kernel⟩

theorem witness_HealthAndVoting : live.power.rails = true ∧ live.inService = true ∧ live.health.sparesWas = false ∧
    (let s := powered (fun p => { p with usedSpares := p.usedSpares.set 7 [8, 17, 26, 35, 44, 53] }) live
     sparesLow { s with health := { s.health with curSpare := s.health.spareEmb.toNat } } = true) ∧ live.hasPart 0 = true ∧
    { live.common with voting := true }.voting = true := by decide +kernel

/-- A damper image with entries. -/
def image (i : Nat) (armed : Bool) (es : List DamperEntry) (s : State) : State :=
  { s with common := { s.common with images := s.common.images.set i { entries := es, overfull := false, armed := armed } } }
def beMaskEntry : DamperEntry := { addr := 0x100008, bcast := false, value := 0xF0 }

theorem witness_DamperImages :
    (reaches live (.pf 0) true = true ∧ mayPrivileged live (.pf 0) = true ∧ mailboxValue (.pf 0) 0x7F 0 live = none ∧
      (mailboxValue (.pf 0) 0x01 0 live).isSome = true ∧ mayRead live (.pf 0) (.step 0) 0 = true ∧ mayRead live (.pf 2) .key 0 = false) ∧
    (let s := image 0 false [beMaskEntry] live
     (s.common.images.get 0).armed = false ∧ (s.common.images.get 0).entries.length < 256 ∧ entryValid s 0 beMaskEntry = true ∧ emberReg beMaskEntry.addr ≠ 0x00C ∧
       entryValid s 1 beMaskEntry = false ∧ (s.common.images.get 1).entries = []) ∧
    (let s := image 0 true [beMaskEntry] live
     (s.common.images.get 0).armed = true ∧ s.inService = true ∧ partQuiet s 0 = true ∧ moduleQuiet s = true) ∧
    ((image 4 true [] live).common.images.get 4).armed = true ∧
    (let s := powered (fun p => { p with stageMode := 1, stageMask := 0x00FF00FF }) (image 4 false [] live)
     popCount s.power.stageMask ≤ 16 ∧ draughtChange s = some (.forge, 0x00FF00FF)) ∧
    (let s := powered (fun p => { p with pendingMode := some (.forge, 3), changing := some (.forge, 3), relightStage := some (.full, 0) }) live
     s.power.pendingMode = some (.forge, 3) ∧ s.power.changing = some (.forge, 3) ∧ s.power.relightStage = some (.full, 0) ∧ live.power.changing = none) := by
  refine ⟨by decide +kernel, by decide +kernel, by decide +kernel, by decide +kernel, by decide +kernel, by decide +kernel⟩

def sootEvent : SootEvent := { minutes := 5, pcycle := 1, typ := 0x40, part := 0, payload := 9 }
def sooted : State := powered (fun p => { p with pastRepair := true }) { live with soot := { live.soot with queue := [sootEvent] } }

theorem witness_SootAndCheckValues : sooted.soot.queue = sootEvent :: [] ∧ kindlingRuns sooted = true ∧ sooted.soot.pages.length < 16384 ∧ live.soot.queue = [] ∧
    live.power.powerGood = true ∧ live.soot.meter.length < 2 ^ 21 ∧ 1 ≤ ({ sooted.lc with holdupMs := 1 } : LifeCycle).holdupMs.toNat ∧
    mayCv live (.pf 0) 7 = true ∧ mayCv live (.pf 1) 2 = false ∧
    (let v : Word := 0
     bitAt v 30 = false ∧ bitAt v 31 = false ∧ BitVec.ofNat 2 (field v 1 0) = (live.cv.get 0).poly ∧ (live.cv.get 0).run.toNat < 2 ^ cvWidth 0) ∧
    bitAt (0x40000000 : Word) 30 = true ∧ bitAt (0x80000000 : Word) 31 = true := by decide +kernel

/-- The record's last page, and a meter that is full. -/
theorem witness_SootAndCheckValues_full : (List.replicate 16383 (SootPage.torn)).length = 16383 ∧
    2 ^ 21 ≤ (List.replicate (2 ^ 21) ({ minutes := 0, pcycle := 0 } : MeterRec)).length :=
  ⟨List.length_replicate, le_of_eq List.length_replicate.symm⟩

def stops (f : Thread → Thread) (w : DWord) : State := (at8 w base).modThread 3 1 f
def broken (w : DWord) : State := (at8 w base).modEmber 3 fun m => { m with bkpts := m.bkpts.set 2 { pc := 8, mask := 2 } }

theorem witness_IssueAndGuard : (issues base 1 0 (fld 9 1 2) [9, 1, 2] [] && issues base 7 3 (fim 9 10 0) [9, 10] [] && issues base 0x0A 3 (fim 9 13 0) [9, 13] [] &&
      issues base 0x20 0 (fld 4 0 0) [] [] && issues base 0x39 3 (fld 7 0 0) [] []) = true ∧
    (let w := insnWord 1 0 (fld 9 1 2)
     ready (at8 w base) site w [9, 1, 2] [0] = true ∧ inTurn (at8 w base) site = true ∧ atBreakpoint (broken w) site = true ∧ atBreakpoint (at8 w base) site = false ∧
       (thrAt (at8 w base) site).stepOne = false ∧ ready base site w [9, 1, 2] [0] = false) ∧
    (let f := fld 9 1 2 5
     decide (fLow f = 0) = false ∧ ready (at8 (insnWord 1 0 f) base) site (insnWord 1 0 f) [9, 1, 2] [0] = true) ∧
    (let f := fld 9 1 2 0 2
     (thrAt (at8 (insnWord 1 0 f) base) site).pReg (fGp f) = fGn f ∨ (thrAt (at8 (insnWord 1 0 f) base) site).pReg (fGp f) ≠ fGn f) := by
  refine ⟨by decide +kernel, by decide +kernel, by decide +kernel, by decide +kernel⟩

/-! ### Witnesses: the host -/

/-- The admin ring of function 1, or queue 0 of context 0, has one command: this entry. -/
def hosted (s : State) : State :=
  { s with host := { s.host with fns := s.host.fns.upd 1 fun g => { g with adminEn := true, admin := { g.admin with k := 4, tail := 1 } } } }
def ring1 : Ring := { base := 0, k := 4, headAddr := 0x2000, head := 0, tail := 1, fetched := [], busy := none }
def queued (s : State) : State := (hosted s).modPart 0 fun p => { p with
  ctxs := p.ctxs.set 0 { gen := 0, obj := some { context false with queues := (context false).queues.set 0 (some ring1) } } }
def cmdOf (ring : RingId) (op : Nat) (args : List (Nat × Nat)) (data : List Byte) : HostCmd :=
  { fn := 1, ring := ring, entry := BitVec.ofNat 512 (args.foldl (fun a x => a + x.2 * 2 ^ (8 * x.1)) (op + 7 * 2 ^ 32)), data := data }
def admin (op : Nat) (args : List (Nat × Nat)) (data : List Byte := []) : HostCmd := cmdOf .admin op args data
def queue (op : Nat) (args : List (Nat × Nat)) (data : List Byte := []) : HostCmd := cmdOf (.queue 0 0) op args data

/-- The ring begins the command's entry, which asks for no event. -/
def begins (c : HostCmd) (s : State) (used : List (Nat × Nat)) : Bool :=
  decide ((frontEntry c s).map (·.1) = some c.entry) && opDefined c.fn.val c.ring (entryAt c.entry 0 1) && !ringLost s c.fn.val c.ring &&
    zeroFields c.entry used && decide (entryAt c.entry 1 1 < 2)

theorem test_begins (c : HostCmd) (s : State) (used : List (Nat × Nat)) (h : begins c s used = true) : Takes c s (entryAt c.entry 0 1) used c.entry := by
  simp only [begins, Bool.and_eq_true, decide_eq_true_eq, Bool.not_eq_true', Option.map_eq_some_iff] at h
  obtain ⟨⟨⟨⟨⟨⟨e, s1⟩, h1, rfl⟩, h2⟩, h3⟩, h4⟩, h5⟩ := h
  exact ⟨⟨s1, h1⟩, rfl, h2, h3, h4, .inl h5⟩

theorem witness_HostCommandOrder : (begins (admin 0x0D [(16, 1)]) (hosted base) [(16, 1), (18, 14)] && begins (queue 0x41 [(20, 5)]) (queued base) [(16, 8)]) = true ∧
    (frontEntry (admin 0x0D []) base).isNone = true ∧ opDefined 1 .admin 0x7F = false ∧ 4 ≤ entryAt (admin 0x0D [(1, 4)]).entry 1 1 ∧
    entryAt (admin 0x0D [(2, 1)]).entry 2 2 ≠ 0 ∧
    ringLost ((queued base).modPart 0 fun p => { p with ctxs := p.ctxs.set 0 { gen := 0, obj := some { context false with st := .lost } } }) 1 (.queue 0 0) = true := by
  decide +kernel

theorem witness_HostContexts :
    (begins (admin 0x03 [(24, 1)] [0]) (hosted live) [(16, 24)] && begins (admin 0x04 [(16, 0)]) (hosted base) [(16, 4)] &&
      begins (admin 0x05 [(21, 4), (24, 4096)]) (hosted base) [(16, 6), (24, 16)] && begins (admin 0x06 []) (queued base) [(16, 5)] &&
      begins (admin 0x0F [(16, 9)]) (hosted base) [(16, 4)]) = true ∧
    ((live.part 0).takesCtx = true ∧ (live.part 0).adm.state ≠ .admitted ∧ (live.part 0).rsv.state ≠ .admitted ∧ (admittedLive.part 0).adm.state = .admitted ∧
      firstUsable (live.part 0).ctxs ctxGenMax 1024 = some 0 ∧ (recordBad admittedLive 0 [0]).isSome = true) ∧
    (((base.part 0).ctxOf 0 0).map (·.st) = some .run ∧ (((queued base).part 0).ctxOf 0 0).map (fun x => (x.queues.get 0).isSome) = some true ∧
      ((base.part 0).ctxOf 0 0).map (fun x => (x.queues.get 0).isSome) = some false) := by
  refine ⟨by decide +kernel, by decide +kernel, by decide +kernel⟩

def objects (freeing : Bool) (s : State) : State := s.modPart 0 fun p => { p with
  mobjs := p.mobjs.set 3 { gen := 0, obj := some { pages := 4, owner := 9, freeing := freeing } }
  evts := p.evts.set 2 { gen := 0, obj := some { value := 5, sat := false, be := false, vector := 1, owner := 9, notify := 9, notified := false, ownerLost := false } } }

theorem witness_HostMemoryObjects :
    (begins (admin 0x07 [(16, 4)]) (hosted base) [(16, 8)] && begins (admin 0x08 [(16, 3)]) (hosted (objects false base)) [(16, 4)] &&
      begins (admin 0x09 [(16, 3), (24, 1), (28, 20), (32, 12 * pageBytes), (40, 1)]) (hosted (objects false base)) [(16, 25)] &&
      begins (admin 0x0A [(16, 5 * pageBytes), (24, 1)]) (hosted base) [(16, 12)] && begins (admin 0x0C [(16, 20), (20, 1)]) (hosted base) [(16, 9)]) = true ∧
    (firstUsable (base.part 0).mobjs mobjGenMax (2 ^ 20) = some 0 ∧ (((objects false base).part 0).mobj 3).map (·.freeing) = some false ∧ (base.part 0).mobj 3 = none ∧
      mobjNamed (objects true base) 0 3 = false ∧ ((objects true base).part 0).pagesOf 3 = []) ∧
    (extentForm (12 * pageBytes) 1 = true ∧ extentForm (2 ^ 48 - pageBytes) 1 = true ∧ extentForm (2 ^ 48 - pageBytes) 2 = false ∧
      ((base.part 0).mem.pages.get 12).isNone = true ∧ (base.part 0).mem.frames.get 20 = .free ∧ ((base.part 0).unitOf 20).any (isParityUnit base 0) = false ∧
      pageRoom (base.part 0) 1 = true ∧ initReady base 0 20 = true ∧ newLeaves (base.part 0).mem 12 1 = [] ∧ (base.part 0).unbanking 5 = false ∧
      ((base.part 0).mem.pages.get 5).isSome = true) ∧
    (((spanned base).part 0).unitOf 0).any (isParityUnit (spanned base) 0) = true := by
  refine ⟨by decide +kernel, by decide +kernel, by decide +kernel, by decide +kernel⟩

theorem witness_HostEventsAndStart :
    (begins (admin 0x0D [(18, 1), (20, 9), (24, 9)]) (hosted base) [(16, 1), (18, 14)] && begins (admin 0x0E [(16, 2)]) (hosted (objects false base)) [(16, 4)] &&
      begins (queue 0x41 [(16, 2), (20, 3)]) (queued (objects false base)) [(16, 8)] && begins (queue 0x42 [(16, 2), (24, 9)]) (queued (objects false base)) [(16, 4), (24, 8)] &&
      begins (queue 0x43 [(16, 1), (20, 3)]) (queued base) [(16, 2), (20, 4)] && begins (queue 0x44 [(16, 1), (20, 3)]) (queued base) [(16, 2), (20, 4)] &&
      begins (queue 0x40 []) (queued base) []) = true ∧
    (firstUsable (base.part 0).evts evtGenMax 65536 = some 0 ∧ (((objects false base).part 0).evt 2).map (fun v => (v.be, v.ownerLost, v.value)) = some (false, false, 5) ∧
      ringClass (queued base) 1 (.queue 0 0) = false ∧ ((queued base).part 0).busyQueues 0x42 = [] ∧ ((base.part 0).sems.get 1).waiters = []) ∧
    (let s := ((queued live).modPart 0 fun p => { p with runLc := none, ctxs := p.ctxs.set 0 { gen := 0, obj := some { context false with
        st := .ready, queues := (context false).queues.set 0 (some { ring1 with busy := some { exportJob0.busy with opcode := 0x40 } }) } } })
     ((s.ring 1 (.queue 0 0)).bind (·.busy)).map (·.opcode) = some 0x40 ∧ ((s.part 0).ctx 0).map (·.st) = some .ready ∧ startWaits s 0 false = false ∧ s.inService = true) := by
  refine ⟨by decide +kernel, by decide +kernel, by decide +kernel⟩

theorem witness_PcieEndpoint :
    (live.power.rails = true ∧ live.power.tripped = false ∧ live.power.powerGood = true ∧ live.pins.perstN = true ∧ live.inService = true ∧
      (lighting .selfTest).inService = false ∧ live.host.inReset = false ∧ ({ live.pins with perstN := false }).perstN = false ∧ fnPresent live 0 = true ∧
      (live.part 0).removing = none) ∧
    (let s := hosted base
     fnPresent s 1 = true ∧ doorbellRing s 1 (1024 * 4096) = some .admin ∧ doorbellRing s 1 4 = none ∧ (s.ring 1 .admin).map (·.k) = some 4 ∧
       field (15 : Word) 15 0 = 15 ∧ field (16 : Word) 15 0 = 16) ∧
    (let s := { base with host := { base.host with aperActive := true } }
     bar4Here s 0 = true ∧ bar4Here base 0 = false ∧ (s.part 0).adm.state = .empty ∧ ((admitted s).part 0).adm.state ≠ .empty ∧
       (s.part 0).translate 0 false = .unmapped) := by
  refine ⟨by decide +kernel, by decide +kernel, by decide +kernel⟩

/-- A page of a partition without a span, which its memory-side die has translated, with the stacks of frame 7 awake. -/
def awakePage (s : State) : State :=
  { s with tcache := s.tcache.set (s.mdCache 0 (5 * pageBytes)) [5], power := { s.power with idleHbm := Tab.const false }
           host := { s.host with aperActive := true } }

theorem test_writesAtOnce : WritesAtOnce (awakePage base) 0 (5 * pageBytes) 4 7 :=
  ⟨by decide, by decide +kernel, by decide +kernel, fun e h => by
    have : (((awakePage base).part 0).mem.pages.get (5 * pageBytes / 2 ^ 21)).map (·.busy) = some .idle := by decide +kernel
    rw [h] at this; exact Option.some.inj this, by decide +kernel, fun l _ => test_clean_lines _ _ _ rfl, by decide +kernel, by decide +kernel, by decide +kernel,
    by decide +kernel, by decide +kernel⟩

theorem witness_PcieEndpoint_bar4 : pageProtected (awakePage base) 0 7 = false ∧ frameProtected (awakePage base) 0 (((awakePage base).part 0).liveFrame 7) = false ∧
    ((awakePage base).part 0).translate (5 * pageBytes) true = .frame 7 := by decide +kernel

def i3c (cmd zero : Byte) (bs : List Byte) : I3cWrite := { addr := i3cStatic, cmd := cmd, zero := zero, payload := bs }

theorem witness_ManagementTarget : i3cUp live = true ∧ i3cNamed live i3cStatic = true ∧ i3cPending live = false ∧ i3cNamed live (i3cStatic + 1) = false ∧
    (let s := { live with host := { live.host with i3cAnswer := some [1] } }
     s.host.i3cAnswer = some [1] ∧ i3cPending s = true) ∧
    (i3c 0x14 0 (List.replicate 32 0)).payload.length = 32 ∧ attests live = false ∧ reportRefused live ≠ 0 ∧
    (let s := lcWith (fun l => { l with lcState := .field }) (signing none)
     attests s = true ∧ s.keys.idReady = true ∧ reportRefused s = 0) ∧
    leAt (i3c 0x13 0 [0, 0, 0, 0, 32, 0, 0, 0]).payload 4 4 = 32 ∧ 32 < leAt (i3c 0x13 0 [0, 0, 0, 0, 33, 0, 0, 0]).payload 4 4 := by decide +kernel

def field_ (s : State) : State := lcWith (fun l => { l with lcState := .field }) s
/-- An admission that waits for the capsule of its one party. -/
def chartered (s : State) : State := s.modPart 0 fun p => { p with adm := { p.adm with state := .chartered, body := List.replicate 32 0 ++ [1] } }
/-- A capsule for party 0. -/
def capsule : List Byte := leBytes 4 0x5041435A ++ List.replicate 2956 0

theorem witness_HostAdmission : (begins (admin 0x01 [(24, 0)]) (hosted (field_ live)) [(16, 12)] && begins (admin 0x02 [] capsule) (hosted (chartered live)) [(16, 8)]) = true ∧
    ((live.part 0).removing = none ∧ forReservation live 0 [] = false ∧ (live.part 0).adm.state = .empty ∧ (admittedLive.part 0).adm.state ≠ .empty ∧
      live.lc.lcState ≠ .field ∧ (field_ live).lc.lcState = .field ∧ (field_ live).lc.lcPending = false ∧ charterForm [] = false) ∧
    (capsule.length = 2960 ∧ leAt capsule 0 4 = 0x5041435A ∧ leAt capsule 5 3 = 0 ∧ leAt capsule 4 1 < ((chartered live).part 0).adm.parties ∧
      ((chartered live).part 0).adm.state ≠ .empty ∧ ((chartered live).part 0).adm.capsules.get 0 = none ∧ digestAt capsule 40 = live.keys.moduleId ∧
      digestAt capsule 8 = ((chartered live).part 0).adm.digest) := by
  refine ⟨by decide +kernel, by decide +kernel, by decide +kernel⟩

/-- The hypotheses that rest on the signature scheme and on key wrap, with the others. -/
theorem witness_HostAdmission_keys (h : Config.falconVerify (partyKeyOf ((chartered live).part 0).adm.body 0) (capsule.take 1680) (capsule.drop 1680) = true) (k : Digest)
    (g : Config.keyUnwrap (capsuleKek (chartered live) ((chartered live).part 0).adm 0 capsule) 0xA6A6A6A6A6A6A6A6 ((capsule.drop 1640).take 40) = some k) :
    Config.falconVerify (partyKeyOf ((chartered live).part 0).adm.body 0) (capsule.take 1680) (capsule.drop 1680) = true ∧
    Config.keyUnwrap (capsuleKek (chartered live) ((chartered live).part 0).adm 0 capsule) 0xA6A6A6A6A6A6A6A6 ((capsule.drop 1640).take 40) = some k ∧
    ∀ q, q < ((chartered live).part 0).adm.parties → q = 0 :=
  ⟨h, g, by decide +kernel⟩

/-- Partition 0 has the input region at page 5. -/
def inputs (plain : Nat) (s : State) : State := s.modPart 0 fun p => { p with
  adm := { p.adm with state := .admitted, body := List.replicate 6 0 ++ [BitVec.ofNat 8 plain] ++ List.replicate 28 0 ++ [1] ++ List.replicate 100 0 }
  rl := { p.rl with inFirst := BitVec.ofNat 64 (5 * pageBytes), inSlotBytes := BitVec.ofNat 64 pageBytes, inSlots := 2 } }
def importHead : List Byte := leBytes 4 0x504D495A ++ List.replicate 32 0 ++ leBytes 4 4096 ++ List.replicate 8 0 ++ List.replicate 4112 0

theorem witness_HostDataCommands :
    (begins (admin 0x10 [(24, 4160)] importHead) (hosted (inputs 1 base)) [(16, 12)] && begins (admin 0x11 [(16, 9)]) (hosted (inputs 1 base)) [(16, 1), (20, 36)] &&
      begins (queue 0x45 [(24, 5 * pageBytes), (32, 4)]) (queued (inputs 1 base)) [(16, 20)] && begins (admin 0x0B [(16, 5 * pageBytes), (24, 1)]) (hosted base) [(16, 12)]) = true ∧
    (((inputs 1 base).part 0).adm.state = .admitted ∧ (base.part 0).adm.state ≠ .admitted ∧ inInput ((inputs 1 base).part 0) (5 * pageBytes) 4096 = true ∧
      extentMapped ((inputs 1 base).part 0) (5 * pageBytes) 4096 = true ∧ meetsLive ((inputs 1 base).part 0) (6 * pageBytes) 4 = false ∧
      meetsLive ((inputs 1 base).part 0) (5 * pageBytes) 4 = true ∧ inInput ((inputs 1 base).part 0) 0 1 = false) ∧
    (exportBad (inputs 1 base) 0 ((inputs 1 base).part 0).adm 9 0 [] = 9 ∧ badSector (inputs 1 base) 0 (genMet (inputs 1 base) 0 ((committedAt (inputs 1 base) 0 0).map (·.gen)) [3]) = none) ∧
    (plainInput ((inputs 1 base).part 0) = true ∧ plainInput ((inputs 0 base).part 0) = false ∧ extentProtected (inputs 1 base) 0 (5 * pageBytes) 4 = false ∧
      extentBanked ((pageAt (.banked 40) .idle (inputs 1 base)).part 0) (9 * pageBytes) 4 = [9]) ∧
    (let s := flash id base
     s.ks.ready = true ∧ base.ks.ready = false ∧ base.ks.metaFault = false ∧ (s.part 0).mem.bankJobs = [] ∧ ((s.part 0).mem.pages.get 5).map (fun x => (x.busy, x.loc, x.pin)) = some (.idle, .frame 7, false) ∧
       bankRoom s 0 ≠ 0 ∧ (lowestSlot s 0).isSome = true ∧ (∀ i, i < 1 → ((s.part 0).mem.pages.get (12 + i)).isNone = true)) ∧
    leAt importHead 0 4 = 0x504D495A ∧ importHead.length = 48 + 4096 / 4096 * 4112 := by
  refine ⟨by decide +kernel, by decide +kernel, by decide +kernel, by decide +kernel, by decide +kernel, by decide +kernel, by decide +kernel⟩

def removing (b : Option Busy) (s : State) : State := s.modPart 0 fun p => { p with removing := some (0, b) }

theorem witness_HostQueriesAndTenants :
    (begins (admin 0x12 [(24, 0x3000)]) (hosted base) [(16, 4), (24, 8)] && begins (admin 0x13 [(20, 2), (24, 0x3000)]) (hosted base) [(16, 16)] &&
      begins (admin 0x14 [(48, 0x3000)]) (hosted (field_ base)) [(16, 40)] && begins (admin 0x15 [(48, 0x3000)]) (hosted base) [(16, 40)] &&
      begins (admin 0x16 []) (hosted base) [(16, 8)]) = true ∧
    (let c : HostCmd := { admin 0x20 [] with fn := 0 }
     let s := { base with host := { base.host with fns := base.host.fns.upd 0 fun g => { g with adminEn := true, admin := { g.admin with k := 4, tail := 1 } } } }
     begins c s [(16, 1)] = true ∧ c.fn.val = 0 ∧ 0 < s.nParts ∧ (s.part 0).removing = none ∧ ((removing none s).part 0).removing.isSome = true) ∧
    (attests (field_ base) = true ∧ attests base = false ∧ base.keys.rngFail = false ∧ base.keys.queue.length < 8 ∧ base.keys.idReady = false ∧
      (ported base).keys.idReady = true ∧ base.lc.lcState ≠ .returned) ∧
    (((removing (some exportJob0.busy) (adminBusy base)).part 0).removing = some (0, some exportJob0.busy) ∧ ((adminBusy base).host.fns.get 0).admin.busy = some exportJob0.busy) ∧
    (reaches base (.pf 1) true = true ∧ mayHost (.pf 1) 1 = true ∧ mayHost (.pf 1) 0 = false) := by
  refine ⟨by decide +kernel, by decide +kernel, by decide +kernel, by decide +kernel, by decide +kernel⟩

theorem witness_RegisterWrites : reaches State.reset (.pf 0) true = false ∧ reaches live (.pf 0) true = true ∧ privileged (.pf 0) = true ∧ isPf0 (.pf 0) = true ∧
    (0x1006 : BitVec 26).toNat % 4 ≠ 0 ∧ regPlace live 0x9400 = none ∧ (regPlace live 0x3000).isSome = true ∧ mayWrite live (.pf 1) .sweep = false ∧ 0 < live.nParts := by
  decide +kernel

theorem witness_StoredEntries : (ported live).inService = true ∧ (req 0x50 16383 128 []).crcOk = true ∧ (ported live).hasPart 0 = true ∧
    (req 0x50 16383 128 []).arg0.toNat < 2 ^ 14 ∧ (req 0x50 0 1 []).arg1.toNat = 1 ∧ bitAt (moduleRights (ported live)) 2 = true ∧ reaches live (.pf 0) true = true ∧
    mayRead live (.pf 0) .soot 0 = true ∧ privileged (.pf 0) = true := by decide +kernel

theorem witness_StepRunsFront : State.reset.pending = [] := rfl

theorem witness_EveryStepKeeps : LayoutLegal State.reset ∧ LayoutLegal live := by
  unfold LayoutLegal; decide +kernel

/-! ### Ill-formed commands: one for every check -/

def lineX (l : Nat) : LineFlip := { line := l, stored := { ct := 0, tag := 0, crc := 0, lcnt := 0 } }
def sectorX (i len : Nat) : SectorFlip := { sector := i, ct := List.replicate len 0, tag := 0, seq := 0 }

theorem test_ill_formed_lists : (Instr.computeBistDone [{ grate := 1, phys := 2 }, { grate := 1, phys := 2 }]).wf = false ∧
    (Instr.tileDispatch 0 [(1, 2), (1, 3)]).wf = false ∧ (Instr.ckptManifest 0 [3, 3]).wf = false ∧ (Instr.laneErrorInterval 0 [0, 0] 0 0).wf = false ∧
    (Instr.thermSample (List.replicate 467 0)).wf = false ∧ (Instr.thermSample (List.replicate 468 0)).wf = true := by decide +kernel

theorem test_ill_formed_changes : (Instr.fetchLineFill site [49152]).wf = false ∧ (Instr.lds site 0 0 [49151]).wf = true ∧
    (Instr.sweepWindowStep 0 0 [lineX (366210 * 16384)] 0).wf = false ∧ (Instr.sweepWindowStep 0 0 [lineX (366210 * 16384 - 1)] 0).wf = true ∧
    (Instr.unbankDone 0 0 0 [sectorX (2 ^ 33) 4096]).wf = false ∧ (Instr.unbankDone 0 0 0 [sectorX 0 4095]).wf = false ∧
    (Instr.unbankDone 0 0 0 [sectorX 0 4096]).wf = true ∧ Pos.wf { t0 := 0, t1 := 0, t2 := 0, t3 := 32, member := 0 } = false ∧
    Pos.wf { t0 := 0, t1 := 0, t2 := 0, t3 := 31, member := 9 } = false := by decide +kernel

theorem test_ill_formed_links : (Instr.flitGroupReceive 0 { linkGroup (.width 8) with nflit := 16 }).wf = false ∧
    (Instr.flitGroupReceive 0 { linkGroup (.width 8) with data := [0] }).wf = false ∧ (Instr.flitGroupReceive 0 (linkGroup (.width 8))).wf = true := by
  decide +kernel

theorem test_ill_formed_host : (Instr.charterCmd { admin 1 [] with fn := 0, ring := .queue 0 0 }).wf = false ∧ (Instr.charterCmd { admin 1 [] with fn := 0 }).wf = true ∧
    (Instr.doorbell 1 0 0 0 []).wf = false ∧ (Instr.doorbell 1 0 4 0 (List.replicate 4097 0)).wf = false ∧ (Instr.bar4Read 0 0 0).wf = false ∧
    (Instr.bar4Read 0 1 4096).wf = false ∧ (Instr.bar4Read 0 0 4096).wf = true ∧ (Instr.bar4Read 0 0 4097).wf = false ∧ (Instr.bar4Write 0 0 []).wf = false ∧
    (Instr.bar4Write 0 4095 [1, 2]).wf = false ∧ (Instr.sdpInfo (req 1 0 0 (List.replicate 4097 0))).wf = false := by decide +kernel

theorem test_ill_formed_i3c (k : Nat) (h : 65536 ≤ k) : (Instr.i3cRcsr (i3c 0x30 0 (List.replicate k 0))).wf = false := by
  simpa [Instr.wf, I3cWrite.wf, i3c] using h

end Sys2Proof.Tests
end

section
/-! What a command does to the queue and to the life-cycle state, read off `kept`: one case split over the commands of the table serves every
statement about all of them. -/

namespace Sys2Proof.Machine

/-! ### One step of the queue -/

theorem step_of_pending_nil {s : State} (h : s.pending = []) : step s = .next s := by
  unfold step
  rw [h]

theorem step_pending_cons (c : Instr) (rest : List Instr) (s : State) :
    step { s with pending := c :: rest } = exec c { s with pending := rest } := rfl

/-! ### Projections that an outcome keeps -/

/-- Where a meaning answers a next state, that state has the value of `p` that `s` has. -/
def Keeps {α : Type} (p : State → α) (s : State) (o : Out) : Prop := ∀ t, o = .next t → p t = p s

theorem keeps_next {α : Type} {p : State → α} {s t : State} : Keeps p s (.next t) ↔ p t = p s :=
  ⟨fun h => h t rfl, fun h _ e => by cases e; exact h⟩

/-- The queue of the commands and the life-cycle state. -/
def queueLife (s : State) : List Instr × LcState := (s.pending, s.lc.lcState)

theorem queueLife_of_kept {s t : State} (h : kept t = kept s) : queueLife t = queueLife s :=
  congrArg (fun k : KeptT => (k.1, k.2.2.1)) h

theorem keeps_queueLife_of_keptOut {s : State} {o : Out} (h : KeptOut (kept s) o) : Keeps queueLife s o :=
  fun t e => queueLife_of_kept (h t e)

theorem queueLife_ite (c : Prop) [Decidable c] (a b : State) : queueLife (if c then a else b) = if c then queueLife a else queueLife b :=
  apply_ite ..

/-! ### Operations that change something of `kept`, but neither the queue nor the life-cycle state -/

theorem queueLife_modPower (f : Power → Power) (s : State) : queueLife (s.modPower f) = queueLife s := rfl
theorem queueLife_railsLost (s : State) : queueLife (railsLost s) = queueLife s := rfl
theorem queueLife_applyLayout (s : State) : queueLife (applyLayout s) = queueLife s := rfl
theorem queueLife_setFault (c : FaultCond) (s : State) : queueLife (setFault c s) = queueLife s := queueLife_of_kept (setFault_kept c s)
theorem queueLife_clearFault (c : FaultCond) (s : State) : queueLife (clearFault c s) = queueLife s := queueLife_of_kept (clearFault_kept c s)

theorem queueLife_sootFullBurn (s : State) : queueLife (sootFullBurn s) = queueLife s := by
  unfold sootFullBurn
  split <;> rfl

theorem queueLife_sootWriteHead (torn : Bool) (s : State) : queueLife (sootWriteHead torn s) = queueLife s := by
  unfold sootWriteHead
  split
  · rfl
  · simp only [queueLife_ite, queueLife_sootFullBurn]
    simp only [queueLife, ite_self]

theorem queueLife_sootRepair (s : State) : queueLife (sootRepair s) = queueLife s := queueLife_sootFullBurn _

theorem queueLife_thermTrip (s : State) : queueLife (thermTrip s) = queueLife s := by
  unfold thermTrip
  simp only
  rw [queueLife_setFault]
  change queueLife (sootEvent _ _ _ s) = queueLife s
  exact queueLife_of_kept (sootEvent_kept ..)

theorem queueLife_inputLoss (s : State) : queueLife (inputLoss s) = queueLife s := rfl

theorem queueLife_overVoltage (s : State) : queueLife (overVoltage s) = queueLife s := queueLife_setFault ..

/-! ### Register writes -/

/-- A register write keeps what `kept` holds, but that it may stage a layout of Table 18.1 (R401). -/
def KeptButStage (s t : State) : Prop :=
  kept t = kept s ∨ ∃ st : BitVec 2, st ≠ 3 ∧ kept t = kept { s with host := { s.host with layoutStage := st } }

theorem queueLife_of_keptButStage {s t : State} (h : KeptButStage s t) : queueLife t = queueLife s := by
  obtain h | ⟨st, -, h⟩ := h
  · exact queueLife_of_kept h
  · exact queueLife_of_kept (s := { s with host := { s.host with layoutStage := st } }) h

theorem writeLayout_keptButStage (m : Master) (f : Nat) (v : Word) (s : State) : KeptButStage s (writeLayout m f v s) := by
  unfold writeLayout
  simp only
  split
  · exact .inl (State.modFn_kept ..)
  · split
    · exact .inl rfl
    · next h => exact .inr ⟨_, h, rfl⟩

theorem writeHost_keptButStage (m : Master) (f off : Nat) (v : Word) (s : State) : KeptButStage s (writeHost m f off v s) := by
  unfold writeHost
  simp only
  split
  · exact writeLayout_keptButStage ..
  all_goals exact .inl (by simp only [State.modFn_kept, writeAdminCfg_kept, writeRecCfg_kept, recHead_kept])

theorem blockWrite_keptButStage (m : Master) (b : RegBlock) (off : Nat) (v : Word) (s : State) : KeptButStage s (blockWrite m b off v s) := by
  cases b with
  | common => exact .inl (writeCommon_kept ..)
  | power => exact .inl (writePower_kept ..)
  | sentinel => exact .inl (writeSentinel_kept ..)
  | sweep => exact .inl (writeSweep_kept ..)
  | fabric => exact .inl (writeFabric_kept ..)
  | kindling => exact .inl (writeKindling_kept ..)
  | key => exact .inl (writeKey_kept ..)
  | life => exact .inl (writeLife_kept ..)
  | soot => exact .inl (writeSoot_kept ..)
  | cv u => exact .inl (writeCv_kept ..)
  | flue f => exact .inl (writeFlue_kept ..)
  | step n => exact .inl (writeStep_kept ..)
  | memory n => exact .inl (writeMemory_kept ..)
  | prot n => exact .inl (writeProt_kept ..)
  | tree n => exact .inl (writeTree_kept ..)
  | relight n => exact .inl (writeRelight_kept ..)
  | ckpt n => exact .inl (writeCkpt_kept ..)
  | charter n => exact .inl (writeCharter_kept ..)
  | health n => exact .inl (writeHealth_kept ..)
  | host f => exact writeHost_keptButStage ..
  | ember l => exact .inl (writeEmber_kept ..)

theorem regWrite_keptButStage (m : Master) (a : Nat) (v : Word) (s : State) : KeptButStage s (regWrite m a v s) := by
  unfold regWrite
  split
  · split
    · exact blockWrite_keptButStage ..
    · exact .inl rfl
  · exact .inl rfl

theorem queueLife_regWrite (m : Master) (a : Nat) (v : Word) (s : State) : queueLife (regWrite m a v s) = queueLife s :=
  queueLife_of_keptButStage (regWrite_keptButStage ..)

/-! ### The commands that change something of `kept` -/

theorem execRegisterWrite_keeps (m : Master) (a : BitVec 26) (v : Word) (whole : Bool) (s : State) :
    Keeps queueLife s (execRegisterWrite m a v whole s) := by
  unfold execRegisterWrite
  simp only [keeps_next, queueLife_ite, queueLife_regWrite]
  simp only [queueLife, ite_self]

theorem execSdpWcsr_keeps (q : SdpFrame) (s : State) : Keeps queueLife s (execSdpWcsr q s) := by
  have answer (status : Nat) (bs : List Byte) (u : State) : queueLife (sdpAnswer status bs u) = queueLife u := rfl
  unfold execSdpWcsr sdpServe
  simp only [keeps_next, queueLife_ite, answer, queueLife_regWrite, ite_self]

theorem execI3cWcsr_keeps (w : I3cWrite) (s : State) : Keeps queueLife s (execI3cWcsr w s) := by
  have answer (status : Nat) (bs : List Byte) (u : State) : queueLife (i3cAnswer status bs u) = queueLife u := rfl
  unfold execI3cWcsr i3cServe
  simp only [keeps_next, queueLife_ite, answer, queueLife_regWrite, ite_self]

theorem execHotReset_keeps (s : State) : Keeps queueLife s (execHotReset s) := by
  unfold execHotReset
  simp only [keeps_next, queueLife_ite, queueLife_applyLayout, queueLife_of_kept (endpointReset_kept s), ite_self]

theorem execPerstNRelease_keeps (s : State) : Keeps queueLife s (execPerstNRelease s) := by
  unfold execPerstNRelease
  simp only [keeps_next, queueLife_ite, queueLife_applyLayout]
  simp only [queueLife, ite_self]

theorem execInputSample_keeps (vin : BitVec 12) (s : State) : Keeps queueLife s (execInputSample vin s) := by
  unfold execInputSample
  simp only [keeps_next, queueLife_ite, queueLife_clearFault, queueLife_overVoltage, queueLife_inputLoss, queueLife_modPower, ite_self]

theorem execThermSample_keeps (ts : List Byte) (s : State) : Keeps queueLife s (execThermSample ts s) := by
  have margin (max : Nat) (u : State) : queueLife (thermMargin max u) = queueLife u := queueLife_of_kept (thermMargin_kept ..)
  unfold execThermSample
  simp only [keeps_next, queueLife_ite, queueLife_thermTrip, margin, queueLife_modPower, ite_self]

theorem execOtpBurnDone_keeps (s : State) : Keeps queueLife s (execOtpBurnDone s) := by
  unfold execOtpBurnDone
  rw [keeps_next]
  split
  · rfl
  · split
    · rfl
    · simp only
      split
      · exact (queueLife_of_kept (lcComplete_kept ..)).trans rfl
      · rfl

theorem execRepairDone_keeps (s : State) : Keeps queueLife s (execRepairDone s) := by
  unfold execRepairDone
  rw [keeps_next]
  split
  · rfl
  · simp only
    rw [queueLife_modPower]
    refine (queueLife_of_kept (foldl_kept _ _ _ fun u p => ?_)).trans ?_
    · cases p with
      | entry e => exact reapply_kept e u
      | torn => rfl
    · rw [queueLife_sootRepair]
      exact queueLife_of_kept ((meterRepair_kept _).trans (factoryRepair_kept s))

theorem unpowered_pending (s : State) : (unpowered s).pending = s.pending := rfl

theorem execPowerGood_keeps_pending (s : State) : Keeps State.pending s (execPowerGood s) := by
  unfold execPowerGood
  rw [keeps_next]
  split <;> rfl

theorem execAlwaysOnRailDropOut_keeps_pending (s : State) : Keeps State.pending s (execAlwaysOnRailDropOut s) := by
  unfold execAlwaysOnRailDropOut
  rw [keeps_next]
  split
  · rfl
  · simp only
    rw [modPower_pending, unpowered_pending]
    split
    · split <;> rfl
    · rfl

theorem execOtpReadDone_keeps_pending (s : State) : Keeps State.pending s (execOtpReadDone s) := by
  have pending_eq {t u : State} (h : kept t = kept u) : t.pending = u.pending := congrArg Prod.fst h
  unfold execOtpReadDone
  rw [keeps_next]
  simp only [apply_ite State.pending, modPower_pending, pending_eq (lightFail_kept ..), pending_eq (loadSlots_kept ..), modLc_pending, ite_self]

/-! ### Every command -/

/-- The commands that may change something of `kept`: LC_STATE, OTP, the soot record, the layout, or a latched trip. -/
def touchesKept : Instr → Bool
  | .powerGood | .otpReadDone | .alwaysOnRailDropOut | .repairDone | .otpBurnDone | .sootEntryWrite _ | .thermSample _ | .inputSample _
  | .perstNRelease | .hotReset | .registerWrite .. | .sdpWcsr _ | .i3cWcsr _ => true
  | _ => false

/-- The dispatch calls a meaning of its own for every command, and each of them is by definition some next state: no branch stops the machine. -/
theorem exec_answers (c : Instr) (s : State) : ∃ t, exec c s = .next t := by
  cases c <;> exact ⟨_, rfl⟩

/-- Every other command keeps all of it: the case split over the table, each command by the lemma about its meaning. -/
theorem exec_kept (c : Instr) (s : State) (h : touchesKept c = false) : KeptOut (kept s) (exec c s) := by
  cases c with
  | aoUpDone => exact execAoUpDone_kept _ rfl
  | hsBistDone => exact execHsBistDone_kept _ _ rfl
  | selftestDone => exact execSelftestDone_kept _ _ rfl
  | computeBistDone => exact execComputeBistDone_kept _ _ rfl
  | hbmTrainDone => exact execHbmTrainDone_kept _ _ rfl
  | readyEntry => exact execReadyEntry_kept _ rfl
  | lightTimeout => exact execLightTimeout_kept _ rfl
  | configParityCheck => exact execConfigParityCheck_kept _ _ _ rfl
  | perstNAssert => exact execPerstNAssert_kept _ rfl
  | functionLevelReset => exact execFunctionLevelReset_kept _ _ rfl
  | pcieConfigRequest => exact execPcieConfigRequest_kept _ _ rfl
  | thermTripFlashOff => exact execThermTripFlashOff_kept _ rfl
  | holdupSample => exact execHoldupSample_kept _ _ rfl
  | powerAverage => exact execPowerAverage_kept _ _ rfl
  | draughtQuiescent => exact execDraughtQuiescent_kept _ rfl
  | draughtChangeDone => exact execDraughtChangeDone_kept _ rfl
  | unitIdle => exact execUnitIdle_kept _ _ rfl
  | unitWake => exact execUnitWake_kept _ _ rfl
  | fetchLineFill => exact execFetchLineFill_kept _ _ _ rfl
  | beTileSuspend => exact execBeTileSuspend_kept _ _ rfl
  | beMoverPause => exact execBeMoverPause_kept _ _ _ _ _ rfl
  | tileDispatch => exact execTileDispatch_kept _ _ _ rfl
  | tileComplete => exact execTileComplete_kept _ _ _ rfl
  | tqntComplete => exact execTqntComplete_kept _ _ _ rfl
  | sentinelVerdict => exact execSentinelVerdict_kept _ _ rfl
  | moverDispatch => exact execMoverDispatch_kept _ _ _ rfl
  | moverComplete => exact execMoverComplete_kept _ _ _ _ _ rfl
  | remWriteDone => exact execRemWriteDone_kept _ _ _ _ _ rfl
  | remAck => exact execRemAck_kept _ _ _ rfl
  | spareCopyDone => exact execSpareCopyDone_kept _ _ rfl
  | embRetireReq => exact execEmbRetireReq_kept _ _ rfl
  | nop => exact execNop_kept _ _ _ _ rfl
  | endThread => exact execEndThread_kept _ _ _ rfl
  | brk => exact execBrk_kept _ _ _ rfl
  | tid => exact execTid_kept _ _ _ rfl
  | stepb => exact execStepb_kept _ _ _ rfl
  | add => exact execAdd_kept _ _ _ _ rfl
  | sub => exact execSub_kept _ _ _ _ rfl
  | andOp => exact execAndOp_kept _ _ _ _ rfl
  | orOp => exact execOrOp_kept _ _ _ _ rfl
  | xorOp => exact execXorOp_kept _ _ _ _ rfl
  | andn => exact execAndn_kept _ _ _ _ rfl
  | shl => exact execShl_kept _ _ _ _ rfl
  | shr => exact execShr_kept _ _ _ _ rfl
  | sra => exact execSra_kept _ _ _ _ rfl
  | minOp => exact execMinOp_kept _ _ _ _ rfl
  | maxOp => exact execMaxOp_kept _ _ _ _ rfl
  | minu => exact execMinu_kept _ _ _ _ rfl
  | maxu => exact execMaxu_kept _ _ _ _ rfl
  | popc => exact execPopc_kept _ _ _ rfl
  | clz => exact execClz_kept _ _ _ rfl
  | movhi => exact execMovhi_kept _ _ _ rfl
  | movi => exact execMovi_kept _ _ _ rfl
  | mul => exact execMul_kept _ _ _ rfl
  | mulh => exact execMulh_kept _ _ _ rfl
  | mulhu => exact execMulhu_kept _ _ _ rfl
  | div => exact execDiv_kept _ _ _ rfl
  | divu => exact execDivu_kept _ _ _ rfl
  | remOp => exact execRemOp_kept _ _ _ rfl
  | remu => exact execRemu_kept _ _ _ rfl
  | cmp => exact execCmp_kept _ _ _ _ rfl
  | cmpi => exact execCmpi_kept _ _ _ _ rfl
  | pand => exact execPand_kept _ _ _ rfl
  | por => exact execPor_kept _ _ _ rfl
  | pxor => exact execPxor_kept _ _ _ rfl
  | pandn => exact execPandn_kept _ _ _ rfl
  | pnz => exact execPnz_kept _ _ _ rfl
  | pget => exact execPget_kept _ _ _ rfl
  | br => exact execBr_kept _ _ _ rfl
  | brl => exact execBrl_kept _ _ _ rfl
  | jr => exact execJr_kept _ _ _ rfl
  | jrl => exact execJrl_kept _ _ _ rfl
  | lds => exact execLds_kept _ _ _ _ _ rfl
  | sts => exact execSts_kept _ _ _ _ _ rfl
  | atom => exact execAtom_kept _ _ _ _ _ rfl
  | ldv => exact execLdv_kept _ _ _ _ _ rfl
  | ldvAnswer => exact execLdvAnswer_kept _ _ _ rfl
  | stv => exact execStv_kept _ _ _ _ _ rfl
  | stvAccept => exact execStvAccept_kept _ _ rfl
  | fenceV => exact execFenceV_kept _ _ _ rfl
  | tset => exact execTset_kept _ _ _ rfl
  | tseti => exact execTseti_kept _ _ _ rfl
  | tadd => exact execTadd_kept _ _ _ rfl
  | trd => exact execTrd_kept _ _ _ rfl
  | twait => exact execTwait_kept _ _ _ rfl
  | twaiti => exact execTwaiti_kept _ _ _ rfl
  | bare => exact execBare_kept _ _ _ rfl
  | barp => exact execBarp_kept _ _ _ rfl
  | barpRelease => exact execBarpRelease_kept _ _ _ _ rfl
  | semsig => exact execSemsig_kept _ _ _ rfl
  | semwait => exact execSemwait_kept _ _ _ rfl
  | semrd => exact execSemrd_kept _ _ _ rfl
  | dld => exact execDld_kept _ _ _ _ rfl
  | dst => exact execDst_kept _ _ _ rfl
  | dsetw => exact execDsetw_kept _ _ _ rfl
  | dgetw => exact execDgetw_kept _ _ _ rfl
  | moveDesc => exact execMoveDesc_kept _ _ _ _ rfl
  | mvq => exact execMvq_kept _ _ _ rfl
  | allocH => exact execAllocH_kept _ _ _ rfl
  | allocS => exact execAllocS_kept _ _ _ rfl
  | freeBlock => exact execFreeBlock_kept _ _ _ rfl
  | heapAnswer => exact execHeapAnswer_kept _ _ rfl
  | caprd => exact execCaprd_kept _ _ _ rfl
  | stepBoundary => exact execStepBoundary_kept _ _ rfl
  | tmmaStart => exact execTmmaStart_kept _ _ _ _ _ rfl
  | tmmaContinue => exact execTmmaContinue_kept _ _ _ _ _ rfl
  | tmmaFinish => exact execTmmaFinish_kept _ _ _ _ _ rfl
  | tmmaSingle => exact execTmmaSingle_kept _ _ _ _ _ rfl
  | tqnt => exact execTqnt_kept _ _ _ _ _ rfl
  | tstatMax => exact execTstatMax_kept _ _ _ rfl
  | tstatSexp => exact execTstatSexp_kept _ _ _ rfl
  | tstatSsq => exact execTstatSsq_kept _ _ _ rfl
  | tstatSum => exact execTstatSum_kept _ _ _ rfl
  | tstatMean => exact execTstatMean_kept _ _ _ rfl
  | tstatCnt => exact execTstatCnt_kept _ _ _ rfl
  | tstatS => exact execTstatS_kept _ _ _ rfl
  | tstatClr => exact execTstatClr_kept _ _ _ rfl
  | tstatClrs => exact execTstatClrs_kept _ _ _ rfl
  | sctrd => exact execSctrd_kept _ _ _ rfl
  | vadd => exact execVadd_kept _ _ _ rfl
  | vsub => exact execVsub_kept _ _ _ rfl
  | vmul => exact execVmul_kept _ _ _ rfl
  | vfma => exact execVfma_kept _ _ _ rfl
  | vfms => exact execVfms_kept _ _ _ rfl
  | vmax => exact execVmax_kept _ _ _ rfl
  | vmin => exact execVmin_kept _ _ _ rfl
  | vabs => exact execVabs_kept _ _ _ rfl
  | vmov => exact execVmov_kept _ _ _ rfl
  | vexp => exact execVexp_kept _ _ _ rfl
  | vrsq => exact execVrsq_kept _ _ _ rfl
  | vrcp => exact execVrcp_kept _ _ _ rfl
  | vldRow => exact execVldRow_kept _ _ _ _ rfl
  | vldPair => exact execVldPair_kept _ _ _ _ rfl
  | vldSlab => exact execVldSlab_kept _ _ _ _ rfl
  | vstRow => exact execVstRow_kept _ _ _ rfl
  | vstPair => exact execVstPair_kept _ _ _ rfl
  | vstSlab => exact execVstSlab_kept _ _ _ rfl
  | vbc => exact execVbc_kept _ _ _ rfl
  | vget => exact execVget_kept _ _ _ rfl
  | vrsum => exact execVrsum_kept _ _ _ rfl
  | vrmax => exact execVrmax_kept _ _ _ rfl
  | sntcfg => exact execSntcfg_kept _ _ _ rfl
  | sntrd => exact execSntrd_kept _ _ _ rfl
  | sntshd => exact execSntshd_kept _ _ _ rfl
  | fsend => exact execFsend_kept _ _ _ _ rfl
  | fwin => exact execFwin_kept _ _ _ rfl
  | dtredAll => exact execDtredAll_kept _ _ _ rfl
  | dtredRs => exact execDtredRs_kept _ _ _ rfl
  | dtbc => exact execDtbc_kept _ _ _ rfl
  | dtbar => exact execDtbar_kept _ _ _ rfl
  | ringstep => exact execRingstep_kept _ _ _ rfl
  | collectiveComplete => exact execCollectiveComplete_kept _ _ _ _ _ rfl
  | beScaleFix => exact execBeScaleFix_kept _ _ rfl
  | contribReport => exact execContribReport_kept _ _ rfl
  | stepDeadline => exact execStepDeadline_kept _ _ rfl
  | steprecFrame => exact execSteprecFrame_kept _ _ _ rfl
  | dropmarkFrame => exact execDropmarkFrame_kept _ _ rfl
  | bankOutDone => exact execBankOutDone_kept _ _ _ rfl
  | unbankStart => exact execUnbankStart_kept _ _ rfl
  | unbankDone => exact execUnbankDone_kept _ _ _ _ _ rfl
  | tagVerdict => exact execTagVerdict_kept _ _ rfl
  | outboundHoldRelease => exact execOutboundHoldRelease_kept _ rfl
  | rwcThreshold => exact execRwcThreshold_kept _ _ _ _ rfl
  | sweepEpochRequest => exact execSweepEpochRequest_kept _ _ _ _ rfl
  | sweepKeyRequest => exact execSweepKeyRequest_kept _ _ rfl
  | sweepQueuedStart => exact execSweepQueuedStart_kept _ rfl
  | sweepWindowStep => exact execSweepWindowStep_kept _ _ _ _ _ rfl
  | sweepResume => exact execSweepResume_kept _ _ _ rfl
  | flueEnSet => exact execFlueEnSet_kept _ _ rfl
  | flueEnClear => exact execFlueEnClear_kept _ _ rfl
  | flueDetectDone => exact execFlueDetectDone_kept _ _ rfl
  | flueTrainDone => exact execFlueTrainDone_kept _ _ rfl
  | flueAlignDone => exact execFlueAlignDone_kept _ _ rfl
  | flueInitDone => exact execFlueInitDone_kept _ _ rfl
  | fpxFrame => exact execFpxFrame_kept _ _ rfl
  | flueBringupTimeout => exact execFlueBringupTimeout_kept _ _ rfl
  | laneLockLoss => exact execLaneLockLoss_kept _ _ _ rfl
  | laneErrorInterval => exact execLaneErrorInterval_kept _ _ _ _ _ rfl
  | laneFrame => exact execLaneFrame_kept _ _ rfl
  | widthFrame => exact execWidthFrame_kept _ _ rfl
  | flueRetrainDone => exact execFlueRetrainDone_kept _ _ rfl
  | flitGroupReceive => exact execFlitGroupReceive_kept _ _ _ rfl
  | nakRepeat => exact execNakRepeat_kept _ _ rfl
  | idleAckSend => exact execIdleAckSend_kept _ _ rfl
  | groupTransmit => exact execGroupTransmit_kept _ _ rfl
  | dataFrame => exact execDataFrame_kept _ _ rfl
  | dackFrame => exact execDackFrame_kept _ _ rfl
  | collFrame => exact execCollFrame_kept _ _ rfl
  | ringReadyFrame => exact execRingReadyFrame_kept _ _ rfl
  | ringDataFrame => exact execRingDataFrame_kept _ _ rfl
  | ringAckFrame => exact execRingAckFrame_kept _ _ rfl
  | heartbeatSend => exact execHeartbeatSend_kept _ _ rfl
  | heartbeatFrame => exact execHeartbeatFrame_kept _ _ rfl
  | heartbeatTimeout => exact execHeartbeatTimeout_kept _ _ _ rfl
  | openFrame => exact execOpenFrame_kept _ _ rfl
  | refuseFrame => exact execRefuseFrame_kept _ _ rfl
  | freezeFrame => exact execFreezeFrame_kept _ _ rfl
  | stokerFrame => exact execStokerFrame_kept _ _ rfl
  | flueUnquar => exact execFlueUnquar_kept _ _ _ rfl
  | heldFrameDeliver => exact execHeldFrameDeliver_kept _ _ rfl
  | routeUpdate => exact execRouteUpdate_kept _ _ rfl
  | wpunitFrame => exact execWpunitFrame_kept _ _ rfl
  | sealFrame => exact execSealFrame_kept _ _ rfl
  | cowCopyDone => exact execCowCopyDone_kept _ _ _ rfl
  | mirrorFrame => exact execMirrorFrame_kept _ _ rfl
  | lossFrame => exact execLossFrame_kept _ _ rfl
  | rfreezeFrame => exact execRfreezeFrame_kept _ _ rfl
  | adoptFrame => exact execAdoptFrame_kept _ _ rfl
  | adoptContextReady => exact execAdoptContextReady_kept _ _ rfl
  | rebuildDone => exact execRebuildDone_kept _ _ _ rfl
  | resumeFrame => exact execResumeFrame_kept _ _ rfl
  | withdrawFrame => exact execWithdrawFrame_kept _ _ rfl
  | rlHandback => exact execRlHandback_kept _ _ rfl
  | pwrWarn => exact execPwrWarn_kept _ _ rfl
  | ckReq => exact execCkReq_kept _ _ rfl
  | ckptAnnounce => exact execCkptAnnounce_kept _ _ rfl
  | shardCopyDone => exact execShardCopyDone_kept _ _ _ rfl
  | ckrepShard => exact execCkrepShard_kept _ _ rfl
  | ckptManifest => exact execCkptManifest_kept _ _ _ rfl
  | ckrepCommitted => exact execCkrepCommitted_kept _ _ rfl
  | ckrepAvail => exact execCkrepAvail_kept _ _ rfl
  | ckptRestore => exact execCkptRestore_kept _ _ rfl
  | ksLoadDone => exact execKsLoadDone_kept _ _ rfl
  | journalSectorProgrammed => exact execJournalSectorProgrammed_kept _ rfl
  | slotWriteDone => exact execSlotWriteDone_kept _ _ _ rfl
  | stripeProgramFail => exact execStripeProgramFail_kept _ _ _ _ rfl
  | ksCompact => exact execKsCompact_kept _ rfl
  | ksCompactDone => exact execKsCompactDone_kept _ rfl
  | ksFormat => exact execKsFormat_kept _ rfl
  | exportDone => exact execExportDone_kept _ _ _ rfl
  | entropySample => exact execEntropySample_kept _ _ rfl
  | maskRefresh => exact execMaskRefresh_kept _ rfl
  | mkGo => exact execMkGo_kept _ _ _ rfl
  | keyIdReady => exact execKeyIdReady_kept _ rfl
  | reportSigned => exact execReportSigned_kept _ rfl
  | lcGo => exact execLcGo_kept _ _ _ rfl
  | returnEraseDone => exact execReturnEraseDone_kept _ rfl
  | sdpSelRise => exact execSdpSelRise_kept _ rfl
  | sdpInfo => exact execSdpInfo_kept _ _ rfl
  | sdpNonce => exact execSdpNonce_kept _ _ rfl
  | sdpOpen => exact execSdpOpen_kept _ _ rfl
  | sdpClose => exact execSdpClose_kept _ _ rfl
  | sdpHalt => exact execSdpHalt_kept _ _ rfl
  | sdpResume => exact execSdpResume_kept _ _ rfl
  | sdpStep => exact execSdpStep_kept _ _ rfl
  | sdpBkpt => exact execSdpBkpt_kept _ _ rfl
  | sdpRreg => exact execSdpRreg_kept _ _ rfl
  | sdpWreg => exact execSdpWreg_kept _ _ rfl
  | sdpRmem => exact execSdpRmem_kept _ _ rfl
  | sdpWmem => exact execSdpWmem_kept _ _ rfl
  | sdpRcsr => exact execSdpRcsr_kept _ _ rfl
  | sdpRsoot => exact execSdpRsoot_kept _ _ rfl
  | debugSessionExpire => exact execDebugSessionExpire_kept _ rfl
  | doorbell => exact execDoorbell_kept _ _ _ _ _ _ rfl
  | charterCmd => exact execCharterCmd_kept _ _ rfl
  | capsuleCmd => exact execCapsuleCmd_kept _ _ rfl
  | createCtx => exact execCreateCtx_kept _ _ rfl
  | destroyCtx => exact execDestroyCtx_kept _ _ rfl
  | createQ => exact execCreateQ_kept _ _ rfl
  | destroyQ => exact execDestroyQ_kept _ _ rfl
  | createMobj => exact execCreateMobj_kept _ _ rfl
  | freeMobj => exact execFreeMobj_kept _ _ rfl
  | mobjRelease => exact execMobjRelease_kept _ _ _ rfl
  | mapPages => exact execMapPages_kept _ _ rfl
  | unmapPages => exact execUnmapPages_kept _ _ rfl
  | bankOut => exact execBankOut_kept _ _ rfl
  | poolCmd => exact execPoolCmd_kept _ _ rfl
  | createEvt => exact execCreateEvt_kept _ _ rfl
  | destroyEvt => exact execDestroyEvt_kept _ _ rfl
  | killOwner => exact execKillOwner_kept _ _ rfl
  | importCmd => exact execImportCmd_kept _ _ rfl
  | exportCmd => exact execExportCmd_kept _ _ rfl
  | queryCtx => exact execQueryCtx_kept _ _ rfl
  | queryCap => exact execQueryCap_kept _ _ rfl
  | reportCmd => exact execReportCmd_kept _ _ rfl
  | quickCmd => exact execQuickCmd_kept _ _ rfl
  | ideSetup => exact execIdeSetup_kept _ _ rfl
  | removeTenant => exact execRemoveTenant_kept _ _ rfl
  | tenantRemovalDone => exact execTenantRemovalDone_kept _ _ rfl
  | startCtx => exact execStartCtx_kept _ _ rfl
  | startGrant => exact execStartGrant_kept _ _ _ _ rfl
  | signalEvent => exact execSignalEvent_kept _ _ rfl
  | waitEvent => exact execWaitEvent_kept _ _ rfl
  | queueSemsig => exact execQueueSemsig_kept _ _ rfl
  | queueSemwait => exact execQueueSemwait_kept _ _ rfl
  | queueWrite => exact execQueueWrite_kept _ _ rfl
  | bar4Read => exact execBar4Read_kept _ _ _ _ rfl
  | bar4Write => exact execBar4Write_kept _ _ _ _ rfl
  | hostRecHead => exact execHostRecHead_kept _ _ _ _ rfl
  | i3cReport => exact execI3cReport_kept _ _ rfl
  | i3cQuick => exact execI3cQuick_kept _ _ rfl
  | i3cQueryCap => exact execI3cQueryCap_kept _ _ rfl
  | i3cRcsr => exact execI3cRcsr_kept _ _ rfl
  | dmpData => exact execDmpData_kept _ _ _ rfl
  | dmpCommit => exact execDmpCommit_kept _ _ _ rfl
  | dmpAbort => exact execDmpAbort_kept _ _ _ rfl
  | damperApply => exact execDamperApply_kept _ _ rfl
  | damperTimeout => exact execDamperTimeout_kept _ _ rfl
  | mbxSel => exact execMbxSel_kept _ _ _ rfl
  | revote => exact execRevote_kept _ _ rfl
  | sootMinute => exact execSootMinute_kept _ rfl
  | meterWrite => exact execMeterWrite_kept _ rfl
  | cvCtrl => exact execCvCtrl_kept _ _ _ _ rfl
  | cvFeed8 => exact execCvFeed8_kept _ _ _ _ rfl
  | cvFeed16 => exact execCvFeed16_kept _ _ _ _ rfl
  | cvFeed32 => exact execCvFeed32_kept _ _ _ _ rfl
  | healthWindow => exact execHealthWindow_kept _ rfl
  | slowdownInterval => exact execSlowdownInterval_kept _ _ _ _ rfl
  | abortRequestRetry => exact execAbortRequestRetry_kept _ _ rfl
  | abortRequest => exact execAbortRequest_kept _ _ rfl
  | abortFrame => exact execAbortFrame_kept _ _ rfl
  | pwrWarnDeassert => exact execPwrWarnDeassert_kept _ rfl
  | fluePresenceChange => exact execFluePresenceChange_kept _ _ _ rfl
  | i3cDynamicAddress => exact execI3cDynamicAddress_kept _ _ rfl
  | i3cPrivateRead => exact execI3cPrivateRead_kept _ _ rfl
  | checkpointRequest => exact execCheckpointRequest_kept _ _ rfl
  | quarantineReport => exact execQuarantineReport_kept _ _ rfl
  | parityHolderReport => exact execParityHolderReport_kept _ _ rfl
  | freezeRelease => exact execFreezeRelease_kept _ _ _ rfl
  | stripeEraseDone => exact execStripeEraseDone_kept _ _ rfl
  | restoreUnitsWritten => exact execRestoreUnitsWritten_kept _ _ _ rfl
  | powerGood | otpReadDone | alwaysOnRailDropOut | repairDone | otpBurnDone | sootEntryWrite | thermSample | inputSample | perstNRelease
  | hotReset | registerWrite | sdpWcsr | i3cWcsr => cases h

theorem exec_keeps_queueLife (c : Instr) (s : State) (h : c ∉ [Instr.powerGood, .otpReadDone, .alwaysOnRailDropOut]) :
    Keeps queueLife s (exec c s) := by
  cases hk : touchesKept c with
  | false => exact keeps_queueLife_of_keptOut (exec_kept c s hk)
  | true =>
    cases c with
    | powerGood | otpReadDone | alwaysOnRailDropOut => exact absurd h (by decide)
    | repairDone => exact execRepairDone_keeps s
    | otpBurnDone => exact execOtpBurnDone_keeps s
    | sootEntryWrite torn => exact keeps_next.2 (queueLife_sootWriteHead torn s)
    | thermSample ts => exact execThermSample_keeps ts s
    | inputSample vin => exact execInputSample_keeps vin s
    | perstNRelease => exact execPerstNRelease_keeps s
    | hotReset => exact execHotReset_keeps s
    | registerWrite m a v whole => exact execRegisterWrite_keeps m a v whole s
    | sdpWcsr q => exact execSdpWcsr_keeps q s
    | i3cWcsr w => exact execI3cWcsr_keeps w s
    | _ => cases hk

theorem exec_keeps_pending (c : Instr) (s : State) : Keeps State.pending s (exec c s) := by
  by_cases h : c ∈ [Instr.powerGood, .otpReadDone, .alwaysOnRailDropOut]
  · simp only [List.mem_cons, List.not_mem_nil, or_false] at h
    obtain rfl | rfl | rfl := h
    · exact execPowerGood_keeps_pending s
    · exact execOtpReadDone_keeps_pending s
    · exact execAlwaysOnRailDropOut_keeps_pending s
  · exact fun t e => congrArg Prod.fst (exec_keeps_queueLife c s h t e)

end Sys2Proof.Machine

namespace Sys2Proof

open Machine

/-- Settles O57: the two equations of `step`. -/
theorem stepRunsFront : Obligations.StepRunsFront :=
  fun c rest s => ⟨step_pending_cons c rest s, step_of_pending_nil⟩

/-- Settles O58: every command's meaning is a next state, and what it keeps is read off by command. -/
theorem everyCommandAnswers : Obligations.EveryCommandAnswers := by
  intro c s
  obtain ⟨t, e⟩ := exec_answers c s
  exact ⟨t, e, exec_keeps_pending c s t e, fun h => congrArg Prod.snd (exec_keeps_queueLife c s h t e)⟩

end Sys2Proof
end

section
/-! The 48 V input, the hold-up bank and the loss of the always-on rail (R19 to R21, R34, R53, R387, R388): a sample in its stages, what a
loss of the rails keeps, and the bits that a cut burn leaves. -/

namespace Sys2Proof.Machine

/-! ### The stages of an input sample -/

/-- The power block with a sample of the input counted (R34, R53). -/
def sampled (vin : BitVec 12) (s : State) : State := s.modPower fun p => { p with
  vin := vin, aoOn := p.aoOn || inputInRange vin.toNat
  inRange := if inputInRange vin.toNat then min powerGoodSamples (p.inRange + 1) else 0
  lowRun := if vin.toNat < volt44 then min 5 (p.lowRun + 1) else 0
  highRun := if volt55 < vin.toNat then min 5 (p.highRun + 1) else 0 }

/-- What the fifth low sample in a row does (R53). -/
def lowStage (s : State) : State :=
  if s.power.lowRun = 5 ∧ (s.power.powerGood ∨ s.power.tripped ∨ .lighting ∈ s.pins.faults) then inputLoss s else s

/-- What the fifth high sample in a row does (R53). -/
def highStage (s : State) : State := if s.power.highRun = 5 ∧ !s.power.ov then overVoltage s else s

/-- An over-voltage shutdown ends below 40.0 V (R53). -/
def endStage (v : Nat) (s : State) : State :=
  if v < volt40 ∧ s.power.ov then clearFault .overVoltage (s.modPower fun p => { p with ov := false }) else s

theorem execInputSample_stages (vin : BitVec 12) (s : State) :
    execInputSample vin s = .next (endStage vin.toNat (highStage (lowStage (sampled vin s)))) := rfl

theorem lowStage_of_ne {s : State} (h : s.power.lowRun ≠ 5) : lowStage s = s := if_neg fun k => h k.1

/-- Where power-good is not asserted and neither a trip nor a lighting failure is latched, there is no input to lose. -/
theorem lowStage_of_nothing_lit {vin : BitVec 12} {s : State} (hg : s.power.powerGood = false) (ht : s.power.tripped = false)
    (hl : .lighting ∉ s.pins.faults) : lowStage (sampled vin s) = sampled vin s := by
  refine if_neg fun k => ?_
  rcases k.2 with h | h | h
  · exact Bool.false_ne_true (hg.symm.trans h)
  · exact Bool.false_ne_true (ht.symm.trans h)
  · exact hl h

theorem highStage_of_ne {s : State} (h : s.power.highRun ≠ 5) : highStage s = s := if_neg fun k => h k.1

theorem endStage_of_le {v : Nat} {s : State} (h : 2000 ≤ v) : endStage v s = s := if_neg fun k => absurd k.1 (Nat.not_lt.2 h)

theorem endStage_of_not_ov {v : Nat} {s : State} (h : s.power.ov = false) : endStage v s = s := if_neg fun k => by simp [h] at k

theorem endStage_of_ov {v : Nat} {s : State} (hv : v < 2000) (h : s.power.ov = true) :
    endStage v s = clearFault .overVoltage (s.modPower fun p => { p with ov := false }) := if_pos ⟨hv, h⟩

theorem sampled_lowRun_of_le {vin : BitVec 12} (s : State) (h : 2200 ≤ vin.toNat) : (sampled vin s).power.lowRun = 0 :=
  if_neg (Nat.not_lt.2 h)

theorem sampled_lowRun_of_lt {vin : BitVec 12} (s : State) (h : vin.toNat < 2200) :
    (sampled vin s).power.lowRun = min 5 (s.power.lowRun + 1) := if_pos h

theorem sampled_highRun_of_le {vin : BitVec 12} (s : State) (h : vin.toNat ≤ 2750) : (sampled vin s).power.highRun = 0 :=
  if_neg (Nat.not_lt.2 h)

theorem sampled_highRun_of_lt {vin : BitVec 12} (s : State) (h : 2750 < vin.toNat) :
    (sampled vin s).power.highRun = min 5 (s.power.highRun + 1) := if_pos h

theorem inputInRange_eq (v : Nat) : inputInRange v = decide (2300 ≤ v ∧ v ≤ 2600) := (Bool.decide_and ..).symm

theorem inputInRange_of_lt {v : Nat} (h : v < 2200) : inputInRange v = false := by
  rw [inputInRange_eq, decide_eq_false_iff_not]
  omega

/-! ### What a loss of the rails makes of the device -/

theorem not_mem_faults_clearFault (c : FaultCond) (s : State) : c ∉ (clearFault c s).pins.faults := by simp [clearFault]

theorem faults_clearFault_subset (c : FaultCond) (s : State) : (clearFault c s).pins.faults ⊆ s.pins.faults :=
  List.filter_subset_self _

theorem mem_faults_setFault (c : FaultCond) (s : State) : c ∈ (setFault c s).pins.faults := by
  unfold setFault
  split
  · assumption
  · exact List.mem_cons_self ..

theorem lighting_notMem_inputLoss (s : State) : FaultCond.lighting ∉ (inputLoss s).pins.faults := not_mem_faults_clearFault .lighting _

theorem thermal_notMem_inputLoss (s : State) : FaultCond.thermal ∉ (inputLoss s).pins.faults := fun h =>
  not_mem_faults_clearFault .thermal _ (faults_clearFault_subset .lighting _ h)

theorem faults_endStage_subset (v : Nat) (s : State) : (endStage v s).pins.faults ⊆ s.pins.faults := by
  unfold endStage
  split
  · exact faults_clearFault_subset ..
  · exact List.Subset.refl _

/-- The end of an over-voltage shutdown changes its latch and its fault, and nothing else. -/
theorem endStage_frame (v : Nat) (s : State) :
    endStage v s = { s with power := { s.power with ov := (endStage v s).power.ov }
                            pins := { s.pins with faults := (endStage v s).pins.faults } } := by
  unfold endStage
  split <;> rfl

theorem overVoltage_power (s : State) : (overVoltage s).power =
    { s.power with rails := false, flashOn := false, trims := Tab.const 0, powerGood := false, ov := true } := setFault_power ..
theorem overVoltage_lc (s : State) : (overVoltage s).lc = s.lc := setFault_lc ..
theorem overVoltage_soot (s : State) : (overVoltage s).soot = s.soot := setFault_soot ..
theorem overVoltage_ks (s : State) : (overVoltage s).ks.data = s.ks.data := by
  unfold overVoltage
  rw [setFault_ks]
  rfl

/-! ### The clauses about a sample -/

/-- Between 44.0 V and 55.0 V a sample is counted and both runs end (Table 2.7). -/
theorem execInputSample_mid {v : BitVec 12} {s : State} (hl : 2200 ≤ v.toNat) (hh : v.toNat ≤ 2750) :
    execInputSample v s = .next { s with power := { s.power with
      vin := v, aoOn := s.power.aoOn || decide (2300 ≤ v.toNat ∧ v.toNat ≤ 2600)
      inRange := (if 2300 ≤ v.toNat ∧ v.toNat ≤ 2600 then min 10000 (s.power.inRange + 1) else 0), lowRun := 0, highRun := 0 } } := by
  have low := sampled_lowRun_of_le s hl
  have high := sampled_highRun_of_le s hh
  rw [execInputSample_stages, lowStage_of_ne (by omega), highStage_of_ne (by omega), endStage_of_le (by omega)]
  have hl' : ¬ v.toNat < volt44 := Nat.not_lt.2 hl
  have hh' : ¬ volt55 < v.toNat := Nat.not_lt.2 hh
  simp only [sampled, State.modPower, inputInRange_eq, decide_eq_true_eq, if_neg hl', if_neg hh', powerGoodSamples]

/-- A low sample before the fifth is counted alone, where no over-voltage shutdown is latched. -/
theorem execInputSample_low {v : BitVec 12} {s : State} (hv : v.toNat < 2200) (hr : s.power.lowRun < 4) (ho : s.power.ov = false) :
    execInputSample v s = .next { s with power := { s.power with vin := v, inRange := 0, lowRun := s.power.lowRun + 1, highRun := 0 } } := by
  have low : (sampled v s).power.lowRun = s.power.lowRun + 1 := (sampled_lowRun_of_lt s hv).trans (by omega)
  have high := sampled_highRun_of_le s (vin := v) (by omega)
  rw [execInputSample_stages, lowStage_of_ne (by omega), highStage_of_ne (by omega), endStage_of_not_ov (by exact ho)]
  have hv' : v.toNat < volt44 := hv
  have hh' : ¬ volt55 < v.toNat := by unfold volt55; omega
  have hm : min 5 (s.power.lowRun + 1) = s.power.lowRun + 1 := by omega
  simp only [sampled, State.modPower, inputInRange_of_lt hv, Bool.or_false, Bool.false_eq_true, if_false, if_pos hv', if_neg hh', hm]

/-- The fifth low sample in a row loses the input, and an over-voltage shutdown may end with it. -/
theorem execInputSample_fifthLow {v : BitVec 12} {s : State} (hv : v.toNat < 2200) (hr : s.power.lowRun = 4)
    (h : s.power.powerGood = true ∨ s.power.tripped = true ∨ .lighting ∈ s.pins.faults) :
    execInputSample v s = .next (endStage v.toNat (inputLoss (sampled v s))) := by
  have low : (sampled v s).power.lowRun = 5 := by rw [sampled_lowRun_of_lt s hv, hr]; rfl
  have high : (inputLoss (sampled v s)).power.highRun = 0 := sampled_highRun_of_le s (by omega)
  have loss : lowStage (sampled v s) = inputLoss (sampled v s) := if_pos ⟨low, h⟩
  rw [execInputSample_stages, loss, highStage_of_ne (by omega)]

/-- The fifth high sample in a row latches the over-voltage shutdown. -/
theorem execInputSample_fifthHigh {v : BitVec 12} {s : State} (hv : 2750 < v.toNat) (hr : s.power.highRun = 4) (ho : s.power.ov = false) :
    execInputSample v s = .next (overVoltage (sampled v s)) := by
  have low := sampled_lowRun_of_le s (vin := v) (by omega)
  have high : (sampled v s).power.highRun = 5 := by rw [sampled_highRun_of_lt s hv, hr]; rfl
  have hno : (sampled v s).power.ov = false := ho
  have shut : highStage (sampled v s) = overVoltage (sampled v s) := if_pos ⟨high, by rw [hno]; rfl⟩
  rw [execInputSample_stages, lowStage_of_ne (by omega), shut, endStage_of_le (by omega)]

/-- Below 40.0 V an over-voltage shutdown ends, after the input loss that the same sample may bring. -/
theorem execInputSample_under40 {v : BitVec 12} {s : State} (hv : v.toNat < 2000) (ho : s.power.ov = true) :
    execInputSample v s = .next (clearFault .overVoltage ((lowStage (sampled v s)).modPower fun p => { p with ov := false })) := by
  have none := sampled_highRun_of_le s (vin := v) (by omega)
  obtain ⟨high, ov⟩ : (lowStage (sampled v s)).power.highRun = 0 ∧ (lowStage (sampled v s)).power.ov = true := by
    unfold lowStage
    split <;> exact ⟨none, ho⟩
  rw [execInputSample_stages, highStage_of_ne (by omega), endStage_of_ov hv ov]

/-! ### The always-on rail -/

/-- The bits that a cut burn leaves are bits of the burn (R388). -/
theorem cutBurn_or_bits (k : Nat) (b : Burn) : cutBurn k b ||| b.bits = b.bits := by
  ext i
  simp only [cutBurn, BitVec.getElem_or, BitVec.getElem_and]
  cases b.bits[i] <;> simp

/-- A burn that the loss of the rail cuts: a state group is left partly burnt (R387, R388). -/
def burnCut (s : State) : State :=
  match s.lc.burns with
  | b :: _ => if b.word < 2 then s.takeFree.2.modLc fun l => { l with otp := l.otp.upd b.word fun w => w ||| cutBurn s.takeFree.1 b } else s
  | [] => s

/-- What is left once the always-on rail has dropped out: the monitors' counts, and what needs no power. -/
def aoLost (s : State) : State :=
  (unpowered (burnCut s)).modPower fun p => { p with vin := s.power.vin, inRange := s.power.inRange, lowRun := s.power.lowRun, highRun := s.power.highRun }

theorem execAlwaysOnRailDropOut_stays {s : State} (h : s.power.powerGood = true ∨ inputInRange s.power.vin.toNat = true) :
    execAlwaysOnRailDropOut s = .next s := by
  unfold execAlwaysOnRailDropOut
  rw [if_pos (by rcases h with h | h <;> simp [h])]

/-- A cut burn changes OTP, and takes a free value. -/
theorem burnCut_frame (s : State) : burnCut s = { s with lc := (burnCut s).lc, freeCount := (burnCut s).freeCount } := by
  unfold burnCut
  split
  · split <;> rfl
  · rfl

theorem execAlwaysOnRailDropOut_lost {s : State} (hg : s.power.powerGood = false) (hi : inputInRange s.power.vin.toNat = false)
    (ha : s.power.aoOn = true) : execAlwaysOnRailDropOut s = .next (aoLost s) := by
  have hp : (burnCut s).power = s.power := by rw [burnCut_frame]
  have off : ¬ (s.power.powerGood || inputInRange s.power.vin.toNat || !s.power.aoOn) = true := by simp [hg, hi, ha]
  unfold execAlwaysOnRailDropOut aoLost
  rw [if_neg off, ← hp]
  rfl

/-- The soot record, the meter and the flash need no power (R326, R447, R451). -/
theorem aoLost_nonvolatile (s : State) :
    (aoLost s).soot.pages = s.soot.pages ∧ (aoLost s).soot.meter = s.soot.meter ∧ (aoLost s).ks.data = s.ks.data := by
  change (burnCut s).soot.pages = _ ∧ (burnCut s).soot.meter = _ ∧ (burnCut s).ks.data = _
  rw [burnCut_frame]
  exact ⟨rfl, rfl, rfl⟩

theorem aoLost_otp_of_noGroup {s : State} (h : ∀ b ∈ s.lc.burns.head?, 2 ≤ b.word) : (aoLost s).lc.otp = s.lc.otp := by
  change (burnCut s).lc.otp = _
  unfold burnCut
  split
  · next b _ e =>
    have hb : 2 ≤ b.word := h b (by rw [e]; rfl)
    rw [if_neg (by omega)]
  · rfl

theorem aoLost_otp_of_group {s : State} {b : Burn} (hb : b ∈ s.lc.burns.head?) (hw : b.word < 2) :
    ∀ w, (aoLost s).lc.otp.get w = if w = b.word then s.lc.otp.get w ||| cutBurn s.takeFree.1 b else s.lc.otp.get w := by
  intro w
  obtain ⟨rest, e⟩ : ∃ rest, s.lc.burns = b :: rest := by simpa [List.head?_eq_some_iff] using hb
  change (burnCut s).lc.otp.get w = _
  unfold burnCut
  rw [e]
  simp only [if_pos hw, lc_modLc, Tab.get_upd, takeFree_lc, eq_comm]
  split
  · next h => rw [h]
  · rfl

end Sys2Proof.Machine

namespace Sys2Proof

open Machine

/-- Settles O41: a sample by its voltage, the energy of the bank, and what the loss of the always-on rail leaves. -/
theorem inputAndHoldup : Obligations.InputAndHoldup := by
  intro s
  refine ⟨fun v => ⟨?mid, ?fifthLow, ?low, ?fifthHigh, ?under40⟩, ?bank, execAlwaysOnRailDropOut_stays, ?lost⟩
  case mid => exact fun hl hh => ⟨_, execInputSample_mid hl hh, rfl⟩
  case low => exact fun hv hr ho => ⟨_, execInputSample_low hv hr ho, rfl⟩
  case fifthLow =>
    intro hv hr h
    have faults := faults_endStage_subset v.toNat (inputLoss (sampled v s))
    have thermal := fun k => thermal_notMem_inputLoss (sampled v s) (faults k)
    have lighting := fun k => lighting_notMem_inputLoss (sampled v s) (faults k)
    refine ⟨_, execInputSample_fifthLow hv hr h, ?_⟩
    rw [endStage_frame]
    exact ⟨rfl, rfl, rfl, rfl, thermal, lighting, rfl, rfl, rfl, fun _ => rfl⟩
  case fifthHigh =>
    intro hv hr ho
    have power := overVoltage_power (sampled v s)
    exact ⟨_, execInputSample_fifthHigh hv hr ho, congrArg Power.ov power, congrArg Power.powerGood power, congrArg Power.rails power,
      mem_faults_setFault .., overVoltage_lc _, overVoltage_soot _, overVoltage_ks _⟩
  case under40 =>
    intro hv ho hg
    refine ⟨_, execInputSample_under40 hv ho, rfl, not_mem_faults_clearFault .overVoltage _, fun ht hl => ?_⟩
    rw [lowStage_of_nothing_lit hg ht hl]
    rfl
  case bank => exact fun _ ha => ⟨_, congrArg Host.Outcome.next (if_pos ha), rfl⟩
  case lost =>
    intro hg hi ha
    obtain ⟨pages, meter, data⟩ := aoLost_nonvolatile s
    exact ⟨_, execAlwaysOnRailDropOut_lost hg hi ha, rfl, rfl, pages, meter, data, fun _ => rfl, aoLost_otp_of_noGroup,
      fun b hb hw => ⟨_, cutBurn_or_bits s.takeFree.1 b, aoLost_otp_of_group hb hw⟩⟩

end Sys2Proof
end

section
/-! The bring-up of a flue and the failure of its lanes (R23, R48, R245 to R249, R263): what a command leaves of the other flues, and how a
direction of lanes fails. -/

namespace Sys2Proof.Machine

/-! ### The soot record and the health monitor leave the flues alone -/

theorem foldl_flues {α : Type} (l : List α) (f : State → α → State) (s : State) (h : ∀ s x, (f s x).flues = s.flues) :
    (l.foldl f s).flues = s.flues := by
  induction l generalizing s with
  | nil => rfl
  | cons x t ih => rw [List.foldl_cons, ih, h]

@[simp] theorem ckAsk_flues (n reasons : Nat) (s : State) : (ckAsk n reasons s).flues = s.flues := by
  unfold ckAsk
  simp only [apply_ite State.flues, sendFrame_flues, modPart_flues, ite_self]

@[simp] theorem healthWarn_flues (k : Nat) (ns : List Nat) (s : State) : (healthWarn k ns s).flues = s.flues := by
  unfold healthWarn
  exact foldl_flues ns _ _ fun u n => ckAsk_flues ..

@[simp] theorem healthSpares_flues (s : State) : (healthSpares s).flues = s.flues := by
  unfold healthSpares
  simp only [apply_ite State.flues, healthWarn_flues, ite_self]

@[simp] theorem laneSoot_flues (f dir lane kind : Nat) (s : State) : (laneSoot f dir lane kind s).flues = s.flues := sootEvent_flues ..

/-! ### What becomes of one flue -/

/-- From `s` to `t` flue `f` becomes `v`, and no other flue changes. -/
def FlueSet (f : Nat) (s t : State) (v : Flue) : Prop := t.flues.get f = v ∧ ∀ g, g ≠ f → t.flues.get g = s.flues.get g

/-- From `s` to `t` flue `f` becomes `v`, and nothing else changes. -/
def FlueTurned (f : Nat) (s t : State) (v : Flue) : Prop := t.flues.get f = v ∧ OnlyFlue f s t

theorem FlueTurned.refl (f : Nat) (s : State) : FlueTurned f s s (s.flues.get f) := ⟨rfl, onlyFlue_refl f s⟩

theorem FlueTurned.mod {f : Nat} {s t : State} {v : Flue} (h : FlueTurned f s t v) (g : Flue → Flue) : FlueTurned f s (t.modFlue f g) (g v) :=
  ⟨by rw [flues_modFlue_same, h.1], onlyFlue_trans h.2 (onlyFlue_mod ..)⟩

theorem FlueTurned.set {f : Nat} {s t : State} {v : Flue} (h : FlueTurned f s t v) : FlueSet f s t v := ⟨h.1, h.2.2⟩

theorem FlueSet.mod {f : Nat} {s t : State} {v : Flue} (h : FlueSet f s t v) (g : Flue → Flue) : FlueSet f s (t.modFlue f g) (g v) :=
  ⟨by rw [flues_modFlue_same, h.1], fun k hk => by rw [flues_modFlue, if_neg (Ne.symm hk), h.2 k hk]⟩

/-- Only the flues of the new state matter. -/
theorem FlueSet.of_flues {f : Nat} {s t u : State} {v : Flue} (e : u.flues = t.flues) (h : FlueSet f s t v) : FlueSet f s u v :=
  ⟨by rw [e, h.1], fun k hk => by rw [e, h.2 k hk]⟩

theorem flueTurned_mod (f : Nat) (s : State) (g : Flue → Flue) : FlueTurned f s (s.modFlue f g) (g (s.flues.get f)) := (FlueTurned.refl f s).mod g

/-! ### Bring-up -/

/-- The state in which bring-up begins (R23, R249). -/
def startState (f : Nat) (s : State) : FlueState := if fabCfgErr s then .idle else if s.pins.presN.get f then .absent else .detect

theorem flueStart_eq (f : Nat) (s : State) : flueStart f s = s.modFlue f fun u => { u with state := startState f s } := rfl

theorem execFlueEnSet_turns {f : FlueId} {s : State} (hs : s.inService = true) (he : (s.flues.get f.val).en = false) :
    ∃ t, execFlueEnSet f s = .next t ∧
      FlueTurned f.val s t { s.flues.get f.val with en := true, attempts := 0, state := startState f.val s } := by
  refine ⟨flueStart f.val (s.modFlue f.val fun u => { u with en := true, attempts := 0 }), ?_, (flueTurned_mod ..).mod _⟩
  rw [execFlueEnSet, if_pos hs, flueEnable, if_neg (by simp [he])]

/-- A flue that is not up has nothing to hand to its partner (R267). -/
theorem execFlueEnClear_sets {f : FlueId} {s : State} (hr : (s.flues.get f.val).state ≠ .run) (hx : (s.flues.get f.val).state ≠ .fpx) :
    ∃ t, execFlueEnClear f s = .next t ∧
      FlueSet f.val s t { s.flues.get f.val with en := false, state := .idle, subs := Tab.const subClosed } := by
  have up : ¬ (s.flues.get f.val).up = true := by simp [Flue.up, hr, hx]
  rw [execFlueEnClear, flueDisable, if_neg up]
  exact ⟨_, rfl, .of_flues (healthSpares_flues _) (flueTurned_mod ..).set⟩

/-- The device with another level at a flue's presence pin (R23). -/
def presence (f : Nat) (high : Bool) (s : State) : State := { s with pins := { s.pins with presN := s.pins.presN.set f high } }

theorem presN_presence (f : Nat) (high : Bool) (s : State) : (presence f high s).pins.presN.get f = high := Tab.get_set_same ..

theorem startState_presence (f : Nat) (s : State) : startState f (presence f false s) = if fabCfgErr s then .idle else .detect := by
  have present : (if (presence f false s).pins.presN.get f then FlueState.absent else .detect) = .detect := by rw [presN_presence]; rfl
  rw [startState, present]
  rfl

/-- A cable that has gone: a flue in DETECT waits in ABSENT. -/
theorem execFluePresenceChange_high (f : FlueId) (s : State) :
    ∃ t, execFluePresenceChange f true s = .next t ∧ t.pins = (presence f.val true s).pins ∧ FlueTurned f.val (presence f.val true s) t
      (if (s.flues.get f.val).state = .detect then { s.flues.get f.val with state := .absent } else s.flues.get f.val) := by
  by_cases hd : (s.flues.get f.val).state = .detect
  · rw [if_pos hd]
    refine ⟨(presence f.val true s).modFlue f.val fun u => { u with state := .absent }, ?_, rfl, flueTurned_mod f.val (presence f.val true s) _⟩
    exact congrArg Host.Outcome.next (if_pos (by simp [hd]))
  · rw [if_neg hd]
    refine ⟨presence f.val true s, ?_, rfl, FlueTurned.refl f.val (presence f.val true s)⟩
    simp only [execFluePresenceChange, hd, decide_false, Bool.and_false, Bool.not_true, Bool.false_and, Bool.false_eq_true, if_false]
    rfl

/-- A cable that is seen: an enabled flue in ABSENT begins its bring-up. -/
theorem execFluePresenceChange_low (f : FlueId) (s : State) :
    ∃ t, execFluePresenceChange f false s = .next t ∧ t.pins = (presence f.val false s).pins ∧ FlueTurned f.val (presence f.val false s) t
      (if (s.flues.get f.val).en = true ∧ (s.flues.get f.val).state = .absent
        then { s.flues.get f.val with state := if fabCfgErr s then .idle else .detect } else s.flues.get f.val) := by
  have low : execFluePresenceChange f false s = .next (if (s.flues.get f.val).en = true ∧ (s.flues.get f.val).state = .absent
      then flueStart f.val (presence f.val false s) else presence f.val false s) := by
    simp only [execFluePresenceChange, Bool.false_and, Bool.false_eq_true, if_false, Bool.not_false, Bool.true_and, Bool.and_eq_true,
      decide_eq_true_eq]
    rfl
  refine ⟨_, low, ?_, ?_⟩
  · split <;> rfl
  · rw [← startState_presence f.val s]
    split
    · exact flueTurned_mod f.val (presence f.val false s) _
    · exact FlueTurned.refl f.val (presence f.val false s)

theorem bringUp_turns {f : Nat} {was : FlueState} {s : State} (will : FlueState) (he : (s.flues.get f).en = true) (hs : (s.flues.get f).state = was) :
    FlueTurned f s (bringUp f was will s) { s.flues.get f with state := will } := by
  rw [bringUp, if_pos ⟨he, hs⟩]
  exact flueTurned_mod ..

/-- INIT: sequences and credits start at 0, the sub-channels are closed, and the fingerprint is the last that waits (R249). -/
theorem execFlueInitDone_sets {f : FlueId} {s : State} (he : (s.flues.get f.val).en = true) (hs : (s.flues.get f.val).state = .init) :
    ∃ t v, execFlueInitDone f s = .next t ∧ FlueSet f.val s t v ∧
      v.state = .fpx ∧ v.txSeq = 0 ∧ v.rxSeq = 0 ∧ v.acked = 0 ∧ v.retry = [] ∧ (∀ k, v.used.get k = 0 ∧ v.granted.get k = 0 ∧ v.freed.get k = 0) ∧
        (∀ n, v.subs.get n = subClosed) ∧ v.txQ.getLast? = some { vc := .ctrl, part := 0, load := .link (.fpx (ownFpx s f.val v.salt)), flits := 1,
                                                                       started := false } := by
  rw [execFlueInitDone, if_pos ⟨he, hs⟩]
  have drawn : FlueSet f.val s s.draw.2 (s.flues.get f.val) := .of_flues (draw_flues s) (FlueTurned.refl ..).set
  exact ⟨_, _, rfl, (drawn.mod _).mod _, rfl, rfl, rfl, rfl, rfl, fun _ => ⟨rfl, rfl, rfl⟩, fun _ => rfl, List.getLast?_concat⟩

/-! ### An attempt that runs out of time -/

/-- The states in which an attempt at bring-up is under way (R249). -/
def trying : List FlueState := [.detect, .train, .align, .init, .fpx]

theorem execFlueBringupTimeout_trying {f : FlueId} {s : State} (he : (s.flues.get f.val).en = true) (ht : (s.flues.get f.val).state ∈ trying) :
    execFlueBringupTimeout f s = .next
      (if s.pins.presN.get f.val then s.modFlue f.val fun u => { u with state := .absent }
      else if 3 ≤ (s.flues.get f.val).attempts + 1 then
        healthSpares (s.modFlue f.val fun u => { u with attempts := u.attempts + 1, trainFail := true, state := .down })
      else s.modFlue f.val fun u => { u with attempts := u.attempts + 1, state := .train }) := by
  refine congrArg Host.Outcome.next (if_pos ?_)
  simpa [trying, he, or_assoc] using ht

theorem execFlueBringupTimeout_gone {f : FlueId} {s : State} (he : (s.flues.get f.val).en = true) (ht : (s.flues.get f.val).state ∈ trying)
    (hp : s.pins.presN.get f.val = true) :
    ∃ t, execFlueBringupTimeout f s = .next t ∧ FlueTurned f.val s t { s.flues.get f.val with state := .absent } := by
  rw [execFlueBringupTimeout_trying he ht, if_pos hp]
  exact ⟨_, rfl, flueTurned_mod ..⟩

theorem execFlueBringupTimeout_again {f : FlueId} {s : State} (he : (s.flues.get f.val).en = true) (ht : (s.flues.get f.val).state ∈ trying)
    (hp : s.pins.presN.get f.val = false) (ha : (s.flues.get f.val).attempts < 2) :
    ∃ t, execFlueBringupTimeout f s = .next t ∧
      FlueTurned f.val s t { s.flues.get f.val with attempts := (s.flues.get f.val).attempts + 1, state := .train } := by
  rw [execFlueBringupTimeout_trying he ht, if_neg (by simp [hp]), if_neg (by omega)]
  exact ⟨_, rfl, flueTurned_mod ..⟩

theorem execFlueBringupTimeout_third {f : FlueId} {s : State} (he : (s.flues.get f.val).en = true) (ht : (s.flues.get f.val).state ∈ trying)
    (hp : s.pins.presN.get f.val = false) (ha : 2 ≤ (s.flues.get f.val).attempts) :
    ∃ t, execFlueBringupTimeout f s = .next t ∧
      FlueSet f.val s t { s.flues.get f.val with attempts := (s.flues.get f.val).attempts + 1, trainFail := true, state := .down } := by
  rw [execFlueBringupTimeout_trying he ht, if_neg (by simp [hp]), if_pos (by omega)]
  exact ⟨_, rfl, .of_flues (healthSpares_flues _) (flueTurned_mod ..).set⟩

/-! ### The end of a retrain -/

theorem pairOf_ne (f : Nat) : pairOf f ≠ f := by
  unfold pairOf
  split <;> omega

theorem enterRun_of_pair_up {f : Nat} {s : State} (h : (s.flues.get (pairOf f)).up = true) :
    enterRun f s = s.modFlue f fun u => { u with state := .run } := by
  have up : ((s.modFlue f fun u => { u with state := .run }).flues.get (pairOf f)).up = true := by
    rw [flues_modFlue, if_neg (pairOf_ne f).symm, h]
  exact if_pos up

/-- Whatever waits on the partner, the flue is in RUN (R267). -/
theorem enterRun_state (f : Nat) (s : State) : ((enterRun f s).flues.get f).state = .run := by
  unfold enterRun
  simp only
  split
  · rw [flues_modFlue_same]
  · rw [flues_modFlue_same, flues_modFlue, if_neg (pairOf_ne f), flues_modFlue_same]

theorem execFlueRetrainDone_of_retrain {f : FlueId} {s : State} (h : (s.flues.get f.val).state = .retrain) :
    execFlueRetrainDone f s = .next (enterRun f.val (s.modFlue f.val fun u => { u with resync := true })) := congrArg Host.Outcome.next (if_pos h)

theorem execFlueRetrainDone_pair_up {f : FlueId} {s : State} (h : (s.flues.get f.val).state = .retrain)
    (hp : (s.flues.get (pairOf f.val)).up = true) :
    ∃ t, execFlueRetrainDone f s = .next t ∧ FlueTurned f.val s t { s.flues.get f.val with state := .run, resync := true } := by
  rw [execFlueRetrainDone_of_retrain h, enterRun_of_pair_up (by rw [flues_modFlue, if_neg (pairOf_ne f.val).symm, hp])]
  exact ⟨_, rfl, (flueTurned_mod ..).mod _⟩

/-! ### A direction of lanes -/

theorem FlueDir.logical_of_width8 {d : FlueDir} {lane : Nat} (hw : d.laneWidth = 8) (hl : lane < 8) : d.logical lane = lane := by
  rw [FlueDir.logical, if_neg (by omega), if_neg (by omega)]

theorem FlueDir.phys_of_width8 {d : FlueDir} (logical : Nat) (hw : d.laneWidth = 8) (hs : d.spare = none) : d.phys logical = logical := by
  rw [FlueDir.phys, if_neg (by omega), hs, if_neg (by simp)]

/-- The first failure of a data lane moves its logical lane to the spare (R247). -/
theorem FlueDir.fail_first {d : FlueDir} {lane : Nat} (hf : d.failed = []) (hl : lane < 8) :
    d.fail lane = ({ d with failed := [lane], spare := some lane }, some 0) := by
  have hn : ¬ lane = 8 := by omega
  simp [FlueDir.fail, hf, hn]

/-- How many of the nine lanes of a direction work once `failed` have failed (R248). -/
def workingLeft (failed : List Nat) : Nat := ((List.range 9).filter fun l => decide (l ∉ failed)).length

/-- A second failure leaves lane width 4; its kind is 2 where too few lanes work (R248). -/
theorem FlueDir.fail_second {d : FlueDir} {lane : Nat} (hf : d.failed ≠ []) (hl : lane ∉ d.failed) :
    ∃ d' k, d.fail lane = (d', some (k + 1)) ∧ d'.laneWidth = 4 ∧ (k + 1 = 2 ↔ workingLeft (d.failed ++ [lane]) < 4) := by
  have second : ¬ d.failed.isEmpty = true := by simpa using hf
  unfold FlueDir.fail
  rw [if_neg hl]
  simp only
  rw [if_neg second]
  by_cases few : workingLeft (d.failed ++ [lane]) < 4
  · exact ⟨_, 1, congrArg (fun k => (_, some k)) (if_pos few), rfl, iff_of_true rfl few⟩
  · exact ⟨_, 0, congrArg (fun k => (_, some k)) (if_neg few), rfl, iff_of_false (by decide) few⟩

theorem laneFailed_spare_flues (f dir logical : Nat) (s : State) : (laneFailed f dir logical 0 s).flues = s.flues := by
  rw [laneFailed]
  simp only [if_true, healthSpares_flues, laneSoot_flues]

/-- What a flue hands to its partner does not touch its lanes. -/
theorem leaveRun_rx (f : Nat) (s : State) : ((leaveRun f s).flues.get f).rx = (s.flues.get f).rx := by
  unfold leaveRun
  simp only [flues_modFlue, if_neg (pairOf_ne f).symm]
  split <;> simp [flues_modFlue, pairOf_ne f]

/-- At width 4 the flue retrains, and with too few lanes it is DOWN; its lanes stay as the failure left them (R248). -/
theorem laneFailed_narrow {kind : Nat} (f dir logical : Nat) (s : State) (hk : kind ≠ 0) :
    ((laneFailed f dir logical kind s).flues.get f).rx = (s.flues.get f).rx ∧
      ((laneFailed f dir logical kind s).flues.get f).state = if kind = 2 then .down else .retrain := by
  rw [laneFailed]
  simp only [if_neg hk, healthSpares_flues, flues_modFlue_same, leaveRun_rx, laneSoot_flues, and_self]

/-! ### A lane that the receiver declares failed -/

/-- A link management frame as it waits to be sent (R250). -/
def linkItem (l : LinkFrame) : TxItem := { vc := .ctrl, part := 0, load := .link l, flits := 1, started := false }

theorem execLaneLockLoss_first {f : FlueId} {lane : Fin 9} {s : State} (hr : (s.flues.get f.val).state = .run) (hl : lane.val < 8)
    (hf : (s.flues.get f.val).rx.failed = []) (hw : (s.flues.get f.val).rx.laneWidth = 8) :
    ∃ t, execLaneLockLoss f lane s = .next t ∧ FlueTurned f.val s t { s.flues.get f.val with
      rx := { (s.flues.get f.val).rx with failed := [lane.val], spare := none, takeover := some lane.val }
      txQ := (s.flues.get f.val).txQ ++ [linkItem (.lane lane.val)] } := by
  have go : ¬ ((s.flues.get f.val).state ≠ .run ∨ lane.val ∈ (s.flues.get f.val).rx.failed) := by simp [hr, hf]
  rw [execLaneLockLoss, declareLane, if_neg go]
  simp only [FlueDir.fail_first hf hl, FlueDir.logical_of_width8 hw hl]
  exact ⟨_, rfl, (flueTurned_mod ..).mod _⟩

/-- A failure that leaves width 4: what goes before the flue leaves RUN does not touch what `laneFailed` says (R248). -/
theorem declareLane_narrow {f lane k : Nat} {d : FlueDir} {s : State} (hr : (s.flues.get f).state = .run) (hl : lane ∉ (s.flues.get f).rx.failed)
    (hd : (s.flues.get f).rx.fail lane = (d, some (k + 1))) :
    ∃ (t : State) (logical : Nat), declareLane f lane s = laneFailed f 1 logical (k + 1) (t.modFlue f fun u => { u with rx := d }) := by
  rw [declareLane, if_neg (by simp [hr, hl])]
  simp only [hd]
  exact ⟨_, _, rfl⟩

theorem execLaneLockLoss_second {f : FlueId} {lane : Fin 9} {s : State} (hr : (s.flues.get f.val).state = .run)
    (hf : (s.flues.get f.val).rx.failed ≠ []) (hl : lane.val ∉ (s.flues.get f.val).rx.failed) :
    ∃ t, execLaneLockLoss f lane s = .next t ∧ (t.flues.get f.val).rx.laneWidth = 4 ∧
      (t.flues.get f.val).state = if workingLeft ((s.flues.get f.val).rx.failed ++ [lane.val]) < 4 then .down else .retrain := by
  obtain ⟨d, k, fail, width, few⟩ := FlueDir.fail_second hf hl
  obtain ⟨u, logical, declared⟩ := declareLane_narrow hr hl fail
  obtain ⟨rx, state⟩ := laneFailed_narrow f.val 1 logical (u.modFlue f.val fun u => { u with rx := d }) (Nat.succ_ne_zero k)
  refine ⟨_, congrArg Host.Outcome.next declared, ?_, ?_⟩
  · rw [rx, flues_modFlue_same, width]
  · simp only [state, few]

theorem execLaneErrorInterval_quiet (f : FlueId) {symbols : List Nat} (corr uncorr : Nat) (s : State) (h : ∀ k ∈ symbols, k ≤ 4096) :
    ∃ t, execLaneErrorInterval f symbols corr uncorr s = .next t ∧ FlueTurned f.val s t { s.flues.get f.val with
      fecCorr := satAdd (s.flues.get f.val).fecCorr corr, fecUncorr := satAdd (s.flues.get f.val).fecUncorr uncorr
      ovf := (s.flues.get f.val).ovf |||
        BitVec.ofNat 6 (2 * b2n (satOvf (s.flues.get f.val).fecCorr corr) + 4 * b2n (satOvf (s.flues.get f.val).fecUncorr uncorr)) } := by
  have low : ∀ l, ¬ 4096 < symbols.getD l 0 := by
    intro l
    rw [List.getD_eq_getElem?_getD]
    cases e : symbols[l]? with
    | none => simp
    | some k => exact Nat.not_lt.2 (h k (List.mem_of_getElem? e))
  refine ⟨_, congrArg Host.Outcome.next (List.foldl_fixed' (fun l => if_neg (low l)) _), flueTurned_mod ..⟩

/-! ### LANE and WIDTH frames -/

/-- The only link management frame that waits is the one taken. -/
theorem takeLink_single {f : Nat} {p : LinkFrame → Bool} {l : LinkFrame} {s : State} (h : (s.flues.get f).rxLink = [l]) (hp : p l = true) :
    takeLink f p s = some (l, s.modFlue f fun u => { u with rxLink := u.rxLink.erase l }) := by
  simp [takeLink, h, hp]

theorem flueTurned_takeLink {f : Nat} {l : LinkFrame} {s : State} (h : (s.flues.get f).rxLink = [l]) :
    FlueTurned f s (s.modFlue f fun u => { u with rxLink := u.rxLink.erase l }) { s.flues.get f with rxLink := [] } := by
  have e : (s.flues.get f).rxLink.erase l = [] := by simp [h]
  have t := flueTurned_mod f s fun u => { u with rxLink := u.rxLink.erase l }
  simp only [e] at t
  exact t

/-- The transmitter moves the lane and replies with the codeword from which it does (R247). -/
theorem execLaneFrame_lane {f : FlueId} {lane : Nat} {s : State} (h : (s.flues.get f.val).rxLink = [.lane lane]) (hl : lane < 8)
    (hf : (s.flues.get f.val).tx.failed = []) (hw : (s.flues.get f.val).tx.laneWidth = 8) (hs : (s.flues.get f.val).tx.spare = none) :
    ∃ cw, cw < 2 ^ 48 ∧ ∃ t, execLaneFrame f s = .next t ∧ FlueSet f.val s t { s.flues.get f.val with
      rxLink := [], tx := { (s.flues.get f.val).tx with failed := [lane], spare := some lane, spareFrom := cw }
      txQ := (s.flues.get f.val).txQ ++ [linkItem (.laneReply lane cw)] } := by
  rw [execLaneFrame, takeLink_single h rfl]
  simp only [flues_modFlue_same, FlueDir.phys_of_width8 _ hw hs, FlueDir.fail_first hf hl, if_true]
  have taken := FlueSet.of_flues (takeFree_flues _) (flueTurned_takeLink h).set
  exact ⟨s.takeFree.1 % 2 ^ 48, Nat.mod_lt _ (by decide), _, rfl, (FlueSet.of_flues (laneFailed_spare_flues ..) (taken.mod _)).mod _⟩

/-- The reply ends the takeover: the receiver reads the lane from the spare (R247). -/
theorem execLaneFrame_reply {f : FlueId} {lane cw : Nat} {s : State} (h : (s.flues.get f.val).rxLink = [.laneReply lane cw])
    (ht : (s.flues.get f.val).rx.takeover = some lane) :
    ∃ t, execLaneFrame f s = .next t ∧ FlueSet f.val s t { s.flues.get f.val with
      rxLink := [], rx := { (s.flues.get f.val).rx with spare := some lane, spareFrom := cw, takeover := none } } := by
  rw [execLaneFrame, takeLink_single h rfl]
  simp only [flues_modFlue_same, ht, if_true]
  exact ⟨_, rfl, .of_flues (laneFailed_spare_flues ..) ((flueTurned_takeLink h).mod _).set⟩

theorem execWidthFrame_waits {f : FlueId} {s : State} (h : (s.flues.get f.val).rx.takeover.isSome = true) : execWidthFrame f s = .next s :=
  congrArg Host.Outcome.next (if_pos h)

/-- The lanes in use are those common to both ends (R48). -/
theorem execWidthFrame_turns {f : FlueId} {w : Nat} {s : State} (ht : (s.flues.get f.val).rx.takeover = none)
    (h : (s.flues.get f.val).rxLink = [.width w]) :
    ∃ t, execWidthFrame f s = .next t ∧ FlueTurned f.val s t { s.flues.get f.val with
      rxLink := [], peerWidth := w, modeWidth := min (modeLanes s f.val) w } := by
  rw [execWidthFrame, if_neg (by simp [ht]), takeLink_single h rfl]
  exact ⟨_, rfl, (flueTurned_takeLink h).mod _⟩

end Sys2Proof.Machine

namespace Sys2Proof

open Machine

/-- Settles O25: the bring-up state by state, then the lanes, frame by frame. -/
theorem flueBringUp : Obligations.FlueBringUp := by
  intro f s
  refine ⟨execFlueEnSet_turns, execFlueEnClear_sets, ?presence, fun he => ⟨?detect, ?train, ?align, ?init, ?timeout⟩, ?retrain, ?lanes, ?interval,
    execWidthFrame_waits, fun w => execWidthFrame_turns⟩
  case presence =>
    intro high
    cases high with
    | true =>
      obtain ⟨t, done, pins, turned, only⟩ := execFluePresenceChange_high f s
      refine ⟨t, done, by rw [pins, presN_presence], by rw [pins]; exact only, fun _ => turned, fun h => ?_⟩
      exact absurd h (by decide)
    | false =>
      obtain ⟨t, done, pins, turned, only⟩ := execFluePresenceChange_low f s
      refine ⟨t, done, by rw [pins, presN_presence], by rw [pins]; exact only, fun h => ?_, fun _ he hs => turned.trans (if_pos ⟨he, hs⟩)⟩
      exact absurd h (by decide)
  case detect => exact fun hs => ⟨_, rfl, bringUp_turns .train he hs⟩
  case train => exact fun hs => ⟨_, rfl, bringUp_turns .align he hs⟩
  case align => exact fun hs => ⟨_, rfl, bringUp_turns .init he hs⟩
  case init =>
    intro hs
    obtain ⟨t, v, done, ⟨rfl, others⟩, fields⟩ := execFlueInitDone_sets he hs
    exact ⟨t, done, others, fields⟩
  case timeout =>
    exact fun ht => ⟨execFlueBringupTimeout_gone he ht, execFlueBringupTimeout_again he ht, execFlueBringupTimeout_third he ht⟩
  case retrain =>
    exact fun hs => ⟨⟨_, execFlueRetrainDone_of_retrain hs, enterRun_state ..⟩, execFlueRetrainDone_pair_up hs⟩
  case lanes =>
    intro lane hr hl
    refine ⟨fun hf hw => ?_, execLaneLockLoss_second hr, fun h => execLaneFrame_lane h hl, fun cw => execLaneFrame_reply⟩
    obtain ⟨t, lost, turned⟩ := execLaneLockLoss_first hr hl hf hw
    exact ⟨t, lost, turned.set⟩
  case interval =>
    intro symbols corr uncorr h
    obtain ⟨t, done, turned, only⟩ := execLaneErrorInterval_quiet f corr uncorr s h
    exact ⟨t, done, only, by rw [turned], by rw [turned], by rw [turned]⟩

end Sys2Proof
end

section
/-! The PCIe endpoint (R80, R82, R401, R422): a function level reset empties a partition, and what is pending on its embers then takes place,
which may reach the other partitions. -/

namespace Sys2Proof.Machine

/-- A device in service with two partitions: partition 0 holds a charter, ember 0 of it waits for its retirement, no grate has a free spare, and
partition 1 has the role of an active member of a job. -/
def retirementWaits : State :=
  let s := { State.reset with
    host := { State.reset.host with layout := 1, inReset := false }
    power := { State.reset.power with powerGood := true, aoOn := true, rails := true, hsBist := true, light := .ready
                                      usedSpares := Tab.const ((List.range 8).map fun r => 9 * r + 8) } }
  ((s.modEmber 0 (Ember.askRetire .host)).modPart 0 fun p => { p with adm := { p.adm with state := .chartered } }).modPart 1
    fun p => { p with rl := { p.rl with role := .active } }

theorem retirementWaits_resettable : fnPresent retirementWaits 1 = true ∧ (retirementWaits.part 0).removing = none := by decide +kernel

/-- With its tenant gone nothing owns the ember of partition 0, so its retirement takes place at once (R80), and as no spare is left the module
withdraws from the job of partition 1 (R82). -/
theorem functionLevelReset_withdraws_other_partition :
    ∃ t, execFunctionLevelReset 1 retirementWaits = .next t ∧ (t.part 1).rl.state = .withdrawn ∧ (retirementWaits.part 1).rl.state = .off :=
  ⟨_, rfl, by decide +kernel⟩

end Sys2Proof.Machine

namespace Sys2Proof

open Machine

/-- Refutes O53: the reset of function 1 does not leave every other partition as it was. Where a retirement is pending on an ember of its partition
and no spare is free, the removal of the tenant lets the retirement take place, and the module withdraws from the jobs of the others. -/
theorem not_pcieEndpoint : ¬ Obligations.PcieEndpoint := by
  intro h
  obtain ⟨-, -, reset, -⟩ := h retirementWaits
  obtain ⟨present, idle⟩ := retirementWaits_resettable
  obtain ⟨t, run, -, -, others⟩ := reset 1 present
  obtain ⟨-, -, frame⟩ := others (by decide) idle
  obtain ⟨u, run', withdrawn, off⟩ := functionLevelReset_withdraws_other_partition
  obtain rfl : u = t := Host.Outcome.next.inj (run'.symm.trans run)
  have same : u.part 1 = retirementWaits.part 1 := frame 1 (by decide)
  rw [same, off] at withdrawn
  cases withdrawn

end Sys2Proof
end

section
/-! The entry into READY (R36, R39, R389, R393): the debug session that needs no certificate opens in service alone. -/

namespace Sys2Proof.Machine

/-- The session that no certificate opened (Table 17.8). -/
def noCertSession : DebugSession := { noCert := true, part := Tab.const 0x01FF, modRights := 7, notAfter := 0 }

theorem openNoCert_session {s : State} (hn : noCertState s = true) (hp : s.lc.lcPending = false) :
    (openNoCert s).dbg.session = if s.inService then some noCertSession else s.dbg.session := by
  unfold openNoCert
  cases hs : s.inService with
  | false => simp
  | true => simp [hn, hp, noCertSession]

/-- The device that READY_ENTRY leaves, but for the session (R36, R39, R389). -/
def readied (s : State) : State :=
  { s with
    power := { s.power with light := .ready, idleGrate := Tab.const true }
    pins := { s.pins with ready := true }
    common := { s.common with voting := true }
    ks := { s.ks with metaFault := decide (s.lc.lcState = .returned) }
    lc := { s.lc with erasing := decide (s.lc.lcState = .returned) } }

theorem execReadyEntry_enters {s : State} (hl : lightingIn s .hbmTrain = true) (ht : s.power.hbmTrained = true) (hc : s.power.cdBist = true) :
    execReadyEntry s = .next (openNoCert (readied s)) := by
  rw [execReadyEntry, if_neg (by simp [hl, ht, hc])]
  rfl

/-- What `lightingIn` does not ask for: a powered always-on domain, and neither a trip nor an over-voltage shutdown. -/
theorem inService_readied (s : State) : (readied s).inService = (s.power.aoOn && s.power.rails && !s.power.tripped && !s.power.ov) := by
  simp [readied, State.inService, Power.clockRuns]

/-- HBM training is over and power-good and the rails read as present, while the always-on domain has no power. No command of the device leads
here. -/
def trainedWithoutAlwaysOn : State :=
  { State.reset with power := { State.reset.power with
      powerGood := true, rails := true, aoOn := false, light := .hbmTrain, hbmTrained := true, cdBist := true } }

theorem trainedWithoutAlwaysOn_enters : lightingIn trainedWithoutAlwaysOn .hbmTrain = true ∧ trainedWithoutAlwaysOn.power.hbmTrained = true ∧
    trainedWithoutAlwaysOn.power.cdBist = true ∧ noCertState (readied trainedWithoutAlwaysOn) = true ∧
    trainedWithoutAlwaysOn.lc.lcPending = false := by decide +kernel

end Sys2Proof.Machine

namespace Sys2Proof

open Machine

/-- Refutes O38: READY_ENTRY opens the session that needs no certificate where the device is then in service (R393), and the statement's premises
hold without that, in a state whose always-on domain has no power. -/
theorem not_lightingSequence : ¬ Obligations.LightingSequence := by
  intro h
  obtain ⟨-, -, -, -, -, -, -, entry⟩ := h trainedWithoutAlwaysOn
  obtain ⟨lighting, trained, tested, needsNone, idle⟩ := trainedWithoutAlwaysOn_enters
  obtain ⟨t, run, -, -, -, -, -, -, -, session⟩ := entry lighting trained tested
  obtain ⟨d, opened, -⟩ := session needsNone idle
  obtain rfl : openNoCert (readied trainedWithoutAlwaysOn) = t :=
    Host.Outcome.next.inj ((execReadyEntry_enters lighting trained tested).symm.trans run)
  have shut : (readied trainedWithoutAlwaysOn).inService = false := inService_readied _
  rw [openNoCert_session needsNone idle, shut] at opened
  cases opened

end Sys2Proof
end

section
/-! Heat and power (R43, R46, R51, R52, R457): the hottest of a list of readings, a junction sample with and without a trip, and the power
controller's periods. -/

namespace Sys2Proof.Machine

/-! ### The hottest reading -/

theorem hottest_ge {ts : List Byte} {b : Byte} (i : Nat) (h : b ∈ ts) : b.toNat ≤ (hottest ts i).1 := by
  induction ts generalizing i with
  | nil => cases h
  | cons t ts ih =>
    simp only [hottest]
    rcases List.mem_cons.1 h with rfl | h
    · split <;> omega
    · have := ih (i + 1) h
      split <;> omega

/-- The hottest reading is that of the sensor named with it (R51). -/
theorem hottest_reading {ts : List Byte} (i : Nat) (h : ts ≠ []) : ∃ k b, ts[k]? = some b ∧ hottest ts i = (b.toNat, i + k) := by
  induction ts generalizing i with
  | nil => exact absurd rfl h
  | cons t ts ih =>
    simp only [hottest]
    split
    · exact ⟨0, t, rfl, rfl⟩
    · next cooler =>
      have more : ts ≠ [] := by rintro rfl; simp [hottest] at cooler
      obtain ⟨k, b, read, hot⟩ := ih (i + 1) more
      exact ⟨k + 1, b, read, by rw [hot]; congr 1; omega⟩

/-- There are 41 dies (R51). -/
theorem sensorDie_lt {i : Nat} (h : i < 468) : sensorDie i < 41 := by
  unfold sensorDie
  repeat' split
  all_goals omega

/-! ### A junction sample -/

/-- The power block with a sample taken: the highest reading, its sensor, and the sensors that are hot (R51). -/
def heated (ts : List Byte) (s : State) : State := s.modPower fun p => { p with
  thermMax := BitVec.ofNat 8 (hottest ts 0).1, hotDie := BitVec.ofNat 6 (sensorDie (hottest ts 0).2), hotLast := hotSensors ts
  thermPeak := if p.thermPeak.toNat < (hottest ts 0).1 then BitVec.ofNat 8 (hottest ts 0).1 else p.thermPeak }

theorem execThermSample_taken {ts : List Byte} {s : State} (hl : ts.length = 468) (ha : s.power.aoOn = true) (hr : s.power.rails = true)
    (ht : s.power.tripped = false) :
    execThermSample ts s = .next (if (hotSensors ts).any (fun i => decide (i ∈ s.power.hotLast)) then thermTrip (heated ts s)
      else if (heated ts s).inService then thermMargin (hottest ts 0).1 (heated ts s) else heated ts s) := by
  have some_ : ts.isEmpty = false := by
    cases ts with
    | nil => cases hl
    | cons t ts => rfl
  have whole : ts.take 468 = ts := List.take_of_length_le hl.le
  simp only [execThermSample, whole, ha, hr, ht, some_, Bool.not_true, Bool.or_false, Bool.false_eq_true, if_false]
  rfl

/-- Below the margin no warning is due (R457). -/
theorem thermMargin_of_cool {max : Nat} {s : State} (h : max + s.health.curMargin < 105) :
    thermMargin max s = s.modPower fun p => { p with marginLast := false } := by
  have cool : ¬ 105 ≤ max + s.health.curMargin := by omega
  simp [thermMargin, cool]

/-- A sample without a trip or a warning changes the power block alone, in the registers of Table 2.6 and what the next sample needs. -/
theorem execThermSample_cool {ts : List Byte} {s : State} (hl : ts.length = 468) (ha : s.power.aoOn = true) (hr : s.power.rails = true)
    (ht : s.power.tripped = false) (hn : ∀ i ∈ hotSensors ts, i ∉ s.power.hotLast)
    (hm : s.inService = false ∨ ∀ b ∈ ts, b.toNat + s.health.curMargin < 105) :
    ∃ near, execThermSample ts s = .next ((heated ts s).modPower fun p => { p with marginLast := near }) := by
  have still : (hotSensors ts).any (fun i => decide (i ∈ s.power.hotLast)) = false := by simpa using hn
  have service : (heated ts s).inService = s.inService := rfl
  rw [execThermSample_taken hl ha hr ht, still, service, if_neg Bool.false_ne_true]
  cases hs : s.inService with
  | false => exact ⟨s.power.marginLast, rfl⟩
  | true =>
    refine ⟨false, congrArg Host.Outcome.next ?_⟩
    obtain ⟨k, b, read, hot⟩ := hottest_reading (ts := ts) 0 (by rintro rfl; cases hl)
    have cool := hm.resolve_left (by simp [hs]) b (List.mem_of_getElem? read)
    rw [if_pos rfl, thermMargin_of_cool (by rw [hot]; exact cool)]

/-- The highest reading is kept with its die, and the peak follows it (R51). -/
theorem heated_keeps_highest {ts : List Byte} (s : State) (hl : ts.length = 468) :
    (∀ b ∈ ts, b.toNat ≤ (heated ts s).power.thermMax.toNat) ∧
    (∃ i, ts[i]? = some (heated ts s).power.thermMax ∧ (heated ts s).power.hotDie.toNat = sensorDie i) ∧
    (heated ts s).power.thermPeak.toNat = max s.power.thermPeak.toNat (heated ts s).power.thermMax.toNat := by
  obtain ⟨k, b, read, hot⟩ := hottest_reading (ts := ts) 0 (by rintro rfl; cases hl)
  have highest : (heated ts s).power.thermMax = b := by simp [heated, hot]
  have peak : (heated ts s).power.thermPeak = if s.power.thermPeak.toNat < b.toNat then b else s.power.thermPeak := by simp [heated, hot]
  have die : (heated ts s).power.hotDie = BitVec.ofNat 6 (sensorDie k) := by simp [heated, hot]
  refine ⟨fun c hc => ?_, ⟨k, by rw [highest, read], ?_⟩, ?_⟩
  · rw [highest]
    simpa [hot] using hottest_ge 0 hc
  · have few := sensorDie_lt (hl ▸ (List.getElem?_eq_some_iff.1 read).1)
    rw [die, BitVec.toNat_ofNat, Nat.mod_eq_of_lt (by omega)]
  · rw [peak, highest]
    split <;> omega

/-! ### The thermal trip -/

/-- An event waits for its page, or is lost: no page of the record changes (R448). -/
@[simp] theorem sootEvent_pages (typ part : Nat) (payload : List Byte) (s : State) : (sootEvent typ part payload s).soot.pages = s.soot.pages := by
  unfold sootEvent
  split <;> rfl

/-- The entry that a thermal trip queues (Table 20.2). -/
def tripLogged (s : State) : State := sootEvent 0x30 0xFF (leBytes 1 s.power.hotDie.toNat ++ leBytes 1 s.power.thermMax.toNat) s

/-- The device that a thermal trip leaves, but for FAULT_N (R52). -/
def tripped (s : State) : State :=
  let u := (railsLost (tripLogged s)).modPower fun p => { p with tripped := true, flashOn := s.power.flashOn }
  { u with pins := { u.pins with thermTripN := false } }

theorem thermTrip_eq (s : State) : thermTrip s = setFault .thermal (tripped s) := rfl

theorem tripped_power (s : State) : (tripped s).power = { s.power with rails := false, trims := Tab.const 0, tripped := true } := by
  have power : (tripLogged s).power = s.power := sootEvent_power ..
  change { (tripLogged s).power with rails := false, trims := Tab.const 0, tripped := true, flashOn := s.power.flashOn } = _
  rw [power]

theorem setFault_thermTripN (c : FaultCond) (s : State) : (setFault c s).pins.thermTripN = s.pins.thermTripN := by
  unfold setFault
  split <;> rfl

/-- The pins say so, every ember is lost, and what the always-on domain, OTP and the flash hold stays (R41, R52). -/
theorem thermTrip_leaves (s : State) : (thermTrip s).pins.thermTripN = false ∧ .thermal ∈ (thermTrip s).pins.faults ∧
    (∀ l, (thermTrip s).ember l = State.reset.ember l) ∧ (thermTrip s).lc = s.lc ∧ (thermTrip s).soot.pages = s.soot.pages ∧
    (thermTrip s).ks.data = s.ks.data := by
  have lc : (tripLogged s).lc = s.lc := sootEvent_lc ..
  have data : (tripLogged s).ks.data = s.ks.data := congrArg Kindling.data (sootEvent_ks ..)
  have pages : (tripLogged s).soot.pages = s.soot.pages := sootEvent_pages ..
  rw [thermTrip_eq, setFault_thermTripN, setFault_lc, setFault_soot, setFault_ks]
  exact ⟨rfl, mem_faults_setFault .., fun l => setFault_ember .., lc, pages, data⟩

theorem execThermSample_trips {ts : List Byte} {s : State} (hl : ts.length = 468) (ha : s.power.aoOn = true) (hr : s.power.rails = true)
    (ht : s.power.tripped = false) {i : Nat} (hi : i ∈ hotSensors ts) (hw : i ∈ s.power.hotLast) :
    execThermSample ts s = .next (thermTrip (heated ts s)) := by
  have again : (hotSensors ts).any (fun i => decide (i ∈ s.power.hotLast)) = true := List.any_eq_true.2 ⟨i, hi, decide_eq_true hw⟩
  rw [execThermSample_taken hl ha hr ht, if_pos again]

/-! ### The power controller -/

/-- A saturating sum with nothing to add. -/
theorem satAdd_zero {w : Nat} (x : BitVec w) : satAdd x 0 = x := by
  simp [satAdd, x.isLt]

/-- Issue after a period of an average power (R46). -/
def issueAfter (mode : Draught) (watts issue : Nat) : Nat :=
  if powerCap mode < watts then max 4 (issue - 1) else if 100 * watts < 97 * powerCap mode then min 16 (issue + 1) else issue

/-- The period's power is kept, issue moves, and the time with reduced issue is counted (R46). -/
def averaged (w : BitVec 12) (p : Power) : Power :=
  { p with
    powerW := w, issue := issueAfter p.mode w.toNat p.issue
    throttle := p.throttle || decide (issueAfter p.mode w.toNat p.issue < 16)
    throttleTime := if p.issue < 16 then satAdd p.throttleTime 1000 else p.throttleTime
    throttleOvf := p.throttleOvf || satOvf p.throttleTime (if p.issue < 16 then 1000 else 0) }

theorem execPowerAverage_counts {w : BitVec 12} {s : State} (hr : s.power.rails = true) (ha : s.power.aoOn = true) :
    execPowerAverage w s = .next (s.modPower (averaged w)) := by
  have counted : (if s.power.issue < 16 then satAdd s.power.throttleTime 1000 else s.power.throttleTime) =
      satAdd s.power.throttleTime (if s.power.issue < 16 then 1000 else 0) := by
    split
    · rfl
    · exact (satAdd_zero _).symm
  rw [execPowerAverage, if_neg (by simp [hr, ha]), State.modPower, State.modPower, averaged, counted]
  rfl

end Sys2Proof.Machine

namespace Sys2Proof

open Machine

/-- Settles O40: a sample without and with a trip, the controller's period, and the units one by one. -/
theorem heatAndPower : Obligations.HeatAndPower := by
  intro s
  refine ⟨fun ts hl ha hr ht => ⟨?cool, ?trip⟩, ?flash, ?average,
    fun hs => ⟨fun g => ⟨?idle, ?busy, ?wake⟩, fun b => ⟨?bankIdle, ?bankWake⟩, fun h => ⟨?stackIdle, ?stackWake⟩⟩⟩
  case cool =>
    intro hn hm
    obtain ⟨near, run⟩ := execThermSample_cool hl ha hr ht hn hm
    obtain ⟨highest, sensor, peak⟩ := heated_keeps_highest s hl
    exact ⟨_, run, rfl, rfl, highest, sensor, peak⟩
  case trip =>
    intro i hi hw
    have power : (thermTrip (heated ts s)).power = _ := (setFault_power ..).trans (tripped_power _)
    exact ⟨_, execThermSample_trips hl ha hr ht hi hw, congrArg Power.tripped power, congrArg Power.rails power, (congrArg Power.flashOn power :),
      thermTrip_leaves _⟩
  case flash => exact fun ht => ⟨_, congrArg Host.Outcome.next (if_pos ht), rfl⟩
  case average =>
    intro w hr ha _ _
    exact ⟨_, execPowerAverage_counts hr ha, rfl, rfl, rfl, fun low => Bool.or_eq_true_iff.2 (.inr (decide_eq_true low)), rfl⟩
  case idle => exact fun quiet => ⟨_, congrArg Host.Outcome.next (if_pos (by simp [hs, quiet])), rfl⟩
  case busy => exact fun busy => congrArg Host.Outcome.next (if_neg (by simp [busy]))
  case wake => exact ⟨_, congrArg Host.Outcome.next (if_pos hs), rfl⟩
  case bankIdle => exact ⟨_, congrArg Host.Outcome.next (if_pos (by simp [hs])), rfl⟩
  case bankWake => exact ⟨_, congrArg Host.Outcome.next (if_pos hs), rfl⟩
  case stackIdle => exact ⟨_, congrArg Host.Outcome.next (if_pos (by simp [hs])), rfl⟩
  case stackWake => exact ⟨_, congrArg Host.Outcome.next (if_pos hs), rfl⟩

end Sys2Proof
end

section
/-! What leaves the settings of the device alone (R433 to R437, R47, R48): the common block, the power block and the settings of every ember. Neither a
partition's release from its boundary nor an alarm, a lost context or a failed line changes them; of these, what ends a class's work leaves the
protection blocks alone too. -/

namespace Sys2Proof.Machine

/-! ### The settings -/

/-- The settings that an image can stage for an ember, and the base of its BE slice (Table 3.8). -/
def Ember.settings (m : Ember) : BitVec 8 × BitVec 9 × BitVec 4 := (m.beMask, m.beBase, m.parityLimit)

/-- The common block, the power block and the settings of every ember. -/
def tuned (s : State) : Common × Power × (EmberId → BitVec 8 × BitVec 9 × BitVec 4) :=
  (s.common, s.power, fun l => (s.ember l.val).settings)

/-- The settings, with the protection block of every partition. -/
def settled (s : State) : (Common × Power × (EmberId → BitVec 8 × BitVec 9 × BitVec 4)) × (Nat → Prot) :=
  (tuned s, fun n => (s.part n).prot)

theorem tuned_of_settled {s t : State} (h : settled t = settled s) : tuned t = tuned s := congrArg Prod.fst h
theorem prot_of_settled {s t : State} (h : settled t = settled s) (n : Nat) : (t.part n).prot = (s.part n).prot :=
  congrFun (congrArg Prod.snd h) n
theorem common_of_tuned {s t : State} (h : tuned t = tuned s) : t.common = s.common := congrArg Prod.fst h
theorem power_of_tuned {s t : State} (h : tuned t = tuned s) : t.power = s.power := congrArg (fun k => k.2.1) h
theorem settings_of_tuned {s t : State} (h : tuned t = tuned s) {l : Nat} (hl : l < 25600) : (t.ember l).settings = (s.ember l).settings :=
  congrFun (congrArg (fun k => k.2.2) h) (⟨l, hl⟩ : EmberId)

theorem tuned_ite (c : Prop) [Decidable c] (s t : State) : tuned (if c then s else t) = if c then tuned s else tuned t := apply_ite ..
theorem settled_ite (c : Prop) [Decidable c] (s t : State) : settled (if c then s else t) = if c then settled s else settled t := apply_ite ..

/-- A fold keeps what each of its steps keeps. -/
theorem foldl_keeps {α β : Type} (p : State → β) (f : State → α → State) (h : ∀ s x, p (f s x) = p s) (l : List α) (s : State) :
    p (l.foldl f s) = p s := by
  induction l generalizing s with
  | nil => rfl
  | cons x t ih => rw [List.foldl_cons, ih, h]

theorem tuned_of_fields {s t : State} (hc : t.common = s.common) (hp : t.power = s.power) (hq : t.quarters = s.quarters) : tuned t = tuned s := by
  simp only [tuned, State.ember, hc, hp, hq]

/-- The four fields of the state that the settings and the protection blocks stand in. -/
theorem settled_of_fields {s t : State} (hc : t.common = s.common) (hp : t.power = s.power) (hq : t.quarters = s.quarters)
    (ha : t.parts = s.parts) : settled t = settled s := by
  simp only [settled, tuned, State.ember, State.part, hc, hp, hq, ha]

/-! ### Partitions and embers -/

@[simp] theorem tuned_modPart (n : Nat) (g : Part → Part) (s : State) : tuned (s.modPart n g) = tuned s :=
  tuned_of_fields rfl rfl rfl

theorem settled_modPart {g : Part → Part} (h : ∀ p, (g p).prot = p.prot) (n : Nat) (s : State) : settled (s.modPart n g) = settled s := by
  refine Prod.ext rfl (funext fun m => ?_)
  change ((s.modPart n g).part m).prot = (s.part m).prot
  rw [part_modPart]
  split
  · exact h _
  · rfl

theorem settled_mapEmbers {f : Ember → Ember} (h : ∀ m, (f m).settings = m.settings) (n : Nat) (s : State) :
    settled (s.mapEmbers n f) = settled s := by
  refine Prod.ext (Prod.ext rfl (Prod.ext rfl (funext fun l => ?_))) rfl
  change ((s.mapEmbers n f).ember l.val).settings = (s.ember l.val).settings
  rw [ember_mapEmbers _ _ _ _ l.isLt]
  split
  · exact h _
  · rfl

theorem settled_modEmber {f : Ember → Ember} (h : ∀ m, (f m).settings = m.settings) (l : Nat) (s : State) :
    settled (s.modEmber l f) = settled s := by
  refine Prod.ext (Prod.ext rfl (Prod.ext rfl (funext fun k => ?_))) rfl
  change ((s.modEmber l f).ember k.val).settings = (s.ember k.val).settings
  rw [ember_modEmber]
  split
  · exact h _
  · rfl

/-- A command's completion changes records, heads and events alone. -/
theorem settled_of_onlyAnswers {s t : State} (h : OnlyAnswers s t) : settled t = settled s := by
  obtain ⟨rest, parts⟩ := h
  have same : tuned { t with host := s.host, parts := s.parts, out := s.out } = tuned s := congrArg tuned rest
  refine Prod.ext same (funext fun n => ?_)
  have part := congrArg Part.prot (parts n)
  exact part

@[simp] theorem completeCmd_settled (f : Nat) (r : RingId) (b : Busy) (status detail : Nat) (arg : DWord) (s : State) :
    settled (completeCmd f r b status detail arg s) = settled s := settled_of_onlyAnswers (onlyAnswers_completeCmd ..)
@[simp] theorem partRecord_settled (n : Nat) (r : HostRecord) (s : State) : settled (partRecord n r s) = settled s :=
  settled_of_onlyAnswers (onlyAnswers_partRecord ..)

@[simp] theorem sootEvent_settled (typ n : Nat) (bs : List Byte) (s : State) : settled (sootEvent typ n bs s) = settled s :=
  settled_of_fields (sootEvent_common ..) (sootEvent_power ..) (sootEvent_quarters ..) (sootEvent_parts ..)
@[simp] theorem setFault_settled (c : FaultCond) (s : State) : settled (setFault c s) = settled s :=
  settled_of_fields (setFault_common ..) (setFault_power ..) (setFault_quarters ..) (setFault_parts ..)
@[simp] theorem sendFrame_settled (n : Nat) (d : Option Pos) (vc : Vc) (b : FrameBody) (s : State) : settled (sendFrame n d vc b s) = settled s :=
  settled_of_fields (sendFrame_common ..) (sendFrame_power ..) (sendFrame_quarters ..) (sendFrame_parts ..)

/-! ### The end of a class's work -/

theorem settings_mapThreads (f : Nat → Thread → Thread) (m : Ember) : (m.mapThreads f).settings = m.settings := by
  simp only [Ember.settings, Ember.mapThreads]

theorem settings_releaseBe (m : Ember) : m.releaseBe.settings = m.settings := by
  unfold Ember.releaseBe
  split
  · exact settings_mapThreads ..
  · rfl

@[simp] theorem endParks_settled (n : Nat) (q : Nat → Nat → Bool) (s : State) : settled (endParks n q s) = settled s := by
  refine foldl_keeps _ _ (fun s l => foldl_keeps _ _ (fun s t => ?_) _ _) _ _
  split
  · refine settled_modPart (fun p => ?_) n s.takeFree.2
    dsimp only
    split <;> rfl
  · rfl

@[simp] theorem releaseBeAll_settled (n : Nat) (s : State) : settled (releaseBeAll n s) = settled s := by
  unfold releaseBeAll
  rw [settled_ite, settled_mapEmbers settings_releaseBe, ite_self]

@[simp] theorem pauseClass_settled (n : Nat) (be : Bool) (s : State) : settled (pauseClass n be s) = settled s := by
  unfold pauseClass
  rw [settled_mapEmbers fun _ => settings_mapThreads .., endParks_settled]

@[simp] theorem dropQueueWaits_settled (n c : Nat) (p : Nat → Bool) (s : State) : settled (dropQueueWaits n c p s) = settled s := by
  unfold dropQueueWaits
  rw [settled_modPart]
  intro q
  rfl

@[simp] theorem failQueues_settled (n c status : Nat) (s : State) : settled (failQueues n c status s) = settled s := by
  refine (foldl_keeps _ _ (fun s q => ?_) _ _).trans (dropQueueWaits_settled ..)
  split
  · exact completeCmd_settled ..
  · rfl

theorem settled_loseThreads (n : Nat) (be : Bool) (s : State) : settled (s.mapEmbers n (Ember.lose be)) = settled s := by
  rw [settled_mapEmbers]
  exact fun m => settings_mapThreads _ (m.dropWork be)

theorem settled_modCtx (n c : Nat) (f : Context → Context) (s : State) : settled (s.modPart n (Part.modCtx c f)) = settled s := by
  rw [settled_modPart]
  intro p
  rfl

@[simp] theorem loseClass_settled (n : Nat) (be : Bool) (rec : Option ExcRec) (s : State) : settled (loseClass n be rec s) = settled s := by
  unfold loseClass
  split
  · split
    · rfl
    · rw [failQueues_settled, settled_ite, releaseBeAll_settled, ite_self, settled_modPart, settled_ite, settled_loseThreads, endParks_settled,
        ite_self, settled_modCtx]
      intro p
      rfl
  · rfl

@[simp] theorem loseContext_settled (n : Nat) (be : Bool) (rec : Option ExcRec) (detail : Nat) (s : State) :
    settled (loseContext n be rec detail s) = settled s := by
  unfold loseContext
  split
  · split
    · rfl
    · rw [partRecord_settled, loseClass_settled]
  · rfl

/-! ### A halted partition -/

@[simp] theorem dropHeld_settled (n : Nat) (s : State) : settled (dropHeld n s) = settled s := by
  refine (foldl_keeps _ _ (fun s h => ?_) _ _).trans (settled_of_fields rfl rfl rfl rfl)
  split
  · exact completeCmd_settled ..
  · split
    · rfl
    · exact settled_of_fields rfl rfl rfl rfl

@[simp] theorem freeSlot_settled (n slot : Nat) (s : State) : settled (freeSlot n slot s) = settled s :=
  settled_of_fields rfl rfl rfl rfl

@[simp] theorem bankStatus_settled (n page status : Nat) (s : State) : settled (bankStatus n page status s) = settled s := by
  unfold bankStatus
  rw [settled_modPart]
  intro p
  rfl

@[simp] theorem bankFinish_settled (n : Nat) (s : State) : settled (bankFinish n s) = settled s := by
  unfold bankFinish
  refine (foldl_keeps _ _ (fun s j => ?_) _ _).trans ?_
  · exact completeCmd_settled ..
  · rw [settled_modPart]
    intro p
    rfl

@[simp] theorem bankFail_settled (n slot status : Nat) (s : State) : settled (bankFail n slot status s) = settled s := by
  unfold bankFail
  split
  · simp only [bankFinish_settled, bankStatus_settled, freeSlot_settled, settled_modPart, implies_true]
  · exact freeSlot_settled ..

@[simp] theorem dropWrites_settled (n : Nat) (s : State) : settled (dropWrites n s) = settled s := by
  refine foldl_keeps _ _ (fun s w => ?_) _ _
  rw [settled_ite, bankFail_settled, freeSlot_settled, ite_self]

/-- The alarm as it latches in the partition's protection block (R230). -/
def alarmLatched (n kind line : Nat) (s : State) : State := s.modPart n fun p => { p with prot := { p.prot with
  halted := true, alarmKind := BitVec.ofNat 2 kind, alarmLine := BitVec.ofNat 64 line, verdicts := [] } }

/-- The consequences of an alarm leave the protection block as it latched. -/
theorem securityAlarm_settled {n : Nat} (kind line : Nat) (exc : Option ExcRec) {s : State} (h : (s.part n).prot.halted = false) :
    settled (securityAlarm n kind line exc s) = settled (alarmLatched n kind line s) := by
  have logged := sootEvent_settled 0x20 n (leBytes 1 kind ++ [0] ++ leBytes 8 line) (alarmLatched n kind line s)
  rw [securityAlarm, if_neg (by simp [h]), ← logged]
  simp only [partRecord_settled, settled_modPart, loseClass_settled, dropWrites_settled, dropHeld_settled, implies_true]
  exact settled_of_fields rfl rfl rfl rfl

@[simp] theorem securityAlarm_tuned (n kind line : Nat) (exc : Option ExcRec) (s : State) : tuned (securityAlarm n kind line exc s) = tuned s := by
  cases h : (s.part n).prot.halted with
  | true => rw [securityAlarm, if_pos h]
  | false => exact (tuned_of_settled (securityAlarm_settled kind line exc h)).trans rfl

/-! ### Records, warnings and withdrawal -/

@[simp] theorem partRecord_tuned (n : Nat) (r : HostRecord) (s : State) : tuned (partRecord n r s) = tuned s :=
  tuned_of_settled (partRecord_settled ..)
@[simp] theorem sootEvent_tuned (typ n : Nat) (bs : List Byte) (s : State) : tuned (sootEvent typ n bs s) = tuned s :=
  tuned_of_settled (sootEvent_settled ..)
@[simp] theorem setFault_tuned (c : FaultCond) (s : State) : tuned (setFault c s) = tuned s := tuned_of_settled (setFault_settled ..)
@[simp] theorem sendFrame_tuned (n : Nat) (d : Option Pos) (vc : Vc) (b : FrameBody) (s : State) : tuned (sendFrame n d vc b s) = tuned s :=
  tuned_of_settled (sendFrame_settled ..)
@[simp] theorem pauseClass_tuned (n : Nat) (be : Bool) (s : State) : tuned (pauseClass n be s) = tuned s :=
  tuned_of_settled (pauseClass_settled ..)
@[simp] theorem releaseBeAll_tuned (n : Nat) (s : State) : tuned (releaseBeAll n s) = tuned s := tuned_of_settled (releaseBeAll_settled ..)
@[simp] theorem loseContext_tuned (n : Nat) (be : Bool) (rec : Option ExcRec) (detail : Nat) (s : State) :
    tuned (loseContext n be rec detail s) = tuned s := tuned_of_settled (loseContext_settled ..)

theorem tuned_mapEmbers {f : Ember → Ember} (h : ∀ m, (f m).settings = m.settings) (n : Nat) (s : State) : tuned (s.mapEmbers n f) = tuned s :=
  tuned_of_settled (settled_mapEmbers h n s)
theorem tuned_modEmber {f : Ember → Ember} (h : ∀ m, (f m).settings = m.settings) (l : Nat) (s : State) : tuned (s.modEmber l f) = tuned s :=
  tuned_of_settled (settled_modEmber h l s)

/-- The state of a result, where the result is known. -/
theorem tuned_of_eq {α : Type} {p : State × α} {s t : State} {v : α} (h : p = (t, v)) (k : tuned p.1 = tuned s) : tuned t = tuned s := by
  rw [h] at k
  exact k

@[simp] theorem ckAsk_tuned (n reasons : Nat) (s : State) : tuned (ckAsk n reasons s) = tuned s := by
  unfold ckAsk
  simp only [tuned_ite, sendFrame_tuned, tuned_modPart, ite_self]

@[simp] theorem healthWarn_tuned (k : Nat) (ns : List Nat) (s : State) : tuned (healthWarn k ns s) = tuned s := by
  refine (foldl_keeps _ _ (fun s n => ?_) _ _).trans (tuned_of_fields rfl rfl rfl)
  rw [ckAsk_tuned, tuned_modPart]

@[simp] theorem healthHbm_tuned (n : Nat) (s : State) : tuned (healthHbm n s) = tuned s := by
  unfold healthHbm
  simp only [tuned_ite, healthWarn_tuned]
  split <;> exact tuned_of_fields rfl rfl rfl

@[simp] theorem dropUnsent_tuned (n : Nat) (s : State) : tuned (dropUnsent n s) = tuned s := tuned_of_fields rfl rfl rfl

@[simp] theorem withdraw_tuned (n reason : Nat) (s : State) : tuned (withdraw n reason s) = tuned s := by
  unfold withdraw
  dsimp only
  split
  · rfl
  · rw [relightRecord, partRecord_tuned, relightSoot, sootEvent_tuned, setFault_tuned, tuned_modPart, tuned_ite,
      foldl_keeps tuned _ fun _ _ => sendFrame_tuned .., dropUnsent_tuned, ite_self]

theorem settings_askRetire (c : RetireCause) (m : Ember) : (m.askRetire c).settings = m.settings := by
  unfold Ember.askRetire
  split <;> rfl

@[simp] theorem startAbort_tuned (n cause l : Nat) (exc : Option ExcRec) (s : State) : tuned (startAbort n cause l exc s) = tuned s := by
  unfold startAbort
  dsimp only
  split
  · rfl
  · rw [sendFrame_tuned, tuned_ite, tuned_modEmber (settings_askRetire _), ite_self, pauseClass_tuned, tuned_modPart]

/-! ### Lines of HBM -/

@[simp] theorem crcConsequence_tuned (n : Nat) (be : Bool) (ember : Nat) (s : State) : tuned (crcConsequence n be ember s) = tuned s := by
  unfold crcConsequence
  simp only [tuned_ite, loseContext_tuned, withdraw_tuned, startAbort_tuned, ite_self]

@[simp] theorem hbmFault_tuned (n line : Nat) (r : Reader) (absorbed : Bool) (s : State) : tuned (hbmFault n line r absorbed s) = tuned s := by
  unfold hbmFault
  simp only [tuned_ite, withdraw_tuned, setFault_tuned, sootEvent_tuned]
  cases r <;> simp only [tuned_ite, crcConsequence_tuned, healthHbm_tuned, tuned_modPart, ite_self]

@[simp] theorem storeMark_tuned (n line : Nat) (s : State) : tuned (storeMark n line s) = tuned s := tuned_modPart ..

@[simp] theorem takeLine_tuned (n line : Nat) (s : State) : tuned (takeLine n line s) = tuned s := by
  unfold takeLine
  split
  · rfl
  · exact tuned_modPart ..

@[simp] theorem readHbm_tuned (n pa len : Nat) (r : Reader) (s : State) : tuned (readHbm n pa len r s).1 = tuned s := by
  unfold readHbm
  dsimp only
  split <;> simp only [hbmFault_tuned, tuned_ite, tuned_modPart, ite_self]

@[simp] theorem checkLines_tuned (n pa len : Nat) (r : Reader) (s : State) : tuned (checkLines n pa len r s).1 = tuned s := by
  unfold checkLines
  split <;> simp only [hbmFault_tuned, securityAlarm_tuned]

@[simp] theorem readChecked_tuned (n pa len : Nat) (r : Reader) (s : State) : tuned (readChecked n pa len r s).1 = tuned s := by
  unfold readChecked
  split <;> next h => exact tuned_of_eq h (checkLines_tuned ..)

@[simp] theorem writeLine_tuned (n pa : Nat) (bs : List Byte) (r : Reader) (s : State) : tuned (writeLine n pa bs r s).1 = tuned s := by
  unfold writeLine
  dsimp only
  split
  · exact hbmFault_tuned ..
  · exact securityAlarm_tuned ..
  · rw [storeMark_tuned, tuned_modPart, takeLine_tuned]

@[simp] theorem writeHbm_tuned (fuel n pa : Nat) (bs : List Byte) (r : Reader) (s : State) : tuned (writeHbm fuel n pa bs r s).1 = tuned s := by
  induction fuel generalizing pa bs s with
  | zero => rfl
  | succ fuel ih =>
    unfold writeHbm
    split
    · rfl
    · dsimp only
      split
      · next h => exact tuned_of_eq h (writeLine_tuned ..)
      · next h => rw [ih, tuned_of_eq h (writeLine_tuned ..)]

@[simp] theorem fillFrame_tuned (n f : Nat) (bs : List Byte) (s : State) : tuned (fillFrame n f bs s) = tuned s :=
  (foldl_keeps _ _ (fun _ _ => storeMark_tuned ..) _ _).trans (tuned_modPart ..)

@[simp] theorem deviceWrite_tuned (n f off : Nat) (bs : List Byte) (s : State) : tuned (deviceWrite n f off bs s) = tuned s := writeHbm_tuned ..

/-! ### The span and the boundary image -/

@[simp] theorem stallOnce_tuned (n q : Nat) (outside : Bool) (s : State) : tuned (stallOnce n q outside s) = tuned s := by
  unfold stallOnce
  split
  · rfl
  · exact (tuned_modPart ..).trans (tuned_modPart ..)

@[simp] theorem stallEnds_tuned (n q : Nat) (outside : Bool) (s : State) : tuned (stallEnds n q outside s) = tuned s :=
  tuned_modPart ..

@[simp] theorem poolShort_tuned (n : Nat) (s : State) : tuned (poolShort n s) = tuned s := by
  unfold poolShort
  rw [tuned_ite, partRecord_tuned, tuned_modPart, ite_self]

@[simp] theorem prepUnit_tuned (n q : Nat) (r : Reader) (s : State) : tuned (prepUnit n q r s).1 = tuned s := by
  unfold prepUnit
  dsimp only
  split
  · split
    · rfl
    · exact stallEnds_tuned ..
  split
  · exact stallOnce_tuned ..
  split
  · rw [stallOnce_tuned, poolShort_tuned]
  split
  · rfl
  split
  · next h => exact tuned_of_eq h (readChecked_tuned ..)
  · next h => rw [fillFrame_tuned, tuned_modPart, stallEnds_tuned, tuned_of_eq h (readChecked_tuned ..)]

@[simp] theorem prepUnits_tuned (n : Nat) (qs : List Nat) (s : State) : tuned (prepUnits n qs s).1 = tuned s := by
  induction qs generalizing s with
  | nil => rfl
  | cons q qs ih =>
    unfold prepUnits
    split
    · next h => exact tuned_of_eq h (prepUnit_tuned ..)
    · next h => rw [ih, tuned_of_eq h (prepUnit_tuned ..)]

@[simp] theorem writeImage_tuned (n : Nat) (qs : List Nat) (bs : List Byte) (s : State) : tuned (writeImage n qs bs s) = tuned s := by
  induction qs generalizing bs s with
  | nil => rfl
  | cons q qs ih => rw [writeImage, ih, deviceWrite_tuned]

@[simp] theorem writeMeta_tuned (n : Nat) (h : Heap) (base : Nat) (s : State) : tuned (writeMeta n h base s) = tuned s := by
  unfold writeMeta
  split
  · rfl
  · refine (foldl_keeps _ _ (fun s e => ?_) _ _).trans (foldl_keeps _ _ (fun s i => ?_) _ _)
    · dsimp only
      split
      · exact deviceWrite_tuned ..
      · rfl
    · dsimp only
      split
      · rw [tuned_modPart]
        refine foldl_keeps _ _ (fun s l => ?_) _ _
        rw [tuned_ite, takeLine_tuned, ite_self]
      · rfl

@[simp] theorem storeHeaps_tuned (n : Nat) (s : State) : tuned (storeHeaps n s) = tuned s := by
  unfold storeHeaps
  split
  · rfl
  · rw [writeMeta_tuned, writeMeta_tuned]

/-! ### Checkpoints -/

theorem tuned_modKs (f : Kindling → Kindling) (s : State) : tuned (s.modKs f) = tuned s := tuned_of_fields rfl rfl rfl

@[simp] theorem releaseGen_tuned (n gen : Nat) (s : State) : tuned (releaseGen n gen s) = tuned s := by
  have freed {α : Type} (slot : α → Nat) (l : List α) (u : State) : tuned (l.foldl (fun s x => freeSlot n (slot x) s) u) = tuned u :=
    foldl_keeps _ _ (fun _ _ => tuned_of_settled (freeSlot_settled ..)) _ _
  unfold releaseGen
  dsimp only
  split
  · rw [journal, tuned_modKs, freed SlotWrite.slot, freed Prod.fst]
  · rw [freed SlotWrite.slot, freed Prod.fst]

@[simp] theorem unpinUnit_tuned (n q : Nat) (s : State) : tuned (unpinUnit n q s) = tuned s := by
  unfold unpinUnit
  rw [tuned_modPart, tuned_modPart]

@[simp] theorem ckAbandon_tuned (n : Nat) (nospace : Bool) (s : State) : tuned (ckAbandon n nospace s) = tuned s := by
  unfold ckAbandon
  dsimp only
  split
  · rfl
  · rw [ckRecord, partRecord_tuned, tuned_modPart]
    exact (foldl_keeps _ _ (fun _ _ => unpinUnit_tuned ..) _ _).trans (releaseGen_tuned ..)

@[simp] theorem ckQueue_tuned (n : Nat) (qs : List Nat) (s : State) : tuned (ckQueue n qs s) = tuned s := by
  induction qs generalizing s with
  | nil => rfl
  | cons q qs ih =>
    unfold ckQueue
    dsimp only
    split
    · next t h =>
      obtain ⟨e, -, queued⟩ := Option.bind_eq_some_iff.1 h
      obtain ⟨slot, -, rfl⟩ := Option.map_eq_some_iff.1 queued
      rw [ih, tuned_modKs]
    · exact ckAbandon_tuned ..

@[simp] theorem ckSnapshot_tuned (n : Nat) (qs : List Nat) (s : State) : tuned (ckSnapshot n qs s) = tuned s := ckQueue_tuned ..

/-! ### The release from a boundary -/

@[simp] theorem sendParity_tuned (n : Nat) (s : State) : tuned (sendParity n s) = tuned s := by
  unfold sendParity
  dsimp only
  split
  · exact sendFrame_tuned ..
  · refine foldl_keeps _ _ (fun s q => ?_) _ _
    split
    · next h => exact tuned_of_eq h (readHbm_tuned ..)
    · next h => rw [tuned_ite, sendFrame_tuned, ite_self, sendFrame_tuned, tuned_of_eq h (readHbm_tuned ..)]

@[simp] theorem newParityBoundary_tuned (n : Nat) (s : State) : tuned (newParityBoundary n s) = tuned s := by
  unfold newParityBoundary
  rw [sendParity_tuned, tuned_ite, ckSnapshot_tuned, tuned_modPart, ite_self, tuned_modPart]

@[simp] theorem boundaryRequests_tuned (n : Nat) (s : State) : tuned (boundaryRequests n s) = tuned s := by
  unfold boundaryRequests
  simp only [tuned_ite, ckAsk_tuned, tuned_modPart, ite_self]

@[simp] theorem stokerRelease_tuned (n : Nat) (s : State) : tuned (stokerRelease n s) = tuned s := by
  unfold stokerRelease
  split
  · rfl
  · rw [tuned_ite]
    dsimp only
    split
    · rfl
    · split
      · exact sendFrame_tuned ..
      · rfl

@[simp] theorem startStep_tuned (n : Nat) (boundary replay : Bool) (s : State) : tuned (startStep n boundary replay s) = tuned s := by
  unfold startStep
  split
  · rfl
  · exact tuned_mapEmbers (fun _ => settings_mapThreads ..) _ _

@[simp] theorem releaseStep_tuned (n : Nat) (s : State) : tuned (releaseStep n s) = tuned s := by
  unfold releaseStep
  simp only [releaseBeAll_tuned, tuned_mapEmbers, settings_mapThreads, implies_true, tuned_ite, tuned_modPart, stokerRelease_tuned,
    startStep_tuned, boundaryRequests_tuned, newParityBoundary_tuned, writeImage_tuned, storeHeaps_tuned, ite_self]

@[simp] theorem tryRelease_tuned (n : Nat) (s : State) : tuned (tryRelease n s) = tuned s := by
  unfold tryRelease
  extract_lets p wait
  have waits (u : State) : tuned (wait u) = tuned u := tuned_modPart ..
  split
  · rfl
  split
  · exact releaseStep_tuned ..
  split
  · exact waits s
  split
  · next h => rw [releaseStep_tuned, tuned_modPart, tuned_of_eq h (prepUnits_tuned ..)]
  · next h => rw [waits, tuned_of_eq h (prepUnits_tuned ..)]

end Sys2Proof.Machine
end

section
/-! Lighting that fails (R35, R38 to R40, R82, R441): what LIGHT_FAIL changes, the failing embers of BIST, and a parity mismatch in service. -/

namespace Sys2Proof.Machine

/-! ### The soot queue -/

/-- An event with room in the queue and the record waits at the end of the queue (R448). -/
theorem sootEvent_queued (typ part : Nat) (payload : List Byte) {s : State} (hq : s.soot.queue.length < 64) (hp : s.soot.pages.length < 16384) :
    ∃ e, (sootEvent typ part payload s).soot.queue = s.soot.queue ++ [e] ∧ e.typ = BitVec.ofNat 8 typ := by
  have room : ¬ (64 ≤ s.soot.queue.length ∨ sootFull s = true) := by simp [sootFull, hq, hp]
  rw [sootEvent, if_neg room]
  exact ⟨_, rfl, rfl⟩

theorem sootEvent_frame (typ part : Nat) (payload : List Byte) (s : State) :
    sootEvent typ part payload s = { s with soot := (sootEvent typ part payload s).soot } := by
  unfold sootEvent
  split <;> rfl

theorem setFault_frame (c : FaultCond) (s : State) : setFault c s = { s with pins := (setFault c s).pins } := by
  unfold setFault
  split <;> rfl

/-! ### LIGHT_FAIL -/

/-- From `s` to `t` lighting ends in LIGHT_FAIL with a cause: the pins say so, and past REPAIR an entry waits (R40, Table 2.2). -/
def LightsOut (k : LightCause) (s t : State) : Prop :=
  t.power.light = .lightFail ∧ t.power.cause = k ∧ t.pins.ready = false ∧ .lighting ∈ t.pins.faults ∧
  { t with power := s.power, pins := s.pins, soot := s.soot } = s ∧ t.soot.pages = s.soot.pages ∧
  (s.power.pastRepair = false → t.soot = s.soot) ∧
  (s.power.pastRepair = true → s.soot.queue.length < 64 → s.soot.pages.length < 16384 → ∃ e, t.soot.queue = s.soot.queue ++ [e] ∧ e.typ = 0x01)

/-- The entry of a failure, past REPAIR. -/
def failLogged (k : LightCause) (s : State) : State :=
  if s.power.pastRepair then sootEvent 0x01 0xFF (leBytes 1 k.code ++ leBytes 1 s.power.light.code ++ leBytes 2 s.power.hbmOk.toNat) s else s

theorem lightFail_eq (k : LightCause) (s : State) : lightFail k s =
    let t := setFault .lighting ((failLogged k s).modPower fun p => { p with light := .lightFail, cause := k })
    { t with pins := { t.pins with ready := false } } := rfl

theorem failLogged_frame (k : LightCause) (s : State) : failLogged k s = { s with soot := (failLogged k s).soot } := by
  unfold failLogged
  split
  · exact sootEvent_frame ..
  · rfl

theorem failLogged_pages (k : LightCause) (s : State) : (failLogged k s).soot.pages = s.soot.pages := by
  unfold failLogged
  split
  · exact sootEvent_pages ..
  · rfl

theorem lightFail_soot (k : LightCause) (s : State) : (lightFail k s).soot = (failLogged k s).soot := setFault_soot ..

/-- Lighting fails with a cause, after a change of the power block that leaves PAST_REPAIR alone. -/
theorem lightFail_lightsOut (k : LightCause) (s : State) (f : Power → Power) (hf : (f s.power).pastRepair = s.power.pastRepair) :
    LightsOut k s (lightFail k (s.modPower f)) := by
  have power : (lightFail k (s.modPower f)).power = { (failLogged k (s.modPower f)).power with light := .lightFail, cause := k } :=
    setFault_power ..
  have logged : (s.modPower f).power.pastRepair = s.power.pastRepair := hf
  refine ⟨by rw [power], by rw [power], rfl, mem_faults_setFault .lighting _, ?frame, ?pages, fun early => ?early, fun past hq hp => ?late⟩
  case frame =>
    rw [lightFail_eq, setFault_frame, failLogged_frame]
    rfl
  case pages => rw [lightFail_soot, failLogged_pages]; rfl
  case early =>
    rw [lightFail_soot, failLogged, logged, if_neg (by simp [early])]
    rfl
  case late =>
    rw [lightFail_soot, failLogged, logged, if_pos past]
    exact sootEvent_queued (s := s.modPower f) _ _ _ hq hp

/-- Lighting fails as it stands. -/
theorem lightFail_lightsOut_here (k : LightCause) (s : State) : LightsOut k s (lightFail k s) := lightFail_lightsOut k s id rfl

/-! ### BIST of the compute dies -/

/-- A lighting state that is not LIGHT_FAIL, with power-good and the rails. -/
theorem light_of_lightingIn {s : State} {st : LightState} (h : lightingIn s st = true) : s.power.light = st := by
  simp only [lightingIn, Bool.and_eq_true, decide_eq_true_eq] at h
  exact h.2

theorem execComputeBistDone_runs {s : State} (failing : List FailedEmber) (h : (lightingIn s .selfTest || lightingIn s .hbmTrain) = true)
    (hc : s.power.cdBist = false) : execComputeBistDone failing s = .next (
      let spare (f : FailedEmber) : Bool := (logicalAt s f.grate.val f.phys.val).isNone
      let t := (failing.filter spare ++ failing.filter fun f => !spare f).foldl (fun s f => bistFail f.grate.val f.phys.val s) s
      if t.power.light = .lightFail then t else if recordedShort t then lightFail .spares t else t.modPower fun p => { p with cdBist := true }) := by
  rw [execComputeBistDone, h, hc]
  rfl

/-- No ember fails, but an earlier lighting's record holds a retirement without a spare (R82). -/
theorem execComputeBistDone_recordedShort {s : State} {st : LightState} (hst : st ∈ [LightState.selfTest, .hbmTrain]) (hl : lightingIn s st = true)
    (hc : s.power.cdBist = false) (hr : recordedShort s = true) : execComputeBistDone [] s = .next (lightFail .spares s) := by
  have lit : (lightingIn s .selfTest || lightingIn s .hbmTrain) = true ∧ s.power.light ≠ .lightFail := by
    rw [light_of_lightingIn hl]
    simp only [List.mem_cons, List.not_mem_nil, or_false] at hst
    obtain rfl | rfl := hst <;> simp [hl]
  rw [execComputeBistDone_runs [] lit.1 hc]
  exact congrArg Host.Outcome.next ((if_neg lit.2).trans (if_pos hr))

/-- An ember in use fails and no spare of its grate is free (R35). -/
theorem execComputeBistDone_noSpare {s : State} {f : FailedEmber} {l : Nat} (hl : lightingIn s .selfTest = true) (hc : s.power.cdBist = false)
    (hu : logicalAt s f.grate.val f.phys.val = some l) (hn : pickSpare s f.grate.val f.phys.val = none) :
    execComputeBistDone [f] s = .next (lightFail .spares s) := by
  have lit : s.power.light ≠ .lightFail := by simp [light_of_lightingIn hl]
  have fails : bistFail f.grate.val f.phys.val s = lightFail .spares s := by
    simp only [bistFail, hu, hn, if_neg lit]
  have out : (lightFail .spares s).power.light = .lightFail := (lightFail_lightsOut_here .spares s).1
  rw [execComputeBistDone_runs [f] (by simp [hl]) hc]
  simp only [hu, Option.isNone_some, List.filter_cons, List.filter_nil, Bool.false_eq_true, if_false, Bool.not_false, if_true, List.nil_append,
    List.foldl_cons, List.foldl_nil, fails, out]

/-! ### Configuration parity in service -/

/-- In service no lighting is under way. -/
theorem not_lightingIn_of_inService {s : State} {st : LightState} (h : s.inService = true) (hst : st ≠ .ready) : lightingIn s st = false := by
  simp only [State.inService, Bool.and_eq_true, decide_eq_true_eq] at h
  simp [lightingIn, h.1, hst.symm]

/-- The partition as a parity mismatch leaves it, but for its soot entry and FAULT_N (R441). -/
def parityHalted (n addr : Nat) (s : State) : State :=
  let u := securityAlarm n 0 0 none s
  let v := { u with soot := s.soot }.modPart n fun p => { p with prot := { p.prot with
    alarmKind := (s.part n).prot.alarmKind, alarmLine := (s.part n).prot.alarmLine } }
  { v with common := { v.common with
    parityErr := true, parityAddr := if v.common.parityErr then v.common.parityAddr else BitVec.ofNat 32 addr } }

theorem parityHalt_eq (n addr : Nat) (s : State) :
    parityHalt n addr s = setFault .regParity (sootEvent 0x24 n (leBytes 4 addr) (parityHalted n addr s)) := rfl

theorem parityHalted_halts {n : Nat} (addr : Nat) {s : State} (h : (s.part n).prot.halted = false) :
    ((parityHalted n addr s).part n).prot.halted = true := by
  have alarm := prot_of_settled (securityAlarm_settled 0 0 none h) n
  rw [alarmLatched, part_modPart_same] at alarm
  have halted : ((securityAlarm n 0 0 none s).part n).prot.halted = true := congrArg Prot.halted alarm
  have kept : (parityHalted n addr s).part n = { (securityAlarm n 0 0 none s).part n with prot := {
      ((securityAlarm n 0 0 none s).part n).prot with
      alarmKind := (s.part n).prot.alarmKind, alarmLine := (s.part n).prot.alarmLine } } := part_modPart_same ..
  rw [kept]
  exact halted

/-- The first address stays until the error is cleared (R441). -/
theorem parityHalted_common (n addr : Nat) (s : State) : (parityHalted n addr s).common = { s.common with
    parityErr := true, parityAddr := if s.common.parityErr then s.common.parityAddr else BitVec.ofNat 32 addr } := by
  have same : (securityAlarm n 0 0 none s).common = s.common := common_of_tuned (securityAlarm_tuned ..)
  rw [← same]
  rfl

theorem execConfigParityCheck_halts {a : BitVec 26} {n : PartId} {s : State} (hs : s.inService = true) (hr : recovering s n.val = true)
    (hh : (s.part n.val).prot.halted = false) : execConfigParityCheck (some a) (some n) s = .next (parityHalt n.val a.toNat s) := by
  have dark : [LightState.otpRead, .repair, .selfTest, .hbmTrain].any (lightingIn s ·) = false := by
    simp [not_lightingIn_of_inService hs]
  simp only [execConfigParityCheck, dark, hs, hr, hh, Bool.false_eq_true, if_false, Bool.not_false, Bool.and_self, if_true]

theorem execConfigParityCheck_lighting {st : LightState} {s : State} (a : BitVec 26) (part : Option PartId)
    (hst : st ∈ [LightState.otpRead, .repair, .selfTest, .hbmTrain]) (hl : lightingIn s st = true) :
    execConfigParityCheck (some a) part s = .next (lightFail .parity s) :=
  congrArg Host.Outcome.next (if_pos (List.any_eq_true.2 ⟨st, hst, hl⟩))

end Sys2Proof.Machine

namespace Sys2Proof

open Machine

/-- Settles O39: every failure of lighting by `lightFail_lightsOut`, and the halt of a partition by what a security alarm latches. -/
theorem lightingFailures : Obligations.LightingFailures := by
  intro s
  refine ⟨?memory, ?shelf, ?noSpare, ?short, ?late, ?hbm, ?timeout, ?parity, ⟨s, rfl, rfl⟩, ?service⟩
  case memory => exact fun hl hb => ⟨_, congrArg Host.Outcome.next (if_neg (by simp [hl, hb])), lightFail_lightsOut_here ..⟩
  case shelf =>
    intro hl hb
    have apart : lightingIn s .hbmTrain = false := by simp [lightingIn, light_of_lightingIn hl]
    have run : execSelftestDone false s = .next (lightFail .mbist s) :=
      congrArg Host.Outcome.next ((if_neg (by simp [apart])).trans ((if_neg (by simp [hl, hb])).trans (if_neg Bool.false_ne_true)))
    exact ⟨_, run, lightFail_lightsOut_here ..⟩
  case noSpare => exact fun f l hl hc hu hn => ⟨_, execComputeBistDone_noSpare hl hc hu hn, lightFail_lightsOut_here ..⟩
  case short => exact fun st hst hl hc hr => ⟨_, execComputeBistDone_recordedShort hst hl hc hr, lightFail_lightsOut_here ..⟩
  case late => exact fun hl => ⟨_, congrArg Host.Outcome.next (if_pos (by simp [hl])), lightFail_lightsOut_here ..⟩
  case hbm =>
    intro ok hl ht hk
    have run : execHbmTrainDone ok s = .next (lightFail .hbm (s.modPower fun p => { p with hbmOk := ok })) :=
      congrArg Host.Outcome.next ((if_neg (by simp [hl, ht])).trans (if_neg hk))
    exact ⟨_, run, lightFail_lightsOut _ s _ rfl⟩
  case timeout => exact fun hg hr hn hf => ⟨_, congrArg Host.Outcome.next (if_pos (by simp [hg, hr, hn, hf])), lightFail_lightsOut_here ..⟩
  case parity => exact fun a part st hst hl => ⟨_, execConfigParityCheck_lighting a part hst hl, lightFail_lightsOut_here ..⟩
  case service =>
    intro a n hs hr hh
    have common : (parityHalt n.val a.toNat s).common = (parityHalted n.val a.toNat s).common := by
      rw [parityHalt_eq, setFault_common, sootEvent_common]
    rw [parityHalted_common] at common
    refine ⟨_, execConfigParityCheck_halts hs hr hh, ?_, congrArg Common.parityErr common, fun first => ?_, mem_faults_setFault ..⟩
    · rw [parityHalt_eq, setFault_part, sootEvent_part]
      exact parityHalted_halts _ hh
    · rw [common, first]
      have few : a.toNat < 2 ^ 32 := a.isLt.trans (by decide)
      simpa using few

end Sys2Proof
end

section
/-! The mailbox, the damper images and a change of draught (R433 to R437, R442, R446, R47, R48, R50): a commit by its outcome, an image applied to
the embers, and the mode in force. -/

namespace Sys2Proof.Machine

/-! ### The mailbox -/

/-- A list of values written from a number on. -/
theorem Tab.get_setMany {α : Type} [DecidableEq α] (t : Tab α) (k j : Nat) (vs : List α) :
    (t.setMany k vs).get j = if k ≤ j then (vs[j - k]?).getD (t.get j) else t.get j := by
  induction vs generalizing t k with
  | nil => simp [Tab.setMany]
  | cons v vs ih =>
    rw [Tab.setMany, ih, Tab.get_set]
    rcases Nat.lt_trichotomy k j with h | rfl | h
    · obtain ⟨d, rfl⟩ : ∃ d, j = k + 1 + d := ⟨j - k - 1, by omega⟩
      rw [if_pos (by omega), if_neg (by omega), if_pos (by omega), show k + 1 + d - k = d + 1 by omega, List.getElem?_cons_succ,
        Nat.add_sub_cancel_left]
    · rw [if_neg (by omega), if_pos rfl, if_pos (Nat.le_refl k), Nat.sub_self, List.getElem?_cons_zero, Option.getD_some]
    · rw [if_neg (by omega), if_neg (by omega), if_neg (by omega)]

/-- MBX_DATA of a value: its words, the lowest first (R442). -/
def mailWords (x : Nat) : Tab Word := (Tab.const 0).setMany 0 ((List.range 8).map fun i => BitVec.ofNat 32 (x / 2 ^ (32 * i)))

theorem mailWords_get (x : Nat) {i : Nat} (h : i < 8) : ((mailWords x).get i).toNat = x / 2 ^ (32 * i) % 2 ^ 32 := by
  rw [mailWords, Tab.get_setMany, if_pos (Nat.zero_le i), Nat.sub_zero, List.getElem?_map, List.getElem?_range h, Option.map_some,
    Option.getD_some, BitVec.toNat_ofNat]

theorem mailWords_zero (i : Nat) : (mailWords 0).get i = 0 := by
  rw [mailWords, Tab.get_setMany, if_pos (Nat.zero_le i), Nat.sub_zero, List.getElem?_map]
  by_cases h : i < 8
  · rw [List.getElem?_range h, Option.map_some, Option.getD_some, Nat.zero_div]
    rfl
  · rw [List.getElem?_eq_none (by simpa using Nat.not_lt.1 h), Option.map_none, Option.getD_none, Tab.get_const]

/-- A master's mailbox after a select: the result and the words (R442). -/
def mailboxed (sel : HWord) (res x : Nat) (r : MasterRegs) : MasterRegs :=
  { r with mbxSel := sel, mbxValid := decide (res = 0), mbxResult := BitVec.ofNat 2 res, mbxData := mailWords x }

/-- The result of a select and the value that it takes: OK, DENIED or UNKNOWN. -/
def mailboxOutcome (m : Master) (sel : HWord) (s : State) : Nat × Nat :=
  match mailboxValue m (field sel 15 8) (field sel 7 0) s with
  | none => (2, 0)
  | some (b, x) => if mayRead s m b 0 || decide (field sel 15 8 = 0x22) then (0, x) else (1, 0)

theorem mailboxTake_eq (m : Master) (sel : HWord) (s : State) :
    mailboxTake m sel s = modMaster m (mailboxed sel (mailboxOutcome m sel s).1 (mailboxOutcome m sel s).2) s := by
  unfold mailboxTake mailboxOutcome
  dsimp only
  cases mailboxValue m (field sel 15 8) (field sel 7 0) s with
  | none => rfl
  | some y =>
    dsimp only
    by_cases h : (mayRead s m y.1 0 || decide (field sel 15 8 = 0x22)) = true
    · rw [if_pos h, if_pos h]
      rfl
    · rw [if_neg h, if_neg h]
      rfl

theorem masters_modMaster_same (m : Master) (f : MasterRegs → MasterRegs) (s : State) :
    (modMaster m f s).common.masters.get (masterId m) = f (s.common.masters.get (masterId m)) := Tab.get_upd_same ..

theorem mailboxOutcome_unknown {m : Master} {sel : HWord} {s : State} (h : mailboxValue m (field sel 15 8) (field sel 7 0) s = none) :
    mailboxOutcome m sel s = (2, 0) := by rw [mailboxOutcome, h]

theorem mailboxOutcome_taken {m : Master} {sel : HWord} {s : State} {b : RegBlock} {x : Nat}
    (h : mailboxValue m (field sel 15 8) (field sel 7 0) s = some (b, x)) (hr : mayRead s m b 0 = true) : mailboxOutcome m sel s = (0, x) := by
  rw [mailboxOutcome, h]
  exact if_pos (by simp [hr])

theorem mailboxOutcome_denied {m : Master} {sel : HWord} {s : State} {b : RegBlock} {x : Nat}
    (h : mailboxValue m (field sel 15 8) (field sel 7 0) s = some (b, x)) (hr : mayRead s m b 0 = false) (hc : field sel 15 8 ≠ 0x22) :
    mailboxOutcome m sel s = (1, 0) := by
  rw [mailboxOutcome, h]
  exact if_neg (by simp [hr, hc])

/-! ### Images -/

theorem images_modImage_same (i : Nat) (f : DamperImage → DamperImage) (s : State) :
    (modImage i f s).common.images.get i = f (s.common.images.get i) := Tab.get_upd_same ..

/-- An entry as DMP_ADDR and DMP_DATA give it (R434). -/
def stagedEntry (a v : Word) : DamperEntry := { addr := 4 * field a 25 2, bcast := bitAt a 28, value := v }

section
variable {m : Master} {v : Word} {s : State} {i : Nat} (hi : field (s.common.masters.get (masterId m)).dmpAddr 31 29 = i) (h4 : i ≤ 4)
include hi h4

theorem dmpStage_appends (ha : (s.common.images.get i).armed = false) (hf : (s.common.images.get i).entries.length < 256) :
    dmpStage m v s = modImage i (fun im => { im with entries := im.entries ++ [stagedEntry (s.common.masters.get (masterId m)).dmpAddr v] }) s := by
  subst hi
  have open_ : ¬ (4 < field (s.common.masters.get (masterId m)).dmpAddr 31 29 ∨
      (s.common.images.get (field (s.common.masters.get (masterId m)).dmpAddr 31 29)).armed = true) := by
    rw [ha]
    simpa using h4
  exact (if_neg open_).trans (if_neg (Nat.not_le.2 hf))

/-- What an armed or full image does not take sets STAGE_IGN, and changes no entry (R434). -/
theorem dmpStage_ignores (h : (s.common.images.get i).armed = true ∨ 256 ≤ (s.common.images.get i).entries.length) :
    (dmpStage m v s).common.stageIgn = true ∧ ((dmpStage m v s).common.images.get i).entries = (s.common.images.get i).entries ∧
      { dmpStage m v s with common := s.common } = s := by
  subst hi
  unfold dmpStage
  dsimp only
  split
  · exact ⟨rfl, rfl, rfl⟩
  · next open_ =>
    rw [if_pos (h.resolve_left fun k => open_ (.inr k))]
    have same := Tab.get_upd_same s.common.images (field (s.common.masters.get (masterId m)).dmpAddr 31 29)
      fun im => { im with overfull := true }
    exact ⟨rfl, (congrArg DamperImage.entries same).trans rfl, rfl⟩

end

/-! ### Holds and discards -/

@[simp] theorem holdBe_tuned (n : Nat) (s : State) : tuned (holdBe n s) = tuned s := (pauseClass_tuned ..).trans (tuned_modPart ..)

@[simp] theorem dropHold_tuned (n : Nat) (s : State) : tuned (dropHold n s) = tuned s := by
  unfold dropHold
  rw [tuned_ite, tryRelease_tuned, releaseBeAll_tuned, tuned_modPart, ite_self]

@[simp] theorem dropHolds_tuned (s : State) : tuned (dropHolds s) = tuned s := foldl_keeps _ _ (fun _ _ => dropHold_tuned ..) _ _

/-- A discard empties the image, and leaves the rest of the common block alone (R435, R437). -/
theorem dmpDiscard_common {i : Nat} (hi : i ≤ 4) (s : State) :
    (dmpDiscard i s).common = { s.common with images := s.common.images.set i imageFresh } := by
  rw [dmpDiscard, if_neg (by omega)]
  dsimp only
  split
  · exact common_of_tuned (dropHolds_tuned _)
  · exact common_of_tuned (dropHold_tuned ..)

theorem dmpDiscard_image {i : Nat} (hi : i ≤ 4) (s : State) : (dmpDiscard i s).common.images.get i = imageFresh := by
  rw [dmpDiscard_common hi]
  exact Tab.get_set_same ..

/-! ### Commit -/

theorem overEmbers_common (n : Nat) (es : List DamperEntry) (f : Option Nat → Ember → Ember) (s : State) :
    (overEmbers n es f s).common = s.common :=
  foldl_keeps State.common (fun t l => t.modEmber l fun _ => f (some l) (s.ember l)) (fun _ _ => rfl) _ (s.mapEmbers n (f none))

theorem sliceCheck_common (n : Nat) (es : List DamperEntry) (s : State) : (sliceCheck n es s).1.common = s.common := by
  unfold sliceCheck
  dsimp only
  split
  · exact overEmbers_common ..
  · rfl

/-- An image that names no BE slice passes its check (R435, check 5). -/
theorem sliceCheck_of_noSlice {es : List DamperEntry} (n : Nat) (s : State) (h : ∀ e ∈ es, emberReg e.addr ≠ 0x00C) :
    sliceCheck n es s = (s, false) := by
  have none_ (l : Option Nat) : namesSlice es l = false := by
    rw [namesSlice, List.any_eq_false]
    exact fun e he => by simp [h e he]
  simp [sliceCheck, none_, State.anyEmber, Tab.anyEntry]

theorem dmpArm_common (i : Nat) (s : State) : (dmpArm i s).common = (modImage i (fun im => { im with armed := true }) s).common := by
  unfold dmpArm
  dsimp only
  split
  · rfl
  · split
    · exact common_of_tuned (holdBe_tuned ..)
    · rfl

theorem dmpArm_masters (i : Nat) (s : State) : (dmpArm i s).common.masters = s.common.masters := by
  rw [dmpArm_common]
  rfl

theorem dmpArm_image (i : Nat) (s : State) : (dmpArm i s).common.images.get i = { s.common.images.get i with armed := true } := by
  rw [dmpArm_common]
  exact images_modImage_same ..

/-- Every commit ends in a report, and leaves the masters' registers alone (R435). -/
theorem dmpCommit_reports {i : BitVec 3} (hi : i.toNat ≤ 4) (s : State) :
    ∃ code t, dmpCommit i s = dmpResult i code t ∧ t.common.masters = s.common.masters := by
  have discard (t : State) : (dmpDiscard i.toNat t).common.masters = t.common.masters := by rw [dmpDiscard_common hi]
  have checked : (if i.toNat = 4 then moduleCheck (s.common.images.get i.toNat).entries s
      else sliceCheck i.toNat (s.common.images.get i.toNat).entries s).1.common = s.common := by
    split
    · rfl
    · exact sliceCheck_common ..
  unfold dmpCommit
  dsimp only
  generalize (if i.toNat = 4 then moduleCheck (s.common.images.get i.toNat).entries s
    else sliceCheck i.toNat (s.common.images.get i.toNat).entries s) = check at checked ⊢
  split
  · exact ⟨_, _, rfl, rfl⟩
  split
  · exact ⟨_, _, rfl, rfl⟩
  split
  · exact ⟨_, _, rfl, discard s⟩
  split
  · exact ⟨_, _, rfl, discard s⟩
  split
  · exact ⟨_, _, rfl, (discard _).trans (congrArg Common.masters checked)⟩
  · exact ⟨_, _, rfl, (dmpArm_masters ..).trans (congrArg Common.masters checked)⟩

/-- A refused image is discarded, and the check that refused it is reported (R435). -/
theorem dmpResult_discarded {i : BitVec 3} (hi : i.toNat ≤ 4) (code : Nat) (s : State) :
    (dmpResult i code (dmpDiscard i.toNat s)).common.result = BitVec.ofNat 3 code ∧
      (dmpResult i code (dmpDiscard i.toNat s)).common.images.get i.toNat = imageFresh := ⟨rfl, dmpDiscard_image hi s⟩

section
variable {i : BitVec 3} {s : State}

theorem dmpCommit_armed (ha : (s.common.images.get i.toNat).armed = true) :
    (dmpCommit i s).common.result = 1 ∧ (dmpCommit i s).common.images.get i.toNat = s.common.images.get i.toNat := by
  have commit : dmpCommit i s = dmpResult i 1 s := if_pos ha
  rw [commit]
  exact ⟨rfl, rfl⟩

theorem dmpCommit_empty (ha : (s.common.images.get i.toNat).armed = false) (he : (s.common.images.get i.toNat).entries = [])
    (hi : i.toNat < 4) :
    (dmpCommit i s).common.result = 2 ∧ (dmpCommit i s).common.images.get i.toNat = s.common.images.get i.toNat := by
  have commit : dmpCommit i s = dmpResult i 2 s := (if_neg (by simp [ha])).trans (if_pos (by simp [he, hi.ne]))
  rw [commit]
  exact ⟨rfl, rfl⟩

theorem dmpCommit_overfull (hi : i.toNat ≤ 4) (ha : (s.common.images.get i.toNat).armed = false)
    (he : (s.common.images.get i.toNat).entries ≠ []) (ho : (s.common.images.get i.toNat).overfull = true) :
    (dmpCommit i s).common.result = 3 ∧ (dmpCommit i s).common.images.get i.toNat = imageFresh := by
  have commit : dmpCommit i s = dmpResult i 3 (dmpDiscard i.toNat s) :=
    (if_neg (by simp [ha])).trans ((if_neg (by simp [he])).trans (if_pos ho))
  rw [commit]
  exact dmpResult_discarded hi 3 s

theorem dmpCommit_invalid (hi : i.toNat ≤ 4) (ha : (s.common.images.get i.toNat).armed = false)
    (he : (s.common.images.get i.toNat).entries ≠ []) (ho : (s.common.images.get i.toNat).overfull = false)
    (hv : ∃ e ∈ (s.common.images.get i.toNat).entries, entryValid s i.toNat e = false) :
    (dmpCommit i s).common.result = 4 ∧ (dmpCommit i s).common.images.get i.toNat = imageFresh := by
  have commit : dmpCommit i s = dmpResult i 4 (dmpDiscard i.toNat s) :=
    (if_neg (by simp [ha])).trans ((if_neg (by simp [he])).trans ((if_neg (by simp [ho])).trans (if_pos (by simpa using hv))))
  rw [commit]
  exact dmpResult_discarded hi 4 s

/-- With the first four checks passed, the fifth decides (R435). -/
theorem dmpCommit_checked (ha : (s.common.images.get i.toNat).armed = false)
    (he : (s.common.images.get i.toNat).entries ≠ [] ∨ i.toNat = 4 ∧ draughtChange s ≠ none)
    (ho : (s.common.images.get i.toNat).overfull = false) (hv : ∀ e ∈ (s.common.images.get i.toNat).entries, entryValid s i.toNat e = true)
    {t : State} (hc : (if i.toNat = 4 then moduleCheck (s.common.images.get i.toNat).entries s
      else sliceCheck i.toNat (s.common.images.get i.toNat).entries s) = (t, false)) :
    dmpCommit i s = dmpResult i 0 (dmpArm i.toNat t) := by
  have some_ : ¬ ((s.common.images.get i.toNat).entries.isEmpty && (decide (i.toNat ≠ 4) || decide (draughtChange s = none))) = true := by
    rcases he with he | ⟨h4, hd⟩
    · simp [he]
    · simp [h4, hd]
  unfold dmpCommit
  rw [if_neg (by simp [ha]), if_neg some_, if_neg (by simp [ho]), if_neg (by simpa using hv), hc]
  rfl

end

/-- The module image's own checks: a miss limit that is not zero, and at most 16 bits of the mask (Table 19.4). -/
theorem moduleCheck_passes {es : List DamperEntry} {s : State} (hl : ∀ e ∈ es, e.addr = 0x2000 → field e.value 3 0 ≠ 0)
    (hm : popCount s.power.stageMask ≤ 16) : moduleCheck es s = ({ s with
      snt := { s.snt with cfgIgnored := s.snt.cfgIgnored || false }, power := { s.power with stageErr := s.power.stageErr || false } }, false) := by
  have limit : ((es.filter fun e => decide (e.addr = 0x2000)).getLast?).map (fun e => field e.value 3 0) ≠ some 0 := by
    intro h
    obtain ⟨e, last, zero⟩ := Option.map_eq_some_iff.1 h
    obtain ⟨mem, addr⟩ := List.mem_filter.1 (List.mem_of_getLast? last)
    exact hl e mem (of_decide_eq_true addr) zero
  simp only [moduleCheck, decide_eq_false limit, decide_eq_false (Nat.not_lt.2 hm), Bool.or_false]

theorem draughtChange_of_ne_none {s : State} (h : draughtChange s ≠ none) :
    draughtChange s = some (draughtOf s.power.stageMode.toNat, s.power.stageMask) := by
  unfold draughtChange at h ⊢
  dsimp only at h ⊢
  split at h
  · exact absurd rfl h
  · next change => exact if_neg change

/-! ### Application -/

/-- Every ember of the partition is changed, the named ones by their number. -/
theorem ember_overEmbers {n l : Nat} (es : List DamperEntry) (f : Option Nat → Ember → Ember) (s : State) (hl : l < 25600)
    (hp : s.partOf l = n) :
    (overEmbers n es f s).ember l = f (if l ∈ namedEmbers es then some l else none) (s.ember l) := by
  have named (ks : List Nat) (t : State) : (ks.foldl (fun t k => t.modEmber k fun _ => f (some k) (s.ember k)) t).ember l =
      if l ∈ ks then f (some l) (s.ember l) else t.ember l := by
    induction ks generalizing t with
    | nil => simp
    | cons k ks ih =>
      rw [List.foldl_cons, ih, ember_modEmber]
      by_cases hk : k = l
      · subst hk; simp
      · simp [hk, Ne.symm hk]
  rw [overEmbers, named, ember_mapEmbers _ _ _ _ hl, if_pos hp]
  split <;> rfl

/-- An ember that no entry names takes what is for every ember. -/
theorem staged_of_unnamed {es : List DamperEntry} {l : Nat} (m : Ember) (h : l ∉ namedEmbers es) : m.staged es none = m.staged es (some l) := by
  have apart : ∀ e ∈ es, e.bcast = false → emberOf e.addr ≠ l := by
    intro e he hb hn
    refine h (List.mem_dedup.2 (List.mem_map.2 ⟨e, List.mem_filter.2 ⟨he, by simp [hb]⟩, hn⟩))
  refine List.foldl_ext _ _ m fun m' e he => ?_
  cases hb : e.bcast with
  | true => rfl
  | false => simp [(apart e he hb).symm]

/-- Without an entry for the BE slice its base stays. -/
theorem staged_beBase {es : List DamperEntry} (l : Option Nat) (m : Ember) (h : ∀ e ∈ es, emberReg e.addr ≠ 0x00C) :
    (m.staged es l).beBase = m.beBase := by
  induction es generalizing m with
  | nil => rfl
  | cons e es ih =>
    have one : (m.setReg (emberReg e.addr) e.value).beBase = m.beBase := by
      unfold Ember.setReg
      split
      · rfl
      · next slice => exact absurd slice (h e (List.mem_cons_self ..))
      · rfl
      · rfl
    change ((if e.bcast || decide (l = some (emberOf e.addr)) then m.setReg (emberReg e.addr) e.value else m).staged es l).beBase = _
    rw [ih _ fun e he => h e (List.mem_cons_of_mem _ he)]
    split
    · exact one
    · rfl

@[simp] theorem sliceMoved_tuned (n : Nat) (s : State) : tuned (sliceMoved n s) = tuned s := by
  have closed : tuned (s.mapEmbers n Ember.closeWindows) = tuned s := tuned_mapEmbers (fun _ => settings_mapThreads ..) n s
  unfold sliceMoved
  dsimp only
  split
  · rw [loseContext_tuned, closed]
  · exact closed

/-- A partition's image staged in every ember at once (R437). -/
def imageStaged (n : Nat) (s : State) : State :=
  overEmbers n (s.common.images.get n).entries (fun l m => m.staged (s.common.images.get n).entries l)
    { s with common := { s.common with images := s.common.images.set n imageFresh } }

theorem applyPartImage_tuned (n : Nat) (s : State) : tuned (applyPartImage n s) = tuned (imageStaged n s) := by
  unfold applyPartImage
  dsimp only
  rw [dropHold_tuned, tuned_ite, sliceMoved_tuned, ite_self]
  rfl

theorem imageStaged_common (n : Nat) (s : State) :
    (imageStaged n s).common = { s.common with images := s.common.images.set n imageFresh } := overEmbers_common ..

theorem applyPartImage_image (n : Nat) (s : State) : (applyPartImage n s).common.images.get n = imageFresh := by
  rw [common_of_tuned (applyPartImage_tuned n s), imageStaged_common]
  exact Tab.get_set_same ..

/-- An image without a BE slice leaves every ember of the partition with what its entries stage, in their order. -/
theorem applyPartImage_settings {n l : Nat} {s : State} (hl : l < 25600) (hp : s.partOf l = n)
    (h : ∀ e ∈ (s.common.images.get n).entries, emberReg e.addr ≠ 0x00C) :
    ((applyPartImage n s).ember l).settings = (((s.ember l).staged (s.common.images.get n).entries (some l)).beMask, (s.ember l).beBase,
      ((s.ember l).staged (s.common.images.get n).entries (some l)).parityLimit) := by
  have ember : (imageStaged n s).ember l = (s.ember l).staged (s.common.images.get n).entries (some l) := by
    rw [imageStaged, ember_overEmbers (n := n) _ _ _ hl]
    · change Ember.staged _ _ (s.ember l) = _
      split
      · rfl
      · next unnamed => exact staged_of_unnamed _ unnamed
    · exact hp
  rw [settings_of_tuned (applyPartImage_tuned n s) hl, ember, Ember.settings, staged_beBase _ _ h]

/-- The module image's entries taken by their registers, before a change of draught (R437). -/
def moduleStaged (s : State) : State := (s.common.images.get 4).entries.foldl (fun s e => applyModuleEntry e s)
  { s with common := { s.common with images := s.common.images.set 4 imageFresh } }

theorem moduleStaged_image (s : State) : (moduleStaged s).common.images.get 4 = imageFresh := by
  have entry (t : State) (e : DamperEntry) : (applyModuleEntry e t).common = t.common := by
    unfold applyModuleEntry
    split <;> rfl
  rw [moduleStaged, foldl_keeps State.common _ entry]
  exact Tab.get_set_same ..

theorem moduleStaged_power (s : State) : (moduleStaged s).power = s.power := by
  refine foldl_keeps State.power _ (fun t e => ?_) _ _
  unfold applyModuleEntry
  split <;> rfl

theorem applyModule_of_noChange {s : State} (h : s.power.pendingMode = none) : applyModule s = dropHolds (moduleStaged s) := by
  unfold applyModule
  dsimp only
  rw [← moduleStaged, moduleStaged_power, h]

theorem applyModule_of_change {s : State} {x : Draught × Word} (h : s.power.pendingMode = some x) :
    applyModule s = (List.range (moduleStaged s).nParts).foldl (fun s n => holdBe n s)
      { moduleStaged s with power := { s.power with pendingMode := none, changing := some x } } := by
  unfold applyModule
  dsimp only
  rw [← moduleStaged, moduleStaged_power, h]

/-- The module image is empty once applied, and a change that it carried is under way (R47, R437). -/
theorem applyModule_starts (s : State) : (applyModule s).common.images.get 4 = imageFresh ∧ (applyModule s).power.pendingMode = none ∧
    ∀ x, s.power.pendingMode = some x → (applyModule s).power.changing = some x := by
  cases hx : s.power.pendingMode with
  | none =>
    rw [applyModule_of_noChange hx]
    have kept := dropHolds_tuned (moduleStaged s)
    exact ⟨(congrArg (·.images.get 4) (common_of_tuned kept)).trans (moduleStaged_image s),
      (congrArg Power.pendingMode (power_of_tuned kept)).trans ((congrArg Power.pendingMode (moduleStaged_power s)).trans hx),
      fun _ h => nomatch h⟩
  | some x =>
    rw [applyModule_of_change hx]
    have kept := foldl_keeps tuned (fun s n => holdBe n s) (fun _ _ => holdBe_tuned ..) (List.range (moduleStaged s).nParts)
      { moduleStaged s with power := { s.power with pendingMode := none, changing := some x } }
    exact ⟨(congrArg (·.images.get 4) (common_of_tuned kept)).trans (moduleStaged_image s),
      congrArg Power.pendingMode (power_of_tuned kept), fun _ h => h ▸ congrArg Power.changing (power_of_tuned kept)⟩

/-! ### A draught change -/

@[simp] theorem flueLanes_tuned (s : State) : tuned (flueLanes s) = tuned s := by
  refine foldl_keeps _ _ (fun s f => ?_) _ _
  split
  · exact tuned_of_fields rfl rfl rfl
  · rfl

theorem execDraughtChangeDone_changing {s : State} {d : Draught} {k : Word} (hs : s.inService = true) (h : s.power.changing = some (d, k)) :
    execDraughtChangeDone s =
      .next (dropHolds (flueLanes { s with power := { s.power with mode := d, maskCur := k, changing := none } })) := by
  rw [execDraughtChangeDone, if_neg (by simp [hs]), h]

theorem execDraughtChangeDone_relight {s : State} {d : Draught} {k : Word} (hs : s.inService = true) (hc : s.power.changing = none)
    (h : s.power.relightStage = some (d, k)) :
    execDraughtChangeDone s = .next (flueLanes { s with power := { s.power with mode := d, maskCur := k, relightStage := none } }) := by
  rw [execDraughtChangeDone, if_neg (by simp [hs]), hc, h]

end Sys2Proof.Machine

end

section
/-! What the mailbox, the images and a draught change show at the operations (R433 to R437, R442, R47), and O43. -/

namespace Sys2Proof.Machine

/-! ### What a commit shows, by its outcome -/

theorem dmpCommit_resultImage {i : BitVec 3} (hi : i.toNat ≤ 4) (s : State) : (dmpCommit i s).common.resultImage = i := by
  obtain ⟨code, t, eq, -⟩ := dmpCommit_reports hi s
  rw [eq]
  rfl

theorem dmpCommit_masters {i : BitVec 3} (hi : i.toNat ≤ 4) (s : State) : (dmpCommit i s).common.masters = s.common.masters := by
  obtain ⟨code, t, eq, masters⟩ := dmpCommit_reports hi s
  rw [eq]
  exact masters

section
variable {i : BitVec 3} {s : State} (ha : (s.common.images.get i.toNat).armed = false) (ho : (s.common.images.get i.toNat).overfull = false)
include ha ho

/-- A partition's image that names no BE slice and has valid entries is armed (R435). -/
theorem dmpCommit_arms_part (he : (s.common.images.get i.toNat).entries ≠ [])
    (hv : ∀ e ∈ (s.common.images.get i.toNat).entries, entryValid s i.toNat e = true)
    (hb : ∀ e ∈ (s.common.images.get i.toNat).entries, emberReg e.addr ≠ 0x00C) (hi : i.toNat < 4) :
    (dmpCommit i s).common.result = 0 ∧
      (dmpCommit i s).common.images.get i.toNat = { s.common.images.get i.toNat with armed := true } := by
  rw [dmpCommit_checked ha (.inl he) ho hv ((if_neg hi.ne).trans (sliceCheck_of_noSlice _ s hb))]
  exact ⟨rfl, dmpArm_image _ s⟩

/-- The module image with valid entries is armed, and its draught change is pending (R435, R47). -/
theorem dmpCommit_arms_module (hv : ∀ e ∈ (s.common.images.get i.toNat).entries, entryValid s i.toNat e = true) (hi : i.toNat = 4)
    (hl : ∀ e ∈ (s.common.images.get i.toNat).entries, e.addr = 0x2000 → field e.value 3 0 ≠ 0) (hm : popCount s.power.stageMask ≤ 16)
    (hd : draughtChange s ≠ none) :
    (dmpCommit i s).common.result = 0 ∧
      (dmpCommit i s).common.images.get i.toNat = { s.common.images.get i.toNat with armed := true } ∧
      (dmpCommit i s).power.pendingMode = some (draughtOf s.power.stageMode.toNat, s.power.stageMask) := by
  rw [dmpCommit_checked ha (.inr ⟨hi, hd⟩) ho hv ((if_pos hi).trans (moduleCheck_passes hl hm))]
  refine ⟨rfl, dmpArm_image _ _, ?_⟩
  rw [hi]
  exact draughtChange_of_ne_none hd

end

/-! ### The operations -/

theorem execDmpData_privileged {m : Master} {s : State} (h : mayPrivileged s m = true) (v : Word) :
    execDmpData m v s = .next (dmpStage m v s) := congrArg Host.Outcome.next (if_pos h)

theorem execDmpCommit_privileged {m : Master} {s : State} (h : mayPrivileged s m = true) (i : BitVec 3) :
    execDmpCommit m i s = .next (dmpCommit i (modMaster m (fun r => { r with cimage := i }) s)) := congrArg Host.Outcome.next (if_pos h)

theorem execDmpAbort_privileged {m : Master} {s : State} (h : mayPrivileged s m = true) (i : BitVec 3) :
    execDmpAbort m i s = .next (dmpDiscard i.toNat (modMaster m (fun r => { r with cimage := i }) s)) := congrArg Host.Outcome.next (if_pos h)

theorem execMbxSel_reached {m : Master} {s : State} (h : reaches s m true = true) (v : HWord) :
    execMbxSel m v s = .next (mailboxTake m v s) := congrArg Host.Outcome.next (if_pos h)

theorem execDamperTimeout_armed {i : Fin 5} {s : State} (h : (s.common.images.get i.val).armed = true) :
    execDamperTimeout i s = .next (dmpDiscard i.val { s with common := { s.common with dmpTimeout := true } }) :=
  congrArg Host.Outcome.next (if_pos h)

theorem execDamperApply_part {i : Fin 5} {s : State} (ha : (s.common.images.get i.val).armed = true) (hs : s.inService = true)
    (hi : i.val < 4) (hq : partQuiet s i.val = true) : execDamperApply i s = .next (applyPartImage i.val s) :=
  congrArg Host.Outcome.next ((if_neg (by simp [ha, hs])).trans ((if_neg hi.ne).trans (if_pos hq)))

theorem execDamperApply_module {i : Fin 5} {s : State} (ha : (s.common.images.get i.val).armed = true) (hs : s.inService = true)
    (hi : i.val = 4) (hq : moduleQuiet s = true) : execDamperApply i s = .next (applyModule s) :=
  congrArg Host.Outcome.next ((if_neg (by simp [ha, hs])).trans ((if_pos hi).trans (if_pos hq)))

theorem execDraughtQuiescent_pending {s : State} {x : Draught × Word} (hs : s.inService = true) (hq : moduleQuiet s = true)
    (hx : s.power.pendingMode = some x) : execDraughtQuiescent s = .next (applyModule s) :=
  congrArg Host.Outcome.next (if_pos (by simp [hs, hq, hx]))

/-! ### The mode in force -/

theorem dropHolds_flueLanes_power (s : State) : (dropHolds (flueLanes s)).power = s.power :=
  power_of_tuned ((dropHolds_tuned _).trans (flueLanes_tuned s))

/-! ### The mailbox as its master reads it -/

theorem mailboxTake_own (m : Master) (v : HWord) (s : State) : (mailboxTake m v s).common.masters.get (masterId m) =
    mailboxed v (mailboxOutcome m v s).1 (mailboxOutcome m v s).2 (s.common.masters.get (masterId m)) := by
  rw [mailboxTake_eq]
  exact masters_modMaster_same ..

theorem mailboxTake_others (m : Master) (v : HWord) (s : State) {k : Nat} (h : k ≠ masterId m) :
    (mailboxTake m v s).common.masters.get k = s.common.masters.get k := by
  rw [mailboxTake_eq]
  exact Tab.get_upd_ne _ _ (Ne.symm h)

theorem mailboxTake_frame (m : Master) (v : HWord) (s : State) : { mailboxTake m v s with common := s.common } = s := by
  rw [mailboxTake_eq]
  rfl

/-- A select that fails leaves the mailbox without a value: its words are zero (R442). -/
theorem mailboxed_failed (v : HWord) {res : Nat} (h : res ≠ 0) (r : MasterRegs) :
    (mailboxed v res 0 r).mbxValid = false ∧ (mailboxed v res 0 r).mbxResult = BitVec.ofNat 2 res ∧
      ∀ i, (mailboxed v res 0 r).mbxData.get i = 0 := ⟨decide_eq_false h, rfl, mailWords_zero⟩

theorem mailboxed_taken (v : HWord) (x : Nat) (r : MasterRegs) :
    (mailboxed v 0 x r).mbxValid = true ∧ (mailboxed v 0 x r).mbxResult = 0 ∧
      ∀ i, i < 8 → ((mailboxed v 0 x r).mbxData.get i).toNat = x / 2 ^ (32 * i) % 2 ^ 32 := ⟨rfl, rfl, fun _ => mailWords_get x⟩

end Sys2Proof.Machine

namespace Sys2Proof
open Machine

/-- Settles O43: each operation by the case of its checks. A commit is followed through Table 19.4's order, an applied image ember by ember, and the
holds that an image drops leave the common block, the power block and the ember settings alone. -/
theorem damperImages : Obligations.DamperImages := by
  intro s m
  refine ⟨fun reached v => ?_, fun priv => ⟨fun v => ?_, fun i => ?_, fun i hi => ?_, fun i armed => ⟨?_, ?_, ?_⟩, ?_, ?_⟩⟩
  · refine ⟨_, execMbxSel_reached reached v, mailboxTake_frame m v s, ?_⟩
    rw [mailboxTake_own]
    refine ⟨rfl, fun k => mailboxTake_others m v s, fun unknown => ?_, fun b x value => ⟨fun may => ?_, fun mayNot code => ?_⟩⟩
    · rw [mailboxOutcome_unknown unknown]
      exact mailboxed_failed v (by decide) _
    · rw [mailboxOutcome_taken value may]
      exact mailboxed_taken v x _
    · rw [mailboxOutcome_denied value mayNot code]
      exact mailboxed_failed v (by decide) _
  · intro j hj
    refine ⟨fun notArmed room => ⟨_, execDmpData_privileged priv v, ?_⟩, fun refused => ⟨_, execDmpData_privileged priv v, ?_⟩⟩
    · rw [dmpStage_appends rfl hj notArmed room]
      exact ⟨rfl, images_modImage_same .., fun k hk => Tab.get_upd_ne _ _ (Ne.symm hk)⟩
    · exact dmpStage_ignores rfl hj refused
  · intro im hi
    refine ⟨_, execDmpCommit_privileged priv i, dmpCommit_resultImage hi _, ?_, fun armed => ?_, fun notArmed noEntry part => ?_,
      fun notArmed entries full => ?_, fun notArmed entries fits invalid => ?_, fun notArmed entries fits valid noSlice part => ?_,
      fun notArmed fits valid module limit mask change => ?_⟩
    · rw [dmpCommit_masters hi, masters_modMaster_same]
    · exact dmpCommit_armed armed
    · exact dmpCommit_empty notArmed noEntry part
    · exact dmpCommit_overfull hi notArmed entries full
    · exact dmpCommit_invalid hi notArmed entries fits invalid
    · exact dmpCommit_arms_part notArmed fits entries valid noSlice part
    · subst module
      exact dmpCommit_arms_module notArmed fits valid rfl limit mask change
  · refine ⟨_, execDmpAbort_privileged priv i, dmpDiscard_image hi _, ?_⟩
    rw [dmpDiscard_common hi]
    rfl
  · refine ⟨_, execDamperTimeout_armed armed, dmpDiscard_image (by omega) _, ?_⟩
    rw [dmpDiscard_common (by omega)]
  · intro service part quiet
    refine ⟨_, execDamperApply_part armed service part quiet, applyPartImage_image i.val s, fun entries l hl hp => ?_⟩
    have settings := applyPartImage_settings hl hp fun e he => (entries e he).2
    exact ⟨congrArg (·.1) settings, congrArg (·.2.2) settings, congrArg (·.2.1) settings⟩
  · exact fun service module quiet => ⟨_, execDamperApply_module armed service module quiet, applyModule_starts s⟩
  · intro service quiet x pending
    obtain ⟨image, noPending, changing⟩ := applyModule_starts s
    exact ⟨_, execDraughtQuiescent_pending service quiet pending, image, noPending, changing x pending⟩
  · intro service d k
    refine ⟨fun changing => ⟨_, execDraughtChangeDone_changing service changing, ?_⟩,
      fun idle relight => ⟨_, execDraughtChangeDone_relight service idle relight, ?_⟩⟩
    · rw [dropHolds_flueLanes_power]
      exact ⟨rfl, rfl, rfl⟩
    · rw [power_of_tuned (flueLanes_tuned _)]
      exact ⟨rfl, rfl, rfl⟩

end Sys2Proof
end

section
/-! Scratch accesses (R63, R78, R87, R88, R94, R95, R102): what the checks let through, and what a command leaves of its ember, followed from one
change of the state to the next; and O6. -/

namespace Sys2Proof.Machine

/-! ### What an access leaves of the ember -/

theorem thread_modEmber_of_thr (f : Ember → Ember) (hf : ∀ m, (f m).thr = m.thr) (l k j : Nat) (s : State) :
    (s.modEmber l f).thread k j = s.thread k j := by
  unfold State.thread
  rw [ember_modEmber]
  split
  · rw [hf]
  · rfl

@[simp] theorem thread_strike (strike : List Nat) (l k j : Nat) (s : State) : (s.modEmber l (Ember.strike strike)).thread k j = s.thread k j :=
  thread_modEmber_of_thr (Ember.strike strike) (fun _ => rfl) l k j s

@[simp] theorem thread_storeScratch (l off : Nat) (bs : List Byte) (k j : Nat) (s : State) : (storeScratch l off bs s).thread k j = s.thread k j :=
  thread_modEmber_of_thr (Ember.store off bs) (fun _ => rfl) l k j s

@[simp] theorem scratch_strike (strike : List Nat) (m : Ember) : (m.strike strike).scratch = m.scratch := rfl
@[simp] theorem scratch_store (off : Nat) (bs : List Byte) (m : Ember) : (m.store off bs).scratch = m.scratch.write off bs := rfl

theorem onlyEmbers_markIssued (x : Site) (s : State) : OnlyEmbers [x.e.val] s (markIssued x s) := onlyEmbers_mod ..

theorem scratch_modAt (x : Site) (g : Thread → Thread) (s : State) : ((modAt x g s).ember x.e.val).scratch = (s.ember x.e.val).scratch := by
  unfold modAt State.modThread
  rw [ember_modEmber_same]
  rfl

/-- From `s` to `u` the thread at `x` has become `h` and the scratch of its ember `m`; no other thread, no other ember, and nothing outside the
embers has changed. -/
def ScratchAt (x : Site) (s u : State) (h : Thread) (m : Nat → Byte) : Prop :=
  thrAt u x = h ∧ (∀ b, (u.ember x.e.val).scratch.get b = m b) ∧ (∀ j, j ≠ x.t.val → u.thread x.e.val j = s.thread x.e.val j) ∧
    OnlyEmbers [x.e.val] s u

theorem ScratchAt.refl (x : Site) (s : State) : ScratchAt x s s (thrAt s x) (s.ember x.e.val).scratch.get :=
  ⟨rfl, fun _ => rfl, fun _ _ => rfl, onlyEmbers_refl ..⟩

section
variable {x : Site} {s u : State} {h : Thread} {m : Nat → Byte}

/-- Upsets of parity bits change neither bytes nor threads (R78). -/
theorem ScratchAt.struck (a : ScratchAt x s u h m) (strike : List Nat) :
    ScratchAt x s (u.modEmber x.e.val (Ember.strike strike)) h m := by
  obtain ⟨own, bytes, others, frame⟩ := a
  refine ⟨?_, fun b => ?_, fun j hj => ?_, onlyEmbers_trans frame (onlyEmbers_mod ..)⟩
  · rw [thrAt, thread_strike]
    exact own
  · rw [ember_modEmber_same, scratch_strike, bytes]
  · rw [thread_strike, others j hj]

theorem ScratchAt.mod (a : ScratchAt x s u h m) (g : Thread → Thread) : ScratchAt x s (modAt x g u) (g h) m := by
  obtain ⟨own, bytes, others, frame⟩ := a
  refine ⟨?_, fun b => ?_, fun j hj => ?_, onlyEmbers_trans frame (onlyEmbers_modAt ..)⟩
  · rw [thrAt_modAt, own]
  · rw [scratch_modAt, bytes]
  · rw [other_modAt fun e => hj (congrArg Prod.snd e), others j hj]

theorem ScratchAt.issued (a : ScratchAt x s u h m) : ScratchAt x s (markIssued x u) h m := by
  obtain ⟨own, bytes, others, frame⟩ := a
  refine ⟨?_, fun b => ?_, fun j hj => ?_, onlyEmbers_trans frame (onlyEmbers_markIssued ..)⟩
  · rw [thrAt_markIssued, own]
  · rw [ember_markIssued, if_pos rfl]
    exact bytes b
  · rw [thread_markIssued, others j hj]

/-- A store changes the bytes that it writes (R94). -/
theorem ScratchAt.store {m : Memory} (a : ScratchAt x s u h m.get) (off size v : Nat) :
    ScratchAt x s (storeScratch x.e.val off (leBytes size v) u) h (stored m off size v) := by
  obtain ⟨own, bytes, others, frame⟩ := a
  refine ⟨?_, fun b => ?_, fun j hj => ?_, onlyEmbers_trans frame (onlyEmbers_mod ..)⟩
  · rw [thrAt, thread_storeScratch]
    exact own
  · rw [storeScratch, ember_modEmber_same, scratch_store, get_write_leBytes, bytes]
    rfl
  · rw [thread_storeScratch, others j hj]

end

/-- An instruction that issues, acts on scratch and steps on. -/
theorem scratchGives_of_issue {c : Instr} {s u : State} {x : Site} {w : DWord} {f : BitVec 52} {ss ps : List Nat} {static : Option Nat}
    {body : State → Eff} {h : Thread} {m : Nat → Byte} (hc : exec c s = .next (issue x w f ss ps anyRoom static body s))
    (hi : issuable s x w f ss ps = true) (hs : static = none) (hb : body s = .ok u) (a : ScratchAt x s u h m)
    (hh : h.stepOne = (thrAt s x).stepOne) : ScratchGives c s x h.next m := by
  have running : (thrAt u x).stepOne = (thrAt s x).stepOne := by rw [a.1, hh]
  exact ⟨_, hc.trans (congrArg Host.Outcome.next (issuable_next hi rfl hs hb running)), (a.mod Thread.next).issued⟩

/-! ### What the checks let through -/

section
variable {s : State} {x : Site} {a : DWord} {size : Nat} {write : Bool} {strike : List Nat}

theorem scratchCheck_of_mayAccess (h : MayAccess s x a size write) : scratchCheck s x a size size write = none := by
  obtain ⟨aligned, inside, code⟩ := h
  unfold State.isBe at inside
  cases write with
  | false => simp [scratchCheck, aligned, inside]
  | true => simp [scratchCheck, aligned, inside, code rfl]

theorem withScratch_of_mayAccess (h : MayAccess s x a size write) (k : State → Eff) :
    withScratch x a size size write strike k s = k (s.modEmber x.e.val (Ember.strike strike)) := by
  rw [withScratch, scratchCheck_of_mayAccess h]

theorem mismatches_of_clean (h : Clean s x strike a size) :
    ((s.modEmber x.e.val (Ember.strike strike)).ember x.e.val).mismatches a.toNat size = [] := by
  rw [ember_modEmber_same]
  exact h

theorem loadScratch_of_clean (h : Clean s x strike a size) :
    loadScratch (s.modEmber x.e.val (Ember.strike strike)) x.e.val a.toNat size = .ok ((s.ember x.e.val).scratch.num a.toNat size) := by
  simp only [loadScratch, mismatches_of_clean h]
  rw [ember_modEmber_same, scratch_strike]

end

/-! ### Values -/

theorem reserved_of {ok : Bool} (h : ok = true) : reserved ok = none := by
  rw [h]
  rfl

theorem extend_eq (size minor v : Nat) : extend size (decide (4 ≤ minor)) v =
    if 4 ≤ minor ∧ 2 ^ (8 * size - 1) ≤ v then BitVec.ofInt 64 (v - 2 ^ (8 * size)) else BitVec.ofNat 64 v := by
  simp only [extend, decide_eq_true_eq]

/-- The eight operations of ATOM as the table lists them (R95). -/
theorem atomValue_eq (minor : Fin 8) (old rb cmp : DWord) : atomValue minor.val old rb cmp =
    ([old + rb, old &&& rb, old ||| rb, old ^^^ rb, BitVec.ofNat 64 (min old.toNat rb.toNat), BitVec.ofNat 64 (max old.toNat rb.toNat), rb,
      if old = cmp then rb else old][minor.val]?).getD 0 := by
  have least : BitVec.ofNat 64 (min old.toNat rb.toNat) = if rb.toNat < old.toNat then rb else old := by
    split
    · rw [Nat.min_eq_right (by omega), BitVec.ofNat_toNat, BitVec.setWidth_eq]
    · rw [Nat.min_eq_left (by omega), BitVec.ofNat_toNat, BitVec.setWidth_eq]
  have greatest : BitVec.ofNat 64 (max old.toNat rb.toNat) = if old.toNat < rb.toNat then rb else old := by
    split
    · rw [Nat.max_eq_right (by omega), BitVec.ofNat_toNat, BitVec.setWidth_eq]
    · rw [Nat.max_eq_left (by omega), BitVec.ofNat_toNat, BitVec.setWidth_eq]
  rw [least, greatest]
  fin_cases minor <;> rfl

/-! ### The accesses -/

section
variable {x : Site} {f : BitVec 52} {strike : List Nat} {s : State}

/-- The effective address of a load, a store or a descriptor transfer (R94, R102). -/
def effAddr (s : State) (x : Site) (f : BitVec 52) : DWord := (thrAt s x).sReg (fRa f) + fImm f

theorem effAddr_def (s : State) (x : Site) (f : BitVec 52) : effAddr s x f = (thrAt s x).sReg (fRa f) + fImm f := rfl

theorem lds_gives {minor : Fin 8} (hi : issuable s x (insnWord 7 minor.val f) f [fRd f, fRa f] [] = true)
    (may : MayAccess s x (effAddr s x f) (2 ^ (minor.val % 4)) false) (clean : Clean s x strike (effAddr s x f) (2 ^ (minor.val % 4))) :
    ScratchGives (.lds x minor f strike) s x ((thrAt s x).setS (fRd f) (extend (2 ^ (minor.val % 4)) (decide (4 ≤ minor.val))
      ((s.ember x.e.val).scratch.num (effAddr s x f).toNat (2 ^ (minor.val % 4))))).next (s.ember x.e.val).scratch.get := by
  refine scratchGives_of_issue rfl hi rfl ?_ (((ScratchAt.refl x s).struck strike).mod _) rfl
  simp only [← effAddr_def, withScratch_of_mayAccess may, loadScratch_of_clean clean]

theorem sts_gives {minor : Fin 4} (hi : issuable s x (insnWord 8 minor.val f) f [fRd f, fRa f] [] = true)
    (may : MayAccess s x (effAddr s x f) (2 ^ minor.val) true) (clean : 2 ^ minor.val < 8 → Clean s x strike (effAddr s x f) (2 ^ minor.val)) :
    ScratchGives (.sts x minor f strike) s x (thrAt s x).next
      (stored (s.ember x.e.val).scratch (effAddr s x f).toNat (2 ^ minor.val) ((thrAt s x).sReg (fRd f)).toNat) := by
  refine scratchGives_of_issue rfl hi rfl ?_ (((ScratchAt.refl x s).struck strike).store ..) rfl
  have good : (if 2 ^ minor.val < 8 then
      ((s.modEmber x.e.val (Ember.strike strike)).ember x.e.val).mismatches (effAddr s x f).toNat (2 ^ minor.val) else []) = [] := by
    split
    · next narrow => exact mismatches_of_clean (clean narrow)
    · rfl
  simp only [← effAddr_def, withScratch_of_mayAccess may, good, List.isEmpty_nil, if_true]

theorem atom_gives {minor : Fin 8} (hi : issuable s x (insnWord 9 minor.val f) f [fRd f, fRa f, fRb f] [] = true) (low : fLow f = 0)
    (may : MayAccess s x ((thrAt s x).sReg (fRa f)) 8 true) (clean : Clean s x strike ((thrAt s x).sReg (fRa f)) 8) {old : DWord}
    (ho : old = BitVec.ofNat 64 ((s.ember x.e.val).scratch.num ((thrAt s x).sReg (fRa f)).toNat 8)) :
    ScratchGives (.atom x minor f strike) s x ((thrAt s x).setS (fRd f) old).next (stored (s.ember x.e.val).scratch ((thrAt s x).sReg (fRa f)).toNat 8
      (atomValue minor.val old ((thrAt s x).sReg (fRb f)) ((thrAt s x).sReg (fRd f))).toNat) := by
  subst ho
  refine scratchGives_of_issue rfl hi (reserved_of (decide_eq_true low)) ?_ ((((ScratchAt.refl x s).struck strike).store ..).mod _) (stepOne_setS ..)
  simp only [withScratch_of_mayAccess may, loadScratch_of_clean clean]

theorem dld_gives (hi : issuable s x (insnWord 0x0D 0 f) f [fRa f] [] = true) (rd : fRd f < 24) (may : MayAccess s x (effAddr s x f) 32 false)
    (clean : Clean s x strike (effAddr s x f) 32) : ScratchGives (.dld x f strike) s x
      ((thrAt s x).setDesc (fRd f) (BitVec.ofNat 256 ((s.ember x.e.val).scratch.num (effAddr s x f).toNat 32))).next (s.ember x.e.val).scratch.get := by
  refine scratchGives_of_issue rfl hi (reserved_of (decide_eq_true rd)) ?_ (((ScratchAt.refl x s).struck strike).mod _) (stepOne_setDesc ..)
  simp only [← effAddr_def, withScratch_of_mayAccess may, loadScratch_of_clean clean]

theorem dst_gives (hi : issuable s x (insnWord 0x0D 1 f) f [fRa f] [] = true) (rd : fRd f < 24) (may : MayAccess s x (effAddr s x f) 32 true) :
    ScratchGives (.dst x f) s x (thrAt s x).next
      (stored (s.ember x.e.val).scratch (effAddr s x f).toNat 32 ((thrAt s x).desc (fRd f)).toNat) := by
  refine scratchGives_of_issue rfl hi (reserved_of (decide_eq_true rd)) ?_ (((ScratchAt.refl x s).struck []).store ..) rfl
  simp only [← effAddr_def, withScratch_of_mayAccess may]

theorem fetchLine_gives (service : s.inService = true) (halted : (s.part (s.partOf x.e.val)).prot.halted = false) (run : (thrAt s x).st = .run)
    (window : inWindow s x (thrAt s x).pc.toNat = true) {base : Nat} (hb : base = (thrAt s x).pc.toNat / 8 * 8)
    (clean : ((s.ember x.e.val).strike strike).mismatches (8 * base) 64 = []) : ScratchGives (.fetchLineFill x strike) s x
      { thrAt s x with line := some { base := base
                                      words := (List.range 8).map fun i => BitVec.ofNat 64 ((s.ember x.e.val).scratch.num (8 * base + 8 * i) 8) } }
      (s.ember x.e.val).scratch.get := by
  subst hb
  refine ⟨_, ?_, ((ScratchAt.refl x s).struck strike).mod fun h => { h with line := some { base := (thrAt s x).pc.toNat / 8 * 8, words := _ } }⟩
  have granted : (!s.inService || (s.part (partAt s x)).prot.halted || decide ((thrAt s x).st ≠ .run)) = false := by
    simp [service, partAt, halted, run]
  simp only [exec_fetchLineFill, execFetchLineFill, fetchLine, granted, window, Bool.not_true, Bool.false_eq_true, if_false, ember_modEmber_same,
    clean, List.isEmpty_nil, if_true, scratch_strike]

end

end Sys2Proof.Machine

namespace Sys2Proof

open Machine

/-- Settles O6: each access passes its checks into the struck state, and what it writes there is followed change by change. -/
theorem scratchAccess : Obligations.ScratchAccess := by
  intro x f strike s h m w at_
  refine ⟨?load, ?store, ?atom, fun hi rd may clean => dld_gives hi rd may clean, fun hi rd may => dst_gives hi rd may, ?dsetw, ?dgetw, ?fetch⟩
  case load =>
    intro minor size hi may clean v
    have loaded := lds_gives hi may clean
    rw [extend_eq] at loaded
    exact loaded
  case store => exact fun minor hi may clean => sts_gives hi may clean
  case atom =>
    intro minor a hi low may clean old rb new
    have swapped := atom_gives hi low may clean rfl
    rw [atomValue_eq] at swapped
    exact swapped
  case dsetw =>
    exact fun hi rd low => scratchGives_of_issue rfl hi (reserved_of (by simp [rd, low])) rfl ((ScratchAt.refl x s).mod _) (stepOne_setDesc ..)
  case dgetw => exact fun hi ra low => scratchGives_of_issue rfl hi (reserved_of (by simp [ra, low])) rfl ((ScratchAt.refl x s).mod _) rfl
  case fetch => exact fun service halted run window clean => fetchLine_gives service halted run window rfl clean

end Sys2Proof
end

section
/-! An instruction that has issued, acted and stepped on: what its last two changes, of the program counter and of the thread that issued last,
leave of the state (Table 4.3, R58). -/

namespace Sys2Proof.Machine

/-- The state after an instruction at `x` whose effect made `u`: the program counter has moved on, and the thread is the one that issued last. -/
def stepped (x : Site) (u : State) : State := markIssued x (modAt x Thread.next u)

theorem exec_stepped {c : Instr} {s u : State} {x : Site} {w : DWord} {f : BitVec 52} {ss ps : List Nat} {room : State → Bool} {static : Option Nat}
    {body : State → Eff} (hc : exec c s = .next (issue x w f ss ps room static body s)) (hi : issuable s x w f ss ps = true) (hr : room s = true)
    (hs : static = none) (hb : body s = .ok u) (h1 : (thrAt u x).stepOne = (thrAt s x).stepOne) : exec c s = .next (stepped x u) :=
  hc.trans (congrArg Host.Outcome.next (issuable_next hi hr hs hb h1))

theorem exec_raised {c : Instr} {s : State} {x : Site} {w : DWord} {f : BitVec 52} {ss ps : List Nat} {room : State → Bool} {static : Option Nat}
    {body : State → Eff} {code : Nat} {a : DWord} (hc : exec c s = .next (issue x w f ss ps room static body s))
    (hi : issuable s x w f ss ps = true) (hr : room s = true) (hs : static = none) (hb : body s = .exc code a) :
    exec c s = .next (raise x code a s) :=
  hc.trans (congrArg Host.Outcome.next (issuable_raise hi hr hs hb))

@[simp] theorem thrAt_stepped (x : Site) (u : State) : thrAt (stepped x u) x = (thrAt u x).next := by
  rw [stepped, thrAt_markIssued, thrAt_modAt]

theorem thread_stepped {x : Site} {l i : Nat} (h : (l, i) ≠ (x.e.val, x.t.val)) (u : State) : (stepped x u).thread l i = u.thread l i := by
  rw [stepped, thread_markIssued, other_modAt h]

theorem thread_stepped_same {x : Site} {i : Nat} (h : i ≠ x.t.val) (u : State) : (stepped x u).thread x.e.val i = u.thread x.e.val i :=
  thread_stepped (fun e => h (congrArg Prod.snd e)) u

@[simp] theorem part_stepped (x : Site) (u : State) (n : Nat) : (stepped x u).part n = u.part n := rfl

theorem onlyEmbers_stepped {x : Site} {s u : State} (h : OnlyEmbers [x.e.val] s u) : OnlyEmbers [x.e.val] s (stepped x u) :=
  onlyEmbers_trans (onlyEmbers_trans h (onlyEmbers_modAt ..)) (onlyEmbers_markIssued ..)

theorem onlyThread_stepped {x : Site} {s u : State} (h : OnlyThread x s u) : OnlyThread x s (stepped x u) :=
  (h.trans (onlyThread_modAt ..)).trans (onlyThread_markIssued ..)

/-- Of an ember, stepping on changes threads and the note of the last issue alone. -/
theorem ember_stepped (x : Site) (u : State) (k : Nat) :
    { (stepped x u).ember k with thr := (u.ember k).thr, lastIssued := (u.ember k).lastIssued } = u.ember k := by
  have moved := ember_modThread x.e.val x.t.val Thread.next u k
  rw [← modAt] at moved
  have last := congrArg Ember.lastIssued moved
  rw [stepped, ember_markIssued, ← last]
  split
  · exact moved
  · exact moved

/-- A part of an ember that is neither threads nor the note of the last issue is as it was. -/
theorem emberPart_stepped {α : Type} (g : Ember → α) (hg : ∀ m thr last, g { m with thr := thr, lastIssued := last } = g m) (x : Site) (u : State)
    (k : Nat) : g ((stepped x u).ember k) = g (u.ember k) := by
  rw [← hg ((stepped x u).ember k) (u.ember k).thr (u.ember k).lastIssued, ember_stepped]

theorem ember_stepped_ne {x : Site} {k : Nat} (h : k ≠ x.e.val) (u : State) : (stepped x u).ember k = u.ember k := by
  unfold stepped modAt State.modThread
  rw [ember_markIssued, if_neg (Ne.symm h), ember_modEmber, if_neg (Ne.symm h)]

/-- An instruction that changes its own thread, and steps on. -/
theorem becomes_stepped {c : Instr} {s : State} {x : Site} {w : DWord} {f : BitVec 52} {ss ps : List Nat} {room : State → Bool}
    {static : Option Nat} {body : State → Eff} {g : Thread → Thread} (hc : exec c s = .next (issue x w f ss ps room static body s))
    (hi : issuable s x w f ss ps = true) (hr : room s = true) (hs : static = none) (hb : body s = .ok (modAt x g s))
    (h1 : (g (thrAt s x)).stepOne = (thrAt s x).stepOne) :
    ∃ t, exec c s = .next t ∧ thrAt t x = (g (thrAt s x)).next ∧ OnlyThread x s t :=
  ⟨_, exec_stepped hc hi hr hs hb (by rw [thrAt_modAt, h1]), by rw [thrAt_stepped, thrAt_modAt], onlyThread_stepped (onlyThread_modAt ..)⟩

/-- An instruction that changes nothing, and steps on. -/
theorem becomes_stepped_same {c : Instr} {s : State} {x : Site} {w : DWord} {f : BitVec 52} {ss ps : List Nat} {room : State → Bool}
    {static : Option Nat} {body : State → Eff} (hc : exec c s = .next (issue x w f ss ps room static body s))
    (hi : issuable s x w f ss ps = true) (hr : room s = true) (hs : static = none) (hb : body s = .ok s) :
    ∃ t, exec c s = .next t ∧ thrAt t x = (thrAt s x).next ∧ OnlyThread x s t :=
  ⟨_, exec_stepped hc hi hr hs hb rfl, thrAt_stepped .., onlyThread_stepped (OnlyThread.refl ..)⟩

/-- A thread whose instruction issues is in RUN. -/
theorem st_of_issuable {s : State} {x : Site} {w : DWord} {f : BitVec 52} {ss ps : List Nat} (h : issuable s x w f ss ps = true) :
    (thrAt s x).st = .run := by
  have rdy := ((issuable_iff ..).1 h).1
  simp only [ready, Bool.and_eq_true, decide_eq_true_eq] at rdy
  obtain ⟨⟨⟨⟨-, run⟩, -⟩, -⟩, -⟩ := rdy
  exact run

end Sys2Proof.Machine
end

section
/-! Tallies and barriers (R76, R98, R99), and O8. -/

namespace Sys2Proof.Machine

/-! ### Tallies -/

theorem is32_of {v : DWord} (h : v.toNat < 2 ^ 32) : is32 v = true := decide_eq_true h

/-- A saturating sum is the lesser of the sum and the greatest value (R76). -/
theorem satAdd_eq_min (v : Word) (k : Nat) : satAdd v k = BitVec.ofNat 32 (min (v.toNat + k) (2 ^ 32 - 1)) := by
  unfold satAdd
  split
  · rw [Nat.min_eq_left (by omega)]
  · rw [Nat.min_eq_right (by omega)]
    rfl

/-- EMB_TALLY_OVF notes that a tally of a thread has saturated (R76). -/
def Ember.noteOvf (t : Nat) (m : Ember) : Ember := { m with tallyOvf := withBit m.tallyOvf t true }

@[simp] theorem thread_noteOvf (t l k j : Nat) (s : State) : (s.modEmber l (Ember.noteOvf t)).thread k j = s.thread k j :=
  thread_modEmber_of_thr (Ember.noteOvf t) (fun _ => rfl) l k j s

/-- Counting into a tally of a thread that waits for nothing (R76). -/
theorem tallyAdd_of_noCond {l t : Nat} {s : State} (hl : (s.thread l t).st ≠ .lost) (hc : (s.thread l t).cond = none) (q k : Nat) :
    tallyAdd l t q k s = if satOvf ((s.thread l t).q.get q) k then
        (s.modThread l t (Thread.setQ q (satAdd ((s.thread l t).q.get q) k))).modEmber l (Ember.noteOvf t)
      else s.modThread l t (Thread.setQ q (satAdd ((s.thread l t).q.get q) k)) := by
  simp only [tallyAdd, if_neg hl, hc]
  rfl

/-- A wait on a tally (R98): with its value reached the thread goes on in RUN, else it waits. -/
def Thread.awaitTally (q : Nat) (v : DWord) (h : Thread) : Thread :=
  if v.toNat ≤ (h.q.get q).toNat then h else { h with st := .wait, cond := some (.tally q v.toNat) }

theorem tallyWait_becomes {c : Instr} {s : State} {x : Site} {w : DWord} {f : BitVec 52} {ss ps : List Nat} {static : Option Nat}
    {body : State → Eff} {q : Nat} {v : DWord} (hc : exec c s = .next (issue x w f ss ps anyRoom static body s))
    (hi : issuable s x w f ss ps = true) (hs : static = none) (hb : body s = tallyWait x q v s) (hv : v.toNat < 2 ^ 32) :
    ∃ t, exec c s = .next t ∧ thrAt t x = ((thrAt s x).awaitTally q v).next ∧ OnlyThread x s t := by
  unfold Thread.awaitTally
  rw [tallyWait, is32_of hv, Bool.not_true, if_neg Bool.false_ne_true] at hb
  split
  · next reached =>
    rw [if_pos reached] at hb
    exact becomes_stepped_same hc hi rfl hs hb
  · next below =>
    rw [if_neg below] at hb
    exact becomes_stepped hc hi rfl hs hb rfl

theorem next_awaitTally (q : Nat) (v : DWord) (h : Thread) : (h.awaitTally q v).next =
    if v.toNat ≤ (h.q.get q).toNat then h.next else { h.next with st := .wait, cond := some (.tally q v.toNat) } := by
  unfold Thread.awaitTally
  split <;> rfl

theorem next_setQ (q : Nat) (v : Word) (h : Thread) : (h.setQ q v).next = { h.next with q := h.q.set q v } := rfl

/-- What counting into a tally of its own leaves of a thread that waits for nothing, of its ember's other threads, and of EMB_TALLY_OVF (R76). -/
theorem tallyAdd_own {x : Site} {s : State} (hl : (thrAt s x).st ≠ .lost) (hc : (thrAt s x).cond = none) (q k : Nat) :
    thrAt (tallyAdd x.e.val x.t.val q k s) x = (thrAt s x).setQ q (satAdd ((thrAt s x).q.get q) k) ∧
      ((tallyAdd x.e.val x.t.val q k s).ember x.e.val).tallyOvf = (if satOvf ((thrAt s x).q.get q) k then
        withBit (s.ember x.e.val).tallyOvf x.t.val true else (s.ember x.e.val).tallyOvf) ∧
      ∀ j, j ≠ x.t.val → (tallyAdd x.e.val x.t.val q k s).thread x.e.val j = s.thread x.e.val j := by
  have added := tallyAdd_of_noCond hl hc q k
  rw [← thrAt, ← modAt] at added
  generalize satAdd ((thrAt s x).q.get q) k = sum at added ⊢
  have ovf : ((modAt x (Thread.setQ q sum) s).ember x.e.val).tallyOvf = (s.ember x.e.val).tallyOvf := by
    have rest := congrArg Ember.tallyOvf (ember_modThread x.e.val x.t.val (Thread.setQ q sum) s x.e.val)
    exact rest
  have others : ∀ j, j ≠ x.t.val → (modAt x (Thread.setQ q sum) s).thread x.e.val j = s.thread x.e.val j :=
    fun j hj => other_modAt fun e => hj (congrArg Prod.snd e)
  rw [added]
  split
  · rw [ember_modEmber_same, Ember.noteOvf, ovf, thrAt, thread_noteOvf, ← thrAt, thrAt_modAt]
    exact ⟨rfl, rfl, fun j hj => (thread_noteOvf ..).trans (others j hj)⟩
  · exact ⟨thrAt_modAt .., ovf, others⟩

theorem tadd_counts {x : Site} {f : BitVec 52} {s : State} (hi : issuable s x (insnWord 0x0B 2 f) f [fRa f] [] = true) (rd : fRd f < 16)
    (rb : fRb f = 0) (low : fLow f = 0) (is : ((thrAt s x).sReg (fRa f)).toNat < 2 ^ 32) (noCond : (thrAt s x).cond = none) :
    let sum := satAdd ((thrAt s x).q.get (fRd f)) ((thrAt s x).sReg (fRa f)).toNat
    ∃ t, exec (.tadd x f) s = .next t ∧ thrAt t x = { (thrAt s x).next with q := (thrAt s x).q.set (fRd f) sum } ∧
      (t.ember x.e.val).tallyOvf = (if satOvf ((thrAt s x).q.get (fRd f)) ((thrAt s x).sReg (fRa f)).toNat then
        withBit (s.ember x.e.val).tallyOvf x.t.val true else (s.ember x.e.val).tallyOvf) ∧
      (∀ j, j ≠ x.t.val → t.thread x.e.val j = s.thread x.e.val j) ∧ OnlyEmbers [x.e.val] s t := by
  have notLost : (thrAt s x).st ≠ .lost := fun h => by rw [st_of_issuable hi] at h; cases h
  obtain ⟨own, ovf, others⟩ := tallyAdd_own notLost noCond (fRd f) ((thrAt s x).sReg (fRa f)).toNat
  have frame := onlyEmbers_tallyAdd x.e.val x.t.val (fRd f) ((thrAt s x).sReg (fRa f)).toNat s
  have running := (congrArg Thread.stepOne own).trans (stepOne_setQ ..)
  refine ⟨_, exec_stepped rfl hi rfl (reserved_of (by simp [rd, rb, low])) (if_pos (is32_of is)) running, by rw [thrAt_stepped, own, next_setQ], ?_,
    fun j hj => by rw [thread_stepped_same hj, others j hj], onlyEmbers_stepped frame⟩
  rw [emberPart_stepped Ember.tallyOvf fun _ _ _ => rfl, ovf]

/-! ### Barriers -/

/-- Stepping on and release do not meet. -/
theorem Released.next {a c : Thread} (h : Released a c) : Released a.next c.next := by
  obtain ⟨cond, st, rest⟩ := h
  refine ⟨cond, st, ?_⟩
  conv_rhs => rw [← rest]
  rfl

theorem Released.stepOne {a c : Thread} (h : Released a c) : c.stepOne = a.stepOne := by
  obtain ⟨-, -, rest⟩ := h
  have same := congrArg Thread.stepOne rest
  exact same

theorem badCount_of {b : Barrier} {k max : Nat} (h1 : 1 ≤ k) (h2 : k ≤ max) (h3 : b.arrived ≠ [] → b.count = k) : badCount b k max = false := by
  have same : (!b.arrived.isEmpty && decide (b.count ≠ k)) = false := by
    by_cases h : b.arrived = []
    · simp [h]
    · simp [h3 h]
  simp only [badCount, same, Bool.or_false, Bool.or_eq_false_iff, decide_eq_false_iff_not]
  omega

theorem b2n_mul (k : Nat) (be : Bool) : k * b2n be = if be then k else 0 := by
  cases be <;> simp [b2n]

/-- The number of an ember barrier in its class's namespace (R99). -/
def bareKey (s : State) (x : Site) (f : BitVec 52) : Nat := (if s.isBe x.e.val x.t.val then 4 else 0) + fImmU f % 4

theorem bareKey_eq (s : State) (x : Site) (f : BitVec 52) : 4 * b2n (beAt s x) + fImmU f % 4 = bareKey s x f := by
  rw [b2n_mul]
  rfl

/-- Write an ember barrier. -/
def Ember.setBarrier (key : Nat) (b : Barrier) (m : Ember) : Ember := { m with barriers := m.barriers.set key b }

/-- A thread that has arrived at ember barrier `i` waits there (R99). -/
def Thread.awaitBar (i : Nat) (h : Thread) : Thread := { h with st := .wait, cond := some (.emberBar i) }

/-- An arrival at an ember barrier: the thread waits, and the barrier is `b` (R99). -/
def arriveBare (x : Site) (f : BitVec 52) (b : Barrier) (s : State) : State :=
  (modAt x (Thread.awaitBar (fImmU f % 4)) s).modEmber x.e.val (Ember.setBarrier (bareKey s x f) b)

section
variable {x : Site} {f : BitVec 52} {b : Barrier} {s : State}

theorem thread_arriveBare_eq (j : Nat) : (arriveBare x f b s).thread x.e.val j = (modAt x (Thread.awaitBar (fImmU f % 4)) s).thread x.e.val j :=
  thread_modEmber_of_thr (Ember.setBarrier (bareKey s x f) b) (fun _ => rfl) x.e.val x.e.val j _

theorem thrAt_arriveBare : thrAt (arriveBare x f b s) x = (thrAt s x).awaitBar (fImmU f % 4) := by
  rw [thrAt, thread_arriveBare_eq, ← thrAt, thrAt_modAt]

theorem thread_arriveBare {j : Nat} (h : j ≠ x.t.val) : (arriveBare x f b s).thread x.e.val j = s.thread x.e.val j := by
  rw [thread_arriveBare_eq, other_modAt fun e => h (congrArg Prod.snd e)]

theorem barriers_arriveBare : ((arriveBare x f b s).ember x.e.val).barriers.get (bareKey s x f) = b := by
  rw [arriveBare, ember_modEmber_same]
  exact Tab.get_set_same ..

theorem onlyEmbers_arriveBare : OnlyEmbers [x.e.val] s (arriveBare x f b s) := onlyEmbers_trans (onlyEmbers_modAt ..) (onlyEmbers_mod ..)

theorem barriers_stepped (u : State) (k : Nat) : ((stepped x u).ember k).barriers = (u.ember k).barriers :=
  emberPart_stepped Ember.barriers (fun _ _ _ => rfl) x u k

end

section
variable {x : Site} {f : BitVec 52} {s : State} (hi : issuable s x (insnWord 0x0C 0 f) f [fRa f] [] = true) (rd : fRd f = 0)
  {b : Barrier} (hb : b = (s.ember x.e.val).barriers.get (bareKey s x f)) {k : Nat} (hk : ((thrAt s x).sReg (fRa f)).toNat = k) (h1 : 1 ≤ k) (h8 : k ≤ 8)
  (same : b.arrived ≠ [] → b.count = k)
include hi rd hb hk h1 h8 same

/-- An arrival that leaves the count unmet waits (R99). -/
theorem bare_waits (few : (b.arrived ++ [x.t.val]).length < k) :
    exec (.bare x f) s = .next (stepped x (arriveBare x f { count := k, arrived := b.arrived ++ [x.t.val] } s)) := by
  have running : (thrAt (arriveBare x f { count := k, arrived := b.arrived ++ [x.t.val] } s) x).stepOne = (thrAt s x).stepOne := by
    rw [thrAt_arriveBare]
    rfl
  refine exec_stepped rfl hi rfl (reserved_of (decide_eq_true rd)) ?_ running
  simp only [bareKey_eq, ← hb, hk, badCount_of h1 h8 same, Bool.false_eq_true, if_false, if_pos few]
  rfl

/-- An arrival that makes up the count releases every thread that has arrived (R99). -/
theorem bare_releases (all : ¬ (b.arrived ++ [x.t.val]).length < k) : exec (.bare x f) s =
    .next (stepped x ((b.arrived ++ [x.t.val]).foldl (fun s i => wake x.e.val i s) (arriveBare x f { count := 0, arrived := [] } s))) := by
  have woken := thread_wakeAll (fun i => (x.e.val, i)) (b.arrived ++ [x.t.val]) (arriveBare x f { count := 0, arrived := [] } s) x.e.val x.t.val
  rw [if_pos ⟨x.t.val, by simp, rfl⟩, ← thrAt, thrAt_arriveBare] at woken
  refine exec_stepped rfl hi rfl (reserved_of (decide_eq_true rd)) ?_ woken.stepOne
  simp only [bareKey_eq, ← hb, hk, badCount_of h1 h8 same, Bool.false_eq_true, if_false, if_neg all]
  rfl

end

/-- The number of a partition barrier in its class's namespace (R99). -/
def barpKey (s : State) (x : Site) (f : BitVec 52) : Nat := (if s.isBe x.e.val x.t.val then 64 else 0) + fImmU f % 64

theorem barpKey_eq (s : State) (x : Site) (f : BitVec 52) : 64 * b2n (beAt s x) + fImmU f % 64 = barpKey s x f := by
  rw [b2n_mul]
  rfl

/-- Write a partition barrier. -/
def Part.setBarrier (key : Nat) (b : Barrier) (p : Part) : Part := { p with pbars := p.pbars.set key b }

/-- A thread that has arrived at partition barrier `i` waits there (R99). -/
def Thread.awaitPartBar (i : Nat) (h : Thread) : Thread := { h with st := .wait, cond := some (.partBar i) }

/-- An arrival at a partition barrier waits; the release is an event of its own (R99). -/
theorem barp_waits {x : Site} {f : BitVec 52} {s : State} (hi : issuable s x (insnWord 0x0C 1 f) f [fRa f] [] = true) (rd : fRd f = 0)
    {b : Barrier} (hb : b = (s.part (s.partOf x.e.val)).pbars.get (barpKey s x f)) (h1 : 1 ≤ ((thrAt s x).sReg (fRa f)).toNat)
    (hmax : ((thrAt s x).sReg (fRa f)).toNat ≤ 204800)
    (same : b.arrived ≠ [] → b.count = ((thrAt s x).sReg (fRa f)).toNat ∧ b.arrived.length < b.count) :
    ∃ t, exec (.barp x f) s = .next t ∧ thrAt t x = (thrAt s x).next.awaitPartBar (fImmU f % 64) ∧
      (t.part (s.partOf x.e.val)).pbars.get (barpKey s x f) =
        { count := ((thrAt s x).sReg (fRa f)).toNat, arrived := b.arrived ++ [8 * x.e.val + x.t.val] } := by
  have room : barpRoom x f s = true := by
    simp only [barpRoom, barpKey_eq, partAt, ← hb, Bool.or_eq_true, List.isEmpty_iff, decide_eq_true_eq]
    by_cases none : b.arrived = []
    · exact .inl none
    · exact .inr (same none).2
  have good := badCount_of h1 hmax fun some => (same some).1
  obtain ⟨b', hb'⟩ : ∃ b', b' = Barrier.mk ((thrAt s x).sReg (fRa f)).toNat (b.arrived ++ [8 * x.e.val + x.t.val]) := ⟨_, rfl⟩
  have own : thrAt ((modAt x (Thread.awaitPartBar (fImmU f % 64)) s).modPart (s.partOf x.e.val) (Part.setBarrier (barpKey s x f) b')) x =
      (thrAt s x).awaitPartBar (fImmU f % 64) := thrAt_modAt ..
  have issued : exec (.barp x f) s = .next (stepped x ((modAt x (Thread.awaitPartBar (fImmU f % 64)) s).modPart (s.partOf x.e.val)
      (Part.setBarrier (barpKey s x f) b'))) := by
    refine exec_stepped rfl hi room (reserved_of (decide_eq_true rd)) ?_ (by rw [own]; rfl)
    simp only [barpKey_eq, partAt, ← hb, maxPartCount, good, Bool.false_eq_true, if_false, ← hb']
    rfl
  refine ⟨_, issued, by rw [thrAt_stepped, own]; rfl, ?_⟩
  rw [part_stepped, part_modPart_same, ← hb']
  exact Tab.get_set_same ..

/-- A full partition barrier `b` released: it is empty, and every thread that arrived is awake (R99). -/
def barpReleased (n key : Nat) (b : Barrier) (s : State) : State :=
  b.arrived.foldl (fun s k => wake (k / 8) (k % 8) s) (s.modPart n (Part.setBarrier key { count := 0, arrived := [] }))

theorem barpRelease_releases (n : PartId) (be : Bool) (i : Fin 64) {s : State} {key : Nat} (hk : key = (if be then 64 else 0) + i.val)
    {b : Barrier} (hb : b = (s.part n.val).pbars.get key) (some : b.arrived ≠ []) (full : b.arrived.length = b.count) :
    exec (.barpRelease n be i) s = .next (barpReleased n.val key b s) := by
  have wakes : (!b.arrived.isEmpty && decide (b.arrived.length = b.count)) = true := by simp [some, full]
  rw [hb, hk] at wakes
  have run : exec (.barpRelease n be i) s = execBarpRelease n be i s := rfl
  rw [run, execBarpRelease]
  simp only [b2n_mul, wakes, if_true, hb, hk]
  rfl

theorem barrier_barpReleased (n key : Nat) (b : Barrier) (s : State) :
    ((barpReleased n key b s).part n).pbars.get key = { count := 0, arrived := [] } := by
  have parts := parts_wakeAll (fun k => (k / 8, k % 8)) b.arrived (s.modPart n (Part.setBarrier key { count := 0, arrived := [] }))
  rw [barpReleased, State.part, parts, ← State.part, part_modPart_same]
  exact Tab.get_set_same ..

theorem threads_barpReleased {n key l j : Nat} {b : Barrier} {s : State} (hj : j < 8) : if 8 * l + j ∈ b.arrived then
    Released (s.thread l j) ((barpReleased n key b s).thread l j) else (barpReleased n key b s).thread l j = s.thread l j := by
  have woken := thread_wakeAll (fun k => (k / 8, k % 8)) b.arrived (s.modPart n (Part.setBarrier key { count := 0, arrived := [] })) l j
  have named : (∃ i ∈ b.arrived, (i / 8, i % 8) = (l, j)) ↔ 8 * l + j ∈ b.arrived := by
    constructor
    · rintro ⟨i, arrived, site⟩
      obtain ⟨rfl, rfl⟩ := Prod.mk.inj site
      rwa [Nat.div_add_mod]
    · exact fun arrived => ⟨_, arrived, by rw [Prod.mk.injEq]; omega⟩
  simp only [named] at woken
  exact woken

end Sys2Proof.Machine

namespace Sys2Proof

open Machine

/-- Settles O8: a tally instruction changes its thread alone, and an arrival is followed to the wait, or through the wakes of all that arrived. -/
theorem talliesAndBarriers : Obligations.TalliesAndBarriers := by
  intro x f s h w ra becomes waits
  refine ⟨?tset, ?tseti, ?tadd, ?trd, ?twait, ?twaiti, ?bare, ?barp, ?release⟩
  case tset =>
    intro hi rd rb low is
    refine becomes_stepped (g := Thread.setQ (fRd f) (BitVec.ofNat 32 ra.toNat)) rfl hi rfl (reserved_of (by simp [rd, rb, low])) ?_ rfl
    rw [if_pos (is32_of is), BitVec.ofNat_toNat]
  case tseti =>
    intro hi rd ra0 is
    refine becomes_stepped (g := Thread.setQ (fRd f) (BitVec.ofNat 32 (fImm f).toNat)) rfl hi rfl (reserved_of (by simp [rd, ra0])) ?_ rfl
    rw [if_pos (is32_of is), BitVec.ofNat_toNat]
  case tadd =>
    intro hi rd rb low is noCond sum
    have counted := tadd_counts hi rd rb low is noCond
    simp only [satAdd_eq_min, satOvf, decide_eq_true_eq] at counted
    exact counted
  case trd =>
    intro hi ra rb low
    refine becomes_stepped (g := Thread.setS (fRd f) (BitVec.ofNat 64 (h.q.get (fRa f)).toNat)) rfl hi rfl (reserved_of (by simp [ra, rb, low])) ?_ rfl
    rw [BitVec.ofNat_toNat]
  case twait =>
    intro hi rd rb low is
    have waited := tallyWait_becomes (c := .twait x f) rfl hi (reserved_of (by simp [rd, rb, low])) rfl is
    rw [next_awaitTally] at waited
    exact waited
  case twaiti =>
    intro hi rd ra0 is
    have waited := tallyWait_becomes (c := .twaiti x f) rfl hi (reserved_of (by simp [rd, ra0])) rfl is
    rw [next_awaitTally] at waited
    exact waited
  case bare =>
    intro hi rd key b arrived h1 h8 same
    by_cases few : arrived.length < ra.toNat
    · refine ⟨_, bare_waits hi rd rfl rfl h1 h8 same few, onlyEmbers_stepped onlyEmbers_arriveBare, ?_⟩
      rw [if_pos few, thrAt_stepped, thrAt_arriveBare, barriers_stepped]
      exact ⟨rfl, barriers_arriveBare, fun j hj => by rw [thread_stepped_same hj, thread_arriveBare hj]⟩
    · have woken := thread_wakeAll (fun i => (x.e.val, i)) arrived (arriveBare x f { count := 0, arrived := [] } s) x.e.val
      refine ⟨_, bare_releases hi rd rfl rfl h1 h8 same few, onlyEmbers_stepped (onlyEmbers_trans onlyEmbers_arriveBare (onlyEmbers_wakeAll ..)), ?_⟩
      rw [if_neg few, thrAt_stepped, barriers_stepped, barriers_wakeAll]
      refine ⟨?_, barriers_arriveBare, fun j hj => ?_⟩
      · have own := woken x.t.val
        rw [if_pos ⟨x.t.val, by simp [arrived], rfl⟩, ← thrAt, thrAt_arriveBare] at own
        exact own.next
      · have other := woken j
        have mine : (∃ i ∈ arrived, (x.e.val, i) = (x.e.val, j)) ↔ j ∈ b.arrived := by simp [arrived, hj]
        rw [thread_arriveBare hj] at other
        rw [thread_stepped_same hj]
        simp only [mine] at other
        exact other
  case barp =>
    intro hi rd n key b h1 hmax same
    exact barp_waits hi rd rfl h1 hmax same
  case release =>
    intro n be i key b some full
    exact ⟨_, barpRelease_releases n be i rfl rfl some full, barrier_barpReleased .., fun l j => threads_barpReleased j.isLt⟩

end Sys2Proof
end

section
/-! What joins a mover queue (R74, R103, R139), and O11. -/

namespace Sys2Proof.Machine

/-- The entry that a MOVE or FSEND of the thread at `x` adds to a mover queue (R74). -/
def mvEntry (x : Site) (d : Desc) (kind : MoverKind) (s : State) : MoverJob :=
  { t := x.t.val, be := beAt s x, desc := d, pc := (thrAt s x).pc, kind := kind, st := .queued, done := 0, stall := false, sent := false
    seq := (s.part (partAt s x)).launched }

/-- Append an entry to the queue of mover `mv`. -/
def Ember.addJob (mv : Nat) (j : MoverJob) (m : Ember) : Ember := { m with movers := m.movers.upd mv fun q => q ++ [j] }

/-- One more launched entry (R65). -/
def Part.launch (p : Part) : Part := { p with launched := p.launched + 1 }

theorem mvEnqueue_eq (x : Site) (mv : Nat) (d : Desc) (kind : MoverKind) (s : State) :
    mvEnqueue x mv d kind s = (s.modEmber x.e.val (Ember.addJob mv (mvEntry x d kind s))).modPart (partAt s x) Part.launch := rfl

theorem thread_mvEnqueue (x : Site) (mv : Nat) (d : Desc) (kind : MoverKind) (k j : Nat) (s : State) :
    (mvEnqueue x mv d kind s).thread k j = s.thread k j := by
  rw [mvEnqueue_eq]
  exact thread_modEmber_of_thr (Ember.addJob mv (mvEntry x d kind s)) (fun _ => rfl) x.e.val k j s

theorem ember_mvEnqueue (x : Site) (mv : Nat) (d : Desc) (kind : MoverKind) (k : Nat) (s : State) : (mvEnqueue x mv d kind s).ember k =
    if x.e.val = k then Ember.addJob mv (mvEntry x d kind s) (s.ember k) else s.ember k := by
  rw [mvEnqueue_eq]
  exact ember_modEmber ..

theorem mem_mvEnqueue (x : Site) (mv : Nat) (d : Desc) (kind : MoverKind) (n : Nat) (s : State) :
    ((mvEnqueue x mv d kind s).part n).mem = (s.part n).mem := by
  rw [mvEnqueue_eq, part_modPart]
  split
  · rfl
  · rfl

/-- At the end of the queue of mover `mv` stands `j`, a new entry of the thread at `x` with its descriptor; the other queue, the ember's scratch, the other
embers and the partition's memory are as they were, and the thread has stepped on. -/
def Enqueued (x : Site) (mv : MoverId) (d : Desc) (kind : MoverKind) (s t : State) (j : MoverJob) : Prop :=
  thrAt t x = (thrAt s x).next ∧ (t.ember x.e.val).movers.get mv.val = (s.ember x.e.val).movers.get mv.val ++ [j] ∧
    (t.ember x.e.val).movers.get (1 - mv.val) = (s.ember x.e.val).movers.get (1 - mv.val) ∧
    j.t = x.t.val ∧ j.be = s.isBe x.e.val x.t.val ∧ j.desc = d ∧ j.pc = (thrAt s x).pc ∧ j.kind = kind ∧ j.st = .queued ∧ j.done = 0 ∧
    (∀ k, k ≠ x.e.val → t.ember k = s.ember k) ∧ (t.ember x.e.val).scratch = (s.ember x.e.val).scratch ∧
    (t.part (s.partOf x.e.val)).mem = (s.part (s.partOf x.e.val)).mem

theorem enqueued_stepped (x : Site) (mv : MoverId) (d : Desc) (kind : MoverKind) (s : State) :
    Enqueued x mv d kind s (stepped x (mvEnqueue x mv.val d kind s)) (mvEntry x d kind s) := by
  have queues : ∀ k, ((stepped x (mvEnqueue x mv.val d kind s)).ember x.e.val).movers.get k =
      ((s.ember x.e.val).movers.upd mv.val fun q => q ++ [mvEntry x d kind s]).get k := fun k => by
    rw [emberPart_stepped Ember.movers fun _ _ _ => rfl, ember_mvEnqueue, if_pos rfl, Ember.addJob]
  refine ⟨?_, ?_, ?_, rfl, rfl, rfl, rfl, rfl, rfl, rfl, fun k hk => ?_, ?_, ?_⟩
  · rw [thrAt_stepped, thrAt, thread_mvEnqueue, ← thrAt]
  · rw [queues, Tab.get_upd_at, if_pos rfl]
  · rw [queues, Tab.get_upd_at, if_neg (by omega)]
  · rw [ember_stepped_ne hk, ember_mvEnqueue, if_neg (Ne.symm hk)]
  · rw [emberPart_stepped Ember.scratch fun _ _ _ => rfl, ember_mvEnqueue, if_pos rfl, Ember.addJob]
  · rw [part_stepped, mem_mvEnqueue]

/-- An instruction that adds an entry to a mover queue, and steps on. -/
theorem exec_enqueues {c : Instr} {s : State} {x : Site} {mv : MoverId} {d : Desc} {kind : MoverKind} {w : DWord} {f : BitVec 52} {ss ps : List Nat}
    {static : Option Nat} {body : State → Eff} (hc : exec c s = .next (issue x w f ss ps (mvRoom x mv.val) static body s))
    (hi : issuable s x w f ss ps = true) (room : ((s.ember x.e.val).movers.get mv.val).length < 16) (hs : static = none)
    (hb : body s = .ok (mvEnqueue x mv.val d kind s)) : ∃ t j, exec c s = .next t ∧ Enqueued x mv d kind s t j := by
  have running : (thrAt (mvEnqueue x mv.val d kind s) x).stepOne = (thrAt s x).stepOne := by
    rw [thrAt, thread_mvEnqueue, ← thrAt]
  exact ⟨_, _, exec_stepped hc hi (decide_eq_true room) hs hb running, enqueued_stepped ..⟩

/-- The destination space that FSEND checks is the one that its descriptor names (R139). -/
theorem with_dSp {m : MvDesc} (h : m.dSp = 1) : { m with dSp := 1 : MvDesc } = m := by
  cases m
  simpa using h.symm

end Sys2Proof.Machine

namespace Sys2Proof

open Machine

/-- Settles O11: a descriptor that passes the checks joins the queue, one that fails raises its check's exception, and MVQ counts what is free. -/
theorem moverLaunch : Obligations.MoverLaunch := by
  intro x mv f s h n q d m queued
  refine ⟨?move, ?fsend, ?mvq⟩
  case move =>
    intro hi room rd16 rd24 ra rb low
    have good := reserved_of (ok := decide (16 ≤ fRd f) && decide (fRd f < 24) && decide (fRa f = 0) && decide (fRb f = 0) && decide (fLow f = 0))
      (by simp [rd16, rd24, ra, rb, low])
    refine ⟨fun ok check => ?_, fun bad => ?_, fun c a ok check => ?_⟩
    · refine exec_enqueues (c := .moveDesc x mv f) rfl hi room good ?_
      simp only [m, d, h, n] at ok check
      simp only [partAt, beAt, ok, check, Bool.not_true, Bool.false_eq_true, if_false]
      rfl
    · refine exec_raised rfl hi (decide_eq_true room) good ?_
      simp only [m, d, h, n] at bad
      simp only [partAt, bad, Bool.not_false, if_true]
      rfl
    · refine exec_raised rfl hi (decide_eq_true room) good ?_
      simp only [m, d, h, n] at ok check
      simp only [partAt, beAt, ok, check, Bool.not_true, Bool.false_eq_true, if_false]
  case fsend =>
    intro hi room rd16 rd24 rb low ra small src1 dst1 rt conv zero row0 row8 src8 dst8 sStride8 dStride8 srcForm dstForm inside route check
    refine exec_enqueues (c := .fsend x mv f) rfl hi room (reserved_of (by simp [rd16, rd24, rb, low])) ?_
    have remote := with_dSp dst1
    have form : (decide (m.sSp ≠ 1) && decide (m.dSp = 1) && !m.rtEn && decide (m.conv = 0) && m.zero) = true := by
      simp [src1, dst1, rt, conv, zero]
    have shape : (decide (m.rowBytes ≠ 0) && decide (m.rowBytes % 8 = 0) && decide (m.src % 8 = 0) && decide (m.dst % 8 = 0) &&
        decide (m.sStride % 8 = 0) && decide (m.dStride % 8 = 0) && addrForm m.sSp m.src && addrForm 1 m.dst &&
        decide (remEmber m.dst < 25600)) = true := by
      simp [row0, row8, src8, dst8, sStride8, dStride8, srcForm, dstForm, inside]
    simp only [m, d, h, n, ra] at small remote form shape route check
    simp only [partAt, beAt, if_neg (Nat.not_le.2 small), form, shape, route, remote, check, Bool.not_true, Bool.false_eq_true, if_false]
    rfl
  case mvq =>
    intro hi rb low
    obtain ⟨t, run, own, frame⟩ := becomes_stepped (c := .mvq x f)
      (g := Thread.setS (fRd f) (BitVec.ofNat 64 (16 - ((s.ember x.e.val).movers.get ((h.sReg (fRa f)).toNat % 2)).length)))
      rfl hi rfl (reserved_of (by simp [rb, low])) rfl (stepOne_setS ..)
    exact ⟨t, run, frame, own⟩

end Sys2Proof
end

section
/-! The order in which the tile engine takes queued instructions (R59, R69), and O19. -/

namespace Sys2Proof.Machine

/-- A search finds the entry before which none fits. -/
theorem find?_append_cons {α : Type} {p : α → Bool} {pre post : List α} {a : α} (hpre : ∀ b ∈ pre, p b = false) (ha : p a = true) :
    (pre ++ a :: post).find? p = some a := by
  have none : pre.find? p = none := List.find?_eq_none.2 fun b hb => by rw [hpre b hb]; exact Bool.false_ne_true
  rw [List.find?_append, none, Option.none_or, List.find?_cons_of_pos ha]

theorem replaceFirst_append_cons {α : Type} [DecidableEq α] {pre post : List α} {a : α} (a' : α) (h : a ∉ pre) :
    replaceFirst a a' (pre ++ a :: post) = pre ++ a' :: post := by
  induction pre with
  | nil => exact if_pos rfl
  | cons b pre ih =>
    rw [List.mem_cons, not_or] at h
    obtain ⟨hb, hpre⟩ := h
    exact (if_neg (Ne.symm hb)).trans (congrArg (b :: ·) (ih hpre))

/-- Replace an entry of the tile queue. -/
def Ember.swapTile (e e' : TileEntry) (m : Ember) : Ember := { m with tileQ := replaceFirst e e' m.tileQ }

section
variable {l : EmberId} {upset : List (Fin 256 × Word)} {s : State} {pre post : List TileEntry} {e : TileEntry}
  (queue : (s.ember l.val).tileQ = pre ++ e :: post)
include queue

/-- Where `e` has become `e'`, nothing else has changed. -/
theorem swapTile_becomes {c : Instr} {e' : TileEntry} (first : e ∉ pre) (run : exec c s = .next (s.modEmber l.val (Ember.swapTile e e'))) :
    ∃ t, exec c s = .next t ∧ OnlyEmbers [l.val] s t ∧ t.ember l.val = { s.ember l.val with tileQ := pre ++ e' :: post } := by
  refine ⟨_, run, onlyEmbers_mod .., ?_⟩
  rw [ember_modEmber_same, Ember.swapTile, queue, replaceFirst_append_cons e' first]

/-- The free engine takes the next entry (R69). -/
theorem tileDispatch_takes (service : s.inService = true) (idle : ∀ a ∈ (s.ember l.val).tileQ, a.st ≠ .active)
    (next : (s.ember l.val).nextTile (s.beFree l.val) = some e) (first : e ∉ pre) :
    ∃ t, exec (.tileDispatch l upset) s = .next t ∧ OnlyEmbers [l.val] s t ∧ t.ember l.val = { s.ember l.val with
      tileQ := pre ++ { e with st := .active, upset := if e.st = .queued then upset.map fun u => (u.1.val, u.2) else e.upset } :: post } := by
  refine swapTile_becomes queue first ?_
  have free : (s.ember l.val).activeTile = none := List.find?_eq_none.2 fun a ha => by simp [idle a ha]
  have run : exec (.tileDispatch l upset) s = execTileDispatch l upset s := rfl
  rw [run, execTileDispatch]
  simp only [service, free, next, Bool.not_true, Option.isSome_none, Bool.or_false, Bool.false_eq_true, if_false]
  rfl

/-- A queued LC instruction, the oldest, is next (R69). -/
theorem nextTile_lc (free : Bool) (class_ : e.be = false) (queued : e.st = .queued) (oldest : ∀ a ∈ pre, a.be = false → a.st ≠ .queued) :
    (s.ember l.val).nextTile free = some e := by
  have found := find?_append_cons (p := fun e : TileEntry => !e.be && decide (e.st = .queued)) (pre := pre) (post := post) (a := e)
    (fun a ha => by cases h : a.be <;> simp [oldest a ha, h]) (by simp [class_, queued])
  rw [Ember.nextTile, queue, found, Option.some_or]

end

/-- With no LC instruction queued the suspended BE one is next, and else the oldest queued BE one (R59, R69). -/
theorem nextTile_be {m : Ember} (noLc : ∀ a ∈ m.tileQ, a.be = false → a.st ≠ .queued) : m.nextTile true =
    (m.tileQ.find? fun e => e.be && decide (e.st = .paused)).or (m.tileQ.find? fun e => e.be && decide (e.st = .queued)) := by
  have none : (m.tileQ.find? fun e => !e.be && decide (e.st = .queued)) = none := List.find?_eq_none.2 fun a ha => by
    cases be : a.be
    · simp [noLc a ha be]
    · simp
  rw [Ember.nextTile, none, Option.none_or, if_pos rfl]

/-- The executing BE instruction steps aside while BE work is held (R59). -/
theorem beTileSuspend_pauses {l : EmberId} {s : State} {e : TileEntry} (active : (s.ember l.val).activeTile = some e) (be : e.be = true)
    (held : s.beFree l.val = false) : exec (.beTileSuspend l) s = .next (s.modEmber l.val (Ember.swapTile e { e with st := .paused })) := by
  have run : exec (.beTileSuspend l) s = execBeTileSuspend l s := rfl
  rw [run, execBeTileSuspend]
  simp only [active, be, held, Bool.not_false, Bool.and_true, if_true]
  rfl

end Sys2Proof.Machine

namespace Sys2Proof

open Machine

/-- Settles O19: each clause's premises say which search of the queue finds the entry first. -/
theorem tileQueueOrder : Obligations.TileQueueOrder := by
  intro l upset s pre post e m queue becomes started
  refine ⟨?lc, ?be, ?suspend⟩
  case lc =>
    intro service idle be queued oldest
    have taken := tileDispatch_takes queue (upset := upset) service idle (nextTile_lc queue _ be queued oldest) fun h => oldest e h be queued
    rwa [if_pos queued] at taken
  case be =>
    intro service idle noLc free be
    have next := nextTile_be noLc
    refine ⟨fun paused oldest => ?_, fun queued noPaused oldest => ?_⟩
    · have found := find?_append_cons (p := fun e : TileEntry => e.be && decide (e.st = .paused)) (pre := pre) (post := post) (a := e)
        (fun a ha => by cases h : a.be <;> simp [oldest a ha, h]) (by simp [be, paused])
      rw [← free, queue, found, Option.some_or] at next
      have taken := tileDispatch_takes queue (upset := upset) service idle next fun h => oldest e h be paused
      rwa [if_neg (by rw [paused]; decide)] at taken
    · have none : (m.tileQ.find? fun e => e.be && decide (e.st = .paused)) = none := List.find?_eq_none.2 fun a ha => by
        cases h : a.be <;> simp [noPaused a ha, h]
      have found := find?_append_cons (p := fun e : TileEntry => e.be && decide (e.st = .queued)) (pre := pre) (post := post) (a := e)
        (fun a ha => by cases h : a.be <;> simp [oldest a ha, h]) (by simp [be, queued])
      rw [← free, none, Option.none_or, queue, found] at next
      have taken := tileDispatch_takes queue (upset := upset) service idle next fun h => oldest e h be queued
      rwa [if_pos queued] at taken
  case suspend =>
    intro active alone be held
    have executing : m.activeTile = some e := by
      rw [Ember.activeTile, queue]
      exact find?_append_cons (fun a ha => decide_eq_false (alone a ha)) (decide_eq_true active)
    exact swapTile_becomes queue (fun h => alone e h active) (beTileSuspend_pauses executing be held)

end Sys2Proof
end

section
/-! O45 fails. Its last clause asks that an exception take every thread of the class to LOST whenever the class's context is not LOST yet. The model takes
the threads along only where that context is in RUN, and nothing in the statement excludes a thread in RUN under a context that has not started. -/

namespace Sys2Proof.Machine

/-- A context that is loaded and has not started. -/
def unstartedContext : Context :=
  { st := .ready, owner := 0, image := [], meas := 0, exc := none, saveFrames := [], queues := Tab.const none
    launch := { be := false, restore := false, jobId := 0, restoreStep := 0, parent := 0, startStep := 0, codeBrick := 0, codeBricks := 1, entryPc := []
                dropPc := 0, semContrib := 0, semRec := 0, slot := 0, stepPage := 0, nmb := 0, minContrib := 0, deadlineUs := 0, requeueDelay := 0
                requeueMax := 0, hbmBase := 0, hbmLen := 0, hbmMeta := 0, shfBase := 0, shfLen := 0, shfMeta := 0, shelfBase := 0, shelfLen := 0
                nsct := 0, wpMode := 0, wpImg := 0, wpShare := 0, wpInterval := 0, wpFirst := 0, wpUnits := 0, inFirst := 0, inSlotBytes := 0
                inSlots := 0, ckInterval := 0, ckHoldoff := 0, ckWarn := 0, groups := Tab.const { be := false, pairs := [] }
                rings := Tab.const { shape := 0, len := 0, dim := 0, memberA := 0, memberB := 0, order := [] }, pool := [], scales := [] }
    util := { runUs := 0, issueUs := 0, tileUs := 0, waitUs := 0, pausedUs := 0, moved := 0, flueBytes := 0, ovf := 0 }
    mem := { parkNs := 0, parks := 0, tcMiss := 0, allocFail := 0, ovf := 0 } }

/-- Thread 0 of ember 0. -/
def firstSite : Site := { e := 0, t := 0 }

/-- A lit module. The unstarted context holds the LC class of partition 0, and the first thread is in RUN at a NOP whose lowest bit, a reserved one, is set. -/
def strayThread : State :=
  (({ State.reset with power := { State.reset.power with aoOn := true, rails := true, light := .ready } }.modPart 0 fun p =>
      { p with runLc := some 0, ctxs := p.ctxs.set 0 { gen := 0, obj := some unstartedContext } }).modThread 0 0 fun h =>
    { h with st := .run, line := some { base := 0, words := [insnWord 0 0 1] } })

/-- The state of the first thread after a command. -/
def firstThreadAfter (c : Instr) (s : State) : Option TState :=
  match exec c s with
  | .next t => some (t.thread 0 0).st
  | _ => none

theorem strayThread_ready : (ready strayThread firstSite (insnWord 0 0 1) [] [fGp 1] && true && inTurn strayThread firstSite) = true := by decide +kernel

theorem strayThread_noBreakpoint : atBreakpoint strayThread firstSite = false := by decide +kernel

/-- The NOP raises, and its thread stays in RUN. -/
theorem strayThread_staysInRun : firstThreadAfter (.nop firstSite 0 1) strayThread = some .run := by decide +kernel

theorem strayThread_context : (strayThread.part 0).running false = some 0 ∧ (strayThread.part 0).ctx 0 = some unstartedContext := ⟨rfl, rfl⟩

theorem strayThread_class : strayThread.partOf 0 = 0 ∧ strayThread.isBe 0 0 = false := by decide +kernel

end Sys2Proof.Machine

namespace Sys2Proof

open Machine

/-- Refutes O45: a NOP with a reserved bit set raises RESERVED_FIELD in a thread whose class is held by a context in READY, and the thread stays in RUN. -/
theorem not_issueAndGuard : ¬ Obligations.IssueAndGuard := by
  intro holds
  obtain ⟨-, -, -, raises⟩ := holds firstSite 1 strayThread _ (List.mem_cons_self ..)
  obtain ⟨t, run, loses⟩ := raises strayThread_ready strayThread_noBreakpoint (by decide +kernel)
  obtain ⟨part, lc⟩ := strayThread_class
  obtain ⟨runs, context⟩ := strayThread_context
  have all := loses 0 unstartedContext
  rw [show strayThread.partOf firstSite.e.val = 0 from part, show strayThread.isBe firstSite.e.val firstSite.t.val = false from lc] at all
  have lost : (t.thread 0 0).st = .lost := (all runs context (by decide)).2 0 0 (by decide) (by decide) part lc
  have stays := strayThread_staysInRun
  rw [firstThreadAfter, run] at stays
  simp [lost] at stays

end Sys2Proof
end

section
/-! How a tile instruction joins the tile queue (R69, R117, R118, R127, R180), and O16. -/

namespace Sys2Proof.Machine

/-! ### Joining the queue -/

theorem part_of_onlyThread {x : Site} {s u : State} (h : OnlyThread x s u) (n : Nat) : u.part n = s.part n := by
  obtain ⟨rest, -⟩ := h
  rw [← rest]
  rfl

/-- A part of an ember that is neither threads nor the note of the last issue is as it was. -/
theorem emberPart_of_onlyThread {α : Type} (g : Ember → α) (hg : ∀ m thr last, g { m with thr := thr, lastIssued := last } = g m) {x : Site}
    {s u : State} (h : OnlyThread x s u) : g (u.ember x.e.val) = g (s.ember x.e.val) := by
  obtain ⟨-, -, rest, -⟩ := h
  rw [← hg (u.ember x.e.val) (s.ember x.e.val).thr (s.ember x.e.val).lastIssued, rest]

/-- Append an entry to the tile queue. -/
def Ember.addTile (e : TileEntry) (m : Ember) : Ember := { m with tileQ := m.tileQ ++ [e] }

/-- An entry at the end of its ember's tile queue, and counted as launched (R69). -/
def addTile (x : Site) (n : Nat) (e : TileEntry) (u : State) : State := countLaunch n (u.modEmber x.e.val (Ember.addTile e))

section
variable {x : Site} {n : Nat} {e : TileEntry} {s u : State}

theorem thread_addTile (k j : Nat) : (addTile x n e u).thread k j = u.thread k j :=
  thread_modEmber_of_thr (Ember.addTile e) (fun _ => rfl) x.e.val k j u

theorem ember_addTile (k : Nat) : (addTile x n e u).ember k = if x.e.val = k then (u.ember k).addTile e else u.ember k := ember_modEmber ..

theorem part_addTile (m : Nat) : { (addTile x n e u).part m with launched := (u.part m).launched } = u.part m := by
  unfold addTile countLaunch
  rw [part_modPart]
  split
  · rfl
  · rfl

/-- A tile instruction that changes its own thread alone, to `u`, and joins the queue as entry `e`. -/
theorem queued_stepped {c : Instr} {op : TileOp} {raw : Desc} {len : Nat} {h' : Thread} {P : TileEntry → Prop} (own : OnlyThread x s u)
    (run : exec c s = .next (stepped x (addTile x n e u))) (ht : e.t = x.t.val) (hbe : e.be = s.isBe x.e.val x.t.val) (hop : e.op = op)
    (hdesc : e.desc = raw) (hpc : e.pc = (thrAt s x).pc) (hst : e.st = .queued) (hlen : e.len = len) (hv : e.verdict = none) (hP : P e)
    (hh : (thrAt u x).next = h') : Queued c s x op raw len h' P := by
  have queue := emberPart_of_onlyThread Ember.tileQ (fun _ _ _ => rfl) own
  have scratch := emberPart_of_onlyThread Ember.scratch (fun _ _ _ => rfl) own
  have parts := part_of_onlyThread own
  obtain ⟨-, embers, -, threads⟩ := own
  refine ⟨_, e, run, ?_, ht, hbe, hop, hdesc, hpc, hst, hlen, hv, hP, ?_, ?_, fun j hj => ?_, fun k hk => ?_, fun m => ?_⟩
  · rw [emberPart_stepped Ember.tileQ fun _ _ _ => rfl, ember_addTile, if_pos rfl, Ember.addTile, queue]
  · rw [thrAt_stepped, thrAt, thread_addTile, ← thrAt, hh]
  · rw [emberPart_stepped Ember.scratch fun _ _ _ => rfl, ember_addTile, if_pos rfl, Ember.addTile, scratch]
  · rw [thread_stepped_same hj, thread_addTile, threads j hj]
  · rw [ember_stepped_ne hk, ember_addTile, if_neg (Ne.symm hk), embers k hk]
  · rw [part_stepped, ← parts, part_addTile]

end

/-- The queue has room where it holds fewer than 16 entries, and fewer than eight of a BE thread's class (R69). -/
theorem tileRoom_of {x : Site} {s : State} (all : (s.ember x.e.val).tileQ.length < 16)
    (be : s.isBe x.e.val x.t.val = true → ((s.ember x.e.val).tileQ.filter (·.be)).length < 8) : tileRoom x s = true := by
  cases class_ : s.isBe x.e.val x.t.val
  · simp [tileRoom, all, beAt, class_]
  · simp [tileRoom, all, be class_]

/-! ### TMMA -/

/-- The matrix descriptor that the instruction names. -/
def tmmaDesc (s : State) (x : Site) (f : BitVec 52) : MatDesc := matDesc ((thrAt s x).td.get (fRd f))

/-- The chain key of the instruction (R118). -/
def tmmaKey (s : State) (x : Site) (f : BitVec 52) (ta tb : Bool) : ChainKey := chainKey (tmmaDesc s x f) ta tb

/-- The thread's chain after an instruction with chain code `cc` (R118). -/
def chainAfter (cc : Nat) (key : ChainKey) (len : Nat) : Option Chain := if 2 ≤ cc then none else some { key := key, len := len }

/-- A matrix instruction with chain code `cc` may issue, and no check of R117 before the chain rules fails: its scale table gives `fix`, and
its operands, with the shadows that it takes, lie within bounds. -/
structure TmmaFits (x : Site) (cc : Nat) (tb ta : Bool) (f : BitVec 52) (s : State) (fix : TileFix) (shadows : List Extent) : Prop where
  issues : issuable s x (insnWord 0x20 (16 * cc + 2 * b2n tb + b2n ta) f) f [] [] = true
  room : tileRoom x s = true
  fields : (decide (fRd f < 16) && decide (fRa f = 0) && decide (fRb f = 0) && decide (fLow f = 0)) = true
  shape : matOk (tmmaDesc s x f) cc ta tb = true
  table : matFix (s.part (partAt s x)) (beAt s x) (tmmaDesc s x f) cc = .ok fix
  bounds : boundsCheck (s.ember x.e.val) (beAt s x) (matReads (tmmaDesc s x f) cc ta tb ++ shadows)
    (if 2 ≤ cc then [brickExt (tmmaDesc s x f).oBrick] else []) = none

/-- The shadows that a START or SINGLE takes (R137). -/
def takenShadow (h : Thread) : Option (Nat × Nat) := if h.snt.take.drift then h.snt.shadow else none

/-- The draw of the thread's next START or SINGLE (R180). -/
def nextDraw (s : State) (x : Site) : DWord := sntDraw s x.e.val x.t.val (thrAt s x).snt.take.j

/-- That draw samples the chain (R180). -/
def drawHits (s : State) (x : Site) : Bool := decide ((nextDraw s x).toNat % 2 ^ (thrAt s x).snt.take.n = 0)

/-- The sentinel of the thread after that draw (R135, R137, R180). -/
def drawnSentinel (s : State) (x : Site) : Sentinel :=
  { (thrAt s x).snt.take with
    j := (thrAt s x).snt.take.j + 1
    sampled := if drawHits s x then (thrAt s x).snt.take.sampled + 1 else (thrAt s x).snt.take.sampled
    shadow := none }

/-- The entry of a matrix instruction (R69). -/
def tmmaEntry (x : Site) (cc : Nat) (tb ta : Bool) (f : BitVec 52) (s : State) (fix : TileFix) (len : Nat) (sample shadow : Option (Nat × Nat)) :
    TileEntry :=
  { t := x.t.val, be := beAt s x, op := .tmma cc ta tb, desc := (thrAt s x).td.get (fRd f), pc := (thrAt s x).pc, st := .queued, sample := sample
    shadow := shadow, fix := fix, len := len, upset := [], seq := (s.part (partAt s x)).launched, verdict := none }

/-- Write a thread's chain and sentinel. -/
def Thread.setChain (chain : Option Chain) (snt : Sentinel) (h : Thread) : Thread := { h with chain := chain, snt := snt }

section
variable {x : Site} {cc : Nat} {tb ta : Bool} {f : BitVec 52} {s : State} {fix : TileFix} {shadows : List Extent}

/-- The effect of a START or SINGLE whose checks pass (R117, R118, R180). -/
theorem tmmaBody_opens {len : Nat}
    (fit : TmmaFits x cc tb ta f s fix (((takenShadow (thrAt s x)).map (shadowExts (tmmaDesc s x f) ta tb)).getD []))
    (opening : cc = 0 ∨ cc = 3)
    (chain : chainLen (thrAt s x).chain (tmmaKey s x f ta tb) cc (tmmaDesc s x f).klen = .ok len) :
    tmmaBody x cc ta tb ((thrAt s x).td.get (fRd f)) s = .ok (addTile x (partAt s x)
      (tmmaEntry x cc tb ta f s fix len (if drawHits s x then some (field (nextDraw s x) 35 32, field (nextDraw s x) 39 36) else none)
        (takenShadow (thrAt s x)))
      (modAt x (Thread.setChain (chainAfter cc (tmmaKey s x f ta tb) len)
        (drawnSentinel s x)) s)) := by
  have opens : (decide (cc = 0) || decide (cc = 3)) = true := by simpa using opening
  obtain ⟨-, -, -, shape, table, bounds⟩ := fit
  simp only [takenShadow, tmmaDesc, tmmaKey] at shape table bounds chain
  unfold tmmaBody
  simp only [opens, Bool.true_and, if_true, shape, bounds, table, chain, Bool.not_true, Bool.false_eq_true, if_false]
  rfl

/-- The effect of a CONTINUE or FINISH whose checks pass (R117, R118). -/
theorem tmmaBody_goesOn {len : Nat} (fit : TmmaFits x cc tb ta f s fix []) (inside : cc = 1 ∨ cc = 2)
    (chain : chainLen (thrAt s x).chain (tmmaKey s x f ta tb) cc (tmmaDesc s x f).klen = .ok len) :
    tmmaBody x cc ta tb ((thrAt s x).td.get (fRd f)) s = .ok (addTile x (partAt s x) (tmmaEntry x cc tb ta f s fix len none none)
      (modAt x (Thread.setChain (chainAfter cc (tmmaKey s x f ta tb) len)
        (thrAt s x).snt) s)) := by
  have opens : (decide (cc = 0) || decide (cc = 3)) = false := by
    simp only [Bool.or_eq_false_iff, decide_eq_false_iff_not]
    omega
  obtain ⟨-, -, -, shape, table, bounds⟩ := fit
  simp only [tmmaDesc, tmmaKey] at shape table bounds chain
  unfold tmmaBody
  simp only [opens, Bool.false_and, Bool.false_eq_true, if_false, shape, bounds, table, chain, Bool.not_true, Option.map_none, Option.getD_none]
  rfl

/-- An instruction that the chain rules refuse (R118). -/
theorem tmmaBody_refused {code : Nat} (fit : TmmaFits x cc tb ta f s fix []) (untaken : cc = 0 ∨ cc = 3 → takenShadow (thrAt s x) = none)
    (chain : chainLen (thrAt s x).chain (tmmaKey s x f ta tb) cc (tmmaDesc s x f).klen = .error code) :
    tmmaBody x cc ta tb ((thrAt s x).td.get (fRd f)) s = .exc code 0 := by
  obtain ⟨-, -, -, shape, table, bounds⟩ := fit
  simp only [tmmaDesc, tmmaKey] at shape table bounds chain
  unfold tmmaBody
  by_cases opening : cc = 0 ∨ cc = 3
  · have opens : (decide (cc = 0) || decide (cc = 3)) = true := by simpa using opening
    have none := untaken opening
    simp only [takenShadow] at none
    simp only [opens, Bool.true_and, if_true, none, shape, bounds, table, chain, Bool.not_true, Bool.false_eq_true, if_false, Option.map_none,
      Option.getD_none]
  · have opens : (decide (cc = 0) || decide (cc = 3)) = false := by simpa using opening
    simp only [opens, Bool.false_and, Bool.false_eq_true, if_false, shape, bounds, table, chain, Bool.not_true, Option.map_none, Option.getD_none]

end

/-! ### The chain rules (R118) -/

theorem chainLen_none {key : ChainKey} {cc klen : Nat} (opening : cc = 0 ∨ cc = 3) (short : klen ≤ 2 ^ 24) : chainLen none key cc klen = .ok klen := by
  simp only [chainLen, if_pos opening, if_neg (Nat.not_lt.2 short)]

theorem chainLen_same {key : ChainKey} {cc len klen : Nat} (inside : ¬ (cc = 0 ∨ cc = 3)) (short : len + klen ≤ 2 ^ 24) :
    chainLen (some { key := key, len := len }) key cc klen = .ok (len + klen) := by
  have open_ : ¬ (cc = 0 ∨ cc = 3 ∨ key ≠ key) := by
    rintro (h | h | h)
    · exact inside (.inl h)
    · exact inside (.inr h)
    · exact h rfl
  simp only [chainLen, if_neg open_, if_neg (Nat.not_lt.2 short)]

theorem chainLen_reopened {chain : Option Chain} {key : ChainKey} {cc klen : Nat} (opening : cc = 0 ∨ cc = 3) (open_ : chain ≠ none) :
    chainLen chain key cc klen = .error excChain := by
  cases chain with
  | none => exact absurd rfl open_
  | some c => exact if_pos (opening.imp_right .inl)

theorem chainLen_broken {chain : Option Chain} {key : ChainKey} {cc klen : Nat} (inside : ¬ (cc = 0 ∨ cc = 3))
    (other : ∀ len, chain ≠ some { key := key, len := len }) : chainLen chain key cc klen = .error excChain := by
  cases chain with
  | none => exact if_neg inside
  | some c => exact if_pos (.inr (.inr fun same => other c.len (by rw [← same])))

/-! ### The four codes -/

section
variable {c : Instr} {x : Site} {cc : Nat} {tb ta : Bool} {f : BitVec 52} {s : State} {fix : TileFix}
  (run : exec c s = .next (issueTmma x cc tb ta f s))
include run

theorem tmma_opens (fit : TmmaFits x cc tb ta f s fix (((takenShadow (thrAt s x)).map (shadowExts (tmmaDesc s x f) ta tb)).getD []))
    (opening : cc = 0 ∨ cc = 3) (closed : (thrAt s x).chain = none) (short : (tmmaDesc s x f).klen ≤ 2 ^ 24) :
    Queued c s x (.tmma cc ta tb) ((thrAt s x).td.get (fRd f)) (tmmaDesc s x f).klen
      { (thrAt s x).next with
        chain := chainAfter cc (tmmaKey s x f ta tb) (tmmaDesc s x f).klen
        snt := drawnSentinel s x }
      fun e => e.fix = fix ∧ e.shadow = takenShadow (thrAt s x) ∧
        e.sample = if drawHits s x then some (field (nextDraw s x) 35 32, field (nextDraw s x) 39 36) else none := by
  have body := tmmaBody_opens fit opening (by rw [closed]; exact chainLen_none opening short)
  refine queued_stepped (onlyThread_modAt ..) (exec_stepped run fit.issues fit.room (reserved_of fit.fields) body ?_) rfl rfl rfl rfl rfl rfl rfl rfl
    ⟨rfl, rfl, rfl⟩ ?_
  · rw [thrAt, thread_addTile, ← thrAt, thrAt_modAt]
    rfl
  · rw [thrAt_modAt]
    rfl

theorem tmma_goesOn {len : Nat} (fit : TmmaFits x cc tb ta f s fix []) (inside : cc = 1 ∨ cc = 2)
    (open_ : (thrAt s x).chain = some { key := tmmaKey s x f ta tb, len := len })
    (short : len + (tmmaDesc s x f).klen ≤ 2 ^ 24) :
    Queued c s x (.tmma cc ta tb) ((thrAt s x).td.get (fRd f)) (len + (tmmaDesc s x f).klen)
      { (thrAt s x).next with chain := chainAfter cc (tmmaKey s x f ta tb) (len + (tmmaDesc s x f).klen) }
      fun e => e.fix = fix ∧ e.sample = none := by
  have body := tmmaBody_goesOn fit inside (by rw [open_]; exact chainLen_same (by omega) short)
  refine queued_stepped (onlyThread_modAt ..) (exec_stepped run fit.issues fit.room (reserved_of fit.fields) body ?_) rfl rfl rfl rfl rfl rfl rfl rfl
    ⟨rfl, rfl⟩ ?_
  · rw [thrAt, thread_addTile, ← thrAt, thrAt_modAt]
    rfl
  · rw [thrAt_modAt]
    rfl

theorem tmma_raisesChain (fit : TmmaFits x cc tb ta f s fix []) (untaken : cc = 0 ∨ cc = 3 → takenShadow (thrAt s x) = none)
    (chain : chainLen (thrAt s x).chain (tmmaKey s x f ta tb) cc (tmmaDesc s x f).klen =
      .error excChain) : exec c s = .next (raise x 0x12 0 s) :=
  exec_raised run fit.issues fit.room (reserved_of fit.fields) (tmmaBody_refused fit untaken chain)

end

/-! ### TQNT -/

/-- A conversion's checks of R117, R126, R127 and R166 pass. -/
structure TqntFits (x : Site) (recipe rot : Nat) (q : QuantDesc) (fmt : Nat) (s : State) : Prop where
  format : fmt = recipeFmt recipe ((s.part (partAt s x)).entry (beAt s x) q.sct).fmtStep
  inTable : q.sct < sctCount (s.part (partAt s x)) (beAt s x)
  shape : quantOk q recipe rot (rowElems fmt) = true
  known : recipe = 2 → fmt ≤ 1 ∨ fmt = 3
  kind : 6 ≤ recipe → ((s.part (partAt s x)).entry (beAt s x) q.sct).kind = 4
  bounds : boundsCheck (s.ember x.e.val) (beAt s x) (brickExts q.iBrick q.iStride (q.nBrick * rowElems fmt / q.w))
    (brickExts q.qBrick q.qStride q.nBrick ++ if recipeStrips recipe then [{ off := q.strip, len := q.nBrick * (rowElems fmt / 2) }] else []) = none

/-- What a TQNT takes from its entry of the scale table (R127). -/
def tqntFix (x : Site) (q : QuantDesc) (fmt : Nat) (s : State) : TileFix :=
  let ent := (s.part (partAt s x)).entry (beAt s x) q.sct
  { aX := 0, bX := 0, oFmt := fmt, oX := (ent.scaleX.toNat : Int) - 127, inv := ent.int8Inv, zp := ent.zp.toInt }

/-- The entry of a TQNT (R69). -/
def tqntEntry (x : Site) (recipe rot : Nat) (raw : Desc) (fix : TileFix) (s : State) : TileEntry :=
  { t := x.t.val, be := beAt s x, op := .tqnt recipe rot, desc := raw, pc := (thrAt s x).pc, st := .queued, sample := none, shadow := none, fix := fix
    len := 0, upset := [], seq := (s.part (partAt s x)).launched, verdict := none }

theorem tqntBody_of_fits {x : Site} {recipe rot fmt : Nat} {raw : Desc} {s : State} (fit : TqntFits x recipe rot (quantDesc raw) fmt s) :
    tqntBody x recipe rot raw s = .ok (addTile x (partAt s x) (tqntEntry x recipe rot raw (tqntFix x (quantDesc raw) fmt s) s) s) := by
  obtain ⟨format, inTable, shape, known, kind, bounds⟩ := fit
  subst format
  have knows : (decide (recipe ≠ 2) || (true && (decide (recipeFmt recipe ((s.part (partAt s x)).entry (beAt s x) (quantDesc raw).sct).fmtStep ≤ 1) ||
      decide (recipeFmt recipe ((s.part (partAt s x)).entry (beAt s x) (quantDesc raw).sct).fmtStep = 3)))) = true := by
    simp only [Bool.true_and, Bool.or_eq_true, decide_eq_true_eq]
    by_cases two : recipe = 2
    · exact .inr (known two)
    · exact .inl two
  have kinds : (decide (6 ≤ recipe) && decide (((s.part (partAt s x)).entry (beAt s x) (quantDesc raw).sct).kind ≠ 4)) = false := by
    by_cases six : 6 ≤ recipe
    · simp [kind six]
    · simp [six]
  unfold tqntBody
  simp only [decide_eq_true inTable, if_true, shape, knows, bounds, kinds, Bool.not_true, Bool.false_eq_true, if_false, Bool.and_false, Bool.or_false]
  rfl

theorem tqnt_queues {x : Site} {rot : Fin 4} {recipe : Fin 8} {f : BitVec 52} {s : State} {fmt : Nat}
    (hi : issuable s x (insnWord 0x21 (8 * rot.val + recipe.val) f) f [] [] = true) (room : tileRoom x s = true)
    (fields : (decide (fRd f < 16) && decide (fRa f = 0) && decide (fRb f = 0) && decide (fLow f = 0)) = true)
    (allowed : rotAllowed recipe.val rot.val = true) (fit : TqntFits x recipe.val rot.val (quantDesc ((thrAt s x).td.get (fRd f))) fmt s) :
    Queued (.tqnt x rot recipe f) s x (.tqnt recipe.val rot.val) ((thrAt s x).td.get (fRd f)) 0 (thrAt s x).next fun e => e.fix.oFmt = fmt := by
  have static : (if !rotAllowed recipe.val rot.val then some excIllegalOpcode
      else reserved (decide (fRd f < 16) && decide (fRa f = 0) && decide (fRb f = 0) && decide (fLow f = 0))) = none := by
    rw [allowed]
    exact reserved_of fields
  refine queued_stepped (OnlyThread.refl ..) (exec_stepped rfl hi room static (tqntBody_of_fits fit) ?_) rfl rfl rfl rfl rfl rfl rfl rfl rfl rfl
  rw [thrAt, thread_addTile, ← thrAt]

end Sys2Proof.Machine

namespace Sys2Proof

open Machine

/-- Settles O16: the shared effect of a matrix instruction, with the chain rules' answer for each code, and that of a conversion. -/
theorem tileIssue : Obligations.TileIssue := by
  intro x tb ta f s h be p m raw d key snt draw sampled drawn at_ fits opens goesOn
  have good : ∀ {cc fix shadows}, fits cc fix shadows → TmmaFits x cc tb ta f s fix shadows := by
    rintro cc fix shadows ⟨⟨hi, all, bes, rd, ra, rb, low⟩, shape, table, bounds⟩
    exact ⟨by cases tb <;> cases ta <;> exact hi, tileRoom_of all bes, by simp [rd, ra, rb, low], shape, table, bounds⟩
  have untaken : (∀ sh, snt.drift = true → h.snt.shadow = some sh → False) → takenShadow h = none := by
    intro free
    unfold takenShadow
    split
    · next drift => exact Option.eq_none_iff_forall_ne_some.2 fun sh taken => free sh drift taken
    · rfl
  refine ⟨?start, ?single, ?onward, ?finish, ?chain, ?tqnt⟩
  case start => exact fun fix fit closed short => tmma_opens rfl (good fit) (.inl rfl) closed short
  case single => exact fun fix fit closed short => tmma_opens rfl (good fit) (.inr rfl) closed short
  case onward => exact fun fix len fit open_ short => tmma_goesOn rfl (good fit) (.inl rfl) open_ short
  case finish => exact fun fix len fit open_ short => tmma_goesOn rfl (good fit) (.inr rfl) open_ short
  case chain =>
    refine fun fix free => ⟨fun fit open_ => ?_, fun fit open_ => ?_, fun fit other => ?_, fun fit other => ?_⟩
    · exact tmma_raisesChain rfl (good fit) (fun _ => untaken free) (chainLen_reopened (.inl rfl) open_)
    · exact tmma_raisesChain rfl (good fit) (fun _ => untaken free) (chainLen_reopened (.inr rfl) open_)
    · exact tmma_raisesChain rfl (good fit) (fun _ => untaken free) (chainLen_broken (by decide) other)
    · exact tmma_raisesChain rfl (good fit) (fun _ => untaken free) (chainLen_broken (by decide) other)
  case tqnt =>
    intro rot recipe hi all bes rd ra rb low q ent fmt rotates inTable shape known kind bounds
    have allowed : rotAllowed recipe.val rot.val = true := by
      by_cases still : rot.val = 0
      · simp [rotAllowed, still]
      · simpa [rotAllowed, still] using rotates still
    exact tqnt_queues hi (tileRoom_of all bes) (by simp [rd, ra, rb, low]) allowed ⟨rfl, inTable, shape, known, kind, bounds⟩

end Sys2Proof
end

section
/-! Movers (R74, R104, R105): the rules of their queue operations, one row moved as one piece, and O22. -/

namespace Sys2Proof.Machine

/-! ### The queue -/

theorem swapJob_some {pre post : List MoverJob} {j : MoverJob} (j' : MoverJob) (h : j ∉ pre) :
    swapJob j (some j') (pre ++ j :: post) = pre ++ j' :: post := by
  induction pre with
  | nil => exact if_pos rfl
  | cons a pre ih =>
    rw [List.mem_cons, not_or] at h
    obtain ⟨ha, hpre⟩ := h
    exact (if_neg (Ne.symm ha)).trans (congrArg (a :: ·) (ih hpre))

theorem swapJob_none {pre post : List MoverJob} {j : MoverJob} (h : j ∉ pre) : swapJob j none (pre ++ j :: post) = pre ++ post := by
  induction pre with
  | nil => exact if_pos rfl
  | cons a pre ih =>
    rw [List.mem_cons, not_or] at h
    obtain ⟨ha, hpre⟩ := h
    exact (if_neg (Ne.symm ha)).trans (congrArg (a :: ·) (ih hpre))

theorem returnBe_quarters (n : Nat) (s : State) : (returnBe n s).quarters = s.quarters := by
  unfold returnBe
  split
  · rfl
  · rfl

theorem returnBe_shelf (n m : Nat) (s : State) : ((returnBe n s).part m).mem.shelf = (s.part m).mem.shelf := by
  unfold returnBe
  split
  · rfl
  · rw [part_modPart]
    split
    · rfl
    · rfl

/-- Replace or remove an entry of the queue of mover `mv`. -/
def Ember.swapJob (mv : Nat) (j : MoverJob) (j' : Option MoverJob) (m : Ember) : Ember :=
  { m with movers := m.movers.upd mv (Machine.swapJob j j') }

section
variable (l mv : Nat) (j : MoverJob) (j' : Option MoverJob) (s : State)

theorem setJob_quarters : (setJob l mv j j' s).quarters = (s.modEmber l (Ember.swapJob mv j j')).quarters := by
  unfold setJob
  cases j' with
  | none => exact returnBe_quarters ..
  | some j' => rfl

theorem setJob_ember (k : Nat) : (setJob l mv j j' s).ember k = if l = k then (s.ember k).swapJob mv j j' else s.ember k := by
  rw [State.ember, setJob_quarters, ← State.ember, ember_modEmber]

theorem setJob_movers : ((setJob l mv j j' s).ember l).movers.get mv = swapJob j j' ((s.ember l).movers.get mv) := by
  rw [setJob_ember, if_pos rfl, Ember.swapJob, Tab.get_upd_at, if_pos rfl]

theorem setJob_scratch (k : Nat) : ((setJob l mv j j' s).ember k).scratch = (s.ember k).scratch := by
  rw [setJob_ember]
  split
  · rfl
  · rfl

theorem setJob_thread (k i : Nat) : (setJob l mv j j' s).thread k i = s.thread k i := by
  rw [State.thread, setJob_ember, State.thread]
  split
  · rfl
  · rfl

theorem setJob_shelf (n : Nat) : ((setJob l mv j j' s).part n).mem.shelf = (s.part n).mem.shelf := by
  unfold setJob
  cases j' with
  | none => exact returnBe_shelf ..
  | some j' => rfl

end

theorem onlyEmbers_setJob_some (l mv : Nat) (j j' : MoverJob) (s : State) : OnlyEmbers [l] s (setJob l mv j (some j') s) := onlyEmbers_mod ..

/-! ### A tally's count -/

theorem tallyAdd_counts {l t : Nat} {s : State} (h : (s.thread l t).st ≠ .lost) (q k : Nat) :
    ((tallyAdd l t q k s).thread l t).q.get q = satAdd ((s.thread l t).q.get q) k := by
  have counted := tallyAdd_thread l t q k s h
  rcases counted with same | ⟨-, -, rest⟩
  · rw [same]
    exact Tab.get_set_same ..
  · have q' := congrArg Thread.q rest
    rw [show ((tallyAdd l t q k s).thread l t).q = (s.thread l t).q.set q (satAdd ((s.thread l t).q.get q) k) from q']
    exact Tab.get_set_same ..

/-- A part of an ember that is neither threads nor EMB_TALLY_OVF does not change when a tally counts. -/
theorem emberPart_tallyAdd {α : Type} (g : Ember → α) (hg : ∀ m thr ovf, g { m with thr := thr, tallyOvf := ovf } = g m) (l t q k : Nat) (s : State)
    (j : Nat) : g ((tallyAdd l t q k s).ember j) = g (s.ember j) := by
  rw [← hg ((tallyAdd l t q k s).ember j) (s.ember j).thr (s.ember j).tallyOvf, tallyAdd_ember]

theorem useCount_shelf (n : Nat) (be : Bool) (a b : Nat) (s : State) (m : Nat) : ((useCount n be a b s).part m).mem.shelf = (s.part m).mem.shelf := by
  unfold useCount
  rw [part_modPart]
  split
  · cases (s.part m).running be with
    | none => rfl
    | some c => rfl
  · rfl

/-! ### Bytes moved -/

/-- What a memory holds after `len` bytes were copied to `dst0` from `src0` of another. -/
def copied (src : Memory) (src0 : Nat) (dst : Memory) (dst0 len b : Nat) : Byte :=
  if dst0 ≤ b ∧ b < dst0 + len then src.get (src0 + (b - dst0)) else dst.get b

theorem get_write_read (src dst : Memory) (src0 dst0 len b : Nat) : (dst.write dst0 (src.read src0 len)).get b = copied src src0 dst dst0 len b := by
  have length : (src.read src0 len).length = len := by simp [Memory.read]
  rw [Memory.get_write, copied]
  by_cases h : dst0 ≤ b ∧ b < dst0 + len
  · rw [if_pos h, dif_pos (by omega)]
    simp [Memory.read]
  · rw [if_neg h, dif_neg (by omega)]

/-- The extent of a single row is the row (R103). -/
theorem extent_row (a : Nat) (stride : Int) (len : Nat) : extent a stride 1 len = ((a : Int), len) := by
  simp [extent]

theorem total_row {d : MvDesc} (h : d.rows = 1) : d.total = d.rowBytes := by
  rw [MvDesc.total, h, Nat.one_mul]

theorem far_row {d : MvDesc} (h : d.conv = 0) (o : Nat) : d.far o = o := if_pos h

section
variable {l : Nat} {j : MoverJob} {k : Nat} {s : State}

theorem moverRead_scratch (src : (mvDesc j.desc).sSp = 0) (clean : (s.ember l).mismatches (mvDesc j.desc).src k = []) :
    moverRead l j (mvDesc j.desc) 0 0 k s = .moved s ((s.ember l).scratch.read (mvDesc j.desc).src k) := by
  have off : (((mvDesc j.desc).src : Int) + ((0 : Nat) : Int) * (mvDesc j.desc).sStride + ((0 : Nat) : Int)).toNat = (mvDesc j.desc).src := by simp
  simp only [moverRead, src, off, clean]

/-- The first `upto` bytes of a row out of scratch are one piece, unless they go to device-virtual memory. -/
theorem moverRun_row {fuel upto : Nat} {s' : State} {bs : List Byte} (fresh : j.done = 0) (some : 0 < upto) (le : upto ≤ (mvDesc j.desc).rowBytes)
    (conv : (mvDesc j.desc).conv = 0) (src : (mvDesc j.desc).sSp = 0) (dst : (mvDesc j.desc).dSp ≠ 3)
    (clean : (s.ember l).mismatches (mvDesc j.desc).src upto = [])
    (written : moverWrite l j (mvDesc j.desc) 0 0 ((s.ember l).scratch.read (mvDesc j.desc).src upto) s = .moved s' bs) :
    moverRun (fuel + 1) l j upto s = (s', .some { j with done := upto, stall := false }) := by
  have piece : pieceLen (mvDesc j.desc) 0 0 (min ((mvDesc j.desc).rowBytes - 0) (upto - 0)) = upto := by
    simp only [pieceLen, src, ne_eq, dst, not_false_eq_true, if_true, Nat.sub_zero]
    rw [if_pos (by decide)]
    omega
  have done : ∀ fuel, moverRun fuel l { j with done := upto, stall := false } upto s' = (s', .some { j with done := upto, stall := false }) := by
    intro fuel
    cases fuel with
    | zero => rfl
    | succ fuel => exact if_pos (Nat.le_refl upto)
  have first : ¬ upto ≤ 0 := Nat.not_le.2 some
  rw [moverRun]
  simp only [fresh, Nat.zero_div, Nat.zero_mod, if_neg first, piece, moverRead_scratch src clean, conv, written, Nat.zero_add, done,
    Nat.zero_ne_one, if_false, OfNat.zero_ne_ofNat]

theorem moverAdvance_row {mv upto : Nat} {f : MoverJob → State → State} {s' : State} {bs : List Byte} (fresh : j.done = 0) (some : 0 < upto)
    (le : upto ≤ (mvDesc j.desc).rowBytes) (conv : (mvDesc j.desc).conv = 0) (src : (mvDesc j.desc).sSp = 0) (dst : (mvDesc j.desc).dSp ≠ 3)
    (clean : (s.ember l).mismatches (mvDesc j.desc).src upto = []) (remote : remCheck l j (mvDesc j.desc) s = none)
    (written : moverWrite l j (mvDesc j.desc) 0 0 ((s.ember l).scratch.read (mvDesc j.desc).src upto) s = .moved s' bs) :
    moverAdvance l mv j upto f s =
      f { j with done := upto, stall := false } (setJob l mv j (.some { j with done := upto, stall := false }) s') := by
  simp only [moverAdvance, remote, moverFuel, moverRun_row fresh some le conv src dst clean written]
  exact if_pos (Nat.le_refl upto)

theorem remCheck_local {d : MvDesc} (h : d.dSp ≠ 1) : remCheck l j d s = none := if_pos h

theorem remCheck_row {d : MvDesc} (rows : d.rows = 1) (inside : (s.ember (remEmber d.dst)).extentIn j.be (remOff d.dst, d.rowBytes) = true)
    (free : (s.ember (remEmber d.dst)).hitsCode (remOff d.dst) d.rowBytes = false) : remCheck l j d s = none := by
  simp only [remCheck, rows, extent_row, inside, Int.toNat_natCast, free, Bool.not_true, Bool.false_eq_true, if_false, ite_self]

theorem moverWrite_scratch {d : MvDesc} {bs : List Byte} (h : d.dSp = 0) : moverWrite l j d 0 0 bs s = .moved (storeScratch l d.dst bs s) [] := by
  have off : ((d.dst : Int) + ((0 : Nat) : Int) * d.dStride + ((0 : Nat) : Int)).toNat = d.dst := by simp
  simp only [moverWrite, h, off]

theorem moverWrite_remote {d : MvDesc} {bs : List Byte} (h : d.dSp = 1) :
    moverWrite l j d 0 0 bs s = .moved (storeScratch (remEmber d.dst) (remOff d.dst) bs s) [] := by
  have off : ((remOff d.dst : Int) + ((0 : Nat) : Int) * d.dStride + ((0 : Nat) : Int)).toNat = remOff d.dst := by simp
  simp only [moverWrite, h, off]

/-- Write bytes to the shelf. -/
def Part.writeShelf (a : Nat) (bs : List Byte) (p : Part) : Part := { p with mem := { p.mem with shelf := p.mem.shelf.write a bs } }

theorem moverWrite_shelf {d : MvDesc} {bs : List Byte} (h : d.dSp = 2) (conv : d.conv = 0) (inside : d.dst + bs.length ≤ s.shelfBytes)
    (awake : shelfAwake s (s.partOf l) d.dst bs.length = true) :
    moverWrite l j d 0 0 bs s = .moved (s.modPart (s.partOf l) (Part.writeShelf d.dst bs)) [] := by
  have off : (d.dst : Int) + ((0 : Nat) : Int) * d.dStride + ((0 : Nat) : Int) = d.dst := by simp
  have bound : ¬ ((d.dst : Int) < 0 ∨ (s.shelfBytes : Int) < (d.dst : Int) + (bs.length : Int)) := by omega
  simp only [moverWrite, h, far_row conv, off, if_neg bound, Int.toNat_natCast, awake, Bool.not_true, Bool.false_eq_true, if_false]
  rfl

end

/-! ### Dispatch -/

section
variable {l : EmberId} {mv : MoverId} {s : State} {pre post : List MoverJob} {j : MoverJob}
  (queue : (s.ember l.val).movers.get mv.val = pre ++ j :: post)
include queue

/-- The free mover takes the next descriptor (R74). -/
theorem moverDispatch_takes (service : s.inService = true) (idle : ∀ a ∈ (s.ember l.val).movers.get mv.val, a.st ≠ .active ∨ a.sent = true)
    (next : (s.ember l.val).nextJob mv.val (s.beFree l.val) = some j) (first : j ∉ pre) : ∃ t, exec (.moverDispatch l mv) s = .next t ∧
      OnlyEmbers [l.val] s t ∧ (t.ember l.val).movers.get mv.val = pre ++ { j with st := .active } :: post := by
  have free : (s.ember l.val).activeJob mv.val = none := List.find?_eq_none.2 fun a ha => by
    rcases idle a ha with h | h <;> simp [h]
  have taken : exec (.moverDispatch l mv) s = .next (setJob l.val mv.val j (some { j with st := .active }) s) := by
    have run : exec (.moverDispatch l mv) s = execMoverDispatch l mv s := rfl
    rw [run, execMoverDispatch]
    simp only [service, free, next, Bool.not_true, Option.isSome_none, Bool.or_false, Bool.false_eq_true, if_false]
  exact ⟨_, taken, onlyEmbers_setJob_some .., by rw [setJob_movers, queue, swapJob_some _ first]⟩

/-- The oldest LC descriptor is next (R74). -/
theorem nextJob_lc (free : Bool) (lc : j.be = false) (unsent : j.sent = false) (oldest : ∀ a ∈ pre, a.be = true ∨ a.sent = true) :
    (s.ember l.val).nextJob mv.val free = some j := by
  have found := find?_append_cons (p := fun j : MoverJob => !j.be && !j.sent) (pre := pre) (post := post) (a := j)
    (fun a ha => by rcases oldest a ha with h | h <;> simp [h]) (by simp [lc, unsent])
  simp only [Ember.nextJob, queue, found]

end

section
variable {l : EmberId} {mv : MoverId} {s : State}
  (noLc : ∀ a ∈ (s.ember l.val).movers.get mv.val, a.be = true ∨ a.sent = true)
include noLc

theorem noLcJob : ((s.ember l.val).movers.get mv.val).find? (fun j => !j.be && !j.sent) = none := List.find?_eq_none.2 fun a ha => by
  rcases noLc a ha with h | h <;> simp [h]

variable {pre post : List MoverJob} {j : MoverJob} (queue : (s.ember l.val).movers.get mv.val = pre ++ j :: post) (be : j.be = true)
include queue be

/-- With no LC descriptor queued a paused BE one is next (R74). -/
theorem nextJob_paused (paused : j.st = .paused) (oldest : ∀ a ∈ pre, a.be = true → a.st ≠ .paused) :
    (s.ember l.val).nextJob mv.val true = some j := by
  have none := noLcJob noLc
  have found := find?_append_cons (p := fun j : MoverJob => j.be && decide (j.st = .paused)) (pre := pre) (post := post) (a := j)
    (fun a ha => by cases h : a.be <;> simp [oldest a ha, h]) (by simp [be, paused])
  rw [← queue] at found
  simp only [Ember.nextJob, none, found, if_true]

/-- With no BE descriptor paused either the oldest queued BE one is next (R74). -/
theorem nextJob_queued (queued : j.st = .queued) (noPaused : ∀ a ∈ (s.ember l.val).movers.get mv.val, a.be = true → a.st ≠ .paused)
    (oldest : ∀ a ∈ pre, a.be = true → a.st ≠ .queued) : (s.ember l.val).nextJob mv.val true = some j := by
  have none := noLcJob noLc
  have nonePaused : ((s.ember l.val).movers.get mv.val).find? (fun j => j.be && decide (j.st = .paused)) = Option.none :=
    List.find?_eq_none.2 fun a ha => by cases h : a.be <;> simp [noPaused a ha, h]
  have found := find?_append_cons (p := fun j : MoverJob => j.be && decide (j.st = .queued)) (pre := pre) (post := post) (a := j)
    (fun a ha => by cases h : a.be <;> simp [oldest a ha, h]) (by simp [be, queued])
  rw [← queue] at found
  simp only [Ember.nextJob, none, nonePaused, found, if_true]

end

/-! ### What the executing descriptor comes to -/

/-- A descriptor of one unconverted row out of scratch that executes and has moved nothing yet. -/
structure RowFrom (l : EmberId) (mv : MoverId) (s : State) (j : MoverJob) : Prop where
  executing : (s.ember l.val).activeJob mv.val = some j
  move : j.kind = .move
  rows : (mvDesc j.desc).rows = 1
  conv : (mvDesc j.desc).conv = 0
  source : (mvDesc j.desc).sSp = 0
  some : 0 < (mvDesc j.desc).rowBytes
  fresh : j.done = 0

/-- A descriptor is executing where it is active and unsent and no earlier one is. -/
theorem activeJob_of {m : Ember} {mv : Nat} {pre post : List MoverJob} {j : MoverJob} (queue : m.movers.get mv = pre ++ j :: post)
    (active : j.st = .active) (unsent : j.sent = false) (alone : ∀ a ∈ pre, a.st ≠ .active ∨ a.sent = true) : m.activeJob mv = some j := by
  rw [Ember.activeJob, queue]
  exact find?_append_cons (fun a ha => by rcases alone a ha with h | h <;> simp [h]) (by simp [active, unsent])

/-- The descriptor with its first `upto` bytes moved. -/
def MoverJob.advanced (j : MoverJob) (upto : Nat) : MoverJob := { j with done := upto, stall := false }

@[simp] theorem advanced_t (j : MoverJob) (upto : Nat) : (j.advanced upto).t = j.t := rfl
@[simp] theorem advanced_be (j : MoverJob) (upto : Nat) : (j.advanced upto).be = j.be := rfl
@[simp] theorem advanced_desc (j : MoverJob) (upto : Nat) : (j.advanced upto).desc = j.desc := rfl

/-- The queue entry brought up to date in the state in which the bytes are written. -/
def afterRow (l : EmberId) (mv : MoverId) (j : MoverJob) (upto : Nat) (u : State) : State :=
  setJob l.val mv.val j (some (j.advanced upto)) u

/-- A descriptor is done: entry `j'` leaves the queue, and the tally counts one (R75). -/
def retired (l : EmberId) (mv : MoverId) (j' : MoverJob) (v : State) : State :=
  tallyAdd l.val j'.t (mvDesc j'.desc).tally 1 (setJob l.val mv.val j' none (useCount (v.partOf l.val) j'.be (mvDesc j'.desc).total 0 v))

section
variable {l : EmberId} {mv : MoverId} {j' : MoverJob} {v : State}

theorem retired_movers {pre post : List MoverJob} (queue : (v.ember l.val).movers.get mv.val = pre ++ j' :: post) (first : j' ∉ pre) :
    ((retired l mv j' v).ember l.val).movers.get mv.val = pre ++ post := by
  rw [retired, emberPart_tallyAdd Ember.movers fun _ _ _ => rfl, setJob_movers, useCount_ember, queue, swapJob_none first]

theorem retired_counts (running : (v.thread l.val j'.t).st ≠ .lost) : ((retired l mv j' v).thread l.val j'.t).q.get (mvDesc j'.desc).tally =
    satAdd ((v.thread l.val j'.t).q.get (mvDesc j'.desc).tally) 1 := by
  have same : (setJob l.val mv.val j' none (useCount (v.partOf l.val) j'.be (mvDesc j'.desc).total 0 v)).thread l.val j'.t = v.thread l.val j'.t := by
    rw [setJob_thread, useCount_thread]
  rw [retired, tallyAdd_counts (by rw [same]; exact running), same]

theorem retired_scratch (k : Nat) : ((retired l mv j' v).ember k).scratch = (v.ember k).scratch := by
  rw [retired, emberPart_tallyAdd Ember.scratch fun _ _ _ => rfl, setJob_scratch, useCount_ember]

theorem retired_shelf (n : Nat) : ((retired l mv j' v).part n).mem.shelf = (v.part n).mem.shelf := by
  rw [retired, State.part, tallyAdd_parts, ← State.part, setJob_shelf, useCount_shelf]

end

section
variable {l : EmberId} {mv : MoverId} {strike : List Nat} {s u : State} {j : MoverJob} {bs : List Byte} (row : RowFrom l mv s j)
include row

/-- A row that leaves no remote descriptor behind completes (R75). -/
theorem moverComplete_row (near : (mvDesc j.desc).dSp = 0 ∨ (mvDesc j.desc).dSp = 2)
    (clean : ((s.ember l.val).strike strike).mismatches (mvDesc j.desc).src (mvDesc j.desc).rowBytes = [])
    (written : moverWrite l.val j (mvDesc j.desc) 0 0 ((s.ember l.val).scratch.read (mvDesc j.desc).src (mvDesc j.desc).rowBytes)
      (s.modEmber l.val (Ember.strike strike)) = .moved u bs) : exec (.moverComplete l mv strike []) s =
      .next (retired l mv (j.advanced (mvDesc j.desc).rowBytes) (afterRow l mv j (mvDesc j.desc).rowBytes u)) := by
  obtain ⟨executing, move, rows, conv, source, some, fresh⟩ := row
  have notRemote : (mvDesc j.desc).dSp ≠ 1 := by omega
  have notVirtual : (mvDesc j.desc).dSp ≠ 3 := by omega
  have struck : (s.modEmber l.val (Ember.strike strike)).ember l.val = (s.ember l.val).strike strike := ember_modEmber_same ..
  have clean' : ((s.modEmber l.val (Ember.strike strike)).ember l.val).mismatches (mvDesc j.desc).src (mvDesc j.desc).rowBytes = [] := by
    rw [struck, clean]
  have moves : ∀ f, moverAdvance l.val mv.val j (mvDesc j.desc).rowBytes f (s.modEmber l.val (Ember.strike strike)) =
      f (j.advanced (mvDesc j.desc).rowBytes) (afterRow l mv j (mvDesc j.desc).rowBytes u) := fun f =>
    moverAdvance_row fresh some (Nat.le_refl _) conv source notVirtual clean' (remCheck_local notRemote) (by rw [struck]; exact written)
  have run : exec (.moverComplete l mv strike []) s = execMoverComplete l mv strike [] s := rfl
  rw [run, execMoverComplete]
  simp only [strikeLines, List.foldl_nil, executing, move, if_neg notRemote, total_row rows, moves, retired, advanced_t, advanced_be, advanced_desc]

/-- A row to another ember is written there, the remote tally counts, and the entry waits for the acknowledgement (R105). -/
theorem remWriteDone_row (remote : (mvDesc j.desc).dSp = 1) (elsewhere : remEmber (mvDesc j.desc).dst ≠ l.val)
    (inside : (s.ember (remEmber (mvDesc j.desc).dst)).extentIn j.be (remOff (mvDesc j.desc).dst, (mvDesc j.desc).rowBytes) = true)
    (free : (s.ember (remEmber (mvDesc j.desc).dst)).hitsCode (remOff (mvDesc j.desc).dst) (mvDesc j.desc).rowBytes = false)
    (clean : ((s.ember l.val).strike strike).mismatches (mvDesc j.desc).src (mvDesc j.desc).rowBytes = []) {v : State}
    (hv : v = setJob l.val mv.val (j.advanced (mvDesc j.desc).rowBytes) (some { j.advanced (mvDesc j.desc).rowBytes with sent := true })
      (afterRow l mv j (mvDesc j.desc).rowBytes (storeScratch (remEmber (mvDesc j.desc).dst) (remOff (mvDesc j.desc).dst)
        ((s.ember l.val).scratch.read (mvDesc j.desc).src (mvDesc j.desc).rowBytes) (s.modEmber l.val (Ember.strike strike))))) :
    exec (.remWriteDone l mv strike []) s =
      .next (if (mvDesc j.desc).rtEn then tallyAdd (remEmber (mvDesc j.desc).dst) (mvDesc j.desc).rthread (mvDesc j.desc).rtally 1 v else v) := by
  obtain ⟨executing, move, rows, conv, source, some, fresh⟩ := row
  have notVirtual : (mvDesc j.desc).dSp ≠ 3 := by omega
  have struck : (s.modEmber l.val (Ember.strike strike)).ember l.val = (s.ember l.val).strike strike := ember_modEmber_same ..
  have other : (s.modEmber l.val (Ember.strike strike)).ember (remEmber (mvDesc j.desc).dst) = s.ember (remEmber (mvDesc j.desc).dst) := by
    rw [ember_modEmber, if_neg (Ne.symm elsewhere)]
  have clean' : ((s.modEmber l.val (Ember.strike strike)).ember l.val).mismatches (mvDesc j.desc).src (mvDesc j.desc).rowBytes = [] := by
    rw [struck, clean]
  have check := remCheck_row (l := l.val) (s := s.modEmber l.val (Ember.strike strike)) (j := j) rows (by rw [other]; exact inside) (by rw [other]; exact free)
  have moves : ∀ f, moverAdvance l.val mv.val j (mvDesc j.desc).rowBytes f (s.modEmber l.val (Ember.strike strike)) =
      f (j.advanced (mvDesc j.desc).rowBytes) (afterRow l mv j (mvDesc j.desc).rowBytes (storeScratch (remEmber (mvDesc j.desc).dst)
        (remOff (mvDesc j.desc).dst) ((s.ember l.val).scratch.read (mvDesc j.desc).src (mvDesc j.desc).rowBytes)
        (s.modEmber l.val (Ember.strike strike)))) := fun f =>
    moverAdvance_row fresh some (Nat.le_refl _) conv source notVirtual clean' check (by rw [struck]; exact moverWrite_remote remote)
  have run : exec (.remWriteDone l mv strike []) s = execRemWriteDone l mv strike [] s := rfl
  rw [run, execRemWriteDone, hv]
  simp only [strikeLines, List.foldl_nil, executing, move, remote, and_self, if_true, total_row rows, moves]

/-- A BE row within scratch steps aside at a boundary of 4,096 bytes while BE work is held (R59, R104). -/
theorem beMoverPause_row {k : Nat} (be : j.be = true) (held : s.beFree l.val = false) (near : (mvDesc j.desc).dSp = 0) (some : 0 < k)
    (before : 4096 * k < (mvDesc j.desc).rowBytes) (clean : (s.ember l.val).mismatches (mvDesc j.desc).src (4096 * k) = []) :
    exec (.beMoverPause l mv k []) s = .next (setJob l.val mv.val (j.advanced (4096 * k)) (.some { j.advanced (4096 * k) with st := .paused })
      (afterRow l mv j (4096 * k) (storeScratch l.val (mvDesc j.desc).dst ((s.ember l.val).scratch.read (mvDesc j.desc).src (4096 * k)) s))) := by
  obtain ⟨executing, move, rows, conv, source, -, fresh⟩ := row
  have notRemote : (mvDesc j.desc).dSp ≠ 1 := by omega
  have notVirtual : (mvDesc j.desc).dSp ≠ 3 := by omega
  have moves : ∀ f, moverAdvance l.val mv.val j (4096 * k) f s = f (j.advanced (4096 * k)) (afterRow l mv j (4096 * k)
      (storeScratch l.val (mvDesc j.desc).dst ((s.ember l.val).scratch.read (mvDesc j.desc).src (4096 * k)) s)) := fun f =>
    moverAdvance_row fresh (Nat.mul_pos (by decide) some) (Nat.le_of_lt before) conv source notVirtual clean (remCheck_local notRemote)
      (moverWrite_scratch near)
  have holds : (j.be && !s.beFree l.val && decide (j.done ≤ 4096 * k) && decide (4096 * k < (mvDesc j.desc).total)) = true := by
    simp [be, held, fresh, total_row rows, before]
  have run : exec (.beMoverPause l mv k []) s = execBeMoverPause l mv k [] s := rfl
  rw [run, execBeMoverPause]
  simp only [strikeLines, List.foldl_nil, executing, holds, if_true, jobAdvance, move, moves]

end

/-- The acknowledgement of the oldest remote descriptor retires it (R105). -/
theorem remAck_retires {l : EmberId} {mv : MoverId} {s : State} {j : MoverJob}
    (oldest : ((s.ember l.val).movers.get mv.val).find? (fun j => j.sent && decide (j.kind = .move)) = some j) :
    exec (.remAck l mv) s = .next (retired l mv j s) := by
  have run : exec (.remAck l mv) s = execRemAck l mv s := rfl
  rw [run, execRemAck]
  simp only [oldest]
  rfl

/-! ### What a moved row leaves -/

section
variable {l : EmberId} {mv : MoverId} {j : MoverJob} {upto : Nat} {u : State}

theorem afterRow_movers {pre post : List MoverJob} (queue : (u.ember l.val).movers.get mv.val = pre ++ j :: post) (first : j ∉ pre) :
    ((afterRow l mv j upto u).ember l.val).movers.get mv.val = pre ++ j.advanced upto :: post := by
  rw [afterRow, setJob_movers, queue, swapJob_some _ first]

theorem afterRow_thread (k i : Nat) : (afterRow l mv j upto u).thread k i = u.thread k i := setJob_thread ..

theorem afterRow_scratch (k : Nat) : ((afterRow l mv j upto u).ember k).scratch = (u.ember k).scratch := setJob_scratch ..

theorem afterRow_shelf (n : Nat) : ((afterRow l mv j upto u).part n).mem.shelf = (u.part n).mem.shelf := setJob_shelf ..

end

theorem movers_storeScratch (l off : Nat) (bs : List Byte) (s : State) (k : Nat) : ((storeScratch l off bs s).ember k).movers = (s.ember k).movers := by
  rw [storeScratch, ember_modEmber]
  split
  · rfl
  · rfl

theorem scratch_storeScratch (l off : Nat) (bs : List Byte) (s : State) : ((storeScratch l off bs s).ember l).scratch = (s.ember l).scratch.write off bs := by
  rw [storeScratch, ember_modEmber_same, scratch_store]

theorem movers_struck (l : Nat) (strike : List Nat) (s : State) (k : Nat) :
    ((s.modEmber l (Ember.strike strike)).ember k).movers = (s.ember k).movers := by
  rw [ember_modEmber]
  split
  · rfl
  · rfl

theorem scratch_struck (l : Nat) (strike : List Nat) (s : State) (k : Nat) :
    ((s.modEmber l (Ember.strike strike)).ember k).scratch = (s.ember k).scratch := by
  rw [ember_modEmber]
  split
  · rfl
  · rfl

/-- No earlier entry is the executing one with bytes moved. -/
theorem advanced_notMem {pre : List MoverJob} {j : MoverJob} (active : j.st = .active) (unsent : j.sent = false)
    (alone : ∀ a ∈ pre, a.st ≠ .active ∨ a.sent = true) (upto : Nat) : j.advanced upto ∉ pre := fun h => by
  rcases alone _ h with h | h
  · exact h active
  · exact Bool.false_ne_true (unsent.symm.trans h)

section
variable {l : EmberId} {mv : MoverId} {strike : List Nat} {s : State} {pre post : List MoverJob} {j : MoverJob} (row : RowFrom l mv s j)
  (queue : (s.ember l.val).movers.get mv.val = pre ++ j :: post) (first : j ∉ pre) (notIn : ∀ upto, j.advanced upto ∉ pre)
include row queue first notIn

/-- What a completed row leaves, from what its write has left. -/
theorem moverComplete_leaves {u : State} {bs : List Byte} (running : (s.thread l.val j.t).st ≠ .lost)
    (near : (mvDesc j.desc).dSp = 0 ∨ (mvDesc j.desc).dSp = 2)
    (clean : ((s.ember l.val).strike strike).mismatches (mvDesc j.desc).src (mvDesc j.desc).rowBytes = [])
    (written : moverWrite l.val j (mvDesc j.desc) 0 0 ((s.ember l.val).scratch.read (mvDesc j.desc).src (mvDesc j.desc).rowBytes)
      (s.modEmber l.val (Ember.strike strike)) = .moved u bs)
    (movers : (u.ember l.val).movers = (s.ember l.val).movers) (thread : u.thread l.val j.t = s.thread l.val j.t) :
    ∃ t, exec (.moverComplete l mv strike []) s = .next t ∧ (t.ember l.val).movers.get mv.val = pre ++ post ∧
      (t.thread l.val j.t).q.get (mvDesc j.desc).tally = satAdd ((s.thread l.val j.t).q.get (mvDesc j.desc).tally) 1 ∧
      (t.ember l.val).scratch = (u.ember l.val).scratch ∧ ∀ n, (t.part n).mem.shelf = (u.part n).mem.shelf := by
  have own : (afterRow l mv j (mvDesc j.desc).rowBytes u).thread l.val j.t = s.thread l.val j.t := by rw [afterRow_thread, thread]
  refine ⟨_, moverComplete_row row near clean written, ?_, ?_, ?_, fun n => ?_⟩
  · exact retired_movers (afterRow_movers (by rw [movers, queue]) first) (notIn _)
  · have counted := retired_counts (l := l) (mv := mv) (j' := j.advanced (mvDesc j.desc).rowBytes) (v := afterRow l mv j (mvDesc j.desc).rowBytes u)
      (by rw [advanced_t, own]; exact running)
    rwa [advanced_t, advanced_desc, own] at counted
  · rw [retired_scratch, afterRow_scratch]
  · rw [retired_shelf, afterRow_shelf]

section
variable (running : (s.thread l.val j.t).st ≠ .lost)
  (clean : ((s.ember l.val).strike strike).mismatches (mvDesc j.desc).src (mvDesc j.desc).rowBytes = [])
include running clean

/-- A row moved within scratch (R104). -/
theorem moverComplete_scratch (near : (mvDesc j.desc).dSp = 0) : ∃ t, exec (.moverComplete l mv strike []) s = .next t ∧
    (t.ember l.val).movers.get mv.val = pre ++ post ∧
    (t.thread l.val j.t).q.get (mvDesc j.desc).tally = satAdd ((s.thread l.val j.t).q.get (mvDesc j.desc).tally) 1 ∧
    ∀ b, (t.ember l.val).scratch.get b =
      copied (s.ember l.val).scratch (mvDesc j.desc).src (s.ember l.val).scratch (mvDesc j.desc).dst (mvDesc j.desc).rowBytes b := by
  obtain ⟨t, run, left, counted, scratch, -⟩ := moverComplete_leaves row queue first notIn running (.inl near) clean (moverWrite_scratch near)
    (by rw [movers_storeScratch, movers_struck]) (by rw [thread_storeScratch, thread_strike])
  refine ⟨t, run, left, counted, fun b => ?_⟩
  rw [scratch, scratch_storeScratch, scratch_struck, get_write_read]

/-- A row moved to the shelf (R104, R207). -/
theorem moverComplete_shelf (shelf : (mvDesc j.desc).dSp = 2) (inside : (mvDesc j.desc).dst + (mvDesc j.desc).rowBytes ≤ s.shelfBytes)
    (awake : shelfAwake s (s.partOf l.val) (mvDesc j.desc).dst (mvDesc j.desc).rowBytes = true) : ∃ t, exec (.moverComplete l mv strike []) s = .next t ∧
    (t.ember l.val).movers.get mv.val = pre ++ post ∧
    (t.thread l.val j.t).q.get (mvDesc j.desc).tally = satAdd ((s.thread l.val j.t).q.get (mvDesc j.desc).tally) 1 ∧
    (t.ember l.val).scratch = (s.ember l.val).scratch ∧ ∀ b, (t.part (s.partOf l.val)).mem.shelf.get b =
      copied (s.ember l.val).scratch (mvDesc j.desc).src (s.part (s.partOf l.val)).mem.shelf (mvDesc j.desc).dst (mvDesc j.desc).rowBytes b := by
  have length : ((s.ember l.val).scratch.read (mvDesc j.desc).src (mvDesc j.desc).rowBytes).length = (mvDesc j.desc).rowBytes := by simp [Memory.read]
  have written := moverWrite_shelf (l := l.val) (j := j) (s := s.modEmber l.val (Ember.strike strike))
    (bs := (s.ember l.val).scratch.read (mvDesc j.desc).src (mvDesc j.desc).rowBytes) shelf row.conv (by rw [length]; exact inside)
    (by rw [length]; exact awake)
  obtain ⟨t, run, left, counted, scratch, shelves⟩ := moverComplete_leaves row queue first notIn running (.inr shelf) clean written
    (movers_struck ..) (thread_strike ..)
  refine ⟨t, run, left, counted, scratch.trans (scratch_struck ..), fun b => ?_⟩
  have bytes := congrArg (fun p => p.mem.shelf.get b) (part_modPart_same (s.partOf l.val) (Part.writeShelf (mvDesc j.desc).dst
    ((s.ember l.val).scratch.read (mvDesc j.desc).src (mvDesc j.desc).rowBytes)) (s.modEmber l.val (Ember.strike strike)))
  rw [shelves]
  exact bytes.trans (get_write_read ..)

end

/-- A row moved to the scratch of another ember (R105). -/
theorem remWriteDone_writes (clean : ((s.ember l.val).strike strike).mismatches (mvDesc j.desc).src (mvDesc j.desc).rowBytes = [])
    (remote : (mvDesc j.desc).dSp = 1) (elsewhere : remEmber (mvDesc j.desc).dst ≠ l.val)
    (there : (s.thread (remEmber (mvDesc j.desc).dst) (mvDesc j.desc).rthread).st ≠ .lost)
    (inside : (s.ember (remEmber (mvDesc j.desc).dst)).extentIn j.be (remOff (mvDesc j.desc).dst, (mvDesc j.desc).rowBytes) = true)
    (free : (s.ember (remEmber (mvDesc j.desc).dst)).hitsCode (remOff (mvDesc j.desc).dst) (mvDesc j.desc).rowBytes = false) :
    ∃ t, exec (.remWriteDone l mv strike []) s = .next t ∧
      (t.ember l.val).movers.get mv.val = pre ++ { j.advanced (mvDesc j.desc).rowBytes with sent := true } :: post ∧
      (∀ b, (t.ember (remEmber (mvDesc j.desc).dst)).scratch.get b = copied (s.ember l.val).scratch (mvDesc j.desc).src
        (s.ember (remEmber (mvDesc j.desc).dst)).scratch (remOff (mvDesc j.desc).dst) (mvDesc j.desc).rowBytes b) ∧
      (t.thread (remEmber (mvDesc j.desc).dst) (mvDesc j.desc).rthread).q.get (mvDesc j.desc).rtally =
        (if (mvDesc j.desc).rtEn then satAdd ((s.thread (remEmber (mvDesc j.desc).dst) (mvDesc j.desc).rthread).q.get (mvDesc j.desc).rtally) 1
          else (s.thread (remEmber (mvDesc j.desc).dst) (mvDesc j.desc).rthread).q.get (mvDesc j.desc).rtally) := by
  obtain ⟨v, hv⟩ : ∃ v, v = setJob l.val mv.val (j.advanced (mvDesc j.desc).rowBytes) (some { j.advanced (mvDesc j.desc).rowBytes with sent := true })
      (afterRow l mv j (mvDesc j.desc).rowBytes (storeScratch (remEmber (mvDesc j.desc).dst) (remOff (mvDesc j.desc).dst)
        ((s.ember l.val).scratch.read (mvDesc j.desc).src (mvDesc j.desc).rowBytes) (s.modEmber l.val (Ember.strike strike)))) := ⟨_, rfl⟩
  have left : (v.ember l.val).movers.get mv.val = pre ++ { j.advanced (mvDesc j.desc).rowBytes with sent := true } :: post := by
    rw [hv, setJob_movers, afterRow_movers (by rw [movers_storeScratch, movers_struck, queue]) first, swapJob_some _ (notIn _)]
  have bytes : ∀ b, (v.ember (remEmber (mvDesc j.desc).dst)).scratch.get b = copied (s.ember l.val).scratch (mvDesc j.desc).src
      (s.ember (remEmber (mvDesc j.desc).dst)).scratch (remOff (mvDesc j.desc).dst) (mvDesc j.desc).rowBytes b := fun b => by
    rw [hv, setJob_scratch, afterRow_scratch, scratch_storeScratch, scratch_struck, get_write_read]
  have thread : ∀ k i, v.thread k i = s.thread k i := fun k i => by
    rw [hv, setJob_thread, afterRow_thread, thread_storeScratch, thread_strike]
  refine ⟨_, remWriteDone_row row remote elsewhere inside free clean hv, ?_⟩
  split
  · next enabled =>
    rw [emberPart_tallyAdd Ember.movers fun _ _ _ => rfl, emberPart_tallyAdd Ember.scratch fun _ _ _ => rfl, tallyAdd_counts (by rw [thread]; exact there),
      thread]
    exact ⟨left, bytes, rfl⟩
  · exact ⟨left, bytes, by rw [thread]⟩

/-- A BE row that has stepped aside has moved the bytes before its boundary (R59, R104). -/
theorem beMoverPause_moves {k : Nat} (be : j.be = true) (held : s.beFree l.val = false) (near : (mvDesc j.desc).dSp = 0) (some : 0 < k)
    (before : 4096 * k < (mvDesc j.desc).rowBytes) (clean : (s.ember l.val).mismatches (mvDesc j.desc).src (4096 * k) = []) :
    ∃ t, exec (.beMoverPause l mv k []) s = .next t ∧
      (t.ember l.val).movers.get mv.val = pre ++ { j.advanced (4096 * k) with st := .paused } :: post ∧
      ∀ b, (t.ember l.val).scratch.get b =
        copied (s.ember l.val).scratch (mvDesc j.desc).src (s.ember l.val).scratch (mvDesc j.desc).dst (4096 * k) b := by
  refine ⟨_, beMoverPause_row row be held near some before clean, ?_, fun b => ?_⟩
  · rw [setJob_movers, afterRow_movers (by rw [movers_storeScratch, queue]) first, swapJob_some _ (notIn _)]
  · rw [setJob_scratch, afterRow_scratch, scratch_storeScratch, get_write_read]

end

end Sys2Proof.Machine

namespace Sys2Proof

open Machine

/-- Settles O22: the next descriptor is the one that the queue's searches find, and a row out of scratch moves as one piece. -/
theorem moverExecution : Obligations.MoverExecution := by
  intro l mv strike s pre post j m n d queue first q counts moved
  refine ⟨?dispatch, ?row, ?ack⟩
  case dispatch =>
    intro service idle becomes
    refine ⟨fun lc unsent oldest => ?_, fun noLc free be => ⟨fun paused oldest => ?_, fun queued noPaused oldest => ?_⟩⟩
    · exact moverDispatch_takes queue service idle (nextJob_lc queue _ lc unsent oldest) first
    · exact moverDispatch_takes queue service idle (free ▸ nextJob_paused noLc queue be paused oldest) first
    · exact moverDispatch_takes queue service idle (free ▸ nextJob_queued noLc queue be queued noPaused oldest) first
  case row =>
    intro active unsent alone move running rows conv source some fresh
    have row : RowFrom l mv s j := ⟨activeJob_of queue active unsent alone, move, rows, conv, source, Nat.pos_of_ne_zero some, fresh⟩
    have notIn := advanced_notMem active unsent alone
    refine ⟨fun clean => ⟨fun near => ?_, fun shelf inside awake => ?_, fun remote elsewhere there inside free => ?_⟩,
      fun k be held near some before clean => ?_⟩
    · exact moverComplete_scratch row queue first notIn running clean near
    · exact moverComplete_shelf row queue first notIn running clean shelf inside awake
    · exact remWriteDone_writes row queue first notIn clean remote elsewhere there inside free
    · exact beMoverPause_moves row queue first notIn be held near some before clean
  case ack =>
    intro sent move oldest running
    have found := find?_append_cons (p := fun j : MoverJob => j.sent && decide (j.kind = .move)) (pre := pre) (post := post) (a := j)
      (fun a ha => by rcases oldest a ha with h | h <;> simp [h]) (by simp [sent, move])
    rw [← queue] at found
    exact ⟨_, remAck_retires found, retired_movers queue first, retired_counts running, retired_scratch ..⟩

end Sys2Proof
end

section
/-! What an answer to the host, the end of a class's work, an alarm and a release leave of the outbound hold and of a partition (R230, R233). -/

namespace Sys2Proof.Machine

/-! ### The outbound hold -/

theorem outHold_of_onlyAnswers {s t : State} (h : OnlyAnswers s t) : t.outHold = s.outHold := by
  obtain ⟨rest, -⟩ := h
  have same := congrArg State.outHold rest
  exact same

@[simp] theorem completeCmd_outHold (f : Nat) (r : RingId) (b : Busy) (status detail : Nat) (arg : DWord) (s : State) :
    (completeCmd f r b status detail arg s).outHold = s.outHold := outHold_of_onlyAnswers (onlyAnswers_completeCmd ..)

@[simp] theorem endParks_outHold (n : Nat) (q : Nat → Nat → Bool) (s : State) : (endParks n q s).outHold = s.outHold := by
  refine foldl_keeps State.outHold _ (fun s l => foldl_keeps State.outHold _ (fun s t => ?_) _ _) _ _
  split
  · rfl
  · rfl

@[simp] theorem releaseBeAll_outHold (n : Nat) (s : State) : (releaseBeAll n s).outHold = s.outHold := by
  unfold releaseBeAll
  split
  · rfl
  · rfl

@[simp] theorem failQueues_outHold (n c status : Nat) (s : State) : (failQueues n c status s).outHold = s.outHold := by
  refine (foldl_keeps State.outHold _ (fun s q => ?_) _ _).trans rfl
  split
  · exact completeCmd_outHold ..
  · rfl

@[simp] theorem loseClass_outHold (n : Nat) (be : Bool) (rec : Option ExcRec) (s : State) : (loseClass n be rec s).outHold = s.outHold := by
  unfold loseClass
  split
  · simp only [apply_ite State.outHold, failQueues_outHold, releaseBeAll_outHold, modPart_outHold, mapEmbers_outHold, endParks_outHold, ite_self]
  · rfl

@[simp] theorem dropHeld_outHold (n : Nat) (s : State) : (dropHeld n s).outHold = s.outHold := by
  refine (foldl_keeps State.outHold _ (fun s h => ?_) _ _).trans rfl
  split
  · exact completeCmd_outHold ..
  · split
    · rfl
    · rfl

@[simp] theorem bankFinish_outHold (n : Nat) (s : State) : (bankFinish n s).outHold = s.outHold := by
  unfold bankFinish
  refine (foldl_keeps State.outHold _ (fun s j => ?_) _ _).trans rfl
  exact (completeCmd_outHold ..).trans (emit_outHold ..)

@[simp] theorem bankFail_outHold (n slot status : Nat) (s : State) : (bankFail n slot status s).outHold = s.outHold := by
  unfold bankFail
  split
  · exact (bankFinish_outHold ..).trans rfl
  · rfl

@[simp] theorem dropWrites_outHold (n : Nat) (s : State) : (dropWrites n s).outHold = s.outHold := by
  refine foldl_keeps State.outHold _ (fun s w => ?_) _ _
  split
  · exact bankFail_outHold ..
  · rfl

/-- An alarm leaves nothing of its partition in the outbound hold (R233). -/
theorem securityAlarm_outHold {n : Nat} (kind line : Nat) (exc : Option ExcRec) {s : State} (h : (s.part n).prot.halted = false) :
    (securityAlarm n kind line exc s).outHold = s.outHold.filter fun e => decide (e.1 ≠ n) := by
  rw [securityAlarm, if_neg (by simp [h])]
  simp only [partRecord_outHold, modPart_outHold, loseClass_outHold, dropWrites_outHold, dropHeld_outHold, sootEvent_outHold]

/-! ### Frames that a partition sends -/

/-- A frame with the header that partition `n` gives it under an epoch (R257). -/
def headed (s : State) (n : Nat) (epoch : Word) (dst : Option Pos) (vc : Vc) (body : FrameBody) : Frame :=
  { epoch := epoch, lineage := (s.part n).tree.lineage, step := (s.part n).step.count, src := s.logicalPos n, dst := dst, vc := vc, body := body }

section
variable {n : Nat} {s : State} (may : MaySend s n)
include may

theorem not_silent : ¬ ((s.part n).rl.state = .withdrawn ∨ (s.part n).prot.halted = true) := by
  obtain ⟨stays, serves⟩ := may
  simp [stays, serves]

theorem sendFrame_of_may {dst : Option Pos} {vc : Vc} {body : FrameBody} :
    sendFrame n dst vc body s = { s with outHold := s.outHold ++ [(n, headed s n (s.part n).epoch dst vc body)] } := if_neg (not_silent may)

/-- An order to abort leaves under the epoch that it ends (R464; DEDUCED, log 30). -/
theorem sendOrder_of_may {epoch e : Word} {cause : Nat} {step : DWord} {origin : Pos} : sendOrder n epoch (.abort true cause e step origin) s =
    { s with outHold := s.outHold ++ [(n, headed s n epoch none .ctrl (.abort true cause e step origin))] } := if_neg (not_silent may)

end

theorem ckAsk_pins (n reasons : Nat) (s : State) : (ckAsk n reasons s).pins = s.pins := by
  unfold ckAsk
  simp only [apply_ite State.pins, sendFrame_pins, modPart_pins, ite_self]

theorem ckAsk_ks (n reasons : Nat) (s : State) : (ckAsk n reasons s).ks = s.ks := by
  unfold ckAsk
  simp only [apply_ite State.ks, sendFrame_ks, modPart_ks, ite_self]

/-! ### A partition -/

section
variable {α : Type} (g : Part → α)

/-- A part of a partition that an operation on partitions keeps. -/
theorem part_modPart_keeps {f : Part → Part} (h : ∀ p, g (f p) = g p) (n : Nat) (s : State) (m : Nat) : g ((s.modPart n f).part m) = g (s.part m) := by
  rw [part_modPart]
  split
  · exact h _
  · rfl

theorem part_of_onlyAnswers (hg : ∀ p ctxs evts, g { p with ctxs := ctxs, evts := evts } = g p) {s t : State} (h : OnlyAnswers s t) (m : Nat) :
    g (t.part m) = g (s.part m) := by
  obtain ⟨-, parts⟩ := h
  rw [← hg (t.part m) (s.part m).ctxs (s.part m).evts, parts]

theorem part_endParks (hg : ∀ p ctxs mem, g { p with ctxs := ctxs, mem := mem } = g p) (n : Nat) (q : Nat → Nat → Bool) (s : State) (m : Nat) :
    g ((endParks n q s).part m) = g (s.part m) := by
  refine foldl_keeps (fun s : State => g (s.part m)) _ (fun s l => foldl_keeps (fun s : State => g (s.part m)) _ (fun s t => ?_) _ _) _ _
  split
  · refine part_modPart_keeps g (fun p => ?_) n s.takeFree.2 m
    dsimp only
    split
    · exact hg p (p.ctxs.upd _ _) _
    · exact hg p p.ctxs _
  · rfl

theorem part_pauseClass (hg : ∀ p ctxs mem, g { p with ctxs := ctxs, mem := mem } = g p) (n : Nat) (be : Bool) (s : State) (m : Nat) :
    g ((pauseClass n be s).part m) = g (s.part m) := part_endParks g hg ..

end

/-! ### The step of a partition -/

@[simp] theorem sendFrame_step (n : Nat) (dst : Option Pos) (vc : Vc) (body : FrameBody) (s : State) (m : Nat) :
    ((sendFrame n dst vc body s).part m).step = (s.part m).step := by
  rw [State.part, sendFrame_parts, State.part]

@[simp] theorem releaseLc_step (n : Nat) (s : State) (m : Nat) : ((releaseLc n s).part m).step = (s.part m).step :=
  part_modPart_keeps Part.step (f := fun p => { p with pauseLc := false }) (fun _ => rfl) n s m

@[simp] theorem stokerRelease_step (n : Nat) (s : State) (m : Nat) : ((stokerRelease n s).part m).step = (s.part m).step := by
  unfold stokerRelease
  split
  · rfl
  · split
    · rfl
    · dsimp only
      split
      · rw [sendFrame_step, part_modPart_keeps Part.step]
        intro p
        rfl
      · rw [part_modPart_keeps Part.step]
        intro p
        rfl

@[simp] theorem ckAnnounce_step (n : Nat) (s : State) (m : Nat) : ((ckAnnounce n s).part m).step = (s.part m).step := by
  unfold ckAnnounce
  dsimp only
  split
  · rfl
  · rw [sendFrame_step, part_modPart_keeps Part.step]
    intro p
    rfl

end Sys2Proof.Machine
end

section
/-! Retirement, verdicts on released lines, aborts and the power warning (R80, R81, R165, R230, R232, R444, R463 to R466), and O31. -/

namespace Sys2Proof.Machine

/-! ### Retirement -/

theorem askRetire_retire (c : RetireCause) (m : Ember) : (m.askRetire c).retire = some (m.retire.getD c) := by
  unfold Ember.askRetire
  cases h : m.retire with
  | none => rfl
  | some c' => exact h

theorem askRetire_rest (c : RetireCause) (m : Ember) : { m.askRetire c with retire := m.retire } = m := by
  unfold Ember.askRetire
  split
  · rfl
  · rfl

/-- A retirement that the host asks for in a loaded partition waits (R80). -/
theorem embRetireReq_waits {l : EmberId} {s : State} (service : s.inService = true) (loaded : (s.part (s.partOf l.val)).hasCtx = true) :
    exec (.embRetireReq l) s = .next (s.modEmber l.val (Ember.askRetire .host)) := by
  have loaded' : ((s.modEmber l.val (Ember.askRetire .host)).part (s.partOf l.val)).hasCtx = true := loaded
  have run : exec (.embRetireReq l) s = execEmbRetireReq l s := rfl
  rw [run, execEmbRetireReq, if_pos service, askRetirement, retireUnowned, if_pos loaded']

/-- The ember on its new physical index, with the counts that restart (R81). -/
def Ember.onSpare (new : Nat) (m : Ember) : Ember := { m with phys := some new, copying := none, retire := none, parityCnt := 0, sentMiss := 0 }

theorem finishRetire_moves {l new : Nat} {c : RetireCause} {s : State} (copying : (s.ember l).copying = some new) (retire : (s.ember l).retire = some c) :
    finishRetire l s = (retireSoot s l (physOf s l) new c.code).modEmber l (Ember.onSpare new) := by
  simp only [finishRetire, copying, retire]
  rfl

theorem finishRetire_parts (l : Nat) (s : State) : (finishRetire l s).parts = s.parts := by
  unfold finishRetire
  dsimp only
  split
  · exact sootEvent_parts ..
  · rfl

theorem finishRetire_part (l n : Nat) (s : State) : (finishRetire l s).part n = s.part n := by
  rw [State.part, finishRetire_parts, State.part]

/-- After an entry of the soot record, a change to an ember changes that ember and the record alone. -/
theorem onlyEmbers_of_soot {s u : State} (logged : u = { s with soot := u.soot }) (l : Nat) (f : Ember → Ember) :
    OnlyEmbers [l] { s with soot := (u.modEmber l f).soot } (u.modEmber l f) := by
  have soot : (u.modEmber l f).soot = u.soot := rfl
  rw [soot]
  generalize u.soot = x at logged ⊢
  subst logged
  exact onlyEmbers_mod ..

theorem ember_of_soot {s u : State} (logged : u = { s with soot := u.soot }) (l : Nat) : u.ember l = s.ember l := by
  rw [logged]
  rfl

theorem retireSoot_frame (s : State) (l old new cause : Nat) : retireSoot s l old new cause = { s with soot := (retireSoot s l old new cause).soot } :=
  sootEvent_frame ..

theorem tryRelease_unheld {n : Nat} {s : State} (h : (s.part n).step.held = false) : tryRelease n s = s := by
  have stays : (!(s.part n).step.held || boundaryHeld s n) = true := by rw [h, Bool.not_false, Bool.true_or]
  exact if_pos stays

/-- With no replay that waits, the end of a copy moves the ember to its spare and nothing else follows (R81). -/
theorem spareCopyDone_moves {l : EmberId} {s : State} (held : (s.part (s.partOf l.val)).step.held = false)
    (replay : (s.part (s.partOf l.val)).step.replayHold = false) : exec (.spareCopyDone l) s = .next (finishRetire l.val s) := by
  have run : exec (.spareCopyDone l) s = execSpareCopyDone l s := rfl
  rw [run, execSpareCopyDone]
  simp only [finishRetire_part, replay, Bool.false_and, Bool.false_eq_true, if_false]
  rw [tryRelease_unheld (by rw [finishRetire_part, held])]

/-- A replay that waits for copies goes on or waits on, as the partition's copies say (R81, R183). -/
theorem spareCopyDone_resumes {l : EmberId} {s : State} (replay : (s.part (s.partOf l.val)).step.replayHold = true)
    (quiet : (s.part (s.partOf l.val)).abort.request = none) :
    exec (.spareCopyDone l) s = .next (tryRelease (s.partOf l.val) (resumeLc (s.partOf l.val) (finishRetire l.val s))) := by
  have run : exec (.spareCopyDone l) s = execSpareCopyDone l s := rfl
  rw [run, execSpareCopyDone]
  simp only [finishRetire_part, replay, quiet, Option.isNone_none, Bool.and_true, if_true]

/-- Mark a replay as waiting for copies, or as free. -/
def Part.holdReplay (hold : Bool) (p : Part) : Part := { p with step := { p.step with replayHold := hold } }

theorem resumeLc_goesOn {n : Nat} {s : State} (free : copies s n = false) :
    ((resumeLc n s).part n).step = { (s.part n).step with replayHold := false } := by
  have resumed : resumeLc n s = ckAnnounce n (stokerRelease n (releaseLc n (s.modPart n (Part.holdReplay false)))) := if_neg (by simp [free])
  rw [resumed, ckAnnounce_step, stokerRelease_step, releaseLc_step, part_modPart_same, Part.holdReplay]

theorem resumeLc_waits {n : Nat} {s : State} (busy : copies s n = true) :
    (resumeLc n s).part n = { s.part n with pauseLc := true, step := { (s.part n).step with replayHold := true } } := by
  rw [resumeLc, if_pos busy, part_modPart_same]

/-! ### The BE table -/

/-- A fold of updates at distinct keys updates each key once. -/
theorem get_foldl_upd {β : Type} [DecidableEq β] (key : Nat → Nat) (inj : ∀ i j, key i = key j → i = j) (f : β → β) (is : List Nat)
    (nodup : is.Nodup) (t : Tab β) (i : Nat) : (is.foldl (fun t i => t.upd (key i) f) t).get (key i) = if i ∈ is then f (t.get (key i)) else t.get (key i) := by
  induction is generalizing t with
  | nil => rfl
  | cons j is ih =>
    obtain ⟨fresh, rest⟩ := List.nodup_cons.1 nodup
    rw [List.foldl_cons, ih rest, Tab.get_upd_at]
    by_cases same : j = i
    · subst same
      simp [fresh]
    · have keys : key j ≠ key i := fun h => same (inj _ _ h)
      simp [keys, Ne.symm same]

/-- Every entry of a class's table is changed (R165). -/
theorem entry_mapSct {be : Bool} {g : ScaleEntry → ScaleEntry} {p : Part} {i : Nat} (h : i < sctCount p be) :
    (p.mapSct be g).entry be i = g (p.entry be i) := by
  have inj : ∀ i j, sctKey be i = sctKey be j → i = j := fun i j h => by
    unfold sctKey at h
    omega
  rw [Part.entry, Part.mapSct, get_foldl_upd (sctKey be) inj g _ List.nodup_range, if_pos (List.mem_range.2 h), Part.entry]

/-! ### Verdicts -/

/-- Take the oldest verdict. -/
def Part.dropVerdict (rest : List Verdict) (p : Part) : Part := { p with prot := { p.prot with verdicts := rest } }

theorem tagVerdict_good {n : PartId} {s : State} {v : Verdict} {rest : List Verdict} (verdicts : (s.part n.val).prot.verdicts = v :: rest)
    (good : v.bad = none) : exec (.tagVerdict n) s = .next (s.modPart n.val (Part.dropVerdict rest)) := by
  have run : exec (.tagVerdict n) s = execTagVerdict n s := rfl
  rw [run, execTagVerdict]
  simp only [verdicts, good]
  rfl

theorem tagVerdict_bad {n : PartId} {s : State} {v : Verdict} {rest : List Verdict} (verdicts : (s.part n.val).prot.verdicts = v :: rest) {b : LineBad}
    (bad : v.bad = some b) : exec (.tagVerdict n) s =
      .next (securityAlarm n.val (alarmOf b) v.line v.exc (s.modPart n.val (Part.dropVerdict rest))) := by
  have run : exec (.tagVerdict n) s = execTagVerdict n s := rfl
  rw [run, execTagVerdict]
  simp only [verdicts, bad]
  rfl

/-- An alarm halts its partition, names its kind and line, and empties the partition's hold (R229, R230, R233). -/
theorem securityAlarm_halts {n : Nat} {b : LineBad} {line : Nat} {exc : Option ExcRec} {s : State} (running : (s.part n).prot.halted = false)
    (small : line < 2 ^ 64) : let t := securityAlarm n (alarmOf b) line exc s
    (t.part n).prot.halted = true ∧ (t.part n).prot.alarmKind.toNat = alarmOf b ∧ (t.part n).prot.alarmLine.toNat = line ∧
      ∀ e ∈ t.outHold, e.1 ≠ n := by
  have prot := prot_of_settled (securityAlarm_settled (alarmOf b) line exc running) n
  rw [alarmLatched, part_modPart_same] at prot
  have kind : alarmOf b < 2 ^ 2 := by cases b <;> decide
  dsimp only
  rw [prot, securityAlarm_outHold _ _ _ running]
  exact ⟨rfl, (BitVec.toNat_ofNat ..).trans (Nat.mod_eq_of_lt kind), (BitVec.toNat_ofNat ..).trans (Nat.mod_eq_of_lt small),
     fun e he => of_decide_eq_true (List.mem_filter.1 he).2⟩

/-! ### Aborts -/

/-- Take a frame out of the inbox. -/
def Part.dropFrame (e : Nat × Frame) (p : Part) : Part := { p with inbox := p.inbox.erase e }

theorem takeFrame_of_arrived {n : Nat} {kind : FrameBody → Bool} {f : Nat} {fr : Frame} {s : State} (arrived : Arrived s n kind f fr) :
    takeFrame n (fun f => kind f.body) s = some (f, fr, s.modPart n (Part.dropFrame (f, fr))) := by
  unfold Arrived at arrived
  simp only [takeFrame, arrived]
  rfl

/-- The state without a frame of partition `n`'s inbox. -/
def taken (n : Nat) (e : Nat × Frame) (s : State) : State := s.modPart n (Part.dropFrame e)

section
variable {n : Nat} {e : Nat × Frame} {s : State}

theorem taken_part : (taken n e s).part n = (s.part n).dropFrame e := part_modPart_same ..

theorem taken_maySend (may : MaySend s n) : MaySend (taken n e s) n := by
  rw [MaySend, taken_part]
  exact may

theorem taken_logicalPos : (taken n e s).logicalPos n = s.logicalPos n := by
  rw [State.logicalPos, taken_part]
  rfl

theorem taken_isJobStoker : isJobStoker (taken n e s) n = isJobStoker s n := by
  rw [isJobStoker, taken_part, taken_logicalPos]
  rfl

theorem taken_lcJob : lcJob (taken n e s) n = lcJob s n := by
  rw [lcJob, taken_part]
  rfl

end

/-- A frame asks the job stoker for an abort. -/
def asksAbort (b : FrameBody) : Bool := match b with | .abort false _ _ _ _ => true | _ => false

/-- A frame is the job stoker's order to abort. -/
def ordersAbort (b : FrameBody) : Bool := match b with | .abort true _ _ _ _ => true | _ => false

/-- The job stoker's epoch moves on, and no deadline is measured (R464). -/
def Part.nextEpoch (p : Part) : Part := { p with stk := { p.stk with epoch := p.stk.epoch + 1, measuring := false } }

section
variable {n : PartId} {f : Nat} {fr : Frame} {s : State} {cause : Nat} {epoch : Word} {step : DWord} {origin : Pos}

/-- The job stoker answers a request of its epoch with a broadcast (R464). -/
theorem abortRequest_orders (arrived : Arrived s n.val asksAbort f fr) (body : fr.body = .abort false cause epoch step origin)
    (stoker : isJobStoker s n.val = true) (current : epoch = (s.part n.val).stk.epoch) (free : (s.part n.val).stk.target = none) :
    exec (.abortRequest n) s = .next (orderAbort n.val cause origin step (taken n.val (f, fr) s)) := by
  have run : exec (.abortRequest n) s = execAbortRequest n s := rfl
  rw [run, execAbortRequest]
  split
  · next f' fr' s' found =>
    have same := found.symm.trans (takeFrame_of_arrived arrived)
    simp only [Option.some.injEq, Prod.mk.injEq] at same
    obtain ⟨rfl, rfl, rfl⟩ := same
    have acts : ¬ (!isJobStoker (taken n.val (f', fr') s) n.val || decide (epoch ≠ ((taken n.val (f', fr') s).part n.val).stk.epoch) ||
        ((taken n.val (f', fr') s).part n.val).stk.target.isSome) = true := by
      simp [taken_isJobStoker, taken_part, stoker, current, free, Part.dropFrame]
    simp only [body]
    exact congrArg Host.Outcome.next (if_neg acts)
  · next none => exact nomatch none.symm.trans (takeFrame_of_arrived arrived)

theorem orderAbort_of_may {u : State} (room : (u.part n.val).stk.epoch.toNat < 2 ^ 32 - 1) (may : MaySend (u.modPart n.val Part.nextEpoch) n.val) :
    orderAbort n.val cause origin step u = { u.modPart n.val Part.nextEpoch with
      outHold := u.outHold ++ [(n.val, headed (u.modPart n.val Part.nextEpoch) n.val (u.part n.val).stk.epoch none .ctrl
        (.abort true cause ((u.part n.val).stk.epoch + 1) step origin))] } := by
  have notFull : ¬ (u.part n.val).stk.epoch.toNat = 2 ^ 32 - 1 := Nat.ne_of_lt room
  exact (if_neg notFull).trans (sendOrder_of_may may)

/-- A request is sent again while no broadcast has come (R463). -/
theorem abortRequestRetry_sends (request : (s.part n.val).abort.request = some (cause, step)) (may : MaySend s n.val) :
    exec (.abortRequestRetry n) s = .next { s with outHold := s.outHold ++ [(n.val, headed s n.val (s.part n.val).epoch (some (s.part n.val).jobStoker) .ctrl
      (.abort false cause (s.part n.val).epoch step (s.logicalPos n.val)))] } := by
  have run : exec (.abortRequestRetry n) s = execAbortRequestRetry n s := rfl
  rw [run, execAbortRequestRetry]
  simp only [request, sendFrame_of_may may]

/-- Note that a partition's epoch is full (R444). -/
def State.markFull (n : Nat) (s : State) : State := { s with common := { s.common with epochFull := withBit s.common.epochFull n true } }

/-- The LC threads of a partition stay paused, and no deadline is measured (R196, R444). -/
def Part.stopped (p : Part) : Part :=
  { p with pauseLc := true, step := { p.step with replayHold := false }, stk := { p.stk with measuring := false } }

/-- Freeze a partition's job (R444). -/
def Part.freeze (p : Part) : Part := { p with frozen := true }

section
variable (arrived : Arrived s n.val ordersAbort f fr) (body : fr.body = .abort true cause epoch step origin) (may : MaySend s n.val)
include arrived body may

/-- A broadcast of a full epoch freezes the job (R444). -/
theorem abortFrame_freezes (current : epoch = (s.part n.val).epoch) (full : epoch.toNat = 2 ^ 32 - 1) : exec (.abortFrame n) s =
    .next (abortRecord n.val 5 step none (freezeJob n.val Part.freeze ((taken n.val (f, fr) s).markFull n.val))) := by
  have run : exec (.abortFrame n) s = execAbortFrame n s := rfl
  rw [run, execAbortFrame]
  split
  · next f' fr' s' found =>
    have same := found.symm.trans (takeFrame_of_arrived arrived)
    simp only [Option.some.injEq, Prod.mk.injEq] at same
    obtain ⟨rfl, rfl, rfl⟩ := same
    have current' : epoch = ((taken n.val (f', fr') s).part n.val).epoch := by rw [taken_part, current]; rfl
    simp only [body]
    exact congrArg Host.Outcome.next ((if_neg (not_silent (taken_maySend may))).trans ((if_pos current').trans (if_pos full)))
  · next none => exact nomatch none.symm.trans (takeFrame_of_arrived arrived)

/-- A partition without a job takes the new epoch (R465). -/
theorem abortFrame_takesEpoch (new : epoch ≠ (s.part n.val).epoch) (idle : lcJob s n.val = none) :
    exec (.abortFrame n) s = .next (takeEpoch n.val epoch (taken n.val (f, fr) s)) := by
  have run : exec (.abortFrame n) s = execAbortFrame n s := rfl
  rw [run, execAbortFrame]
  split
  · next f' fr' s' found =>
    have same := found.symm.trans (takeFrame_of_arrived arrived)
    simp only [Option.some.injEq, Prod.mk.injEq] at same
    obtain ⟨rfl, rfl, rfl⟩ := same
    have new' : ¬ epoch = ((taken n.val (f', fr') s).part n.val).epoch := by rw [taken_part]; exact new
    have idle' : lcJob (taken n.val (f', fr') s) n.val = none := taken_lcJob.trans idle
    simp only [body]
    refine congrArg Host.Outcome.next ((if_neg (not_silent (taken_maySend may))).trans ((if_neg new').trans ?_))
    simp only [taken] at idle'
    simp only [idle', taken]
  · next none => exact nomatch none.symm.trans (takeFrame_of_arrived arrived)

end

end

theorem withBit_getLsbD {w i : Nat} (x : BitVec w) (h : i < w) : (withBit x i true).getLsbD i = true := by
  rw [withBit, if_pos rfl, BitVec.getLsbD_or, BitVec.getLsbD_ofNat, Nat.testBit_two_pow_self, decide_eq_true h, Bool.and_self, Bool.or_true]

/-- A full epoch leaves the job frozen and its LC threads paused, and is noted (R444). -/
theorem freezeJob_leaves {n : PartId} {cause : Nat} {step : DWord} {exc : Option ExcRec} {u : State} :
    let t := abortRecord n.val cause step exc (freezeJob n.val Part.freeze (u.markFull n.val))
    (t.part n.val).inbox = (u.part n.val).inbox ∧ (t.part n.val).frozen = true ∧ (t.part n.val).pauseLc = true ∧
      t.common.epochFull.getLsbD n.val = true := by
  have part : ∀ {α : Type} (g : Part → α), (∀ p ctxs evts, g { p with ctxs := ctxs, evts := evts } = g p) →
      (∀ p ctxs mem, g { p with ctxs := ctxs, mem := mem } = g p) →
      g ((abortRecord n.val cause step exc (freezeJob n.val Part.freeze (u.markFull n.val))).part n.val) =
        g (u.part n.val).stopped.freeze := by
    intro α g answers parks
    rw [abortRecord, part_of_onlyAnswers g answers (onlyAnswers_partRecord ..), freezeJob, part_pauseClass g parks, part_modPart_same]
    rfl
  have common : (abortRecord n.val cause step exc (freezeJob n.val Part.freeze (u.markFull n.val))).common = (u.markFull n.val).common :=
    common_of_tuned ((partRecord_tuned ..).trans ((pauseClass_tuned ..).trans (tuned_modPart ..)))
  refine ⟨part Part.inbox (fun _ _ _ => rfl) (fun _ _ _ => rfl), part Part.frozen (fun _ _ _ => rfl) (fun _ _ _ => rfl),
    part Part.pauseLc (fun _ _ _ => rfl) (fun _ _ _ => rfl), ?_⟩
  rw [common]
  exact withBit_getLsbD _ n.isLt

/-! ### The power warning -/

/-- PWR_WARN is noted on the pin and for the kindling (R27). -/
def State.warned (up : Bool) (s : State) : State := { s with pins := { s.pins with pwrWarn := up }, ks := { s.ks with pwrWarn := up } }

theorem pwrWarn_noted {k : HWord} {s : State} (low : s.pins.pwrWarn = false) (on : s.power.aoOn = true) (long : 50 ≤ k.toNat) :
    ∃ t, exec (.pwrWarn k) s = .next t ∧ t.pins = { s.pins with pwrWarn := true } ∧ t.ks.pwrWarn = true := by
  have rises : ¬ (decide (k.toNat < pwrWarnSamples) || s.pins.pwrWarn || !s.power.aoOn) = true := by
    simp [low, on, pwrWarnSamples, Nat.not_lt.2 long]
  have run : exec (.pwrWarn k) s = .next ((loadedParts (s.warned true)).foldl (fun s n => ckAsk n 256 s) (s.warned true)) :=
    congrArg Host.Outcome.next (if_neg rises)
  refine ⟨_, run, ?_, ?_⟩
  · exact foldl_keeps State.pins _ (fun s n => ckAsk_pins ..) _ _
  · rw [foldl_keeps State.ks _ fun s n => ckAsk_ks ..]
    rfl

theorem pwrWarn_short {k : HWord} {s : State} (short : k.toNat < 50) : exec (.pwrWarn k) s = .next s := by
  have ignored : (decide (k.toNat < pwrWarnSamples) || s.pins.pwrWarn || !s.power.aoOn) = true := by
    simp [pwrWarnSamples, short]
  exact congrArg Host.Outcome.next (if_pos ignored)

end Sys2Proof.Machine

namespace Sys2Proof

open Machine

/-- Settles O31: each command comes to one operation, and the frame lemmas say what that leaves. -/
theorem retirementAndAborts : Obligations.RetirementAndAborts := by
  intro n l f fr s p m from_ gone
  refine ⟨?ask, ?spare, ?replay, ?scales, ?verdict, ?request, ?retry, ?broadcast, ?warn, ?short, ?deassert⟩
  case ask =>
    intro service loaded
    refine ⟨_, embRetireReq_waits service loaded, onlyEmbers_mod .., ?_, ?_⟩
    · rw [ember_modEmber_same]
      exact askRetire_retire ..
    · rw [ember_modEmber_same]
      exact askRetire_rest ..
  case spare =>
    intro new c copying retire held replay
    refine ⟨_, spareCopyDone_moves held replay, ?_⟩
    have logged := retireSoot_frame s l.val (physOf s l.val) new c.code
    rw [finishRetire_moves copying retire, ember_modEmber_same, ember_of_soot logged]
    exact ⟨rfl, onlyEmbers_of_soot logged ..⟩
  case replay =>
    intro k own held replay quiet
    subst own
    have resumes := spareCopyDone_resumes replay quiet
    refine ⟨fun free => ?_, fun busy => ?_⟩
    · have step := resumeLc_goesOn free
      rw [finishRetire_part] at step
      rw [tryRelease_unheld (by rw [step]; exact held)] at resumes
      exact ⟨_, resumes, by rw [step]⟩
    · have part := resumeLc_waits busy
      rw [finishRetire_part] at part
      rw [tryRelease_unheld (by rw [part]; exact held)] at resumes
      exact ⟨_, resumes, by rw [part], by rw [part]⟩
  case scales =>
    intro idle service
    have fixes : ¬ ((s.part n.val).inRun false || !s.inService) = true := by
      rw [service, show (s.part n.val).inRun false = false from idle]
      decide
    refine ⟨_, congrArg Host.Outcome.next (if_neg fixes), onlyPart_mod .., fun i hi => ?_⟩
    rw [part_modPart_same]
    exact entry_mapSct hi
  case verdict =>
    intro v rest verdicts
    refine ⟨fun good => ?_, fun b bad running small => ?_⟩
    · refine ⟨_, tagVerdict_good verdicts good, onlyPart_mod .., ?_⟩
      rw [part_modPart_same]
      rfl
    · exact ⟨_, tagVerdict_bad verdicts bad, securityAlarm_halts (by rw [part_modPart_same]; exact running) small⟩
  case request =>
    intro cause epoch step origin arrived body stoker current free room may
    have run := abortRequest_orders arrived body stoker current free
    have epoch' : ((taken n.val (f, fr) s).part n.val).stk.epoch = epoch := by
      rw [taken_part]
      exact current.symm
    have ordered := orderAbort_of_may (n := n) (cause := cause) (step := step) (origin := origin) (u := taken n.val (f, fr) s)
      (by rw [epoch']; exact room) (by rw [MaySend, part_modPart_same]; exact taken_maySend may)
    rw [ordered, epoch'] at run
    have part : ((taken n.val (f, fr) s).modPart n.val Part.nextEpoch).part n.val = ((s.part n.val).dropFrame (f, fr)).nextEpoch := by
      rw [part_modPart_same, taken_part]
    refine ⟨_, run, (congrArg Part.inbox part).trans rfl, (congrArg (fun p => p.stk.epoch) part).trans ?_,
      (congrArg (fun p => p.stk.measuring) part).trans rfl, ?_⟩
    · exact congrArg (· + 1) current.symm
    · rw [List.map_append]
      rfl
  case retry =>
    intro cause step request may
    exact ⟨_, abortRequestRetry_sends request may, rfl, rfl⟩
  case broadcast =>
    intro cause e step origin arrived body may
    refine ⟨fun current full => ?_, fun new idle => ?_⟩
    · obtain ⟨inbox, rest⟩ := freezeJob_leaves (n := n) (cause := 5) (step := step) (exc := none) (u := taken n.val (f, fr) s)
      refine ⟨_, abortFrame_freezes arrived body may current full, inbox.trans ?_, rest⟩
      rw [taken_part]
      rfl
    · refine ⟨_, abortFrame_takesEpoch arrived body may new idle, ?_⟩
      rw [takeEpoch, part_modPart_same]
      exact ⟨rfl, rfl⟩
  case warn => exact fun k low on long => pwrWarn_noted low on long
  case short => exact fun k short => pwrWarn_short short
  case deassert => exact ⟨_, rfl, rfl, rfl, rfl⟩

end Sys2Proof
end

section
/-! Integer operations, multiply and divide, comparisons and predicates (R85, R91, R92), and O1 to O4: what the operations compute, each as the statement
spells it. -/

namespace Sys2Proof.Machine

/-! ### Operations under another spelling -/

theorem issueInt_runs_as {c : Instr} {minor : Nat} {x : Site} {imm : Bool} {f : BitVec 52} {op op' : DWord → DWord → DWord}
    (hc : ∀ s, exec c s = .next (issueInt minor x imm f op s)) (same : ∀ a b, op a b = op' a b) : RunsInt c minor x imm f op' := by
  obtain rfl : op = op' := funext fun a => funext (same a)
  exact issueInt_runs hc

theorem issueRR_runs_as {c : Instr} {major minor : Nat} {x : Site} {f : BitVec 52} {ok : Bool} {op op' : DWord → DWord → DWord}
    (hc : ∀ s, exec c s = .next (issueRR major minor x f ok op s)) (same : ∀ a b, op a b = op' a b) : RunsRR c major minor x f ok op' := by
  obtain rfl : op = op' := funext fun a => funext (same a)
  exact issueRR_runs hc

/-! ### Values -/

section
variable (a b : DWord)

theorem add_eq_ofInt : a + b = BitVec.ofInt 64 (a.toInt + b.toInt) := by
  rw [BitVec.ofInt_add, BitVec.ofInt_toInt, BitVec.ofInt_toInt]

theorem sub_eq_ofInt : a - b = BitVec.ofInt 64 (a.toInt - b.toInt) := by
  rw [Int.sub_eq_add_neg, BitVec.ofInt_add, BitVec.ofInt_neg, BitVec.ofInt_toInt, BitVec.ofInt_toInt, BitVec.sub_eq_add_neg]

theorem shiftLeft_eq_ofNat (k : Nat) : a <<< k = BitVec.ofNat 64 (a.toNat * 2 ^ k) := by
  apply BitVec.eq_of_toNat_eq
  rw [BitVec.toNat_shiftLeft, Nat.shiftLeft_eq, BitVec.toNat_ofNat]

theorem ushiftRight_eq_ofNat (k : Nat) : a >>> k = BitVec.ofNat 64 (a.toNat / 2 ^ k) := by
  apply BitVec.eq_of_toNat_eq
  rw [BitVec.toNat_ushiftRight, Nat.shiftRight_eq_div_pow, BitVec.toNat_ofNat,
    Nat.mod_eq_of_lt (Nat.lt_of_le_of_lt (Nat.div_le_self ..) a.isLt)]

theorem sshiftRight_eq_ofInt (k : Nat) : a.sshiftRight k = BitVec.ofInt 64 (a.toInt / 2 ^ k) := by
  rw [BitVec.sshiftRight, Int.shiftRight_eq_div_pow]
  norm_cast

theorem min_signed : (if slt b a then b else a) = BitVec.ofInt 64 (min a.toInt b.toInt) := by
  simp only [slt, decide_eq_true_eq]
  split
  · next less => rw [Int.min_eq_right (Int.le_of_lt less), BitVec.ofInt_toInt]
  · next more => rw [Int.min_eq_left (Int.not_lt.1 more), BitVec.ofInt_toInt]

theorem max_signed : (if slt a b then b else a) = BitVec.ofInt 64 (max a.toInt b.toInt) := by
  simp only [slt, decide_eq_true_eq]
  split
  · next less => rw [Int.max_eq_right (Int.le_of_lt less), BitVec.ofInt_toInt]
  · next more => rw [Int.max_eq_left (Int.not_lt.1 more), BitVec.ofInt_toInt]

theorem min_unsigned : (if ult b a then b else a) = BitVec.ofNat 64 (min a.toNat b.toNat) := by
  simp only [ult, decide_eq_true_eq]
  split
  · next less => rw [Nat.min_eq_right (Nat.le_of_lt less), BitVec.ofNat_toNat, BitVec.setWidth_eq]
  · next more => rw [Nat.min_eq_left (Nat.not_lt.1 more), BitVec.ofNat_toNat, BitVec.setWidth_eq]

theorem max_unsigned : (if ult a b then b else a) = BitVec.ofNat 64 (max a.toNat b.toNat) := by
  simp only [ult, decide_eq_true_eq]
  split
  · next less => rw [Nat.max_eq_right (Nat.le_of_lt less), BitVec.ofNat_toNat, BitVec.setWidth_eq]
  · next more => rw [Nat.max_eq_left (Nat.not_lt.1 more), BitVec.ofNat_toNat, BitVec.setWidth_eq]

theorem leadingZeros_eq : BitVec.ofNat 64 (leadingZeros a) = if a = 0 then 64 else BitVec.ofNat 64 (63 - Nat.log2 a.toNat) := by
  have zero : a.toNat = 0 ↔ a = 0 := BitVec.toNat_inj (y := 0#64)
  simp only [leadingZeros, zero]
  split
  · rfl
  · rfl

theorem mul_eq_ofNat : a * b = BitVec.ofNat 64 (a.toNat * b.toNat) := rfl

/-- The relations as the table lists them (R91). -/
theorem relation_eq (r : Fin 6) : relation r.val a b = ([decide (a = b), decide (a ≠ b), decide (a.toInt < b.toInt), decide (a.toNat < b.toNat),
    decide (b.toInt ≤ a.toInt), decide (b.toNat ≤ a.toNat)][r.val]?).getD false := by
  fin_cases r
  · rfl
  · rfl
  · rfl
  · rfl
  · show (!decide (a.toInt < b.toInt)) = decide (b.toInt ≤ a.toInt)
    rw [← decide_not, decide_eq_decide]
    exact Int.not_lt
  · show (!decide (a.toNat < b.toNat)) = decide (b.toNat ≤ a.toNat)
    rw [← decide_not, decide_eq_decide]
    exact Nat.not_lt

end

/-- The predicates as a byte, bit by bit (R91). -/
theorem pByte_eq (h : Thread) : h.pByte.setWidth 64 = BitVec.ofNat 64 (((List.range 8).map fun i => if h.pReg i then 2 ^ i else 0).sum) := by
  have all : ∀ p : Byte, (p ||| 1).setWidth 64 =
      BitVec.ofNat 64 (((List.range 8).map fun i => if decide (i = 0) || p.getLsbD i then 2 ^ i else 0).sum) := by decide +kernel
  exact all h.p

/-! ### Division -/

theorem divS_zero (a : DWord) : divS a 0 = BitVec.allOnes 64 := rfl
theorem divU_zero (a : DWord) : divU a 0 = BitVec.allOnes 64 := rfl
theorem remS_zero (a : DWord) : remS a 0 = a := rfl
theorem remU_zero (a : DWord) : remU a 0 = a := rfl

/-- The quotient that 64 bits cannot hold wraps to -2^63 (R92). -/
theorem divS_overflow : divS (BitVec.ofInt 64 (-(2 ^ 63))) (BitVec.ofInt 64 (-1)) = BitVec.ofInt 64 (-(2 ^ 63)) := by decide
theorem remS_overflow : remS (BitVec.ofInt 64 (-(2 ^ 63))) (BitVec.ofInt 64 (-1)) = 0 := by decide

/-- An operation of format RR that runs writes the value of its operands, and nothing else changes. -/
theorem issueRR_gives {c : Instr} {major minor : Nat} {x : Site} {f : BitVec 52} {op : DWord → DWord → DWord} {s : State} {v : DWord}
    (hc : ∀ s, exec c s = .next (issueRR major minor x f true op s)) (low : fLow f = 0)
    (value : op ((thrAt s x).sReg (fRa f)) ((thrAt s x).sReg (fRb f)) = v) (hi : issuable s x (insnWord major minor f) f [fRd f, fRa f, fRb f] [] = true) :
    ∃ t, exec c s = .next t ∧ thrAt t x = ((thrAt s x).setS (fRd f) v).next ∧ OnlyThread x s t := by
  obtain ⟨t, run, own, -, frame⟩ := issueRR_runs hc s hi (by simp [low])
  exact ⟨t, run, by rw [own, ← value], frame⟩

/-- Predicate logic on two predicates runs (R91). -/
theorem issuePred_runs {c : Instr} {minor : Nat} {x : Site} {f : BitVec 52} {op : Bool → Bool → Bool}
    (hc : ∀ s, exec c s = .next (issuePred minor x f op s)) : Runs c (insnWord 5 minor f) f [] [fRd f, fRa f, fRb f] x
      (decide (fRd f < 8) && decide (fRa f < 8) && decide (fRb f < 8) && decide (fLow f = 0))
      fun _ h => h.setP (fRd f) (op (h.pReg (fRa f)) (h.pReg (fRb f))) :=
  runs_of_at hc reserved_of (fun _ => rfl) (fun _ => rfl) fun _ _ => stepOne_setP ..

end Sys2Proof.Machine

namespace Sys2Proof

open Machine

/-- Settles O1: every operation is one form, and computes what the statement says. -/
theorem integerOperations : Obligations.IntegerOperations := by
  intro x imm f
  refine ⟨?add, ?sub, issueInt_runs fun _ => rfl, issueInt_runs fun _ => rfl, issueInt_runs fun _ => rfl, issueInt_runs fun _ => rfl, ?shl, ?shr, ?sra,
    ?min, ?max, ?minu, ?maxu⟩
  case add => exact issueInt_runs_as (fun _ => rfl) add_eq_ofInt
  case sub => exact issueInt_runs_as (fun _ => rfl) sub_eq_ofInt
  case shl => exact issueInt_runs_as (fun _ => rfl) fun a b => shiftLeft_eq_ofNat a (b.toNat % 64)
  case shr => exact issueInt_runs_as (fun _ => rfl) fun a b => ushiftRight_eq_ofNat a (b.toNat % 64)
  case sra => exact issueInt_runs_as (fun _ => rfl) fun a b => sshiftRight_eq_ofInt a (b.toNat % 64)
  case min => exact issueInt_runs_as (fun _ => rfl) min_signed
  case max => exact issueInt_runs_as (fun _ => rfl) max_signed
  case minu => exact issueInt_runs_as (fun _ => rfl) min_unsigned
  case maxu => exact issueInt_runs_as (fun _ => rfl) max_unsigned

/-- Settles O2: the forms with two registers, and the two moves. -/
theorem multiplyDivideAndMoves : Obligations.MultiplyDivideAndMoves := by
  intro x f
  refine ⟨issueRR_runs_as (fun _ => rfl) mul_eq_ofNat, issueRR_runs fun _ => rfl, issueRR_runs fun _ => rfl, issueRR_runs fun _ => rfl,
    issueRR_runs fun _ => rfl, issueRR_runs fun _ => rfl, issueRR_runs fun _ => rfl, issueRR_runs fun _ => rfl,
    issueRR_runs_as (fun _ => rfl) fun a _ => leadingZeros_eq a, ?movhi, ?movi⟩
  case movhi => exact runs_of_at (fun _ => rfl) reserved_of (fun _ => rfl) (fun _ => rfl) fun _ _ => stepOne_setS ..
  case movi => exact runs_of (fun _ => rfl) reserved_of (fun _ => rfl) fun _ _ => stepOne_setS ..

/-- Settles O3: the values of the corner cases, each of an instruction that runs as any other. -/
theorem divisionCorners : Obligations.DivisionCorners := by
  intro x f s low a b gives
  refine ⟨fun zero => ⟨?div, ?divu, ?rem, ?remu⟩, fun least minus => ⟨?quotient, ?remainder⟩⟩
  case div => exact issueRR_gives (fun _ => rfl) low ((congrArg (divS a) zero).trans (divS_zero a))
  case divu => exact issueRR_gives (fun _ => rfl) low ((congrArg (divU a) zero).trans (divU_zero a))
  case rem => exact issueRR_gives (fun _ => rfl) low ((congrArg (remS a) zero).trans (remS_zero a))
  case remu => exact issueRR_gives (fun _ => rfl) low ((congrArg (remU a) zero).trans (remU_zero a))
  case quotient => exact issueRR_gives (fun _ => rfl) low ((congrArg₂ divS least minus).trans divS_overflow)
  case remainder => exact issueRR_gives (fun _ => rfl) low ((congrArg₂ remS least minus).trans remS_overflow)

/-- Settles O4: each instruction writes one register of its thread, and the relations and the byte of predicates are as the statement spells them. -/
theorem comparisonsAndPredicates : Obligations.ComparisonsAndPredicates := by
  intro x f rel holds low preds
  refine ⟨?cmp, ?cmpi, issuePred_runs fun _ => rfl, issuePred_runs fun _ => rfl, issuePred_runs fun _ => rfl,
    issuePred_runs (op := fun a b => a && !b) fun _ => rfl, ?pnz, ?pget⟩
  case cmp =>
    refine runs_of_at (fun _ => rfl) reserved_of (fun _ => rfl) (fun s => ?_) fun _ _ => stepOne_setP ..
    exact congrArg (fun b => (thrAt s x).setP (fRd f) b) (relation_eq ..)
  case cmpi =>
    refine runs_of_at (fun _ => rfl) reserved_of (fun _ => rfl) (fun s => ?_) fun _ _ => stepOne_setP ..
    exact congrArg (fun b => (thrAt s x).setP (fRd f) b) (relation_eq ..)
  case pnz => exact runs_of_at (fun _ => rfl) reserved_of (fun _ => rfl) (fun _ => rfl) fun _ _ => stepOne_setP ..
  case pget =>
    refine runs_of_at (fun _ => rfl) reserved_of (fun _ => rfl) (fun s => ?_) fun _ _ => stepOne_setS ..
    exact congrArg (fun v => (thrAt s x).setS (fRd f) v) (pByte_eq (thrAt s x))

end Sys2Proof
end

section
/-! System instructions, branches and STEPB (R85, R86, R93, R101), O5 and O10. -/

namespace Sys2Proof.Machine

/-- An instruction that sets its program counter itself: only its thread changes, and it is the one that issued last. -/
theorem becomes_stayed {c : Instr} {s u : State} {x : Site} {w : DWord} {f : BitVec 52} {ss ps : List Nat} {static : Option Nat} {body : State → Eff}
    (hc : exec c s = .next (issue x w f ss ps anyRoom static body s)) (hi : issuable s x w f ss ps = true) (hs : static = none)
    (hb : body s = .stay u) (h1 : (thrAt u x).stepOne = (thrAt s x).stepOne) : exec c s = .next (markIssued x u) := by
  subst hs
  exact hc.trans (congrArg Host.Outcome.next (issue_stay hi rfl hb (h1.trans (issuable_step hi))))

/-! ### END -/

/-- A thread that has ended (R93). -/
def Thread.ended (h : Thread) : Thread := { h with st := .idle }

/-- Where BE threads are released, a thread that is not paused stays as it is (R59). -/
theorem thread_releaseBe {l t : Nat} (ht : t < 8) {s : State} (h : (s.thread l t).st ≠ .paused) : (releaseBe l s).thread l t = s.thread l t := by
  have stays : ∀ h : Thread, h.st ≠ .paused → h.unpause = h := fun h ne => if_neg ne
  unfold releaseBe
  split
  · rfl
  · rw [State.thread, ember_modEmber_same, Ember.releaseBe]
    split
    · rw [thr_mapThreads _ _ ht]
      split
      · exact stays _ h
      · rfl
    · rfl

/-- An end leaves its thread in IDLE, whatever it lets go on (R59, R93). -/
theorem thrAt_endThread (x : Site) (s : State) : thrAt (endThread x s) x = (thrAt s x).ended := by
  have released : thrAt (releaseBe x.e.val (modAt x Thread.ended s)) x = (thrAt s x).ended := by
    have idle : (thrAt (modAt x Thread.ended s) x).st ≠ .paused := by
      rw [thrAt_modAt]
      exact TState.noConfusion
    exact (thread_releaseBe x.t.isLt idle).trans (thrAt_modAt ..)
  unfold endThread
  dsimp only
  split
  · exact released
  · split
    · exact released
    · exact released

/-! ### Branches -/

/-- A branch within the code window sets the program counter and, through its link, a register (R87, R93). -/
theorem branch_becomes {c : Instr} {s : State} {x : Site} {w : DWord} {f : BitVec 52} {ss ps : List Nat} {static : Option Nat} {body : State → Eff}
    {target : Int} {link : State → State} {h : Thread} (hc : exec c s = .next (issue x w f ss ps anyRoom static body s))
    (hi : issuable s x w f ss ps = true) (hs : static = none) (hb : body s = branchTo x target link s)
    (own : thrAt (link s) x = h) (frame : OnlyThread x s (link s)) (h1 : h.stepOne = (thrAt s x).stepOne) (low : 0 ≤ target) (high : target < 65536)
    (inside : inWindow s x target.toNat = true) : ∃ t, exec c s = .next t ∧ thrAt t x = { h with pc := BitVec.ofInt 16 target } ∧ OnlyThread x s t := by
  subst own
  rw [branchTo, if_pos ⟨low, high, inside⟩] at hb
  refine ⟨_, becomes_stayed hc hi hs hb (by rw [thrAt_modAt]; exact h1), ?_, (frame.trans (onlyThread_modAt ..)).trans (onlyThread_markIssued ..)⟩
  rw [thrAt_markIssued, thrAt_modAt]

/-- NOP proper is the command with opcode 0 (R86). -/
theorem nop_issues (x : Site) (f : BitVec 52) (s : State) : exec (.nop x 0 f) s =
    .next (issue x (insnWord 0 0 f) f [] [] anyRoom (reserved (decide (f.toNat % 2 ^ 48 = 0))) (fun s => .ok s) s) := by
  rw [exec_nop, execNop, if_pos rfl]
  rfl

theorem tidValue_eq (l t n : Nat) (be : Bool) : tidValue l t be n = BitVec.ofNat 64 (l + 2 ^ 16 * t + (if be then 2 ^ 19 else 0) + 2 ^ 20 * n) := by
  unfold tidValue b2n
  congr 1
  split
  · omega
  · omega

/-! ### STEPB -/

/-- A thread that has declared the boundary after step `ra` waits (R101). -/
def Thread.awaitStep (ra : DWord) (h : Thread) : Thread := { h with st := .wait, cond := some (.step ra) }

/-- The first STEPB of a boundary fixes its operand (R101). -/
def Part.firstStep (ra : DWord) (p : Part) : Part := { p with step := { p.step with first := some ra } }

theorem firstStep_of_first {ra : DWord} {p : Part} (h : p.step.first = some ra) : p.firstStep ra = p := by
  rw [Part.firstStep, ← h]

section
variable {x : Site} {f : BitVec 52} {s : State} (hi : issuable s x (insnWord 0 3 f) f [fRa f] [] = true) (rd : fRd f = 0) (rb : fRb f = 0)
  (low : fLow f = 0)
include hi rd rb low

/-- The first STEPB of a boundary. -/
theorem stepb_first (lc : s.isBe x.e.val x.t.val = false) (shut : (thrAt s x).chain = none) (first : (s.part (s.partOf x.e.val)).step.first = none) :
    exec (.stepb x f) s = .next (stepped x (modAt x (Thread.awaitStep ((thrAt s x).sReg (fRa f)))
      (s.modPart (s.partOf x.e.val) (Part.firstStep ((thrAt s x).sReg (fRa f)))))) := by
  refine exec_stepped rfl hi rfl (reserved_of (by simp [rd, rb, low])) ?_ (by rw [thrAt_modAt]; rfl)
  simp only [beAt, lc, shut, partAt, first, Option.isSome_none, Bool.false_eq_true, if_false]
  rfl

/-- A STEPB with the operand that the boundary has. -/
theorem stepb_again (lc : s.isBe x.e.val x.t.val = false) (shut : (thrAt s x).chain = none)
    (first : (s.part (s.partOf x.e.val)).step.first = some ((thrAt s x).sReg (fRa f))) :
    exec (.stepb x f) s = .next (stepped x (modAt x (Thread.awaitStep ((thrAt s x).sReg (fRa f))) s)) := by
  refine exec_stepped rfl hi rfl (reserved_of (by simp [rd, rb, low])) ?_ (by rw [thrAt_modAt]; rfl)
  simp only [beAt, lc, shut, partAt, first, Option.isSome_none, Bool.false_eq_true, if_false, if_true]
  rfl

/-- A STEPB of a BE thread (R101). -/
theorem stepb_be (be : s.isBe x.e.val x.t.val = true) : exec (.stepb x f) s = .next (raise x 0x01 0 s) :=
  exec_raised rfl hi rfl (reserved_of (by simp [rd, rb, low])) (if_pos be)

/-- A STEPB with another operand (R101). -/
theorem stepb_mismatch {v : DWord} (lc : s.isBe x.e.val x.t.val = false) (shut : (thrAt s x).chain = none)
    (first : (s.part (s.partOf x.e.val)).step.first = some v) (other : v ≠ (thrAt s x).sReg (fRa f)) :
    exec (.stepb x f) s = .next (raise x 0x0B 0 s) := by
  refine exec_raised rfl hi rfl (reserved_of (by simp [rd, rb, low])) ?_
  simp only [beAt, lc, shut, partAt, first, other, Option.isSome_none, Bool.false_eq_true, if_false]
  rfl

end

end Sys2Proof.Machine

namespace Sys2Proof

open Machine

/-- Settles O5: all but END change their own thread alone; END is followed through what it lets go on. -/
theorem systemAndBranches : Obligations.SystemAndBranches := by
  intro x f s h w becomes jumps
  refine ⟨?nop, ?tid, ?brk, ?ends, ?br, ?brl, ?jr, ?jrl⟩
  case nop => exact fun hi zero => becomes_stepped_same (nop_issues ..) hi rfl (reserved_of (decide_eq_true zero)) rfl
  case tid =>
    intro hi zero
    have named := becomes_stepped (c := .tid x f) rfl hi rfl (reserved_of (decide_eq_true zero)) rfl (stepOne_setS ..)
    rw [tidValue_eq] at named
    exact named
  case brk =>
    intro hi zero
    by_cases right : bitAt (debugRights s (s.partOf x.e.val)) 0 = true
    · rw [if_pos right]
      exact becomes_stepped (g := fun h => { h with st := .halt }) rfl hi rfl (reserved_of (decide_eq_true zero)) (if_pos right) rfl
    · rw [if_neg right]
      exact becomes_stepped_same rfl hi rfl (reserved_of (decide_eq_true zero)) (if_neg right)
  case ends =>
    intro hi zero
    have own : thrAt (endThread x (modAt x Thread.next s)) x = h.next.ended := by rw [thrAt_endThread, thrAt_modAt]
    refine ⟨_, becomes_stayed rfl hi (reserved_of (decide_eq_true zero)) rfl (by rw [own]; rfl), ?_⟩
    rw [thrAt_markIssued, own]
    exact ⟨rfl, rfl, rfl, rfl⟩
  case br => exact fun hi => branch_becomes rfl hi rfl rfl rfl (OnlyThread.refl ..) rfl
  case brl => exact fun hi => branch_becomes rfl hi rfl rfl (thrAt_modAt ..) (onlyThread_modAt ..) rfl
  case jr =>
    exact fun hi rd rb low => branch_becomes rfl hi (reserved_of (by simp [rd, rb, low])) rfl rfl (OnlyThread.refl ..) rfl
  case jrl =>
    exact fun hi rb low => branch_becomes rfl hi (reserved_of (by simp [rb, low])) rfl (thrAt_modAt ..) (onlyThread_modAt ..) rfl

/-- Settles O10: the first STEPB writes its operand into the boundary, and a later one finds it there. -/
theorem stepBoundaryDeclared : Obligations.StepBoundaryDeclared := by
  intro x f s h n ra hi rd rb low
  refine ⟨fun lc shut first => ?_, stepb_be hi rd rb low, fun v lc shut first other => stepb_mismatch hi rd rb low lc shut first other⟩
  rcases first with first | first
  · refine ⟨_, stepb_first hi rd rb low lc shut first, ?_, ?_, fun m hm => ?_, fun l i other => ?_⟩
    · rw [thrAt_stepped, thrAt_modAt]
      rfl
    · rw [part_stepped, modAt_part, part_modPart_same]
      rfl
    · rw [part_stepped, modAt_part, part_modPart_ne (Ne.symm hm)]
    · rw [thread_stepped other, other_modAt other, modPart_thread]
  · refine ⟨_, stepb_again hi rd rb low lc shut first, ?_, ?_, fun m _ => ?_, fun l i other => ?_⟩
    · rw [thrAt_stepped, thrAt_modAt]
      rfl
    · rw [part_stepped, modAt_part]
      exact (firstStep_of_first first).symm
    · rw [part_stepped, modAt_part]
    · rw [thread_stepped other, other_modAt other]

end Sys2Proof
end

section
/-! Semaphores (R100): what an instruction adds, takes or waits for, and O9. -/

namespace Sys2Proof.Machine

/-! ### A semaphore -/

/-- The word of a semaphore after a signal: it saturates with bit 31 set (R100). -/
theorem toNat_add (k : Nat) (m : Sem) :
    (m.add k).word.toNat = if m.word.toNat % 2 ^ 31 + k < 2 ^ 31 then m.word.toNat + k else 2 ^ 32 - 1 := by
  have small := m.word.isLt
  unfold Sem.add Sem.value
  dsimp only
  split
  · rw [BitVec.toNat_ofNat, Nat.mod_eq_of_lt (by omega)]
    omega
  · rfl

theorem waiters_add (k : Nat) (m : Sem) : (m.add k).waiters = m.waiters := by
  unfold Sem.add
  dsimp only
  split
  · rfl
  · rfl

/-- The number of a semaphore in its class's namespace (R100). -/
theorem semKey_eq {be : Bool} {f : BitVec 52} (h : fImmU f < 4096) : semKey be f = (if be then 4096 else 0) + fImmU f := by
  rw [semKey, b2n_mul, Nat.mod_eq_of_lt h]

theorem semTakesNow_iff {m : Sem} {k : Nat} : semTakesNow m k = true ↔ m.waiters = [] ∧ k ≤ m.word.toNat % 2 ^ 31 := by
  rw [semTakesNow, Bool.and_eq_true, List.isEmpty_iff, decide_eq_true_eq, Sem.value]

/-! ### A signal -/

/-- A report of a contribution changes no semaphore (R189). -/
theorem sems_contribute (n key k : Nat) (s : State) (m : Nat) : ((contribute n key k s).part m).sems = (s.part m).sems := by
  unfold contribute
  dsimp only
  split
  · rfl
  · split
    · rw [State.part, sendFrame_parts, ← State.part, part_modPart_keeps Part.sems]
      intro p
      rfl
    · rfl

theorem thread_contribute (n key k : Nat) (s : State) (l i : Nat) : (contribute n key k s).thread l i = s.thread l i := by
  have quarters : (contribute n key k s).quarters = s.quarters := by
    unfold contribute
    dsimp only
    split
    · rfl
    · split
      · rw [sendFrame_quarters]
        rfl
      · rfl
  rw [State.thread, State.ember, quarters]
  rfl

/-- A signal adds to its semaphore, and the waiters at the head are served while the value suffices (R100). -/
theorem semSignal_serves (n key k : Nat) (s : State) : let m := ((s.part n).sems.get key).add k
    let t := semSignal n key k s
    ∃ j, ((t.part n).sems.get key).waiters = m.waiters.drop j ∧ needs (m.waiters.take j) ≤ m.word.toNat % 2 ^ 31 ∧
      ((t.part n).sems.get key).word.toNat = m.word.toNat - needs (m.waiters.take j) ∧
      (∀ w ws, m.waiters.drop j = w :: ws → m.word.toNat % 2 ^ 31 < needs (m.waiters.take j) + w.need) ∧
      ∀ l i, ReleasedIf (∃ k, SemWaiter.thread l i k ∈ m.waiters.take j) (s.thread l i) (t.thread l i) := by
  obtain ⟨u, hu⟩ : ∃ u, u = contribute n key k (s.modPart n fun p => { p with sems := p.sems.upd key (Sem.add k) }) := ⟨_, rfl⟩
  have added : (u.part n).sems.get key = ((s.part n).sems.get key).add k := by
    rw [hu, sems_contribute, part_modPart_same]
    exact Tab.get_upd_same ..
  have threads : ∀ l i, u.thread l i = s.thread l i := fun l i => by rw [hu, thread_contribute, modPart_thread]
  have served := semServe_serves ((u.part n).sems.get key).waiters.length n key u (Nat.le_refl _)
  simp only [threads] at served
  rw [show semServe ((u.part n).sems.get key).waiters.length n key u = semSignal n key k s by rw [hu]; rfl, added] at served
  exact served

theorem ReleasedIf.kept {c : Prop} {a b : Thread} (h : ReleasedIf c a b) : b.stepOne = a.stepOne ∧ b.pc = a.pc ∧ b.s = a.s := by
  obtain ⟨released, same⟩ := h
  by_cases hc : c
  · obtain ⟨-, -, rest⟩ := released hc
    rw [← rest]
    exact ⟨rfl, rfl, rfl⟩
  · rw [same hc]
    exact ⟨rfl, rfl, rfl⟩

/-! ### The instructions -/

section
variable {x : Site} {f : BitVec 52} {s : State} (room : requestRoom x s = true) (small : fImmU f < 4096)
include room small

theorem semsig_signals (hi : issuable s x (insnWord 0x0C 2 f) f [fRa f] [] = true) (rd : fRd f = 0) (hk : ((thrAt s x).sReg (fRa f)).toNat < 2 ^ 31) :
    exec (.semsig x f) s = .next (stepped x (semSignal (s.partOf x.e.val) (semKey (s.isBe x.e.val x.t.val) f) ((thrAt s x).sReg (fRa f)).toNat s)) := by
  obtain ⟨j, -, -, -, -, threads⟩ := semSignal_serves (s.partOf x.e.val) (semKey (s.isBe x.e.val x.t.val) f) ((thrAt s x).sReg (fRa f)).toNat s
  obtain ⟨running, -⟩ := (threads x.e.val x.t.val).kept
  exact exec_stepped rfl hi room (reserved_of (by simp [rd, small])) (if_pos hk) running

/-- Write a semaphore. -/
def Part.setSem (key : Nat) (m : Sem) (p : Part) : Part := { p with sems := p.sems.set key m }

/-- A thread that waits for a semaphore (R100). -/
def Thread.awaitSem (i k : Nat) (h : Thread) : Thread := { h with st := .wait, cond := some (.sem i k) }

section
variable (hi : issuable s x (insnWord 0x0C 3 f) f [fRa f] [] = true) (rd : fRd f = 0) {k : Nat} (hk : ((thrAt s x).sReg (fRa f)).toNat = k)
  (k31 : k < 2 ^ 31) {key : Nat} (hkey : semKey (s.isBe x.e.val x.t.val) f = key) {m : Sem} (hm : (s.part (s.partOf x.e.val)).sems.get key = m)
include hi rd hk k31 hkey hm

/-- A wait that nobody precedes and the value suffices for takes its amount (R100). -/
theorem semwait_takes (alone : m.waiters = []) (enough : k ≤ m.word.toNat % 2 ^ 31) :
    exec (.semwait x f) s = .next (stepped x (s.modPart (s.partOf x.e.val) (Part.setSem key (m.take k)))) := by
  have now : semTakesNow m k = true := semTakesNow_iff.2 ⟨alone, enough⟩
  refine exec_stepped rfl hi room (reserved_of (by simp [rd, small])) ?_ rfl
  simp only [beAt, partAt, hkey, hm, hk, if_neg (Nat.not_le.2 k31), now, if_true]
  rfl

/-- Any other wait joins the waiters (R100). -/
theorem semwait_waits (later : ¬ (m.waiters = [] ∧ k ≤ m.word.toNat % 2 ^ 31)) : exec (.semwait x f) s = .next (stepped x
    (modAt x (Thread.awaitSem (fImmU f) k) (s.modPart (s.partOf x.e.val)
      (Part.setSem key { m with waiters := m.waiters ++ [.thread x.e.val x.t.val k] })))) := by
  have notNow : semTakesNow m k = false := Bool.eq_false_iff.2 fun now => later (semTakesNow_iff.1 now)
  refine exec_stepped rfl hi room (reserved_of (by simp [rd, small])) ?_ (by rw [thrAt_modAt]; rfl)
  simp only [beAt, partAt, hkey, hm, hk, if_neg (Nat.not_le.2 k31), notNow, Bool.false_eq_true, if_false, Nat.mod_eq_of_lt small]
  rfl

end

end

theorem sem_setSem {n key : Nat} {m : Sem} {s : State} : ((s.modPart n (Part.setSem key m)).part n).sems.get key = m := by
  rw [part_modPart_same]
  exact Tab.get_set_same ..

theorem sem_setSem_ne {n key o : Nat} {m : Sem} {s : State} (h : o ≠ key) :
    ((s.modPart n (Part.setSem key m)).part n).sems.get o = (s.part n).sems.get o := by
  rw [part_modPart_same]
  exact Tab.get_set_ne _ _ (Ne.symm h)

end Sys2Proof.Machine

namespace Sys2Proof

open Machine

/-- Settles O9: a signal is followed through the waiters that it serves, and a wait changes its thread and its semaphore alone. -/
theorem semaphores : Obligations.Semaphores := by
  intro x f s h n k key m
  refine ⟨?semsig, ?semwait, ?semrd⟩
  case semsig =>
    intro hi room rd small hk word
    obtain ⟨j, waiters, enough, left, passed, threads⟩ := semSignal_serves n key k s
    simp only [toNat_add, waiters_add] at waiters enough left passed threads
    obtain ⟨-, pc, regs⟩ := (threads x.e.val x.t.val).kept
    have run := semsig_signals room small hi rd hk
    rw [semKey_eq small] at run
    change exec (.semsig x f) s = .next (stepped x (semSignal n key k s)) at run
    generalize semSignal n key k s = u at run waiters left threads pc regs
    refine ⟨_, j, run, ?_⟩
    rw [part_stepped]
    refine ⟨waiters, enough, left, passed, fun l i other => ?_, ?_, ?_⟩
    · rw [thread_stepped other]
      exact threads l i
    · rw [thrAt_stepped]
      exact congrArg (· + 1) pc
    · rw [thrAt_stepped]
      exact regs
  case semwait =>
    intro hi room rd small hk
    by_cases now : m.waiters = [] ∧ k ≤ m.word.toNat % 2 ^ 31
    · obtain ⟨alone, enough⟩ := now
      refine ⟨_, semwait_takes room small hi rd rfl hk (semKey_eq small) rfl alone enough, fun l i other => ?_, fun o other => ?_, ?_⟩
      · rw [thread_stepped other, modPart_thread]
      · rw [part_stepped, sem_setSem_ne other]
      · rw [if_pos ⟨alone, enough⟩, thrAt_stepped, part_stepped, sem_setSem, Sem.take, alone]
        exact ⟨rfl, rfl⟩
    · refine ⟨_, semwait_waits room small hi rd rfl hk (semKey_eq small) rfl now, fun l i other => ?_, fun o other => ?_, ?_⟩
      · rw [thread_stepped other, other_modAt other, modPart_thread]
      · rw [part_stepped, modAt_part, sem_setSem_ne other]
      · rw [if_neg now, thrAt_stepped, thrAt_modAt, part_stepped, modAt_part, sem_setSem]
        exact ⟨rfl, rfl⟩
  case semrd =>
    intro hi room ra small
    have read := becomes_stepped (c := .semrd x f) rfl hi room (reserved_of (by simp [ra, small])) rfl (stepOne_setS ..)
    have word : ((s.part (partAt s x)).sems.get (semKey (beAt s x) f)).word.setWidth 64 = BitVec.ofNat 64 m.word.toNat := by
      rw [semKey_eq small]
      exact (BitVec.ofNat_toNat ..).symm
    rwa [word] at read

end Sys2Proof
end

section
/-! The device-side allocator and CAPRD (R107, R108, R213 to R217), and O12. -/

namespace Sys2Proof.Machine

/-! ### The buddy allocator (R214) -/

theorem le_ceilPow2 (k : Nat) : k ≤ ceilPow2 k := by
  unfold ceilPow2
  split
  · assumption
  · have := Nat.lt_log2_self (n := k - 1)
    omega

/-- The better of two blocks for a request: the later one where it is smaller or the only one (R214). -/
def betterBlock (size : Nat) (best : Option Block) (b : Block) : Option Block :=
  if b.st = .free ∧ size ≤ b.size then
    match best with
    | some c => if b.size < c.size then some b else some c
    | none => some b
  else best

theorem bestBlock_eq (size : Nat) (bs : List Block) : bestBlock size bs = bs.foldl (betterBlock size) none := rfl

theorem betterBlock_cases {size : Nat} {best : Option Block} {b c : Block} (h : betterBlock size best b = some c) :
    (c = b ∧ b.st = .free ∧ size ≤ b.size) ∨ best = some c := by
  unfold betterBlock at h
  split at h
  · next fits =>
    split at h
    · split at h
      · exact .inl ⟨(Option.some.inj h).symm, fits⟩
      · exact .inr h
    · exact .inl ⟨(Option.some.inj h).symm, fits⟩
  · exact .inr h

/-- What serves a request is a free block of the heap that holds it. -/
theorem bestBlock_fits {size : Nat} {bs : List Block} {b : Block} (h : bestBlock size bs = some b) : b ∈ bs ∧ b.st = .free ∧ size ≤ b.size := by
  have from_ : ∀ (bs : List Block) (best : Option Block), bs.foldl (betterBlock size) best = some b →
      (b ∈ bs ∧ b.st = .free ∧ size ≤ b.size) ∨ best = some b := by
    intro bs
    induction bs with
    | nil => exact fun _ h => .inr h
    | cons c bs ih =>
      intro best h
      rcases ih _ h with ⟨mem, fits⟩ | better
      · exact .inl ⟨List.mem_cons_of_mem _ mem, fits⟩
      · rcases betterBlock_cases better with ⟨rfl, fits⟩ | same
        · exact .inl ⟨List.mem_cons_self .., fits⟩
        · exact .inr same
  rw [bestBlock_eq] at h
  exact (from_ bs none h).resolve_right nofun

/-- Splitting a block leaves the blocks at other offsets. -/
theorem mem_splitBlock {fuel off size : Nat} {bs : List Block} {b : Block} (h : b ∈ bs) (ne : b.off ≠ off) : b ∈ splitBlock fuel off size bs := by
  induction fuel generalizing bs with
  | zero => exact h
  | succ fuel ih =>
    refine ih (List.mem_flatMap.2 ⟨b, h, ?_⟩)
    rw [if_neg fun split => ne split.1]
    exact List.mem_singleton_self b

/-- Take the block at an offset. -/
def takeBlock (off : Nat) (bs : List Block) : List Block := bs.map fun c => if c.off = off then { c with st := .allocated } else c

theorem mem_takeBlock_of_ne {off : Nat} {bs : List Block} {b : Block} (h : b ∈ bs) (ne : b.off ≠ off) : b ∈ takeBlock off bs :=
  List.mem_map.2 ⟨b, h, if_neg ne⟩

theorem allocated_of_mem_takeBlock {off : Nat} {bs : List Block} {b : Block} (h : b ∈ takeBlock off bs) (at_ : b.off = off) : b.st = .allocated := by
  obtain ⟨c, -, rfl⟩ := List.mem_map.1 h
  split at at_
  · next here => rw [if_pos here]
  · next ne => exact absurd at_ ne

theorem alloc_refused {hp : Heap} {k : Nat} (h : k = 0 ∨ hp.len < k) : hp.alloc k = (hp, .error 2) := if_pos h

/-- An ALLOC that is served: the best block is split down and taken (R214). -/
theorem alloc_of_ok {hp : Heap} {k a : Nat} (h : (hp.alloc k).2 = .ok a) : k ≠ 0 ∧ k ≤ hp.len ∧
    ∃ b, bestBlock (max hp.minBlock (ceilPow2 k)) hp.blocks = some b ∧ b.off = a ∧
      (hp.alloc k).1 = { hp with blocks := takeBlock a (splitBlock 64 a (max hp.minBlock (ceilPow2 k)) hp.blocks) } := by
  by_cases bad : k = 0 ∨ hp.len < k
  · rw [alloc_refused bad] at h
    cases h
  · obtain ⟨some, inside⟩ := not_or.1 bad
    refine ⟨some, Nat.not_lt.1 inside, ?_⟩
    unfold Heap.alloc at h ⊢
    rw [if_neg bad] at h ⊢
    dsimp only at h ⊢
    cases best : bestBlock (max hp.minBlock (ceilPow2 k)) hp.blocks with
    | none =>
      rw [best] at h
      cases h
    | some b =>
      rw [best] at h
      cases h
      exact ⟨b, rfl, rfl, rfl⟩

/-- Everything about an ALLOC that is served (R214). -/
theorem alloc_ok {hp : Heap} {k a : Nat} (h : (hp.alloc k).2 = .ok a) : k ≠ 0 ∧ k ≤ hp.len ∧
    (∃ b ∈ hp.blocks, b.off = a ∧ b.st = .free ∧ k ≤ b.size ∧ hp.minBlock ≤ b.size) ∧
    (∀ b ∈ hp.blocks, b.st ≠ .free → b.off ≠ a → b ∈ (hp.alloc k).1.blocks) ∧ (∀ b ∈ (hp.alloc k).1.blocks, b.off = a → b.st = .allocated) ∧
    (hp.alloc k).1.pendingOrder = hp.pendingOrder ∧ (hp.alloc k).1.base = hp.base ∧ (hp.alloc k).1.len = hp.len := by
  obtain ⟨some, inside, b, best, off, heap⟩ := alloc_of_ok h
  obtain ⟨mem, free, fits⟩ := bestBlock_fits best
  obtain ⟨min, size⟩ := Nat.max_le.1 fits
  have kept := fun (c : Block) (hc : c ∈ hp.blocks) (ne : c.off ≠ a) => mem_splitBlock (fuel := 64) (size := max hp.minBlock (ceilPow2 k)) hc ne
  rw [heap]
  generalize splitBlock 64 a (max hp.minBlock (ceilPow2 k)) hp.blocks = bs at kept
  exact ⟨some, inside, ⟨b, mem, off, free, (le_ceilPow2 k).trans size, min⟩, fun c hc _ ne => mem_takeBlock_of_ne (kept c hc ne) ne,
    fun c hc => allocated_of_mem_takeBlock hc, rfl, rfl, rfl⟩

/-! ### Requests (R107, R215) -/

/-- Write a heap of a partition. -/
def Part.setHeap (i : Nat) (hp : Heap) (p : Part) : Part := { p with mem := { p.mem with heaps := p.mem.heaps.set i hp } }

/-- Write the order in which the heap controller serves threads. -/
def Part.setHeapQ (q : List Nat) (p : Part) : Part := { p with mem := { p.mem with heapQ := q } }

/-- Write the requests that a thread has outstanding. -/
def Thread.setReqs (rs : List HeapReq) (h : Thread) : Thread := { h with heapReqs := rs }

/-- The request of an allocator instruction (R107). -/
def heapRequest (op : HeapOp) (x : Site) (f : BitVec 52) (s : State) : HeapReq :=
  { op := op, rd := fRd f, pred := fRb f, arg := (thrAt s x).sReg (fRa f) }

/-- An allocator instruction joins the requests of its thread and of its partition. -/
theorem issueHeap_asks {c : Instr} {minor : Nat} {op : HeapOp} {x : Site} {f : BitVec 52} {s : State}
    (hc : exec c s = .next (issueHeap minor op x f s)) (hi : issuable s x (insnWord 0x0F minor f) f [fRd f, fRa f] [fRb f % 8] = true)
    (room : requestRoom x s = true) (pred : fRb f < 8) (low : fLow f = 0) :
    exec c s = .next (stepped x ((modAt x (Thread.setReqs ((thrAt s x).heapReqs ++ [heapRequest op x f s])) s).modPart (s.partOf x.e.val)
      (Part.setHeapQ ((s.part (s.partOf x.e.val)).mem.heapQ ++ [8 * x.e.val + x.t.val])))) := by
  refine exec_stepped hc hi room (reserved_of (by simp [pred, low])) ?_ (by rw [thrAt, modPart_thread, ← thrAt, thrAt_modAt]; rfl)
  simp only [Nat.mod_eq_of_lt pred]
  rfl

theorem returnBe_of_lc {n : Nat} {s : State} (h : (s.part n).runLc.isSome = true) : returnBe n s = s := if_pos h

/-! ### Answers (R214 to R216) -/

section
variable {n l t : Nat} {be : Bool} {q : HeapReq} {s : State}

/-- An ALLOC that a heap serves. -/
theorem serveHeap_allocates {shelf : Bool} {hp : Heap} {a : Nat} (op : q.op = if shelf then .allocS else .allocH)
    (served : ((s.part n).mem.heaps.get (heapIx be shelf)).alloc q.arg.toNat = (hp, .ok a)) : serveHeap n l t be q s =
      (s.modPart n (Part.setHeap (heapIx be shelf) hp)).modThread l t (Thread.answer q (BitVec.ofNat 64 (hp.base + a)) true) := by
  cases shelf with
  | false =>
    simp only [serveHeap, op, Bool.false_eq_true, if_false, reduceCtorEq, decide_false, served]
    rfl
  | true =>
    simp only [serveHeap, op, if_true, decide_true, served]
    rfl

/-- An ALLOC that no block of a heap serves. -/
theorem serveHeap_refuses {shelf : Bool} {hp : Heap} {c : Nat} (op : q.op = if shelf then .allocS else .allocH)
    (refused : ((s.part n).mem.heaps.get (heapIx be shelf)).alloc q.arg.toNat = (hp, .error c)) : serveHeap n l t be q s =
      countAllocFail n be (s.modThread l t (Thread.answer q (BitVec.ofNat 64 c) false)) := by
  cases shelf with
  | false => simp only [serveHeap, op, Bool.false_eq_true, if_false, reduceCtorEq, decide_false, refused]
  | true => simp only [serveHeap, op, if_true, decide_true, refused]

/-- With an LC job loaded, a FREE of a block of a heap makes it pending. -/
theorem serveHeap_frees {hp : Heap} (op : q.op = .free) (lc : (s.part n).runLc.isSome = true)
    (freed : ((s.part n).mem.heaps.get (heapIx be false)).free q.arg.toNat (s.part n).launched = some hp) : serveHeap n l t be q s =
      (s.modPart n (Part.setHeap (heapIx be false) hp)).modThread l t (Thread.answer q 0 true) := by
  simp only [serveHeap, op, freed]
  refine returnBe_of_lc ?_
  rw [modThread_part, part_modPart_same]
  exact lc

/-- A FREE of a block of the class's shelf heap, and one of no block. -/
theorem serveHeap_free_cases (op : q.op = .free) (lc : (s.part n).runLc.isSome = true) : (∃ i hp, serveHeap n l t be q s =
    (s.modPart n (Part.setHeap i hp)).modThread l t (Thread.answer q 0 true)) ∨ serveHeap n l t be q s = s.modThread l t (Thread.answer q 3 false) := by
  cases hbm : ((s.part n).mem.heaps.get (heapIx be false)).free q.arg.toNat (s.part n).launched with
  | some hp => exact .inl ⟨_, hp, serveHeap_frees op lc hbm⟩
  | none =>
    cases shelf : ((s.part n).mem.heaps.get (heapIx be true)).free q.arg.toNat (s.part n).launched with
    | some hp =>
      refine .inl ⟨heapIx be true, hp, ?_⟩
      simp only [serveHeap, op, hbm, shelf]
      refine returnBe_of_lc ?_
      rw [modThread_part, part_modPart_same]
      exact lc
    | none =>
      refine .inr ?_
      simp only [serveHeap, op, hbm, shelf]
      rfl

theorem thread_countAllocFail (n : Nat) (be : Bool) (s : State) (k j : Nat) : (countAllocFail n be s).thread k j = s.thread k j := rfl

theorem mem_countAllocFail (n : Nat) (be : Bool) (s : State) (m : Nat) : ((countAllocFail n be s).part m).mem = (s.part m).mem := by
  refine part_modPart_keeps Part.mem (fun p => ?_) n s m
  split
  · rfl
  · rfl

theorem thread_answered (g : Thread → Thread) (s : State) : (s.modThread l t g).thread l t = g (s.thread l t) := by
  rw [thread_modThread, if_pos ⟨rfl, rfl⟩]

/-- Whatever a request comes to, its thread has its answer, and the order of the requests stands (R215). -/
theorem serveHeap_answers (lc : (s.part n).runLc.isSome = true) : ((serveHeap n l t be q s).part n).mem.heapQ = (s.part n).mem.heapQ ∧
    ∃ v ok, (serveHeap n l t be q s).thread l t = (s.thread l t).answer q v ok := by
  have alloc : ∀ shelf : Bool, q.op = (if shelf then .allocS else .allocH) → ((serveHeap n l t be q s).part n).mem.heapQ = (s.part n).mem.heapQ ∧
      ∃ v ok, (serveHeap n l t be q s).thread l t = (s.thread l t).answer q v ok := by
    intro shelf op
    rcases served : ((s.part n).mem.heaps.get (heapIx be shelf)).alloc q.arg.toNat with ⟨hp, c | a⟩
    · rw [serveHeap_refuses op served, mem_countAllocFail, modThread_part, thread_countAllocFail, thread_answered]
      exact ⟨rfl, _, _, rfl⟩
    · rw [serveHeap_allocates op served, modThread_part, part_modPart_same, thread_answered, modPart_thread]
      exact ⟨rfl, _, _, rfl⟩
  cases op : q.op with
  | allocH => exact alloc false op
  | allocS => exact alloc true op
  | free =>
    rcases serveHeap_free_cases op lc with ⟨i, hp, freed⟩ | unknown
    · rw [freed, modThread_part, part_modPart_same, thread_answered, modPart_thread]
      exact ⟨rfl, _, _, rfl⟩
    · rw [unknown, modThread_part, thread_answered]
      exact ⟨rfl, _, _, rfl⟩

end

theorem heapReqs_answer (q : HeapReq) (v : DWord) (ok : Bool) (h : Thread) : (h.answer q v ok).heapReqs = h.heapReqs := by
  rw [Thread.answer, heapReqs_setP, heapReqs_setS]

/-- The heap controller has taken the oldest request, `rest` and `rs` wait behind it (R215). -/
def heapTaken (n l t : Nat) (rest : List Nat) (rs : List HeapReq) (s : State) : State :=
  (s.modPart n (Part.setHeapQ rest)).modThread l t (Thread.setReqs rs)

section
variable {n l t : Nat} {rest : List Nat} {rs : List HeapReq} {s : State}

theorem thread_heapTaken : (heapTaken n l t rest rs s).thread l t = (s.thread l t).setReqs rs := thread_answered ..

theorem part_heapTaken : (heapTaken n l t rest rs s).part n = (s.part n).setHeapQ rest := by
  rw [heapTaken, modThread_part, part_modPart_same]

end

/-- With an LC job loaded, an answer serves the oldest request alone. -/
theorem heapAnswer_serves {p : PartId} {l : Nat} {ix : Fin 8} {rest : List Nat} {r : HeapReq} {rs : List HeapReq} {s : State}
    (queue : (s.part p.val).mem.heapQ = (8 * l + ix.val) :: rest) (reqs : (s.thread l ix.val).heapReqs = r :: rs)
    (lc : (s.part p.val).runLc.isSome = true) :
    exec (.heapAnswer p) s = .next (serveHeap p.val l ix.val (s.isBe l ix.val) r (heapTaken p.val l ix.val rest rs s)) := by
  have ember : (8 * l + ix.val) / 8 = l := by omega
  have thread : (8 * l + ix.val) % 8 = ix.val := by omega
  have nothing : returnBe p.val (s.modPart p.val (Part.setHeapQ rest)) = s.modPart p.val (Part.setHeapQ rest) :=
    returnBe_of_lc (by rw [part_modPart_same]; exact lc)
  rw [exec_heapAnswer, execHeapAnswer, queue]
  dsimp only
  rw [ember, thread]
  unfold Part.setHeapQ at nothing
  rw [nothing, modPart_thread, reqs]
  rfl

/-! ### The capability table (R108, R424) -/

theorem heapIx_eq (be shelf : Bool) : heapIx be shelf = (if be then 2 else 0) + if shelf then 1 else 0 := by
  rw [heapIx, b2n_mul, b2n]

theorem capEntry_beyond {s : State} {n i : Nat} {be : Bool} (h : 26 ≤ i) : capEntry s (some n) be i = 0 := by
  have value : ∀ v : Nat, v = 0 → BitVec.ofNat 64 v = 0#64 := fun v e => by rw [e]
  refine value _ ?_
  rw [if_neg (by omega), if_neg (by omega)]
  dsimp only
  split
  · rfl
  · split <;> omega

theorem capEntry_step {s : State} {n : Nat} {be : Bool} (h : (s.part n).hasCtx = true) :
    capEntry s (some n) be 17 = BitVec.ofNat 64 (s.part n).step.count.toNat := by
  simp [capEntry, h]

end Sys2Proof.Machine

namespace Sys2Proof

open Machine

/-- Settles O12: a request joins two queues, its answer is one of the outcomes of a heap, and the table is read by its entries. -/
theorem allocatorRequests : Obligations.AllocatorRequests := by
  intro x f s h n asks
  have joins : ∀ {minor : Nat} {c : Instr} {op : HeapOp}, exec c s = .next (issueHeap minor op x f s) → asks minor c op := by
    intro minor c op hc hi room pred low
    refine ⟨_, issueHeap_asks hc hi room pred low, fun m hm => ?_, fun l i other => ?_, ?_, ?_, ?_⟩
    · rw [part_stepped, part_modPart_ne (Ne.symm hm), modAt_part]
    · rw [thread_stepped other, modPart_thread, other_modAt other]
    · rw [thrAt_stepped, thrAt, modPart_thread, ← thrAt, thrAt_modAt]
      rfl
    · rw [part_stepped, part_modPart_same]
      rfl
    · rw [part_stepped, part_modPart_same]
      rfl
  refine ⟨joins rfl, joins rfl, joins rfl, ?answer, ?caprd, fun hp k a => alloc_ok⟩
  case answer =>
    intro p ix l rest r rs queue reqs lc be heap
    have lc' : ((heapTaken p.val l ix.val rest rs s).part p.val).runLc.isSome = true := by
      rw [part_heapTaken]
      exact lc
    obtain ⟨order, v, ok, answered⟩ := serveHeap_answers (l := l) (t := ix.val) (be := be) (q := r) lc'
    rw [part_heapTaken] at order
    refine ⟨_, heapAnswer_serves queue reqs lc, order, ?_, fun shelf op => ⟨fun bad => ?_, fun a served => ?_⟩, fun op hp freed => ?_⟩
    · rw [answered, heapReqs_answer, thread_heapTaken]
      rfl
    · rw [serveHeap_refuses op (alloc_refused ?_), thread_countAllocFail, thread_answered, thread_heapTaken]
      · rfl
      · rw [part_heapTaken, heapIx_eq]
        exact bad
    · have served' : ((heapTaken p.val l ix.val rest rs s).part p.val).mem.heaps.get (heapIx be shelf) = heap shelf := by
        rw [part_heapTaken, heapIx_eq]
        rfl
      obtain ⟨-, -, -, -, -, -, base, -⟩ := alloc_ok served
      have alloc : (heap shelf).alloc r.arg.toNat = (((heap shelf).alloc r.arg.toNat).1, .ok a) := Prod.ext rfl served
      generalize ((heap shelf).alloc r.arg.toNat).1 = hp at alloc base ⊢
      rw [← served'] at alloc
      rw [serveHeap_allocates op alloc, thread_answered, modPart_thread, thread_heapTaken, base, modThread_part, part_modPart_same,
        part_heapTaken, heapIx_eq]
      exact ⟨rfl, rfl⟩
    · have freed' : (((heapTaken p.val l ix.val rest rs s).part p.val).mem.heaps.get (heapIx be false)).free r.arg.toNat
          ((heapTaken p.val l ix.val rest rs s).part p.val).launched = some hp := by
        rw [part_heapTaken, heapIx_eq]
        exact freed
      rw [serveHeap_frees op lc' freed', thread_answered, modPart_thread, thread_heapTaken, modThread_part, part_modPart_same, part_heapTaken, heapIx_eq]
      exact ⟨rfl, rfl⟩
  case caprd =>
    intro hi room i
    obtain ⟨t, run, own, frame⟩ := becomes_stepped (c := .caprd x f) rfl hi room rfl rfl (stepOne_setS ..)
    have entry : ∀ {k : Nat} {v : DWord}, i = k → capEntry s (some n) (beAt s x) k = v → capEntry s (some n) (beAt s x) i = v :=
      fun at_ e => by rw [at_, e]
    exact ⟨t, _, run, frame, own, fun h => entry h rfl, fun h => entry h rfl, fun h => entry h rfl, fun h => entry h rfl, capEntry_beyond,
      fun h loaded => entry h (capEntry_step loaded)⟩

end Sys2Proof
end

section
/-! Device-virtual loads and stores and FENCE.V (R97, R203, R225), and O7. -/

namespace Sys2Proof.Machine

/-! ### What outside changes to lines leave alone -/

theorem ember_of_onlyPart {n : Nat} {s t : State} (h : OnlyPart n s t) (k : Nat) : t.ember k = s.ember k := by
  obtain ⟨same, -⟩ := h
  rw [← same]
  rfl

theorem thrAt_of_onlyPart {n : Nat} {s t : State} (h : OnlyPart n s t) (x : Site) : thrAt t x = thrAt s x := by
  rw [thrAt, thrAt, State.thread, State.thread, ember_of_onlyPart h]

theorem partOf_of_onlyPart {n : Nat} {s t : State} (h : OnlyPart n s t) (k : Nat) : t.partOf k = s.partOf k := by
  obtain ⟨same, -⟩ := h
  rw [← same]
  rfl

/-- Outside changes to lines of a partition change nothing but the lines that it lists as changed (R240). -/
theorem strikeLines_struck (n : Nat) (flips : List LineFlip) (s : State) : OnlyPart n s (strikeLines n flips s) ∧
    ∃ ext, (strikeLines n flips s).part n = { s.part n with prot := { (s.part n).prot with ext := ext } } := by
  induction flips generalizing s with
  | nil => exact ⟨onlyPart_refl n s, (s.part n).prot.ext, rfl⟩
  | cons f fs ih =>
    obtain ⟨frame, ext, struck⟩ := ih (strikeLines n [f] s)
    refine ⟨onlyPart_trans (onlyPart_mod ..) frame, ext, struck.trans ?_⟩
    rw [strikeLines, List.foldl_cons, List.foldl_nil, part_modPart_same]

/-! ### Accesses that stall on nothing -/

/-- A page with no bank-out under way is not touched (R209). -/
theorem touchPage_still {n page : Nat} {s : State} (h : ∀ e, (s.part n).mem.pages.get page = some e → ∀ k, e.busy ≠ .bankOut k) :
    touchPage n page s = s := by
  unfold touchPage
  split
  case h_1 e at_page =>
    split
    · exact absurd (by assumption) (h e at_page _)
    · rfl
  case h_2 => rfl

/-- An access that stalls on nothing goes on with its frame, and leaves the state as it was (R97, R205). -/
theorem withVirtual_through {x : Site} {a : DWord} {size : Nat} {write : Bool} {fr : Nat} {s : State} (k : Nat → State → Eff)
    (h : GoesThrough s x a size write fr) : withVirtual x a size write k s = k fr s := by
  obtain ⟨aligned, low, translated, cached, noMeta, still, awake, -⟩ := h
  have hit : lookup (x.e.val / 1600) (partAt s x) (a.toNat / pageBytes) (some (beAt s x)) (threadReader x a s) s = (s, true) := if_pos cached
  unfold withVirtual
  rw [if_neg (not_not.2 aligned), if_neg (not_le.2 low)]
  simp only [hit]
  rw [if_neg (by rw [partAt, noMeta]; decide)]
  simp only [partAt, translated, awake, Bool.not_true, Bool.false_eq_true, if_false, touchPage_still still]

/-- An instruction whose command changes the state before it issues, acts and steps on. -/
theorem exec_steppedFrom {c : Instr} {s s1 u : State} {x : Site} {w : DWord} {f : BitVec 52} {ss ps : List Nat} {room : State → Bool}
    {body : State → Eff} (hc : exec c s = .next (issue x w f ss ps room none body s1)) (hi : issuable s1 x w f ss ps = true) (hr : room s1 = true)
    (hb : body s1 = .ok u) (h1 : (thrAt u x).stepOne = (thrAt s1 x).stepOne) : exec c s = .next (stepped x u) :=
  hc.trans (congrArg Host.Outcome.next (issuable_next hi hr rfl hb h1))

/-! ### What the memory holds -/

@[simp] theorem length_openLine (s : State) (n line : Nat) (st : StoredLine) : (openLine s n line st).length = 128 := length_leBytes ..

/-- The plain bytes of a list of changed lines over a memory: at each address the first change of its line, else the memory. -/
theorem get_changedLines (s : State) (n b : Nat) (m : Memory) (es : List LineFlip) :
    (es.foldr (fun f m => m.write (128 * f.line) (openLine s n f.line f.stored)) m).get b =
      match (es.find? fun f => decide (f.line = b / 128)).map (·.stored) with
      | some st => (m.write (128 * (b / 128)) (openLine s n (b / 128) st)).get b
      | none => m.get b := by
  induction es with
  | nil => rfl
  | cons f es ih =>
    rw [List.foldr_cons]
    by_cases here : f.line = b / 128
    · have inside : 128 * (b / 128) ≤ b ∧ b - 128 * (b / 128) < (openLine s n (b / 128) f.stored).length := by
        rw [length_openLine]; omega
      rw [List.find?_cons_of_pos (by exact decide_eq_true here), here, Memory.get_write, dif_pos inside]
      exact ((Memory.get_write ..).trans (dif_pos inside)).symm
    · rw [List.find?_cons_of_neg (by exact fun e => here (of_decide_eq_true e)), Memory.get_write_outside _ _ (by rw [length_openLine]; omega), ih]

/-- What the partition reads at an address: what its line decrypts to where something outside has changed it, else the byte that it holds. -/
theorem get_plain (s : State) (n b : Nat) : (s.plain n).get b = match s.extLine n (b / 128) with
    | some st => ((s.part n).mem.hbm.write (128 * (b / 128)) (openLine s n (b / 128) st)).get b
    | none => (s.part n).mem.hbm.get b :=
  get_changedLines s n b ..

theorem onlyPart_takeLine (n line : Nat) (s : State) : OnlyPart n s (takeLine n line s) := by
  unfold takeLine
  split
  · exact onlyPart_refl n s
  · exact onlyPart_mod ..

/-- A line that is taken holds what the partition reads of it; the other bytes stay (R225). -/
theorem get_takeLine (n line : Nat) (s : State) (b : Nat) :
    ((takeLine n line s).part n).mem.hbm.get b = if b / 128 = line then (s.plain n).get b else (s.part n).mem.hbm.get b := by
  by_cases here : b / 128 = line
  · rw [if_pos here, get_plain, here, takeLine]
    cases s.extLine n line with
    | none => rfl
    | some st => rw [part_modPart_same]
  · rw [if_neg here]
    unfold takeLine
    split
    · rfl
    · rw [part_modPart_same]
      exact Memory.get_write_outside _ _ (by rw [length_openLine]; omega)

/-- A store within one good line: its line holds the bytes stored over what the partition reads of it, and nothing but the partition changes
(R224, R225). -/
theorem putHbm_stores {n pa size v : Nat} {r : Reader} {s : State} (some_ : size ≠ 0) (oneLine : pa % 128 + size ≤ 128)
    (good : s.badOf n (pa / 128) = none) : ∃ t, putHbm n pa (leBytes size v) r s = (t, true) ∧ OnlyPart n s t ∧
      ∀ b, (t.part n).mem.hbm.get b = if b / 128 = pa / 128 then stored (s.plain n) pa size v b else (s.part n).mem.hbm.get b := by
  have bytes : leBytes size v ≠ [] := fun e => some_ (by rw [← length_leBytes size v, e, List.length_nil])
  refine ⟨_, putHbm_line bytes (by rwa [length_leBytes]) (.inr good),
    onlyPart_trans (onlyPart_takeLine ..) (onlyPart_trans (onlyPart_mod ..) (onlyPart_mod ..)), fun b => ?_⟩
  rw [hbm_storeMark, part_modPart_same, get_write_leBytes, get_takeLine, stored]
  by_cases here : b / 128 = pa / 128
  · rw [if_pos here, if_pos here]
  · rw [if_neg here, if_neg here, if_neg (by omega)]

/-- The lines of an access that goes through are good. -/
theorem linesGood_of_goesThrough {s : State} {x : Site} {a : DWord} {size : Nat} {write : Bool} {fr : Nat} (h : GoesThrough s x a size write fr) :
    ∀ l ∈ linesOf ((s.part (partAt s x)).pa fr a.toNat) size, s.badOf (partAt s x) l = none := by
  obtain ⟨-, -, -, -, -, -, -, good⟩ := h
  exact good

/-- An aligned access lies in one line of 128 bytes: a page starts at one (R97, R204). -/
theorem oneLine_of_aligned {p : Part} {fr a k : Nat} (aligned : a % 2 ^ k = 0) (small : k < 4) : p.pa fr a % 128 + 2 ^ k ≤ 128 := by
  rw [Part.pa, pageBytes]
  interval_cases k <;> simp only [Nat.reducePow] at aligned ⊢ <;> omega

theorem mem_linesOf {pa len l : Nat} : l ∈ linesOf pa len ↔ len ≠ 0 ∧ pa / 128 ≤ l ∧ l ≤ (pa + len - 1) / 128 := by
  unfold linesOf
  by_cases empty : len = 0
  · simp [empty]
  · rw [if_neg empty, List.mem_map]
    constructor
    · rintro ⟨i, hi, rfl⟩
      have := List.mem_range.1 hi
      omega
    · rintro ⟨-, first, last⟩
      exact ⟨l - pa / 128, List.mem_range.2 (by omega), by omega⟩

theorem mem_linesOf_first {pa size : Nat} (h : size ≠ 0) : pa / 128 ∈ linesOf pa size := mem_linesOf.2 ⟨h, Nat.le_refl _, by omega⟩

/-! ### LDV and STV -/

/-- The thread with one more load outstanding, whose value is settled (R97). -/
def Thread.awaitLoad (rd : Nat) (v : DWord) (h : Thread) : Thread := { h with loads := h.loads ++ [{ rd := rd, value := v }] }

/-- LDV notes the value that the memory holds, for its answer to write (R97). -/
theorem ldv_goes {x : Site} {minor : Fin 8} {f : BitVec 52} {flips : List LineFlip} {s s1 : State} {fr : Nat}
    (struck : strikeLines (partAt s x) flips s = s1) (hi : issuable s1 x (insnWord 0x0A minor.val f) f [fRd f, fRa f] [] = true)
    (room : (thrAt s1 x).requests < 8) (through : GoesThrough s1 x ((thrAt s1 x).sReg (fRa f) + fImm f) (2 ^ (minor.val % 4)) false fr) :
    exec (.ldv x minor f flips) s = .next (stepped x (modAt x (Thread.awaitLoad (fRd f) (extend (2 ^ (minor.val % 4)) (decide (4 ≤ minor.val))
      ((s1.plain (partAt s1 x)).num ((s1.part (partAt s1 x)).pa fr ((thrAt s1 x).sReg (fRa f) + fImm f).toNat) (2 ^ (minor.val % 4))))) s1)) := by
  subst struck
  refine exec_steppedFrom rfl hi (decide_eq_true room) ((withVirtual_through _ through).trans ?_) (by rw [thrAt_modAt]; rfl)
  simp only [readHbm_good (linesGood_of_goesThrough through)]
  rfl

/-- STV stores the low bytes of RD and counts a store that is not accepted yet (R97). -/
theorem stv_goes {x : Site} {minor : Fin 4} {f : BitVec 52} {flips : List LineFlip} {s s1 u : State} {fr : Nat}
    (struck : strikeLines (partAt s x) flips s = s1) (hi : issuable s1 x (insnWord 0x0A (8 + minor.val) f) f [fRd f, fRa f] [] = true)
    (room : (thrAt s1 x).requests < 8) (through : GoesThrough s1 x ((thrAt s1 x).sReg (fRa f) + fImm f) (2 ^ minor.val) true fr)
    (writable : (s1.part (partAt s1 x)).writable fr = true)
    (counts : s1.counterFull (partAt s1 x) ((s1.part (partAt s1 x)).pa fr ((thrAt s1 x).sReg (fRa f) + fImm f).toNat) (2 ^ minor.val) = false)
    (put : putHbm (partAt s1 x) ((s1.part (partAt s1 x)).pa fr ((thrAt s1 x).sReg (fRa f) + fImm f).toNat)
      (leBytes (2 ^ minor.val) ((thrAt s1 x).sReg (fRd f)).toNat) (threadReader x ((thrAt s1 x).sReg (fRa f) + fImm f) s1) s1 = (u, true))
    (own : thrAt u x = thrAt s1 x) :
    exec (.stv x minor f flips) s = .next (stepped x (modAt x (fun h => { h with stores := h.stores + 1, stall := false }) u)) := by
  subst struck
  refine exec_steppedFrom rfl hi (decide_eq_true room) ((withVirtual_through _ through).trans ?_) (by rw [thrAt_modAt, own])
  simp only [writable, counts, put, Bool.not_true, Bool.false_eq_true, if_false]

/-- The answer to an outstanding load writes RD and ends it (R97). -/
theorem ldvAnswer_writes {x : Site} {i : Fin 8} {l : PendLoad} {s : State} (h : (thrAt s x).loads[i.val]? = some l) :
    exec (.ldvAnswer x i) s = .next (modAt x (fun h => { h with loads := h.loads.eraseIdx i.val, s := h.s.set l.rd l.value }) s) := by
  refine congrArg Host.Outcome.next ?_
  rw [h]

end Sys2Proof.Machine

namespace Sys2Proof
open Machine

/-- Settles O7: an access that stalls on nothing reads or writes the memory as `strikeLines` leaves it, which changes the lines that the partition
lists as changed and nothing else. -/
theorem deviceVirtualAccess : Obligations.DeviceVirtualAccess := by
  unfold Obligations.DeviceVirtualAccess
  intro x f flips s n h a s1
  obtain ⟨struck, ext, same⟩ := strikeLines_struck n flips s
  have own : thrAt s1 x = h := thrAt_of_onlyPart struck x
  have part : partAt s1 x = n := partOf_of_onlyPart struck x.e.val
  have pa_eq (fr a : Nat) : (s1.part n).pa fr a = (s.part n).pa fr a := by rw [same]; rfl
  refine ⟨?load, ?store, ?answer, ⟨_, rfl, onlyThread_modAt .., thrAt_modAt ..⟩, ?fence⟩
  case load =>
    intro minor fr size hi room through v
    refine ⟨_, ldv_goes (s1 := s1) rfl hi (own ▸ room) (by rw [own]; exact through), onlyThread_stepped (onlyThread_modAt ..), ?_⟩
    rw [thrAt_stepped, thrAt_modAt, part, own, extend_eq, pa_eq]
    rfl
  case store =>
    intro minor fr size pa hi room through writable counts
    have good := linesGood_of_goesThrough through
    rw [part, pa_eq] at good
    obtain ⟨u, put, frame, bytes⟩ := putHbm_stores (v := (h.sReg (fRd f)).toNat) (r := threadReader x a s1) (Nat.two_pow_pos _).ne'
      (oneLine_of_aligned through.1 minor.isLt) (good _ (mem_linesOf_first (Nat.two_pow_pos _).ne'))
    have kept : thrAt u x = h := (thrAt_of_onlyPart frame x).trans own
    refine ⟨_, stv_goes (s1 := s1) (u := u) rfl hi (own ▸ room) (by rw [own]; exact through) (by rw [part, same]; exact writable)
      (by rw [part, pa_eq, own]; exact counts)
      (by rw [part, pa_eq, own]; exact put) (kept.trans own.symm), ?_, fun b => ?_, fun m hm => ?_, fun k hk => ?_⟩
    · rw [thrAt_stepped, thrAt_modAt, kept]
      rfl
    · rw [part_stepped, modAt_part, bytes, same]
    · rw [part_stepped, modAt_part, frame.2 m hm, struck.2 m hm]
    · rw [ember_stepped_ne hk, modAt, State.modThread, ember_modEmber, if_neg (Ne.symm hk), ember_of_onlyPart frame, ember_of_onlyPart struck]
  case answer => exact fun i l loaded => ⟨_, ldvAnswer_writes loaded, onlyThread_modAt .., thrAt_modAt ..⟩
  case fence =>
    intro hi none low
    obtain ⟨t, runs, own, frame⟩ := becomes_stepped_same (c := .fenceV x f) rfl hi (decide_eq_true none) (reserved_of (decide_eq_true low)) rfl
    exact ⟨t, runs, frame, own⟩

end Sys2Proof
end

section
/-! Reports of contributions, the step record and void steps (R189, R190, R196), for O30. -/

namespace Sys2Proof.Machine

/-! ### A lone frame of an inbox -/

/-- The one frame of an inbox is taken where it is due: no drop marker stands before it (R194). -/
theorem takeFrame_lone {n f : Nat} {fr : Frame} {due : Frame → Bool} {s : State} (lone : (s.part n).inbox = [(f, fr)]) (h : due fr = true) :
    takeFrame n due s = some (f, fr, taken n (f, fr) s) := by
  have free : behindMark [] [(f, fr)] = [] := by simp [behindMark]
  have found : [(f, fr)].find? (fun e => due e.2 && decide (e.2 ∉ ([] : List Frame))) = some (f, fr) :=
    List.find?_cons_of_pos (by simp [h])
  simp only [takeFrame, lone, free, found]
  rfl

/-- It stays where it is not due. -/
theorem takeFrame_undue {n f : Nat} {fr : Frame} {due : Frame → Bool} {s : State} (lone : (s.part n).inbox = [(f, fr)]) (h : due fr = false) :
    takeFrame n due s = none := by
  have missing (late : List Frame) : [(f, fr)].find? (fun e => due e.2 && decide (e.2 ∉ late)) = none := by simp [h]
  simp only [takeFrame, lone, missing]

/-! ### The step record -/

/-- The slots that a record drops (R190). -/
def droppedSlots (s : State) (n nmb : Nat) : List Nat := (List.range nmb).filter fun j => !contributes s n j

theorem mem_droppedSlots {s : State} {n nmb j : Nat} : j ∈ droppedSlots s n nmb ↔ j < nmb ∧ contributes s n j = false := by
  rw [droppedSlots, List.mem_filter, List.mem_range, Bool.not_eq_true']

theorem length_droppedSlots_le (s : State) (n nmb : Nat) : (droppedSlots s n nmb).length ≤ nmb :=
  (List.length_filter_le ..).trans_eq List.length_range

/-- The carriers of a slot rest on the torus and on the admission alone (R189). -/
theorem carriersOf_congr {s t : State} {n : Nat} (fab : t.fab = s.fab) (adm : (t.part n).adm = (s.part n).adm) :
    carriersOf t n = carriersOf s n := by
  have dim : t.dim = s.dim := by
    funext k
    rw [State.dim, State.dim, fab]
  have slots : slotOf t = slotOf s := by
    funext a p
    simp only [slotOf, dim]
  funext slot
  simp only [carriersOf, State.jobPositions, dim, slots, adm]

theorem contributes_congr {s t : State} {n : Nat} (fab : t.fab = s.fab) (adm : (t.part n).adm = (s.part n).adm)
    (reports : (t.part n).stk.reports = (s.part n).stk.reports) (j : Nat) : contributes t n j = contributes s n j := by
  rw [contributes, contributes, carriersOf_congr fab adm, reports]

/-- The record that the job stoker issues (R190). -/
def stepRecord (s : State) (n : Nat) (c : Launch) : StepRec :=
  { step := (s.part n).step.count, epoch := (s.part n).epoch, lineage := (s.part n).tree.lineage, nmb := c.nmb
    ncontrib := c.nmb - (droppedSlots s n c.nmb).length, replay := false, dropped := droppedSlots s n c.nmb
    req := (planOffers c (s.part n).stk (s.part n).step.count.toNat (droppedSlots s n c.nmb)).1 }

/-- The stoker keeps the record that it issues, and what is still to offer (R190, R198). -/
def Part.recordIssued (r : StepRec) (rest : List (Nat × ReqEntry)) (p : Part) : Part :=
  { p with stk := { p.stk with issued := some r, measuring := false, voids := 0, records := p.stk.records ++ [r], requeue := rest } }

/-- Everything that the job stoker does as it issues a record (R190). -/
theorem issueRecord_eq {n : Nat} {x : Context} {s : State} (job : lcJob s n = some x) : issueRecord n s =
    sendFrame n none .ctrl (.steprec (stepRecord s n x.launch)) (s.modPart n (Part.recordIssued (stepRecord s n x.launch)
      (planOffers x.launch (s.part n).stk (s.part n).step.count.toNat (droppedSlots s n x.launch.nmb)).2)) := by
  unfold issueRecord
  simp only [job]
  rfl

/-- From `s` to `t` the stoker of partition `n` has issued the record of its step: the slots that do not contribute are dropped, and the record goes to
every module of the job (R190). -/
def RecordIssued (n : Nat) (c : Launch) (s t : State) : Prop :=
  ∃ r, (t.part n).stk.issued = some r ∧ r.step = (s.part n).step.count ∧ r.epoch = (s.part n).epoch ∧ r.nmb = c.nmb ∧ r.replay = false ∧
    (∀ j, j ∈ r.dropped ↔ j < c.nmb ∧ contributes t n j = false) ∧ r.ncontrib + r.dropped.length = c.nmb ∧ (t.part n).stk.measuring = false ∧
    Sends n s t [(none, .ctrl, .steprec r)]

theorem issueRecord_issues {n : Nat} {x : Context} {s : State} (job : lcJob s n = some x) (may : MaySend s n) :
    RecordIssued n x.launch s (issueRecord n s) := by
  have issued := issueRecord_eq job
  generalize (planOffers x.launch (s.part n).stk (s.part n).step.count.toNat (droppedSlots s n x.launch.nmb)).2 = rest at issued
  have part : (issueRecord n s).part n = (s.part n).recordIssued (stepRecord s n x.launch) rest := by
    rw [issued, sendFrame_part, part_modPart_same]
  have fab : (issueRecord n s).fab = s.fab := by rw [issued, sendFrame_fab, modPart_fab]
  have slots (j : Nat) : contributes (issueRecord n s) n j = contributes s n j :=
    contributes_congr fab (by rw [part]; rfl) (by rw [part]; rfl) j
  refine ⟨stepRecord s n x.launch, by rw [part]; rfl, rfl, rfl, rfl, rfl, fun j => ?_,
    Nat.sub_add_cancel (length_droppedSlots_le ..), by rw [part]; rfl, ?_⟩
  · rw [slots]
    exact mem_droppedSlots
  · have may' : MaySend (s.modPart n (Part.recordIssued (stepRecord s n x.launch) rest)) n := by
      rw [MaySend, part_modPart_same]
      exact may
    rw [issued, sendFrame_of_may may']
    simp only [Sends, SendsVia, headed, part_modPart_same, State.logicalPos]
    rfl

/-! ### Reports -/

/-- The stoker notes the carrier that a report names (R189). -/
def Part.noteReport (origin : Pos) (p : Part) : Part :=
  { p with stk := { p.stk with reports := if origin ∈ p.stk.reports then p.stk.reports else p.stk.reports ++ [origin] } }

theorem mem_noteReport {origin q : Pos} {p : Part} : q ∈ (p.noteReport origin).stk.reports ↔ q = origin ∨ q ∈ p.stk.reports := by
  unfold Part.noteReport
  dsimp only
  split
  · next known =>
    constructor
    · exact .inr
    · rintro (rfl | there)
      · exact known
      · exact there
  · rw [List.mem_append, List.mem_singleton, or_comm]

section
variable {n : PartId} {f slot : Nat} {fr : Frame} {origin : Pos} {s : State} (lone : (s.part n.val).inbox = [(f, fr)])
  (body : fr.body = .contrib slot origin)
include lone body

/-- A partition that is not the job stoker passes a report on (R189). -/
theorem contribReport_passes (other : isJobStoker s n.val = false) : exec (.contribReport n) s =
    .next (sendFrame n.val (some (s.part n.val).jobStoker) .ctrl (.contrib slot origin) (taken n.val (f, fr) s)) := by
  have run : exec (.contribReport n) s = execContribReport n s := rfl
  rw [run, execContribReport]
  dsimp only
  rw [takeFrame_lone lone (by simp [body, other])]
  simp only [body, taken_isJobStoker, other, Bool.not_false, if_true]

section
variable {x : Context} (stoker : isJobStoker s n.val = true) (current : fr.step = (s.part n.val).step.count) (running : (s.part n.val).step.held = false)
  (open_ : (s.part n.val).stk.issued = none) (job : lcJob s n.val = some x) (thawed : (s.part n.val).jobFrozen = false)
include stoker current running open_ job thawed

/-- The job stoker notes the carrier, and issues the record once every slot contributes (R189, R190). -/
theorem contribReport_notes : exec (.contribReport n) s =
    let u := (taken n.val (f, fr) s).modPart n.val (Part.noteReport origin)
    .next (if decide (x.launch.nmb ≠ 0) && (List.range x.launch.nmb).all (fun j => contributes u n.val j) then issueRecord n.val u else u) := by
  have run : exec (.contribReport n) s = execContribReport n s := rfl
  have step : fr.step = (s.part n.val).lcStep := by rw [Part.lcStep, running, current]; rfl
  have job' : lcJob ((taken n.val (f, fr) s).modPart n.val (Part.noteReport origin)) n.val = some x := by
    rw [← job, lcJob, part_modPart_same, taken_part]
    rfl
  rw [run, execContribReport]
  dsimp only
  rw [takeFrame_lone lone (by simp [body, step])]
  have acts : ¬ (fr.step ≠ (s.part n.val).lcStep ∨ (s.part n.val).step.held = true ∨ (s.part n.val).stk.issued.isSome = true ∨
      (s.part n.val).jobFrozen = true) := by
    simp [step, running, open_, thawed]
  unfold Part.noteReport at job'
  simp only [body, taken_isJobStoker, stoker, Bool.not_true, Bool.false_eq_true, if_false, if_neg acts, job']
  rfl

end

end

/-- The partition after its stoker has noted the report of a frame. -/
theorem noted_part {n f : Nat} {fr : Frame} {origin : Pos} {s : State} :
    ((taken n (f, fr) s).modPart n (Part.noteReport origin)).part n = ((s.part n).dropFrame (f, fr)).noteReport origin := by
  rw [part_modPart_same, taken_part]

/-- The slots that contribute once a report is noted (R189). -/
theorem contributes_noted {n f j : Nat} {fr : Frame} {origin : Pos} {s : State} :
    contributes ((taken n (f, fr) s).modPart n (Part.noteReport origin)) n j = true ↔
      ∀ q ∈ carriersOf s n j, q = origin ∨ q ∈ (s.part n).stk.reports := by
  have carriers : carriersOf ((taken n (f, fr) s).modPart n (Part.noteReport origin)) n = carriersOf s n :=
    carriersOf_congr rfl (by rw [noted_part]; rfl)
  rw [contributes, List.all_eq_true, carriers]
  refine forall₂_congr fun q _ => ?_
  rw [decide_eq_true_eq, noted_part, mem_noteReport]
  rfl

theorem noted_lcJob {n f : Nat} {fr : Frame} {origin : Pos} {s : State} :
    lcJob ((taken n (f, fr) s).modPart n (Part.noteReport origin)) n = lcJob s n := by
  rw [lcJob, noted_part]
  rfl

/-- The state with a report noted sends, and issues its record, as the partition did (R257). -/
theorem recordIssued_of_noted {n f : Nat} {fr : Frame} {origin : Pos} {c : Launch} {s t : State}
    (h : RecordIssued n c ((taken n (f, fr) s).modPart n (Part.noteReport origin)) t) : RecordIssued n c s t := by
  simp only [RecordIssued, Sends, SendsVia, State.logicalPos, noted_part] at h
  exact h

section
variable {n : PartId} {f slot : Nat} {fr : Frame} {origin : Pos} {x : Context} {s : State} (lone : (s.part n.val).inbox = [(f, fr)])
  (body : fr.body = .contrib slot origin) (stoker : isJobStoker s n.val = true) (current : fr.step = (s.part n.val).step.count)
  (running : (s.part n.val).step.held = false) (open_ : (s.part n.val).stk.issued = none) (job : lcJob s n.val = some x)
  (thawed : (s.part n.val).jobFrozen = false)
include lone body stoker current running open_ job thawed

/-- The report that makes every slot contribute issues the record (R190). -/
theorem contribReport_issues (may : MaySend s n.val) (slots : x.launch.nmb ≠ 0)
    (all : ∀ j, j < x.launch.nmb → ∀ q ∈ carriersOf s n.val j, q = origin ∨ q ∈ (s.part n.val).stk.reports) :
    ∃ t, exec (.contribReport n) s = .next t ∧ RecordIssued n.val x.launch s t := by
  have every : (decide (x.launch.nmb ≠ 0) && (List.range x.launch.nmb).all fun j =>
      contributes ((taken n.val (f, fr) s).modPart n.val (Part.noteReport origin)) n.val j) = true := by
    rw [Bool.and_eq_true, decide_eq_true_eq, List.all_eq_true]
    exact ⟨slots, fun j hj => contributes_noted.2 (all j (List.mem_range.1 hj))⟩
  have runs : exec (.contribReport n) s = .next (issueRecord n.val ((taken n.val (f, fr) s).modPart n.val (Part.noteReport origin))) :=
    (contribReport_notes lone body stoker current running open_ job thawed).trans (congrArg Host.Outcome.next (if_pos every))
  have may' : MaySend ((taken n.val (f, fr) s).modPart n.val (Part.noteReport origin)) n.val := by
    rw [MaySend, noted_part]
    exact may
  exact ⟨_, runs, recordIssued_of_noted (issueRecord_issues (noted_lcJob.trans job) may')⟩

/-- A report with which some slot does not contribute yet is noted (R189). -/
theorem contribReport_waits {j : Nat} {q : Pos} (slot_ : j < x.launch.nmb) (carrier : q ∈ carriersOf s n.val j) (ne : q ≠ origin)
    (missing : q ∉ (s.part n.val).stk.reports) :
    exec (.contribReport n) s = .next ((taken n.val (f, fr) s).modPart n.val (Part.noteReport origin)) := by
  have notes := contribReport_notes lone body stoker current running open_ job thawed
  refine notes.trans (congrArg Host.Outcome.next (if_neg fun every => ?_))
  rw [Bool.and_eq_true, List.all_eq_true] at every
  obtain ⟨-, all⟩ := every
  rcases contributes_noted.1 (all j (List.mem_range.2 slot_)) q carrier with same | known
  · exact ne same
  · exact missing known

end

/-! ### The deadline -/

/-- A step that is void is counted, and no deadline is measured for it (R196). -/
def Part.countVoid (p : Part) : Part := { p with stk := { p.stk with voids := p.stk.voids + 1, measuring := false } }

section
variable {n : PartId} {x : Context} {s : State} (job : lcJob s n.val = some x) (stoker : isJobStoker s n.val = true)
  (measuring : (s.part n.val).stk.measuring = true) (open_ : (s.part n.val).stk.issued = none) (thawed : (s.part n.val).jobFrozen = false)
  (deadline : x.launch.deadlineUs ≠ 0)
include job stoker measuring open_ thawed deadline

/-- At the deadline the record is issued, or the step is void (R190, R196). -/
theorem stepDeadline_expires : exec (.stepDeadline n) s =
    .next (if ((List.range x.launch.nmb).filter fun j => contributes s n.val j).length < x.launch.minContrib then voidStep n.val s
      else issueRecord n.val s) := by
  have run : exec (.stepDeadline n) s = execStepDeadline n s := rfl
  rw [run, execStepDeadline]
  simp only [job, stoker, measuring, open_, thawed, Bool.not_true, Option.isSome_none, Bool.or_self, Bool.false_or, decide_eq_true_eq]
  rw [if_neg deadline]

end

/-- A void step is counted, and orders an abort under the next epoch from the partition's own position (R196, R464). -/
theorem voidStep_eq {n : Nat} {s : State} : voidStep n s = orderAbort n 4 (s.logicalPos n) (s.part n).step.count (s.modPart n Part.countVoid) := by
  have pos : (s.modPart n Part.countVoid).logicalPos n = s.logicalPos n := by
    rw [State.logicalPos, part_modPart_same]
    rfl
  rw [← pos]
  rfl

/-- The order of a void step, its count and the epoch that it ends (R196, R464). -/
theorem voidStep_orders {n : PartId} {s : State} (room : (s.part n.val).stk.epoch.toNat < 2 ^ 32 - 1) (may : MaySend s n.val) :
    let t := voidStep n.val s
    (t.part n.val).stk.voids = (s.part n.val).stk.voids + 1 ∧ (t.part n.val).stk.issued = (s.part n.val).stk.issued ∧
      (t.part n.val).stk.epoch = (s.part n.val).stk.epoch + 1 ∧
      t.outHold.map (fun e => (e.1, e.2.epoch, e.2.dst, e.2.body)) = s.outHold.map (fun e => (e.1, e.2.epoch, e.2.dst, e.2.body)) ++
        [(n.val, (s.part n.val).stk.epoch, none, .abort true 4 ((s.part n.val).stk.epoch + 1) (s.part n.val).step.count (s.logicalPos n.val))] := by
  have counted : (s.modPart n.val Part.countVoid).part n.val = (s.part n.val).countVoid := part_modPart_same ..
  have part : ((s.modPart n.val Part.countVoid).modPart n.val Part.nextEpoch).part n.val = (s.part n.val).countVoid.nextEpoch := by
    rw [part_modPart_same, counted]
  have ordered := orderAbort_of_may (n := n) (cause := 4) (origin := s.logicalPos n.val) (step := (s.part n.val).step.count)
    (u := s.modPart n.val Part.countVoid) (by rw [counted]; exact room) (by rw [MaySend, part]; exact may)
  rw [voidStep_eq, ordered, counted]
  refine ⟨congrArg (·.stk.voids) part, congrArg (·.stk.issued) part, congrArg (·.stk.epoch) part, ?_⟩
  rw [List.map_append]
  rfl

end Sys2Proof.Machine
end

section
/-! A write of several lines that pass their checks (R224, R225), for O30. -/

namespace Sys2Proof.Machine

/-! ### What the check of a line rests on -/

/-- From `s` to `t` nothing changes but partition `n`, whose lines decrypt and check as before: of what the checks rest on, the write counts alone
may have grown (R224, R235, R374). -/
def ChecksKept (n : Nat) (s t : State) : Prop :=
  OnlyPart n s t ∧ ((t.part n).prot.kgen = (s.part n).prot.kgen ∧ (t.part n).prot.mgen = (s.part n).prot.mgen) ∧
    (∀ r, ((t.part n).prot.regions.get r).epoch = ((s.part n).prot.regions.get r).epoch ∧
      ((t.part n).prot.regions.get r).kgen = ((s.part n).prot.regions.get r).kgen) ∧ ∀ pa, s.rwcOf n pa ≤ t.rwcOf n pa

theorem ChecksKept.trans {n : Nat} {s t u : State} (h : ChecksKept n s t) (k : ChecksKept n t u) : ChecksKept n s u := by
  obtain ⟨only, ⟨kgen, mgen⟩, regions, counts⟩ := h
  obtain ⟨only', ⟨kgen', mgen'⟩, regions', counts'⟩ := k
  exact ⟨onlyPart_trans only only', ⟨kgen'.trans kgen, mgen'.trans mgen⟩,
    fun r => ⟨(regions' r).1.trans (regions r).1, (regions' r).2.trans (regions r).2⟩, fun pa => (counts pa).trans (counts' pa)⟩

theorem passNew_of_onlyPart {n : Nat} {s t : State} (h : OnlyPart n s t) (pa : Nat) : t.passNew n pa = s.passNew n pa := by
  obtain ⟨same, -⟩ := h
  rw [← same]
  rfl

theorem lineNew_of_onlyPart {n : Nat} {s t : State} (h : OnlyPart n s t) (pa : Nat) : t.lineNew n pa = s.lineNew n pa := by
  rw [State.lineNew, State.lineNew, passNew_of_onlyPart h]

theorem dieOf_of_onlyPart {n : Nat} {s t : State} (h : OnlyPart n s t) (pa : Nat) : t.dieOf pa = s.dieOf pa := by
  obtain ⟨same, -⟩ := h
  rw [← same]
  rfl

theorem memKeys_of_onlyPart {n : Nat} {s t : State} (h : OnlyPart n s t) (mg : Nat) : memKeys t n mg = memKeys s n mg := by
  obtain ⟨same, -⟩ := h
  rw [← same]
  rfl

/-- With the same protection of its partition, the write counts are the same. -/
theorem rwcOf_of_prot {n : Nat} {s t : State} (h : OnlyPart n s t) (prot : (t.part n).prot.regions = (s.part n).prot.regions) (pa : Nat) :
    t.rwcOf n pa = s.rwcOf n pa := by
  rw [State.rwcOf, State.rwcOf, prot, lineNew_of_onlyPart h, dieOf_of_onlyPart h]

/-- A change to a partition that leaves its keys' generations and its regions as they were. -/
theorem ChecksKept.of_regions {n : Nat} {s t : State} (h : OnlyPart n s t) (kgen : (t.part n).prot.kgen = (s.part n).prot.kgen)
    (mgen : (t.part n).prot.mgen = (s.part n).prot.mgen) (regions : (t.part n).prot.regions = (s.part n).prot.regions) : ChecksKept n s t :=
  ⟨h, ⟨kgen, mgen⟩, fun r => by rw [regions]; exact ⟨rfl, rfl⟩, fun pa => (rwcOf_of_prot h regions pa).ge⟩

section
variable {n : Nat} {s t : State} (h : ChecksKept n s t)
include h

theorem ChecksKept.epochOf (pa : Nat) : t.epochOf n pa = s.epochOf n pa := by
  obtain ⟨only, -, regions, -⟩ := h
  rw [State.epochOf, State.epochOf, lineNew_of_onlyPart only]
  simp only [(regions _).1]

theorem ChecksKept.mgOf (pa : Nat) : t.mgOf n pa = s.mgOf n pa := by
  obtain ⟨only, ⟨kgen, mgen⟩, regions, -⟩ := h
  rw [State.mgOf, State.mgOf, passNew_of_onlyPart only]
  simp only [(regions _).2, kgen, mgen]

theorem ChecksKept.lineTag {line : Nat} {ct : BitVec 1024} {lcnt : BitVec 48} : lineTag t n line ct lcnt = lineTag s n line ct lcnt := by
  unfold Machine.lineTag
  rw [memKeys_of_onlyPart h.1, h.mgOf, h.epochOf]

/-- A stored line that passes its checks still passes them. -/
theorem ChecksKept.classify {line : Nat} {st : StoredLine} (good : classify s n line st = none) : classify t n line st = none := by
  have counts := h.2.2.2 (128 * line)
  have tag : ¬ st.tag ≠ Machine.lineTag s n line st.ct st.lcnt → ¬ st.tag ≠ Machine.lineTag t n line st.ct st.lcnt := by
    rw [h.lineTag]
    exact id
  unfold Machine.classify at good ⊢
  by_cases crc : st.crc ≠ lineCrc line st.ct st.tag st.lcnt
  · rw [if_pos crc] at good
    exact absurd good (Option.some_ne_none _)
  · rw [if_neg crc] at good ⊢
    by_cases low : s.rwcOf n (128 * line) < st.lcnt.toNat
    · rw [if_pos low] at good
      exact absurd good (Option.some_ne_none _)
    · rw [if_neg low] at good
      rw [if_neg (fun above => low (counts.trans_lt above))]
      by_cases bad : st.tag ≠ Machine.lineTag s n line st.ct st.lcnt
      · rw [if_pos bad] at good
        exact absurd good (Option.some_ne_none _)
      · exact if_neg (tag bad)

theorem ChecksKept.badOf {line : Nat} (ext : t.extLine n line = s.extLine n line) (good : s.badOf n line = none) : t.badOf n line = none := by
  unfold State.badOf at good ⊢
  rw [Option.bind_eq_none_iff] at good ⊢
  exact fun st changed => h.classify (good st (ext.symm.trans changed))

end

/-! ### Storing one line -/

theorem checksKept_takeLine (n line : Nat) (s : State) : ChecksKept n s (takeLine n line s) := by
  refine .of_regions (onlyPart_takeLine ..) ?_ ?_ ?_
  all_goals
    unfold takeLine
    split
    · rfl
    · rw [part_modPart_same]

/-- A region whose count of a die, of the values that apply, moves on from `c` (R224, R235). -/
def Region.takeCount (new : Bool) (d c : Nat) (r : Region) : Region :=
  if new then { r with rwcNew := r.rwcNew.set d (c + 1) } else { r with rwc := r.rwc.set d (c + 1) }

theorem takeCount_values (new : Bool) (d c : Nat) (r : Region) : (r.takeCount new d c).epoch = r.epoch ∧ (r.takeCount new d c).kgen = r.kgen := by
  cases new
  · exact ⟨rfl, rfl⟩
  · exact ⟨rfl, rfl⟩

/-- The count of a die, before or in a pass, after one of them has moved on. -/
theorem takeCount_le {new new' : Bool} {d d' c : Nat} {r : Region} (h : c = if new then r.rwcNew.get d else r.rwc.get d) :
    (if new' then r.rwcNew.get d' else r.rwc.get d') ≤
      if new' then (r.takeCount new d c).rwcNew.get d' else (r.takeCount new d c).rwc.get d' := by
  have moved (t : Tab Nat) (now : c = t.get d) : t.get d' ≤ (t.set d (c + 1)).get d' := by
    rw [Tab.get_set]
    split
    · next same => rw [← same, ← now]; exact Nat.le_succ c
    · exact Nat.le_refl _
  subst h
  cases new
  · cases new'
    · exact moved _ rfl
    · exact Nat.le_refl _
  · cases new'
    · exact Nat.le_refl _
    · exact moved _ rfl

theorem part_storeMark (n line : Nat) (s : State) : (storeMark n line s).part n = { s.part n with prot := { (s.part n).prot with
    lcnt := (s.part n).prot.lcnt.set line (s.rwcOf n (128 * line))
    ext := (s.part n).prot.ext.filter fun f => decide (f.line ≠ line)
    faultLines := (s.part n).prot.faultLines.upd (s.dieOf (128 * line)) fun l => l.filter fun x => decide (x ≠ line)
    regions := (s.part n).prot.regions.upd (128 * line / pageBytes)
      (Region.takeCount (s.lineNew n (128 * line)) (s.dieOf (128 * line)) (s.rwcOf n (128 * line))) } } :=
  part_modPart_same ..

/-- A line that is stored whole takes a value of its die's count: no count falls (R224). -/
theorem rwcOf_storeMark (n line : Nat) (s : State) (pa : Nat) : s.rwcOf n pa ≤ (storeMark n line s).rwcOf n pa := by
  have only : OnlyPart n s (storeMark n line s) := onlyPart_mod ..
  simp only [State.rwcOf.eq_1 (storeMark n line s), part_storeMark, lineNew_of_onlyPart only, dieOf_of_onlyPart only, Tab.get_upd_at]
  by_cases region : 128 * line / pageBytes = pa / pageBytes
  · rw [if_pos region]
    exact takeCount_le (by rw [← region]; rfl)
  · rw [if_neg region]
    exact Nat.le_refl _

theorem checksKept_storeMark (n line : Nat) (s : State) : ChecksKept n s (storeMark n line s) := by
  refine ⟨onlyPart_mod .., ?_, fun r => ?_, rwcOf_storeMark n line s⟩
  · rw [part_storeMark]
    exact ⟨rfl, rfl⟩
  · rw [part_storeMark]
    dsimp only
    rw [Tab.get_upd_at]
    split
    · exact takeCount_values ..
    · exact ⟨rfl, rfl⟩

/-- The state after the bytes `bs` at `pa` have entered their line, which is stored whole (R224, R225). -/
def lineStored (n pa : Nat) (bs : List Byte) (s : State) : State :=
  storeMark n (pa / 128) ((takeLine n (pa / 128) s).modPart n fun p => { p with mem := { p.mem with hbm := p.mem.hbm.write pa bs } })

theorem writeLine_good {n pa : Nat} {bs : List Byte} {r : Reader} {s : State} (good : s.badOf n (pa / 128) = none) :
    writeLine n pa bs r s = (lineStored n pa bs s, true) := by
  have passes : (if bs.length = 128 then none else s.badOf n (pa / 128)) = none := by rw [good, ite_self]
  unfold writeLine
  simp only [passes]
  rfl

/-- From `s` to `t` nothing changes but the bytes of partition `n`'s HBM and its protection. -/
def OnlyHbm (n : Nat) (s t : State) : Prop :=
  OnlyPart n s t ∧ { t.part n with mem := { (t.part n).mem with hbm := (s.part n).mem.hbm }, prot := (s.part n).prot } = s.part n

theorem OnlyHbm.refl (n : Nat) (s : State) : OnlyHbm n s s := ⟨onlyPart_refl n s, rfl⟩

theorem OnlyHbm.trans {n : Nat} {s t u : State} (h : OnlyHbm n s t) (k : OnlyHbm n t u) : OnlyHbm n s u := by
  obtain ⟨only, part⟩ := h
  obtain ⟨only', part'⟩ := k
  refine ⟨onlyPart_trans only only', ?_⟩
  rw [← part'] at part
  exact part

/-- What a partition keeps, beside the bytes of its HBM and its protection. -/
theorem OnlyHbm.keeps {α : Type} (g : Part → α) (hg : ∀ p hbm prot, g { p with mem := { p.mem with hbm := hbm }, prot := prot } = g p) {n : Nat}
    {s t : State} (h : OnlyHbm n s t) : g (t.part n) = g (s.part n) := by
  obtain ⟨-, part⟩ := h
  rw [← hg (t.part n), part]

theorem onlyHbm_takeLine (n line : Nat) (s : State) : OnlyHbm n s (takeLine n line s) := by
  unfold takeLine
  split
  · exact .refl n s
  · exact ⟨onlyPart_mod .., by rw [part_modPart_same]⟩

theorem onlyHbm_lineStored (n pa : Nat) (bs : List Byte) (s : State) : OnlyHbm n s (lineStored n pa bs s) := by
  unfold lineStored
  generalize taken : takeLine n (pa / 128) s = u
  have first : OnlyHbm n s u := taken ▸ onlyHbm_takeLine n (pa / 128) s
  exact (first.trans ⟨onlyPart_mod .., by rw [part_modPart_same]⟩).trans ⟨onlyPart_mod .., by rw [part_storeMark]⟩

theorem checksKept_lineStored (n pa : Nat) (bs : List Byte) (s : State) : ChecksKept n s (lineStored n pa bs s) := by
  refine ((checksKept_takeLine n (pa / 128) s).trans (.of_regions (onlyPart_mod ..) ?_ ?_ ?_)).trans (checksKept_storeMark ..)
  all_goals rw [part_modPart_same]

/-- Storing a line leaves what stands in place of another (R240). -/
theorem extLine_lineStored {n pa line : Nat} {bs : List Byte} {s : State} (other : line ≠ pa / 128) :
    (lineStored n pa bs s).extLine n line = s.extLine n line := by
  have kept (es : List LineFlip) : (es.filter fun f => decide (f.line ≠ pa / 128)).find? (fun f => decide (f.line = line)) =
      es.find? fun f => decide (f.line = line) := by
    rw [List.find?_filter]
    congr 1
    funext f
    by_cases here : f.line = line
    · simp [here, other]
    · simp [here]
  have taken : (takeLine n (pa / 128) s).extLine n line = s.extLine n line := by
    unfold takeLine
    split
    · rfl
    · rw [State.extLine, part_modPart_same, State.extLine, kept]
  rw [← taken, State.extLine, State.extLine, lineStored, part_storeMark, kept, part_modPart_same]

/-- The bytes of HBM after a line is stored: those that entered it, and outside the line those before. -/
theorem get_lineStored {n pa : Nat} {bs : List Byte} {s : State} {b : Nat} :
    ((lineStored n pa bs s).part n).mem.hbm.get b = if h : pa ≤ b ∧ b - pa < bs.length then bs[b - pa]'h.2
      else if b / 128 = pa / 128 then (s.plain n).get b else (s.part n).mem.hbm.get b := by
  rw [lineStored, hbm_storeMark, part_modPart_same]
  dsimp only
  rw [Memory.get_write, get_takeLine]

/-! ### Storing several lines -/

/-- A write whose lines pass their checks stores all its bytes, and none below its first line (R224, R225). -/
theorem writeHbm_stores {n : Nat} {r : Reader} (fuel pa : Nat) (bs : List Byte) (s : State) (enough : bs.length < fuel)
    (good : ∀ l ∈ linesOf pa bs.length, s.badOf n l = none) : let t := (writeHbm fuel n pa bs r s).1
    OnlyHbm n s t ∧ (∀ i, i < bs.length → (t.part n).mem.hbm.get (pa + i) = bs.getD i 0) ∧
      ∀ b, bs = [] ∨ b / 128 < pa / 128 → (t.part n).mem.hbm.get b = (s.part n).mem.hbm.get b := by
  induction fuel generalizing pa bs s with
  | zero => exact absurd enough (Nat.not_lt_zero _)
  | succ fuel ih =>
    rw [writeHbm]
    by_cases empty : bs = []
    · subst empty
      exact ⟨.refl n s, fun i hi => absurd hi (Nat.not_lt_zero i), fun _ _ => rfl⟩
    · have some_ : 0 < bs.length := List.length_pos_iff.2 empty
      rw [if_neg (by simp [empty])]
      obtain ⟨k, hk⟩ : ∃ k, k = 128 - pa % 128 := ⟨_, rfl⟩
      simp only [← hk, writeLine_good (good (pa / 128) (mem_linesOf.2 (by omega)))]
      have size : (bs.take k).length = min k bs.length := List.length_take
      have rest : (bs.drop k).length = bs.length - k := List.length_drop
      obtain ⟨only, bytes, below⟩ := ih (pa + (bs.take k).length) (bs.drop k) (lineStored n pa (bs.take k) s) (by omega) fun l hl => by
        obtain ⟨more, first, last⟩ := mem_linesOf.1 hl
        exact (checksKept_lineStored ..).badOf (extLine_lineStored (by omega)) (good l (mem_linesOf.2 (by omega)))
      have before (b : Nat) (hb : b < pa + (bs.take k).length) : bs.drop k = [] ∨ b / 128 < (pa + (bs.take k).length) / 128 := by
        by_cases last : bs.length ≤ k
        · exact .inl (List.drop_of_length_le last)
        · exact .inr (by omega)
      refine ⟨(onlyHbm_lineStored ..).trans only, fun i hi => ?_, fun b hb => ?_⟩
      · by_cases later : k ≤ i
        · have byte := bytes (i - k) (by omega)
          have at_ : pa + (bs.take k).length + (i - k) = pa + i := by omega
          rw [at_] at byte
          rw [byte]
          simp [Nat.add_sub_cancel' later]
        · have inside : pa ≤ pa + i ∧ pa + i - pa < (bs.take k).length := by omega
          rw [below _ (before _ (by omega)), get_lineStored, dif_pos inside]
          simp [List.getD_eq_getElem?_getD, hi]
      · have low := hb.resolve_left empty
        rw [below b (before b (by omega)), get_lineStored, dif_neg (by omega), if_neg (by omega)]

/-- The device's own write to a frame whose lines pass their checks stores all its bytes. -/
theorem deviceWrite_stores {n f off : Nat} {bs : List Byte} {s : State} (good : ∀ l ∈ linesOf (f * pageBytes + off) bs.length, s.badOf n l = none) :
    OnlyHbm n s (deviceWrite n f off bs s) ∧
      ∀ i, i < bs.length → ((deviceWrite n f off bs s).part n).mem.hbm.get (f * pageBytes + off + i) = bs.getD i 0 := by
  obtain ⟨only, bytes, -⟩ := writeHbm_stores (r := .sweep) (bs.length + 1) (f * pageBytes + off) bs s (Nat.lt_succ_self _) good
  exact ⟨only, bytes⟩

end Sys2Proof.Machine
end

section
/-! What a signal and a drop release leave of a partition (R100, R193), for O30. -/

namespace Sys2Proof.Machine

/-! ### A context in RUN -/

/-- A change to a context that keeps its state keeps whether a class runs (R417). -/
theorem inRun_modCtx {f : Context → Context} (h : ∀ x, (f x).st = x.st) (c : Nat) (p : Part) (be : Bool) : (p.modCtx c f).inRun be = p.inRun be := by
  have running : (p.modCtx c f).running be = p.running be := rfl
  rw [Part.inRun, Part.inRun, Part.runCtx, Part.runCtx, running]
  cases p.running be with
  | none => rfl
  | some k =>
    rw [Option.bind_some, Option.bind_some, Part.ctx, Part.ctx, Part.modCtx, Tab.get_upd_at]
    by_cases here : c = k
    · rw [if_pos here]
      cases (p.ctxs.get k).obj with
      | none => rfl
      | some x => exact congrArg (fun st => decide (st = CtxState.run)) (h x)
    · rw [if_neg here]

section
variable {α : Type} (g : Part → α)

/-- What survives a change of queues and events of a partition survives the answer to a command. -/
structure KeepsAnswers : Prop where
  queues : ∀ c q (r : Ring → Ring) p, g (Part.modCtx c (fun x => { x with queues := x.queues.upd q fun o => o.map r }) p) = g p
  events : ∀ p evts, g { p with evts := evts } = g p

variable {g} (keeps : KeepsAnswers g)
include keeps

theorem KeepsAnswers.modRing (f : Nat) (r : RingId) (k : Ring → Ring) (s : State) (m : Nat) : g ((s.modRing f r k).part m) = g (s.part m) := by
  cases r with
  | admin => rfl
  | queue c q => exact part_modPart_keeps g (keeps.queues c.val q.val k) (fnPart f) s m

theorem KeepsAnswers.ringDone (f : Nat) (r : RingId) (b : Busy) (status detail : Nat) (arg : DWord) (s : State) (m : Nat) :
    g ((ringDone f r b status detail arg s).part m) = g (s.part m) := by
  unfold Machine.ringDone
  split
  · rfl
  · dsimp only
    split
    · rw [hostRecord_part]
      exact keeps.modRing ..
    · exact keeps.modRing ..

theorem KeepsAnswers.signalEvent (fuel n h add : Nat) (s : State) (m : Nat) : g ((signalEvent fuel n h add s).part m) = g (s.part m) := by
  induction fuel generalizing n h add s with
  | zero => rfl
  | succ fuel ih =>
    unfold Machine.signalEvent
    split
    · rfl
    · split
      · rfl
      · refine (foldl_keeps (fun s => g (s.part m)) _ (fun s e => ?_) _ _).trans ?_
        · obtain ⟨c, q, b⟩ := e
          dsimp only
          split
          · exact (ih ..).trans (keeps.ringDone ..)
          · exact keeps.ringDone ..
        · split
          · rw [emit_part, partRecord_part]
            exact part_modPart_keeps g (fun p => keeps.events p _) n s m
          · exact part_modPart_keeps g (fun p => keeps.events p _) n s m

theorem KeepsAnswers.completeCmd (f : Nat) (r : RingId) (b : Busy) (status detail : Nat) (arg : DWord) (s : State) (m : Nat) :
    g ((completeCmd f r b status detail arg s).part m) = g (s.part m) := by
  unfold Machine.completeCmd
  dsimp only
  split
  · exact (keeps.signalEvent ..).trans (keeps.ringDone ..)
  · exact keeps.ringDone ..

variable (sems : ∀ p sems, g { p with sems := sems } = g p)
include sems

theorem KeepsAnswers.semServe (fuel n key : Nat) (s : State) (m : Nat) : g ((semServe fuel n key s).part m) = g (s.part m) := by
  have taken (v : Sem) (s : State) : g ((s.modPart n (Part.setSem key v)).part m) = g (s.part m) :=
    part_modPart_keeps g (f := Part.setSem key v) (fun p => sems p _) n s m
  induction fuel generalizing s with
  | zero => rfl
  | succ fuel ih =>
    unfold Machine.semServe
    dsimp only
    split
    · rfl
    · next w ws _ =>
      split
      · refine (ih _).trans (Eq.trans ?_ (taken { ((s.part n).sems.get key).take w.need with waiters := ws } s))
        split
        · exact congrArg (fun ps : Tab Part => g (ps.get m)) (parts_wake ..)
        · split
          · exact keeps.completeCmd ..
          · rfl
      · rfl

variable (reported : ∀ p, g { p with step := { p.step with contributed := true } } = g p)
include reported

/-- What a signal to a semaphore leaves of a partition (R100, R189). -/
theorem KeepsAnswers.semSignal (n key k : Nat) (s : State) (m : Nat) : g ((semSignal n key k s).part m) = g (s.part m) := by
  unfold Machine.semSignal
  dsimp only
  refine (keeps.semServe sems ..).trans ?_
  have added : g ((s.modPart n fun p => { p with sems := p.sems.upd key (Sem.add k) }).part m) = g (s.part m) :=
    part_modPart_keeps (f := fun p => { p with sems := p.sems.upd key (Sem.add k) }) g (fun p => sems p _) n s m
  refine Eq.trans ?_ added
  unfold contribute
  dsimp only
  split
  · rfl
  · split
    · rw [sendFrame_part]
      exact part_modPart_keeps g reported ..
    · rfl

end

/-! ### A drop release -/

/-- The step controller and the HBM of a partition. -/
def Part.stepAndHbm (p : Part) : StepState × Memory := (p.step, p.mem.hbm)

theorem endParks_stepAndHbm (n : Nat) (q : Nat → Nat → Bool) (s : State) (m : Nat) : ((endParks n q s).part m).stepAndHbm = (s.part m).stepAndHbm := by
  refine foldl_keeps (fun s : State => (s.part m).stepAndHbm) _
    (fun s l => foldl_keeps (fun s : State => (s.part m).stepAndHbm) _ (fun s t => ?_) _ _) _ _
  split
  · refine part_modPart_keeps Part.stepAndHbm (fun p => ?_) n s.takeFree.2 m
    dsimp only
    split
    · rfl
    · rfl
  · rfl

theorem recallLc_parts (n : Nat) (s : State) : (recallLc n s).parts = s.parts := by
  unfold recallLc
  dsimp only
  rw [foldl_keeps State.parts]
  intro s f
  rfl

theorem discardLc_stepAndHbm (n : Nat) (s : State) (m : Nat) : ((discardLc n s).part m).stepAndHbm = (s.part m).stepAndHbm := by
  unfold discardLc
  dsimp only
  rw [part_modPart_keeps Part.stepAndHbm, mapEmbers_part, endParks_stepAndHbm, State.part, recallLc_parts, State.part]
  intro p
  rfl

theorem freeSlots_parts (f : Nat) (vc : Vc) (n flits : Nat) (s : State) : (freeSlots f vc n flits s).parts = s.parts := by
  unfold freeSlots
  split
  · rfl
  · rfl

theorem dropArrived_stepAndHbm (n : Nat) (q : Frame → Bool) (s : State) (m : Nat) :
    ((dropArrived n q s).part m).stepAndHbm = (s.part m).stepAndHbm := by
  have freed (l : List (Nat × Frame)) : ((l.foldl (fun s e => freeSlots e.1 e.2.vc n (lastFlits e.2.body) s) s).part m).stepAndHbm =
      (s.part m).stepAndHbm := by
    rw [State.part, foldl_keeps State.parts _ (fun _ _ => freeSlots_parts ..), State.part]
  unfold dropArrived bufMark
  dsimp only
  rw [part_modPart_keeps Part.stepAndHbm, part_modPart_keeps Part.stepAndHbm, freed]
  · intro p
    rfl
  · intro p
    rfl

theorem setGroupCount_parts (n : Nat) (be : Bool) (k count : Nat) (s : State) : (setGroupCount n be k count s).parts = s.parts := by
  unfold setGroupCount
  split
  · rfl
  · refine foldl_keeps State.parts _ (fun s e => foldl_keeps State.parts _ (fun s t => ?_) _ _) _ _
    split
    · rfl
    · rfl

/-- A drop release counts itself, and sets the step's start back (R193). -/
def StepState.dropReleased (b : StepState) : StepState :=
  { b with first := none, released := true, selfDrops := satAdd b.selfDrops 1, selfOvf := b.selfOvf || satOvf b.selfDrops 1 }

theorem dropRelease_stepAndHbm {n : Nat} {x : Context} {s : State} (job : lcJob s n = some x) :
    ((dropRelease n s).part n).stepAndHbm = ((s.part n).step.dropReleased, (s.part n).mem.hbm) := by
  have counted (u : State) (h : (u.part n).stepAndHbm = (s.part n).stepAndHbm) :
      ((u.modPart n fun p => { p with step := p.step.dropReleased }).part n).stepAndHbm = ((s.part n).step.dropReleased, (s.part n).mem.hbm) := by
    rw [part_modPart_same]
    exact congrArg (fun b : StepState × Memory => (b.1.dropReleased, b.2)) h
  unfold dropRelease
  simp only [job]
  rw [State.part, foldl_keeps State.parts _ (fun _ _ => sendFrame_parts ..), ← State.part]
  refine counted _ ?_
  unfold heapsToStart
  dsimp only
  rw [part_modPart_keeps Part.stepAndHbm, State.part, foldl_keeps State.parts, ← State.part, mapEmbers_part, dropArrived_stepAndHbm, discardLc_stepAndHbm]
  · intro s g
    exact setGroupCount_parts ..
  · intro p
    rfl

end Sys2Proof.Machine
end

section
/-! The arrival of a step record, drop markers and the boundary (R101, R191, R193, R194), and O30. -/

namespace Sys2Proof.Machine

/-! ### The record's arrival -/

/-- The step controller takes a record, counts its drops and notes its delay (R191). -/
def Part.takeRecord (r : StepRec) (us : Word) (p : Part) : Part := { p with
  step := { p.step with
    record := some r, nmb := BitVec.ofNat 16 r.nmb, ncontrib := BitVec.ofNat 16 r.ncontrib
    dropTotal := satAdd p.step.dropTotal r.dropped.length, dropOvf := p.step.dropOvf || satOvf p.step.dropTotal r.dropped.length
    lastDelay := us, lastVoid := none }
  stk := { p.stk with records :=
    if p.stk.records.any (fun q => decide (q.step = r.step)) then p.stk.records else p.stk.records ++ [r] } }

/-- A page whose frame is no span unit and has counters left is written by the device (R191). -/
theorem putStepPage_writes {n a g : Nat} {bs : List Byte} {s : State} (mapped : (s.part n).translate a false = .frame g)
    (plain : (s.part n).unitOf g = none) (room : s.frameFull n g = false) :
    putStepPage n a bs s = (deviceWrite n g (a % pageBytes) bs s, true) := by
  simp only [putStepPage, mapped, plain, room, Bool.false_eq_true, if_false]

/-- What a partition does once the record has been written to its step page: it takes the record, signals STEP_SEM_REC, and is released where its
slot is dropped and no abort is under way (R191, R193, R460). -/
def recordTaken (n : Nat) (c : Launch) (r : StepRec) (us : Word) (s : State) : State :=
  let t := semSignal n c.semRec 1 (s.modPart n (Part.takeRecord r us))
  if decide (c.slot ∈ r.dropped) && (t.part n).abort.request.isNone then dropRelease n t else t

/-- What a signal leaves of a partition: the step controller but for its own contribution, HBM, the abort and whether LC work runs. -/
def Part.unsignalled (p : Part) : StepState × Memory × AbortState × Bool := ({ p.step with contributed := true }, p.mem.hbm, p.abort, p.inRun false)

theorem semSignal_unsignalled (n key k : Nat) (s : State) (m : Nat) : ((semSignal n key k s).part m).unsignalled = (s.part m).unsignalled := by
  have keeps : KeepsAnswers Part.unsignalled :=
    ⟨fun c q r p => congrArg (fun b => ({ p.step with contributed := true }, p.mem.hbm, p.abort, b))
      (inRun_modCtx (f := fun x => { x with queues := x.queues.upd q fun o => o.map r }) (fun _ => rfl) c p false), fun _ _ => rfl⟩
  exact keeps.semSignal (fun _ _ => rfl) (fun _ => rfl) ..

/-- A signal that nobody waits for adds to its semaphore and serves no one (R100). -/
theorem semSignal_alone {n key k : Nat} {s : State} (alone : ((s.part n).sems.get key).waiters = []) :
    ((semSignal n key k s).part n).sems.get key = ((s.part n).sems.get key).add k := by
  have added : ((contribute n key k (s.modPart n fun p => { p with sems := p.sems.upd key (Sem.add k) })).part n).sems.get key =
      ((s.part n).sems.get key).add k := by
    rw [sems_contribute, part_modPart_same, Tab.get_upd_same]
  unfold semSignal
  dsimp only
  rw [added, waiters_add, alone]
  exact added

theorem isSome_lcJob (s : State) (n : Nat) : (lcJob s n).isSome = (s.part n).inRun false := by
  unfold lcJob Part.inRun
  cases (s.part n).runCtx false with
  | none => rfl
  | some x => exact (apply_ite Option.isSome ..).trans (by simp)

section
variable {n : Nat} {c : Launch} {r : StepRec} {us : Word} {s : State}

/-- The partition that has taken the record and given its signal, but for its own contribution. -/
theorem unsignalled_recorded : ((semSignal n c.semRec 1 (s.modPart n (Part.takeRecord r us))).part n).unsignalled =
    ((s.part n).takeRecord r us).unsignalled := by
  rw [semSignal_unsignalled, part_modPart_same]

/-- The record in the step controller, with its counts and its delay (R191). -/
theorem recordTaken_notes : let b := ((recordTaken n c r us s).part n).step
    b.record = some r ∧ b.dropTotal = satAdd (s.part n).step.dropTotal r.dropped.length ∧ b.lastDelay = us ∧
      ((recordTaken n c r us s).part n).mem.hbm = (s.part n).mem.hbm := by
  have recorded := unsignalled_recorded (n := n) (c := c) (r := r) (us := us) (s := s)
  simp only [Part.unsignalled, Prod.mk.injEq] at recorded
  obtain ⟨step, hbm, -, -⟩ := recorded
  unfold recordTaken
  dsimp only
  generalize semSignal n c.semRec 1 (s.modPart n (Part.takeRecord r us)) = t at step hbm ⊢
  have noted : (t.part n).step.record = some r ∧ (t.part n).step.dropTotal = satAdd (s.part n).step.dropTotal r.dropped.length ∧
      (t.part n).step.lastDelay = us ∧ (t.part n).mem.hbm = (s.part n).mem.hbm :=
    ⟨congrArg StepState.record step, congrArg StepState.dropTotal step, congrArg StepState.lastDelay step, hbm⟩
  split
  · cases job : lcJob t n with
    | none => rwa [dropRelease, job]
    | some x =>
      obtain ⟨released, same⟩ := Prod.mk.inj (dropRelease_stepAndHbm job)
      rw [released, same]
      exact noted
  · exact noted

theorem recordTaken_signals (alone : ((s.part n).sems.get c.semRec).waiters = []) (kept : decide (c.slot ∈ r.dropped) = false) :
    ((recordTaken n c r us s).part n).sems.get c.semRec = ((s.part n).sems.get c.semRec).add 1 := by
  have sems : ((s.modPart n (Part.takeRecord r us)).part n).sems = (s.part n).sems := by rw [part_modPart_same]; rfl
  unfold recordTaken
  dsimp only
  rw [kept, Bool.false_and, if_neg Bool.false_ne_true, semSignal_alone (by rwa [sems]), sems]

theorem recordTaken_releases (dropped : decide (c.slot ∈ r.dropped) = true) (quiet : (s.part n).abort.request = none)
    (runs : (s.part n).inRun false = true) : ((recordTaken n c r us s).part n).step.released = true ∧
      ((recordTaken n c r us s).part n).step.selfDrops = satAdd (s.part n).step.selfDrops 1 := by
  have recorded := unsignalled_recorded (n := n) (c := c) (r := r) (us := us) (s := s)
  simp only [Part.unsignalled, Prod.mk.injEq] at recorded
  obtain ⟨step, -, abort, run⟩ := recorded
  unfold recordTaken
  dsimp only
  generalize semSignal n c.semRec 1 (s.modPart n (Part.takeRecord r us)) = t at step abort run ⊢
  obtain ⟨x, job⟩ := Option.isSome_iff_exists.1 ((isSome_lcJob t n).trans (run.trans runs))
  obtain ⟨released, -⟩ := Prod.mk.inj (dropRelease_stepAndHbm job)
  have noRequest : (t.part n).abort.request.isNone = true := by rw [abort]; exact Option.isNone_iff_eq_none.2 quiet
  have drops : (t.part n).step.selfDrops = (s.part n).step.selfDrops := by
    have same := congrArg StepState.selfDrops step
    exact same
  rw [dropped, noRequest, Bool.and_self, if_pos rfl, released]
  exact ⟨rfl, by rw [StepState.dropReleased, drops]⟩

end

/-- A marker of the step that LC frames are checked against ends the discarding of its sender's frames (R194). -/
def Part.noteMark (fr : Frame) (p : Part) : Part := { p with step := { p.step with
  marked := if fr.step = p.lcStep then p.step.marked ++ [fr.src] else p.step.marked } }

section
variable {n : PartId} {f : Nat} {fr : Frame} {s : State} (lone : (s.part n.val).inbox = [(f, fr)])
include lone

theorem steprecFrame_arrives {x : Context} {r : StepRec} {us : Word} {g : Nat} (body : fr.body = .steprec r) (member : (s.part n.val).rl.role ≠ .standby)
    (running : (s.part n.val).step.held = false) (current : r.step = (s.part n.val).step.count) (job : lcJob s n.val = some x)
    (mapped : (s.part n.val).translate x.launch.stepPage.toNat false = .frame g) (plain : (s.part n.val).unitOf g = none)
    (room : (taken n.val (f, fr) s).frameFull n.val g = false) : exec (.steprecFrame n us) s =
    .next (recordTaken n.val x.launch r us (deviceWrite n.val g (x.launch.stepPage.toNat % pageBytes)
      (stepRecBytes r (decide (x.launch.slot ∈ r.dropped))) (taken n.val (f, fr) s))) := by
  have run : exec (.steprecFrame n us) s = execSteprecFrame n us s := rfl
  have written := putStepPage_writes (bs := stepRecBytes r (decide (x.launch.slot ∈ r.dropped))) (s := taken n.val (f, fr) s)
    (by rw [taken_part]; exact mapped) (by rw [taken_part]; exact plain) room
  generalize deviceWrite n.val g (x.launch.stepPage.toNat % pageBytes) (stepRecBytes r (decide (x.launch.slot ∈ r.dropped)))
    (taken n.val (f, fr) s) = u at written ⊢
  rw [run, execSteprecFrame]
  dsimp only
  rw [takeFrame_lone lone (by simp [body, member, running, current])]
  simp only [body, job, written, if_neg (not_not.2 current), recordTaken]
  unfold Part.takeRecord
  dsimp only

/-! ### Drop markers -/

theorem dropmarkFrame_due (body : fr.body = .dropmark) (current : fr.step = (s.part n.val).lcStep) (released : (s.part n.val).step.released = true) :
    exec (.dropmarkFrame n) s = .next ((taken n.val (f, fr) s).modPart n.val (Part.noteMark fr)) := by
  have run : exec (.dropmarkFrame n) s = execDropmarkFrame n s := rfl
  rw [run, execDropmarkFrame]
  dsimp only
  rw [takeFrame_lone lone (by simp [body, current, released])]
  rfl

/-- A marker of a step to come, or of this one before the partition's own drop release, waits (R194). -/
theorem dropmarkFrame_waits (early : (s.part n.val).lcStep.toNat < fr.step.toNat ∨
    fr.step = (s.part n.val).lcStep ∧ (s.part n.val).step.released = false) : exec (.dropmarkFrame n) s = .next s := by
  have run : exec (.dropmarkFrame n) s = execDropmarkFrame n s := rfl
  have undue : (decide (fr.step.toNat < (s.part n.val).lcStep.toNat) || (decide (fr.step = (s.part n.val).lcStep) && (s.part n.val).step.released)) =
      false := by
    rcases early with later | ⟨now, unreleased⟩
    · have ne : fr.step ≠ (s.part n.val).lcStep := fun e => absurd later (by rw [e]; exact lt_irrefl _)
      simp [ne, Nat.le_of_lt later]
    · simp [now, unreleased]
  rw [run, execDropmarkFrame]
  dsimp only
  rw [takeFrame_undue lone (by rw [undue, Bool.and_false])]

end

/-! ### The boundary -/

/-- The step counter takes RA + 1, and the partition is held (R101). -/
def Part.reachBoundary (ra : DWord) (p : Part) : Part := { p with step := { p.step with count := ra + 1, held := true } }

/-- A change to a partition that keeps its contexts keeps its LC job. -/
theorem lcJob_modPart {n : Nat} {g : Part → Part} (h : ∀ p, (g p).ctxs = p.ctxs ∧ (g p).runLc = p.runLc) (s : State) :
    lcJob (s.modPart n g) n = lcJob s n := by
  have same : (g (s.part n)).runCtx false = (s.part n).runCtx false := by
    obtain ⟨ctxs, running⟩ := h (s.part n)
    have ctx : (g (s.part n)).ctx = (s.part n).ctx := funext fun c => by rw [Part.ctx, Part.ctx, ctxs]
    simp only [Part.runCtx, Part.running, Bool.false_eq_true, if_false, running, ctx]
  rw [lcJob, lcJob, part_modPart_same, same]

/-- A boundary that the partition has come to, with no retirement pending (R80, R101). -/
theorem stepBoundary_reached {n : PartId} {ra : DWord} {s : State} (service : s.inService = true) (reached : allAtStep s n.val = true)
    (free : (s.part n.val).step.held = false) (recorded : stepRecWait s n.val = false) (first : (s.part n.val).step.first = some ra)
    (quiet : (s.embersWhere n.val fun m => m.retire.isSome) = []) : exec (.stepBoundary n) s =
    let u := s.modPart n.val (Part.reachBoundary ra)
    .next (tryRelease n.val (if imageHold s n.val then pauseClass n.val true (u.modPart n.val fun p => { p with pauseBe := true }) else u)) := by
  have run : exec (.stepBoundary n) s = execStepBoundary n s := rfl
  have retires : startRetires n.val (s.modPart n.val (Part.reachBoundary ra)) = s.modPart n.val (Part.reachBoundary ra) := by
    have none_ : ((s.modPart n.val (Part.reachBoundary ra)).embersWhere n.val fun m => m.retire.isSome) = [] := quiet
    rw [startRetires, none_, List.foldl_nil]
  unfold Part.reachBoundary at retires
  rw [run, execStepBoundary]
  simp only [service, reached, free, recorded, first, Bool.not_true, Bool.or_self, Bool.false_eq_true, if_false, retires]
  rfl

theorem imageHold_pauseClass (n : Nat) (be : Bool) (s : State) (m : Nat) : imageHold (pauseClass n be s) m = imageHold s m := by
  refine Eq.trans (b := imageHold (endParks n (fun l t => s.isBe l t == be) s) m) rfl ?_
  refine foldl_keeps (imageHold · m) _ (fun s l => foldl_keeps (imageHold · m) _ (fun s t => ?_) _ _) _ _
  split
  · rfl
  · rfl

/-- An armed image holds a partition at its boundary (R47, R436). -/
theorem tryRelease_image {n : Nat} {s : State} (armed : imageHold s n = true) : tryRelease n s = s := by
  have stays : (!(s.part n).step.held || boundaryHeld s n) = true := by simp [boundaryHeld, armed]
  exact if_pos stays

/-- A held partition that nothing holds and that has no span is released (R101). -/
theorem tryRelease_free {n : Nat} {s : State} (held : (s.part n).step.held = true) (free : boundaryHeld s n = false) (noSpan : hasSpan s n = false) :
    tryRelease n s = releaseStep n s := by
  have moves : ¬ (!(s.part n).step.held || boundaryHeld s n) = true := by simp [held, free]
  have plain : (!hasSpan s n) = true := by rw [noSpan]; rfl
  exact (if_neg moves).trans (if_pos plain)

/-- The start of a step changes its partition and threads alone, and leaves no record and no operand there, the partition released (R101, R191). -/
theorem startStep_starts {n : Nat} {boundary replay : Bool} {x : Context} {s : State} (job : lcJob s n = some x) :
    ∃ g : Part → Part, ∃ f, startStep n boundary replay s = (s.modPart n g).mapEmbers n f ∧
      ∀ p, (g p).step.count = p.step.count ∧ (g p).step.held = false ∧ (g p).step.first = none ∧ (g p).step.record = none := by
  unfold startStep
  rw [job]
  exact ⟨_, _, rfl, fun _ => ⟨rfl, rfl, rfl, rfl⟩⟩

theorem startStep_step {n : Nat} {boundary replay : Bool} {x : Context} {s : State} (job : lcJob s n = some x) :
    let b := ((startStep n boundary replay s).part n).step
    b.count = (s.part n).step.count ∧ b.held = false ∧ b.first = none ∧ b.record = none := by
  obtain ⟨g, f, started, step⟩ := startStep_starts (boundary := boundary) (replay := replay) job
  rw [started, mapEmbers_part, part_modPart_same]
  exact step _

theorem releaseBeAll_part (n : Nat) (s : State) (m : Nat) : (releaseBeAll n s).part m = s.part m := by
  unfold releaseBeAll
  split
  · rfl
  · rfl

/-- A release without a span starts the next step (R101). -/
theorem releaseStep_step {n : Nat} {x : Context} {s : State} (job : lcJob s n = some x) (noSpan : x.launch.wpUnits = 0) :
    let b := ((releaseStep n s).part n).step
    b.count = (s.part n).step.count ∧ b.held = false ∧ b.first = none ∧ b.record = none := by
  unfold releaseStep
  dsimp only
  generalize hu : State.modPart n _ (State.modPart n (Part.mapSct true ScaleEntry.boundary) _) = u
  have job' : lcJob u n = some x := by
    rw [← hu, lcJob_modPart, lcJob_modPart, lcJob_modPart, job]
    all_goals exact fun p => ⟨rfl, rfl⟩
  have step : (u.part n).step = (s.part n).step := by
    rw [← hu, part_modPart_keeps Part.step, part_modPart_keeps Part.step, part_modPart_keeps Part.step]
    all_goals exact fun p => rfl
  have none_ : hasSpan u n = false := by simp [hasSpan, job', noSpan]
  simp only [none_, Bool.false_and, Bool.false_eq_true, if_false]
  rw [releaseBeAll_part, part_modPart_keeps Part.step, mapEmbers_part, stokerRelease_step, part_modPart_keeps Part.step, ← step]
  · exact startStep_step job'
  all_goals exact fun p => rfl

theorem stepBoundary_image {n : PartId} {ra : DWord} {s : State} (armed : imageHold s n.val = true) :
    let v := pauseClass n.val true ((s.modPart n.val (Part.reachBoundary ra)).modPart n.val fun p => { p with pauseBe := true })
    tryRelease n.val v = v ∧ (v.part n.val).step.count = ra + 1 ∧ (v.part n.val).step.held = true ∧ (v.part n.val).pauseBe = true := by
  have part : (((s.modPart n.val (Part.reachBoundary ra)).modPart n.val fun p => { p with pauseBe := true }).part n.val) =
      { (s.part n.val).reachBoundary ra with pauseBe := true } := by rw [part_modPart_same, part_modPart_same]
  refine ⟨tryRelease_image ((imageHold_pauseClass ..).trans armed), ?_, ?_, ?_⟩
  · rw [part_pauseClass (fun p => p.step) (fun _ _ _ => rfl), part]
    rfl
  · rw [part_pauseClass (fun p => p.step) (fun _ _ _ => rfl), part]
    rfl
  · rw [part_pauseClass (fun p => p.pauseBe) (fun _ _ _ => rfl), part]

/-- A boundary that nothing holds, of a job without a span, starts the next step (R101). -/
theorem tryRelease_reached {n : PartId} {x : Context} {ra : DWord} {s : State} (job : lcJob s n.val = some x) (free : boundaryHeld s n.val = false)
    (noSpan : x.launch.wpUnits = 0) : let b := ((tryRelease n.val (s.modPart n.val (Part.reachBoundary ra))).part n.val).step
    b.count = ra + 1 ∧ b.held = false ∧ b.first = none ∧ b.record = none := by
  have job' : lcJob (s.modPart n.val (Part.reachBoundary ra)) n.val = some x :=
    (lcJob_modPart (g := Part.reachBoundary ra) (fun _ => ⟨rfl, rfl⟩) s).trans job
  have free' : boundaryHeld (s.modPart n.val (Part.reachBoundary ra)) n.val = false := by
    have image : imageHold (s.modPart n.val (Part.reachBoundary ra)) n.val = imageHold s n.val := rfl
    have copying : copies (s.modPart n.val (Part.reachBoundary ra)) n.val = copies s n.val := rfl
    simp only [boundaryHeld, image, copying, part_modPart_same, Part.reachBoundary] at free ⊢
    exact free
  rw [tryRelease_free (by rw [part_modPart_same]; rfl) free' (by simp [hasSpan, job', noSpan])]
  obtain ⟨count, rest⟩ := releaseStep_step job' noSpan
  exact ⟨count.trans (by rw [part_modPart_same]; rfl), rest⟩

/-! ### What taking a frame leaves -/

section
variable {n : Nat} {e : Nat × Frame} {s : State}

theorem frameFull_taken (g : Nat) : (taken n e s).frameFull n g = s.frameFull n g := by
  have only : OnlyPart n s (taken n e s) := onlyPart_mod ..
  have regions : ((taken n e s).part n).prot.regions = (s.part n).prot.regions := by rw [taken_part]; rfl
  simp only [State.frameFull, State.counterFull, rwcOf_of_prot only regions, dieOf_of_onlyPart only, lineNew_of_onlyPart only]

theorem badOf_taken {l : Nat} (good : s.badOf n l = none) : (taken n e s).badOf n l = none := by
  have kept : ChecksKept n s (taken n e s) := .of_regions (onlyPart_mod ..) (by rw [taken_part]; rfl) (by rw [taken_part]; rfl) (by rw [taken_part]; rfl)
  exact kept.badOf (by rw [State.extLine, taken_part, State.extLine]; rfl) good

end

end Sys2Proof.Machine

namespace Sys2Proof
open Machine

/-- Settles O30: a lone frame is taken where it is due; the record and the void step rest on which slots contribute; the record's page is written line by
line, its signal and its drop release leave the record and the page as they are; and a boundary that nothing holds starts the next step. -/
theorem stepPlan : Obligations.StepPlan := by
  unfold Obligations.StepPlan
  intro n f fr x s p c gone issues job may
  refine ⟨?report, ?deadline, ?record, ?mark, ?boundary⟩
  case report =>
    intro slot origin lone body current
    refine ⟨fun other => ?_, fun stoker running open_ thawed slots => ⟨fun all => ?_, fun j q hj carrier ne missing => ?_⟩⟩
    · refine ⟨_, contribReport_passes lone body other, congrArg Part.inbox ((sendFrame_part ..).trans taken_part), ?_⟩
      · rw [sendFrame_of_may (taken_maySend may)]
        simp only [Sends, SendsVia, headed, taken_part, taken_logicalPos]
        rfl
    · obtain ⟨t, runs, r, issued⟩ := contribReport_issues lone body stoker current running open_ job thawed may slots all
      exact ⟨t, r, runs, issued⟩
    · refine ⟨_, contribReport_waits lone body stoker current running open_ job thawed hj carrier ne missing, congrArg Part.inbox noted_part, ?_, ?_, rfl⟩
      · rw [noted_part]
        exact mem_noteReport.2 (.inl rfl)
      · rw [noted_part]
        exact open_
  case deadline =>
    intro stoker measuring open_ thawed deadline got
    have expires := stepDeadline_expires job stoker measuring open_ thawed deadline
    refine ⟨fun enough => ?_, fun few room => ?_⟩
    · obtain ⟨r, issued⟩ := issueRecord_issues job may
      exact ⟨_, r, expires.trans (congrArg _ (if_neg (Nat.not_lt.2 enough))), issued⟩
    · obtain ⟨voids, issued, ordered⟩ := voidStep_orders room may
      exact ⟨_, expires.trans (congrArg _ (if_pos few)), voids, issued.trans open_, ordered⟩
  case record =>
    intro r us g lone body member running current self mapped plain room good fits
    obtain ⟨only, bytes⟩ := deviceWrite_stores (s := taken n.val (f, fr) s) fun l hl => badOf_taken (good l hl)
    have arrives := steprecFrame_arrives (us := us) lone body member running current job mapped plain ((frameFull_taken g).trans room)
    obtain ⟨u, hu⟩ : ∃ u, u = deviceWrite n.val g (c.stepPage.toNat % pageBytes) (stepRecBytes r self) (taken n.val (f, fr) s) := ⟨_, rfl⟩
    rw [← hu] at only bytes
    have kept {α : Type} (k : Machine.Part → α) (hk : ∀ q hbm prot, k { q with mem := { q.mem with hbm := hbm }, prot := prot } = k q)
        (drop : ∀ q, k (Part.dropFrame (f, fr) q) = k q) : k (u.part n.val) = k p :=
      (only.keeps k hk).trans ((congrArg k taken_part).trans (drop _))
    have step := kept Part.step (fun _ _ _ => rfl) fun _ => rfl
    have sems := kept Part.sems (fun _ _ _ => rfl) fun _ => rfl
    have abort := kept Part.abort (fun _ _ _ => rfl) fun _ => rfl
    have runs := kept (Part.inRun · false) (fun _ _ _ => rfl) fun _ => rfl
    obtain ⟨record, drops, delay, hbm⟩ := recordTaken_notes (n := n.val) (c := c) (r := r) (us := us) (s := u)
    refine ⟨recordTaken n.val c r us u, hu ▸ arrives, record, drops.trans (by rw [step]), delay, fun i hi => ?_, fun alone kept => ?_,
      fun dropped quiet => ?_⟩
    · rw [hbm, bytes i hi]
    · rw [recordTaken_signals (by rwa [sems]) kept, sems, Sem.add]
    · rw [← step]
      exact recordTaken_releases dropped (by rw [abort]; exact quiet) (runs.trans (by rw [← isSome_lcJob, job]; rfl))
  case mark =>
    intro lone body
    refine ⟨fun current released => ?_, fun current waits => ?_, fun early => ?_⟩
    · refine ⟨_, dropmarkFrame_due lone body current released, ?_, onlyPart_trans (onlyPart_mod ..) (onlyPart_mod ..), ?_⟩
      · exact congrArg Part.inbox ((part_modPart_same ..).trans (congrArg (Part.noteMark fr) taken_part))
      · rw [part_modPart_same, taken_part]
        exact if_pos current
    · exact dropmarkFrame_waits lone (.inr ⟨current, waits⟩)
    · exact dropmarkFrame_waits lone (.inl early)
  case boundary =>
    intro ra service reached free recorded first quiet
    have boundary := stepBoundary_reached service reached free recorded first quiet
    refine ⟨fun armed => ?_, fun unheld noSpan => ?_⟩
    · obtain ⟨stays, count, held, paused⟩ := stepBoundary_image (ra := ra) armed
      exact ⟨_, boundary.trans (congrArg Host.Outcome.next ((congrArg (tryRelease n.val) (if_pos armed)).trans stays)), count, held, paused⟩
    · have idle : ¬ imageHold s n.val = true := fun armed => by simp [boundaryHeld, armed] at unheld
      exact ⟨_, boundary.trans (congrArg Host.Outcome.next (congrArg (tryRelease n.val) (if_neg idle))), tryRelease_reached job unheld noSpan⟩

end Sys2Proof
end

section
/-! O49 fails. Its clause on a WAIT that ends at once asks that the ring's head move on by one. The event of the WAIT releases the WAITs that its value
satisfies, over every queue that the context's table lists, and a queue is named by its number modulo 16: a table that lists a queue 16, which no
command makes and nothing in the statement excludes, makes the model end queue 0 twice. -/

namespace Sys2Proof.Machine

/-- WAIT for the value 0 of the event with handle 0, which it then signals (Tables 18.3 and 18.5). -/
def waitEntry : BitVec 512 := 0x0242

/-- The host begins that entry on queue 0 of context 0 of partition 0. -/
def waitCommand : HostCmd := { fn := 1, ring := .queue 0 0, entry := waitEntry, data := [] }

/-- A ring of 16 entries with one to begin. -/
def waitingRing : Ring := { base := 0, k := 4, headAddr := 0, head := 0, tail := 1, fetched := [], busy := none }

/-- A ring whose WAIT for the value 0 of the event with handle 0 is in execution. -/
def busyRing : Ring := { waitingRing with busy := some { opcode := 0x42, flags := 0, tag := 0, event := 0, a := 0, b := 0 } }

/-- A live event of the LC class, with no vector. -/
def quietEvent : Event :=
  { value := 0, sat := false, be := false, vector := 0xFFFF, owner := 0, notify := 0, notified := false, ownerLost := false }

/-- A lit module whose host serves partition 0: the event, and a context with queue 0 and, beyond the numbers of queues, queue 16. -/
def strayQueue : State :=
  { State.reset with
    power := { State.reset.power with aoOn := true, rails := true, light := .ready }
    host := { State.reset.host with inReset := false, layout := 0 } }.modPart 0 fun p =>
      { p with
        evts := p.evts.set 0 { gen := 0, obj := some quietEvent }
        ctxs := p.ctxs.set 0 { gen := 0, obj := some { unstartedContext with
          queues := ((Tab.const none).set 0 (some waitingRing)).set 16 (some busyRing) } } }

/-- The head of queue 0 after a command. -/
def headAfter (c : Instr) (s : State) : Option Nat :=
  match exec c s with
  | .next t => (t.ring 1 (.queue 0 0)).map (·.head)
  | _ => none

theorem strayQueue_ring : strayQueue.ring 1 (.queue 0 0) = some waitingRing := by decide +kernel

theorem strayQueue_headAfter : headAfter (.waitEvent waitCommand) strayQueue = some 2 := by decide +kernel

theorem strayQueue_event : (strayQueue.part (fnPart waitCommand.fn.val)).evt (entryAt waitEntry 16 4) = some quietEvent := by decide +kernel

theorem strayQueue_class : ringClass strayQueue 1 (.queue 0 0) = false := by decide +kernel

theorem strayQueue_front : (frontEntry waitCommand strayQueue).map Prod.fst = some waitEntry := by decide +kernel

theorem strayQueue_eventLive : ((strayQueue.part (fnPart waitCommand.fn.val)).evt (entryAt waitEntry 8 4)).isSome = true := by decide +kernel

theorem waitEntry_reached : entryAt waitEntry 24 8 ≤ quietEvent.value.toNat := by decide +kernel

/-- The host's command is well formed and begins. -/
theorem strayQueue_takes : Takes waitCommand strayQueue 0x42 [(16, 4), (24, 8)] waitEntry := by
  obtain ⟨⟨e, s1⟩, front, rfl⟩ := Option.map_eq_some_iff.1 strayQueue_front
  exact ⟨⟨s1, front⟩, by decide +kernel, by decide, by decide +kernel, by decide +kernel, .inr ⟨by decide, strayQueue_eventLive⟩⟩

end Sys2Proof.Machine

namespace Sys2Proof
open Machine

/-- Refutes O49: a WAIT whose value is reached signals its own event, which releases the WAIT of a queue numbered 16, and the head of the WAIT's own queue
moves on by two. -/
theorem not_hostEventsAndStart : ¬ Obligations.HostEventsAndStart := by
  intro holds
  obtain ⟨-, -, -, waits, -⟩ := holds waitCommand strayQueue waitEntry
  obtain ⟨-, -, now, -⟩ := waits strayQueue_takes quietEvent strayQueue_event
  obtain ⟨t, run, ⟨g, g', new, before, after, -, head, -⟩, -⟩ := now strayQueue_class.symm rfl waitEntry_reached
  have ring : waitingRing = g := Option.some.inj (strayQueue_ring.symm.trans before)
  have moved : headAfter (.waitEvent waitCommand) strayQueue = some g'.head := by
    rw [headAfter, run]
    exact congrArg (Option.map (·.head)) after
  rw [strayQueue_headAfter, head, ← ring] at moved
  exact absurd moved (by decide)

end Sys2Proof
end

section
/-! The vector unit's lanes, moves and reductions (R63, R130, R132 to R134), O13 and O15. -/

namespace Sys2Proof.Machine

/-! ### Lanes -/

/-- Lane by lane, a vector made of the words of 32 results. -/
theorem lane_lanes_results (r : Nat → FpR) (i : Fin 32) : lane (lanes (((List.range 32).map r).map (·.w))) i.val = (r i.val).w := by
  rw [lane_lanes _ _ (by simp), List.getD_eq_getElem _ _ (by simp), List.getElem_map, List.getElem_map, List.getElem_range]

theorem any_range_iff (n : Nat) (p : Nat → Bool) : (List.range n).any p = decide (∃ i : Fin n, p i.val = true) := by
  rw [Bool.eq_iff_iff, List.any_eq_true, decide_eq_true_eq]
  constructor
  · rintro ⟨i, small, holds⟩
    exact ⟨⟨i, List.mem_range.1 small⟩, holds⟩
  · rintro ⟨i, holds⟩
    exact ⟨i.val, List.mem_range.2 i.isLt, holds⟩

/-- The status word's bits 4 and 5 as a number (Table 5.10). -/
theorem getLsbD_flagBits (sat nan : Bool) (b : Fin 64) :
    (BitVec.ofNat 64 (16 * b2n sat + 32 * b2n nan)).getLsbD b.val = ((decide (b.val = 4) && sat) || (decide (b.val = 5) && nan)) := by
  revert sat nan b
  decide

theorem bitAt_vFlags (rs : List FpR) (h : Thread) (b : Fin 64) : bitAt (vFlags rs h).tsw b.val =
    (bitAt h.tsw b.val || (decide (b.val = 4) && rs.any (·.sat)) || (decide (b.val = 5) && rs.any (·.nan))) := by
  rw [vFlags, bitAt, BitVec.getLsbD_or, getLsbD_flagBits, ← Bool.or_assoc]
  rfl

theorem stepOne_vFlags (rs : List FpR) (h : Thread) : (vFlags rs h).stepOne = h.stepOne := rfl

/-- An instruction that writes a vector register and takes up the flags of its results. -/
theorem becomes_flagged {c : Instr} {s : State} {x : Site} {w : DWord} {f : BitVec 52} {ss ps : List Nat} {static : Option Nat} {body : State → Eff}
    {rd : Nat} {v : BitVec 1024} {rs : List FpR} (hc : exec c s = .next (issue x w f ss ps anyRoom static body s))
    (hi : issuable s x w f ss ps = true) (hs : static = none) (hb : body s = .ok (modAt x (fun h => vFlags rs (h.setV rd v)) s)) :
    ∃ t, exec c s = .next t ∧ OnlyThread x s t ∧ thrAt t x = { ((thrAt s x).setV rd v).next with tsw := (vFlags rs (thrAt s x)).tsw } := by
  obtain ⟨t, ran, own, frame⟩ := becomes_stepped hc hi rfl hs hb (stepOne_vFlags rs ((thrAt s x).setV rd v))
  exact ⟨t, ran, frame, own⟩

/-- An instruction of the lane-by-lane unit that issues (R130). -/
theorem laneByLane_of_issueV {c : Instr} {major minor : Nat} {x : Site} {f : BitVec 52} {ok : Bool} {op : Word → Word → Word → FpR} {s : State}
    (hc : exec c s = .next (issueV major minor x f ok op s)) (hi : issuable s x (insnWord major minor f) f [] [] = true) (hok : ok = true)
    (low : fLow f = 0) : LaneByLane c x f s op := by
  have static : reserved (ok && decide (fLow f = 0)) = none := reserved_of (by simp [hok, low])
  obtain ⟨t, ran, frame, own⟩ := becomes_flagged hc hi static rfl
  refine ⟨t, _, _, ran, frame, own, lane_lanes_results _, fun b => ?_⟩
  rw [bitAt_vFlags, List.any_map, List.any_map, any_range_iff, any_range_iff]
  rfl

end Sys2Proof.Machine

namespace Sys2Proof

open Machine

/-- Settles O13: every lane-by-lane instruction is one issue with its operation. -/
theorem vectorLanes : Obligations.VectorLanes := by
  intro x f s two one above
  have pairwise : ∀ {minor c op}, (∀ s, exec c s = .next (issueV 0x30 minor x f true op s)) → two minor c op :=
    fun hc hi low => laneByLane_of_issueV (hc s) hi rfl low
  have single : ∀ {major minor c op}, (∀ s, exec c s = .next (issueV major minor x f (decide (fRb f = 0)) (fun a _ _ => op a) s)) →
      one major minor c op := fun hc hi rb low => laneByLane_of_issueV (hc s) hi (decide_eq_true rb) low
  refine ⟨pairwise fun _ => rfl, pairwise fun _ => rfl, pairwise fun _ => rfl, pairwise fun _ => rfl, pairwise fun _ => rfl, pairwise fun _ => rfl,
    pairwise fun _ => rfl, single fun _ => rfl, single fun _ => rfl, single fun _ => rfl, single fun _ => rfl, single fun _ => rfl, by decide, ?order⟩
  case order =>
    intro a b ha hb
    have finite : ¬ (decF a = .nan ∨ decF b = .nan) := not_or.2 ⟨ha, hb⟩
    exact ⟨if_neg finite, if_neg finite⟩

end Sys2Proof
namespace Sys2Proof.Machine

/-! ### Loads and stores (R133) -/

/-- A store changes the bytes that it writes. -/
theorem ScratchAt.write {x : Site} {s u : State} {h : Thread} {m : Memory} (a : ScratchAt x s u h m.get) (off : Nat) (bs : List Byte) :
    ScratchAt x s (storeScratch x.e.val off bs u) h (m.write off bs).get := by
  obtain ⟨own, bytes, others, frame⟩ := a
  refine ⟨?_, fun b => ?_, fun j hj => ?_, onlyEmbers_trans frame (onlyEmbers_mod ..)⟩
  · rw [thrAt, thread_storeScratch]
    exact own
  · rw [storeScratch, ember_modEmber_same, scratch_store, Memory.get_write, Memory.get_write, bytes]
  · rw [thread_storeScratch, others j hj]

/-- A memory with bytes written piece by piece. -/
def writePieces : List (Nat × Nat) → List Byte → Memory → Memory
  | [], _, m => m
  | (off, n) :: ps, bs, m => writePieces ps (bs.drop n) (m.write off (bs.take n))

theorem ScratchAt.putPieces {x : Site} {s u : State} {h : Thread} {m : Memory} (ps : List (Nat × Nat)) (bs : List Byte)
    (a : ScratchAt x s u h m.get) : ScratchAt x s (putPieces x.e.val ps bs u) h (writePieces ps bs m).get := by
  induction ps generalizing bs u m with
  | nil => exact a
  | cons p ps ih => exact ih (bs.drop p.2) (a.write p.1 (bs.take p.2))

/-- The byte lies in the piece. -/
def inPiece (b : Nat) (p : (Nat × Nat) × Nat) : Bool := decide (p.1.1 ≤ b) && decide (b < p.1.1 + p.1.2)

theorem inPiece_iff (b : Nat) (p : (Nat × Nat) × Nat) : inPiece b p = true ↔ p.1.1 ≤ b ∧ b < p.1.1 + p.1.2 := by
  rw [inPiece, Bool.and_eq_true, decide_eq_true_eq, decide_eq_true_eq]

/-- Bytes of a number written to pieces of `k` bytes that follow one another: the byte of a piece is that of its place in the number, and a byte of
no piece is as it was. -/
theorem get_writePieces (n v k : Nat) (ps : List (Nat × Nat)) (len : ∀ p ∈ ps, p.2 = k) (rise : ps.Pairwise fun p q => p.1 + p.2 ≤ q.1)
    (m : Memory) (j b : Nat) (room : k * (j + ps.length) ≤ n) :
    (writePieces ps ((leBytes n v).drop (k * j)) m).get b = match (ps.zipIdx j).find? (inPiece b) with
      | some p => BitVec.ofNat 8 (v / 256 ^ (p.1.2 * p.2 + (b - p.1.1)))
      | none => m.get b := by
  induction ps generalizing m j with
  | nil => rfl
  | cons p ps ih =>
    obtain ⟨off, size⟩ := p
    obtain rfl : size = k := len _ (List.mem_cons_self ..)
    rw [List.pairwise_cons] at rise
    rw [List.length_cons] at room
    have room' : size * (j + 1 + ps.length) ≤ n := by rw [Nat.add_right_comm]; exact room
    have rest := ih (fun q hq => len q (List.mem_cons_of_mem _ hq)) rise.2 (m.write off (((leBytes n v).drop (size * j)).take size)) (j + 1) room'
    rw [writePieces, List.drop_drop, ← Nat.mul_succ, rest, List.zipIdx_cons, List.find?_cons]
    have here : size * j + size ≤ n := by
      rw [← Nat.mul_succ]
      exact Nat.le_trans (Nat.mul_le_mul_left _ (by omega)) room
    have size' : (((leBytes n v).drop (size * j)).take size).length = size := by
      rw [List.length_take, List.length_drop, length_leBytes]
      omega
    cases found : inPiece b ((off, size), j) with
    | true =>
      have inside := (inPiece_iff ..).1 found
      simp only at inside
      have later : (ps.zipIdx (j + 1)).find? (inPiece b) = none := by
        rw [List.find?_eq_none]
        intro q hq hit
        have above := rise.1 q.1 (List.fst_mem_of_mem_zipIdx hq)
        have := (inPiece_iff ..).1 hit
        simp only at above
        omega
      simp only [later]
      rw [Memory.get_write, dif_pos ⟨inside.1, by omega⟩, List.getElem_take, List.getElem_drop, getElem_leBytes]
    | false =>
      have outside : ¬ (off ≤ b ∧ b < off + size) := fun h => by simp [(inPiece_iff b ((off, size), j)).2 h] at found
      simp only
      rw [Memory.get_write_outside _ _ (by rw [size']; omega)]

/-- The bytes of each piece of a form (R133). -/
def pieceBytes : Nat → Nat
  | 0 => 64
  | 1 => 64
  | _ => 8

theorem vecPieces_len (off : Nat) (p : Nat × Nat) : ∀ form, p ∈ vecPieces form off → p.2 = pieceBytes form
  | 0, h => congrArg Prod.snd (List.mem_singleton.1 h)
  | 1, h => (List.mem_pair.1 h).elim (congrArg Prod.snd) (congrArg Prod.snd)
  | _ + 2, h => by
    obtain ⟨r, -, rfl⟩ := List.mem_map.1 h
    rfl

theorem vecPieces_rise (off : Nat) : ∀ form, (vecPieces form off).Pairwise fun p q => p.1 + p.2 ≤ q.1
  | 0 => List.pairwise_singleton ..
  | 1 => List.pairwise_pair.2 (Nat.add_le_add_left (show 64 ≤ 512 by decide) _)
  | _ + 2 => List.pairwise_map.2 (List.pairwise_lt_range.imp fun less => by omega)

theorem vecPieces_room (off : Nat) : ∀ form, pieceBytes form * (0 + (vecPieces form off).length) ≤ 128
  | 0 => Nat.le_of_ble_eq_true rfl
  | 1 => Nat.le_of_ble_eq_true rfl
  | _ + 2 => Nat.le_of_ble_eq_true rfl

/-- An access of a vector form that the thread at `x` may make: aligned, inside its class's range, and outside the code windows where it writes. -/
def MayVec (s : State) (x : Site) (form : Nat) (a : DWord) (write : Bool) : Prop :=
  vecAligned form a.toNat = true ∧ ∀ p ∈ vecPieces form a.toNat, (s.ember x.e.val).inRange (s.isBe x.e.val x.t.val) p.1 p.2 = true ∧
    (write = true → (s.ember x.e.val).hitsCode p.1 p.2 = false)

section
variable {s : State} {x : Site} {f : BitVec 52} {form : Nat} {strike : List Nat} {c : Instr}

theorem vecCheck_of_mayVec {a : DWord} {write : Bool} (may : MayVec s x form a write) : vecCheck (s.ember x.e.val) (beAt s x) form a write = none := by
  obtain ⟨aligned, each⟩ := may
  have inside : (vecPieces form a.toNat).any (fun p => !(s.ember x.e.val).inRange (beAt s x) p.1 p.2) = false :=
    List.any_eq_false.2 fun p hp => by rw [beAt, (each p hp).1]; decide
  have code : (write && (vecPieces form a.toNat).any fun p => (s.ember x.e.val).hitsCode p.1 p.2) = false := by
    cases write with
    | false => rfl
    | true => exact List.any_eq_false.2 fun p hp => by rw [(each p hp).2 rfl]; decide
  simp only [vecCheck, aligned, inside, code, Bool.not_true, Bool.false_eq_true, if_false]

theorem vld_gives (hc : exec c s = .next (issueVld form x f strike s)) (hi : issuable s x (insnWord 0x32 form f) f [fRa f] [] = true)
    (may : MayVec s x form (effAddr s x f) false)
    (clean : ∀ p ∈ vecPieces form (effAddr s x f).toNat, ((s.ember x.e.val).strike strike).mismatches p.1 p.2 = []) :
    ScratchGives c s x ((thrAt s x).setV (fRd f) (BitVec.ofNat 1024 (leNat ((vecPieces form (effAddr s x f).toNat).flatMap fun p =>
      (s.ember x.e.val).scratch.read p.1 p.2)))).next (s.ember x.e.val).scratch.get := by
  refine scratchGives_of_issue hc hi rfl ?_ (((ScratchAt.refl x s).struck strike).mod _) (stepOne_setV ..)
  have good : (vecPieces form (effAddr s x f).toNat).flatMap (fun p => ((s.ember x.e.val).strike strike).mismatches p.1 p.2) = [] :=
    List.flatMap_eq_nil_iff.2 clean
  simp only [← effAddr_def, vecCheck_of_mayVec may, ember_modEmber_same, good, scratch_strike]
  rfl

theorem vst_gives (hc : exec c s = .next (issueVst form x f s)) (hi : issuable s x (insnWord 0x32 (4 + form) f) f [fRa f] [] = true)
    (may : MayVec s x form (effAddr s x f) true) :
    ScratchGives c s x (thrAt s x).next fun b => match (vecPieces form (effAddr s x f).toNat).zipIdx.find? (inPiece b) with
      | some p => BitVec.ofNat 8 (((thrAt s x).vReg (fRd f)).toNat / 256 ^ (p.1.2 * p.2 + (b - p.1.1)))
      | none => (s.ember x.e.val).scratch.get b := by
  have body : ScratchGives c s x (thrAt s x).next (writePieces (vecPieces form (effAddr s x f).toNat)
      (leBytes 128 ((thrAt s x).vReg (fRd f)).toNat) (s.ember x.e.val).scratch).get := by
    refine scratchGives_of_issue hc hi rfl ?_ ((ScratchAt.refl x s).putPieces ..) rfl
    simp only [← effAddr_def, vecCheck_of_mayVec may]
  obtain ⟨t, ran, own, bytes, others, frame⟩ := body
  exact ⟨t, ran, own, fun b => (bytes b).trans
    (get_writePieces 128 _ _ _ (fun p hp => vecPieces_len _ p _ hp) (vecPieces_rise ..) _ 0 b (vecPieces_room ..)), others, frame⟩

end

/-! ### Lane movement and reduction (R134) -/

/-- One level of the pairwise tree. -/
def pairLanes (op : Word → Word → FpR) (l : Nat → Word) (i : Nat) : Word := (op (l (2 * i)) (l (2 * i + 1))).w

/-- The tree over `2 ^ k` words is `k` levels of pairs. -/
theorem laneTree_w (op : Word → Word → FpR) (k : Nat) (vs : List Word) (sat nan : Bool) (l : Nat → Word) (len : vs.length = 2 ^ k)
    (same : ∀ i < 2 ^ k, vs.getD i 0 = l i) : (laneTree op k vs sat nan).w = (pairLanes op)^[k] l 0 := by
  induction k generalizing vs sat nan l with
  | zero => rw [laneTree, Function.iterate_zero, id, ← same 0 (by decide), List.headD_eq_getD]
  | succ k ih =>
    have many : ¬ vs.length ≤ 1 := by rw [len, Nat.pow_succ]; have := Nat.two_pow_pos k; omega
    have half : vs.length / 2 = 2 ^ k := by rw [len, Nat.pow_succ]; omega
    rw [laneTree, if_neg many, half, Function.iterate_succ_apply]
    refine ih _ _ _ _ (by simp) fun i small => ?_
    rw [List.getD_eq_getElem _ _ (by simpa using small)]
    simp only [List.getElem_map, List.getElem_range, pairLanes]
    rw [same (2 * i) (by rw [Nat.pow_succ]; omega), same (2 * i + 1) (by rw [Nat.pow_succ]; omega)]

/-- The tree of a vector, level by level. -/
theorem laneTree_lanesOf (op : Word → Word → FpR) (v : BitVec 1024) (sat nan : Bool) : (laneTree op 5 (lanesOf v) sat nan).w =
    (List.range 5).foldl (fun l _ => fun i => (op (l (2 * i)) (l (2 * i + 1))).w) (lane v) 0 := by
  rw [laneTree_w op 5 (lanesOf v) sat nan (lane v) (by simp [lanesOf]) fun i small => by
    rw [lanesOf, List.getD_eq_getElem _ _ (by simpa using small), List.getElem_map, List.getElem_range]]
  rfl

theorem reduce_gives {s : State} {x : Site} {f : BitVec 52} {c : Instr} {minor : Nat} {op : Word → Word → FpR}
    (hc : exec c s = .next (issueReduce minor x f op s)) (hi : issuable s x (insnWord 0x33 minor f) f [] [] = true) (rb : fRb f = 0) (low : fLow f = 0) :
    ∃ t v w, exec c s = .next t ∧ OnlyThread x s t ∧ thrAt t x = { ((thrAt s x).setV (fRd f) v).next with tsw := w } ∧
      (∀ i : Fin 31, lane v (i.val + 1) = 0) ∧
      lane v 0 = (List.range 5).foldl (fun l _ => fun i => (op (l (2 * i)) (l (2 * i + 1))).w) (lane ((thrAt s x).vReg (fRa f))) 0 := by
  obtain ⟨t, ran, frame, own⟩ := becomes_flagged hc hi (reserved_of (by simp [rb, low])) rfl
  refine ⟨t, _, _, ran, frame, own, fun i => ?_, ?_⟩
  · rw [lane_lanes _ _ (by simp)]
    rfl
  · rw [lane_lanes _ _ (by simp), List.getD_cons_zero, laneTree_lanesOf]

theorem vbc_gives {s : State} {x : Site} {f : BitVec 52} (hi : issuable s x (insnWord 0x33 0 f) f [fRa f] [] = true) (rb : fRb f = 0)
    (low : fLow f = 0) : ∃ t v, exec (.vbc x f) s = .next t ∧ OnlyThread x s t ∧ thrAt t x = ((thrAt s x).setV (fRd f) v).next ∧
      ∀ i : Fin 32, lane v i.val = BitVec.ofNat 32 ((thrAt s x).sReg (fRa f)).toNat := by
  have static : reserved (decide (fRb f = 0) && decide (fLow f = 0)) = none := reserved_of (by simp [rb, low])
  have hc : exec (.vbc x f) s = execVbc x f s := rfl
  unfold execVbc at hc
  obtain ⟨t, ran, own, frame⟩ := becomes_stepped hc hi rfl static rfl (stepOne_setV ..)
  refine ⟨t, _, ran, frame, own, fun i => ?_⟩
  rw [lane_lanes _ _ (List.length_replicate ..).le, List.getD_replicate _ i.isLt, BitVec.ofNat_toNat]

theorem vget_gives {s : State} {x : Site} {f : BitVec 52} (hi : issuable s x (insnWord 0x33 1 f) f [fRd f, fRb f] [] = true) (low : fLow f = 0)
    (small : ((thrAt s x).sReg (fRb f)).toNat < 32) : ∃ t, exec (.vget x f) s = .next t ∧ OnlyThread x s t ∧
      thrAt t x = ((thrAt s x).setS (fRd f) (BitVec.ofNat 64 (lane ((thrAt s x).vReg (fRa f)) ((thrAt s x).sReg (fRb f)).toNat).toNat)).next := by
  have hc : exec (.vget x f) s = execVget x f s := rfl
  unfold execVget at hc
  obtain ⟨t, ran, own, frame⟩ := becomes_stepped hc hi rfl (reserved_of (decide_eq_true low)) (if_neg (Nat.not_le.2 small)) (stepOne_setS ..)
  exact ⟨t, ran, frame, by rw [own, BitVec.ofNat_toNat]⟩

end Sys2Proof.Machine

namespace Sys2Proof

open Machine

/-- Settles O15: each access passes the checks of its pieces, and a store's bytes are followed piece by piece. -/
theorem vectorMoves : Obligations.VectorMoves := by
  intro x f strike s h at_ m pieces aligned may loads stores
  have mayVec : ∀ {form write}, vecPieces form (effAddr s x f).toNat = pieces form → (vecAligned form at_.toNat = true ↔ aligned form) →
      may form write → MayVec s x form (effAddr s x f) write := fun same align given => ⟨align.2 given.1, fun p hp => given.2 p (same ▸ hp)⟩
  have row : vecAligned 0 at_.toNat = true ↔ aligned 0 := by simp [vecAligned, aligned]
  have pair : vecAligned 1 at_.toNat = true ↔ aligned 1 := by simp [vecAligned, aligned]
  have slab : vecAligned 2 at_.toNat = true ↔ aligned 2 := by simp [vecAligned, aligned]
  have load : ∀ {form c}, vecPieces form (effAddr s x f).toNat = pieces form → (vecAligned form at_.toNat = true ↔ aligned form) →
      exec c s = .next (issueVld form x f strike s) → loads form c := by
    intro form c same align hc hi given clean
    have loaded := vld_gives hc hi (mayVec same align given) (same ▸ clean)
    rw [same] at loaded
    exact loaded
  have store : ∀ {form c}, vecPieces form (effAddr s x f).toNat = pieces form → (vecAligned form at_.toNat = true ↔ aligned form) →
      exec c s = .next (issueVst form x f s) → stores form c := by
    intro form c same align hc hi given
    have stored := vst_gives hc hi (mayVec same align given)
    rw [same] at stored
    exact stored
  refine ⟨load rfl row rfl, load rfl pair rfl, load rfl slab rfl, store rfl row rfl, store rfl pair rfl, store rfl slab rfl, vbc_gives, vget_gives, ?reduce⟩
  case reduce =>
    intro op mem
    rcases List.mem_pair.1 mem with rfl | rfl
    · exact reduce_gives rfl
    · exact reduce_gives rfl

end Sys2Proof
end

section
/-! What the vector unit delivers (R131), and O14. -/

namespace Sys2Proof.Machine

/-! ### The words that arithmetic ends in -/

theorem deliverable_fpNaN : Deliverable fpNaN := ⟨rfl, fun h => absurd h (by decide)⟩

theorem deliverable_fpInf (neg : Bool) : Deliverable (fpInf neg) := by
  cases neg
  · exact ⟨by decide, fun _ => rfl⟩
  · exact ⟨by decide, fun _ => rfl⟩

theorem deliverable_word {w : Word} (h : w.toNat % 2 ^ 31 < 0x7F800000) : Deliverable { w := w, sat := false, nan := false } :=
  ⟨h, fun saturated => nomatch saturated⟩

theorem magnitude_decF_fin {x : Word} {neg : Bool} {v : Dy} (h : decF x = .fin neg v) : x.toNat % 2 ^ 31 < 0x7F800000 := by
  unfold decF at h
  simp only at h
  split at h
  · nomatch h
  · split at h
    · nomatch h
    · omega

theorem decF_nan_iff (x : Word) : decF x = .nan ↔ 0x7F800000 < x.toNat % 2 ^ 31 := by
  unfold decF
  simp only
  split
  · next above => exact ⟨fun _ => above, fun _ => rfl⟩
  · next below =>
    refine ⟨fun h => ?_, fun h => absurd h below⟩
    split at h
    · nomatch h
    · nomatch h

theorem deliverable_rne32 (v : Dy) (negZ : Bool) : Deliverable (rne32 v negZ) := by
  unfold rne32
  split
  · cases negZ
    · exact deliverable_word (by decide)
    · exact deliverable_word (by decide)
  · simp only
    split
    · exact deliverable_fpInf _
    · next small =>
      have code : fmtFp32.magCode v ≤ 0x7F7FFFFF := Nat.not_lt.1 small
      refine deliverable_word ?_
      rw [BitVec.toNat_ofNat]
      split
      · omega
      · omega

theorem deliverable_fpPass (x : Word) : Deliverable (fpPass x) := by
  unfold fpPass
  split
  · exact deliverable_fpNaN
  · exact deliverable_fpInf _
  · next finite => exact deliverable_word (magnitude_decF_fin finite)

/-! ### The operations -/

theorem deliverable_fpAdd (a b : Word) : Deliverable (fpAdd a b) := by
  unfold fpAdd
  split
  · exact deliverable_fpNaN
  · exact deliverable_fpNaN
  · split
    · exact deliverable_fpInf _
    · exact deliverable_fpNaN
  · exact deliverable_fpInf _
  · exact deliverable_fpInf _
  · exact deliverable_rne32 ..

theorem deliverable_fpMul (a b : Word) : Deliverable (fpMul a b) := by
  unfold fpMul
  split
  · exact deliverable_fpNaN
  · exact deliverable_fpNaN
  · exact deliverable_fpInf _
  · split
    · exact deliverable_fpNaN
    · exact deliverable_fpInf _
  · split
    · exact deliverable_fpNaN
    · exact deliverable_fpInf _
  · exact deliverable_rne32 ..

theorem deliverable_fmaInf (neg : Bool) (z : Num) : Deliverable (fpFma.fmaInf neg z) := by
  cases z with
  | nan => exact deliverable_fpNaN
  | inf k =>
    rw [fpFma.fmaInf]
    split
    · exact deliverable_fpInf _
    · exact deliverable_fpNaN
  | fin k w => exact deliverable_fpInf _

theorem deliverable_fpFma (a b c : Word) : Deliverable (fpFma a b c) := by
  unfold fpFma
  split
  · exact deliverable_fpNaN
  · exact deliverable_fpNaN
  · split
    · exact deliverable_fpNaN
    · exact deliverable_fmaInf ..
  · split
    · exact deliverable_fpNaN
    · exact deliverable_fmaInf ..
  · exact deliverable_fmaInf ..
  · exact deliverable_fpNaN
  · exact deliverable_fpInf _
  · exact deliverable_rne32 ..

theorem deliverable_fpMax (a b : Word) : Deliverable (fpMax a b) := by
  unfold fpMax
  split
  · exact deliverable_fpNaN
  · exact deliverable_fpPass _

theorem deliverable_fpMin (a b : Word) : Deliverable (fpMin a b) := by
  unfold fpMin
  split
  · exact deliverable_fpNaN
  · exact deliverable_fpPass _

theorem deliverable_fpRecip (x : Word) : Deliverable (fpRecip x) := by
  unfold fpRecip
  split
  · exact deliverable_fpNaN
  · exact deliverable_rne32 ..
  · split
    · exact deliverable_fpInf _
    · exact deliverable_rne32 ..

theorem deliverable_fpRsqrt (x : Word) : Deliverable (fpRsqrt x) := by
  unfold fpRsqrt
  split
  · exact deliverable_fpNaN
  · split
    · exact deliverable_fpNaN
    · exact deliverable_word (by decide)
  · split
    · exact deliverable_fpInf _
    · split
      · exact deliverable_fpNaN
      · exact deliverable_rne32 ..

theorem deliverable_fpExp (x : Word) : Deliverable (fpExp x) := by
  unfold fpExp
  split
  · exact deliverable_fpNaN
  · split
    · exact deliverable_word (by decide)
    · exact deliverable_fpInf _
  · split
    · exact deliverable_word (by decide)
    · split
      · split
        · exact deliverable_word (by decide)
        · exact deliverable_fpInf _
      · exact deliverable_rne32 ..

/-! ### A NaN among the operands -/

section
variable {a : Word} (h : decF a = .nan) (b d : Word)
include h

theorem fpAdd_nan_left : fpAdd a b = fpNaN := by
  unfold fpAdd
  rw [h]

theorem fpAdd_nan_right : fpAdd b a = fpNaN := by
  unfold fpAdd
  rw [h]
  cases decF b <;> rfl

theorem fpMul_nan_left : fpMul a b = fpNaN := by
  unfold fpMul
  rw [h]

theorem fpMul_nan_right : fpMul b a = fpNaN := by
  unfold fpMul
  rw [h]
  cases decF b <;> rfl

theorem fpFma_nan_left : fpFma a b d = fpNaN := by
  unfold fpFma
  rw [h]

theorem fpFma_nan_middle : fpFma b a d = fpNaN := by
  unfold fpFma
  rw [h]
  cases decF b <;> rfl

theorem fpFma_nan_right : fpFma b d a = fpNaN := by
  unfold fpFma
  rw [h]
  cases decF b with
  | nan => rfl
  | inf n =>
    cases decF d with
    | nan => rfl
    | inf m => rfl
    | fin m v => exact ite_self _
  | fin n u =>
    cases decF d with
    | nan => rfl
    | inf m => exact ite_self _
    | fin m v => rfl

theorem fpMax_nan_left : fpMax a b = fpNaN := if_pos (.inl h)
theorem fpMax_nan_right : fpMax b a = fpNaN := if_pos (.inr h)
theorem fpMin_nan_left : fpMin a b = fpNaN := if_pos (.inl h)
theorem fpMin_nan_right : fpMin b a = fpNaN := if_pos (.inr h)

theorem fpPass_nan : fpPass a = fpNaN := by
  unfold fpPass
  rw [h]

/-- The magnitude of a NaN is a NaN. -/
theorem fpAbs_nan : fpAbs a = fpNaN := by
  refine fpPass_nan ((decF_nan_iff _).2 ?_)
  have magnitude : (a &&& 0x7FFFFFFF#32).toNat = a.toNat % 2 ^ 31 := by
    rw [BitVec.toNat_and]
    exact Nat.and_two_pow_sub_one_eq_mod _ 31
  rw [magnitude, Nat.mod_mod]
  exact (decF_nan_iff a).1 h

theorem fpRecip_nan : fpRecip a = fpNaN := by
  unfold fpRecip
  rw [h]

theorem fpRsqrt_nan : fpRsqrt a = fpNaN := by
  unfold fpRsqrt
  rw [h]

theorem fpExp_nan : fpExp a = fpNaN := by
  unfold fpExp
  rw [h]

end

end Sys2Proof.Machine

namespace Sys2Proof

open Machine

/-- Settles O14: every operation ends in the quiet NaN, in an infinity delivered as the largest finite magnitude, in a rounded value or in a finite word. -/
theorem vectorDelivers : Obligations.VectorDelivers := by
  intro a b d
  refine ⟨deliverable_fpAdd a b, deliverable_fpAdd a _, deliverable_fpMul a b, deliverable_fpFma a b d, deliverable_fpMax a b, deliverable_fpMin a b,
    deliverable_fpPass _, deliverable_fpPass a, deliverable_fpRecip a, deliverable_fpRsqrt a, deliverable_fpExp a, fun h => ?_⟩
  rw [fpAdd_nan_left h, fpAdd_nan_right h, fpMul_nan_left h, fpMul_nan_right h, fpFma_nan_left h, fpFma_nan_middle h, fpFma_nan_right h,
    fpMax_nan_left h, fpMax_nan_right h, fpMin_nan_left h, fpMin_nan_right h, fpAbs_nan h, fpPass_nan h, fpRecip_nan h, fpRsqrt_nan h, fpExp_nan h]
  simp only [fpNaN, and_self]

end Sys2Proof
end

section
/-! Row statistics, the scale table, the sentinel's settings and receive windows (R128, R129, R135 to R138), O17 and O18. -/

namespace Sys2Proof.Machine

/-! ### Statistics (R128, R129) -/

theorem tileOrder_of {s : State} {x : Site} (order : ∀ e ∈ (s.ember x.e.val).tileQ, e.t ≠ x.t.val) : tileOrder x s = true :=
  List.all_eq_true.2 fun e he => decide_eq_true (order e he)

/-- A vector of 16 words holds them in lanes 0 to 15, and zero above. -/
theorem lane_lanes_rows (val : Nat → Word) : (∀ r : Fin 16, lane (lanes ((List.range 16).map val)) r.val = val r.val) ∧
    ∀ r : Fin 16, lane (lanes ((List.range 16).map val)) (16 + r.val) = 0 := by
  refine ⟨fun r => ?_, fun r => ?_⟩
  · rw [lane_lanes _ _ (by simp), List.getD_eq_getElem _ _ (by simp), List.getElem_map, List.getElem_range]
  · rw [lane_lanes _ _ (by simp), List.getD_eq_default _ _ (by simp)]

theorem stepOne_rowsToV (minor rd : Nat) (h : Thread) : (rowsToV minor rd h).stepOne = h.stepOne := by
  rw [rowsToV, stepOne_setV]

/-- The sticky bits of the status word cleared (Table 5.10). -/
theorem bitAt_clearSticky (w : DWord) (b : Fin 64) : bitAt (withField w 7 0 0) b.val = (decide (8 ≤ b.val) && bitAt w b.val) := by
  have mask : ∀ b : Fin 64, (~~~ 0xFF#64).getLsbD b.val = decide (8 ≤ b.val) := by decide
  have cleared : withField w 7 0 0 = w &&& ~~~ 0xFF#64 := BitVec.or_zero
  rw [cleared, bitAt, BitVec.getLsbD_and, mask, Bool.and_comm]
  rfl

section
variable {x : Site} {f : BitVec 52} {s : State} {c : Instr} {minor : Nat} {srd zrd : Bool} {eff : Thread → Thread}

theorem stat_becomes (hc : exec c s = .next (issueStat minor x f srd zrd eff s))
    (hi : issuable s x (insnWord 0x22 minor f) f (if srd then [fRd f] else []) [] = true)
    (order : ∀ e ∈ (s.ember x.e.val).tileQ, e.t ≠ x.t.val) (ra : fRa f = 0) (rb : fRb f = 0) (low : fLow f = 0) (rd : zrd = true → fRd f = 0)
    (running : (eff (thrAt s x)).stepOne = (thrAt s x).stepOne) :
    ∃ t, exec c s = .next t ∧ thrAt t x = (eff (thrAt s x)).next ∧ OnlyThread x s t := by
  have static : reserved (decide (fRa f = 0) && decide (fRb f = 0) && decide (fLow f = 0) && (!zrd || decide (fRd f = 0))) = none := by
    refine reserved_of ?_
    cases zrd with
    | false => simp [ra, rb, low]
    | true => simp [ra, rb, low, rd rfl]
  unfold issueStat at hc
  exact becomes_stepped hc hi (tileOrder_of order) static rfl running

theorem sctrd_becomes (hi : issuable s x (insnWord 0x23 0 f) f [fRd f, fRa f] [] = true) (order : ∀ e ∈ (s.ember x.e.val).tileQ, e.t ≠ x.t.val)
    (imm : fImmU f < 4) (entry : ((thrAt s x).sReg (fRa f)).toNat < sctCount (s.part (s.partOf x.e.val)) (s.isBe x.e.val x.t.val))
    (small : ((thrAt s x).sReg (fRa f)).toNat < 4096) : ∃ t, exec (.sctrd x f) s = .next t ∧
      thrAt t x = ((thrAt s x).setS (fRd f) (((s.part (s.partOf x.e.val)).entry (s.isBe x.e.val x.t.val)
        ((thrAt s x).sReg (fRa f)).toNat).word (fImmU f))).next ∧ OnlyThread x s t := by
  have hc : exec (.sctrd x f) s = execSctrd x f s := rfl
  unfold execSctrd at hc
  exact becomes_stepped hc hi (tileOrder_of order) (reserved_of (decide_eq_true imm))
    ((if_neg (Nat.not_le.2 small)).trans (if_neg (Nat.not_le.2 entry))) (stepOne_setS ..)

end

/-! ### The sentinel's settings (R135 to R137) -/

section
variable {x : Site} {f : BitVec 52} {s : State}

theorem sntcfg_static (rd : fRd f = 0) (ra : fRa f = 0) (imm : fImmU f < 64) :
    reserved (decide (fRd f = 0) && decide (fRa f = 0) && decide (fImmU f < 64)) = none := reserved_of (by simp [rd, ra, imm])

theorem sntcfg_stages (hi : issuable s x (insnWord 0x36 0 f) f [] [] = true) (rd : fRd f = 0) (ra : fRa f = 0) (imm : fImmU f < 64)
    (least : 6 ≤ fImmU f % 32) (most : fImmU f % 32 ≤ 16) : ∃ t, exec (.sntcfg x f) s = .next t ∧
      thrAt t x = { (thrAt s x).next with snt := { (thrAt s x).snt with staged := some (fImmU f % 32, decide (32 ≤ fImmU f)) } } ∧ OnlyThread x s t := by
  have hc : exec (.sntcfg x f) s = execSntcfg x f s := rfl
  unfold execSntcfg at hc
  exact becomes_stepped hc hi rfl (sntcfg_static rd ra imm) (if_pos ⟨least, most⟩) rfl

theorem sntcfg_raises (hi : issuable s x (insnWord 0x36 0 f) f [] [] = true) (rd : fRd f = 0) (ra : fRa f = 0) (imm : fImmU f < 64)
    (out : fImmU f % 32 < 6 ∨ 16 < fImmU f % 32) : exec (.sntcfg x f) s = .next (raise x 0x14 0 s) := by
  have hc : exec (.sntcfg x f) s = execSntcfg x f s := rfl
  unfold execSntcfg at hc
  exact exec_raised hc hi rfl (sntcfg_static rd ra imm) (if_neg (by omega))

/-- The value that SNTRD gives for a number (R136). -/
def sntValue (s : State) (x : Site) (i : Nat) : DWord :=
  [BitVec.ofNat 64 ((thrAt s x).snt.n + if (thrAt s x).snt.drift then 32 else 0), (thrAt s x).snt.sampled,
    BitVec.ofNat 64 (s.ember x.e.val).sentMiss.toNat, (thrAt s x).snt.driftCnt, BitVec.ofNat 64 (thrAt s x).snt.driftMax.toNat][i]?.getD 0

/-- What SNTRD comes to for a number (R136). -/
def sntEffect (x : Site) (f : BitVec 52) (s : State) (i : Nat) : Eff :=
  if i < 5 then .ok (modAt x (Thread.setS (fRd f) (sntValue s x i)) s) else .exc excSentConfig 0

theorem drift_place (n : Nat) (drift : Bool) : n + 32 * b2n drift = n + if drift then 32 else 0 := by
  cases drift
  · rfl
  · rfl

theorem sntrd_issues (x : Site) (f : BitVec 52) (s : State) : exec (.sntrd x f) s = .next (issue x (insnWord 0x36 1 f) f [fRd f, fRa f] [] anyRoom
    (reserved (decide (fRb f = 0) && decide (fLow f = 0))) (fun s => sntEffect x f s (((thrAt s x).sReg (fRa f)).toNat % 8)) s) := by
  rw [exec_sntrd, execSntrd]
  congr
  funext s
  simp only [drift_place]
  split
  · next is => rw [is]; rfl
  · next is => rw [is]; rfl
  · next is => rw [is, ← BitVec.ofNat_toNat]; rfl
  · next is => rw [is]; rfl
  · next is => rw [is, ← BitVec.ofNat_toNat]; rfl
  · next n0 n1 n2 n3 n4 =>
    rw [imp_false] at n0 n1 n2 n3 n4
    exact (if_neg (by omega)).symm

theorem sntrd_static (rb : fRb f = 0) (low : fLow f = 0) : reserved (decide (fRb f = 0) && decide (fLow f = 0)) = none :=
  reserved_of (by simp [rb, low])

theorem sntshd_becomes (hi : issuable s x (insnWord 0x36 2 f) f [fRa f, fRb f] [] = true) (rd : fRd f = 0) (low : fLow f = 0)
    (a : ((thrAt s x).sReg (fRa f)).toNat % 1024 = 0) (b : ((thrAt s x).sReg (fRb f)).toNat % 1024 = 0) : ∃ t, exec (.sntshd x f) s = .next t ∧
      thrAt t x = { (thrAt s x).next with snt := { (thrAt s x).snt with
        shadow := some (((thrAt s x).sReg (fRa f)).toNat / 1024, ((thrAt s x).sReg (fRb f)).toNat / 1024) } } ∧ OnlyThread x s t := by
  have hc : exec (.sntshd x f) s = execSntshd x f s := rfl
  unfold execSntshd at hc
  have static : reserved (decide (fRd f = 0) && decide (fLow f = 0)) = none := reserved_of (by simp [rd, low])
  exact becomes_stepped hc hi rfl static ((if_neg (not_not.2 a)).trans (if_neg (not_not.2 b))) rfl

/-! ### Receive windows (R138) -/

/-- The fields of FWIN's operand as numbers. -/
theorem fwin_fields (v : DWord) (h : v.toNat < 2 ^ 42) : field v 18 0 = v.toNat % 2 ^ 19 ∧ field v 37 19 = v.toNat / 2 ^ 19 % 2 ^ 19 ∧
    field v 41 38 = v.toNat / 2 ^ 38 ∧ field v 63 42 = 0 := by
  simp only [field, Nat.reduceAdd, Nat.reduceSub]
  refine ⟨?_, trivial, ?_, ?_⟩ <;> omega

theorem fwin_becomes (hi : issuable s x (insnWord 0x38 2 f) f [fRa f] [] = true) (rd : fRd f < 16) (rb : fRb f = 0) (low : fLow f = 0)
    {base len : Nat} (hb : base = ((thrAt s x).sReg (fRa f)).toNat % 2 ^ 19) (hl : len = ((thrAt s x).sReg (fRa f)).toNat / 2 ^ 19 % 2 ^ 19)
    (wide : ((thrAt s x).sReg (fRa f)).toNat < 2 ^ 42) (b8 : base % 8 = 0) (l8 : len % 8 = 0)
    (inside : len ≠ 0 → (s.ember x.e.val).inRange (s.isBe x.e.val x.t.val) base len = true)
    (code : len ≠ 0 → (s.ember x.e.val).hitsCode base len = false) : ∃ t, exec (.fwin x f) s = .next t ∧
      thrAt t x = { (thrAt s x).next with
        win := (thrAt s x).win.set (fRd f) { base := base, len := len, tally := ((thrAt s x).sReg (fRa f)).toNat / 2 ^ 38 } } ∧
      OnlyThread x s t := by
  obtain ⟨fb, fl, ft, fz⟩ := fwin_fields _ wide
  rw [← hb] at fb
  rw [← hl] at fl
  have hc : exec (.fwin x f) s = execFwin x f s := rfl
  unfold execFwin at hc
  have static : reserved (decide (fRd f < 16) && decide (fRb f = 0) && decide (fLow f = 0)) = none := reserved_of (by simp [rd, rb, low])
  refine becomes_stepped (g := fun h => { h with win := h.win.set (fRd f) { base := base, len := len, tally := _ } }) hc hi rfl static ?_ rfl
  simp only [fb, fl, ft, fz]
  rw [if_neg (by decide), if_neg (by omega), if_neg fun bad => by simp [beAt, inside bad.1] at bad, if_neg fun bad => by simp [code bad.1] at bad]

end

end Sys2Proof.Machine

namespace Sys2Proof

open Machine

/-- Settles O17: each form issues once the thread's tile instructions have completed, and changes its own thread alone. -/
theorem statisticsReads : Obligations.StatisticsReads := by
  intro x f s h order at_ becomes rows
  have row : ∀ {minor c val}, exec c s = .next (issueStat minor x f false false (rowsToV minor (fRd f)) s) → rowValue minor = val → rows minor c val := by
    rintro minor c val hc rfl ⟨hi, waits, ra, rb, low⟩
    have read := stat_becomes hc hi waits ra rb low (fun h => nomatch h) (stepOne_rowsToV ..)
    rw [rowsToV] at read
    exact ⟨_, read, lane_lanes_rows fun r => rowValue minor (h.rows.get r)⟩
  refine ⟨row rfl rfl, row rfl rfl, row rfl rfl, row rfl rfl, row rfl rfl, row rfl rfl, ?status, ?clear, ?clearSticky,
    fun hi waits imm entry small => sctrd_becomes hi waits imm entry small⟩
  case status =>
    rintro ⟨hi, waits, ra, rb, low⟩
    exact stat_becomes (srd := true) rfl hi waits ra rb low (fun h => nomatch h) (stepOne_setS ..)
  case clear =>
    rintro ⟨hi, waits, ra, rb, low⟩ rd
    exact stat_becomes (srd := false) (eff := fun h => { h with rows := Tab.const rowZero }) rfl hi waits ra rb low (fun _ => rd) rfl
  case clearSticky =>
    rintro ⟨hi, waits, ra, rb, low⟩ rd
    exact ⟨_, stat_becomes (srd := false) (eff := fun h => { h with tsw := withField h.tsw 7 0 0 }) rfl hi waits ra rb low (fun _ => rd) rfl,
      bitAt_clearSticky _⟩

/-- Settles O18: each instruction issues with its checks passed, or raises. -/
theorem sentinelAndWindows : Obligations.SentinelAndWindows := by
  intro x f s h becomes ra rb
  refine ⟨fun hi rd ra imm => ⟨sntcfg_stages hi rd ra imm, sntcfg_raises hi rd ra imm⟩, ?read, sntshd_becomes,
    fun hi rd rb low wide b8 l8 inside code => fwin_becomes hi rd rb low rfl rfl wide b8 l8 inside code⟩
  case read =>
    intro hi rb low i v
    exact ⟨fun few => becomes_stepped (sntrd_issues x f s) hi rfl (sntrd_static rb low) (if_pos few) (stepOne_setS ..),
      fun many => exec_raised (sntrd_issues x f s) hi rfl (sntrd_static rb low) (if_neg (Nat.not_lt.2 many))⟩

end Sys2Proof
end

section
/-! The completion of tile instructions and the sentinel's verdict (R119, R122, R123, R127, R181 to R183), O20 and O21. -/

namespace Sys2Proof.Machine

/-! ### Parts of a thread and of an ember that an operation keeps -/

/-- A part of a thread that is neither its tallies nor its wait does not change when a tally counts. -/
theorem threadPart_tallyAdd {α : Type} (g : Thread → α)
    (hg : ∀ h q cond st hp, g { h with q := q, cond := cond, st := st, haltPend := hp } = g h) (l t q k : Nat) (s : State) :
    g ((tallyAdd l t q k s).thread l t) = g (s.thread l t) := by
  by_cases lost : (s.thread l t).st = .lost
  · rw [tallyAdd, if_pos lost]
  · have own := hg (s.thread l t) ((s.thread l t).q.set q (satAdd ((s.thread l t).q.get q) k)) (s.thread l t).cond (s.thread l t).st
      (s.thread l t).haltPend
    rcases tallyAdd_thread l t q k s lost with same | ⟨-, -, rest⟩
    · rw [same]
      exact own
    · rw [← own, ← rest]
      exact (hg _ _ _ _ _).symm

theorem emberPart_modThread {α : Type} (g : Ember → α) (hg : ∀ m thr, g { m with thr := thr } = g m) (l t : Nat) (f : Thread → Thread) (s : State)
    (k : Nat) : g ((s.modThread l t f).ember k) = g (s.ember k) := by
  rw [← hg ((s.modThread l t f).ember k) (s.ember k).thr, ember_modThread]

theorem emberPart_modEmber {α : Type} (g : Ember → α) {f : Ember → Ember} (hf : ∀ m, g (f m) = g m) (l : Nat) (s : State) (k : Nat) :
    g ((s.modEmber l f).ember k) = g (s.ember k) := by
  rw [ember_modEmber]
  split
  · exact hf _
  · rfl

theorem thread_modThread_same (l t : Nat) (f : Thread → Thread) (s : State) : (s.modThread l t f).thread l t = f (s.thread l t) := by
  rw [thread_modThread, if_pos ⟨rfl, rfl⟩]

/-! ### Leaving the queue -/

/-- Remove the executing instruction from a tile queue. -/
def Ember.popTile (m : Ember) : Ember := { m with tileQ := m.tileQ.filter fun e => decide (e.st ≠ .active) }

theorem popTile_ember (l : Nat) (s : State) (k : Nat) : (popTile l s).ember k = (s.modEmber l Ember.popTile).ember k := by
  rw [State.ember, popTile, returnBe_quarters]
  rfl

theorem returnBe_abort (n : Nat) (s : State) (k : Nat) : ((returnBe n s).part k).abort = (s.part k).abort := by
  unfold returnBe
  split
  · rfl
  · rw [part_modPart]
    split
    · rfl
    · rfl

theorem feedEntry_abort (l : Nat) (e : TileEntry) (r : Option Sample) (s : State) (k : Nat) :
    ((feedEntry l e r s).part k).abort = (s.part k).abort := by
  unfold feedEntry
  split
  · rfl
  · rfl

/-- A part of an ember that is not the sentinel buffer. -/
theorem feedEntry_ember {α : Type} (g : Ember → α) (hg : ∀ m b, g { m with sentBuf := b } = g m) (l : Nat) (e : TileEntry) (r : Option Sample)
    (s : State) (k : Nat) : g ((feedEntry l e r s).ember k) = g (s.ember k) := by
  unfold feedEntry
  split
  · exact emberPart_modEmber g (fun m => hg m _) l s k
  · rfl

/-! ### The executing TMMA completes (R119, R123) -/

/-- A TMMA has consumed its operands: it has left the queue, its sums stand in the accumulator set, and its tally has counted. -/
structure TileCounted (l : Nat) (e : TileEntry) (acc : AccSet) (s u : State) : Prop where
  scratch : (u.ember l).scratch = (s.ember l).scratch
  queue : (u.ember l).tileQ = (s.ember l).tileQ.filter fun a => decide (a.st ≠ .active)
  misses : (u.ember l).sentMiss = (s.ember l).sentMiss
  tally : (s.thread l e.t).st ≠ .lost →
    (u.thread l e.t).q.get (matDesc e.desc).tally = satAdd ((s.thread l e.t).q.get (matDesc e.desc).tally) 1
  acc : (u.thread l e.t).acc = acc
  rows : (u.thread l e.t).rows = (s.thread l e.t).rows
  status : (u.thread l e.t).tsw = (s.thread l e.t).tsw
  counts : u.snt = s.snt
  host : u.host = s.host
  aborts : ∀ n, (u.part n).abort = (s.part n).abort

section
variable {l : Nat} {e : TileEntry} {r : Option Sample} {strike : List Nat} {s : State}

/-- The state in which the executing instruction has met its upsets, fed the sentinel buffer and left the queue. -/
def tileLeft (l : Nat) (e : TileEntry) (r : Option Sample) (strike : List Nat) (s : State) : State :=
  popTile l (feedEntry l e r (s.modEmber l (Ember.strike strike)))

/-- A part of an ember that leaving the queue does not touch. -/
theorem tileLeft_ember {α : Type} (g : Ember → α) (hg : ∀ m bad buf q, g { m with badParity := bad, sentBuf := buf, tileQ := q } = g m) :
    g ((tileLeft l e r strike s).ember l) = g (s.ember l) := by
  rw [tileLeft, popTile_ember, emberPart_modEmber g (f := Ember.popTile) (fun m => hg m m.badParity m.sentBuf _),
    feedEntry_ember g (fun m b => hg m m.badParity b m.tileQ), emberPart_modEmber g (f := Ember.strike strike) fun m => hg m _ m.sentBuf m.tileQ]

theorem tileLeft_queue : ((tileLeft l e r strike s).ember l).tileQ = (s.ember l).tileQ.filter fun a => decide (a.st ≠ .active) := by
  have kept : ((feedEntry l e r (s.modEmber l (Ember.strike strike))).ember l).tileQ = (s.ember l).tileQ := by
    rw [feedEntry_ember Ember.tileQ (fun _ _ => rfl), emberPart_modEmber Ember.tileQ (f := Ember.strike strike) fun _ => rfl]
  rw [tileLeft, popTile_ember, ember_modEmber_same, Ember.popTile, kept]

theorem tileLeft_thread (t : Nat) : (tileLeft l e r strike s).thread l t = s.thread l t :=
  congrArg (fun thr : Tab Thread => thr.get t) (tileLeft_ember Ember.thr fun _ _ _ _ => rfl)

theorem feedEntry_snt (l : Nat) (e : TileEntry) (r : Option Sample) (s : State) : (feedEntry l e r s).snt = s.snt := by
  unfold feedEntry
  split
  · rfl
  · rfl

theorem feedEntry_host (l : Nat) (e : TileEntry) (r : Option Sample) (s : State) : (feedEntry l e r s).host = s.host := by
  unfold feedEntry
  split
  · rfl
  · rfl

theorem popTile_snt (l : Nat) (s : State) : (popTile l s).snt = s.snt := by
  unfold popTile returnBe
  split
  · rfl
  · rfl

theorem popTile_host (l : Nat) (s : State) : (popTile l s).host = s.host := by
  unfold popTile returnBe
  split
  · rfl
  · rfl

theorem tileLeft_snt : (tileLeft l e r strike s).snt = s.snt := by
  rw [tileLeft, popTile_snt, feedEntry_snt]
  rfl

theorem tileLeft_host : (tileLeft l e r strike s).host = s.host := by
  rw [tileLeft, popTile_host, feedEntry_host]
  rfl

theorem tileLeft_abort (n : Nat) : ((tileLeft l e r strike s).part n).abort = (s.part n).abort := by
  rw [tileLeft, popTile, returnBe_abort, modEmber_part, feedEntry_abort]
  rfl

/-- What a tally's count leaves of the device outside the embers. -/
theorem tallyAdd_outside {α : Type} (g : State → α) (hg : ∀ s q, g { s with quarters := q } = g s) (l t q k : Nat) (s : State) :
    g (tallyAdd l t q k s) = g s := by
  obtain ⟨rest, -⟩ := onlyEmbers_tallyAdd l t q k s
  rw [← hg (tallyAdd l t q k s) s.quarters, rest]

theorem tileCounted_tallyAdd (acc : AccSet) (snt : Thread → Sentinel) : TileCounted l e acc s (tallyAdd l e.t (matDesc e.desc).tally 1
    ((tileLeft l e r strike s).modThread l e.t fun h => { h with acc := acc, snt := snt h })) := by
  have own : ((tileLeft l e r strike s).modThread l e.t fun h => { h with acc := acc, snt := snt h }).thread l e.t =
      { s.thread l e.t with acc := acc, snt := snt (s.thread l e.t) } := by rw [thread_modThread_same, tileLeft_thread]
  constructor
  case scratch =>
    rw [emberPart_tallyAdd Ember.scratch (fun _ _ _ => rfl), emberPart_modThread Ember.scratch (fun _ _ => rfl),
      tileLeft_ember Ember.scratch fun _ _ _ _ => rfl]
  case queue =>
    rw [emberPart_tallyAdd Ember.tileQ (fun _ _ _ => rfl), emberPart_modThread Ember.tileQ (fun _ _ => rfl), tileLeft_queue]
  case misses =>
    rw [emberPart_tallyAdd Ember.sentMiss (fun _ _ _ => rfl), emberPart_modThread Ember.sentMiss (fun _ _ => rfl),
      tileLeft_ember Ember.sentMiss fun _ _ _ _ => rfl]
  case tally =>
    intro running
    rw [tallyAdd_counts (by rw [own]; exact running), own]
  case acc => rw [threadPart_tallyAdd Thread.acc (fun _ _ _ _ _ => rfl), own]
  case rows => rw [threadPart_tallyAdd Thread.rows (fun _ _ _ _ _ => rfl), own]
  case status => rw [threadPart_tallyAdd Thread.tsw (fun _ _ _ _ _ => rfl), own]
  case counts =>
    rw [tallyAdd_outside State.snt fun _ _ => rfl]
    exact tileLeft_snt
  case host =>
    rw [tallyAdd_outside State.host fun _ _ => rfl]
    exact tileLeft_host
  case aborts =>
    intro n
    rw [State.part, tallyAdd_parts]
    exact tileLeft_abort n

end

/-- What an instruction's run makes of its thread's sentinel: its drift comparison, and the reference as far as the chain has come (R181, R184). -/
def tileSentinel (m : Memory) (e : TileEntry) (ta tb : Bool) (r : Option Sample) (c : Sentinel) : Sentinel :=
  { (match e.sample, e.shadow with
      | some p, some sh => driftCompare m (matDesc e.desc) ta tb e.fix p.1 p.2 sh c
      | _, _ => c) with sample := if e.final then none else r }

/-- A TMMA that may complete and meets no upset (R119, R123). -/
theorem tileComplete_counts {l : EmberId} {e : TileEntry} {strike : List Nat} {s : State} {cc : Nat} {ta tb : Bool}
    (active : (s.ember l.val).activeTile = some e) (op : e.op = .tmma cc ta tb)
    (ready : (e.final && (entrySample s l.val e).isSome && e.verdict.isNone) = false)
    (clean : tileBad ((s.ember l.val).strike strike) (matDesc e.desc) cc ta tb (if e.sample.isSome then e.shadow else none) = []) :
    ∃ u, TileCounted l.val e (entryAcc s l.val e) s u ∧ exec (.tileComplete l strike) s =
      .next (if e.final then finishTile l.val e (matDesc e.desc) (entryAcc s l.val e) u else u) := by
  have sums : entryAcc (s.modEmber l.val (Ember.strike strike)) l.val e = entryAcc s l.val e := by
    simp only [entryAcc, ember_modEmber_same, thread_strike, scratch_strike]
  refine ⟨_, tileCounted_tallyAdd (r := entrySample s l.val e) (strike := strike) _
    fun h => tileSentinel (s.ember l.val).scratch e ta tb (entrySample s l.val e) h.snt, ?_⟩
  have run : exec (.tileComplete l strike) s = execTileComplete l strike s := rfl
  rw [run, execTileComplete]
  simp only [active, op, ready, ember_modEmber_same, scratch_strike, clean, List.isEmpty_nil, Bool.not_true, Bool.false_eq_true,
    if_false, sums]
  rfl

/-! ### Output (R121, R122, R70) -/

/-- The outputs of the 256 positions before conversion (R121). -/
def tileOutputs (m : Memory) (d : MatDesc) (e : TileEntry) (a : AccSet) : List FpR :=
  (List.range 256).map fun i => epilogue m d (entryTotal e a i) (i / 16) (i % 16)

/-- An output converted to its format (R122). -/
def tileCode (e : TileEntry) (x : FpR) : Nat × Bool := convertTo e.fix.oFmt ((fmtOfCode e.fix.oFmt).getD fmtFp32) (decF x.w) e.fix.oX

/-- Scratch with the output elements written. -/
def tileMemory (m : Memory) (d : MatDesc) (e : TileEntry) (a : AccSet) : Memory :=
  (((tileOutputs m d e a).map (tileCode e)).zipIdx).foldl (fun m (c, i) => putOut m d e.fix.oFmt (i / 16) (i % 16) c.1) m

/-- The row statistics with the outputs taken in (R70). -/
def tileRows (m : Memory) (d : MatDesc) (e : TileEntry) (a : AccSet) (rows : Tab RowStat) : Tab RowStat :=
  (List.range 16).foldl (fun t r => t.upd r (RowStat.update ((((tileOutputs m d e a).drop (16 * r)).take 16).map (·.w)))) rows

/-- What a FINISH or SINGLE has done before a miss is counted. -/
structure TileFinished (l : Nat) (e : TileEntry) (d : MatDesc) (a : AccSet) (s u : State) : Prop where
  scratch : (u.ember l).scratch = tileMemory (s.ember l).scratch d e a
  queue : (u.ember l).tileQ = (s.ember l).tileQ
  misses : (u.ember l).sentMiss = (s.ember l).sentMiss
  tallies : (u.thread l e.t).q = (s.thread l e.t).q
  acc : (u.thread l e.t).acc = (s.thread l e.t).acc
  rows : (u.thread l e.t).rows = tileRows (s.ember l).scratch d e a (s.thread l e.t).rows
  counts : u.snt = s.snt
  host : u.host = s.host
  aborts : ∀ n, (u.part n).abort = (s.part n).abort

section
variable (n : Nat) (be : Bool) (i : Nat) (a : Word) (sat : Bool) (s : State)

theorem foldSat_quarters : (foldSat n be i sat s).quarters = s.quarters := by
  unfold foldSat
  split
  · rfl
  · rfl

theorem foldSat_snt : (foldSat n be i sat s).snt = s.snt := by
  unfold foldSat
  split
  · rfl
  · rfl

theorem foldSat_host : (foldSat n be i sat s).host = s.host := by
  unfold foldSat
  split
  · rfl
  · rfl

theorem foldMax_abort (k : Nat) : ((foldMax n be i a s).part k).abort = (s.part k).abort :=
  part_modPart_keeps Part.abort (f := fun p => { p with sct := p.sct.upd (sctKey be i) _ }) (fun _ => rfl) n s k

theorem foldSat_abort (k : Nat) : ((foldSat n be i sat s).part k).abort = (s.part k).abort := by
  unfold foldSat
  split
  · exact part_modPart_keeps Part.abort (f := fun p => { p with sct := p.sct.upd (sctKey be i) _ }) (fun _ => rfl) n s k
  · rfl

end

/-- OR tile flags into an ember's flags (R124). -/
def Ember.orFlags (fl : Nat) (m : Ember) : Ember := { m with flags := m.flags ||| BitVec.ofNat 4 fl }

/-- OR tile flags into a thread's status word (R124). -/
def Thread.orFlags (fl : Nat) (h : Thread) : Thread := { h with tsw := h.tsw ||| BitVec.ofNat 64 fl }

theorem orFlags_eq (l t fl : Nat) (s : State) : orFlags l t fl s = (s.modThread l t (Thread.orFlags fl)).modEmber l (Ember.orFlags fl) := rfl

theorem orFlags_ember {α : Type} (g : Ember → α) (hg : ∀ m thr fl, g { m with thr := thr, flags := fl } = g m) (l t fl : Nat) (s : State) (k : Nat) :
    g ((orFlags l t fl s).ember k) = g (s.ember k) := by
  rw [orFlags_eq, emberPart_modEmber g (f := Ember.orFlags fl) (fun m => hg m m.thr _), emberPart_modThread g (fun m thr => hg m thr m.flags)]

theorem orFlags_thread (l t fl : Nat) (s : State) : (orFlags l t fl s).thread l t = (s.thread l t).orFlags fl := by
  rw [orFlags_eq, thread_modEmber_of_thr (Ember.orFlags fl) (fun _ => rfl), thread_modThread_same]

/-- Write an ember's scratch whole, with the parity bits. -/
def Ember.putScratch (mem : Memory) (bad : Ember → List Nat) (m : Ember) : Ember := { m with scratch := mem, badParity := bad m }

/-- Write a thread's row statistics and status word. -/
def Thread.putStats (rows : Tab RowStat → Tab RowStat) (tsw : Thread → DWord) (h : Thread) : Thread := { h with rows := rows h.rows, tsw := tsw h }

section
variable (mem : Memory) (bad : Ember → List Nat) (m : Ember)

theorem putScratch_scratch : (m.putScratch mem bad).scratch = mem := rfl
theorem putScratch_tileQ : (m.putScratch mem bad).tileQ = m.tileQ := rfl
theorem putScratch_sentMiss : (m.putScratch mem bad).sentMiss = m.sentMiss := rfl

end

section
variable (rows : Tab RowStat → Tab RowStat) (tsw : Thread → DWord) (fl : Nat) (h : Thread)

theorem putStats_q : ((h.putStats rows tsw).orFlags fl).q = h.q := rfl
theorem putStats_acc : ((h.putStats rows tsw).orFlags fl).acc = h.acc := rfl
theorem putStats_rows : ((h.putStats rows tsw).orFlags fl).rows = rows h.rows := rfl

end

section
variable (l : Nat) (e : TileEntry) (d : MatDesc) (a : AccSet) (s : State)

/-- Output, row statistics and flags of a FINISH or SINGLE in its ember, before what it folds into the scale table (R121, R122, R124, R70). -/
def tileWritten (bad : Ember → List Nat) (tsw : Thread → DWord) (fl : Nat) : State :=
  orFlags l e.t fl ((s.modEmber l (Ember.putScratch (tileMemory (s.ember l).scratch d e a) bad)).modThread l e.t
    (Thread.putStats (tileRows (s.ember l).scratch d e a) tsw))

theorem tileWritten_thread (bad : Ember → List Nat) (tsw : Thread → DWord) (fl : Nat) : (tileWritten l e d a s bad tsw fl).thread l e.t =
    ((s.thread l e.t).putStats (tileRows (s.ember l).scratch d e a) tsw).orFlags fl := by
  rw [tileWritten, orFlags_thread, thread_modThread_same, thread_modEmber_of_thr (Ember.putScratch _ bad) (fun _ => rfl)]

theorem tileFinished_written (bad : Ember → List Nat) (tsw : Thread → DWord) (fl : Nat) : TileFinished l e d a s (tileWritten l e d a s bad tsw fl) := by
  have thread := tileWritten_thread l e d a s bad tsw fl
  constructor
  case scratch =>
    rw [tileWritten, orFlags_ember Ember.scratch (fun _ _ _ => rfl), emberPart_modThread Ember.scratch (fun _ _ => rfl), ember_modEmber_same,
      putScratch_scratch]
  case queue =>
    rw [tileWritten, orFlags_ember Ember.tileQ (fun _ _ _ => rfl), emberPart_modThread Ember.tileQ (fun _ _ => rfl), ember_modEmber_same,
      putScratch_tileQ]
  case misses =>
    rw [tileWritten, orFlags_ember Ember.sentMiss (fun _ _ _ => rfl), emberPart_modThread Ember.sentMiss (fun _ _ => rfl), ember_modEmber_same,
      putScratch_sentMiss]
  case tallies => rw [thread, putStats_q]
  case acc => rw [thread, putStats_acc]
  case rows => rw [thread, putStats_rows]
  case counts => rw [tileWritten, orFlags_eq, modEmber_snt, modThread_snt, modThread_snt, modEmber_snt]
  case host => rw [tileWritten, orFlags_eq, modEmber_host, modThread_host, modThread_host, modEmber_host]
  case aborts =>
    intro n
    rw [tileWritten, orFlags_eq, modEmber_part, modThread_part, modThread_part, modEmber_part]

variable {l e d a s} {u : State}

/-- A fold into the scale table (R162) changes a partition alone. -/
theorem TileFinished.folded (h : TileFinished l e d a s u) {v : State} (quarters : v.quarters = u.quarters) (snt : v.snt = u.snt)
    (host : v.host = u.host) (aborts : ∀ n, (v.part n).abort = (u.part n).abort) : TileFinished l e d a s v := by
  have ember : v.ember l = u.ember l := by rw [State.ember, quarters, State.ember]
  have thread : v.thread l e.t = u.thread l e.t := by rw [State.thread, ember, State.thread]
  constructor
  case scratch => rw [ember, h.scratch]
  case queue => rw [ember, h.queue]
  case misses => rw [ember, h.misses]
  case tallies => rw [thread, h.tallies]
  case acc => rw [thread, h.acc]
  case rows => rw [thread, h.rows]
  case counts => rw [snt, h.counts]
  case host => rw [host, h.host]
  case aborts => exact fun n => (aborts n).trans (h.aborts n)

theorem TileFinished.foldMax (h : TileFinished l e d a s u) (en : Bool) (n : Nat) (be : Bool) (i : Nat) (max : Word) :
    TileFinished l e d a s (if en then Machine.foldMax n be i max u else u) := by
  split
  · exact h.folded rfl rfl rfl (foldMax_abort n be i max u)
  · exact h

theorem TileFinished.foldSat (h : TileFinished l e d a s u) (n : Nat) (be : Bool) (i : Nat) (sat : Bool) :
    TileFinished l e d a s (Machine.foldSat n be i sat u) :=
  h.folded (foldSat_quarters ..) (foldSat_snt ..) (foldSat_host ..) (foldSat_abort n be i sat u)

end

theorem finishTile_cases (l : Nat) (e : TileEntry) (d : MatDesc) (a : AccSet) (s : State) : ∃ u, TileFinished l e d a s u ∧
    finishTile l e d a s = if e.verdict = some true then sentinelMiss l e.t e.be u else u :=
  ⟨_, ((tileFinished_written l e d a s _ _ _).foldMax ..).foldSat .., rfl⟩

/-! ### The bytes and the statistics that an output leaves -/

/-- An output element lies in the extents of the output (R122). -/
theorem putOut_outside (m : Memory) (d : MatDesc) (fmt i n code b : Nat) (hi : i < 16) (hn : n < 16)
    (outside : ∀ x ∈ outExts d fmt, ¬ (x.off ≤ (b : Int) ∧ (b : Int) < x.off + (x.len : Int))) : (putOut m d fmt i n code).get b = m.get b := by
  have here := fun x hx => outside x (List.mem_map.2 ⟨i, List.mem_range.2 hi, hx⟩)
  unfold putOut
  dsimp only at here ⊢
  split
  · have row := here { off := 1024 * (d.oBrick : Int) + 64 * (i : Int), len := 64 } rfl
    dsimp only at row
    exact Memory.get_write_outside _ _ (by rw [length_leBytes]; omega)
  · have row := here { off := 1024 * (d.oBrick : Int) + 64 * (i : Int) + 32 * (d.oPanel : Int), len := 32 } rfl
    dsimp only at row
    exact Memory.get_write_outside _ _ (by rw [length_leBytes]; omega)
  · next n5 n3 =>
    have row := here { off := 1024 * (d.oBrick : Int) + 64 * (i : Int) + 16 * (d.oPanel : Int), len := 16 } (by
      split
      · exact absurd rfl n5
      · exact absurd rfl n3
      · rfl)
    dsimp only at row
    rw [Memory.get_put, if_neg (by omega)]

/-- Scratch outside the extents of an output is as it was (R122). -/
theorem tileMemory_outside (m : Memory) (d : MatDesc) (e : TileEntry) (a : AccSet) (b : Nat)
    (outside : ∀ x ∈ outExts d e.fix.oFmt, ¬ (x.off ≤ (b : Int) ∧ (b : Int) < x.off + (x.len : Int))) : (tileMemory m d e a).get b = m.get b := by
  have kept : ∀ (cs : List ((Nat × Bool) × Nat)), (∀ c ∈ cs, c.2 < 256) → ∀ m : Memory,
      (cs.foldl (fun m (c, i) => putOut m d e.fix.oFmt (i / 16) (i % 16) c.1) m).get b = m.get b := by
    intro cs
    induction cs with
    | nil => exact fun _ _ => rfl
    | cons c cs ih =>
      intro places m
      have place := places c (List.mem_cons_self ..)
      rw [List.foldl_cons, ih fun c hc => places c (List.mem_cons_of_mem _ hc)]
      exact putOut_outside _ _ _ _ _ _ _ (by omega) (by omega) outside
  refine kept _ (fun c hc => ?_) m
  have place := (List.mem_zipIdx hc).2.1
  simpa [tileOutputs] using place

/-- Words written one after another: each is where it was put, and what lies outside is as it was. -/
theorem get_foldl_write4 (base : Nat) (cs : List (Nat × Bool)) (m : Memory) (j i b : Nat) (hb : b < 4) :
    ((cs.zipIdx j).foldl (fun (m : Memory) (c, i) => m.write (base + 4 * i) (leBytes 4 c.1)) m).get (base + 4 * i + b) =
      if h : j ≤ i ∧ i - j < cs.length then BitVec.ofNat 8 ((cs[i - j]'h.2).1 / 256 ^ b) else m.get (base + 4 * i + b) := by
  induction cs generalizing m j with
  | nil => rw [dif_neg (by simp)]; rfl
  | cons c cs ih =>
    rw [List.zipIdx_cons, List.foldl_cons, ih, get_write_leBytes]
    by_cases later : j + 1 ≤ i ∧ i - (j + 1) < cs.length
    · have place : i - j = i - (j + 1) + 1 := by omega
      rw [dif_pos later, dif_pos ⟨by omega, by rw [List.length_cons]; omega⟩]
      simp only [place, List.getElem_cons_succ]
    · rw [dif_neg later]
      by_cases here : i = j
      · subst here
        rw [dif_pos ⟨Nat.le_refl _, by rw [List.length_cons]; omega⟩, if_pos (by omega)]
        simp
      · rw [dif_neg (by rw [List.length_cons]; omega), if_neg (by omega)]

/-- The bytes of an FP32 output (R122). -/
theorem tileMemory_fp32 (m : Memory) (d : MatDesc) (e : TileEntry) (a : AccSet) (fmt : e.fix.oFmt = 5) (i : Fin 256) (b : Fin 4) :
    (tileMemory m d e a).get (1024 * d.oBrick + 4 * i.val + b.val) = BitVec.ofNat 8
      ((convertTo 5 fmtFp32 (decF (epilogue m d (entryTotal e a i.val) (i.val / 16) (i.val % 16)).w) e.fix.oX).1 / 256 ^ b.val) := by
  have place : ∀ (m : Memory) (c i : Nat), putOut m d 5 (i / 16) (i % 16) c = m.write (1024 * d.oBrick + 4 * i) (leBytes 4 c) := by
    intro m c i
    have off : 1024 * d.oBrick + 64 * (i / 16) + 4 * (i % 16) = 1024 * d.oBrick + 4 * i := by omega
    exact congrArg (fun o => m.write o (leBytes 4 c)) off
  unfold tileMemory
  simp only [fmt, place]
  rw [get_foldl_write4 _ _ _ 0 i.val b.val b.isLt, dif_pos ⟨Nat.zero_le _, by simp [tileOutputs]⟩]
  simp only [tileOutputs, List.map_map, List.getElem_map, List.getElem_range, Nat.sub_zero, Function.comp_apply, tileCode, fmt]
  rfl

theorem get_foldl_upd_range {α : Type} [DecidableEq α] (f : Nat → α → α) (n k : Nat) (t : Tab α) :
    ((List.range n).foldl (fun t r => t.upd r (f r)) t).get k = if k < n then f k (t.get k) else t.get k := by
  induction n with
  | zero => rfl
  | succ n ih =>
    rw [List.range_succ, List.foldl_append, List.foldl_cons, List.foldl_nil, Tab.get_upd_at, ih]
    by_cases here : n = k
    · subst here
      rw [if_pos rfl, if_neg (Nat.lt_irrefl _), if_pos (Nat.lt_succ_self _)]
    · rw [if_neg here]
      by_cases less : k < n
      · rw [if_pos less, if_pos (by omega)]
      · rw [if_neg less, if_neg (by omega)]

/-- A row's 16 outputs. -/
theorem tileOutputs_row (m : Memory) (d : MatDesc) (e : TileEntry) (a : AccSet) (r : Fin 16) :
    (((tileOutputs m d e a).drop (16 * r.val)).take 16).map (·.w) = (List.range 16).map fun n =>
      (epilogue m d (entryTotal e a (16 * r.val + n)) ((16 * r.val + n) / 16) ((16 * r.val + n) % 16)).w := by
  apply List.ext_getElem
  · simp [tileOutputs]
    omega
  · intro n _ _
    simp [tileOutputs]

theorem tileRows_get (m : Memory) (d : MatDesc) (e : TileEntry) (a : AccSet) (rows : Tab RowStat) (r : Fin 16) :
    (tileRows m d e a rows).get r.val = RowStat.update ((List.range 16).map fun n =>
      (epilogue m d (entryTotal e a (16 * r.val + n)) ((16 * r.val + n) / 16) ((16 * r.val + n) % 16)).w) (rows.get r.val) := by
  rw [tileRows, get_foldl_upd_range fun r => RowStat.update ((((tileOutputs m d e a).drop (16 * r)).take 16).map (·.w)), if_pos r.isLt,
    tileOutputs_row]

/-! ### The executing TMMA, by its chain code -/

section
variable {l : EmberId} {e : TileEntry} {strike : List Nat} {s : State} {cc : Nat} {ta tb : Bool}
  (active : (s.ember l.val).activeTile = some e) (op : e.op = .tmma cc ta tb)
  (clean : tileBad ((s.ember l.val).strike strike) (matDesc e.desc) cc ta tb (if e.sample.isSome then e.shadow else none) = [])
include op

theorem final_of_op : e.final = decide (2 ≤ cc) := by
  rw [TileEntry.final, op]

include active clean

/-- A START or CONTINUE (R119). -/
theorem tileComplete_open (few : cc < 2) : ∃ u, TileCounted l.val e (entryAcc s l.val e) s u ∧ exec (.tileComplete l strike) s = .next u := by
  have more : e.final = false := (final_of_op op).trans (decide_eq_false (Nat.not_le.2 few))
  obtain ⟨u, counted, run⟩ := tileComplete_counts active op (by rw [more]; rfl) clean
  rw [more] at run
  exact ⟨u, counted, run⟩

/-- A FINISH or SINGLE with its verdict, where its chain was sampled (R119, R123). -/
theorem tileComplete_final (last : 2 ≤ cc) (judged : entrySample s l.val e = none ∨ e.verdict ≠ none) :
    ∃ u v, TileCounted l.val e (entryAcc s l.val e) s u ∧ TileFinished l.val e (matDesc e.desc) (entryAcc s l.val e) u v ∧
      exec (.tileComplete l strike) s = .next (if e.verdict = some true then sentinelMiss l.val e.t e.be v else v) := by
  have done : e.final = true := (final_of_op op).trans (decide_eq_true last)
  have ready : (e.final && (entrySample s l.val e).isSome && e.verdict.isNone) = false := by
    rcases judged with none | some
    · rw [none, Option.isSome_none, Bool.and_false, Bool.false_and]
    · rw [Option.isNone_eq_false_iff.2 (Option.isSome_iff_ne_none.2 some), Bool.and_false]
  obtain ⟨u, counted, run⟩ := tileComplete_counts active op ready clean
  obtain ⟨v, finished, ends⟩ := finishTile_cases l.val e (matDesc e.desc) (entryAcc s l.val e) u
  rw [if_pos done, ends] at run
  exact ⟨u, v, counted, finished, run⟩

end

/-! ### TQNT (R127) -/

theorem sortNat_nil : sortNat [] = [] := rfl

section
variable (l : Nat) (e : TileEntry) (mem : Memory) (bad : Ember → List Nat) (fl : Nat) (en sat be : Bool) (n i : Nat) (max : Word) (s : State)

/-- A TQNT's output written and its absolute maximum and saturation folded into the scale table (R127, R162). -/
def quantFolded : State :=
  let u := s.modEmber l (Ember.putScratch mem bad)
  foldSat n be i sat (if en then foldMax n be i max u else u)

theorem quantFolded_quarters : (quantFolded l mem bad en sat be n i max s).quarters = (s.modEmber l (Ember.putScratch mem bad)).quarters := by
  rw [quantFolded, foldSat_quarters]
  split
  · rfl
  · rfl

theorem quantFolded_ember : (quantFolded l mem bad en sat be n i max s).ember l = (s.ember l).putScratch mem bad := by
  rw [State.ember, quantFolded_quarters, ← State.ember, ember_modEmber_same]

theorem quantFolded_thread (t : Nat) : (quantFolded l mem bad en sat be n i max s).thread l t = s.thread l t := by
  rw [State.thread, quantFolded_ember]
  rfl

end

/-- A TQNT that meets no upset (R127). -/
theorem tqntComplete_writes {l : EmberId} {e : TileEntry} {strike : List Nat} {s : State} {recipe rot : Nat}
    (active : (s.ember l.val).activeTile = some e) (op : e.op = .tqnt recipe rot) (running : (s.thread l.val e.t).st ≠ .lost)
    (clean : quantBad ((s.ember l.val).strike strike) (quantDesc e.desc) (rowElems e.fix.oFmt) = []) :
    ∃ t, exec (.tqntComplete l strike) s = .next t ∧
      (t.thread l.val e.t).q.get (quantDesc e.desc).tally = satAdd ((s.thread l.val e.t).q.get (quantDesc e.desc).tally) 1 ∧
      (t.ember l.val).tileQ = (s.ember l.val).tileQ.filter (fun a => decide (a.st ≠ .active)) ∧
      (t.ember l.val).scratch = (runQuant (s.ember l.val).scratch (quantDesc e.desc) recipe rot e.fix).mem := by
  let left := popTile l.val (s.modEmber l.val (Ember.strike strike))
  have scratch : (left.ember l.val).scratch = (s.ember l.val).scratch := by
    rw [popTile_ember, ember_modEmber_same, ember_modEmber_same]
    rfl
  have queue : (left.ember l.val).tileQ = (s.ember l.val).tileQ.filter fun a => decide (a.st ≠ .active) := by
    rw [popTile_ember, ember_modEmber_same, ember_modEmber_same]
    rfl
  have thread : left.thread l.val e.t = s.thread l.val e.t := by
    rw [State.thread, popTile_ember, ember_modEmber_same, ember_modEmber_same]
    rfl
  have run : exec (.tqntComplete l strike) s = execTqntComplete l strike s := rfl
  rw [run, execTqntComplete]
  simp only [active, op, ember_modEmber_same, clean, sortNat_nil, List.isEmpty_nil, Bool.not_true, Bool.false_eq_true, if_false]
  change ∃ t, Host.Outcome.next (tallyAdd l.val e.t _ 1 (orFlags l.val e.t _ (quantFolded l.val _ (fun m => cleanParity _ m.badParity)
    _ _ _ _ _ _ left))) = Host.Outcome.next t ∧ _
  rw [scratch]
  refine ⟨_, rfl, ?tally, ?queue, ?scratch⟩
  case tally =>
    have own (fl : Nat) (mem : Memory) (bad : Ember → List Nat) (en sat be : Bool) (n i : Nat) (max : Word) :
        (orFlags l.val e.t fl (quantFolded l.val mem bad en sat be n i max left)).thread l.val e.t = (s.thread l.val e.t).orFlags fl := by
      rw [orFlags_thread, quantFolded_thread, thread]
    rw [tallyAdd_counts (by rw [own]; exact running), own]
    rfl
  case queue =>
    rw [emberPart_tallyAdd Ember.tileQ (fun _ _ _ => rfl), orFlags_ember Ember.tileQ (fun _ _ _ => rfl), quantFolded_ember,
      putScratch_tileQ, queue]
  case scratch =>
    rw [emberPart_tallyAdd Ember.scratch (fun _ _ _ => rfl), orFlags_ember Ember.scratch (fun _ _ _ => rfl), quantFolded_ember,
      putScratch_scratch]

end Sys2Proof.Machine

namespace Sys2Proof

open Machine

/-- Settles O20: the steps of a completion are followed one by one, and what each leaves of the queue, of scratch and of the thread is read off. -/
theorem tileCompletes : Obligations.TileCompletes := by
  intro l strike s e m h d active running agreed counted
  refine ⟨fun cc ta tb op clean => ⟨fun few => ?sums, fun last judged => ?final⟩, fun recipe rot op clean => ?quant⟩
  case sums =>
    obtain ⟨t, done, run⟩ := tileComplete_open active op clean few
    exact ⟨t, run, ⟨done.tally running, done.queue⟩, done.acc, done.scratch, done.status⟩
  case final =>
    obtain ⟨u, t, done, written, run⟩ := tileComplete_final active op clean last judged
    rw [if_neg agreed] at run
    refine ⟨t, run, ⟨by rw [written.tallies, done.tally running], by rw [written.queue, done.queue]⟩, by rw [written.acc, done.acc],
      ?frame, ?fp32, ?rows⟩
    case frame =>
      intro b outside
      rw [written.scratch, done.scratch, tileMemory_outside _ _ _ _ _ outside]
    case fp32 =>
      intro fmt i b
      rw [written.scratch, done.scratch, tileMemory_fp32 _ _ _ _ fmt]
    case rows =>
      intro r
      rw [written.rows, done.scratch, done.rows, tileRows_get]
  case quant =>
    obtain ⟨t, run, tally, queue, scratch⟩ := tqntComplete_writes active op running clean
    exact ⟨t, run, ⟨tally, queue⟩, scratch⟩

end Sys2Proof
end

section
/-! The sentinel's verdict on a sampled chain, and the count of a miss (R181 to R183), O21. -/

namespace Sys2Proof.Machine

/-! ### The verdict -/

/-- The entry that the tile engine executes, in its queue. -/
theorem activeTile_split {m : Ember} {e : TileEntry} (active : m.activeTile = some e) : e.st = .active ∧
    ∃ pre post, m.tileQ = pre ++ e :: post ∧ ∀ a ∈ pre, decide (a.st = .active) = false := by
  obtain ⟨runs, pre, post, queue, before⟩ := List.find?_eq_some_iff_append.1 active
  exact ⟨of_decide_eq_true runs, pre, post, queue, fun a ha => Bool.not_eq_true' _ ▸ before a ha⟩

/-- A sampled FINISH or SINGLE receives its verdict (R181). -/
theorem sentinelVerdict_gives {l : EmberId} {s : State} {e : TileEntry} {r : Sample} (active : (s.ember l.val).activeTile = some e)
    (final : e.final = true) (sampled : entrySample s l.val e = some r) : exec (.sentinelVerdict l) s =
      .next (s.modEmber l.val (Ember.swapTile e { e with verdict := some (missTest (entryTotal e (entryAcc s l.val e) (16 * r.m + r.n)).w
        (foldWord r.ref).1 (foldWord r.mag).1 e.len (matDesc e.desc).k e.long (entryTotal e (entryAcc s l.val e) (16 * r.m + r.n)).sat
        (r.sat || r.magSat || (foldWord r.ref).2 || (foldWord r.mag).2)) })) := by
  have run : exec (.sentinelVerdict l) s = execSentinelVerdict l s := rfl
  rw [run, execSentinelVerdict]
  simp only [active, final, sampled]
  rfl

/-- The verdict changes the executing entry alone. -/
theorem verdict_becomes {l : EmberId} {c : Instr} {s : State} {e : TileEntry} (v : Option Bool) (active : (s.ember l.val).activeTile = some e)
    (run : exec c s = .next (s.modEmber l.val (Ember.swapTile e { e with verdict := v }))) :
    ∃ t, exec c s = .next t ∧ OnlyEmbers [l.val] s t ∧ (t.ember l.val).activeTile = some { e with verdict := v } ∧
      (t.ember l.val).tileQ.length = (s.ember l.val).tileQ.length := by
  obtain ⟨runs, pre, post, queue, before⟩ := activeTile_split active
  have first : e ∉ pre := fun inside => absurd (before e inside) (by rw [runs]; decide)
  obtain ⟨t, ends, only, left⟩ := swapTile_becomes queue first run
  refine ⟨t, ends, only, ?_, ?_⟩
  · rw [left]
    exact find?_append_cons before (decide_eq_true runs)
  · rw [left, queue, List.length_append, List.length_append, List.length_cons, List.length_cons]

/-! ### The count of a miss -/

/-- What the count of a miss in the health window leaves: all that a warning of the partitions and a frame leave (R457). -/
theorem healthSentinel_keeps {β : Type} (p : State → β) (health : ∀ s h, p { s with health := h } = p s)
    (part : ∀ n s f, (∀ q : Part, (f q).abort = q.abort) → p (s.modPart n f) = p s) (send : ∀ n d vc b s, p (sendFrame n d vc b s) = p s) (s : State) :
    p (healthSentinel s) = p s := by
  have asked (n reasons : Nat) (s : State) : p (ckAsk n reasons s) = p s := by
    unfold ckAsk
    simp only [apply_ite p, send, part, implies_true, ite_self]
  have warned (k : Nat) (ns : List Nat) (s : State) : p (healthWarn k ns s) = p s := by
    refine (foldl_keeps p _ (fun s n => ?_) ns _).trans (health s _)
    rw [asked, part]
    exact fun _ => rfl
  unfold healthSentinel
  simp only [apply_ite p, warned, health, ite_self]

theorem healthSentinel_sentMiss (l : Nat) (s : State) : ((healthSentinel s).ember l).sentMiss = (s.ember l).sentMiss :=
  healthSentinel_keeps (fun s => (s.ember l).sentMiss) (fun _ _ => rfl) (fun _ _ _ _ => rfl) (fun _ _ _ _ _ => by rw [sendFrame_ember]) s

theorem healthSentinel_snt (s : State) : (healthSentinel s).snt = s.snt :=
  healthSentinel_keeps State.snt (fun _ _ => rfl) (fun _ _ _ _ => rfl) sendFrame_snt s

theorem healthSentinel_host (s : State) : (healthSentinel s).host = s.host :=
  healthSentinel_keeps State.host (fun _ _ => rfl) (fun _ _ _ _ => rfl) sendFrame_host s

theorem healthSentinel_abort (n : Nat) (s : State) : ((healthSentinel s).part n).abort = (s.part n).abort :=
  healthSentinel_keeps (fun s => (s.part n).abort) (fun _ _ => rfl) (fun k s _ same => part_modPart_keeps Part.abort same k s n)
    (fun _ _ _ _ _ => by rw [sendFrame_part]) s

/-! ### The request for a step abort (R183) -/

theorem endParks_snt (n : Nat) (q : Nat → Nat → Bool) (s : State) : (endParks n q s).snt = s.snt := by
  refine foldl_keeps State.snt _ (fun s l => foldl_keeps State.snt _ (fun s t => ?_) _ _) _ _
  split
  · rfl
  · rfl

theorem endParks_ember (n : Nat) (q : Nat → Nat → Bool) (s : State) (k : Nat) : (endParks n q s).ember k = s.ember k := by
  refine foldl_keeps (State.ember · k) _ (fun s l => foldl_keeps (State.ember · k) _ (fun s t => ?_) _ _) _ _
  split
  · rfl
  · rfl

theorem pauseClass_snt (n : Nat) (be : Bool) (s : State) : (pauseClass n be s).snt = s.snt := by
  rw [pauseClass, mapEmbers_snt, endParks_snt]

theorem pauseClass_sentMiss (n : Nat) (be : Bool) {l : Nat} (inside : l < 25600) (s : State) :
    ((pauseClass n be s).ember l).sentMiss = (s.ember l).sentMiss := by
  rw [pauseClass, ember_mapEmbers _ _ _ _ inside, endParks_ember]
  split
  · rfl
  · rfl

theorem askRetire_sentMiss (c : RetireCause) (m : Ember) : (m.askRetire c).sentMiss = m.sentMiss := by
  unfold Ember.askRetire
  split
  · rfl
  · rfl

theorem startAbort_sentMiss (n cause k : Nat) (exc : Option ExcRec) {l : Nat} (inside : l < 25600) (s : State) :
    ((startAbort n cause k exc s).ember l).sentMiss = (s.ember l).sentMiss := by
  by_cases before : (s.part n).abort.request.isSome = true
  · rw [startAbort, if_pos before]
  · rw [startAbort, if_neg before, sendFrame_ember]
    split
    · rw [emberPart_modEmber Ember.sentMiss (askRetire_sentMiss _), pauseClass_sentMiss n false inside, modPart_ember]
    · rw [pauseClass_sentMiss n false inside, modPart_ember]

theorem startAbort_snt (n cause k : Nat) (exc : Option ExcRec) (s : State) : (startAbort n cause k exc s).snt = s.snt := by
  by_cases before : (s.part n).abort.request.isSome = true
  · rw [startAbort, if_pos before]
  · rw [startAbort, if_neg before, sendFrame_snt]
    split
    · rw [modEmber_snt, pauseClass_snt, modPart_snt]
    · rw [pauseClass_snt, modPart_snt]

/-- An abort is requested, and pauses the LC threads, unless one was requested before. -/
theorem startAbort_requests (n cause k : Nat) (exc : Option ExcRec) (s : State) :
    (s.part n).abort.request.isSome = true ∨
      ((startAbort n cause k exc s).part n).abort.request.isSome = true ∧ ((startAbort n cause k exc s).part n).pauseLc = true := by
  by_cases before : (s.part n).abort.request.isSome = true
  · exact .inl before
  · have asked (g : Part → Bool × Bool) (hg : ∀ p ctxs mem, g { p with ctxs := ctxs, mem := mem } = g p) : g ((startAbort n cause k exc s).part n) =
        g { s.part n with
          pauseLc := true
          abort := { request := some (cause, (s.part n).step.count), count := (s.part n).abort.count + 1, ember := k, exc := exc } } := by
      rw [startAbort, if_neg before, sendFrame_part]
      split
      · rw [modEmber_part, part_pauseClass g hg, part_modPart, if_pos rfl]
      · rw [part_pauseClass g hg, part_modPart, if_pos rfl]
    have both := asked (fun p => (p.abort.request.isSome, p.pauseLc)) fun _ _ _ => rfl
    exact .inr ⟨congrArg Prod.fst both, congrArg Prod.snd both⟩

/-- The state in which an ember and the device have counted a miss (R182, R453). -/
def missCounted (l t : Nat) (s : State) : State :=
  let c := satAdd (s.ember l).sentMiss 1
  healthSentinel { s.modEmber l (fun m =>
      let m := { m with sentMiss := c, sentOvf := m.sentOvf || satOvf m.sentMiss 1 }
      if s.snt.missLimit.toNat ≤ c.toNat then m.askRetire .sentinel else m) with
    snt := { s.snt with missTotal := satAdd s.snt.missTotal 1, missOvf := s.snt.missOvf || satOvf s.snt.missTotal 1
                        lastValid := true, lastThread := BitVec.ofNat 3 t, lastEmber := BitVec.ofNat 15 l } }

theorem sentinelMiss_eq (l t : Nat) (be : Bool) (s : State) : sentinelMiss l t be s =
    if be then missCounted l t s else startAbort ((missCounted l t s).partOf l) 3 l none (missCounted l t s) := rfl

section
variable (l t : Nat) (s : State)

theorem missCounted_sentMiss : ((missCounted l t s).ember l).sentMiss = satAdd (s.ember l).sentMiss 1 := by
  rw [missCounted, healthSentinel_sentMiss]
  refine (congrArg Ember.sentMiss (ember_modEmber_same l _ s)).trans ?_
  simp only
  split
  · exact askRetire_sentMiss _ _
  · rfl

theorem missCounted_snt : (missCounted l t s).snt =
    { s.snt with missTotal := satAdd s.snt.missTotal 1, missOvf := s.snt.missOvf || satOvf s.snt.missTotal 1
                 lastValid := true, lastThread := BitVec.ofNat 3 t, lastEmber := BitVec.ofNat 15 l } := by
  rw [missCounted, healthSentinel_snt]

theorem missCounted_host : (missCounted l t s).host = s.host := by
  rw [missCounted, healthSentinel_host]
  rfl

theorem missCounted_partOf (k : Nat) : (missCounted l t s).partOf k = s.partOf k := by
  rw [State.partOf, State.partOfQuarter, State.nParts, missCounted_host]
  rfl

theorem missCounted_abort (n : Nat) : ((missCounted l t s).part n).abort = (s.part n).abort := by
  rw [missCounted, healthSentinel_abort]
  rfl

end

/-- What the count of a miss leaves (R182, R183). -/
theorem sentinelMiss_counts (t : Nat) (be : Bool) {l : Nat} (inside : l < 25600) (s : State) :
    ((sentinelMiss l t be s).ember l).sentMiss = satAdd (s.ember l).sentMiss 1 ∧ (sentinelMiss l t be s).snt = (missCounted l t s).snt ∧
      (be = false → ((sentinelMiss l t be s).part (s.partOf l)).abort.request.isSome = true ∧ ((sentinelMiss l t be s).part (s.partOf l)).pauseLc = true ∨
        (s.part (s.partOf l)).abort.request.isSome = true) := by
  rw [sentinelMiss_eq, missCounted_partOf]
  cases be
  case true => exact ⟨missCounted_sentMiss l t s, rfl, fun no => absurd no (by decide)⟩
  case false =>
    simp only [Bool.false_eq_true, if_false]
    refine ⟨(startAbort_sentMiss _ _ _ _ inside _).trans (missCounted_sentMiss l t s), startAbort_snt .., fun _ => ?_⟩
    rcases startAbort_requests (s.partOf l) 3 l none (missCounted l t s) with before | asked
    · rw [missCounted_abort] at before
      exact .inr before
    · exact .inl asked

end Sys2Proof.Machine

namespace Sys2Proof

open Machine

/-- Settles O21: the verdict replaces the executing entry in its queue, and a miss is counted after all that the completion does. -/
theorem sentinelVerdicts : Obligations.SentinelVerdicts := by
  intro l s e m active
  refine ⟨fun cc ta tb r op last sampled => ?verdict, fun cc ta tb strike op last missed clean => ?miss⟩
  case verdict =>
    have final : e.final = true := (final_of_op op).trans (decide_eq_true last)
    obtain ⟨t, run, only, entry, length⟩ := verdict_becomes _ active (sentinelVerdict_gives active final sampled)
    exact ⟨t, _, run, only, entry, rfl, length⟩
  case miss =>
    obtain ⟨u, v, counted, finished, run⟩ := tileComplete_final active op clean last (.inr (by rw [missed]; exact Option.some_ne_none _))
    rw [if_pos missed] at run
    have misses : (v.ember l.val).sentMiss = (s.ember l.val).sentMiss := finished.misses.trans counted.misses
    have counts : v.snt = s.snt := finished.counts.trans counted.counts
    have owner : v.partOf l.val = s.partOf l.val := by
      rw [State.partOf, State.partOfQuarter, State.nParts, finished.host, counted.host]
      rfl
    have before : (v.part (s.partOf l.val)).abort = (s.part (s.partOf l.val)).abort := (finished.aborts _).trans (counted.aborts _)
    obtain ⟨miss, snt, abort⟩ := sentinelMiss_counts e.t e.be l.isLt v
    rw [owner, before] at abort
    rw [missCounted_snt, counts] at snt
    refine ⟨_, run, by rw [miss, misses], ?_, ?_, ?_, ?_, abort⟩
    · rw [snt]
    · rw [snt]
    · rw [snt]
    · rw [snt]

end Sys2Proof
end

section
/-! How a collective and a ring step join the flue queue (R114, R140 to R142, R144, R278, R286, R287), O23. -/

namespace Sys2Proof.Machine

/-! ### Joining the flue queue -/

/-- The entry that a collective or a ring step of the thread at `x` adds to its ember's flue queue (R114). -/
def flueEntry (x : Site) (op : FlueOp) (d : Desc) (count : Nat) (s : State) : FlueJob :=
  { t := x.t.val, be := beAt s x, op := op, desc := d, pc := (thrAt s x).pc, count := count, sent := false, acked := false, got := false
    seq := (s.part (partAt s x)).launched }

/-- Append an entry to the flue queue. -/
def Ember.addFlue (j : FlueJob) (m : Ember) : Ember := { m with flueQ := m.flueQ ++ [j] }

theorem flueEnqueue_eq (x : Site) (op : FlueOp) (d : Desc) (count : Nat) (s : State) : flueEnqueue x op d count s =
    (s.modEmber x.e.val (Ember.addFlue (flueEntry x op d count s))).modPart (partAt s x) Part.launch := rfl

/-- Change a partition's tree. -/
def Part.modTree (f : Tree → Tree) (p : Part) : Part := { p with tree := f p.tree }

/-- From `s` to `u` the thread at `x` becomes `h` and entry `j` joins its ember's flue queue; a partition changes in its tree and in its count of
launched entries alone. -/
structure FlueJoined (x : Site) (j : FlueJob) (h : Thread) (s u : State) : Prop where
  queue : (u.ember x.e.val).flueQ = (s.ember x.e.val).flueQ ++ [j]
  own : thrAt u x = h
  scratch : (u.ember x.e.val).scratch = (s.ember x.e.val).scratch
  threads : ∀ i, i ≠ x.t.val → u.thread x.e.val i = s.thread x.e.val i
  embers : ∀ k, k ≠ x.e.val → u.ember k = s.ember k
  parts : ∀ m, { u.part m with tree := (s.part m).tree, launched := (s.part m).launched } = s.part m

section
variable {x : Site} {op : FlueOp} {d : Desc} {count : Nat} {s : State}

theorem flueJoined_enqueue (g : Thread → Thread) (pc : ∀ h, (g h).pc = h.pc) :
    FlueJoined x (flueEntry x op d count s) (g (thrAt s x)) s (flueEnqueue x op d count (modAt x g s)) := by
  have class_ : beAt (modAt x g s) x = beAt s x :=
    emberPart_of_onlyThread (fun m => m.isBe x.t.val) (fun _ _ _ => rfl) (onlyThread_modAt x g s)
  have entry : flueEntry x op d count (modAt x g s) = flueEntry x op d count s := by
    simp only [flueEntry, thrAt_modAt, pc, class_, partAt_modAt, modAt_part]
  rw [flueEnqueue_eq, entry]
  constructor
  case queue =>
    rw [modPart_ember, ember_modEmber_same, Ember.addFlue, emberPart_of_onlyThread Ember.flueQ (fun _ _ _ => rfl) (onlyThread_modAt x g s)]
  case own => rw [thrAt_modPart, thrAt, thread_modEmber_of_thr (Ember.addFlue _) (fun _ => rfl), ← thrAt, thrAt_modAt]
  case scratch =>
    rw [modPart_ember, ember_modEmber_same, Ember.addFlue, emberPart_of_onlyThread Ember.scratch (fun _ _ _ => rfl) (onlyThread_modAt x g s)]
  case threads =>
    intro i other
    obtain ⟨-, -, -, threads⟩ := onlyThread_modAt x g s
    rw [modPart_thread, thread_modEmber_of_thr (Ember.addFlue _) (fun _ => rfl), threads i other]
  case embers =>
    intro k other
    obtain ⟨-, embers, -, -⟩ := onlyThread_modAt x g s
    rw [modPart_ember, ember_modEmber, if_neg (Ne.symm other), embers k other]
  case parts =>
    intro m
    rw [part_modPart]
    split
    · rfl
    · rfl

theorem tree_flueEnqueue (g : Thread → Thread) (n : Nat) : ((flueEnqueue x op d count (modAt x g s)).part n).tree = (s.part n).tree := by
  rw [flueEnqueue_eq, part_modPart_keeps Part.tree (f := Part.launch) fun _ => rfl]
  rfl

theorem outHold_flueEnqueue (g : Thread → Thread) : (flueEnqueue x op d count (modAt x g s)).outHold = s.outHold := by
  rw [flueEnqueue_eq, modPart_outHold, modEmber_outHold, modAt_outHold]

variable {j : FlueJob} {h : Thread} {u : State}

/-- The tree of a partition may change. -/
theorem FlueJoined.modTree (joined : FlueJoined x j h s u) (n : Nat) (f : Tree → Tree) : FlueJoined x j h s (u.modPart n (Part.modTree f)) := by
  obtain ⟨queue, own, scratch, threads, embers, parts⟩ := joined
  refine ⟨by rw [modPart_ember, queue], by rw [thrAt_modPart, own], by rw [modPart_ember, scratch], fun i other => by rw [modPart_thread, threads i other],
    fun k other => by rw [modPart_ember, embers k other], fun m => ?_⟩
  rw [part_modPart]
  split
  · exact parts m
  · exact parts m

theorem FlueJoined.groupOf (joined : FlueJoined x j h s u) (n : Nat) (be : Bool) (g : Nat) : groupOf u n be g = groupOf s n be g := by
  have running : (u.part n).runCtx be = (s.part n).runCtx be := by
    rw [← joined.parts n]
    rfl
  rw [Machine.groupOf, running, Machine.groupOf]

end

/-! ### The occurrence of a collective, which the participants of one count share -/

/-- While a participant of the module has not issued, no value forms (R277). -/
theorem formValue_waits {n : Nat} {be : Bool} {g c : Nat} {s : State} {i : CollInst} {k : Nat} (found : findInst s n be g c = some i)
    (member : k ∈ (groupOf s n be g).members) (waits : k ∉ i.issued) : formValue n be g c s = s := by
  have some_ : (groupOf s n be g).members.all (fun k => decide (k ∈ i.issued)) = false :=
    List.all_eq_false.2 ⟨k, member, by rw [decide_eq_false waits]; exact Bool.false_ne_true⟩
  simp only [formValue, found, some_, Bool.not_false, Bool.or_true, if_true]

/-- Keep the early frames that do not meet `q`. -/
def Tree.dropEarly (q : Nat × Frame → Bool) (t : Tree) : Tree := { t with early := t.early.filter fun e => !q e }

/-- No frame came before its collective (R283). -/
theorem joinEarly_none {n : Nat} {s : State} (be : Bool) (g c : Nat) (none : (s.part n).tree.early = []) :
    ∃ q, joinEarly n be g c s = bufMark n (s.modPart n (Part.modTree (Tree.dropEarly q))) := by
  unfold joinEarly
  simp only [none, List.filter_nil, List.foldl_nil]
  exact ⟨_, rfl⟩

/-- An occurrence opens behind those under way. -/
def Tree.openInst (i : CollInst) (t : Tree) : Tree := { t with insts := t.insts ++ [i] }

/-- The mark of a full buffer (Table 12.6). -/
def Tree.mark (full : Bool) (t : Tree) : Tree := { t with bufFull := full }

theorem bufMark_eq (n : Nat) (s : State) : bufMark n s = s.modPart n (Part.modTree (Tree.mark (bufWaits s n))) := rfl

/-- The instances under way after an opening. -/
theorem insts_openInst (n : Nat) (be : Bool) (g c : Nat) (i : CollInst) {s : State} (none : (s.part n).tree.early = []) :
    ((joinEarly n be g c (s.modPart n (Part.modTree (Tree.openInst i)))).part n).tree.insts = (s.part n).tree.insts ++ [i] := by
  obtain ⟨q, left⟩ := joinEarly_none be g c (s := s.modPart n (Part.modTree (Tree.openInst i))) (by rw [part_modPart_same]; exact none)
  rw [left, bufMark, part_modPart_same, part_modPart_same, part_modPart_same]
  rfl

/-- A participant issues in the occurrence (R286). -/
def CollInst.issue (k : Nat) (i : CollInst) : CollInst := { i with issued := i.issued ++ [k] }

/-- The occurrence of a class's group at a count. -/
def CollInst.keyed (be : Bool) (g c : Nat) (i : CollInst) : Bool := (i.be == be) && decide (i.hdr.grp = g) && decide (i.hdr.cseq = c)

theorem keyed_iff {be : Bool} {g c : Nat} {i : CollInst} : i.keyed be g c = true ↔ i.be = be ∧ i.hdr.grp = g ∧ i.hdr.cseq = c := by
  simp [CollInst.keyed, and_assoc]

theorem findInst_eq (s : State) (n : Nat) (be : Bool) (g c : Nat) : findInst s n be g c = (s.part n).tree.insts.find? (CollInst.keyed be g c) := rfl

theorem insts_modInst (n : Nat) (be : Bool) (g c : Nat) (f : CollInst → CollInst) (s : State) : ((modInst n be g c f s).part n).tree.insts =
    (s.part n).tree.insts.map fun i => if i.be = be ∧ i.hdr.grp = g ∧ i.hdr.cseq = c then f i else i := by
  rw [modInst, part_modPart_same]

theorem findInst_modInst {n : Nat} {be : Bool} {g c : Nat} {f : CollInst → CollInst} (key : ∀ i, (f i).keyed be g c = i.keyed be g c) {s : State}
    {i : CollInst} (found : findInst s n be g c = some i) : findInst (modInst n be g c f s) n be g c = some (f i) := by
  rw [findInst_eq] at found
  rw [findInst_eq, insts_modInst]
  generalize (s.part n).tree.insts = insts at found
  induction insts with
  | nil => exact absurd found (by simp)
  | cons a insts ih =>
    by_cases mine : a.keyed be g c = true
    · rw [List.find?_cons_of_pos mine] at found
      rw [List.map_cons, if_pos (keyed_iff.1 mine), List.find?_cons_of_pos ((key a).trans mine), Option.some.inj found]
    · rw [List.find?_cons_of_neg mine] at found
      rw [List.map_cons, if_neg fun h => mine (keyed_iff.2 h), List.find?_cons_of_neg mine, ih found]

theorem modInst_eq (n : Nat) (be : Bool) (g c : Nat) (f : CollInst → CollInst) (s : State) : modInst n be g c f s =
    s.modPart n (Part.modTree fun t => { t with insts := t.insts.map fun i => if i.be = be ∧ i.hdr.grp = g ∧ i.hdr.cseq = c then f i else i }) := rfl

section
variable {x : Site} {j : FlueJob} {h : Thread} {s u : State} (n : Nat) (be : Bool) (g c : Nat)

theorem FlueJoined.modInst (joined : FlueJoined x j h s u) (f : CollInst → CollInst) : FlueJoined x j h s (modInst n be g c f u) := by
  rw [modInst_eq]
  exact joined.modTree ..

theorem outHold_modInst (f : CollInst → CollInst) : (Machine.modInst n be g c f u).outHold = u.outHold := by
  rw [modInst_eq, modPart_outHold]

variable {n} (i : CollInst) (none : (u.part n).tree.early = [])
include none

/-- The opening of an occurrence changes the tree alone. -/
theorem openInst_modTree : ∃ f, joinEarly n be g c (u.modPart n (Part.modTree (Tree.openInst i))) =
    ((u.modPart n (Part.modTree (Tree.openInst i))).modPart n (Part.modTree f)).modPart n (Part.modTree (Tree.mark
      (bufWaits ((u.modPart n (Part.modTree (Tree.openInst i))).modPart n (Part.modTree f)) n))) := by
  obtain ⟨q, left⟩ := joinEarly_none be g c (s := u.modPart n (Part.modTree (Tree.openInst i))) (by rw [part_modPart_same]; exact none)
  exact ⟨_, left⟩

theorem FlueJoined.openInst (joined : FlueJoined x j h s u) :
    FlueJoined x j h s (joinEarly n be g c (u.modPart n (Part.modTree (Tree.openInst i)))) := by
  obtain ⟨f, left⟩ := openInst_modTree be g c i none
  rw [left]
  exact ((joined.modTree n _).modTree n f).modTree n _

theorem outHold_openInst : (joinEarly n be g c (u.modPart n (Part.modTree (Tree.openInst i)))).outHold = u.outHold := by
  obtain ⟨f, left⟩ := openInst_modTree be g c i none
  rw [left, modPart_outHold, modPart_outHold, modPart_outHold]

end

/-! ### Issue -/

/-- The header that a collective opens its occurrence with (R278). -/
def collHdr (op : FlueOp) (c : CollDesc) (count : Nat) : CollHdr :=
  { grp := c.grp, kind := op.kind, op := c.op, scope := c.scope, level := 0, round := 0, results := false, empty := false, len := c.len, cseq := count }

/-- The occurrence that the first participant opens. -/
def collOpened (be : Bool) (op : FlueOp) (c : CollDesc) (count k : Nat) : CollInst :=
  { be := be, hdr := collHdr op c count, root := c.root, issued := [k], value := none, sat := false, done := [], pieces := [], sent := [] }

theorem keyed_collOpened (be : Bool) (op : FlueOp) (c : CollDesc) (count k : Nat) : (collOpened be op c count k).keyed be c.grp count = true :=
  keyed_iff.2 ⟨rfl, rfl, rfl⟩

/-- One more collective of a group (R141). -/
def Thread.countColl (g count : Nat) (h : Thread) : Thread := { h with collCount := h.collCount.set g (count + 1) }

/-- Take a step of a ring (R144). -/
def Thread.stepRing (r k : Nat) (h : Thread) : Thread := { h with ringStep := h.ringStep.set r k }

/-- The descriptor that a flue instruction names. -/
def flueDesc (s : State) (x : Site) (f : BitVec 52) : Desc := (thrAt s x).td.get (fRd f)

/-- A flue instruction may issue, and its word is as Table 4.5 has it. -/
structure FlueFits (x : Site) (major minor : Nat) (f : BitVec 52) (s : State) : Prop where
  issues : issuable s x (insnWord major minor f) f [] [] = true
  room : flueRoom x s = true
  fields : flueStatic f = none

/-- The descriptor's own checks of R140, R142 and R278 pass, for an operation among `parts` participants. -/
structure CollFits (x : Site) (op : FlueOp) (c : CollDesc) (parts : Nat) (s : State) : Prop where
  ok : c.ok op s x = true
  bounds : c.bounds op parts (s.ember x.e.val) (beAt s x) = none

/-- The participants of a collective (R278). -/
def collParts (s : State) (x : Site) (c : CollDesc) : Nat := (groupOf s (partAt s x) (beAt s x) c.grp).members.length * scopeSize s c.scope

section
variable {x : Site} {op : FlueOp} {raw : Desc} {s : State} {c : CollDesc} {count : Nat} (desc : c = collDesc raw)
  (counted : count = (thrAt s x).collCount.get c.grp) (fit : CollFits x op c (collParts s x c) s)
include desc counted fit

/-- A wrong SEQ (R141). -/
theorem collBody_order (wrong : c.seq ≠ count % 65536) : collBody x op raw s = .exc excCollOrder 0 := by
  subst counted desc
  obtain ⟨ok, bounds⟩ := fit
  unfold collParts at bounds
  unfold collBody
  simp only [ok, bounds, if_pos wrong, Bool.not_true, Bool.false_eq_true, if_false]

variable (seq : c.seq = count % 65536)
include seq

/-- The first participant that issues. -/
theorem collBody_opens (none : findInst s (partAt s x) (beAt s x) c.grp count = none) : collBody x op raw s =
    .ok (formValue (partAt s x) (beAt s x) c.grp count (joinEarly (partAt s x) (beAt s x) c.grp count
      ((flueEnqueue x op raw count (modAt x (Thread.countColl c.grp count) s)).modPart (partAt s x)
        (Part.modTree (Tree.openInst (collOpened (beAt s x) op c count (8 * x.e.val + x.t.val))))))) := by
  subst counted desc
  obtain ⟨ok, bounds⟩ := fit
  unfold collParts at bounds
  unfold collBody
  simp only [ok, bounds, if_neg (not_not_intro seq), none, Bool.not_true, Bool.false_eq_true, if_false]
  rfl

/-- A later participant. -/
theorem collBody_joins {i : CollInst} (found : findInst s (partAt s x) (beAt s x) c.grp count = some i)
    (agrees : hdrAgrees (collHdr op c count) i.hdr = true) : collBody x op raw s =
    .ok (formValue (partAt s x) (beAt s x) c.grp count (modInst (partAt s x) (beAt s x) c.grp count
      (CollInst.issue (8 * x.e.val + x.t.val)) (flueEnqueue x op raw count (modAt x (Thread.countColl c.grp count) s)))) := by
  subst counted desc
  obtain ⟨ok, bounds⟩ := fit
  unfold collParts at bounds
  unfold collHdr at agrees
  unfold collBody
  simp only [ok, bounds, if_neg (not_not_intro seq), found, agrees, Bool.not_true, Bool.false_eq_true, if_false]
  rfl

end

/-- What the issue of a flue operation leaves. -/
def FlueQueued (cmd : Instr) (x : Site) (j : FlueJob) (h : Thread) (s t : State) : Prop :=
  exec cmd s = .next t ∧ (t.ember x.e.val).flueQ = (s.ember x.e.val).flueQ ++ [j] ∧ thrAt t x = h ∧
    (t.ember x.e.val).scratch = (s.ember x.e.val).scratch ∧ (∀ i, i ≠ x.t.val → t.thread x.e.val i = s.thread x.e.val i) ∧
    (∀ k, k ≠ x.e.val → t.ember k = s.ember k) ∧ t.outHold = s.outHold

theorem flueQueued_stepped {cmd : Instr} {x : Site} {j : FlueJob} {h h' : Thread} {s u : State} (joined : FlueJoined x j h' s u)
    (sent : u.outHold = s.outHold) (next : h'.next = h) (run : exec cmd s = .next (stepped x u)) : FlueQueued cmd x j h s (stepped x u) := by
  obtain ⟨queue, own, scratch, threads, embers, -⟩ := joined
  refine ⟨run, ?_, by rw [thrAt_stepped, own, next], ?_, fun i other => ?_, fun k other => ?_, sent⟩
  · rw [emberPart_stepped Ember.flueQ fun _ _ _ => rfl, queue]
  · rw [emberPart_stepped Ember.scratch fun _ _ _ => rfl, scratch]
  · rw [thread_stepped_same other, threads i other]
  · rw [ember_stepped_ne other, embers k other]

theorem stepOne_countColl (g count : Nat) (h : Thread) : (h.countColl g count).stepOne = h.stepOne := rfl

theorem next_countColl (g count : Nat) (h : Thread) : (h.countColl g count).next = { h.next with collCount := h.collCount.set g (count + 1) } := rfl

section
variable {cmd : Instr} {x : Site} {minor : Nat} {op : FlueOp} {f : BitVec 52} {s : State} {c : CollDesc} {count : Nat}
  (run : exec cmd s = .next (issueColl minor op x f s)) (word : FlueFits x 0x39 minor f s) (desc : c = collDesc (flueDesc s x f))
  (counted : count = (thrAt s x).collCount.get c.grp) (fit : CollFits x op c (collParts s x c) s)
include run word desc counted fit

theorem coll_raisesOrder (wrong : c.seq ≠ count % 65536) : exec cmd s = .next (raise x excCollOrder 0 s) :=
  exec_raised run word.issues word.room word.fields (collBody_order desc counted fit wrong)

variable (seq : c.seq = count % 65536) {k : Nat} (member : k ∈ (groupOf s (partAt s x) (beAt s x) c.grp).members)
include seq member

/-- The first participant opens the occurrence, which waits for another of the module (R286). -/
theorem coll_opens (early : (s.part (partAt s x)).tree.early = []) (none : findInst s (partAt s x) (beAt s x) c.grp count = none)
    (other : k ≠ 8 * x.e.val + x.t.val) : ∃ t,
    FlueQueued cmd x (flueEntry x op (flueDesc s x f) count s) { (thrAt s x).next with collCount := (thrAt s x).collCount.set c.grp (count + 1) } s t ∧
      (t.part (partAt s x)).tree.insts = (s.part (partAt s x)).tree.insts ++ [collOpened (beAt s x) op c count (8 * x.e.val + x.t.val)] := by
  have body := collBody_opens desc counted fit seq none
  have joined := flueJoined_enqueue (x := x) (op := op) (d := flueDesc s x f) (count := count) (s := s) (Thread.countColl c.grp count) fun _ => rfl
  have tree := tree_flueEnqueue (x := x) (op := op) (d := flueDesc s x f) (count := count) (s := s) (Thread.countColl c.grp count) (partAt s x)
  have sent := outHold_flueEnqueue (x := x) (op := op) (d := flueDesc s x f) (count := count) (s := s) (Thread.countColl c.grp count)
  generalize flueEnqueue x op (flueDesc s x f) count (modAt x (Thread.countColl c.grp count) s) = u at body joined tree sent
  have insts := insts_openInst (partAt s x) (beAt s x) c.grp count (collOpened (beAt s x) op c count (8 * x.e.val + x.t.val)) (s := u)
    (by rw [tree, early])
  have both : FlueJoined x (flueEntry x op (flueDesc s x f) count s) ((thrAt s x).countColl c.grp count) s _ :=
    joined.openInst (beAt s x) c.grp count (collOpened (beAt s x) op c count (8 * x.e.val + x.t.val)) (by rw [tree, early])
  have held := outHold_openInst (beAt s x) c.grp count (collOpened (beAt s x) op c count (8 * x.e.val + x.t.val)) (u := u)
    (by rw [tree, early])
  generalize joinEarly (partAt s x) (beAt s x) c.grp count (u.modPart (partAt s x) (Part.modTree (Tree.openInst _))) = v at body insts both held
  rw [tree] at insts
  have found : findInst v (partAt s x) (beAt s x) c.grp count = some (collOpened (beAt s x) op c count (8 * x.e.val + x.t.val)) := by
    rw [findInst_eq] at none
    rw [findInst_eq, insts, List.find?_append, none, Option.none_or, List.find?_cons_of_pos (keyed_collOpened ..)]
  rw [formValue_waits found (by rw [both.groupOf]; exact member) (fun issued => other (List.mem_singleton.1 issued))] at body
  have ran := exec_stepped run word.issues word.room word.fields body (by rw [both.own, stepOne_countColl])
  exact ⟨_, flueQueued_stepped both (held.trans sent) (next_countColl ..) ran, insts⟩

/-- A later participant joins the occurrence of its count, which waits for another of the module (R286). -/
theorem coll_joins {i : CollInst} (found : findInst s (partAt s x) (beAt s x) c.grp count = some i)
    (agrees : hdrAgrees (collHdr op c count) i.hdr = true) (other : k ≠ 8 * x.e.val + x.t.val) (waits : k ∉ i.issued) : ∃ t,
    FlueQueued cmd x (flueEntry x op (flueDesc s x f) count s) { (thrAt s x).next with collCount := (thrAt s x).collCount.set c.grp (count + 1) } s t ∧
      findInst t (partAt s x) (beAt s x) c.grp count = some (i.issue (8 * x.e.val + x.t.val)) := by
  have body := collBody_joins desc counted fit seq found agrees
  have joined := flueJoined_enqueue (x := x) (op := op) (d := flueDesc s x f) (count := count) (s := s) (Thread.countColl c.grp count) fun _ => rfl
  have tree := tree_flueEnqueue (x := x) (op := op) (d := flueDesc s x f) (count := count) (s := s) (Thread.countColl c.grp count) (partAt s x)
  have sent := outHold_flueEnqueue (x := x) (op := op) (d := flueDesc s x f) (count := count) (s := s) (Thread.countColl c.grp count)
  generalize flueEnqueue x op (flueDesc s x f) count (modAt x (Thread.countColl c.grp count) s) = u at body joined tree sent
  have issued := findInst_modInst (n := partAt s x) (s := u) (f := CollInst.issue (8 * x.e.val + x.t.val)) (fun _ => rfl)
    (by rw [findInst_eq, tree]; exact found)
  have both := joined.modInst (partAt s x) (beAt s x) c.grp count (CollInst.issue (8 * x.e.val + x.t.val))
  have held := outHold_modInst (partAt s x) (beAt s x) c.grp count (u := u) (CollInst.issue (8 * x.e.val + x.t.val))
  generalize modInst (partAt s x) (beAt s x) c.grp count (CollInst.issue (8 * x.e.val + x.t.val)) u = v at body issued both held
  rw [formValue_waits issued (by rw [both.groupOf]; exact member) (fun inside => (List.mem_append.1 inside).elim waits fun own =>
    other (List.mem_singleton.1 own))] at body
  have ran := exec_stepped run word.issues word.room word.fields body (by rw [both.own, stepOne_countColl])
  exact ⟨_, flueQueued_stepped both (held.trans sent) (next_countColl ..) ran, issued⟩

end

/-! ### Ring steps -/

theorem stepOne_stepRing (r k : Nat) (h : Thread) : (h.stepRing r k).stepOne = h.stepOne := rfl

theorem next_stepRing (r k : Nat) (h : Thread) : (h.stepRing r k).next = { h.next with ringStep := h.ringStep.set r k } := rfl

/-- The notice that a ring step sends back (R144, R287). -/
def ringNotice (x : Site) (c : CollDesc) (e : RingEntry) (i : Nat) : RingHdr :=
  { ring := c.ring, step := c.step, l := e.len, len := c.len, ember := x.e.val, thread := x.t.val, origin := (i + e.len - c.step) % e.len }

/-- What a ring step does once it has joined the queue: it tells the position before, where the own one is on the ring (R287). -/
def ringNotify (x : Site) (n : Nat) (vc : Vc) (c : CollDesc) (e : RingEntry) (u : State) : Eff :=
  match ringIndex u (u.logicalPos n) e with
  | none => .ok u
  | some i => .ok (sendFrame n (some (ringPos u (u.logicalPos n) e ((i + e.len - 1) % e.len))) vc (.ringReady (ringNotice x c e i)) u)

theorem outHold_stepped (x : Site) (u : State) : (stepped x u).outHold = u.outHold := rfl

theorem sends_stepped {x : Site} {n : Nat} {dst : Option Pos} {vc : Vc} {body : FrameBody} {s u : State} (may : MaySend u n)
    (head : headed u n (u.part n).epoch dst vc body = headed s n (s.part n).epoch dst vc body) (held : u.outHold = s.outHold) :
    Sends n s (stepped x (sendFrame n dst vc body u)) [(dst, vc, body)] := by
  rw [Sends, SendsVia, outHold_stepped, sendFrame_of_may may, head, held]
  rfl

/-- The places of a ring follow from the fabric's settings. -/
theorem ringPos_of_fab {s t : State} (fab : t.fab = s.fab) : ringPos t = ringPos s := by
  have dims : t.dim = s.dim := by
    funext d
    rw [State.dim, fab, State.dim]
  funext me e i
  rw [ringPos, ringPos, dims]

section
variable (x : Site) (raw : Desc) (count : Nat) (g : Thread → Thread) (s : State)

theorem fab_flueEnqueue (op : FlueOp) : (flueEnqueue x op raw count (modAt x g s)).fab = s.fab := by
  rw [flueEnqueue_eq, modPart_fab, modEmber_fab, modAt_fab]

theorem part_flueEnqueue {α : Type} (p : Part → α) (hp : ∀ q : Part, p q.launch = p q) (op : FlueOp) (n : Nat) :
    p ((flueEnqueue x op raw count (modAt x g s)).part n) = p (s.part n) := by
  rw [flueEnqueue_eq, part_modPart_keeps p (f := Part.launch) hp, modEmber_part, modAt_part]

theorem logicalPos_flueEnqueue (op : FlueOp) (n : Nat) : (flueEnqueue x op raw count (modAt x g s)).logicalPos n = s.logicalPos n := by
  rw [State.logicalPos, part_flueEnqueue x raw count g s Part.adoptPos fun _ => rfl, State.ownPos, fab_flueEnqueue, State.logicalPos, State.ownPos]

theorem ringPos_flueEnqueue (op : FlueOp) : ringPos (flueEnqueue x op raw count (modAt x g s)) = ringPos s :=
  ringPos_of_fab (fab_flueEnqueue x raw count g s op)

theorem ringNotify_of_place (n : Nat) (vc : Vc) (c : CollDesc) {e : RingEntry} {i : Nat} (place : ringIndex s (s.logicalPos n) e = some i) :
    ringNotify x n vc c e (flueEnqueue x .ringstep raw count (modAt x g s)) =
      .ok (sendFrame n (some (ringPos s (s.logicalPos n) e ((i + e.len - 1) % e.len))) vc (.ringReady (ringNotice x c e i))
        (flueEnqueue x .ringstep raw count (modAt x g s))) := by
  unfold ringNotify
  rw [logicalPos_flueEnqueue, ringIndex, ringPos_flueEnqueue, ← ringIndex, place]

theorem maySend_flueEnqueue (op : FlueOp) {n : Nat} (may : MaySend s n) : MaySend (flueEnqueue x op raw count (modAt x g s)) n := by
  obtain ⟨stays, serves⟩ := may
  exact ⟨by rw [part_flueEnqueue x raw count g s (fun q => q.rl.state) fun _ => rfl]; exact stays,
    by rw [part_flueEnqueue x raw count g s (fun q => q.prot.halted) fun _ => rfl]; exact serves⟩

/-- The header is the one that the partition has before the step. -/
theorem headed_flueEnqueue (op : FlueOp) (n : Nat) (dst : Option Pos) (vc : Vc) (body : FrameBody) :
    headed (flueEnqueue x op raw count (modAt x g s)) n ((flueEnqueue x op raw count (modAt x g s)).part n).epoch dst vc body =
      headed s n (s.part n).epoch dst vc body := by
  rw [headed, headed, logicalPos_flueEnqueue, part_flueEnqueue x raw count g s Part.epoch fun _ => rfl,
    part_flueEnqueue x raw count g s (fun q => q.tree.lineage) fun _ => rfl, part_flueEnqueue x raw count g s (fun q => q.step.count) fun _ => rfl]

end

section
variable {x : Site} {f : BitVec 52} {s : State} {c : CollDesc} {e : RingEntry} (word : FlueFits x 0x3A 0 f s) (desc : c = collDesc (flueDesc s x f))
  (ring : e = ringOf s (partAt s x) (beAt s x) c.ring) (fit : CollFits x .ringstep c 1 s)
include word desc ring fit

theorem ringstep_raisesOrder (wrong : c.step ≠ (thrAt s x).ringStep.get c.ring + 1) : exec (.ringstep x f) s = .next (raise x excCollOrder 0 s) := by
  refine exec_raised rfl word.issues word.room word.fields ?_
  subst desc ring
  obtain ⟨ok, bounds⟩ := fit
  simp only [flueDesc] at ok bounds wrong
  simp only [ok, bounds, wrong, ne_eq, not_false_eq_true, true_or, if_true, Bool.not_true, Bool.false_eq_true, if_false]

/-- A ring step in turn, on a position of the ring (R144, R287). -/
theorem ringstep_queues (next : c.step = (thrAt s x).ringStep.get c.ring + 1) (inside : c.step ≤ e.len - 1) {i : Nat}
    (place : ringIndex s (s.logicalPos (partAt s x)) e = some i) (may : MaySend s (partAt s x)) :
    ∃ t, exec (.ringstep x f) s = .next t ∧
      (t.ember x.e.val).flueQ = (s.ember x.e.val).flueQ ++ [flueEntry x .ringstep (flueDesc s x f) c.step s] ∧
      thrAt t x = { (thrAt s x).next with ringStep := (thrAt s x).ringStep.set c.ring c.step } ∧
      Sends (partAt s x) s t [(some (ringPos s (s.logicalPos (partAt s x)) e ((i + e.len - 1) % e.len)), if beAt s x then .be else .lc,
        .ringReady (ringNotice x c e i))] := by
  have inTurn : ¬ (c.step ≠ (thrAt s x).ringStep.get c.ring + 1 ∨ c.step < 1 ∨ e.len - 1 < c.step) := by omega
  have joined := flueJoined_enqueue (x := x) (op := .ringstep) (d := flueDesc s x f) (count := c.step) (s := s) (Thread.stepRing c.ring c.step)
    fun _ => rfl
  have ran : exec (.ringstep x f) s = .next (stepped x (sendFrame (partAt s x) (some (ringPos s (s.logicalPos (partAt s x)) e ((i + e.len - 1) % e.len)))
      (if beAt s x then .be else .lc) (.ringReady (ringNotice x c e i))
      (flueEnqueue x .ringstep (flueDesc s x f) c.step (modAt x (Thread.stepRing c.ring c.step) s)))) := by
    refine exec_stepped rfl word.issues word.room word.fields ?_ ?_
    · subst desc ring
      obtain ⟨ok, bounds⟩ := fit
      simp only [flueDesc] at ok bounds inTurn place
      simp only [ok, bounds, if_neg inTurn, Bool.not_true, Bool.false_eq_true, if_false]
      exact ringNotify_of_place x _ _ (Thread.stepRing _ _) s _ _ _ place
    · rw [thrAt, sendFrame_thread, ← thrAt, joined.own, stepOne_stepRing]
  obtain ⟨queue, own, -, -, -, -⟩ := joined
  refine ⟨_, ran, ?_, by rw [thrAt_stepped, thrAt, sendFrame_thread, ← thrAt, own, next_stepRing], ?_⟩
  · rw [emberPart_stepped Ember.flueQ fun _ _ _ => rfl, sendFrame_ember, queue]
  · exact sends_stepped (maySend_flueEnqueue x _ _ _ s _ may) (headed_flueEnqueue ..) (outHold_flueEnqueue ..)
end

end Sys2Proof.Machine

namespace Sys2Proof

open Machine

/-- Settles O23: a collective's effect is its entry, its count and its occurrence, which waits while another participant has not issued; a ring
step's is its entry and the notice to the position before. -/
theorem collectiveIssue : Obligations.CollectiveIssue := by
  intro x f s h n be m raw c own members count at_ job joins passes
  have word {major minor : Nat} (fits : at_ major minor) : FlueFits x major minor f s := by
    obtain ⟨issues, room, rd, ra, rb, low⟩ := fits
    exact ⟨issues, decide_eq_true room, reserved_of (by simp [rd, ra, rb, low])⟩
  have joined {cmd : Instr} {minor : Nat} {op : FlueOp} (run : exec cmd s = .next (issueColl minor op x f s)) (fits : at_ 0x39 minor)
      (pass : passes op) : joins cmd op := by
    obtain ⟨ok, bounds⟩ := pass
    have fit : CollFits x op c (collParts s x c) s := ⟨ok, bounds⟩
    refine ⟨fun seq => ⟨fun early none ⟨k, member, other⟩ => ?_, fun i found agrees ⟨k, member, other, waits⟩ => ?_⟩, fun wrong => ?_⟩
    · exact coll_opens run (word fits) rfl rfl fit seq member early none other
    · exact coll_joins run (word fits) rfl rfl fit seq member found agrees other waits
    · exact coll_raisesOrder run (word fits) rfl rfl fit wrong
  refine ⟨joined rfl, joined rfl, joined rfl, joined rfl, fun fits ok bounds => ⟨fun next inside i place may => ?_, fun wrong => ?_⟩⟩
  · exact ringstep_queues (word fits) rfl rfl ⟨ok, bounds⟩ next inside place may
  · exact ringstep_raisesOrder (word fits) rfl rfl ⟨ok, bounds⟩ wrong

end Sys2Proof
end

section
/-! The completion of collectives, COLL frames, and the frames of a ring (R142, R144, R279, R280, R283, R285, R287), O24. -/

namespace Sys2Proof.Machine

/-! ### Words in memory -/

/-- The bytes of words that follow one another. -/
def bytesOf (ws : List Word) : List Byte := ws.flatMap fun w => leBytes 4 w.toNat

theorem length_bytesOf (ws : List Word) : (bytesOf ws).length = 4 * ws.length := by
  simp [bytesOf, List.length_flatMap, length_leBytes, Nat.mul_comm]

theorem getElem?_bytesOf (ws : List Word) (k : Nat) (inside : k < 4 * ws.length) :
    (bytesOf ws)[k]? = some (BitVec.ofNat 8 ((ws.getD (k / 4) 0).toNat / 256 ^ (k % 4))) := by
  induction ws generalizing k with
  | nil => exact absurd inside (Nat.not_lt_zero k)
  | cons w ws ih =>
    have cut : bytesOf (w :: ws) = leBytes 4 w.toNat ++ bytesOf ws := List.flatMap_cons ..
    rw [cut]
    rw [List.length_cons] at inside
    by_cases first : k < 4
    · have here : k < (leBytes 4 w.toNat).length := by rwa [length_leBytes]
      rw [List.getElem?_append_left here, List.getElem?_eq_getElem here, getElem_leBytes, Nat.div_eq_of_lt first, Nat.mod_eq_of_lt first]
      rfl
    · obtain ⟨i, rfl⟩ : ∃ i, k = i + 4 := ⟨k - 4, by omega⟩
      rw [List.getElem?_append_right (by rw [length_leBytes]; omega), length_leBytes, Nat.add_sub_cancel, ih i (by omega), Nat.add_div_right i (by decide),
        Nat.add_mod_right]
      rfl

/-- Words stored, read byte by byte. -/
theorem get_write_bytesOf (m : Memory) (a : Nat) (ws : List Word) (b : Nat) : (m.write a (bytesOf ws)).get b =
    if a ≤ b ∧ b < a + 4 * ws.length then BitVec.ofNat 8 ((ws.getD ((b - a) / 4) 0).toNat / 256 ^ ((b - a) % 4)) else m.get b := by
  rw [Memory.get_write]
  by_cases inside : a ≤ b ∧ b < a + 4 * ws.length
  · have here : b - a < (bytesOf ws).length := by rw [length_bytesOf]; omega
    have byte := getElem?_bytesOf ws (b - a) (by omega)
    rw [List.getElem?_eq_getElem here] at byte
    rw [dif_pos ⟨inside.1, here⟩, if_pos inside, Option.some.inj byte]
  · rw [dif_neg (by rw [length_bytesOf]; omega), if_neg inside]

/-! ### An occurrence of a module alone (R280) -/

theorem scopeDims_zero : scopeDims 0 = [] := by decide

theorem collActs_module (s : State) (me : Pos) {h : CollHdr} (scope : h.scope = 0) (short : h.len ≤ 1012) : collActs s me h = [] := by
  simp only [collActs, scope, if_pos short, scopeDims_zero, Nat.zero_testBit, Bool.false_eq_true, if_false, List.nil_append, List.flatMap_nil]

theorem instRun_module (s : State) (n : Nat) {i : CollInst} {ws : List Word} (value : i.value = some (some ws)) (scope : i.hdr.scope = 0)
    (short : i.hdr.len ≤ 1012) : instRun s n i =
      some { cur := { empty := false, vals := ws.map some }, sat := i.sat, sends := [], finished := true } := by
  simp only [instRun, value, Option.map_some, collActs_module s _ scope short]
  rfl

theorem scopeSize_zero (s : State) : scopeSize s 0 = 1 := by
  simp [scopeSize]

theorem moduleIndex_zero (s : State) (p : Pos) : moduleIndex s p 0 = 0 := by
  simp [moduleIndex]

/-- The words of DST (R278). -/
def moduleOut (members : List Nat) (i : CollInst) (ws : List Word) (key : Nat) : List Word :=
  if i.hdr.kind = 1 then (ws.drop (members.idxOf key * (i.hdr.len / members.length))).take (i.hdr.len / members.length) else ws

theorem resultAt_module (s : State) (n : Nat) {i : CollInst} (scope : i.hdr.scope = 0) (ws : List Word) (key : Nat) :
    resultAt s n i (ws.map some) key = moduleOut (groupOf s n i.be i.hdr.grp).members i ws key := by
  have words (xs : List Word) : (xs.map some).filterMap id = xs := by simp
  simp only [resultAt, moduleOut, scope, scopeSize_zero, moduleIndex_zero, Nat.zero_mul, Nat.zero_add, Nat.mul_one, ← List.map_drop, ← List.map_take, words]

/-! ### The end of a collective at a participant -/

/-- Take an operation out of the flue queue. -/
def Ember.dropFlue (j : FlueJob) (m : Ember) : Ember := { m with flueQ := m.flueQ.erase j }

theorem dropFlueJob_eq (l : Nat) (j : FlueJob) (s : State) : dropFlueJob l j s = returnBe (s.partOf l) (s.modEmber l (Ember.dropFlue j)) := rfl

theorem dropFlueJob_ember (l : Nat) (j : FlueJob) (s : State) (k : Nat) : (dropFlueJob l j s).ember k = (s.modEmber l (Ember.dropFlue j)).ember k := by
  rw [dropFlueJob_eq, State.ember, returnBe_quarters, State.ember]

theorem dropFlueJob_thread (l : Nat) (j : FlueJob) (s : State) (k t : Nat) : (dropFlueJob l j s).thread k t = s.thread k t := by
  rw [State.thread, dropFlueJob_ember, ← State.thread, thread_modEmber_of_thr (Ember.dropFlue j) fun _ => rfl]

theorem returnBe_inbox (n : Nat) (s : State) (k : Nat) : ((returnBe n s).part k).inbox = (s.part k).inbox := by
  unfold returnBe
  split
  · rfl
  · rw [part_modPart]
    split
    · rfl
    · rfl

theorem dropFlueJob_inbox (l : Nat) (j : FlueJob) (s : State) (k : Nat) : ((dropFlueJob l j s).part k).inbox = (s.part k).inbox := by
  rw [dropFlueJob_eq, returnBe_inbox, modEmber_part]

/-- CSAT and CNAN of a collective (R142). -/
def collFlags (i : CollInst) (sat : Bool) (ws : List Word) : Nat :=
  64 * b2n (decide (i.hdr.kind ≤ 1) && (sat || decide (0 % 2 = 1))) + 128 * b2n (decide (i.hdr.kind ≤ 1) && ws.any fun w => decide (decF w = .nan))

/-- What the completion of a module's collective does in the embers: flags, queue and tally (R142). -/
def collCounted (l : Nat) (j : FlueJob) (i : CollInst) (sat : Bool) (ws : List Word) (s : State) : State :=
  tallyAdd l j.t (collDesc j.desc).tally 1 (dropFlueJob l j (s.modThread l j.t (Thread.orFlags (collFlags i sat ws))))

theorem modInst_quarters (n : Nat) (be : Bool) (g c : Nat) (f : CollInst → CollInst) (s : State) : (modInst n be g c f s).quarters = s.quarters := rfl

theorem collFinish_quarters (l : Nat) (j : FlueJob) {i : CollInst} (sat : Bool) (ws : List Word) (s : State) (scope : i.hdr.scope = 0) :
    (collFinish l j i sat ws s).quarters = (collCounted l j i sat ws s).quarters := by
  have known : (decide (i.hdr.kind ≤ 1) && decide (i.hdr.op = 0) && decide (i.hdr.scope ≠ 0) && !sat) = false := by simp [scope]
  unfold collFinish
  simp only [known, Bool.false_eq_true, if_false, apply_ite State.quarters, modPart_quarters, modInst_quarters, ite_self]
  exact congrArg State.quarters (Eq.refl (collCounted l j i sat ws s))

theorem collFinish_ember (l : Nat) (j : FlueJob) {i : CollInst} (sat : Bool) (ws : List Word) (s : State) (scope : i.hdr.scope = 0) (k : Nat) :
    (collFinish l j i sat ws s).ember k = (collCounted l j i sat ws s).ember k := by
  rw [State.ember, collFinish_quarters l j sat ws s scope, State.ember]

/-- The end of a collective, read off the state that its result was written in. -/
theorem collFinish_gives {l : Nat} {j : FlueJob} {i : CollInst} {sat : Bool} {ws : List Word} {s : State} (scope : i.hdr.scope = 0)
    (running : (s.thread l j.t).st ≠ .lost) : let t := collFinish l j i sat ws s
    (t.ember l).flueQ = (s.ember l).flueQ.erase j ∧
      (t.thread l j.t).q.get (collDesc j.desc).tally = satAdd ((s.thread l j.t).q.get (collDesc j.desc).tally) 1 ∧
      (t.ember l).scratch = (s.ember l).scratch ∧ ∀ k, k ≠ l → t.ember k = s.ember k := by
  have ember := collFinish_ember l j sat ws s scope
  have own : (dropFlueJob l j (s.modThread l j.t (Thread.orFlags (collFlags i sat ws)))).thread l j.t = (s.thread l j.t).orFlags (collFlags i sat ws) := by
    rw [dropFlueJob_thread, thread_modThread_same]
  refine ⟨?_, ?_, ?_, fun k other => ?_⟩
  · rw [ember, collCounted]
    refine (emberPart_tallyAdd Ember.flueQ (fun _ _ _ => rfl) ..).trans ?_
    rw [dropFlueJob_ember, ember_modEmber_same, Ember.dropFlue, emberPart_modThread Ember.flueQ fun _ _ => rfl]
  · rw [State.thread, ember, collCounted]
    refine (tallyAdd_counts (by rw [own]; exact running) ..).trans ?_
    rw [own]
    rfl
  · rw [ember, collCounted]
    refine (emberPart_tallyAdd Ember.scratch (fun _ _ _ => rfl) ..).trans ?_
    rw [dropFlueJob_ember, ember_modEmber_same, Ember.dropFlue, emberPart_modThread Ember.scratch fun _ _ => rfl]
  · rw [ember, collCounted]
    obtain ⟨-, embers⟩ := onlyEmbers_tallyAdd l j.t (collDesc j.desc).tally 1 (dropFlueJob l j (s.modThread l j.t (Thread.orFlags (collFlags i sat ws))))
    refine (embers k fun inside => other (List.mem_singleton.1 inside)).trans ?_
    rw [dropFlueJob_ember, ember_modEmber, if_neg (Ne.symm other), State.modThread, ember_modEmber, if_neg (Ne.symm other)]

/-- The oldest collective of a group that a thread has queued. -/
def FlueJob.waitsAt (t g : Nat) (j : FlueJob) : Bool := decide (j.t = t) && decide (j.op ≠ .ringstep) && decide ((collDesc j.desc).grp = g)

/-- The completion of a module's collective whose value stands (R142, R285). -/
theorem collectiveComplete_gives {x : Site} {grp : Fin 64} {s : State} {j : FlueJob} {i : CollInst} {ws : List Word}
    (oldest : (s.ember x.e.val).flueQ.find? (FlueJob.waitsAt x.t.val grp.val) = some j)
    (found : findInst s (s.partOf x.e.val) j.be grp.val j.count = some i) (value : i.value = some (some ws)) (scope : i.hdr.scope = 0)
    (short : i.hdr.len ≤ 1012) (space : (collDesc j.desc).dSp = 0) :
    exec (.collectiveComplete x grp [] []) s = .next (collFinish x.e.val j i i.sat
      (moduleOut (groupOf s (s.partOf x.e.val) i.be i.hdr.grp).members i ws (8 * x.e.val + j.t)) (storeScratch x.e.val (collDesc j.desc).dst
        (bytesOf (moduleOut (groupOf s (s.partOf x.e.val) i.be i.hdr.grp).members i ws (8 * x.e.val + j.t)))
        (s.modEmber x.e.val (Ember.strike [])))) := by
  have run : exec (.collectiveComplete x grp [] []) s = execCollectiveComplete x grp [] [] s := rfl
  have formed : formValue (s.partOf x.e.val) j.be grp.val j.count (s.modEmber x.e.val (Ember.strike [])) = s.modEmber x.e.val (Ember.strike []) := by
    have found' : findInst (s.modEmber x.e.val (Ember.strike [])) (s.partOf x.e.val) j.be grp.val j.count = some i := found
    simp only [formValue, found', value, Option.isSome_some, Bool.true_or, if_true]
  have found' : findInst (s.modEmber x.e.val (Ember.strike [])) (s.partOf x.e.val) j.be grp.val j.count = some i := found
  have group : groupOf (s.modEmber x.e.val (Ember.strike [])) = groupOf s := rfl
  have still (n : Nat) : strikeLines n [] s = s := rfl
  unfold FlueJob.waitsAt at oldest
  rw [run, execCollectiveComplete]
  simp only [still, oldest, formed, found', instRun_module _ _ value scope short, resultAt_module _ _ scope, group, flueWrite, space, Bool.not_true,
    Bool.false_eq_true, if_false, if_true, Nat.add_zero]
  rfl

/-! ### COLL frames (R283) -/

/-- A COLL frame's body. -/
def collBodied (b : FrameBody) : Bool := match b with | .coll .. => true | _ => false

/-- Frames of other kinds are passed over. -/
theorem collTake_skip (n : Nat) {e : Nat × Frame} (other : collBodied e.2.body = false) (rest : List (Nat × Frame)) (s : State) :
    collTake n (e :: rest) s = collTake n rest s := by
  obtain ⟨f, fr⟩ := e
  rw [collTake]
  split
  · next h x y ws body => exact absurd other (by rw [body]; exact (nomatch ·))
  · rfl

/-- The oldest COLL frame that may be looked at comes first. -/
theorem collTake_first (n : Nat) {q : Nat × Frame → Bool} {f : Nat} {fr : Frame} (s : State) {es : List (Nat × Frame)}
    (found : es.find? (fun e => collBodied e.2.body && q e) = some (f, fr)) : ∃ rest, collTake n (es.filter q) s = collTake n ((f, fr) :: rest) s := by
  induction es with
  | nil => exact nomatch found
  | cons e es ih =>
    by_cases here : q e = true
    · rw [List.filter_cons_of_pos here]
      by_cases coll : collBodied e.2.body = true
      · have first : (collBodied e.2.body && q e) = true := by rw [coll, here]; rfl
        rw [List.find?_cons_of_pos (p := fun e => collBodied e.2.body && q e) first] at found
        exact ⟨_, by rw [Option.some.inj found]⟩
      · rw [collTake_skip n (Bool.eq_false_iff.2 coll)]
        have later : ¬ (collBodied e.2.body && q e) = true := by simp [coll]
        rw [List.find?_cons_of_neg (p := fun e => collBodied e.2.body && q e) later] at found
        exact ih found
    · rw [List.filter_cons_of_neg here]
      have later : ¬ (collBodied e.2.body && q e) = true := by simp [here]
      rw [List.find?_cons_of_neg (p := fun e => collBodied e.2.body && q e) later] at found
      exact ih found

/-- A piece joins an occurrence (R283). -/
def CollInst.addPiece (h : CollHdr) (src : Pos) (e : Nat) (ws : List Word) (i : CollInst) : CollInst :=
  { i with pieces := i.pieces ++
      [{ level := h.level, round := h.round, results := h.results, src := src, elem := e, words := if h.empty then none else some ws }] }

theorem collJoin_agrees {n f : Nat} {fr : Frame} {c : Nat} {s : State} {h : CollHdr} {e k : Nat} {ws : List Word} {i : CollInst}
    (body : fr.body = .coll h e k ws) (found : findInst s n (decide (fr.vc = .be)) h.grp c = some i) (agrees : hdrAgrees h i.hdr = true) :
    collJoin n f fr c s = modInst n (decide (fr.vc = .be)) h.grp c (CollInst.addPiece h fr.src e ws) s := by
  unfold collJoin
  simp only [body, found, agrees, Bool.not_true, Bool.false_eq_true, if_false]
  rfl

/-- An occurrence without a value sends nothing (R279). -/
theorem collAdvance_waits {n : Nat} {be : Bool} {g c : Nat} {s : State} {i : CollInst} (found : findInst s n be g c = some i) (waits : i.value = none) :
    collAdvance n be g c s = s := by
  simp only [collAdvance, found, instRun, waits, Option.map_none]

section
variable {n : PartId} {f : Nat} {fr : Frame} {s : State} {h : CollHdr} {e k : Nat} {ws : List Word}
  (arrived : Arrived s n.val collBodied f fr) (body : fr.body = .coll h e k ws) (outside : (f, fr) ∉ (s.part n.val).tree.inPool)
include arrived

/-- The COLL command looks at the oldest frame that no drop marker holds back (R194). -/
theorem collFrame_first : ∃ rest, exec (.collFrame n) s = .next (bufMark n.val (collTake n.val ((f, fr) :: rest) s)) := by
  obtain ⟨rest, first⟩ := collTake_first n.val s arrived
  have run : exec (.collFrame n) s = execCollFrame n s := rfl
  rw [run, execCollFrame]
  exact ⟨rest, congrArg (fun u => Host.Outcome.next (bufMark n.val u)) first⟩

include outside

omit arrived in
theorem leavePool_outside : leavePool n.val f fr (taken n.val (f, fr) s) = taken n.val (f, fr) s := by
  have outside' : (f, fr) ∉ ((taken n.val (f, fr) s).part n.val).tree.inPool := by
    rw [taken_part]
    exact outside
  rw [leavePool, if_neg outside']

include body

/-- A frame that agrees joins its pieces, and an occurrence without a value waits on. -/
theorem collFrame_joins {i : CollInst} (found : findInst s n.val (decide (fr.vc = .be)) h.grp
      (extendCount (groupCount s n.val (decide (fr.vc = .be)) h.grp) h.cseq) = some i) (agrees : hdrAgrees h i.hdr = true) (waits : i.value = none) :
    exec (.collFrame n) s = .next (bufMark n.val (modInst n.val (decide (fr.vc = .be)) h.grp
      (extendCount (groupCount s n.val (decide (fr.vc = .be)) h.grp) h.cseq) (CollInst.addPiece h fr.src e ws) (taken n.val (f, fr) s))) := by
  obtain ⟨rest, run⟩ := collFrame_first arrived
  rw [run, collTake]
  simp only [body, found, Option.isSome_some, if_true]
  have left : leavePool n.val f fr (s.modPart n.val fun p => { p with inbox := p.inbox.erase (f, fr) }) = _ := leavePool_outside outside
  have found' : findInst (taken n.val (f, fr) s) n.val (decide (fr.vc = .be)) h.grp
      (extendCount (groupCount s n.val (decide (fr.vc = .be)) h.grp) h.cseq) = some i := by
    rw [findInst_eq, taken_part]
    exact found
  have joined := findInst_modInst (f := CollInst.addPiece h fr.src e ws) (fun _ => rfl) found'
  rw [left, collJoin_agrees body found' agrees, collAdvance_waits joined waits]

/-- A frame of an occurrence that is over, from the partition's own module, is refused. -/
theorem collFrame_refuses (gone : findInst s n.val (decide (fr.vc = .be)) h.grp
      (extendCount (groupCount s n.val (decide (fr.vc = .be)) h.grp) h.cseq) = none)
    (past : extendCount (groupCount s n.val (decide (fr.vc = .be)) h.grp) h.cseq < groupCount s n.val (decide (fr.vc = .be)) h.grp) (own : f = 32) :
    exec (.collFrame n) s = .next (bufMark n.val (countMism n.val (taken n.val (f, fr) s))) := by
  obtain ⟨rest, run⟩ := collFrame_first arrived
  rw [run, collTake]
  simp only [body, gone, Option.isSome_none, Bool.false_eq_true, if_false, if_pos past]
  have left : leavePool n.val f fr (s.modPart n.val fun p => { p with inbox := p.inbox.erase (f, fr) }) = _ := leavePool_outside outside
  have local_ : refuseFrame f n.val 8 (taken n.val (f, fr) s) = taken n.val (f, fr) s := if_pos own.ge
  rw [left, local_]

end

/-! ### What a partition's frames carry -/

/-- What the header of a partition's frames takes from it, and whether it sends (R257, R309, R230). -/
def Part.heads (p : Part) : Word × Word × DWord × Option Pos × Bool :=
  (p.epoch, p.tree.lineage, p.step.count, p.adoptPos, decide (p.rl.state = .withdrawn ∨ p.prot.halted = true))

section
variable {n : Nat} {s u : State} (heads : (u.part n).heads = (s.part n).heads) (fab : u.fab = s.fab)
include heads fab

theorem logicalPos_of_heads : u.logicalPos n = s.logicalPos n := by
  simp only [Part.heads, Prod.mk.injEq] at heads
  obtain ⟨-, -, -, pos, -⟩ := heads
  rw [State.logicalPos, State.logicalPos, State.ownPos, State.ownPos, pos, fab]

/-- A frame leaves with the header that its partition had before. -/
theorem sendsVia_of_heads (held : u.outHold = s.outHold) (may : MaySend s n) (via : Option Nat) (dst : Option Pos) (vc : Vc) (body : FrameBody) :
    SendsVia via n s (sendFrameVia via n dst vc body u) [(dst, vc, body)] := by
  have pos := logicalPos_of_heads heads fab
  simp only [Part.heads, Prod.mk.injEq] at heads
  obtain ⟨epoch, lineage, step, -, silent⟩ := heads
  have sends : ¬ ((u.part n).rl.state = .withdrawn ∨ (u.part n).prot.halted = true) := by
    rw [decide_eq_decide] at silent
    exact fun h => not_silent may (silent.1 h)
  rw [SendsVia, sendFrameVia, if_neg sends, held, pos, epoch, lineage, step]
  rfl

end

/-! ### Ring frames (R144, R287) -/

/-- Replace an operation of the flue queue. -/
def Ember.swapFlue (j j' : FlueJob) (m : Ember) : Ember := { m with flueQ := replaceFirst j j' m.flueQ }

theorem setFlueJob_goesOn {l : Nat} {j j' : FlueJob} {s : State} (waits : (j'.got && j'.acked) = false) :
    setFlueJob l j j' s = s.modEmber l (Ember.swapFlue j j') := by
  rw [setFlueJob, if_neg (Bool.eq_false_iff.1 waits)]
  rfl

theorem setFlueJob_ends {l : Nat} {j j' : FlueJob} {s : State} (done : (j'.got && j'.acked) = true) : setFlueJob l j j' s = dropFlueJob l j s := if_pos done

theorem flueQ_swapFlue {j j' : FlueJob} {m : Ember} (alone : m.flueQ = [j]) : (m.swapFlue j j').flueQ = [j'] := by
  rw [Ember.swapFlue, alone]
  exact if_pos rfl

theorem class_of_vc {fr : Frame} {j : FlueJob} (class_ : fr.vc = if j.be then .be else .lc) : decide (fr.vc = .be) = j.be := by
  rw [class_]
  cases j.be
  · rfl
  · rfl

theorem ringOf_taken (e : Nat × Frame) (n : Nat) (be : Bool) (r : Nat) (s : State) : ringOf (taken n e s) n be r = ringOf s n be r := by
  rw [ringOf, taken_part, ringOf]
  rfl

theorem ringIndex_taken (e : Nat × Frame) (n : Nat) (s : State) : ringIndex (taken n e s) = ringIndex s := by
  funext me ent
  rw [ringIndex, ringPos_of_fab (t := taken n e s) (s := s) rfl, ringIndex]

theorem ringVia_taken (e : Nat × Frame) (n : Nat) (s : State) : ringVia (taken n e s) = ringVia s := rfl

theorem ringVia_cases (s : State) (e : RingEntry) (i : Nat) :
    ringVia s e i = if e.shape = 1 then none else some (if e.shape = 2 ∨ i < s.dim e.dim then 0 else 1) := by
  unfold ringVia
  split
  · next shape => rw [if_pos shape]
  · next shape => rw [shape, if_neg (by decide), if_pos (.inl rfl)]
  · next one two =>
    have neither : e.shape = 2 ∨ i < s.dim e.dim ↔ i < s.dim e.dim := ⟨fun h => h.resolve_left two, .inr⟩
    simp only [if_neg one, neither]

/-- The frame's header for the next position of the ring. -/
def ringBlock (c : CollDesc) (e : RingEntry) (i : Nat) (h : RingHdr) : RingHdr :=
  { h with len := c.len, l := e.len, origin := (i + 1 + e.len - c.step) % e.len }

section
variable {n : PartId} {f : Nat} {fr : Frame} {s : State} {h : RingHdr} {j : FlueJob}
  (alone : (s.ember h.ember).flueQ = [j]) (step : j.op = .ringstep) (thread : j.t = h.thread) (ring : (collDesc j.desc).ring = h.ring)
include alone step thread ring

theorem ringJob_alone {q : FlueJob → Bool} {u : State} (kept : u.ember h.ember = s.ember h.ember) (meets : q j = true) :
    ringJob u j.be h q = some j := by
  rw [ringJob, kept, alone]
  exact List.find?_cons_of_pos (by simp [step, thread, ring, meets])

variable (lone : (s.part n.val).inbox = [(f, fr)]) (class_ : fr.vc = if j.be then .be else .lc) (turn : (collDesc j.desc).step = h.step)
include lone class_ turn

/-- RING_READY: the block goes out (R144). -/
theorem ringReady_sends (body : fr.body = .ringReady h) (unsent : j.sent = false) (open_ : j.acked = false) (space : (collDesc j.desc).sSp = 0)
    (clean : (s.ember h.ember).mismatches (collDesc j.desc).src (4 * (collDesc j.desc).len) = []) {i : Nat}
    (place : ringIndex s (s.logicalPos n.val) (ringOf s n.val j.be h.ring) = some i) :
    exec (.ringReadyFrame n) s = .next (sendFrameVia (ringVia s (ringOf s n.val j.be h.ring) i) n.val
      (some (ringPos s (s.logicalPos n.val) (ringOf s n.val j.be h.ring) ((i + 1) % (ringOf s n.val j.be h.ring).len))) fr.vc
      (.ringData (ringBlock (collDesc j.desc) (ringOf s n.val j.be h.ring) i h) 0
        (wordsOf ((s.ember h.ember).scratch.read (collDesc j.desc).src (4 * (collDesc j.desc).len))))
      ((useCount n.val j.be 0 ((s.ember h.ember).scratch.read (collDesc j.desc).src (4 * (collDesc j.desc).len)).length (taken n.val (f, fr) s)).modEmber
        h.ember (Ember.swapFlue j { j with sent := true }))) := by
  have job : ringJob s j.be h (fun j => !j.sent && decide ((collDesc j.desc).step = h.step)) = some j :=
    ringJob_alone alone step thread ring rfl (by simp [unsent, turn])
  have kept : (taken n.val (f, fr) s).ember h.ember = s.ember h.ember := rfl
  have run : exec (.ringReadyFrame n) s = execRingReadyFrame n s := rfl
  rw [run, execRingReadyFrame]
  simp only []
  rw [takeFrame_lone lone (by simp [body, class_of_vc class_, job])]
  simp only [body, class_of_vc class_, job, flueRead, space, kept, clean, if_true, ring, ringOf_taken, taken_logicalPos, ringIndex_taken,
    ringVia_taken, ringPos_of_fab (t := taken n.val (f, fr) s) (s := s) rfl, place, Option.getD_some]
  rw [setFlueJob_goesOn (by simp [open_])]
  rfl

/-- RING_DATA: the block is written, and its end counts and is answered (R287). -/
theorem ringData_writes {ws : List Word} (body : fr.body = .ringData h 0 ws) (waits : j.got = false) (open_ : j.acked = false)
    (space : (collDesc j.desc).dSp = 0)
    (len : (collDesc j.desc).len = h.len) (whole : ws.length = h.len) {i : Nat}
    (place : ringIndex s (s.logicalPos n.val) (ringOf s n.val j.be h.ring) = some i)
    (origin : h.origin = (i + (ringOf s n.val j.be h.ring).len - h.step) % (ringOf s n.val j.be h.ring).len) :
    exec (.ringDataFrame n) s = .next (sendFrame n.val (some (ringPos s (s.logicalPos n.val) (ringOf s n.val j.be h.ring)
      ((i + (ringOf s n.val j.be h.ring).len - 1) % (ringOf s n.val j.be h.ring).len))) fr.vc (.ringAck h)
      (tallyAdd h.ember h.thread (collDesc j.desc).tally 1 ((storeScratch h.ember (collDesc j.desc).dst (bytesOf ws) (taken n.val (f, fr) s)).modEmber
        h.ember (Ember.swapFlue j { j with got := true })))) := by
  have run : exec (.ringDataFrame n) s = execRingDataFrame n s := rfl
  rw [run, execRingDataFrame, takeFrame_lone lone (by rw [body])]
  have bytes : ws.flatMap (fun w => leBytes 4 w.toNat) = bytesOf ws := rfl
  simp only [body, class_of_vc class_, place, Option.getD_some]
  rw [ringJob_alone alone step thread ring rfl (by simp [waits, turn, len, ← origin])]
  simp only [flueWrite, space, if_true, Nat.mul_zero, Nat.add_zero, Nat.zero_add, whole, Nat.le_refl, bytes]
  rw [setFlueJob_goesOn (by simp [open_]), ringPos_of_fab (s := s)]
  exact tallyAdd_outside State.fab (fun _ _ => rfl) ..

/-- RING_ACK: the operation, whose own block has come, leaves the queue, and STALLY counts (R287). -/
theorem ringAck_ends (body : fr.body = .ringAck h) (sent : j.sent = true) (open_ : j.acked = false) (got : j.got = true) :
    exec (.ringAckFrame n) s = .next (tallyAdd h.ember h.thread (collDesc j.desc).stally 1 (dropFlueJob h.ember j (taken n.val (f, fr) s))) := by
  have job : ringJob (taken n.val (f, fr) s) j.be h (fun j => j.sent && !j.acked && decide ((collDesc j.desc).step = h.step)) = some j :=
    ringJob_alone alone step thread ring rfl (by simp [sent, open_, turn])
  have run : exec (.ringAckFrame n) s = execRingAckFrame n s := rfl
  rw [run, execRingAckFrame, takeFrame_lone lone (by rw [body])]
  simp only [body, class_of_vc class_, job]
  rw [setFlueJob_ends (by simp [got])]

end

/-! ### What the steps leave -/

section
variable (n : Nat) (u : State)

theorem onlyPart_bufMark {n : Nat} {s u : State} (only : OnlyPart n s u) : OnlyPart n s (bufMark n u) := onlyPart_trans only (onlyPart_mod ..)

theorem inbox_bufMark : ((bufMark n u).part n).inbox = (u.part n).inbox := by
  rw [bufMark_eq, part_modPart_same]
  rfl

theorem mismCnt_bufMark : ((bufMark n u).part n).tree.mismCnt = (u.part n).tree.mismCnt := by
  rw [bufMark_eq, part_modPart_same]
  rfl

theorem findInst_bufMark (be : Bool) (g c : Nat) : findInst (bufMark n u) n be g c = findInst u n be g c := by
  rw [bufMark_eq, findInst_eq, part_modPart_same]
  rfl

variable (be : Bool) (g c : Nat) (f : CollInst → CollInst)

theorem onlyPart_modInst : OnlyPart n u (modInst n be g c f u) := onlyPart_mod ..

theorem inbox_modInst : ((modInst n be g c f u).part n).inbox = (u.part n).inbox := by
  rw [modInst_eq, part_modPart_same]
  rfl

end

section
variable {n : Nat} {e : Nat × Frame} {s : State}

theorem heads_taken : ((taken n e s).part n).heads = (s.part n).heads := by
  rw [taken_part]
  rfl

theorem inbox_taken (lone : (s.part n).inbox = [e]) : ((taken n e s).part n).inbox = [] := by
  rw [taken_part, Part.dropFrame, lone, List.erase_cons_head]

/-- The utilisation record touches a context alone (R423). -/
theorem part_useCount {α : Type} (g : Part → α) (hg : ∀ p ctxs, g { p with ctxs := ctxs } = g p) (be : Bool) (a b : Nat) (m : Nat) :
    g ((useCount n be a b s).part m) = g (s.part m) := by
  refine part_modPart_keeps g (fun p => ?_) n s m
  dsimp only
  split
  · exact hg p _
  · rfl

theorem part_tallyAdd (l t q k m : Nat) : (tallyAdd l t q k s).part m = s.part m := by
  rw [State.part, tallyAdd_parts, State.part]

end

end Sys2Proof.Machine

namespace Sys2Proof

open Machine

/-- Settles O24: a collective's completion, a COLL frame and the three ring frames are each followed to the state that they leave, and that state is
read off. -/
theorem collectiveCompletion : Obligations.CollectiveCompletion := by
  intro s
  refine ⟨?complete, ?frame, ?ring⟩
  case complete =>
    intro x grp j i ws l n m c members k out oldest found value scope short space running
    have at_ : j.t = x.t.val := by
      have waits := List.find?_some oldest
      simp only [Bool.and_eq_true, decide_eq_true_eq] at waits
      exact waits.1.1
    have key := keyed_iff.1 (List.find?_some found)
    obtain ⟨class_, group, -⟩ := key
    have out_ : moduleOut (groupOf s (s.partOf x.e.val) i.be i.hdr.grp).members i ws (8 * x.e.val + j.t) = out := by rw [class_, group]; rfl
    have run := collectiveComplete_gives oldest found value scope short space
    rw [out_] at run
    obtain ⟨queue, tally, scratch, embers⟩ := collFinish_gives (l := l) (j := j) (sat := i.sat) (ws := out)
      (s := storeScratch l c.dst (bytesOf out) (s.modEmber l (Ember.strike []))) scope
      (by rw [thread_storeScratch, thread_strike, at_]; exact running)
    refine ⟨_, run, ?_, ?_, fun b => ?_, fun k other => ?_⟩
    · rw [queue, storeScratch, ember_modEmber_same, ember_modEmber_same]
      rfl
    · rw [tally, thread_storeScratch, thread_strike]
    · rw [scratch, scratch_storeScratch, ember_modEmber_same, scratch_strike, get_write_bytesOf]
    · rw [embers k other, storeScratch, ember_modEmber, if_neg (Ne.symm other), ember_modEmber, if_neg (Ne.symm other)]
  case frame =>
    intro n f fr h e k ws p be own count arrived body outside
    have first : Arrived s n.val collBodied f fr := arrived
    refine ⟨fun i found agrees waits => ?_, fun gone past local_ => ?_⟩
    · have run := collFrame_joins first body outside found agrees waits
      refine ⟨_, run, onlyPart_bufMark (onlyPart_trans (onlyPart_mod ..) (onlyPart_modInst ..)), ?_, ?_⟩
      · rw [inbox_bufMark, inbox_modInst, taken_part]
        rfl
      · have here : findInst (taken n.val (f, fr) s) n.val be h.grp count = some i := by
          rw [findInst_eq, taken_part]
          exact found
        have joined := findInst_modInst (f := CollInst.addPiece h fr.src e ws) (fun _ => rfl) here
        rw [findInst_bufMark, joined]
        rfl
    · refine ⟨_, collFrame_refuses first body outside gone past local_, onlyPart_bufMark (onlyPart_trans (onlyPart_mod ..) (onlyPart_mod ..)), ?_, ?_⟩
      · rw [inbox_bufMark, countMism, part_modPart_same, taken_part]
        rfl
      · rw [mismCnt_bufMark, countMism, part_modPart_same, taken_part]
        rfl
  case ring =>
    intro n f fr h j p m c ring me class_ step thread ring_ turn may
    refine ⟨fun i place => ?steps, ?ack⟩
    case' steps => intro next dir prev; refine ⟨?ready, ?data⟩
    case ready =>
      intro lone body alone unsent open_ space clean
      obtain ⟨u, hu⟩ : ∃ u, u = (useCount n.val j.be 0 (m.scratch.read c.src (4 * c.len)).length (taken n.val (f, fr) s)).modEmber h.ember
        (Ember.swapFlue j { j with sent := true }) := ⟨_, rfl⟩
      have run := ringReady_sends alone step thread ring_ lone class_ turn body unsent open_ space clean place
      rw [← hu, ringVia_cases] at run
      have heads : (u.part n.val).heads = (s.part n.val).heads := by
        rw [hu, modEmber_part, part_useCount Part.heads fun _ _ => rfl, heads_taken]
      have inbox : (u.part n.val).inbox = [] := by
        rw [hu, modEmber_part, part_useCount Part.inbox fun _ _ => rfl, inbox_taken lone]
      have queue : (u.ember h.ember).flueQ = [{ j with sent := true }] := by
        rw [hu, ember_modEmber_same]
        exact flueQ_swapFlue alone
      have fab : u.fab = s.fab := by
        rw [hu, modEmber_fab, useCount_fab]
        rfl
      have held : u.outHold = s.outHold := by
        rw [hu, modEmber_outHold, useCount_outHold]
        rfl
      refine ⟨_, run, by rw [sendFrameVia_part, inbox], by rw [sendFrameVia_ember, queue], ?_⟩
      have block : ringBlock c ring i h = { h with len := c.len, l := ring.len, origin := (i + 1 + ring.len - h.step) % ring.len } := by
        rw [ringBlock, turn]
      rw [← block]
      exact sendsVia_of_heads heads fab held may ..
    case data =>
      intro ws lone body alone waits open_ space len whole origin running
      obtain ⟨u, hu⟩ : ∃ u, u = (storeScratch h.ember c.dst (bytesOf ws) (taken n.val (f, fr) s)).modEmber h.ember
        (Ember.swapFlue j { j with got := true }) := ⟨_, rfl⟩
      have run := ringData_writes alone step thread ring_ lone class_ turn body waits open_ space len whole place origin
      rw [← hu] at run
      have part : u.part n.val = (taken n.val (f, fr) s).part n.val := by
        rw [hu, modEmber_part, storeScratch, modEmber_part]
      have own : u.thread h.ember h.thread = s.thread h.ember h.thread := by
        rw [hu, thread_modEmber_of_thr (Ember.swapFlue j _) (fun _ => rfl), thread_storeScratch]
        rfl
      refine ⟨_, run, ?_, ?_, ?_, fun b => ?_, ?_⟩
      · rw [sendFrame_part, part_tallyAdd, part, inbox_taken lone]
      · rw [sendFrame_ember, emberPart_tallyAdd Ember.flueQ fun _ _ _ => rfl, hu, ember_modEmber_same]
        refine flueQ_swapFlue ?_
        rw [storeScratch, ember_modEmber_same]
        exact alone
      · rw [sendFrame_thread, tallyAdd_counts (by rw [own]; exact running), own]
      · rw [sendFrame_ember, emberPart_tallyAdd Ember.scratch fun _ _ _ => rfl, hu, ember_modEmber_same, ← whole, ← get_write_bytesOf]
        exact congrArg (Memory.get · b) (scratch_storeScratch ..)
      · refine sendsVia_of_heads ?_ ?_ ?_ may ..
        · rw [part_tallyAdd, part, heads_taken]
        · rw [tallyAdd_outside State.fab fun _ _ => rfl, hu, modEmber_fab, storeScratch, modEmber_fab, taken, modPart_fab]
        · rw [tallyAdd_outside State.outHold fun _ _ => rfl, hu, modEmber_outHold, storeScratch, modEmber_outHold, taken, modPart_outHold]
    case ack =>
      intro lone body alone sent open_ got running
      refine ⟨_, ringAck_ends alone step thread ring_ lone class_ turn body sent open_ got, ?_, ?_, ?_⟩
      · rw [part_tallyAdd, dropFlueJob_inbox, inbox_taken lone]
      · rw [emberPart_tallyAdd Ember.flueQ fun _ _ _ => rfl, dropFlueJob_ember, ember_modEmber_same]
        exact (congrArg (List.erase · j) alone).trans (List.erase_cons_head ..)
      · rw [tallyAdd_counts (by rw [dropFlueJob_thread]; exact running), dropFlueJob_thread]
        rfl

end Sys2Proof
end

section
/-! What the frames of the fabric do to the partition that takes them in (R139, R233, R258 to R262, R269 to R271, R314), O27. -/

namespace Sys2Proof.Machine

/-! ### Taking a frame in -/

/-- The oldest frame of a kind, however its kind is written. -/
theorem takeFrame_arrived {n f : Nat} {fr : Frame} {s : State} {kind : FrameBody → Bool} {p : Frame → Bool} (arrived : Arrived s n kind f fr)
    (same : p = fun g => kind g.body) : takeFrame n p s = some (f, fr, taken n (f, fr) s) := by
  rw [same]
  exact takeFrame_of_arrived arrived

section
variable (n : Nat) (e : Nat × Frame) (s : State)

theorem taken_inbox : ((taken n e s).part n).inbox = (s.part n).inbox.erase e := by
  rw [taken_part]
  rfl

theorem taken_flues : (taken n e s).flues = s.flues := rfl

theorem taken_fab : (taken n e s).fab = s.fab := rfl

theorem taken_ember (k : Nat) : (taken n e s).ember k = s.ember k := rfl

theorem taken_thread (l t : Nat) : (taken n e s).thread l t = s.thread l t := rfl

theorem taken_outHold : (taken n e s).outHold = s.outHold := rfl

variable {n e s}

/-- A frame that a partition sends on taking another in. -/
theorem sends_taken (may : MaySend s n) (dst : Option Pos) (vc : Vc) (body : FrameBody) :
    Sends n s (sendFrame n dst vc body (taken n e s)) [(dst, vc, body)] :=
  sendsVia_of_heads heads_taken (taken_fab n e s) (taken_outHold n e s) may none dst vc body

end

/-! ### Quarantine (R262) -/

theorem getLsbD_withBit_true : ∀ (x : BitVec 4) (n : Fin 4), (withBit x n.val true).getLsbD n.val = true := by decide

/-- Quarantine a partition's sub-channel. -/
def Flue.quarantine (n cause : Nat) (u : Flue) : Flue :=
  { u with
    quarCause := if u.quarCause = 0 then BitVec.ofNat 4 cause else u.quarCause
    quarPart := withBit u.quarPart n true
    subs := u.subs.upd n fun c => { c with opened := false }
    txQ := u.txQ.map fun i => if i.part.val = n ∧ i.vc ≠ .ctrl then i.whole else i }

theorem quarantineSub_eq (f n cause : Nat) (s : State) : quarantineSub f n cause s = s.modFlue f (Flue.quarantine n cause) := rfl

/-- A partition's sub-channel is stopped. -/
def Flue.Stopped (u : Flue) (n : Nat) : Prop := (u.subs.get n).opened = false ∧ u.quarPart.getLsbD n = true

theorem stopped_quarantine (n : PartId) (cause : Nat) (u : Flue) : (u.quarantine n.val cause).Stopped n.val := by
  refine ⟨?_, getLsbD_withBit_true u.quarPart n⟩
  rw [Flue.quarantine, Tab.get_upd_same]

theorem quarCause_quarantine {n cause : Nat} {u : Flue} (small : cause < 16) (free : u.quarCause = 0) :
    (u.quarantine n cause).quarCause.toNat = cause := by
  rw [Flue.quarantine, if_pos free, BitVec.toNat_ofNat, Nat.mod_eq_of_lt small]

/-- An OPEN goes out on a flue (R261, R376). -/
def Flue.openOut (n : Nat) (c : SubChan) (key : Digest) (i : TxItem) (u : Flue) : Flue :=
  { u with subs := u.subs.set n { c with openTx := c.openTx + 1, told := true, keyTx := key, gcntTx := 0 }, txQ := putFront [i] u.txQ }

/-- A flue that can open no more goes down (R444). -/
def Flue.fail (u : Flue) : Flue := { u with state := .down }

theorem sendOpen_of_may {f n : Nat} {s : State} (may : MaySend s n) (room : ((s.flues.get f).subs.get n).openTx < 2 ^ 32 - 1) :
    ∃ key i, sendOpen f n s = s.modFlue f (Flue.openOut n ((s.flues.get f).subs.get n) key i) :=
  ⟨_, _, (if_neg (not_silent may)).trans (if_neg (Nat.not_le.2 room))⟩

theorem sendOpen_cases (f n : Nat) (s : State) : sendOpen f n s = s ∨ sendOpen f n s = s.modFlue f Flue.fail ∨
    ∃ key i, sendOpen f n s = s.modFlue f (Flue.openOut n ((s.flues.get f).subs.get n) key i) := by
  unfold sendOpen
  dsimp only
  split
  · exact .inl rfl
  · split
    · exact .inr (.inl rfl)
    · exact .inr (.inr ⟨_, _, rfl⟩)

theorem sendOpen_part (f n : Nat) (s : State) (k : Nat) : (sendOpen f n s).part k = s.part k := by
  rcases sendOpen_cases f n s with same | failed | ⟨key, i, out⟩
  · rw [same]
  · rw [failed, modFlue_part]
  · rw [out, modFlue_part]

/-- A sub-channel that is stopped stays so when an OPEN goes out. -/
theorem stopped_sendOpen {f n : Nat} {s : State} (stopped : (s.flues.get f).Stopped n) : ((sendOpen f n s).flues.get f).Stopped n := by
  rcases sendOpen_cases f n s with same | failed | ⟨key, i, out⟩
  · rw [same]
    exact stopped
  · rw [failed, flues_modFlue_same]
    exact stopped
  · rw [out, flues_modFlue_same]
    obtain ⟨closed, quarantined⟩ := stopped
    refine ⟨?_, quarantined⟩
    rw [Flue.openOut, Tab.get_set_same]
    exact closed

/-- Put an item on a flue's transmit queue. -/
def Flue.queue (i : TxItem) (u : Flue) : Flue := { u with txQ := u.txQ ++ [i] }

theorem enqueueFrame_eq (f n : Nat) (fr : Frame) (s : State) : enqueueFrame f n fr s =
    (if decide ((s.flues.get f).state = .run) && !((s.flues.get f).subs.get n).told && linkKeys s n then sendOpen f n s else s).modFlue f
      (Flue.queue (frameItem n fr)) := rfl

theorem enqueueFrame_part (f n : Nat) (fr : Frame) (s : State) (k : Nat) : (enqueueFrame f n fr s).part k = s.part k := by
  rw [enqueueFrame_eq, modFlue_part]
  split
  · exact sendOpen_part ..
  · rfl

theorem stopped_enqueueFrame {f n : Nat} {fr : Frame} {s : State} (stopped : (s.flues.get f).Stopped n) :
    ((enqueueFrame f n fr s).flues.get f).Stopped n := by
  rw [enqueueFrame_eq, flues_modFlue_same]
  split
  · exact stopped_sendOpen stopped
  · exact stopped

theorem sendRefuse_part (f g n cause : Nat) (s : State) (k : Nat) : (sendRefuse f g n cause s).part k = s.part k := by
  unfold sendRefuse
  dsimp only
  split
  · rfl
  · exact enqueueFrame_part ..

theorem stopped_sendRefuse {f n cause : Nat} {s : State} (stopped : (s.flues.get f).Stopped n) :
    ((sendRefuse f f n cause s).flues.get f).Stopped n := by
  unfold sendRefuse
  dsimp only
  split
  · exact stopped
  · exact stopped_enqueueFrame stopped

theorem countRefusal_part (f : Nat) (s : State) (k : Nat) : (countRefusal f s).part k = s.part k := rfl

/-- A refusal of a frame that came by a flue (R262). -/
theorem refuseFrame_stops {f : Nat} (n : PartId) (cause : Nat) (s : State) (flue : f < 32) : ((refuseFrame f n.val cause s).flues.get f).Stopped n.val ∧
    ∀ k, (refuseFrame f n.val cause s).part k = s.part k := by
  rw [refuseFrame, if_neg (Nat.not_le.2 flue)]
  refine ⟨?_, fun k => ?_⟩
  · rw [sendFrame_flues, partRecord_flues]
    refine stopped_sendRefuse ?_
    rw [quarantineSub_eq, flues_modFlue_same]
    exact stopped_quarantine ..
  · rw [sendFrame_part, partRecord_part, sendRefuse_part, quarantineSub_eq, modFlue_part, countRefusal_part]

section
variable {n : PartId} {f : Nat} {fr : Frame} {s : State}

/-- REFUSE (R262). -/
theorem refuseFrame_quarantines {c : Nat} (arrived : Arrived s n.val (fun b => match b with | .refuse _ => true | _ => false) f fr)
    (body : fr.body = .refuse c) : exec (.refuseFrame n) s =
      .next (partRecord n.val (quarRecord f c) ((taken n.val (f, fr) s).modFlue f (Flue.quarantine n.val c))) := by
  have run : exec (.refuseFrame n) s = execRefuseFrame n s := rfl
  rw [run, execRefuseFrame, takeFrame_arrived arrived (by rfl)]
  simp only [body]
  rfl

/-! ### OPEN (R261) -/

/-- A sub-channel opens to a peer, or stays closed under a quarantine (R261, R262). -/
def Flue.opens (n : Nat) (role : Role) (quar : Bool) (u : Flue) : Flue :=
  { u with subs := u.subs.upd n fun c => { c with opened := !quar, peerRole := role } }

/-- A standby follows the epoch and the draught mode of its job's holders (log 87). -/
def Part.follow (b : OpenBody) (p : Part) : Part :=
  { p with epoch := if p.epoch.toNat < b.epoch.toNat then b.epoch else p.epoch, rl := { p.rl with jobDraught := b.draught } }

/-- What follows an accepted OPEN: a standby follows its job, and the end of a quarantine is reported (R261, R262). -/
def openEnds (f : Nat) (n : PartId) (b : OpenBody) (quar was : Bool) (v : State) : State :=
  let s := if (v.part n.val).rl.role = .standby ∧ b.role ≠ .standby then v.modPart n.val (Part.follow b) else v
  if (v.part n.val).frozen && (decide ((v.part n.val).rl.state = .run) || decide ((v.part n.val).rl.state = .off)) && !quar && !was then
    sendFrame n.val (some (hearthStoker s n.val)) .ctrl (.quarReport f 0) s
  else s

theorem openEnds_inbox (f : Nat) (n : PartId) (b : OpenBody) (quar was : Bool) (v : State) :
    ((openEnds f n b quar was v).part n.val).inbox = (v.part n.val).inbox := by
  have follows : ((if (v.part n.val).rl.role = .standby ∧ b.role ≠ .standby then v.modPart n.val (Part.follow b) else v).part n.val).inbox =
      (v.part n.val).inbox := by
    split
    · rw [part_modPart_same]
      rfl
    · rfl
  rw [openEnds, apply_ite (fun s : State => (s.part n.val).inbox), sendFrame_part, follows, ite_self]

theorem openEnds_flues (f : Nat) (n : PartId) (b : OpenBody) (quar was : Bool) (v : State) : (openEnds f n b quar was v).flues = v.flues := by
  rw [openEnds, apply_ite State.flues, sendFrame_flues, ite_self, apply_ite State.flues, modPart_flues, ite_self]

/-- The own OPEN goes out before a sub-channel opens, unless it has gone. -/
def ownOpenSent (f n : Nat) (s : State) : State := if ((s.flues.get f).subs.get n).told then s else sendOpen f n s

theorem openAgrees_taken (e : Nat × Frame) (n : Nat) (g : Nat) (b : OpenBody) (s : State) : openAgrees (taken n e s) g n b = openAgrees s g n b := by
  have own : ownOpen (taken n e s) n = ownOpen s n := by
    simp only [ownOpen, taken_part, taken_logicalPos, Part.dropFrame]
    rfl
  have place : expectedPos (taken n e s) g b = expectedPos s g b := rfl
  rw [openAgrees, own, place, openAgrees]

theorem ownOpenSent_part (f n : Nat) (s : State) (k : Nat) : (ownOpenSent f n s).part k = s.part k := by
  unfold ownOpenSent
  split
  · rfl
  · exact sendOpen_part ..

/-- An OPEN that agrees (R261). -/
theorem openFrame_opens {b : OpenBody} (arrived : Arrived s n.val (fun b => match b with | .openF _ => true | _ => false) f fr)
    (body : fr.body = .openF b) (expects : expectsTraffic s n.val = true) (agrees : openAgrees s f n.val b = true) (holder : b.role ≠ .adopted) :
    let v := ownOpenSent f n.val (taken n.val (f, fr) s)
    exec (.openFrame n) s = .next (openEnds f n b ((v.flues.get f).quarPart.getLsbD n.val) ((v.flues.get f).subs.get n.val).opened
      (v.modFlue f (Flue.opens n.val b.role ((v.flues.get f).quarPart.getLsbD n.val)))) := by
  have run : exec (.openFrame n) s = execOpenFrame n s := rfl
  rw [run, execOpenFrame, expects, takeFrame_arrived arrived (by rfl)]
  simp only [body, openAgrees_taken, agrees, holder, Bool.not_true, Bool.false_eq_true, if_false]
  rfl

/-- An OPEN that disagrees (R261). -/
theorem openFrame_refuses {b : OpenBody} (arrived : Arrived s n.val (fun b => match b with | .openF _ => true | _ => false) f fr)
    (body : fr.body = .openF b) (expects : expectsTraffic s n.val = true) (differs : openAgrees s f n.val b = false) :
    exec (.openFrame n) s = .next (refuseFrame f n.val 3 (taken n.val (f, fr) s)) := by
  have run : exec (.openFrame n) s = execOpenFrame n s := rfl
  rw [run, execOpenFrame, expects, takeFrame_arrived arrived (by rfl)]
  simp only [body, openAgrees_taken, differs, Bool.not_true, Bool.false_eq_true, if_false, Bool.not_false, if_true]

/-- What the own OPEN leaves of the flue. -/
theorem ownOpenSent_flue {u : State} (may : MaySend u n.val) (room : ((u.flues.get f).subs.get n.val).openTx < 2 ^ 32 - 1) :
    let c := (u.flues.get f).subs.get n.val
    let v := (ownOpenSent f n.val u).flues.get f
    v.quarPart = (u.flues.get f).quarPart ∧ (v.subs.get n.val).told = true ∧
      (v.subs.get n.val).openTx = if c.told then c.openTx else c.openTx + 1 := by
  unfold ownOpenSent
  by_cases told : ((u.flues.get f).subs.get n.val).told = true
  · simp only [told, if_true, true_and]
  · obtain ⟨key, i, out⟩ := sendOpen_of_may may room
    simp only [if_neg told, out, flues_modFlue_same, Flue.openOut, Tab.get_set_same, true_and]

/-! ### Reports, FREEZE, STOKER and routes (R262, R269, R271) -/

section
variable (arrived : Arrived s n.val (fun b => match b with | .quarReport _ _ => true | _ => false) f fr) {k c : Nat}
  (body : fr.body = .quarReport k c)
include arrived body

theorem quarantineReport_passes (other : isJobStoker s n.val = false) : exec (.quarantineReport n) s =
    .next (sendFrame n.val (some (s.part n.val).jobStoker) .ctrl (.quarReport k c) (taken n.val (f, fr) s)) := by
  have run : exec (.quarantineReport n) s = execQuarantineReport n s := rfl
  rw [run, execQuarantineReport, takeFrame_arrived arrived (by rfl)]
  simp only [body, taken_isJobStoker, other, Bool.not_false, if_true, taken_part]
  rfl

theorem quarantineReport_freezes (stoker : isJobStoker s n.val = true) (begins : c ≠ 0) : exec (.quarantineReport n) s =
    .next (sendFrame n.val none .ctrl (.freeze false) (taken n.val (f, fr) s)) := by
  have run : exec (.quarantineReport n) s = execQuarantineReport n s := rfl
  rw [run, execQuarantineReport, takeFrame_arrived arrived (by rfl)]
  simp only [body, taken_isJobStoker, stoker, begins, Bool.not_true, Bool.false_eq_true, if_false]

end

/-- Hold at the next boundary under a FREEZE (R262, R318). -/
def Part.freezeFab (route : Bool) (p : Part) : Part :=
  { p with frozen := true, stk := { p.stk with measuring := false }, rl := { p.rl with routeLost := p.rl.routeLost || route } }

theorem freezeFrame_freezes (arrived : Arrived s n.val (fun b => match b with | .freeze _ => true | _ => false) f fr) {k : Bool}
    (body : fr.body = .freeze k) : exec (.freezeFrame n) s = .next ((taken n.val (f, fr) s).modPart n.val (Part.freezeFab k)) := by
  have run : exec (.freezeFrame n) s = execFreezeFrame n s := rfl
  have cause : decide (fr.body = .freeze true) = k := by
    rw [body]
    cases k
    · rfl
    · rfl
  rw [run, execFreezeFrame, takeFrame_arrived arrived (by rfl)]
  simp only [cause]
  rfl

/-- Follow a new job stoker (R271). -/
def Part.followStoker (q : Pos) (p : Part) : Part := { p with jobStoker := q }

theorem stokerFrame_names (arrived : Arrived s n.val (fun b => match b with | .stoker => true | .stokerAnswer _ _ => true | _ => false) f fr)
    (body : fr.body = .stoker) : ∃ t, exec (.stokerFrame n) s = .next t ∧
      t.part n.val = ((taken n.val (f, fr) s).part n.val).followStoker fr.src := by
  have run : exec (.stokerFrame n) s = execStokerFrame n s := rfl
  rw [run, execStokerFrame, takeFrame_arrived arrived (by rfl)]
  simp only [body]
  refine ⟨_, rfl, ?_⟩
  rw [apply_ite (fun u : State => u.part n.val), sendFrame_part, ite_self, part_modPart_same]
  rfl

/-- Change the route of an adopted position (R269). -/
def Part.reroute (q : Pos) (rest : List Pos) (forwards : Bool) (p : Part) : Part :=
  { p with
    notices := rest
    routes := if q ∈ p.routes then p.routes else p.routes ++ [q]
    rl := { p.rl with forward := p.rl.forward || (forwards && p.adoptPos.isNone) } }

theorem routeUpdate_reroutes {q : Pos} {rest : List Pos} (notices : (s.part n.val).notices = q :: rest) (other : isJobStoker s n.val = false) :
    exec (.routeUpdate n) s = .next (s.modPart n.val (Part.reroute q rest (decide (s.ownPos.member = 8)))) := by
  have run : exec (.routeUpdate n) s = execRouteUpdate n s := rfl
  have stays : isJobStoker (s.modPart n.val (Part.reroute q rest (decide (s.ownPos.member = 8)))) n.val = false := by
    rw [← other, isJobStoker, State.logicalPos, part_modPart_same]
    rfl
  have unchanged : stokerFreeze n.val (s.modPart n.val (Part.reroute q rest (decide (s.ownPos.member = 8)))) =
      s.modPart n.val (Part.reroute q rest (decide (s.ownPos.member = 8))) := by
    simp only [stokerFreeze, stays, Bool.not_false, Bool.true_or, if_true]
  rw [run, execRouteUpdate, notices]
  exact congrArg Host.Outcome.next unchanged

theorem mem_reroute (q : Pos) (rest : List Pos) (forwards : Bool) (p : Part) : q ∈ (p.reroute q rest forwards).routes := by
  rw [Part.reroute]
  dsimp only
  split
  · assumption
  · exact List.mem_append_right _ (List.mem_singleton.2 rfl)

/-! ### DATA and DACK (R139, R258) -/

/-- Forget a transfer that comes in. -/
def Part.dropXfer (key : Pos × Nat × Nat × Nat) (p : Part) : Part :=
  { p with inXfers := p.inXfers.filter fun x => decide ((x.1, x.2.1, x.2.2.1, x.2.2.2.1) ≠ key) }

/-- Note a transfer that comes in. -/
def Part.addXfer (x : Pos × Nat × Nat × Nat × Nat) (p : Part) : Part := { p with inXfers := p.inXfers ++ [x] }

/-- The state in which the bytes of a transfer of one frame have been written, and the transfer is over. -/
def dataWritten (l off : Nat) (bs : List Byte) (key : Pos × Nat × Nat × Nat) (tally : Nat) (n : Nat) (s : State) : State :=
  (storeScratch l off bs ((s.modPart n (Part.dropXfer key)).modPart n (Part.addXfer (key.1, key.2.1, key.2.2.1, key.2.2.2, tally)))).modPart n
    (Part.dropXfer key)

theorem dataFrame_writes {l i w off first last e mv et : Nat} {bs : List Byte}
    (arrived : Arrived s n.val (fun b => match b with | .data .. => true | _ => false) f fr)
    (body : fr.body = .data l i w off (some (first, last)) e mv et bs true) (owner : s.partOf l = n.val)
    (holds : windowHolds ((s.thread l i).win.get w) first last = true) : exec (.dataFrame n) s =
      .next (sendFrame n.val (some fr.src) fr.vc (.dack e mv et false) (tallyAdd l i ((s.thread l i).win.get w).tally 1
        (dataWritten l off bs (fr.src, e, mv, et) ((s.thread l i).win.get w).tally n.val (taken n.val (f, fr) s)))) := by
  have run : exec (.dataFrame n) s = execDataFrame n s := rfl
  have owner' : (taken n.val (f, fr) s).partOf l = n.val := owner
  rw [run, execDataFrame, takeFrame_arrived arrived (by rfl)]
  simp only [body, taken_thread, owner', holds, and_self, if_true]
  rfl

section
variable (l off : Nat) (bs : List Byte) (key : Pos × Nat × Nat × Nat) (tally m : Nat) (u : State)

theorem dataWritten_part {α : Type} (g : Part → α) (hg : ∀ p xs, g { p with inXfers := xs } = g p) (k : Nat) :
    g ((dataWritten l off bs key tally m u).part k) = g (u.part k) := by
  rw [dataWritten, part_modPart_keeps g (f := Part.dropXfer key) (fun p => hg p _), storeScratch, modEmber_part,
    part_modPart_keeps g (f := Part.addXfer _) (fun p => hg p _), part_modPart_keeps g (f := Part.dropXfer key) fun p => hg p _]

theorem dataWritten_thread (k j : Nat) : (dataWritten l off bs key tally m u).thread k j = u.thread k j := by
  rw [dataWritten, modPart_thread, thread_storeScratch, modPart_thread, modPart_thread]

theorem dataWritten_scratch : ((dataWritten l off bs key tally m u).ember l).scratch = (u.ember l).scratch.write off bs := by
  rw [dataWritten, modPart_ember, scratch_storeScratch, modPart_ember, modPart_ember]

theorem dataWritten_fab : (dataWritten l off bs key tally m u).fab = u.fab := by
  rw [dataWritten, modPart_fab, storeScratch, modEmber_fab, modPart_fab, modPart_fab]

theorem dataWritten_outHold : (dataWritten l off bs key tally m u).outHold = u.outHold := by
  rw [dataWritten, modPart_outHold, storeScratch, modEmber_outHold, modPart_outHold, modPart_outHold]

end

/-- The oldest sent FSEND, its acknowledgement and what it counts (R139, R258). -/
theorem dackFrame_ends {l mv i : Nat} {j : MoverJob} (arrived : Arrived s n.val (fun b => match b with | .dack .. => true | _ => false) f fr)
    (body : fr.body = .dack l mv i false) (alone : (s.ember l).movers.get mv = [j]) (sent : j.sent = true) (thread : j.t = i) {route win : Nat}
    (kind : j.kind = .fsend route win) (source : s.routePos n.val route = fr.src) : exec (.dackFrame n) s =
      .next (tallyAdd l i (mvDesc j.desc).tally 1 (setJob l mv j none (useCount n.val j.be (mvDesc j.desc).total 0 (taken n.val (f, fr) s)))) := by
  have run : exec (.dackFrame n) s = execDackFrame n s := rfl
  have source' : (taken n.val (f, fr) s).routePos n.val route = fr.src := by
    rw [← source, State.routePos, taken_logicalPos, State.routePos]
    rfl
  have found (p : MoverJob → Bool) (h : p j = true) : [j].find? p = some j := List.find?_cons_of_pos h
  rw [run, execDackFrame, takeFrame_arrived arrived (by rfl)]
  simp only [body, taken_ember, alone]
  rw [found _ (by simp [sent, thread, kind, source'])]
  rfl

theorem setJob_inbox (l mv : Nat) (j : MoverJob) (s : State) (k : Nat) : ((setJob l mv j none s).part k).inbox = (s.part k).inbox := by
  rw [setJob, Option.isNone_none, if_pos rfl, returnBe_inbox, modEmber_part]

/-! ### Heartbeats (R270) -/

/-- One more heartbeat. -/
def Part.countHeartbeat (p : Part) : Part := { p with hbSent := p.hbSent + 1 }

/-- A heartbeat to a hearth peer. -/
def heartbeatTo (n : Nat) (w : Word) (s : State) (m : Nat) : State :=
  sendFrame n (some (s.groupPos n m)) .ctrl (.heartbeat (s.part n).hbSent w) s

theorem heartbeatSend_sends (service : s.inService = true) (loaded : (s.part n.val).hasLc = true) (stays : (s.part n.val).rl.state ≠ .withdrawn) :
    ∃ w, exec (.heartbeatSend n) s = .next ((hearthPeers (s.takeFree.2.modPart n.val Part.countHeartbeat) n.val).foldl (heartbeatTo n.val w)
      (s.takeFree.2.modPart n.val Part.countHeartbeat)) := by
  have run : exec (.heartbeatSend n) s = execHeartbeatSend n s := rfl
  rw [run, execHeartbeatSend]
  simp only [service, loaded, stays, Bool.not_true, Bool.true_or, Bool.false_or, decide_false, Bool.false_eq_true, if_false]
  exact ⟨_, rfl⟩

end

/-- What is seen of a held frame: its partition, its destination and its body. -/
def heldView (e : Nat × Frame) : Nat × Option Pos × FrameBody := (e.1, e.2.dst, e.2.body)

theorem heartbeats_outHold {n : Nat} {w : Word} (ms : List Nat) {s : State} (may : MaySend s n) :
    (ms.foldl (heartbeatTo n w) s).outHold.map heldView =
      s.outHold.map heldView ++ ms.map fun m => (n, some (s.groupPos n m), .heartbeat (s.part n).hbSent w) := by
  induction ms generalizing s with
  | nil => rw [List.foldl_nil, List.map_nil, List.append_nil]
  | cons m ms ih =>
    have part : (heartbeatTo n w s m).part n = s.part n := sendFrame_part ..
    have place : (heartbeatTo n w s m).groupPos n = s.groupPos n := by
      funext k
      rw [State.groupPos, logicalPos_of_heads (congrArg Part.heads part) (sendFrame_fab ..), State.groupPos]
    have held : (heartbeatTo n w s m).outHold.map heldView = s.outHold.map heldView ++ [(n, some (s.groupPos n m), .heartbeat (s.part n).hbSent w)] := by
      rw [heartbeatTo, sendFrame_of_may may, List.map_append]
      rfl
    rw [List.foldl_cons, ih (by rw [MaySend, part]; exact may), held, part, place, List.append_assoc, List.map_cons]
    rfl

theorem heartbeats_part {n : Nat} {w : Word} (ms : List Nat) (s : State) (k : Nat) : (ms.foldl (heartbeatTo n w) s).part k = s.part k :=
  foldl_keeps (State.part · k) _ (fun _ _ => sendFrame_part ..) ms s

/-- A peer is heard (R270). -/
def PeerSt.hear (c : DWord) (h : Word) (q : PeerSt) : PeerSt := { q with alive := true, count := c, health := h }

/-- A lost peer has been heard. -/
def PeerSt.find (q : PeerSt) : PeerSt := { q with lost := false }

/-- Change a peer. -/
def Part.modPeer (m : Nat) (g : PeerSt → PeerSt) (p : Part) : Part := { p with peers := p.peers.upd m g }

theorem get_modPeer {α : Type} (v : PeerSt → α) {g : PeerSt → PeerSt} (hg : ∀ q, v (g q) = v q) (k m : Nat) (p : Part) :
    v ((p.modPeer k g).peers.get m) = v (p.peers.get m) := by
  rw [Part.modPeer, Tab.get_upd_at]
  split
  · exact hg _
  · rfl

section
variable {n : PartId} {f : Nat} {fr : Frame} {s : State}

/-- What a heartbeat leaves of the inbox and of its sender. -/
theorem heartbeatFrame_hears {c : DWord} {h : Word} (arrived : Arrived s n.val (fun b => match b with | .heartbeat _ _ => true | _ => false) f fr)
    (body : fr.body = .heartbeat c h) : ∃ t, exec (.heartbeatFrame n) s = .next t ∧ (t.part n.val).inbox = (s.part n.val).inbox.erase (f, fr) ∧
      ((t.part n.val).peers.get fr.src.member).alive = true ∧ ((t.part n.val).peers.get fr.src.member).count = c := by
  have run : exec (.heartbeatFrame n) s = execHeartbeatFrame n s := rfl
  rw [run, execHeartbeatFrame, takeFrame_arrived arrived (by rfl)]
  simp only [body]
  refine ⟨_, rfl, ?_⟩
  let heard := (taken n.val (f, fr) s).modPart n.val (Part.modPeer fr.src.member (PeerSt.hear c h))
  have part : heard.part n.val = ((taken n.val (f, fr) s).part n.val).modPeer fr.src.member (PeerSt.hear c h) := part_modPart_same ..
  have inbox : (heard.part n.val).inbox = (s.part n.val).inbox.erase (f, fr) := by
    rw [part]
    exact taken_inbox ..
  have peer : (heard.part n.val).peers.get fr.src.member = PeerSt.hear c h (((taken n.val (f, fr) s).part n.val).peers.get fr.src.member) := by
    rw [part, Part.modPeer, Tab.get_upd_same]
  have alive : ((heard.part n.val).peers.get fr.src.member).alive = true := congrArg PeerSt.alive peer
  have count : ((heard.part n.val).peers.get fr.src.member).count = c := congrArg PeerSt.count peer
  split
  · rw [sendFrame_part, part_modPart_same]
    refine ⟨inbox, ?_, ?_⟩
    · exact (get_modPeer PeerSt.alive (g := PeerSt.find) (fun _ => rfl) 8 fr.src.member (heard.part n.val)).trans alive
    · exact (get_modPeer PeerSt.count (g := PeerSt.find) (fun _ => rfl) 8 fr.src.member (heard.part n.val)).trans count
  · split
    · rw [sendFrame_part]
      exact ⟨inbox, alive, count⟩
    · exact ⟨inbox, alive, count⟩

end

/-! ### The holds (R233, R259) -/

/-- A frame arrives in the inbox of its partition. -/
def Part.arrive (e : Nat × Frame) (p : Part) : Part := { p with inbox := p.inbox ++ [e] }

theorem route_here {k : Nat} {g : Frame} {d : Pos} {u : State} (dst : g.dst = some d) (here : nextHop u k d = .here) :
    route k g u = u.modPart k (Part.arrive (32, g)) := by
  rw [route, dst]
  simp only [here]
  rfl

theorem releaseHeld_nil {u : State} (quiet : u.hostHold = []) : releaseHeld u = u := by
  rw [releaseHeld, quiet]

/-- The oldest held frame that has reached its place comes into the inbox of its partition. -/
theorem outboundHold_delivers {k : Nat} {g : Frame} {rest : List (Nat × Frame)} {d : Pos} {s : State} (held : s.outHold = (k, g) :: rest)
    (quiet : s.hostHold = []) (dst : g.dst = some d) (here : nextHop s k d = .here) :
    exec .outboundHoldRelease s = .next (State.modPart k (Part.arrive (32, g)) { s with outHold := rest }) := by
  have run : exec .outboundHoldRelease s = execOutboundHoldRelease s := rfl
  have here' : nextHop { s with outHold := rest } k d = .here := here
  rw [run, execOutboundHoldRelease, held]
  simp only [route_here dst here']
  rw [releaseHeld_nil]
  exact quiet

/-- What has left the device is not taken back. -/
structure KeepsOut (o : Output) (s t : State) : Prop where
  mem : o ∈ s.out → o ∈ t.out

theorem KeepsOut.refl (o : Output) (s : State) : KeepsOut o s s := ⟨id⟩

theorem KeepsOut.trans {o : Output} {s t u : State} (h : KeepsOut o s t) (k : KeepsOut o t u) : KeepsOut o s u := ⟨fun inside => k.mem (h.mem inside)⟩

section
variable (o : Output)

theorem keeps_of_out {s t : State} (same : t.out = s.out) : KeepsOut o s t := ⟨fun inside => by rwa [same]⟩

theorem keeps_emit (p : Output) (s : State) : KeepsOut o s (s.emit p) := ⟨List.mem_cons_of_mem _⟩

theorem keeps_putRecord (f : Nat) (r : HostRecord) (s : State) : KeepsOut o s (putRecord f r s) :=
  ⟨fun inside => List.mem_cons_of_mem _ (List.mem_cons_of_mem _ inside)⟩

theorem keeps_hostRecord (f : Nat) (r : HostRecord) (s : State) : KeepsOut o s (hostRecord f r s) := by
  unfold hostRecord
  dsimp only
  split
  · exact keeps_putRecord ..
  · split
    · exact keeps_of_out o rfl
    · exact keeps_of_out o rfl

theorem keeps_partRecord (n : Nat) (r : HostRecord) (s : State) : KeepsOut o s (partRecord n r s) :=
  (keeps_hostRecord ..).trans (keeps_hostRecord ..)

theorem keeps_ringDone (f : Nat) (r : RingId) (b : Busy) (status detail : Nat) (arg : DWord) (s : State) :
    KeepsOut o s (ringDone f r b status detail arg s) := by
  unfold ringDone
  split
  · exact .refl o s
  · dsimp only
    split
    · exact ((keeps_of_out o (modRing_out ..)).trans (keeps_emit ..)).trans (keeps_hostRecord ..)
    · exact (keeps_of_out o (modRing_out ..)).trans (keeps_emit ..)

theorem keeps_foldl {α : Type} {g : State → α → State} (hg : ∀ s a, KeepsOut o s (g s a)) (as : List α) (s : State) : KeepsOut o s (as.foldl g s) := by
  induction as generalizing s with
  | nil => exact .refl o s
  | cons a as ih => exact (hg s a).trans (ih _)

theorem keeps_signalEvent (fuel n h add : Nat) (s : State) : KeepsOut o s (signalEvent fuel n h add s) := by
  induction fuel generalizing n h add s with
  | zero => exact .refl o s
  | succ fuel ih =>
    unfold signalEvent
    split
    · exact .refl o s
    · split
      · exact .refl o s
      · refine KeepsOut.trans ?_ (keeps_foldl o (fun s e => ?_) _ _)
        · split
          · exact (keeps_of_out o (modPart_out ..)).trans ((keeps_partRecord ..).trans (keeps_emit ..))
          · exact keeps_of_out o (modPart_out ..)
        · obtain ⟨c, q, b⟩ := e
          dsimp only
          split
          · exact (keeps_ringDone ..).trans (ih ..)
          · exact keeps_ringDone ..

theorem keeps_completeCmd (f : Nat) (r : RingId) (b : Busy) (status detail : Nat) (arg : DWord) (s : State) :
    KeepsOut o s (completeCmd f r b status detail arg s) := by
  unfold completeCmd
  dsimp only
  split
  · exact (keeps_ringDone ..).trans (keeps_signalEvent ..)
  · exact keeps_ringDone ..

end

theorem completeCmd_hostHold (f : Nat) (r : RingId) (b : Busy) (status detail : Nat) (arg : DWord) (s : State) :
    (completeCmd f r b status detail arg s).hostHold = s.hostHold := by
  obtain ⟨rest, -⟩ := onlyAnswers_completeCmd f r b status detail arg s
  have held := congrArg State.hostHold rest
  exact held

/-- The oldest held transfer towards the host leaves, and its command completes. -/
theorem hostHold_leaves {h : HeldOut} {rest : List HeldOut} {s : State} (quiet : s.outHold = []) (held : s.hostHold = h :: rest) :
    ∃ t, exec .outboundHoldRelease s = .next t ∧ t.hostHold = rest ∧ h.out ∈ t.out ∧
      (h.cmd = none → t = { s with hostHold := rest, out := h.out :: s.out }) := by
  have run : exec .outboundHoldRelease s = execOutboundHoldRelease s := rfl
  rw [run, execOutboundHoldRelease]
  simp only [quiet, releaseHeld, held]
  refine ⟨_, rfl, ?_⟩
  have left : h.out ∈ (State.emit h.out { s with hostHold := rest }).out := List.mem_cons_self
  split
  · next r b arg cmd =>
    refine ⟨completeCmd_hostHold .., (keeps_completeCmd ..).mem left, fun none => ?_⟩
    exact nomatch none.symm.trans cmd
  · exact ⟨rfl, left, fun _ => rfl⟩

/-- A frame's checks rest on the fabric's settings and on its partition, but for what the partition holds back. -/
theorem checkFrame_congr {s u : State} {n : Nat} (fab : u.fab = s.fab) (part : u.part n = { s.part n with holdBuf := (u.part n).holdBuf }) (fr : Frame) :
    checkFrame u n fr = checkFrame s n fr := by
  have dims : u.dim = s.dim := by
    funext d
    rw [State.dim, fab, State.dim]
  have slots : slotOf u = slotOf s := by
    funext a p
    simp only [slotOf, dims]
  have pos : u.logicalPos n = s.logicalPos n := by
    rw [State.logicalPos, part, State.ownPos, fab]
    rfl
  have carrier : isCoCarrier u n fr.src = isCoCarrier s n fr.src := by
    rw [isCoCarrier, slots, pos, part]
    rfl
  rw [checkFrame, carrier, part]
  rfl

/-- Keep the held frames that meet `q`. -/
def Part.keepHeld (q : Nat × Frame × Bool → Bool) (p : Part) : Part := { p with holdBuf := p.holdBuf.filter q }

/-- The slots of a held frame become free where the hold buffer had no room for it. -/
def heldFreed (f n : Nat) (fr : Frame) (room : Bool) (u : State) : State := if room then u else freeSlots f fr.vc n (lastFlits fr.body) u

theorem heldFreed_part (f n : Nat) (fr : Frame) (room : Bool) (u : State) (k : Nat) : (heldFreed f n fr room u).part k = u.part k := by
  unfold heldFreed freeSlots
  split
  · rfl
  · split
    · rfl
    · rfl

theorem heldFreed_fab (f n : Nat) (fr : Frame) (room : Bool) (u : State) : (heldFreed f n fr room u).fab = u.fab := by
  unfold heldFreed freeSlots
  split
  · rfl
  · split
    · rfl
    · rfl

/-- Hand a held frame on (R259). -/
def handOn (n : Nat) (s : State) (e : Nat × Frame × Bool) : State :=
  let pool := decide (checkFrame s n e.2.1 = .deliver) && isColl e.2.1
  let s := if e.2.2 then s
    else if pool then s.modPart n fun p => { p with tree := { p.tree with inPool := p.tree.inPool ++ [(e.1, e.2.1)] } }
    else freeSlots e.1 e.2.1.vc n (lastFlits e.2.1.body) s
  match checkFrame s n e.2.1 with
  | .deliver => s.modPart n (Part.arrive (e.1, e.2.1))
  | .stale => countStale e.1 s
  | .dropped => countDropped n s
  | .refused c => refuseIn e.1 n e.2.1 c s
  | .hold => s

theorem handOn_of_deliver {n f : Nat} {fr : Frame} {room : Bool} {s : State} (other : isColl fr = false)
    (still : checkFrame (heldFreed f n fr room s) n fr = .deliver) :
    handOn n s (f, fr, room) = (heldFreed f n fr room s).modPart n (Part.arrive (f, fr)) := by
  unfold handOn
  simp only [other, Bool.and_false, Bool.false_eq_true, if_false]
  rw [heldFreed] at still ⊢
  simp only [still]

/-- A partition's held frames whose step has come are handed on. -/
theorem heldFrameDeliver_run (n : PartId) (s : State) :
    let due (e : Nat × Frame × Bool) : Bool := decide (checkFrame s n.val e.2.1 ≠ .hold)
    exec (.heldFrameDeliver n) s =
      .next (((s.part n.val).holdBuf.filter due).foldl (handOn n.val) (s.modPart n.val (Part.keepHeld fun e => !due e))) := rfl

/-- The only held frame of a partition is delivered once its step has come (R259). -/
theorem heldFrame_delivers {n : PartId} {f : Nat} {fr : Frame} {room : Bool} {s : State} (held : (s.part n.val).holdBuf = [(f, fr, room)])
    (ripe : checkFrame s n.val fr = .deliver) (other : isColl fr = false) :
    ∃ q, [(f, fr, room)].filter q = [] ∧ exec (.heldFrameDeliver n) s =
      .next ((heldFreed f n.val fr room (s.modPart n.val (Part.keepHeld q))).modPart n.val (Part.arrive (f, fr))) := by
  let q (e : Nat × Frame × Bool) : Bool := !decide (checkFrame s n.val e.2.1 ≠ .hold)
  have due : decide (checkFrame s n.val fr ≠ .hold) = true := by
    rw [ripe]
    rfl
  have none : [(f, fr, room)].filter q = [] := List.filter_cons_of_neg (by simp only [q, due]; exact Bool.false_ne_true)
  have one : [(f, fr, room)].filter (fun e => decide (checkFrame s n.val e.2.1 ≠ .hold)) = [(f, fr, room)] := List.filter_cons_of_pos due
  have still : checkFrame (heldFreed f n.val fr room (s.modPart n.val (Part.keepHeld q))) n.val fr = .deliver := by
    rw [← ripe]
    refine checkFrame_congr ?_ ?_ fr
    · rw [heldFreed_fab, modPart_fab]
    · rw [heldFreed_part, part_modPart_same]
      rfl
  refine ⟨q, none, ?_⟩
  rw [heldFrameDeliver_run, held]
  dsimp only
  rw [one, List.foldl_cons, List.foldl_nil, handOn_of_deliver other still]

/-! ### The frames' effects, by kind -/

section
variable {n : PartId} {f : Nat} {fr : Frame} {s : State}

/-- REFUSE stops the sub-channel (R262). -/
theorem refuse_stops {c : Nat} (arrived : Arrived s n.val (fun b => match b with | .refuse _ => true | _ => false) f fr)
    (body : fr.body = .refuse c) (small : c < 16) : ∃ t, exec (.refuseFrame n) s = .next t ∧
      (t.part n.val).inbox = (s.part n.val).inbox.erase (f, fr) ∧ (t.flues.get f).Stopped n.val ∧
      ((s.flues.get f).quarCause = 0 → (t.flues.get f).quarCause.toNat = c) := by
  refine ⟨_, refuseFrame_quarantines arrived body, ?_, ?_, fun free => ?_⟩
  · rw [partRecord_part, modFlue_part, taken_inbox]
  · rw [partRecord_flues, flues_modFlue_same]
    exact stopped_quarantine ..
  · rw [partRecord_flues, flues_modFlue_same]
    exact quarCause_quarantine small free

/-- An OPEN that agrees opens the sub-channel (R261). -/
theorem open_opens {b : OpenBody} (arrived : Arrived s n.val (fun b => match b with | .openF _ => true | _ => false) f fr)
    (body : fr.body = .openF b) (expects : expectsTraffic s n.val = true) (may : MaySend s n.val) (agrees : openAgrees s f n.val b = true)
    (holder : b.role ≠ .adopted) (free : (s.flues.get f).quarPart.getLsbD n.val = false)
    (room : ((s.flues.get f).subs.get n.val).openTx < 2 ^ 32 - 1) :
    let c := (s.flues.get f).subs.get n.val
    ∃ t, exec (.openFrame n) s = .next t ∧ (t.part n.val).inbox = (s.part n.val).inbox.erase (f, fr) ∧
      ((t.flues.get f).subs.get n.val).opened = true ∧ ((t.flues.get f).subs.get n.val).peerRole = b.role ∧
      ((t.flues.get f).subs.get n.val).told = true ∧
      ((t.flues.get f).subs.get n.val).openTx = if c.told then c.openTx else c.openTx + 1 := by
  have opens := openFrame_opens arrived body expects agrees holder
  obtain ⟨quar, told, sent⟩ := ownOpenSent_flue (u := taken n.val (f, fr) s) (taken_maySend may) room
  rw [taken_flues] at quar sent
  refine ⟨_, opens, ?_, ?_⟩
  · rw [openEnds_inbox, modFlue_part, ownOpenSent_part, taken_inbox]
  · rw [openEnds_flues, flues_modFlue_same, Flue.opens, Tab.get_upd_same, quar, free]
    exact ⟨rfl, rfl, told, sent⟩

/-- An OPEN that disagrees is refused (R261, R262). -/
theorem open_refused {b : OpenBody} (arrived : Arrived s n.val (fun b => match b with | .openF _ => true | _ => false) f fr)
    (body : fr.body = .openF b) (expects : expectsTraffic s n.val = true) (flue : f < 32) (differs : openAgrees s f n.val b = false) :
    ∃ t, exec (.openFrame n) s = .next t ∧ (t.part n.val).inbox = (s.part n.val).inbox.erase (f, fr) ∧ (t.flues.get f).Stopped n.val := by
  obtain ⟨stopped, part⟩ := refuseFrame_stops n 3 (taken n.val (f, fr) s) flue
  refine ⟨_, openFrame_refuses arrived body expects differs, ?_, stopped⟩
  rw [part, taken_inbox]

/-- What a FREEZE changes (R262, R318). -/
theorem freeze_holds {k : Bool} (arrived : Arrived s n.val (fun b => match b with | .freeze _ => true | _ => false) f fr)
    (body : fr.body = .freeze k) : ∃ t, exec (.freezeFrame n) s = .next t ∧ OnlyPart n.val s t ∧
      t.part n.val = ((s.part n.val).dropFrame (f, fr)).freezeFab k := by
  refine ⟨_, freezeFrame_freezes arrived body, onlyPart_trans (onlyPart_mod ..) (onlyPart_mod ..), ?_⟩
  rw [part_modPart_same, taken_part]

/-- DATA of one frame lands, counts and is acknowledged (R139, R258). -/
theorem data_lands {l i w off first last e mv et : Nat} {bs : List Byte}
    (arrived : Arrived s n.val (fun b => match b with | .data .. => true | _ => false) f fr)
    (body : fr.body = .data l i w off (some (first, last)) e mv et bs true) (owner : s.partOf l = n.val)
    (holds : windowHolds ((s.thread l i).win.get w) first last = true) (live : (s.thread l i).st ≠ .lost) (may : MaySend s n.val) :
    let tally := ((s.thread l i).win.get w).tally
    ∃ t, exec (.dataFrame n) s = .next t ∧ (t.part n.val).inbox = (s.part n.val).inbox.erase (f, fr) ∧
      (t.thread l i).q.get tally = satAdd ((s.thread l i).q.get tally) 1 ∧
      (t.ember l).scratch = (s.ember l).scratch.write off bs ∧ Sends n.val s t [(some fr.src, fr.vc, .dack e mv et false)] := by
  have writes := dataFrame_writes arrived body owner holds
  obtain ⟨u, hu⟩ : ∃ u, u = dataWritten l off bs (fr.src, e, mv, et) ((s.thread l i).win.get w).tally n.val (taken n.val (f, fr) s) := ⟨_, rfl⟩
  rw [← hu] at writes
  have inbox : (u.part n.val).inbox = (s.part n.val).inbox.erase (f, fr) := by
    rw [hu, dataWritten_part l off bs _ _ n.val _ Part.inbox fun _ _ => rfl, taken_inbox]
  have heads : (u.part n.val).heads = (s.part n.val).heads := by
    rw [hu, dataWritten_part l off bs _ _ n.val _ Part.heads fun _ _ => rfl, heads_taken]
  have thread : u.thread l i = s.thread l i := by
    rw [hu, dataWritten_thread, taken_thread]
  have scratch : (u.ember l).scratch = (s.ember l).scratch.write off bs := by
    rw [hu, dataWritten_scratch, taken_ember]
  have fab : u.fab = s.fab := by
    rw [hu, dataWritten_fab, taken_fab]
  have held : u.outHold = s.outHold := by
    rw [hu, dataWritten_outHold, taken_outHold]
  refine ⟨_, writes, ?_, ?_, ?_, ?_⟩
  · rw [sendFrame_part, part_tallyAdd, inbox]
  · rw [sendFrame_thread, tallyAdd_counts (by rw [thread]; exact live), thread]
  · rw [sendFrame_ember, emberPart_tallyAdd Ember.scratch (fun _ _ _ => rfl), scratch]
  · refine sendsVia_of_heads ?_ ?_ ?_ may none _ _ _
    · rw [part_tallyAdd, heads]
    · rw [tallyAdd_outside State.fab (fun _ _ => rfl), fab]
    · rw [tallyAdd_outside State.outHold (fun _ _ => rfl), held]

/-- A DACK ends the transfer that it acknowledges, and counts it (R139, R258). -/
theorem dack_ends {l mv i : Nat} {j : MoverJob} (arrived : Arrived s n.val (fun b => match b with | .dack .. => true | _ => false) f fr)
    (body : fr.body = .dack l mv i false) (alone : (s.ember l).movers.get mv = [j]) (sent : j.sent = true) (thread : j.t = i) {route win : Nat}
    (kind : j.kind = .fsend route win) (source : s.routePos n.val route = fr.src) (live : (s.thread l i).st ≠ .lost) :
    ∃ t, exec (.dackFrame n) s = .next t ∧ (t.part n.val).inbox = (s.part n.val).inbox.erase (f, fr) ∧ (t.ember l).movers.get mv = [] ∧
      (t.thread l i).q.get (mvDesc j.desc).tally = satAdd ((s.thread l i).q.get (mvDesc j.desc).tally) 1 := by
  have ends := dackFrame_ends arrived body alone sent thread kind source
  obtain ⟨u, hu⟩ : ∃ u, u = useCount n.val j.be (mvDesc j.desc).total 0 (taken n.val (f, fr) s) := ⟨_, rfl⟩
  rw [← hu] at ends
  have inbox : (u.part n.val).inbox = (s.part n.val).inbox.erase (f, fr) := by
    rw [hu, part_useCount Part.inbox fun _ _ => rfl, taken_inbox]
  have same : (setJob l mv j none u).thread l i = s.thread l i := by
    rw [setJob_thread, hu, useCount_thread, taken_thread]
  have queue : (u.ember l).movers.get mv = [j] := by
    rw [hu, useCount_ember, taken_ember, alone]
  refine ⟨_, ends, ?_, ?_, ?_⟩
  · rw [part_tallyAdd, setJob_inbox, inbox]
  · rw [emberPart_tallyAdd Ember.movers (fun _ _ _ => rfl), setJob_movers, queue, swapJob, if_pos rfl]
  · rw [tallyAdd_counts (by rw [same]; exact live), same]

/-- A partition with an LC context sends its heartbeat to every hearth peer (R270). -/
theorem heartbeat_goes (service : s.inService = true) (loaded : (s.part n.val).hasLc = true) (may : MaySend s n.val) :
    ∃ t w, exec (.heartbeatSend n) s = .next t ∧ (t.part n.val).hbSent = (s.part n.val).hbSent + 1 ∧
      t.outHold.map heldView = s.outHold.map heldView ++
        (hearthPeers s n.val).map fun m => (n.val, some (s.groupPos n.val m), .heartbeat ((s.part n.val).hbSent + 1) w) := by
  obtain ⟨w, sends⟩ := heartbeatSend_sends service loaded may.1
  obtain ⟨u, hu⟩ : ∃ u, u = s.takeFree.2.modPart n.val Part.countHeartbeat := ⟨_, rfl⟩
  rw [← hu] at sends
  have part : u.part n.val = (s.part n.val).countHeartbeat := by
    rw [hu, part_modPart_same, takeFree_part]
  have fab : u.fab = s.fab := by
    rw [hu, modPart_fab]
    rfl
  have held : u.outHold = s.outHold := by
    rw [hu, modPart_outHold]
    rfl
  have heads : (u.part n.val).heads = (s.part n.val).heads := by
    rw [part]
    rfl
  have place : u.groupPos n.val = s.groupPos n.val := by
    funext k
    rw [State.groupPos, logicalPos_of_heads heads fab, State.groupPos]
  have peers : hearthPeers u n.val = hearthPeers s n.val := by
    rw [hearthPeers, part, State.ownPos, fab, State.memberOf, logicalPos_of_heads heads fab]
    rfl
  have may' : MaySend u n.val := by
    rw [MaySend, part]
    exact may
  refine ⟨_, w, sends, ?_, ?_⟩
  · rw [heartbeats_part, part]
    rfl
  · rw [heartbeats_outHold _ may', held, place, peers, part]
    rfl

end

end Sys2Proof.Machine

namespace Sys2Proof

open Machine

/-- Settles O27, frame by frame: what the run of each row leaves, and what each clause reads of it. -/
theorem fabricFrames : Obligations.FabricFrames := by
  unfold Obligations.FabricFrames
  intro n f fr s p from_ gone
  refine ⟨?refuse, ?openF, ?report, ?freeze, ?stoker, ?route, ?data, ?dack, ?beat, ?heard, ?outbound, ?host, ?held⟩
  case refuse =>
    intro c arrived body _ small
    obtain ⟨t, run, left, ⟨closed, quarantined⟩, cause⟩ := refuse_stops arrived body small
    exact ⟨t, run, left, closed, quarantined, cause⟩
  case openF =>
    intro b arrived body expects flue may c
    refine ⟨fun agrees holder free room => open_opens arrived body expects may agrees holder free room, fun differs => ?_⟩
    obtain ⟨t, run, left, closed, quarantined⟩ := open_refused arrived body expects flue differs
    exact ⟨t, run, left, closed, quarantined⟩
  case report =>
    intro k c arrived body may
    refine ⟨fun other => ⟨_, quarantineReport_passes arrived body other, ?_, sends_taken may ..⟩,
      fun stoker begins => ⟨_, quarantineReport_freezes arrived body stoker begins, ?_, sends_taken may ..⟩⟩
    · exact (congrArg Part.inbox (sendFrame_part ..)).trans (taken_inbox ..)
    · exact (congrArg Part.inbox (sendFrame_part ..)).trans (taken_inbox ..)
  case freeze =>
    intro k arrived body
    obtain ⟨t, run, only, part⟩ := freeze_holds arrived body
    refine ⟨t, run, ?_, only, ?_⟩
    · exact congrArg Part.inbox part
    · rw [part]
      exact ⟨rfl, rfl, rfl⟩
  case stoker =>
    intro arrived body
    obtain ⟨t, run, part⟩ := stokerFrame_names arrived body
    refine ⟨t, run, ?_, ?_⟩
    · exact (congrArg Part.inbox part).trans (taken_inbox ..)
    · rw [part]
      rfl
  case route =>
    intro q rest notices other
    refine ⟨_, routeUpdate_reroutes notices other, onlyPart_mod .., ?_, ?_⟩
    · rw [part_modPart_same]
      rfl
    · rw [part_modPart_same]
      exact mem_reroute ..
  case data =>
    intro l i w off first last e mv et bs arrived body owner holds live may tally
    obtain ⟨t, run, left, counted, scratch, sent⟩ := data_lands arrived body owner holds live may
    refine ⟨t, run, left, counted, fun b => ?_, sent⟩
    rw [scratch, Memory.get_write]
    by_cases inside : off ≤ b ∧ b < off + bs.length
    · have within : off ≤ b ∧ b - off < bs.length := by omega
      rw [dif_pos within, if_pos inside, List.getD_eq_getElem]
    · have outside : ¬(off ≤ b ∧ b - off < bs.length) := by omega
      rw [dif_neg outside, if_neg inside]
  case dack =>
    rintro l mv i j arrived body alone sent thread ⟨route, win, kind, source⟩ live
    exact dack_ends arrived body alone sent thread kind source live
  case beat =>
    intro service loaded stays running
    exact heartbeat_goes service loaded ⟨stays, running⟩
  case heard =>
    intro c h arrived body
    exact heartbeatFrame_hears arrived body
  case outbound =>
    intro k g rest d held quiet dst here
    refine ⟨_, outboundHold_delivers held quiet dst here, rfl, ?_⟩
    rw [part_modPart_same]
    rfl
  case host =>
    intro h rest quiet held
    exact hostHold_leaves quiet held
  case held =>
    intro room held ripe other
    obtain ⟨q, none, run⟩ := heldFrame_delivers held ripe other
    refine ⟨_, run, ?_, ?_⟩
    · rw [part_modPart_same, heldFreed_part, part_modPart_same]
      exact (congrArg (List.filter q) held).trans none
    · rw [part_modPart_same, heldFreed_part, part_modPart_same]
      rfl

end Sys2Proof
end

section
/-! O48 fails. Its clause on UNMAP asks that the head of the ring move on by one. UNMAP of a page whose bank-out is copying ends the BANK_OUT command that
named the page, on the ring that the command came by. A function level reset of a partition without a tenant gives the function a fresh admin ring but
leaves the partition's BANK_OUT commands, and the end of such a command moves the head of the new ring on a second time. -/

namespace Sys2Proof.Machine

/-- UNMAP of page 5 (Tables 18.3 and 18.5). -/
def unmapEntry : BitVec 512 := BitVec.ofNat 512 (0x0A + 5 * pageBytes * 2 ^ 128 + 2 ^ 192)

/-- The host begins that entry on the admin ring of partition 0. -/
def unmapCommand : HostCmd := { fn := 1, ring := .admin, entry := unmapEntry, data := [] }

/-- The BANK_OUT command of page 5, whose copy has not ended. -/
def openBankJob : BankJob :=
  { ring := .admin, busy := { opcode := 0x0B, flags := 0, tag := 0, event := 0, a := 0, b := 0 }, pages := [(5, none)] }

/-- Page 5 lies in frame 7 and is being copied to slot 40. -/
def leavingPage : Page := { w := true, pin := false, loc := .frame 7, mobj := 0, busy := .bankOut 40 }

/-- A lit module whose host has reset function 1 and enabled its admin ring again, with one entry to begin, while partition 0, which has no tenant,
banks page 5 out. -/
def leftBankOut : State :=
  { State.reset with
    power := { State.reset.power with aoOn := true, rails := true, light := .ready }
    host := { State.reset.host with
      inReset := false, layout := 0
      fns := (Tab.const hostFnFresh).set 1 { hostFnFresh with adminEn := true, admin := { ringFresh with tail := 1 } } } }.modPart 0 fun p =>
    { p with mem := { p.mem with pages := p.mem.pages.set 5 (some leavingPage), bankJobs := [openBankJob] } }

/-- The head of function 1's admin ring after a command. -/
def adminHeadAfter (c : Instr) (s : State) : Option Nat :=
  match exec c s with
  | .next t => (t.ring 1 .admin).map (·.head)
  | _ => none

/-- A command begins where the entry at the front of its ring passes the checks (R406 to R408). -/
theorem takes_of_front {c : HostCmd} {s : State} {op : Nat} {used : List (Nat × Nat)} {e : BitVec 512}
    (front : (frontEntry c s).map Prod.fst = some e)
    (checks : entryAt e 0 1 = op ∧ opDefined c.fn.val c.ring op = true ∧ ringLost s c.fn.val c.ring = false ∧ zeroFields e used = true ∧
      (entryAt e 1 1 < 2 ∨ (c.fn.val ≠ 0 ∧ ((s.part (fnPart c.fn.val)).evt (entryAt e 8 4)).isSome = true))) : Takes c s op used e := by
  obtain ⟨⟨e, s1⟩, begins, rfl⟩ := Option.map_eq_some_iff.1 front
  exact ⟨⟨s1, begins⟩, checks⟩

theorem leftBankOut_begins : (frontEntry unmapCommand leftBankOut).map Prod.fst = some unmapEntry ∧
    entryAt unmapEntry 0 1 = 0x0A ∧ opDefined 1 .admin 0x0A = true ∧ ringLost leftBankOut 1 .admin = false ∧
    zeroFields unmapEntry [(16, 12)] = true ∧ entryAt unmapEntry 1 1 < 2 := by decide +kernel

/-- The head of the admin ring before and after the UNMAP, and what the clause asks of page 5. -/
theorem leftBankOut_run : (leftBankOut.ring 1 .admin).map (fun g => (g.head, g.k)) = some (0, 4) ∧
    adminHeadAfter (.unmapPages unmapCommand) leftBankOut = some 2 ∧ extentForm (entryAt unmapEntry 16 8) (entryAt unmapEntry 24 4) = true ∧
    (List.range (entryAt unmapEntry 24 4)).map (entryAt unmapEntry 16 8 / 2 ^ 21 + ·) = [5] ∧
    (leftBankOut.part 0).mem.pages.get 5 = some leavingPage ∧ (leftBankOut.part 0).unbanking 5 = false := by decide +kernel

end Sys2Proof.Machine

namespace Sys2Proof
open Machine

/-- Refutes O48: an UNMAP ends the BANK_OUT command that named its page, and the head of the admin ring moves on by two. -/
theorem not_hostMemoryObjects : ¬ Obligations.HostMemoryObjects := by
  intro holds
  obtain ⟨front, opcode, defined, live, zero, flags⟩ := leftBankOut_begins
  obtain ⟨start, stop, form, pages, page, still⟩ := leftBankOut_run
  obtain ⟨-, -, -, -, -, unmaps, -⟩ := holds unmapCommand leftBankOut unmapEntry
  obtain ⟨-, -, made⟩ := unmaps (takes_of_front front ⟨opcode, defined, live, zero, .inl flags⟩) form
  rw [pages] at made
  obtain ⟨t, run, ⟨g, g', new, before, after, -, head, -⟩, -⟩ :=
    made (List.forall_mem_singleton.2 (Option.ne_none_iff_exists'.2 ⟨_, page⟩)) (List.forall_mem_singleton.2 still)
  have moved : adminHeadAfter (.unmapPages unmapCommand) leftBankOut = some g'.head := by
    rw [adminHeadAfter, run]
    exact congrArg (Option.map (·.head)) after
  have ring : leftBankOut.ring 1 .admin = some g := before
  rw [ring, Option.map_some, Option.some.injEq, Prod.mk.injEq] at start
  obtain ⟨zero, size⟩ := start
  rw [stop, head, zero, size] at moved
  exact absurd moved (by decide)

end Sys2Proof
end

section
/-! O51 fails. Its clause on a WRITE that is made at once asks that the ring's head move on by one, as O49 asks of a WAIT, and a context that lists a queue
beyond the sixteen there are makes the model end queue 0 twice here too: the event that the WRITE signals releases the WAIT of queue 16. -/

namespace Sys2Proof.Machine

/-- WRITE of one byte at page 5 (Tables 18.3 and 18.5), which signals the event with handle 0. -/
def writeEntry : BitVec 512 := BitVec.ofNat 512 (0x0245 + 5 * pageBytes * 2 ^ 192 + 2 ^ 256)

/-- The host begins that entry on queue 0 of context 0 of partition 0. -/
def writeCommand : HostCmd := { fn := 1, ring := .queue 0 0, entry := writeEntry, data := [1] }

/-- Page 5 of the partition, in frame 7. -/
def inputPage : Page := { w := true, pin := false, loc := .frame 7, mobj := 0, busy := .idle }

/-- The partition of `strayQueue` with a tenant whose charter allows plain input (Table 15.1), and page 5 as its input region. -/
def strayInput : State :=
  { strayQueue with
    tcache := strayQueue.tcache.set 16 [5]
    power := { strayQueue.power with idleHbm := Tab.const false } }.modPart 0 fun p =>
      { p with
        adm := { admFresh with state := .admitted, body := [0, 0, 0, 0, 0, 0, 1] }
        rl := { p.rl with inFirst := BitVec.ofNat 64 (5 * pageBytes), inSlotBytes := BitVec.ofNat 64 pageBytes, inSlots := 1 }
        mem := { p.mem with leaf := p.mem.leaf.set 0 (some (6, 0)), pages := p.mem.pages.set 5 (some inputPage) } }

theorem strayInput_begins : (frontEntry writeCommand strayInput).map Prod.fst = some writeEntry ∧
    entryAt writeEntry 0 1 = 0x45 ∧ opDefined 1 (.queue 0 0) 0x45 = true ∧ ringLost strayInput 1 (.queue 0 0) = false ∧
    zeroFields writeEntry [(16, 20)] = true ∧ ((strayInput.part 0).evt (entryAt writeEntry 8 4)).isSome = true ∧
    entryAt writeEntry 24 8 = 5 * pageBytes ∧ entryAt writeEntry 32 4 = 1 := by decide +kernel

theorem strayInput_run : strayInput.ring 1 (.queue 0 0) = some waitingRing ∧ headAfter (.queueWrite writeCommand) strayInput = some 2 := by
  decide +kernel

/-- The host may write the byte into the input region (R243, R305, R356), and at once: what `WritesAtOnce` asks for beside the lines' checks. -/
theorem strayInput_may : (plainInput (strayInput.part 0) = true ∧ inInput (strayInput.part 0) (5 * pageBytes) 1 = true ∧
    extentMapped (strayInput.part 0) (5 * pageBytes) 1 = true ∧ meetsLive (strayInput.part 0) (5 * pageBytes) 1 = false ∧
    extentProtected strayInput 0 (5 * pageBytes) 1 = false) ∧
    (strayInput.part 0).translate (5 * pageBytes) false = .frame 7 ∧ (strayInput.part 0).mem.pages.get (5 * pageBytes / 2 ^ 21) = some inputPage ∧
    0 * 2 ^ 27 + 5 * pageBytes / 2 ^ 21 ∈ strayInput.tcache.get (strayInput.mdCache 0 (5 * pageBytes)) ∧
    ((strayInput.part 0).rl.units = 0 ∧ (strayInput.part 0).rl.inputWait = false ∧ (strayInput.part 0).rl.mirrorWait = [] ∧
      extentFull strayInput 0 (5 * pageBytes) 1 = false ∧ extentAwake strayInput 0 (5 * pageBytes) 1 = true) := by decide +kernel

theorem strayInput_clean : (strayInput.part 0).prot.ext = [] := rfl

theorem strayInput_writesAtOnce : WritesAtOnce strayInput 0 (5 * pageBytes) 1 7 := by
  obtain ⟨-, translated, page, cached, rest⟩ := strayInput_may
  refine ⟨by decide, by decide, translated, fun e held => ?_, cached, fun l _ => ?_, rest⟩
  · exact Option.some.inj (held.symm.trans page) ▸ rfl
  · rw [State.badOf, State.extLine, strayInput_clean]
    rfl

end Sys2Proof.Machine

namespace Sys2Proof
open Machine

/-- Refutes O51: a WRITE that is made at once signals its event, which releases the WAIT of a queue numbered 16, and the head of the WRITE's own queue
moves on by two. -/
theorem not_hostDataCommands : ¬ Obligations.HostDataCommands := by
  intro holds
  obtain ⟨front, opcode, defined, live, zero, event, address, length⟩ := strayInput_begins
  obtain ⟨start, stop⟩ := strayInput_run
  obtain ⟨may, -⟩ := strayInput_may
  obtain ⟨-, -, writes, -⟩ := holds writeCommand strayInput writeEntry
  simp only [address, length] at writes
  obtain ⟨-, -, made⟩ := writes (takes_of_front front ⟨opcode, defined, live, zero, .inr ⟨by decide, event⟩⟩) Nat.one_ne_zero
  obtain ⟨t, run, ⟨g, g', new, before, after, -, head, -⟩, -⟩ := made may 7 strayInput_writesAtOnce
  have ring : waitingRing = g := Option.some.inj (start.symm.trans before)
  have moved : headAfter (.queueWrite writeCommand) strayInput = some g'.head := by
    rw [headAfter, run]
    exact congrArg (Option.map (·.head)) after
  rw [stop, head, ← ring] at moved
  exact absurd moved (by decide)

end Sys2Proof
end

section
/-! Banked pages: the end of a bank-out, and the start and the end of an unbank (R209 to R211, R228, R332), for O32. -/

namespace Sys2Proof.Machine

/-! ### A page's entry -/

theorem onlyPart_setPage (n k : Nat) (e : Option Page) (s : State) : OnlyPart n s (setPage n k e s) := by
  unfold setPage
  dsimp only
  split
  · exact onlyPart_trans (onlyPart_mod ..) (onlyPart_mod ..)
  · exact onlyPart_mod ..

theorem setPage_mem (n k : Nat) (e : Option Page) (s : State) :
    ((setPage n k e s).part n).mem = { (s.part n).mem with pages := (s.part n).mem.pages.set k e } := by
  have own := congrArg Part.mem (part_modPart_same n (fun p => { p with mem := { p.mem with pages := p.mem.pages.set k e } }) s)
  unfold setPage
  dsimp only
  split
  · rw [hbm_storeMark]
    exact own
  · exact own

/-! ### The end of a command of BANK_OUT -/

/-- What of a partition neither an answer to the host nor the list of its BANK_OUT commands touches is kept where commands of BANK_OUT complete. -/
theorem part_bankFinish {α : Type} (g : Part → α)
    (hg : ∀ p ctxs evts jobs, g { p with ctxs := ctxs, evts := evts, mem := { p.mem with bankJobs := jobs } } = g p) (n : Nat) (s : State) (m : Nat) :
    g ((bankFinish n s).part m) = g (s.part m) := by
  refine (foldl_keeps (fun s : State => g (s.part m)) _ (fun s j => ?_) _ _).trans ?_
  · exact part_of_onlyAnswers g (fun p ctxs evts => hg p ctxs evts p.mem.bankJobs) ((onlyAnswers_emit ..).trans (onlyAnswers_completeCmd ..)) m
  · exact part_modPart_keeps g (fun p => hg p p.ctxs p.evts _) n s m

theorem part_bankStatus {α : Type} (g : Part → α) (hg : ∀ p jobs, g { p with mem := { p.mem with bankJobs := jobs } } = g p) (n page status : Nat)
    (s : State) (m : Nat) : g ((bankStatus n page status s).part m) = g (s.part m) := part_modPart_keeps g (fun p => hg p _) n s m

/-- The end of a bank-out (R209): the page is banked, its frame joins the pool, and no byte changes. -/
theorem bankOutDone_banks {n : PartId} {page : BitVec 27} {s : State} {e : Page} {slot f : Nat}
    (held : (s.part n.val).mem.pages.get page.toNat = some e) (busy : e.busy = .bankOut slot) (loc : e.loc = .frame f)
    (written : ∀ w ∈ s.ks.writes, w.slot ≠ slot) (mapped : (s.ks.inForce.maps.get slot).isSome = true) :
    ∃ t, exec (.bankOutDone n page) s = .next t ∧ (t.part n.val).mem.frames.get f = .pool ∧
      (t.part n.val).mem.pages.get page.toNat = some { e with loc := .banked slot, busy := .idle } ∧
      (t.part n.val).mem.hbm = (s.part n.val).mem.hbm := by
  have idle : (s.ks.writes.any (fun w => decide (w.slot = slot)) || (s.ks.inForce.maps.get slot).isNone) = false := by
    rw [Bool.or_eq_false_iff, List.any_eq_false, Option.isNone_eq_false_iff]
    exact ⟨fun w hw => by simpa using written w hw, mapped⟩
  have run : exec (.bankOutDone n page) s = .next (bankFinish n.val (bankStatus n.val page.toNat bankOk (cacheDrop n.val page.toNat
      (setPage n.val page.toNat (some { e with loc := .banked slot, busy := .idle }) (s.modPart n.val fun p => { p with mem := { p.mem with
        frames := p.mem.frames.set f .pool } }))))) := by
    rw [exec_bankOutDone, execBankOutDone]
    simp only [held, busy, loc, idle, Bool.false_eq_true, if_false]
  generalize banked : setPage n.val page.toNat _ _ = u at run
  have mem : (u.part n.val).mem = { (s.part n.val).mem with
      frames := (s.part n.val).mem.frames.set f .pool
      pages := (s.part n.val).mem.pages.set page.toNat (some { e with loc := .banked slot, busy := .idle }) } := by
    rw [← banked, setPage_mem, part_modPart_same]
  have kept {α : Type} (g : PartMem → α) (hg : ∀ m jobs, g { m with bankJobs := jobs } = g m) :
      g ((bankFinish n.val (bankStatus n.val page.toNat bankOk (cacheDrop n.val page.toNat u))).part n.val).mem = g (u.part n.val).mem :=
    (part_bankFinish (fun p => g p.mem) (fun p _ _ jobs => hg p.mem jobs) ..).trans (part_bankStatus (fun p => g p.mem) (fun p jobs => hg p.mem jobs) ..)
  refine ⟨_, run, ?_, ?_, ?_⟩
  · rw [kept PartMem.frames fun _ _ => rfl, mem, Tab.get_set_same]
  · rw [kept PartMem.pages fun _ _ => rfl, mem, Tab.get_set_same]
  · rw [kept PartMem.hbm fun _ _ => rfl, mem]

/-! ### The start of an unbank -/

/-- The oldest request takes the lowest frame of the pool (R210, R211; the lowest is the model's choice, log 71). -/
def Part.startUnbank (page f : Nat) (e : Page) (rest : List (Nat × Nat)) (p : Part) : Part := { p with mem := { p.mem with
  unbankQ := rest, pages := p.mem.pages.set page (some { e with busy := .unbank f }), frames := p.mem.frames.set f .mapped } }

theorem unbankStart_starts {n : PartId} {s : State} {page k f : Nat} {rest : List (Nat × Nat)} {fs : List Nat} {e : Page}
    (queue : (s.part n.val).mem.unbankQ = (page, k) :: rest) (pool : (s.part n.val).mem.poolFrames = f :: fs)
    (held : (s.part n.val).mem.pages.get page = some e) (room : unbanksOut s < 64) (service : s.inService = true) (turn : unbankTurn s n.val = true) :
    exec (.unbankStart n) s = .next (poolEdge n.val false (s.modPart n.val (Part.startUnbank page f e rest))) := by
  have goes : (decide (64 ≤ unbanksOut s) || !s.inService || !unbankTurn s n.val) = false := by simp [room, service, turn]
  have some_ : (s.part n.val).mem.poolEmpty = false := by simp [PartMem.poolEmpty, pool]
  rw [exec_unbankStart, execUnbankStart]
  simp only [queue, pool, held, goes, some_, Bool.false_eq_true, if_false]
  rfl

/-- The host is told where an unbank begins to wait on an empty pool (R211). -/
theorem poolEdge_of_empty {n : Nat} {s : State} (h : (s.part n).mem.poolEmpty = true) : poolEdge n false s =
    partRecord n { kind := 9, status := 0, detail := 0, tag := 0, arg := BitVec.ofNat 64 (s.part n).mem.unbankQ.length, exc := none } s :=
  if_pos (by rw [h]; rfl)

theorem poolEdge_of_room {n : Nat} {s : State} (h : (s.part n).mem.poolEmpty = false) : poolEdge n false s = s :=
  if_neg (by rw [h]; decide)

theorem poolEdge_part (n : Nat) (s : State) (m : Nat) : (poolEdge n false s).part m = s.part m := by
  cases h : (s.part n).mem.poolEmpty
  · rw [poolEdge_of_room h]
  · rw [poolEdge_of_empty h, State.part, partRecord_parts]
    rfl

/-! ### Sectors -/

/-- Outside changes to sectors change nothing but the sectors that the kindling lists as changed (R240). -/
theorem strikeSectors_struck (flips : List SectorFlip) (s : State) : ∃ ext, strikeSectors flips s = { s with ks := { s.ks with ext := ext } } := by
  induction flips generalizing s with
  | nil => exact ⟨s.ks.ext, rfl⟩
  | cons x xs ih =>
    obtain ⟨ext, struck⟩ := ih (strikeSectors [x] s)
    exact ⟨ext, struck⟩

/-! ### Filling a frame -/

/-- The lines of a frame are stored one by one over its bytes (R224). -/
theorem fillFrame_eq (n f : Nat) (bs : List Byte) (s : State) : fillFrame n f bs s =
    (List.range 16384).foldl (fun s i => storeMark n (16384 * f + i) s) (s.modPart n fun p => { p with mem := { p.mem with
      hbm := (p.mem.hbm.clear (f * pageBytes) (f * pageBytes + pageBytes)).write (f * pageBytes) bs } }) := rfl

theorem onlyPart_fillFrame (n f : Nat) (bs : List Byte) (s : State) : OnlyPart n s (fillFrame n f bs s) := by
  have marks (ls : List Nat) (s : State) : OnlyPart n s (ls.foldl (fun s i => storeMark n (16384 * f + i) s) s) := by
    induction ls generalizing s with
    | nil => exact onlyPart_refl n s
    | cons l ls ih => exact onlyPart_trans (onlyPart_mod ..) (ih _)
  rw [fillFrame_eq]
  exact onlyPart_trans (onlyPart_mod ..) (marks _ _)

theorem fillFrame_mem (n f : Nat) (bs : List Byte) (s : State) : ((fillFrame n f bs s).part n).mem = { (s.part n).mem with
    hbm := ((s.part n).mem.hbm.clear (f * pageBytes) (f * pageBytes + pageBytes)).write (f * pageBytes) bs } := by
  rw [fillFrame_eq, foldl_keeps (fun s : State => (s.part n).mem) _ (fun s i => hbm_storeMark ..), part_modPart_same]

/-- A frame that is filled holds the bytes given, and zero beyond them. -/
theorem fillFrame_get {n f : Nat} {bs : List Byte} {s : State} {b : Nat} (h : b < pageBytes) :
    ((fillFrame n f bs s).part n).mem.hbm.get (f * pageBytes + b) = bs.getD b 0 := by
  rw [fillFrame_mem]
  dsimp only
  rw [Memory.get_write]
  by_cases given : b < bs.length
  · rw [dif_pos (by omega), List.getD_eq_getElem _ _ given]
    simp only [Nat.add_sub_cancel_left]
  · rw [dif_neg (by omega), Memory.get_clear, if_neg (by omega), List.getD_eq_default _ _ (by omega)]
    rfl

theorem retired_storeMark (n line r : Nat) (s : State) :
    (((storeMark n line s).part n).prot.regions.get r).retired = ((s.part n).prot.regions.get r).retired := by
  rw [part_storeMark]
  dsimp only
  rw [Tab.get_upd_at]
  split
  · cases s.lineNew n (128 * line) <;> rfl
  · rfl

theorem retired_fillFrame (n f : Nat) (bs : List Byte) (s : State) (r : Nat) :
    (((fillFrame n f bs s).part n).prot.regions.get r).retired = ((s.part n).prot.regions.get r).retired := by
  rw [fillFrame_eq, foldl_keeps (fun s : State => ((s.part n).prot.regions.get r).retired) _ (fun s i => retired_storeMark ..), part_modPart_same]

/-! ### Threads that come back from PARK -/

/-- A thread waits in PARK for a page. -/
def ParkedOn (page : Nat) (h : Thread) : Prop := h.st = .park ∧ h.parkPage = some page

/-- A thread waits in PARK no more. -/
def Unparked (h : Thread) : Prop := h.st ≠ .park ∧ h.parkPage = none

/-- A thread that waits for the page goes on (R210, R212). -/
def unparkThread (n page : Nat) (ns : Word) (l : Nat) (s : State) (t : Nat) : State :=
  if decide ((s.thread l t).st = .park) && decide ((s.thread l t).parkPage = some page) then
    toRun l t (parkTime n (s.isBe l t) ns (s.modThread l t fun h => { h with parkPage := none }))
  else s

theorem unpark_eq (n page : Nat) (ns : Word) (s : State) : unpark n page ns s =
    (s.embersWhere n fun m => (List.range 8).any fun t => decide ((m.thr.get t).st = .park) && decide ((m.thr.get t).parkPage = some page)).foldl
      (fun s l => (List.range 8).foldl (unparkThread n page ns l) s) s := rfl

theorem runState_ne_park (s : State) (l t : Nat) (halt : Bool) : runState s l t halt ≠ .park := by
  unfold runState
  dsimp only
  split_ifs <;> decide

theorem unparkThread_other {n page : Nat} {ns : Word} {l t k j : Nat} (h : ¬ (l = k ∧ t = j)) (s : State) :
    (unparkThread n page ns l s t).thread k j = s.thread k j := by
  unfold unparkThread
  split
  · rw [toRun, thread_modThread, if_neg h]
    change (s.modThread l t _).thread k j = _
    rw [thread_modThread, if_neg h]
  · rfl

theorem unparkThread_parked {n page : Nat} {ns : Word} {l t : Nat} {s : State} (h : ParkedOn page (s.thread l t)) :
    Unparked ((unparkThread n page ns l s t).thread l t) := by
  obtain ⟨st, at_⟩ := h
  unfold unparkThread
  rw [if_pos (by simp [st, at_]), toRun, thread_modThread_same]
  refine ⟨runState_ne_park _ _ _ _, ?_⟩
  change ((s.modThread l t _).thread l t).parkPage = none
  rw [thread_modThread_same]

theorem unparkThread_unparked {n page : Nat} {ns : Word} {l t k j : Nat} {s : State} (h : Unparked (s.thread k j)) :
    Unparked ((unparkThread n page ns l s t).thread k j) := by
  by_cases same : l = k ∧ t = j
  · obtain ⟨rfl, rfl⟩ := same
    unfold unparkThread
    rw [if_neg (by simp [h.1])]
    exact h
  · rw [unparkThread_other same]
    exact h

/-- A fold over a list that meets `x` brings about what its step at `x` does, where the other steps keep what is there before and after. -/
theorem foldl_reaches {α : Type} {P Q : State → Prop} {f : State → α → State} {x : α} (keepP : ∀ s y, P s → P (f s y) ∨ Q (f s y))
    (step : ∀ s, P s → Q (f s x)) (keepQ : ∀ s y, Q s → Q (f s y)) {l : List α} (mem : x ∈ l) {s : State} (h : P s) : Q (l.foldl f s) := by
  have stays (l : List α) (s : State) (h : Q s) : Q (l.foldl f s) := by
    induction l generalizing s with
    | nil => exact h
    | cons y l ih => exact ih _ (keepQ s y h)
  induction l generalizing s with
  | nil => exact absurd mem List.not_mem_nil
  | cons y l ih =>
    rcases List.mem_cons.1 mem with rfl | later
    · exact stays l _ (step s h)
    · rcases keepP s y h with before | done
      · exact ih later before
      · exact stays l _ done

/-- Every thread that waits for the page, on an ember that is looked at, goes on (R210). -/
theorem unpark_unparks {n page : Nat} {ns : Word} {s : State} {l t : Nat} (small : t < 8) (parked : ParkedOn page (s.thread l t))
    (seen : l ∈ s.embersWhere n fun m => (List.range 8).any fun t => decide ((m.thr.get t).st = .park) && decide ((m.thr.get t).parkPage = some page)) :
    Unparked ((unpark n page ns s).thread l t) := by
  rw [unpark_eq]
  have one (k : Nat) (s : State) (j : Nat) (h : ParkedOn page (s.thread l t)) :
      ParkedOn page ((unparkThread n page ns k s j).thread l t) ∨ Unparked ((unparkThread n page ns k s j).thread l t) := by
    by_cases same : k = l ∧ j = t
    · obtain ⟨rfl, rfl⟩ := same
      exact .inr (unparkThread_parked h)
    · rw [unparkThread_other same]
      exact .inl h
  have keeps (k : Nat) (js : List Nat) (s : State) (h : Unparked (s.thread l t)) : Unparked ((js.foldl (unparkThread n page ns k) s).thread l t) := by
    induction js generalizing s with
    | nil => exact h
    | cons j js ih => exact ih _ (unparkThread_unparked h)
  have either (k : Nat) (js : List Nat) (s : State) (h : ParkedOn page (s.thread l t)) :
      ParkedOn page ((js.foldl (unparkThread n page ns k) s).thread l t) ∨ Unparked ((js.foldl (unparkThread n page ns k) s).thread l t) := by
    induction js generalizing s with
    | nil => exact .inl h
    | cons j js ih => exact (one k s j h).elim (ih _) fun done => .inr (keeps k js _ done)
  exact foldl_reaches (P := fun s => ParkedOn page (s.thread l t)) (Q := fun s => Unparked (s.thread l t)) (fun s k => either k _ s)
    (fun s h => foldl_reaches (P := fun s => ParkedOn page (s.thread l t)) (Q := fun s => Unparked (s.thread l t)) (fun s j => one l s j)
      (fun _ => unparkThread_parked) (fun _ _ => unparkThread_unparked) (List.mem_range.2 small) h)
    (fun s k => keeps k _ s) seen parked

/-- What of a partition no context and no time in PARK touches is kept where threads come back from PARK. -/
theorem part_unpark {α : Type} (g : Part → α) (hg : ∀ p ctxs us, g { p with ctxs := ctxs, mem := { p.mem with parkMax := us } } = g p) (n page : Nat)
    (ns : Word) (s : State) (m : Nat) : g ((unpark n page ns s).part m) = g (s.part m) := by
  rw [unpark_eq]
  refine foldl_keeps (fun s : State => g (s.part m)) _ (fun s l => foldl_keeps (fun s : State => g (s.part m)) _ (fun s t => ?_) _ _) _ _
  unfold unparkThread
  split
  · refine part_modPart_keeps g (fun p => ?_) n (s.modThread l t fun h => { h with parkPage := none }) m
    dsimp only
    split
    · exact hg p (p.ctxs.upd _ _) _
    · exact hg p p.ctxs _
  · rfl

/-! ### The end of an unbank -/

theorem setPage_hbm (n k : Nat) (e : Option Page) (s : State) : ((setPage n k e s).part n).mem.hbm = (s.part n).mem.hbm := by
  rw [setPage_mem]

/-- The entry of an unbanked page: its frame, with W clear where the frame's region is retired (R228). -/
def unbankedEntry (n k f : Nat) (s : State) : Option Page := ((s.part n).mem.pages.get k).map fun e =>
  { e with loc := .frame f, busy := .idle, w := e.w && !((s.part n).prot.regions.get f).retired }

/-- An unbanked page leaves the translation caches, and its slot is given back (R206, R332). -/
def slotReturned (n k slot : Nat) (s : State) : State := cacheDrop n k (if slot = freshSlot then s else freeSlot n slot s)

theorem slotReturned_keeps {α : Type} (g : State → α) (hg : ∀ s ks tcache, g { s with ks := ks, tcache := tcache } = g s) (n k slot : Nat) (s : State) :
    g (slotReturned n k slot s) = g s := by
  unfold slotReturned
  split
  · exact hg s s.ks _
  · exact hg s _ _

theorem unbanked_eq (n k f slot : Nat) (ns : Word) (bs : List Byte) (s : State) : unbanked n k f slot ns bs s =
    unpark n k ns (slotReturned n k slot (setPage n k (unbankedEntry n k f s) (fillFrame n f bs s))) := by
  have entry : unbankedEntry n k f (fillFrame n f bs s) = unbankedEntry n k f s := by
    simp only [unbankedEntry, retired_fillFrame, fillFrame_mem]
  rw [← entry]
  unfold unbanked
  generalize fillFrame n f bs s = u
  rfl

/-- From `s` to `t` page `k` with the entry `e` has come back in frame `f`: the frame holds the page's bytes, its entry names the frame, and the threads
that waited for the page on an ember that is listed go on (R210, R228). -/
def PageReturned (n k f : Nat) (e : Page) (bs : List Byte) (s t : State) : Prop :=
  (t.part n).mem.pages.get k = some { e with loc := .frame f, busy := .idle, w := e.w && !((s.part n).prot.regions.get f).retired } ∧
  (∀ b, b < pageBytes → (t.part n).mem.hbm.get (f * pageBytes + b) = bs.getD b 0) ∧
  ∀ l i, i < 8 → (s.thread l i).st = .park → (s.thread l i).parkPage = some k →
    l ∈ s.embersWhere n (fun m => (List.range 8).any fun j => decide ((m.thr.get j).st = .park) && decide ((m.thr.get j).parkPage = some k)) →
    (t.thread l i).st ≠ .park ∧ (t.thread l i).parkPage = none

/-- The page has come back where a state with its entry and its bytes lets the threads go on. -/
theorem pageReturned_of {n k f slot : Nat} {ns : Word} {bs : List Byte} {s u : State} {e : Page} (only : OnlyPart n s u)
    (entry : (u.part n).mem.pages.get k =
      some { e with loc := .frame f, busy := .idle, w := e.w && !((s.part n).prot.regions.get f).retired })
    (bytes : ∀ b, b < pageBytes → (u.part n).mem.hbm.get (f * pageBytes + b) = bs.getD b 0) :
    PageReturned n k f e bs s (unpark n k ns (slotReturned n k slot u)) := by
  obtain ⟨same, -⟩ := only
  refine ⟨?_, fun b small => ?_, fun l i small st at_ seen => unpark_unparks small ?_ ?_⟩
  · rw [part_unpark (fun p => p.mem.pages) fun _ _ _ => rfl, slotReturned_keeps (fun s => s.part n) fun _ _ _ => rfl, entry]
  · rw [part_unpark (fun p => p.mem.hbm) fun _ _ _ => rfl, slotReturned_keeps (fun s => s.part n) fun _ _ _ => rfl, bytes b small]
  · rw [slotReturned_keeps (fun s => s.thread l i) fun _ _ _ => rfl]
    rw [← same] at st at_
    exact ⟨st, at_⟩
  · rw [slotReturned_keeps (fun s => s.embersWhere n _) fun _ _ _ => rfl]
    rw [← same] at seen
    exact seen

theorem unbanked_returns {n k f slot : Nat} {ns : Word} {bs : List Byte} {s : State} {e : Page} (held : (s.part n).mem.pages.get k = some e) :
    PageReturned n k f e bs s (unbanked n k f slot ns bs s) := by
  rw [unbanked_eq]
  refine pageReturned_of (onlyPart_trans (onlyPart_fillFrame ..) (onlyPart_setPage ..)) ?_ fun b small => ?_
  · rw [setPage_mem, Tab.get_set_same, unbankedEntry, held]
    rfl
  · rw [setPage_hbm, fillFrame_get small]

/-- An unbank that ends, once its frame's lines can be written: a fresh page is empty, another's slot is read through its checks. -/
theorem unbankDone_run {n : PartId} {page : BitVec 27} {ns : Word} {flips : List SectorFlip} {s : State} {e : Page} {f slot : Nat}
    (held : (s.part n.val).mem.pages.get page.toNat = some e) (busy : e.busy = .unbank f) (loc : e.loc = .banked slot)
    (room : s.frameFull n.val f = false) :
    (slot = freshSlot → exec (.unbankDone n page ns flips) s = .next (unbanked n.val page.toNat f slot ns [] (strikeSectors flips s))) ∧
    ∀ m, slot ≠ freshSlot → slotMap s slot = some m → exec (.unbankDone n page ns flips) s =
      .next (readSlots n.val (fun x => decide (x.stripe = m.stripe))
        (unbanked n.val page.toNat f slot ns ((slotData (strikeSectors flips s) m).read 0 pageBytes)) (strikeSectors flips s)) := by
  obtain ⟨ext, struck⟩ := strikeSectors_struck flips s
  have entry : ((strikeSectors flips s).part n.val).mem.pages.get page.toNat = some e := by rw [struck]; exact held
  have free : (strikeSectors flips s).frameFull n.val f = false := by rw [struck]; exact room
  rw [exec_unbankDone, execUnbankDone]
  simp only [entry, busy, loc, free, Bool.false_eq_true, if_false]
  refine ⟨fun fresh => by rw [if_pos fresh], fun m stored mapped => ?_⟩
  have map : slotMap (strikeSectors flips s) slot = some m := by rw [struck]; exact mapped
  rw [if_neg stored]
  simp only [map]

theorem readSlots_good {n : Nat} {met : SlotMap → Bool} {act : State → State} {s : State} (h : badSector s n met = none) :
    readSlots n met act s = act s := by
  rw [readSlots, h]

theorem readSlots_bad {n : Nat} {met : SlotMap → Bool} {act : State → State} {s : State} {x : Nat} (h : badSector s n met = some x) :
    readSlots n met act s = securityAlarm n 3 x none s := by
  rw [readSlots, h]

/-- An alarm halts its partition, and names its kind and line (R230). -/
theorem securityAlarm_latches {n : Nat} (kind line : Nat) (exc : Option ExcRec) {s : State} (running : (s.part n).prot.halted = false) :
    let t := securityAlarm n kind line exc s
    (t.part n).prot.halted = true ∧ (t.part n).prot.alarmKind = BitVec.ofNat 2 kind ∧ (t.part n).prot.alarmLine = BitVec.ofNat 64 line := by
  have prot := prot_of_settled (securityAlarm_settled kind line exc running) n
  rw [alarmLatched, part_modPart_same] at prot
  dsimp only
  rw [prot]
  exact ⟨rfl, rfl, rfl⟩

end Sys2Proof.Machine
end

section
/-! Requests for passes of the Sweep controller, and their start (R227, R228, R234, R235), for O32. -/

namespace Sys2Proof.Machine

/-! ### Where a pass begins -/

theorem nextServed_of_host {s t : State} (host : t.host = s.host) (skip : List Nat) (d fuel pa : Nat) :
    nextServed t skip d fuel pa = nextServed s skip d fuel pa := by
  have die (pa : Nat) : t.dieOf pa = s.dieOf pa := by rw [State.dieOf, State.dieOf, State.stacks, State.stacks, State.nParts, State.nParts, host]
  induction fuel generalizing pa with
  | zero => rfl
  | succ fuel ih => simp only [nextServed, ih, die]

/-- Which addresses a die serves is a matter of the layout alone (R204). -/
theorem boundaryFrom_of_host {s t : State} (host : t.host = s.host) (skip : List Nat) (d pa : Nat) :
    boundaryFrom t skip d pa = boundaryFrom s skip d pa := nextServed_of_host host ..

theorem mdPerPart_of_host {s t : State} (host : t.host = s.host) : t.mdPerPart = s.mdPerPart := by
  rw [State.mdPerPart, State.mdPerPart, State.nParts, State.nParts, host]

/-- From `s` to `t` the lowest free slot has been taken by a pass over a range, each die's boundary at the first line that it serves there (R234, R235;
Table 10.7). -/
def PassTaken (s : State) (n : PartId) (kind : PassKind) (first last : Nat) (t : State) : Prop :=
  ∃ i q, freePassSlot s = some i ∧ t.sweep.slots.get i = some q ∧ q.part = n ∧ q.kind = kind ∧ q.first = first ∧ q.last = last ∧
    q.stopped = [] ∧ q.skip = [] ∧ ∀ d, d < s.mdPerPart → q.bm.get d = boundaryFrom s [] d (first * pageBytes)

theorem startPass_takes {s u : State} {n : PartId} {kind : PassKind} {first last i : Nat} (host : u.host = s.host)
    (free : freePassSlot s = some i) : PassTaken s n kind first last (startPass i n kind first last [] u) := by
  refine ⟨i, _, free, Tab.get_set_same .., rfl, rfl, rfl, rfl, rfl, rfl, fun d small => ?_⟩
  rw [← boundaryFrom_of_host host]
  rw [← mdPerPart_of_host host] at small
  exact (get_foldl_upd_range (fun d _ => boundaryFrom u [] d (first * pageBytes)) u.mdPerPart d (Tab.const 0)).trans (if_pos small)

/-- With a free slot to spare there is a lowest one. -/
theorem freePassSlot_isSome {s : State} (room : 0 < slotsLeft s) : ∃ i, freePassSlot s = some i := by
  rw [← Option.isSome_iff_exists, freePassSlot, List.find?_isSome]
  obtain ⟨i, mem⟩ := List.exists_mem_of_length_pos room
  exact ⟨i, List.mem_filter.1 mem⟩

/-! ### Requests of the host -/

/-- SWP_RESULT of a request (Table 10.7). -/
def resulted (code : BitVec 4) (s : State) : State := { s with sweep := { s.sweep with result := code } }

section
variable {n : PartId} {s : State} {first last : Nat} (keys : (s.part n.val).prot.keys = true)
include keys

/-- A request for an EPOCH pass over a range that no pass meets, with no region of the last epoch in the partition, takes the lowest free slot (R234). -/
theorem sweepRequest_epoch (room : s.sweep.queued.length < slotsLeft s) (order : first ≤ last) (inside : last < s.frameCount)
    (apart : overlapsPass s n.val first last = false) (fresh : ∀ e ∈ (s.part n.val).prot.regions.items, e.2.epoch ≠ lastEpoch) :
    sweepRequest n .epoch first last s = startPass ((freePassSlot s).getD 0) n .epoch first last [] (resulted 0 s) := by
  have none_ : (s.part n.val).prot.regions.items.filter (fun e =>
      decide (e.2.epoch = lastEpoch) && decide (first ≤ e.1) && decide (e.1 ≤ last)) = [] :=
    List.filter_eq_nil_iff.2 fun e he => by simp [fresh e he]
  unfold sweepRequest
  simp [keys, not_lt.2 order, not_le.2 inside, apart, not_le.2 room, none_]
  rfl

/-- A range that ends before it begins is refused (Table 10.7). -/
theorem sweepRequest_reversed (order : last < first) : sweepRequest n .epoch first last s = resulted 2 s := by
  unfold sweepRequest
  simp [keys, order]
  rfl

/-- A request for a KEY pass, with the next keys loaded and no pass running, takes the lowest free slot over every frame (R234). -/
theorem sweepRequest_key (room : s.sweep.queued.length < slotsLeft s) (idle : s.passes n.val = []) (next : (s.part n.val).prot.nextKeys = true)
    (frames : 0 < s.frameCount) :
    sweepRequest n .key 0 0 s = startPass ((freePassSlot s).getD 0) n .key 0 (s.frameCount - 1) [] (resulted 0 s) := by
  have inside : ¬ s.frameCount ≤ s.frameCount - 1 := by omega
  unfold sweepRequest
  simp [keys, inside, idle, overlapsPass, next, not_le.2 room]
  rfl

end

/-! ### Automatic requests -/

/-- An automatic request is counted (R227). -/
def autoCounted (s : State) : State := { s with
  common := { s.common with swpAutoOvf := s.common.swpAutoOvf || satOvf s.sweep.autoCnt 1 }
  sweep := { s.sweep with autoCnt := satAdd s.sweep.autoCnt 1 } }

section
variable {n : PartId} {s : State} {frame : BitVec 19} {die : Fin 4}
  (high : rwcThreshold ≤ ((s.part n.val).prot.regions.get frame.toNat).rwc.get die.val)
  (usable : ((s.part n.val).prot.regions.get frame.toNat).retired = false) (apart : overlapsPass s n.val frame.toNat frame.toNat = false)
  (unasked : (n.val, frame.toNat) ∉ s.sweep.queued)
include high usable apart unasked

/-- A region of the last epoch retires at the threshold (R228). -/
theorem rwcThreshold_retires (last : ((s.part n.val).prot.regions.get frame.toNat).epoch = lastEpoch) :
    exec (.rwcThreshold n frame die) s = .next (retireRegion n.val frame.toNat s) := by
  rw [exec_rwcThreshold, execRwcThreshold]
  simp [not_lt.2 high, usable, apart, unasked, last]

/-- Any other region asks for a pass, at once where none waits (R227, R234). -/
theorem rwcThreshold_asks (more : ((s.part n.val).prot.regions.get frame.toNat).epoch ≠ lastEpoch) {i : Nat} (free : freePassSlot s = some i) :
    (s.sweep.queued = [] →
      exec (.rwcThreshold n frame die) s = .next (startPass i n .epoch frame.toNat frame.toNat [] (autoCounted s))) ∧
    (s.sweep.queued ≠ [] → exec (.rwcThreshold n frame die) s = .next { autoCounted s with
      sweep := { (autoCounted s).sweep with queued := s.sweep.queued ++ [(n.val, frame.toNat)] } }) := by
  have goes : (decide (((s.part n.val).prot.regions.get frame.toNat).rwc.get die.val < rwcThreshold) ||
      ((s.part n.val).prot.regions.get frame.toNat).retired || overlapsPass s n.val frame.toNat frame.toNat ||
      decide ((n.val, frame.toNat) ∈ s.sweep.queued)) = false := by simp [not_lt.2 high, usable, apart, unasked]
  have free' : freePassSlot { s with
    common := { s.common with swpAutoOvf := s.common.swpAutoOvf || satOvf s.sweep.autoCnt 1 }
    sweep := { s.sweep with autoCnt := satAdd s.sweep.autoCnt 1 } } = some i := free
  rw [exec_rwcThreshold, execRwcThreshold]
  simp only [goes, Bool.false_eq_true, if_false, if_neg more, free']
  refine ⟨fun none_ => ?_, fun some_ => ?_⟩
  · split
    · next found _ => cases found; rfl
    · next other => exact absurd none_ (other i rfl)
  · split
    · next none_ => exact absurd none_ some_
    · rfl

end

/-- The oldest automatic request that waits takes a free slot (R234). -/
theorem sweepQueuedStart_starts {n : PartId} {s : State} {f : Nat} {rest : List (Nat × Nat)} (queued : s.sweep.queued = (n.val, f) :: rest)
    (apart : overlapsPass s n.val f f = false) {i : Nat} (free : freePassSlot s = some i) :
    exec .sweepQueuedStart s = .next (startPass i n .epoch f f [] { s with sweep := { s.sweep with queued := rest } }) := by
  have part : Fin.ofNat 4 n.val = n := Fin.ofNat_val_eq_self n
  have apart' : overlapsPass { s with sweep := { s.sweep with queued := rest } } n.val f f = false := apart
  rw [exec_sweepQueuedStart, execSweepQueuedStart]
  simp only [queued, free, apart', part, Bool.false_eq_true, if_false]

/-! ### A region that retires -/

theorem retired_setPage (n k : Nat) (e : Option Page) (s : State) (r : Nat) :
    (((setPage n k e s).part n).prot.regions.get r).retired = ((s.part n).prot.regions.get r).retired := by
  have own := congrArg (fun p : Part => (p.prot.regions.get r).retired)
    (part_modPart_same n (fun p => { p with mem := { p.mem with pages := p.mem.pages.set k e } }) s)
  unfold setPage
  dsimp only at own ⊢
  split
  · exact (retired_storeMark ..).trans own
  · exact own

/-- The entries that lose W keep the region retired (R228). -/
theorem retireRegion_retires (n f : Nat) (s : State) : (((retireRegion n f s).part n).prot.regions.get f).retired = true := by
  have keeps (s : State) (k : Nat × Page) : (((cacheDrop n k.1 (setPage n k.1 (some { k.2 with w := false }) s)).part n).prot.regions.get f).retired =
      ((s.part n).prot.regions.get f).retired := retired_setPage ..
  unfold retireRegion clearWrites
  refine (foldl_keeps (fun s : State => ((s.part n).prot.regions.get f).retired) _ keeps _ _).trans ?_
  rw [part_modPart_same, Tab.get_upd_same]

/-! ### A step that goes on after a fault -/

/-- A die's stopped window step may go on where no LC context runs (R238). -/
theorem sweepResume_resumes {slot : Fin 16} {d : Fin 4} {s : State} {q : Pass} (held : s.sweep.slots.get slot.val = some q)
    (idle : (s.part q.part.val).inRun false = false) : exec (.sweepResume slot d) s = .next { s with sweep := { s.sweep with
      slots := s.sweep.slots.set slot.val (some { q with stopped := q.stopped.filter fun x => decide (x ≠ d.val) }) } } := by
  rw [exec_sweepResume, execSweepResume]
  simp [held, idle]

/-! ### What a request brings about -/

section
variable {n : PartId} {s : State}

theorem sweepEpochRequest_takes {first last : BitVec 19} (keys : (s.part n.val).prot.keys = true) (room : s.sweep.queued.length < slotsLeft s)
    (order : first.toNat ≤ last.toNat) (inside : last.toNat < s.frameCount) (apart : overlapsPass s n.val first.toNat last.toNat = false)
    (fresh : ∀ e ∈ (s.part n.val).prot.regions.items, e.2.epoch ≠ lastEpoch) :
    ∃ t, exec (.sweepEpochRequest n first last) s = .next t ∧ t.sweep.result = 0 ∧ PassTaken s n .epoch first.toNat last.toNat t ∧ t.parts = s.parts := by
  obtain ⟨i, free⟩ := freePassSlot_isSome (Nat.zero_lt_of_lt room)
  have run := sweepRequest_epoch (s := { s with sweep := { s.sweep with reqPart := BitVec.ofNat 2 n.val, reqKind := 0, first := first, last := last } })
    keys room order inside apart fresh
  have slot : (freePassSlot s).getD 0 = i := by rw [free, Option.getD_some]
  exact ⟨_, (exec_sweepEpochRequest ..).trans (congrArg Host.Outcome.next run), rfl, slot ▸ startPass_takes rfl free, rfl⟩

theorem sweepKeyRequest_takes (keys : (s.part n.val).prot.keys = true) (room : s.sweep.queued.length < slotsLeft s) (idle : s.passes n.val = [])
    (next : (s.part n.val).prot.nextKeys = true) (frames : 0 < s.frameCount) :
    ∃ t, exec (.sweepKeyRequest n) s = .next t ∧ t.sweep.result = 0 ∧ PassTaken s n .key 0 (s.frameCount - 1) t ∧ t.parts = s.parts := by
  obtain ⟨i, free⟩ := freePassSlot_isSome (Nat.zero_lt_of_lt room)
  have run := sweepRequest_key (s := { s with sweep := { s.sweep with reqPart := BitVec.ofNat 2 n.val, reqKind := 1 } }) keys room idle next frames
  have slot : (freePassSlot s).getD 0 = i := by rw [free, Option.getD_some]
  exact ⟨_, (exec_sweepKeyRequest ..).trans (congrArg Host.Outcome.next run), rfl, slot ▸ startPass_takes rfl free, rfl⟩

theorem sweepEpochRequest_refuses {first last : BitVec 19} (keys : (s.part n.val).prot.keys = true) (order : last.toNat < first.toNat) :
    ∃ t, exec (.sweepEpochRequest n first last) s = .next t ∧ t.sweep.result = 2 ∧ t.sweep.slots = s.sweep.slots ∧ t.parts = s.parts := by
  have run := sweepRequest_reversed (s := { s with sweep := { s.sweep with reqPart := BitVec.ofNat 2 n.val, reqKind := 0, first := first, last := last } })
    keys order
  exact ⟨_, (exec_sweepEpochRequest ..).trans (congrArg Host.Outcome.next run), rfl, rfl, rfl⟩

end

/-- A region at the threshold asks for a pass (R227, R234), and one of the last epoch retires (R228). -/
theorem rwcThreshold_settles {n : PartId} {s : State} {frame : BitVec 19} {d : Fin 4} (left : 0 < slotsLeft s)
    (high : rwcThreshold ≤ ((s.part n.val).prot.regions.get frame.toNat).rwc.get d.val)
    (usable : ((s.part n.val).prot.regions.get frame.toNat).retired = false) (apart : overlapsPass s n.val frame.toNat frame.toNat = false)
    (unasked : (n.val, frame.toNat) ∉ s.sweep.queued) :
    (((s.part n.val).prot.regions.get frame.toNat).epoch ≠ lastEpoch → ∃ t, exec (.rwcThreshold n frame d) s = .next t ∧
      t.sweep.autoCnt = satAdd s.sweep.autoCnt 1 ∧ (s.sweep.queued = [] → PassTaken s n .epoch frame.toNat frame.toNat t) ∧
      (s.sweep.queued ≠ [] → t.sweep.queued = s.sweep.queued ++ [(n.val, frame.toNat)] ∧ t.sweep.slots = s.sweep.slots)) ∧
    (((s.part n.val).prot.regions.get frame.toNat).epoch = lastEpoch → ∃ t, exec (.rwcThreshold n frame d) s = .next t ∧
      ((t.part n.val).prot.regions.get frame.toNat).retired = true) := by
  refine ⟨fun more => ?_, fun last => ⟨_, rwcThreshold_retires high usable apart unasked last, retireRegion_retires ..⟩⟩
  obtain ⟨i, free⟩ := freePassSlot_isSome left
  obtain ⟨starts, waits⟩ := rwcThreshold_asks high usable apart unasked more free
  by_cases none_ : s.sweep.queued = []
  · exact ⟨_, starts none_, rfl, fun _ => startPass_takes rfl free, fun some_ => absurd none_ some_⟩
  · exact ⟨_, waits none_, rfl, fun h => absurd h none_, fun _ => ⟨rfl, rfl⟩⟩

end Sys2Proof.Machine
end

section
/-! A window step of the Sweep controller (R235 to R237), for O32. -/

namespace Sys2Proof.Machine

/-! ### The pass over a line, as a die's boundary moves -/

/-- A pass covers a frame of a partition and has not completed it (R234, R235). -/
def covers (s : State) (n f : Nat) (p : Pass) : Bool :=
  decide (p.part.val = n) && decide (p.first ≤ f) && decide (f ≤ p.last) && decide (f ∉ p.skip) &&
    (List.range s.mdPerPart).any fun d => decide (p.bm.get d < (f + 1) * pageBytes)

/-- The pass over a frame is the one in the lowest slot whose pass covers it. -/
theorem passOf_eq (s : State) (n f : Nat) : s.passOf n f =
    ((List.range 16).find? fun i => (s.sweep.slots.get i).any (covers s n f)).bind s.sweep.slots.get := List.find?_filterMap ..

/-- A pass with a die's boundary moved. -/
def Pass.move (d pa : Nat) (p : Pass) : Pass := { p with bm := p.bm.set d pa }

theorem slots_setBm (slot d pa : Nat) (s : State) (i : Nat) : (setBm slot d pa s).sweep.slots.get i =
    if slot = i then (s.sweep.slots.get i).map (Pass.move d pa) else s.sweep.slots.get i := Tab.get_upd_at ..

theorem slots_setBm_same {slot : Nat} {s : State} {q : Pass} (held : s.sweep.slots.get slot = some q) (d pa : Nat) :
    (setBm slot d pa s).sweep.slots.get slot = some (q.move d pa) := by
  rw [slots_setBm, if_pos rfl, held]
  rfl

section
variable {slot d b pa : Nat} {s : State} {q : Pass} (held : s.sweep.slots.get slot = some q) (die : d < s.mdPerPart) (before : q.bm.get d ≤ pa)
  (after : b ≤ pa) (n : Nat)
include held die before after

/-- A die's boundary that moves, and stays at or below a line, decides nothing of the line: the pass that has rewritten it, if one has, is of the
same kind. -/
theorem passNew_setBm : ((setBm slot d b s).passNew n pa).map Pass.kind = (s.passNew n pa).map Pass.kind := by
  have top : pa < (pa / pageBytes + 1) * pageBytes := by rw [pageBytes]; omega
  have open_ (p : Pass) (low : p.bm.get d ≤ pa) : (List.range s.mdPerPart).any (fun d => decide (p.bm.get d < (pa / pageBytes + 1) * pageBytes)) = true :=
    List.any_eq_true.2 ⟨d, List.mem_range.2 die, decide_eq_true (low.trans_lt top)⟩
  have moved : (q.move d b).bm.get d ≤ pa := (Tab.get_set_same q.bm d b).symm ▸ after
  have covered : covers s n (pa / pageBytes) (q.move d b) = covers s n (pa / pageBytes) q := by
    rw [covers, covers, open_ q before, open_ _ moved]
    rfl
  have same (i : Nat) : ((setBm slot d b s).sweep.slots.get i).any (covers (setBm slot d b s) n (pa / pageBytes)) =
      (s.sweep.slots.get i).any (covers s n (pa / pageBytes)) := by
    rw [slots_setBm]
    split
    · next here =>
      subst here
      rw [held]
      exact covered
    · rfl
  rw [State.passNew, State.passNew, passOf_eq, passOf_eq, funext same]
  cases (List.range 16).find? fun i => (s.sweep.slots.get i).any (covers s n (pa / pageBytes)) with
  | none => rfl
  | some i =>
    rw [Option.bind_some, Option.bind_some, slots_setBm]
    split
    · next here =>
      subst here
      rw [held, Option.map_some, Option.filter_some, Option.filter_some]
      by_cases own : d = s.dieOf pa
      · have low : ¬ pa < q.bm.get (s.dieOf pa) := own ▸ not_lt.2 before
        have low' : ¬ pa < (q.move d b).bm.get ((setBm slot d b s).dieOf pa) := own ▸ not_lt.2 moved
        rw [if_neg (by simpa using low'), if_neg (by simpa using low)]
      · have other : (q.move d b).bm.get ((setBm slot d b s).dieOf pa) = q.bm.get (s.dieOf pa) := Tab.get_set_ne q.bm b own
        rw [other]
        split
        · rfl
        · rfl
    · rfl

theorem lineNew_setBm : (setBm slot d b s).lineNew n pa = s.lineNew n pa := by
  have kind := congrArg Option.isSome (passNew_setBm held die before after n)
  rwa [Option.isSome_map, Option.isSome_map] at kind

theorem rwcOf_setBm : (setBm slot d b s).rwcOf n pa = s.rwcOf n pa := by
  unfold State.rwcOf
  rw [lineNew_setBm held die before after n]
  rfl

theorem epochOf_setBm : (setBm slot d b s).epochOf n pa = s.epochOf n pa := by
  unfold State.epochOf
  rw [lineNew_setBm held die before after n]
  rfl

theorem mgOf_setBm : (setBm slot d b s).mgOf n pa = s.mgOf n pa := by
  have kind := passNew_setBm held die before after n
  have part : (setBm slot d b s).part n = s.part n := rfl
  unfold State.mgOf
  rw [part]
  generalize (setBm slot d b s).passNew n pa = x at kind ⊢
  generalize s.passNew n pa = y at kind ⊢
  cases x with
  | none =>
    cases y with
    | none => rfl
    | some y => exact absurd kind.symm (Option.some_ne_none _)
  | some x =>
    cases y with
    | none => exact absurd kind (Option.some_ne_none _)
    | some y =>
      have kinds : x.kind = y.kind := Option.some.inj kind
      simp only [kinds]

end

/-! ### What the rewriting of one line leaves of another -/

/-- From `s` to `t` a line holds what it held, reads as it read, and still passes its checks where it did. -/
structure LineKept (n line : Nat) (s t : State) : Prop where
  ext : t.extLine n line = s.extLine n line
  cipher : lineCipher t n line = lineCipher s n line
  good : s.badOf n line = none → t.badOf n line = none
  bytes : ∀ b, b / 128 = line → (t.part n).mem.hbm.get b = (s.part n).mem.hbm.get b

theorem LineKept.trans {n line : Nat} {s t u : State} (h : LineKept n line s t) (k : LineKept n line t u) : LineKept n line s u :=
  ⟨k.ext.trans h.ext, k.cipher.trans h.cipher, k.good ∘ h.good, fun b hb => (k.bytes b hb).trans (h.bytes b hb)⟩

theorem LineKept.plain {n line : Nat} {s t : State} (h : LineKept n line s t) {b : Nat} (here : b / 128 = line) :
    (t.plain n).get b = (s.plain n).get b := by
  subst here
  rw [get_plain, get_plain, h.ext]
  cases s.extLine n (b / 128) with
  | none => exact h.bytes b rfl
  | some st =>
    simp only [openLine, h.cipher, Memory.get_write, h.bytes b rfl]

/-- A change of a partition that its checks do not notice, and that leaves the line's bytes and what stands in its place. -/
theorem ChecksKept.lineKept {n line : Nat} {s t : State} (h : ChecksKept n s t) (ext : t.extLine n line = s.extLine n line)
    (bytes : ∀ b, b / 128 = line → (t.part n).mem.hbm.get b = (s.part n).mem.hbm.get b) : LineKept n line s t := by
  refine ⟨ext, ?_, h.badOf ext, bytes⟩
  rw [lineCipher, lineCipher, memKeys_of_onlyPart h.1, h.mgOf, h.epochOf]

theorem lineKept_setBm {slot d b line : Nat} {s : State} {q : Pass} (held : s.sweep.slots.get slot = some q) (die : d < s.mdPerPart)
    (before : q.bm.get d ≤ 128 * line) (after : b ≤ 128 * line) (n : Nat) : LineKept n line s (setBm slot d b s) := by
  have mg := mgOf_setBm held die before after n
  have epoch := epochOf_setBm held die before after n
  have keys (k : Nat) : memKeys (setBm slot d b s) n k = memKeys s n k := rfl
  refine ⟨rfl, ?_, fun good => ?_, fun _ _ => rfl⟩
  · rw [lineCipher, lineCipher, mg, epoch, keys]
  · have check (st : StoredLine) : classify (setBm slot d b s) n line st = classify s n line st := by
      rw [classify, classify, rwcOf_setBm held die before after n, lineTag, lineTag, mg, epoch, keys]
    rw [State.badOf, funext check]
    exact good

theorem takeLine_prot (n line : Nat) (s : State) : ∃ ext, ((takeLine n line s).part n).prot = { (s.part n).prot with ext := ext } := by
  unfold takeLine
  split
  · exact ⟨_, rfl⟩
  · exact ⟨_, by rw [part_modPart_same]⟩

/-- Taking a line leaves what stands in place of another (R240). -/
theorem extLine_takeLine {n line other : Nat} {s : State} (apart : other ≠ line) : (takeLine n line s).extLine n other = s.extLine n other := by
  unfold takeLine
  split
  · rfl
  · rw [State.extLine, part_modPart_same, State.extLine, List.find?_filter]
    congr 2
    funext f
    by_cases here : f.line = other
    · simp [here, apart]
    · simp [here]

theorem lineKept_takeLine {n line other : Nat} (apart : other ≠ line) (s : State) : LineKept n other s (takeLine n line s) :=
  (checksKept_takeLine n line s).lineKept (extLine_takeLine apart) fun b hb => by rw [get_takeLine, if_neg (hb ▸ apart)]

/-- A line has the pass's new values, with the write count `c` (R236). -/
def Part.rewritten (d l c : Nat) (p : Part) : Part := { p with prot := { p.prot with
  lcnt := p.prot.lcnt.set l c
  faultLines := p.prot.faultLines.upd d fun ls => ls.filter fun x => decide (x ≠ l)
  regions := p.prot.regions.upd (l / 16384) (Region.takeCount true d c) } }

theorem rewriteLine_eq (slot n d l : Nat) (s : State) : rewriteLine slot n d l s = (setBm slot d (128 * l + 128) (takeLine n l s)).modPart n
    (Part.rewritten d l (((s.part n).prot.regions.get (l / 16384)).rwcNew.get d)) := rfl

theorem checksKept_rewritten {n d l c : Nat} {s : State} (count : c = ((s.part n).prot.regions.get (l / 16384)).rwcNew.get d) :
    ChecksKept n s (s.modPart n (Part.rewritten d l c)) := by
  have only : OnlyPart n s (s.modPart n (Part.rewritten d l c)) := onlyPart_mod ..
  have regions (r : Nat) : ((s.modPart n (Part.rewritten d l c)).part n).prot.regions.get r =
      if l / 16384 = r then ((s.part n).prot.regions.get r).takeCount true d c else (s.part n).prot.regions.get r := by
    rw [part_modPart_same]
    exact Tab.get_upd_at ..
  refine ⟨only, ?_, fun r => ?_, fun pa => ?_⟩
  · rw [part_modPart_same]
    exact ⟨rfl, rfl⟩
  · rw [regions]
    split
    · exact takeCount_values ..
    · exact ⟨rfl, rfl⟩
  · simp only [State.rwcOf.eq_1 (s.modPart n _), regions, lineNew_of_onlyPart only, dieOf_of_onlyPart only]
    by_cases region : l / 16384 = pa / pageBytes
    · rw [if_pos region]
      exact takeCount_le (by rw [← region]; exact count)
    · rw [if_neg region]
      exact Nat.le_refl _

section
variable {slot n d l : Nat} {s : State} {q : Pass} (held : s.sweep.slots.get slot = some q)
include held

/-- The lines above one that is rewritten, of the die's window, are as they were. -/
theorem lineKept_rewriteLine {line : Nat} (die : d < s.mdPerPart) (before : q.bm.get d ≤ 128 * line) (above : l < line) :
    LineKept n line s (rewriteLine slot n d l s) := by
  obtain ⟨same, -⟩ := onlyPart_takeLine n l s
  obtain ⟨ext, prot⟩ := takeLine_prot n l s
  have held' : (takeLine n l s).sweep.slots.get slot = some q := by rw [← same] at held; exact held
  have die' : d < (takeLine n l s).mdPerPart := by rw [← same] at die; exact die
  have part : (setBm slot d (128 * l + 128) (takeLine n l s)).part n = (takeLine n l s).part n := rfl
  rw [rewriteLine_eq]
  refine ((lineKept_takeLine (by omega) s).trans (lineKept_setBm held' die' before (by omega) n)).trans
    ((checksKept_rewritten (by rw [part, prot])).lineKept ?_ fun b _ => ?_)
  · rw [State.extLine, part_modPart_same]
    rfl
  · rw [part_modPart_same]
    rfl

theorem slots_rewriteLine : (rewriteLine slot n d l s).sweep.slots.get slot = some (q.move d (128 * l + 128)) := by
  obtain ⟨same, -⟩ := onlyPart_takeLine n l s
  have held' : (takeLine n l s).sweep.slots.get slot = some q := by rw [← same] at held; exact held
  exact slots_setBm_same held' ..

end

theorem hbm_rewriteLine (slot n d l : Nat) (s : State) (b : Nat) : ((rewriteLine slot n d l s).part n).mem.hbm.get b =
    if b / 128 = l then (s.plain n).get b else (s.part n).mem.hbm.get b := by
  rw [rewriteLine_eq, part_modPart_same]
  exact get_takeLine ..

/-! ### A window -/

theorem sweep_of_onlyPart {n : Nat} {s t : State} (h : OnlyPart n s t) : t.sweep = s.sweep := by
  obtain ⟨same, -⟩ := h
  have sweep := congrArg State.sweep same
  exact sweep

/-- From `s` to `t` a window step has rewritten lines for die `d` of the pass `q` in a slot: nothing has changed but the boundary of the die, and of the
partition the bytes of its HBM and its protection, whose keys' generations stand. -/
structure Swept (slot n d : Nat) (q : Pass) (s t : State) : Prop where
  rest : { t with parts := s.parts, sweep := s.sweep } = s
  done : t.sweep.doneCnt = s.sweep.doneCnt
  pass : ∃ r, t.sweep.slots.get slot = some r ∧ { r with bm := q.bm } = q ∧ ∀ e, e ≠ d → r.bm.get e = q.bm.get e
  mem : { (t.part n).mem with hbm := (s.part n).mem.hbm } = (s.part n).mem
  keys : (t.part n).prot.kgen = (s.part n).prot.kgen ∧ (t.part n).prot.mgen = (s.part n).prot.mgen

theorem Swept.trans {slot n d : Nat} {q r : Pass} {s t u : State} (h : Swept slot n d q s t) (at_ : t.sweep.slots.get slot = some r)
    (k : Swept slot n d r t u) : Swept slot n d q s u := by
  obtain ⟨rest, done, ⟨r', at_', same, others⟩, mem, kgen, mgen⟩ := h
  obtain ⟨rest', done', ⟨v, at'', same', others'⟩, mem', kgen', mgen'⟩ := k
  cases Option.some.inj (at_.symm.trans at_')
  refine ⟨by rw [← rest, ← rest'], done'.trans done, ⟨v, at'', ?_, fun e he => (others' e he).trans (others e he)⟩, ?_, kgen'.trans kgen,
    mgen'.trans mgen⟩
  · rw [← same'] at same
    exact same
  · rw [← mem'] at mem
    exact mem

theorem Swept.host {slot n d : Nat} {q : Pass} {s t : State} (h : Swept slot n d q s t) : t.host = s.host := by
  have host := congrArg State.host h.rest
  exact host

theorem swept_setBm {slot n d : Nat} {s : State} {q : Pass} (held : s.sweep.slots.get slot = some q) (pa : Nat) :
    Swept slot n d q s (setBm slot d pa s) :=
  ⟨rfl, rfl, ⟨q.move d pa, slots_setBm_same held d pa, rfl, fun _ he => Tab.get_set_ne _ _ he.symm⟩, rfl, rfl, rfl⟩

theorem swept_rewriteLine {slot n d l : Nat} {s : State} {q : Pass} (held : s.sweep.slots.get slot = some q) :
    Swept slot n d q s (rewriteLine slot n d l s) := by
  obtain ⟨only, mem⟩ := onlyHbm_takeLine n l s
  obtain ⟨ext, prot⟩ := takeLine_prot n l s
  have sweep := sweep_of_onlyPart only
  have done : (takeLine n l s).sweep.doneCnt = s.sweep.doneCnt := congrArg Sweep.doneCnt sweep
  refine ⟨?_, ?_, ⟨_, slots_rewriteLine held, rfl, fun _ he => Tab.get_set_ne _ _ he.symm⟩, ?_, ?_⟩
  · exact congrArg (fun t : State => { t with sweep := s.sweep }) only.1
  · exact done
  · rw [rewriteLine_eq, part_modPart_same]
    exact congrArg Part.mem mem
  · rw [rewriteLine_eq, part_modPart_same]
    change (takeLine n l s |>.part n).prot.kgen = _ ∧ (takeLine n l s |>.part n).prot.mgen = _
    rw [prot]
    exact ⟨rfl, rfl⟩

/-- The lines of a window that pass their checks are each taken as they are read, and the bytes of no other line change (R236). -/
theorem windowLines_sweeps {slot n d : Nat} (k a : Nat) (s : State) {q : Pass} (held : s.sweep.slots.get slot = some q) (die : d < s.mdPerPart)
    (low : q.bm.get d ≤ 128 * (a + 1)) (good : ∀ l, a ≤ l → l < a + k → s.badOf n l = none) :
    ∃ t, windowLines slot n d (List.range' a k) s = (t, true) ∧ Swept slot n d q s t ∧
      ∀ b, (t.part n).mem.hbm.get b = if a ≤ b / 128 ∧ b / 128 < a + k then (s.plain n).get b else (s.part n).mem.hbm.get b := by
  induction k generalizing a s q with
  | zero => exact ⟨s, rfl, ⟨rfl, rfl, ⟨q, held, rfl, fun _ _ => rfl⟩, rfl, rfl, rfl⟩, fun b => (if_neg (by omega)).symm⟩
  | succ k ih =>
    have kept (l : Nat) (above : a < l) : LineKept n l s (rewriteLine slot n d a s) := lineKept_rewriteLine held die (by omega) above
    have first := swept_rewriteLine (n := n) (d := d) (l := a) held
    have moved : (q.move d (128 * a + 128)).bm.get d ≤ 128 * (a + 1 + 1) := (Tab.get_set_same q.bm d _).le.trans (by omega)
    have die' : d < (rewriteLine slot n d a s).mdPerPart := (mdPerPart_of_host first.host).symm ▸ die
    obtain ⟨t, run, swept, bytes⟩ := ih (a + 1) (rewriteLine slot n d a s) (slots_rewriteLine held) die' moved fun l after before =>
      (kept l (by omega)).good (good l (by omega) (by omega))
    refine ⟨t, ?_, first.trans (slots_rewriteLine held) swept, fun b => ?_⟩
    · rw [List.range'_succ, windowLines, good a (Nat.le_refl _) (by omega)]
      exact run
    · rw [bytes, hbm_rewriteLine]
      by_cases here : b / 128 = a
      · rw [if_neg (by omega), if_pos here, if_pos (by omega)]
      · rw [if_neg here]
        by_cases later : a + 1 ≤ b / 128 ∧ b / 128 < a + 1 + k
        · rw [if_pos later, if_pos (by omega), (kept _ (by omega)).plain rfl]
        · rw [if_neg later, if_neg (by omega)]

/-! ### A window step -/

theorem low_of_get {p q : Pass} (h : ∀ e, p.bm.get e = q.bm.get e) (k : Nat) : p.low k = q.low k := by
  simp only [Pass.low, h]

/-- The end of the 2 KiB window that an address lies in (R236). -/
def windowEnd (pa : Nat) : Nat := (pa / 2048 + 1) * 2048

/-- A line lies in the window of a die's boundary, from the boundary's own line on. -/
abbrev InWindowOf (pa l : Nat) : Prop := pa / 128 ≤ l ∧ l < pa / 128 + (windowEnd pa - pa) / 128

/-- The state in which a window step runs: what something outside has changed stands, and the die and the slot are noted (R237). -/
def windowBegun (slot : Fin 16) (d : Fin 4) (flips : List LineFlip) (ns : Word) (n : Nat) (s : State) : State :=
  let u := strikeLines n flips s
  { u with sweep := { u.sweep with
    turn := u.sweep.turn.set (n * u.mdPerPart + d.val) slot.val
    windowMax := if u.sweep.windowMax.toNat < ns.toNat then ns else u.sweep.windowMax } }

theorem slots_windowBegun (slot : Fin 16) (d : Fin 4) (flips : List LineFlip) (ns : Word) (n : Nat) (s : State) :
    (windowBegun slot d flips ns n s).sweep.slots = s.sweep.slots := by
  have slots := congrArg Sweep.slots (sweep_of_onlyPart (strikeLines_struck n flips s).1)
  exact slots

theorem hbm_windowBegun (slot : Fin 16) (d : Fin 4) (flips : List LineFlip) (ns : Word) (n : Nat) (s : State) :
    ((windowBegun slot d flips ns n s).part n).mem.hbm = (s.part n).mem.hbm := by
  obtain ⟨-, ext, struck⟩ := strikeLines_struck n flips s
  have hbm := congrArg (fun p : Part => p.mem.hbm) struck
  exact hbm

theorem swept_windowBegun {slot : Fin 16} {d : Fin 4} {flips : List LineFlip} {ns : Word} {n : Nat} {s : State} {q : Pass}
    (held : s.sweep.slots.get slot.val = some q) : Swept slot.val n d.val q s (windowBegun slot d flips ns n s) := by
  obtain ⟨only, ext, struck⟩ := strikeLines_struck n flips s
  have sweep := sweep_of_onlyPart only
  have slots : (strikeLines n flips s).sweep.slots.get slot.val = some q := sweep.symm ▸ held
  have done : (strikeLines n flips s).sweep.doneCnt = s.sweep.doneCnt := congrArg Sweep.doneCnt sweep
  have part : (windowBegun slot d flips ns n s).part n = { s.part n with prot := { (s.part n).prot with ext := ext } } := struck
  refine ⟨congrArg (fun t : State => { t with sweep := s.sweep }) only.1, done, ⟨q, slots, rfl, fun _ _ => rfl⟩, ?_, ?_⟩
  · rw [part]
  · rw [part]
    exact ⟨rfl, rfl⟩

/-- What becomes of the pass once the lines of its window are rewritten: the boundary moves on to the end of the window, the regions that every die
has passed take the new values, and a pass that every die has finished is over (R235, R236). -/
def windowClosed (slot n before : Nat) (q : Pass) (s : State) : State :=
  let u := finishRegions n q.kind q.skip (before / pageBytes) (min (q.low s.mdPerPart) ((q.last + 1) * pageBytes) / pageBytes) s
  if (q.last + 1) * pageBytes ≤ q.low s.mdPerPart then finishPass slot q u else u

section
variable {slot : Fin 16} {d : Fin 4} {flips : List LineFlip} {ns : Word} {s : State} {q : Pass} (held : s.sweep.slots.get slot.val = some q)
  (good : ∀ l, InWindowOf (q.bm.get d.val) l → (strikeLines q.part.val flips s).badOf q.part.val l = none) (die : d.val < s.mdPerPart)
include held good die

/-- The lines of the window that begins at a die's boundary are rewritten, as they were read (R236). -/
theorem windowLines_begun : ∃ t, windowLines slot.val q.part.val d.val
      ((List.range ((windowEnd (q.bm.get d.val) - q.bm.get d.val) / 128)).map (q.bm.get d.val / 128 + ·)) (windowBegun slot d flips ns q.part.val s) =
        (t, true) ∧ Swept slot.val q.part.val d.val q s t ∧
    ∀ b, (t.part q.part.val).mem.hbm.get b = if InWindowOf (q.bm.get d.val) (b / 128) then ((strikeLines q.part.val flips s).plain q.part.val).get b
      else (s.part q.part.val).mem.hbm.get b := by
  have begun := swept_windowBegun (flips := flips) (ns := ns) (n := q.part.val) (d := d) held
  have lines := List.range'_eq_map_range (s := q.bm.get d.val / 128) (n := (windowEnd (q.bm.get d.val) - q.bm.get d.val) / 128)
  have held' : (windowBegun slot d flips ns q.part.val s).sweep.slots.get slot.val = some q := by rw [slots_windowBegun, held]
  obtain ⟨t, run, swept, bytes⟩ := windowLines_sweeps _ (q.bm.get d.val / 128) _ held' (mdPerPart_of_host begun.host ▸ die) (by omega)
    fun l from_ before => good l ⟨from_, before⟩
  refine ⟨t, lines ▸ run, begun.trans held' swept, fun b => ?_⟩
  rw [bytes, hbm_windowBegun]
  rfl

/-- A window step whose lines pass their checks moves the die's boundary on to the end of the window, and closes the window there (R236). -/
theorem sweepWindowStep_run (service : s.inService = true) (runs : (s.part q.part.val).prot.halted = false)
    (going : d.val ∉ q.stopped) (inside : q.bm.get d.val < (q.last + 1) * pageBytes)
    (turn : passTurn s (q.part.val * s.mdPerPart + d.val) slot.val = true) :
    ∃ t r, exec (.sweepWindowStep slot d flips ns) s = .next (windowClosed slot.val q.part.val (q.low (strikeLines q.part.val flips s).mdPerPart) r t) ∧
      Swept slot.val q.part.val d.val q s t ∧ t.sweep.slots.get slot.val = some r ∧
      r.bm.get d.val = boundaryFrom s q.skip d.val (windowEnd (q.bm.get d.val)) ∧
      ∀ b, (t.part q.part.val).mem.hbm.get b = if InWindowOf (q.bm.get d.val) (b / 128) then ((strikeLines q.part.val flips s).plain q.part.val).get b
        else (s.part q.part.val).mem.hbm.get b := by
  obtain ⟨t, run, swept, bytes⟩ := windowLines_begun (ns := ns) held good die
  obtain ⟨r, at_, same, -⟩ := swept.pass
  have last := congrArg Pass.last same
  have far : boundaryFrom t q.skip d.val (windowEnd (q.bm.get d.val)) = boundaryFrom s q.skip d.val (windowEnd (q.bm.get d.val)) :=
    boundaryFrom_of_host swept.host ..
  have goes : (!s.inService || (s.part q.part.val).prot.halted || decide (s.mdPerPart ≤ d.val) || decide (d.val ∈ q.stopped) ||
      decide ((q.last + 1) * pageBytes ≤ q.bm.get d.val) || !passTurn s (q.part.val * s.mdPerPart + d.val) slot.val) = false := by
    simp [service, runs, going, turn, not_le.2 die, not_le.2 inside]
  refine ⟨setBm slot.val d.val (boundaryFrom t q.skip d.val (windowEnd (q.bm.get d.val))) t, _, ?_, swept.trans at_ (swept_setBm at_ _),
    slots_setBm_same at_ .., far ▸ Tab.get_set_same .., bytes⟩
  rw [exec_sweepWindowStep, execSweepWindowStep, held]
  simp only [goes, Bool.false_eq_true, if_false]
  rw [windowBegun, windowEnd] at run
  simp only [run, slots_setBm_same at_]
  rw [← last]
  rfl

end

/-! ### The end of a window -/

theorem mem_finishRegions (n : Nat) (kind : PassKind) (skip : List Nat) (lo hi : Nat) (s : State) :
    ((finishRegions n kind skip lo hi s).part n).mem = (s.part n).mem := by
  rw [finishRegions, part_modPart_same]

theorem keys_finishRegions (n : Nat) (kind : PassKind) (skip : List Nat) (lo hi : Nat) (s : State) :
    ((finishRegions n kind skip lo hi s).part n).prot.kgen = (s.part n).prot.kgen ∧
      ((finishRegions n kind skip lo hi s).part n).prot.mgen = (s.part n).prot.mgen := by
  rw [finishRegions, part_modPart_same]
  exact ⟨rfl, rfl⟩

theorem finishPass_sweep (slot : Nat) (q : Pass) (s : State) :
    (finishPass slot q s).sweep = { s.sweep with slots := s.sweep.slots.set slot none, doneCnt := satAdd s.sweep.doneCnt 1 } := by
  rw [finishPass, passDone, hostRecord_sweep]
  split
  · rfl
  · rfl

/-- A KEY pass that is over destroys the old generation (R236). -/
theorem finishPass_key {slot : Nat} {q : Pass} (key : q.kind = .key) (s : State) :
    ((finishPass slot q s).part q.part.val).prot =
      { (s.part q.part.val).prot with kgen := !(s.part q.part.val).prot.kgen, mgen := (s.part q.part.val).prot.mgen + 1, nextKeys := false } := by
  rw [finishPass, passDone, hostRecord_part, if_pos key]
  exact congrArg Part.prot (part_modPart_same ..)

section
variable {slot n : Nat} {t : State} {r : Pass} (before : Nat)

/-- A pass that goes on after a window holds its slot. -/
theorem windowClosed_on (short : r.low t.mdPerPart < (r.last + 1) * pageBytes) :
    (windowClosed slot n before r t).sweep = t.sweep ∧ ((windowClosed slot n before r t).part n).mem = (t.part n).mem := by
  rw [windowClosed, if_neg (not_le.2 short)]
  exact ⟨rfl, mem_finishRegions ..⟩

/-- A pass that every die has finished leaves its slot, and is counted; a KEY pass destroys the old generation (R236). -/
theorem windowClosed_over (past : (r.last + 1) * pageBytes ≤ r.low t.mdPerPart) :
    (windowClosed slot r.part.val before r t).sweep.slots.get slot = none ∧
      (windowClosed slot r.part.val before r t).sweep.doneCnt = satAdd t.sweep.doneCnt 1 ∧
      (r.kind = .key → ((windowClosed slot r.part.val before r t).part r.part.val).prot.kgen = !(t.part r.part.val).prot.kgen ∧
        ((windowClosed slot r.part.val before r t).part r.part.val).prot.mgen = (t.part r.part.val).prot.mgen + 1 ∧
        ((windowClosed slot r.part.val before r t).part r.part.val).prot.nextKeys = false) := by
  rw [windowClosed, if_pos past, finishPass_sweep]
  refine ⟨Tab.get_set_same .., rfl, fun key => ?_⟩
  obtain ⟨kgen, mgen⟩ := keys_finishRegions r.part.val r.kind r.skip (before / pageBytes)
    (min (r.low t.mdPerPart) ((r.last + 1) * pageBytes) / pageBytes) t
  rw [finishPass_key key, kgen, mgen]
  exact ⟨rfl, rfl, rfl⟩

end

/-! ### A window step, as a whole -/

section
variable {slot : Fin 16} {d : Fin 4} {flips : List LineFlip} {ns : Word} {s : State} {q : Pass}

/-- The pass as it stands when a window has moved its die's boundary to `far`. -/
theorem Swept.pass_moved {n far : Nat} {t : State} {r : Pass} (swept : Swept slot.val n d.val q s t) (at_ : t.sweep.slots.get slot.val = some r)
    (reached : r.bm.get d.val = far) : { r with bm := q.bm } = q ∧ (∀ e, r.bm.get e = (q.bm.set d.val far).get e) ∧
      r.low t.mdPerPart = ({ q with bm := q.bm.set d.val far } : Pass).low s.mdPerPart := by
  obtain ⟨r', at', same, others⟩ := swept.pass
  cases Option.some.inj (at_.symm.trans at')
  have moved (e : Nat) : r.bm.get e = (q.bm.set d.val far).get e := by
    by_cases own : e = d.val
    · rw [own, reached, Tab.get_set_same]
    · rw [others e own, Tab.get_set_ne _ _ (Ne.symm own)]
  exact ⟨same, moved, mdPerPart_of_host swept.host ▸ low_of_get moved _⟩

variable (held : s.sweep.slots.get slot.val = some q)
  (good : ∀ l, InWindowOf (q.bm.get d.val) l → (strikeLines q.part.val flips s).badOf q.part.val l = none) (die : d.val < s.mdPerPart)
  (service : s.inService = true) (runs : (s.part q.part.val).prot.halted = false) (going : d.val ∉ q.stopped)
  (inside : q.bm.get d.val < (q.last + 1) * pageBytes) (turn : passTurn s (q.part.val * s.mdPerPart + d.val) slot.val = true)
include held good die service runs going inside turn

theorem sweepWindowStep_moves
    (short : (q.move d.val (boundaryFrom s q.skip d.val (windowEnd (q.bm.get d.val)))).low s.mdPerPart < (q.last + 1) * pageBytes) :
    ∃ t q', exec (.sweepWindowStep slot d flips ns) s = .next t ∧ t.sweep.slots.get slot.val = some q' ∧ { q' with bm := q.bm } = q ∧
      (∀ e, q'.bm.get e = (q.move d.val (boundaryFrom s q.skip d.val (windowEnd (q.bm.get d.val)))).bm.get e) ∧
      { (t.part q.part.val).mem with hbm := (s.part q.part.val).mem.hbm } = (s.part q.part.val).mem ∧
      ∀ b, (InWindowOf (q.bm.get d.val) (b / 128) →
          (t.part q.part.val).mem.hbm.get b = ((strikeLines q.part.val flips s).plain q.part.val).get b) ∧
        (¬ InWindowOf (q.bm.get d.val) (b / 128) → (t.part q.part.val).mem.hbm.get b = (s.part q.part.val).mem.hbm.get b) := by
  obtain ⟨t, r, run, swept, at_, reached, bytes⟩ := sweepWindowStep_run (ns := ns) held good die service runs going inside turn
  obtain ⟨same, moved, low⟩ := swept.pass_moved at_ reached
  have last := congrArg Pass.last same
  dsimp only at last
  have short' : r.low t.mdPerPart < (r.last + 1) * pageBytes := by rw [low, last]; exact short
  obtain ⟨sweep, mem⟩ := windowClosed_on (slot := slot.val) (n := q.part.val) (q.low (strikeLines q.part.val flips s).mdPerPart) short'
  refine ⟨_, r, run, sweep ▸ at_, same, moved, mem ▸ swept.mem, fun b => ⟨fun within => ?_, fun beyond => ?_⟩⟩
  · rw [mem, bytes, if_pos within]
  · rw [mem, bytes, if_neg beyond]

theorem sweepWindowStep_ends
    (past : (q.last + 1) * pageBytes ≤ (q.move d.val (boundaryFrom s q.skip d.val (windowEnd (q.bm.get d.val)))).low s.mdPerPart) :
    ∃ t, exec (.sweepWindowStep slot d flips ns) s = .next t ∧ t.sweep.slots.get slot.val = none ∧
      t.sweep.doneCnt = satAdd s.sweep.doneCnt 1 ∧ (q.kind = .key → (t.part q.part.val).prot.kgen = !(s.part q.part.val).prot.kgen ∧
        (t.part q.part.val).prot.mgen = (s.part q.part.val).prot.mgen + 1 ∧ (t.part q.part.val).prot.nextKeys = false) := by
  obtain ⟨t, r, run, swept, at_, reached, -⟩ := sweepWindowStep_run (ns := ns) held good die service runs going inside turn
  obtain ⟨same, -, low⟩ := swept.pass_moved at_ reached
  have last := congrArg Pass.last same
  have part := congrArg Pass.part same
  have kind := congrArg Pass.kind same
  dsimp only at last part kind
  have past' : (r.last + 1) * pageBytes ≤ r.low t.mdPerPart := by rw [low, last]; exact past
  obtain ⟨free, done, destroys⟩ := windowClosed_over (slot := slot.val) (q.low (strikeLines q.part.val flips s).mdPerPart) past'
  rw [part] at free done destroys
  refine ⟨_, run, free, swept.done ▸ done, fun key => ?_⟩
  obtain ⟨kgen, mgen, next⟩ := destroys (kind.trans key)
  obtain ⟨kept, kept'⟩ := swept.keys
  exact ⟨kept ▸ kgen, kept' ▸ mgen, next⟩

end

end Sys2Proof.Machine
end

section
/-! O32: banked pages and the passes of the Sweep controller. -/

namespace Sys2Proof

open Machine

/-- Settles O32: a rule per operation. An unbank's threads go on one by one over the embers listed; a window step runs over its lines, each rewritten as
it was read, and what stands in place of a later line, and its checks, are as they were. -/
theorem bankingAndSweep : Obligations.BankingAndSweep := by
  intro n s
  refine ⟨fun page e slot f held busy loc written mapped => bankOutDone_banks held busy loc written mapped, ?_, ?_, ?_, ?_, ?_⟩
  case refine_1 =>
    intro page k rest f fs e queue pool held room service turn
    have run := unbankStart_starts queue pool held room service turn
    generalize started : s.modPart n.val (Part.startUnbank page f e rest) = u at run
    have part : u.part n.val = Part.startUnbank page f e rest (s.part n.val) := by rw [← started, part_modPart_same]
    refine ⟨poolEdge n.val false u, u, run, started ▸ onlyPart_mod .., (poolEdge_part ..).symm, ?_⟩
    rw [poolEdge_part, part]
    refine ⟨rfl, Tab.get_set_same .., Tab.get_set_same .., fun some_ => ?_, fun none_ => ?_⟩
    · exact poolEdge_of_room (part ▸ some_)
    · exact (poolEdge_of_empty (part ▸ none_)).trans (by rw [part]; rfl)
  case refine_2 =>
    intro page ns flips e f slot held busy loc room
    obtain ⟨ext, struck⟩ := strikeSectors_struck flips s
    have held' : ((strikeSectors flips s).part n.val).mem.pages.get page.toNat = some e := by rw [struck]; exact held
    obtain ⟨fresh, stored⟩ := unbankDone_run (ns := ns) (flips := flips) held busy loc room
    have returned (slot' : Nat) (bs : List Byte) : PageReturned n.val page.toNat f e bs s
        (unbanked n.val page.toNat f slot' ns bs (strikeSectors flips s)) := by
      have back := unbanked_returns (f := f) (slot := slot') (ns := ns) (bs := bs) held'
      rw [struck] at back ⊢
      exact back
    refine ⟨fun none_ => ⟨_, fresh none_, returned slot []⟩, fun m some_ map => ⟨fun good => ?_, fun x bad running => ?_⟩⟩
    · exact ⟨_, (stored m some_ map).trans (congrArg Host.Outcome.next (readSlots_good good)), returned ..⟩
    · have running' : ((strikeSectors flips s).part n.val).prot.halted = false := by rw [struck]; exact running
      exact ⟨_, (stored m some_ map).trans (congrArg Host.Outcome.next (readSlots_bad bad)), securityAlarm_latches 3 x none running'⟩
  case refine_3 =>
    intro keys room
    have left := Nat.zero_lt_of_lt room
    refine ⟨fun _ _ order inside apart fresh => sweepEpochRequest_takes keys room order inside apart fresh,
      fun idle next frames => sweepKeyRequest_takes keys room idle next frames,
      fun _ _ high usable apart unasked => rwcThreshold_settles left high usable apart unasked, fun f rest queued apart => ?_⟩
    obtain ⟨i, free⟩ := freePassSlot_isSome left
    exact ⟨_, sweepQueuedStart_starts queued apart free, rfl, startPass_takes rfl free⟩
  case refine_4 => exact fun keys _ _ order => sweepEpochRequest_refuses keys order
  case refine_5 =>
    rintro slot d flips ns q held rfl
    refine ⟨fun service runs good die going inside turn => ⟨fun short => ?_, fun past => ?_⟩, fun idle => ?_⟩
    · exact sweepWindowStep_moves held good die service runs going inside turn short
    · exact sweepWindowStep_ends held good die service runs going inside turn past
    · refine ⟨_, _, sweepResume_resumes held idle, Tab.get_set_same .., fun still => ?_, rfl, rfl⟩
      exact absurd rfl (of_decide_eq_true (List.mem_filter.1 still).2)

end Sys2Proof
end
